-- ==== Sys2Proof/Word.lean ====
section
/-! DEFINITION. The word and byte types and their plainest arithmetic. -/

namespace Sys2Proof

/-- A 64-bit word (00: words, registers and memory are little-endian). -/
abbrev Word := BitVec 64

/-- A byte. -/
abbrev Byte := BitVec 8

/-- Bits [lo + n - 1 : lo] of a number. -/
def field (v lo n : Nat) : Nat := v / 2 ^ lo % 2 ^ n

/-- Is bit i of a number 1? -/
def bitOf (v i : Nat) : Bool := v / 2 ^ i % 2 == 1

end Sys2Proof
end

