-- ==== Sys2Proof/Config.lean ====
section
/-! DEFINITION. What the package fixes, and the free values of the model.
A free value is a constant without a body: no proof can see it, so a statement holds whatever it is. -/

namespace Sys2Proof.Config

/-- The populations of the package (00 R1, 05 R103 POP). -/
inductive Pop where
  | l | m | s
deriving DecidableEq, Repr, Inhabited

/-- Free words, one per count of State.free (log 2). -/
opaque freeWord : Nat → Nat

/-- Free choices between two outcomes the spec allows, one per count of State.free (log 2). -/
opaque freeBool : Nat → Bool

/-- Free bytes for messages whose content the spec does not give (log 2). -/
opaque freeBytes : Nat → List Byte

/-- The keyed function of 15 R296: key number, words of the area. -/
opaque keyedTag : Nat → List Word → Word

/-- The digest of the boot ROM and of the fuses that measurement M0 is extended with, by the fuses that the model holds (19 R341, R344). -/
opaque romDigest : List Byte → List Byte

/-- The set of the memory-side cache that a line maps to, by stack and line: the spec does not give it (10 R197, R203). -/
opaque cacheSet : Nat → Nat → Nat

/-- The bit of a mask that governs element i of an MXFP6 register beyond the mask's 1,024 bits: the spec does not give it
(06 R112); by mask value and element. -/
opaque maskTail : Nat → Nat → Bool

/-- What a BAR0 register of the host link is: the read index of an ASID's ring, a vector's mask, N, T or I, or plain storage (17 R322,
R326, R328). The spec gives BAR0 no layout. -/
inductive Bar0 where
  | ringRead (asid : Nat)
  | mask (v : Nat)
  | count (v : Nat)
  | time (v : Nat)
  | idle (v : Nat)
  | mailWord (i : Nat)
  | mailDoorbell
  | queueDoorbell (q : Nat)
  | other
deriving DecidableEq, Repr, Inhabited

/-- The register at an offset of BAR0 (17 R322). -/
opaque bar0 : Nat → Bar0

/-- What the spec leaves open of the CRC-32 of polynomial 0x04C11DB7 (17 R317, R330): its first value, the value that is XORed at the end,
and whether bits are taken from the lowest of each byte. -/
opaque crcInit : BitVec 32
opaque crcOut : BitVec 32
opaque crcLow : Bool

/-- The port of a stream's messages among the live ports, by destination and stream, and that of a message on no stream, by its SEQ: the
spec gives neither function (17 R332). -/
opaque streamPort : List Nat → Nat → Nat → Nat
opaque spreadPort : List Nat → Nat → Nat

/-- OPEN flits that a source sends for a transfer, by its sequence number: how a transfer is cut into contexts is not given
(17 R319, R320). -/
opaque openFlits : Nat → Nat

/-- The die that keeps the errors of a die-to-die link, and the lane of the link: which dies are joined is not architectural (17 R317). -/
opaque linkDie : Nat → Nat
opaque linkLane : Nat → Nat

/-- Codes of records whose encoding the spec does not give (19 R351): a unit by its kind and numbers, an action by its kind, a life-cycle
change by its states, a reset by its kind. -/
opaque unitCode : List Nat → Nat
opaque actionCode : Nat → Nat
opaque lifeWord : Nat → Nat → Nat
opaque resetWord : Bool → Nat

/-- The firmware key that the Geode uses in boot step 2: the spec does not say where it stands (19 R341). -/
opaque bootKey : List Byte

/-- SHAKE256 digests of the keys that sign life-cycle moves: false Theok's, true the owner's (19 R342). -/
opaque lifeKey : Bool → List Byte

/-- Does a signed message order the move between two life-cycle states (19 R342)? -/
opaque lifeOrder : Nat → Nat → List Byte → Bool

/-- Is a program a Theok test program, by PROGID (19 R342)? -/
opaque theokProgram : Nat → Bool

/-- Spare rows of a stack (19 R353). -/
opaque spareRows : Nat → Nat

/-- 4 KiB granules of a DRAM row (19 R353). -/
opaque rowGranules : Nat

/-- Does a buffer, by handle, hold storage in a row of a stack: stack, row key, handle (10 R197; 19 R353)? -/
opaque rowHolds : Nat → Nat → Nat → Bool

/-- The row of a stack that a line lies in, as bank·2^20 + row: the base die chooses it (10 R197). -/
opaque dramRow : Nat → Nat → Nat

/-- Does a refresh of a stack, by its number, refresh a row (10 R206)? -/
opaque refreshes : Nat → Nat → Nat → Bool

/-- The clock of a SerDes island in MHz: R315 names line rates alone (17 R315; 22 R374). -/
opaque serdesClock : Nat → Nat

/-- The die class at a slot: 0 absent, 1 DM, 2 SP, 3 VE, 4 SO, 5 scheduler, 6 I/O, 7 HBM4E base die (05 R88). -/
def dieClass (pop : Pop) (d : Nat) : Nat :=
  if d < 12 then (match pop with | .l => 1 | _ => if d < 8 then 1 else 0)
  else if d < 16 then (match pop with | .l => 2 | .m => if d < 14 then 2 else 0 | .s => 0)
  else if d < 20 then (match pop with | .s => if d < 18 then 3 else 0 | _ => 3)
  else if d < 22 then (match pop with | .s => 0 | _ => 4)
  else if d = 24 then 5
  else if d = 25 ∨ d = 26 then 6
  else if 32 ≤ d ∧ d < 48 then
    (match pop with | .l => 7 | .m => if d < 44 then 7 else 0 | .s => if d < 40 then 7 else 0)
  else 0

/-- Cells offered to tile tasks on a die of a class (05 R88). -/
def cellsOf (cls : Nat) : Nat :=
  match cls with
  | 1 => 16 | 2 => 16 | 3 => 32 | 4 => 8 | _ => 0

/-- Scratchpad bytes of a cell of a class (05 R88). The service cells are given 4 MiB (log 13). -/
def padBytes (cls : Nat) : Nat :=
  match cls with
  | 1 => 4194304 | 2 => 3145728 | 3 => 2097152 | 4 => 4194304 | _ => 4194304

/-- The slot of the scheduler die (05 R88). -/
def schedDie : Nat := 24

/-- The cell number of every die's service cell (05 R89). -/
def serviceCell : Nat := 127

end Sys2Proof.Config
end

