-- ==== Sys2Proof/Machine/Store.lean ====
section
/-! DEFINITION. Finite maps and byte memories as plain sorted lists. -/

namespace Sys2Proof.Machine

/-- A finite map from numbers, keys rising. -/
abbrev KMap (α : Type) := List (Nat × α)

/-- The value at a key, if listed. -/
def kget? {α : Type} : KMap α → Nat → Option α
  | [], _ => none
  | (k, v) :: m, i => if k = i then some v else kget? m i

/-- The value at a key, or a default. -/
def kget {α : Type} (d : α) (m : KMap α) (i : Nat) : α := (kget? m i).getD d

/-- Set the value at a key. -/
def kset {α : Type} : KMap α → Nat → α → KMap α
  | [], i, v => [(i, v)]
  | (k, w) :: m, i, v =>
    if k = i then (i, v) :: m
    else if i < k then (i, v) :: (k, w) :: m
    else (k, w) :: kset m i v

/-- Remove a key. -/
def kdel {α : Type} (m : KMap α) (i : Nat) : KMap α := m.filter (fun e => e.1 != i)

/-- A byte memory: addresses rising, no listed byte 0; an unlisted byte reads 0. -/
abbrev Mem := List Host.Cell

/-- A byte as stored: the bits that the store writes, and whether it is poisoned. -/
structure WByte where
  m   : Byte := 0xFF
  v   : Byte
  bad : Bool := false
deriving DecidableEq, Repr, Inhabited

/-- Lay a store over a byte. -/
def WByte.over_ (w : WByte) (b : Byte) : Byte := (b &&& ~~~w.m) ||| (w.v &&& w.m)

/-- A later store over an earlier one of the same byte. -/
def WByte.join (old new : WByte) : WByte :=
  { m := old.m ||| new.m, v := (old.v &&& ~~~new.m) ||| (new.v &&& new.m), bad := old.bad || new.bad }

/-- The bytes below an address, and the rest. -/
def Mem.below (m : Mem) (a : Nat) : Mem := m.takeWhile (fun e => e.1 < a)

/-- The bytes at or above an address. -/
def Mem.above (m : Mem) (a : Nat) : Mem := m.dropWhile (fun e => e.1 < a)

/-- The byte at an address. -/
def Mem.byte (m : Mem) (a : Nat) : Byte := kget 0 m a

/-- The entries of consecutive bytes from an address, zeros left out. -/
def cellsOfBytes : Nat → List Byte → Mem
  | _, [] => []
  | a, b :: bs => if b = 0 then cellsOfBytes (a + 1) bs else (a, b) :: cellsOfBytes (a + 1) bs

/-- Read n bytes from a list of entries none of which lies below the address. -/
def takeBytes : Nat → Nat → Mem → List Byte
  | 0, _, _ => []
  | n + 1, a, [] => 0 :: takeBytes n (a + 1) []
  | n + 1, a, (b, v) :: m => if b = a then v :: takeBytes n (a + 1) m else 0 :: takeBytes n (a + 1) ((b, v) :: m)

/-- The n bytes from an address. -/
def Mem.read (m : Mem) (a n : Nat) : List Byte := takeBytes n a (m.above a)

/-- Write consecutive bytes from an address. -/
def Mem.write (m : Mem) (a : Nat) (bs : List Byte) : Mem :=
  m.below a ++ cellsOfBytes a bs ++ m.above (a + bs.length)

/-- Clear the n bytes from an address. -/
def Mem.clear (m : Mem) (a n : Nat) : Mem := m.below a ++ m.above (a + n)

/-- The entries of the n bytes from an address. -/
def Mem.part (m : Mem) (a n : Nat) : Mem := (m.above a).below (a + n)

/-- Put back entries of the n bytes from an address. -/
def Mem.putPart (m : Mem) (a n : Nat) (p : Mem) : Mem := m.below a ++ p ++ m.above (a + n)

/-- The canonical form: addresses strictly rising and no listed byte 0. -/
def Mem.wf : Mem → Bool
  | [] => true
  | [(_, v)] => v != 0
  | (a, v) :: (b, w) :: m => v != 0 && decide (a < b) && Mem.wf ((b, w) :: m)

/-- The value of bytes, little-endian (00). -/
def leNat : List Byte → Nat
  | [] => 0
  | b :: bs => b.toNat + 256 * leNat bs

/-- The n low bytes of a value, little-endian (00). -/
def leBytes : Nat → Nat → List Byte
  | 0, _ => []
  | n + 1, v => BitVec.ofNat 8 v :: leBytes n (v / 256)

/-- Set the value at a key by its old value. -/
def kmod {α : Type} (m : KMap α) (i : Nat) (f : Option α → α) : KMap α := kset m i (f (kget? m i))

/-- Lay stores at consecutive addresses over a map of stores. -/
def kjoin (m : KMap WByte) : Nat → List WByte → KMap WByte
  | _, [] => m
  | a, w :: ws => kjoin (kmod m a (fun o => match o with | some x => x.join w | none => w)) (a + 1) ws

/-- Write stores at consecutive addresses. -/
def Mem.merge (m : Mem) (a : Nat) (ws : List WByte) : Mem :=
  m.write a (ws.zipWith WByte.over_ (m.read a ws.length))

/-- A set of numbers, rising. -/
abbrev NSet := List Nat

def nsHas (s : NSet) (i : Nat) : Bool := s.contains i

def nsAdd : NSet → Nat → NSet
  | [], i => [i]
  | k :: s, i => if k = i then k :: s else if i < k then i :: k :: s else k :: nsAdd s i

def nsDel (s : NSet) (i : Nat) : NSet := s.filter (fun k => k != i)

/-- The granules of 2^sh bytes that [a, a + n) touches. -/
def granules (sh a n : Nat) : List Nat :=
  if n = 0 then [] else (List.range ((a + n - 1) / 2 ^ sh - a / 2 ^ sh + 1)).map (a / 2 ^ sh + ·)

end Sys2Proof.Machine
end

