-- ==== Sys2Proof/Syntax.lean ====
section
/-! DEFINITION. The syntax: one constructor of Instr per row of spec/opcode_table.json.
Rows 0 to 296 are instructions with the fields of their format (03), rows 297 to 407 are events (95). -/

namespace Sys2Proof

/-- The three control cores of a cell (02). -/
inductive CoreIx where
  | e | v | x
deriving DecidableEq, Repr, Inhabited

/-- The two queued engines of a cell (05 R90). -/
inductive EngIx where
  | primary | transfer
deriving DecidableEq, Repr, Inhabited

/-- The guard of word 0: truth table and three names (03 R35). -/
structure Guard where
  tt : BitVec 8
  pa : BitVec 4
  pb : BitVec 4
  pc : BitVec 4
deriving DecidableEq, Repr, Inhabited

/-- The semaphore fields of word 1 (03 R38). -/
structure Eng where
  wsem : BitVec 5
  wcnt : BitVec 4
  ssem : BitVec 5
  scnt : BitVec 4
deriving DecidableEq, Repr, Inhabited

/-- Operand two of format S (03 R41). -/
inductive Op2 where
  | reg (s2 : BitVec 5) (w2 : Bool) (md : BitVec 16)
  | imm (v : BitVec 21)
  | win (w : BitVec 3) (o : BitVec 17)
deriving DecidableEq, Repr, Inhabited

/-- Format S (03 R41). -/
structure FmtS where
  g  : Guard
  d  : BitVec 5
  s1 : BitVec 5
  w1 : Bool
  b  : Op2
deriving DecidableEq, Repr, Inhabited

/-- The second operand of format C (03 R42). -/
inductive OpC where
  | reg (s2 : BitVec 5) (w2 : Bool)
  | imm (v : BitVec 16)
deriving DecidableEq, Repr, Inhabited

/-- Format C (03 R42). -/
structure FmtC where
  g    : Guard
  pd   : BitVec 4
  pe   : BitVec 4
  mode : BitVec 2
  s1   : BitVec 5
  w1   : Bool
  b    : OpC
deriving DecidableEq, Repr, Inhabited

/-- Format M (03 R43). -/
structure FmtM where
  g    : Guard
  data : BitVec 5
  a    : BitVec 4
  size : BitVec 3
  mode : BitVec 2
  w    : Bool
  off  : BitVec 20
deriving DecidableEq, Repr, Inhabited

/-- Format B, displacement layout (03 R44). -/
structure FmtBD where
  g    : Guard
  disp : BitVec 31
deriving DecidableEq, Repr, Inhabited

/-- Format B, register layout (03 R44). -/
structure FmtBR where
  g : Guard
  x : BitVec 5
  w : Bool
deriving DecidableEq, Repr, Inhabited

/-- Format B, loop layout (03 R44): n1 is n - 1, ii1 is ii - 1. -/
structure FmtBL where
  g     : Guard
  xtrip : BitVec 5
  w     : Bool
  n1    : BitVec 6
  ii1   : BitVec 6
deriving DecidableEq, Repr, Inhabited

/-- Format V (03 R45). -/
structure FmtV where
  g   : Guard
  d   : BitVec 6
  a   : BitVec 6
  b   : BitVec 6
  c   : BitVec 6
  rm  : BitVec 2
  sat : Bool
  sa  : Bool
  sb  : Bool
  sub : BitVec 6
deriving DecidableEq, Repr, Inhabited

/-- Format Y (03 R47). -/
structure FmtY where
  g   : Guard
  x   : BitVec 5
  a   : BitVec 4
  a2  : BitVec 4
  imm : BitVec 16
deriving DecidableEq, Repr, Inhabited

/-- The matrix products (08 R160). m1, n1, k1 are M - 1, N - 1, K - 1. -/
structure FmtP where
  g    : Guard
  td   : BitVec 3
  aa   : BitVec 4
  ab   : BitVec 4
  taga : BitVec 5
  tagb : BitVec 5
  sa   : Bool
  sb   : Bool
  ta   : Bool
  tb   : Bool
  z    : Bool
  q    : Eng
  m1   : BitVec 7
  n1   : BitVec 8
  k1   : BitVec 11
  ma   : BitVec 4
  mb   : BitVec 4
  gsa  : BitVec 2
  gsb  : BitVec 2
deriving DecidableEq, Repr, Inhabited

/-- The shape fields of a tile operation (08 R170): M - 1 and N - 1. -/
structure Shape where
  m1 : BitVec 7
  n1 : BitVec 8
deriving DecidableEq, Repr, Inhabited

/-- The sparse opcodes but SPCFG and SPSTAT (08 R178). -/
structure FmtSp where
  g  : Guard
  as : BitVec 4
  ax : BitVec 4
  ay : BitVec 4
  xt : BitVec 5
  sa : Bool
  sb : Bool
  aq : BitVec 4
  op : BitVec 4
  q  : Eng
  n1 : BitVec 16
deriving DecidableEq, Repr, Inhabited

/-- The sort opcodes but SRTCFG and SRTSTAT (08 R184). -/
structure FmtSo where
  g    : Guard
  ak   : BitVec 4
  av   : BitVec 4
  ao   : BitVec 4
  aw   : BitVec 4
  kt   : BitVec 5
  s    : Bool
  desc : Bool
  iota : Bool
  q    : Eng
  n1   : BitVec 16
  m1   : BitVec 16
  ak2  : BitVec 4
  av2  : BitVec 4
deriving DecidableEq, Repr, Inhabited

/-- The copy instructions of the transfer engine (11 R218). -/
structure FmtX where
  g    : Guard
  ad   : BitVec 4
  as   : BitVec 4
  at_  : BitVec 4
  etag : BitVec 5
  rm   : BitVec 2
  sat  : Bool
  op   : BitVec 3
  xs   : BitVec 5
  ch   : BitVec 4
  ss   : Bool
  sd   : Bool
  q    : Eng
  len1 : BitVec 22
  perm : BitVec 8
  arrv : BitVec 8
deriving DecidableEq, Repr, Inhabited

/-- The atomics (11 R231). -/
structure FmtA where
  g  : Guard
  xd : BitVec 5
  aa : BitVec 4
  xs : BitVec 5
  xt : BitVec 5
  sz : Bool
  s  : Bool
  q  : Eng
deriving DecidableEq, Repr, Inhabited

/-- The ASID and its generation that a mailbox request names in word 0 (17 R325). -/
structure Owner where
  asid : Nat
  gen : Nat
deriving DecidableEq, Repr, Inhabited

/-- A message of the Odsoga fabric: four header words and a payload (17 R330). -/
structure Msg where
  w0 : Word
  w1 : Word
  w2 : Word
  w3 : Word
  payload : List Byte
  trailer : Word := 0
deriving DecidableEq, Repr, Inhabited

/-- A stream flit of a die-to-die link (17 R318), as its 256 bytes. -/
abbrev Flit := List Byte

/-- A unit of which errors are counted (19 R353). -/
inductive ErrUnit where
  | subArray (k s : Nat)
  | hbmRow (stack bank row : Nat)
  | odsogaLane (port lane : Nat)
  | dieLane (die link lane : Nat)
  | cell (k : Nat)
deriving DecidableEq, Repr, Inhabited

/-- Storage that an uncorrectable error strikes (15 R292; 10 R208), or a unit whose error leaves no storage wrong (19 R353). -/
inductive ErrPlace where
  | xreg (k : Nat) (c : CoreIx) (j : Nat)
  | vseg (k : Nat) (unit v seg : Nat)
  | tileSeg (k t seg : Nat)
  | scratch (k granule : Nat)
  | icache (k : Nat) (c : CoreIx) (line : Nat)
  | control (k : Nat) (c : CoreIx) (code : Nat)
  | hbm (handle granule : Nat)
  | unit (u : ErrUnit)
deriving DecidableEq, Repr, Inhabited

/-- The group operations that meet across ranks (08 R166; 11 R234, R236). -/
inductive GroupKind where
  | mmac | phase | cbar
deriving DecidableEq, Repr, Inhabited

/-- Life-cycle states (19 R342). -/
inductive Life where
  | manufacture | provisioned | deployed | rma | decommissioned
deriving DecidableEq, Repr, Inhabited

/-- One constructor per row of the table, in the table's order. -/
inductive Instr where
  -- scalar (04)
  | nop (f : FmtS) | mov (f : FmtS) | movhi (f : FmtS)
  | add (f : FmtS) | sub (f : FmtS) | mul (f : FmtS) | mulh (f : FmtS) | mulhu (f : FmtS)
  | div (f : FmtS) | divu (f : FmtS) | rem (f : FmtS) | remu (f : FmtS)
  | min (f : FmtS) | max (f : FmtS) | minu (f : FmtS) | maxu (f : FmtS) | abs (f : FmtS)
  | and (f : FmtS) | or (f : FmtS) | xor (f : FmtS) | andn (f : FmtS) | orn (f : FmtS) | lut3 (f : FmtS)
  | shl (f : FmtS) | shr (f : FmtS) | sar (f : FmtS) | rol (f : FmtS) | fshl (f : FmtS) | fshr (f : FmtS)
  | clz (f : FmtS) | ctz (f : FmtS) | popc (f : FmtS) | sext (f : FmtS) | zext (f : FmtS)
  | bfx (f : FmtS) | bfxu (f : FmtS) | bfi (f : FmtS) | sel (f : FmtS)
  | cmpEq (f : FmtC) | cmpNe (f : FmtC) | cmpLt (f : FmtC) | cmpLe (f : FmtC) | cmpGt (f : FmtC) | cmpGe (f : FmtC)
  | cmpLtu (f : FmtC) | cmpLeu (f : FmtC) | cmpGtu (f : FmtC) | cmpGeu (f : FmtC) | tstZ (f : FmtC) | tstNz (f : FmtC)
  | plut (f : FmtS) | pget (f : FmtS) | pput (f : FmtS)
  | fadd (f : FmtS) | fsub (f : FmtS) | fmul (f : FmtS) | ffma (f : FmtS) | fmin (f : FmtS) | fmax (f : FmtS)
  | fcvtIf (f : FmtS) | fcvtFi (f : FmtS)
  | fcmpEq (f : FmtC) | fcmpLt (f : FmtC) | fcmpLe (f : FmtC) | fcmpUn (f : FmtC)
  | acap (f : FmtS) | amov (f : FmtS) | aset (f : FmtS) | aadd (f : FmtS) | anrw (f : FmtS) | aget (f : FmtS)
  | ld (f : FmtM) | ldu (f : FmtM) | st (f : FmtM) | lds (f : FmtM) | pchk (f : FmtS) | ldpf (f : FmtM)
  | br (f : FmtBD) | brx (f : FmtBR) | call (f : FmtBD) | ret (f : FmtBR) | mloop (f : FmtBL) | brlc (f : FmtBD)
  | rbset (f : FmtS) | semsig (f : FmtS) | semwait (f : FmtS) | semtry (f : FmtS)
  | mtxlock (f : FmtS) | mtxtry (f : FmtS) | mtxfree (f : FmtS)
  | xempty (f : FmtS) | xfullq (f : FmtS) | eqdrain (f : FmtS) | eqlevel (f : FmtS) | mfs (f : FmtS) | mts (f : FmtS)
  | cwbind (f : FmtS) | waitwp (f : FmtS) | done (f : FmtS) | pause (f : FmtS)
  -- vector (07)
  | vmov (f : FmtV) | vsplatV (f : FmtV) | vsplatSlot (f : FmtV) | vzero (f : FmtV) | vtag (f : FmtV)
  | vadd (f : FmtV) | vsub (f : FmtV) | vmul (f : FmtV) | vfma (f : FmtV) | vfms (f : FmtV) | vfnma (f : FmtV)
  | vdiv (f : FmtV) | vmin (f : FmtV) | vmax (f : FmtV) | vabs (f : FmtV) | vneg (f : FmtV) | vclamp (f : FmtV)
  | vsgn (f : FmtV) | vround (f : FmtV) | vrsq (f : FmtV) | vrcp (f : FmtV) | vexp2 (f : FmtV) | vlog2 (f : FmtV)
  | vactRelu (f : FmtV) | vactGelu (f : FmtV) | vactSilu (f : FmtV) | vactTanh (f : FmtV) | vactSigm (f : FmtV)
  | vdot4 (f : FmtV) | vand (f : FmtV) | vor (f : FmtV) | vxor (f : FmtV) | vlut3 (f : FmtV)
  | vshl (f : FmtV) | vshr (f : FmtV) | vsar (f : FmtV) | vfshl (f : FmtV) | vfshr (f : FmtV) | vpopc (f : FmtV) | vclz (f : FmtV)
  | vcmpEq (f : FmtV) | vcmpNe (f : FmtV) | vcmpLt (f : FmtV) | vcmpLe (f : FmtV) | vcmpGt (f : FmtV) | vcmpGe (f : FmtV)
  | vcmpUn (f : FmtV) | vclass (f : FmtV) | vsel (f : FmtV) | klut (f : FmtV) | ksetp (f : FmtV) | kpopc (f : FmtV) | kfirst (f : FmtV)
  | vcvt (f : FmtV) | vquant (f : FmtV) | vdequant (f : FmtV) | vmxpack (f : FmtV) | vmxunpk (f : FmtV)
  | vredAdd (f : FmtV) | vredMax (f : FmtV) | vredMin (f : FmtV) | vscanAdd (f : FmtV)
  | vperm (f : FmtV) | vrot (f : FmtV) | vzip (f : FmtV) | vunzip (f : FmtV) | vcompress (f : FmtV) | vexpand (f : FmtV)
  | vgetl (f : FmtV) | vsetl (f : FmtV) | vld (f : FmtV) | vlds (f : FmtV) | vldx (f : FmtV) | vldsp (f : FmtV)
  | vst (f : FmtV) | vsts (f : FmtV) | vstx (f : FmtV) | qcfg (f : FmtV) | qloop (f : FmtV) | qreset (f : FmtV) | vpchk (f : FmtV)
  -- matrix (08)
  | mma (f : FmtP) | mmaz (f : FmtP) | mmat (f : FmtP) | mmaq (f : FmtP) | mmamx (f : FmtP) | mmast (f : FmtP)
  | mmac (f : FmtP) | mmacz (f : FmtP)
  | tzero (g : Guard) (q : Eng) (td : BitVec 3) (tag : BitVec 5) (sh : Shape)
  | tload (g : Guard) (q : Eng) (td : BitVec 3) (as : BitVec 4) (tag : BitVec 5) (sa : Bool) (sh : Shape)
  | tstore (g : Guard) (q : Eng) (ts : BitVec 3) (ad : BitVec 4) (tag : BitVec 5) (rm : BitVec 2) (sh : Shape)
  | tstoreq (g : Guard) (q : Eng) (ts : BitVec 3) (ad : BitVec 4) (tag : BitVec 5) (rm : BitVec 2) (s : Bool) (sh : Shape) (am : BitVec 4) (gs : BitVec 2)
  | tstoremx (g : Guard) (q : Eng) (ts : BitVec 3) (ad : BitVec 4) (tag : BitVec 5) (rm : BitVec 2) (sh : Shape) (am : BitVec 4)
  | tbias (g : Guard) (q : Eng) (td : BitVec 3) (as : BitVec 4) (tag : BitVec 5) (sa : Bool) (sh : Shape)
  | tscale (g : Guard) (q : Eng) (td : BitVec 3) (ar : BitVec 4) (ac : BitVec 4) (tag : BitVec 5) (sh : Shape)
  | tact (g : Guard) (q : Eng) (td : BitVec 3) (fn : BitVec 3) (sh : Shape)
  | tredr (g : Guard) (q : Eng) (ts : BitVec 3) (ad : BitVec 4) (op : BitVec 2) (sh : Shape)
  | tredc (g : Guard) (q : Eng) (ts : BitVec 3) (ad : BitVec 4) (op : BitVec 2) (sh : Shape)
  | ttrans (g : Guard) (q : Eng) (td : BitVec 3) (ts : BitVec 3) (sh : Shape)
  | ttov (g : Guard) (q : Eng) (ts : BitVec 3) (v : BitVec 6) (row : BitVec 7) (cnt1 : BitVec 7)
  | tfromv (g : Guard) (q : Eng) (td : BitVec 3) (v : BitVec 6) (row : BitVec 7) (cnt1 : BitVec 7)
  | tclamp (g : Guard) (q : Eng) (td : BitVec 3) (xlo : BitVec 5) (xhi : BitVec 5) (sh : Shape)
  | mcast (g : Guard) (q : Eng) (ad : BitVec 4) (as : BitVec 4) (ranks : BitVec 4) (len1 : BitVec 22)
  | mcwait (g : Guard) (q : Eng) (rank : BitVec 2) (count : BitVec 16)
  | mcfgKset (g : Guard) (q : Eng) (kd : BitVec 4) (xs : BitVec 5)
  | mcfgKput (g : Guard) (q : Eng) (kd : BitVec 4) (xs : BitVec 5) (h : Bool)
  | mcfgKlut (g : Guard) (q : Eng) (kd : BitVec 4) (ka : BitVec 4) (kb : BitVec 4) (kc : BitVec 4) (tt : BitVec 8)
  | mtest (g : Guard) (q : Eng)
  | mstat (g : Guard) (q : Eng) (xd : BitVec 5) (sel : BitVec 3)
  | tcopy (g : Guard) (q : Eng) (td : BitVec 3) (ts : BitVec 3) (sh : Shape)
  -- sparse (08)
  | spmm (f : FmtSp) | spmmz (f : FmtSp) | spmmb (f : FmtSp) | spmv (f : FmtSp) | sddmm (f : FmtSp) | spgath (f : FmtSp)
  | spscat (f : FmtSp) | spseg (f : FmtSp) | spisect (f : FmtSp) | spunion (f : FmtSp) | spcsr (f : FmtSp) | spdense (f : FmtSp)
  | sptrans (f : FmtSp) | spcount (f : FmtSp) | spscan (f : FmtSp) | embag (f : FmtSp)
  | spcfg (g : Guard) (q : Eng) (item : BitVec 3) (xs : BitVec 5)
  | spstat (g : Guard) (q : Eng) (xd : BitVec 5) (sel : BitVec 3)
  -- sort (08)
  | sort (f : FmtSo) | sortkv (f : FmtSo) | topk (f : FmtSo) | topkv (f : FmtSo) | merge (f : FmtSo) | mergekv (f : FmtSo)
  | argsort (f : FmtSo) | kth (f : FmtSo) | unique (f : FmtSo) | partn (f : FmtSo) | histo (f : FmtSo) | search (f : FmtSo)
  | srtcfg (g : Guard) (q : Eng) (item : BitVec 3) (xs : BitVec 5)
  | srtstat (g : Guard) (q : Eng) (xd : BitVec 5) (sel : BitVec 3)
  -- transfer, atomic, phase, graph (11)
  | xcopy (f : FmtX) | xcopyw (f : FmtX) | xcopyc (f : FmtX) | xcopyh (f : FmtX) | xfill (f : FmtX) | xgath (f : FmtX)
  | xred (f : FmtX) | xconv (f : FmtX) | xlayout (f : FmtX) | xpush (f : FmtX) | xpull (f : FmtX)
  | xstream (g : Guard) (q : Eng) (k : BitVec 3) (ar : BitVec 4)
  | xstrend (g : Guard) (q : Eng) (k : BitVec 3)
  | xwptr (g : Guard) (q : Eng) (xd : BitVec 5) (c : BitVec 4)
  | xchan (g : Guard) (q : Eng) (c : BitVec 4) (ad : BitVec 4)
  | xchanClose (g : Guard) (q : Eng) (c : BitVec 4)
  | xabort (g : Guard) (q : Eng) (c : BitVec 4)
  | amoadd (f : FmtA) | amomax (f : FmtA) | amomin (f : FmtA) | amoand (f : FmtA) | amoor (f : FmtA) | amoxch (f : FmtA) | amocas (f : FmtA)
  | phase (g : Guard) (q : Eng) (scope : BitVec 2) (group : Bool)
  | fence (g : Guard) (q : Eng) (scope : BitVec 2)
  | cbar (g : Guard) (q : Eng)
  | balloc (g : Guard) (q : Eng) (xd : BitVec 5) (ad : BitVec 4) (slot : BitVec 4)
  | bref (g : Guard) (q : Eng) (as : BitVec 4)
  | bdrop (g : Guard) (q : Eng) (as : BitVec 4)
  | bxfer (g : Guard) (q : Eng) (as : BitVec 4) (xa : BitVec 5) (rights : BitVec 5)
  | gsubmit (g : Guard) (q : Eng) (xq : BitVec 5) (ar : BitVec 4)
  | gsignal (g : Guard) (q : Eng) (ab : BitVec 4) (n : BitVec 8)
  | gwait (g : Guard) (q : Eng) (xd : BitVec 5) (xq : BitVec 5)
  | arrwait (g : Guard) (q : Eng) (ab : BitVec 4) (xv : BitVec 5)
  | hnotify (g : Guard) (q : Eng) (xv : BitVec 5) (xp : BitVec 5)
  | xpend (g : Guard) (q : Eng) (xd : BitVec 5)
  -- system (15)
  | trap (f : FmtY) | eret (f : FmtY)
  | ecallTime (f : FmtY) | ecallErrorCount (f : FmtY) | ecallLocation (f : FmtY) | ecallDiscovery (f : FmtY) | ecallUnsupported (f : FmtY)
  | ctxsave (f : FmtY) | ctxload (f : FmtY) | leaseq (f : FmtY)
  | sechash (f : FmtY) | secver (f : FmtY) | secmeas (f : FmtY) | secatt (f : FmtY) | wdpet (f : FmtY) | bblog (f : FmtY)
  | fwslotCommit (f : FmtS)
  -- events of a cell (95)
  | longLatencyResult (k : Nat) (c : CoreIx) (i : Nat)
  | semGrant (k n : Nat)
  | mutexGrant (k m : Nat)
  | waitwpRelease (k : Nat) (c : CoreIx)
  | eqdrainRelease (k : Nat) (c : CoreIx)
  | pauseWake (k : Nat) (c : CoreIx)
  | pauseTimeout (k : Nat) (c : CoreIx)
  | queuePushResume (k : Nat) (c : CoreIx)
  | engineWaitGrant (k : Nat) (e : EngIx)
  | engineEntryStart (k : Nat) (e : EngIx)
  | engineEntryComplete (k : Nat) (e : EngIx)
  | farEndReply (k : Nat)
  | postedWriteLand (k i : Nat)
  | groupRendezvous (k : Nat) (kind : GroupKind)
  | mcastArrival (k : Nat)
  | mcwaitRelease (k : Nat)
  | selftestCount (k : Nat)
  | selftestTimer (k : Nat)
  | publicationComplete (k i : Nat)
  | launchBankSwap (k : Nat)
  | taskEndByFault (k : Nat)
  | preemptSwap (k : Nat)
  | taskResume (k : Nat)
  -- events of the scheduler
  | nodeAccept (i : Nat)
  | schedulerDecision
  | nodeRetire (n : Nat)
  | eventNodeSatisfied (n : Nat)
  | loopIteration (n : Nat)
  -- events of the host link
  | eventRecordWrite (asid : Nat)
  | msixFirstTimer (v : Nat)
  | msixIdleTimer (v : Nat)
  | msixUnmask (v : Nat)
  | hostRegisterWrite (addr : Nat) (val : Word)
  | hostWindowRead (w off len : Nat)
  | hostWindowWrite (w off : Nat) (data : List Byte)
  | atsInvalidation (pasid page : Nat)
  | atsInvalidationComplete (pasid page : Nat)
  | translationResponse (pasid page : Nat) (ok : Bool)
  | replayRelease (k : Nat)
  | hostPageRefused (k : Nat)
  -- die-to-die links
  | streamOpen (link : Nat) (f : Flit)
  | streamData (link : Nat) (f : Flit)
  | streamClose (link : Nat) (f : Flit)
  | credit (link : Nat) (f : Flit)
  | flitCrcReplay (link : Nat) (f : Flit)
  -- Odsoga messages received
  | pushData (m : Msg) | pushDone (m : Msg) | pushAck (m : Msg) | pullReq (m : Msg) | pullData (m : Msg) | pullDone (m : Msg)
  | epoch (m : Msg) | odsogaUnknownType (m : Msg)
  | moduleUnreachable (m : Nat)
  | odsogaLaneLoss (port : Nat)
  -- mailbox requests
  | asidCreate (asid gen ringBase ringK : Nat)
  | asidRetire (asid gen : Nat)
  | asidSweepComplete (asid : Nat)
  | bufAlloc (asid gen : Nat) (template : List Word)
  | bufDrop (asid gen handle : Nat)
  | map (w asid gen handle off : Nat) (rights : BitVec 5)
  | unmap (w : Nat)
  | sync (asid gen : Nat)
  | queueCfg (q : Nat) (w0 w1 : Word)
  | submit (q asid gen : Nat) (record : List Word)
  | quota (o : Owner) (granules : Nat)
  | remoteExport (asid gen handle base limit : Nat) (rights : BitVec 5)
  | remoteImport (asid gen target module epoch base limit : Nat) (rights : BitVec 5) (desc : List Word)
  | dieOffline (slot : Nat) (force : Bool)
  | dieOfflineComplete (slot : Nat)
  | evacuationComplete (slot : Nat)
  | dieOnline (slot : Nat)
  | readDesc (oh : Owner × Nat)
  | foxRead (q : Nat) (o : Owner)
  | mailboxUnknownCode (code : Nat)
  -- SPDM requests
  | getVersion (req : List Byte) | getCapabilities (req : List Byte) | negotiateAlgorithms (req : List Byte)
  | getDigests (req : List Byte) | getCertificate (req : List Byte) | challenge (req : List Byte)
  | getMeasurements (req : List Byte) (indices : List Nat) | spdmUnsupported (req : List Byte)
  -- management
  | lifecycle (target : Life) (message : List Byte) (signature : List Byte) (key : List Byte)
  | ringRead (die : Nat) | ringRelease (die : Nat) | islandRead (i : Nat) | pkgRead | pkgSet (w : Word)
  | limitSet (i mhz : Nat) | discRead (index : Nat) | reset (cold : Bool)
  | coldReset | warmReset | bootZeroFillDone
  -- timers, memory stacks, errors, power
  | watchdogExpiry (die : Nat) | heartbeatTimeout
  | refreshInterval (st : Nat) | refreshTakeover (st : Nat) | rowActivationThreshold (st bank row : Nat) | rfmHoldEnd (st bank : Nat)
  | correctableError (u : ErrUnit) | uncorrectableError (p : ErrPlace)
  | dieFailure (slot : Nat)
  | powerCapTick (pavg : Nat) | thermalThrottle (i temp : Nat) | thermalRelease (i temp : Nat) | computeTrip (i temp : Nat) | islandTrip (i temp : Nat)
  | taskKilled (k : Nat)
  | moduleJoinsDomain
deriving DecidableEq, Repr, Inhabited

end Sys2Proof
end

