-- ==== Sys2Proof/Machine/State.lean ====
section
/-! DEFINITION. The state of the module as plain data, and the state after reset. -/

namespace Sys2Proof.Machine

/-! ## A control core (02) -/

/-- Why an X register is or is not full: full, empty behind a load or another long-latency result (02 R15),
empty behind an entry of the core's queued engine (15 R294 XQWAIT), or awaiting (04 R78). -/
inductive Fill where
  | full | load | entry | awaiting
deriving DecidableEq, Repr, Inhabited

/-- An X register (02 R14, R16). -/
structure XReg where
  val    : Word := 0
  poison : Bool := false
  fill   : Fill := .full
deriving DecidableEq, Repr, Inhabited

/-- An A register (02 R17). -/
structure AReg where
  ptr    : Word := 0
  base   : Word := 0
  limit  : Word := 0
  bind   : BitVec 32 := 0
  kind   : BitVec 4 := 0
  rights : BitVec 5 := 0
deriving DecidableEq, Repr, Inhabited

/-- A constant window (02 R28): the binding with PTR at the window's start, and what its range has held since its snapshot,
oldest first, as bytes and flagged granules: for KIND 2 the snapshot alone. first numbers the oldest version among the core's. -/
structure Win where
  bound : Bool := false
  reg   : AReg := {}
  first : Nat := 0
  vers  : List (Mem × NSet) := []
deriving DecidableEq, Repr, Inhabited

/-- A position of the modulo sequencer (02 R26, R27): address of the MLOOP, n, ii, T, round and body position, and the
byte offset from the MLOOP of each body instruction and of the body's end. fresh tells that the round has issued nothing, so that its
write of P8 is still to come; undo holds the predicates and their live bits from before that write while its instruction issues (16 R311). -/
structure LoopPos where
  laddr : Word
  n     : Nat
  ii    : Nat
  trip  : Nat
  round : Nat
  p     : Nat
  offs  : List Nat := []
  fresh : Bool := false
  undo  : Option (BitVec 16 × BitVec 16) := none
deriving DecidableEq, Repr, Inhabited

/-- What a core that does not issue waits for (04 R86): an X register that it reads, one that it writes, a place in its engine's
queue, a semaphore, a mutex, a write pointer, its engine, a pause, or the long-latency results that a trap awaits (02 R33). -/
inductive Wait where
  | xreg (j : Nat)
  | xdest (j : Nat)
  | push
  | sem (n cnt : Nat)
  | mutex (m : Nat)
  | wp (c : Nat) (n : Word)
  | drain
  | pause (since changes fills : Nat)
  | trap (cause : Nat) (tval : Word)
  | parked
deriving DecidableEq, Repr, Inhabited

/-- Does the core issue? absent: the E and V cores of a service cell (05 R89). held: in reset (19 R341).
stopped: its task is ending (15 R289) or its cell holds no task. -/
inductive Run where
  | absent | held | running | blocked (w : Wait) | done | stopped
deriving DecidableEq, Repr, Inhabited

/-- A long-latency result on its way to a physical X register (02 R15). -/
structure Result where
  xd     : Nat
  val    : Word
  poison : Bool
deriving DecidableEq, Repr, Inhabited

/-- A control core (02 R14, R29). wcount numbers the latest version of its windows' ranges, wcur the oldest that a word may
still show (02 R28), and for a speculative run, under (h + 1) · 2^64, that a window has shown a word of buffer h (13 R275). -/
structure Core where
  x        : Vector XReg 32 := Vector.replicate 32 {}
  a        : Vector AReg 16 := Vector.replicate 16 {}
  p        : BitVec 16 := 0
  win      : Vector Win 8 := Vector.replicate 8 {}
  wcount   : Nat := 0
  wcur     : KMap Nat := []
  lc       : Word := 0
  rbase    : Word := 0
  status   : Word := 0
  epc      : Word := 0
  cause    : Word := 0
  tval     : Word := 0
  spillptr : Word := 0
  livep    : BitVec 16 := 0
  livek    : BitVec 16 := 0
  livev    : BitVec 48 := 0
  pc       : Word := 0
  h        : Bool := false
  loop     : Option LoopPos := none
  held     : Option LoopPos := none
  run      : Run := .held
  results  : List Result := []
  fills    : Nat := 0
deriving DecidableEq, Repr, Inhabited

/-! ## Semaphores, mutexes, engine queues (04, 05) -/

/-- A waiter of a semaphore (04 R76, 05 R95): a blocked core, or a queue entry. -/
inductive Who where
  | core (c : CoreIx)
  | entry (e : EngIx) (uid : Nat)
deriving DecidableEq, Repr, Inhabited

structure Waiter where
  who : Who
  cnt : Nat
deriving DecidableEq, Repr, Inhabited

/-- A semaphore with its credit (05 R94) and its waiters, oldest first. -/
structure Sem where
  val    : Nat := 0
  credit : Nat := 0
  queue  : List Waiter := []
deriving DecidableEq, Repr, Inhabited

/-- A mutex (04 R77). -/
structure Mutex where
  owner : Option CoreIx := none
  queue : List CoreIx := []
deriving DecidableEq, Repr, Inhabited

/-- Where a queue entry stands (05 R92, 11 R216): pushed; its wait granted; started and waiting for a far end;
executed and waiting to complete in queue order. -/
inductive Stage where
  | queued | granted | far | finished
deriving DecidableEq, Repr, Inhabited

/-- What a started entry still waits for (11 R216, R228, R236): nothing; its posted writes; an operation over the
fabric; the far end's reply; the scheduler's acceptance; a publication; a rendezvous of its group; its own PB (11 R236);
space in an event ring; the posted writes of earlier entries at a scope (11 R235); a translation (11 R225). -/
inductive Need where
  | none
  | posted
  | remote (op : Nat)
  | reply
  | accept
  | publish (phase : Nat) (op : Option Nat)
  | group (kind : GroupKind) (n : Nat)
  | pending
  | ring
  | drain (scope : Nat)
  | replay
  | mcwait
  | arrive
  | gwait
deriving DecidableEq, Repr, Inhabited

/-- What an entry of a transfer engine does (11), with the fields of its words: the copies and atomics with their opcode;
idle stands for an instruction that acted at its push and now only waits and signals. -/
inductive XOp where
  | copy (opc : Nat) (f : FmtX)
  | amo (opc : Nat) (f : FmtA)
  | xstream (k : Nat) (ar : BitVec 4)
  | xstrend (k : Nat)
  | xchan (c : Nat) (ad : BitVec 4)
  | xchanClose (c : Nat)
  | phase (scope : Nat) (group : Bool)
  | fence (scope : Nat)
  | cbar
  | balloc (ad : BitVec 4) (slot : Nat)
  | bref (as : BitVec 4)
  | bdrop (as : BitVec 4)
  | bxfer (as : BitVec 4) (rights : BitVec 5)
  | gsubmit (ar : BitVec 4)
  | gsignal (ab : BitVec 4) (n : Nat)
  | gwait
  | arrwait (ab : BitVec 4)
  | hnotify
  | idle
deriving DecidableEq, Repr, Inhabited

/-- What an entry of a queued engine does. -/
inductive QOp where
  | prim (i : Instr)
  | xfer (x : XOp)
deriving DecidableEq, Repr, Inhabited

/-- Buffer bytes that a transfer entry writes: they count as stored at its completion (11 R216). -/
structure Late where
  h    : Nat
  off  : Nat
  data : List WByte
deriving DecidableEq, Repr, Inhabited

/-- An element that a copy moves: its bit address on the source side, none for PAD, and on the destination side. -/
structure Mv where
  src : Option Nat
  dst : Nat
deriving DecidableEq, Repr, Inhabited

/-- An entry of an engine queue with the operands copied at its push (05 R92, 03 R37, 13 R260). dest is the
physical X register it will write. moves are the elements of width w that are still to be moved (11 R225, R228). -/
structure Entry where
  uid   : Nat
  op    : QOp
  q     : Eng := ⟨0, 0, 0, 0⟩
  a     : Vector AReg 16
  xs    : List Word := []
  rows  : BitVec 128 := 0
  sre   : Bool := false
  dest  : Option Nat := none
  stage : Stage := .queued
  need  : Need := .none
  res   : Word := 0
  resBad : Bool := false
  flags : Word := 0
  late  : List Late := []
  moves : List Mv := []
  w     : Nat := 8
deriving DecidableEq, Repr, Inhabited

/-- An engine queue: its entries, oldest first; the cause that stopped it and the entry that did (04 R80, 15 R290). -/
structure Engine where
  entries : List Entry := []
  stop    : Option Nat := none
  culprit : Option Nat := none
deriving DecidableEq, Repr, Inhabited

/-- A copy channel (11 R226, R227). -/
inductive ChanState where
  | closed | open_ | aborted
deriving DecidableEq, Repr, Inhabited

structure Chan where
  st   : ChanState := .closed
  bind : AReg := {}
  fo   : Nat := 0
  wp   : Nat := 0
deriving DecidableEq, Repr, Inhabited

/-- A stream (11 R230). -/
structure Strm where
  open_  : Bool := false
  module : Nat := 0
deriving DecidableEq, Repr, Inhabited

/-- One step of XRED (11 R222): the operation, the mode code, SAT, the tags and signs of source and destination. -/
structure Red where
  op   : Nat
  rm   : Nat
  sat  : Bool
  st   : Nat
  dt   : Nat
  ss   : Bool
  sd   : Bool
deriving DecidableEq, Repr, Inhabited

/-- Where a posted write goes (11 R216, R222): on chip, host memory, or an element of a buffer that XRED reduces. out is a write of
firmware into a cell of whose group it is no rank, which counts in no PB (11 R236). -/
inductive PostDst where
  | chip (addr : Nat)
  | out (addr : Nat)
  | host (pasid : Nat) (addr : Nat)
  | red (h : Nat) (off : Nat) (r : Red)
deriving DecidableEq, Repr, Inhabited

/-- The part of a channel that a posted write fills: the channel, the offset that stands after it, and whether it is the last
of its entry (11 R227). -/
structure ChanPart where
  c    : Nat
  upTo : Nat
  last : Bool
deriving DecidableEq, Repr, Inhabited

/-- The on-chip address of a posted write, if it has one. -/
def PostDst.chip? : PostDst → Option Nat
  | .chip a => some a
  | .out a => some a
  | _ => none

/-- A posted write that has not landed (11 R216): its bytes, its entry, its channel, and whether a host write stands in the replay
queue (11 R225). -/
structure Posted where
  dst   : PostDst
  data  : List WByte
  uid   : Nat := 0
  chan  : Option ChanPart := none
  mcast : Bool := false
  parked : Bool := false
deriving DecidableEq, Repr, Inhabited

/-! ## Vector units, primary engines (06, 07, 08) -/

/-- A level of a port (07 R150). -/
structure Level where
  count  : Nat := 0
  stride : Word := 0
  index  : Nat := 0
deriving DecidableEq, Repr, Inhabited

/-- A port Q0–Q7 (07 R150–R152): status 0 unbound, 1 active, 2 exhausted. -/
structure Port where
  bind   : AReg := {}
  base   : Word := 0
  tag    : BitVec 5 := 0
  status : Nat := 0
  levels : Vector Level 4 := Vector.replicate 4 {}
deriving DecidableEq, Repr, Inhabited

/-- A broadcast slot B0–B7 (07 intro). -/
structure Slot where
  val    : Word := 0
  tag    : BitVec 5 := 0
  poison : Bool := false
deriving DecidableEq, Repr, Inhabited

/-- Generators of stochastic rounding (06 R121): the seed last given, and the states that have advanced since. -/
structure Gens where
  seed : BitVec 32 := 0
  st   : KMap (BitVec 32) := []
deriving DecidableEq, Repr, Inhabited

/-- A vector unit but its register bytes, which lie in the on-chip map (10 R191). Sidecar byte b of Vv has key 256·v + b. -/
structure VUnit where
  tags  : Vector (BitVec 5) 48 := Vector.replicate 48 0
  gs    : Vector (BitVec 2) 48 := Vector.replicate 48 0
  side  : Mem := []
  k     : Vector (BitVec 1024) 16 := Vector.replicate 16 0
  ports : Vector Port 8 := Vector.replicate 8 {}
  slots : Vector Slot 8 := Vector.replicate 8 {}
  gens  : Gens := {}
deriving DecidableEq, Repr, Inhabited

/-- A matrix array but its tile words, which lie in the on-chip map (08 R158, R159, R168, R176, R177). -/
structure Mx where
  tags     : Vector (BitVec 5) 8 := Vector.replicate 8 0
  k        : Vector (BitVec 128) 16 := Vector.replicate 16 0
  gens     : Gens := {}
  reseeds  : List (Nat × BitVec 32) := []
  arr      : Vector Nat 4 := Vector.replicate 4 0
  sticky   : Bool := false
deriving DecidableEq, Repr, Inhabited

/-- Settings and counters of a sparse engine (08 R183). -/
structure Sp where
  ax : Word := 0
  ay : Word := 0
  aq : Word := 0
  nnz : Word := 0
  completed : Nat := 0
deriving DecidableEq, Repr, Inhabited

/-- Settings and counters of a sort engine (08 R187). -/
structure So where
  p0 : Word := 0
  p1 : Word := 0
  result : Word := 0
  completed : Nat := 0
deriving DecidableEq, Repr, Inhabited

/-! ## Tasks and cells (05, 10, 15) -/

/-- A mode of an access (13 R259): 0 R, 1 W, 2 RW, 3 ACC. -/
inductive AccMode where
  | r | w | rw | acc
deriving DecidableEq, Repr, Inhabited

/-- A lease entry (10 R201): a buffer range, or a host range (host = true, h is the PASID). -/
structure LeaseEnt where
  host : Bool := false
  h    : Nat
  lo   : Nat
  hi   : Nat
  mode : AccMode
deriving DecidableEq, Repr, Inhabited

/-- The task on a cell: its launch record (05 R97, R98; 268 words), its level, the lease of its node, the node, and the number of
its launch. -/
structure Task where
  record    : List Word := []
  level  : Nat := 3
  lease  : List LeaseEnt := []
  spec   : Bool := false
  node   : Nat := 0
  launch : Nat := 0
deriving DecidableEq, Repr, Inhabited

/-- A fault that is ending a task (15 R289). -/
structure Ending where
  core  : CoreIx
  cause : Nat
  tval  : Word
  epc   : Word
  eng   : Nat := 0
deriving DecidableEq, Repr, Inhabited

/-- A granule that a publication has not completed (10 R209): its key, the bytes stored, and whether it is poisoned, where
the phase's stores decide it. -/
structure PubGran where
  g     : Nat
  bytes : KMap WByte
  bad   : Option Bool
deriving DecidableEq, Repr, Inhabited

/-- A publication under way (10 R209): its phase, the granules not complete yet, the group operation it belongs to, and
whether it still waits for the group (11 R234). -/
structure Pub where
  phase    : Nat
  granules : List PubGran
  handles  : List Nat
  op       : Option Nat := none
  held     : Bool := false
deriving DecidableEq, Repr, Inhabited

/-- A node that a GSUBMIT entry of the cell placed: its queue, the entry, the node, and 1 + its status once it has retired
(11 R240; 13 R266). -/
structure Kid where
  q    : Nat
  uid  : Nat
  node : Nat
  done : Option Nat := none
deriving DecidableEq, Repr, Inhabited

/-- One record of a spill area (15 R300, 16 R309): its bank kind, index and granule, where its words were put
(carve-out or overflow), and the words. -/
structure Spill where
  kind   : Nat
  index  : Nat
  gran   : Nat := 0
  owner  : CoreIx
  inOver : Bool
  off    : Nat
  words  : List Word
deriving DecidableEq, Repr, Inhabited

/-- What a task keeps of spilling (15 R299 to R302): the records written for it; the banks spilled and not yet restored; the spans of its
cell's scratchpad that hold records or are lost to them; and, for a task launched beside a suspended one, the banks that it has
claimed. A bank is named by kind, index and granule (16 R309). -/
structure Spilling where
  dir   : List Spill := []
  taken : List (Nat × Nat × Nat) := []
  used  : List (Nat × Nat) := []
  mine  : Option (List (Nat × Nat × Nat)) := none
deriving DecidableEq, Repr, Inhabited

/-- The scalar, vector and shared state of a cell that a launch-bank swap replaces (05 R101, 15 R299). seen and seenBad are what atomics have
shown the cell since its snapshot (10 R212); readVers the VERSIONs that the snapshot of a speculative run holds of the buffers it may read
(13 R275). -/
structure Bank where
  e       : Core := {}
  v       : Core := {}
  x       : Core := {}
  sems    : Vector Sem 32 := Vector.replicate 32 {}
  mutexes : Vector Mutex 16 := Vector.replicate 16 {}
  prim    : Engine := {}
  xfer    : Engine := {}
  uid     : Nat := 0
  chans   : Vector Chan 16 := Vector.replicate 16 {}
  streams : Vector Strm 8 := Vector.replicate 8 {}
  pb      : Nat := 0
  vu      : VUnit := {}
  vu2     : VUnit := {}
  mx      : Mx := {}
  sp      : Sp := {}
  so      : So := {}
  task    : Option Task := none
  ending  : Option Ending := none
  phase   : Nat := 0
  snap    : Mem := []
  snapBad : NSet := []
  seen    : KMap WByte := []
  seenBad : NSet := []
  readVers : List (Nat × Nat) := []
  own     : KMap WByte := []
  ownBad  : KMap Bool := []
  dirty   : KMap WByte := []
  dirtyBad : KMap Bool := []
  amo     : KMap (List (List Byte)) := []
  pubs    : List Pub := []
  final   : Bool := false
  kids    : List Kid := []
  mmacs   : Nat := 0
  phases  : Nat := 0
  cbars   : Nat := 0
  mcasts  : Vector Nat 4 := Vector.replicate 4 0
  ctxKey  : Nat := 0
  touched : NSet := []
  spill   : Spilling := {}
  changes : Nat := 0
deriving DecidableEq, Repr, Inhabited

/-- A suspended task (15 R298 to R302): its state, its part of the on-chip map, and the nodes placed on the cell since (by acceptance
order). -/
structure Suspended where
  bank   : Bank
  mem    : Mem
  bad    : NSet
  later  : List Nat := []
deriving DecidableEq, Repr, Inhabited

/-- A cell (05 R88–R101). image is the handle, version and length of the image that its scratchpad still holds, lastImage the IMAGE of the
task that last came to run there (13 R267); part is what has passed of the present
cycle, in thousandths. -/
structure Cell where
  b       : Bank := {}
  posted  : List Posted := []
  active  : Bool := false
  shadow  : Option Task := none
  image   : Option (Nat × Nat × Nat) := none
  lastImage : Option Nat := none
  imem    : Mem := []
  cycle   : Nat := 0
  part    : Nat := 0
  errors  : Nat := 0
  since    : Nat := 0
  passed   : Nat := 0
  lastTest : Nat := 0
  fenceOut : Bool := false
  suspended : List Suspended := []
  preempt : Bool := false
  seqXfer : Nat := 0
  seqPrim : Nat := 0
deriving DecidableEq, Repr, Inhabited

/-- A cell whose boot has not happened: every core is held in reset (19 R341 step 1). -/
def Cell.reset : Cell := {}

/-! ## Buffers and memory stacks (10) -/

/-- STATE of a descriptor (10 R195). -/
inductive BufState where
  | free | live | lost | evacuating
deriving DecidableEq, Repr, Inhabited

/-- A buffer (10 R195), with ARRIVE (11 R239), the source of its last push (18 R337) and the mark of a first store (13 R276). toHomes are the
stacks that an evacuation has kept space on, zero where it is to stay (17 R334). -/
structure Buf where
  handle : Nat
  st     : BufState := .live
  tag    : BitVec 5
  gs     : BitVec 2 := 0
  ndim   : Nat
  layout : Nat
  shared : Bool
  tolerant : Bool := false
  subnan : Bool := false
  cpol   : Nat := 0
  dims   : Vector Nat 4
  pad    : Word := 0
  refcnt : Nat := 1
  version : Nat := 0
  homes  : BitVec 16 := 0
  toHomes : BitVec 16 := 0
  perm   : BitVec 8 := 0
  th     : Nat := 0
  tw     : Nat := 0
  companion : Nat := 0
  granules : Nat
  arrive : Nat := 0
  arriveSrc : Word := 0
  written : Bool := false
  shadowOf : Option Nat := none
deriving DecidableEq, Repr, Inhabited

/-- A line of the memory-side cache (10 R203–R205): its buffer line key and whether it is pinned. -/
structure Line where
  key    : Nat
  pinned : Bool := false
deriving DecidableEq, Repr, Inhabited

/-- A stack, its base die with its sequence number (17 R320), and its slice of the memory-side cache (10 R203–R208). A set's lines stand MRU first. acts and holds are by
row bank·2^20 + row and by bank; spares are the spare rows used and gone the granules withdrawn (19 R353). -/
structure Stack where
  sets      : KMap (List Line) := []
  gen       : BitVec 32 := 0x6D2B79F5
  sel       : KMap Nat := []
  acts      : KMap Nat := []
  holds     : KMap Nat := []
  mth       : Nat := 512
  backoff   : Nat := 0
  alerts    : Nat := 0
  refreshes : Nat := 0
  lastBeat  : Nat := 0
  beats     : Nat := 0
  lastRef   : Nat := 0
  takeover  : Bool := false
  subst     : Nat := 0
  spares    : Nat := 0
  gone      : Nat := 0
  seq       : Nat := 0
deriving DecidableEq, Repr, Inhabited

/-! ## Dies (05 R104, 19) -/

/-- A die's entry of the discovery table and its firmware state (05 R104; 19 R349, R351). ring holds the records by index. -/
structure Die where
  st      : Nat := 0
  sver    : Nat := 0
  fver    : Nat := 0
  avail   : BitVec 32 := 0
  fullw   : BitVec 32 := 0
  fence   : BitVec 128 := 0
  seq     : Nat := 0
  ring    : KMap (List Word) := []
  next    : Nat := 0
  wraps   : Nat := 0
  frozen  : Bool := false
  wdStart : Nat := 0
  wdLast  : Option Nat := none
  errs    : List (ErrUnit × Nat) := []
  faulty  : List ErrUnit := []
deriving DecidableEq, Repr, Inhabited

/-! ## The scheduler (13) -/

/-- A submission queue (13 R256, R257). -/
structure Queue where
  enable  : Bool := false
  specok  : Bool := false
  level   : Nat := 0
  tickets : Nat := 0
  gen     : Nat := 0
  asid    : Nat := 0
  hevt    : Nat := 0
  nextseq : Nat := 0
deriving DecidableEq, Repr, Inhabited

/-- States of a node (13 R262). -/
inductive NodeState where
  | waiting | ready | placed | running | suspended | retired
deriving DecidableEq, Repr, Inhabited

/-- A declared access as copied into a node (13 R259, R260). -/
structure Access where
  mode  : AccMode
  slot  : Nat
  cores : BitVec 3
  cap   : AReg
deriving DecidableEq, Repr, Inhabited

/-- An entry of the dependency table (13 R258 to R266). pred are the in-flight predecessors; gate the gating node and the arm on
which this node runs; arm the arm that a control node recorded; gated the nodes accepted behind its gate; cancel the status with
which it is to retire; tasks and launched count the tile tasks of the node; cells are those placed and not recorded done; shadows are
a speculative run's shadow handles with the access each stands for. -/
structure Node where
  q       : Nat
  seq     : Nat
  order   : Nat
  st      : NodeState := .waiting
  kind    : Nat
  record  : List Word
  accs    : List Access
  asid    : Nat
  gen     : Nat
  pred    : List Nat := []
  gate    : Option (Nat × Nat) := none
  gateOpen : Bool := true
  arm     : Option Nat := none
  iter    : Nat := 0
  gated   : Nat := 0
  cancel  : Option Nat := none
  tasks   : Nat := 1
  launched : Nat := 0
  cells   : List Nat := []
  faulted : Bool := false
  clamped : Bool := false
  cls     : Nat := 0
  lease   : List LeaseEnt := []
  spec    : Bool := false
  readset : List (Nat × Nat) := []
  shadows : List (Nat × Nat) := []
deriving DecidableEq, Repr, Inhabited

/-- An event record that waits for its ring (17 R326): its words without the phase bit, and the HNOTIFY entry that waits. -/
structure WaitRec where
  words : List Word
  src   : Option (Nat × Nat) := none
deriving DecidableEq, Repr, Inhabited

/-- An address space (13 R272, R277; 15 R303; 17 R326). -/
structure Asid where
  live     : Bool := false
  gen      : Nat := 0
  holdings : KMap (Nat × BitVec 5) := []
  quota    : Nat := 0
  used     : Nat := 0
  sweep    : Bool := false
  ringBase : Nat := 0
  ringK    : Nat := 0
  ringWr   : Nat := 0
  ringRd   : Nat := 0
  pass     : Bool := true
  waiting  : List WaitRec := []
  ctrs     : Vector Nat 8 := Vector.replicate 8 0
  lastFault : Nat := 0
deriving DecidableEq, Repr, Inhabited

/-- A Foxglove entry (13 R273), REC as slot, with the saved node record, its accesses and the descriptors of their buffers (13 R275). -/
structure FoxEnt where
  progid : Nat := 0
  prev   : Nat := 0
  valid  : Bool := false
  learned : Bool := false
  conf   : Nat := 0
  gsize  : Nat := 0
  cls    : Nat := 0
  age    : Nat := 0
  slot   : Nat := 0
  last   : List Word := []
  stride : List Word := []
  record    : List Word := []
  accs   : List Access := []
  descs  : List (Option Buf) := []
deriving DecidableEq, Repr, Inhabited

/-- Foxglove of one queue (13 R273–R281). -/
structure Fox where
  ents  : Vector FoxEnt 16 := Vector.replicate 16 {}
  prev  : Nat := 0
  run   : Option Nat := none
  since : Nat := 0
deriving DecidableEq, Repr, Inhabited

/-- A submission that waits for acceptance (13 R257): queue, submitter's ASID and generation, the record, the copied
A registers (empty for the host agent), the cell and entry that wait for it. -/
structure Submission where
  q    : Nat
  asid : Nat
  gen  : Nat
  record  : List Word
  regs : List AReg
  host : Bool
  cell : Nat := 0
  uid  : Nat := 0
deriving DecidableEq, Repr, Inhabited

/-- A fault record (15 R289). -/
structure FaultRec where
  cell  : Nat
  core  : CoreIx
  cause : Nat
  epc   : Word
  tval  : Word
  eng   : Nat
deriving DecidableEq, Repr, Inhabited

/-- The scheduler die's unit (13, 15 R289, R303). seq is the number of its messages and records, seqPlace that of the launch records that it
writes to other dies (17 R320), wlast the time at which it last wrote one (20 R354). bodies are the retired body nodes of loops in flight, by the loop's entry (13 R264). -/
structure Sched where
  queues   : KMap Queue := []
  nodes    : KMap Node := []
  bodies   : List (Nat × Node) := []
  order    : Nat := 0
  launches : Nat := 0
  subs     : List Submission := []
  lottery  : BitVec 32 := 0x6D2B79F5
  asids    : KMap Asid := []
  faults   : List FaultRec := []
  fox      : KMap Fox := []
  discVer  : Nat := 0
  seq      : Nat := 0
  wlast    : Option Nat := none
  seqPlace : Nat := 0
deriving DecidableEq, Repr, Inhabited

/-! ## The Geode and firmware slots (19) -/

/-- A slot's copy in the module's flash (19 R341, R348): its signed object as bytes. -/
structure FlashSlot where
  bytes : List Byte := []
deriving DecidableEq, Repr, Inhabited

structure Flash where
  boot : Bool := false
  a    : FlashSlot := {}
  b    : FlashSlot := {}
  others : KMap (List Byte) := []
deriving DecidableEq, Repr, Inhabited

/-- Stage of the boot sequence (19 R341): step 1 or 2, zero fill, running, or stopped in step 2. -/
inductive Boot where
  | held | fill | up | stuck | tripped
deriving DecidableEq, Repr, Inhabited

/-- FWSLOT, HOSEQ, measurements and the heartbeat timer (19 R344–R348). -/
structure Geode where
  verb    : Bool := false
  vera    : Bool := false
  rolled  : Bool := false
  pending : Bool := false
  stage   : Bool := false
  active  : Bool := false
  hoseq   : Word := 0
  meas    : Vector (List Byte) 32 := Vector.replicate 32 (List.replicate 64 0)
  sma     : List Byte := List.replicate 64 0
  smb     : List Byte := List.replicate 64 0
  beat    : Option Nat := none
  key     : List Byte := List.replicate 64 0
  life    : Life := .deployed
  theok   : Bool := false
  boot    : Boot := .held
deriving DecidableEq, Repr, Inhabited

/-! ## Host link and fabric (17) -/

/-- A window of BAR2 (17 R324). -/
structure Bar2 where
  asid   : Nat
  handle : Nat
  off    : Nat
  rights : BitVec 5
deriving DecidableEq, Repr, Inhabited

/-- A vector of MSI-X with its coalescing (17 R328). Times in ns of package time. -/
structure Msix where
  n      : Nat := 32
  t      : Nat := 64
  i      : Nat := 16
  pend   : Nat := 0
  first  : Nat := 0
  latest : Nat := 0
  masked : Bool := false
  held   : Bool := false
deriving DecidableEq, Repr, Inhabited

/-- A reply to the host, to management, or to an SPDM requester (17 R325, R327; 22 R378). -/
inductive Reply where
  | mailbox (code status : Nat) (words : List Word)
  | window (ok : Bool) (bytes : List Byte) (bad : Bool)
  | atsDone (pasid page : Nat)
  | spdm (bytes : List Byte)
  | mgmt (status : Nat) (words : List Word)
  | dropped (w off : Nat)
  | aer
deriving DecidableEq, Repr, Inhabited

/-- What the module sends outside (17 R328, R330). -/
inductive Sent where
  | msix (v : Nat)
  | msg (port : Nat) (m : Msg)
  | pageRequest (pasid page : Nat)
  | atsRequest (pasid page : Nat)
  | replayRequest (link lseq : Nat)
  | msgRetry (port : Nat)
deriving DecidableEq, Repr, Inhabited

/-- A host page an engine may use or must stop using (10 R201, 11 R225, 17 R323), with the ASIDs and generations whose leases it was
translated for (15 R303). -/
structure Trans where
  pasid : Nat
  page  : Nat
  valid : Bool := true
  inval : Bool := false
  tags  : List (Nat × Nat) := []
deriving DecidableEq, Repr, Inhabited

/-- An entry of the remote table (17 R331) with the descriptor copy (18 R335). -/
structure Remote where
  target : Nat
  module : Nat
  epoch  : Nat
  stale  : Bool := false
  rights : BitVec 5
  base   : Nat
  limit  : Nat
  desc   : List Word
deriving DecidableEq, Repr, Inhabited

/-- An export of a buffer range (17 R331). -/
structure Export where
  handle : Nat
  base   : Nat
  limit  : Nat
  rights : BitVec 5
deriving DecidableEq, Repr, Inhabited

/-- An operation this module started towards another (11 R228, R229): its number, its entry, the module and its epoch, the SEQ that
its status reports, the PULL_DONE messages still to come, the status so far, the PAD of its source, and the bytes pulled by image offset. -/
structure RemOp where
  opid   : Nat
  cell   : Nat
  uid    : Nat
  module : Nat
  epoch  : Nat
  push   : Bool
  seq    : Nat
  expect : Nat := 0
  status : Nat := 0
  pad    : Nat := 0
  got    : KMap Byte := []
deriving DecidableEq, Repr, Inhabited

/-- A push that arrives at this module (17 R332, R333): its data messages seen, whether a byte has landed, whether VERSION has risen
for it, whether it was refused or carries another epoch, and its PUSH_DONE. -/
structure InPush where
  src    : Nat
  opid   : Nat
  handle : Nat
  seen   : Nat := 0
  landed : Bool := false
  bumped : Bool := false
  refused : Bool := false
  stale  : Bool := false
  done   : Option Msg := none
deriving DecidableEq, Repr, Inhabited

/-- An open context of a link (17 R318, R319): its OPEN flit, the payload that has come, the payload that waits for contexts of the same
source which opened before it, and the status of its CLOSE. -/
structure Ctx where
  link   : Nat
  tag    : Nat
  header : List Byte
  got    : List (Nat × List Byte) := []
  wait   : List (Nat × List WByte) := []
  closed : Option Nat := none
deriving DecidableEq, Repr, Inhabited

/-- A die-to-die link (17 R317, R318); spares are the lanes remapped to a spare (19 R353). -/
structure Link where
  spares   : Nat := 0
  nextLseq : Nat := 0
  creq  : Nat := 0
  crsp  : Nat := 0
  crcBad : Nat := 0
deriving DecidableEq, Repr, Inhabited

structure Fabric where
  moduleId : Nat := 0
  epoch    : Nat := 1
  lanes    : KMap Nat := []
  known    : KMap Nat := []
  remote   : KMap Remote := []
  exports  : List Export := []
  ops      : List RemOp := []
  inp      : List InPush := []
  unknown  : Nat := 0
  ctxs     : List Ctx := []
  links    : KMap Link := []
  done     : List (Nat × List Byte × List (Nat × List Byte)) := []
deriving DecidableEq, Repr, Inhabited

/-- The host link: plain registers and the request block of BAR0, errors reported by AER, page requests outstanding and waiting, the
windows of BAR2, and what stands in the traffic with the host (17 R322 to R328). -/
structure HostLink where
  bar0    : KMap Word := []
  rung    : List (List Word) := []
  mail    : Vector Word 16 := Vector.replicate 16 0
  aer     : Nat := 0
  pri     : List (Nat × Nat) := []
  priWait : List (Nat × Nat) := []
  bar2    : KMap Bar2 := []
  writes  : List (Nat × Nat × List Byte) := []
  msix    : KMap Msix := []
  trans   : List Trans := []
  replies : List Reply := []
  sent    : List Sent := []
deriving DecidableEq, Repr, Inhabited

/-! ## Power (22) -/

/-- An island's readings and its limits in MHz (22 R374, R376, R377). -/
structure Island where
  temp  : Nat := 0
  power : Nat := 0
  vcur  : Nat := 0
  limMgmt  : Nat := 700
  limCap   : Nat := 700
  limTherm : Nat := 700
deriving DecidableEq, Repr, Inhabited

structure Power where
  islands : KMap Island := []
  plim    : Nat := 5000
  pavg    : Nat := 0
  tick    : Nat := 0
deriving DecidableEq, Repr, Inhabited

/-! ## The module -/

/-- A setting that firmware makes through a register to which the spec gives no place: a stack's MTH (10 R206), the seed of a slice's
generator (10 R203), the seed of the lottery (13 R268). -/
inductive Setting where
  | mth (st v : Nat)
  | slice (st : Nat) (seed : BitVec 32)
  | lottery (seed : BitVec 32)
deriving DecidableEq, Repr, Inhabited

/-- One move of one agent: a core issues an instruction, an event of the table comes about, or comes about for suspended task i of cell k,
package time passes, firmware makes a setting, or the boot sequence runs its steps 1 and 2 (log 1). -/
inductive Move where
  | issue (k : Nat) (c : CoreIx)
  | event (e : Instr)
  | behind (k i : Nat) (e : Instr)
  | elapse (ns : Nat)
  | setting (x : Setting)
  | boot
deriving DecidableEq, Repr, Inhabited

/-- A control core of the module: cell key die·128 + cell, and which of its three cores. -/
structure CoreRef where
  k : Nat
  c : CoreIx
deriving DecidableEq, Repr, Inhabited

/-- The state of the module. Cells are keyed die·128 + cell number; unlisted cells are Cell.reset.
mem holds Regions 0 to 3 and 7 of every cell by 48-bit on-chip address (10 R191); hbm holds image bytes by handle·2^64 + offset;
memBad and hbmBad are the 64-byte granules with an uncorrectable error or poison. -/
structure State where
  agenda  : List Move := []
  focus   : CoreRef := ⟨24 * 128 + 127, .x⟩
  free    : Nat := 0
  pop     : Config.Pop := .l
  time    : Nat := 0
  mem     : Mem := []
  memBad  : NSet := []
  hbm     : Mem := []
  hbmBad  : NSet := []
  hostMem : Mem := []
  bufs    : KMap Buf := []
  genOf   : KMap Nat := []
  hbmStacks : KMap Stack := []
  cells   : KMap Cell := []
  dies    : KMap Die := []
  sched   : Sched := {}
  geode   : Geode := {}
  flash   : Flash := {}
  fabric  : Fabric := {}
  host    : HostLink := {}
  power   : Power := {}
deriving DecidableEq, Repr, Inhabited

/-- The module just after a cold reset (19 R341 step 1, R343; 22 R379): every core held in reset, memory zero. -/
def State.reset : State := {}

/-- The reasons a run can stop. No meaning of this model ends in a fault: every trap is a next state (15 R287).
none_: raised by nothing; safe. -/
inductive Fault where
  /-- Raised by nothing: kept because the interface names a fault type. Safe. -/
  | none_
deriving DecidableEq, Repr, Inhabited

/-- Why an instruction has no meaning. -/
inductive Refusal where
  /-- Raised by an arm of Dispatch whose instruction has no meaning yet. Safe: the run stops. -/
  | notModelled (mnemonic : String)
deriving DecidableEq, Repr, Inhabited

end Sys2Proof.Machine
end

