-- ==== Sys2Proof/Machine/Base.lean ====
section
/-! DEFINITION. Access to the parts of the state: cells, cores, the on-chip map, buffers, leases, memory stacks. -/

namespace Sys2Proof.Machine

abbrev Out := Host.Outcome State Fault Refusal

/-- Bits [63:0] of an integer. -/
def w64 (i : Int) : Word := BitVec.ofInt 64 i

def wNat (n : Nat) : Word := BitVec.ofNat 64 n

/-- Element i of a vector, or a default. -/
def vget {α : Type} {n : Nat} (v : Vector α n) (i : Nat) (d : α) : α := (v[i]?).getD d

/-- Replace element i of a vector. -/
def vset {α : Type} {n : Nat} (v : Vector α n) (i : Nat) (a : α) : Vector α n := v.setIfInBounds i a

/-- Replace bit i. -/
def setBit {n : Nat} (v : BitVec n) (i : Nat) (b : Bool) : BitVec n :=
  if b then v ||| BitVec.ofNat n (2 ^ i) else v &&& ~~~BitVec.ofNat n (2 ^ i)

/-! ## Cells -/

def State.cell (s : State) (k : Nat) : Cell := kget Cell.reset s.cells k

def State.setCell (s : State) (k : Nat) (c : Cell) : State := { s with cells := kset s.cells k c }

def State.modCell (s : State) (k : Nat) (f : Cell → Cell) : State := s.setCell k (f (s.cell k))

def State.bank (s : State) (k : Nat) : Bank := (s.cell k).b

def State.setBank (s : State) (k : Nat) (b : Bank) : State := s.modCell k (fun c => { c with b := b })

def State.modBank (s : State) (k : Nat) (f : Bank → Bank) : State := s.setBank k (f (s.bank k))

def Bank.core (b : Bank) : CoreIx → Core
  | .e => b.e
  | .v => b.v
  | .x => b.x

def Bank.setCore (b : Bank) (c : CoreIx) (r : Core) : Bank :=
  match c with
  | .e => { b with e := r }
  | .v => { b with v := r }
  | .x => { b with x := r }

def State.core (s : State) (k : Nat) (c : CoreIx) : Core := (s.bank k).core c

def State.setCore (s : State) (k : Nat) (c : CoreIx) (r : Core) : State := s.setBank k ((s.bank k).setCore c r)

def State.modCore (s : State) (k : Nat) (c : CoreIx) (f : Core → Core) : State := s.setCore k c (f (s.core k c))

def Bank.engine (b : Bank) : EngIx → Engine
  | .primary => b.prim
  | .transfer => b.xfer

def Bank.setEngine (b : Bank) (e : EngIx) (r : Engine) : Bank :=
  match e with
  | .primary => { b with prim := r }
  | .transfer => { b with xfer := r }

/-- Take the next count of the free values (log 2). -/
def State.bump (s : State) : State := { s with free := s.free + 1 }

def State.die (s : State) (d : Nat) : Die := kget {} s.dies d

def State.modDie (s : State) (d : Nat) (f : Die → Die) : State := { s with dies := kset s.dies d (f (s.die d)) }

/-- The die class of a cell (05 R88). -/
def State.cls (s : State) (k : Nat) : Nat := Config.dieClass s.pop (k / 128)

/-- Is this the service cell of its die (05 R89)? -/
def isService (k : Nat) : Bool := k % 128 == 127

/-- Does STATUS.PRIV read 1 on this core (02 R30)? -/
def isPriv (k : Nat) (c : CoreIx) : Bool := isService k && c == .x

/-- The engine that a core owns, if it is a queued one (05 R90, 04 R79); a base die's core owns none (10 R207). -/
def engineOf (cls : Nat) (k : Nat) (c : CoreIx) : Option EngIx :=
  match c with
  | .x => if cls == 7 then none else some .transfer
  | .v => none
  | .e => if !isService k && (cls == 1 || cls == 2 || cls == 4) then some .primary else none

/-- The core that owns a queued engine. -/
def ownerOf : EngIx → CoreIx
  | .primary => .e
  | .transfer => .x

/-- Does the cell exist in this population (05 R88, R89)? -/
def State.cellExists (s : State) (k : Nat) : Bool :=
  if isService k then s.cls k != 0 else decide (k % 128 < Config.cellsOf (s.cls k))

/-! ## The on-chip map (10 R191) -/

/-- The on-chip address of an offset in a region of a cell. -/
def chipAddr (k region off : Nat) : Nat := k * 2 ^ 35 + region * 2 ^ 31 + off

def chipKey (a : Nat) : Nat := a / 2 ^ 35
def chipRegion (a : Nat) : Nat := a / 2 ^ 31 % 16
def chipOff (a : Nat) : Nat := a % 2 ^ 31

/-- Scratchpad bytes of a cell (05 R88; 19 R345). -/
def State.padSize (s : State) (k : Nat) : Nat := if isService k then 4194304 else Config.padBytes (s.cls k)

/-- Bytes of a region of a cell; 0 where it is absent (10 R191). -/
def State.extent (s : State) (k region : Nat) : Nat :=
  if !s.cellExists k then 0
  else match region with
    | 0 => s.padSize k
    | 1 => if s.cls k = 1 ∧ !isService k then 1048576 else 0
    | 2 => if isService k then 0 else 0xC000
    | 3 => if s.cls k = 3 ∧ !isService k then 0xC000 else 0
    | 4 => 0xC00
    | 6 => 0x140
    | 7 => 0x2008
    | _ => 0

/-- Does [a, a + n) lie within one region of one cell that exists? -/
def State.chipOk (s : State) (a n : Nat) : Bool :=
  decide (a < 2 ^ 48) && decide (chipOff a + n ≤ s.extent (chipKey a) (chipRegion a))

/-- Does [off, off + n) lie within the cell's own scratchpad? -/
def State.padOk (s : State) (k off n : Nat) : Bool := s.cellExists k && decide (off + n ≤ s.padSize k)

def State.chipBytes (s : State) (a n : Nat) : List Byte := s.mem.read a n

/-- Is a byte of [a, a + n) flagged uncorrectable (10 R208)? -/
def badIn (bad : NSet) (a n : Nat) : Bool := (granules 6 a n).any (nsHas bad)

/-- Clear the flag of each granule that [a, a + n) covers whole (10 R208). -/
def badCover (bad : NSet) (a n : Nat) : NSet :=
  bad.filter (fun g => !(decide (a ≤ g * 64) && decide (g * 64 + 64 ≤ a + n)))

/-- Set the flag of each granule that [a, a + n) touches. -/
def badMark (bad : NSet) (a n : Nat) : NSet := (granules 6 a n).foldl nsAdd bad

/-- Write bytes on chip. -/
def State.chipPut (s : State) (a : Nat) (bs : List Byte) : State :=
  { s with mem := s.mem.write a bs, memBad := badCover s.memBad a bs.length }

/-- Flag the granules of [a, a + n) on chip. -/
def State.chipMark (s : State) (a n : Nat) : State := { s with memBad := badMark s.memBad a n }

/-- The base of a cell's scratchpad. -/
def padBase (k : Nat) : Nat := chipAddr k 0 0

/-- Clear the mark zero-on-first-read of the 4 KiB granules of [off, off + n) of a scratchpad (05 R101). -/
def State.touch (s : State) (k off n : Nat) : State :=
  s.modBank k (fun b => { b with touched := (granules 12 off n).foldl nsAdd b.touched })

/-! ## Buffers (10 R194 to R200) -/

/-- The live descriptor of a handle: all 32 bits must match (10 R194). -/
def State.buf? (s : State) (h : Nat) : Option Buf :=
  match kget? s.bufs (h % 2 ^ 24) with
  | some b => if b.handle = h ∧ b.st ≠ .free then some b else none
  | none => none

def State.modBuf (s : State) (h : Nat) (f : Buf → Buf) : State :=
  match s.buf? h with
  | some b => { s with bufs := kset s.bufs (h % 2 ^ 24) (f b) }
  | none => s

/-- Key of an image byte of a buffer. -/
def bufKey (h off : Nat) : Nat := h * 2 ^ 64 + off

/-- Element width in bits of a tag; NONE counts as 32 (06 R116, 07 R130). -/
def tagBits (t : Nat) : Nat :=
  match t with
  | 2 => 16 | 3 => 16 | 4 => 8 | 5 => 8 | 7 => 16 | 8 => 8 | 9 => 4 | 10 => 8 | 11 => 8 | 12 => 6 | 13 => 6 | 14 => 4
  | 15 => 8 | 16 => 8 | 17 => 4 | 18 => 64 | _ => 32

/-- Bytes that n elements of w bits take, packed (06 R112). -/
def packedBytes (w n : Nat) : Nat := (n * w + 7) / 8

/-- Extent of dimension k. -/
def Buf.dim (b : Buf) (k : Nat) : Nat := vget b.dims k 1

/-- Number of elements. -/
def Buf.elems (b : Buf) : Nat := b.dim 0 * b.dim 1 * b.dim 2 * b.dim 3

/-- Image bytes (10 R196). -/
def Buf.bytes (b : Buf) : Nat := packedBytes (tagBits b.tag.toNat) b.elems

/-- The storage index of an image index under the buffer's layout (10 R197). -/
def Buf.storage (b : Buf) (n : Nat) : Nat :=
  let d0 := max (b.dim 0) 1
  let d1 := max (b.dim 1) 1
  let d2 := max (b.dim 2) 1
  let i0 := n % d0
  let i1 := n / d0 % d1
  let i2 := n / d0 / d1 % d2
  let i3 := n / d0 / d1 / d2
  match b.layout with
  | 1 =>
    let tw := 2 ^ b.tw
    let th := 2 ^ b.th
    let tile := ((i3 * d2 + i2) * (d1 / th) + i1 / th) * (d0 / tw) + i0 / tw
    tile * (th * tw) + i1 % th * tw + i0 % tw
  | 2 =>
    let coord := fun k => match k with | 0 => i0 | 1 => i1 | 2 => i2 | _ => i3
    let ds := (List.range (b.ndim + 1)).map (fun k => b.perm.toNat / 4 ^ k % 4)
    ds.foldr (fun d m => m * b.dim d + coord d) 0
  | _ => n

/-- The stack slots that HOMES names, ascending. -/
def Buf.homeList (b : Buf) : List Nat := (List.range 16).filter (fun i => b.homes.getLsbD i)

/-- The stack that holds an image byte (10 R197): 32 + s for the home of its 256-byte interleave unit. -/
def Buf.stackOf (b : Buf) (off : Nat) : Nat :=
  let w := tagBits b.tag.toNat
  let m := b.storage (off * 8 / w)
  let hs := b.homeList
  if hs = [] then 32 else 32 + (hs[m * w / 8 / 256 % hs.length]?).getD 0

/-- A canonical NaN pattern of a tag that has one (06 R110). -/
def tagNaN (t : Nat) : Option Nat :=
  match t with
  | 1 => some 0x7FC00000 | 2 => some 0x7FC0 | 3 => some 0x7E00 | 4 => some 0x7F | 5 => some 0x7E | _ => none

/-- What a TOLERANT buffer delivers in place of an uncorrectable granule: the canonical NaN in every element under
SUBNAN where the tag has one, else zero (10 R208). -/
def Buf.substByte (b : Buf) (off : Nat) : Byte :=
  match (if b.subnan then tagNaN b.tag.toNat else none) with
  | some p => BitVec.ofNat 8 (p / 2 ^ (8 * (off % (tagBits b.tag.toNat / 8))))
  | none => 0

/-- Lay stores over a run of bytes that starts at an address. -/
def overlay : Nat → List Byte → KMap WByte → List Byte
  | _, [], _ => []
  | a, b :: bs, [] => b :: overlay (a + 1) bs []
  | a, b :: bs, (i, v) :: m =>
    if i = a then v.over_ b :: overlay (a + 1) bs m else b :: overlay (a + 1) bs ((i, v) :: m)

/-- Entries of a map with keys in [a, a + n). -/
def kpart {α : Type} (m : KMap α) (a n : Nat) : KMap α :=
  (m.dropWhile (fun e => e.1 < a)).takeWhile (fun e => e.1 < a + n)

/-- Set consecutive keys to the elements of a list. -/
def kputAll {α : Type} (m : KMap α) (a : Nat) (l : List α) : KMap α :=
  m.takeWhile (fun e => e.1 < a) ++ (List.range l.length).zipWith (fun i v => (a + i, v)) l ++
    m.dropWhile (fun e => e.1 < a + l.length)

/-- Is granule g (64 bytes, by buffer key) uncorrectable to the cell (10 R208)? -/
def Bank.granBad (b : Bank) (g : Nat) : Bool := (kget? b.ownBad g).getD (nsHas b.seenBad g || nsHas b.snapBad g)

/-- The bytes of a cell's phase snapshot under what atomics have since shown it (10 R210, R212). -/
def Bank.homeBytes (b : Bank) (a n : Nat) : List Byte := overlay a (b.snap.read a n) (kpart b.seen a n)

/-- The image bytes [off, off + n) of a buffer as a cell reads them: its own latest store to each byte since launch, else
its phase snapshot (10 R210) under what atomics have since shown it (10 R212), with the substitution of a TOLERANT buffer (10 R208). -/
def State.bufBytes (s : State) (k h off n : Nat) : List Byte :=
  let b := s.bank k
  let a := bufKey h off
  let raw := overlay a (b.homeBytes a n) (kpart b.own a n)
  match s.buf? h with
  | some d =>
    if d.tolerant ∧ (granules 6 a n).any b.granBad then
      (List.range n).zipWith (fun i v => if b.granBad ((a + i) / 64) then d.substByte (off + i) else v) raw
    else raw
  | none => raw

/-- Does a read of [off, off + n) deliver poison (10 R208)? -/
def State.bufBad (s : State) (k h off n : Nat) : Bool :=
  (match s.buf? h with | some d => !d.tolerant | none => true) &&
    (granules 6 (bufKey h off) n).any (s.bank k).granBad

def State.stack (s : State) (i : Nat) : Stack := kget {} s.hbmStacks i

def State.modStack (s : State) (i : Nat) (f : Stack → Stack) : State :=
  { s with hbmStacks := kset s.hbmStacks i (f (s.stack i)) }

/-- Count one substitution for each granule of a list, by buffer key, at the stack that holds it (10 R208). -/
def State.countSubst (s : State) (d : Buf) (gs : List Nat) : State :=
  gs.foldl (fun s g => s.modStack (d.stackOf (g * 64 % 2 ^ 64)) (fun st => { st with subst := st.subst + 1 })) s

/-- Count the substitutions of a read of a TOLERANT buffer (10 R208). -/
def State.noteSubst (s : State) (k h off n : Nat) : State :=
  match s.buf? h with
  | some d => if d.tolerant then s.countSubst d ((granules 6 (bufKey h off) n).filter (s.bank k).granBad) else s
  | none => s

/-- The granules that stores at consecutive addresses cover whole. -/
def coverOf (a : Nat) (ws : List WByte) : List Nat :=
  (granules 6 a ws.length).filter (fun g => decide (a ≤ g * 64) && decide (g * 64 + 64 ≤ a + ws.length) &&
    ((ws.drop (g * 64 - a)).take 64).all (fun w => w.m == 0xFF))

/-- The granules of stores at consecutive addresses that receive a poisoned byte. -/
def badOf (a : Nat) (ws : List WByte) : List Nat :=
  (granules 6 a ws.length).filter (fun g => ((List.range 64).any (fun i =>
    decide (a ≤ g * 64 + i) && (match ws[g * 64 + i - a]? with | some w => w.bad | none => false))))

/-- Store image bytes from a cell: they stand in the cell's own stores until a publication (10 R209, R210). A store that
covers a granule clears its flag, a poisoned byte sets it (10 R208; 11 R224). -/
def State.bufPutW (s : State) (k h off : Nat) (ws : List WByte) : State :=
  let a := bufKey h off
  let mark := fun (m : KMap Bool) =>
    (badOf a ws).foldl (fun m g => kset m g true) ((coverOf a ws).foldl (fun m g => kset m g false) m)
  (s.modBank k (fun b => { b with
    own := kjoin b.own a ws
    ownBad := mark b.ownBad
    dirty := kjoin b.dirty a ws
    dirtyBad := mark b.dirtyBad })).modBuf h (fun d => { d with written := true })

/-- Store whole unpoisoned image bytes from a cell. -/
def State.bufPut (s : State) (k h off : Nat) (bs : List Byte) : State := s.bufPutW k h off (bs.map (fun b => { v := b }))

/-- Stores reach the home slices of a buffer: a publication, a push, a window write, an atomic (10 R208, R209, R212). -/
def State.homePut (s : State) (h off : Nat) (ws : List WByte) : State :=
  let a := bufKey h off
  { s with hbm := s.hbm.merge a ws
           hbmBad := (badOf a ws).foldl nsAdd ((coverOf a ws).foldl nsDel s.hbmBad) }

/-- The 8-byte words that [a, a + n) touches. -/
def words8 (a n : Nat) : List Nat := granules 3 a n

/-- Words that other parties' atomics have changed since the snapshot: a plain read of such a word returns the snapshot value
or one that the word held later, and no older one after it (10 R212). -/
def State.settle (s : State) (k h off n : Nat) : State :=
  (words8 (bufKey h off) n).foldl (fun s g =>
    match kget? (s.bank k).amo g with
    | some vs =>
      let i := Config.freeWord s.free % (vs.length + 1)
      let s := s.bump
      if i = 0 then s
      else s.modBank k (fun b => { b with seen := kjoin b.seen (8 * g) (((vs[i - 1]?).getD []).map (fun v => { v := v })), amo := kset b.amo g (vs.drop i) })
    | none => s) s

/-! ## Leases (10 R201, R202) -/

/-- The kinds of access a lease entry permits or not: a read, a write, an atomic or accumulating one. -/
inductive Use where
  | read | write | acc
deriving DecidableEq, Repr

def AccMode.permits : AccMode → Use → Bool
  | .r, .read => true
  | .w, .write => true
  | .rw, .read => true
  | .rw, .write => true
  | .acc, .read => true
  | .acc, .acc => true
  | _, _ => false

/-- Does an entry of the lease cover [lo, lo + n) and permit the use? -/
def leaseHas (l : List LeaseEnt) (host : Bool) (h lo n : Nat) (u : Use) : Bool :=
  l.any (fun e => e.host == host && e.h == h && decide (e.lo ≤ lo) && decide (lo + n ≤ e.hi) && e.mode.permits u)

/-- The lease of the task on a cell. -/
def Bank.lease (b : Bank) : List LeaseEnt := match b.task with | some t => t.lease | none => []

def Bank.spec (b : Bank) : Bool := match b.task with | some t => t.spec | none => false

/-- Word i of the running task's launch record (05 R97). -/
def Bank.recWord (b : Bank) (i : Nat) : Nat :=
  match b.task with
  | some t => ((t.record[i]?).getD 0).toNat
  | none => 0

/-- The first word of a core's section of the launch record (05 R97). -/
def secBase : CoreIx → Nat
  | .e => 4
  | .v => 92
  | .x => 180

def coreNum : CoreIx → Nat
  | .e => 0
  | .v => 1
  | .x => 2

/-- Word +i of a core's section. -/
def Bank.secWord (b : Bank) (c : CoreIx) (i : Nat) : Nat := b.recWord (secBase c + i)

def Bank.asid (b : Bank) : Nat := field (b.recWord 0) 0 12
def Bank.gen (b : Bank) : Nat := field (b.recWord 0) 12 4
def Bank.rank (b : Bank) : Nat := field (b.recWord 0) 16 2
def Bank.gsize (b : Bank) : Nat := field (b.recWord 0) 18 2 + 1
def Bank.progid (b : Bank) : Nat := field (b.recWord 1) 32 32

/-- The bits of word i of a launch record that are not reserved (05 R97, R98; 00 R4). -/
def recMask (i : Nat) : Word :=
  if i = 0 then 0x00001FFF000FFFFF
  else if i = 1 then 0xFFFFFFFF00000000
  else if i = 2 then 0xFFFFFFFF007FFFFF
  else if i = 3 then 1
  else if 268 ≤ i then 0
  else
    match (i - 4) % 88 with
    | 0 => 0x80000000FFFFFFF8
    | 1 => 0x80000000FFFFFFF8
    | 2 => 0x000000000FFFF000
    | 3 => 0x800000000000000F
    | 5 => 0x00FFFFFFFFFFFFFF
    | 22 => 0
    | 23 => 0
    | o => if 14 ≤ o ∧ o < 22 then 0x8F00FFFFFFFFFFFF else if 24 ≤ o ∧ (o - 24) % 4 = 3 then 0xFFFFFFFF00F0001F else -1

/-- A record without its reserved bits (00 R4). -/
def recClean (l : List Word) : List Word := (List.range l.length).zipWith (fun i w => w &&& recMask i) l

/-- The on-chip base of a launch bank of a cell: false bank 0, true bank 1 (05 R100). -/
def bankBase (k : Nat) (bank : Bool) : Nat := chipAddr k 7 (if bank then 0x1000 else 0)

/-- A launch bank no longer belongs to a task: its bytes stay, until the next record is written there (05 R100, R101). -/
def State.leaveBank (s : State) (k : Nat) (bank : Bool) (t : Task) : State :=
  s.chipPut (bankBase k bank) ((recClean t.record).flatMap (fun w => leBytes 8 w.toNat))

/-- The key of the cell of rank r of the group that the task on cell k belongs to (05 R109). -/
def State.rankCell (s : State) (k r : Nat) : Nat := k - (s.bank k).rank + r

/-- An A register from its four words (02 R17). -/
def aOfWords (w0 w1 w2 w3 : Nat) : AReg :=
  { ptr := wNat w0, base := wNat w1, limit := wNat w2, bind := BitVec.ofNat 32 (w3 / 2 ^ 32),
    kind := BitVec.ofNat 4 (w3 / 2 ^ 20), rights := BitVec.ofNat 5 w3 }

/-- Word 3 of an A register (02 R17). -/
def AReg.word3 (a : AReg) : Word := wNat (a.bind.toNat * 2 ^ 32 + a.kind.toNat * 2 ^ 20 + a.rights.toNat)

/-- The four words of an A register. -/
def AReg.words (a : AReg) : List Word := [a.ptr, a.base, a.limit, a.word3]

/-- Capability slot i of a core's section (05 R98), with PTR = BASE. -/
def Bank.slotCap (b : Bank) (c : CoreIx) (i : Nat) : AReg :=
  let o := 24 + 4 * i
  { aOfWords (b.secWord c o) (b.secWord c (o + 1)) (b.secWord c (o + 2)) (b.secWord c (o + 3)) with
    ptr := wNat (b.secWord c (o + 1)) }

def AReg.canRead (a : AReg) : Bool := a.rights.getLsbD 0
def AReg.canWrite (a : AReg) : Bool := a.rights.getLsbD 1
def AReg.canAtomic (a : AReg) : Bool := a.rights.getLsbD 2
def AReg.canRemote (a : AReg) : Bool := a.rights.getLsbD 3
def AReg.canWindow (a : AReg) : Bool := a.rights.getLsbD 4

/-- The region check of 01 R9 on an exact address: BASE ≤ addr and addr + n ≤ LIMIT, with KIND other than 0. -/
def AReg.inside (a : AReg) (addr : Int) (n : Nat) : Bool :=
  a.kind != 0 && decide ((a.base.toNat : Int) ≤ addr) && decide (addr + n ≤ (a.limit.toNat : Int))

/-- A KIND 1 register whose LIMIT exceeds the scratchpad of its cell allows no access (14 R282). -/
def State.limitOk (s : State) (k : Nat) (a : AReg) : Bool := a.kind != 1 || decide (a.limit.toNat ≤ s.padSize k)

/-- The pointer check of 02 R19: BASE ≤ p ≤ LIMIT, with KIND other than 0. -/
def AReg.ptrOk (a : AReg) (p : Int) : Bool :=
  a.kind != 0 && decide ((a.base.toNat : Int) ≤ p) && decide (p ≤ (a.limit.toNat : Int))

end Sys2Proof.Machine
end

