-- ==== Sys2Proof/Machine/Cache.lean ====
section
/-! DEFINITION. The memory-side cache: insertion, the selectors and pinning (10 R203 to R205), and the generator steps (06 R121). -/

namespace Sys2Proof.Machine

/-- The three steps of a 32-bit generator (06 R121). -/
def xorshift (x : BitVec 32) : BitVec 32 :=
  let x := x ^^^ (x <<< 13)
  let x := x ^^^ (x >>> 17)
  x ^^^ (x <<< 5)

/-- The seed of a generator, 0 replaced (06 R121). -/
def seedOr (s : BitVec 32) : BitVec 32 := if s = 0 then 0x6D2B79F5 else s

/-- Remove the last unpinned line of a full set (16 ways). -/
def evict (l : List Line) : List Line :=
  if l.length < 16 then l
  else match l.reverse.findIdx? (fun x => !x.pinned) with
    | some i => (l.reverse.eraseIdx i).reverse
    | none => l

/-- An access that reaches DRAM counts an activation of its row, and a BANK_BACKOFF where the bank is held (10 R206). -/
def Stack.activate (st : Stack) (row now : Nat) : Stack :=
  { st with
    acts := kset st.acts row (kget 0 st.acts row + 1)
    backoff := if now < kget 0 st.holds (row / 2 ^ 20) then st.backoff + 1 else st.backoff }

/-- One access of an ASID to a line of a stack under a cache policy (10 R203 to R205). -/
def Stack.access (st : Stack) (row now set key asid cpol : Nat) : Stack :=
  let lines := kget [] st.sets set
  match lines.find? (fun l => l.key == key) with
  | some l =>
    if cpol = 2 then st
    else { st with sets := kset st.sets set (l :: lines.filter (fun x => x.key != key)) }
  | none =>
    let st := st.activate row now
    let mruLead := set % 3072 == 0
    let bimLead := set % 3072 == 1536
    let sel := kget 0 st.sel asid
    let st := if mruLead then { st with sel := kset st.sel asid (min (sel + 1) 1023) }
      else if bimLead then { st with sel := kset st.sel asid (sel - 1) } else st
    if cpol = 3 then st
    else
      let lines := evict lines
      let pin := cpol == 1 && decide ((lines.filter (·.pinned)).length < 8)
      if pin then { st with sets := kset st.sets set (⟨key, true⟩ :: lines) }
      else if cpol = 2 then { st with sets := kset st.sets set (lines ++ [⟨key, false⟩]) }
      else if mruLead || (!bimLead && decide (sel < 512)) then { st with sets := kset st.sets set (⟨key, false⟩ :: lines) }
      else
        let g := xorshift st.gen
        let st := { st with gen := g }
        if g.toNat % 32 = 0 then { st with sets := kset st.sets set (⟨key, false⟩ :: lines) }
        else { st with sets := kset st.sets set (lines ++ [⟨key, false⟩]) }

/-- The lines of image bytes [off, off + n) of a buffer pass through the slices of their stacks (10 R197, R203), whose base dies answer in
contexts with numbers of their own (17 R320; log 87). -/
def State.cacheTouch (s : State) (asid h off n : Nat) : State :=
  match s.buf? h with
  | some d =>
    (granules 6 (bufKey h off) n).foldl (fun s g =>
      let st := d.stackOf (g * 64 % 2 ^ 64)
      s.modStack st (fun x =>
        { x.access (Config.dramRow st g) s.time (Config.cacheSet st g % 98304) g asid d.cpol with
          seq := (x.seq + Config.openFlits x.seq) % 2 ^ 32 })) s
  | none => s

end Sys2Proof.Machine
end

