-- ==== Sys2Proof/WellFormed.lean ====
section
/-! DEFINITION. Well-formed instructions: what decode demands of each field beside the reserved bits (03 R39–R50 and the
field rules of the instructions). wf0 holds the rules that a field of word 0 can break by itself, wf1 the others (03 R50). -/

namespace Sys2Proof

/-! ## Fields of word 0 -/

/-- What a five-bit field of format S names (03 R40). -/
inductive RK where
  | x | xnz | zero | a | anz | p | m | s | c | spec
deriving DecidableEq, Repr

/-- May the field hold this value? -/
def RK.ok (k : RK) (v : BitVec 5) : Bool :=
  match k with
  | .x => true
  | .xnz => v != 0
  | .zero => v == 0
  | .a => v.toNat < 16
  | .anz => v.toNat < 16 && v != 0
  | .p => v.toNat < 16
  | .m => v.toNat < 16
  | .s => v != 0
  | .c => v.toNat < 8
  | .spec => v.toNat ≤ 12

/-- Operand two absent: K = 00 and [20:0] zero. -/
def o2Zero (b : Op2) : Bool := b == .reg 0 false 0

/-- A register with modifier bits inside a mask only. -/
def o2Reg (mask : BitVec 16) (b : Op2) : Bool :=
  match b with
  | .reg _ _ md => md &&& ~~~mask == 0
  | _ => false

/-- A register with modifier bits inside a mask, any immediate, or a window. -/
def o2Any (mask : BitVec 16) (b : Op2) : Bool :=
  match b with
  | .reg _ _ md => md &&& ~~~mask == 0
  | _ => true

/-- A register, an immediate below 2^16, or a window. -/
def o2Low (b : Op2) : Bool :=
  match b with
  | .reg _ _ md => md == 0
  | .imm v => v.toNat < 65536
  | .win _ _ => true

/-- An immediate below a bound. -/
def o2Imm (n : Nat) (b : Op2) : Bool :=
  match b with
  | .imm v => v.toNat < n
  | _ => false

/-- Format S: kinds of D and S1, and operand two. W1 is reserved unless S1 is read as an X register (04 R53). -/
def sOk (d s1 : RK) (o : Op2 → Bool) (f : FmtS) : Bool :=
  d.ok f.d && s1.ok f.s1 && (s1 == .x || !f.w1) && o f.b

/-- 03 R42: under mode 11 PE is 0. -/
def cOk (f : FmtC) : Bool := f.mode != 3 || f.pe == 0

/-- 03 R42: TST reads S1 alone. -/
def tstOk (f : FmtC) : Bool := cOk f && f.b == .reg 0 false

/-- 03 R43: size and mode codes; W only where the data register is read. -/
def mOk (store : Bool) (f : FmtM) : Bool := f.size.toNat ≤ 3 && f.mode != 3 && (store || !f.w)

/-- 04 R71. -/
def ldpfOk (f : FmtM) : Bool := mOk false f && f.data == 0

/-- 02 R25: at most eight stages. -/
def loopOk (f : FmtBL) : Bool := (f.n1.toNat + f.ii1.toNat + 1) / (f.ii1.toNat + 1) ≤ 8

/-- What a six-bit operand field of format V names (03 R46). -/
inductive VK where
  | v | src | x | k | a | q | zero | part | mode | plain
deriving DecidableEq, Repr

/-- Tags of class P (07 R129). -/
def tagPlain (t : Nat) : Bool := (1 ≤ t && t ≤ 9) || t == 18

def VK.ok (kind : VK) (v : BitVec 6) : Bool :=
  match kind with
  | .v => v.toNat < 48
  | .src => true
  | .x => v.toNat < 32
  | .k => v.toNat < 16
  | .a => v.toNat < 16
  | .q => 48 ≤ v.toNat && v.toNat < 56
  | .zero => v == 0
  | .part => v.toNat < 8
  | .mode => v.toNat < 4
  | .plain => tagPlain v.toNat

/-- Which of RM, SAT, sa and sb an instruction of format V uses. -/
structure VUse where
  rm  : Bool := false
  sat : Bool := false
  sa  : Bool := false
  sb  : Bool := false

/-- Format V: kinds of the four operand fields, the fields used, and the rule of Sub. -/
def vOk (kd ka kb kc : VK) (u : VUse) (sub : Nat → Bool) (f : FmtV) : Bool :=
  kd.ok f.d && ka.ok f.a && kb.ok f.b && kc.ok f.c && (u.rm || f.rm == 0) && (u.sat || !f.sat) && (u.sa || !f.sa) &&
    (u.sb || !f.sb) && sub f.sub.toNat

def subZero (n : Nat) : Bool := n == 0
def subAny (_ : Nat) : Bool := true
def subTag (n : Nat) : Bool := n ≤ 18
def subTagE (n : Nat) : Bool := 1 ≤ n && n ≤ 8
def subTagF (n : Nat) : Bool := 1 ≤ n && n ≤ 3
def subTagMx (n : Nat) : Bool := 10 ≤ n && n ≤ 15

/-- RM, SAT, sa and sb all used. -/
def useAll : VUse := ⟨true, true, true, true⟩
/-- RM, SAT and sa used (07 R136, R146). -/
def useRSA : VUse := ⟨true, true, true, false⟩
/-- RM and SAT used (07 R139). -/
def useRS : VUse := ⟨true, true, false, false⟩

/-- 07 R141, R142: under pair mode 11 the second mask is K0. -/
def vcmpOk (f : FmtV) : Bool :=
  vOk .k .src .src .k ⟨false, false, true, true⟩ (· < 4) f && (f.sub != 3 || f.c == 0)

def vclassOk (f : FmtV) : Bool := vOk .k .src .mode .k {} subAny f && (f.b != 3 || f.c == 0)

/-- 07 R135: VSPLAT into a register, and into a slot. -/
def splatVOk (f : FmtV) : Bool := vOk .v .x .plain .zero {} (· < 8) f
def splatSlotOk (f : FmtV) : Bool := vOk .zero .x .plain .zero {} (fun n => 32 ≤ n && n < 40) f

/-- Format Y: which fields are used (03 R47). -/
def yOk (x a a2 : Bool) (imm : Nat → Bool) (f : FmtY) : Bool :=
  (x || f.x == 0) && (a || f.a == 0) && (a2 || f.a2 == 0) && imm f.imm.toNat

/-! ## Engine instructions -/

/-- 03 R39. -/
def Eng.ok (q : Eng) : Bool := (q.wsem != 0 || q.wcnt == 0) && (q.ssem != 0 || q.scnt == 0)

/-- The class of a dense operand tag (08 R161): BF16, FP16, the E formats, the integers. -/
def denseClass (t : Nat) : Nat :=
  match t with
  | 2 => 1 | 3 => 2 | 4 => 3 | 5 => 3 | 8 => 4 | 9 => 4 | _ => 0

/-- 08 R161, dense rows: each tag by itself, a rule of word 0. -/
def denseTags (f : FmtP) : Bool := denseClass f.taga.toNat != 0 && denseClass f.tagb.toNat != 0

/-- 08 R161, dense rows: the pair, which no field of word 0 breaks by its own value (03 R50). -/
def densePair (f : FmtP) : Bool := denseClass f.taga.toNat == denseClass f.tagb.toNat

/-- 08 R161, MMAQ. -/
def quantPair (f : FmtP) : Bool :=
  [2, 3, 8, 9, 16, 17].contains f.taga.toNat && [8, 9, 16, 17].contains f.tagb.toNat

def isQuant (t : BitVec 5) : Bool := t == 16 || t == 17

/-- 08 R161, MMAMX. -/
def mxPair (f : FmtP) : Bool := subTagMx f.taga.toNat && subTagMx f.tagb.toNat

/-- Word 0 of a product: TA and TB, and Z, only where used (08 R160). -/
def p0 (t z : Bool) (f : FmtP) : Bool := (t || (!f.ta && !f.tb)) && (z || !f.z)

/-- Word 1 of a product without metadata. -/
def p1None (f : FmtP) : Bool := f.ma == 0 && f.mb == 0 && f.gsa == 0 && f.gsb == 0

/-- 08 R163. -/
def quantSide (tag : BitVec 5) (m : BitVec 4) (gs : BitVec 2) (k : Nat) : Bool :=
  if isQuant tag then m != 0 && gs != 3 && k % (32 * 2 ^ gs.toNat) == 0 else m == 0 && gs == 0

def p1Quant (f : FmtP) : Bool :=
  quantSide f.taga f.ma f.gsa (f.k1.toNat + 1) && quantSide f.tagb f.mb f.gsb (f.k1.toNat + 1)

/-- 08 R164. -/
def p1Mx (f : FmtP) : Bool :=
  f.ma != 0 && f.mb != 0 && f.gsa == 0 && f.gsb == 0 && (f.k1.toNat + 1) % 32 == 0

/-- 08 R165. -/
def p1St (f : FmtP) : Bool :=
  f.ma != 0 && f.mb == 0 && f.gsa == 0 && f.gsb == 0 && (f.k1.toNat + 1) % 4 == 0

/-- Sparse fields used by an instruction (08 R178, R181): AS, AX, AY, XT, sa, sb, AQ and N; OP below a bound. -/
structure SpUse where
  as : Bool := false
  ax : Bool := false
  ay : Bool := true
  xt : Bool := false
  sa : Bool := false
  sb : Bool := false
  aq : Bool := false
  op : Nat := 1

def sp0 (u : SpUse) (f : FmtSp) : Bool :=
  (u.as || f.as == 0) && (u.ax || f.ax == 0) && (u.ay || f.ay == 0) && (if u.xt then f.xt.toNat ≤ 18 else f.xt == 0) &&
    (u.sa || !f.sa) && (u.sb || !f.sb) && (u.aq || f.aq == 0) && f.op.toNat < u.op

/-- Sort fields used (08 R184, R186). -/
structure SoUse where
  av   : Bool := false
  ao   : Bool := true
  aw   : Bool := false
  desc : Bool := true
  iota : Bool := false

def sortTag (t : Nat) : Bool := [1, 2, 3, 6, 7, 8, 18].contains t

def so0 (u : SoUse) (f : FmtSo) : Bool :=
  (u.av || f.av == 0) && (u.ao || f.ao == 0) && (u.aw || f.aw == 0) && (u.desc || !f.desc) && (u.iota || !f.iota) &&
    sortTag f.kt.toNat

/-- Word 1 of a sort instruction: m, AK2 and AV2 only where used. -/
def so1 (m ak2 av2 : Bool) (f : FmtSo) : Bool :=
  (m || f.m1 == 0) && (ak2 || f.ak2 == 0) && (av2 || f.av2 == 0)

/-- Copy fields used (11 R218, R221). -/
structure XUse where
  ad   : Bool := true
  as   : Bool := true
  rm   : Bool := false
  sat  : Bool := false
  op   : Bool := false
  xs   : Bool := false
  stag : Bool := false
  ch   : Bool := false
  sgn  : Bool := false

def x0 (u : XUse) (f : FmtX) : Bool :=
  (u.ad || f.ad == 0) && (u.as || f.as == 0) && f.etag.toNat ≤ 18 && (u.rm || f.rm == 0) && (u.sat || !f.sat) &&
    (if u.op then f.op.toNat ≤ 2 else f.op == 0) &&
    (if u.stag then f.xs.toNat ≤ 18 else u.xs || f.xs == 0) && (u.ch || f.ch == 0) && (u.sgn || (!f.ss && !f.sd))

/-- 11 R218: PERM is 0 or a permutation of 0 to 3. -/
def permOk (p : BitVec 8) : Bool :=
  p == 0 || [0, 1, 2, 3].all (fun d => [0, 1, 2, 3].any (fun k => p.toNat / 4 ^ k % 4 == d))

/-- Word 1 of a copy: PERM and ARRV only where used; LEN - 1 zero in the tile form, or always (lenTile). -/
def x1 (perm arrv : Bool) (tile : Bool) (f : FmtX) : Bool :=
  (if perm then permOk f.perm else f.perm == 0) && (arrv || f.arrv == 0) && (!tile || f.at_ == 0 || f.len1 == 0)

/-- Tag sets of the tile operations (08 R170, R171). -/
def tagTile (t : BitVec 5) : Bool := t == 1 || t == 6
def tagBias (t : BitVec 5) : Bool := [1, 2, 3, 6, 7, 8].contains t.toNat
def tagStore (t : BitVec 5) : Bool := 1 ≤ t.toNat && t.toNat ≤ 9

namespace Instr

/-- The rules that a field of word 0 can break by its own value. The description of UNIQUE uses neither DESC nor s, that of SPSCAT
neither sa nor sb, and XPUSH with CH[6] = 0 names no stream; the spec does not say whether a 1 in these is reserved, and the model
accepts it (DESIGN CHOICE, log 77). -/
def wf0 : Instr → Bool
  | nop f => sOk .zero .zero o2Zero f
  | mov f => sOk .x .zero (o2Any 0) f
  | movhi f => sOk .x .x (o2Imm 2097152) f
  | add f | sub f | mul f | mulh f | mulhu f | div f | divu f | rem f | remu f | min f | max f | minu f | maxu f
  | and f | or f | xor f | andn f | orn f | shl f | shr f | sar f | rol f | sext f | zext f => sOk .x .x (o2Any 0) f
  | abs f | clz f | ctz f | popc f => sOk .x .x o2Zero f
  | lut3 f => sOk .x .x (o2Reg 0xFF) f
  | fshl f | fshr f => sOk .x .x (o2Reg 0x3F) f
  | sel f => sOk .x .x (o2Reg 0xF) f
  | bfx f | bfxu f | bfi f => sOk .x .x bfOkOp f
  | cmpEq f | cmpNe f | cmpLt f | cmpLe f | cmpGt f | cmpGe f | cmpLtu f | cmpLeu f | cmpGtu f | cmpGeu f
  | fcmpEq f | fcmpLt f | fcmpLe f | fcmpUn f => cOk f
  | tstZ f | tstNz f => tstOk f
  | plut f => sOk .p .p plutOp f
  | pget f => sOk .x .zero o2Zero f
  | pput f => sOk .zero .x (o2Imm 65536) f && !f.w1
  | fadd f | fsub f | fmul f | ffma f | fmin f | fmax f => sOk .x .x o2Low f
  | fcvtIf f => sOk .x .x (fcvtOp 1) f
  | fcvtFi f => sOk .x .x (fcvtOp 3) f
  | acap f => sOk .anz .zero (o2Imm 16) f
  | amov f => sOk .anz .a o2Zero f
  | aset f | aadd f => sOk .anz .a (o2Any 0) f
  | anrw f => sOk .anz .a (o2Any 0x1F) f
  | aget f => sOk .x .a (o2Imm 4) f
  | ld f | ldu f | lds f => mOk false f
  | st f => mOk true f
  | pchk f => sOk .p .x o2Zero f
  | ldpf f => ldpfOk f
  | br _ | call _ | brlc _ => true
  | brx _ | ret _ => true
  | mloop f => loopOk f
  | rbset f => sOk .zero .zero (o2Any 0) f
  | semsig f => sOk .s .zero o2Low f
  | semwait f => sOk .s .zero o2Low f
  | semtry f => sOk .s .p o2Low f
  | mtxlock f | mtxfree f => sOk .m .zero o2Zero f
  | mtxtry f => sOk .m .p o2Zero f
  | xempty f => sOk .xnz .zero o2Zero f
  | xfullq f => sOk .p .x o2Zero f && !f.w1
  | eqdrain f | done f | pause f => sOk .zero .zero o2Zero f
  | eqlevel f => sOk .x .zero o2Zero f
  | mfs f => sOk .x .spec o2Zero f
  | mts f => sOk .spec .x o2Zero f && f.d != 11
  | fwslotCommit f => sOk .spec .x o2Zero f && f.d == 11
  | cwbind f => sOk .c .a (o2Any 0) f
  | waitwp f => sOk .zero .x (o2Any 0) f
  -- vector
  | vmov f | vpopc f | vclz f | vcompress f | vexpand f => vOk .v .src .zero .zero {} subZero f
  | vsplatV f => splatVOk f
  | vsplatSlot f => splatSlotOk f
  | vzero f => vOk .v .zero .zero .zero {} (fun n => 1 ≤ n && n ≤ 18) f
  | vtag f => vOk .v .src .zero .zero {} subTag f
  | vadd f | vsub f | vmul f | vdiv f | vmin f | vmax f => vOk .v .src .src .zero useAll subZero f
  | vfma f | vfms f | vfnma f | vclamp f => vOk .v .src .src .src useAll subZero f
  | vabs f | vneg f | vsgn f | vround f | vactRelu f | vredAdd f | vredMax f | vredMin f | vscanAdd f =>
    vOk .v .src .zero .zero useRSA subZero f
  | vrsq f => vOk .v .src .zero .zero ⟨false, true, false, false⟩ subZero f
  | vrcp f | vexp2 f | vlog2 f | vactGelu f | vactSilu f | vactTanh f | vactSigm f =>
    vOk .v .src .zero .zero useRS subZero f
  | vdot4 f => vOk .v .src .src .src ⟨false, true, true, true⟩ subZero f
  | vand f | vor f | vxor f | vshl f | vshr f | vsar f => vOk .v .src .src .zero {} subZero f
  | vlut3 f => vOk .v .src .src .src ⟨false, false, true, true⟩ subAny f
  | vfshl f | vfshr f => vOk .v .src .src .zero {} subAny f
  | vcmpEq f | vcmpNe f | vcmpLt f | vcmpLe f | vcmpGt f | vcmpGe f | vcmpUn f => vcmpOk f
  | vclass f => vclassOk f
  | vsel f => vOk .v .src .src .k {} subZero f
  | klut f => vOk .k .k .k .k ⟨false, false, true, true⟩ subAny f
  | ksetp f => vOk .k .x .zero .zero {} subZero f
  | kpopc f => vOk .x .k .zero .zero {} subZero f
  | kfirst f => vOk .k .k .zero .zero {} subZero f
  | vcvt f => vOk .v .src .zero .part ⟨true, false, true, true⟩ tagPlain f
  | vquant f => vOk .v .src .src .part ⟨true, false, false, true⟩ subZero f
  | vdequant f => vOk .v .src .zero .part ⟨true, false, true, false⟩ subTagF f
  | vmxpack f => vOk .v .src .zero .part ⟨true, false, false, false⟩ subTagMx f
  | vmxunpk f => vOk .v .src .zero .part ⟨true, false, false, false⟩ subTagF f
  | vperm f => vOk .v .src .src .zero {} subZero f
  | vrot f => vOk .v .src .x .zero {} (· < 16) f
  | vzip f | vunzip f => vOk .v .src .src .zero {} (· < 2) f
  | vgetl f => vOk .x .src .x .zero ⟨false, false, true, false⟩ subZero f
  | vsetl f => vOk .v .x .x .zero {} subZero f
  | vld f => vOk .v .zero .a .zero {} subTag f
  | vlds f => vOk .v .zero .a .zero {} (· < 3) f
  | vldx f => vOk .v .src .a .zero {} subTagE f
  | vldsp f => vOk .v .zero .a .x {} subTagE f
  | vst f => vOk .zero .src .a .zero {} subZero f
  | vsts f => vOk .zero .src .a .zero {} subZero f
  | vstx f => vOk .zero .src .a .src {} subZero f
  | qcfg f => vOk .zero .q .a .zero {} tagPlain f
  | qloop f => vOk .x .q .zero .x {} (· < 4) f
  | qreset f => vOk .zero .q .zero .zero {} subZero f
  | vpchk f => vOk .k .src .zero .zero {} subZero f
  -- matrix
  | mma f | mmaz f | mmac f | mmacz f => p0 false false f && denseTags f
  | mmat f => p0 true true f && denseTags f
  | mmaq f => p0 false true f && quantPair f
  | mmamx f => p0 false true f && mxPair f
  | mmast f => p0 false true f && denseTags f
  | tzero _ _ _ tag _ => tagTile tag
  | tload _ _ _ _ tag _ _ => tagStore tag
  | tstore _ _ _ _ tag _ _ => tagStore tag
  | tstoreq _ _ _ _ tag _ _ _ _ _ => isQuant tag
  | tstoremx _ _ _ _ tag _ _ _ => subTagMx tag.toNat
  | tbias _ _ _ _ tag _ _ => tagBias tag
  | tscale _ _ _ _ _ tag _ => subTagF tag.toNat
  | tact _ _ _ fn _ => fn.toNat ≤ 4
  | tredr _ _ _ _ op _ | tredc _ _ _ _ op _ => op != 3
  | ttrans _ _ _ _ _ => true
  | ttov _ _ _ v _ _ | tfromv _ _ _ v _ _ => v.toNat < 48
  | tclamp _ _ _ _ _ _ => true
  | mcast _ _ _ _ ranks _ => ranks != 0
  | mcwait _ _ _ count => count != 0
  | mcfgKset _ _ _ _ | mcfgKput _ _ _ _ _ | mcfgKlut _ _ _ _ _ _ _ | mtest _ _ => true
  | mstat _ _ _ sl => sl.toNat ≤ 3
  | tcopy _ _ _ _ _ => true
  -- sparse
  | spmm f | spmmz f => sp0 { as := true, ax := true, xt := true, sa := true, sb := true } f
  | spmmb f | spmv f => sp0 { as := true, ax := true, xt := true, sa := true, sb := true, op := 2 } f
  | sddmm f => sp0 { as := true, ax := true, xt := true, sa := true, sb := true, aq := true } f
  | spgath f => sp0 { as := true, ax := true, xt := true } f
  | spscat f => sp0 { as := true, xt := true, sa := true, sb := true, op := 4 } f
  | spseg f => sp0 { as := true, sa := true, op := 4 } f
  | spisect f | spunion f => sp0 { as := true, ax := true, sa := true, op := 2 } f
  | spcsr f => sp0 { ax := true, xt := true } f
  | spdense f => sp0 { as := true, xt := true } f
  | sptrans f | spcount f => sp0 { as := true } f
  | spscan f => sp0 { ax := true } f
  | embag f => sp0 { as := true, ax := true, xt := true, sa := true, sb := true, op := 3 } f
  | spcfg _ _ item _ => item.toNat ≤ 2
  | spstat _ _ _ sl => sl.toNat ≤ 1
  -- sort
  | sort f | topk f | merge f => so0 {} f
  | sortkv f | topkv f | mergekv f | partn f => so0 { av := true, aw := true, iota := true } f
  | argsort f => so0 { ao := false, aw := true } f
  | kth f | unique f => so0 { aw := true } f
  | histo f => so0 { desc := false } f && !subTagF f.kt.toNat
  | search f => so0 { av := true } f
  | srtcfg _ _ item _ => item.toNat ≤ 1
  | srtstat _ _ _ sl => sl.toNat ≤ 1
  -- transfer
  | xcopy f | xcopyw f | xcopyh f | xgath f | xlayout f => x0 {} f
  | xcopyc f => x0 { ad := false, ch := true } f
  | xfill f => x0 { as := false, xs := true } f
  | xred f => x0 { rm := true, sat := true, op := true, stag := true, sgn := true } f
  | xconv f => x0 { rm := true, stag := true, sgn := true } f
  | xpush f => x0 { xs := true, ch := true } f
  | xpull f => x0 { xs := true } f
  | xstream _ _ _ _ | xstrend _ _ _ | xwptr _ _ _ _ | xchan _ _ _ _ | xchanClose _ _ _ | xabort _ _ _ => true
  | amoadd f | amomax f | amomin f | amoand f | amoor f | amoxch f => f.xt == 0
  | amocas _ => true
  | phase _ _ _ _ | fence _ _ _ | cbar _ _ => true
  | balloc _ _ _ _ _ | bref _ _ _ | bdrop _ _ _ | bxfer _ _ _ _ _ | gsubmit _ _ _ _ => true
  | gsignal _ _ _ n => n != 0
  | gwait _ _ _ _ | arrwait _ _ _ _ | hnotify _ _ _ _ | xpend _ _ _ => true
  -- system
  | trap f => yOk false false false subAny f
  | eret f | wdpet f => yOk false false false subZero f
  | ecallTime f => yOk false false false (· == 0) f
  | ecallErrorCount f => yOk false false false (· == 1) f
  | ecallLocation f => yOk false false false (· == 2) f
  | ecallDiscovery f => yOk false false false (· == 3) f
  | ecallUnsupported f => yOk false false false (4 ≤ ·) f
  | ctxsave f | ctxload f => yOk false true false subZero f
  | leaseq f => yOk true true false subZero f
  | sechash f | secver f | secatt f => yOk true true true subZero f
  | secmeas f => yOk true true false (· < 32) f
  | bblog f => yOk true false false subAny f
  -- events have no words
  | _ => false
where
  bfOkOp (b : Op2) : Bool :=
    match b with
    | .imm v => v.toNat < 4096 && decide (v.toNat % 64 + v.toNat / 64 + 1 ≤ 64)
    | _ => false
  plutOp (b : Op2) : Bool :=
    match b with
    | .reg s2 w2 md => s2.toNat < 16 && !w2 && md.toNat < 4096
    | _ => false
  fcvtOp (mask : BitVec 16) (b : Op2) : Bool :=
    match b with
    | .reg s2 w2 md => s2 == 0 && !w2 && md &&& ~~~mask == 0
    | _ => false

/-- The semaphore fields of word 1, where the instruction has them. -/
def eng? : Instr → Option Eng
  | mma f | mmaz f | mmat f | mmaq f | mmamx f | mmast f | mmac f | mmacz f => some f.q
  | tzero _ q _ _ _ | tload _ q _ _ _ _ _ | tstore _ q _ _ _ _ _ | tstoreq _ q _ _ _ _ _ _ _ _
  | tstoremx _ q _ _ _ _ _ _ | tbias _ q _ _ _ _ _ | tscale _ q _ _ _ _ _ | tact _ q _ _ _ | tredr _ q _ _ _ _
  | tredc _ q _ _ _ _ | ttrans _ q _ _ _ | ttov _ q _ _ _ _ | tfromv _ q _ _ _ _ | tclamp _ q _ _ _ _
  | mcast _ q _ _ _ _ | mcwait _ q _ _ | mcfgKset _ q _ _ | mcfgKput _ q _ _ _ | mcfgKlut _ q _ _ _ _ _
  | mtest _ q | mstat _ q _ _ | tcopy _ q _ _ _ => some q
  | spmm f | spmmz f | spmmb f | spmv f | sddmm f | spgath f | spscat f | spseg f | spisect f | spunion f | spcsr f
  | spdense f | sptrans f | spcount f | spscan f | embag f => some f.q
  | spcfg _ q _ _ | spstat _ q _ _ => some q
  | sort f | sortkv f | topk f | topkv f | merge f | mergekv f | argsort f | kth f | unique f | partn f | histo f
  | search f => some f.q
  | srtcfg _ q _ _ | srtstat _ q _ _ => some q
  | xcopy f | xcopyw f | xcopyc f | xcopyh f | xfill f | xgath f | xred f | xconv f | xlayout f | xpush f
  | xpull f => some f.q
  | xstream _ q _ _ | xstrend _ q _ | xwptr _ q _ _ | xchan _ q _ _ | xchanClose _ q _ | xabort _ q _ => some q
  | amoadd f | amomax f | amomin f | amoand f | amoor f | amoxch f | amocas f => some f.q
  | phase _ q _ _ | fence _ q _ | cbar _ q | balloc _ q _ _ _ | bref _ q _ | bdrop _ q _ | bxfer _ q _ _ _
  | gsubmit _ q _ _ | gsignal _ q _ _ | gwait _ q _ _ | arrwait _ q _ _ | hnotify _ q _ _ | xpend _ q _ => some q
  | _ => none

/-- The rules of word 1, and those that relate both words. -/
def wf1body : Instr → Bool
  | mma f | mmaz f | mmat f | mmac f | mmacz f => p1None f && densePair f
  | mmaq f => p1Quant f
  | mmamx f => p1Mx f
  | mmast f => p1St f && densePair f
  | tstoreq _ _ _ _ _ _ _ sh am gs => am != 0 && gs != 3 && (sh.n1.toNat + 1) % (32 * 2 ^ gs.toNat) == 0
  | tstoremx _ _ _ _ _ _ sh am => am != 0 && (sh.n1.toNat + 1) % 32 == 0
  | ttrans _ _ _ _ sh => sh.m1.toNat < 128 && sh.n1.toNat < 128
  | ttov _ _ _ v row cnt1 | tfromv _ _ _ v row cnt1 =>
    decide (v.toNat + cnt1.toNat + 1 ≤ 48) && decide (row.toNat + cnt1.toNat + 1 ≤ 128)
  | spmv f | spgath f | spscat f | spseg f | spisect f | spunion f | spcsr f | spdense f | sptrans f | spcount f =>
    f.n1 == 0
  | sort f | sortkv f | argsort f | unique f | partn f => so1 false false false f
  | topk f | topkv f | kth f => so1 true false false f && decide (f.m1.toNat ≤ f.n1.toNat)
  | histo f | search f => so1 true false false f
  | merge f => so1 true true false f && decide (f.n1.toNat + f.m1.toNat + 2 ≤ 65536)
  | mergekv f => so1 true true true f && decide (f.n1.toNat + f.m1.toNat + 2 ≤ 65536)
  | xcopy f | xcopyw f | xcopyc f | xcopyh f | xfill f | xred f | xconv f => x1 false false true f
  | xgath f => x1 false false false f
  | xlayout f => x1 true false false f && f.len1 == 0
  | xpush f => x1 true true true f
  | xpull f => x1 true false true f
  | _ => true

def wf1 (i : Instr) : Bool := (match i.eng? with | some q => q.ok | none => true) && i.wf1body

/-- A well-formed instruction: one that decode accepts. -/
def wf (i : Instr) : Bool := i.wf0 && i.wf1

end Instr

end Sys2Proof
end

