-- ==== Sys2Proof/Decode.lean ====
section
/-! DEFINITION. Decoding (03), total on any two words, and the encoder.
The raw readers take the named fields out of the words; encode writes them back from the same tables of the spec.
A bit that no field names, or a selector value that names nothing, is lost on the way, so decode refuses a word that
encode does not give back (03 R40, R50). -/

namespace Sys2Proof

/-- Why decode refuses: the opcode, or a reserved field with the word that 03 R50 names. -/
inductive DecErr where
  | illegal
  | reserved (word : Nat)
deriving DecidableEq, Repr, Inhabited

/-- The field of w at lo, as wide as the type asks. -/
def bits {n : Nat} (w lo : Nat) : BitVec n := BitVec.ofNat n (w / 2 ^ lo)

/-! ## Reading the fields -/

def rawG (w : Nat) : Guard := ⟨bits w 56, bits w 52, bits w 48, bits w 44⟩

def rawQ (w : Nat) : Eng := ⟨bits w 59, bits w 55, bits w 50, bits w 46⟩

def rawS (w : Nat) : FmtS :=
  { g := rawG w, d := bits w 28, s1 := bits w 23, w1 := bitOf w 22,
    b := match field w 33 2 with
      | 1 => .imm (bits w 0)
      | 2 => .win (bits w 18) (bits w 1)
      | _ => .reg (bits w 16) (bitOf w 21) (bits w 0) }

def rawC (w : Nat) : FmtC :=
  { g := rawG w, pd := bits w 29, pe := bits w 25, mode := bits w 23, s1 := bits w 16, w1 := bitOf w 22,
    b := match field w 33 2 with
      | 1 => .imm (bits w 0)
      | _ => .reg (bits w 11) (bitOf w 21) }

def rawM (w : Nat) : FmtM :=
  ⟨rawG w, bits w 30, bits w 26, bits w 23, bits w 21, bitOf w 20, bits w 0⟩

def rawBd (w : Nat) : FmtBD := ⟨rawG w, bits w 0⟩
def rawBr (w : Nat) : FmtBR := ⟨rawG w, bits w 30, bitOf w 29⟩
def rawBl (w : Nat) : FmtBL := ⟨rawG w, bits w 30, bitOf w 29, bits w 23, bits w 17⟩

def rawV (w : Nat) : FmtV :=
  ⟨rawG w, bits w 29, bits w 23, bits w 17, bits w 11, bits w 9, bitOf w 8, bitOf w 7, bitOf w 6, bits w 0⟩

def rawY (w : Nat) : FmtY := ⟨rawG w, bits w 30, bits w 26, bits w 22, bits w 0⟩

def rawShape (w1 : Nat) : Shape := ⟨bits w1 39, bits w1 31⟩

def rawP (w0 w1 : Nat) : FmtP :=
  { g := rawG w0, td := bits w0 32, aa := bits w0 28, ab := bits w0 24, taga := bits w0 19, tagb := bits w0 14,
    sa := bitOf w0 13, sb := bitOf w0 12, ta := bitOf w0 11, tb := bitOf w0 10, z := bitOf w0 9, q := rawQ w1,
    m1 := bits w1 39, n1 := bits w1 31, k1 := bits w1 20, ma := bits w1 16, mb := bits w1 12, gsa := bits w1 10,
    gsb := bits w1 8 }

def rawSp (w0 w1 : Nat) : FmtSp :=
  { g := rawG w0, as := bits w0 31, ax := bits w0 27, ay := bits w0 23, xt := bits w0 18, sa := bitOf w0 15,
    sb := bitOf w0 14, aq := bits w0 10, op := bits w0 6, q := rawQ w1, n1 := bits w1 30 }

def rawSo (w0 w1 : Nat) : FmtSo :=
  { g := rawG w0, ak := bits w0 31, av := bits w0 27, ao := bits w0 23, aw := bits w0 19, kt := bits w0 14,
    s := bitOf w0 13, desc := bitOf w0 12, iota := bitOf w0 11, q := rawQ w1, n1 := bits w1 30, m1 := bits w1 14,
    ak2 := bits w1 10, av2 := bits w1 6 }

def rawX (w0 w1 : Nat) : FmtX :=
  { g := rawG w0, ad := bits w0 31, as := bits w0 27, at_ := bits w0 23, etag := bits w0 18, rm := bits w0 16,
    sat := bitOf w0 15, op := bits w0 12, xs := bits w0 7, ch := bits w0 3, ss := bitOf w0 2, sd := bitOf w0 1,
    q := rawQ w1, len1 := bits w1 24, perm := bits w1 16, arrv := bits w1 8 }

def rawA (w0 w1 : Nat) : FmtA :=
  ⟨rawG w0, bits w0 30, bits w0 26, bits w0 21, bits w0 16, bitOf w0 15, bitOf w0 14, rawQ w1⟩

/-- ECALL by its service number (15 R304). -/
noncomputable def rawEcall (w : Nat) : Instr :=
  match field w 0 16 with
  | 0 => .ecallTime (rawY w)
  | 1 => .ecallErrorCount (rawY w)
  | 2 => .ecallLocation (rawY w)
  | 3 => .ecallDiscovery (rawY w)
  | _ => .ecallUnsupported (rawY w)

/-- MCFG by its OP field (08 R175). -/
def rawMcfg (w0 w1 : Nat) : Instr :=
  match field w0 32 3 with
  | 1 => .mcfgKput (rawG w0) (rawQ w1) (bits w0 28) (bits w0 23) (bitOf w0 22)
  | 2 => .mcfgKlut (rawG w0) (rawQ w1) (bits w0 28) (bits w0 24) (bits w0 20) (bits w0 16) (bits w0 8)
  | _ => .mcfgKset (rawG w0) (rawQ w1) (bits w0 28) (bits w0 23)

/-! ## The opcode map (03 R52) -/

/-- Opcodes 0x0 to 0x63, in order (03 R52). -/
noncomputable def scalTab0 : List (Nat → Nat → Instr) :=
  [fun w0 _ => .nop (rawS w0),
    fun w0 _ => .mov (rawS w0),
    fun w0 _ => .movhi (rawS w0),
    fun w0 _ => .add (rawS w0),
    fun w0 _ => .sub (rawS w0),
    fun w0 _ => .mul (rawS w0),
    fun w0 _ => .mulh (rawS w0),
    fun w0 _ => .mulhu (rawS w0),
    fun w0 _ => .div (rawS w0),
    fun w0 _ => .divu (rawS w0),
    fun w0 _ => .rem (rawS w0),
    fun w0 _ => .remu (rawS w0),
    fun w0 _ => .min (rawS w0),
    fun w0 _ => .max (rawS w0),
    fun w0 _ => .minu (rawS w0),
    fun w0 _ => .maxu (rawS w0),
    fun w0 _ => .abs (rawS w0),
    fun w0 _ => .and (rawS w0),
    fun w0 _ => .or (rawS w0),
    fun w0 _ => .xor (rawS w0)]

noncomputable def scalTab1 : List (Nat → Nat → Instr) :=
  [fun w0 _ => .andn (rawS w0),
    fun w0 _ => .orn (rawS w0),
    fun w0 _ => .lut3 (rawS w0),
    fun w0 _ => .shl (rawS w0),
    fun w0 _ => .shr (rawS w0),
    fun w0 _ => .sar (rawS w0),
    fun w0 _ => .rol (rawS w0),
    fun w0 _ => .fshl (rawS w0),
    fun w0 _ => .fshr (rawS w0),
    fun w0 _ => .clz (rawS w0),
    fun w0 _ => .ctz (rawS w0),
    fun w0 _ => .popc (rawS w0),
    fun w0 _ => .sext (rawS w0),
    fun w0 _ => .zext (rawS w0),
    fun w0 _ => .bfx (rawS w0),
    fun w0 _ => .bfxu (rawS w0),
    fun w0 _ => .bfi (rawS w0),
    fun w0 _ => .sel (rawS w0),
    fun w0 _ => .cmpEq (rawC w0),
    fun w0 _ => .cmpNe (rawC w0)]

noncomputable def scalTab2 : List (Nat → Nat → Instr) :=
  [fun w0 _ => .cmpLt (rawC w0),
    fun w0 _ => .cmpLe (rawC w0),
    fun w0 _ => .cmpGt (rawC w0),
    fun w0 _ => .cmpGe (rawC w0),
    fun w0 _ => .cmpLtu (rawC w0),
    fun w0 _ => .cmpLeu (rawC w0),
    fun w0 _ => .cmpGtu (rawC w0),
    fun w0 _ => .cmpGeu (rawC w0),
    fun w0 _ => .tstZ (rawC w0),
    fun w0 _ => .tstNz (rawC w0),
    fun w0 _ => .plut (rawS w0),
    fun w0 _ => .pget (rawS w0),
    fun w0 _ => .pput (rawS w0),
    fun w0 _ => .fadd (rawS w0),
    fun w0 _ => .fsub (rawS w0),
    fun w0 _ => .fmul (rawS w0),
    fun w0 _ => .ffma (rawS w0),
    fun w0 _ => .fmin (rawS w0),
    fun w0 _ => .fmax (rawS w0),
    fun w0 _ => .fcvtIf (rawS w0)]

noncomputable def scalTab3 : List (Nat → Nat → Instr) :=
  [fun w0 _ => .fcvtFi (rawS w0),
    fun w0 _ => .fcmpEq (rawC w0),
    fun w0 _ => .fcmpLt (rawC w0),
    fun w0 _ => .fcmpLe (rawC w0),
    fun w0 _ => .fcmpUn (rawC w0),
    fun w0 _ => .acap (rawS w0),
    fun w0 _ => .amov (rawS w0),
    fun w0 _ => .aset (rawS w0),
    fun w0 _ => .aadd (rawS w0),
    fun w0 _ => .anrw (rawS w0),
    fun w0 _ => .aget (rawS w0),
    fun w0 _ => .ld (rawM w0),
    fun w0 _ => .ldu (rawM w0),
    fun w0 _ => .st (rawM w0),
    fun w0 _ => .lds (rawM w0),
    fun w0 _ => .pchk (rawS w0),
    fun w0 _ => .ldpf (rawM w0),
    fun w0 _ => .br (rawBd w0),
    fun w0 _ => .brx (rawBr w0),
    fun w0 _ => .call (rawBd w0)]

noncomputable def scalTab4 : List (Nat → Nat → Instr) :=
  [fun w0 _ => .ret (rawBr w0),
    fun w0 _ => .mloop (rawBl w0),
    fun w0 _ => .brlc (rawBd w0),
    fun w0 _ => .rbset (rawS w0),
    fun w0 _ => .semsig (rawS w0),
    fun w0 _ => .semwait (rawS w0),
    fun w0 _ => .semtry (rawS w0),
    fun w0 _ => .mtxlock (rawS w0),
    fun w0 _ => .mtxtry (rawS w0),
    fun w0 _ => .mtxfree (rawS w0),
    fun w0 _ => .xempty (rawS w0),
    fun w0 _ => .xfullq (rawS w0),
    fun w0 _ => .eqdrain (rawS w0),
    fun w0 _ => .eqlevel (rawS w0),
    fun w0 _ => .mfs (rawS w0),
    fun w0 _ => if field w0 28 5 = 11 then .fwslotCommit (rawS w0) else .mts (rawS w0),
    fun w0 _ => .cwbind (rawS w0),
    fun w0 _ => .waitwp (rawS w0),
    fun w0 _ => .done (rawS w0),
    fun w0 _ => .pause (rawS w0)]

noncomputable def scalTab : List (Nat → Nat → Instr) := scalTab0 ++ scalTab1 ++ scalTab2 ++ scalTab3 ++ scalTab4

/-- Opcodes 0x80 to 0xcf, in order (03 R52). -/
noncomputable def vecTab0 : List (Nat → Nat → Instr) :=
  [fun w0 _ => .vmov (rawV w0),
    fun w0 _ => if bitOf w0 5 then .vsplatSlot (rawV w0) else .vsplatV (rawV w0),
    fun w0 _ => .vzero (rawV w0),
    fun w0 _ => .vtag (rawV w0),
    fun w0 _ => .vadd (rawV w0),
    fun w0 _ => .vsub (rawV w0),
    fun w0 _ => .vmul (rawV w0),
    fun w0 _ => .vfma (rawV w0),
    fun w0 _ => .vfms (rawV w0),
    fun w0 _ => .vfnma (rawV w0),
    fun w0 _ => .vdiv (rawV w0),
    fun w0 _ => .vmin (rawV w0),
    fun w0 _ => .vmax (rawV w0),
    fun w0 _ => .vabs (rawV w0),
    fun w0 _ => .vneg (rawV w0),
    fun w0 _ => .vclamp (rawV w0),
    fun w0 _ => .vsgn (rawV w0),
    fun w0 _ => .vround (rawV w0),
    fun w0 _ => .vrsq (rawV w0),
    fun w0 _ => .vrcp (rawV w0)]

noncomputable def vecTab1 : List (Nat → Nat → Instr) :=
  [fun w0 _ => .vexp2 (rawV w0),
    fun w0 _ => .vlog2 (rawV w0),
    fun w0 _ => .vactRelu (rawV w0),
    fun w0 _ => .vactGelu (rawV w0),
    fun w0 _ => .vactSilu (rawV w0),
    fun w0 _ => .vactTanh (rawV w0),
    fun w0 _ => .vactSigm (rawV w0),
    fun w0 _ => .vdot4 (rawV w0),
    fun w0 _ => .vand (rawV w0),
    fun w0 _ => .vor (rawV w0),
    fun w0 _ => .vxor (rawV w0),
    fun w0 _ => .vlut3 (rawV w0),
    fun w0 _ => .vshl (rawV w0),
    fun w0 _ => .vshr (rawV w0),
    fun w0 _ => .vsar (rawV w0),
    fun w0 _ => .vfshl (rawV w0),
    fun w0 _ => .vfshr (rawV w0),
    fun w0 _ => .vpopc (rawV w0),
    fun w0 _ => .vclz (rawV w0),
    fun w0 _ => .vcmpEq (rawV w0)]

noncomputable def vecTab2 : List (Nat → Nat → Instr) :=
  [fun w0 _ => .vcmpNe (rawV w0),
    fun w0 _ => .vcmpLt (rawV w0),
    fun w0 _ => .vcmpLe (rawV w0),
    fun w0 _ => .vcmpGt (rawV w0),
    fun w0 _ => .vcmpGe (rawV w0),
    fun w0 _ => .vcmpUn (rawV w0),
    fun w0 _ => .vclass (rawV w0),
    fun w0 _ => .vsel (rawV w0),
    fun w0 _ => .klut (rawV w0),
    fun w0 _ => .ksetp (rawV w0),
    fun w0 _ => .kpopc (rawV w0),
    fun w0 _ => .kfirst (rawV w0),
    fun w0 _ => .vcvt (rawV w0),
    fun w0 _ => .vquant (rawV w0),
    fun w0 _ => .vdequant (rawV w0),
    fun w0 _ => .vmxpack (rawV w0),
    fun w0 _ => .vmxunpk (rawV w0),
    fun w0 _ => .vredAdd (rawV w0),
    fun w0 _ => .vredMax (rawV w0),
    fun w0 _ => .vredMin (rawV w0)]

noncomputable def vecTab3 : List (Nat → Nat → Instr) :=
  [fun w0 _ => .vscanAdd (rawV w0),
    fun w0 _ => .vperm (rawV w0),
    fun w0 _ => .vrot (rawV w0),
    fun w0 _ => .vzip (rawV w0),
    fun w0 _ => .vunzip (rawV w0),
    fun w0 _ => .vcompress (rawV w0),
    fun w0 _ => .vexpand (rawV w0),
    fun w0 _ => .vgetl (rawV w0),
    fun w0 _ => .vsetl (rawV w0),
    fun w0 _ => .vld (rawV w0),
    fun w0 _ => .vlds (rawV w0),
    fun w0 _ => .vldx (rawV w0),
    fun w0 _ => .vldsp (rawV w0),
    fun w0 _ => .vst (rawV w0),
    fun w0 _ => .vsts (rawV w0),
    fun w0 _ => .vstx (rawV w0),
    fun w0 _ => .qcfg (rawV w0),
    fun w0 _ => .qloop (rawV w0),
    fun w0 _ => .qreset (rawV w0),
    fun w0 _ => .vpchk (rawV w0)]

noncomputable def vecTab : List (Nat → Nat → Instr) := vecTab0 ++ vecTab1 ++ vecTab2 ++ vecTab3

/-- Opcodes 0x100 to 0x11b, in order (03 R52). -/
noncomputable def matTab0 : List (Nat → Nat → Instr) :=
  [fun w0 w1 => .mma (rawP w0 w1),
    fun w0 w1 => .mmaz (rawP w0 w1),
    fun w0 w1 => .mmat (rawP w0 w1),
    fun w0 w1 => .mmaq (rawP w0 w1),
    fun w0 w1 => .mmamx (rawP w0 w1),
    fun w0 w1 => .mmast (rawP w0 w1),
    fun w0 w1 => .mmac (rawP w0 w1),
    fun w0 w1 => .mmacz (rawP w0 w1),
    fun w0 w1 => .tzero (rawG w0) (rawQ w1) (bits w0 32) (bits w0 19) (rawShape w1),
    fun w0 w1 => .tload (rawG w0) (rawQ w1) (bits w0 32) (bits w0 28) (bits w0 19) (bitOf w0 13) (rawShape w1),
    fun w0 w1 => .tstore (rawG w0) (rawQ w1) (bits w0 32) (bits w0 28) (bits w0 23) (bits w0 21) (rawShape w1),
    fun w0 w1 => .tstoreq (rawG w0) (rawQ w1) (bits w0 32) (bits w0 28) (bits w0 23) (bits w0 21) (bitOf w0 12) (rawShape w1) (bits w1 16) (bits w1 10),
    fun w0 w1 => .tstoremx (rawG w0) (rawQ w1) (bits w0 32) (bits w0 28) (bits w0 23) (bits w0 21) (rawShape w1) (bits w1 16),
    fun w0 w1 => .tbias (rawG w0) (rawQ w1) (bits w0 32) (bits w0 28) (bits w0 19) (bitOf w0 13) (rawShape w1),
    fun w0 w1 => .tscale (rawG w0) (rawQ w1) (bits w0 32) (bits w0 28) (bits w0 24) (bits w0 19) (rawShape w1),
    fun w0 w1 => .tact (rawG w0) (rawQ w1) (bits w0 32) (bits w0 0) (rawShape w1),
    fun w0 w1 => .tredr (rawG w0) (rawQ w1) (bits w0 32) (bits w0 28) (bits w0 0) (rawShape w1),
    fun w0 w1 => .tredc (rawG w0) (rawQ w1) (bits w0 32) (bits w0 28) (bits w0 0) (rawShape w1),
    fun w0 w1 => .ttrans (rawG w0) (rawQ w1) (bits w0 32) (bits w0 29) (rawShape w1),
    fun w0 w1 => .ttov (rawG w0) (rawQ w1) (bits w0 32) (bits w0 26) (bits w0 19) (bits w1 39)]

noncomputable def matTab1 : List (Nat → Nat → Instr) :=
  [fun w0 w1 => .tfromv (rawG w0) (rawQ w1) (bits w0 32) (bits w0 26) (bits w0 19) (bits w1 39),
    fun w0 w1 => .tclamp (rawG w0) (rawQ w1) (bits w0 32) (bits w0 27) (bits w0 22) (rawShape w1),
    fun w0 w1 => .mcast (rawG w0) (rawQ w1) (bits w0 28) (bits w0 24) (bits w0 20) (bits w1 24),
    fun w0 w1 => .mcwait (rawG w0) (rawQ w1) (bits w0 33) (bits w0 16),
    fun w0 w1 => rawMcfg w0 w1,
    fun w0 w1 => .mtest (rawG w0) (rawQ w1) ,
    fun w0 w1 => .mstat (rawG w0) (rawQ w1) (bits w0 30) (bits w0 27),
    fun w0 w1 => .tcopy (rawG w0) (rawQ w1) (bits w0 32) (bits w0 29) (rawShape w1)]

noncomputable def matTab : List (Nat → Nat → Instr) := matTab0 ++ matTab1

/-- Opcodes 0x140 to 0x151, in order (03 R52). -/
noncomputable def spTab : List (Nat → Nat → Instr) :=
  [fun w0 w1 => .spmm (rawSp w0 w1),
    fun w0 w1 => .spmmz (rawSp w0 w1),
    fun w0 w1 => .spmmb (rawSp w0 w1),
    fun w0 w1 => .spmv (rawSp w0 w1),
    fun w0 w1 => .sddmm (rawSp w0 w1),
    fun w0 w1 => .spgath (rawSp w0 w1),
    fun w0 w1 => .spscat (rawSp w0 w1),
    fun w0 w1 => .spseg (rawSp w0 w1),
    fun w0 w1 => .spisect (rawSp w0 w1),
    fun w0 w1 => .spunion (rawSp w0 w1),
    fun w0 w1 => .spcsr (rawSp w0 w1),
    fun w0 w1 => .spdense (rawSp w0 w1),
    fun w0 w1 => .sptrans (rawSp w0 w1),
    fun w0 w1 => .spcount (rawSp w0 w1),
    fun w0 w1 => .spscan (rawSp w0 w1),
    fun w0 w1 => .embag (rawSp w0 w1),
    fun w0 w1 => .spcfg (rawG w0) (rawQ w1) (bits w0 32) (bits w0 23),
    fun w0 w1 => .spstat (rawG w0) (rawQ w1) (bits w0 30) (bits w0 27)]

/-- Opcodes 0x160 to 0x16d, in order (03 R52). -/
noncomputable def soTab : List (Nat → Nat → Instr) :=
  [fun w0 w1 => .sort (rawSo w0 w1),
    fun w0 w1 => .sortkv (rawSo w0 w1),
    fun w0 w1 => .topk (rawSo w0 w1),
    fun w0 w1 => .topkv (rawSo w0 w1),
    fun w0 w1 => .merge (rawSo w0 w1),
    fun w0 w1 => .mergekv (rawSo w0 w1),
    fun w0 w1 => .argsort (rawSo w0 w1),
    fun w0 w1 => .kth (rawSo w0 w1),
    fun w0 w1 => .unique (rawSo w0 w1),
    fun w0 w1 => .partn (rawSo w0 w1),
    fun w0 w1 => .histo (rawSo w0 w1),
    fun w0 w1 => .search (rawSo w0 w1),
    fun w0 w1 => .srtcfg (rawG w0) (rawQ w1) (bits w0 32) (bits w0 23),
    fun w0 w1 => .srtstat (rawG w0) (rawQ w1) (bits w0 30) (bits w0 27)]

/-- Opcodes 0x180 to 0x1a3, in order (03 R52). -/
noncomputable def xfTab0 : List (Nat → Nat → Instr) :=
  [fun w0 w1 => .xcopy (rawX w0 w1),
    fun w0 w1 => .xcopyw (rawX w0 w1),
    fun w0 w1 => .xcopyc (rawX w0 w1),
    fun w0 w1 => .xcopyh (rawX w0 w1),
    fun w0 w1 => .xfill (rawX w0 w1),
    fun w0 w1 => .xgath (rawX w0 w1),
    fun w0 w1 => .xred (rawX w0 w1),
    fun w0 w1 => .xconv (rawX w0 w1),
    fun w0 w1 => .xlayout (rawX w0 w1),
    fun w0 w1 => .xpush (rawX w0 w1),
    fun w0 w1 => .xpull (rawX w0 w1),
    fun w0 w1 => .xstream (rawG w0) (rawQ w1) (bits w0 32) (bits w0 28),
    fun w0 w1 => .xstrend (rawG w0) (rawQ w1) (bits w0 32),
    fun w0 w1 => .xwptr (rawG w0) (rawQ w1) (bits w0 30) (bits w0 26),
    fun w0 w1 => if bitOf w0 26 then .xchanClose (rawG w0) (rawQ w1) (bits w0 31) else .xchan (rawG w0) (rawQ w1) (bits w0 31) (bits w0 27),
    fun w0 w1 => .xabort (rawG w0) (rawQ w1) (bits w0 31),
    fun w0 w1 => .amoadd (rawA w0 w1),
    fun w0 w1 => .amomax (rawA w0 w1),
    fun w0 w1 => .amomin (rawA w0 w1),
    fun w0 w1 => .amoand (rawA w0 w1)]

noncomputable def xfTab1 : List (Nat → Nat → Instr) :=
  [fun w0 w1 => .amoor (rawA w0 w1),
    fun w0 w1 => .amoxch (rawA w0 w1),
    fun w0 w1 => .amocas (rawA w0 w1),
    fun w0 w1 => .phase (rawG w0) (rawQ w1) (bits w0 33) (bitOf w0 32),
    fun w0 w1 => .fence (rawG w0) (rawQ w1) (bits w0 33),
    fun w0 w1 => .cbar (rawG w0) (rawQ w1) ,
    fun w0 w1 => .balloc (rawG w0) (rawQ w1) (bits w0 30) (bits w0 26) (bits w0 22),
    fun w0 w1 => .bref (rawG w0) (rawQ w1) (bits w0 26),
    fun w0 w1 => .bdrop (rawG w0) (rawQ w1) (bits w0 26),
    fun w0 w1 => .bxfer (rawG w0) (rawQ w1) (bits w0 26) (bits w0 21) (bits w0 16),
    fun w0 w1 => .gsubmit (rawG w0) (rawQ w1) (bits w0 30) (bits w0 26),
    fun w0 w1 => .gsignal (rawG w0) (rawQ w1) (bits w0 26) (bits w0 18),
    fun w0 w1 => .gwait (rawG w0) (rawQ w1) (bits w0 30) (bits w0 25),
    fun w0 w1 => .arrwait (rawG w0) (rawQ w1) (bits w0 26) (bits w0 21),
    fun w0 w1 => .hnotify (rawG w0) (rawQ w1) (bits w0 30) (bits w0 25),
    fun w0 w1 => .xpend (rawG w0) (rawQ w1) (bits w0 30)]

noncomputable def xfTab : List (Nat → Nat → Instr) := xfTab0 ++ xfTab1

/-- Opcodes 0x1c0 to 0x1cb, in order (03 R52). -/
noncomputable def syTab : List (Nat → Nat → Instr) :=
  [fun w0 _ => .trap (rawY w0),
    fun w0 _ => .eret (rawY w0),
    fun w0 _ => rawEcall w0,
    fun w0 _ => .ctxsave (rawY w0),
    fun w0 _ => .ctxload (rawY w0),
    fun w0 _ => .leaseq (rawY w0),
    fun w0 _ => .sechash (rawY w0),
    fun w0 _ => .secver (rawY w0),
    fun w0 _ => .secmeas (rawY w0),
    fun w0 _ => .secatt (rawY w0),
    fun w0 _ => .wdpet (rawY w0),
    fun w0 _ => .bblog (rawY w0)]

/-- The instruction that the named fields give, whatever stands in the other bits (03 R52). -/
noncomputable def raw (w0 w1 : Nat) : Option Instr :=
  let opc := field w0 35 9
  let look (tab : List (Nat → Nat → Instr)) (base : Nat) : Option Instr :=
    (tab[opc - base]?).map (fun f => f w0 w1)
  if opc < 0x80 then look scalTab 0
  else if opc < 0x100 then look vecTab 0x80
  else if opc < 0x140 then look matTab 0x100
  else if opc < 0x160 then look spTab 0x140
  else if opc < 0x180 then look soTab 0x160
  else if opc < 0x1C0 then look xfTab 0x180
  else look syTab 0x1C0

/-- Does an opcode take two words (03 R34)? -/
def isTwo (opc : Nat) : Bool := decide (0x100 ≤ opc) && decide (opc < 0x1C0)

/-- Does a core of a cell of a die class accept an opcode (02 R32; 19 R339 for the firmware's X-core)? The core of an HBM base die,
class 7, has no engines (10 R207). -/
def accepts (c : CoreIx) (cls : Nat) (opc : Nat) : Bool :=
  if opc < 0x80 then true
  else if opc < 0x100 then c == .v || (c == .e && cls == 3)
  else if opc < 0x140 then c == .e && cls == 1
  else if opc < 0x160 then c == .e && cls == 2
  else if opc < 0x180 then c == .e && cls == 4
  else if opc < 0x1C0 then c == .x && cls != 7
  else true

/-! ## The encoder (03 R35 to R49; 08; 11) -/

/-- Guard and opcode of word 0 (03 R35). -/
def head (opc : Nat) (g : Guard) : Nat :=
  g.tt.toNat * 2 ^ 56 + g.pa.toNat * 2 ^ 52 + g.pb.toNat * 2 ^ 48 + g.pc.toNat * 2 ^ 44 + opc * 2 ^ 35

/-- The semaphore fields of word 1 (03 R38). -/
def engW (q : Eng) : Nat :=
  q.wsem.toNat * 2 ^ 59 + q.wcnt.toNat * 2 ^ 55 + q.ssem.toNat * 2 ^ 50 + q.scnt.toNat * 2 ^ 46

/-- Both words of an engine instruction. -/
def two (opc : Nat) (g : Guard) (q : Eng) (b0 b1 : Nat) : List Nat := [head opc g + b0, engW q + b1]

def shapeW (sh : Shape) : Nat := sh.m1.toNat * 2 ^ 39 + sh.n1.toNat * 2 ^ 31

def op2W : Op2 → Nat
  | .reg s2 w2 md => s2.toNat * 2 ^ 16 + w2.toNat * 2 ^ 21 + md.toNat
  | .imm v => 2 ^ 33 + v.toNat
  | .win w o => 2 * 2 ^ 33 + w.toNat * 2 ^ 18 + o.toNat * 2

def opCW : OpC → Nat
  | .reg s2 w2 => s2.toNat * 2 ^ 11 + w2.toNat * 2 ^ 21
  | .imm v => 2 ^ 33 + v.toNat

def encS (opc : Nat) (f : FmtS) : Nat :=
  head opc f.g + f.d.toNat * 2 ^ 28 + f.s1.toNat * 2 ^ 23 + f.w1.toNat * 2 ^ 22 + op2W f.b

def encC (opc : Nat) (f : FmtC) : Nat :=
  head opc f.g + f.pd.toNat * 2 ^ 29 + f.pe.toNat * 2 ^ 25 + f.mode.toNat * 2 ^ 23 + f.w1.toNat * 2 ^ 22 +
    f.s1.toNat * 2 ^ 16 + opCW f.b

def encM (opc : Nat) (f : FmtM) : Nat :=
  head opc f.g + f.data.toNat * 2 ^ 30 + f.a.toNat * 2 ^ 26 + f.size.toNat * 2 ^ 23 + f.mode.toNat * 2 ^ 21 +
    f.w.toNat * 2 ^ 20 + f.off.toNat

def encBd (opc : Nat) (f : FmtBD) : Nat := head opc f.g + f.disp.toNat
def encBr (opc : Nat) (f : FmtBR) : Nat := head opc f.g + f.x.toNat * 2 ^ 30 + f.w.toNat * 2 ^ 29
def encBl (opc : Nat) (f : FmtBL) : Nat :=
  head opc f.g + f.xtrip.toNat * 2 ^ 30 + f.w.toNat * 2 ^ 29 + f.n1.toNat * 2 ^ 23 + f.ii1.toNat * 2 ^ 17

def encV (opc : Nat) (f : FmtV) : Nat :=
  head opc f.g + f.d.toNat * 2 ^ 29 + f.a.toNat * 2 ^ 23 + f.b.toNat * 2 ^ 17 + f.c.toNat * 2 ^ 11 + f.rm.toNat * 2 ^ 9 +
    f.sat.toNat * 2 ^ 8 + f.sa.toNat * 2 ^ 7 + f.sb.toNat * 2 ^ 6 + f.sub.toNat

def encY (opc : Nat) (f : FmtY) : Nat :=
  head opc f.g + f.x.toNat * 2 ^ 30 + f.a.toNat * 2 ^ 26 + f.a2.toNat * 2 ^ 22 + f.imm.toNat

def encP (opc : Nat) (f : FmtP) : List Nat :=
  two opc f.g f.q
    (f.td.toNat * 2 ^ 32 + f.aa.toNat * 2 ^ 28 + f.ab.toNat * 2 ^ 24 + f.taga.toNat * 2 ^ 19 + f.tagb.toNat * 2 ^ 14 +
      f.sa.toNat * 2 ^ 13 + f.sb.toNat * 2 ^ 12 + f.ta.toNat * 2 ^ 11 + f.tb.toNat * 2 ^ 10 + f.z.toNat * 2 ^ 9)
    (f.m1.toNat * 2 ^ 39 + f.n1.toNat * 2 ^ 31 + f.k1.toNat * 2 ^ 20 + f.ma.toNat * 2 ^ 16 + f.mb.toNat * 2 ^ 12 +
      f.gsa.toNat * 2 ^ 10 + f.gsb.toNat * 2 ^ 8)

def encSp (opc : Nat) (f : FmtSp) : List Nat :=
  two opc f.g f.q
    (f.as.toNat * 2 ^ 31 + f.ax.toNat * 2 ^ 27 + f.ay.toNat * 2 ^ 23 + f.xt.toNat * 2 ^ 18 + f.sa.toNat * 2 ^ 15 +
      f.sb.toNat * 2 ^ 14 + f.aq.toNat * 2 ^ 10 + f.op.toNat * 2 ^ 6)
    (f.n1.toNat * 2 ^ 30)

def encSo (opc : Nat) (f : FmtSo) : List Nat :=
  two opc f.g f.q
    (f.ak.toNat * 2 ^ 31 + f.av.toNat * 2 ^ 27 + f.ao.toNat * 2 ^ 23 + f.aw.toNat * 2 ^ 19 + f.kt.toNat * 2 ^ 14 +
      f.s.toNat * 2 ^ 13 + f.desc.toNat * 2 ^ 12 + f.iota.toNat * 2 ^ 11)
    (f.n1.toNat * 2 ^ 30 + f.m1.toNat * 2 ^ 14 + f.ak2.toNat * 2 ^ 10 + f.av2.toNat * 2 ^ 6)

def encX (opc : Nat) (f : FmtX) : List Nat :=
  two opc f.g f.q
    (f.ad.toNat * 2 ^ 31 + f.as.toNat * 2 ^ 27 + f.at_.toNat * 2 ^ 23 + f.etag.toNat * 2 ^ 18 + f.rm.toNat * 2 ^ 16 +
      f.sat.toNat * 2 ^ 15 + f.op.toNat * 2 ^ 12 + f.xs.toNat * 2 ^ 7 + f.ch.toNat * 2 ^ 3 + f.ss.toNat * 2 ^ 2 +
      f.sd.toNat * 2)
    (f.len1.toNat * 2 ^ 24 + f.perm.toNat * 2 ^ 16 + f.arrv.toNat * 2 ^ 8)

def encA (opc : Nat) (f : FmtA) : List Nat :=
  two opc f.g f.q
    (f.xd.toNat * 2 ^ 30 + f.aa.toNat * 2 ^ 26 + f.xs.toNat * 2 ^ 21 + f.xt.toNat * 2 ^ 16 + f.sz.toNat * 2 ^ 15 +
      f.s.toNat * 2 ^ 14)
    0

/-- The words of an instruction, the first at the lower address; an event has none. -/
def encode : Instr → List Nat
  | .nop f => [encS 0x0 f]
  | .mov f => [encS 0x1 f]
  | .movhi f => [encS 0x2 f]
  | .add f => [encS 0x3 f]
  | .sub f => [encS 0x4 f]
  | .mul f => [encS 0x5 f]
  | .mulh f => [encS 0x6 f]
  | .mulhu f => [encS 0x7 f]
  | .div f => [encS 0x8 f]
  | .divu f => [encS 0x9 f]
  | .rem f => [encS 0xa f]
  | .remu f => [encS 0xb f]
  | .min f => [encS 0xc f]
  | .max f => [encS 0xd f]
  | .minu f => [encS 0xe f]
  | .maxu f => [encS 0xf f]
  | .abs f => [encS 0x10 f]
  | .and f => [encS 0x11 f]
  | .or f => [encS 0x12 f]
  | .xor f => [encS 0x13 f]
  | .andn f => [encS 0x14 f]
  | .orn f => [encS 0x15 f]
  | .lut3 f => [encS 0x16 f]
  | .shl f => [encS 0x17 f]
  | .shr f => [encS 0x18 f]
  | .sar f => [encS 0x19 f]
  | .rol f => [encS 0x1a f]
  | .fshl f => [encS 0x1b f]
  | .fshr f => [encS 0x1c f]
  | .clz f => [encS 0x1d f]
  | .ctz f => [encS 0x1e f]
  | .popc f => [encS 0x1f f]
  | .sext f => [encS 0x20 f]
  | .zext f => [encS 0x21 f]
  | .bfx f => [encS 0x22 f]
  | .bfxu f => [encS 0x23 f]
  | .bfi f => [encS 0x24 f]
  | .sel f => [encS 0x25 f]
  | .cmpEq f => [encC 0x26 f]
  | .cmpNe f => [encC 0x27 f]
  | .cmpLt f => [encC 0x28 f]
  | .cmpLe f => [encC 0x29 f]
  | .cmpGt f => [encC 0x2a f]
  | .cmpGe f => [encC 0x2b f]
  | .cmpLtu f => [encC 0x2c f]
  | .cmpLeu f => [encC 0x2d f]
  | .cmpGtu f => [encC 0x2e f]
  | .cmpGeu f => [encC 0x2f f]
  | .tstZ f => [encC 0x30 f]
  | .tstNz f => [encC 0x31 f]
  | .plut f => [encS 0x32 f]
  | .pget f => [encS 0x33 f]
  | .pput f => [encS 0x34 f]
  | .fadd f => [encS 0x35 f]
  | .fsub f => [encS 0x36 f]
  | .fmul f => [encS 0x37 f]
  | .ffma f => [encS 0x38 f]
  | .fmin f => [encS 0x39 f]
  | .fmax f => [encS 0x3a f]
  | .fcvtIf f => [encS 0x3b f]
  | .fcvtFi f => [encS 0x3c f]
  | .fcmpEq f => [encC 0x3d f]
  | .fcmpLt f => [encC 0x3e f]
  | .fcmpLe f => [encC 0x3f f]
  | .fcmpUn f => [encC 0x40 f]
  | .acap f => [encS 0x41 f]
  | .amov f => [encS 0x42 f]
  | .aset f => [encS 0x43 f]
  | .aadd f => [encS 0x44 f]
  | .anrw f => [encS 0x45 f]
  | .aget f => [encS 0x46 f]
  | .ld f => [encM 0x47 f]
  | .ldu f => [encM 0x48 f]
  | .st f => [encM 0x49 f]
  | .lds f => [encM 0x4a f]
  | .pchk f => [encS 0x4b f]
  | .ldpf f => [encM 0x4c f]
  | .br f => [encBd 0x4d f]
  | .brx f => [encBr 0x4e f]
  | .call f => [encBd 0x4f f]
  | .ret f => [encBr 0x50 f]
  | .mloop f => [encBl 0x51 f]
  | .brlc f => [encBd 0x52 f]
  | .rbset f => [encS 0x53 f]
  | .semsig f => [encS 0x54 f]
  | .semwait f => [encS 0x55 f]
  | .semtry f => [encS 0x56 f]
  | .mtxlock f => [encS 0x57 f]
  | .mtxtry f => [encS 0x58 f]
  | .mtxfree f => [encS 0x59 f]
  | .xempty f => [encS 0x5a f]
  | .xfullq f => [encS 0x5b f]
  | .eqdrain f => [encS 0x5c f]
  | .eqlevel f => [encS 0x5d f]
  | .mfs f => [encS 0x5e f]
  | .mts f => [encS 0x5f f]
  | .fwslotCommit f => [encS 0x5f f]
  | .cwbind f => [encS 0x60 f]
  | .waitwp f => [encS 0x61 f]
  | .done f => [encS 0x62 f]
  | .pause f => [encS 0x63 f]
  | .vmov f => [encV 0x80 f]
  | .vsplatV f => [encV 0x81 f]
  | .vsplatSlot f => [encV 0x81 f]
  | .vzero f => [encV 0x82 f]
  | .vtag f => [encV 0x83 f]
  | .vadd f => [encV 0x84 f]
  | .vsub f => [encV 0x85 f]
  | .vmul f => [encV 0x86 f]
  | .vfma f => [encV 0x87 f]
  | .vfms f => [encV 0x88 f]
  | .vfnma f => [encV 0x89 f]
  | .vdiv f => [encV 0x8a f]
  | .vmin f => [encV 0x8b f]
  | .vmax f => [encV 0x8c f]
  | .vabs f => [encV 0x8d f]
  | .vneg f => [encV 0x8e f]
  | .vclamp f => [encV 0x8f f]
  | .vsgn f => [encV 0x90 f]
  | .vround f => [encV 0x91 f]
  | .vrsq f => [encV 0x92 f]
  | .vrcp f => [encV 0x93 f]
  | .vexp2 f => [encV 0x94 f]
  | .vlog2 f => [encV 0x95 f]
  | .vactRelu f => [encV 0x96 f]
  | .vactGelu f => [encV 0x97 f]
  | .vactSilu f => [encV 0x98 f]
  | .vactTanh f => [encV 0x99 f]
  | .vactSigm f => [encV 0x9a f]
  | .vdot4 f => [encV 0x9b f]
  | .vand f => [encV 0x9c f]
  | .vor f => [encV 0x9d f]
  | .vxor f => [encV 0x9e f]
  | .vlut3 f => [encV 0x9f f]
  | .vshl f => [encV 0xa0 f]
  | .vshr f => [encV 0xa1 f]
  | .vsar f => [encV 0xa2 f]
  | .vfshl f => [encV 0xa3 f]
  | .vfshr f => [encV 0xa4 f]
  | .vpopc f => [encV 0xa5 f]
  | .vclz f => [encV 0xa6 f]
  | .vcmpEq f => [encV 0xa7 f]
  | .vcmpNe f => [encV 0xa8 f]
  | .vcmpLt f => [encV 0xa9 f]
  | .vcmpLe f => [encV 0xaa f]
  | .vcmpGt f => [encV 0xab f]
  | .vcmpGe f => [encV 0xac f]
  | .vcmpUn f => [encV 0xad f]
  | .vclass f => [encV 0xae f]
  | .vsel f => [encV 0xaf f]
  | .klut f => [encV 0xb0 f]
  | .ksetp f => [encV 0xb1 f]
  | .kpopc f => [encV 0xb2 f]
  | .kfirst f => [encV 0xb3 f]
  | .vcvt f => [encV 0xb4 f]
  | .vquant f => [encV 0xb5 f]
  | .vdequant f => [encV 0xb6 f]
  | .vmxpack f => [encV 0xb7 f]
  | .vmxunpk f => [encV 0xb8 f]
  | .vredAdd f => [encV 0xb9 f]
  | .vredMax f => [encV 0xba f]
  | .vredMin f => [encV 0xbb f]
  | .vscanAdd f => [encV 0xbc f]
  | .vperm f => [encV 0xbd f]
  | .vrot f => [encV 0xbe f]
  | .vzip f => [encV 0xbf f]
  | .vunzip f => [encV 0xc0 f]
  | .vcompress f => [encV 0xc1 f]
  | .vexpand f => [encV 0xc2 f]
  | .vgetl f => [encV 0xc3 f]
  | .vsetl f => [encV 0xc4 f]
  | .vld f => [encV 0xc5 f]
  | .vlds f => [encV 0xc6 f]
  | .vldx f => [encV 0xc7 f]
  | .vldsp f => [encV 0xc8 f]
  | .vst f => [encV 0xc9 f]
  | .vsts f => [encV 0xca f]
  | .vstx f => [encV 0xcb f]
  | .qcfg f => [encV 0xcc f]
  | .qloop f => [encV 0xcd f]
  | .qreset f => [encV 0xce f]
  | .vpchk f => [encV 0xcf f]
  | .mma f => encP 0x100 f
  | .mmaz f => encP 0x101 f
  | .mmat f => encP 0x102 f
  | .mmaq f => encP 0x103 f
  | .mmamx f => encP 0x104 f
  | .mmast f => encP 0x105 f
  | .mmac f => encP 0x106 f
  | .mmacz f => encP 0x107 f
  | .tzero g q td tag sh => two 0x108 g q (td.toNat * 2 ^ 32 + tag.toNat * 2 ^ 19) (shapeW sh)
  | .tload g q td as tag sa sh => two 0x109 g q (td.toNat * 2 ^ 32 + as.toNat * 2 ^ 28 + tag.toNat * 2 ^ 19 + sa.toNat * 2 ^ 13) (shapeW sh)
  | .tstore g q ts ad tag rm sh => two 0x10a g q (ts.toNat * 2 ^ 32 + ad.toNat * 2 ^ 28 + tag.toNat * 2 ^ 23 + rm.toNat * 2 ^ 21) (shapeW sh)
  | .tstoreq g q ts ad tag rm s sh am gs => two 0x10b g q (ts.toNat * 2 ^ 32 + ad.toNat * 2 ^ 28 + tag.toNat * 2 ^ 23 + rm.toNat * 2 ^ 21 + s.toNat * 2 ^ 12) (shapeW sh + am.toNat * 2 ^ 16 + gs.toNat * 2 ^ 10)
  | .tstoremx g q ts ad tag rm sh am => two 0x10c g q (ts.toNat * 2 ^ 32 + ad.toNat * 2 ^ 28 + tag.toNat * 2 ^ 23 + rm.toNat * 2 ^ 21) (shapeW sh + am.toNat * 2 ^ 16)
  | .tbias g q td as tag sa sh => two 0x10d g q (td.toNat * 2 ^ 32 + as.toNat * 2 ^ 28 + tag.toNat * 2 ^ 19 + sa.toNat * 2 ^ 13) (shapeW sh)
  | .tscale g q td ar ac tag sh => two 0x10e g q (td.toNat * 2 ^ 32 + ar.toNat * 2 ^ 28 + ac.toNat * 2 ^ 24 + tag.toNat * 2 ^ 19) (shapeW sh)
  | .tact g q td fn sh => two 0x10f g q (td.toNat * 2 ^ 32 + fn.toNat) (shapeW sh)
  | .tredr g q ts ad op sh => two 0x110 g q (ts.toNat * 2 ^ 32 + ad.toNat * 2 ^ 28 + op.toNat) (shapeW sh)
  | .tredc g q ts ad op sh => two 0x111 g q (ts.toNat * 2 ^ 32 + ad.toNat * 2 ^ 28 + op.toNat) (shapeW sh)
  | .ttrans g q td ts sh => two 0x112 g q (td.toNat * 2 ^ 32 + ts.toNat * 2 ^ 29) (shapeW sh)
  | .ttov g q ts v row cnt1 => two 0x113 g q (ts.toNat * 2 ^ 32 + v.toNat * 2 ^ 26 + row.toNat * 2 ^ 19) (cnt1.toNat * 2 ^ 39)
  | .tfromv g q td v row cnt1 => two 0x114 g q (td.toNat * 2 ^ 32 + v.toNat * 2 ^ 26 + row.toNat * 2 ^ 19) (cnt1.toNat * 2 ^ 39)
  | .tclamp g q td xlo xhi sh => two 0x115 g q (td.toNat * 2 ^ 32 + xlo.toNat * 2 ^ 27 + xhi.toNat * 2 ^ 22) (shapeW sh)
  | .mcast g q ad as ranks len1 => two 0x116 g q (ad.toNat * 2 ^ 28 + as.toNat * 2 ^ 24 + ranks.toNat * 2 ^ 20) (len1.toNat * 2 ^ 24)
  | .mcwait g q rank count => two 0x117 g q (rank.toNat * 2 ^ 33 + count.toNat * 2 ^ 16) (0)
  | .mcfgKset g q kd xs => two 0x118 g q (kd.toNat * 2 ^ 28 + xs.toNat * 2 ^ 23) (0)
  | .mcfgKput g q kd xs h => two 0x118 g q (kd.toNat * 2 ^ 28 + xs.toNat * 2 ^ 23 + h.toNat * 2 ^ 22 + 2 ^ 32) (0)
  | .mcfgKlut g q kd ka kb kc tt => two 0x118 g q (kd.toNat * 2 ^ 28 + ka.toNat * 2 ^ 24 + kb.toNat * 2 ^ 20 + kc.toNat * 2 ^ 16 + tt.toNat * 2 ^ 8 + 2 * 2 ^ 32) (0)
  | .mtest g q => two 0x119 g q (0) (0)
  | .mstat g q xd sel' => two 0x11a g q (xd.toNat * 2 ^ 30 + sel'.toNat * 2 ^ 27) (0)
  | .tcopy g q td ts sh => two 0x11b g q (td.toNat * 2 ^ 32 + ts.toNat * 2 ^ 29) (shapeW sh)
  | .spmm f => encSp 0x140 f
  | .spmmz f => encSp 0x141 f
  | .spmmb f => encSp 0x142 f
  | .spmv f => encSp 0x143 f
  | .sddmm f => encSp 0x144 f
  | .spgath f => encSp 0x145 f
  | .spscat f => encSp 0x146 f
  | .spseg f => encSp 0x147 f
  | .spisect f => encSp 0x148 f
  | .spunion f => encSp 0x149 f
  | .spcsr f => encSp 0x14a f
  | .spdense f => encSp 0x14b f
  | .sptrans f => encSp 0x14c f
  | .spcount f => encSp 0x14d f
  | .spscan f => encSp 0x14e f
  | .embag f => encSp 0x14f f
  | .spcfg g q item xs => two 0x150 g q (item.toNat * 2 ^ 32 + xs.toNat * 2 ^ 23) (0)
  | .spstat g q xd sel' => two 0x151 g q (xd.toNat * 2 ^ 30 + sel'.toNat * 2 ^ 27) (0)
  | .sort f => encSo 0x160 f
  | .sortkv f => encSo 0x161 f
  | .topk f => encSo 0x162 f
  | .topkv f => encSo 0x163 f
  | .merge f => encSo 0x164 f
  | .mergekv f => encSo 0x165 f
  | .argsort f => encSo 0x166 f
  | .kth f => encSo 0x167 f
  | .unique f => encSo 0x168 f
  | .partn f => encSo 0x169 f
  | .histo f => encSo 0x16a f
  | .search f => encSo 0x16b f
  | .srtcfg g q item xs => two 0x16c g q (item.toNat * 2 ^ 32 + xs.toNat * 2 ^ 23) (0)
  | .srtstat g q xd sel' => two 0x16d g q (xd.toNat * 2 ^ 30 + sel'.toNat * 2 ^ 27) (0)
  | .xcopy f => encX 0x180 f
  | .xcopyw f => encX 0x181 f
  | .xcopyc f => encX 0x182 f
  | .xcopyh f => encX 0x183 f
  | .xfill f => encX 0x184 f
  | .xgath f => encX 0x185 f
  | .xred f => encX 0x186 f
  | .xconv f => encX 0x187 f
  | .xlayout f => encX 0x188 f
  | .xpush f => encX 0x189 f
  | .xpull f => encX 0x18a f
  | .xstream g q k ar => two 0x18b g q (k.toNat * 2 ^ 32 + ar.toNat * 2 ^ 28) (0)
  | .xstrend g q k => two 0x18c g q (k.toNat * 2 ^ 32) (0)
  | .xwptr g q xd c => two 0x18d g q (xd.toNat * 2 ^ 30 + c.toNat * 2 ^ 26) (0)
  | .xchan g q c ad => two 0x18e g q (c.toNat * 2 ^ 31 + ad.toNat * 2 ^ 27) (0)
  | .xchanClose g q c => two 0x18e g q (c.toNat * 2 ^ 31 + 2 ^ 26) (0)
  | .xabort g q c => two 0x18f g q (c.toNat * 2 ^ 31) (0)
  | .amoadd f => encA 0x190 f
  | .amomax f => encA 0x191 f
  | .amomin f => encA 0x192 f
  | .amoand f => encA 0x193 f
  | .amoor f => encA 0x194 f
  | .amoxch f => encA 0x195 f
  | .amocas f => encA 0x196 f
  | .phase g q scope group => two 0x197 g q (scope.toNat * 2 ^ 33 + group.toNat * 2 ^ 32) (0)
  | .fence g q scope => two 0x198 g q (scope.toNat * 2 ^ 33) (0)
  | .cbar g q => two 0x199 g q (0) (0)
  | .balloc g q xd ad slot => two 0x19a g q (xd.toNat * 2 ^ 30 + ad.toNat * 2 ^ 26 + slot.toNat * 2 ^ 22) (0)
  | .bref g q as => two 0x19b g q (as.toNat * 2 ^ 26) (0)
  | .bdrop g q as => two 0x19c g q (as.toNat * 2 ^ 26) (0)
  | .bxfer g q as xa rights => two 0x19d g q (as.toNat * 2 ^ 26 + xa.toNat * 2 ^ 21 + rights.toNat * 2 ^ 16) (0)
  | .gsubmit g q xq ar => two 0x19e g q (xq.toNat * 2 ^ 30 + ar.toNat * 2 ^ 26) (0)
  | .gsignal g q ab n => two 0x19f g q (ab.toNat * 2 ^ 26 + n.toNat * 2 ^ 18) (0)
  | .gwait g q xd xq => two 0x1a0 g q (xd.toNat * 2 ^ 30 + xq.toNat * 2 ^ 25) (0)
  | .arrwait g q ab xv => two 0x1a1 g q (ab.toNat * 2 ^ 26 + xv.toNat * 2 ^ 21) (0)
  | .hnotify g q xv xp => two 0x1a2 g q (xv.toNat * 2 ^ 30 + xp.toNat * 2 ^ 25) (0)
  | .xpend g q xd => two 0x1a3 g q (xd.toNat * 2 ^ 30) (0)
  | .trap f => [encY 0x1c0 f]
  | .eret f => [encY 0x1c1 f]
  | .ecallTime f => [encY 0x1c2 f]
  | .ecallErrorCount f => [encY 0x1c2 f]
  | .ecallLocation f => [encY 0x1c2 f]
  | .ecallDiscovery f => [encY 0x1c2 f]
  | .ecallUnsupported f => [encY 0x1c2 f]
  | .ctxsave f => [encY 0x1c3 f]
  | .ctxload f => [encY 0x1c4 f]
  | .leaseq f => [encY 0x1c5 f]
  | .sechash f => [encY 0x1c6 f]
  | .secver f => [encY 0x1c7 f]
  | .secmeas f => [encY 0x1c8 f]
  | .secatt f => [encY 0x1c9 f]
  | .wdpet f => [encY 0x1ca f]
  | .bblog f => [encY 0x1cb f]
  | _ => []

/-! ## Decoding (03 R50, R51) -/

/-- Decode two words for a core of a cell of a die class: the opcode first, then word 0, then word 1 (03 R50).
A one-word instruction does not read w1. -/
noncomputable def decode (c : CoreIx) (cls : Nat) (w0 w1 : Nat) : Except DecErr Instr :=
  if accepts c cls (field w0 35 9) then
    match raw w0 w1 with
    | none => .error .illegal
    | some i =>
      if (encode i).head? ≠ some (w0 % 2 ^ 64) ∨ i.wf0 = false then .error (.reserved 0)
      else if (isTwo (field w0 35 9) = true ∧ (encode i)[1]? ≠ some (w1 % 2 ^ 64)) ∨ i.wf1 = false then .error (.reserved 1)
      else .ok i
  else .error .illegal

/-- A core and a die class that accept an opcode (02 R32). -/
def coreFor (opc : Nat) : CoreIx × Nat :=
  if opc < 0x80 then (.x, 1)
  else if opc < 0x100 then (.v, 1)
  else if opc < 0x140 then (.e, 1)
  else if opc < 0x160 then (.e, 2)
  else if opc < 0x180 then (.e, 4)
  else (.x, 1)

/-- The instruction decode reads from words numbered as the opcode table numbers them: the first word in bits 63..0,
the second above it. -/
noncomputable def decodeTableWord (_nbits w : Nat) : Option Instr :=
  match decode (coreFor (field w 35 9)).1 (coreFor (field w 35 9)).2 (w % 2 ^ 64) (w / 2 ^ 64 % 2 ^ 64) with
  | .ok i => some i
  | .error _ => none

end Sys2Proof
end

