-- ==== Sys2Proof/Machine/Flags.lean ====
section
/-! DEFINITION. The sticky flags of STATUS and the fields of STATUS (02 R30). -/

namespace Sys2Proof.Machine

/-- The sticky flags (02 R30): invalid, division by zero, overflow, underflow, inexact. -/
structure Flags where
  inv : Bool := false
  dz  : Bool := false
  of_ : Bool := false
  uf  : Bool := false
  nx  : Bool := false
deriving DecidableEq, Repr, Inhabited

def Flags.or (a b : Flags) : Flags :=
  ⟨a.inv || b.inv, a.dz || b.dz, a.of_ || b.of_, a.uf || b.uf, a.nx || b.nx⟩

/-- The bits of STATUS that the flags set. -/
def Flags.word (f : Flags) : Word :=
  BitVec.ofNat 64 (f.inv.toNat * 16 + f.dz.toNat * 8 + f.of_.toNat * 4 + f.uf.toNat * 2 + f.nx.toNat)

/-- OR flags into a STATUS (06 R124). -/
def orFlags (st : Word) (f : Flags) : Word := st ||| f.word

/-- STATUS.RM (02 R30). -/
def stRM (st : Word) : Nat := field st.toNat 10 2

/-- STATUS.SRE. -/
def stSRE (st : Word) : Bool := bitOf st.toNat 9

/-- STATUS.SEED. -/
def stSeed (st : Word) : BitVec 32 := BitVec.ofNat 32 (st.toNat / 2 ^ 32)

/-- What MTS STATUS stores: reserved bits read zero, PRIV stands apart (02 R30). -/
def stMask (v : Word) : Word := v &&& 0xFFFFFFFF00000E1F

end Sys2Proof.Machine
end

