-- ==== Sys2Proof/Machine/Num.lean ====
section
/-! DEFINITION. Numbers: the element formats, exact values, rounding, saturation and NaN (06 R110–R123; 04 R62–R65). -/

namespace Sys2Proof.Machine

/-- 2 to an integer power. -/
def pow2 (i : Int) : Rat := if 0 ≤ i then ((2 ^ i.toNat : Nat) : Rat) else 1 / ((2 ^ (-i).toNat : Nat) : Rat)

/-- The integer k with 2^k ≤ x < 2^(k+1), for x > 0. -/
def ilog2 (x : Rat) : Int :=
  let k : Int := (Nat.log2 x.num.natAbs : Int) - (Nat.log2 x.den : Int)
  if x < pow2 k then k - 1 else k

/-- Rounding modes (06 R120); SR carries the draw r. -/
inductive Rm where
  | rne | rtz | rdn | rup | sr (r : Nat)
deriving DecidableEq, Repr, Inhabited

/-- The mode a two-bit code names without SR (03 R45; 02 R30). -/
def rmOf (code : Nat) : Rm :=
  match code with
  | 0 => .rne | 1 => .rtz | 2 => .rdn | _ => .rup

/-- An exact real rounded to a neighbouring integer (06 R120). -/
def roundInt (md : Rm) (x : Rat) : Int :=
  let lo := x.floor
  let fr := x - lo
  if fr = 0 then lo
  else match md with
    | .rne => if fr < 1 / 2 then lo else if 1 / 2 < fr then lo + 1 else if lo % 2 = 0 then lo else lo + 1
    | .rtz => if 0 < x then lo else lo + 1
    | .rdn => lo
    | .rup => lo + 1
    | .sr r => if (r : Int) ≤ (fr * 4294967296).floor then lo + 1 else lo

/-- What the specials of a format are (06 R110). -/
inductive Specials where
  | ieee | e4m3 | finite
deriving DecidableEq, Repr, Inhabited

/-- A floating element format with a sign: exponent and mantissa widths, bias, specials, canonical NaN (06 R110). -/
structure Fmt where
  e    : Nat
  m    : Nat
  bias : Int
  sp   : Specials
  nan  : Nat
deriving DecidableEq, Repr, Inhabited

def fp32 : Fmt := ⟨8, 23, 127, .ieee, 0x7FC00000⟩
def bf16 : Fmt := ⟨8, 7, 127, .ieee, 0x7FC0⟩
def fp16 : Fmt := ⟨5, 10, 15, .ieee, 0x7E00⟩
def e4m3 : Fmt := ⟨4, 3, 7, .e4m3, 0x7F⟩
def e5m2 : Fmt := ⟨5, 2, 15, .ieee, 0x7E⟩
def e3m2 : Fmt := ⟨3, 2, 3, .finite, 0⟩
def e2m3 : Fmt := ⟨2, 3, 1, .finite, 0⟩
def e2m1 : Fmt := ⟨2, 1, 1, .finite, 0⟩

/-- The exact value of a pattern: a real with its sign bit, an infinity, or a NaN (06 R110). -/
inductive Fp where
  | fin (v : Rat) (neg : Bool)
  | inf (neg : Bool)
  | nan (signalling : Bool)
deriving DecidableEq, Repr, Inhabited

/-- A signed magnitude. -/
def sgn (neg : Bool) (x : Rat) : Rat := if neg then -x else x

namespace Fmt

def emin (f : Fmt) : Int := 1 - f.bias

/-- Decode a pattern (06 R110). -/
def value (f : Fmt) (p : Nat) : Fp :=
  let neg := bitOf p (f.e + f.m)
  let ex := field p f.m f.e
  let mt := field p 0 f.m
  let top := 2 ^ f.e - 1
  let num : Fp :=
    if ex = 0 then .fin (sgn neg (mt * pow2 (f.emin - f.m))) neg
    else .fin (sgn neg ((2 ^ f.m + mt : Nat) * pow2 (ex - f.bias - f.m))) neg
  match f.sp with
  | .ieee => if ex = top then (if mt = 0 then .inf neg else .nan (mt < 2 ^ (f.m - 1))) else num
  | .e4m3 => if ex = top ∧ mt = 2 ^ f.m - 1 then .nan false else num
  | .finite => num

/-- The largest finite magnitude (06 R110). -/
def max (f : Fmt) : Rat :=
  match f.sp with
  | .ieee => (2 ^ (f.m + 1) - 1 : Nat) * pow2 ((2 ^ f.e - 2 : Nat) - f.bias - f.m)
  | .e4m3 => (2 ^ (f.m + 1) - 2 : Nat) * pow2 ((2 ^ f.e - 1 : Nat) - f.bias - f.m)
  | .finite => (2 ^ (f.m + 1) - 1 : Nat) * pow2 ((2 ^ f.e - 1 : Nat) - f.bias - f.m)

/-- The pattern with a sign and a magnitude pattern. -/
def signed (f : Fmt) (neg : Bool) (p : Nat) : Nat := (if neg then 2 ^ (f.e + f.m) else 0) + p

/-- The pattern of a value of the format. -/
def pattern (f : Fmt) (v : Rat) (neg : Bool) : Nat :=
  let a := |v|
  if a = 0 then f.signed neg 0
  else
    let k := ilog2 a
    if k < f.emin then f.signed neg (a / pow2 (f.emin - f.m)).floor.toNat
    else f.signed neg ((k + f.bias).toNat * 2 ^ f.m + ((a / pow2 (k - f.m)).floor.toNat - 2 ^ f.m))

/-- The pattern of infinity. -/
def infinity (f : Fmt) (neg : Bool) : Nat := f.signed neg ((2 ^ f.e - 1) * 2 ^ f.m)

/-- The pattern of the largest finite magnitude. -/
def largest (f : Fmt) (neg : Bool) : Nat := f.pattern (sgn neg f.max) neg

/-- Round an exact real, whose zero result has sign neg, to a pattern with its flags (06 R120, R123). -/
def round (f : Fmt) (md : Rm) (sat : Bool) (x : Rat) (neg : Bool) : Nat × Flags :=
  let a := |x|
  if a = 0 then (f.signed neg 0, {})
  else
    let k := ilog2 a
    let fine := (roundInt md (x / pow2 (k - f.m)) : Rat) * pow2 (k - f.m)
    if f.max < a then
      if sat ∨ f.sp ≠ .ieee then (f.largest neg, { of_ := true, nx := true })
      else if f.max < |fine| then
        let toInf := match md with
          | .rne => true | .sr _ => true | .rtz => false | .rdn => neg | .rup => !neg
        (if toInf then f.infinity neg else f.largest neg, { of_ := true, nx := true })
      else (f.largest neg, { nx := true })
    else
      let q := pow2 ((if k < f.emin then f.emin else k) - f.m)
      let y := (roundInt md (x / q) : Rat) * q
      let nx := y != x
      (f.pattern y neg, { nx := nx, uf := nx && decide (|fine| < pow2 f.emin) })

/-- The result pattern of arithmetic (06 R120, R123). Under SAT an infinity becomes the largest finite magnitude. -/
def result (f : Fmt) (md : Rm) (sat : Bool) : Fp → Nat × Flags
  | .fin v neg => f.round md sat v neg
  | .inf neg => if sat then (f.largest neg, { of_ := true }) else (f.infinity neg, {})
  | .nan _ => (f.nan, {})

/-- A conversion to the format (06 R123). -/
def convert (f : Fmt) (md : Rm) : Fp → Nat × Flags
  | .fin v neg => f.round md true v neg
  | .inf neg => (f.largest neg, { of_ := true })
  | .nan s => if f.sp = .finite then (0, { inv := true }) else (f.nan, { inv := s })

end Fmt

/-! ## Exact arithmetic on values (04 R63) -/

namespace Fp

def isNaN : Fp → Bool
  | nan _ => true
  | _ => false

def isSig : Fp → Bool
  | nan s => s
  | _ => false

def negative : Fp → Bool
  | fin _ n => n
  | inf n => n
  | nan _ => false

/-- A NaN result of operands one of which is a NaN: INV for a signalling one. -/
def propagate (l : List Fp) : Fp × Flags := (nan false, { inv := l.any isSig })

/-- Sum; an exact zero of unlike signs is −0 when rounding down, else +0 (IEEE 754). -/
def add (down : Bool) (a b : Fp) : Fp × Flags :=
  match a, b with
  | nan _, _ => propagate [a, b]
  | _, nan _ => propagate [a, b]
  | inf s, inf t => if s = t then (inf s, {}) else (nan false, { inv := true })
  | inf s, fin _ _ => (inf s, {})
  | fin _ _, inf t => (inf t, {})
  | fin x s, fin y t =>
    let v := x + y
    (fin v (if v = 0 then (if s = t then s else down) else decide (v < 0)), {})

def neg : Fp → Fp
  | fin v s => fin (-v) (!s)
  | inf s => inf (!s)
  | nan s => nan s

def abs : Fp → Fp
  | fin v _ => fin |v| false
  | inf _ => inf false
  | nan s => nan s

def mul (a b : Fp) : Fp × Flags :=
  match a, b with
  | nan _, _ => propagate [a, b]
  | _, nan _ => propagate [a, b]
  | inf s, inf t => (inf (s != t), {})
  | inf s, fin y t => if y = 0 then (nan false, { inv := true }) else (inf (s != t), {})
  | fin x s, inf t => if x = 0 then (nan false, { inv := true }) else (inf (s != t), {})
  | fin x s, fin y t => (fin (x * y) (s != t), {})

def div (a b : Fp) : Fp × Flags :=
  match a, b with
  | nan _, _ => propagate [a, b]
  | _, nan _ => propagate [a, b]
  | inf _, inf _ => (nan false, { inv := true })
  | inf s, fin _ t => (inf (s != t), {})
  | fin _ s, inf t => (fin 0 (s != t), {})
  | fin x s, fin y t =>
    if y = 0 then (if x = 0 then (nan false, { inv := true }) else (inf (s != t), { dz := true }))
    else (fin (x / y) (s != t), {})

/-- a × b + c with no intermediate rounding; 0 × ∞ sets INV even beside a quiet NaN c (04 R63). -/
def fma (down : Bool) (a b c : Fp) : Fp × Flags :=
  let (p, fl) := mul a b
  let (r, fl2) := add down p c
  (r, fl.or fl2)

/-- Order of two values, none beside a NaN. -/
def cmp (a b : Fp) : Option Ordering :=
  match a, b with
  | nan _, _ => none
  | _, nan _ => none
  | inf s, inf t => some (if s = t then .eq else if s then .lt else .gt)
  | inf s, fin _ _ => some (if s then .lt else .gt)
  | fin _ _, inf t => some (if t then .gt else .lt)
  | fin x _, fin y _ => some (if x < y then .lt else if x = y then .eq else .gt)

/-- Smaller (or larger) operand: −0 < +0, one NaN gives the other operand, INV on a signalling NaN (04 R63). -/
def minmax (larger : Bool) (a b : Fp) : Fp × Flags :=
  let fl : Flags := { inv := a.isSig || b.isSig }
  match cmp a b with
  | none => (if a.isNaN then (if b.isNaN then nan false else b) else a, fl)
  | some .eq => (if a.negative != larger then a else b, fl)
  | some .lt => (if larger then b else a, fl)
  | some .gt => (if larger then a else b, fl)

end Fp

/-! ## Integers -/

/-- The integer a w-bit pattern holds (06 R111). -/
def intOf (w : Nat) (signed : Bool) (p : Nat) : Int :=
  if signed && bitOf p (w - 1) then (p % 2 ^ w : Nat) - (2 ^ w : Nat) else (p % 2 ^ w : Nat)

/-- The w-bit pattern of an integer modulo 2^w. -/
def patOf (w : Nat) (i : Int) : Nat := (i % (2 ^ w : Nat)).toNat

def intMin (w : Nat) (signed : Bool) : Int := if signed then -(2 ^ (w - 1) : Nat) else 0
def intMax (w : Nat) (signed : Bool) : Int := if signed then (2 ^ (w - 1) : Nat) - 1 else (2 ^ w : Nat) - 1

/-- Clamp to the range of a w-bit integer. -/
def clampInt (w : Nat) (signed : Bool) (i : Int) : Int :=
  if i < intMin w signed then intMin w signed else if intMax w signed < i then intMax w signed else i

/-- A value converted to a w-bit integer (04 R64; 06 R123): saturation and NaN set INV, other inexact results NX. An infinity
sets INV and not OF: of the two rules of R123 the model takes the one for integers (DESIGN CHOICE, log 81). -/
def toInt (w : Nat) (signed : Bool) (md : Rm) : Fp → Nat × Flags
  | .nan _ => (0, { inv := true })
  | .inf neg => (patOf w (if neg then intMin w signed else intMax w signed), { inv := true })
  | .fin v _ =>
    let i := roundInt md v
    let c := clampInt w signed i
    if c ≠ i then (patOf w c, { inv := true }) else (patOf w i, { nx := (i : Rat) != v })

/-- An integer as a value. -/
def ofInt (i : Int) : Fp := .fin i (decide (i < 0))

end Sys2Proof.Machine
end

