-- ==== Sys2Proof/Machine/Hash.lean ====
section
/-! DEFINITION. SHAKE256 (FIPS 202) and verification of SLH-DSA-SHAKE-256s (FIPS 205), which 15 R306 names, and the CRC-32 of flits and
messages. The spec names the standards and does not restate them: this file is PRESUMED from them (log 14). -/

namespace Sys2Proof.Machine

/-! ## CRC-32 (17 R317, R330) -/

/-- One bit of a division by the polynomial 0x04C11DB7. -/
def crcBit (c : BitVec 32) (b : Bool) : BitVec 32 := if c.msb != b then (c <<< 1) ^^^ 0x04C11DB7 else c <<< 1

/-- The bits of bytes in the order of the division. -/
def crcBits (bs : List Byte) : List Bool :=
  bs.flatMap (fun b => let l := (List.range 8).map b.getLsbD; if Config.crcLow then l else l.reverse)

/-- The CRC-32 of bytes; what the spec leaves open of it is free (log 2). -/
def crc32 (bs : List Byte) : BitVec 32 :=
  let c := (crcBits bs).foldl crcBit Config.crcInit
  (if Config.crcLow then c.reverse else c) ^^^ Config.crcOut

/-! ## SHAKE256 -/

/-- Rotate a 64-bit lane left. -/
def rotl64 (v n : Nat) : Nat := (v * 2 ^ n + v / 2 ^ (64 - n)) % 2 ^ 64

/-- The lane at column x and row y of a state of 25 lanes, both counted around. -/
def lane (st : List Nat) (x y : Nat) : Nat := (st[x % 5 + y % 5 * 5]?).getD 0

/-- A state from its lanes by column and row. -/
def lanes25 (f : Nat → Nat → Nat) : List Nat := (List.range 25).map (fun i => f (i % 5) (i / 5))

/-- The walk that numbers the lanes other than (0, 0): n steps from (x, y) until the lane (u, v), which counts steps. -/
def walkTo (u v : Nat) : Nat → Nat → Nat → Nat → Nat
  | 0, _, _, _ => 0
  | n + 1, t, x, y => if x = u ∧ y = v then (t + 1) * (t + 2) / 2 % 64 else walkTo u v n (t + 1) y ((2 * x + 3 * y) % 5)

/-- Rotations of the 25 lanes. -/
def turns : List Nat := lanes25 (fun x y => walkTo x y 24 0 1 0)

/-- The state of the register of eight bits, with taps 0, 4, 5 and 6, after n steps from 1. -/
def tapped : Nat → Nat
  | 0 => 1
  | n + 1 => let r := 2 * tapped n; if r < 256 then r else r ^^^ 0x171

/-- The constant of round i: bit 2^j - 1 is the register's output after 7i + j steps. -/
def roundWord (i : Nat) : Nat := ((List.range 7).map (fun j => tapped (7 * i + j) % 2 * 2 ^ (2 ^ j - 1))).sum

def roundWords : List Nat := (List.range 24).map roundWord

/-- The linear half of a round: each lane takes the parity of two columns, then the lanes turn and change places. -/
def spread (st : List Nat) : List Nat :=
  let par := (List.range 5).map (fun x => ((List.range 5).map (lane st x)).foldl (· ^^^ ·) 0)
  let mixed := lanes25 (fun x y => lane st x y ^^^ lane par (x + 4) 0 ^^^ rotl64 (lane par (x + 1) 0) 1)
  let turned := (mixed.zip turns).map (fun p => rotl64 p.1 p.2)
  lanes25 (fun x y => lane turned (x + 3 * y) x)

/-- A round with its constant. -/
def kRound (st : List Nat) (w : Nat) : List Nat :=
  let m := spread st
  lanes25 (fun x y =>
    lane m x y ^^^ (lane m (x + 2) y - (lane m (x + 1) y &&& lane m (x + 2) y)) ^^^ (if x + y = 0 then w else 0))

def keccakF (st : List Nat) : List Nat := roundWords.foldl kRound st

/-- Eight bytes as a lane. -/
def laneOf : List Byte → Nat
  | [] => 0
  | b :: bs => b.toNat + 256 * laneOf bs

/-- Split into lanes of eight bytes, for at most n lanes. -/
def lanesOf : Nat → List Byte → List Nat
  | 0, _ => []
  | n + 1, bs => laneOf (bs.take 8) :: lanesOf n (bs.drop 8)

def laneBytes (v : Nat) : List Byte := (List.range 8).map (fun i => BitVec.ofNat 8 (v / 256 ^ i))

/-- Absorb n blocks of 136 bytes. -/
def absorb : Nat → List Nat → List Byte → List Nat
  | 0, st, _ => st
  | n + 1, st, bs =>
    let blk := lanesOf 17 (bs.take 136)
    absorb n (keccakF (lanes25 (fun x y => lane st x y ^^^ lane blk x y))) (bs.drop 136)

/-- Squeeze n blocks. -/
def squeeze : Nat → List Nat → List Byte
  | 0, _ => []
  | n + 1, st => (st.take 17).flatMap laneBytes ++ squeeze n (keccakF st)

/-- The message with its suffix 1111, a one, zeros and a final one, to a multiple of 136 bytes. -/
def shakePad (m : List Byte) : List Byte :=
  let r := 136 - m.length % 136
  if r = 1 then m ++ [0x9F] else m ++ 0x1F :: List.replicate (r - 2) 0 ++ [0x80]

/-- The first n bytes of SHAKE256 of a message. -/
def shake256 (m : List Byte) (n : Nat) : List Byte :=
  let p := shakePad m
  (squeeze ((n + 135) / 136) (absorb (p.length / 136) (List.replicate 25 0) p)).take n

/-! ## SLH-DSA-SHAKE-256s: n = 32, h = 64, d = 8, h' = 8, a = 14, k = 22, lg w = 4, m = 47 -/

/-- A big-endian number of n bytes. -/
def beBytes (n v : Nat) : List Byte := (List.range n).map (fun i => BitVec.ofNat 8 (v / 256 ^ (n - 1 - i)))

def beNat (bs : List Byte) : Nat := bs.foldl (fun v b => v * 256 + b.toNat) 0

/-- A hash address: layer, tree, type and three words. -/
structure Adrs where
  layer : Nat := 0
  tree  : Nat := 0
  type  : Nat := 0
  w1    : Nat := 0
  w2    : Nat := 0
  w3    : Nat := 0

def Adrs.bytes (a : Adrs) : List Byte :=
  beBytes 4 a.layer ++ beBytes 12 a.tree ++ beBytes 4 a.type ++ beBytes 4 a.w1 ++ beBytes 4 a.w2 ++ beBytes 4 a.w3

/-- The tweakable hash F, H or T of any input. -/
def slhHash (seed : List Byte) (a : Adrs) (m : List Byte) : List Byte := shake256 (seed ++ a.bytes ++ m) 32

/-- Digit i of b bits of a big-endian byte string. -/
def base2b (bs : List Byte) (b i : Nat) : Nat := beNat bs / 2 ^ (8 * bs.length - (i + 1) * b) % 2 ^ b

/-- s steps of a chain from place i. -/
def slhChain (seed : List Byte) (a : Adrs) : Nat → Nat → List Byte → List Byte
  | 0, _, x => x
  | s + 1, i, x => slhChain seed a s (i + 1) (slhHash seed { a with w3 := i } x)

/-- Climb a tree from a leaf: authentication nodes from the lowest. -/
def slhClimb (seed : List Byte) (a : Adrs) : List (List Byte) → Nat → Nat → Nat → List Byte → List Byte
  | [], _, _, _, node => node
  | au :: auth, height, pos, idx, node =>
    let a' := { a with w2 := height, w3 := pos / 2 }
    slhClimb seed a auth (height + 1) (pos / 2) (idx / 2)
      (slhHash seed a' (if idx % 2 = 0 then node ++ au else au ++ node))

/-- Cut into n pieces of 32 bytes. -/
def cut32 : Nat → List Byte → List (List Byte)
  | 0, _ => []
  | n + 1, bs => bs.take 32 :: cut32 n (bs.drop 32)

def wotsPk (seed : List Byte) (a : Adrs) (sig m : List Byte) : List Byte :=
  let d1 := (List.range 64).map (base2b m 4)
  let csum := (d1.map (15 - ·)).sum * 16
  let ds := d1 ++ (List.range 3).map (base2b (beBytes 2 csum) 4)
  let tops := ((cut32 67 sig).zip ds).zipIdx.map (fun p => slhChain seed { a with w2 := p.2 } (15 - p.1.2) p.1.2 p.1.1)
  slhHash seed { a with type := 1, w2 := 0, w3 := 0 } tops.flatten

def xmssPk (seed : List Byte) (a : Adrs) (idx : Nat) (sig m : List Byte) : List Byte :=
  let leaf := wotsPk seed { a with type := 0, w1 := idx, w2 := 0, w3 := 0 } (sig.take 2144) m
  slhClimb seed { a with type := 2, w1 := 0, w2 := 0, w3 := 0 } (cut32 8 (sig.drop 2144)) 1 idx idx leaf

def forsPk (seed : List Byte) (a : Adrs) (sig md : List Byte) : List Byte :=
  let roots := (List.range 22).map (fun i =>
    let part := (sig.drop (480 * i)).take 480
    let idx := base2b md 14 i
    let pos := i * 2 ^ 14 + idx
    let leaf := slhHash seed { a with w2 := 0, w3 := pos } (part.take 32)
    slhClimb seed a (cut32 14 (part.drop 32)) 1 pos idx leaf)
  slhHash seed { a with type := 4, w2 := 0, w3 := 0 } roots.flatten

/-- The hypertree: n layers from layer j. -/
def htRoot (seed : List Byte) : Nat → Nat → Nat → Nat → List Byte → List Byte → List Byte
  | 0, _, _, _, _, node => node
  | n + 1, j, tree, leaf, sig, node =>
    htRoot seed n (j + 1) (tree / 256) (tree % 256) (sig.drop 2400)
      (xmssPk seed { layer := j, tree := tree } leaf (sig.take 2400) node)

/-- Pure SLH-DSA verification with an empty context: message, 29,792-byte signature, 64-byte public key. -/
def slhVerify (m sig pk : List Byte) : Bool :=
  let seed := pk.take 32
  let root := pk.drop 32
  let dig := shake256 (sig.take 32 ++ seed ++ root ++ ([0, 0] ++ m)) 47
  let tree := beNat ((dig.drop 39).take 7) % 2 ^ 56
  let leaf := beNat ((dig.drop 46).take 1) % 256
  let fors := forsPk seed { tree := tree, type := 3, w1 := leaf } ((sig.drop 32).take 10560) (dig.take 39)
  sig.length == 29792 && pk.length == 64 && htRoot seed 8 0 tree leaf (sig.drop 10592) fors == root

end Sys2Proof.Machine
end

