-- ==== Sys2Proof/Machine/Firm.lean ====
section
/-! DEFINITION. The firmware core, the image slots, the black-box ring, the discovery table and the scheduler control
block (05 R103–R106; 19; 20). -/

namespace Sys2Proof.Machine

/-! ## The black-box ring (15 R308; 19 R351; 20 R356) -/

/-- Word 0 of a record: SEQ, CODE, CORE and CELL (15 R308). -/
def ringWord0 (seq code core cell : Nat) : Word :=
  wNat (seq % 2 ^ 32 * 2 ^ 32 + code % 2 ^ 16 * 2 ^ 16 + core * 2 ^ 14 + cell * 2 ^ 7)

/-- Append a record to a die's ring, unless the ring is frozen (19 R351). ws are words 2 to 7. The die's counter holds the number last
issued (20 R356). -/
def State.logRec (s : State) (d code core cell : Nat) (ws : List Word) : State :=
  let die := s.die d
  if die.frozen then s
  else
    let record := ringWord0 (die.seq + 1) code core cell :: wNat s.time :: ws
    s.modDie d (fun x => { x with
      ring := kset x.ring x.next record
      next := (x.next + 1) % 1024
      wraps := if x.next + 1 = 1024 then min (x.wraps + 1) (2 ^ 32 - 1) else x.wraps
      seq := (x.seq + 1) % 2 ^ 32 })

/-- A record written by hardware: no received event caused it, so words 2 to 5 are zero but word 3 where given. -/
def State.logHw (s : State) (d code : Nat) (w3 w6 w7 : Word) : State :=
  s.logRec d code 2 127 [0, w3, 0, 0, w6, w7]

/-- A record written by hardware that acts on an event of another die: word 4 holds that die with UNIT 3, the source of its records, and
word 5 the number of its last event (17 R320, R321; 19 R351). -/
def State.logCause (s : State) (d code src : Nat) (w6 w7 : Word) : State :=
  s.logRec d code 2 127 [0, 0, wNat (src * 4 + 3), wNat ((s.die src).seq % 2 ^ 32), w6, w7]

/-! ## Measurements and slots (19 R344 to R348) -/

/-- Extend measurement register i (15 R307). -/
def State.extend (s : State) (i : Nat) (v : List Byte) : State :=
  { s with geode := { s.geode with meas := vset s.geode.meas i (shake256 (vget s.geode.meas i [] ++ v) 64) } }

/-- SM of a slot: false A, true B. -/
def Geode.sm (g : Geode) (slot : Bool) : List Byte := if slot then g.smb else g.sma

def Geode.ver (g : Geode) (slot : Bool) : Bool := if slot then g.verb else g.vera

/-- FWSLOT as MFS reads it on the scheduler die (19 R346). -/
def Geode.fwslot (g : Geode) : Word :=
  wNat (g.verb.toNat * 128 + g.vera.toNat * 64 + g.rolled.toNat * 8 + g.pending.toNat * 4 + g.stage.toNat * 2 + g.active.toNat)

/-- A hand-over is in progress (19 R346). -/
def Geode.hip (g : Geode) : Bool := g.stage || g.pending

/-- The key of a die's service cell. -/
def svc (d : Nat) : Nat := d * 128 + 127

/-- Base of an image slot in the scheduler's service-cell scratchpad (19 R345). -/
def slotBase (slot : Bool) : Nat := if slot then 0x100000 else 0

/-- The firmware entry of a die (19 R339, R345). -/
def State.fwEntry (s : State) (d : Nat) : Nat :=
  if d = Config.schedDie then slotBase s.geode.active + 8 else 0

/-- A core as firmware starts on it (19 R339). -/
def State.fwCore (s : State) (d reason : Nat) : Core :=
  let x : Vector XReg 32 := Vector.replicate 32 {}
  let x := vset x 1 { val := if d = Config.schedDie then s.geode.hoseq else 0 }
  let x := vset x 2 { val := wNat reason }
  let a : Vector AReg 16 := Vector.replicate 16 {}
  let a := vset a 1 { limit := wNat (2 ^ 48), kind := 3, rights := 0b10111 }
  let a := vset a 2 { limit := wNat (s.padSize (svc d)), kind := 1, rights := 0b00011 }
  { x := x, a := a, pc := wNat (s.fwEntry d), run := .running }

/-- Leave every queue of waiters as core c (04 R86). -/
def Bank.leave (b : Bank) (c : CoreIx) : Bank :=
  { b with
    sems := b.sems.map (fun x => { x with queue := x.queue.filter (fun w => w.who != .core c) })
    mutexes := b.mutexes.map (fun m => { m with queue := m.queue.filter (· != c) }) }

/-- Start or restart the firmware of a die (19 R339, R349): an instruction that blocked the old core waits no longer (04 R86). Its E and V
cores never fetch (05 R89). -/
def State.startFw (s : State) (d reason : Nat) : State :=
  let core := s.fwCore d reason
  let k := svc d
  let ic := (s.mem.part (padBase k) (s.padSize k))
  s.modCell k (fun c => { c with imem := ic, b := { c.b.leave .x with e := { run := .absent }, v := { run := .absent }, x := core } })

/-- Restart the 100 ms watchdog of a die (15 R308; 19 R349). -/
def State.petDog (s : State) (d : Nat) : State := s.modDie d (fun x => { x with wdStart := s.time })

/-- Word 6 of the records of a hand-over: old ACTIVE in [1], new ACTIVE in [0] (20 R356). -/
def activeWord (old new : Bool) : Word := wNat (old.toNat * 2 + new.toNat)

/-- The commit of a hand-over (19 R347). -/
def State.commit (s : State) (new : Bool) : State :=
  let old := s.geode.active
  let hs := s.geode.hoseq + 1
  let s := { s with geode := { s.geode with active := new, pending := true, stage := false, hoseq := hs } }
  let s := s.extend 1 (s.geode.sm new)
  let s := s.logHw Config.schedDie 0x0002 hs (activeWord old new) hs
  let s := { s with geode := { s.geode with beat := some s.time } }
  (s.startFw Config.schedDie 1).petDog Config.schedDie

/-- The roll-back (19 R348). -/
def State.rollback (s : State) : State :=
  let cur := s.geode.active
  let hs := s.geode.hoseq + 1
  let s := { s with geode := { s.geode with active := !cur, pending := false, rolled := true, hoseq := hs, beat := none } }
  let s := s.extend 1 (s.geode.sm (!cur))
  let s := s.logHw Config.schedDie 0x0003 hs (activeWord cur (!cur)) hs
  (s.startFw Config.schedDie 2).petDog Config.schedDie

/-- The signed object in a slot of the scheduler's service cell: L, the image and the signature (19 R345). -/
def State.slotObject (s : State) (slot : Bool) : List Byte :=
  let a := padBase (svc Config.schedDie) + slotBase slot
  let l := field (leNat (s.chipBytes a 8)) 0 32
  s.chipBytes a (min (8 + l + 29792) 0x100000)

/-- Have the 5 ms of the heartbeat timer passed? Hardware tests this before it executes a WDPET (19 R348; 20 R356). -/
def State.beatDue (s : State) : Bool :=
  s.geode.pending && (match s.geode.beat with | some t => decide (t + 5000000 ≤ s.time) | none => false)

/-- WDPET on a die: it restarts the watchdog, and the first one while PENDING = 1 ends the hand-over (19 R348). -/
def State.wdpet (s : State) (d : Nat) : State :=
  let s := s.petDog d
  if d = Config.schedDie ∧ s.geode.pending then
    let act := s.geode.active
    let obj := s.slotObject act
    let s := s.logHw d 0x0004 s.geode.hoseq (activeWord (!act) act) s.geode.hoseq
    { s with
      geode := { s.geode with pending := false, beat := none }
      flash := if act then { s.flash with boot := act, b := { bytes := obj } } else { s.flash with boot := act, a := { bytes := obj } } }
  else s

/-- A watchdog expiry (reason 0) or a DOUBLE_TRAP (0x1D) of a die's firmware: logged, then a restart, or the roll-back
while PENDING = 1 (19 R349). -/
def State.fwFail (s : State) (d reason : Nat) : State :=
  let pc := (s.core (svc d) .x).pc
  let s := s.logHw d 0x0001 0 (wNat reason) pc
  if d = Config.schedDie ∧ s.geode.pending then s.rollback else (s.startFw d 3).petDog d

/-! ## The discovery table (05 R103 to R106) and the scheduler control block (20 R354) -/

/-- NCELLS and CLASS of a slot (05 R104). -/
def State.discWord (s : State) (i : Nat) : Word :=
  if i = 0 then
    wNat (s.sched.discVer % 2 ^ 32 * 2 ^ 32 + ((List.range 64).filter (fun d => Config.dieClass s.pop d != 0)).length * 256 + 1)
  else if i = 1 then wNat (match s.pop with | .l => 0 | .m => 1 | .s => 2)
  else if i < 4 then 0
  else if i < 516 then
    let d := (i - 4) / 8
    let cls := Config.dieClass s.pop d
    let x := s.die d
    if cls = 0 then 0
    else match (i - 4) % 8 with
      | 0 => wNat (x.sver % 2 ^ 16 * 2 ^ 32 + x.fver % 2 ^ 16 * 2 ^ 16 + Config.cellsOf cls * 256 + x.st % 4 * 64 + cls)
      | 1 => wNat x.avail.toNat
      | 2 => wNat x.fullw.toNat
      | 3 => wNat (x.fence.toNat % 2 ^ 64)
      | 4 => wNat (x.fence.toNat / 2 ^ 64)
      | _ => 0
  else 0

/-- The entries of the discovery table change: VER is odd until the update is published (05 R105). An update under way carries the
changes of a further event. -/
def State.discUpdate (s : State) : State :=
  if s.sched.discVer % 2 = 1 then s else { s with sched := { s.sched with discVer := (s.sched.discVer + 1) % 2 ^ 32 } }

/-- An update caused by an event of a die, which the scheduler die logs with that cause; the spec gives the record no code and no detail:
they are free (17 R321; log 2). -/
def State.discCaused (s : State) (d : Nat) : State :=
  s.discUpdate.bump.bump.bump.logCause Config.schedDie (Config.freeWord s.free % 0x8000) d (wNat (Config.freeWord (s.free + 1)))
    (wNat (Config.freeWord (s.free + 2)))

/-- An update of the discovery table under way is published, or is still under way (05 R105; log 2). -/
def State.discSettle (s : State) : State :=
  if s.geode.boot = .up ∧ s.sched.discVer % 2 = 1 then
    if Config.freeBool s.free then { s.bump with sched := { s.sched with discVer := (s.sched.discVer + 1) % 2 ^ 32 } } else s.bump
  else s

def State.queue (s : State) (q : Nat) : Queue := kget {} s.sched.queues q

/-- Word 0 of a queue's configuration (13 R256). -/
def Queue.word0 (q : Queue) : Word :=
  wNat (q.enable.toNat * 2 ^ 63 + q.specok.toNat * 2 ^ 62 + q.level % 4 * 2 ^ 56 + q.tickets % 256 * 2 ^ 48 +
    q.gen % 16 * 2 ^ 12 + q.asid % 4096)

/-- Nodes of a queue in flight (13 R261). -/
def State.inFlight (s : State) (q : Nat) : Nat :=
  (s.sched.nodes.filter (fun e => e.2.q == q && e.2.st != .retired && !e.2.spec)).length

/-- The word of the scheduler control block at an offset of the scratchpad (20 R354). The write of a launch record is under way until package
time passes (log 72). -/
def State.ctlWord (s : State) (off : Nat) : Word :=
  if off = 0x300000 then (if s.geode.hip && s.sched.wlast != some s.time then 1 else 0)
  else if 0x301000 ≤ off ∧ off < 0x309000 then
    let q := s.queue ((off - 0x301000) / 32)
    match (off - 0x301000) % 32 / 8 with
    | 0 => q.word0
    | 1 => wNat (q.hevt % 2 ^ 32)
    | 2 => wNat (s.inFlight ((off - 0x301000) / 32) % 2 ^ 32 * 2 ^ 32 + q.nextseq % 2 ^ 32)
    | _ => 0
  else if 0x309000 ≤ off ∧ off < 0x30A020 then s.discWord ((off - 0x309000) / 8)
  else 0

/-- Does an on-chip address lie in the scheduler control block? -/
def inCtl (a : Nat) : Bool :=
  decide (padBase (svc Config.schedDie) + 0x300000 ≤ a) && decide (a < padBase (svc Config.schedDie) + 0x400000)

/-- n bytes on chip as a reader sees them: the control block is kept by hardware (20 R354), and Region 4 and 6 hold the
scalar registers and semaphores (10 R191). -/
def State.seeByte (s : State) (a : Nat) : Byte :=
  let k := chipKey a
  let off := chipOff a
  let pick := fun (w : Nat) (i : Nat) => BitVec.ofNat 8 (w / 256 ^ i)
  match chipRegion a with
  | 0 =>
    if inCtl a then pick (s.ctlWord (off - off % 8)).toNat (off % 8) else s.mem.byte a
  | 4 =>
    let c : CoreIx := match off / 0x400 with | 0 => .e | 1 => .v | _ => .x
    if off % 0x400 < 256 then pick (vget (s.core k c).x (off % 0x400 / 8) {}).val.toNat (off % 8) else 0
  | 6 =>
    let b := s.bank k
    if off < 128 then pick (vget b.sems (off / 4) {}).val (off % 4)
    else if 0x100 ≤ off ∧ off < 0x140 then
      pick (match (vget b.mutexes ((off - 0x100) / 4) {}).owner with | none => 0 | some .e => 1 | some .v => 2 | some .x => 3) (off % 4)
    else 0
  | 7 =>
    if 0x2000 ≤ off then pick ((s.cell k).active.toNat + (s.cell k).shadow.isSome.toNat * 2) (off - 0x2000)
    else
      -- bank 0 at 0, bank 1 at 0x1000 (05 R100): the active bank holds the running record, the other the shadow
      let bankNo := off / 0x1000 == 1
      let t := if bankNo == (s.cell k).active then (s.bank k).task else (s.cell k).shadow
      match t with
      | some t => pick (((t.record[off % 0x1000 / 8]?).getD 0) &&& recMask (off % 0x1000 / 8)).toNat (off % 8)
      | none => s.mem.byte a
  | _ => s.mem.byte a

/-- n bytes on chip as a reader sees them. -/
def State.see (s : State) (a n : Nat) : List Byte :=
  let ctl := padBase (svc Config.schedDie)
  if chipRegion a < 4 ∧ (a + n ≤ ctl + 0x300000 ∨ ctl + 0x400000 ≤ a) then s.chipBytes a n
  else (List.range n).map (fun i => s.seeByte (a + i))

/-- May firmware store into [a, a + n)? Not into the control block, nor into the ACTIVE slot (19 R345; 20 R354). -/
def State.storeOk (s : State) (a n : Nat) : Bool :=
  let base := padBase (svc Config.schedDie)
  let act := base + slotBase s.geode.active
  !(decide (a < base + 0x400000) && decide (base + 0x300000 < a + n)) &&
    (s.geode.boot != .up || !(decide (a < act + 0x100000) && decide (act < a + n)))

/-- A store into a slot that is not ACTIVE clears its VER bit (19 R345). -/
def State.noteSlotStore (s : State) (a n : Nat) : State :=
  let base := padBase (svc Config.schedDie)
  let other := !s.geode.active
  let o := base + slotBase other
  if a < o + 0x100000 ∧ o < a + n then
    { s with geode := if other then { s.geode with verb := false } else { s.geode with vera := false } }
  else s

/-- Does the module serve requests: booted, its scheduler die not failed, not DECOMMISSIONED (19 R341, R342, R349)? -/
def State.serves (s : State) : Bool :=
  s.geode.boot == .up && (s.die Config.schedDie).st != 3 && s.geode.life != .decommissioned

/-- May a program run as tile tasks in the present life-cycle state (19 R342)? By PROGID. -/
def State.mayRun (s : State) (progid : Nat) : Bool :=
  match s.geode.life with
  | .provisioned => true
  | .deployed => true
  | .decommissioned => false
  | _ => Config.theokProgram progid

/-! ## Freeing buffers, discarding a speculative run (10 R199; 13 R277, R279) -/

/-- Free a buffer: the index's generation advances and its storage reads zero (10 R194, R199). Pinning ends (10 R205). -/
def State.freeBuf (s : State) (h : Nat) : State :=
  let i := h % 2 ^ 24
  { s with
    bufs := kdel s.bufs i
    genOf := kset s.genOf i ((kget 0 s.genOf i + 1) % 256)
    hbm := s.hbm.clear (bufKey h 0) (2 ^ 64)
    hbmBad := s.hbmBad.filter (fun g => g * 64 / 2 ^ 64 != h)
    hbmStacks := s.hbmStacks.map (fun e => (e.1, { e.2 with
      sets := e.2.sets.map (fun t => (t.1, t.2.map (fun l => if l.key * 64 / 2 ^ 64 = h then { l with pinned := false } else l))) })) }

/-- Add a reference to a buffer; false where the count would pass its width (11 R238). -/
def State.addRef (s : State) (h : Nat) : State × Bool :=
  match s.buf? h with
  | some b => if b.refcnt + 1 < 2 ^ 32 then (s.modBuf h (fun b => { b with refcnt := b.refcnt + 1 }), true) else (s, false)
  | none => (s, false)

/-- Drop a reference: at zero the buffer is freed, and its companion loses the reference that it held (10 R199). -/
def State.dropRef (s : State) (h : Nat) : State :=
  match s.buf? h with
  | some b =>
    if 1 < b.refcnt then s.modBuf h (fun b => { b with refcnt := b.refcnt - 1 })
    else
      let s := s.freeBuf h
      match s.buf? b.companion with
      | some c =>
        if 1 < c.refcnt then s.modBuf b.companion (fun c => { c with refcnt := c.refcnt - 1 }) else s.freeBuf b.companion
      | none => s
  | none => s

/-- References of a node's copies. -/
def State.takeRefs (s : State) (l : List Access) : State :=
  (l.filter (fun a => a.cap.kind == 2)).foldl (fun s a => (s.addRef a.cap.bind.toNat).1) s
def State.dropRefs (s : State) (l : List Access) : State :=
  (l.filter (fun a => a.cap.kind == 2)).foldl (fun s a => s.dropRef a.cap.bind.toNat) s

/-- A cell with no task: its cores have reported done (05 R101). -/
def Bank.idle : Bank := { e := { run := .done }, v := { run := .done }, x := { run := .done } }

def State.asid (s : State) (a : Nat) : Asid := kget {} s.sched.asids a

def State.modAsid (s : State) (a : Nat) (f : Asid → Asid) : State :=
  { s with sched := { s.sched with asids := kset s.sched.asids a (f (s.asid a)) } }

def State.fox (s : State) (q : Nat) : Fox := kget {} s.sched.fox q

def State.modFox (s : State) (q : Nat) (f : Fox → Fox) : State :=
  { s with sched := { s.sched with fox := kset s.sched.fox q (f (s.fox q)) } }

/-- Counter i of Foxglove for an ASID (13 R281): 0 STARTED, 1 CLAIMED, 2 DISC_MISMATCH, 3 DISC_REVALIDATE,
4 DISC_PREEMPTED, 5 DISC_FAULT, 6 DISC_AGED, 7 DISC_ASID. They saturate. -/
def State.foxCount (s : State) (a i : Nat) : State :=
  s.modAsid a (fun x => { x with ctrs := vset x.ctrs i (min (vget x.ctrs i 0 + 1) (2 ^ 32 - 1)) })

def State.modNode (s : State) (n : Nat) (f : Node → Node) : State :=
  match kget? s.sched.nodes n with
  | some x => { s with sched := { s.sched with nodes := kset s.sched.nodes n (f x) } }
  | none => s

/-- Handles with the VERSIONs that they have now. -/
def State.versOf (s : State) (hs : List Nat) : List (Nat × Nat) := hs.filterMap (fun h => (s.buf? h).map (fun b => (h, b.version)))

/-- A speculative run enters handles and VERSIONs in its read set (13 R275). -/
def State.noteVers (s : State) (n : Nat) (l : List (Nat × Nat)) : State :=
  s.modNode n (fun x => { x with readset := l.foldl (fun r p => if r.contains p then r else r ++ [p]) x.readset })

/-- A speculative run reads buffers as they are now. -/
def State.noteReads (s : State) (n : Nat) (hs : List Nat) : State := s.noteVers n (s.versOf hs)

/-- A speculative run on cell k reads buffers through its snapshot (13 R275). -/
def State.noteBufs (s : State) (k : Nat) (hs : List Nat) : State :=
  match (s.bank k).task with
  | some t => if t.spec then s.noteVers t.node ((s.bank k).readVers.filter (fun p => hs.contains p.1)) else s
  | none => s

/-- The AVAIL bit of a faulty cell clears once no task runs on it (05 R105; 19 R353). -/
def State.retireCell (s : State) (k : Nat) : State :=
  let d := s.die (k / 128)
  if d.faulty.contains (.cell k) ∧ d.avail.getLsbD (k % 128) ∧ (s.bank k).task.isNone then
    (s.modDie (k / 128) (fun x => { x with avail := setBit x.avail (k % 128) false })).discCaused (k / 128)
  else s

/-- Make a cell idle, nothing spilled (13 R279). -/
def State.idleCell (s : State) (k n : Nat) : State :=
  let c := s.cell k
  let mine := fun (t : Option Task) => t.filter (fun x => x.node == n && x.spec)
  let s := match mine c.shadow with
    | some t => (s.leaveBank k (!c.active) t).modCell k (fun c => { c with shadow := none })
    | none => s
  match mine c.b.task with
  | some t => ((s.leaveBank k c.active t).modCell k (fun c => { c with b := { Bank.idle with uid := c.b.uid }, posted := [] })).retireCell k
  | none => s

/-- The copies of a speculative run that hold references: those that name no shadow buffer (10 R200; 13 R275). -/
def Node.reads (nd : Node) : List Access := nd.accs.filter (fun a => !nd.shadows.any (fun p => p.1 == a.cap.bind.toNat))

/-- Discard the speculative run that is node n, counting the cause (13 R279, R281). -/
def State.discardRun (s : State) (n cause : Nat) : State :=
  match kget? s.sched.nodes n with
  | some nd =>
    if nd.spec then
      let s := nd.cells.foldl (fun s k => s.idleCell k n) s
      let gran := (nd.shadows.map (fun p => match s.buf? p.1 with | some b => b.granules | none => 0)).sum
      let s := nd.shadows.foldl (fun s p => s.freeBuf p.1) s
      let s := s.dropRefs nd.reads
      let s := s.modAsid nd.asid (fun a => { a with used := a.used - gran })
      let s := s.modFox nd.q (fun f => { f with run := none })
      let s := { s with sched := { s.sched with nodes := kdel s.sched.nodes n } }
      s.foxCount nd.asid cause
    else s
  | none => s

end Sys2Proof.Machine
end

