-- ==== Sys2Proof/Machine/Ops.lean ====
section
/-! DEFINITION. The shared operations of the cores: registers, predicates, taking and leaving a trap, retiring an
instruction, semaphores, engine queues. -/

namespace Sys2Proof.Machine

/-- Why an instruction does not complete: a trap with its cause and TVAL (15 R286), or a wait (04 R86). -/
inductive Stop where
  | trap (cause : Nat) (tval : Word)
  | wait (w : Wait)
deriving DecidableEq, Repr, Inhabited

abbrev M (α : Type) := Except Stop α

def trap {α : Type} (cause : Nat) (tval : Word) : M α := .error (.trap cause tval)

def stall {α : Type} (w : Wait) : M α := .error (.wait w)

/-! ## Causes (15 R286) -/

def cILLEGAL : Nat := 0x01
def cRESERVED : Nat := 0x02
def cPRIVILEGE : Nat := 0x03
def cEMPTY : Nat := 0x04
def cBOUNDS : Nat := 0x05
def cPOISON : Nat := 0x06
def cLOOPBODY : Nat := 0x07
def cENGINE : Nat := 0x08
def cTRAP : Nat := 0x09
def cLEASE : Nat := 0x0A
def cLOST : Nat := 0x0B
def cMUTEX : Nat := 0x0C
def cSEMRANGE : Nat := 0x0D
def cCHANNEL : Nat := 0x0E
def cFORWARD : Nat := 0x0F
def cTAG : Nat := 0x10
def cPORT : Nat := 0x11
def cMETA : Nat := 0x12
def cGROUP : Nat := 0x13
def cCAPACITY : Nat := 0x14
def cSELFTEST : Nat := 0x15
def cOVERLAP : Nat := 0x16
def cSPILL : Nat := 0x17
def cEPOCH : Nat := 0x18
def cREFERENCE : Nat := 0x19
def cREJECTED : Nat := 0x1A
def cHOST : Nat := 0x1B
def cCTX : Nat := 0x1C
def cDOUBLE : Nat := 0x1D
def cCHECK : Nat := 0x1E
def cKILLED : Nat := 0x1F

/-- Causes that end the task whatever its handler (15 R286). -/
def endsTask (cause : Nat) : Bool := [cLEASE, cLOST, cSPILL, cDOUBLE, cCHECK, cKILLED].contains cause

/-! ## Rotation, registers, predicates (02 R14 to R23) -/

/-- The physical index of logical index j in a file whose last n names, from f, rotate (02 R23). -/
def rot (f n : Nat) (rb : Word) (j : Nat) : Nat := if j < f then j else f + (j - f + rb.toNat) % n

def Core.px (r : Core) (j : Nat) : Nat := rot 24 8 r.rbase j
def Core.pp (r : Core) (j : Nat) : Nat := rot 8 8 r.rbase j

/-- An X register by its physical index. -/
def Core.xreg (r : Core) (i : Nat) : XReg := vget r.x i {}

/-- Read X register j under a W bit: a value and its poison, or a stall, or EMPTY_REG (02 R15). X0 reads 0 (02 R14). -/
def Core.readX (r : Core) (j : BitVec 5) (w : Bool) : M (Word × Bool) :=
  if j = 0 then .ok (0, false)
  else
    let i := r.px j.toNat
    let x := r.xreg i
    match x.fill with
    | .full => .ok (x.val, x.poison)
    | _ => if w then trap cEMPTY (wNat j.toNat) else stall (.xreg i)

/-- A source that the instruction consumes: poison raises POISON_CONSUMED (02 R16). -/
def consume (j : BitVec 5) (v : Word × Bool) : M Word :=
  if v.2 then trap cPOISON (wNat j.toNat) else .ok v.1

/-- Read and consume. -/
def Core.useX (r : Core) (j : BitVec 5) (w : Bool) : M Word := do
  let v ← r.readX j w
  consume j v

/-- Set an X register full (02 R15, R16). -/
def Core.putX (r : Core) (i : Nat) (v : Word) (poison : Bool) : Core :=
  { r with x := vset r.x i ⟨v, poison, .full⟩, fills := if (r.xreg i).fill = .full then r.fills else r.fills + 1 }

/-- Write X register j. A register that waits for an earlier producer stalls the write (02 R15); a write to X0 is
discarded (02 R14). -/
def Core.writeX (r : Core) (j : BitVec 5) (v : Word) (poison : Bool) : M Core :=
  if j = 0 then .ok r
  else
    let i := r.px j.toNat
    match (r.xreg i).fill with
    | .load => stall (.xdest i)
    | .entry => stall (.xdest i)
    | _ => .ok (r.putX i v poison)

/-- Mark X register j empty and put its long-latency result on the way (02 R15). -/
def Core.lateX (r : Core) (j : BitVec 5) (v : Word) (poison : Bool) : M Core :=
  if j = 0 then .ok r
  else
    let i := r.px j.toNat
    let x := r.xreg i
    match x.fill with
    | .load => stall (.xdest i)
    | .entry => stall (.xdest i)
    | _ => .ok { r with x := vset r.x i { x with fill := .load }, results := r.results ++ [⟨i, v, poison⟩] }

/-- Does an X register wait for a long-latency result (02 R33)? -/
def Core.pending (r : Core) : Bool := r.x.toList.any (fun x => x.fill == .load || x.fill == .entry)

/-- Awaiting registers become full with their unchanged value (04 R78). -/
def Core.fillAwaiting (r : Core) : Core :=
  { r with x := r.x.map (fun x => if x.fill = .awaiting then { x with fill := .full } else x) }

/-- A predicate by its logical index: P0 reads 1 (02 R14). -/
def Core.pred (r : Core) (i : Nat) : Bool := i == 0 || r.p.getLsbD (r.pp i)

/-- Write a predicate by its logical index: a write to P0 is discarded; the others become live (02 R21, R22). -/
def Core.setPred (r : Core) (i : Nat) (b : Bool) : Core :=
  if i = 0 then r
  else { r with p := setBit r.p (r.pp i) b, livep := setBit r.livep (r.pp i) true }

/-- The value of a truth table at three inputs (03 R36). -/
def ttAt (tt : BitVec 8) (a b c : Bool) : Bool := tt.getLsbD (a.toNat * 4 + b.toNat * 2 + c.toNat)

/-- A guard over predicates (02 R20). -/
def Core.guard (r : Core) (g : Guard) : Bool :=
  ttAt g.tt (r.pred g.pa.toNat) (r.pred g.pb.toNat) (r.pred g.pc.toNat)

/-- The stage predicate of the instruction that issues: 1 outside a modulo loop (02 R26). -/
def Core.stageOn (r : Core) : Bool :=
  match r.loop with
  | none => true
  | some l => r.pred (8 + l.p / l.ii)

/-- An A register as an instruction reads it; A0 is null (02 R14). -/
def Core.areg (r : Core) (i : BitVec 4) : AReg := if i = 0 then {} else vget r.a i.toNat {}

def Core.setA (r : Core) (i : BitVec 4) (a : AReg) : Core := { r with a := vset r.a i.toNat a }

/-! ## The modulo sequencer (02 R25 to R27) -/

/-- The next body position of a round after p, in the order of 02 R26. -/
def nextPos (n ii p : Nat) : Option Nat :=
  if p + ii < n then some (p + ii)
  else if p % ii + 1 < ii ∧ p % ii + 1 < n then some (p % ii + 1)
  else none

def stages (n ii : Nat) : Nat := (n + ii - 1) / ii

def LoopPos.offAt (l : LoopPos) (p : Nat) : Nat := (l.offs[p]?).getD 0

/-- The core at body position p of a loop. -/
def Core.atPos (r : Core) (l : LoopPos) : Core :=
  { r with loop := some l, pc := l.laddr + wNat (l.offAt l.p) }

/-- Begin round t of a loop, or leave the loop after the last round (02 R26). -/
def Core.startRound (r : Core) (l : LoopPos) (t : Nat) : Core :=
  if t ≤ l.trip + stages l.n l.ii - 2 then r.atPos { l with round := t, p := 0, fresh := true, undo := none }
  else { r with loop := none, pc := l.laddr + wNat (l.offAt l.n) }

/-- The write of P8 for a round, which belongs to the first instruction that the round issues (02 R26; 16 R311). -/
def Core.openRound (r : Core) : Core :=
  match r.loop with
  | some l =>
    if l.fresh then
      { r.setPred 8 (decide (l.round < l.trip)) with loop := some { l with fresh := false, undo := some (r.p, r.livep) } }
    else r
  | none => r

/-- An instruction that does not issue takes back the write of P8 that it opened its round with (16 R311). -/
def Core.closeRound (r : Core) : Core :=
  match r.loop with
  | some l =>
    match l.undo with
    | some (p, livep) => { r with p := p, livep := livep, loop := some { l with fresh := true, undo := none } }
    | none => r
  | none => r

/-- The next position of a loop, or the next round. -/
def Core.nextInLoop (r : Core) (l : LoopPos) : Core :=
  match nextPos l.n l.ii l.p with
  | some p => r.atPos { l with p := p, undo := none }
  | none => { r with rbase := r.rbase - 1 }.startRound l (l.round + 1)

/-- Move past an instruction of len words: to the next word, or to the next position of the running loop. -/
def Core.advance (r : Core) (len : Nat) : Core :=
  let r := r.openRound
  match r.loop with
  | none => { r with pc := r.pc + wNat (8 * len) }
  | some l => r.nextInLoop l

/-- Move past a squashed or disabled instruction: in a loop it does not count as issued (02 R26; 16 R311). -/
def Core.pass (r : Core) (len : Nat) : Core :=
  let r := r.closeRound
  match r.loop with
  | none => { r with pc := r.pc + wNat (8 * len) }
  | some l => if (nextPos l.n l.ii l.p).isSome then r.nextInLoop l else r.openRound.nextInLoop l

/-- Retire an instruction of len words on core c of cell k. -/
def State.retire (s : State) (k : Nat) (c : CoreIx) (len : Nat) : State :=
  s.modCore k c (fun r => { r.advance len with run := .running })

/-- Pass over a squashed or disabled instruction of len words (02 R20, R26). -/
def State.squash (s : State) (k : Nat) (c : CoreIx) (len : Nat) : State :=
  s.modCore k c (fun r => { r.pass len with run := .running })

/-! ## Semaphores and mutexes (04 R75 to R77; 05 R93 to R95) -/

/-- Note a change of a semaphore, mutex or write pointer, which ends a PAUSE (04 R85). -/
def Bank.note (b : Bank) : Bank := { b with changes := b.changes + 1 }

def Bank.sem (b : Bank) (n : Nat) : Sem := vget b.sems n {}

def Bank.setSem (b : Bank) (n : Nat) (x : Sem) : Bank :=
  let b' := { b with sems := vset b.sems n x }
  if x.val = (b.sem n).val then b' else b'.note

/-- Join the tail of a semaphore's waiters (04 R76). -/
def Bank.joinSem (b : Bank) (n : Nat) (w : Waiter) : Bank :=
  { b with sems := vset b.sems n { b.sem n with queue := (b.sem n).queue ++ [w] } }

def Bank.mutex (b : Bank) (m : Nat) : Mutex := vget b.mutexes m {}

def Bank.setMutex (b : Bank) (m : Nat) (x : Mutex) : Bank := { b with mutexes := vset b.mutexes m x }.note

/-- Add a count to a semaphore's credit, which saturates (05 R94). -/
def Bank.addCredit (b : Bank) (n cnt : Nat) : Bank :=
  { b with sems := vset b.sems n { b.sem n with credit := min ((b.sem n).credit + cnt) (2 ^ 32 - 1) } }

def Bank.subCredit (b : Bank) (n cnt : Nat) : Bank :=
  { b with sems := vset b.sems n { b.sem n with credit := (b.sem n).credit - cnt } }

/-! ## Engine queues (05 R92; 04 R80; 15 R290) -/

/-- Wait and signal counts of word 1 (03 R38). -/
def waits (q : Eng) : Nat := q.wcnt.toNat + 1
def signals (q : Eng) : Nat := q.scnt.toNat + 1

/-- Entries that have not executed: their X destinations stand empty. -/
def Entry.idle (e : Entry) : Bool := e.stage == .queued || e.stage == .granted

/-- Make full, with its old value, each X register that an entry of a list was to write (04 R80). -/
def Core.release (r : Core) (es : List Entry) : Core :=
  es.foldl (fun r e => match e.dest with
    | some i => if (r.xreg i).fill = .entry then { r with x := vset r.x i { r.xreg i with fill := .full }, fills := r.fills + 1 } else r
    | none => r) r

/-- The entries of an engine that have not started, and whether all before them have. -/
def Engine.nextUp (q : Engine) : Option Entry := q.entries.find? Entry.idle

/-- May the next entry of an engine start, its wait aside (05 R92, R95; 08 R156)? A primary engine starts an entry only
when every earlier one has completed. -/
def Bank.upNext (b : Bank) (e : EngIx) : Option Entry :=
  let q := b.engine e
  if q.stop.isSome then none
  else match e with
    | .primary => (q.entries.head?).filter Entry.idle
    | .transfer => q.nextUp

/-- Replace an entry of an engine. -/
def Bank.putEntry (b : Bank) (e : EngIx) (ent : Entry) : Bank :=
  b.setEngine e { b.engine e with
    entries := (b.engine e).entries.map (fun x => if x.uid = ent.uid then ent else x) }

/-- Reseeds of the column generators that no earlier kept entry delays any more (06 R122). -/
def Bank.applyReseeds (b : Bank) : Bank :=
  let due := b.mx.reseeds.takeWhile (fun p => !b.prim.entries.any (fun e => decide (e.uid ≤ p.1)))
  match due.getLast? with
  | some p => { b with mx := { b.mx with gens := { seed := p.2 }, reseeds := b.mx.reseeds.drop due.length } }
  | none => b

/-- Discard entries of an engine: credits are given back, and waits leave their queues (15 R290). -/
def Bank.dropEntries (b : Bank) (e : EngIx) (es : List Entry) : Bank :=
  let b := es.foldl (fun b x =>
    let b := if x.q.wsem = 0 then b else
      let b := b.addCredit x.q.wsem.toNat (waits x.q)
      { b with sems := vset b.sems x.q.wsem.toNat { b.sem x.q.wsem.toNat with
          queue := (b.sem x.q.wsem.toNat).queue.filter (fun w => w.who != .entry e x.uid) } }
    if x.q.ssem = 0 then b else b.subCredit x.q.ssem.toNat (signals x.q)) b
  let q := b.engine e
  let b := b.setEngine e { q with entries := q.entries.filter (fun x => !es.any (fun y => y.uid == x.uid)) }
  let b := b.setCore (ownerOf e) ((b.core (ownerOf e)).release es)
  b.applyReseeds

/-- Clear a stopped queue on delivery of ENGINE_FAULT: the culprit and every entry behind it go (15 R290). -/
def Bank.clearStop (b : Bank) (e : EngIx) : Bank :=
  let q := b.engine e
  let gone := match q.culprit with
    | some u => q.entries.filter (fun x => decide (u ≤ x.uid))
    | none => q.entries
  let b := b.dropEntries e gone
  b.setEngine e { b.engine e with stop := none, culprit := none }

/-! ## Taking a trap (15 R287 to R291) -/

/-- Remove a cell's cores from work because its task ends by a fault (15 R289 step 1). -/
def Bank.stopCores (b : Bank) : Bank :=
  let halt := fun (r : Core) => if r.run = .absent then r else { r with run := .stopped, results := [] }
  let b := ((b.leave .e).leave .v).leave .x
  { b with e := halt b.e, v := halt b.v, x := halt b.x }

/-- End the task on cell k by a fault of core c; the first cause stands (15 R287, R289). A speculative run is
discarded instead (13 R279). -/
def State.endTask (s : State) (k : Nat) (c : CoreIx) (cause : Nat) (tval epc : Word) (eng : Nat) : State :=
  let b := s.bank k
  match b.task with
  | none => s
  | some t =>
    if t.spec then
      (s.modAsid b.asid (fun a => { a with lastFault := cause })).discardRun t.node 5
    else if b.ending.isSome then s
    else s.setBank k { b.stopCores with ending := some ⟨c, cause, tval, epc, eng⟩ }

/-- Does the launch record give core c a user trap handler, and where (05 R98)? -/
def Bank.handler (b : Bank) (c : CoreIx) : Option Word :=
  let w := b.secWord c 1
  if bitOf w 63 then some (wNat (8 * field w 3 29)) else none

/-- A core that enters its handler (15 R287): EPC, CAUSE and TVAL are set, H becomes 1, a loop position is held. -/
def Core.enter (r : Core) (cause : Nat) (tval : Word) (pc : Word) : Core :=
  { r with epc := r.pc, cause := wNat cause, tval := tval, h := true, held := r.loop.or r.held, loop := none,
           pc := pc, run := .running }

/-- Clear the stopped queue of core c if the cause is ENGINE_FAULT. -/
def State.clearFor (s : State) (k : Nat) (c : CoreIx) (cause : Nat) : State :=
  if cause = cENGINE then
    match engineOf (s.cls k) k c with
    | some e => s.modBank k (fun b => b.clearStop e)
    | none => s
  else s

/-- Deliver a trap to core c of cell k, every long-latency result having arrived (15 R287, R291; 19 R349). -/
def State.deliver (s : State) (k : Nat) (c : CoreIx) (cause : Nat) (tval : Word) : State :=
  let s := s.modBank k (fun b => (b.leave c).setCore c (b.core c).fillAwaiting)
  let b := s.bank k
  let r := b.core c
  let eng := if cause = cENGINE then tval.toNat else 0
  if isPriv k c then
    if r.h then s.fwFail (k / 128) 0x1D
    else
      let s := s.clearFor k c cause
      s.modCore k c (fun r => r.enter cause tval (wNat (s.fwEntry (k / 128))))
  else if endsTask cause ∨ endsTask eng then s.endTask k c cause tval r.pc eng
  else match b.handler c with
    | none => s.endTask k c cause tval r.pc eng
    | some h =>
      if b.spec then s.endTask k c cause tval r.pc eng
      else if r.h then s.endTask k c cDOUBLE (wNat cause) r.pc 0
      else
        let s := s.clearFor k c cause
        s.modCore k c (fun r => r.enter cause tval h)

/-- Take a trap at the instruction core c of cell k stands at: delivery waits for long-latency results (02 R33). A speculative run is
discarded at once (13 R279, R280). -/
def State.takeTrap (s : State) (k : Nat) (c : CoreIx) (cause : Nat) (tval : Word) : State :=
  if (s.core k c).pending && !(s.bank k).spec then
    (s.modBank k (fun b => b.leave c)).modCore k c (fun r => { r with run := .blocked (.trap cause tval) })
  else s.deliver k c cause tval

/-- Block core c: a wait for a semaphore or mutex joins its queue (04 R76, R77). -/
def State.block (s : State) (k : Nat) (c : CoreIx) (w : Wait) : State :=
  let s := match w with
    | .sem n cnt => s.modBank k (fun b => b.joinSem n ⟨.core c, cnt⟩)
    | .mutex m => s.modBank k (fun b => { b with
        mutexes := vset b.mutexes m { vget b.mutexes m {} with queue := (vget b.mutexes m {}).queue ++ [c] } })
    | _ => s
  s.modCore k c (fun r => { r with run := .blocked w })

/-- A round that its first instruction has opened is opened again when that instruction issues (16 R311). -/
def State.closeRound (s : State) (k : Nat) (c : CoreIx) : State :=
  if ((s.core k c).loop.bind (·.undo)).isSome then s.modCore k c Core.closeRound else s

/-- A core that is to issue the first instruction of a round writes P8 for the round (16 R311). -/
def State.openRound (s : State) (k : Nat) (c : CoreIx) : State :=
  if (s.core k c).loop.any (·.fresh) then s.modCore k c Core.openRound else s

/-- What a Stop makes of a state. -/
def State.stopped (s : State) (k : Nat) (c : CoreIx) : Stop → State
  | .trap cause tval => (s.bump.closeRound k c).takeTrap k c cause tval
  | .wait w => (s.closeRound k c).block k c w

/-! ## Grants (04 R76, R77, R83; 05 R95) -/

/-- Grant semaphore n to its oldest waiter, where that is due: a blocked core completes SEMWAIT, an entry at its engine's turn
may start. -/
def State.grantSem (s : State) (k n : Nat) : Option State :=
  let b := s.bank k
  let x := b.sem n
  match x.queue with
  | [] => none
  | w :: rest =>
    let taken := b.setSem n { x with val := x.val - w.cnt, queue := rest }
    if x.val < w.cnt then none
    else match w.who with
      | .core c => if (b.core c).run = .blocked (.sem n w.cnt) then some ((s.setBank k taken).retire k c 1) else none
      | .entry e uid =>
        match b.upNext e with
        | some ent =>
          if ent.uid = uid ∧ ent.stage = .queued ∧ ent.q.wsem.toNat = n ∧ n ≠ 0 then
            some (s.setBank k (taken.putEntry e { ent with stage := .granted }))
          else none
        | none => none

/-- Grant a free mutex to its oldest waiter, which completes MTXLOCK. -/
def State.grantMutex (s : State) (k m : Nat) : Option State :=
  let x := (s.bank k).mutex m
  match x.owner, x.queue with
  | none, c :: rest =>
    if (s.core k c).run = .blocked (.mutex m) then
      some ((s.modBank k (fun b => b.setMutex m { owner := some c, queue := rest })).retire k c 1)
    else none
  | _, _ => none

/-- Complete the WAITWP of a core whose write pointer has reached its value. -/
def State.grantWp (s : State) (k : Nat) (c : CoreIx) : Option State :=
  match (s.core k c).run with
  | .blocked (.wp ch n) =>
    let x := vget (s.bank k).chans ch {}
    if n.toNat ≤ x.wp then some (s.retire k c 1) else none
  | _ => none

/-- End the WAITWP of a core whose channel is no longer open (04 R83; 11 R227). -/
def State.endWp (s : State) (k : Nat) (c : CoreIx) : State :=
  match (s.core k c).run with
  | .blocked (.wp ch _) => if (vget (s.bank k).chans ch {}).st ≠ .open_ then s.takeTrap k c cCHANNEL (wNat ch) else s
  | _ => s

/-- The first grant that is due on a cell. -/
def State.grantNext (s : State) (k : Nat) : Option State :=
  ((List.range 32).findSome? (s.grantSem k)).or
    (((List.range 16).findSome? (s.grantMutex k)).or ([CoreIx.e, .v, .x].findSome? (s.grantWp k)))

/-- At most n grants that are due on a cell, one after another. -/
def State.grantsUpTo : Nat → State → Nat → State
  | 0, s, _ => s
  | n + 1, s, k =>
    match s.grantNext k with
    | some t => State.grantsUpTo n t k
    | none => s

/-- The waiters of a cell. -/
def Bank.waiters (b : Bank) : Nat :=
  (b.sems.toList.map (fun x => x.queue.length)).sum + (b.mutexes.toList.map (fun x => x.queue.length)).sum +
    ([b.e, b.v, b.x].filter (fun r => match r.run with | .blocked (.wp _ _) => true | _ => false)).length

/-- Every grant that is due on a cell: a wait is granted as soon as its condition holds, before a trap or a pre-emption in the same
cycle (04 R76, R86). -/
def State.grants (s : State) (k : Nat) : State := State.grantsUpTo (s.bank k).waiters s k

/-- The stores of a publication that its group refused go back under the later ones (11 R234). -/
def Bank.giveBack (b : Bank) : Bank :=
  let held := b.pubs.filter (fun p => p.held)
  let back : KMap WByte := held.foldl (fun m p => p.granules.foldl (fun m g => g.bytes.foldl (fun m e => kjoin m e.1 [e.2]) m) m) []
  let bad : KMap Bool := held.foldl (fun m p => p.granules.foldl (fun m g => match g.bad with | some v => kset m g.g v | none => m) m) []
  { b with
    pubs := b.pubs.filter (fun p => !p.held)
    dirty := b.dirty.foldl (fun m e => kjoin m e.1 [e.2]) back
    dirtyBad := b.dirtyBad.foldl (fun m e => kset m e.1 e.2) bad }

/-- Does the cell of a rank still run the task of cell k's group: the same launch (05 R109; 12 R254)? -/
def State.peer (s : State) (k j : Nat) : Bool :=
  match (s.bank k).task, (s.bank j).task with
  | some t, some u => t.node == u.node && t.launch == u.launch
  | _, _ => false

/-- The entry with which rank cell j of the group of cell k waits at a group operation of a kind, and its number. -/
def State.atGroup (s : State) (k j : Nat) (kind : GroupKind) : Option (Entry × Nat) :=
  let es := if !s.peer k j then [] else match kind with | .mmac => (s.bank j).prim.entries | _ => (s.bank j).xfer.entries
  es.findSome? (fun e => match e.need with
    | .group kd n => if kd = kind then some (e, n) else none
    | _ => none)

/-- The engine of a group operation. -/
def groupEngine : GroupKind → EngIx
  | .mmac => .primary
  | _ => .transfer

/-- Stop an engine's queue with a cause at an entry (04 R80): registers its unexecuted entries were to write become full,
and a blocked instruction of the owning core, on a source register of any of its entries too, takes ENGINE_FAULT, unless it has been granted (04 R86). A speculative run is
discarded (13 R279). -/
def State.stopOne (s : State) (k : Nat) (e : EngIx) (cause : Nat) (culprit : Option Nat) : State :=
  if (s.bank k).spec then (match (s.bank k).task with | some t => s.discardRun t.node 5 | none => s)
  else
    let s := s.grants k
    let b := s.bank k
    let q := b.engine e
    let c := ownerOf e
    let idle := q.entries.filter (fun x => x.idle || some x.uid == culprit)
    let r := b.core c
    let hit := match r.run with
      | .blocked (.sem _ _) => true
      | .blocked (.wp _ _) => true
      | .blocked .drain => true
      | .blocked (.xreg i) => q.entries.any (fun x => x.dest == some i)
      | _ => false
    let b := (b.setEngine e { q with stop := some cause, culprit := culprit }).setCore c (r.release idle)
    let s := s.setBank k b
    if hit then s.takeTrap k c cENGINE (wNat cause) else s

/-- The entry with which a cell waits at a group operation of an engine. -/
def Bank.waitsGroup (b : Bank) (e : EngIx) : Option Nat :=
  (b.engine e).entries.findSome? (fun x => match x.need with
    | .group kind _ => if groupEngine kind = e then some x.uid else none
    | _ => none)

/-- Stop an engine's queue; ranks of its group that wait at an operation of that engine stop with GROUP_MISMATCH at once (08 R166; 11 R234,
R236). -/
def State.stopQueue (s : State) (k : Nat) (e : EngIx) (cause : Nat) (culprit : Option Nat) : State :=
  let t := s.stopOne k e cause culprit
  if (s.bank k).spec then t
  else
    let js := ((List.range (s.bank k).gsize).map (s.rankCell k)).filter (fun j => j != k && s.peer k j && !isService j && !(s.bank j).spec)
    js.foldl (fun t j => match (t.bank j).waitsGroup e with
      | some u => (t.modBank j Bank.giveBack).stopOne j e cGROUP (some u)
      | none => t) t

/-! ## Suspended tasks whose started entries run on (15 R298, R299) -/

/-- Zero Regions 0 to 3 of a cell from an offset of its scratchpad, flags included. -/
def State.wipeCell (s : State) (k off : Nat) : State :=
  let a := padBase k + off
  let z := chipAddr k 4 0
  { s with mem := s.mem.clear a (z - a), memBad := s.memBad.filter (fun g => decide (g * 64 < a) || decide (z ≤ g * 64)) }

/-- A cell's part of the on-chip map, and its flags. -/
def State.area (s : State) (k : Nat) : Mem × NSet :=
  let lo := padBase k
  let hi := chipAddr k 4 0
  (s.mem.part lo (hi - lo), s.memBad.filter (fun g => decide (lo ≤ g * 64) && decide (g * 64 < hi)))

/-- Put a cell's part of the on-chip map in place of what stands there. -/
def State.putArea (s : State) (k : Nat) (m : Mem × NSet) : State :=
  let s := s.wipeCell k 0
  { s with mem := s.mem.putPart (padBase k) (chipAddr k 4 0 - padBase k) m.1, memBad := m.2.foldl nsAdd s.memBad }

/-- Exchange what stands on a cell with its suspended task number i. -/
def State.exchange (s : State) (p : Nat × Nat) : State :=
  let c := s.cell p.1
  match c.suspended[p.2]? with
  | none => s
  | some y =>
    let m := s.area p.1
    (s.putArea p.1 (y.mem, y.bad)).setCell p.1
      { c with b := y.bank, suspended := c.suspended.set p.2 { y with bank := c.b, mem := m.1, bad := m.2 } }

/-- What happens to a suspended task, on every cell of its group: it stands in place for that, and starts nothing. -/
def State.aside (s : State) (k i : Nat) (f : State → State) : State :=
  match (s.cell k).suspended[i]? with
  | none => s
  | some y =>
    let same := fun (u : Suspended) => u.bank.task.any (fun t => y.bank.task.any (fun v => v.launch == t.launch && v.node == t.node))
    let ps := s.cells.filterMap (fun e => (e.2.suspended.findIdx? same).map (fun j => (e.1, j)))
    let was := ps.map (fun p => (p.1, (s.cell p.1).preempt))
    let s := f (ps.foldl (fun s p => (s.exchange p).modCell p.1 (fun c => { c with preempt := true })) s)
    was.foldl (fun s w => s.modCell w.1 (fun c => { c with preempt := w.2 })) (ps.foldl State.exchange s)

/-- The suspended task of a cell that pushed entry uid: entries are numbered on from one task of a cell to the next. -/
def Cell.pusher (c : Cell) (uid : Nat) : Option Nat := c.suspended.findIdx? (fun y => decide (uid ≤ y.bank.uid))

/-- What happens to the task that pushed entry uid of a cell. -/
def State.onPusher (s : State) (k uid : Nat) (f : State → State) : State :=
  match (s.cell k).pusher uid with
  | some i => s.aside k i f
  | none => f s

/-- The posted writes of the task that stands on a cell. -/
def Cell.ownPosted (c : Cell) : List Posted := c.posted.filter (fun p => (c.pusher p.uid).isNone)

/-- Does a suspended task of a cell have entries that run on? -/
def Cell.runsOn (c : Cell) : Bool :=
  c.suspended.any (fun y => y.bank.prim.entries.any (fun e => !e.idle) || y.bank.xfer.entries.any (fun e => !e.idle))

/-! ## Running one instruction -/

/-- The cell and core that issue. -/
abbrev State.fk (s : State) : Nat := s.focus.k
abbrev State.fc (s : State) : CoreIx := s.focus.c
abbrev State.fcore (s : State) : Core := s.core s.fk s.fc

/-- Put back the issuing core. -/
def State.putCore (s : State) (r : Core) : State := s.setCore s.fk s.fc r

/-- Finish an instruction of len words: retire it, or do what its stop says. -/
def State.finish (s : State) (len : Nat) (r : M State) : State :=
  match r with
  | .ok t => t.retire s.fk s.fc len
  | .error e => s.stopped s.fk s.fc e

/-- An instruction of len words guarded by predicates: its effect where it is enabled, else nothing (02 R20). -/
def guarded (len : Nat) (g : Guard) (s : State) (body : State → M State) : Out :=
  .next (if s.fcore.stageOn && s.fcore.guard g then s.finish len (body s) else s.squash s.fk s.fc len)

/-- An instruction that acts on its core alone. -/
def onCore (len : Nat) (g : Guard) (s : State) (body : Core → M Core) : Out :=
  guarded len g s (fun s => do let r ← body s.fcore; pure (s.setCore s.fk s.fc r))

/-- An instruction that may branch: its body gives the state and the target, if it branches. -/
def branching (g : Guard) (s : State) (body : State → M (State × Option Word)) : Out :=
  .next (if s.fcore.stageOn && s.fcore.guard g then
      match body s with
      | .ok (t, some pc) => t.modCore s.fk s.fc (fun r => { r with pc := pc, run := .running })
      | .ok (t, none) => t.retire s.fk s.fc 1
      | .error e => s.stopped s.fk s.fc e
    else s.squash s.fk s.fc 1)

/-! ## Return from a trap (15 R288) -/

/-- ERET on a core: where it resumes, or BOUNDS. -/
def Core.eret (r : Core) : M Core :=
  if r.epc.toNat % 8 ≠ 0 then trap cBOUNDS r.epc
  else
    let r' := { r with h := false, held := none, run := .running }
    match r.held with
    | none => .ok { r' with pc := r.epc }
    | some l =>
      if r.epc = l.laddr + wNat (l.offAt l.p) then .ok (r'.atPos l)
      else
        if r.epc = l.laddr + wNat (l.offAt (l.p + 1)) then .ok ({ r' with loop := some l }.advance 1)
        else .ok { r' with pc := r.epc }

end Sys2Proof.Machine
end

