-- ==== Sys2Proof/Machine/Operands.lean ====
section
/-! DEFINITION. Operand two, constant windows, and the scalar accesses through A registers (02 R28; 03 R41; 04 R53, R67, R68;
10 R192; 19 R340). -/

namespace Sys2Proof.Machine

/-- A choice between two outcomes that the spec allows (log 2). -/
def State.choose (s : State) : Bool × State := (Config.freeBool s.free, s.bump)

/-- OR flags into STATUS (02 R30). -/
def Core.flag (r : Core) (fl : Flags) : Core := { r with status := orFlags r.status fl }

/-! ## Stores on chip by region (10 R191, R192) -/

/-- A word arrives in X register j (physical) of a core: full, poison from the data (10 R192). X0 discards it. -/
def State.landX (s : State) (k : Nat) (c : CoreIx) (j : Nat) (v : Word) (bad : Bool) : State :=
  if j = 0 then s else s.modCore k c (fun r => r.putX j v bad)

/-- A window signal of count v to semaphore n: discarded beyond 65,535, which the answer tells (10 R192). -/
def State.landSem (s : State) (k n v : Nat) : State × Bool :=
  let x := (s.bank k).sem n
  if n = 0 then (s, true)
  else if x.val + v ≤ 65535 then (s.modBank k (fun b => b.setSem n { x with val := x.val + v }), true)
  else (s, false)

/-- Replace bytes of a record held as words; the reserved bits of the word keep nothing (00 R4). -/
def putWords (l : List Word) (off : Nat) (v : Word) : List Word := l.set (off / 8) (v &&& recMask (off / 8))

/-- An aligned 8-byte store of firmware into Region 7 (05 R100; 19 R340). A bank holds a task's record or plain bytes; a store to
the status word that sets SHADOW_VALID makes a record of the bank's bytes. Such a record runs under the lease of the node that its
NODE names, or none, at the lowest level; ACTIVE flipped under a running task renames its bank (DESIGN CHOICE, log 76). -/
def State.bankStore (s : State) (k off : Nat) (v : Word) : State :=
  let c := s.cell k
  let base := chipAddr k 7 0
  if 0x2000 ≤ off then
    let act := bitOf v.toNat 0
    let s := s.setCell k { c with active := act }
    if bitOf v.toNat 1 then
      match c.shadow with
      | some _ => s
      | none =>
        let ws := (List.range 268).map (fun i => wNat (leNat (s.chipBytes (bankBase k (!act) + 8 * i) 8)))
        let n := field (((ws[0]?).getD 0).toNat) 32 13
        s.modCell k (fun c => { c with shadow := some { record := ws, node := n, lease := (kget? s.sched.nodes n).elim [] (·.lease) } })
    else
      match c.shadow with
      | none => s
      | some t => (s.leaveBank k (!act) t).modCell k (fun c => { c with shadow := none })
  else
    let inActive := decide (off / 0x1000 = 1) == c.active
    let o := off % 0x1000
    let plain := s.chipPut (base + off) (leBytes 8 (v &&& recMask (o / 8)).toNat)
    if inActive then
      match c.b.task with
      | some t => s.modBank k (fun b => { b with task := some { t with record := putWords t.record o v } })
      | none => plain
    else
      match c.shadow with
      | some t => s.modCell k (fun c => { c with shadow := some { t with record := putWords t.record o v } })
      | none => plain

/-- Store bytes on chip: Regions 0 to 3 are bytes; a word of Region 4 lands in a register, of Region 6 signals two
semaphores, of Region 7 goes to a launch bank. -/
def State.chipStore (s : State) (a : Nat) (bs : List Byte) (bad : Bool) : State :=
  let k := chipKey a
  let off := chipOff a
  match chipRegion a with
  | 4 =>
    let c : CoreIx := match off / 0x400 with | 0 => .e | 1 => .v | _ => .x
    if off % 0x400 < 256 then s.landX k c (off % 0x400 / 8) (wNat (leNat bs)) bad else s
  | 6 =>
    let s := (s.landSem k (off / 4) (leNat (bs.take 4))).1
    (s.landSem k (off / 4 + 1) (leNat (bs.drop 4))).1
  | 7 => s.bankStore k off (wNat (leNat bs))
  | r =>
    let s := s.chipPut a bs
    let s := if bad then s.chipMark a bs.length else s
    if r = 0 then (s.touch k off bs.length).noteSlotStore a bs.length else s

/-! ## Accesses through A registers -/

/-- The right an access needs (02 R19): WINDOW as well under KIND 3. -/
def AReg.allows (a : AReg) (u : Use) : Bool :=
  (match u with | .read => a.canRead | .write => a.canWrite | .acc => a.canAtomic) && (a.kind != 3 || a.canWindow)

/-- The range check of 01 R9 and 02 R19. -/
def checkRange (a : AReg) (addr : Int) (n : Nat) (u : Use) : M Unit :=
  if a.allows u && a.inside addr n then .ok () else trap cBOUNDS (w64 addr)

/-- The pointer check of 02 R19. -/
def checkPtr (a : AReg) (p : Int) : M Unit := if a.ptrOk p then .ok () else trap cBOUNDS (w64 p)

/-- Is the buffer of a handle marked LOST, or gone (10 R200)? -/
def State.lost (s : State) (h : Nat) : Bool :=
  match s.buf? h with
  | some b => b.st == .lost
  | none => true

/-- The lease and the state of a buffer range (04 R67; 10 R202). -/
def State.checkBuf (s : State) (k h addr n : Nat) (u : Use) : M Unit :=
  if !leaseHas (s.bank k).lease false h addr n u then trap cLEASE (wNat addr)
  else if s.lost h then trap cLOST (wNat h)
  else .ok ()

/-- The regions a scalar access may reach through KIND 3 (04 R67; 19 R340). -/
def State.windowOk (s : State) (k : Nat) (c : CoreIx) (addr n : Nat) : Bool :=
  s.chipOk addr n &&
    (chipRegion addr == 0 ||
      (isPriv k c && n == 8 && decide (addr % 8 = 0) && [1, 2, 3, 4, 6, 7].contains (chipRegion addr)))

/-- Kind, lease and buffer state of a scalar access (04 R67). A KIND 1 range beyond the scratchpad fails. -/
def State.checkKind (s : State) (k : Nat) (c : CoreIx) (a : AReg) (addr n : Nat) (u : Use) : M Unit :=
  match a.kind.toNat with
  | 1 =>
    if s.padOk k addr n && s.limitOk k a && (u != .write || s.storeOk (padBase k + addr) n) then .ok () else trap cBOUNDS (wNat addr)
  | 2 => s.checkBuf k a.bind.toNat addr n u
  | 3 =>
    if s.windowOk k c addr n && (u != .write || s.storeOk addr n) &&
        !(u == .write && chipRegion addr == 6 && decide (0x80 ≤ chipOff addr)) then .ok ()
    else trap cBOUNDS (wNat addr)
  | _ => trap cBOUNDS (wNat addr)

/-- The bytes a checked scalar load reads, and whether they are poisoned; reading clears marks and counts substitutions. -/
def State.loadBytes (s : State) (k : Nat) (a : AReg) (addr n : Nat) : State × List Byte × Bool :=
  match a.kind.toNat with
  | 1 => (s.touch k addr n, s.see (padBase k + addr) n, badIn s.memBad (padBase k + addr) n)
  | 2 =>
    let s := s.settle k a.bind.toNat addr n
    ((s.noteSubst k a.bind.toNat addr n).noteBufs k [a.bind.toNat], s.bufBytes k a.bind.toNat addr n, s.bufBad k a.bind.toNat addr n)
  | _ =>
    (if chipRegion addr = 0 then s.touch (chipKey addr) (chipOff addr) n else s, s.see addr n, badIn s.memBad addr n)

/-- A checked scalar store. -/
def State.storeBytes (s : State) (k : Nat) (a : AReg) (addr : Nat) (bs : List Byte) : State :=
  match a.kind.toNat with
  | 1 => s.chipStore (padBase k + addr) bs false
  | 2 => s.bufPut k a.bind.toNat addr bs
  | _ => s.chipStore addr bs false

/-- The address and the new pointer of a format M access (04 R68). -/
def memAddr (a : AReg) (mode : Nat) (off : Int) : Int × Int :=
  let p : Int := a.ptr.toNat
  match mode with
  | 0 => (p + off, p)
  | 1 => (p, p + off)
  | _ => (p + off, p + off)

/-! ## Constant windows (02 R28; 04 R82) -/

/-- May a window be bound to this binding at this start (02 R28; 04 R82)? The spec speaks of cells of the task's group; firmware, which
has no task, may bind Region 0 of its own cell and of no other (DESIGN CHOICE, log 75). -/
def State.winOk (s : State) (k : Nat) (a : AReg) (start : Int) : Bool :=
  a.canRead && decide (start % 8 = 0) && decide ((a.base.toNat : Int) ≤ start) && decide (start < a.limit.toNat) &&
    (match a.kind.toNat with
      | 1 => true
      | 2 => true
      | 3 =>
        let t := start.toNat
        a.canWindow && chipRegion t == 0 && decide (t < 2 ^ 48) &&
          (chipKey t == k || ((s.bank k).task.isSome && decide (s.rankCell k 0 ≤ chipKey t) &&
            decide (chipKey t < s.rankCell k (s.bank k).gsize)))
      | _ => false)

/-- The first address of a window's range: on chip, or a buffer key. -/
def winBase (k : Nat) (a : AReg) : Nat :=
  match a.kind.toNat with
  | 1 => padBase k + a.ptr.toNat
  | 2 => bufKey a.bind.toNat a.ptr.toNat
  | _ => a.ptr.toNat

/-- The bytes of [a, a + n) on chip as a reader sees them, as a memory: the control block is laid over what is stored (20 R354). -/
def State.seePart (s : State) (a n : Nat) : Mem :=
  let lo := max a (padBase (svc Config.schedDie) + 0x300000)
  let hi := min (a + n) (padBase (svc Config.schedDie) + 0x30A020)
  let m := s.mem.part a n
  if lo < hi then m.write lo ((List.range (hi - lo)).map (fun i => s.seeByte (lo + i))) else m

/-- What a window's range holds now, as bytes and flagged granules: for KIND 2 the cell's phase snapshot (02 R28; 10 R210). -/
def State.winNow (s : State) (k : Nat) (a : AReg) : Mem × NSet :=
  let base := winBase k a
  let n := a.limit.toNat - a.ptr.toNat
  let flags := fun (m : NSet) => m.filter (fun g => decide (base < g * 64 + 64) && decide (g * 64 < base + n))
  if a.kind = 2 then ((s.bank k).snap.part base n, flags (s.bank k).snapBad) else (s.seePart base n, flags s.memBad)

/-- A binding with its window's start as PTR, and a new snapshot, which is version v of the core's ranges (02 R28). -/
def State.bindWin (s : State) (k v : Nat) (a : AReg) : Win := { bound := true, reg := a, first := v, vers := [s.winNow k a] }

/-- Every window of a core takes a new snapshot (02 R28). -/
def State.resnap (s : State) (k : Nat) (r : Core) : Core :=
  { r with win := r.win.map (fun w => if w.bound then s.bindWin k r.wcount w.reg else w), wcur := [] }

/-- Is a window one whose words may show later stores (02 R28)? -/
def Win.live (w : Win) : Bool := w.bound && w.reg.kind != 2

/-- A core's windows of KIND 1 and 3 note a new version of their ranges, where a byte or flag has changed (02 R28). -/
def State.noteRanges (s : State) (k : Nat) (r : Core) : Core :=
  if r.win.toList.any (fun w => w.live && w.vers.getLast? != some (s.winNow k w.reg)) then
    { r with wcount := r.wcount + 1, win := r.win.map (fun w => if w.live then { w with vers := w.vers ++ [s.winNow k w.reg] } else w) }
  else r

/-- The buffers of which a core's windows have shown words since the snapshot, for a speculative run. -/
def Core.sawBufs (r : Core) : List Nat := (r.wcur.filter (fun e => decide (2 ^ 64 ≤ e.1))).map (fun e => e.1 / 2 ^ 64 - 1)

/-- The buffers that the windows of a speculative run have shown. -/
def Bank.sawBufs (b : Bank) : List Nat := if b.spec then b.e.sawBufs ++ b.v.sawBufs ++ b.x.sawBufs else []

/-- Does a core of a bank have a window whose words may show later stores, or one that has shown a speculative run a buffer? -/
def Bank.watches (b : Bank) : Bool := [b.e, b.v, b.x].any (fun r => r.win.toList.any Win.live) || b.sawBufs != []

/-- The windows of a cell's cores note what has been stored. -/
def State.noteCell (s : State) (k : Nat) : State :=
  s.modBank k (fun b => { b with e := s.noteRanges k b.e, v := s.noteRanges k b.v, x := s.noteRanges k b.x })

/-- The windows of every cell note what has been stored. -/
def State.noteWindows (s : State) : State := ((s.cells.filter (fun e => e.2.b.watches)).map (·.1)).foldl State.noteCell s

/-- The 8 bytes at a key in a version of a window's range, and whether they are poisoned (02 R16). -/
def verWord (a : Nat) (v : Mem × NSet) : List Byte × Bool := (v.1.read a 8, badIn v.2 a 8)

/-- The word of a KIND 2 window: the snapshot's, with the substitution of a TOLERANT buffer (02 R28; 10 R208). -/
def State.winBuf (s : State) (h addr : Nat) (v : Mem × NSet) : List Byte × Bool :=
  let (bs, bad) := verWord (bufKey h addr) v
  match s.buf? h with
  | some d =>
    if d.tolerant then
      ((List.range 8).zipWith (fun i b => if nsHas v.2 ((bufKey h addr + i) / 64) then d.substByte (addr + i) else b) bs, false)
    else (bs, bad)
  | none => (bs, bad)

/-- Count the substitutions of a window word of a TOLERANT buffer (10 R208). -/
def State.noteWinSubst (s : State) (h addr : Nat) (v : Mem × NSet) : State :=
  match s.buf? h with
  | some d => if d.tolerant then s.countSubst d ((granules 6 (bufKey h addr) 8).filter (nsHas v.2)) else s
  | none => s

/-- A window of a speculative run has shown a word of a buffer (13 R275). -/
def State.sawBuf (s : State) (k : Nat) (c : CoreIx) (h first : Nat) : State :=
  if (s.bank k).spec then s.modCore k c (fun r => { r with wcur := kset r.wcur ((h + 1) * 2 ^ 64) first }) else s

/-- Speculative runs enter in their read sets what their windows have shown (13 R275). -/
def State.noteSeen (s : State) : State :=
  ((s.cells.filter (fun e => e.2.b.watches)).map (·.1)).foldl (fun s k => s.noteBufs k (s.bank k).sawBufs) s

/-- Read word o of a constant window (02 R28). A word of a KIND 1 or KIND 3 window is one that it has held since the snapshot, by a free
choice, and never one older than the core has seen of it. -/
def State.winRead (s : State) (k : Nat) (c : CoreIx) (w : BitVec 3) (o : BitVec 17) : M (State × Word × Bool) :=
  let r := s.core k c
  let x := vget r.win w.toNat {}
  if !x.bound then trap cBOUNDS (wNat (8 * o.toNat))
  else
    let off := 8 * o.toNat
    let addr := x.reg.ptr.toNat + off
    if x.reg.limit.toNat < addr + 8 then trap cBOUNDS (wNat addr)
    else if x.reg.kind = 2 then do
      let h := x.reg.bind.toNat
      s.checkBuf k h addr 8 .read
      let v := x.vers.head?.getD ([], [])
      let (bs, bad) := s.winBuf h addr v
      pure ((s.noteWinSubst h addr v).sawBuf k c h x.first, wNat (leNat bs), bad)
    else
      let a := winBase k x.reg + off
      if chipRegion a ≠ 0 ∨ !s.chipOk a 8 ∨ !s.limitOk k x.reg then trap cBOUNDS (wNat addr)
      else
        let vals := x.vers.map (verWord a) ++ [(s.see a 8, badIn s.memBad a 8)]
        let lo := min (kget 0 r.wcur a - x.first) (vals.length - 1)
        let now := vals.getLast?.getD ([], false)
        if (vals.drop lo).all (· == now) then .ok (s, wNat (leNat now.1), now.2)
        else
          let i := lo + Config.freeWord s.free % (vals.length - lo)
          let v := (vals[i]?).getD now
          .ok (s.bump.modCore k c (fun r => { r with wcur := kset r.wcur a (x.first + i) }), wNat (leNat v.1), v.2)

/-! ## Operand two (03 R41; 04 R53) -/

/-- A value with its poison and the TVAL of its consumption. -/
structure Val where
  v   : Word
  bad : Bool
  id  : Word

/-- The value, its poison consumed (02 R16). -/
def Val.use (x : Val) : M Word := if x.bad then trap cPOISON x.id else .ok x.v

/-- Read the register of operand two, if it is one, for its stall or EMPTY_REG only. -/
def Core.preOp (r : Core) : Op2 → M Unit
  | .reg s2 w2 _ => do let _ ← r.readX s2 w2; pure ()
  | _ => .ok ()

/-- Operand two, an immediate widened by im. The spec states no TVAL for a poisoned window word: it is free (log 2). -/
def State.op2 (s : State) (im : BitVec 21 → Word) : Op2 → M (State × Val)
  | .reg s2 w2 _ => do
    let (v, bad) ← s.fcore.readX s2 w2
    pure (s, ⟨v, bad, wNat s2.toNat⟩)
  | .imm v => .ok (s, ⟨im v, false, 0⟩)
  | .win w o => do
    let (t, v, bad) ← s.winRead s.fk s.fc w o
    pure (t, ⟨v, bad, wNat (Config.freeWord s.free)⟩)

/-- The immediate sign-extended (04 R53). -/
def immS (v : BitVec 21) : Word := v.signExtend 64

/-- The immediate zero-extended. -/
def immU (v : BitVec 21) : Word := v.zeroExtend 64

/-- The BF16 immediate widened to FP32 (04 R62). -/
def immBF (v : BitVec 21) : Word := wNat (v.toNat % 65536 * 65536)

/-- Modifier bits [15:0] of operand two. -/
def modBits : Op2 → Nat
  | .reg _ _ md => md.toNat
  | _ => 0

end Sys2Proof.Machine
end

