-- ==== Sys2Proof/Machine/IFetch.lean ====
section
/-! DEFINITION. Instruction words: the instruction cache (02 R31), lengths (03 R34), and the body of a modulo loop (02 R25; 04 R74). -/

namespace Sys2Proof.Machine

/-- The code word at an offset of a cell's scratchpad. The instruction cache is not coherent: a word that a store changed
since the last invalidation may be the old one or the new one (02 R31; log 22). -/
def State.codeWord (s : State) (k off : Nat) : State × Nat :=
  let cur := s.see (padBase k + off) 8
  let old := (s.cell k).imem.read (padBase k + off) 8
  if cur = old then (s, leNat cur)
  else
    let (newer, s) := s.choose
    (s, leNat (if newer then cur else old))

/-- The opcode of word 0 (03 R35). -/
def opcOf (w : Nat) : Nat := field w 35 9

/-- Is a body word one that R25 forbids? -/
def bodyBad (w : Nat) : Bool :=
  let o := opcOf w
  (decide (0x04D ≤ o) && decide (o ≤ 0x053)) || (o == 0x05F && decide (field w 28 5 < 2)) || o == 0x062 || o == 0x063 ||
    (decide (0x1C0 ≤ o) && decide (o ≤ 0x1C4))

/-- The n body instructions from an offset (from the MLOOP): their offsets with the end, and their first words; or the
address of a word beyond the scratchpad (02 R25; 04 R74). -/
def State.scanBody (s : State) (k laddr : Nat) : Nat → Nat → State × Except Nat (List Nat × List Nat)
  | 0, off => (s, .ok ([off], []))
  | n + 1, off =>
    let a := laddr + off
    if s.padSize k < a + 8 then (s, .error a)
    else
      let (s, w) := s.codeWord k a
      let len := if isTwo (opcOf w) then 16 else 8
      if s.padSize k < a + len then (s, .error (a + 8))
      else match s.scanBody k laddr n (off + len) with
        | (s, .ok (os, ws)) => (s, .ok (off :: os, w :: ws))
        | (s, .error e) => (s, .error e)

end Sys2Proof.Machine
end

