-- ==== Sys2Proof/Machine/Scalar.lean ====
section
/-! DEFINITION. The scalar instructions (04; 02; 19 R346, R347). -/

namespace Sys2Proof.Machine

/-! ## Integer arithmetic and logic (04 R55 to R59) -/

/-- D ← f(S1, operand two) (04 R55). -/
def alu (f : FmtS) (s : State) (fn : Word → Word → Word) : Out :=
  guarded 1 f.g s (fun s => do
    let (a, pa) ← s.fcore.readX f.s1 f.w1
    let (s, b) ← s.op2 immS f.b
    let r ← s.fcore.writeX f.d (fn a b.v) (pa || b.bad)
    pure (s.putCore r))

/-- D ← f(S1) (04 R56). -/
def una (f : FmtS) (s : State) (fn : Word → Word) : Out :=
  onCore 1 f.g s (fun r => do
    let (a, pa) ← r.readX f.s1 f.w1
    r.writeX f.d (fn a) pa)

/-- D ← f(S1, S2, old D), the old D under the stall policy (04 R58, R59). -/
def alu3 (f : FmtS) (s : State) (fn : Word → Word → Word → Word) : Out :=
  guarded 1 f.g s (fun s => do
    let (a, pa) ← s.fcore.readX f.s1 f.w1
    let (s, b) ← s.op2 immS f.b
    let (d, pd) ← s.fcore.readX f.d false
    let r ← s.fcore.writeX f.d (fn a b.v d) (pa || b.bad || pd)
    pure (s.putCore r))

/-- b mod 64, read as 64 when 0 (04 R55, SEXT and ZEXT). -/
def width (b : Word) : Nat := if b.toNat % 64 = 0 then 64 else b.toNat % 64

/-- Bits [w - 1 : 0] of a, sign-extended. -/
def sextBits (w : Nat) (a : Word) : Word := w64 (intOf w true a.toNat)

def divS (a b : Word) : Word := if b = 0 then -1 else w64 (a.toInt.tdiv b.toInt)
def divU (a b : Word) : Word := if b = 0 then -1 else wNat (a.toNat / b.toNat)
def remS (a b : Word) : Word := if b = 0 then a else w64 (a.toInt.tmod b.toInt)
def remU (a b : Word) : Word := if b = 0 then a else wNat (a.toNat % b.toNat)

/-- Leading zeros of a w-bit pattern. -/
def clzNat (w v : Nat) : Nat := if v = 0 then w else w - 1 - Nat.log2 v

/-- Trailing zeros of a w-bit pattern. -/
def ctzNat : Nat → Nat → Nat
  | 0, _ => 0
  | w + 1, v => if v % 2 = 1 then 0 else ctzNat w (v / 2) + 1

/-- One bits of a w-bit pattern. -/
def popNat : Nat → Nat → Nat
  | 0, _ => 0
  | w + 1, v => v % 2 + popNat w (v / 2)

/-- The three-input bitwise function of a truth table (04 R58). -/
def lut3W (tt : Nat) (a b c : Word) : Word :=
  let term := fun (i : Nat) (x y z : Word) => if bitOf tt i then x &&& y &&& z else 0
  term 7 a b c ||| term 6 a b (~~~c) ||| term 5 a (~~~b) c ||| term 4 a (~~~b) (~~~c) |||
    term 3 (~~~a) b c ||| term 2 (~~~a) b (~~~c) ||| term 1 (~~~a) (~~~b) c ||| term 0 (~~~a) (~~~b) (~~~c)

/-- pos and len of BFX, BFXU, BFI (04 R59). -/
def bfPos (b : Op2) : Nat := match b with | .imm v => v.toNat % 64 | _ => 0
def bfLen (b : Op2) : Nat := match b with | .imm v => v.toNat / 64 % 64 + 1 | _ => 1

/-- NOP (04 R85). -/
def execNop (f : FmtS) (s : State) : Out := guarded 1 f.g s (fun s => .ok s)

/-- MOV (04 R57). -/
def execMov (f : FmtS) (s : State) : Out :=
  guarded 1 f.g s (fun s => do
    let (s, b) ← s.op2 immS f.b
    let r ← s.fcore.writeX f.d b.v b.bad
    pure (s.putCore r))

/-- MOVHI (04 R57). -/
def execMovhi (f : FmtS) (s : State) : Out :=
  guarded 1 f.g s (fun s => do
    let (a, pa) ← s.fcore.readX f.s1 f.w1
    let (s, b) ← s.op2 immU f.b
    let r ← s.fcore.writeX f.d ((a <<< 21) + b.v) pa
    pure (s.putCore r))

def execAdd (f : FmtS) (s : State) : Out := alu f s (fun a b => a + b)
def execSub (f : FmtS) (s : State) : Out := alu f s (fun a b => a - b)
def execMul (f : FmtS) (s : State) : Out := alu f s (fun a b => a * b)
def execMulh (f : FmtS) (s : State) : Out := alu f s (fun a b => w64 (a.toInt * b.toInt / 2 ^ 64))
def execMulhu (f : FmtS) (s : State) : Out := alu f s (fun a b => wNat (a.toNat * b.toNat / 2 ^ 64))
def execDiv (f : FmtS) (s : State) : Out := alu f s divS
def execDivu (f : FmtS) (s : State) : Out := alu f s divU
def execRem (f : FmtS) (s : State) : Out := alu f s remS
def execRemu (f : FmtS) (s : State) : Out := alu f s remU
def execMin (f : FmtS) (s : State) : Out := alu f s (fun a b => if a.toInt ≤ b.toInt then a else b)
def execMax (f : FmtS) (s : State) : Out := alu f s (fun a b => if b.toInt ≤ a.toInt then a else b)
def execMinu (f : FmtS) (s : State) : Out := alu f s (fun a b => if a.toNat ≤ b.toNat then a else b)
def execMaxu (f : FmtS) (s : State) : Out := alu f s (fun a b => if b.toNat ≤ a.toNat then a else b)

/-- ABS (04 R56): −2^63 comes back unchanged. -/
def execAbs (f : FmtS) (s : State) : Out := una f s (fun a => if a.toInt < 0 then -a else a)

def execAnd (f : FmtS) (s : State) : Out := alu f s (fun a b => a &&& b)
def execOr (f : FmtS) (s : State) : Out := alu f s (fun a b => a ||| b)
def execXor (f : FmtS) (s : State) : Out := alu f s (fun a b => a ^^^ b)
def execAndn (f : FmtS) (s : State) : Out := alu f s (fun a b => a &&& ~~~b)
def execOrn (f : FmtS) (s : State) : Out := alu f s (fun a b => a ||| ~~~b)

/-- LUT3 (04 R58). -/
def execLut3 (f : FmtS) (s : State) : Out := alu3 f s (lut3W (modBits f.b % 256))

def execShl (f : FmtS) (s : State) : Out := alu f s (fun a b => a <<< (b.toNat % 64))
def execShr (f : FmtS) (s : State) : Out := alu f s (fun a b => a >>> (b.toNat % 64))
def execSar (f : FmtS) (s : State) : Out := alu f s (fun a b => a.sshiftRight (b.toNat % 64))
def execRol (f : FmtS) (s : State) : Out := alu f s (fun a b => a.rotateLeft (b.toNat % 64))

/-- FSHL (04 R58). -/
def execFshl (f : FmtS) (s : State) : Out :=
  alu f s (fun a b => wNat ((a.toNat * 2 ^ 64 + b.toNat) * 2 ^ (modBits f.b % 64) / 2 ^ 64))

/-- FSHR (04 R58). -/
def execFshr (f : FmtS) (s : State) : Out :=
  alu f s (fun a b => wNat ((a.toNat * 2 ^ 64 + b.toNat) / 2 ^ (modBits f.b % 64)))

def execClz (f : FmtS) (s : State) : Out := una f s (fun a => wNat (clzNat 64 a.toNat))
def execCtz (f : FmtS) (s : State) : Out := una f s (fun a => wNat (ctzNat 64 a.toNat))
def execPopc (f : FmtS) (s : State) : Out := una f s (fun a => wNat (popNat 64 a.toNat))
def execSext (f : FmtS) (s : State) : Out := alu f s (fun a b => sextBits (width b) a)
def execZext (f : FmtS) (s : State) : Out := alu f s (fun a b => wNat (a.toNat % 2 ^ width b))

/-- BFX (04 R59). -/
def execBfx (f : FmtS) (s : State) : Out := una f s (fun a => sextBits (bfLen f.b) (a >>> bfPos f.b))

/-- BFXU (04 R59). -/
def execBfxu (f : FmtS) (s : State) : Out := una f s (fun a => wNat (field a.toNat (bfPos f.b) (bfLen f.b)))

/-- BFI (04 R59). -/
def execBfi (f : FmtS) (s : State) : Out :=
  alu3 f s (fun a _ d =>
    let m := wNat ((2 ^ bfLen f.b - 1) * 2 ^ bfPos f.b)
    (d &&& ~~~m) ||| ((a <<< bfPos f.b) &&& m))

/-- SEL (04 R58). -/
def execSel (f : FmtS) (s : State) : Out :=
  onCore 1 f.g s (fun r => do
    let (a, pa) ← r.readX f.s1 f.w1
    let (b, pb) ← (match f.b with | .reg s2 w2 _ => r.readX s2 w2 | _ => .ok (0, false))
    r.writeX f.d (if r.pred (modBits f.b % 16) then a else b) (pa || pb))

/-! ## Compares and predicates (04 R60, R61; 02 R21) -/

/-- Write a predicate pair by its mode (02 R21; 03 R42). -/
def Core.setPair (r : Core) (pd pe : BitVec 4) (mode : BitVec 2) (c : Bool) : Core :=
  let d := r.pred pd.toNat
  let e := r.pred pe.toNat
  match mode.toNat with
  | 0 => (r.setPred pd.toNat c).setPred pe.toNat (!c)
  | 1 => (r.setPred pd.toNat (d && c)).setPred pe.toNat (e && !c)
  | 2 => (r.setPred pd.toNat (d || c)).setPred pe.toNat (e || !c)
  | _ => r.setPred pd.toNat c

/-- Read both sources of a compare, the immediate widened by im, then consume them (02 R33; 04 R60). -/
def Core.pairOf (r : Core) (f : FmtC) (im : BitVec 16 → Word) : M (Word × Word) := do
  let a ← r.readX f.s1 f.w1
  match f.b with
  | .reg s2 w2 =>
    let b ← r.readX s2 w2
    let a ← consume f.s1 a
    let b ← consume s2 b
    pure (a, b)
  | .imm v =>
    let a ← consume f.s1 a
    pure (a, im v)

/-- A compare of format C (04 R60). -/
def compare (f : FmtC) (s : State) (im : BitVec 16 → Word) (fn : Word → Word → Bool) : Out :=
  onCore 1 f.g s (fun r => do
    let (a, b) ← r.pairOf f im
    pure (r.setPair f.pd f.pe f.mode (fn a b)))

def im16S (v : BitVec 16) : Word := v.signExtend 64
def im16U (v : BitVec 16) : Word := v.zeroExtend 64
def im16BF (v : BitVec 16) : Word := wNat (v.toNat * 65536)

/-- CMP.EQ and CMP.NE name no sign: their immediate is sign-extended, as that of MOV and ADD is (DESIGN CHOICE, log 75). -/
def execCmpEq (f : FmtC) (s : State) : Out := compare f s im16S (fun a b => a == b)
def execCmpNe (f : FmtC) (s : State) : Out := compare f s im16S (fun a b => a != b)
def execCmpLt (f : FmtC) (s : State) : Out := compare f s im16S (fun a b => decide (a.toInt < b.toInt))
def execCmpLe (f : FmtC) (s : State) : Out := compare f s im16S (fun a b => decide (a.toInt ≤ b.toInt))
def execCmpGt (f : FmtC) (s : State) : Out := compare f s im16S (fun a b => decide (b.toInt < a.toInt))
def execCmpGe (f : FmtC) (s : State) : Out := compare f s im16S (fun a b => decide (b.toInt ≤ a.toInt))
def execCmpLtu (f : FmtC) (s : State) : Out := compare f s im16U (fun a b => decide (a.toNat < b.toNat))
def execCmpLeu (f : FmtC) (s : State) : Out := compare f s im16U (fun a b => decide (a.toNat ≤ b.toNat))
def execCmpGtu (f : FmtC) (s : State) : Out := compare f s im16U (fun a b => decide (b.toNat < a.toNat))
def execCmpGeu (f : FmtC) (s : State) : Out := compare f s im16U (fun a b => decide (b.toNat ≤ a.toNat))

/-- TST reads S1 alone (03 R42). -/
def test (f : FmtC) (s : State) (fn : Word → Bool) : Out :=
  onCore 1 f.g s (fun r => do
    let a ← r.useX f.s1 f.w1
    pure (r.setPair f.pd f.pe f.mode (fn a)))

def execTstZ (f : FmtC) (s : State) : Out := test f s (fun a => a == 0)
def execTstNz (f : FmtC) (s : State) : Out := test f s (fun a => a != 0)

/-- PLUT (04 R61): S1 and S2 name predicates, modifier [11:8] the third. -/
def execPlut (f : FmtS) (s : State) : Out :=
  onCore 1 f.g s (fun r =>
    let pb := match f.b with | .reg s2 _ _ => s2.toNat % 16 | _ => 0
    .ok (r.setPred (f.d.toNat % 16)
      (ttAt (BitVec.ofNat 8 (modBits f.b)) (r.pred (f.s1.toNat % 16)) (r.pred pb) (r.pred (modBits f.b / 256 % 16)))))

/-- PGET (04 R61). -/
def execPget (f : FmtS) (s : State) : Out :=
  onCore 1 f.g s (fun r => r.writeX f.d (wNat (((List.range 16).map (fun i => (r.pred i).toNat * 2 ^ i)).sum)) false)

/-- PPUT (04 R61). -/
def execPput (f : FmtS) (s : State) : Out :=
  onCore 1 f.g s (fun r => do
    let x ← r.useX f.s1 f.w1
    let mask := match f.b with | .imm v => v.toNat | _ => 0
    pure ((List.range 16).foldl (fun r i => if i ≠ 0 ∧ bitOf mask i then r.setPred i (bitOf x.toNat i) else r) r))

/-! ## Scalar FP32 (04 R62 to R65) -/

/-- The FP32 value in bits [31:0] of a word. -/
def f32 (w : Word) : Fp := fp32.value (field w.toNat 0 32)

/-- The rounding mode of scalar FP32 (02 R30). -/
def Core.rm (r : Core) : Rm := rmOf (stRM r.status)

/-- An arithmetic form: D ← Round(f(a, b)) with flags (04 R63). -/
def falu (f : FmtS) (s : State) (fn : Bool → Fp → Fp → Fp × Flags) : Out :=
  guarded 1 f.g s (fun s => do
    let (a, pa) ← s.fcore.readX f.s1 f.w1
    let (s, b) ← s.op2 immBF f.b
    let md := s.fcore.rm
    let (v, fl) := fn (md == .rdn) (f32 a) (f32 b.v)
    let (p, fl2) := fp32.result md false v
    let r ← s.fcore.writeX f.d (wNat p) (pa || b.bad)
    pure (s.putCore (r.flag (fl.or fl2))))

def execFadd (f : FmtS) (s : State) : Out := falu f s (fun down a b => Fp.add down a b)
def execFsub (f : FmtS) (s : State) : Out := falu f s (fun down a b => Fp.add down a b.neg)
def execFmul (f : FmtS) (s : State) : Out := falu f s (fun _ a b => Fp.mul a b)
def execFmin (f : FmtS) (s : State) : Out := falu f s (fun _ a b => Fp.minmax false a b)
def execFmax (f : FmtS) (s : State) : Out := falu f s (fun _ a b => Fp.minmax true a b)

/-- FFMA (04 R63): the old D, under the stall policy, is the addend. -/
def execFfma (f : FmtS) (s : State) : Out :=
  guarded 1 f.g s (fun s => do
    let (a, pa) ← s.fcore.readX f.s1 f.w1
    s.fcore.preOp f.b
    let (d, pd) ← s.fcore.readX f.d false
    let (s, b) ← s.op2 immBF f.b
    let md := s.fcore.rm
    let (v, fl) := Fp.fma (md == .rdn) (f32 a) (f32 b.v) (f32 d)
    let (p, fl2) := fp32.result md false v
    let r ← s.fcore.writeX f.d (wNat p) (pa || b.bad || pd)
    pure (s.putCore (r.flag (fl.or fl2))))

/-- FCVT.IF (04 R64): modifier [0] U. -/
def execFcvtIf (f : FmtS) (s : State) : Out :=
  onCore 1 f.g s (fun r => do
    let (a, pa) ← r.readX f.s1 f.w1
    let (p, fl) := fp32.result r.rm false (ofInt (intOf 64 (!bitOf (modBits f.b) 0) a.toNat))
    let r' ← r.writeX f.d (wNat p) pa
    pure (r'.flag fl))

/-- FCVT.FI (04 R64): modifier [0] U, [1] T. -/
def execFcvtFi (f : FmtS) (s : State) : Out :=
  onCore 1 f.g s (fun r => do
    let (a, pa) ← r.readX f.s1 f.w1
    let (p, fl) := toInt 64 (!bitOf (modBits f.b) 0) (if bitOf (modBits f.b) 1 then .rtz else r.rm) (f32 a)
    let r' ← r.writeX f.d (wNat p) pa
    pure (r'.flag fl))

/-- FCMP (04 R65): the outcome and whether INV is set. -/
def fcompare (f : FmtC) (s : State) (fn : Fp → Fp → Bool × Bool) : Out :=
  onCore 1 f.g s (fun r => do
    let (a, b) ← r.pairOf f im16BF
    let (c, inv) := fn (f32 a) (f32 b)
    pure ((r.setPair f.pd f.pe f.mode c).flag { inv := inv }))

def execFcmpEq (f : FmtC) (s : State) : Out :=
  fcompare f s (fun a b => (Fp.cmp a b == some .eq, a.isSig || b.isSig))
def execFcmpLt (f : FmtC) (s : State) : Out :=
  fcompare f s (fun a b => (Fp.cmp a b == some .lt, a.isNaN || b.isNaN))
def execFcmpLe (f : FmtC) (s : State) : Out :=
  fcompare f s (fun a b => (Fp.cmp a b == some .lt || Fp.cmp a b == some .eq, a.isNaN || b.isNaN))
def execFcmpUn (f : FmtC) (s : State) : Out :=
  fcompare f s (fun a b => (a.isNaN || b.isNaN, a.isSig || b.isSig))

/-! ## Address registers (04 R66) -/

/-- The A register that a five-bit field names. -/
def aIdx (v : BitVec 5) : BitVec 4 := v.truncate 4

/-- ACAP (04 R66): a capability slot of the launch record. -/
def execAcap (f : FmtS) (s : State) : Out :=
  guarded 1 f.g s (fun s =>
    let slot := match f.b with | .imm v => v.toNat | _ => 0
    .ok (s.putCore (s.fcore.setA (aIdx f.d) ((s.bank s.fk).slotCap s.fc slot))))

/-- AMOV (04 R66). -/
def execAmov (f : FmtS) (s : State) : Out :=
  onCore 1 f.g s (fun r => .ok (r.setA (aIdx f.d) (r.areg (aIdx f.s1))))

/-- A pointer moved to p0 + b, checked by R19; a KIND 0 source raises BOUNDS with TVAL 0 (04 R66). -/
def movePtr (f : FmtS) (s : State) (p0 : AReg → Word) : Out :=
  guarded 1 f.g s (fun s => do
    let (s, b) ← s.op2 immS f.b
    let a := s.fcore.areg (aIdx f.s1)
    if a.kind = 0 then trap cBOUNDS 0
    else do
      let b ← b.use
      let p : Int := (p0 a).toNat + b.toInt
      checkPtr a p
      pure (s.putCore (s.fcore.setA (aIdx f.d) { a with ptr := w64 p })))

def execAset (f : FmtS) (s : State) : Out := movePtr f s AReg.base
def execAadd (f : FmtS) (s : State) : Out := movePtr f s AReg.ptr

/-- ANRW (04 R66). -/
def execAnrw (f : FmtS) (s : State) : Out :=
  guarded 1 f.g s (fun s => do
    let (s, b) ← s.op2 immS f.b
    let a := s.fcore.areg (aIdx f.s1)
    if a.kind = 0 then trap cBOUNDS 0
    else do
      let b ← b.use
      let lim : Int := a.ptr.toNat + b.toInt
      if b.toInt < 0 ∨ (a.limit.toNat : Int) < lim then trap cBOUNDS (w64 lim)
      else
        let rights := match f.b with | .reg _ _ md => a.rights &&& md.truncate 5 | _ => a.rights
        pure (s.putCore (s.fcore.setA (aIdx f.d) { a with base := a.ptr, limit := w64 lim, rights := rights })))

/-- AGET (04 R66). -/
def execAget (f : FmtS) (s : State) : Out :=
  onCore 1 f.g s (fun r =>
    let w := match f.b with | .imm v => v.toNat | _ => 0
    r.writeX f.d (((r.areg (aIdx f.s1)).words[w]?).getD 0) false)

/-! ## Loads and stores (04 R67 to R71) -/

/-- All checks of a scalar access (04 R68): range, new pointer, then kind, lease and buffer state. -/
def State.checkMem (s : State) (f : FmtM) (u : Use) : M (AReg × Nat × Word) := do
  let a := s.fcore.areg f.a
  let (addr, p) := memAddr a f.mode.toNat f.off.toInt
  checkRange a addr (2 ^ f.size.toNat) u
  checkPtr a p
  s.checkKind s.fk s.fc a addr.toNat (2 ^ f.size.toNat) u
  pure (a, addr.toNat, w64 p)

/-- The memory-side cache sees a KIND 2 access (10 R203). -/
def State.cacheKind (s : State) (a : AReg) (addr n : Nat) : State :=
  if a.kind = 2 then s.cacheTouch (s.bank s.fk).asid a.bind.toNat addr n else s

/-- The effect of a checked load: KIND 1 at once, the others long-latency (04 R67). -/
def State.doLoad (s : State) (f : FmtM) (signed : Bool) (a : AReg) (addr : Nat) (p : Word) : M State := do
  let n := 2 ^ f.size.toNat
  let (s, bs, bad) := (s.cacheKind a addr n).loadBytes s.fk a addr n
  let v := if signed then w64 (intOf (8 * n) true (leNat bs)) else wNat (leNat bs)
  let r ← if a.kind = 1 then s.fcore.writeX f.data v bad else s.fcore.lateX f.data v bad
  pure (s.putCore (r.setA f.a { a with ptr := p }))

/-- A destination that waits for an earlier producer stalls the instruction (02 R15). -/
def Core.freeX (r : Core) (j : BitVec 5) : M Unit := do let _ ← r.writeX j 0 false; pure ()

/-- LD and LDU (04 R68). -/
def load (f : FmtM) (s : State) (signed : Bool) : Out :=
  guarded 1 f.g s (fun s => do
    s.fcore.freeX f.data
    let (a, addr, p) ← s.checkMem f .read
    s.doLoad f signed a addr p)

def execLd (f : FmtM) (s : State) : Out := load f s true
def execLdu (f : FmtM) (s : State) : Out := load f s false

/-- ST (04 R68): the data are read first, their poison consumed after the address checks. -/
def execSt (f : FmtM) (s : State) : Out :=
  guarded 1 f.g s (fun s => do
    let x ← s.fcore.readX f.data f.w
    let (a, addr, p) ← s.checkMem f .write
    let v ← consume f.data x
    let n := 2 ^ f.size.toNat
    let s := s.storeBytes s.fk a addr (leBytes n v.toNat)
    pure (s.putCore (s.fcore.setA f.a { a with ptr := p })))

/-- LDS (04 R69): a failed address check poisons the destination instead of trapping. -/
def execLds (f : FmtM) (s : State) : Out :=
  guarded 1 f.g s (fun s => do
    s.fcore.freeX f.data
    match s.checkMem f .read with
    | .ok (a, addr, p) => s.doLoad f true a addr p
    | .error _ =>
      let addr := (memAddr (s.fcore.areg f.a) f.mode.toNat f.off.toInt).1
      let r ← s.fcore.writeX f.data (w64 addr) true
      pure (s.putCore r))

/-- PCHK (04 R70): the poison is not consumed. -/
def execPchk (f : FmtS) (s : State) : Out :=
  onCore 1 f.g s (fun r => do
    let (_, bad) ← r.readX f.s1 f.w1
    pure (r.setPred (f.d.toNat % 16) bad))

/-- LDPF (04 R71): 1, 2, 4 or 8 granules of a KIND 2 range are fetched into the memory-side cache. -/
def execLdpf (f : FmtM) (s : State) : Out :=
  guarded 1 f.g s (fun s => do
    let a := s.fcore.areg f.a
    let (addr, p) := memAddr a f.mode.toNat f.off.toInt
    if f.mode = 0 then pure () else checkPtr a p
    let s := if 0 ≤ addr then s.cacheKind a (addr.toNat / 64 * 64) (64 * 2 ^ f.size.toNat) else s
    pure (if f.mode = 0 then s else s.putCore (s.fcore.setA f.a { a with ptr := w64 p })))

/-! ## Branches and loops (04 R73, R74; 02 R24 to R27) -/

/-- PC + 8·disp (01 R6). -/
def dispTo (pc : Word) (disp : BitVec 31) : Word := pc + (disp.signExtend 64 <<< 3)

def execBr (f : FmtBD) (s : State) : Out := branching f.g s (fun s => .ok (s, some (dispTo s.fcore.pc f.disp)))

/-- A branch to a register (04 R73): the target's poison is consumed; an unaligned one raises BOUNDS. -/
def branchX (f : FmtBR) (s : State) : Out :=
  branching f.g s (fun s => do
    let t ← s.fcore.useX f.x f.w
    if t.toNat % 8 ≠ 0 then trap cBOUNDS t else pure (s, some t))

def execBrx (f : FmtBR) (s : State) : Out := branchX f s
def execRet (f : FmtBR) (s : State) : Out := branchX f s

/-- CALL (04 R73): logical X31 takes the address of the next word. -/
def execCall (f : FmtBD) (s : State) : Out :=
  branching f.g s (fun s => do
    let r ← s.fcore.writeX 31 (s.fcore.pc + 8) false
    pure (s.putCore r, some (dispTo s.fcore.pc f.disp)))

/-- BRLC (01 R6; 02 R24). -/
def execBrlc (f : FmtBD) (s : State) : Out :=
  branching f.g s (fun s =>
    let r := s.fcore
    let lc := r.lc - 1
    .ok (s.putCore { r with lc := lc, rbase := r.rbase - 1 }, if lc = 0 then none else some (dispTo r.pc f.disp)))

/-- The core as MLOOP starts its loop (02 R26): P9 to P(7 + S) cleared, then round 0. -/
def Core.startLoop (r : Core) (l : LoopPos) : Core :=
  ((List.range (stages l.n l.ii - 1)).foldl (fun r i => r.setPred (9 + i) false) r).startRound l 0

/-- MLOOP (02 R25 to R27; 04 R74; 15 R288). Disabled, it continues after its body. -/
def execMloop (f : FmtBL) (s : State) : Out :=
  let k := s.fk
  let c := s.fc
  let pc := s.fcore.pc.toNat
  let n := f.n1.toNat + 1
  match s.scanBody k pc n 8 with
  | (s, .error a) => .next (s.stopped k c (.trap cBOUNDS (wNat a)))
  | (s, .ok (offs, ws)) =>
    let past := fun (s : State) => s.modCore k c (fun r => { r with pc := wNat (pc + (offs[n]?).getD 0), run := .running })
    if !(s.fcore.stageOn && s.fcore.guard f.g) then .next (past s)
    else if s.fcore.held.isSome then
      .next (if isPriv k c then s.fwFail (k / 128) 0x1D
        else s.bump.endTask k c cDOUBLE (wNat (Config.freeWord s.free)) s.fcore.pc 0)
    else match ws.findIdx? bodyBad with
      | some i => .next (s.stopped k c (.trap cLOOPBODY (wNat (pc + (offs[i]?).getD 0))))
      | none =>
        match s.fcore.useX f.xtrip f.w with
        | .error e => .next (s.stopped k c e)
        | .ok t =>
          if t = 0 then .next (past s)
          else
            let l : LoopPos :=
              { laddr := wNat pc, n := n, ii := f.ii1.toNat + 1, trip := t.toNat, round := 0, p := 0, offs := offs }
            .next (s.putCore ((({ s.fcore with run := .running }) : Core).startLoop l))

/-- RBSET (04 R74). -/
def execRbset (f : FmtS) (s : State) : Out :=
  guarded 1 f.g s (fun s => do
    let (s, b) ← s.op2 immS f.b
    let v ← b.use
    pure (s.putCore { s.fcore with rbase := v }))

/-! ## Semaphores and mutexes (04 R75 to R77; 05 R93, R94) -/

/-- The count of a semaphore instruction (04 R75). -/
def State.semCount (s : State) (b : Op2) : M (State × Nat) := do
  let (s, b) ← s.op2 immU b
  let v ← b.use
  if 65535 < v.toNat then trap cSEMRANGE v else pure (s, v.toNat)

/-- SEMSIG (04 R75): the signal enters the push order, so the credit rises (05 R94). -/
def execSemsig (f : FmtS) (s : State) : Out :=
  guarded 1 f.g s (fun s => do
    let (s, n) ← s.semCount f.b
    let x := (s.bank s.fk).sem f.d.toNat
    if 65535 < x.val + n then trap cSEMRANGE (wNat n)
    else pure (s.modBank s.fk (fun b => (b.setSem f.d.toNat { x with val := x.val + n }).addCredit f.d.toNat n)))

/-- SEMWAIT (04 R75, R76). -/
def execSemwait (f : FmtS) (s : State) : Out :=
  guarded 1 f.g s (fun s => do
    let (s, n) ← s.semCount f.b
    let x := (s.bank s.fk).sem f.d.toNat
    if n = 0 then pure s
    else if x.queue = [] ∧ n ≤ x.val then
      pure (s.modBank s.fk (fun b => b.setSem f.d.toNat { x with val := x.val - n }))
    else stall (.sem f.d.toNat n))

/-- SEMTRY (04 R75). -/
def execSemtry (f : FmtS) (s : State) : Out :=
  guarded 1 f.g s (fun s => do
    let (s, n) ← s.semCount f.b
    let x := (s.bank s.fk).sem f.d.toNat
    let ok := decide (x.queue = []) && decide (n ≤ x.val)
    let s := if ok then s.modBank s.fk (fun b => b.setSem f.d.toNat { x with val := x.val - n }) else s
    pure (s.putCore (s.fcore.setPred (f.s1.toNat % 16) ok)))

/-- MTXLOCK (04 R77). -/
def execMtxlock (f : FmtS) (s : State) : Out :=
  guarded 1 f.g s (fun s =>
    let m := (s.bank s.fk).mutex f.d.toNat
    if m.owner = some s.fc then trap cMUTEX (wNat f.d.toNat)
    else if m.owner = none ∧ m.queue = [] then
      .ok (s.modBank s.fk (fun b => b.setMutex f.d.toNat { m with owner := some s.fc }))
    else stall (.mutex f.d.toNat))

/-- MTXTRY (04 R77). -/
def execMtxtry (f : FmtS) (s : State) : Out :=
  guarded 1 f.g s (fun s =>
    let m := (s.bank s.fk).mutex f.d.toNat
    if m.owner = some s.fc then trap cMUTEX (wNat f.d.toNat)
    else
      let ok := decide (m.owner = none) && decide (m.queue = [])
      let s' := if ok then s.modBank s.fk (fun b => b.setMutex f.d.toNat { m with owner := some s.fc }) else s
      .ok (s'.putCore (s'.fcore.setPred (f.s1.toNat % 16) ok)))

/-- MTXFREE (04 R77). -/
def execMtxfree (f : FmtS) (s : State) : Out :=
  guarded 1 f.g s (fun s =>
    let m := (s.bank s.fk).mutex f.d.toNat
    if m.owner = some s.fc then .ok (s.modBank s.fk (fun b => b.setMutex f.d.toNat { m with owner := none }))
    else trap cMUTEX (wNat f.d.toNat))

/-! ## Full/empty and engine-queue control (04 R78 to R80) -/

/-- XEMPTY (04 R78): awaiting, the value unchanged. -/
def execXempty (f : FmtS) (s : State) : Out :=
  onCore 1 f.g s (fun r => do
    r.freeX f.d
    let i := r.px f.d.toNat
    pure { r with x := vset r.x i { r.xreg i with fill := .awaiting } })

/-- XFULLQ (04 R78). -/
def execXfullq (f : FmtS) (s : State) : Out :=
  onCore 1 f.g s (fun r =>
    .ok (r.setPred (f.d.toNat % 16) (f.s1 == 0 || (r.xreg (r.px f.s1.toNat)).fill == .full)))

/-- Wait until the queued engine of the issuing core has drained, or ENGINE_FAULT (04 R79, R80). -/
def State.drain (s : State) (w : Wait) : M Unit :=
  match engineOf (s.cls s.fk) s.fk s.fc with
  | none => .ok ()
  | some e =>
    let q := (s.bank s.fk).engine e
    match q.stop with
    | some cause => trap cENGINE (wNat cause)
    | none => if q.entries = [] then .ok () else stall w

/-- EQDRAIN (04 R79). -/
def execEqdrain (f : FmtS) (s : State) : Out := guarded 1 f.g s (fun s => do s.drain .drain; pure s)

/-- EQLEVEL (04 R79). On a core without a queued engine its 0 is written at once: no engine answers (DESIGN CHOICE, log 75). -/
def execEqlevel (f : FmtS) (s : State) : Out :=
  guarded 1 f.g s (fun s => do
    let r ← match engineOf (s.cls s.fk) s.fk s.fc with
      | none => s.fcore.writeX f.d 0 false
      | some e =>
        let q := (s.bank s.fk).engine e
        s.fcore.lateX f.d (wNat (q.entries.length + (if q.stop.isSome then 2 ^ 63 else 0))) false
    pure (s.putCore r))

/-! ## Special registers (02 R29, R30; 04 R81; 19 R340, R346, R347) -/

/-- The on-chip address of the discovery table (05 R103). -/
def discAddr : Word := wNat (padBase (svc Config.schedDie) + 0x309000)

/-- Has the core masks that LIVEK counts (02 R22)? -/
def hasMasks (cls k : Nat) (c : CoreIx) : Bool :=
  !isService k && (c == .v || (c == .e && (cls == 1 || cls == 3)))

/-- What MFS reads of special register n (02 R29). -/
def State.special (s : State) (n : Nat) : Word :=
  let r := s.fcore
  match n with
  | 0 => r.lc
  | 1 => r.rbase
  | 2 => if isPriv s.fk s.fc then r.status ||| 0x10000 else r.status
  | 3 => r.epc
  | 4 => r.cause
  | 5 => r.tval
  | 6 => wNat (s.cell s.fk).cycle
  | 7 => discAddr
  | 8 => r.livep.zeroExtend 64
  | 9 => if hasMasks (s.cls s.fk) s.fk s.fc then r.livek.zeroExtend 64 else 0
  | 10 => r.spillptr
  | 11 => if s.fk / 128 = Config.schedDie then s.geode.fwslot else 0
  | 12 => if s.fk / 128 = Config.schedDie then s.geode.hoseq else 0
  | _ => 0

/-- MFS (04 R81). -/
def execMfs (f : FmtS) (s : State) : Out :=
  guarded 1 f.g s (fun s =>
    if 11 ≤ f.s1.toNat ∧ !isPriv s.fk s.fc then trap cPRIVILEGE (wNat f.s1.toNat)
    else do
      let r ← s.fcore.writeX f.d (s.special f.s1.toNat) false
      pure (s.putCore r))

/-- Reseed the generators that a core owns, at an MTS that writes STATUS (06 R122). -/
def State.reseed (s : State) (seed : BitVec 32) : State :=
  match s.fc with
  | .v => s.modBank s.fk (fun b => { b with vu := { b.vu with gens := { seed := seed } } })
  | .x => s
  | .e =>
    if s.cls s.fk = 3 then s.modBank s.fk (fun b => { b with vu2 := { b.vu2 with gens := { seed := seed } } })
    else if s.cls s.fk = 1 then
      s.modBank s.fk (fun b => { b with mx := { b.mx with reseeds := b.mx.reseeds ++ [(b.uid, seed)] } }.applyReseeds)
    else s

/-- Write special register n, one that MTS may write (02 R29, R30). -/
def State.setSpecial (s : State) (n : Nat) (v : Word) : State :=
  let r := s.fcore
  match n with
  | 0 => s.putCore { r with lc := v }
  | 1 => s.putCore { r with rbase := v }
  | 2 => (s.putCore { r with status := stMask v }).reseed (stSeed v)
  | 3 => s.putCore { r with epc := v }
  | 4 => s.putCore { r with cause := v &&& 0x3F }
  | 5 => s.putCore { r with tval := v }
  | 8 => s.putCore { r with livep := v.truncate 16 &&& 0xFFFE }
  | 9 => if hasMasks (s.cls s.fk) s.fk s.fc then s.putCore { r with livek := v.truncate 16 } else s
  | 10 => s.putCore { r with spillptr := v }
  | _ => s

/-- MTS (04 R81). Registers 6 to 10 are for firmware; HOSEQ for nobody (02 R29). -/
def execMts (f : FmtS) (s : State) : Out :=
  guarded 1 f.g s (fun s =>
    if (6 ≤ f.d.toNat ∧ !isPriv s.fk s.fc) ∨ f.d.toNat = 12 then trap cPRIVILEGE (wNat f.d.toNat)
    else do
      let v ← s.fcore.useX f.s1 f.w1
      pure (s.setSpecial f.d.toNat v))

/-- MTS FWSLOT (19 R346, R347): a commit, or a write of STAGE and a clear of ROLLED. -/
def execFwslotCommit (f : FmtS) (s : State) : Out :=
  .next (if s.fcore.stageOn && s.fcore.guard f.g then
      if !isPriv s.fk s.fc ∨ s.fk / 128 ≠ Config.schedDie then s.stopped s.fk s.fc (.trap cPRIVILEGE 11)
      else match s.fcore.useX f.s1 f.w1 with
        | .error e => s.stopped s.fk s.fc e
        | .ok v =>
          let new := bitOf v.toNat 0
          if new = s.geode.active then
            ({ s with geode := { s.geode with
                stage := bitOf v.toNat 1, rolled := s.geode.rolled && bitOf v.toNat 3 } }).retire s.fk s.fc 1
          else if s.geode.stage ∧ !s.geode.pending ∧ s.geode.ver new then s.commit new
          else s.stopped s.fk s.fc (.trap cPRIVILEGE 11)
    else s.squash s.fk s.fc 1)

/-! ## Windows, write pointers, ending, pausing (04 R82 to R85) -/

/-- Window w of a core. -/
def Core.setWin (r : Core) (w : Nat) (x : Win) : Core := { r with win := vset r.win w x }

/-- CWBIND (04 R82). A0 unbinds without trapping: operand two is not read then (log 75). -/
def execCwbind (f : FmtS) (s : State) : Out :=
  guarded 1 f.g s (fun s =>
    if aIdx f.s1 = 0 then .ok (s.putCore (s.fcore.setWin f.d.toNat {}))
    else do
      let (s, b) ← s.op2 immS f.b
      let b ← b.use
      let a := s.fcore.areg (aIdx f.s1)
      let start : Int := a.ptr.toNat + b.toInt
      if s.winOk s.fk a start then pure (s.putCore (s.fcore.setWin f.d.toNat (s.bindWin s.fk s.fcore.wcount { a with ptr := w64 start })))
      else trap cBOUNDS (w64 start))

/-- WAITWP (04 R83). -/
def execWaitwp (f : FmtS) (s : State) : Out :=
  guarded 1 f.g s (fun s => do
    let c ← s.fcore.readX f.s1 f.w1
    let (s, b) ← s.op2 immS f.b
    let c ← consume f.s1 c
    let n ← b.use
    let ch := vget (s.bank s.fk).chans c.toNat {}
    if 16 ≤ c.toNat ∨ ch.st ≠ .open_ then trap cCHANNEL c
    else if n.toNat ≤ ch.wp then pure s
    else stall (.wp c.toNat n))

/-- The lowest mutex a core owns. -/
def Bank.ownedBy (b : Bank) (c : CoreIx) : Option Nat := b.mutexes.toList.findIdx? (fun m => m.owner == some c)

/-- DONE (04 R84). -/
def execDone (f : FmtS) (s : State) : Out :=
  .next (if s.fcore.stageOn && s.fcore.guard f.g then
      let ready : M Unit := do
        if s.fcore.pending then stall .parked else pure ()
        s.drain .parked
        match (s.bank s.fk).ownedBy s.fc with
        | some m => trap cMUTEX (wNat m)
        | none => pure ()
      match ready with
      | .error e => s.stopped s.fk s.fc e
      | .ok () => s.modCore s.fk s.fc (fun r => { r.fillAwaiting with run := .done, pc := r.pc + 8 })
    else s.squash s.fk s.fc 1)

/-- PAUSE (04 R85): it ends by PAUSE_WAKE or PAUSE_TIMEOUT. -/
def execPause (f : FmtS) (s : State) : Out :=
  guarded 1 f.g s (fun s =>
    stall (.pause (s.cell s.fk).cycle (s.bank s.fk).changes s.fcore.fills))

end Sys2Proof.Machine
end

