-- ==== Sys2Proof/Machine/Unit.lean ====
section
/-! DEFINITION. A vector unit: tags and element counts (06 R112, R116), operands, guards, ports, the write of a destination with
its sidecar and poison (06 R119; 07 R128 to R134, R150 to R152), and the generators (06 R121). -/

namespace Sys2Proof.Machine

/-! ## Tags (06 R116; 07 R129) -/

/-- Elements per V register (06 R116); NONE counts as 256 (07 R130). -/
def elemCount (t : Nat) : Nat :=
  match t with
  | 2 => 512 | 3 => 512 | 4 => 1024 | 5 => 1024 | 7 => 512 | 8 => 1024 | 9 => 2048 | 10 => 1024 | 11 => 1024 | 12 => 1280
  | 13 => 1280 | 14 => 2048 | 15 => 1024 | 16 => 1024 | 17 => 2048 | 18 => 128 | _ => 256

def isF (t : Nat) : Bool := 1 ≤ t && t ≤ 3
def isI (t : Nat) : Bool := 6 ≤ t && t ≤ 8
def isN (t : Nat) : Bool := (6 ≤ t && t ≤ 9) || t == 18
def isE (t : Nat) : Bool := 1 ≤ t && t ≤ 8
def isBlock (t : Nat) : Bool := 10 ≤ t && t ≤ 15
def isQ (t : Nat) : Bool := t == 16 || t == 17
def isX (t : Nat) : Bool := 10 ≤ t && t ≤ 17
def isAny (t : Nat) : Bool := t ≤ 18

/-- Is the element of a tag a floating format with its own value? -/
def isFloat (t : Nat) : Bool := 1 ≤ t && t ≤ 5

/-- The floating format of a tag's elements (06 R110, R116). -/
def fmtOf (t : Nat) : Fmt :=
  match t with
  | 2 => bf16 | 3 => fp16 | 4 => e4m3 | 5 => e5m2 | 10 => e4m3 | 11 => e5m2 | 12 => e3m2 | 13 => e2m3 | 14 => e2m1 | _ => fp32

/-- Elements of a block or group (06 R113, R115). -/
def unitSize (t gs : Nat) : Nat := if isBlock t then 32 else 32 * 2 ^ gs

/-- Bytes of a sidecar entry (06 R117). -/
def entrySize (t : Nat) : Nat := if isBlock t then 1 else 4

/-! ## The unit of the issuing core -/

def State.unit (s : State) : VUnit :=
  match s.fc with
  | .v => (s.bank s.fk).vu
  | _ => (s.bank s.fk).vu2

def State.setUnit (s : State) (u : VUnit) : State :=
  s.modBank s.fk (fun b => match s.fc with
    | .v => { b with vu := u }
    | _ => { b with vu2 := u })

/-- The on-chip address of physical V register v (10 R191). -/
def State.regAddr (s : State) (v : Nat) : Nat := chipAddr s.fk (match s.fc with | .v => 2 | _ => 3) (0x400 * v)

/-- Physical V and K indices (02 R23). -/
def Core.vp (r : Core) (j : Nat) : Nat := rot 16 32 r.rbase j
def Core.kp (r : Core) (j : Nat) : Nat := rot 8 8 r.rbase j

/-- The 16 poison bits of a V register are the flags of its granules (10 R191; 07 R132). -/
def State.segBad (s : State) (v seg : Nat) : Bool := nsHas s.memBad (s.regAddr v / 64 + seg)

/-- A mask by its logical index; K0 reads all ones (03 R36). -/
def State.kmask (s : State) (j : Nat) : BitVec 1024 :=
  if j = 0 then BitVec.allOnes 1024 else vget s.unit.k (s.fcore.kp j) 0

/-- Write a mask: K0 discards, the others become live (07 R143). -/
def State.setMask (s : State) (j : Nat) (v : BitVec 1024) : State :=
  if j = 0 then s
  else
    let p := s.fcore.kp j
    let s := s.setUnit { s.unit with k := vset s.unit.k p v }
    s.putCore { s.fcore with livek := setBit s.fcore.livek p true }

/-- The elements below n that a guard enables under a tag (07 R130; 06 R112). -/
def State.enabled (s : State) (g : Guard) (tag n : Nat) : List Nat :=
  if g.tt = 0xFF then List.range n
  else
    let ka := s.kmask g.pa.toNat
    let kb := s.kmask g.pb.toNat
    let kc := s.kmask g.pc.toNat
    let at_ := fun (j : BitVec 4) (m : BitVec 1024) (i : Nat) =>
      j == 0 || (if i < 1024 then m.getLsbD i else Config.maskTail m.toNat i)
    (List.range n).filter (fun i =>
      let q := if elemCount tag = 2048 then i / 2 else i
      ttAt g.tt (at_ g.pa ka q) (at_ g.pb kb q) (at_ g.pc kc q))

/-- The bits that a guard enables in a mask of n bits. -/
def State.enabledBits (s : State) (g : Guard) (n : Nat) : List Nat := s.enabled g 8 n

/-! ## Operands (03 R45; 07 R128) -/

/-- A vector source: its specifier, tag, GS and sidecar, its bits by bit offset and width, their poison, and its port. -/
structure Opnd where
  spec : Nat
  tag  : Nat
  gs   : Nat := 0
  side : Nat → Nat := fun _ => 0
  rd   : Nat → Nat → Nat
  bad  : Nat → Nat → Bool
  port : Option Nat := none

/-- The span of element i of width w from a byte address: its first byte, and how many bytes it touches (06 R112). -/
def elemSpan (base : Int) (w i : Nat) : Int × Nat := (base + (i * w / 8 : Nat), (i * w + w + 7) / 8 - i * w / 8)

/-- w bits at bit offset o from an address of the own scratchpad. -/
def State.padBits (s : State) (k : Nat) (base : Int) (o w : Nat) : Nat :=
  let a := (base + (o / 8 : Nat)).toNat
  field (leNat (s.chipBytes (padBase k + a) ((o + w + 7) / 8 - o / 8))) (o % 8) w

/-- Are w bits at bit offset o from an address of the own scratchpad flagged? -/
def State.padBad (s : State) (k : Nat) (base : Int) (o w : Nat) : Bool :=
  badIn s.memBad (padBase k + (base + (o / 8 : Nat)).toNat) ((o + w + 7) / 8 - o / 8)

/-- The address a port stands at (07 R152). -/
def Port.addr (p : Port) : Int :=
  p.base.toNat + (p.levels.toList.map (fun l => (l.index : Int) * l.stride.toInt)).sum

/-- Is a port's count exhausted from the start (07 R151)? -/
def Port.rewind (p : Port) : Port :=
  { p with levels := p.levels.map (fun l => { l with index := 0 })
           status := if p.levels.toList.any (fun l => l.count == 0) then 2 else 1 }

/-- Advance a port by one pop (07 R152). -/
def Port.advance (p : Port) : Port :=
  let step := (List.range 4).foldl (fun (acc : Vector Level 4 × Bool) i =>
    let l := vget acc.1 i {}
    if acc.2 then
      if l.index + 1 = l.count then (vset acc.1 i { l with index := 0 }, true)
      else (vset acc.1 i { l with index := l.index + 1 }, false)
    else acc) (p.levels, true)
  { p with levels := step.1, status := if step.2 then 2 else p.status }

/-- The source that a specifier names. -/
def State.opnd (s : State) (f : BitVec 6) : Opnd :=
  let j := f.toNat
  let u := s.unit
  if j < 48 then
    let v := s.fcore.vp j
    let raw := leNat (s.chipBytes (s.regAddr v) 1024)
    { spec := j, tag := (vget u.tags v 0).toNat, gs := (vget u.gs v 0).toNat
      side := fun b => (u.side.byte (256 * v + b)).toNat
      rd := fun o w => field raw o w
      bad := fun o w => (List.range ((o + w - 1) / 512 - o / 512 + 1)).any (fun i => s.segBad v (o / 512 + i)) }
  else if j < 56 then
    let p := vget u.ports (j - 48) {}
    let base := p.addr
    { spec := j, tag := p.tag.toNat, port := some (j - 48)
      rd := fun o w => s.padBits s.fk base o w
      bad := fun o w => s.padBad s.fk base o w }
  else
    let b := vget u.slots (j - 56) {}
    let w0 := tagBits b.tag.toNat
    let e := b.val.toNat % 2 ^ w0
    let raw := (List.range (8192 / w0)).foldr (fun _ acc => e + 2 ^ w0 * acc) 0
    { spec := j, tag := b.tag.toNat, rd := fun o w => field raw o w, bad := fun _ _ => b.poison }

/-- The width of an operand's elements. -/
def Opnd.w (o : Opnd) : Nat := tagBits o.tag

/-- Element i, and its poison. -/
def Opnd.el (o : Opnd) (i : Nat) : Nat := o.rd (i * o.w) o.w
def Opnd.elBad (o : Opnd) (i : Nat) : Bool := o.bad (i * o.w) o.w

/-- TVAL of TAG_MISMATCH (06 R118). -/
def tagTval (spec tag : Nat) : Word := wNat (spec + 256 * tag)

def mismatch {α : Type} (o : Opnd) : M α := trap cTAG (tagTval o.spec o.tag)

/-- Sources of one class that carry one and the same tag (07 R128, R129). -/
def sameTags (cls : Nat → Bool) (l : List Opnd) : M Unit :=
  match l with
  | [] => .ok ()
  | o :: _ =>
    match l.find? (fun x => !cls x.tag || x.tag != o.tag) with
    | some x => mismatch x
    | none => .ok ()

/-- A source of a class. -/
def ofClass (cls : Nat → Bool) (o : Opnd) : M Unit := if cls o.tag then .ok () else mismatch o

/-! ## Port and address checks, and pops (07 R133, R152) -/

/-- A source with the elements of width w that the instruction reads from it. -/
structure Need1 where
  o   : Opnd
  w   : Nat
  idx : List Nat

/-- The elements of an operand at its own width. -/
def Opnd.need (o : Opnd) (idx : List Nat) : Need1 := ⟨o, o.w, idx⟩

/-- A span of the own scratchpad through an A register of KIND 1 (07 R148). -/
def State.checkSpan (s : State) (a : AReg) (u : Use) (sp : Int × Nat) : M Unit :=
  if a.kind = 1 ∧ a.allows u = true ∧ a.inside sp.1 sp.2 = true ∧ s.chipOk (padBase s.fk + sp.1.toNat) sp.2 = true ∧
      s.limitOk s.fk a = true then .ok ()
  else trap cBOUNDS (w64 sp.1)

def State.checkSpans (s : State) (a : AReg) (u : Use) (l : List (Int × Nat)) : M Unit := l.forM (s.checkSpan a u)

/-- The state of each named port, then the addresses of the elements read of it (07 R133 steps 2 and 3; log 35). -/
def State.checkPorts (s : State) (l : List Need1) : M Unit := do
  l.forM (fun n => match n.o.port with
    | some q => if (vget s.unit.ports q {}).status = 1 then pure () else trap cPORT (wNat q)
    | none => pure ())
  l.forM (fun n => match n.o.port with
    | some q =>
      let p := vget s.unit.ports q {}
      s.checkSpans p.bind .read (n.idx.map (elemSpan p.addr n.w))
    | none => pure ())

/-- Mark the granules of spans of the own scratchpad as touched (05 R101). -/
def State.touchSpans (s : State) (l : List (Int × Nat)) : State :=
  s.modBank s.fk (fun b => { b with touched := l.foldl (fun t sp => (granules 12 sp.1.toNat sp.2).foldl nsAdd t) b.touched })

/-- Pop each named port once (03 R46). -/
def State.popPorts (s : State) (l : List Need1) : State :=
  let qs := (l.filterMap (fun n => n.o.port)).eraseDups
  let s := l.foldl (fun s n => match n.o.port with
    | some q => s.touchSpans (n.idx.map (elemSpan (vget s.unit.ports q {}).addr n.w))
    | none => s) s
  qs.foldl (fun s q => s.setUnit { s.unit with ports := vset s.unit.ports q (vget s.unit.ports q {}).advance }) s

/-- Consume the poison of the elements read (07 R132). -/
def consumeV (n : Need1) : M Unit :=
  if n.idx.any (fun i => n.o.bad (i * n.w) n.w) then trap cPOISON (wNat n.o.spec) else .ok ()

/-- An X source of a format V field: stall policy (07 R128). -/
def State.vx (s : State) (f : BitVec 6) : M (Word × Bool) := s.fcore.readX (f.truncate 5) false

/-- Consume an X source. -/
def useVx (f : BitVec 6) (v : Word × Bool) : M Unit := if v.2 then trap cPOISON (wNat (f.toNat % 32)) else .ok ()

/-! ## Writing a destination (06 R119; 07 R131, R132) -/

/-- What becomes of the destination's GS and sidecar: zero, kept, or set with entries by block or group. -/
inductive Side where
  | zero
  | set (gs : Nat) (entries : List (Nat × List Byte))

/-- Replace w bits at an offset. -/
def setField (v lo w x : Nat) : Nat := v - field v lo w * 2 ^ lo + x % 2 ^ w * 2 ^ lo

/-- The bits of element i that lie in segment seg. -/
def bitsIn (w i seg : Nat) : Nat := min (i * w + w) (512 * seg + 512) - max (i * w) (512 * seg)

/-- The unused sidecar bytes of register v under a tag and GS read zero, the fourth byte of a group's entry among them (06 R117). -/
def sideClean (tag gs v : Nat) (m : Mem) : Mem :=
  let used := elemCount tag / unitSize tag gs * entrySize tag
  let m := m.clear (256 * v + used) (256 - used)
  if isQ tag then (List.range (used / 4)).foldl (fun m g => m.write (256 * v + 4 * g + 3) [0]) m else m

/-- Write elements (index, pattern, poison) of logical register d under a tag. Nothing enabled writes nothing (06 R119); so does a
class-X result of which no whole block or group is enabled, which keeps tag, GS and sidecar (DESIGN CHOICE, log 80). -/
def State.vput (s : State) (d : BitVec 6) (tag : Nat) (ws : List (Nat × Nat × Bool)) (side : Side) : State :=
  if ws = [] then s
  else
    let v := s.fcore.vp d.toNat
    let w := tagBits tag
    let a := s.regAddr v
    let raw := ws.foldl (fun r e => setField r (e.1 * w) w e.2.1) (leNat (s.chipBytes a 1024))
    let bad := (List.range 16).foldl (fun bad seg =>
      let g := a / 64 + seg
      let new := ws.any (fun e => e.2.2 && decide (0 < bitsIn w e.1 seg))
      let whole := (ws.map (fun e => bitsIn w e.1 seg)).sum == 512
      if new then nsAdd bad g else if whole then nsDel bad g else bad) s.memBad
    let u := s.unit
    let u := { u with tags := vset u.tags v (BitVec.ofNat 5 tag) }
    let u := match side with
      | .zero => { u with gs := vset u.gs v 0, side := u.side.clear (256 * v) 256 }
      | .set gs es =>
        { u with gs := vset u.gs v (BitVec.ofNat 2 gs)
                 side := sideClean tag gs v (es.foldl (fun m e => m.write (256 * v + e.1 * entrySize tag) e.2) u.side) }
    let s := ({ s with mem := s.mem.write a (leBytes 1024 raw), memBad := bad }).setUnit u
    s.putCore { s.fcore with livev := setBit s.fcore.livev v true }

/-- The blocks or groups of which every element is enabled (07 R131). -/
def fullUnits (tag gs : Nat) (en : List Nat) : List Nat :=
  let z := unitSize tag gs
  let cnt := en.foldl (fun (m : KMap Nat) i => kset m (i / z) (kget 0 m (i / z) + 1)) []
  (cnt.filter (fun e => e.2 == z)).map (·.1)

/-- The elements of those blocks or groups. -/
def unitElems (tag gs : Nat) (us : List Nat) : List Nat :=
  us.flatMap (fun u => (List.range (unitSize tag gs)).map (fun i => u * unitSize tag gs + i))

/-- Sidecar entries of blocks or groups, from a source. -/
def Opnd.entries (o : Opnd) (tag : Nat) (us : List Nat) : List (Nat × List Byte) :=
  us.map (fun u => (u, (List.range (entrySize tag)).map (fun i => BitVec.ofNat 8 (o.side (u * entrySize tag + i)))))

/-! ## Generators (06 R121) -/

/-- The state of generator i. -/
def Gens.get (g : Gens) (i : Nat) : BitVec 32 :=
  match kget? g.st i with
  | some x => x
  | none => seedOr (g.seed ^^^ BitVec.ofNat 32 (0x9E3779B9 * (i + 1)))

/-- A draw of generator i. -/
def Gens.draw (g : Gens) (i : Nat) : Nat × Gens :=
  let x := xorshift (g.get i)
  (x.toNat, { g with st := kset g.st i x })

/-- The mode of a rounding field: none is SR (03 R45; 02 R30). -/
def modeOf (rm : BitVec 2) (st : Word) : Option Rm :=
  if rm = 0 ∧ stSRE st then none else some (rmOf rm.toNat)

/-- Evaluate elements in order, each under SR with a draw of its generator (06 R121). -/
def rounding {α : Type} (md : Option Rm) (gen : Nat → Nat) (idx : List Nat) (g : Gens) (fn : Rm → Nat → α) :
    List (Nat × α) × Gens :=
  match md with
  | some m => (idx.map (fun i => (i, fn m i)), g)
  | none =>
    let (l, g) := idx.foldl (fun (acc : List (Nat × α) × Gens) i =>
      let (r, g) := acc.2.draw (gen i)
      ((i, fn (.sr r) i) :: acc.1, g)) ([], g)
    (l.reverse, g)

/-- All flags of a list. -/
def orAll (l : List Flags) : Flags := l.foldl Flags.or {}

/-- OR flags into the issuing core's STATUS (06 R124). -/
def State.vflag (s : State) (fl : Flags) : State := s.putCore (s.fcore.flag fl)

/-- A vector instruction: disabled as a whole only by its stage predicate (07 R130). -/
def vector (s : State) (body : State → M State) : Out :=
  .next (if s.fcore.stageOn then s.finish 1 (body s) else s.squash s.fk s.fc 1)

end Sys2Proof.Machine
end

