-- ==== Sys2Proof/Machine/Context.lean ====
section
/-! DEFINITION. The context of a core as words: the layout that CTXSAVE writes, CTXLOAD reads and spill records use
(15 R293 to R297). -/

namespace Sys2Proof.Machine

/-- Does the core own a vector unit, the matrix array, the settings of a sparse or sort engine (05 R90; 15 R295)? -/
def hasUnit (cls k : Nat) (c : CoreIx) : Bool := !isService k && (c == .v || (c == .e && cls == 3))
def hasArray (cls k : Nat) (c : CoreIx) : Bool := !isService k && c == .e && cls == 1
def hasSettings (cls k : Nat) (c : CoreIx) : Bool := !isService k && c == .e && (cls == 2 || cls == 4)

/-- The word whose bits below n are given. -/
def bitsW (n : Nat) (f : Nat → Bool) : Word := wNat (((List.range n).filter f).map (2 ^ ·)).sum

/-- Little-endian words of bytes. -/
def wordsOf : Nat → List Byte → List Word
  | 0, _ => []
  | n + 1, bs => wNat (leNat (bs.take 8)) :: wordsOf n (bs.drop 8)

/-- The bytes of words. -/
def bytesOf (ws : List Word) : List Byte := ws.flatMap (fun w => leBytes 8 w.toNat)

/-- The contents of a cell from which a context is written: its registers and its part of the on-chip map. -/
structure Contents where
  b   : Bank
  mem : Mem
  bad : NSet

def State.contents (s : State) (k : Nat) : Contents := ⟨s.bank k, s.mem, s.memBad⟩

def Contents.words (x : Contents) (a n : Nat) : List Word := wordsOf n (x.mem.read a (8 * n))

/-- The vector unit of a core, and where its registers lie (10 R191). -/
def Bank.unitOf (b : Bank) (c : CoreIx) : VUnit := if c = .v then b.vu else b.vu2
def Bank.setUnitOf (b : Bank) (c : CoreIx) (u : VUnit) : Bank := if c = .v then { b with vu := u } else { b with vu2 := u }
def unitAddr (k : Nat) (c : CoreIx) (v : Nat) : Nat := chipAddr k (if c = .v then 2 else 3) (0x400 * v)

/-! ## Writing (15 R293 to R295) -/

/-- The loop position that a context keeps. -/
def Core.position (r : Core) : Option LoopPos := r.loop.or r.held

/-- The scalar section (15 R294). extra stands at +138 to +141. -/
def Core.section_ (r : Core) (priv : Bool) (resume : Word) (doneRep : Bool) (extra : List Word) : List Word :=
  let l := r.position
  let w := fun (f : LoopPos → Word) => match l with | some p => f p | none => 0
  (List.range 31).map (fun i => (r.xreg (i + 1)).val) ++
  [bitsW 32 (fun j => j != 0 && (r.xreg j).poison)] ++
  (List.range 15).flatMap (fun i => (vget r.a (i + 1) {}).words) ++
  [(r.p &&& r.livep).zeroExtend 64] ++
  (List.range 8).flatMap (fun i => let x := vget r.win i {}; if x.bound then x.reg.words else [0, 0, 0, 0]) ++
  [r.lc, r.rbase, if priv then r.status ||| 0x10000 else r.status, r.epc, r.cause, r.tval, r.spillptr] ++
  [w (·.laddr), w (fun p => wNat p.trip), w (fun p => wNat p.round), w (fun p => wNat p.p)] ++
  [resume, if doneRep then 1 else 0] ++ extra ++
  [bitsW 32 (fun j => j != 0 && (r.xreg j).fill == .entry), 0]

/-- A V-register part: tag, GS and poison, 128 words of data, 32 words of sidecar. -/
def Contents.vreg (x : Contents) (k : Nat) (c : CoreIx) (v : Nat) : List Word :=
  let u := x.b.unitOf c
  let a := unitAddr k c v
  [wNat ((vget u.tags v 0).toNat + (vget u.gs v 0).toNat * 256) ||| (bitsW 16 (fun g => nsHas x.bad (a / 64 + g)) <<< 16)] ++
    x.words a 128 ++ wordsOf 32 (u.side.read (256 * v) 256)

def VUnit.mask (u : VUnit) (i : Nat) : List Word := wordsOf 16 (leBytes 128 (vget u.k i 0).toNat)

def Port.part (p : Port) : List Word :=
  p.bind.words ++ [p.base, wNat (p.tag.toNat + p.status * 256)] ++
    p.levels.toList.flatMap (fun l => [wNat (l.count % 2 ^ 32), l.stride, wNat (l.index % 2 ^ 32)])

def VUnit.slotWords (u : VUnit) : List Word :=
  u.slots.toList.map (·.val) ++
    [wNat ((List.range 8).map (fun i => (vget u.slots i {}).tag.toNat * 2 ^ (5 * i))).sum, bitsW 8 (fun i => (vget u.slots i {}).poison)]

/-- 128 words of 256 generators. -/
def Gens.words (g : Gens) : List Word :=
  (List.range 128).map (fun w => wNat ((g.get (2 * w)).toNat + (g.get (2 * w + 1)).toNat * 2 ^ 32))

def tileBase (k t : Nat) : Nat := chipAddr k 1 (t * 0x20000)

/-- A tile part: tag, poison, data. -/
def Contents.tile (x : Contents) (k t : Nat) : List Word :=
  let a := tileBase k t
  [(vget x.b.mx.tags t 0).zeroExtend 64] ++
    (List.range 32).map (fun w => bitsW 64 (fun i => nsHas x.bad (a / 64 + 64 * w + i))) ++ x.words a 16384

def Mx.mask (m : Mx) (i : Nat) : List Word := wordsOf 2 (leBytes 16 (vget m.k i 0).toNat)

/-- ARR, and the sticky bit. -/
def Mx.counters (m : Mx) : List Word :=
  [wNat ((List.range 4).map (fun i => vget m.arr i 0 * 2 ^ (16 * i))).sum, if m.sticky then 1 else 0]

/-- The settings of a sparse or sort engine. -/
def Bank.settings (b : Bank) (cls : Nat) : List Word :=
  if cls = 2 then [b.sp.ax, b.sp.ay, b.sp.aq] else [b.so.p0, b.so.p1, b.so.result]

def Core.liveVs (r : Core) : List Nat := (List.range 48).filter (fun i => r.livev.getLsbD i)
def Core.liveKs (r : Core) : List Nat := (List.range 16).filter (fun i => i != 0 && r.livek.getLsbD i)
def VUnit.usedPorts (u : VUnit) : List Nat := (List.range 8).filter (fun i => (vget u.ports i {}).status != 0)
def Mx.usedTiles (m : Mx) : List Nat := (List.range 8).filter (fun i => vget m.tags i 0 != 0)

/-- The sections after the scalar one (15 R295). -/
def Contents.sections (x : Contents) (cls k : Nat) (c : CoreIx) : List Word :=
  let r := x.b.core c
  let u := x.b.unitOf c
  (if hasUnit cls k c then
    r.liveVs.flatMap (x.vreg k c) ++ r.liveKs.flatMap u.mask ++ u.usedPorts.flatMap (fun i => (vget u.ports i {}).part) ++
      u.slotWords ++ u.gens.words
  else []) ++
  (if hasArray cls k c then
    r.liveKs.flatMap x.b.mx.mask ++ x.b.mx.usedTiles.flatMap (x.tile k) ++ x.b.mx.gens.words ++ x.b.mx.counters
  else []) ++
  (if hasSettings cls k c then x.b.settings cls else [])

/-- The size of an area whose header holds these live masks (15 R293 to R295). -/
def areaWords (cls k : Nat) (c : CoreIx) (livek livev pmask tmask : Nat) : Nat :=
  let n := fun (w m : Nat) => ((List.range w).filter (bitOf m)).length
  7 + 144 + 1 +
  (if hasUnit cls k c then 161 * n 48 livev + 16 * n 15 (livek / 2) + 18 * n 8 pmask + 10 + 128 else 0) +
  (if hasArray cls k c then 2 * n 15 (livek / 2) + 16417 * n 8 tmask + 128 + 2 else 0) +
  (if hasSettings cls k c then 3 else 0)

/-- The header for an area of n words (15 R293). -/
def Contents.header (x : Contents) (cls k : Nat) (c : CoreIx) (n : Nat) : List Word :=
  let r := x.b.core c
  [wNat (0xC7A5 * 2 ^ 48 + 2 ^ 40 + coreNum c * 2 ^ 38 + cls * 2 ^ 34 + n % 2 ^ 32),
    wNat (r.position.isSome.toNat * 2 ^ 33 + r.h.toNat * 2 ^ 32 + x.b.gen * 4096 + x.b.asid),
    wNat ((if hasMasks cls k c then r.livek.toNat else 0) * 65536 + r.livep.toNat),
    if hasUnit cls k c then r.livev.zeroExtend 64 else 0,
    wNat ((if hasUnit cls k c then (bitsW 8 (fun i => (vget (x.b.unitOf c).ports i {}).status != 0)).toNat else 0) * 256 +
      (if hasArray cls k c then (bitsW 8 (fun i => vget x.b.mx.tags i 0 != 0)).toNat else 0)), 0, 0]

/-- The whole area but CHECK. -/
def Contents.area (x : Contents) (cls k : Nat) (c : CoreIx) (resume : Word) : List Word :=
  let body := (x.b.core c).section_ (isPriv k c) resume false [0, 0, 0, 0] ++ x.sections cls k c
  x.header cls k c (7 + body.length + 1) ++ body

/-! ## Reading (15 R297) -/

def wAt (l : List Word) (i : Nat) : Word := (l[i]?).getD 0

/-- An A register from four words of a list. -/
def aAt (l : List Word) (i : Nat) : AReg := aOfWords (wAt l i).toNat (wAt l (i + 1)).toNat (wAt l (i + 2)).toNat (wAt l (i + 3)).toNat

/-- Does the body instruction with word 0 w at position q issue (02 R20, R26)? -/
def Core.issues (r : Core) (l : LoopPos) (q w : Nat) : Bool :=
  let g : Guard := { tt := BitVec.ofNat 8 (field w 56 8), pa := BitVec.ofNat 4 (field w 52 4), pb := BitVec.ofNat 4 (field w 48 4)
                     pc := BitVec.ofNat 4 (field w 44 4) }
  r.pred (8 + q / l.ii) && ((decide (0x080 ≤ opcOf w) && decide (opcOf w < 0x140)) || r.guard g)

/-- The body positions that a round reaches before p (02 R26). -/
def LoopPos.before (l : LoopPos) : List Nat :=
  (List.range l.n).filter (fun q => decide (q % l.ii < l.p % l.ii) || (q % l.ii == l.p % l.ii && decide (q < l.p)))

/-- A loop position with its fresh bit. A context has no place for it: the round has issued nothing if none of the positions before it
issues, P8 being as the round writes it (16 R311; DEDUCED, log 84). -/
def Core.freshAt (r : Core) (l : LoopPos) (ws : List Nat) : LoopPos :=
  let o := ({ r with loop := some { l with fresh := true } } : Core).openRound
  { l with fresh := !l.before.any (fun q => o.issues l q ((ws[q]?).getD 0)) }

/-- A loop position from its words, with the words of its body: the sequencer reads n and ii from the MLOOP word at LADDR again, and the
body's lengths from the body; a body that leaves the scratchpad holds none. -/
def State.loopAt (s : State) (k : Nat) (laddr : Word) (trip round p : Nat) : State × Option (LoopPos × List Nat) :=
  let (s, w) := s.codeWord k laddr.toNat
  let n := field w 23 6 + 1
  match s.scanBody k laddr.toNat n 8 with
  | (s, .ok (offs, ws)) => (s, some ({ laddr, n, ii := field w 17 6 + 1, trip, round, p, offs }, ws))
  | (s, .error _) => (s, none)

/-- A core from the header and the scalar section (15 R293, R294); SPILLPTR, the program counter and what waits stay. -/
def State.ctxScalar (s : State) (k : Nat) (c : CoreIx) (hd sec : List Word) : State :=
  let old := s.core k c
  let livep : BitVec 16 := (wAt hd 2).truncate 16
  let x : Vector XReg 32 := Vector.ofFn (fun i =>
    if i.val = 0 then {} else { val := wAt sec (i.val - 1), poison := (wAt sec 31).getLsbD i.val })
  let a : Vector AReg 16 := Vector.ofFn (fun i => if i.val = 0 then {} else aAt sec (32 + 4 * (i.val - 1)))
  let win : Vector Win 8 := Vector.ofFn (fun i =>
    let r := aAt sec (93 + 4 * i.val)
    if r.kind = 0 then {} else s.bindWin k old.wcount r)
  let (s, held) := if (wAt hd 1).getLsbD 33 then
      s.loopAt k (wAt sec 132) (wAt sec 133).toNat (wAt sec 134).toNat ((wAt sec 135).toNat % 64)
    else (s, none)
  let r := { old with
    x := x, a := a, p := (wAt sec 92).truncate 16 &&& livep, win := win, wcur := [], lc := wAt sec 125, rbase := wAt sec 126
    status := stMask (wAt sec 127), epc := wAt sec 128, cause := wAt sec 129, tval := wAt sec 130
    livep := livep
    livek := if hasMasks (s.cls k) k c then (wAt hd 2 >>> 16).truncate 16 else 0
    livev := if hasUnit (s.cls k) k c then (wAt hd 3).truncate 48 else 0
    h := (wAt hd 1).getLsbD 32, held := none, loop := none }
  s.setCore k c { r with held := held.map (fun p => r.freshAt p.1 p.2) }

/-- Put words on chip with the poison of their granules. -/
def State.putGranules (s : State) (a : Nat) (ws : List Word) (bad : Nat → Bool) : State :=
  let n := 8 * ws.length
  let s := { s with mem := s.mem.write a (bytesOf ws) }
  { s with memBad := (List.range (n / 64)).foldl (fun m g => if bad g then nsAdd m (a / 64 + g) else nsDel m (a / 64 + g)) s.memBad }

/-- A V register from its part. -/
def State.ctxVreg (s : State) (k : Nat) (c : CoreIx) (v : Nat) (ws : List Word) : State :=
  let s := s.putGranules (unitAddr k c v) ((ws.drop 1).take 128) (fun g => (wAt ws 0).getLsbD (16 + g))
  s.modBank k (fun b =>
    let u := b.unitOf c
    b.setUnitOf c { u with
      tags := vset u.tags v ((wAt ws 0).truncate 5), gs := vset u.gs v ((wAt ws 0 >>> 8).truncate 2)
      side := u.side.write (256 * v) (bytesOf ((ws.drop 129).take 32)) })

/-- A number from words. -/
def numAt (ws : List Word) : Nat := leNat (bytesOf ws)

/-- A port from its part. -/
def portAt (ws : List Word) : Port :=
  { bind := aAt ws 0, base := wAt ws 4, tag := (wAt ws 5).truncate 5, status := field (wAt ws 5).toNat 8 2
    levels := Vector.ofFn (fun i =>
      { count := field (wAt ws (6 + 3 * i.val)).toNat 0 32, stride := wAt ws (7 + 3 * i.val), index := field (wAt ws (8 + 3 * i.val)).toNat 0 32 }) }

/-- Generators from 128 words. -/
def gensAt (ws : List Word) : Gens :=
  { st := (List.range 256).map (fun i => (i, BitVec.ofNat 32 ((wAt ws (i / 2)).toNat / 2 ^ (32 * (i % 2))))) }

/-- Slots from their ten words. -/
def slotsAt (ws : List Word) : Vector Slot 8 :=
  Vector.ofFn (fun i => { val := wAt ws i.val, tag := (wAt ws 8 >>> (5 * i.val)).truncate 5, poison := (wAt ws 9).getLsbD i.val })

/-- A tile from its part. -/
def State.ctxTile (s : State) (k t : Nat) (ws : List Word) : State :=
  let s := s.putGranules (tileBase k t) ((ws.drop 33).take 16384) (fun g => (wAt ws (1 + g / 64)).getLsbD (g % 64))
  s.modBank k (fun b => { b with mx := { b.mx with tags := vset b.mx.tags t ((wAt ws 0).truncate 5) } })

/-- Read parts of n words each, for the indices of a list, from the front of a list of words. -/
def eachPart (is : List Nat) (n : Nat) (f : State → Nat → List Word → State) (s : State) (ws : List Word) : State × List Word :=
  is.foldl (fun (acc : State × List Word) i => (f acc.1 i (acc.2.take n), acc.2.drop n)) (s, ws)

/-- The vector unit of a core from its sections; what the sections do not hold is zero. -/
def State.ctxUnit (s : State) (k : Nat) (c : CoreIx) (pmask : Nat) (ws : List Word) : State :=
  let r := s.core k c
  let s := s.modBank k (fun b => b.setUnitOf c {})
  let s := s.putGranules (unitAddr k c 0) (List.replicate (48 * 128) 0) (fun _ => false)
  let (s, ws) := eachPart r.liveVs 161 (fun s v p => s.ctxVreg k c v p) s ws
  let modU := fun (s : State) (f : VUnit → VUnit) => s.modBank k (fun b => b.setUnitOf c (f (b.unitOf c)))
  let (s, ws) := eachPart r.liveKs 16 (fun s i p => modU s (fun u => { u with k := vset u.k i (BitVec.ofNat 1024 (numAt p)) })) s ws
  let (s, ws) := eachPart ((List.range 8).filter (bitOf pmask)) 18
    (fun s i p => modU s (fun u => { u with ports := vset u.ports i (portAt p) })) s ws
  modU s (fun u => { u with slots := slotsAt ws, gens := gensAt (ws.drop 10) })

/-- The matrix array from its sections. -/
def State.ctxArray (s : State) (k tmask : Nat) (ws : List Word) : State :=
  let r := s.core k .e
  let s := s.modBank k (fun b => { b with mx := {} })
  let s := s.putGranules (tileBase k 0) (List.replicate (8 * 16384) 0) (fun _ => false)
  let modX := fun (s : State) (f : Mx → Mx) => s.modBank k (fun b => { b with mx := f b.mx })
  let (s, ws) := eachPart r.liveKs 2 (fun s i p => modX s (fun m => { m with k := vset m.k i (BitVec.ofNat 128 (numAt p)) })) s ws
  let (s, ws) := eachPart ((List.range 8).filter (bitOf tmask)) 16417 (fun s t p => s.ctxTile k t p) s ws
  modX s (fun m => { m with
    gens := gensAt ws
    arr := Vector.ofFn (fun i => field (wAt ws 128).toNat (16 * i.val) 16)
    sticky := (wAt ws 129).getLsbD 0 })

/-- Every register of an area, its LENGTH words without CHECK (15 R297). -/
def State.readArea (s : State) (k : Nat) (c : CoreIx) (ws : List Word) : State :=
  let cls := s.cls k
  let hd := ws.take 7
  let rest := ws.drop 151
  let s := s.ctxScalar k c hd ((ws.drop 7).take 144)
  if hasUnit cls k c then s.ctxUnit k c (field (wAt hd 4).toNat 8 8) rest
  else if hasArray cls k c then s.ctxArray k (field (wAt hd 4).toNat 0 8) rest
  else if hasSettings cls k c then s.modBank k (fun b =>
    if cls = 2 then { b with sp := { b.sp with ax := wAt rest 0, ay := wAt rest 1, aq := wAt rest 2 } }
    else { b with so := { b.so with p0 := wAt rest 0, p1 := wAt rest 1, result := wAt rest 2 } })
  else s

end Sys2Proof.Machine
end

