-- ==== Sys2Proof/Machine/Engine.lean ====
section
/-! DEFINITION. The queued engines: pushing an entry, the operands an entry copied, starting and completing entries
(05 R92 to R96; 08 R154 to R156; 11 R215 to R217). -/

namespace Sys2Proof.Machine

/-! ## Pushing (05 R92 to R94; 03 R37) -/

/-- A row mask of the issuing E-core; K0 reads all ones, K8 to K15 rotate (08 R159). -/
def State.rowK (s : State) (j : Nat) : BitVec 128 :=
  if j = 0 then BitVec.allOnes 128 else vget (s.bank s.fk).mx.k (s.fcore.kp j) 0

/-- A truth table over three words, bit by bit. -/
def lutBits {n : Nat} (tt : BitVec 8) (a b c : BitVec n) : BitVec n :=
  (List.range 8).foldl (fun acc i =>
    if tt.getLsbD i then
      acc ||| ((if bitOf i 2 then a else ~~~a) &&& (if bitOf i 1 then b else ~~~b) &&& (if bitOf i 0 then c else ~~~c))
    else acc) 0

/-- The rows a guard enables over the row masks as they stand (08 R159). -/
def State.rowMask (s : State) (g : Guard) : BitVec 128 :=
  lutBits g.tt (s.rowK g.pa.toNat) (s.rowK g.pb.toNat) (s.rowK g.pc.toNat)

/-- TVAL of FORWARD_WAIT (05 R94). -/
def forwardTval (n w credit : Nat) : Word := wNat (n + w * 256 + credit * 65536)

/-- Take the wait and the signal of a push into the push order (05 R93, R94). -/
def Bank.enterPush (b : Bank) (e : EngIx) (q : Eng) (uid : Nat) : Bank :=
  let b := if q.wsem = 0 then b
    else (b.subCredit q.wsem.toNat (waits q)).joinSem q.wsem.toNat ⟨.entry e uid, waits q⟩
  if q.ssem = 0 then b else b.addCredit q.ssem.toNat (signals q)

/-- Push an entry to an engine (02 R33 steps 5 to 7; 04 R80; 05 R92, R94; 08 R155; 11 R215, R242). xs are the X sources in
field order; dest is the X destination; act is what the instruction does at its push. -/
def State.pushTo (s : State) (e : EngIx) (q : Eng) (op : QOp) (xs : List (BitVec 5)) (dest : Option (BitVec 5)) (rows : BitVec 128)
    (park : Bool) (act : List Word → State → State) : M State := do
  let r := s.fcore
  let vs ← xs.mapM (fun j => r.readX j false)
  let ws ← (xs.zip vs).mapM (fun p => consume p.1 p.2)
  let d ← match dest with
    | none => pure none
    | some j =>
      if j = 0 then pure none
      else match (r.xreg (r.px j.toNat)).fill with
        | .load => stall (.xdest (r.px j.toNat))
        | .entry => stall (.xdest (r.px j.toNat))
        | _ => pure (some (r.px j.toNat))
  let b := s.bank s.fk
  let eng := b.engine e
  match eng.stop with
  | some cause => trap cENGINE (wNat cause)
  | none => pure ()
  if park && b.spec then stall .parked else pure ()
  if 16 ≤ eng.entries.length then stall .push else pure ()
  let credit := (b.sem q.wsem.toNat).credit
  if q.wsem ≠ 0 ∧ credit < waits q then trap cFORWARD (forwardTval q.wsem.toNat (waits q) credit) else pure ()
  let s := act ws s
  let b := s.bank s.fk
  let uid := b.uid + 1
  let ent : Entry := { uid := uid, op := op, q := q, a := Vector.ofFn (fun i => r.areg (BitVec.ofNat 4 i.val)), xs := ws,
                       rows := rows, sre := stSRE r.status, dest := d }
  let b := ({ b with uid := uid } : Bank).enterPush e q uid
  let b := b.setEngine e { b.engine e with entries := (b.engine e).entries ++ [ent] }
  let b := match d with
    | some i => b.setCore s.fc { b.core s.fc with x := vset (b.core s.fc).x i { (b.core s.fc).xreg i with fill := .entry } }
    | none => b
  pure (s.setBank s.fk b)

/-- A matrix instruction: pushed whatever its rows (03 R37). -/
def matrix (s : State) (g : Guard) (q : Eng) (i : Instr) (xs : List (BitVec 5)) (dest : Option (BitVec 5))
    (act : List Word → State → State) : Out :=
  .next (if s.fcore.stageOn then s.finish 2 (s.pushTo .primary q (.prim i) xs dest (s.rowMask g) false act)
    else s.squash s.fk s.fc 2)

/-- A sparse or sort instruction: pushed only if its guard is true (03 R37). -/
def primary (s : State) (g : Guard) (q : Eng) (i : Instr) (xs : List (BitVec 5)) (dest : Option (BitVec 5)) : Out :=
  guarded 2 g s (fun s => s.pushTo .primary q (.prim i) xs dest 0 false (fun _ s => s))

/-- A transfer instruction: pushed only if its guard is true; park tells the ones that 11 R242 parks. -/
def transfer (s : State) (g : Guard) (q : Eng) (op : XOp) (xs : List (BitVec 5)) (dest : Option (BitVec 5)) (park : Bool)
    (act : List Word → State → State) : Out :=
  guarded 2 g s (fun s => s.pushTo .transfer q (.xfer op) xs dest 0 park act)

/-- No action at the push. -/
def noAct (_ : List Word) (s : State) : State := s

/-! ## Operands of an entry (08 R154) -/

/-- A cause that stops a queue before any effect, or a result. -/
abbrev En (α : Type) := Except Nat α

/-- What a started entry leaves: the state, its flags, the cause of a fault found while running, the value for its X
destination, what it still waits for, and the entry where it changed. -/
structure Ran where
  s    : State
  fl   : Flags := {}
  stop : Option Nat := none
  res  : Option (Word × Bool) := none
  need : Need := .none
  ent  : Option Entry := none

def need (cause : Nat) (ok : Bool) : En Unit := if ok then .ok () else .error cause

def Entry.areg (e : Entry) (i : BitVec 4) : AReg := vget e.a i.toNat {}

/-- X source i of an entry. -/
def Entry.x (e : Entry) (i : Nat) : Word := (e.xs[i]?).getD 0

/-- Is a cell key one of the cells of the group of the task on cell k (05 R109)? -/
def State.inGroup (s : State) (k j : Nat) : Bool :=
  (s.bank k).task.isSome && decide (s.rankCell k 0 ≤ j) && decide (j < s.rankCell k (s.bank k).gsize)

/-- The on-chip address of an offset from PTR of an operand of KIND 1 or 3 (08 R154). -/
def AReg.onChip (a : AReg) (k off : Nat) : Nat := (if a.kind = 1 then padBase k else 0) + a.ptr.toNat + off

/-- May an entry of cell k access n bytes at an offset of an operand (08 R154)? -/
def State.spanOk (s : State) (k : Nat) (kind3 : Bool) (a : AReg) (u : Use) (off n : Nat) : Bool :=
  a.allows u && a.inside (a.ptr.toNat + off : Nat) n && s.chipOk (a.onChip k off) n &&
    (match a.kind.toNat with
      | 1 => chipRegion (a.onChip k off) == 0 && chipKey (a.onChip k off) == k && s.limitOk k a
      | 3 => kind3 && chipRegion (a.onChip k off) == 0 && (chipKey (a.onChip k off) == k || s.inGroup k (chipKey (a.onChip k off)))
      | _ => false)

/-- Check spans (offset, length) of an operand. -/
def State.checkOpnd (s : State) (k : Nat) (kind3 : Bool) (a : AReg) (u : Use) (l : List (Nat × Nat)) : En Unit :=
  need cBOUNDS (l.all (fun p => p.2 == 0 || s.spanOk k kind3 a u p.1 p.2))

/-- The bytes that elements first … first + n − 1 of width w take from PTR (06 R112). -/
def elemsSpan (w first n : Nat) : Nat × Nat :=
  if n = 0 then (0, 0) else (first * w / 8, ((first + n) * w + 7) / 8 - first * w / 8)

/-- n bytes of an operand. -/
def State.opBytes (s : State) (k : Nat) (a : AReg) (off n : Nat) : List Byte := s.see (a.onChip k off) n

def State.opNat (s : State) (k : Nat) (a : AReg) (off n : Nat) : Nat := leNat (s.opBytes k a off n)

def State.opBad (s : State) (k : Nat) (a : AReg) (off n : Nat) : Bool := badIn s.memBad (a.onChip k off) n

/-- w bits at bit offset o of an operand, and their poison. -/
def State.opBits (s : State) (k : Nat) (a : AReg) (o w : Nat) : Nat :=
  field (s.opNat k a (o / 8) ((o + w + 7) / 8 - o / 8)) (o % 8) w

def State.opBitsBad (s : State) (k : Nat) (a : AReg) (o w : Nat) : Bool := s.opBad k a (o / 8) ((o + w + 7) / 8 - o / 8)

/-- Element i of width w of an operand, and its poison. -/
def State.opEl (s : State) (k : Nat) (a : AReg) (w i : Nat) : Nat := s.opBits k a (i * w) w

def State.opElBad (s : State) (k : Nat) (a : AReg) (w i : Nat) : Bool := s.opBitsBad k a (i * w) w

/-- Mark the scratchpad granules of a span touched (05 R101). -/
def State.opTouch (s : State) (k : Nat) (a : AReg) (sp : Nat × Nat) : State :=
  s.touch (chipKey (a.onChip k sp.1)) (chipOff (a.onChip k sp.1)) sp.2

def State.opTouches (s : State) (k : Nat) (a : AReg) (l : List (Nat × Nat)) : State := l.foldl (fun s p => s.opTouch k a p) s

/-- Store bytes at an offset of an operand. -/
def State.opPut (s : State) (k : Nat) (a : AReg) (off : Nat) (bs : List Byte) : State :=
  s.chipStore (a.onChip k off) bs false

/-- Store w bits at bit offset o: a 4-bit or 6-bit element changes only its own bits (06 R112; 08 R171). -/
def State.opPutBits (s : State) (k : Nat) (a : AReg) (o w v : Nat) : State :=
  let n := (o + w + 7) / 8 - o / 8
  if w % 8 = 0 then s.opPut k a (o / 8) (leBytes n v)
  else s.opPut k a (o / 8) (leBytes n (setField (s.opNat k a (o / 8) n) (o % 8) w v))

/-- Store element i of width w. -/
def State.opPutEl (s : State) (k : Nat) (a : AReg) (w i v : Nat) : State := s.opPutBits k a (i * w) w v

/-- Do two operand spans share a byte on chip? -/
def overlaps (a n b m : Nat) : Bool := decide (0 < n) && decide (0 < m) && decide (a < b + m) && decide (b < a + n)

/-! ## Starting and completing (05 R92, R95; 06 R124; 08 R156; 11 R216) -/

/-- The core of an engine takes a result: its X register becomes full (02 R15). -/
def Bank.landDest (b : Bank) (e : EngIx) (ent : Entry) (v : Word × Bool) : Bank :=
  match ent.dest with
  | some i => b.setCore (ownerOf e) ((b.core (ownerOf e)).putX i v.1 v.2)
  | none => b

/-- Put what a started entry left back into its queue, or stop the queue. -/
def State.started (s : State) (k : Nat) (e : EngIx) (ent : Entry) (r : En Ran) : State :=
  match r with
  | .error cause => s.stopQueue k e cause (some ent.uid)
  | .ok ran =>
    match ran.stop with
    | some cause => ran.s.stopQueue k e cause (some ent.uid)
    | none =>
      let ent' := { ran.ent.getD ent with stage := if ran.need = .none then .finished else .far, need := ran.need, flags := ran.fl.word }
      ran.s.modBank k (fun b =>
        let b := match ran.res with | some v => b.landDest e ent v | none => b
        b.putEntry e ent')

/-- An entry that waited at a far end has its answer: it now completes in its turn. -/
def State.answered (s : State) (k : Nat) (e : EngIx) (ent : Entry) (fl : Flags) (res : Option (Word × Bool)) : State :=
  s.modBank k (fun b =>
    let b := match res with | some v => b.landDest e ent v | none => b
    b.putEntry e { ent with stage := .finished, need := .none, flags := ent.flags ||| fl.word })

/-- Completions that the engines count (08 R176, R183, R187). -/
def State.countDone (s : State) (k : Nat) (e : EngIx) : State :=
  match e with
  | .transfer => s
  | .primary =>
    if s.cls k = 1 then s.modCell k (fun c => { c with since := c.since + 1 })
    else s.modBank k (fun b => { b with
      sp := { b.sp with completed := b.sp.completed + 1 }
      so := { b.so with completed := b.so.completed + 1 } })

/-- The entry at the front of a queue completes: its flags reach STATUS, then it signals (05 R92; 06 R124). -/
def State.complete (s : State) (k : Nat) (e : EngIx) (ent : Entry) : State :=
  let s := s.modBank k (fun b =>
    let c := ownerOf e
    let b := b.setCore c { b.core c with status := (b.core c).status ||| ent.flags }
    b.setEngine e { b.engine e with entries := (b.engine e).entries.filter (fun x => x.uid != ent.uid) })
  let s := (s.countDone k e).modBank k Bank.applyReseeds
  if ent.q.ssem = 0 then s
  else
    let n := ent.q.ssem.toNat
    let x := (s.bank k).sem n
    if x.val + signals ent.q ≤ 65535 then
      s.modBank k (fun b => b.setSem n { x with val := x.val + signals ent.q })
    else (s.modBank k (fun b => b.subCredit n (signals ent.q))).stopQueue k e cSEMRANGE (some ent.uid)

/-- ENGINE_WAIT_GRANT (05 R95). -/
def execEngineWaitGrant (k : Nat) (e : EngIx) (s : State) : Out :=
  .next (
    match (s.bank k).upNext e with
    | some ent =>
      if ((s.bank k).sem ent.q.wsem.toNat).queue.head?.any (fun w => w.who == .entry e ent.uid) then
        (s.grantSem k ent.q.wsem.toNat).getD s
      else s
    | none => s)

end Sys2Proof.Machine
end

