-- ==== Sys2Proof/Machine/Trans.lean ====
section
/-! DEFINITION. The transcendental functions of 07 R139, each rounded once from its exact value. A value is enclosed between
two rationals; when both round alike, the exact value rounds so too. -/

namespace Sys2Proof.Machine

/-- The integer square root, bit by bit from bit n. -/
def isqrtFrom : Nat → Nat → Nat → Nat
  | 0, v, r => if (r + 1) * (r + 1) ≤ v then r + 1 else r
  | n + 1, v, r => if (r + 2 ^ (n + 1)) * (r + 2 ^ (n + 1)) ≤ v then isqrtFrom n v (r + 2 ^ (n + 1)) else isqrtFrom n v r

def isqrt (v : Nat) : Nat := isqrtFrom (Nat.log2 v / 2 + 1) v 0

/-- An interval of multiples of 2^-p. -/
structure Iv where
  lo : Int
  hi : Int
deriving Repr, Inhabited

namespace Iv

/-- The interval around a rational. -/
def ofRat (p : Nat) (x : Rat) : Iv :=
  let y := x * (2 ^ p : Nat)
  ⟨y.floor, y.ceil⟩

def add (a b : Iv) : Iv := ⟨a.lo + b.lo, a.hi + b.hi⟩
def sub (a b : Iv) : Iv := ⟨a.lo - b.hi, a.hi - b.lo⟩

/-- The least and the greatest of four numbers. -/
def hull (w x y z : Int) : Int × Int := (min (min w x) (min y z), max (max w x) (max y z))

def mul (p : Nat) (a b : Iv) : Iv :=
  let (l, h) := hull (a.lo * b.lo) (a.lo * b.hi) (a.hi * b.lo) (a.hi * b.hi)
  ⟨l / (2 ^ p : Nat), -((-h) / (2 ^ p : Nat))⟩

/-- Division by an interval of positive numbers. -/
def div (p : Nat) (a b : Iv) : Iv :=
  let s : Int := (2 ^ p : Nat)
  let q := fun (x y : Int) => x * s / y
  let (l, _) := hull (q a.lo b.lo) (q a.lo b.hi) (q a.hi b.lo) (q a.hi b.hi)
  let q' := fun (x y : Int) => -(-(x * s) / y)
  let (_, h) := hull (q' a.lo b.lo) (q' a.lo b.hi) (q' a.hi b.lo) (q' a.hi b.hi)
  ⟨l, h⟩

/-- Division by a positive integer. -/
def divN (a : Iv) (n : Nat) : Iv := ⟨a.lo / (n : Int), -((-a.hi) / (n : Int))⟩

/-- Multiply by a power of two. -/
def scale (a : Iv) (k : Int) : Iv :=
  if 0 ≤ k then ⟨a.lo * (2 ^ k.toNat : Nat), a.hi * (2 ^ k.toNat : Nat)⟩
  else ⟨a.lo / (2 ^ (-k).toNat : Nat), -((-a.hi) / (2 ^ (-k).toNat : Nat))⟩

/-- Widen by e units on each side. -/
def widen (a : Iv) (e : Int) : Iv := ⟨a.lo - e, a.hi + e⟩

/-- The rationals at the ends. -/
def ends (p : Nat) (a : Iv) : Rat × Rat := ((a.lo : Rat) / (2 ^ p : Nat), (a.hi : Rat) / (2 ^ p : Nat))

/-- The sum of x^k / k! from k, given the term before it; |x| ≤ 1. -/
def expTail (p : Nat) (x : Iv) : Nat → Nat → Iv → Iv
  | 0, _, t => t.widen (max t.lo.natAbs t.hi.natAbs + 1)
  | n + 1, k, t => t.add (expTail p x n (k + 1) ((mul p t x).divN k))

/-- e^x for |x| ≤ 1. -/
def expSmall (p : Nat) (x : Iv) : Iv := expTail p x (p / 3 + 8) 1 (ofRat p 1)

/-- The sum of z^(2k+1) / (2k+1), given z^(2k+1), for |z| ≤ 1/3. -/
def atanhTail (p : Nat) (zz : Iv) : Nat → Nat → Iv → Iv
  | 0, _, t => t.widen (max t.lo.natAbs t.hi.natAbs + 1)
  | n + 1, k, t => (t.divN (2 * k + 1)).add (atanhTail p zz n (k + 1) (mul p t zz))

/-- ln m for 1 ≤ m ≤ 2. -/
def lnSmall (p : Nat) (m : Rat) : Iv :=
  let z := ofRat p ((m - 1) / (m + 1))
  (atanhTail p (mul p z z) (p / 3 + 8) 0 z).scale 1

def ln2 (p : Nat) : Iv := lnSmall p 2

/-- atan(1/n) by its alternating series, given 1 / n^(2k+1). -/
def atanTail (p : Nat) (nn : Nat) : Nat → Nat → Iv → Iv
  | 0, _, t => ⟨-(t.hi + 1), t.hi + 1⟩
  | f + 1, k, t => (t.divN (2 * k + 1)).sub (atanTail p nn f (k + 1) (t.divN nn))

/-- π by Machin's formula. -/
def pi (p : Nat) : Iv :=
  let at_ := fun (n : Nat) => atanTail p (n * n) (p / 4 + 8) 0 (ofRat p (1 / (n : Rat)))
  ((at_ 5).scale 4).sub ((at_ 239).scale 2)

/-- e^x, by x = n·ln 2 + r. -/
def exp (p : Nat) (x : Rat) : Iv :=
  let n := (x * (1000 / 693) + 1 / 2).floor
  let r := (ofRat p x).sub (mul p (ofRat p n) (ln2 p))
  (expSmall p r).scale n

/-- 2^x, by x = n + r. -/
def exp2 (p : Nat) (x : Rat) : Iv :=
  let n := (x + 1 / 2).floor
  (expSmall p (mul p (ofRat p (x - n)) (ln2 p))).scale n

/-- log2 x for x > 0. -/
def log2 (p : Nat) (x : Rat) : Iv :=
  let k := ilog2 x
  (ofRat p k).add (div p (lnSmall p (x / pow2 k)) (ln2 p))

/-- The sum of x^(2k+1) / (1·3·…·(2k+1)) from the term t with index k; after the count the terms fall by half. -/
def phiTail (p : Nat) (xx : Iv) : Nat → Nat → Iv → Iv
  | 0, _, t => t.add ⟨0, t.hi + 1⟩
  | n + 1, k, t => t.add (phiTail p xx n (k + 1) ((mul p t xx).divN (2 * k + 3)))

/-- √(2π). -/
def root2pi (p : Nat) : Iv :=
  let t := (pi p).scale 1
  ⟨isqrt (t.lo.toNat * 2 ^ p), isqrt (t.hi.toNat * 2 ^ p) + 1⟩

/-- Φ(x) − ½ for x ≥ 0: φ(x) times the series. -/
def phiHalf (p : Nat) (x : Rat) : Iv :=
  let d := div p (exp p (-(x * x) / 2)) (root2pi p)
  let n := (x * x).ceil.toNat + p / 2 + 8
  mul p d (phiTail p (ofRat p (x * x)) n 0 (ofRat p x))

end Iv

/-- The functions of 07 R139 whose values are not rational. -/
inductive TFun where
  | exp2 | log2 | gelu | silu | tanh | sigm
deriving DecidableEq, Repr

/-- A rational that rounds as f(x) does, where f(x) lies so near a simple value that every format and mode rounds it alike;
or none (x is not 0, nor a point where f(x) is rational). -/
def TFun.near (f : TFun) (x : Rat) : Option Rat :=
  let tiny := decide (|x| < pow2 (-60))
  match f with
  | .exp2 => if 300 < x then some (pow2 300) else if x < -300 then some (pow2 (-300)) else if tiny then some (1 + x * 7 / 10) else none
  | .log2 => none
  | .gelu =>
    if 40 < x then some (x - pow2 (-400)) else if x < -40 then some (-pow2 (-400))
    else if tiny then some (x / 2 + x * x * 2 / 5) else none
  | .silu =>
    if 200 < x then some (x - pow2 (-400)) else if x < -200 then some (-pow2 (-400))
    else if tiny then some (x / 2 + x * x / 4) else none
  | .tanh =>
    if 100 < x then some (1 - pow2 (-200)) else if x < -100 then some (-1 + pow2 (-200))
    else if tiny then some (x - x * pow2 (-100)) else none
  | .sigm =>
    if 200 < x then some (1 - pow2 (-400)) else if x < -200 then some (pow2 (-400))
    else if tiny then some (1 / 2 + x / 4) else none

/-- An enclosure of f(x). -/
def TFun.enclose (f : TFun) (p : Nat) (x : Rat) : Iv :=
  let one := Iv.ofRat p 1
  let sig := fun (y : Rat) => Iv.div p one (one.add (Iv.exp p (-y)))
  match f with
  | .exp2 => Iv.exp2 p x
  | .log2 => Iv.log2 p x
  | .gelu =>
    let h := Iv.phiHalf p |x|
    let half := Iv.ofRat p (1 / 2)
    Iv.mul p (Iv.ofRat p x) (if x < 0 then half.sub h else half.add h)
  | .silu => Iv.mul p (Iv.ofRat p x) (sig x)
  | .tanh => one.sub ((Iv.div p one (one.add (Iv.exp p (2 * x)))).scale 1)
  | .sigm => sig x

/-- The value of f at x where it is rational: 2^n, log2 of a power of two, the values at 0. -/
def TFun.exact (f : TFun) (x : Rat) : Option Rat :=
  match f with
  | .exp2 => if x.den = 1 ∧ |x| ≤ 300 then some (pow2 x.num) else none
  | .log2 => if x = pow2 (ilog2 x) then some (ilog2 x) else none
  | .sigm => if x = 0 then some (1 / 2) else none
  | _ => if x = 0 then some 0 else none

/-- Round an enclosure, at precisions from p on; beyond the last one the pattern is the free value. -/
def TFun.refine (f : TFun) (fm : Fmt) (md : Rm) (sat : Bool) (x : Rat) (free : Nat) : Nat → Nat → Nat × Flags
  | 0, _ => (free % 2 ^ (1 + fm.e + fm.m), { nx := true })
  | n + 1, p =>
    let (a, b) := (f.enclose p x).ends p
    let ra := fm.round md sat a (decide (a < 0))
    let rb := fm.round md sat b (decide (b < 0))
    if ra = rb ∧ ra.2.nx then ra else f.refine fm md sat x free n (2 * p)

/-- f of a value, with the special inputs of 07 R139. -/
def TFun.apply (f : TFun) (fm : Fmt) (md : Rm) (sat : Bool) (free : Nat) (v : Fp) : Nat × Flags :=
  match v with
  | .nan s => (fm.nan, { inv := s })
  | .inf neg =>
    let out := fun (r : Fp) => fm.result md sat r
    match f with
    | .exp2 => out (if neg then .fin 0 false else .inf false)
    | .log2 => if neg then (fm.nan, { inv := true }) else out (.inf false)
    | .gelu => out (if neg then .fin 0 true else .inf false)
    | .silu => out (if neg then .fin 0 true else .inf false)
    | .tanh => out (.fin (sgn neg 1) neg)
    | .sigm => out (if neg then .fin 0 false else .fin 1 false)
  | .fin x neg =>
    if f = .log2 ∧ x = 0 then
      let (p, fl) := fm.result md sat (.inf true)
      (p, { fl with dz := true })
    else if f = .log2 ∧ x < 0 then (fm.nan, { inv := true })
    else match f.exact x with
      | some r => fm.round md sat r (if r = 0 then f != .log2 && neg else decide (r < 0))
      | none =>
        match f.near x with
        | some r => fm.round md sat r (decide (r < 0))
        | none => f.refine fm md sat x free 6 96

end Sys2Proof.Machine
end

