-- ==== Sys2Proof/Machine/Vector.lean ====
section
/-! DEFINITION. The vector instructions: moves, arithmetic, bits, compares, masks and conversions (07 R135 to R145). -/

namespace Sys2Proof.Machine

/-! ## Moves, splats and lanes (07 R135) -/

/-- Copy enabled elements of A under a tag, with GS and sidecar by R131 under a class-X tag; GS is 0 under a Block tag (06 R117). A
port is popped where an element is enabled, be its block or group written or not (07 R152). -/
def State.copyElems (s : State) (f : FmtV) (o : Opnd) (tag : Nat) : M State := do
  let w := tagBits tag
  let gs := if isBlock tag then 0 else o.gs
  let en := s.enabled f.g tag (elemCount tag)
  let us := if isX tag then fullUnits tag gs en else []
  let n : Need1 := ⟨o, w, en⟩
  if en ≠ [] then s.checkPorts [n] else pure ()
  let ws := (if isX tag then unitElems tag gs us else en).map (fun i => (i, o.rd (i * w) w, o.bad (i * w) w))
  let s := if en ≠ [] then s.popPorts [n] else s
  pure (s.vput f.d tag ws (if isX tag then .set gs (o.entries tag us) else .zero))

def execVmov (f : FmtV) (s : State) : Out :=
  vector s (fun s => do
    let o := s.opnd f.a
    ofClass isAny o
    s.copyElems f o o.tag)

/-- VSPLAT into a register. -/
def execVsplatV (f : FmtV) (s : State) : Out :=
  vector s (fun s => do
    let x ← s.vx f.a
    let tag := f.b.toNat % 32
    let en := s.enabled f.g tag (elemCount tag)
    if en = [] then pure s
    else do
      useVx f.a x
      pure (s.vput f.d tag (en.map (fun i => (i, x.1.toNat % 2 ^ tagBits tag, false))) .zero))

/-- VSPLAT into a slot: only if Enabled(0) (07 R130). -/
def execVsplatSlot (f : FmtV) (s : State) : Out :=
  vector s (fun s => do
    let x ← s.vx f.a
    if (s.enabled f.g 8 1) = [] then pure s
    else do
      useVx f.a x
      pure (s.setUnit { s.unit with slots := vset s.unit.slots (f.sub.toNat % 8) ⟨x.1, f.b.truncate 5, false⟩ }))

def execVzero (f : FmtV) (s : State) : Out :=
  vector s (fun s =>
    let tag := f.sub.toNat
    let v := s.fcore.vp f.d.toNat
    let gs := if isQ tag ∧ isQ (vget s.unit.tags v 0).toNat then (vget s.unit.gs v 0).toNat else 0
    let en := s.enabled f.g tag (elemCount tag)
    let us := if isX tag then fullUnits tag gs en else []
    let en := if isX tag then unitElems tag gs us else en
    .ok (s.vput f.d tag (en.map (fun i => (i, 0, false)))
      (if isX tag then .set gs (us.map (fun u => (u, List.replicate (entrySize tag) 0))) else .zero)))

def execVtag (f : FmtV) (s : State) : Out :=
  vector s (fun s => do
    let o := s.opnd f.a
    ofClass isAny o
    s.copyElems f o f.sub.toNat)

/-- VGETL: long-latency; it acts only if Enabled(k). A port is popped where any element is enabled (07 R152), and its range is checked for lane k
alone; an X source of an instruction that has no effect is read under the stall policy, and its poison is not consumed (DEDUCED, logs 35
and 91). -/
def execVgetl (f : FmtV) (s : State) : Out :=
  vector s (fun s => do
    let x ← s.vx f.b
    let o := s.opnd f.a
    ofClass tagPlain o
    let n := elemCount o.tag
    let k := x.1.toNat % n
    if (s.enabled f.g o.tag n).contains k then do
      s.fcore.freeX (f.d.truncate 5)
      s.checkPorts [o.need [k]]
      useVx f.b x
      let p := o.el k
      let v := if f.sa ∧ !isFloat o.tag then w64 (intOf o.w true p) else wNat p
      let s := s.popPorts [o.need [k]]
      let r ← s.fcore.lateX (f.d.truncate 5) v (o.elBad k)
      pure (s.putCore r)
    else if (s.enabled f.g o.tag n) = [] then pure s
    else do
      s.checkPorts [o.need []]
      pure (s.popPorts [o.need []]))

/-- VSETL: it acts only if Enabled(k); the tag and the other elements are kept. -/
def execVsetl (f : FmtV) (s : State) : Out :=
  vector s (fun s => do
    let x ← s.vx f.a
    let xk ← s.vx f.b
    let o := s.opnd f.d
    ofClass tagPlain o
    let n := elemCount o.tag
    let k := xk.1.toNat % n
    if (s.enabled f.g o.tag n).contains k then do
      useVx f.a x
      useVx f.b xk
      pure (s.vput f.d o.tag [(k, x.1.toNat % 2 ^ o.w, false)] .zero)
    else pure s)

/-! ## Arithmetic (07 R136, R137, R139) -/

/-- Elementwise operation on sources of one tag: ff for class F gives pattern and flags from the mode and the patterns; fi
for class I. -/
def elementwise (f : FmtV) (s : State) (srcs : State → List Opnd) (cls : Nat → Bool) (draws : Bool)
    (ff : Nat → Fmt → Rm → List Nat → Nat × Flags) (fi : Nat → List Nat → Nat × Flags) : Out :=
  vector s (fun s => do
    let os := srcs s
    sameTags cls os
    let tag := match os with | o :: _ => o.tag | [] => 0
    if isI tag ∧ f.rm ≠ 0 then (match os with | o :: _ => mismatch o | [] => pure ()) else pure ()
    let en := s.enabled f.g tag (elemCount tag)
    if en = [] then pure s
    else do
      let needs := os.map (fun o => o.need en)
      s.checkPorts needs
      let md := if isF tag ∧ draws then modeOf f.rm s.fcore.status else some (rmOf f.rm.toNat)
      let free := Config.freeWord s.free
      let (rs, g) := rounding md (fun i => i % 256) en s.unit.gens (fun m i =>
        let ps := os.map (fun o => o.el i)
        if isF tag then ff free (fmtOf tag) m ps else fi (tagBits tag) ps)
      let ws := rs.map (fun e => (e.1, e.2.1, os.any (fun o => o.elBad e.1)))
      let s := s.bump.popPorts needs
      let s := s.setUnit { s.unit with gens := g }
      pure ((s.vput f.d tag ws .zero).vflag (orAll (rs.map (fun e => e.2.2)))))

def srcA (f : FmtV) (s : State) : List Opnd := [s.opnd f.a]
def srcAB (f : FmtV) (s : State) : List Opnd := [s.opnd f.a, s.opnd f.b]
def srcABC (f : FmtV) (s : State) : List Opnd := [s.opnd f.a, s.opnd f.b, s.opnd f.c]

def clsFI (t : Nat) : Bool := isF t || isI t

/-- Element j of a list of patterns. -/
def pat (l : List Nat) (j : Nat) : Nat := (l[j]?).getD 0

/-- A class-F function of values, rounded once. -/
def onF (f : FmtV) (fn : Bool → List Fp → Fp × Flags) (_ : Nat) (fm : Fmt) (md : Rm) (ps : List Nat) : Nat × Flags :=
  let (v, fl) := fn (md == .rdn) (ps.map fm.value)
  let (p, fl2) := fm.result md f.sat v
  (p, fl.or fl2)

/-- Value j of a list of values. -/
def fv (l : List Fp) (j : Nat) : Fp := (l[j]?).getD (.nan false)

/-- A class-I result: modulo 2^w, or saturated with OF (07 R137). -/
def wrapI (f : FmtV) (w : Nat) (i : Int) : Nat × Flags :=
  if f.sat then (patOf w (clampInt w f.sa i), { of_ := clampInt w f.sa i != i }) else (patOf w i, {})

/-- The integers of the operands: a and c by sa, b by sb. -/
def iv (f : FmtV) (w : Nat) (ps : List Nat) (j : Nat) : Int := intOf w (if j = 1 then f.sb else f.sa) (pat ps j)

/-- A class-I function of exact integers. -/
def onI (f : FmtV) (fn : Int → Int → Int → Int) (w : Nat) (ps : List Nat) : Nat × Flags :=
  wrapI f w (fn (iv f w ps 0) (iv f w ps 1) (iv f w ps 2))

/-- No class-I form. -/
def noI (_ : Nat) (_ : List Nat) : Nat × Flags := (0, {})

def execVadd (f : FmtV) (s : State) : Out :=
  elementwise f s (srcAB f) clsFI true (onF f (fun d l => Fp.add d (fv l 0) (fv l 1))) (onI f (fun a b _ => a + b))
def execVsub (f : FmtV) (s : State) : Out :=
  elementwise f s (srcAB f) clsFI true (onF f (fun d l => Fp.add d (fv l 0) (fv l 1).neg)) (onI f (fun a b _ => a - b))
def execVmul (f : FmtV) (s : State) : Out :=
  elementwise f s (srcAB f) clsFI true (onF f (fun _ l => Fp.mul (fv l 0) (fv l 1))) (onI f (fun a b _ => a * b))
def execVfma (f : FmtV) (s : State) : Out :=
  elementwise f s (srcABC f) clsFI true (onF f (fun d l => Fp.fma d (fv l 0) (fv l 1) (fv l 2)))
    (onI f (fun a b c => a * b + c))
def execVfms (f : FmtV) (s : State) : Out :=
  elementwise f s (srcABC f) clsFI true (onF f (fun d l => Fp.fma d (fv l 0) (fv l 1) (fv l 2).neg))
    (onI f (fun a b c => a * b - c))
def execVfnma (f : FmtV) (s : State) : Out :=
  elementwise f s (srcABC f) clsFI true (onF f (fun d l => Fp.fma d (fv l 0).neg (fv l 1) (fv l 2)))
    (onI f (fun a b c => -(a * b) + c))
def execVdiv (f : FmtV) (s : State) : Out :=
  elementwise f s (srcAB f) isF true (onF f (fun _ l => Fp.div (fv l 0) (fv l 1))) noI

/-- The chosen operand's pattern (07 R137). -/
def minI (f : FmtV) (larger : Bool) (w : Nat) (ps : List Nat) : Nat × Flags :=
  let a := iv f w ps 0
  let b := iv f w ps 1
  (if (if larger then b ≤ a else a ≤ b) then pat ps 0 else pat ps 1, {})

def execVmin (f : FmtV) (s : State) : Out :=
  elementwise f s (srcAB f) clsFI true (onF f (fun _ l => Fp.minmax false (fv l 0) (fv l 1))) (minI f false)
def execVmax (f : FmtV) (s : State) : Out :=
  elementwise f s (srcAB f) clsFI true (onF f (fun _ l => Fp.minmax true (fv l 0) (fv l 1))) (minI f true)

/-- A NaN operand of VABS, VNEG, VSGN gives the canonical NaN, INV if it signals (07 R136). -/
def unaryF (fn : Fp → Fp) (v : Fp) : Fp × Flags :=
  match v with
  | .nan s => (.nan false, { inv := s })
  | x => (fn x, {})

def execVabs (f : FmtV) (s : State) : Out :=
  elementwise f s (srcA f) clsFI true (onF f (fun _ l => unaryF Fp.abs (fv l 0))) (onI f (fun a _ _ => |a|))
def execVneg (f : FmtV) (s : State) : Out :=
  elementwise f s (srcA f) clsFI true (onF f (fun _ l => unaryF Fp.neg (fv l 0))) (onI f (fun a _ _ => -a))

/-- MIN(MAX(a, b), c). -/
def execVclamp (f : FmtV) (s : State) : Out :=
  elementwise f s (srcABC f) clsFI true
    (onF f (fun _ l =>
      let (m, fl) := Fp.minmax true (fv l 0) (fv l 1)
      let (r, fl2) := Fp.minmax false m (fv l 2)
      (r, fl.or fl2)))
    (fun w ps =>
      let (p, x) := if iv f w ps 1 ≤ iv f w ps 0 then (pat ps 0, iv f w ps 0) else (pat ps 1, iv f w ps 1)
      (if x ≤ iv f w ps 2 then p else pat ps 2, {}))

/-- Sign of a value; ±0 is kept (07 R136). -/
def signF : Fp → Fp
  | .fin v n => if v = 0 then .fin v n else .fin (sgn n 1) n
  | .inf n => .fin (sgn n 1) n
  | x => x

def execVsgn (f : FmtV) (s : State) : Out :=
  elementwise f s (srcA f) clsFI true (onF f (fun _ l => unaryF signF (fv l 0)))
    (onI f (fun a _ _ => if 0 < a then 1 else if a < 0 then -1 else 0))

/-- VROUND: an integral value; NX when it differs. -/
def execVround (f : FmtV) (s : State) : Out :=
  elementwise f s (srcA f) isF true
    (fun _ fm md ps =>
      match fm.value (pat ps 0) with
      | .fin v n =>
        let i : Rat := roundInt md v
        let (p, fl) := fm.result .rne f.sat (.fin i n)
        (p, fl.or { nx := i != v })
      | .nan sg => (fm.nan, { inv := sg })
      | x => fm.result md f.sat x) noI

/-- The seed of VRSQ (06 R126, R127). The infinity of ±0 stays under SAT (DESIGN CHOICE, log 81). -/
def rsqSeed (p : Nat) : Nat × Flags :=
  match fp32.value p with
  | .nan s => (fp32.nan, { inv := s })
  | .inf neg => if neg then (fp32.nan, { inv := true }) else (0, {})
  | .fin v neg =>
    if v = 0 then (fp32.infinity neg, { dz := true })
    else if neg then (fp32.nan, { inv := true })
    else
      let e := ilog2 v
      let t := ((v / pow2 e - 1) * 256).floor.toNat
      -- μ = num/den; N is the integer nearest 8192/√μ
      let num := 512 + 2 * t + 1
      let den := if (e + 127) % 2 = 1 then 512 else 256
      let n := (isqrt (4 * 8192 * 8192 * den / num) + 1) / 2
      (fp32.pattern (n * pow2 (-13) * pow2 (-(e / 2))) false, {})

def execVrsq (f : FmtV) (s : State) : Out :=
  elementwise f s (srcA f) (· == 1) false (fun _ _ _ ps => rsqSeed (pat ps 0)) noI

def execVrcp (f : FmtV) (s : State) : Out :=
  elementwise f s (srcA f) isF true (onF f (fun _ l => Fp.div (.fin 1 false) (fv l 0))) noI

/-- A transcendental function (07 R139). -/
def transcendental (f : FmtV) (s : State) (fn : TFun) : Out :=
  elementwise f s (srcA f) isF true (fun free fm md ps => fn.apply fm md f.sat free (fm.value (pat ps 0))) noI

def execVexp2 (f : FmtV) (s : State) : Out := transcendental f s .exp2
def execVlog2 (f : FmtV) (s : State) : Out := transcendental f s .log2

def execVactRelu (f : FmtV) (s : State) : Out :=
  elementwise f s (srcA f) clsFI true
    (onF f (fun _ l => match fv l 0 with
      | .nan sg => (.nan false, { inv := sg })
      | .inf n => (if n then .fin 0 false else .inf false, {})
      | .fin v n => (if 0 < v then .fin v n else .fin 0 false, {})))
    (fun w ps => (if 0 < iv f w ps 0 then pat ps 0 else 0, {}))

def execVactGelu (f : FmtV) (s : State) : Out := transcendental f s .gelu
def execVactSilu (f : FmtV) (s : State) : Out := transcendental f s .silu
def execVactTanh (f : FmtV) (s : State) : Out := transcendental f s .tanh
def execVactSigm (f : FmtV) (s : State) : Out := transcendental f s .sigm

/-- VDOT4 (07 R138). -/
def execVdot4 (f : FmtV) (s : State) : Out :=
  vector s (fun s => do
    let a := s.opnd f.a
    let b := s.opnd f.b
    let c := s.opnd f.c
    ofClass (· == 8) a
    ofClass (· == 8) b
    ofClass (· == 6) c
    let en := s.enabled f.g 6 256
    if en = [] then pure s
    else do
      let quad := en.flatMap (fun i => (List.range 4).map (fun k => 4 * i + k))
      let needs := [a.need quad, b.need quad, c.need en]
      s.checkPorts needs
      let rs := en.map (fun i =>
        let t : Int := intOf 32 true (c.el i) +
          ((List.range 4).map (fun k => intOf 8 f.sa (a.el (4 * i + k)) * intOf 8 f.sb (b.el (4 * i + k)))).sum
        let bad := c.elBad i || (List.range 4).any (fun k => a.elBad (4 * i + k) || b.elBad (4 * i + k))
        let (p, fl) : Nat × Flags :=
          if f.sat then (patOf 32 (clampInt 32 true t), { of_ := clampInt 32 true t != t }) else (patOf 32 t, {})
        ((i, p, bad), fl))
      let s := s.popPorts needs
      pure ((s.vput f.d 6 (rs.map (·.1)) .zero).vflag (orAll (rs.map (·.2)))))

/-! ## Bits (07 R140) -/

/-- An operation on the patterns of integer elements. -/
def bitwise (f : FmtV) (s : State) (srcs : State → List Opnd) (fn : Nat → List Nat → Nat) : Out :=
  elementwise { f with rm := 0 } s srcs isN false (fun _ _ _ _ => (0, {})) (fun w ps => (fn w ps % 2 ^ w, {}))

def execVand (f : FmtV) (s : State) : Out := bitwise f s (srcAB f) (fun _ ps => pat ps 0 &&& pat ps 1)
def execVor (f : FmtV) (s : State) : Out := bitwise f s (srcAB f) (fun _ ps => pat ps 0 ||| pat ps 1)
def execVxor (f : FmtV) (s : State) : Out := bitwise f s (srcAB f) (fun _ ps => pat ps 0 ^^^ pat ps 1)

/-- The truth table in sa, sb and Sub (07 R140, R143). -/
def ttOf (f : FmtV) : Nat := f.sa.toNat * 128 + f.sb.toNat * 64 + f.sub.toNat

/-- The bits of a truth table of three w-bit patterns. -/
def lutNat (tt w a b c : Nat) : Nat :=
  (List.range w).foldr (fun j acc =>
    (bitOf tt ((bitOf a j).toNat * 4 + (bitOf b j).toNat * 2 + (bitOf c j).toNat)).toNat * 2 ^ j + acc) 0

def execVlut3 (f : FmtV) (s : State) : Out :=
  bitwise f s (srcABC f) (fun w ps => lutNat (ttOf f) w (pat ps 0) (pat ps 1) (pat ps 2))
def execVshl (f : FmtV) (s : State) : Out := bitwise f s (srcAB f) (fun w ps => pat ps 0 * 2 ^ (pat ps 1 % w))
def execVshr (f : FmtV) (s : State) : Out := bitwise f s (srcAB f) (fun w ps => pat ps 0 / 2 ^ (pat ps 1 % w))
def execVsar (f : FmtV) (s : State) : Out :=
  bitwise f s (srcAB f) (fun w ps => patOf w (intOf w true (pat ps 0) / (2 ^ (pat ps 1 % w) : Nat)))
def execVfshl (f : FmtV) (s : State) : Out :=
  bitwise f s (srcAB f) (fun w ps => (pat ps 0 * 2 ^ w + pat ps 1) * 2 ^ (f.sub.toNat % w) / 2 ^ w)
def execVfshr (f : FmtV) (s : State) : Out :=
  bitwise f s (srcAB f) (fun w ps => (pat ps 0 * 2 ^ w + pat ps 1) / 2 ^ (f.sub.toNat % w))
def execVpopc (f : FmtV) (s : State) : Out := bitwise f s (srcA f) (fun w ps => popNat w (pat ps 0))
def execVclz (f : FmtV) (s : State) : Out := bitwise f s (srcA f) (fun w ps => clzNat w (pat ps 0))

/-! ## Compares and masks (07 R141 to R143) -/

/-- Set bits of a mask by a list of (index, value). -/
def maskWith (m : BitVec 1024) (l : List (Nat × Bool)) : BitVec 1024 := l.foldl (fun m e => setBit m e.1 e.2) m

/-- Write a pair of masks by its mode, only at the bits listed; both are read before either is written (02 R21; 07 R141). -/
def State.setMaskPair (s : State) (d e mode : Nat) (l : List (Nat × Bool)) : State :=
  let od := s.kmask d
  let oe := s.kmask e
  let dv := fun (x : Nat × Bool) => match mode with
    | 1 => (x.1, od.getLsbD x.1 && x.2)
    | 2 => (x.1, od.getLsbD x.1 || x.2)
    | _ => x
  let ev := fun (x : Nat × Bool) => match mode with
    | 1 => (x.1, oe.getLsbD x.1 && !x.2)
    | 2 => (x.1, oe.getLsbD x.1 || !x.2)
    | _ => (x.1, !x.2)
  let s := s.setMask d (maskWith od (l.map dv))
  if mode = 3 then s else s.setMask e (maskWith oe (l.map ev))

/-- A compare into a pair of masks: outcome and INV of each element. -/
def vcompare (f : FmtV) (s : State) (cls : Nat → Bool) (ff : Fp → Fp → Bool × Bool) (fi : Int → Int → Bool) : Out :=
  vector s (fun s => do
    let a := s.opnd f.a
    let b := s.opnd f.b
    sameTags cls [a, b]
    let en := s.enabled f.g a.tag (elemCount a.tag)
    if en = [] then pure s
    else do
      let needs := [a.need en, b.need en]
      s.checkPorts needs
      needs.forM consumeV
      let fm := fmtOf a.tag
      let rs := en.map (fun i =>
        if isF a.tag then
          let (c, inv) := ff (fm.value (a.el i)) (fm.value (b.el i))
          ((i, c), inv)
        else ((i, fi (intOf a.w f.sa (a.el i)) (intOf b.w f.sb (b.el i))), false))
      let s := s.popPorts needs
      pure ((s.setMaskPair (f.d.toNat % 16) (f.c.toNat % 16) (f.sub.toNat % 4) (rs.map (·.1))).vflag
        { inv := rs.any (·.2) }))

def anyNaN (a b : Fp) : Bool := a.isNaN || b.isNaN
def anySig (a b : Fp) : Bool := a.isSig || b.isSig
def ltF (a b : Fp) : Bool := Fp.cmp a b == some .lt
def leF (a b : Fp) : Bool := Fp.cmp a b == some .lt || Fp.cmp a b == some .eq

def execVcmpEq (f : FmtV) (s : State) : Out :=
  vcompare f s clsFI (fun a b => (Fp.cmp a b == some .eq, anySig a b)) (fun a b => decide (a = b))
def execVcmpNe (f : FmtV) (s : State) : Out :=
  vcompare f s clsFI (fun a b => (Fp.cmp a b != some .eq, anySig a b)) (fun a b => decide (a ≠ b))
def execVcmpLt (f : FmtV) (s : State) : Out :=
  vcompare f s clsFI (fun a b => (ltF a b, anyNaN a b)) (fun a b => decide (a < b))
def execVcmpLe (f : FmtV) (s : State) : Out :=
  vcompare f s clsFI (fun a b => (leF a b, anyNaN a b)) (fun a b => decide (a ≤ b))
def execVcmpGt (f : FmtV) (s : State) : Out :=
  vcompare f s clsFI (fun a b => (ltF b a, anyNaN a b)) (fun a b => decide (b < a))
def execVcmpGe (f : FmtV) (s : State) : Out :=
  vcompare f s clsFI (fun a b => (leF b a, anyNaN a b)) (fun a b => decide (b ≤ a))
def execVcmpUn (f : FmtV) (s : State) : Out :=
  vcompare f s isF (fun a b => (anyNaN a b, anySig a b)) (fun _ _ => false)

/-- The class of a value by the set bits of VCLASS (07 R142). -/
def classBit (fm : Fmt) (v : Fp) : Nat :=
  match v with
  | .nan _ => 0
  | .inf _ => 1
  | .fin x _ => if x = 0 then 4 else if |x| < pow2 fm.emin then 3 else 2

def execVclass (f : FmtV) (s : State) : Out :=
  vector s (fun s => do
    let a := s.opnd f.a
    ofClass isFloat a
    let en := s.enabled f.g a.tag (elemCount a.tag)
    if en = [] then pure s
    else do
      let n := a.need en
      s.checkPorts [n]
      consumeV n
      let fm := fmtOf a.tag
      let set := f.sub.toNat
      let rs := en.map (fun i =>
        let p := a.el i
        (i, bitOf set (classBit fm (fm.value p)) && (!bitOf set 5 || bitOf p (a.w - 1))))
      pure ((s.popPorts [n]).setMaskPair (f.d.toNat % 16) (f.c.toNat % 16) (f.b.toNat % 4) rs))

/-- VSEL: only the selected element is read for its poison (07 R143); ports are checked at every enabled element (07 R152). -/
def execVsel (f : FmtV) (s : State) : Out :=
  vector s (fun s => do
    let a := s.opnd f.a
    let b := s.opnd f.b
    sameTags tagPlain [a, b]
    let en := s.enabled f.g a.tag (elemCount a.tag)
    if en = [] then pure s
    else do
      let m := s.kmask (f.c.toNat % 16)
      let pick := fun (i : Nat) => m.getLsbD (if elemCount a.tag = 2048 then i / 2 else i)
      let needs := [a.need en, b.need en]
      s.checkPorts needs
      let ws := en.map (fun i => let o := if pick i then a else b; (i, o.el i, o.elBad i))
      pure ((s.popPorts needs).vput f.d a.tag ws .zero))

def execKlut (f : FmtV) (s : State) : Out :=
  vector s (fun s =>
    let a := s.kmask (f.a.toNat % 16)
    let b := s.kmask (f.b.toNat % 16)
    let c := s.kmask (f.c.toNat % 16)
    let tt := BitVec.ofNat 8 (ttOf f)
    let d := f.d.toNat % 16
    let l := (s.enabledBits f.g 1024).map (fun i => (i, ttAt tt (a.getLsbD i) (b.getLsbD i) (c.getLsbD i)))
    .ok (if l = [] then s else s.setMask d (maskWith (s.kmask d) l)))

def execKsetp (f : FmtV) (s : State) : Out :=
  vector s (fun s => do
    let x ← s.vx f.a
    let d := f.d.toNat % 16
    let l := (s.enabledBits f.g 1024).map (fun i => (i, decide (i < x.1.toNat)))
    if l = [] then pure s
    else do
      useVx f.a x
      pure (s.setMask d (maskWith (s.kmask d) l)))

/-- KPOPC: long-latency, and it always takes place. -/
def execKpopc (f : FmtV) (s : State) : Out :=
  vector s (fun s => do
    let a := s.kmask (f.a.toNat % 16)
    let n := ((s.enabledBits f.g 1024).filter (fun i => a.getLsbD i)).length
    let r ← s.fcore.lateX (f.d.truncate 5) (wNat n) false
    pure (s.putCore r))

def execKfirst (f : FmtV) (s : State) : Out :=
  vector s (fun s =>
    let a := s.kmask (f.a.toNat % 16)
    let d := f.d.toNat % 16
    let en := s.enabledBits f.g 1024
    let first := en.find? (fun i => a.getLsbD i)
    .ok (if en = [] then s else s.setMask d (maskWith (s.kmask d) (en.map (fun i => (i, some i == first))))))

/-- VPCHK: poison is read and not consumed. NONE does not pass (06 R118). -/
def execVpchk (f : FmtV) (s : State) : Out :=
  vector s (fun s => do
    let a := s.opnd f.a
    ofClass (fun t => isAny t && t != 0) a
    let n := elemCount a.tag
    let en := s.enabledBits f.g (min n 1024)
    if en = [] then pure s
    else do
      let of_ := fun (i : Nat) => if n = 2048 then 2 * i else i
      let nd := a.need (en.map of_)
      s.checkPorts [nd]
      let d := f.d.toNat % 16
      let l := en.map (fun i => (i, a.elBad (of_ i)))
      let s := s.popPorts [nd]
      pure (s.setMask d (maskWith (s.kmask d) l)))

/-! ## Conversions (07 R144, R145) -/

/-- The part rule: for destination i, some source index, or none where a widened element has no source; and whether the part
governs it. -/
def partSrc (na nd p i : Nat) : Option (Option Nat) :=
  if na ≤ nd then (if p * na ≤ i ∧ i < p * na + na then some (some (i - p * na)) else none)
  else some (if i + p * nd < na then some (i + p * nd) else none)

/-- Is a part number legal (07 R144)? -/
def partOk (na nd p : Nat) : Bool := decide (p * min na nd < max na nd)

/-- A conversion whose element i takes a source element of A. cvt gives the result of the source index under a mode. An enabled element of a
block or group that is not wholly enabled neither draws nor flags (DESIGN CHOICE, log 80); it is read, and ports are popped (07 R152). -/
def convert (f : FmtV) (s : State) (a : Opnd) (tag : Nat) (extra : List Opnd) (cvt : Rm → Nat → Nat → Nat × Flags)
    (gs : Nat) (en : List Nat) (side : List Nat → Side) (bad : Nat → Nat → Bool) : M State := do
  let p := f.c.toNat % 8
  let na := elemCount a.tag
  let nd := elemCount tag
  let en := en.filter (fun i => (partSrc na nd p i).isSome)
  let us := if isX tag then fullUnits tag gs en else []
  if en = [] then pure s
  else do
    let src := fun i => ((partSrc na nd p i).getD none)
    let needs := a.need (en.filterMap src) :: extra.map (fun o => o.need en)
    s.checkPorts needs
    let en := if isX tag then unitElems tag gs us else en
    let (rs, g) := rounding (modeOf f.rm s.fcore.status) (fun i => i % 256) en s.unit.gens (fun m i =>
      match src i with
      | some j => cvt m i j
      | none => (0, {}))
    let ws := rs.map (fun e => (e.1, e.2.1, match src e.1 with | some j => bad e.1 j | none => false))
    let s := s.popPorts needs
    let s := s.setUnit { s.unit with gens := g }
    pure ((s.vput f.d tag ws (side us)).vflag (orAll (rs.map (fun e => e.2.2))))

/-- The exact value of an element of a plain tag. -/
def plainValue (tag : Nat) (signed : Bool) (p : Nat) : Fp :=
  if isFloat tag then (fmtOf tag).value p else ofInt (intOf (tagBits tag) signed p)

/-- Is a conversion between two plain tags one to fewer bits or a smaller range (06 R123)? -/
def narrows (a b : Nat) : Bool :=
  !isFloat a || (isFloat b && (decide (tagBits b < tagBits a) || decide ((fmtOf b).max < (fmtOf a).max)))

/-- Convert a value to a plain tag (06 R123; 07 R145): a wider floating format keeps infinities. -/
def toPlain (md : Rm) (src tag : Nat) (signed : Bool) (v : Fp) : Nat × Flags :=
  if isFloat tag then
    let fm := fmtOf tag
    match v with
    | .inf neg => if narrows src tag then fm.convert md v else (fm.infinity neg, {})
    | _ => fm.convert md v
  else toInt (tagBits tag) signed md v

def execVcvt (f : FmtV) (s : State) : Out :=
  vector s (fun s => do
    let a := s.opnd f.a
    ofClass tagPlain a
    let tag := f.sub.toNat
    if partOk (elemCount a.tag) (elemCount tag) (f.c.toNat % 8) then
      convert f s a tag [] (fun m _ j => toPlain m a.tag tag f.sb (plainValue a.tag f.sa (a.el j))) 0
        (s.enabled f.g tag (elemCount tag)) (fun _ => .zero) (fun _ j => a.elBad j)
    else mismatch a)

/-- σ and z of the group that holds an element of a quantised operand (06 R115, R117). -/
def Opnd.group (o : Opnd) (i : Nat) : Fp × Int :=
  let g := i / unitSize o.tag o.gs
  (fp16.value (o.side (4 * g) + 256 * o.side (4 * g + 1)), intOf 8 true (o.side (4 * g + 2)))

/-- VQUANT: q ← Sat(Round(a/σ + z)) (07 R145). Where σ is bad and z is no value of q's range, q is the end of the range that is nearer z (DESIGN
CHOICE, log 90). -/
def quantise (w : Nat) (signed : Bool) (md : Rm) (sig : Fp) (z : Int) (v : Fp) : Nat × Flags :=
  match sig, v with
  | .fin x _, v =>
    if x = 0 then (patOf w (clampInt w signed z), { inv := true })
    else match v with
      | .nan _ => (0, { inv := true })
      | .inf neg => toInt w signed md (.inf (neg != decide (x < 0)))
      | .fin y _ => toInt w signed md (.fin (y / x + z) false)
  | _, _ => (patOf w (clampInt w signed z), { inv := true })

def execVquant (f : FmtV) (s : State) : Out :=
  vector s (fun s => do
    let a := s.opnd f.a
    let b := s.opnd f.b
    ofClass isF a
    ofClass isQ b
    if b.gs = 3 then mismatch b
    else if partOk (elemCount a.tag) (elemCount b.tag) (f.c.toNat % 8) then
      convert f s a b.tag [b] (fun m i j =>
          let (sg, z) := b.group i
          quantise b.w f.sb m sg z ((fmtOf a.tag).value (a.el j))) b.gs
        (s.enabled f.g b.tag (elemCount b.tag)) (fun us => .set b.gs (b.entries b.tag us)) (fun i j => a.elBad j || b.elBad i)
    else mismatch a)

/-- The value σ × (q − z) of a quantised element (06 R115; 07 R145): NaN with INV when σ is NaN or infinite. A zero's sign is σ's, turned where
q < z: no rule gives it (DESIGN CHOICE, log 90). -/
def dequant (sig : Fp) (q z : Int) : Fp × Flags :=
  match sig with
  | .fin x n => (.fin (x * (q - z)) (n != decide (q < z)), {})
  | _ => (.nan false, { inv := true })

def execVdequant (f : FmtV) (s : State) : Out :=
  vector s (fun s => do
    let a := s.opnd f.a
    ofClass isQ a
    let tag := f.sub.toNat
    if a.gs = 3 then mismatch a
    else if partOk (elemCount a.tag) (elemCount tag) (f.c.toNat % 8) then
      convert f s a tag [] (fun m _ j =>
          let (sg, z) := a.group j
          let (v, fl) := dequant sg (intOf a.w f.sa (a.el j)) z
          let (p, fl2) := (fmtOf tag).convert m v
          (p, fl.or fl2)) 0
        (s.enabled f.g tag (elemCount tag)) (fun _ => .zero) (fun _ j => a.elBad j)
    else mismatch a)

/-- The scale code of a block (06 R114): none for a block with a NaN or an infinity. emax of E8M0-scaled formats. -/
def emaxOf (tag : Nat) : Int :=
  match tag with
  | 10 => 8 | 11 => 15 | 12 => 4 | 13 => 2 | 14 => 2 | _ => 0

/-- X and the scale code of a block of values (06 R114). -/
def blockScale (tag : Nat) (vs : List Fp) : Option Int × Nat :=
  if vs.any (fun v => match v with | .fin _ _ => false | _ => true) then (none, 0xFF)
  else
    let a := vs.foldl (fun m v => match v with | .fin x _ => max m |x| | _ => m) 0
    if a = 0 then (none, 0)
    else
      let x := max (-127) (min 127 (ilog2 a - emaxOf tag))
      (some x, (x + 127).toNat)

/-- An element of an MX block scaled by 2^-X (06 R114). MXINT8 counts in 2^-6, and saturates with INV as an integer (06 R123). -/
def packMx (tag : Nat) (md : Rm) (x : Int) (v : Fp) : Nat × Flags :=
  match v with
  | .fin y n =>
    let y := y / pow2 x
    if tag = 15 then toInt 8 true md (.fin (y * 64) n) else (fmtOf tag).convert md (.fin y n)
  | _ => (0, {})

/-- The value of an MX element under its scale code (06 R113). -/
def mxValue (tag code p : Nat) : Fp :=
  if code = 0xFF then .nan false
  else
    let k := pow2 (code - 127)
    if tag = 15 then ofInt (intOf 8 true p) |> (fun v => match v with | .fin x n => .fin (x * k / 64) n | v => v)
    else match (fmtOf tag).value p with
      | .fin x n => .fin (x * k) n
      | v => v

/-- VMXPACK (06 R114; 07 R145): whole blocks are written; of a block with an enabled element every source element is read. An enabled element
of another block does not draw (DESIGN CHOICE, log 80). -/
def execVmxpack (f : FmtV) (s : State) : Out :=
  vector s (fun s => do
    let a := s.opnd f.a
    ofClass isF a
    let tag := f.sub.toNat
    let p := f.c.toNat % 8
    let na := elemCount a.tag
    let nd := elemCount tag
    if !partOk na nd p then mismatch a
    else do
      let en := (s.enabled f.g tag nd).filter (fun i => (partSrc na nd p i).isSome)
      let us := fullUnits tag 0 en
      if en = [] then pure s
      else do
        let nd1 := a.need ((unitElems tag 0 (en.map (· / 32)).eraseDups).map (fun i => i - p * na))
        s.checkPorts [nd1]
        let en := unitElems tag 0 us
        let val := fun i => (fmtOf a.tag).value (a.el (i - p * na))
        let scales := us.map (fun u => (u, blockScale tag ((List.range 32).map (fun i => val (32 * u + i)))))
        let scaleOf := fun i => ((scales.find? (fun e => e.1 == i / 32)).map (·.2)).getD (none, 0)
        let (rs, g) := rounding (modeOf f.rm s.fcore.status) (fun i => i % 256) en s.unit.gens (fun m i =>
          match scaleOf i with
          | (some x, _) => packMx tag m x (val i)
          | (none, c) => (0, { inv := c == 0xFF }))
        let ws := rs.map (fun e => (e.1, e.2.1,
          (List.range 32).any (fun j => a.elBad (e.1 / 32 * 32 + j - p * na))))
        let s := s.popPorts [nd1]
        let s := s.setUnit { s.unit with gens := g }
        pure ((s.vput f.d tag ws (.set 0 (scales.map (fun e => (e.1, [BitVec.ofNat 8 e.2.2]))))).vflag
          (orAll (rs.map (fun e => e.2.2)))))

/-- VMXUNPK (07 R145). An infinite element of MXFP8E5 narrows as any value beyond the result's range does (R123; DESIGN CHOICE, log 90). -/
def execVmxunpk (f : FmtV) (s : State) : Out :=
  vector s (fun s => do
    let a := s.opnd f.a
    ofClass isBlock a
    let tag := f.sub.toNat
    if partOk (elemCount a.tag) (elemCount tag) (f.c.toNat % 8) then
      convert f s a tag [] (fun m _ j => (fmtOf tag).convert m (mxValue a.tag (a.side (j / 32)) (a.el j))) 0
        (s.enabled f.g tag (elemCount tag)) (fun _ => .zero) (fun _ j => a.elBad j)
    else mismatch a)

end Sys2Proof.Machine
end

