-- ==== Sys2Proof/Machine/Copy.lean ====
section
/-! DEFINITION. The copies of the transfer engine: sides and tags, the elements they move, checks, values, and where writes
land (11 R216 to R225, R227; 10 R192, R198). -/

namespace Sys2Proof.Machine

/-! ## Sides and tags (11 R220) -/

/-- A side of a copy: its binding, whether tile coordinates address it, and the tag, dimensions and PAD of its buffer. -/
structure XSide where
  a     : AReg := {}
  coord : Bool := false
  tag   : Nat := 0
  dims  : List Nat := [1, 1, 1, 1]
  pad   : Nat := 0

def XSide.kind (d : XSide) : Nat := d.a.kind.toNat
def XSide.h (d : XSide) : Nat := d.a.bind.toNat

/-- The entry of a remote handle (17 R331). -/
def State.remote? (s : State) (h : Nat) : Option Remote := kget? s.fabric.remote h

/-- Word i of a remote entry's descriptor copy (18 R335). -/
def Remote.word (r : Remote) (i : Nat) : Nat := ((r.desc[i]?).getD 0).toNat

/-- The side of a binding. A handle without a descriptor is lost, a remote handle without an entry has no epoch. -/
def State.side (s : State) (a : AReg) : En XSide :=
  match a.kind.toNat with
  | 2 =>
    match s.buf? a.bind.toNat with
    | some b => .ok { a := a, coord := true, tag := b.tag.toNat, dims := b.dims.toList, pad := b.pad.toNat }
    | none => .error cLOST
  | 5 =>
    match s.remote? a.bind.toNat with
    | some r => .ok { a := a, coord := true, tag := field (r.word 0) 16 5
                      dims := [field (r.word 1) 0 32, field (r.word 1) 32 32, field (r.word 2) 0 32, field (r.word 2) 32 32]
                      pad := r.word 3 }
    | none => .error cEPOCH
  | _ => .ok { a := a }

/-- The element tags of source and destination (11 R220): etag and stag are the fields; own tells the instructions whose dense
source takes STAG; conv is XCONV. -/
def tagsOf (src : Option XSide) (dst : XSide) (etag stag : Nat) (own conv : Bool) : En (Nat × Nat) :=
  match src with
  | none => do
    let t := if dst.coord then dst.tag else etag
    need cTAG (etag == 0 || etag == t)
    pure (t, t)
  | some a => do
    let dt := if dst.coord then dst.tag else if etag ≠ 0 then etag else if a.coord then a.tag else if own then stag else 0
    let st := if a.coord then a.tag else if own then stag else dt
    need cTAG (etag == 0 || (!dst.coord || dst.tag == etag))
    need cTAG (conv || etag == 0 || etag == st)
    need cTAG (conv || !(a.coord && dst.coord) || a.tag == dst.tag)
    pure (st, dt)

/-! ## The elements moved (11 R219, R220; 10 R198) -/

/-- A tile descriptor: origins and extents (11 R219). -/
structure Tile where
  src : List Int
  dst : List Int
  ext : List Nat

/-- The six words of a tile descriptor. -/
def tileOf (v : Nat) : Tile :=
  let o := fun (w i : Nat) => intOf 32 true (field v (64 * (2 * w + i / 2) + 32 * (i % 2)) 32)
  { src := (List.range 4).map (o 0), dst := (List.range 4).map (o 1)
    ext := (List.range 4).map (fun i => field v (256 + 32 * i) 32) }

/-- The permutation of a PERM field; 0 is identity. -/
def permOf (p : Nat) : List Nat := (List.range 4).map (fun k => field (if p = 0 then 0xE4 else p) (2 * k) 2)

/-- The elements of a tile, dimension 0 innermost. -/
def tileElems (ext : List Nat) : List (List Nat) :=
  ext.reverse.foldl (fun (acc : List (List Nat)) n => acc.flatMap (fun j => (List.range n).map (fun i => i :: j))) [[]]

def nthNat (l : List Nat) (i : Nat) : Nat := (l[i]?).getD 0

/-- The row-major index of coordinates. -/
def rowMajor (dims c : List Nat) : Nat := (dims.zip c).foldr (fun p m => m * p.1 + p.2) 0

/-- The image index of signed coordinates, none outside the buffer (10 R196, R198). -/
def imageIndex (dims : List Nat) (c : List Int) : Option Nat :=
  if (dims.zip c).all (fun p => decide (0 ≤ p.2) && decide (p.2 < p.1)) then some (rowMajor dims (c.map Int.toNat)) else none

/-- The bit address of a tile element on a side. -/
def XSide.bit (d : XSide) (w : Nat) (org : List Int) (ext j : List Nat) : Option Nat :=
  if d.coord then (imageIndex d.dims (org.zipWith (fun (o : Int) (i : Nat) => o + (i : Int)) j)).map (· * w)
  else some (8 * d.a.ptr.toNat + rowMajor ext j * w)

/-- The moves of a tile form; an element outside the destination is discarded. -/
def tileMoves (src : Option XSide) (dst : XSide) (ws wd : Nat) (t : Tile) (perm : List Nat) : List Mv :=
  (tileElems t.ext).filterMap (fun j =>
    (dst.bit wd t.dst (perm.map (nthNat t.ext)) (perm.map (nthNat j))).map (fun o =>
      { src := src.bind (fun a => a.bit ws t.src t.ext j), dst := o }))

/-- n elements side by side from both pointers. -/
def linearMoves (src : Option XSide) (dst : XSide) (ws wd n : Nat) : List Mv :=
  (List.range n).map (fun i =>
    { src := src.map (fun a => 8 * a.a.ptr.toNat + i * ws), dst := 8 * dst.a.ptr.toNat + i * wd })

/-- A list of bit addresses as runs of w-bit elements: first bit and end. -/
def bitRuns (w : Nat) : List Nat → List (Nat × Nat)
  | [] => []
  | o :: r =>
    match bitRuns w r with
    | (a, b) :: t => if o + w = a then (o, b) :: t else (o, o + w) :: (a, b) :: t
    | [] => [(o, o + w)]

def runsOf (w : Nat) (l : List Nat) : List (Nat × Nat) := bitRuns w (l.foldr (fun o s => nsAdd s o) [])

/-- The bytes of a run: first address and length. -/
def byteRun (r : Nat × Nat) : Nat × Nat := (r.1 / 8, (r.2 + 7) / 8 - r.1 / 8)

/-- What an entry moves: its sides, their tags and element widths, and the elements. -/
structure Plan where
  src   : Option XSide
  dst   : XSide
  st    : Nat
  dt    : Nat
  ws    : Nat
  wd    : Nat
  moves : List Mv

def Plan.reads (p : Plan) : List (Nat × Nat) := runsOf p.ws (p.moves.filterMap (fun m => m.src))
def Plan.writes (p : Plan) : List (Nat × Nat) := runsOf p.wd (p.moves.map (fun m => m.dst))

/-- Exactly one side of KIND 4, the condition of XCOPYH (11 R221). -/
def Plan.oneHost (p : Plan) : Bool := (p.dst.kind == 4) != (match p.src with | some a => a.kind == 4 | none => false)

/-! ## Places -/

/-- A run of bits in one of the spaces: 0 on chip, 1 buffers, 2 host memory. -/
structure Spot where
  space : Nat
  lo    : Nat
  hi    : Nat

/-- Key of a host byte. -/
def hostKey (pasid addr : Nat) : Nat := pasid * 2 ^ 64 + addr

/-- The space of a side on cell k and its base in bits. -/
def AReg.space (a : AReg) (k : Nat) : Option (Nat × Nat) :=
  match a.kind.toNat with
  | 1 => some (0, 8 * padBase k)
  | 2 => some (1, 8 * bufKey a.bind.toNat 0)
  | 3 => some (0, 0)
  | 4 => some (2, 8 * hostKey a.bind.toNat 0)
  | _ => none

def AReg.spots (a : AReg) (k : Nat) (runs : List (Nat × Nat)) : List Spot :=
  match a.space k with
  | some (sp, base) => runs.map (fun r => ⟨sp, base + r.1, base + r.2⟩)
  | none => []

def Spot.meets (x y : Spot) : Bool := x.space == y.space && decide (x.lo < y.hi) && decide (y.lo < x.hi)

def meet (l m : List Spot) : Bool := l.any (fun x => m.any x.meets)

/-! ## Checks (11 R217, R221; 10 R192) -/

/-- Is a byte run of a window write within a place that may be written (10 R192)? whole tells that every bit of it is written. -/
def State.windowShape (s : State) (a n : Nat) (whole : Bool) : Bool :=
  s.chipOk a n &&
    (match chipRegion a with
      | 0 => s.storeOk a n
      | 1 => whole && decide (a % 4 = 0) && decide (n % 4 = 0)
      | 2 => true
      | 3 => true
      | 4 => whole && decide (a % 8 = 0) && decide (n % 8 = 0) && decide (chipOff a % 0x400 + n ≤ 0x100)
      | 6 => whole && decide (a % 4 = 0) && decide (n % 4 = 0) && decide (4 ≤ chipOff a) && decide (chipOff a + n ≤ 0x80)
      | _ => false)

/-- May cell k reach a cell through a window: one of its group, or any from a service cell (05 R89, R109; 19 R339)? -/
def State.windowCell (s : State) (k j : Nat) : Bool := isService k || j == k || s.inGroup k j

/-- Kinds, rights and bounds of a run on a side (11 R217 step 4, R221). -/
def State.runOk (s : State) (k : Nat) (a : AReg) (kinds : List Nat) (u : Use) (r : Nat × Nat) : Bool :=
  let b := byteRun r
  kinds.contains a.kind.toNat && a.allows u && a.inside b.1 b.2 && (a.kind != 5 || a.canRemote) &&
    (match a.kind.toNat with
      | 1 => s.chipOk (padBase k + b.1) b.2 && s.limitOk k a && (u == .read || s.storeOk (padBase k + b.1) b.2)
      | 3 => s.windowCell k (chipKey b.1) && s.windowShape b.1 b.2 (decide (r.1 % 8 = 0) && decide (r.2 % 8 = 0))
      | _ => true)

/-- A side that moves nothing still needs its kind and rights. -/
def AReg.kindOk (a : AReg) (kinds : List Nat) (u : Use) : Bool :=
  kinds.contains a.kind.toNat && a.allows u && (a.kind != 5 || a.canRemote)

/-- Lease and buffer state of a run on a side (11 R217 step 5; 10 R202). -/
def State.leaseOk (s : State) (k : Nat) (a : AReg) (u : Use) (r : Nat × Nat) : En Unit :=
  let b := byteRun r
  match a.kind.toNat with
  | 2 => do
    need cLEASE (leaseHas (s.bank k).lease false a.bind.toNat b.1 b.2 u)
    need cLOST (!s.lost a.bind.toNat)
  | 4 => need cLEASE (leaseHas (s.bank k).lease true a.bind.toNat b.1 b.2 u)
  | _ => .ok ()

/-- The epoch of a remote side (11 R229; 17 R333). -/
def State.epochOk (s : State) (a : AReg) : Bool :=
  a.kind != 5 || (match s.remote? a.bind.toNat with | some r => !r.stale | none => false)

/-- The six words of a tile descriptor at AT: KIND 1 with READ (11 R218, R219). -/
def State.readTile (s : State) (k : Nat) (a : AReg) : En Tile := do
  need cBOUNDS (s.runOk k a [1] .read (8 * a.ptr.toNat, 8 * a.ptr.toNat + 384))
  need cPOISON (!badIn s.memBad (padBase k + a.ptr.toNat) 48)
  pure (tileOf (leNat (s.see (padBase k + a.ptr.toNat) 48)))

/-- Overlap, kinds, rights, bounds, leases, buffer state and epoch of a plan (11 R217 steps 3 to 6). -/
def State.checkPlan (s : State) (k : Nat) (p : Plan) (sk dk : List Nat) (use : Use) (ok : Plan → Bool) : En Unit := do
  let rs := p.reads
  let ws := p.writes
  match p.src with
  | some a =>
    need cOVERLAP (!meet (a.a.spots k rs) (p.dst.a.spots k ws))
    need cBOUNDS (a.a.kindOk sk .read && rs.all (s.runOk k a.a sk .read))
  | none => pure ()
  need cBOUNDS (p.dst.a.kindOk dk use && ws.all (s.runOk k p.dst.a dk use))
  need cBOUNDS (ok p)
  match p.src with
  | some a => rs.forM (s.leaseOk k a.a .read)
  | none => pure ()
  ws.forM (s.leaseOk k p.dst.a use)
  need cEPOCH (s.epochOk p.dst.a && (match p.src with | some a => s.epochOk a.a | none => true))

/-- The rows of XGATH as moves; a row outside the source gives PAD (11 R223). -/
def gatherMoves (src dst : XSide) (w : Nat) (idx : List Int) : List Mv :=
  let d0 := nthNat src.dims 0
  let rows := nthNat src.dims 1 * nthNat src.dims 2 * nthNat src.dims 3
  ((List.range idx.length).zip idx).flatMap (fun p => (List.range d0).map (fun c =>
    { src := if decide ((0 : Int) ≤ p.2) && decide (p.2 < (rows : Int)) then some ((p.2.toNat * d0 + c) * w) else none
      dst := 8 * dst.a.ptr.toNat + (p.1 * d0 + c) * w }))

/-- LEN of a linear form, or the number of indices of XGATH. -/
def xlen (f : FmtX) : Nat := f.len1.toNat + 1

def isCls (l : List Nat) (t : Nat) : Bool := l.contains t

/-- The destination of a copy: the copied binding of AD, or for XCOPYC the channel's, PTR at its fill offset (11 R227). -/
def State.copyDst (s : State) (k : Nat) (ent : Entry) (opc : Nat) (f : FmtX) : En AReg :=
  if opc = 0x182 then
    let c := vget (s.bank k).chans f.ch.toNat {}
    if c.st = .open_ then .ok { c.bind with ptr := wNat (c.bind.ptr.toNat + c.fo) } else .error cCHANNEL
  else .ok (ent.areg f.ad)

/-- The kinds that AS and AD may have, by opcode (11 R221). -/
def copyKinds (opc : Nat) : List Nat × List Nat :=
  match opc with
  | 0x181 => ([1, 2], [3])
  | 0x182 => ([1, 2, 4], [1])
  | 0x183 => ([1, 2, 4], [1, 2, 4])
  | 0x185 => ([2], [1, 2])
  | 0x186 => ([1, 2], [2])
  | 0x189 => ([1, 2], [5])
  | 0x18A => ([5], [1, 2])
  | _ => ([1, 2], [1, 2])

/-- May a push travel on its stream: none, or an open one towards the module of its target (11 R230)? -/
def State.streamOk (s : State) (k : Nat) (f : FmtX) (p : Plan) : Bool :=
  !f.ch.getLsbD 3 ||
    (let st := vget (s.bank k).streams (f.ch.toNat % 8) {}
     st.open_ && (match s.remote? p.dst.h with | some r => r.module == st.module | none => true))

/-- The plan of a copy entry, every check made (11 R217 to R223). -/
def State.plan (s : State) (k : Nat) (ent : Entry) (opc : Nat) (f : FmtX) : En Plan := do
  let dst ← s.side (← s.copyDst k ent opc f)
  let src ← if opc = 0x184 then pure none else do pure (some (← s.side (ent.areg f.as)))
  let red := opc == 0x186
  let conv := opc == 0x187
  let use : Use := if red then .acc else .write
  let (sk, dk) := copyKinds opc
  let ok := fun (p : Plan) => (opc != 0x183 || p.oneHost) && (opc != 0x189 || s.streamOk k f p)
  let at_ := ent.areg f.at_
  let tile := f.at_ != 0 && opc != 0x185
  if opc = 0x185 then do
    let a := src.getD {}
    let w := tagBits a.tag
    need cTAG ((f.etag == 0 || f.etag.toNat == a.tag) && (!dst.coord || dst.tag == a.tag) && (!a.coord || a.tag != 0))
    let o := 8 * at_.ptr.toNat
    need cBOUNDS (s.runOk k at_ [1] .read (o, o + 32 * xlen f))
    need cPOISON (!badIn s.memBad (padBase k + at_.ptr.toNat) (4 * xlen f))
    let raw := s.see (padBase k + at_.ptr.toNat) (4 * xlen f)
    let idx := (List.range (xlen f)).map (fun i => intOf 32 true (leNat ((raw.drop (4 * i)).take 4)))
    let p : Plan := { src := some a, dst := dst, st := a.tag, dt := a.tag, ws := w, wd := w, moves := gatherMoves a dst w idx }
    s.checkPlan k p sk dk .write ok
    pure p
  else if tile then do
    let (st, dt) ← tagsOf src dst f.etag.toNat f.xs.toNat (red || conv) conv
    need cTAG (st != 0 && dt != 0 && !isX st && !isX dt)
    need cTAG (!conv || (st ≤ 9 && dt ≤ 9))
    need cTAG (!red || (isF st && isF dt) || (isI st && isI dt))
    need cTAG (opc != 0x188 || dst.coord || (match src with | some a => a.coord | none => false))
    let t ← s.readTile k at_
    let ws := tagBits st
    let wd := tagBits dt
    let p : Plan := { src := src, dst := dst, st := st, dt := dt, ws := ws, wd := wd
                      moves := tileMoves src dst ws wd t (permOf f.perm.toNat) }
    s.checkPlan k p sk dk use ok
    pure p
  else if red || conv then do
    let (st, dt) ← tagsOf src dst f.etag.toNat f.xs.toNat true conv
    need cTAG (!conv || (1 ≤ st && st ≤ 9 && 1 ≤ dt && dt ≤ 9))
    need cTAG (!red || (isF st && isF dt) || (isI st && isI dt))
    let ws := tagBits st
    let wd := tagBits dt
    let p : Plan := { src := src, dst := dst, st := st, dt := dt, ws := ws, wd := wd
                      moves := linearMoves src dst ws wd (8 * xlen f / ws) }
    s.checkPlan k p sk dk use ok
    pure p
  else do
    need cTAG (opc != 0x188)
    let p : Plan := { src := src, dst := dst, st := 0, dt := 0, ws := 8, wd := 8, moves := linearMoves src dst 8 8 (xlen f) }
    s.checkPlan k p sk dk use ok
    pure p

/-! ## Values (11 R220 to R224) -/

/-- Bytes of a side from a byte address, with the poison of each. -/
def State.sideBytes (s : State) (k : Nat) (a : AReg) (lo n : Nat) : List (Byte × Bool) :=
  match a.kind.toNat with
  | 1 => ((List.range n).zip (s.see (padBase k + lo) n)).map (fun p => (p.2, badIn s.memBad (padBase k + lo + p.1) 1))
  | 2 => ((List.range n).zip (s.bufBytes k a.bind.toNat lo n)).map (fun p => (p.2, s.bufBad k a.bind.toNat (lo + p.1) 1))
  | 3 => ((List.range n).zip (s.see lo n)).map (fun p => (p.2, badIn s.memBad (lo + p.1) 1))
  | 4 => (s.hostMem.read (hostKey a.bind.toNat lo) n).map (fun b => (b, false))
  | _ => (List.replicate n (0, false))

/-- Do granules of a side poison a byte read there (11 R224)? w bits at bit address o, and their poison. -/
def State.sideBits (s : State) (k : Nat) (a : AReg) (o w : Nat) : Nat × Bool :=
  let l := s.sideBytes k a (o / 8) ((o + w + 7) / 8 - o / 8)
  (field (leNat (l.map (·.1))) (o % 8) w, l.any (·.2))

/-- Reading runs of a side: words changed by atomics settle, marks clear, substitutions count, lines pass the cache. -/
def State.readSide (s : State) (k : Nat) (a : AReg) (runs : List (Nat × Nat)) : State :=
  runs.foldl (fun s r =>
    let b := byteRun r
    match a.kind.toNat with
    | 1 => s.touch k b.1 b.2
    | 2 => (((s.settle k a.bind.toNat b.1 b.2).noteSubst k a.bind.toNat b.1 b.2).noteBufs k [a.bind.toNat]).cacheTouch (s.bank k).asid a.bind.toNat b.1 b.2
    | _ => s) s

/-- The low bits of XFILL's pattern that element i takes (11 R221). -/
def fillBits (tile : Bool) (etag w i : Nat) (x : Word) : Nat :=
  if tile then field x.toNat 0 w
  else
    let wf := if etag = 0 then 8 else tagBits etag
    (List.range 8).foldl (fun v b => v + (if bitOf x.toNat ((8 * i + b) % wf) then 2 ^ b else 0)) 0

/-- A converted element (11 R222). -/
def convEl (st dt : Nat) (ss sd : Bool) (rm : Nat) (v : Nat) : Nat × Flags :=
  toPlain (rmOf rm) st dt sd (plainValue st ss v)

/-- A reduced element: the destination's old pattern and the source's. A float that overflows becomes an infinity in every mode, unless
SAT = 1 (11 R222). -/
def Red.step (r : Red) (d v : Nat) : Nat × Flags :=
  let wd := tagBits r.dt
  if isF r.dt then
    let md := rmOf r.rm
    let x := (fmtOf r.dt).value d
    let y := (fmtOf r.st).value v
    let (z, fl) := match r.op with
      | 0 => Fp.add (md == Rm.rdn) x y
      | 1 => Fp.minmax true x y
      | _ => Fp.minmax false x y
    let (p, fl2) := (fmtOf r.dt).result md r.sat z
    let neg := match z with | .fin v _ => decide (v < 0) | .inf n => n | .nan _ => false
    (if fl2.of_ && !r.sat then (fmtOf r.dt).infinity neg else p, fl.or fl2)
  else
    let x := intOf wd r.sd d
    let y := intOf (tagBits r.st) r.ss v
    let z := match r.op with
      | 0 => x + y
      | 1 => max x y
      | _ => min x y
    if r.sat then (patOf wd (clampInt wd r.sd z), { of_ := clampInt wd r.sd z != z }) else (patOf wd z, {})

/-- Lay w bits at bit address o into a map of stores: a narrow element changes only its own bits (11 R220). -/
def putBits (m : KMap WByte) (o w v : Nat) (bad : Bool) : KMap WByte :=
  let n := (o + w + 7) / 8 - o / 8
  kjoin m (o / 8) ((List.range n).map (fun i =>
    { m := BitVec.ofNat 8 ((2 ^ w - 1) * 2 ^ (o % 8) / 256 ^ i), v := BitVec.ofNat 8 (v * 2 ^ (o % 8) / 256 ^ i), bad := bad }))

/-- Stores at rising addresses as runs of consecutive bits, cut before each address that cut names. -/
def storeRuns (cut : Nat → Bool) : KMap WByte → List (Nat × List WByte)
  | [] => []
  | (a, w) :: m =>
    match storeRuns cut m with
    | (b, l) :: t =>
      if b = a + 1 && !cut b && w.m.getLsbD 7 && (match l with | x :: _ => x.m.getLsbD 0 | [] => true) then (a, w :: l) :: t
      else (a, [w]) :: (b, l) :: t
    | [] => [(a, [w])]

/-! ## Landing (10 R191, R192; 11 R216, R224, R236) -/

/-- Stores of one run land on chip; the answer tells whether a semaphore took its signal (10 R192). -/
def State.landChip (s : State) (a : Nat) (ws : List WByte) : State × Bool :=
  let k := chipKey a
  let off := chipOff a
  match chipRegion a with
  | 4 =>
    let c : CoreIx := match off / 0x400 with | 0 => .e | 1 => .v | _ => .x
    (s.landX k c (off % 0x400 / 8) (wNat (leNat (ws.map (·.v)))) (ws.any (·.bad)), true)
  | 6 => s.landSem k (off / 4) (leNat (ws.map (·.v)))
  | r =>
    let s := { s with mem := s.mem.merge a ws
                      memBad := (badOf a ws).foldl nsAdd ((coverOf a ws).foldl nsDel s.memBad) }
    let live := fun (s : State) (c : CoreIx) => (granules 10 off ws.length).foldl (fun s v =>
      s.modCore k c (fun r => { r with livev := setBit r.livev v true })) s
    match r with
    | 0 => ((s.touch k off ws.length).noteSlotStore a ws.length, true)
    | 2 => (live s .v, true)
    | 3 => (live s .e, true)
    | _ => (s, true)

/-- The addresses at which a window write is cut into pieces that land at one instant each: a register, a semaphore, or a granule
(10 R192, R214). -/
def windowCut (a : Nat) : Bool :=
  match chipRegion a with
  | 2 => chipOff a % 0x400 == 0
  | 3 => chipOff a % 0x400 == 0
  | 4 => a % 8 == 0
  | 6 => a % 4 == 0
  | _ => a % 64 == 0

/-- Bytes that window writes of a list of pieces bring to cell j. -/
def bytesTo (l : List Posted) (j : Nat) : Nat :=
  (l.map (fun p => match p.dst with
    | .chip a => if chipKey a = j ∧ p.chan.isNone ∧ !p.mcast then p.data.length else 0
    | _ => 0)).sum

/-- The cells that pieces of a list go to. -/
def targetsOf (l : List Posted) : NSet :=
  l.foldl (fun s p => match p.dst.chip? with | some a => nsAdd s (chipKey a) | none => s) []

/-- Is there room in the pending-byte counters (11 R236)? -/
def State.pbRoom (s : State) (l : List Posted) : Bool :=
  (targetsOf l).all (fun j => decide ((s.bank j).pb + bytesTo l j < 2 ^ 32))

/-- Post pieces of a cell: the pending-byte counters of their targets rise (11 R216, R236). -/
def State.post (s : State) (k : Nat) (l : List Posted) : State :=
  let s := (targetsOf l).foldl (fun s j => s.modBank j (fun b => { b with pb := b.pb + bytesTo l j })) s
  s.modCell k (fun c => { c with posted := c.posted ++ l })

/-! ## What an entry must not pass (11 R216) -/

/-- The bits that pieces of the cell still have to write. -/
def Posted.spots (p : Posted) : List Spot :=
  if p.mcast then []
  else match p.dst with
    | .chip a => [⟨0, 8 * a, 8 * (a + p.data.length)⟩]
    | .out a => [⟨0, 8 * a, 8 * (a + p.data.length)⟩]
    | .host q a => [⟨2, 8 * hostKey q a, 8 * (hostKey q a + p.data.length)⟩]
    | .red h o r => [⟨1, 8 * bufKey h o, 8 * bufKey h o + tagBits r.dt⟩]

/-- Buffer bytes that earlier entries write at their completion. -/
def Entry.lateSpots (e : Entry) : List Spot :=
  e.late.map (fun l => ⟨1, 8 * bufKey l.h l.off, 8 * (bufKey l.h l.off + l.data.length)⟩)

/-- The places of elements that an entry has still to move: sources and destinations. A channel's are in its own scratchpad. -/
def Entry.moveSpots (e : Entry) (k : Nat) : List Spot × List Spot :=
  match e.op with
  | .xfer (.copy opc f) =>
    ((e.areg f.as).spots k (runsOf e.w (e.moves.filterMap (fun m => m.src))),
      (if opc = 0x182 then { e.areg f.ad with kind := 1 } else e.areg f.ad).spots k (runsOf e.w (e.moves.map (fun m => m.dst))))
  | _ => ([], [])

/-- May the next entry of the cell's transfer engine read and write these places: nothing that an earlier entry has still to
write there, nor write what it has still to read (11 R216)? own tells that the writes take place at the start. -/
def State.clearFor11 (s : State) (k : Nat) (reads writes : List Spot) (own : Bool) : Bool :=
  let posted := (s.cell k).posted.flatMap Posted.spots
  let es := (s.bank k).xfer.entries.filter (fun e => !e.idle)
  let late := es.flatMap Entry.lateSpots
  let src := es.flatMap (fun e => (e.moveSpots k).1)
  let dst := es.flatMap (fun e => (e.moveSpots k).2)
  !(meet reads (posted ++ late ++ dst) || meet writes (src ++ dst) || (own && meet writes posted))

end Sys2Proof.Machine
end

