-- ==== Sys2Proof/Machine/Transfer.lean ====
section
/-! DEFINITION. The transfer engine: running copies, pushes and pulls, channels, streams, atomics, phases, fences and barriers
(11 R218 to R236, R242), and what becomes of their posted writes and publications (10 R209 to R213). -/

namespace Sys2Proof.Machine

/-! ## Messages (17 R320, R330, R332) -/

/-- Draw the next sequence number of a cell's transfer engine: the counter holds the number last drawn (17 R320; 18 R336, R338). -/
def State.nextSeq (s : State) (k : Nat) : State × Nat :=
  let n := ((s.cell k).seqXfer + 1) % 2 ^ 32
  (s.modCell k (fun c => { c with seqXfer := n }), n)

/-- A transfer that leaves its die draws a number for each OPEN flit; into how many contexts it is cut is free (17 R319, R320; log 87). -/
def State.drawFlits (s : State) (k : Nat) : State :=
  s.modCell k (fun c => { c with seqXfer := (c.seqXfer + Config.openFlits c.seqXfer) % 2 ^ 32 })

/-- Live lanes of a port of the 36 (17 R329). -/
def State.lanes (s : State) (port : Nat) : Nat := kget 2 s.fabric.lanes port

/-- The ports that have a lane. -/
def State.livePorts (s : State) : List Nat := (List.range 36).filter (fun p => s.lanes p != 0)

/-- Word 0 of an Odsoga message. -/
def State.msgWord0 (s : State) (ty dst : Nat) (stream : Option Nat) (k len : Nat) : Word :=
  wNat (ty * 2 ^ 56 + dst % 256 * 2 ^ 48 + s.fabric.moduleId % 256 * 2 ^ 40 + (match stream with | some i => 2 ^ 39 + i * 2 ^ 36 | none => 0) +
    k / 128 * 2 ^ 30 + k % 128 * 2 ^ 23 + len)

def State.send (s : State) (x : Sent) : State := { s with host := { s.host with sent := s.host.sent ++ [x] } }

/-- Ask for a host page through PRI: at most 512 requests stand outstanding, and others wait (17 R322). -/
def State.askPage (s : State) (pasid page : Nat) : State :=
  let h := s.host
  if h.pri.contains (pasid, page) || h.priWait.contains (pasid, page) then s
  else if 512 ≤ h.pri.length then { s with host := { h with priWait := h.priWait ++ [(pasid, page)] } }
  else ({ s with host := { h with pri := h.pri ++ [(pasid, page)] } } : State).send (.pageRequest pasid page)

/-- The host has answered for a page: its request no longer stands, and the next one that waits is sent. -/
def State.pageAnswered (s : State) (pasid page : Nat) : State :=
  let h := s.host
  let pri := h.pri.filter (· != (pasid, page))
  match h.priWait with
  | (q, g) :: rest =>
    if pri.length < 512 then ({ s with host := { h with pri := pri ++ [(q, g)], priWait := rest } } : State).send (.pageRequest q g)
    else { s with host := { h with pri := pri } }
  | [] => { s with host := { h with pri := pri } }

/-- The CRC-32 of a message's header and payload (17 R330). -/
def msgCrc (m : Msg) : BitVec 32 := crc32 ([m.w0, m.w1, m.w2, m.w3].flatMap (fun w => leBytes 8 w.toNat) ++ m.payload)

/-- A message with its trailer. -/
def sealed (m : Msg) : Msg := { m with trailer := (msgCrc m).zeroExtend 64 }

/-- Did a message arrive whole: LEN bytes of payload, and the CRC that they and the header give (17 R330)? -/
def msgWhole (m : Msg) : Bool := m.payload.length == field m.w0.toNat 0 9 && m.trailer.truncate 32 == msgCrc m

/-- Send a message: those of a stream over one live port by destination and stream, others spread over the live ports (17 R332). With no
live port it is not sent. -/
def State.sendMsg (s : State) (m : Msg) : State :=
  let live := s.livePorts
  let i := if bitOf m.w0.toNat 39 then Config.streamPort live (field m.w0.toNat 48 8) (field m.w0.toNat 36 3)
    else Config.spreadPort live (field m.w1.toNat 32 32)
  match live[i % live.length]? with
  | some p => s.send (.msg p (sealed m))
  | none => s

/-- Cut a list into lists of at most n. The first argument bounds the number of lists. -/
def chunks {α : Type} : Nat → Nat → List α → List (List α)
  | 0, _, _ => []
  | c + 1, n, l => if l = [] then [] else l.take n :: chunks c n (l.drop n)
termination_by structural c _ _ => c

/-- FMASK or LMASK of a byte: 0 means all eight bits (17 R330). -/
def edgeMask (w : WByte) : Nat := if w.m = 0xFF then 0 else w.m.toNat

/-- The PUSH_DATA payloads of a map of stores: an image offset and at most 256 consecutive bytes each (17 R332). -/
def pushRuns (m : KMap WByte) : List (Nat × List WByte) :=
  (storeRuns (fun _ => false) m).flatMap (fun r =>
    let cs := chunks (r.2.length / 256 + 1) 256 r.2
    ((List.range cs.length).zip cs).map (fun p => (r.1 + 256 * p.1, p.2)))

/-- The destination granules of elements of width w, in the elements' order. -/
def granuleOrder (w : Nat) (mvs : List Mv) : List Nat := (mvs.flatMap (fun m => [m.dst / 512, (m.dst + w - 1) / 512])).eraseDups

/-- Drop the first granule of an order that receives a poisoned byte and every later one (11 R224). -/
def cutPoison (order : List Nat) (m : KMap WByte) : KMap WByte × Bool :=
  let bad := (m.filter (fun e => e.2.bad)).map (fun e => e.1 / 64)
  if bad = [] then (m, false)
  else
    let keep := order.takeWhile (fun g => !bad.contains g)
    (m.filter (fun e => keep.contains (e.1 / 64)), true)

/-- Send PUSH_DATA for each run; opid is the number of the first message, if one was sent. -/
def State.pushData (s : State) (k : Nat) (r : Remote) (stream : Option Nat) (runs : List (Nat × List WByte)) :
    State × Option Nat × Nat :=
  runs.foldl (fun (acc : State × Option Nat × Nat) x =>
    let (s, n) := acc.1.nextSeq k
    let op := acc.2.1.getD n
    let lm := (x.2.getLast?.map edgeMask).getD 0
    let fm := (x.2.head?.map edgeMask).getD 0
    (s.sendMsg { w0 := s.msgWord0 1 r.module stream k x.2.length, w1 := wNat (n * 2 ^ 32 + op)
                 w2 := wNat (r.target * 2 ^ 32 + r.epoch * 2 ^ 16 + lm * 2 ^ 8 + fm), w3 := wNat x.1
                 payload := x.2.map (fun w => w.v &&& w.m) },
      some op, acc.2.2 + 1)) (s, none, 0)

/-- XPUSH: PUSH_DATA messages, then PUSH_DONE; a poisoned granule ends it (11 R224, R228; 17 R332). -/
def State.runPush (s : State) (k : Nat) (ent : Entry) (f : FmtX) (h : Nat) (order : List Nat) (m : KMap WByte) : Ran :=
  match s.remote? h with
  | none => { s := s, stop := some cEPOCH }
  | some r =>
    let stream := if f.ch.getLsbD 3 then some (f.ch.toNat % 8) else none
    let (m, bad) := cutPoison order m
    let (s, op, cnt) := s.pushData k r stream (pushRuns m)
    if bad then { s := s, stop := some cPOISON }
    else
      let (s, n) := s.nextSeq k
      let op := op.getD n
      let s := s.sendMsg { w0 := s.msgWord0 2 r.module stream k 0, w1 := wNat (n * 2 ^ 32 + op)
                           w2 := wNat (r.target * 2 ^ 32 + r.epoch * 2 ^ 16), w3 := wNat (cnt * 2 ^ 32 + f.arrv.toNat), payload := [] }
      let o : RemOp := { opid := op, cell := k, uid := ent.uid, module := r.module, epoch := r.epoch, push := true, seq := n }
      { s := { s with fabric := { s.fabric with ops := s.fabric.ops ++ [o] } }, need := .remote op }

/-- The status word of XPUSH and XPULL (11 R228). -/
def statusWord (status seq : Nat) : Word := wNat (status * 2 ^ 56 + seq % 2 ^ 32)

/-! ## Moving elements (11 R220 to R227) -/

/-- Is the translation of a host page installed (11 R225)? -/
def State.pageOk (s : State) (pasid addr : Nat) : Bool :=
  s.host.trans.any (fun t => t.pasid == pasid && t.page == addr / 4096 && t.valid)

/-- The host granules of the elements that an entry has still to read (11 R225). -/
def Entry.parked (e : Entry) : NSet :=
  match e.need, e.op with
  | .replay, .xfer (.copy opc f) =>
    let host := if opc ≠ 0x182 ∧ (e.areg f.ad).kind = 4 then e.moves.map (fun m => m.dst) else e.moves.filterMap (fun m => m.src)
    host.foldl (fun gs o => nsAdd (nsAdd gs (o / 512)) ((o + e.w - 1) / 512)) []
  | _, _ => []

/-- Elements parked in a cell's replay queue before those of an entry, in granules: reads and host writes of earlier entries (11 R225). -/
def State.parkedIn (s : State) (k uid : Nat) : Nat :=
  (((s.bank k).xfer.entries.filter (fun e => decide (e.uid < uid))).map (fun e => e.parked.length)).sum +
    ((s.cell k).posted.filter (fun p => p.parked && decide (p.uid < uid))).length

/-- Host writes park, or stall, where their page has no valid translation or 64 elements stand before them in the replay queue (11 R225).
again names the writes that are looked at; the others stay as they are. -/
def State.siftHost (s : State) (k : Nat) (again : Posted → Bool) : State :=
  let l := (s.cell k).posted.foldl (fun (acc : List Posted) p =>
    match p.dst with
    | .host q a =>
      let ahead := s.parkedIn k p.uid + (acc.filter (fun x => x.parked && x.uid == p.uid)).length
      acc ++ [if again p then { p with parked := !(s.pageOk q a && decide (ahead < 64)) } else p]
    | _ => acc ++ [p]) []
  s.modCell k (fun c => { c with posted := l })

/-- Does a host write of entry uid stand in the replay queue of a cell? -/
def Cell.parks (c : Cell) (uid : Nat) : Bool := c.posted.any (fun p => p.parked && p.uid == uid)

/-- Lay the stores of a copy at their destination. order is the order of its destination granules; more tells that elements of the entry
are still parked (11 R224, R225). -/
def State.layDown (s : State) (k : Nat) (ent : Entry) (opc : Nat) (f : FmtX) (d : AReg) (order : List Nat) (m : KMap WByte) (more : Bool) : Ran :=
  match d.kind.toNat with
  | 1 =>
    if opc = 0x182 then
      let base := (vget (s.bank k).chans f.ch.toNat {}).bind.ptr.toNat
      let rs := storeRuns (fun a => (a - base) % 64 == 0 || a % 64 == 0) m
      let ps := (List.range rs.length).zipWith (fun i r =>
        { dst := .chip (padBase k + r.1), data := r.2, uid := ent.uid
          chan := some ⟨f.ch.toNat, r.1 + r.2.length - base, !more && i + 1 == rs.length⟩ : Posted }) rs
      { s := s.post k ps, need := if ps = [] then .none else .posted, ent := some ent }
    else
      { s := (storeRuns (fun _ => false) m).foldl (fun s r => (s.landChip (padBase k + r.1) r.2).1) s, ent := some ent }
  | 2 =>
    { s := s, ent := some { ent with late := ent.late ++ (storeRuns (fun _ => false) m).map (fun r => ⟨d.bind.toNat, r.1, r.2⟩) } }
  | 3 =>
    let ps := (storeRuns windowCut m).map (fun r =>
      { dst := if s.inGroup k (chipKey r.1) then .chip r.1 else .out r.1, data := r.2, uid := ent.uid : Posted })
    { s := s.post k ps, need := if (targetsOf ps).contains k then .posted else .none, ent := some ent }
  | 4 =>
    let (m, bad) := cutPoison order m
    let rs := storeRuns (fun a => a % 64 == 0) m
    let ps := (order.flatMap (fun g => rs.filter (fun r => r.1 / 64 == g))).map (fun r =>
      { dst := .host d.bind.toNat r.1, data := r.2, uid := ent.uid : Posted })
    let s := (s.post k ps).siftHost k (fun p => p.uid == ent.uid)
    { s := s, stop := if bad then some cPOISON else none, need := if (s.cell k).parks ent.uid then .replay else .none, ent := some ent }
  | 5 => s.runPush k ent f d.bind.toNat order m
  | _ => { s := s, ent := some ent }

/-- Move elements now: read the sources, convert under XCONV, and lay the results down. -/
def State.moveNow (s : State) (k : Nat) (ent : Entry) (opc : Nat) (f : FmtX) (p : Plan) (mvs : List Mv) (more : Bool) : Ran :=
  let s := match p.src with
    | some a => s.readSide k a.a (runsOf p.ws (mvs.filterMap (fun (m : Mv) => m.src)))
    | none => s
  let pad := match p.src with | some a => a.pad | none => 0
  let vals : List (Mv × Nat × Bool) := ((List.range mvs.length).zip mvs).map (fun e =>
    let v : Nat × Bool := match p.src, e.2.src with
      | some a, some o => s.sideBits k a.a o p.ws
      | some _, none => (field pad 0 p.ws, false)
      | none, _ => (fillBits (f.at_ != 0) f.etag.toNat p.wd e.1 (ent.x 0), false)
    (e.2, v))
  if opc = 0x186 then
    let r : Red := { op := f.op.toNat, rm := f.rm.toNat, sat := f.sat, st := p.st, dt := p.dt, ss := f.ss, sd := f.sd }
    let ps := vals.map (fun e =>
      { dst := .red p.dst.h (e.1.dst / 8) r, data := (leBytes (p.ws / 8) e.2.1).map (fun b => { v := b, bad := e.2.2 }), uid := ent.uid : Posted })
    { s := s.post k ps, need := if ps = [] then .none else .posted, ent := some ent }
  else
  let order := if p.dst.kind = 4 ∨ p.dst.kind = 5 then granuleOrder p.wd mvs else []
  if opc = 0x187 then
    let rs : List (Mv × Bool × Nat × Flags) := vals.map (fun e => (e.1, e.2.2, convEl p.st p.dt f.ss f.sd f.rm.toNat e.2.1))
    let r := s.layDown k ent opc f p.dst.a order (rs.foldl (fun (m : KMap WByte) (e : Mv × Bool × Nat × Flags) => putBits m e.1.dst p.wd e.2.2.1 e.2.1) []) more
    { r with fl := orAll (rs.map (fun e => e.2.2.2)) }
  else s.layDown k ent opc f p.dst.a order (vals.foldl (fun (m : KMap WByte) (e : Mv × Nat × Bool) => putBits m e.1.dst p.wd e.2.1 e.2.2) []) more

/-- A span cut into spans of at most 4 MiB, the most that a PULL_REQ asks for (17 R330). -/
def pullCuts (r : Nat × Nat) : List (Nat × Nat) :=
  (List.range ((r.2 + 2 ^ 22 - 1) / 2 ^ 22)).map (fun i => (r.1 + 2 ^ 22 * i, min (2 ^ 22) (r.2 - 2 ^ 22 * i)))

/-- XPULL: requests for each run of source bytes; one without any has no request, and no SEQ for its status (log 2). -/
def State.runPull (s : State) (k : Nat) (ent : Entry) (f : FmtX) (p : Plan) : Ran :=
  match s.remote? (match p.src with | some a => a.h | none => 0) with
  | none => { s := s, stop := some cEPOCH }
  | some r =>
    let reqs := p.reads.flatMap (fun r => pullCuts (byteRun r))
    if reqs = [] then
      let r := s.bump.moveNow k { ent with res := statusWord 0 (Config.freeWord s.free) } 0x18A f p p.moves false
      { r with need := .reply }
    else
      let ent := { ent with moves := p.moves, w := p.wd }
      let (s, op, n) := reqs.foldl (fun (acc : State × Option Nat × Nat) x =>
        let (s, n) := acc.1.nextSeq k
        let op := acc.2.1.getD n
        (s.sendMsg { w0 := s.msgWord0 4 r.module none k 8, w1 := wNat (n * 2 ^ 32 + op)
                     w2 := wNat (r.target * 2 ^ 32 + r.epoch * 2 ^ 16), w3 := wNat x.1, payload := leBytes 8 x.2 }, some op, n)) (s, none, 0)
      let pad := match p.src with | some a => a.pad | none => 0
      let o : RemOp := { opid := op.getD 0, cell := k, uid := ent.uid, module := r.module, epoch := r.epoch, push := false, seq := n
                         expect := reqs.length, pad := pad }
      { s := { s with fabric := { s.fabric with ops := s.fabric.ops ++ [o] } }, need := .remote (op.getD 0), ent := some ent }

/-- The host bytes that an element touches: PASID, first and last address. -/
def Plan.hostAt (p : Plan) (m : Mv) : Option (Nat × Nat × Nat) :=
  if p.dst.kind = 4 then some (p.dst.h, m.dst / 8, (m.dst + p.wd - 1) / 8)
  else match p.src with
    | some a => if a.kind = 4 then m.src.map (fun o => (a.h, o / 8, (o + p.ws - 1) / 8)) else none
    | none => none

/-- Split elements into those that go on and those that park: an element whose page has no valid translation parks, and all
later ones of a channel; once 64 granules are parked the rest stall behind them (11 R225, R227). -/
def State.splitHost (s : State) (p : Plan) (inOrder : Bool) (room : Nat) (mvs : List Mv) : List Mv × List Mv :=
  let r := mvs.foldl (fun (acc : List Mv × List Mv × NSet) m =>
    let (go, park, gs) := acc
    match p.hostAt m with
    | some (q, a, b) =>
      if s.pageOk q a && s.pageOk q b && !(inOrder && !park.isEmpty) && decide (gs.length < room) then (m :: go, park, gs)
      else (go, m :: park, nsAdd (nsAdd gs (a / 64)) (b / 64))
    | none => if inOrder && !park.isEmpty then (go, m :: park, gs) else (m :: go, park, gs)) ([], [], [])
  (r.1.reverse, r.2.1.reverse)

/-- Does a copy cross a die: a side in a buffer, in host memory, or on another die? The contexts of pushes and pulls draw no number
(17 R320; 18 R336). -/
def Plan.crosses (p : Plan) (k : Nat) : Bool :=
  let far := fun (d : XSide) (runs : List (Nat × Nat)) =>
    d.kind == 2 || d.kind == 4 || (d.kind == 3 && runs.any (fun r => chipKey (byteRun r).1 / 128 != k / 128))
  far p.dst p.writes || (match p.src with | some a => far a p.reads | none => false)

/-- A copy entry starts (11 R217 to R227). A copy to the host reads every source byte then, and its writes park; one from the host parks its
reads. -/
def State.runCopy (s : State) (k : Nat) (ent : Entry) (opc : Nat) (f : FmtX) : En Ran := do
  let p ← s.plan k ent opc f
  if opc = 0x18A then pure (s.runPull k ent f p)
  else
    let s := if opc != 0x189 && p.crosses k then s.drawFlits k else s
    let (go, park) := if p.dst.kind = 4 then (p.moves, []) else s.splitHost p (opc == 0x182) (64 - s.parkedIn k ent.uid) p.moves
    let ent := { ent with w := p.wd, moves := park }
    let s := if opc = 0x182 then
        let n := (p.writes.map (fun r => (byteRun r).2)).sum
        s.modBank k (fun b => { b with chans := vset b.chans f.ch.toNat { vget b.chans f.ch.toNat {} with fo := (vget b.chans f.ch.toNat {}).fo + n } })
      else s
    let r := s.moveNow k ent opc f p go (park != [])
    pure (if park = [] || r.stop.isSome then r else { r with need := .replay })

/-- The places that a copy entry reads and writes, and whether its writes take place at its start. XRED reads its destination too. -/
def State.copySpots (s : State) (k : Nat) (ent : Entry) (opc : Nat) (f : FmtX) : List Spot × List Spot × Bool :=
  match s.plan k ent opc f with
  | .error _ => ([], [], false)
  | .ok p =>
    ((match p.src with | some a => a.a.spots k p.reads | none => []) ++
        (if f.at_ = 0 then [] else (ent.areg f.at_).spots k [(8 * (ent.areg f.at_).ptr.toNat, 8 * (ent.areg f.at_).ptr.toNat + (if opc = 0x185 then 32 * xlen f else 384))]) ++
        (if opc = 0x186 then p.dst.a.spots k p.writes else []),
      p.dst.a.spots k p.writes, p.dst.kind == 1 && opc != 0x182)

/-- Is there room in the pending-byte counter of a window copy's target (11 R236)? -/
def State.copyRoom (s : State) (k : Nat) (ent : Entry) (opc : Nat) (f : FmtX) : Bool :=
  match s.plan k ent opc f with
  | .error _ => true
  | .ok p =>
    p.dst.kind != 3 || p.writes.all (fun r => !s.inGroup k (chipKey (byteRun r).1) || decide ((s.bank (chipKey (byteRun r).1)).pb + (byteRun r).2 < 2 ^ 32))

/-! ## Channels and streams (11 R226, R227, R230) -/

def Bank.setChan (b : Bank) (c : Nat) (f : Chan → Chan) : Bank := { b with chans := vset b.chans c (f (vget b.chans c {})) }

def State.runXchan (s : State) (k : Nat) (ent : Entry) (c : Nat) (ad : BitVec 4) : En Ran := do
  need cCHANNEL ((vget (s.bank k).chans c {}).st != .open_)
  let a := ent.areg ad
  need cBOUNDS (a.kind == 1 && a.canWrite)
  pure { s := s.modBank k (fun b => b.setChan c (fun _ => { st := .open_, bind := a })) }

def State.runXchanClose (s : State) (k c : Nat) : En Ran :=
  pure { s := s.modBank k (fun b => b.setChan c (fun x => { x with st := .closed })) }

/-- XABORT at its push: standing entries of the channel write no further byte (11 R226). -/
def State.abortChan (s : State) (k c : Nat) : State :=
  let mine := fun (e : Entry) => match e.op with | .xfer (.copy opc f) => opc == 0x182 && f.ch.toNat == c | _ => false
  let s := s.modBank k (fun b =>
    let q := b.xfer
    { b with xfer := { q with entries := q.entries.map (fun e =>
        if !mine e then e
        else if e.idle then { e with op := .xfer .idle }
        else { e with stage := .finished, need := .none, moves := [] }) } }.setChan c (fun x => { x with st := .aborted }))
  s.modCell k (fun x => { x with posted := x.posted.filter (fun p => match p.chan with | some h => h.c != c | none => true) })

def State.runXstream (s : State) (k : Nat) (ent : Entry) (i : Nat) (ar : BitVec 4) : En Ran := do
  let a := ent.areg ar
  need cBOUNDS (a.kind == 5 && a.canRemote && !(vget (s.bank k).streams i {}).open_)
  need cEPOCH (s.epochOk a)
  let m := match s.remote? a.bind.toNat with | some r => r.module | none => 0
  pure { s := s.modBank k (fun b => { b with streams := vset b.streams i ⟨true, m⟩ }) }

def State.runXstrend (s : State) (k i : Nat) : En Ran :=
  pure { s := s.modBank k (fun b => { b with streams := vset b.streams i {} }) }

/-! ## Atomics (11 R231, R232; 10 R212) -/

/-- The new word of an atomic (11 R232): opcode, width, sign, old word, operand and AMOCAS's new value. -/
def amoNew (opc w : Nat) (sg : Bool) (old v t : Nat) : Nat :=
  match opc with
  | 0x190 => (old + v) % 2 ^ w
  | 0x191 => if intOf w sg v ≤ intOf w sg old then old else v
  | 0x192 => if intOf w sg old ≤ intOf w sg v then old else v
  | 0x193 => old &&& v
  | 0x194 => old ||| v
  | 0x195 => v
  | _ => if old = v then t else old

/-- Lay bytes that start at an address over the 8 bytes of word g. -/
def patchWord (g : Nat) (old : List Byte) (a : Nat) (bs : List Byte) : List Byte :=
  (List.range 8).zipWith (fun i v => if a ≤ 8 * g + i then (bs[8 * g + i - a]?).getD v else v) old

/-- Another party notes the values that an atomic gave to bytes: the bytes beside them stay as it sees them (10 R210, R212). -/
def Bank.noteAmo (b : Bank) (a : Nat) (bs : List Byte) : Bank :=
  { b with amo := (words8 a bs.length).foldl (fun m g => kmod m g (fun o =>
      o.getD [] ++ [patchWord g (((o.getD []).getLast?).getD (b.homeBytes (8 * g) 8)) a bs])) b.amo }

/-- The party that acted sees its own value in every value of a word that it may still be shown (10 R212). -/
def Bank.ownAmo (b : Bank) (a : Nat) (bs : List Byte) : Bank :=
  { b with amo := (words8 a bs.length).foldl (fun m g =>
      match kget? m g with
      | some vs => kset m g (vs.map (fun v => patchWord g v a bs))
      | none => m) b.amo }

/-- An atomic step of cell k at the home slice: the home changes, and the cell itself sees the new bytes. -/
def State.homeAtomic (s : State) (k h off : Nat) (ws : List WByte) : State :=
  let s := (s.homePut h off ws).modBuf h (fun d => { d with written := true })
  let a := bufKey h off
  let bs := s.hbm.read a ws.length
  let s := { s with cells := s.cells.map (fun (e : Nat × Cell) =>
    (e.1, { e.2 with b := if e.1 = k then e.2.b else e.2.b.noteAmo a bs
                     suspended := e.2.suspended.map (fun (x : Suspended) => { x with bank := x.bank.noteAmo a bs }) })) }
  (s.modBank k (fun b => { b.ownAmo a bs with
    seen := kjoin b.seen a (bs.map (fun v => { v := v }))
    seenBad := (badOf a ws).foldl nsAdd b.seenBad
    ownBad := (badOf a ws).foldl kdel b.ownBad
    own := b.own.filter (fun e => !(decide (a ≤ e.1) && decide (e.1 < a + ws.length))) })).cacheTouch (s.bank k).asid h off ws.length

/-- The word at the home of a buffer, with the substitution of a TOLERANT one, and its poison (10 R208; 11 R232). -/
def State.homeWord (s : State) (h off n : Nat) : List Byte × Bool :=
  let a := bufKey h off
  let raw := s.hbm.read a n
  match s.buf? h with
  | some d =>
    let bad := fun i => nsHas s.hbmBad ((a + i) / 64)
    if d.tolerant then ((List.range n).zipWith (fun i v => if bad i then d.substByte (off + i) else v) raw, false)
    else (raw, badIn s.hbmBad a n)
  | none => (raw, badIn s.hbmBad a n)

/-- Count the substitutions of a read at the home of a TOLERANT buffer (10 R208). -/
def State.noteHome (s : State) (h off n : Nat) : State :=
  match s.buf? h with
  | some d => if d.tolerant then s.countSubst d ((granules 6 (bufKey h off) n).filter (nsHas s.hbmBad)) else s
  | none => s

/-- The on-chip address of an atomic's target. -/
def amoAddr (k : Nat) (a : AReg) : Nat := (if a.kind = 1 then padBase k else 0) + a.ptr.toNat

/-- An atomic starts: its step takes place, its reply brings the old value (11 R216, R232). -/
def State.runAmo (s : State) (k : Nat) (ent : Entry) (opc : Nat) (f : FmtA) : En Ran := do
  let a := ent.areg f.aa
  let n := if f.sz then 8 else 4
  let p := a.ptr.toNat
  let c := amoAddr k a
  need cBOUNDS (a.allows .acc && decide (p % n = 0) && a.inside p n &&
    (match a.kind.toNat with
      | 1 => s.chipOk c n && s.limitOk k a && s.storeOk c n
      | 2 => true
      | 3 => s.chipOk c n && chipRegion c == 0 && s.storeOk c n && s.windowCell k (chipKey c)
      | _ => false))
  let fin := fun (s : State) (old : Nat) => ({ s := s, need := .reply, ent := some { ent with res := wNat (intOf (8 * n) f.s old % 2 ^ 64).toNat } } : Ran)
  let new := fun old => amoNew opc (8 * n) f.s old ((ent.x 0).toNat % 2 ^ (8 * n)) ((ent.x 1).toNat % 2 ^ (8 * n))
  if a.kind = 2 then do
    let h := a.bind.toNat
    need cLEASE ((match s.buf? h with | some b => b.shared | none => true) && leaseHas (s.bank k).lease false h p n .acc)
    need cLOST (!s.lost h)
    let (bs, bad) := s.homeWord h p n
    need cPOISON (!bad)
    let old := leNat bs
    let s := (s.noteHome h p n).drawFlits k
    pure (fin (s.homeAtomic k h p ((leBytes n (new old)).map (fun b => { v := b }))) old)
  else do
    need cPOISON (!badIn s.memBad c n)
    let old := leNat (s.chipBytes c n)
    let s := if chipKey c / 128 = k / 128 then s else s.drawFlits k
    pure (fin (s.landChip c ((leBytes n (new old)).map (fun b => { v := b }))).1 old)

/-! ## Phases, fences, barriers (11 R233 to R236; 10 R209 to R213) -/

/-- Is a buffer key in a SHARED buffer? -/
def State.sharedKey (s : State) (a : Nat) : Bool := match s.buf? (a / 2 ^ 64) with | some b => b.shared | none => false

/-- The granules of stores, with their poison. -/
def pubGrans (m : KMap WByte) (bad : KMap Bool) : List PubGran :=
  (m.foldr (fun e acc => nsAdd acc (e.1 / 64)) []).map (fun g =>
    { g := g, bytes := m.filter (fun e => e.1 / 64 == g), bad := kget? bad g })

/-- The buffer stores of the phase that ends go into a publication; stores to SHARED buffers only at a group-wide boundary (10 R211). -/
def State.capture (s : State) (k : Nat) (group : Bool) (op : Option Nat) (held : Bool) : State :=
  let b := s.bank k
  let out := b.dirty.filter (fun e => group || !s.sharedKey e.1)
  if out = [] then s
  else
    let pub : Pub := { phase := b.phase, granules := pubGrans out b.dirtyBad
                       handles := out.foldr (fun e acc => nsAdd acc (e.1 / 2 ^ 64)) [], op := op, held := held }
    s.setBank k { b with
      dirty := b.dirty.filter (fun e => !(group || !s.sharedKey e.1))
      dirtyBad := b.dirtyBad.filter (fun e => !(group || !s.sharedKey (e.1 * 64)))
      pubs := b.pubs ++ [pub] }

/-- PHASE starts: the phase ends, its publication begins; in a group it first waits for the others (11 R233, R234). -/
def State.runPhase (s : State) (k : Nat) (scope : Nat) (group : Bool) : En Ran :=
  let b := s.bank k
  let many := group && decide (1 < b.gsize)
  let s := if 2 ≤ scope then s.capture k group (if group then some b.phases else none) many else s
  let s := s.modBank k (fun x => { x with phase := b.phase + 1, phases := if group then b.phases + 1 else b.phases })
  pure { s := s, need := if many then .group .phase b.phases else .publish b.phase none }

/-- The fields of a PHASE entry. -/
def phaseOf (o : QOp) : Option (Nat × Bool) :=
  match o with
  | .xfer (.phase scope group) => some (scope, group)
  | _ => none

/-- CBAR starts (11 R236). -/
def State.runCbar (s : State) (k : Nat) : En Ran :=
  let b := s.bank k
  let s := s.setBank k { b with cbars := b.cbars + 1 }
  pure { s := s, need := if b.gsize = 1 then .pending else .group .cbar b.cbars }

/-- The buffers that a speculative run may read. -/
def Bank.readable (b : Bank) : List Nat :=
  if b.spec then (b.lease.filter (fun (e : LeaseEnt) => !e.host && e.mode == .r)).map (fun (e : LeaseEnt) => e.h) else []

/-- The cell takes a new snapshot, and so do its constant windows (10 R210; 02 R28); a speculative run keeps the VERSIONs in it (13 R275). -/
def State.snapshot (s : State) (k : Nat) : State :=
  let s := s.modBank k (fun b => { b with
    snap := s.hbm, snapBad := s.hbmBad, seen := [], seenBad := [], amo := [], readVers := s.versOf b.readable })
  s.modBank k (fun b => { b with e := s.resnap k b.e, v := s.resnap k b.v, x := s.resnap k b.x })

/-- Have the posted writes of entries before uid reached the point of a scope (10 R213; 11 R235)? -/
def State.drained (s : State) (k uid scope : Nat) : Bool :=
  !(s.cell k).posted.any (fun p => !p.mcast && decide (p.uid < uid) &&
    (match p.dst with
      | .chip a => chipKey a == k || decide (1 ≤ scope)
      | .out a => chipKey a == k || decide (1 ≤ scope)
      | .red _ _ _ => decide (2 ≤ scope)
      | .host _ _ => scope == 3))

/-- Has the publication of a started PHASE entry of cell k completed (11 R233)? -/
def State.published (s : State) (k : Nat) (ent : Entry) (phase : Nat) : Bool :=
  (s.bank k).pubs.all (fun p => decide (phase < p.phase)) &&
    (match phaseOf ent.op with
      | some (scope, _) => (scope != 1 || s.drained k ent.uid 1) && (scope != 3 || s.drained k ent.uid 3)
      | none => true)

/-- Has rank r of cell k's group completed the publication of its n-th PHASE .group (11 R234)? -/
def State.rankPublished (s : State) (k r n : Nat) : Bool :=
  let j := s.rankCell k r
  !s.peer k j || (s.bank j).xfer.entries.all (fun e => match e.need with
    | .publish p (some m) => m != n || s.published j e p
    | .group .phase m => m != n
    | _ => true)

/-- Is what a started entry waits for there? -/
def State.needMet (s : State) (k : Nat) (ent : Entry) : Bool :=
  match ent.need with
  | .drain scope => s.drained k ent.uid scope
  | .pending => (s.bank k).pb == 0
  | .publish p op =>
    s.published k ent p && (match op with
      | some n => (List.range (s.bank k).gsize).all (fun r => s.rankPublished k r n)
      | none => true)
  | _ => false

/-- The bytes of a granule reach the home (10 R209). -/
def State.putGran (s : State) (g : PubGran) (asid : Nat) : State :=
  let h := g.g * 64 / 2 ^ 64
  match s.buf? h with
  | none => s
  | some _ =>
    let s := g.bytes.foldl (fun s e => { s with hbm := s.hbm.merge e.1 [e.2] }) s
    let s := match g.bad with
      | some true => { s with hbmBad := nsAdd s.hbmBad g.g }
      | some false => { s with hbmBad := nsDel s.hbmBad g.g }
      | none => s
    s.cacheTouch asid h (g.g * 64 % 2 ^ 64) 64

/-- VERSION of a buffer rises by 1 (10 R209). -/
def State.bumpVersion (s : State) (h : Nat) : State := s.modBuf h (fun b => { b with version := (b.version + 1) % 2 ^ 64 })

/-- The buffer of a Block tag that a handle names or is the companion of, and whether it is the companion (10 R196). -/
def State.mxBuf (s : State) (h : Nat) : Option (Buf × Bool) :=
  match (s.buf? h).filter (fun b => isBlock b.tag.toNat && b.companion != 0) with
  | some b => some (b, false)
  | none =>
    ((s.bufs.find? (fun e => e.2.companion == h && h != 0 && isBlock e.2.tag.toNat &&
      decide (0xF00000 ≤ e.1) == decide (0xF00000 ≤ h % 2 ^ 24))).map (·.2)).map (fun b => (b, true))

/-- The buffer and the number of the companion's granule, by which a granule of an MX buffer or of its companion belongs together: the
scales of 64 blocks. -/
def State.mxUnit (s : State) (g : Nat) : Option (Nat × Nat × Bool) :=
  (s.mxBuf (g * 64 / 2 ^ 64)).map (fun p =>
    (p.1.handle, if p.2 then g * 64 % 2 ^ 64 / 64 else g * 64 % 2 ^ 64 / (256 * tagBits p.1.tag.toNat), p.2))

/-- Do two granules of a publication complete at one instant, since they hold parts of one MX block and its scale (10 R214; 06 R113)? The
scales' granule ties the blocks that it serves; 6-bit blocks of 24 bytes tie the three granules of a run of eight. -/
def State.tied (s : State) (gs : List PubGran) (g g' : Nat) : Bool :=
  g == g' || (match s.mxUnit g, s.mxUnit g' with
    | some (h, u, c), some (h', u', c') =>
      h == h' && u == u' &&
        (gs.any (fun x => s.mxUnit x.g == some (h, u, true)) ||
          (!c && !c' && (s.buf? h).any (fun b => tagBits b.tag.toNat == 6) && g * 64 % 2 ^ 64 / 192 == g' * 64 % 2 ^ 64 / 192))
    | _, _ => false)

/-- PUBLICATION_COMPLETE: a granule of the cell's oldest publication completes with those that belong to it, and with the last one the
publication (10 R209, R214). -/
def execPublicationComplete (k i : Nat) (s : State) : Out :=
  .next (
    let b := s.bank k
    match b.pubs with
    | [] => s
    | p :: rest =>
      if p.held then s
      else match p.granules[i]? with
        | none => s
        | some g =>
          let s := (p.granules.filter (fun x => s.tied p.granules g.g x.g)).foldl (fun s x => s.putGran x b.asid) s
          let left := p.granules.filter (fun x => !s.tied p.granules g.g x.g)
          if left = [] then
            let s := p.handles.foldl State.bumpVersion s
            s.modBank k (fun b => { b with pubs := rest })
          else s.modBank k (fun b => { b with pubs := { p with granules := left } :: rest }))

/-! ## Posted writes land (11 R216, R245) -/

/-- A posted write that holds an entry back lands: with its last one the entry is answered. -/
def State.pieceDone (s : State) (k uid : Nat) (fl : Flags) : State :=
  let last := !(s.cell k).posted.any (fun p => p.uid == uid)
  let fix := fun (e : Entry) =>
    if e.uid = uid then
      let e := { e with flags := e.flags ||| fl.word }
      if last && e.need == .posted then { e with stage := .finished, need := .none } else e
    else e
  s.modBank k (fun b => { b with
    xfer := { b.xfer with entries := b.xfer.entries.map fix }, prim := { b.prim with entries := b.prim.entries.map fix } })

/-- Must a write to an on-chip address wait for piece q, which stands before it (11 R216, R227; 12 R245)? -/
def Posted.holdsBack (q p : Posted) (a : Nat) : Bool :=
  match q.dst.chip? with
  | some b => !(p.mcast || q.mcast || chipKey a != chipKey b || (q.uid == p.uid && q.chan.isNone))
  | none => false

/-- May piece p land, the pieces before it in the list still waiting (11 R216, R225, R227; 12 R245)? -/
def State.mayLand (s : State) (p : Posted) (before : List Posted) : Bool :=
  match p.dst with
  | .chip a => before.all (fun q => !q.holdsBack p a)
  | .out a => before.all (fun q => !q.holdsBack p a)
  | .host pasid a =>
    !p.parked && before.all (fun q => !meet q.spots p.spots) &&
      s.host.trans.any (fun t => t.pasid == pasid && t.page == a / 4096 && (t.valid || t.inval))
  | .red _ _ _ => before.all (fun q => q.uid == p.uid || !meet q.spots p.spots)

/-- The write pointer advances after a piece of a channel (11 R227). -/
def Bank.advanceWp (b : Bank) (h : ChanPart) : Bank :=
  let b' := b.setChan h.c (fun c =>
    if c.st = .open_ then { c with wp := max c.wp (if h.last then h.upTo else h.upTo / 64 * 64) } else c)
  if (vget b'.chans h.c {}).wp = (vget b.chans h.c {}).wp then b' else b'.note

/-- A piece of entry uid of cell k lands on chip; a signal that finds no room stops the queue (10 R192). -/
def State.landPiece (s : State) (k a : Nat) (p : Posted) : State :=
  let (s, ok) := s.landChip a p.data
  let s := if p.chan.isNone && !p.mcast && p.dst == .chip a then s.modBank (chipKey a) (fun b => { b with pb := b.pb - p.data.length }) else s
  let s := match p.chan with | some h => s.modBank k (fun b => b.advanceWp h) | none => s
  let s := if p.mcast then s else s.pieceDone k p.uid {}
  if ok then s else s.stopQueue k .transfer cSEMRANGE (some p.uid)

/-- POSTED_WRITE_LAND: piece i of a cell's posted writes reaches its destination. -/
def execPostedWriteLand (k i : Nat) (s : State) : Out :=
  .next (
    match (s.cell k).posted[i]? with
    | none => s
    | some p =>
      if !s.mayLand p ((s.cell k).posted.take i) then s
      else
        let s := s.modCell k (fun c => { c with posted := c.posted.eraseIdx i })
        s.onPusher k p.uid (fun s => match p.dst with
        | .chip a => s.landPiece k a p
        | .out a => s.landPiece k a p
        | .host pasid a => ({ s with hostMem := s.hostMem.merge (hostKey pasid a) p.data } : State).pieceDone k p.uid {}
        | .red h off r =>
          let n := tagBits r.dt / 8
          let (old, bad) := s.homeWord h off n
          let s := s.noteHome h off n
          let (v, fl) := r.step (leNat old) (leNat (p.data.map (·.v)))
          let bad := bad || p.data.any (·.bad)
          (s.homeAtomic k h off ((leBytes n v).map (fun b => { v := b, bad := bad }))).pieceDone k p.uid fl))

/-- What an entry that has parked reads can replay now: its plan, the elements that go on, and those that stay parked (11 R225). -/
def State.replayable (s : State) (k : Nat) (ent : Entry) : Option (Nat × FmtX × Plan × List Mv × List Mv) :=
  match ent.need, ent.op with
  | .replay, .xfer (.copy opc f) =>
    let dst := if opc = 0x182 then (vget (s.bank k).chans f.ch.toNat {}).bind else ent.areg f.ad
    match s.side dst, s.side (ent.areg f.as) with
    | .ok d, .ok a =>
      let p : Plan := { src := some a, dst := d, st := 0, dt := 0, ws := ent.w, wd := ent.w, moves := ent.moves }
      let r := s.splitHost p (opc == 0x182) (64 - s.parkedIn k ent.uid) ent.moves
      if r.1 = [] then none else some (opc, f, p, r.1, r.2)
    | _, _ => none
  | _, _ => none

/-- Entries whose host writes have all left the replay queue have no more to wait for. -/
def State.replayed (s : State) (k : Nat) : State :=
  s.modBank k (fun b => { b with xfer := { b.xfer with entries := b.xfer.entries.map (fun e =>
    if e.need = .replay ∧ e.moves = [] ∧ (s.cell k).parks e.uid = false ∧ b.xfer.culprit ≠ some e.uid then
      { e with stage := .finished, need := .none } else e) } })

/-- REPLAY_RELEASE: parked elements whose pages have translations replay in order, the reads of one entry or the host writes (11 R225). -/
def execReplayRelease (k : Nat) (s : State) : Out :=
  .next (
    match (s.bank k).xfer.entries.findSome? (fun e => (s.replayable k e).map (fun r => (e, r))) with
    | none => (s.siftHost k (·.parked)).replayed k
    | some (ent, opc, f, p, go, park) =>
      let ent := { ent with moves := park }
      let r := s.moveNow k ent opc f p go (park != [])
      let r := if park = [] || r.stop.isSome then r else { r with need := .replay }
      let r := if r.need = .none && (r.s.cell k).posted.any (fun q => q.uid == ent.uid && q.chan.isSome) then { r with need := .posted } else r
      s.started k .transfer ent (.ok r))

/-- The PASID of the host side of a copy. -/
def Entry.pasid (e : Entry) (f : FmtX) : Nat := (if (e.areg f.ad).kind = 4 then e.areg f.ad else e.areg f.as).bind.toNat

/-- The host pages that an entry's parked writes wait for. -/
def Cell.parkedPages (c : Cell) (uid : Nat) : List (Nat × Nat) :=
  ((c.posted.filter (fun p => p.parked && p.uid == uid)).filterMap (fun p => match p.dst with | .host q a => some (q, a / 4096) | _ => none)).eraseDups

/-- The parked host writes of an entry are given up: their page requests are answered, and they land no more. -/
def State.dropParked (s : State) (k uid : Nat) : State :=
  ((s.cell k).parkedPages uid).foldl (fun (s : State) p => s.pageAnswered p.1 p.2)
    (s.modCell k (fun c => { c with posted := c.posted.filter (fun p => !(p.parked && p.uid == uid)) }))

/-- HOST_PAGE_REFUSED: the entry stops; what landed remains (11 R225). Its page requests are answered. Writes before a poisoned granule, whose
entry has already stopped, only go. -/
def execHostPageRefused (k : Nat) (s : State) : Out :=
  .next (
    match (s.bank k).xfer.entries.find? (fun e => e.need == .replay) with
    | none =>
      match (s.cell k).posted.find? (·.parked) with
      | some p => s.dropParked k p.uid
      | none => s
    | some ent =>
      let s := ent.late.foldl (fun s l => s.bufPutW k l.h l.off l.data) s
      let s := match ent.op with
        | .xfer (.copy _ f) => ((ent.parked.map (· / 64)).eraseDups).foldl (fun (s : State) p => s.pageAnswered (ent.pasid f) p) s
        | _ => s
      let s := (s.dropParked k ent.uid).modBank k (fun b => b.putEntry .transfer { ent with late := [], moves := [] })
      s.stopQueue k .transfer cHOST (some ent.uid))

/-! ## The instructions (11 R218, R226, R230, R231, R233 to R236) -/

def execXcopy (f : FmtX) (s : State) : Out := transfer s f.g f.q (.copy 0x180 f) [] none false noAct
def execXcopyw (f : FmtX) (s : State) : Out := transfer s f.g f.q (.copy 0x181 f) [] none false noAct
def execXcopyc (f : FmtX) (s : State) : Out := transfer s f.g f.q (.copy 0x182 f) [] none false noAct
def execXcopyh (f : FmtX) (s : State) : Out := transfer s f.g f.q (.copy 0x183 f) [] none ((s.fcore.areg f.ad).kind == 4) noAct
def execXfill (f : FmtX) (s : State) : Out := transfer s f.g f.q (.copy 0x184 f) [f.xs] none false noAct
def execXgath (f : FmtX) (s : State) : Out := transfer s f.g f.q (.copy 0x185 f) [] none false noAct
def execXred (f : FmtX) (s : State) : Out := transfer s f.g f.q (.copy 0x186 f) [] none false noAct
def execXconv (f : FmtX) (s : State) : Out := transfer s f.g f.q (.copy 0x187 f) [] none false noAct
def execXlayout (f : FmtX) (s : State) : Out := transfer s f.g f.q (.copy 0x188 f) [] none false noAct
def execXpush (f : FmtX) (s : State) : Out := transfer s f.g f.q (.copy 0x189 f) [] (some f.xs) true noAct
def execXpull (f : FmtX) (s : State) : Out := transfer s f.g f.q (.copy 0x18A f) [] (some f.xs) false noAct

def execXstream (g : Guard) (q : Eng) (k : BitVec 3) (ar : BitVec 4) (s : State) : Out :=
  transfer s g q (.xstream k.toNat ar) [] none true noAct
def execXstrend (g : Guard) (q : Eng) (k : BitVec 3) (s : State) : Out := transfer s g q (.xstrend k.toNat) [] none false noAct

/-- An instruction that writes X register xd at its push (11 R215). -/
def atPush (s : State) (g : Guard) (q : Eng) (xd : BitVec 5) (v : State → Word) : Out :=
  guarded 2 g s (fun s => do
    let _ ← s.fcore.lateX xd 0 false
    let t ← s.pushTo .transfer q (.xfer .idle) [] none 0 false noAct
    let r ← t.fcore.lateX xd (v s) false
    pure (t.putCore r))

def execXwptr (g : Guard) (q : Eng) (xd : BitVec 5) (c : BitVec 4) (s : State) : Out :=
  atPush s g q xd (fun s =>
    let c := vget (s.bank s.fk).chans c.toNat {}
    if c.st = .open_ then wNat c.wp else BitVec.allOnes 64)

def execXchan (g : Guard) (q : Eng) (c : BitVec 4) (ad : BitVec 4) (s : State) : Out :=
  transfer s g q (.xchan c.toNat ad) [] none false noAct
def execXchanClose (g : Guard) (q : Eng) (c : BitVec 4) (s : State) : Out := transfer s g q (.xchanClose c.toNat) [] none false noAct
def execXabort (g : Guard) (q : Eng) (c : BitVec 4) (s : State) : Out :=
  transfer s g q .idle [] none false (fun _ s => s.abortChan s.fk c.toNat)

def amo (opc : Nat) (f : FmtA) (s : State) : Out := transfer s f.g f.q (.amo opc f) [f.xs] (some f.xd) true noAct

def execAmoadd (f : FmtA) (s : State) : Out := amo 0x190 f s
def execAmomax (f : FmtA) (s : State) : Out := amo 0x191 f s
def execAmomin (f : FmtA) (s : State) : Out := amo 0x192 f s
def execAmoand (f : FmtA) (s : State) : Out := amo 0x193 f s
def execAmoor (f : FmtA) (s : State) : Out := amo 0x194 f s
def execAmoxch (f : FmtA) (s : State) : Out := amo 0x195 f s
def execAmocas (f : FmtA) (s : State) : Out := transfer s f.g f.q (.amo 0x196 f) [f.xs, f.xt] (some f.xd) true noAct

def execPhase (g : Guard) (q : Eng) (scope : BitVec 2) (group : Bool) (s : State) : Out :=
  transfer s g q (.phase scope.toNat group) [] none false noAct
def execFence (g : Guard) (q : Eng) (scope : BitVec 2) (s : State) : Out := transfer s g q (.fence scope.toNat) [] none false noAct
def execCbar (g : Guard) (q : Eng) (s : State) : Out := transfer s g q .cbar [] none false noAct
def execXpend (g : Guard) (q : Eng) (xd : BitVec 5) (s : State) : Out :=
  atPush s g q xd (fun s => wNat (s.bank s.fk).pb)

end Sys2Proof.Machine
end

