-- ==== Sys2Proof/Machine/Buffer.lean ====
section
/-! DEFINITION. Buffers and references: templates, allocation, holdings, and event records (10 R194 to R199; 11 R237, R238;
13 R272; 17 R326). -/

namespace Sys2Proof.Machine

/-! ## Descriptors (10 R195, R197; 11 R237) -/

/-- Word i of a list. -/
def wordAt (l : List Word) (i : Nat) : Nat := ((l[i]?).getD 0).toNat

/-- A template: the descriptor that it asks for, or none for a bad one (11 R237). -/
def parseTemplate (w : List Word) : Option Buf :=
  let w0 := wordAt w 0
  let w6 := wordAt w 6
  let nd := field w0 10 2
  let dim := fun k => if k ≤ nd then field (wordAt w (1 + k / 2)) (32 * (k % 2)) 32 else 1
  let tag := field w0 16 5
  let gs := field w0 12 2
  let layout := field w0 8 2
  let perm := field w6 40 8
  let b : Buf := {
    handle := 0, tag := BitVec.ofNat 5 tag, gs := BitVec.ofNat 2 gs, ndim := nd, layout := layout, shared := bitOf w0 7,
    tolerant := bitOf w0 6, subnan := bitOf w0 5, cpol := field w0 2 2,
    dims := Vector.ofFn (fun i => dim i.val), pad := wNat (wordAt w 3), homes := BitVec.ofNat 16 (w6 / 2 ^ 48),
    perm := BitVec.ofNat 8 perm, th := field w6 36 4, tw := field w6 32 4, granules := 0 }
  let clean := field w0 32 32 == 0 && field w0 21 11 == 0 && field w0 14 2 == 0 && !bitOf w0 4 && field w0 0 2 == 0 &&
    wordAt w 4 == 0 && wordAt w 5 == 0 && field w6 0 32 == 0 && wordAt w 7 == 0
  let ok := clean && 1 ≤ tag && tag ≤ 17 && layout != 3 && (List.range (nd + 1)).all (fun k => dim k != 0) &&
    gs != 3 && (gs == 0 || tag == 16 || tag == 17) &&
    (layout != 1 || (dim 0 % 2 ^ b.tw == 0 && dim 1 % 2 ^ b.th == 0)) &&
    (layout != 2 || (List.range (nd + 1)).all (fun k => (List.range (nd + 1)).any (fun j => field perm (2 * j) 2 == k)))
  if ok then some { b with granules := (b.bytes + 4095) / 4096 } else none

/-- The companion of a buffer of a class-X tag: one byte per block or four per group (10 R196). The spec gives its other
fields no value: it takes TAG INT8 and the SHARED, TOLERANT and CPOL of its buffer. -/
def Buf.companionOf (b : Buf) : Option Buf :=
  let e := b.elems
  let n := if isBlock b.tag.toNat then some ((e + 31) / 32)
    else if isQ b.tag.toNat then some (4 * ((e + unitSize b.tag.toNat b.gs.toNat - 1) / unitSize b.tag.toNat b.gs.toNat)) else none
  n.map (fun n => { b with
    tag := 8, gs := 0, ndim := 0, layout := 0, subnan := false, dims := #v[n, 1, 1, 1], pad := 0, perm := 0, th := 0, tw := 0
    granules := (n + 4095) / 4096 })

/-- The eight words of a descriptor (10 R195). -/
def Buf.words (b : Buf) : List Word :=
  let st := match b.st with | .free => 0 | .live => 1 | .lost => 2 | .evacuating => 3
  [wNat (b.handle * 2 ^ 32 + st * 2 ^ 24 + b.tag.toNat * 2 ^ 16 + b.gs.toNat * 2 ^ 12 + b.ndim * 2 ^ 10 + b.layout * 2 ^ 8 +
      b.shared.toNat * 128 + b.tolerant.toNat * 64 + b.subnan.toNat * 32 + b.cpol * 4),
    wNat (b.dim 1 * 2 ^ 32 + b.dim 0), wNat (b.dim 3 * 2 ^ 32 + b.dim 2), b.pad, wNat (b.refcnt * 2 ^ 32), wNat b.version,
    wNat (b.homes.toNat * 2 ^ 48 + b.perm.toNat * 2 ^ 40 + b.th * 2 ^ 36 + b.tw * 2 ^ 32),
    wNat (b.companion * 2 ^ 32 + b.granules)]

/-! ## Allocation (10 R194; 11 R237) -/

/-- The stacks of the population that are online, as bits of HOMES. -/
def State.onlineStacks (s : State) : List Nat :=
  (List.range 16).filter (fun i => s.cls (( 32 + i) * 128) == 7 && (s.die (32 + i)).st == 0)

/-- Granules of a stack: 64 GB, less its part of the Grotto (00; 13 R277). -/
def stackGranules (p : Config.Pop) : Nat :=
  15625000 - (match p with | .l => 65536 | .m => 87382 | .s => 131072)

/-- Granules of a buffer on stack i of a set of stacks over which it is spread. -/
def Buf.partOn (b : Buf) (hs : BitVec 16) (i : Nat) : Nat :=
  let n := ((List.range 16).filter hs.getLsbD).length
  if hs.getLsbD i then (b.granules + n - 1) / n else 0

/-- Granules of a stack in use, those that evacuations keep among them (17 R334). -/
def State.stackUsed (s : State) (i : Nat) : Nat :=
  (s.bufs.map (fun e => if e.1 < 0xF00000 then max (e.2.partOn e.2.homes i) (e.2.partOn e.2.toHomes i) else 0)).sum

/-- The stacks that a buffer is placed on: those it names, or where it names none every online one (the spec leaves it to the
scheduler); none where one of them is not online or is full. -/
def State.placeOn (s : State) (b : Buf) : Option (BitVec 16) :=
  let on := s.onlineStacks
  let hs := if b.homes = 0 then on else b.homeList
  let part := (b.granules + hs.length - 1) / hs.length
  if hs != [] && hs.all (fun i => on.contains i && decide (s.stackUsed i + part + (s.stack (32 + i)).gone ≤ stackGranules s.pop)) then
    some (BitVec.ofNat 16 (hs.map (2 ^ ·)).sum)
  else none

/-- Is an index taken by a buffer or a remote handle (10 R194; 17 R331)? -/
def State.indexUsed (s : State) (i : Nat) : Bool :=
  (kget? s.bufs i).isSome || s.fabric.remote.any (fun e => e.1 % 2 ^ 24 == i)

/-- A free index of [lo, lo + n): which one is not defined (10 R194). -/
def State.freeIndex (s : State) (lo n : Nat) : Option Nat :=
  let c := Config.freeWord s.free
  ((List.range (s.bufs.length + s.fabric.remote.length + 1)).map (fun i => lo + (c + i) % n)).find? (fun i => !s.indexUsed i)

/-- The handle of an index in its present generation. -/
def State.handleAt (s : State) (i : Nat) : Nat := kget 0 s.genOf i * 2 ^ 24 + i

/-- Enter a descriptor. -/
def State.enterBuf (s : State) (i : Nat) (b : Buf) : State :=
  { s with bufs := kset s.bufs i { b with handle := s.handleAt i } }

/-- Allocate a buffer and its companion for a template: the status of 11 R237 and the handle. -/
def State.alloc (s : State) (w : List Word) : State × Nat × Nat :=
  match parseTemplate w with
  | none => (s, 2, 0)
  | some b =>
    match s.placeOn b with
    | none => (s, 1, 0)
    | some hs =>
      match s.freeIndex 1 0xEFFFFF with
      | none => (s.bump, 3, 0)
      | some i =>
        let h := s.handleAt i
        let t := s.bump.enterBuf i { b with homes := hs }
        match b.companionOf with
        | none => (t, 0, h)
        | some c =>
          match t.placeOn { c with homes := hs } with
          | none => (s.bump, 1, 0)
          | some _ =>
            match t.freeIndex 1 0xEFFFFF with
            | none => (s.bump, 3, 0)
            | some j =>
              let u := t.bump.enterBuf j { c with homes := hs }
              (u.modBuf h (fun x => { x with companion := t.handleAt j }), 0, h)

/-! ## References and holdings (10 R199; 13 R272) -/

/-- The rights that an ASID holds on a handle: by its holdings, or for a companion by those of its buffer. -/
def State.held (s : State) (a h : Nat) : BitVec 5 :=
  match kget? (s.asid a).holdings h with
  | some p => p.2
  | none =>
    match s.bufs.find? (fun e => e.2.companion == h && h != 0 && (kget? (s.asid a).holdings e.2.handle).isSome) with
    | some e => (kget (0, 0) (s.asid a).holdings e.2.handle).2
    | none => 0

/-- An ASID holds one more reference, with the union of the rights (13 R272). -/
def State.hold (s : State) (a h : Nat) (r : BitVec 5) : State :=
  s.modAsid a (fun x =>
    let p := kget (0, 0) x.holdings h
    { x with holdings := kset x.holdings h (p.1 + 1, p.2 ||| r) })

/-- An ASID gives up one holding; a remote handle leaves the table when its last holding goes (17 R331). -/
def State.unhold (s : State) (a h : Nat) : State :=
  let p := kget (0, 0) (s.asid a).holdings h
  let s := s.modAsid a (fun x => { x with holdings := if p.1 ≤ 1 then kdel x.holdings h else kset x.holdings h (p.1 - 1, p.2) })
  match s.remote? h with
  | some _ =>
    if s.sched.asids.any (fun e => (kget? e.2.holdings h).isSome) then s
    else { s with fabric := { s.fabric with remote := kdel s.fabric.remote h }
                  genOf := kset s.genOf (h % 2 ^ 24) ((kget 0 s.genOf (h % 2 ^ 24) + 1) % 256) }
  | none => s.dropRef h

/-- Drop every holding of an ASID (15 R303). -/
def State.dropHoldings (s : State) (a : Nat) : State :=
  (s.asid a).holdings.foldl (fun s e => (List.range e.2.1).foldl (fun s _ => s.unhold a e.1) s) s

/-! ## Event records (17 R326) -/

/-- Draw the next sequence number of the scheduler die: the counter holds the number last drawn (17 R320; 18 R336, R338). -/
def State.schedSeq (s : State) : State × Nat :=
  let n := (s.sched.seq + 1) % 2 ^ 32
  ({ s with sched := { s.sched with seq := n } }, n)

/-- Post a record to an ASID's ring: it waits its turn. -/
def State.postRecord (s : State) (a gen vec : Nat) (payload : Word) (seq : Nat) (src : Option (Nat × Nat)) : State :=
  s.modAsid a (fun x => { x with waiting := x.waiting ++
    [{ words := [wNat (seq % 2 ^ 32 * 2 ^ 32 + gen % 16 * 2 ^ 12 + a % 4096), wNat vec, payload], src := src }] })

/-- A record that the device posts. -/
def State.deviceRecord (s : State) (a vec : Nat) (payload : Word) : State :=
  let (s, n) := s.schedSeq
  s.postRecord a (s.asid a).gen vec payload n none

/-! ## Replies to the host (17 R325) -/

def State.setHost (s : State) (f : HostLink → HostLink) : State := { s with host := f s.host }

/-- A reply leaves the module. -/
def State.reply (s : State) (r : Reply) : State := s.setHost (fun h => { h with replies := h.replies ++ [r] })

/-- The request block of BAR0 after a request with a code, and ASID and generation where the request names them: STATUS and the first
fifteen result words; what its other words then hold is open (17 R325; log 2). The doorbell served is the oldest one rung. -/
def State.writeMail (s : State) (code : Nat) (ag : Option Nat) (status : Nat) (ws : List Word) : State :=
  let rest := (List.range 16).map (fun i => wNat (Config.freeWord (s.free + i)))
  let w0 := wNat (code % 256 * 2 ^ 56 + status % 256 * 2 ^ 48 + ag.getD (Config.freeWord s.free % 2 ^ 16) % 2 ^ 16)
  ({ s with free := s.free + 16 } : State).setHost (fun h => { h with
    rung := h.rung.drop 1
    mail := Vector.ofFn (fun i => if i.val = 0 then w0 else ((ws ++ rest.drop ws.length)[i.val - 1]?).getD 0) })

/-- A request is answered: its block is written, and all its results reach the host (log 85). -/
def State.answerMail (s : State) (code : Nat) (ag : Option Nat) (status : Nat) (ws : List Word) : State :=
  (s.writeMail code ag status ws).reply (.mailbox code status ws)

/-- The host sees an error reported by AER (17 R322). -/
def State.raiseAer (s : State) : State := (s.setHost (fun h => { h with aer := h.aer + 1 })).reply .aer

end Sys2Proof.Machine
end

