-- ==== Sys2Proof/Machine/VMem.lean ====
section
/-! DEFINITION. The vector instructions: reductions, permutes, loads and stores, ports (07 R146 to R152). -/

namespace Sys2Proof.Machine

/-! ## Reductions and scans (07 R146) -/

/-- The exact sum of values, its zero signed as IEEE 754 addition signs it over the terms (07 R146). A NaN among the terms gives NaN, with INV
only where it signals, infinities of both signs beside it or not (DESIGN CHOICE, log 90). -/
def sumF (down : Bool) (vs : List Fp) : Fp × Flags :=
  match vs with
  | [] => (.fin 0 false, {})
  | v :: rest =>
    if vs.any Fp.isNaN then (.nan false, { inv := vs.any Fp.isSig })
    else rest.foldl (fun acc x =>
      let (r, fl) := Fp.add down acc.1 x
      let r := if acc.1.isNaN then .nan false else r
      (r, { inv := acc.2.inv || (fl.inv && !acc.1.isNaN) })) (v, {})

/-- The largest or smallest of values (04 R63). -/
def extremeF (larger : Bool) (vs : List Fp) : Fp × Flags :=
  match vs with
  | [] => (.fin 0 false, {})
  | v :: rest =>
    let (r, fl) := rest.foldl (fun acc x =>
      let (r, fl) := Fp.minmax larger acc.1 x
      (r, acc.2.or fl)) (v, ({} : Flags))
    (r, fl.or { inv := v.isSig })

/-- A reduction to element 0 of a result tag: the class-F value and its format's tag, or the class-I pattern and tag.
Only a sum can saturate: the largest and the smallest are elements. -/
def reduce (f : FmtV) (s : State) (sat : Bool) (ff : Bool → List Fp → Fp × Flags) (ft : Nat → Nat) (fi : Nat → List Nat → Nat)
    (it : Nat → Nat) : Out :=
  vector s (fun s => do
    let a := s.opnd f.a
    ofClass clsFI a
    if isI a.tag ∧ f.rm ≠ 0 then mismatch a else pure ()
    let en := s.enabled f.g a.tag (elemCount a.tag)
    if en = [] then pure s
    else do
      let nd := a.need en
      s.checkPorts [nd]
      let bad := en.any a.elBad
      let s := s.popPorts [nd]
      if isF a.tag then
        let tag := ft a.tag
        let (rs, g) := rounding (modeOf f.rm s.fcore.status) id [0] s.unit.gens (fun m _ =>
          let (v, fl) := ff (m == .rdn) (en.map (fun i => (fmtOf a.tag).value (a.el i)))
          let (p, fl2) := (fmtOf tag).result m sat v
          (p, fl.or fl2))
        let (p, fl) := ((rs.head?).map (·.2)).getD (0, {})
        let s := s.setUnit { s.unit with gens := g }
        let ws := (List.range (elemCount tag)).map (fun i => if i = 0 then (0, p, bad) else (i, 0, false))
        pure ((s.vput f.d tag ws .zero).vflag fl)
      else
        let tag := it a.tag
        let p := fi a.w (en.map a.el)
        let ws := (List.range (elemCount tag)).map (fun i => if i = 0 then (0, p, bad) else (i, 0, false))
        pure (s.vput f.d tag ws .zero))

/-- The pattern of the largest or smallest integer. -/
def extremeI (larger signed : Bool) (w : Nat) (ps : List Nat) : Nat :=
  match ps with
  | [] => 0
  | p :: rest => rest.foldl (fun m x =>
      let a := intOf w signed m
      let b := intOf w signed x
      if (if larger then a < b else b < a) then x else m) p

def execVredAdd (f : FmtV) (s : State) : Out :=
  reduce f s f.sat sumF (fun _ => 1) (fun w ps => patOf 64 ((ps.map (intOf w f.sa)).sum)) (fun _ => 18)
def execVredMax (f : FmtV) (s : State) : Out :=
  reduce f s false (fun _ => extremeF true) id (extremeI true f.sa) id
def execVredMin (f : FmtV) (s : State) : Out :=
  reduce f s false (fun _ => extremeF false) id (extremeI false f.sa) id

/-- The prefixes of a list that end at each element. -/
def prefixes {α : Type} : List α → List α → List (List α)
  | _, [] => []
  | pre, x :: l => (pre ++ [x]) :: prefixes (pre ++ [x]) l

/-- VSCAN.ADD: the rounded sums of the enabled elements up to each. -/
def execVscanAdd (f : FmtV) (s : State) : Out :=
  vector s (fun s => do
    let a := s.opnd f.a
    ofClass clsFI a
    if isI a.tag ∧ f.rm ≠ 0 then mismatch a else pure ()
    let en := s.enabled f.g a.tag (elemCount a.tag)
    if en = [] then pure s
    else do
      let nd := a.need en
      s.checkPorts [nd]
      let md := if isF a.tag then modeOf f.rm s.fcore.status else some .rne
      let pre := (prefixes [] en).map (fun l => ((l.getLast?).getD 0, l))
      let upTo := fun i => ((pre.find? (fun e => e.1 == i)).map (·.2)).getD []
      let (rs, g) := rounding md (fun i => i % 256) en s.unit.gens (fun m i =>
        if isF a.tag then
          let fm := fmtOf a.tag
          let (v, fl) := sumF (m == .rdn) ((upTo i).map (fun j => fm.value (a.el j)))
          let (p, fl2) := fm.result m f.sat v
          (p, fl.or fl2)
        else wrapI f a.w (((upTo i).map (fun j => intOf a.w f.sa (a.el j))).sum))
      let ws := rs.map (fun e => (e.1, e.2.1, (upTo e.1).any a.elBad))
      let s := s.popPorts [nd]
      let s := s.setUnit { s.unit with gens := g }
      pure ((s.vput f.d a.tag ws .zero).vflag (orAll (rs.map (fun e => e.2.2)))))

/-! ## Permutes (07 R147) -/

/-- Write enabled element i from element src i of one of two sources (false A, true B). -/
def State.permute (s : State) (f : FmtV) (a b : Opnd) (en : List Nat) (src : Nat → Bool × Nat) (more : List Need1) : M State := do
  let nA := a.need ((en.filter (fun i => !(src i).1)).map (fun i => (src i).2))
  let nB := b.need ((en.filter (fun i => (src i).1)).map (fun i => (src i).2))
  let needs := nA :: nB :: more
  s.checkPorts needs
  more.forM consumeV
  let ws := en.map (fun i => let o := if (src i).1 then b else a; (i, o.el (src i).2, o.elBad (src i).2))
  pure ((s.popPorts needs).vput f.d a.tag ws .zero)

/-- The integer tag of a width. -/
def intTag (w : Nat) : Nat := match w with | 8 => 8 | 16 => 7 | _ => 6

def execVperm (f : FmtV) (s : State) : Out :=
  vector s (fun s => do
    let a := s.opnd f.a
    let b := s.opnd f.b
    ofClass isE a
    ofClass (· == intTag a.w) b
    let n := elemCount a.tag
    let m := min n (2 ^ a.w)
    let en := s.enabled f.g a.tag n
    if en = [] then pure s
    else do
      let src := fun i => b.el i % m + m * (i / m)
      s.checkPorts [⟨a, a.w, []⟩, b.need en]
      s.checkPorts [a.need (en.map src), b.need en]
      consumeV (b.need en)
      let ws := en.map (fun i => (i, a.el (src i), a.elBad (src i)))
      pure ((s.popPorts [a.need (en.map src), b.need en]).vput f.d a.tag ws .zero))

def execVrot (f : FmtV) (s : State) : Out :=
  vector s (fun s => do
    let x ← s.vx f.b
    let a := s.opnd f.a
    ofClass isE a
    let n := elemCount a.tag
    let l := min (2 ^ f.sub.toNat) n
    let en := s.enabled f.g a.tag n
    if en = [] then pure s
    else do
      let sh := x.1.toNat % l
      let src := fun i => l * (i / l) + (i % l + l - sh) % l
      let nd := a.need (en.map src)
      s.checkPorts [nd]
      useVx f.b x
      let ws := en.map (fun i => (i, a.el (src i), a.elBad (src i)))
      pure ((s.popPorts [nd]).vput f.d a.tag ws .zero))

def execVzip (f : FmtV) (s : State) : Out :=
  vector s (fun s => do
    let a := s.opnd f.a
    let b := s.opnd f.b
    sameTags isE [a, b]
    let n := elemCount a.tag
    let en := s.enabled f.g a.tag n
    if en = [] then pure s
    else s.permute f a b en (fun i => (i % 2 == 1, i / 2 + f.sub.toNat * (n / 2))) [])

def execVunzip (f : FmtV) (s : State) : Out :=
  vector s (fun s => do
    let a := s.opnd f.a
    let b := s.opnd f.b
    sameTags isE [a, b]
    let n := elemCount a.tag
    let en := s.enabled f.g a.tag n
    if en = [] then pure s
    else s.permute f a b en (fun i =>
      let j := 2 * i + f.sub.toNat
      (decide (n ≤ j), if n ≤ j then j - n else j)) [])

/-- VCOMPRESS: the guard selects source elements. -/
def execVcompress (f : FmtV) (s : State) : Out :=
  vector s (fun s => do
    let a := s.opnd f.a
    ofClass isE a
    let n := elemCount a.tag
    let en := s.enabled f.g a.tag n
    if en = [] then pure s
    else do
      let nd := a.need en
      s.checkPorts [nd]
      let ws := (List.range n).map (fun i => match en[i]? with
        | some j => (i, a.el j, a.elBad j)
        | none => (i, 0, false))
      pure ((s.popPorts [nd]).vput f.d a.tag ws .zero))

/-- VEXPAND: enabled element i takes a_j, j the number of enabled indices below i. -/
def execVexpand (f : FmtV) (s : State) : Out :=
  vector s (fun s => do
    let a := s.opnd f.a
    ofClass isE a
    let n := elemCount a.tag
    let en := s.enabled f.g a.tag n
    if en = [] then pure s
    else do
      let nd := a.need (List.range en.length)
      s.checkPorts [nd]
      let ws := (List.range en.length).zipWith (fun j i => (i, a.el j, a.elBad j)) en
      pure ((s.popPorts [nd]).vput f.d a.tag ws .zero))

/-! ## Loads and stores (07 R148, R149) -/

/-- Any KIND but 1 fails at the first element's address, then each element is checked (07 R148). -/
def State.checkElems (s : State) (a : AReg) (u : Use) (l : List (Int × Nat)) : M Unit := s.checkSpans a u l

def aOf6 (f : BitVec 6) : BitVec 4 := f.truncate 4

/-- VLD (07 R148). Under a class-X tag the elements of a unit that is not wholly enabled are neither checked nor read (DESIGN CHOICE, log 80). -/
def execVld (f : FmtV) (s : State) : Out :=
  vector s (fun s => do
    let tag := f.sub.toNat
    let a := s.fcore.areg (aOf6 f.b)
    let gs := if isBlock tag then 0 else (vget s.unit.gs (s.fcore.vp f.d.toNat) 0).toNat
    let w := tagBits tag
    let en := s.enabled f.g tag (elemCount tag)
    let en := if isX tag then unitElems tag gs (fullUnits tag gs en) else en
    if en = [] then pure s
    else do
      let p : Int := a.ptr.toNat
      let sps := en.map (elemSpan p w)
      s.checkElems a .read sps
      let ws := en.map (fun i => (i, s.padBits s.fk p (i * w) w, s.padBad s.fk p (i * w) w))
      pure ((s.touchSpans sps).vput f.d tag ws (if isX tag then .set gs [] else .zero)))

/-- VLDS: sidecar entries of the blocks or groups whose elements are all enabled. -/
def execVlds (f : FmtV) (s : State) : Out :=
  vector s (fun s => do
    let o := s.opnd f.d
    ofClass isX o
    let gs := f.sub.toNat
    if isBlock o.tag ∧ gs ≠ 0 then mismatch o
    else do
      let a := s.fcore.areg (aOf6 f.b)
      let us := fullUnits o.tag gs (s.enabled f.g o.tag (elemCount o.tag))
      if us = [] then pure s
      else do
        let z := entrySize o.tag
        let p : Int := a.ptr.toNat
        let sps := us.map (fun u => (p + (z * u : Nat), z))
        s.checkElems a .read sps
        let es := us.map (fun u => (u, (List.range z).map (fun i => BitVec.ofNat 8 (s.padBits s.fk p (8 * (z * u + i)) 8))))
        let bads := us.filter (fun u => s.padBad s.fk p (8 * (z * u)) (8 * z))
        -- the elements keep their bytes; a poisoned entry poisons their segments (06 R117)
        let v := s.fcore.vp f.d.toNat
        let w := tagBits o.tag
        let bad := bads.foldl (fun b u => (List.range 16).foldl (fun b seg =>
          if (List.range (unitSize o.tag gs)).any (fun i => decide (0 < bitsIn w (u * unitSize o.tag gs + i) seg)) then
            nsAdd b (s.regAddr v / 64 + seg) else b) b) s.memBad
        let s := s.touchSpans sps
        let u := s.unit
        let s := ({ s with memBad := bad }).setUnit { u with
          gs := vset u.gs v (BitVec.ofNat 2 gs)
          side := sideClean o.tag gs v (es.foldl (fun m (e : Nat × List Byte) => m.write (256 * v + e.1 * z) e.2) u.side) }
        pure (s.putCore { s.fcore with livev := setBit s.fcore.livev v true }))

/-- The byte offset of an indexed element. -/
def idxOff (o : Opnd) (w i : Nat) : Int := intOf 32 true (o.el i) * (w / 8 : Nat)

def execVldx (f : FmtV) (s : State) : Out :=
  vector s (fun s => do
    let o := s.opnd f.a
    ofClass (· == 6) o
    let tag := f.sub.toNat
    let w := tagBits tag
    let a := s.fcore.areg (aOf6 f.b)
    let en := s.enabled f.g tag (elemCount tag)
    if en = [] then pure s
    else do
      let low := en.filter (· < 256)
      let nd := o.need low
      s.checkPorts [nd]
      let p : Int := a.ptr.toNat
      let sps := low.map (fun i => (p + idxOff o w i, w / 8))
      s.checkElems a .read sps
      consumeV nd
      let ws := en.map (fun i =>
        if i < 256 then (i, s.padBits s.fk (p + idxOff o w i) 0 w, s.padBad s.fk (p + idxOff o w i) 0 w) else (i, 0, false))
      pure (((s.touchSpans sps).popPorts [nd]).vput f.d tag ws .zero))

def execVldsp (f : FmtV) (s : State) : Out :=
  vector s (fun s => do
    let x ← s.vx f.c
    let tag := f.sub.toNat
    let w := tagBits tag
    let a := s.fcore.areg (aOf6 f.b)
    let en := s.enabled f.g tag (elemCount tag)
    if en = [] then pure s
    else do
      let p : Int := a.ptr.toNat
      let at_ := fun (i : Nat) => p + (i : Int) * x.1.toInt
      let sps := en.map (fun i => (at_ i, w / 8))
      s.checkElems a .read sps
      useVx f.c x
      let ws := en.map (fun i => (i, s.padBits s.fk (at_ i) 0 w, s.padBad s.fk (at_ i) 0 w))
      pure ((s.touchSpans sps).vput f.d tag ws .zero))

/-- Store w-bit elements at bit offsets from addresses of the own scratchpad, in order. A granule that they cover whole is
no longer uncorrectable (10 R208). -/
def State.storeElems (s : State) (w : Nat) (l : List (Int × Nat × Nat)) : State :=
  let put := fun (m : Mem) (e : Int × Nat × Nat) =>
    let a := padBase s.fk + (e.1 + (e.2.1 / 8 : Nat)).toNat
    let n := (e.2.1 % 8 + w + 7) / 8
    m.write a (leBytes n (setField (leNat (m.read a n)) (e.2.1 % 8) w e.2.2))
  let bitsAt := (l.map (fun (e : Int × Nat × Nat) => (padBase s.fk + (e.1 + (e.2.1 / 8 : Nat)).toNat) * 8 + e.2.1 % 8)).foldl nsAdd []
  let cnt := bitsAt.foldl (fun (m : KMap Nat) b => kset m (b / 512) (kget 0 m (b / 512) + w)) []
  let full := (cnt.filter (fun e => e.2 == 512)).map (·.1)
  { s with mem := l.foldl put s.mem, memBad := s.memBad.filter (fun g => !full.contains g) }

def execVst (f : FmtV) (s : State) : Out :=
  vector s (fun s => do
    let o := s.opnd f.a
    ofClass isAny o
    let a := s.fcore.areg (aOf6 f.b)
    let en := s.enabled f.g o.tag (elemCount o.tag)
    if en = [] then pure s
    else do
      let nd := o.need en
      s.checkPorts [nd]
      let p : Int := a.ptr.toNat
      let sps := en.map (elemSpan p o.w)
      s.checkElems a .write sps
      consumeV nd
      let l := en.map (fun i => (p, i * o.w, o.el i))
      pure (((s.popPorts [nd]).touchSpans sps).storeElems o.w l))

def execVsts (f : FmtV) (s : State) : Out :=
  vector s (fun s => do
    let o := s.opnd f.a
    ofClass isX o
    if o.gs = 3 then mismatch o
    else do
      let a := s.fcore.areg (aOf6 f.b)
      let us := fullUnits o.tag o.gs (s.enabled f.g o.tag (elemCount o.tag))
      if us = [] then pure s
      else do
        let z := entrySize o.tag
        let p : Int := a.ptr.toNat
        let sps := us.map (fun u => (p + (z * u : Nat), z))
        s.checkElems a .write sps
        consumeV (o.need (unitElems o.tag o.gs us))
        let l := (o.entries o.tag us).flatMap (fun e => (List.range z).map (fun i =>
          (p, 8 * (z * e.1 + i), ((e.2[i]?).getD 0).toNat)))
        pure ((s.touchSpans sps).storeElems 8 l))

def execVstx (f : FmtV) (s : State) : Out :=
  vector s (fun s => do
    let o := s.opnd f.a
    let x := s.opnd f.c
    ofClass isE o
    ofClass (· == 6) x
    let a := s.fcore.areg (aOf6 f.b)
    let en := s.enabled f.g o.tag (elemCount o.tag)
    if en = [] then pure s
    else do
      let low := en.filter (· < 256)
      let needs := [o.need low, x.need low]
      s.checkPorts needs
      let p : Int := a.ptr.toNat
      let sps := low.map (fun i => (p + idxOff x o.w i, o.w / 8))
      s.checkElems a .write sps
      needs.forM consumeV
      let l := low.map (fun i => (p + idxOff x o.w i, 0, o.el i))
      pure (((s.popPorts needs).touchSpans sps).storeElems o.w l))

/-! ## Ports (07 R151) -/

/-- The port that field A names. -/
def portOf (f : FmtV) : Nat := f.a.toNat - 48

def State.setPort (s : State) (q : Nat) (p : Port) : State :=
  s.setUnit { s.unit with ports := vset s.unit.ports q p }

/-- QCFG: only if Enabled(0). A0 unbinds: the port is as after a swap, with tag NONE, which an instruction that needs a tag refuses with
TAG_MISMATCH before it looks at the port's status (DESIGN CHOICE, log 91). -/
def execQcfg (f : FmtV) (s : State) : Out :=
  vector s (fun s => do
    if (s.enabledBits f.g 1) = [] then pure s
    else if aOf6 f.b = 0 then pure (s.setPort (portOf f) {})
    else do
      let a := s.fcore.areg (aOf6 f.b)
      if a.kind = 1 ∧ a.canRead then
        pure (s.setPort (portOf f)
          { bind := a, base := a.ptr, tag := f.sub.truncate 5, status := 1, levels := Vector.replicate 4 { count := 1 } })
      else trap cBOUNDS a.ptr)

/-- QLOOP: only if Enabled(0). -/
def execQloop (f : FmtV) (s : State) : Out :=
  vector s (fun s => do
    let cnt ← s.vx f.d
    let str ← s.vx f.c
    if (s.enabledBits f.g 1) = [] then pure s
    else do
      let p := vget s.unit.ports (portOf f) {}
      if p.status = 0 then trap cPORT (wNat (portOf f))
      else do
        useVx f.d cnt
        useVx f.c str
        let l := f.sub.toNat % 4
        let p := { p with levels := vset p.levels l { count := cnt.1.toNat % 2 ^ 32, stride := str.1 } }
        pure (s.setPort (portOf f) p.rewind))

/-- QRESET: only if Enabled(0). -/
def execQreset (f : FmtV) (s : State) : Out :=
  vector s (fun s => do
    if (s.enabledBits f.g 1) = [] then pure s
    else
      let p := vget s.unit.ports (portOf f) {}
      if p.status = 0 then trap cPORT (wNat (portOf f))
      else pure (s.setPort (portOf f) p.rewind))

end Sys2Proof.Machine
end

