-- ==== Sys2Proof/Machine/Matrix.lean ====
section
/-! DEFINITION. The matrix array: tiles, products, tile operations, masks, status and self-test (06 R125; 08 R158 to R177). -/

namespace Sys2Proof

/-- M, N and K of the matrix instructions (08 R160, R170). -/
def Shape.m (sh : Shape) : Nat := sh.m1.toNat + 1
def Shape.n (sh : Shape) : Nat := sh.n1.toNat + 1
def FmtP.m (f : FmtP) : Nat := f.m1.toNat + 1
def FmtP.n (f : FmtP) : Nat := f.n1.toNat + 1
def FmtP.kk (f : FmtP) : Nat := f.k1.toNat + 1

end Sys2Proof

namespace Sys2Proof.Machine

/-! ## Tiles and rows (08 R158, R159) -/

/-- The on-chip address of element (i, j) of tile t. -/
def tileAddr (k t i j : Nat) : Nat := chipAddr k 1 (t * 0x20000 + i * 0x400 + 4 * j)

def State.tileTag (s : State) (k : Nat) (t : BitVec 3) : Nat := (vget (s.bank k).mx.tags t.toNat 0).toNat

/-- The first n words of row i of a tile, each with its poison. -/
def State.tileRow (s : State) (k : Nat) (t : BitVec 3) (i n : Nat) : List (Nat × Bool) :=
  (List.range n).map (fun j =>
    (leNat (s.chipBytes (tileAddr k t.toNat i j) 4), nsHas s.memBad (tileAddr k t.toNat i j / 64)))

/-- The rows below m that an entry's row mask enables, ascending. -/
def rowsOf (rows : BitVec 128) (m : Nat) : List Nat := (List.range m).filter (fun i => rows.getLsbD i)

/-- Poison the segments of the poisoned words of a row that starts at an address. -/
def State.markRow (s : State) (a : Nat) (l : List (Nat × Bool)) : State :=
  { s with memBad := l.zipIdx.foldl (fun b e => if e.1.2 then nsAdd b ((a + 4 * e.2) / 64) else b) s.memBad }

/-- Write words from column 0 of row i of a tile: a segment is poisoned by new poison, and cleared when written whole (08 R158). -/
def State.putRow (s : State) (k : Nat) (t : BitVec 3) (i : Nat) (l : List (Nat × Bool)) : State :=
  let a := tileAddr k t.toNat i 0
  let s := s.chipPut a (l.flatMap (fun v => leBytes 4 v.1))
  s.markRow a l

/-- Write rows of a tile, which takes a tag; no enabled row writes nothing (06 R119). -/
def State.putTile (s : State) (k : Nat) (t : BitVec 3) (tag : Nat) (l : List (Nat × List (Nat × Bool))) : State :=
  if l = [] then s
  else
    (l.foldl (fun s e => s.putRow k t e.1 e.2) s).modBank k (fun b =>
      { b with mx := { b.mx with tags := vset b.mx.tags t.toNat (BitVec.ofNat 5 tag) } })

/-! ## Sums of products (06 R125) -/

/-- The product of two values, and whether it makes the group's sum NaN. -/
def prodOf (a b : Fp) : Fp := (Fp.mul a b).1

/-- The exact sum s of a group of products: NaN with INV, an infinity, or a real whose zero is +0. -/
def groupSum (ps : List Fp) : Fp × Flags :=
  if ps.any Fp.isNaN then (.nan false, { inv := true })
  else
    let pos := ps.contains (.inf false)
    let neg := ps.contains (.inf true)
    if pos ∧ neg then (.nan false, { inv := true })
    else if pos then (.inf false, {})
    else if neg then (.inf true, {})
    else
      let v := (ps.map (fun p => match p with | .fin v _ => v | _ => 0)).sum
      (.fin v (decide (v < 0)), {})

/-- Lists of at most 32 elements, in order. -/
def groups32 {α : Type} : Nat → List α → List (List α)
  | 0, _ => []
  | n + 1, l => match l with
    | [] => []
    | _ => l.take 32 :: groups32 n (l.drop 32)

/-- Accumulate products by 06 R125: the start, if the instruction does not zero, and the products by k. -/
def accumulate (start : Option Nat) (ps : List Fp) : Nat × Flags :=
  let (acc, fl) := (groups32 (ps.length / 32 + 1) ps).foldl (fun (acc : Option Nat × Flags) g =>
    let (x, f1) := groupSum g
    let (y, f2) : Fp × Flags := match acc.1 with
      | none => (x, {})
      | some p => Fp.add false (fp32.value p) x
    let (p, f3) := fp32.result .rne false y
    (some p, ((acc.2.or f1).or f2).or f3)) (start, {})
  (acc.getD 0, fl)

/-! ## Products (08 R160 to R166) -/

/-- How an operand of a product is read: its spans for row or column r, whether the spans belong to the whole operand, and
the value and poison of its element at (r, k). -/
structure Factor where
  spans : Nat → List (AReg × Nat × Nat)
  int   : Nat → Nat → Int
  val   : Nat → Nat → Fp
  bad   : Nat → Nat → Bool

/-- A factor of plain elements: idx gives the element index at (r, k). -/
def State.plainFactor (s : State) (k : Nat) (a : AReg) (tag : Nat) (sg : Bool) (idx : Nat → Nat → Nat)
    (spans : Nat → List (Nat × Nat)) : Factor :=
  let w := tagBits tag
  { spans := fun r => (spans r).map (fun p => (a, p.1, p.2))
    int := fun r c => intOf w sg (s.opEl k a w (idx r c))
    val := fun r c => plainValue tag sg (s.opEl k a w (idx r c))
    bad := fun r c => s.opElBad k a w (idx r c) }

/-- A quantised factor: ix gives the group entry's index at (r, k) (08 R163). -/
def State.quantFactor (s : State) (k : Nat) (f : Factor) (m : AReg) (g : Nat) (ix : Nat → Nat → Nat)
    (mspans : Nat → List (Nat × Nat)) : Factor :=
  { f with
    spans := fun r => f.spans r ++ (mspans r).map (fun p => (m, p.1, p.2))
    val := fun r c =>
      let e := 4 * ix r (c / g)
      (dequant (fp16.value (s.opNat k m e 2)) (f.int r c) (intOf 8 true (s.opNat k m (e + 2) 1))).1
    bad := fun r c => f.bad r c || s.opBad k m (4 * ix r (c / g)) 4 }

/-- An MX factor: ix gives the scale code's index at (r, block) (08 R164). -/
def State.mxFactor (s : State) (k : Nat) (a : AReg) (tag : Nat) (f : Factor) (m : AReg) (idx : Nat → Nat → Nat)
    (ix : Nat → Nat → Nat) (mspans : Nat → List (Nat × Nat)) : Factor :=
  { f with
    spans := fun r => f.spans r ++ (mspans r).map (fun p => (m, p.1, p.2))
    val := fun r c => mxValue tag (s.opNat k m (ix r (c / 32)) 1) (s.opEl k a (tagBits tag) (idx r c))
    bad := fun r c => f.bad r c || s.opBad k m (ix r (c / 32)) 1 }

/-- The nibble of a group of four of a 2:4 row (08 R165). -/
def State.nibble (s : State) (k : Nat) (m : AReg) (kk r q : Nat) : Nat := s.opEl k m 4 (r * (kk / 4) + q)

/-- A 2:4 factor (08 R165): the stored element at a logical position, or zero. -/
def State.sparseFactor (s : State) (k : Nat) (a : AReg) (tag : Nat) (sg : Bool) (m : AReg) (kk : Nat) : Factor :=
  let w := tagBits tag
  let at_ := fun (r c : Nat) =>
    let nb := s.nibble k m kk r (c / 4)
    if nb % 4 = c % 4 then some (r * (kk / 2) + 2 * (c / 4))
    else if nb / 4 = c % 4 then some (r * (kk / 2) + 2 * (c / 4) + 1) else none
  { spans := fun r => [(a, elemsSpan w (r * (kk / 2)) (kk / 2)), (m, elemsSpan 4 (r * (kk / 4)) (kk / 4))]
    int := fun r c => match at_ r c with | some i => intOf w sg (s.opEl k a w i) | none => 0
    val := fun r c => match at_ r c with | some i => plainValue tag sg (s.opEl k a w i) | none => .fin 0 false
    bad := fun r c => (match at_ r c with | some i => s.opElBad k a w i | none => false) || s.opElBad k m 4 (r * (kk / 4) + c / 4) }

/-- Group size of a quantised operand along K, coded as in 06 R117. -/
def groupOf (gs : BitVec 2) : Nat := 32 * 2 ^ gs.toNat

/-- Operand A of a plain product, by row. -/
def State.factorA (s : State) (k : Nat) (a : AReg) (f : FmtP) : Factor :=
  let w := tagBits f.taga.toNat
  s.plainFactor k a f.taga.toNat f.sa (fun i c => if f.ta then c * f.m + i else i * f.kk + c)
    (fun i => if f.ta then (List.range f.kk).map (fun c => elemsSpan w (c * f.m + i) 1) else [elemsSpan w (i * f.kk) f.kk])

/-- Operand B of a plain product, by column; its span is the whole operand. -/
def State.factorB (s : State) (k : Nat) (a : AReg) (f : FmtP) : Factor :=
  s.plainFactor k a f.tagb.toNat f.sb (fun j c => if f.tb then j * f.kk + c else c * f.n + j)
    (fun _ => [elemsSpan (tagBits f.tagb.toNat) 0 (f.kk * f.n)])

/-- Check a factor's spans for some rows or columns. -/
def State.checkFactor (s : State) (k : Nat) (f : Factor) (rs : List Nat) : En Unit :=
  rs.forM (fun r => (f.spans r).forM (fun p => s.checkOpnd k true p.1 .read [p.2]))

def State.touchFactor (s : State) (k : Nat) (f : Factor) (rs : List Nat) : State :=
  rs.foldl (fun s r => (f.spans r).foldl (fun s p => s.opTouch k p.1 p.2) s) s

/-- The result tag of a product (08 R161). -/
def prodTag (int : Bool) : Nat := if int then 6 else 1

/-- Write the product of factors into the enabled rows of a tile (08 R162). -/
def State.product (s : State) (k : Nat) (td : BitVec 3) (rows : List Nat) (n kk : Nat) (int zero : Bool) (fa fb : Factor) :
    State × Flags :=
  let out := rows.map (fun i =>
    let old := s.tileRow k td i n
    (i, (List.range n).map (fun j =>
      let o : Nat × Bool := (old[j]?).getD (0, false)
      let bad := (!zero && o.2) || (List.range kk).any (fun c => fa.bad i c || fb.bad j c)
      if int then
        let t : Int := (if zero then 0 else (o.1 : Int)) + ((List.range kk).map (fun c => fa.int i c * fb.int j c)).sum
        ((patOf 32 t, bad), ({} : Flags))
      else
        let (p, fl) := accumulate (if zero then none else some o.1) ((List.range kk).map (fun c => prodOf (fa.val i c) (fb.val j c)))
        ((p, bad), fl))))
  (s.putTile k td (prodTag int) (out.map (fun e => (e.1, e.2.map (·.1)))), orAll (out.flatMap (fun e => e.2.map (·.2))))

/-- Are the elements of both operands plain integers? -/
def intPair (f : FmtP) : Bool := isI f.taga.toNat || f.taga == 9

/-- A product that is not cooperative: tag, bounds, then metadata, then its effect (08 R156, R162). -/
def State.runProduct (s : State) (k : Nat) (ent : Entry) (f : FmtP) (int zero : Bool) (fa fb : Factor)
    (metaOk : List Nat → Bool) : En Ran := do
  need cTAG (zero || s.tileTag k f.td == prodTag int)
  let rows := rowsOf ent.rows f.m
  if rows = [] then pure { s := s }
  else do
    s.checkFactor k fa rows
    s.checkFactor k fb [0]
    need cMETA (metaOk rows)
    let s := (s.touchFactor k fa rows).touchFactor k fb [0]
    let (s, fl) := s.product k f.td rows f.n f.kk int zero fa fb
    pure { s := s, fl := fl }

def noMeta (_ : List Nat) : Bool := true

def State.runMma (s : State) (k : Nat) (ent : Entry) (f : FmtP) (zero : Bool) : En Ran :=
  s.runProduct k ent f (intPair f) zero (s.factorA k (ent.areg f.aa) f) (s.factorB k (ent.areg f.ab) f) noMeta

/-- MMAQ (08 R163): its result is FP32 whatever its tags. -/
def State.runMmaq (s : State) (k : Nat) (ent : Entry) (f : FmtP) : En Ran :=
  let fa := s.factorA k (ent.areg f.aa) f
  let fb := s.factorB k (ent.areg f.ab) f
  let ga := groupOf f.gsa
  let gb := groupOf f.gsb
  let fa := if isQ f.taga.toNat then
      s.quantFactor k fa (ent.areg f.ma) ga (fun i g => i * (f.kk / ga) + g)
        (fun i => [(4 * (i * (f.kk / ga)), 4 * (f.kk / ga))])
    else fa
  let fb := if isQ f.tagb.toNat then
      s.quantFactor k fb (ent.areg f.mb) gb (fun j g => g * f.n + j) (fun _ => [(0, 4 * (f.kk / gb * f.n))])
    else fb
  s.runProduct k ent f false f.z fa fb noMeta

/-- MMAMX (08 R164). -/
def State.runMmamx (s : State) (k : Nat) (ent : Entry) (f : FmtP) : En Ran :=
  let a := ent.areg f.aa
  let b := ent.areg f.ab
  let fa := s.mxFactor k a f.taga.toNat (s.factorA k a f) (ent.areg f.ma) (fun i c => i * f.kk + c)
    (fun i g => i * (f.kk / 32) + g) (fun i => [(i * (f.kk / 32), f.kk / 32)])
  let fb := s.mxFactor k b f.tagb.toNat (s.factorB k b f) (ent.areg f.mb) (fun j c => c * f.n + j)
    (fun j g => g * f.n + j) (fun _ => [(0, f.kk / 32 * f.n)])
  s.runProduct k ent f false f.z fa fb noMeta

/-- MMAST (08 R165): a nibble of an enabled row with p0 ≥ p1 is invalid. -/
def State.runMmast (s : State) (k : Nat) (ent : Entry) (f : FmtP) : En Ran :=
  let m := ent.areg f.ma
  s.runProduct k ent f (intPair f) f.z (s.sparseFactor k (ent.areg f.aa) f.taga.toNat f.sa m f.kk)
    (s.factorB k (ent.areg f.ab) f)
    (fun rows => rows.all (fun i => (List.range (f.kk / 4)).all (fun q =>
      let nb := s.nibble k m f.kk i q
      decide (nb % 4 < nb / 4))))

/-- MMAC, MMACZ (08 R166): in a group, the entry counts as its rank's next operation, its tags are checked, and it waits for the other
ranks. -/
def State.runMmac (s : State) (k : Nat) (ent : Entry) (f : FmtP) (zero : Bool) : En Ran :=
  if (s.bank k).gsize = 1 then s.runMma k ent f zero
  else
    let n := (s.bank k).mmacs
    let t := s.modBank k (fun b => { b with mmacs := n + 1 })
    pure (if zero || s.tileTag k f.td == prodTag (intPair f) then { s := t, need := .group .mmac n } else { s := t, stop := some cTAG })

/-- The fields of a cooperative product. -/
def mmacOf (i : QOp) : Option (FmtP × Bool) :=
  match i with
  | .prim (.mmac f) => some (f, false)
  | .prim (.mmacz f) => some (f, true)
  | _ => none

/-! ## Multicast (08 R167 to R169) -/

/-- The granule pieces of n bytes that start at an on-chip address: offset and length. -/
def pieces (a n : Nat) : List (Nat × Nat) :=
  (granules 6 a n).map (fun g => (max a (g * 64) - a, min (a + n) (g * 64 + 64) - max a (g * 64)))

/-- MCAST: checks, then one posted write per granule and target (08 R167). -/
def State.runMcast (s : State) (k : Nat) (ent : Entry) (ad as : BitVec 4) (ranks : BitVec 4) (len : Nat) : En Ran := do
  let d := ent.areg ad
  let a := ent.areg as
  let g := (s.bank k).gsize
  let own := (s.bank k).rank
  let o := chipOff d.ptr.toNat
  let named := (List.range 4).filter (fun r => ranks.getLsbD r)
  need cGROUP (named.all (fun r => decide (r < g)))
  need cOVERLAP (!(named.contains own && overlaps (a.onChip k 0) len (chipAddr k 0 o) len))
  s.checkOpnd k false a .read [(0, len)]
  let ptr := d.ptr.toNat
  need cBOUNDS (d.kind == 3 && d.allows .write && chipRegion ptr == 0 && (chipKey ptr == k || s.inGroup k (chipKey ptr)) &&
    d.inside ptr len &&
    named.all (fun r => s.chipOk (chipAddr (s.rankCell k r) 0 o) len))
  need cPOISON (!s.opBad k a 0 len)
  let bs := s.opBytes k a 0 len
  let posts := named.flatMap (fun r =>
    let t := chipAddr (s.rankCell k r) 0 o
    (pieces t len).map (fun p => ({ dst := .chip (t + p.1), data := ((bs.drop p.1).take p.2).map (fun b => { v := b }), uid := ent.uid, mcast := true } : Posted)))
  let s := s.opTouch k a (0, len)
  pure { s := s.modCell k (fun c => { c with posted := c.posted ++ posts }), need := .posted }

/-- The ranks of a multicast entry. -/
def mcastRanks (i : QOp) : Option (BitVec 4) :=
  match i with
  | .prim (.mcast _ _ _ _ ranks _) => some ranks
  | _ => none

/-- MCWAIT: it takes its count at once if the counter holds it (08 R168). -/
def State.runMcwait (s : State) (k : Nat) (rank : BitVec 2) (count : BitVec 16) : En Ran := do
  need cGROUP (decide (rank.toNat < (s.bank k).gsize))
  let n := vget (s.bank k).mx.arr rank.toNat 0
  if count.toNat ≤ n then
    pure { s := s.modBank k (fun b => { b with mx := { b.mx with arr := vset b.mx.arr rank.toNat (n - count.toNat) } }) }
  else pure { s := s, need := .mcwait }

/-- An arrival at a cell from a rank (08 R167, R168): the counter saturates and sets the sticky bit. -/
def State.arriveMcast (s : State) (k rank : Nat) : State :=
  s.modBank k (fun b =>
    let n := vget b.mx.arr rank 0
    { b with mx := { b.mx with arr := vset b.mx.arr rank (min (n + 1) 65535), sticky := b.mx.sticky || decide (n = 65535) } })

/-! ## Tile operations (08 R170) -/

/-- Write a function of each enabled row of a tile, with flags by element. -/
def State.mapTile (s : State) (k : Nat) (td : BitVec 3) (tag : Nat) (rows : List Nat) (fn : Nat → List ((Nat × Bool) × Flags)) : Ran :=
  let out := rows.map (fun i => (i, fn i))
  { s := s.putTile k td tag (out.map (fun e => (e.1, e.2.map (·.1)))), fl := orAll (out.flatMap (fun e => e.2.map (·.2))) }

def tileTagOk (t : Nat) : Bool := t == 1 || t == 6

def State.runTzero (s : State) (k : Nat) (ent : Entry) (td : BitVec 3) (tag : BitVec 5) (sh : Shape) : En Ran :=
  pure (s.mapTile k td tag.toNat (rowsOf ent.rows sh.m) (fun _ => List.replicate sh.n ((0, false), {})))

def State.runTload (s : State) (k : Nat) (ent : Entry) (td : BitVec 3) (as : BitVec 4) (tag : BitVec 5) (sa : Bool) (sh : Shape) :
    En Ran := do
  let a := ent.areg as
  let t := tag.toNat
  let w := tagBits t
  let rows := rowsOf ent.rows sh.m
  let spans := rows.map (fun i => elemsSpan w (i * sh.n) sh.n)
  s.checkOpnd k true a .read spans
  let r := s.mapTile k td (if isFloat t then 1 else 6) rows (fun i => (List.range sh.n).map (fun j =>
    let p := s.opEl k a w (i * sh.n + j)
    let v := if isFloat t then (fp32.result .rne false ((fmtOf t).value p)).1 else patOf 32 (intOf w sa p)
    ((v, s.opElBad k a w (i * sh.n + j)), {})))
  pure { r with s := r.s.opTouches k a spans }

def State.runTbias (s : State) (k : Nat) (ent : Entry) (td : BitVec 3) (as : BitVec 4) (tag : BitVec 5) (sa : Bool) (sh : Shape) :
    En Ran := do
  let a := ent.areg as
  let t := tag.toNat
  let w := tagBits t
  let tt := s.tileTag k td
  need cTAG ((tt == 1 && isF t) || (tt == 6 && isI t))
  let rows := rowsOf ent.rows sh.m
  let spans := if rows = [] then [] else [elemsSpan w 0 sh.n]
  s.checkOpnd k true a .read spans
  let r := s.mapTile k td tt rows (fun i => (s.tileRow k td i sh.n).zipIdx.map (fun e =>
    let p := s.opEl k a w e.2
    let bad := e.1.2 || s.opElBad k a w e.2
    if tt = 1 then
      let (v, f1) := Fp.add false (fp32.value e.1.1) ((fmtOf t).value p)
      let (q, f2) := fp32.result .rne false v
      ((q, bad), f1.or f2)
    else ((patOf 32 (e.1.1 + intOf w sa p), bad), {})))
  pure { r with s := r.s.opTouches k a spans }

/-- The value of a tile word under its tag. -/
def tileVal (tag p : Nat) : Fp := if tag = 1 then fp32.value p else ofInt (intOf 32 true p)

def State.runTscale (s : State) (k : Nat) (ent : Entry) (td : BitVec 3) (ar ac : BitVec 4) (tag : BitVec 5) (sh : Shape) : En Ran := do
  let tt := s.tileTag k td
  need cTAG (tileTagOk tt)
  let t := tag.toNat
  let w := tagBits t
  let rows := rowsOf ent.rows sh.m
  let r := ent.areg ar
  let c := ent.areg ac
  let rs := if ar = 0 then [] else rows.map (fun i => elemsSpan w i 1)
  let cs := if ac = 0 ∨ rows = [] then [] else [elemsSpan w 0 sh.n]
  s.checkOpnd k true r .read rs
  s.checkOpnd k true c .read cs
  let one : Fp := .fin 1 false
  let out := s.mapTile k td 1 rows (fun i => (s.tileRow k td i sh.n).zipIdx.map (fun e =>
    let rv := if ar = 0 then one else (fmtOf t).value (s.opEl k r w i)
    let cv := if ac = 0 then one else (fmtOf t).value (s.opEl k c w e.2)
    let bad := e.1.2 || (ar != 0 && s.opElBad k r w i) || (ac != 0 && s.opElBad k c w e.2)
    let (x, f1) := Fp.mul (tileVal tt e.1.1) rv
    let (y, f2) := Fp.mul x cv
    let (p, f3) := fp32.result .rne false y
    ((p, bad), (f1.or f2).or f3)))
  pure { out with s := (out.s.opTouches k r rs).opTouches k c cs }

/-- TACT (07 R139). -/
def State.runTact (s : State) (k : Nat) (ent : Entry) (td : BitVec 3) (fn : BitVec 3) (sh : Shape) : En Ran := do
  let tt := s.tileTag k td
  need cTAG (tt == 1 || (tt == 6 && fn == 0))
  let free := Config.freeWord s.free
  let r := s.bump.mapTile k td tt (rowsOf ent.rows sh.m) (fun i => (s.tileRow k td i sh.n).map (fun e =>
    let (p, fl) : Nat × Flags :=
      if tt = 6 then (if 0 < intOf 32 true e.1 then e.1 else 0, {})
      else
        let v := fp32.value e.1
        match fn.toNat with
        | 0 => match v with
          | .nan sg => (fp32.nan, { inv := sg })
          | .inf n => (if n then 0 else fp32.infinity false, {})
          | .fin x _ => (if 0 < x then e.1 else 0, {})
        | 1 => TFun.gelu.apply fp32 .rne false free v
        | 2 => TFun.silu.apply fp32 .rne false free v
        | 3 => TFun.tanh.apply fp32 .rne false free v
        | _ => TFun.sigm.apply fp32 .rne false free v
    ((p, e.2), fl)))
  pure r

/-- A reduction of tile words: op 0 sum, 1 max, 2 min (08 R170). -/
def reduceTile (tag op : Nat) (ps : List Nat) : Nat × Flags :=
  if tag = 1 then
    let vs := ps.map fp32.value
    let (v, f1) := match op with | 0 => sumF false vs | 1 => extremeF true vs | _ => extremeF false vs
    let (p, f2) := fp32.result .rne false v
    (p, f1.or f2)
  else
    (match op with
      | 0 => patOf 32 ((ps.map (intOf 32 true)).sum)
      | 1 => extremeI true true 32 ps
      | _ => extremeI false true 32 ps, {})

/-- Store reductions of lists of tile words: the word index of each, and its list. -/
def State.storeReductions (s : State) (k : Nat) (ent : Entry) (ts : BitVec 3) (ad : BitVec 4) (op : BitVec 2)
    (l : List (Nat × List (Nat × Bool))) : En Ran := do
  let tt := s.tileTag k ts
  need cTAG (tileTagOk tt)
  let d := ent.areg ad
  s.checkOpnd k true d .write (l.map (fun e => (4 * e.1, 4)))
  need cPOISON (!l.any (fun e => e.2.any (·.2)))
  let out := l.map (fun e => (e.1, reduceTile tt op.toNat (e.2.map (·.1))))
  pure { s := out.foldl (fun s e => s.opPut k d (4 * e.1) (leBytes 4 e.2.1)) s, fl := orAll (out.map (fun e => e.2.2)) }

def State.runTredr (s : State) (k : Nat) (ent : Entry) (ts : BitVec 3) (ad : BitVec 4) (op : BitVec 2) (sh : Shape) : En Ran :=
  s.storeReductions k ent ts ad op ((rowsOf ent.rows sh.m).map (fun i => (i, s.tileRow k ts i sh.n)))

def State.runTredc (s : State) (k : Nat) (ent : Entry) (ts : BitVec 3) (ad : BitVec 4) (op : BitVec 2) (sh : Shape) : En Ran :=
  let rows := (rowsOf ent.rows sh.m).map (fun i => s.tileRow k ts i sh.n)
  s.storeReductions k ent ts ad op
    (if rows = [] then [] else (List.range sh.n).map (fun j => (j, rows.map (fun r => (r[j]?).getD (0, false)))))

/-- TTRANS: an enabled destination row j < N takes column j of the source. -/
def State.runTtrans (s : State) (k : Nat) (ent : Entry) (td ts : BitVec 3) (sh : Shape) : En Ran := do
  let tt := s.tileTag k ts
  need cTAG (tileTagOk tt)
  pure (s.mapTile k td tt (rowsOf ent.rows sh.n) (fun j => (List.range sh.m).map (fun i =>
    (((s.tileRow k ts i (j + 1))[j]?).getD (0, false), {}))))

def State.runTcopy (s : State) (k : Nat) (ent : Entry) (td ts : BitVec 3) (sh : Shape) : En Ran := do
  let tt := s.tileTag k ts
  need cTAG (tileTagOk tt)
  pure (s.mapTile k td tt (rowsOf ent.rows sh.m) (fun i => (s.tileRow k ts i sh.n).map (fun e => (e, {}))))

/-- TCLAMP: MIN(MAX(t, lo), hi) (07 R136, R137). -/
def State.runTclamp (s : State) (k : Nat) (ent : Entry) (td : BitVec 3) (sh : Shape) : En Ran := do
  let tt := s.tileTag k td
  need cTAG (tileTagOk tt)
  let lo := (ent.x 0).toNat % 2 ^ 32
  let hi := (ent.x 1).toNat % 2 ^ 32
  pure (s.mapTile k td tt (rowsOf ent.rows sh.m) (fun i => (s.tileRow k td i sh.n).map (fun e =>
    if tt = 1 then
      let (m, f1) := Fp.minmax true (fp32.value e.1) (fp32.value lo)
      let (r, f2) := Fp.minmax false m (fp32.value hi)
      let (p, f3) := fp32.result .rne false r
      ((p, e.2), (f1.or f2).or f3)
    else
      ((patOf 32 (min (max (intOf 32 true e.1) (intOf 32 true lo)) (intOf 32 true hi)), e.2), {}))))

/-! ## Stores of tiles (08 R171 to R173) -/

/-- The rounding mode of a store of tiles. -/
def storeMode (ent : Entry) (rm : BitVec 2) : Option Rm := if rm = 0 ∧ ent.sre then none else some (rmOf rm.toNat)

/-- Enabled elements of a tile as row·256 + column, rows ascending; column generator of each. -/
def cellsOf (rows : List Nat) (n : Nat) : List Nat := rows.flatMap (fun i => (List.range n).map (fun j => i * 256 + j))

/-- Round each enabled element of a tile: the results by row·256 + column, and the generators after. -/
def State.roundTile (s : State) (k : Nat) (ent : Entry) (rm : BitVec 2) (rows : List Nat) (n : Nat)
    (fn : Rm → Nat → Nat → Nat × Flags) : State × List (Nat × Nat × Flags) :=
  let (l, g) := rounding (storeMode ent rm) (fun c => c % 256) (cellsOf rows n) (s.bank k).mx.gens (fun m c => fn m (c / 256) (c % 256))
  (s.modBank k (fun b => { b with mx := { b.mx with gens := g } }), l.map (fun e => (e.1, e.2.1, e.2.2)))

/-- The word of a tile. -/
def State.tileWord (s : State) (k : Nat) (t : BitVec 3) (i j : Nat) : Nat := leNat (s.chipBytes (tileAddr k t.toNat i j) 4)

def State.rowsBad (s : State) (k : Nat) (t : BitVec 3) (rows : List Nat) (n : Nat) : Bool :=
  rows.any (fun i => (s.tileRow k t i n).any (·.2))

def State.runTstore (s : State) (k : Nat) (ent : Entry) (ts : BitVec 3) (ad : BitVec 4) (tag : BitVec 5) (rm : BitVec 2) (sh : Shape) :
    En Ran := do
  let tt := s.tileTag k ts
  let t := tag.toNat
  need cTAG ((tt == 1 && isFloat t) || (tt == 6 && (isI t || t == 9) && rm == 0))
  let d := ent.areg ad
  let w := tagBits t
  let rows := rowsOf ent.rows sh.m
  s.checkOpnd k true d .write (rows.map (fun i => elemsSpan w (i * sh.n) sh.n))
  need cPOISON (!s.rowsBad k ts rows sh.n)
  let (s, l) := s.roundTile k ent rm rows sh.n (fun m i j =>
    let p := s.tileWord k ts i j
    if tt = 1 then toPlain m 1 t true (fp32.value p) else toInt w true .rne (ofInt (intOf 32 true p)))
  pure { s := l.foldl (fun s e => s.opPutEl k d w (e.1 / 256 * sh.n + e.1 % 256) e.2.1) s, fl := orAll (l.map (fun e => e.2.2)) }

/-- σ, z of a group of FP32 values by 08 R172, with flags; none for a group with a NaN or an infinity. -/
def quantGroup (qmin qmax : Int) (vs : List Fp) : Option (Rat × Int) × Nat × Nat × Flags :=
  if vs.any (fun v => match v with | .fin _ _ => false | _ => true) then (none, 0x7E00, 0, { inv := true })
  else
    let xs := vs.map (fun v => match v with | .fin x _ => x | _ => 0)
    let lo := xs.foldl min 0
    let hi := xs.foldl max 0
    if hi = lo then (none, 0, 0, {})
    else
      let (sp, f1) := fp16.round .rup true ((hi - lo) / (qmax - qmin)) false
      let sg := match fp16.value sp with | .fin x _ => x | _ => 1
      let (zp, f2) := toInt 8 true .rne (.fin (qmin - lo / sg) false)
      (some (sg, intOf 8 true zp), sp, zp, f1.or f2)

/-- TSTOREQ (08 R172). -/
def State.runTstoreq (s : State) (k : Nat) (ent : Entry) (ts : BitVec 3) (ad : BitVec 4) (tag : BitVec 5) (rm : BitVec 2) (sg : Bool)
    (sh : Shape) (am : BitVec 4) (gs : BitVec 2) : En Ran := do
  need cTAG (s.tileTag k ts == 1)
  let d := ent.areg ad
  let m := ent.areg am
  let w := tagBits tag.toNat
  let g := groupOf gs
  let ng := sh.n / g
  let rows := rowsOf ent.rows sh.m
  s.checkOpnd k true d .write (rows.map (fun i => elemsSpan w (i * sh.n) sh.n))
  s.checkOpnd k true m .write (rows.map (fun i => (4 * (i * ng), 4 * ng)))
  need cPOISON (!s.rowsBad k ts rows sh.n)
  let grp := rows.flatMap (fun i => (List.range ng).map (fun c =>
    (i * ng + c, quantGroup (intMin w sg) (intMax w sg)
      ((List.range g).map (fun j => fp32.value (s.tileWord k ts i (c * g + j)))))))
  let entry := fun i j => ((grp.find? (fun e => e.1 == i * ng + j / g)).map (·.2)).getD (none, 0, 0, {})
  let (s, l) := s.roundTile k ent rm rows sh.n (fun md i j =>
    match (entry i j).1, fp32.value (s.tileWord k ts i j) with
    | some (x, z), .fin y _ => toInt w sg md (.fin (y / x + z) false)
    | _, _ => (0, {}))
  let s := l.foldl (fun s e => s.opPutEl k d w (e.1 / 256 * sh.n + e.1 % 256) e.2.1) s
  pure { s := grp.foldl (fun s e => s.opPut k m (4 * e.1) (leBytes 2 e.2.2.1 ++ [BitVec.ofNat 8 e.2.2.2.1, 0])) s
         fl := (orAll (l.map (fun e => e.2.2))).or (orAll (grp.map (fun e => e.2.2.2.2))) }

/-- TSTOREMX (08 R173). -/
def State.runTstoremx (s : State) (k : Nat) (ent : Entry) (ts : BitVec 3) (ad : BitVec 4) (tag : BitVec 5) (rm : BitVec 2) (sh : Shape)
    (am : BitVec 4) : En Ran := do
  need cTAG (s.tileTag k ts == 1)
  let d := ent.areg ad
  let m := ent.areg am
  let t := tag.toNat
  let w := tagBits t
  let nb := sh.n / 32
  let rows := rowsOf ent.rows sh.m
  s.checkOpnd k true d .write (rows.map (fun i => elemsSpan w (i * sh.n) sh.n))
  s.checkOpnd k true m .write (rows.map (fun i => (i * nb, nb)))
  need cPOISON (!s.rowsBad k ts rows sh.n)
  let blk := rows.flatMap (fun i => (List.range nb).map (fun c =>
    (i * nb + c, blockScale t ((List.range 32).map (fun j => fp32.value (s.tileWord k ts i (32 * c + j)))))))
  let code := fun i j => ((blk.find? (fun e => e.1 == i * nb + j / 32)).map (·.2)).getD (none, 0)
  let (s, l) := s.roundTile k ent rm rows sh.n (fun md i j =>
    match code i j with
    | (some x, _) => packMx t md x (fp32.value (s.tileWord k ts i j))
    | (none, c) => (0, { inv := c == 0xFF }))
  let s := l.foldl (fun s e => s.opPutEl k d w (e.1 / 256 * sh.n + e.1 % 256) e.2.1) s
  pure { s := blk.foldl (fun s e => s.opPut k m e.1 [BitVec.ofNat 8 e.2.2]) s, fl := orAll (l.map (fun e => e.2.2)) }

/-! ## Between tiles and V registers (08 R174) -/

/-- The on-chip address of physical register v of the cell's own vector unit. -/
def vregAddr (k v : Nat) : Nat := chipAddr k 2 (0x400 * v)

def State.runTtov (s : State) (k : Nat) (ent : Entry) (ts : BitVec 3) (v : BitVec 6) (row cnt1 : BitVec 7) : En Ran := do
  let tt := s.tileTag k ts
  need cTAG (tileTagOk tt)
  let cs := (List.range (cnt1.toNat + 1)).filter (fun c => ent.rows.getLsbD (row.toNat + c))
  let s := cs.foldl (fun s c =>
    let l := s.tileRow k ts (row.toNat + c) 256
    let a := vregAddr k (v.toNat + c)
    let s := s.chipPut a (l.flatMap (fun e => leBytes 4 e.1))
    let s := s.markRow a l
    s.modBank k (fun b => { b with
      vu := { b.vu with tags := vset b.vu.tags (v.toNat + c) (BitVec.ofNat 5 tt), gs := vset b.vu.gs (v.toNat + c) 0,
                        side := b.vu.side.clear (256 * (v.toNat + c)) 256 }
      v := { b.v with livev := setBit b.v.livev (v.toNat + c) true } })) s
  pure { s := s }

def State.runTfromv (s : State) (k : Nat) (ent : Entry) (td : BitVec 3) (v : BitVec 6) (row cnt1 : BitVec 7) : En Ran := do
  let cs := (List.range (cnt1.toNat + 1)).filter (fun c => ent.rows.getLsbD (row.toNat + c))
  -- the check covers every register, whatever the rows enabled (06 R118; 08 R156)
  let tags := (List.range (cnt1.toNat + 1)).map (fun c => (vget (s.bank k).vu.tags (v.toNat + c) 0).toNat)
  let tag := (tags.head?).getD 1
  need cTAG (tileTagOk tag && tags.all (· == tag))
  pure { s := s.putTile k td tag (cs.map (fun c =>
    let a := vregAddr k (v.toNat + c)
    (row.toNat + c, (List.range 256).map (fun j => (leNat (s.chipBytes (a + 4 * j) 4), nsHas s.memBad ((a + 4 * j) / 64)))))) }

/-! ## Masks, status and self-test (08 R175 to R177) -/

/-- MCFG at its push (08 R175): the new mask where the guard enables it. -/
def State.setRowMask (s : State) (g : Guard) (kd : BitVec 4) (only new : BitVec 128) : State :=
  if kd = 0 then s
  else
    let en := s.rowMask g &&& only
    let p := s.fcore.kp kd.toNat
    let s := s.modBank s.fk (fun b => { b with
      mx := { b.mx with k := vset b.mx.k p ((vget b.mx.k p 0 &&& ~~~en) ||| (new &&& en)) } })
    s.putCore { s.fcore with livek := setBit s.fcore.livek p true }

/-- The fenced sub-arrays of a cell (05 R104). -/
def State.fencedOf (s : State) (k : Nat) : Nat := field (s.die (k / 128)).fence.toNat (8 * (k % 128)) 8

/-- MSTAT (08 R176). -/
def State.runMstat (s : State) (k : Nat) (ent : Entry) (sel : BitVec 3) : En Ran :=
  if ent.rows.getLsbD 0 then
    let mx := (s.bank k).mx
    let fen := s.fencedOf k
    let arr := fun i => vget mx.arr i 0
    match sel.toNat with
    | 0 => .ok { s := s, res := some (wNat (fen + (if fen = 0 then 256 else 0) + (256 - 32 * popNat 8 fen) * 65536), false) }
    | 1 => .ok { s := s, res := some (wNat (s.cell k).passed, false) }
    | 2 => .ok { s := s, res := some (wNat (arr 0 + arr 1 * 2 ^ 16 + arr 2 * 2 ^ 32 + arr 3 * 2 ^ 48), false) }
    | _ =>
      .ok { s := s.modBank k (fun b => { b with mx := { b.mx with sticky := false } })
            res := some (wNat ((s.cell k).since % 8192 + (if mx.sticky then 2 ^ 63 else 0)), false) }
  else .ok { s := s }

/-- The sub-arrays that a self-test finds failing: a free choice among those not fenced yet (08 R177; log 2). -/
def State.failing (s : State) (k : Nat) : Nat := (Config.freeWord s.free % 256) &&& (255 - s.fencedOf k)

/-- A self-test: both counts restart; a failing sub-array is fenced, which its die logs as the cause of one update of the discovery table (05
R105; 08 R177; 17 R321; 19 R351). The answer tells whether it passed. -/
def State.selfTest (s : State) (k : Nat) : State × Bool :=
  let bad := s.failing k
  let s := s.bump.modCell k (fun c => { c with since := 0, lastTest := s.time })
  if bad = 0 then (s.modCell k (fun c => { c with passed := c.passed + 1 }), true)
  else
    let c := k % 128
    let s := s.modDie (k / 128) (fun d => { d with
      fence := d.fence ||| BitVec.ofNat 128 (bad * 2 ^ (8 * c)), fullw := setBit d.fullw c false })
    let s := ((List.range 8).filter bad.testBit).foldl (fun s i =>
      s.logHw (k / 128) 0x0012 0 (wNat (Config.unitCode [0, k, i])) (wNat (Config.actionCode 0))) s
    (s.discCaused (k / 128), false)

def State.runMtest (s : State) (k : Nat) : En Ran :=
  let (s, ok) := s.selfTest k
  if ok then .ok { s := s } else .ok { s := s, stop := some cSELFTEST }

/-- Is a self-test due before the next entry (08 R177)? -/
def State.testDue (s : State) (k : Nat) : Bool :=
  s.cls k == 1 && !isService k &&
    (decide (4096 ≤ (s.cell k).since) || decide (1000000 ≤ s.time - (s.cell k).lastTest))

/-- A self-test between entries: a failure stops the queue. -/
def State.testBetween (s : State) (k : Nat) : State :=
  let q := (s.bank k).prim
  let idle := match q.entries.head? with | some e => e.idle | none => true
  if idle then
    let (t, ok) := s.selfTest k
    if ok then t
    else if q.stop.isSome then t
    else t.stopQueue k .primary cSELFTEST none
  else s

def execSelftestCount (k : Nat) (s : State) : Out :=
  .next (if s.cls k = 1 ∧ !isService k ∧ 4096 ≤ (s.cell k).since then s.testBetween k else s)

def execSelftestTimer (k : Nat) (s : State) : Out :=
  .next (if s.cls k = 1 ∧ !isService k ∧ 1000000 ≤ s.time - (s.cell k).lastTest then s.testBetween k else s)

/-! ## A matrix entry runs, and the instructions that push -/

def State.runMatrix (s : State) (k : Nat) (ent : Entry) (i : Instr) : En Ran :=
  match i with
  | .mma f => s.runMma k ent f false
  | .mmaz f => s.runMma k ent f true
  | .mmat f => s.runMma k ent f f.z
  | .mmaq f => s.runMmaq k ent f
  | .mmamx f => s.runMmamx k ent f
  | .mmast f => s.runMmast k ent f
  | .mmac f => s.runMmac k ent f false
  | .mmacz f => s.runMmac k ent f true
  | .tzero _ _ td tag sh => s.runTzero k ent td tag sh
  | .tload _ _ td as tag sa sh => s.runTload k ent td as tag sa sh
  | .tstore _ _ ts ad tag rm sh => s.runTstore k ent ts ad tag rm sh
  | .tstoreq _ _ ts ad tag rm sg sh am gs => s.runTstoreq k ent ts ad tag rm sg sh am gs
  | .tstoremx _ _ ts ad tag rm sh am => s.runTstoremx k ent ts ad tag rm sh am
  | .tbias _ _ td as tag sa sh => s.runTbias k ent td as tag sa sh
  | .tscale _ _ td ar ac tag sh => s.runTscale k ent td ar ac tag sh
  | .tact _ _ td fn sh => s.runTact k ent td fn sh
  | .tredr _ _ ts ad op sh => s.runTredr k ent ts ad op sh
  | .tredc _ _ ts ad op sh => s.runTredc k ent ts ad op sh
  | .ttrans _ _ td ts sh => s.runTtrans k ent td ts sh
  | .ttov _ _ ts v row cnt1 => s.runTtov k ent ts v row cnt1
  | .tfromv _ _ td v row cnt1 => s.runTfromv k ent td v row cnt1
  | .tclamp _ _ td _ _ sh => s.runTclamp k ent td sh
  | .mcast _ _ ad as ranks len1 => s.runMcast k ent ad as ranks (len1.toNat + 1)
  | .mcwait _ _ rank count => s.runMcwait k rank count
  | .mtest _ _ => s.runMtest k
  | .mstat _ _ _ sel => s.runMstat k ent sel
  | .tcopy _ _ td ts sh => s.runTcopy k ent td ts sh
  | _ => .ok { s := s }

def execMma (f : FmtP) (s : State) : Out := matrix s f.g f.q (.mma f) [] none noAct
def execMmaz (f : FmtP) (s : State) : Out := matrix s f.g f.q (.mmaz f) [] none noAct
def execMmat (f : FmtP) (s : State) : Out := matrix s f.g f.q (.mmat f) [] none noAct
def execMmaq (f : FmtP) (s : State) : Out := matrix s f.g f.q (.mmaq f) [] none noAct
def execMmamx (f : FmtP) (s : State) : Out := matrix s f.g f.q (.mmamx f) [] none noAct
def execMmast (f : FmtP) (s : State) : Out := matrix s f.g f.q (.mmast f) [] none noAct
def execMmac (f : FmtP) (s : State) : Out := matrix s f.g f.q (.mmac f) [] none noAct
def execMmacz (f : FmtP) (s : State) : Out := matrix s f.g f.q (.mmacz f) [] none noAct

def execTzero (g : Guard) (q : Eng) (td : BitVec 3) (tag : BitVec 5) (sh : Shape) (s : State) : Out :=
  matrix s g q (.tzero g q td tag sh) [] none noAct
def execTload (g : Guard) (q : Eng) (td : BitVec 3) (as : BitVec 4) (tag : BitVec 5) (sa : Bool) (sh : Shape) (s : State) : Out :=
  matrix s g q (.tload g q td as tag sa sh) [] none noAct
def execTstore (g : Guard) (q : Eng) (ts : BitVec 3) (ad : BitVec 4) (tag : BitVec 5) (rm : BitVec 2) (sh : Shape) (s : State) : Out :=
  matrix s g q (.tstore g q ts ad tag rm sh) [] none noAct
def execTstoreq (g : Guard) (q : Eng) (ts : BitVec 3) (ad : BitVec 4) (tag : BitVec 5) (rm : BitVec 2) (sg : Bool) (sh : Shape)
    (am : BitVec 4) (gs : BitVec 2) (s : State) : Out :=
  matrix s g q (.tstoreq g q ts ad tag rm sg sh am gs) [] none noAct
def execTstoremx (g : Guard) (q : Eng) (ts : BitVec 3) (ad : BitVec 4) (tag : BitVec 5) (rm : BitVec 2) (sh : Shape) (am : BitVec 4)
    (s : State) : Out :=
  matrix s g q (.tstoremx g q ts ad tag rm sh am) [] none noAct
def execTbias (g : Guard) (q : Eng) (td : BitVec 3) (as : BitVec 4) (tag : BitVec 5) (sa : Bool) (sh : Shape) (s : State) : Out :=
  matrix s g q (.tbias g q td as tag sa sh) [] none noAct
def execTscale (g : Guard) (q : Eng) (td : BitVec 3) (ar ac : BitVec 4) (tag : BitVec 5) (sh : Shape) (s : State) : Out :=
  matrix s g q (.tscale g q td ar ac tag sh) [] none noAct
def execTact (g : Guard) (q : Eng) (td : BitVec 3) (fn : BitVec 3) (sh : Shape) (s : State) : Out :=
  matrix s g q (.tact g q td fn sh) [] none noAct
def execTredr (g : Guard) (q : Eng) (ts : BitVec 3) (ad : BitVec 4) (op : BitVec 2) (sh : Shape) (s : State) : Out :=
  matrix s g q (.tredr g q ts ad op sh) [] none noAct
def execTredc (g : Guard) (q : Eng) (ts : BitVec 3) (ad : BitVec 4) (op : BitVec 2) (sh : Shape) (s : State) : Out :=
  matrix s g q (.tredc g q ts ad op sh) [] none noAct
def execTtrans (g : Guard) (q : Eng) (td ts : BitVec 3) (sh : Shape) (s : State) : Out :=
  matrix s g q (.ttrans g q td ts sh) [] none noAct
def execTtov (g : Guard) (q : Eng) (ts : BitVec 3) (v : BitVec 6) (row cnt1 : BitVec 7) (s : State) : Out :=
  matrix s g q (.ttov g q ts v row cnt1) [] none noAct
def execTfromv (g : Guard) (q : Eng) (td : BitVec 3) (v : BitVec 6) (row cnt1 : BitVec 7) (s : State) : Out :=
  matrix s g q (.tfromv g q td v row cnt1) [] none noAct
def execTclamp (g : Guard) (q : Eng) (td : BitVec 3) (xlo xhi : BitVec 5) (sh : Shape) (s : State) : Out :=
  matrix s g q (.tclamp g q td xlo xhi sh) [xlo, xhi] none noAct
def execMcast (g : Guard) (q : Eng) (ad as : BitVec 4) (ranks : BitVec 4) (len1 : BitVec 22) (s : State) : Out :=
  matrix s g q (.mcast g q ad as ranks len1) [] none noAct
def execMcwait (g : Guard) (q : Eng) (rank : BitVec 2) (count : BitVec 16) (s : State) : Out :=
  matrix s g q (.mcwait g q rank count) [] none noAct

def execMcfgKset (g : Guard) (q : Eng) (kd : BitVec 4) (xs : BitVec 5) (s : State) : Out :=
  matrix s g q (.mcfgKset g q kd xs) [xs] none (fun ws s =>
    s.setRowMask g kd (BitVec.allOnes 128) (BitVec.ofNat 128 (2 ^ min ((ws.head?).getD 0).toNat 128 - 1)))

def execMcfgKput (g : Guard) (q : Eng) (kd : BitVec 4) (xs : BitVec 5) (h : Bool) (s : State) : Out :=
  matrix s g q (.mcfgKput g q kd xs h) [xs] none (fun ws s =>
    let sh := if h then 64 else 0
    s.setRowMask g kd (BitVec.ofNat 128 ((2 ^ 64 - 1) * 2 ^ sh)) (BitVec.ofNat 128 (((ws.head?).getD 0).toNat * 2 ^ sh)))

def execMcfgKlut (g : Guard) (q : Eng) (kd ka kb kc : BitVec 4) (tt : BitVec 8) (s : State) : Out :=
  matrix s g q (.mcfgKlut g q kd ka kb kc tt) [] none (fun _ s =>
    s.setRowMask g kd (BitVec.allOnes 128) (lutBits tt (s.rowK ka.toNat) (s.rowK kb.toNat) (s.rowK kc.toNat)))

def execMtest (g : Guard) (q : Eng) (s : State) : Out := matrix s g q (.mtest g q) [] none noAct

def execMstat (g : Guard) (q : Eng) (xd : BitVec 5) (sel : BitVec 3) (s : State) : Out :=
  matrix s g q (.mstat g q xd sel) [] (if (s.rowMask g).getLsbD 0 then some xd else none) noAct

def execTcopy (g : Guard) (q : Eng) (td ts : BitVec 3) (sh : Shape) (s : State) : Out :=
  matrix s g q (.tcopy g q td ts sh) [] none noAct

end Sys2Proof.Machine
end

