-- ==== Sys2Proof/Machine/Sparse.lean ====
section
/-! DEFINITION. The sparse engine: descriptors, rows and their checks, the sparse instructions (08 R178 to R183). -/

namespace Sys2Proof.Machine

/-! ## Descriptors and dense operands (08 R178, R179) -/

/-- A sparse descriptor (08 R179). -/
structure SpDesc where
  rows   : Nat
  cols   : Nat
  nnz    : Nat
  vtag   : Nat
  form   : Nat
  rowptr : Nat
  colidx : Nat
  vals   : Nat
  br     : Nat
  bc     : Nat
  cap    : Nat

/-- Read the descriptor at PTR: out of bounds, or poisoned, it stops the entry, before the checks of tags, which need its VTAG (DEDUCED from 08
R156, log 39). -/
def State.spDesc (s : State) (k : Nat) (a : AReg) : En SpDesc := do
  s.checkOpnd k false a .read [(0, 64)]
  need cPOISON (!s.opBad k a 0 64)
  let w := fun i => s.opNat k a (8 * i) 8
  pure { rows := field (w 0) 32 32, cols := field (w 0) 0 32, nnz := field (w 1) 32 32, vtag := field (w 1) 8 5,
         form := field (w 1) 0 2, rowptr := w 2, colidx := w 3, vals := w 4, br := field (w 5) 16 16, bc := field (w 5) 0 16,
         cap := w 6 }

/-- Values per entry: a block's elements under BSR. -/
def SpDesc.blk (d : SpDesc) : Nat := if d.form = 1 then d.br * d.bc else 1

/-- Bytes of n entries' values; a pattern has none. -/
def SpDesc.valBytes (d : SpDesc) (n : Nat) : Nat := if d.vtag = 0 then 0 else packedBytes (tagBits d.vtag) (n * d.blk)

/-- The spans of an input descriptor: itself and its arrays. -/
def SpDesc.spans (d : SpDesc) : List (Nat × Nat) :=
  [(0, 64), (d.rowptr, 4 * (d.rows + 1)), (d.colidx, 4 * d.nnz), (d.vals, d.valBytes d.nnz)]

/-- The spans of an output descriptor's arrays, by CAP. -/
def SpDesc.outSpans (d : SpDesc) : List (Nat × Nat) :=
  [(d.rowptr, 4 * (d.rows + 1)), (d.colidx, 4 * d.cap), (d.vals, d.valBytes d.cap)]

/-- A dense operand: element width, columns, and stride in bytes, 0 for rows back to back. -/
structure Dense where
  a : AReg
  w : Nat
  n : Nat
  stride : Nat

/-- The bit offset of element (r, j) from PTR. -/
def Dense.off (d : Dense) (r j : Nat) : Nat :=
  if d.stride = 0 then (r * d.n + j) * d.w else 8 * (r * d.stride) + j * d.w

/-- The span of row r. -/
def Dense.row (d : Dense) (r : Nat) : Nat × Nat :=
  (d.off r 0 / 8, (d.off r 0 + d.n * d.w + 7) / 8 - d.off r 0 / 8)

def Dense.rows (d : Dense) (rs : List Nat) : List (Nat × Nat) := rs.map d.row

def State.dEl (s : State) (k : Nat) (d : Dense) (r j : Nat) : Nat := s.opBits k d.a (d.off r j) d.w
def State.dBad (s : State) (k : Nat) (d : Dense) (r j : Nat) : Bool := s.opBitsBad k d.a (d.off r j) d.w
def State.dPut (s : State) (k : Nat) (d : Dense) (r j v : Nat) : State := s.opPutBits k d.a (d.off r j) d.w v

/-- Spans of an operand as on-chip spans. -/
def AReg.chipSpans (a : AReg) (k : Nat) (l : List (Nat × Nat)) : List (Nat × Nat) := l.map (fun p => (a.onChip k p.1, p.2))

/-- Does no output span share a byte with an input span (08 R181)? -/
def disjoint (outs ins : List (Nat × Nat)) : Bool :=
  outs.all (fun o => ins.all (fun i => !overlaps o.1 o.2 i.1 i.2))

/-! ## Rows (08 R180) -/

/-- Word i of an INT32 array at a byte offset. -/
def State.spWord (s : State) (k : Nat) (a : AReg) (off i : Nat) : Nat := s.opNat k a (off + 4 * i) 4
def State.spWordBad (s : State) (k : Nat) (a : AReg) (off i : Nat) : Bool := s.opBad k a (off + 4 * i) 4

/-- Does a list strictly ascend? -/
def ascends : List Nat → Bool
  | [] => true
  | [_] => true
  | a :: b :: l => decide (a < b) && ascends (b :: l)

/-- Are the values of an entry poisoned? -/
def State.spValBad (s : State) (k : Nat) (a : AReg) (d : SpDesc) (e : Nat) : Bool :=
  d.vtag != 0 && (List.range d.blk).any (fun i =>
    s.opBitsBad k a (8 * d.vals + (e * d.blk + i) * tagBits d.vtag) (tagBits d.vtag))

/-- Row r of a descriptor: its entries as (index, column), or the cause that it breaks. -/
def State.spRow (s : State) (k : Nat) (a : AReg) (d : SpDesc) (useVals : Bool) (r : Nat) : Except Nat (List (Nat × Nat)) :=
  if s.spWordBad k a d.rowptr r ∨ s.spWordBad k a d.rowptr (r + 1) then .error cPOISON
  else
    let p0 := s.spWord k a d.rowptr r
    let p1 := s.spWord k a d.rowptr (r + 1)
    if (r = 0 ∧ p0 ≠ 0) ∨ p1 < p0 ∨ d.nnz < p1 ∨ (r + 1 = d.rows ∧ p1 ≠ d.nnz) ∨ (d.form = 1 ∧ d.blk = 0) then .error cMETA
    else
      let es := (List.range (p1 - p0)).map (· + p0)
      if es.any (fun e => s.spWordBad k a d.colidx e || (useVals && s.spValBad k a d e)) then .error cPOISON
      else
        let cs := es.map (s.spWord k a d.colidx)
        if cs.all (fun c => decide (c < d.cols)) && ascends cs then .ok (es.zip cs) else .error cMETA

/-- Rows r, r + 1, … up to the first that breaks: the whole ones, and the cause that ends them. -/
def State.spRowsFrom (s : State) (k : Nat) (a : AReg) (d : SpDesc) (useVals : Bool) : Nat → Nat → List (List (Nat × Nat)) × Option Nat
  | 0, _ => ([], none)
  | n + 1, r => match s.spRow k a d useVals r with
    | .error c => ([], some c)
    | .ok l =>
      let (ls, c) := s.spRowsFrom k a d useVals n (r + 1)
      (l :: ls, c)

/-- The rows of a descriptor. With no row, ROWPTR[0] and NNZ must both be 0, and for BSR BR and BC not. -/
def State.spRows (s : State) (k : Nat) (a : AReg) (d : SpDesc) (useVals : Bool) : List (List (Nat × Nat)) × Option Nat :=
  if d.rows = 0 then
    ([], if s.spWordBad k a d.rowptr 0 then some cPOISON
      else if s.spWord k a d.rowptr 0 ≠ 0 ∨ d.nnz ≠ 0 ∨ (d.form = 1 ∧ d.blk = 0) then some cMETA else none)
  else s.spRowsFrom k a d useVals d.rows 0

/-- Value i of entry e; a pattern's is 1. -/
def State.spVal (s : State) (k : Nat) (a : AReg) (d : SpDesc) (sg : Bool) (e i : Nat) : Fp :=
  if d.vtag = 0 then .fin 1 false
  else plainValue d.vtag sg (s.opBits k a (8 * d.vals + (e * d.blk + i) * tagBits d.vtag) (tagBits d.vtag))

/-- The pattern of the value of entry e. -/
def State.spPat (s : State) (k : Nat) (a : AReg) (d : SpDesc) (e : Nat) : Nat :=
  s.opBits k a (8 * d.vals + e * tagBits d.vtag) (tagBits d.vtag)

/-- The integer of a value that is one. -/
def fpInt (v : Fp) : Int := match v with | .fin x _ => x.floor | _ => 0

/-! ## Tags (08 R179, R180) -/

def vtagOk (t : Nat) : Bool := decide (t ≤ 8)
def xtOk (t : Nat) : Bool := decide (1 ≤ t) && decide (t ≤ 8)

/-- Tags that may stand together: no float beside an integer; a pattern beside either. -/
def mixOk (a b : Nat) : Bool := a == 0 || b == 0 || isFloat a == isFloat b

/-- Is a result over these tags FP32 (else INT32)? -/
def floatRes (a b : Nat) : Bool := isFloat a || isFloat b

/-! ## Running rows -/

/-- Run rows in order until one is poisoned; a row that broke its descriptor ends the run with its cause. -/
def spRun (s : State) (rows : List (List (Nat × Nat)) × Option Nat)
    (step : State → Nat → List (Nat × Nat) → Option (State × Flags)) : Ran :=
  let out := rows.1.zipIdx.foldl (fun (acc : State × Flags × Bool) e =>
    if acc.2.2 then acc
    else match step acc.1 e.2 e.1 with
      | some (s, fl) => (s, acc.2.1.or fl, false)
      | none => (acc.1, acc.2.1, true)) (s, {}, false)
  { s := out.1, fl := out.2.1, stop := if out.2.2 then some cPOISON else rows.2 }

/-- A sum of products by 06 R125 as a result pattern: FP32, or INT32 modulo 2^32. -/
def spSum (flt : Bool) (start : Option Nat) (ps : List Fp) : Nat × Flags :=
  if flt then accumulate start ps
  else (patOf 32 (((start.map (fun p => (p : Int))).getD 0) + (ps.map fpInt).sum), {})

/-- Write row r of a dense operand. -/
def State.dRow (s : State) (k : Nat) (d : Dense) (r : Nat) (l : List Nat) : State :=
  l.zipIdx.foldl (fun s e => s.dPut k d r e.2 e.1) s

/-- Check the operands of an instruction: overlap, then bounds (08 R156). outs and ins are (register, spans). -/
def State.spCheck (_s : State) (k : Nat) (outs ins : List (AReg × List (Nat × Nat))) : En Unit := do
  need cOVERLAP (disjoint (outs.flatMap (fun p => p.1.chipSpans k p.2)) (ins.flatMap (fun p => p.1.chipSpans k p.2)))

def State.spTouch (s : State) (k : Nat) (l : List (AReg × List (Nat × Nat))) : State :=
  l.foldl (fun s p => s.opTouches k p.1 p.2) s

/-- Dense operands of an entry under the strides in force. -/
def State.denseX (s : State) (k : Nat) (ent : Entry) (f : FmtSp) (n : Nat) : Dense :=
  ⟨ent.areg f.ax, tagBits f.xt.toNat, n, (s.bank k).sp.ax.toNat⟩

def State.denseY (s : State) (k : Nat) (ent : Entry) (f : FmtSp) (w n : Nat) : Dense :=
  ⟨ent.areg f.ay, w, n, (s.bank k).sp.ay.toNat⟩

/-- The rows below n, and the columns that entries name. -/
def colsOf (rows : List (List (Nat × Nat))) : List Nat := (rows.flatMap (fun l => l.map (·.2))).eraseDups

/-! ## Products (08 R181: SPMM, SPMMZ, SPMMB, SPMV, SDDMM, EMBAG) -/

/-- SPMM, SPMMZ and SPMV: Y(r, j) from the products of row r. X is COLS rows for the overlap test, though bounds are checked only of the rows read
(DEDUCED from 08 R156 and R181, log 39). -/
def State.runSpmm (s : State) (k : Nat) (ent : Entry) (f : FmtSp) (zero : Bool) : En Ran := do
  let a := ent.areg f.as
  let n := f.n1.toNat + 1
  let d ← s.spDesc k a
  need cTAG (d.form == 0 && vtagOk d.vtag && xtOk f.xt.toNat && mixOk d.vtag f.xt.toNat)
  let x := s.denseX k ent f n
  let y := s.denseY k ent f 32 n
  let outs := [(y.a, y.rows (List.range d.rows))]
  s.spCheck k outs [(a, d.spans), (x.a, x.rows (List.range d.cols))]
  s.checkOpnd k false a .read d.spans
  let rows := s.spRows k a d true
  let xs := x.rows (colsOf rows.1)
  let ys := y.rows (List.range rows.1.length)
  s.checkOpnd k false x.a .read xs
  s.checkOpnd k false y.a .write ys
  if zero then pure () else s.checkOpnd k false y.a .read ys
  let flt := floatRes d.vtag f.xt.toNat
  let s := s.spTouch k [(a, d.spans), (x.a, xs)]
  pure (spRun s rows (fun s r l =>
    let js := List.range n
    if l.any (fun e => js.any (fun j => s.dBad k x e.2 j)) || (!zero && js.any (fun j => s.dBad k y r j)) then none
    else
      let out := js.map (fun j => spSum flt (if zero then none else some (s.dEl k y r j))
        (l.map (fun e => prodOf (s.spVal k a d f.sa e.1 0) (plainValue f.xt.toNat f.sb (s.dEl k x e.2 j)))))
      some (s.dRow k y r (out.map (·.1)), orAll (out.map (·.2)))))

/-- SPMMB: rows of blocks. -/
def State.runSpmmb (s : State) (k : Nat) (ent : Entry) (f : FmtSp) : En Ran := do
  let a := ent.areg f.as
  let n := f.n1.toNat + 1
  let zero := f.op.getLsbD 0
  let d ← s.spDesc k a
  need cTAG (d.form == 1 && vtagOk d.vtag && xtOk f.xt.toNat && mixOk d.vtag f.xt.toNat)
  let x := s.denseX k ent f n
  let y := s.denseY k ent f 32 n
  s.spCheck k [(y.a, y.rows (List.range (d.rows * d.br)))] [(a, d.spans), (x.a, x.rows (List.range (d.cols * d.bc)))]
  s.checkOpnd k false a .read d.spans
  let rows := s.spRows k a d true
  let xs := x.rows ((colsOf rows.1).flatMap (fun c => (List.range d.bc).map (fun b => c * d.bc + b)))
  let ys := y.rows (List.range (rows.1.length * d.br))
  s.checkOpnd k false x.a .read xs
  s.checkOpnd k false y.a .write ys
  if zero then pure () else s.checkOpnd k false y.a .read ys
  let flt := floatRes d.vtag f.xt.toNat
  let s := s.spTouch k [(a, d.spans), (x.a, xs)]
  pure (spRun s rows (fun s rb l =>
    let js := List.range n
    let as := List.range d.br
    let bs := List.range d.bc
    if l.any (fun e => bs.any (fun b => js.any (fun j => s.dBad k x (e.2 * d.bc + b) j))) ||
        (!zero && as.any (fun i => js.any (fun j => s.dBad k y (rb * d.br + i) j))) then none
    else
      let out := as.map (fun i => (rb * d.br + i, js.map (fun j =>
        spSum flt (if zero then none else some (s.dEl k y (rb * d.br + i) j))
          (l.flatMap (fun e => bs.map (fun b => prodOf (s.spVal k a d f.sa e.1 (i * d.bc + b))
            (plainValue f.xt.toNat f.sb (s.dEl k x (e.2 * d.bc + b) j))))))))
      some (out.foldl (fun s e => s.dRow k y e.1 (e.2.map (·.1))) s, orAll (out.flatMap (fun e => e.2.map (·.2))))))

/-- SDDMM: the sum by 06 R125 over k < N, then its product with v, rounded. -/
def State.runSddmm (s : State) (k : Nat) (ent : Entry) (f : FmtSp) : En Ran := do
  let a := ent.areg f.as
  let n := f.n1.toNat + 1
  let d ← s.spDesc k a
  need cTAG (d.form == 0 && vtagOk d.vtag && xtOk f.xt.toNat && mixOk d.vtag f.xt.toNat)
  let p := s.denseX k ent f n
  let q : Dense := { p with a := ent.areg f.aq, stride := (s.bank k).sp.aq.toNat }
  let o := ent.areg f.ay
  s.spCheck k [(o, [(0, 4 * d.nnz)])]
    [(a, d.spans), (p.a, p.rows (List.range d.rows)), (q.a, q.rows (List.range d.cols))]
  s.checkOpnd k false a .read d.spans
  let rows := s.spRows k a d true
  let ps := p.rows ((List.range rows.1.length).filter (fun r => (rows.1[r]?).getD [] != []))
  let qs := q.rows (colsOf rows.1)
  s.checkOpnd k false p.a .read ps
  s.checkOpnd k false q.a .read qs
  s.checkOpnd k false o .write [(0, 4 * (rows.1.map List.length).sum)]
  let flt := floatRes d.vtag f.xt.toNat
  let s := s.spTouch k [(a, d.spans), (p.a, ps), (q.a, qs)]
  pure (spRun s rows (fun s r l =>
    let ks := List.range n
    let val := fun (dn : Dense) (i j : Nat) => plainValue f.xt.toNat f.sb (s.dEl k dn i j)
    if l.any (fun e => ks.any (fun c => s.dBad k p r c || s.dBad k q e.2 c)) then none
    else
      let out := l.map (fun e =>
        let (sm, f1) := spSum flt none (ks.map (fun c => prodOf (val p r c) (val q e.2 c)))
        let v := s.spVal k a d f.sa e.1 0
        if flt then
          let (x, f2) := Fp.mul v (fp32.value sm)
          let (y, f3) := fp32.result .rne false x
          (e.1, y, (f1.or f2).or f3)
        else (e.1, patOf 32 (fpInt v * (sm : Int)), f1))
      some (out.foldl (fun s e => s.opPut k o (4 * e.1) (leBytes 4 e.2.1)) s, orAll (out.map (fun e => e.2.2)))))

/-- EMBAG: weighted sums, means or maxima of table rows, in FP32. -/
def State.runEmbag (s : State) (k : Nat) (ent : Entry) (f : FmtSp) : En Ran := do
  let a := ent.areg f.as
  let n := f.n1.toNat + 1
  let d ← s.spDesc k a
  need cTAG (d.form == 0 && vtagOk d.vtag && [1, 2, 3, 4, 5, 8].contains f.xt.toNat && mixOk d.vtag f.xt.toNat)
  let x := s.denseX k ent f n
  let y := s.denseY k ent f 32 n
  s.spCheck k [(y.a, y.rows (List.range d.rows))] [(a, d.spans), (x.a, x.rows (List.range d.cols))]
  s.checkOpnd k false a .read d.spans
  let rows := s.spRows k a d true
  let xs := x.rows (colsOf rows.1)
  s.checkOpnd k false x.a .read xs
  s.checkOpnd k false y.a .write (y.rows (List.range rows.1.length))
  let s := s.spTouch k [(a, d.spans), (x.a, xs)]
  pure (spRun s rows (fun s r l =>
    let js := List.range n
    if l.any (fun e => js.any (fun j => s.dBad k x e.2 j)) then none
    else
      let out := js.map (fun j =>
        let ms := l.map (fun e => Fp.mul (s.spVal k a d f.sa e.1 0) (plainValue f.xt.toNat f.sb (s.dEl k x e.2 j)))
        let ps := ms.map (·.1)
        if l = [] then (0, ({} : Flags))
        else match f.op.toNat with
          | 0 => accumulate none ps
          | 1 =>
            let (sm, f1) := accumulate none ps
            let (v, f2) := Fp.div (fp32.value sm) (.fin l.length false)
            let (q, f3) := fp32.result .rne false v
            (q, (f1.or f2).or f3)
          | _ =>
            let (v, f1) := extremeF true ps
            let (q, f2) := fp32.result .rne false v
            (q, ((orAll (ms.map (·.2))).or f1).or f2))
      some (s.dRow k y r (out.map (·.1)), orAll (out.map (·.2)))))

/-! ## Moves and reductions (08 R181: SPGATH, SPSCAT, SPSEG, SPDENSE, SPCOUNT, SPSCAN) -/

def State.runSpgath (s : State) (k : Nat) (ent : Entry) (f : FmtSp) : En Ran := do
  let a := ent.areg f.as
  let d ← s.spDesc k a
  need cTAG (d.form == 0 && vtagOk d.vtag && decide (1 ≤ f.xt.toNat) && decide (f.xt.toNat ≤ 9) && mixOk d.vtag f.xt.toNat)
  let x := s.denseX k ent f 1
  let w := tagBits f.xt.toNat
  let o := ent.areg f.ay
  s.spCheck k [(o, [(0, packedBytes w d.nnz)])] [(a, d.spans), (x.a, x.rows (List.range d.cols))]
  s.checkOpnd k false a .read d.spans
  let rows := s.spRows k a d false
  let xs := x.rows (colsOf rows.1)
  s.checkOpnd k false x.a .read xs
  s.checkOpnd k false o .write [(0, packedBytes w (rows.1.map List.length).sum)]
  let s := s.spTouch k [(a, d.spans), (x.a, xs)]
  pure (spRun s rows (fun s _ l =>
    if l.any (fun e => s.dBad k x e.2 0) then none
    else some (l.foldl (fun s e => s.opPutEl k o w e.1 (s.dEl k x e.2 0)) s, {})))

/-- y op v of SPSCAT, y of tag XT. -/
def scatter (xt op : Nat) (signed : Bool) (y : Nat) (v : Fp) : Nat × Flags :=
  if xt = 1 then
    let (r, f1) := match op with
      | 0 => Fp.add false (fp32.value y) v
      | 1 => Fp.minmax true (fp32.value y) v
      | 2 => Fp.minmax false (fp32.value y) v
      | _ => (v, {})
    let (p, f2) := fp32.result .rne false r
    (p, f1.or f2)
  else
    let a := intOf 32 signed y
    let b := fpInt v
    (patOf 32 (match op with | 0 => a + b | 1 => max a b | 2 => min a b | _ => b), {})

def State.runSpscat (s : State) (k : Nat) (ent : Entry) (f : FmtSp) : En Ran := do
  let a := ent.areg f.as
  let d ← s.spDesc k a
  let xt := f.xt.toNat
  need cTAG (d.form == 0 && vtagOk d.vtag && (xt == 1 || xt == 6) && mixOk d.vtag xt)
  let y := s.denseY k ent f 32 1
  s.spCheck k [(y.a, y.rows (List.range d.cols))] [(a, d.spans)]
  s.checkOpnd k false a .read d.spans
  let rows := s.spRows k a d true
  let ys := y.rows (colsOf rows.1)
  s.checkOpnd k false y.a .write ys
  if f.op = 3 then pure () else s.checkOpnd k false y.a .read ys
  let s := s.spTouch k [(a, d.spans)]
  pure (spRun s rows (fun s _ l =>
    if f.op ≠ 3 ∧ l.any (fun e => s.dBad k y e.2 0) = true then none
    else some (l.foldl (fun acc e =>
      let (p, fl) := scatter xt f.op.toNat f.sb (acc.1.dEl k y e.2 0) (acc.1.spVal k a d f.sa e.1 0)
      (acc.1.dPut k y e.2 0 p, acc.2.or fl)) (s, ({} : Flags)))))

def State.runSpseg (s : State) (k : Nat) (ent : Entry) (f : FmtSp) : En Ran := do
  let a := ent.areg f.as
  let d ← s.spDesc k a
  need cTAG (d.form == 0 && vtagOk d.vtag)
  let y := s.denseY k ent f 32 1
  s.spCheck k [(y.a, y.rows (List.range d.rows))] [(a, d.spans)]
  s.checkOpnd k false a .read d.spans
  let rows := s.spRows k a d (f.op != 3)
  s.checkOpnd k false y.a .write (y.rows (List.range rows.1.length))
  let flt := isFloat d.vtag
  let s := s.spTouch k [(a, d.spans)]
  pure (spRun s rows (fun s r l =>
    let vs := l.map (fun e => s.spVal k a d f.sa e.1 0)
    let ext := fun (larger : Bool) =>
      if flt then
        if l = [] then (fp32.infinity larger, ({} : Flags))
        else
          let (v, f1) := extremeF larger vs
          let (p, f2) := fp32.result .rne false v
          (p, f1.or f2)
      else
        let is := vs.map fpInt
        (patOf 32 (match is with
          | [] => if larger then -2147483648 else 2147483647
          | i :: rest => rest.foldl (fun m x => if larger then max m x else min m x) i), {})
    let (p, fl) := match f.op.toNat with
      | 0 => spSum flt none vs
      | 1 => ext true
      | 2 => ext false
      | _ => (l.length, {})
    some (s.dPut k y r 0 p, fl)))

/-- The pattern of 1 under a tag. -/
def onePat (t : Nat) : Nat := if isFloat t then (fmtOf t).pattern 1 false else 1

def State.runSpdense (s : State) (k : Nat) (ent : Entry) (f : FmtSp) : En Ran := do
  let a := ent.areg f.as
  let d ← s.spDesc k a
  let xt := f.xt.toNat
  need cTAG (d.form == 0 && vtagOk d.vtag && (if d.vtag = 0 then (decide (1 ≤ xt) && decide (xt ≤ 9)) || xt == 18 else xt == d.vtag))
  let y := s.denseY k ent f (tagBits xt) d.cols
  s.spCheck k [(y.a, y.rows (List.range d.rows))] [(a, d.spans)]
  s.checkOpnd k false a .read d.spans
  let rows := s.spRows k a d true
  s.checkOpnd k false y.a .write (y.rows (List.range rows.1.length))
  let s := s.spTouch k [(a, d.spans)]
  pure (spRun s rows (fun s r l =>
    let vals := (List.range d.cols).map (fun c => match l.find? (fun e => e.2 == c) with
      | some e => if d.vtag = 0 then onePat xt else s.spPat k a d e.1
      | none => 0)
    some (s.dRow k y r vals, {})))

/-- SPCOUNT: a row that breaks its descriptor leaves the output unchanged. -/
def State.runSpcount (s : State) (k : Nat) (ent : Entry) (f : FmtSp) : En Ran := do
  let a := ent.areg f.as
  let d ← s.spDesc k a
  need cTAG (d.form == 0 && vtagOk d.vtag)
  let y := s.denseY k ent f 32 1
  s.spCheck k [(y.a, y.rows (List.range d.cols))] [(a, d.spans)]
  s.checkOpnd k false a .read d.spans
  s.checkOpnd k false y.a .write (y.rows (List.range d.cols))
  let rows := s.spRows k a d false
  let s := s.spTouch k [(a, d.spans)]
  match rows.2 with
  | some c => pure { s := s, stop := some c }
  | none =>
    let cs := rows.1.flatMap (fun l => l.map (·.2))
    pure { s := (List.range d.cols).foldl (fun s c => s.dPut k y c 0 (cs.count c)) s }

/-- SPSCAN: one dense row of N elements; poison in it leaves the output unchanged. -/
def State.runSpscan (s : State) (k : Nat) (ent : Entry) (f : FmtSp) : En Ran := do
  let x := ent.areg f.ax
  let y := ent.areg f.ay
  let n := f.n1.toNat + 1
  s.spCheck k [(y, [(0, 4 * (n + 1))])] [(x, [(0, 4 * n)])]
  s.checkOpnd k false x .read [(0, 4 * n)]
  s.checkOpnd k false y .write [(0, 4 * (n + 1))]
  need cPOISON (!s.opBad k x 0 (4 * n))
  let ys := (List.range n).foldl (fun (acc : List Nat × Nat) i =>
    let t := (acc.2 + s.opEl k x 32 i) % 2 ^ 32
    (acc.1 ++ [t], t)) ([0], 0)
  let s := s.spTouch k [(x, [(0, 4 * n)])]
  pure { s := s.opPut k y 0 (ys.1.flatMap (leBytes 4)) }

/-! ## Building descriptors (08 R181, R182: SPISECT, SPUNION, SPCSR, SPTRANS) -/

/-- Write rows of (column, pattern) into an output descriptor until one exceeds CAP or the input ended with a cause; then its
VTAG and NNZ (08 R182). -/
def State.spBuild (s : State) (k : Nat) (o : AReg) (d : SpDesc) (vtag : Nat) (rows : List (List (Nat × Nat))) (brk : Option Nat)
    (fl : Flags) : Ran :=
  let w := tagBits vtag
  let out := rows.zipIdx.foldl (fun (acc : State × Nat × Bool) e =>
    if acc.2.2 then acc
    else if d.cap < acc.2.1 + e.1.length then (acc.1, acc.2.1, true)
    else
      let s := if e.2 = 0 then acc.1.opPut k o d.rowptr (leBytes 4 0) else acc.1
      let s := e.1.zipIdx.foldl (fun s x =>
        let i := acc.2.1 + x.2
        let s := s.opPut k o (d.colidx + 4 * i) (leBytes 4 x.1.1)
        if vtag = 0 then s else s.opPutBits k o (8 * d.vals + i * w) w x.1.2) s
      (s.opPut k o (d.rowptr + 4 * (e.2 + 1)) (leBytes 4 (acc.2.1 + e.1.length)), acc.2.1 + e.1.length, false)) (s, 0, false)
  if out.2.2 then { s := out.1, fl := fl, stop := some cCAPACITY }
  else match brk with
    | some c => { s := out.1, fl := fl, stop := some c }
    | none =>
      let s := if d.rows = 0 then out.1.opPut k o d.rowptr (leBytes 4 0) else out.1
      let w1 := s.opNat k o 8 8
      let s := s.opPut k o 8 (leBytes 8 (field w1 0 8 + vtag * 256 + field w1 13 19 * 8192 + out.2.1 * 2 ^ 32))
      { s := s.modBank k (fun b => { b with sp := { b.sp with nnz := wNat out.2.1 } }), fl := fl }

/-- Check an output descriptor's arrays against inputs, and its bounds. -/
def State.checkBuild (s : State) (k : Nat) (o : AReg) (d : SpDesc) (ins : List (AReg × List (Nat × Nat))) : En Unit := do
  s.spCheck k [(o, (0, 64) :: d.outSpans)] ins
  ins.forM (fun p => s.checkOpnd k false p.1 .read p.2)
  s.checkOpnd k false o .write ((0, 64) :: d.outSpans)

/-- Put a value into a tag of an output descriptor, rounded once; an integer outside the tag's range is a value the spec does
not state, and free. -/
def storeVal (t : Nat) (signed : Bool) (free : Nat) (v : Fp) : Nat × Flags :=
  if isFloat t then (fmtOf t).result .rne false v
  else
    let w := tagBits t
    let i := fpInt v
    if intMin w signed ≤ i ∧ i ≤ intMax w signed then (patOf w i, {}) else (free % 2 ^ w, {})

/-- SPISECT and SPUNION: rows of both inputs, merged by column. -/
def State.runSpmerge (s : State) (k : Nat) (ent : Entry) (f : FmtSp) (union : Bool) : En Ran := do
  let a := ent.areg f.as
  let b := ent.areg f.ax
  let o := ent.areg f.ay
  let da ← s.spDesc k a
  let db ← s.spDesc k b
  let dout ← s.spDesc k o
  let t := da.vtag
  need cTAG (da.form == 0 && db.form == 0 && dout.form == 0 && vtagOk t && (db.vtag == t || db.vtag == 0))
  need cMETA (da.rows == db.rows && da.cols == db.cols && dout.rows == da.rows && dout.cols == da.cols)
  let dout := { dout with vtag := t, form := 0 }
  s.checkBuild k o dout [(a, da.spans), (b, db.spans)]
  let ra := s.spRows k a da true
  let rb := s.spRows k b db true
  let n := min ra.1.length rb.1.length
  let brk := if ra.1.length ≤ rb.1.length then ra.2.or rb.2 else rb.2.or ra.2
  let rows := (List.range n).map (fun r =>
    let la := (ra.1[r]?).getD []
    let lb := (rb.1[r]?).getD []
    let cols := ((la.map (·.2)) ++ (lb.map (·.2))).eraseDups.insertionSort (· ≤ ·)
    cols.filterMap (fun c =>
      let ea := la.find? (fun e => e.2 == c)
      let eb := lb.find? (fun e => e.2 == c)
      if union || (ea.isSome && eb.isSome) then some (c, ea.map (·.1), eb.map (·.1)) else none))
  let zero : Fp := .fin 0 false
  let vals := rows.zipIdx.map (fun e => e.1.map (fun x =>
    let va := match x.2.1 with | some i => s.spVal k a da f.sa i 0 | none => zero
    let vb := match x.2.2 with | some i => s.spVal k b db f.sa i 0 | none => zero
    let (v, f1) := if f.op = 1 then (va, ({} : Flags)) else if union then Fp.add false va vb else Fp.mul va vb
    let (p, f2) := storeVal t f.sa (Config.freeWord (s.free + e.2 * dout.cols + x.1)) v
    ((x.1, p), f1.or f2)))
  let fl := orAll (vals.flatMap (fun l => l.map (·.2)))
  let s := { s with free := s.free + dout.rows * dout.cols + 1 }
  let s := s.spTouch k [(a, da.spans), (b, db.spans)]
  pure (s.spBuild k o dout t (vals.map (fun l => l.map (·.1))) brk fl)

/-- SPCSR: the elements of a dense array whose pattern is not a zero. -/
def State.runSpcsr (s : State) (k : Nat) (ent : Entry) (f : FmtSp) : En Ran := do
  let o := ent.areg f.ay
  let d ← s.spDesc k o
  let xt := f.xt.toNat
  need cTAG (d.form == 0 && xtOk xt)
  let d := { d with vtag := xt, form := 0 }
  let x := s.denseX k ent f d.cols
  let w := tagBits xt
  let xs := x.rows (List.range d.rows)
  s.checkBuild k o d [(x.a, xs)]
  let rs := (List.range d.rows).takeWhile (fun r => !(List.range d.cols).any (fun c => s.dBad k x r c))
  let rows := rs.map (fun r => (List.range d.cols).filterMap (fun c =>
    let p := s.dEl k x r c
    if (if isFloat xt then p % 2 ^ (w - 1) else p) = 0 then none else some (c, p)))
  let s := s.spTouch k [(x.a, xs)]
  pure (s.spBuild k o d xt rows (if rs.length = d.rows then none else some cPOISON) {})

/-- SPTRANS: a row that breaks the input leaves the output unchanged. -/
def State.runSptrans (s : State) (k : Nat) (ent : Entry) (f : FmtSp) : En Ran := do
  let a := ent.areg f.as
  let o := ent.areg f.ay
  let da ← s.spDesc k a
  let d ← s.spDesc k o
  need cTAG (da.form == 0 && d.form == 0 && vtagOk da.vtag)
  need cMETA (d.rows == da.cols && d.cols == da.rows)
  let d := { d with vtag := da.vtag, form := 0 }
  s.checkBuild k o d [(a, da.spans)]
  let rows := s.spRows k a da true
  let s := s.spTouch k [(a, da.spans)]
  match rows.2 with
  | some c => pure { s := s, stop := some c }
  | none =>
    let es := rows.1.zipIdx.flatMap (fun e => e.1.map (fun x => (e.2, x.2, s.spPat k a da x.1)))
    let out := (List.range da.cols).map (fun c => (es.filter (fun e => e.2.1 == c)).map (fun e => (e.1, e.2.2)))
    pure (s.spBuild k o d da.vtag out none {})

/-! ## A sparse entry runs, and the instructions that push (08 R183) -/

def State.runSparse (s : State) (k : Nat) (ent : Entry) (i : Instr) : En Ran :=
  match i with
  | .spmm f => s.runSpmm k ent f false
  | .spmmz f => s.runSpmm k ent f true
  | .spmmb f => s.runSpmmb k ent f
  | .spmv f => s.runSpmm k ent f (!f.op.getLsbD 0)
  | .sddmm f => s.runSddmm k ent f
  | .spgath f => s.runSpgath k ent f
  | .spscat f => s.runSpscat k ent f
  | .spseg f => s.runSpseg k ent f
  | .spisect f => s.runSpmerge k ent f false
  | .spunion f => s.runSpmerge k ent f true
  | .spcsr f => s.runSpcsr k ent f
  | .spdense f => s.runSpdense k ent f
  | .sptrans f => s.runSptrans k ent f
  | .spcount f => s.runSpcount k ent f
  | .spscan f => s.runSpscan k ent f
  | .embag f => s.runEmbag k ent f
  | .spcfg _ _ item _ =>
    .ok { s := s.modBank k (fun b => { b with sp := match item.toNat with
      | 0 => { b.sp with ax := ent.x 0 }
      | 1 => { b.sp with ay := ent.x 0 }
      | _ => { b.sp with aq := ent.x 0 } }) }
  | .spstat _ _ _ sel =>
    .ok { s := s, res := some (if sel = 0 then (s.bank k).sp.nnz else wNat (s.bank k).sp.completed, false) }
  | _ => .ok { s := s }

def execSpmm (f : FmtSp) (s : State) : Out := primary s f.g f.q (.spmm f) [] none
def execSpmmz (f : FmtSp) (s : State) : Out := primary s f.g f.q (.spmmz f) [] none
def execSpmmb (f : FmtSp) (s : State) : Out := primary s f.g f.q (.spmmb f) [] none
def execSpmv (f : FmtSp) (s : State) : Out := primary s f.g f.q (.spmv f) [] none
def execSddmm (f : FmtSp) (s : State) : Out := primary s f.g f.q (.sddmm f) [] none
def execSpgath (f : FmtSp) (s : State) : Out := primary s f.g f.q (.spgath f) [] none
def execSpscat (f : FmtSp) (s : State) : Out := primary s f.g f.q (.spscat f) [] none
def execSpseg (f : FmtSp) (s : State) : Out := primary s f.g f.q (.spseg f) [] none
def execSpisect (f : FmtSp) (s : State) : Out := primary s f.g f.q (.spisect f) [] none
def execSpunion (f : FmtSp) (s : State) : Out := primary s f.g f.q (.spunion f) [] none
def execSpcsr (f : FmtSp) (s : State) : Out := primary s f.g f.q (.spcsr f) [] none
def execSpdense (f : FmtSp) (s : State) : Out := primary s f.g f.q (.spdense f) [] none
def execSptrans (f : FmtSp) (s : State) : Out := primary s f.g f.q (.sptrans f) [] none
def execSpcount (f : FmtSp) (s : State) : Out := primary s f.g f.q (.spcount f) [] none
def execSpscan (f : FmtSp) (s : State) : Out := primary s f.g f.q (.spscan f) [] none
def execEmbag (f : FmtSp) (s : State) : Out := primary s f.g f.q (.embag f) [] none
def execSpcfg (g : Guard) (q : Eng) (item : BitVec 3) (xs : BitVec 5) (s : State) : Out :=
  primary s g q (.spcfg g q item xs) [xs] none
def execSpstat (g : Guard) (q : Eng) (xd : BitVec 5) (sel : BitVec 3) (s : State) : Out :=
  primary s g q (.spstat g q xd sel) [] (some xd)

end Sys2Proof.Machine
end

