-- ==== Sys2Proof/Machine/Sort.lean ====
section
/-! DEFINITION. The sort engine: the order of keys and the sort instructions (08 R184 to R187). -/

namespace Sys2Proof.Machine

/-! ## The order of keys (08 R185) -/

/-- The place of a key pattern: none for a NaN, else a number that rises with the key; −0 stands before +0. -/
def keyRank (kt : Nat) (signed : Bool) (p : Nat) : Option Int :=
  if isFloat kt then
    let w := tagBits kt
    match (fmtOf kt).value p with
    | .nan _ => none
    | _ => if bitOf p (w - 1) then some (-((p % 2 ^ (w - 1) : Nat) : Int) - 1) else some ((p % 2 ^ (w - 1) : Nat) : Int)
  else some (intOf (tagBits kt) signed p)

/-- Does key a strictly precede key b? -/
def precedes (kt : Nat) (signed desc : Bool) (a b : Nat) : Bool :=
  match keyRank kt signed a, keyRank kt signed b with
  | none, _ => false
  | some _, none => true
  | some x, some y => if desc then decide (y < x) else decide (x < y)

/-- A key with its value. -/
abbrev KV := Nat × Nat

def FmtSo.before (f : FmtSo) (a b : Nat) : Bool := precedes f.kt.toNat f.s f.desc a b

/-- Keys in order, equal ones in input order. -/
def sortKeys (f : FmtSo) (l : List KV) : List KV :=
  l.insertionSort (fun a b => FmtSo.before f b.1 a.1 = false)

/-- The merge of 08 R186. -/
def mergeRuns (f : FmtSo) : Nat → List KV → List KV → List KV
  | _, [], b => b
  | _, a, [] => a
  | 0, a, _ => a
  | n + 1, x :: a, y :: b =>
    if FmtSo.before f y.1 x.1 then y :: mergeRuns f n (x :: a) b else x :: mergeRuns f n a (y :: b)

/-- The first of each run of equal adjacent keys. -/
def uniqueKeys (f : FmtSo) : List KV → List KV
  | [] => []
  | x :: l =>
    match uniqueKeys f l with
    | [] => [x]
    | y :: r =>
      match l with
      | [] => [x]
      | z :: _ => if FmtSo.before f x.1 z.1 || FmtSo.before f z.1 x.1 then x :: y :: r else x :: r

/-! ## Operands (08 R184) -/

/-- An input or output region of a sort instruction: register, element bytes, elements. -/
structure SoReg where
  a : AReg
  w : Nat
  n : Nat

def SoReg.span (r : SoReg) : Nat × Nat := (0, r.w * r.n)

def State.soRead (s : State) (k : Nat) (r : SoReg) : List Nat := (List.range r.n).map (fun i => s.opEl k r.a (8 * r.w) i)

/-- Do two regions stand at the same place, byte for byte? -/
def SoReg.same (k : Nat) (a b : SoReg) : Bool := a.a.onChip k 0 == b.a.onChip k 0 && a.w * a.n == b.w * b.n

/-- Does no output share a byte with an input, but for the pairs that are allowed? -/
def soApart (k : Nat) (outs ins : List SoReg) (ok : SoReg → SoReg → Bool) : Bool :=
  outs.all (fun o => ins.all (fun i => ok o i || !overlaps (o.a.onChip k 0) (o.w * o.n) (i.a.onChip k 0) (i.w * i.n)))

/-- The checks: overlap (but for allowed pairs), bounds, poison. -/
def State.soCheck (s : State) (k : Nat) (outs ins : List SoReg) (ok : SoReg → SoReg → Bool) : En Unit := do
  need cOVERLAP (soApart k outs ins ok)
  ins.forM (fun r => s.checkOpnd k false r.a .read [r.span])
  outs.forM (fun r => s.checkOpnd k false r.a .write [r.span])
  need cPOISON (ins.all (fun r => !s.opBad k r.a 0 (r.w * r.n)))

def noPair (_ _ : SoReg) : Bool := false

def State.soTouch (s : State) (k : Nat) (ins : List SoReg) : State := ins.foldl (fun s r => s.opTouch k r.a r.span) s

/-- Write a list of patterns. -/
def State.soWrite (s : State) (k : Nat) (a : AReg) (w : Nat) (l : List Nat) : State :=
  if l = [] then s else s.opPut k a 0 (l.flatMap (leBytes w))

/-! ## The instructions (08 R186) -/

/-- Bytes of a key. -/
def FmtSo.kw (f : FmtSo) : Nat := tagBits f.kt.toNat / 8

def FmtSo.keys (f : FmtSo) (ent : Entry) : SoReg := ⟨ent.areg f.ak, FmtSo.kw f, f.n1.toNat + 1⟩
def FmtSo.vals (f : FmtSo) (ent : Entry) : SoReg := ⟨ent.areg f.av, 4, f.n1.toNat + 1⟩
def FmtSo.mm (f : FmtSo) : Nat := f.m1.toNat + 1

/-- Values of n keys: the positions from a base under IOTA, else read. -/
def State.soVals (s : State) (k : Nat) (f : FmtSo) (r : SoReg) (base : Nat) : List Nat :=
  if f.iota then (List.range r.n).map (fun i => base + i) else s.soRead k r

/-- Write keys at AO and values at AW. -/
def State.soOut (s : State) (k : Nat) (ent : Entry) (f : FmtSo) (l : List KV) (keys vals : Bool) : State :=
  let s := if keys then s.soWrite k (ent.areg f.ao) (FmtSo.kw f) (l.map (·.1)) else s
  if vals then s.soWrite k (ent.areg f.aw) 4 (l.map (fun e => e.2 % 2 ^ 32)) else s

/-- SORT, SORTKV, TOPK, TOPKV, ARGSORT: the first m keys in order. -/
def State.runSortk (s : State) (k : Nat) (ent : Entry) (f : FmtSo) (m : Nat) (keys vals args : Bool) (allow : Bool) : En Ran := do
  let ks := FmtSo.keys f ent
  let vs := FmtSo.vals f ent
  let o : SoReg := ⟨ent.areg f.ao, FmtSo.kw f, m⟩
  let w : SoReg := ⟨ent.areg f.aw, 4, m⟩
  let ins := if vals && !f.iota then [ks, vs] else [ks]
  let outs := (if keys then [o] else []) ++ (if vals || args then [w] else [])
  let both := SoReg.same k o ks && (!vals || SoReg.same k w vs)
  s.soCheck k outs ins (fun x i => allow && both && SoReg.same k x i)
  let pos := List.range ks.n
  let l := sortKeys f ((s.soRead k ks).zip (if args then pos else if vals then s.soVals k f vs 0 else pos))
  pure { s := (s.soTouch k ins).soOut k ent f (l.take m) keys (vals || args) }

/-- MERGE, MERGEKV. -/
def State.runSomerge (s : State) (k : Nat) (ent : Entry) (f : FmtSo) (vals : Bool) : En Ran := do
  let k1 := FmtSo.keys f ent
  let k2 : SoReg := ⟨ent.areg f.ak2, FmtSo.kw f, FmtSo.mm f⟩
  let v1 := FmtSo.vals f ent
  let v2 : SoReg := ⟨ent.areg f.av2, 4, FmtSo.mm f⟩
  let n := k1.n + k2.n
  let ins := [k1, k2] ++ (if vals && !f.iota then [v1, v2] else [])
  let outs := (⟨ent.areg f.ao, FmtSo.kw f, n⟩ : SoReg) :: (if vals then [⟨ent.areg f.aw, 4, n⟩] else [])
  s.soCheck k outs ins noPair
  let l := mergeRuns f n ((s.soRead k k1).zip (if vals then s.soVals k f v1 0 else List.range k1.n))
    ((s.soRead k k2).zip (if vals then s.soVals k f v2 k1.n else List.range k2.n))
  pure { s := (s.soTouch k ins).soOut k ent f l true vals }

def State.setResult (s : State) (k n : Nat) : State :=
  s.modBank k (fun b => { b with so := { b.so with result := wNat n } })

/-- KTH: the position is written unless AW is A0. -/
def State.runKth (s : State) (k : Nat) (ent : Entry) (f : FmtSo) : En Ran := do
  let ks := FmtSo.keys f ent
  let outs := (⟨ent.areg f.ao, FmtSo.kw f, 1⟩ : SoReg) :: (if f.aw = 0 then [] else [⟨ent.areg f.aw, 4, 1⟩])
  s.soCheck k outs [ks] noPair
  let l := sortKeys f ((s.soRead k ks).zip (List.range ks.n))
  pure { s := (s.soTouch k [ks]).soOut k ent f ((l.drop (FmtSo.mm f - 1)).take 1) true (f.aw != 0) }

/-- UNIQUE: the checks cover n outputs, and only the first RESULT are written. -/
def State.runUnique (s : State) (k : Nat) (ent : Entry) (f : FmtSo) : En Ran := do
  let ks := FmtSo.keys f ent
  let outs := (⟨ent.areg f.ao, FmtSo.kw f, ks.n⟩ : SoReg) :: (if f.aw = 0 then [] else [⟨ent.areg f.aw, 4, ks.n⟩])
  s.soCheck k outs [ks] noPair
  let l := uniqueKeys f ((s.soRead k ks).zip (List.range ks.n))
  pure { s := ((s.soTouch k [ks]).soOut k ent f l true (f.aw != 0)).setResult k l.length }

/-- PARTN: values move if AV or IOTA is given. Only AO and AK may be one region. -/
def State.runPartn (s : State) (k : Nat) (ent : Entry) (f : FmtSo) : En Ran := do
  let ks := FmtSo.keys f ent
  let vs := FmtSo.vals f ent
  let vals := f.iota || f.av != 0
  let o : SoReg := ⟨ent.areg f.ao, FmtSo.kw f, ks.n⟩
  let ins := ks :: (if vals && !f.iota then [vs] else [])
  let outs := o :: (if vals then [⟨ent.areg f.aw, 4, ks.n⟩] else [])
  need cOVERLAP (soApart k [o] (ins.drop 1) noPair && soApart k (outs.drop 1) ins noPair)
  s.soCheck k outs ins (SoReg.same k)
  let p0 := (s.bank k).so.p0.toNat % 2 ^ (8 * FmtSo.kw f)
  let l := (s.soRead k ks).zip (if vals then s.soVals k f vs 0 else List.range ks.n)
  let first := l.filter (fun e => FmtSo.before f e.1 p0)
  let rest := l.filter (fun e => !FmtSo.before f e.1 p0)
  pure { s := ((s.soTouch k ins).soOut k ent f (first ++ rest) true vals).setResult k first.length }

/-- HISTO. -/
def State.runHisto (s : State) (k : Nat) (ent : Entry) (f : FmtSo) : En Ran := do
  let ks := FmtSo.keys f ent
  let bins := FmtSo.mm f
  s.soCheck k [⟨ent.areg f.ao, 4, bins⟩] [ks] noPair
  let so := (s.bank k).so
  let bs : List Int := (s.soRead k ks).map (fun p => (intOf (8 * FmtSo.kw f) f.s p - so.p0.toInt) / (2 ^ (so.p1.toNat % 64) : Nat))
  let counts := (List.range bins).map (fun (i : Nat) => bs.count (i : Int))
  let out := bs.filter (fun b => !(decide (0 ≤ b) && decide (b < (bins : Int))))
  pure { s := ((s.soTouch k [ks]).soWrite k (ent.areg f.ao) 4 counts).setResult k out.length }

/-- SEARCH. -/
def State.runSearch (s : State) (k : Nat) (ent : Entry) (f : FmtSo) : En Ran := do
  let ks := FmtSo.keys f ent
  let qs : SoReg := ⟨ent.areg f.av, FmtSo.kw f, FmtSo.mm f⟩
  s.soCheck k [⟨ent.areg f.ao, 4, FmtSo.mm f⟩] [ks, qs] noPair
  let l := s.soRead k ks
  let out := (s.soRead k qs).map (fun q => (l.filter (fun x => FmtSo.before f x q)).length)
  pure { s := (s.soTouch k [ks, qs]).soWrite k (ent.areg f.ao) 4 out }

/-! ## A sort entry runs, and the instructions that push (08 R187) -/

def State.runSort (s : State) (k : Nat) (ent : Entry) (i : Instr) : En Ran :=
  match i with
  | .sort f => s.runSortk k ent f (f.n1.toNat + 1) true false false true
  | .sortkv f => s.runSortk k ent f (f.n1.toNat + 1) true true false true
  | .topk f => s.runSortk k ent f (FmtSo.mm f) true false false false
  | .topkv f => s.runSortk k ent f (FmtSo.mm f) true true false false
  | .merge f => s.runSomerge k ent f false
  | .mergekv f => s.runSomerge k ent f true
  | .argsort f => s.runSortk k ent f (f.n1.toNat + 1) false false true false
  | .kth f => s.runKth k ent f
  | .unique f => s.runUnique k ent f
  | .partn f => s.runPartn k ent f
  | .histo f => s.runHisto k ent f
  | .search f => s.runSearch k ent f
  | .srtcfg _ _ item _ =>
    .ok { s := s.modBank k (fun b => { b with so := if item = 0 then { b.so with p0 := ent.x 0 } else { b.so with p1 := ent.x 0 } }) }
  | .srtstat _ _ _ sel =>
    .ok { s := s, res := some (if sel = 0 then (s.bank k).so.result else wNat (s.bank k).so.completed, false) }
  | _ => .ok { s := s }

def execSort (f : FmtSo) (s : State) : Out := primary s f.g f.q (.sort f) [] none
def execSortkv (f : FmtSo) (s : State) : Out := primary s f.g f.q (.sortkv f) [] none
def execTopk (f : FmtSo) (s : State) : Out := primary s f.g f.q (.topk f) [] none
def execTopkv (f : FmtSo) (s : State) : Out := primary s f.g f.q (.topkv f) [] none
def execMerge (f : FmtSo) (s : State) : Out := primary s f.g f.q (.merge f) [] none
def execMergekv (f : FmtSo) (s : State) : Out := primary s f.g f.q (.mergekv f) [] none
def execArgsort (f : FmtSo) (s : State) : Out := primary s f.g f.q (.argsort f) [] none
def execKth (f : FmtSo) (s : State) : Out := primary s f.g f.q (.kth f) [] none
def execUnique (f : FmtSo) (s : State) : Out := primary s f.g f.q (.unique f) [] none
def execPartn (f : FmtSo) (s : State) : Out := primary s f.g f.q (.partn f) [] none
def execHisto (f : FmtSo) (s : State) : Out := primary s f.g f.q (.histo f) [] none
def execSearch (f : FmtSo) (s : State) : Out := primary s f.g f.q (.search f) [] none
def execSrtcfg (g : Guard) (q : Eng) (item : BitVec 3) (xs : BitVec 5) (s : State) : Out :=
  primary s g q (.srtcfg g q item xs) [xs] none
def execSrtstat (g : Guard) (q : Eng) (xd : BitVec 5) (sel : BitVec 3) (s : State) : Out :=
  primary s g q (.srtstat g q xd sel) [] (some xd)

end Sys2Proof.Machine
end

