-- ==== Sys2Proof/Machine/Graph.lean ====
section
/-! DEFINITION. Buffer, graph and host instructions of the transfer engine (11 R237 to R242), and the start and completion of
queue entries, replies, and group operations (05 R92; 08 R166 to R168; 11 R216, R234, R236, R244). -/

namespace Sys2Proof.Machine

/-! ## Buffer instructions (11 R237, R238) -/

/-- The rights READ, WRITE, ATOMIC, REMOTE, WINDOW as bits 0 to 4 (02 R17). -/
def rightsRWA : BitVec 5 := 0b00111

/-- The cells of the group that still run the task of cell k. -/
def State.peers (s : State) (k : Nat) : List Nat := ((List.range (s.bank k).gsize).map (s.rankCell k)).filter (s.peer k)

/-- The task of cell k gains leases, on every cell of its group: they last until the task is recorded done on all of them (11 R237;
12 R250, R251). -/
def State.gainLease (s : State) (k : Nat) (l : List LeaseEnt) : State :=
  (s.peers k).foldl (fun s j => s.modBank j (fun b => { b with task := b.task.map (fun t => { t with lease := t.lease ++ l }) })) s

/-- BALLOC: the template is read, the scheduler allocates, the slot and the lease receive the buffer, and the reply brings the
handle. -/
def State.runBalloc (s : State) (k : Nat) (ent : Entry) (ad : BitVec 4) (slot : Nat) : En Ran := do
  let a := ent.areg ad
  let p := a.ptr.toNat
  need cBOUNDS (s.runOk k a [1] .read (8 * p, 8 * p + 512))
  need cPOISON (!badIn s.memBad (padBase k + p) 64)
  let raw := s.see (padBase k + p) 64
  let w := (List.range 8).map (fun i => wNat (leNat ((raw.drop (8 * i)).take 8)))
  let s := s.touch k p 64
  let (s, st, h) := s.alloc w
  let ent := { ent with res := wNat (st * 2 ^ 32 + h) }
  if st ≠ 0 then pure { s := s, need := .reply, ent := some ent }
  else
    let n := match s.buf? h with | some b => b.bytes | none => 0
    let b := s.bank k
    let s := s.hold b.asid h rightsRWA
    let cap : AReg := { limit := wNat n, bind := BitVec.ofNat 32 h, kind := 2, rights := rightsRWA }
    let s := s.modBank k (fun b => { b with task := b.task.map (fun t => { t with
      record := (List.range 4).foldl (fun r i => r.set (secBase .x + 24 + 4 * slot + i) ((cap.words[i]?).getD 0)) t.record }) })
    let s := s.gainLease k [{ h := h, lo := 0, hi := n, mode := .rw }, { h := h, lo := 0, hi := n, mode := .acc }]
    pure { s := s, need := .reply, ent := some ent }

/-- The buffer that AS names, which must be KIND 2 and not lost (11 R238). -/
def State.namedBuf (s : State) (a : AReg) (right : Bool) : En Nat := do
  need cBOUNDS (a.kind == 2 && right)
  need cLOST (!s.lost a.bind.toNat)
  pure a.bind.toNat

def State.runBref (s : State) (k : Nat) (ent : Entry) (as : BitVec 4) : En Ran := do
  let a := ent.areg as
  let h ← s.namedBuf a true
  let (s, ok) := s.addRef h
  need cREFERENCE ok
  pure { s := s.hold (s.bank k).asid h a.rights }

def State.runBdrop (s : State) (k : Nat) (ent : Entry) (as : BitVec 4) : En Ran := do
  let h ← s.namedBuf (ent.areg as) true
  let a := (s.bank k).asid
  need cREFERENCE ((kget? (s.asid a).holdings h).isSome)
  pure { s := s.unhold a h }

def State.runBxfer (s : State) (ent : Entry) (as : BitVec 4) (mask : BitVec 5) : En Ran := do
  let a := ent.areg as
  let h ← s.namedBuf a true
  let dest := field (ent.x 0).toNat 0 12
  let gen := field (ent.x 0).toNat 12 4
  need cREFERENCE ((s.asid dest).live && (s.asid dest).gen == gen)
  let (s, ok) := s.addRef h
  need cREFERENCE ok
  let r := a.rights &&& mask
  pure { s := (s.hold dest h r).deviceRecord dest 0x7FF (wNat (r.toNat * 2 ^ 32 + h)) }

/-! ## Graph and host (11 R239 to R241; 01 R13) -/

/-- GSUBMIT: the record is read and goes to the scheduler, whose acceptance completes the entry. -/
def State.runGsubmit (s : State) (k : Nat) (ent : Entry) (ar : BitVec 4) : En Ran := do
  let a := ent.areg ar
  let r := (8 * a.ptr.toNat, 8 * a.ptr.toNat + 8 * 576)
  need cBOUNDS (s.runOk k a [1, 2] .read r && decide (a.ptr.toNat % 8 = 0))
  s.leaseOk k a .read r
  let s := s.readSide k a [r]
  let l := s.sideBytes k a a.ptr.toNat 576
  need cPOISON (!l.any (·.2))
  let raw := l.map (·.1)
  let b := s.bank k
  let sub : Submission := {
    q := (ent.x 0).toNat, asid := b.asid, gen := b.gen, host := false, cell := k, uid := ent.uid
    record := (List.range 72).map (fun i => wNat (leNat ((raw.drop (8 * i)).take 8)))
    regs := (List.range 15).map (fun i => vget ent.a (i + 1) {}) }
  pure { s := { s with sched := { s.sched with subs := s.sched.subs ++ [sub] } }, need := .accept }

def State.runGsignal (s : State) (ent : Entry) (ab : BitVec 4) (n : Nat) : En Ran := do
  let a := ent.areg ab
  let h ← s.namedBuf a a.canWrite
  pure { s := s.modBuf h (fun b => { b with arrive := (b.arrive + n) % 2 ^ 32 }) }

def State.runArrwait (s : State) (ent : Entry) (ab : BitVec 4) : En Ran := do
  let a := ent.areg ab
  let _ ← s.namedBuf a a.canRead
  pure { s := s, need := .arrive }

/-- HNOTIFY: the record waits for its ring, with the engine's next sequence number (17 R326). -/
def State.runHnotify (s : State) (k : Nat) (ent : Entry) : En Ran := do
  let v := (ent.x 0).toNat
  need cBOUNDS (decide (v < 0x7F0))
  let (s, n) := s.nextSeq k
  let b := s.bank k
  pure { s := s.postRecord b.asid b.gen v (ent.x 1) n (some (k, ent.uid)), need := .ring }

/-! ## Starting entries (05 R92; 11 R216, R217, R244) -/

/-- Does an operation ask the scheduler die, which takes a context there (17 R320)? -/
def XOp.asks : XOp → Bool
  | .balloc _ _ | .bref _ | .bdrop _ | .bxfer _ _ | .gsubmit _ | .gsignal _ _ => true
  | _ => false

def State.runXfer (s : State) (k : Nat) (ent : Entry) (x : XOp) : En Ran :=
  let s := if x.asks then s.drawFlits k else s
  match x with
  | .copy opc f => s.runCopy k ent opc f
  | .amo opc f => s.runAmo k ent opc f
  | .xstream i ar => s.runXstream k ent i ar
  | .xstrend i => s.runXstrend k i
  | .xchan c ad => s.runXchan k ent c ad
  | .xchanClose c => s.runXchanClose k c
  | .phase scope group => s.runPhase k scope group
  | .fence scope => .ok { s := s, need := .drain scope }
  | .cbar => s.runCbar k
  | .balloc ad slot => s.runBalloc k ent ad slot
  | .bref as => s.runBref k ent as
  | .bdrop as => s.runBdrop k ent as
  | .bxfer as r => s.runBxfer ent as r
  | .gsubmit ar => s.runGsubmit k ent ar
  | .gsignal ab n => s.runGsignal ent ab n
  | .gwait => .ok { s := s, need := .gwait }
  | .arrwait ab => s.runArrwait ent ab
  | .hnotify => s.runHnotify k ent
  | .idle => .ok { s := s }

/-- A primary entry runs on the engine of its die class. -/
def State.runPrimary (s : State) (k : Nat) (ent : Entry) (i : Instr) : En Ran :=
  match s.cls k with
  | 1 => s.runMatrix k ent i
  | 2 => s.runSparse k ent i
  | _ => s.runSort k ent i

/-- Does an entry end or order a phase, so that later entries wait for it (12 R244)? -/
def Entry.orders (e : Entry) : Bool :=
  match e.op with
  | .xfer (.phase _ _) => true
  | .xfer (.fence _) => true
  | _ => false

/-- Does an entry start only when every earlier one has completed (11 R230, R233, R235, R241)? -/
def Entry.alone (e : Entry) : Bool :=
  e.orders || (match e.op with | .xfer .hnotify => true | .xfer (.xstrend _) => true | _ => false)

/-- Have the posted window writes of a cell's engine to cell j landed (12 R245)? -/
def State.quietTo (s : State) (k j : Nat) : Bool :=
  !(s.cell k).posted.any (fun p => !p.mcast && p.chan.isNone && p.dst.chip?.any (fun a => chipKey a == j))

/-- Has an XCOPYC of a channel elements parked, behind which a later one, an opening or a closing waits (11 R216, R225, R227)? -/
def Entry.parksOn (e : Entry) (c : Nat) : Bool :=
  e.need == .replay && (match e.op with | .xfer (.copy opc f) => opc == 0x182 && f.ch.toNat == c | _ => false)

/-- Have the bytes of earlier entries of a channel landed? -/
def State.chanQuiet (s : State) (k c : Nat) (before : List Entry) : Bool :=
  !(s.cell k).posted.any (fun p => p.chan.any (fun h => h.c == c)) && !before.any (fun e => e.parksOn c)

/-- May a transfer entry start, its wait aside? Its own writes at its start come after the posted window writes of earlier entries to the
same cell (12 R245), and an atomic after what earlier entries have still to write to its word (11 R216). -/
def State.xferReady (s : State) (k : Nat) (ent : Entry) : Bool :=
  let before := (s.bank k).xfer.entries.filter (fun e => decide (e.uid < ent.uid))
  !before.any Entry.orders && (!ent.alone || before == []) &&
    (match ent.op with
      | .xfer (.copy opc f) =>
        let (rs, ws, own) := s.copySpots k ent opc f
        s.clearFor11 k rs ws own && s.copyRoom k ent opc f &&
          (opc == 0x182 || (ent.areg f.ad).kind != 1 || s.quietTo k k) &&
          (opc != 0x182 || !before.any (fun e => e.parksOn f.ch.toNat))
      | .xfer (.amo _ f) =>
        let a := ent.areg f.aa
        let r := [(8 * a.ptr.toNat, 8 * a.ptr.toNat + (if f.sz then 64 else 32))]
        s.clearFor11 k (a.spots k r) (a.spots k r) true && (a.kind == 2 || s.quietTo k (chipKey (amoAddr k a)))
      | .xfer (.balloc ad _) =>
        let a := ent.areg ad
        s.clearFor11 k (a.spots k [(8 * a.ptr.toNat, 8 * a.ptr.toNat + 512)]) [] false
      | .xfer (.gsubmit ar) =>
        let a := ent.areg ar
        s.clearFor11 k (a.spots k [(8 * a.ptr.toNat, 8 * a.ptr.toNat + 4608)]) [] false
      | .xfer (.xchan c _) => s.chanQuiet k c before
      | .xfer (.xchanClose c) => s.chanQuiet k c before
      | .xfer .hnotify => s.drained k ent.uid 3
      | _ => true)

/-- Does the cell's task still hold the cores that its engines serve: not stopped for pre-emption or a fault? -/
def State.mayStart (s : State) (k : Nat) : Bool := !(s.cell k).preempt && (s.bank k).ending.isNone

/-- ENGINE_ENTRY_START: the next entry, its wait granted, makes its checks and runs, or stops the queue. -/
def execEngineEntryStart (k : Nat) (e : EngIx) (s : State) : Out :=
  .next (
    match (s.bank k).upNext e with
    | none => s
    | some ent =>
      if (ent.stage = .granted ∨ ent.q.wsem = 0) ∧ s.mayStart k = true then
        match ent.op with
        | .prim i => if s.testDue k then s else s.started k e ent (s.runPrimary k ent i)
        | .xfer x => if s.xferReady k ent then s.started k e ent (s.runXfer k ent x) else s
      else s)

/-! ## Completion (05 R92; 11 R216, R233) -/

/-- What an entry leaves at its completion: its buffer writes count as stored; a PHASE takes a new snapshot. -/
def State.atCompletion (s : State) (k : Nat) (ent : Entry) : State :=
  let s := ent.late.foldl (fun s l => (s.bufPutW k l.h l.off l.data).cacheTouch (s.bank k).asid l.h l.off l.data.length) s
  match phaseOf ent.op with
  | some _ => s.snapshot k
  | none => s

/-- ENGINE_ENTRY_COMPLETE: the entry at the front completes and signals. -/
def execEngineEntryComplete (k : Nat) (e : EngIx) (s : State) : Out :=
  .next (
    let q := (s.bank k).engine e
    match q.entries with
    | ent :: _ =>
      let behind := q.stop.isSome && (match q.culprit with | some u => decide (u ≤ ent.uid) | none => false)
      if (ent.stage = .finished ∨ (ent.stage = .far ∧ s.needMet k ent = true)) ∧ !behind then (s.atCompletion k ent).complete k e ent
      else s
    | [] => s)

/-! ## Far-end replies (11 R216, R239, R240) -/

/-- Kids of a cell's GWAIT: the nodes that earlier entries placed in its queue. -/
def Bank.kidsOf (b : Bank) (ent : Entry) : List Kid :=
  b.kids.filter (fun x => x.q == (ent.x 0).toNat && decide (x.uid < ent.uid))

/-- Does a status count as cancelled (11 R240; 13 R262)? -/
def cancelled (st : Nat) : Bool := st != 0 && st != 4 && st != 6

/-- The answer to an entry that waits at a far end, if there is one: a value for its X destination. A GWAIT counts the nodes of earlier
GSUBMITs, so it waits for their acceptance as well (11 R240; 12 R255). -/
def State.replyOf (s : State) (k : Nat) (ent : Entry) : Option (Option (Word × Bool)) :=
  match ent.need with
  | .reply => some (some (ent.res, ent.resBad))
  | .arrive =>
    match ent.op with
    | .xfer (.arrwait ab) =>
      match s.buf? (ent.areg ab).bind.toNat with
      | some b => if (b.arrive + 2 ^ 32 - (ent.x 0).toNat % 2 ^ 32) % 2 ^ 32 < 2 ^ 31 then some none else none
      | none => none
    | _ => none
  | .gwait =>
    let ks := (s.bank k).kidsOf ent
    if ks.all (fun x => x.done.isSome) && !(s.bank k).xfer.entries.any (fun e => e.need == .accept && decide (e.uid < ent.uid)) then
      some (some (wNat (ks.filter (fun x => cancelled (x.done.getD 0))).length, false))
    else none
  | _ => none

/-- FAR_END_REPLY: the answer to one of the entries that have one arrives; which comes first is open (log 2). -/
def execFarEndReply (k : Nat) (s : State) : Out :=
  .next (
    let es := (s.bank k).xfer.entries.filter (fun e => (s.replyOf k e).isSome)
    match es[Config.freeWord s.free % max es.length 1]? with
    | none => s
    | some ent =>
      match s.replyOf k ent with
      | some v => s.bump.answered k .transfer ent {} v
      | none => s)

/-! ## Group operations (08 R166 to R168; 11 R234, R236) -/

/-- Have all three cores of a cell reported done (05 R101; 15 R289)? -/
def Bank.allDone (b : Bank) : Bool :=
  let d := fun (r : Core) => r.run == .done || r.run == .absent
  d b.e && d b.v && d b.x

/-- Has a rank, on cell j, left the operations of the group of cell k: its queue stopped, its task ending, its cores done, or another
launch on its cell (08 R166; 11 R234; 12 R254)? -/
def State.rankGone (s : State) (k j : Nat) (e : EngIx) : Bool :=
  ((s.bank j).engine e).stop.isSome || (s.bank j).ending.isSome || (s.bank j).allDone || !s.peer k j

/-- The rows of A that some rank enables (08 R166). -/
def unionRows (l : List (Nat × Entry × FmtP)) (m : Nat) : List Nat :=
  (List.range m).filter (fun i => l.any (fun x => (rowsOf x.2.1.rows m).contains i))

/-- The cooperative product of a group: rank r's cell, entry, fields and MMACZ flag in rank order (08 R166). -/
def State.groupProduct (s : State) (l : List (Nat × Entry × FmtP × Bool)) : State :=
  match l with
  | [] => s
  | (k0, e0, f0, _) :: _ =>
    let agree := l.all (fun x => x.2.2.1.m1 == f0.m1 && x.2.2.1.k1 == f0.k1 && x.2.2.1.taga == f0.taga && x.2.2.1.tagb == f0.tagb &&
      x.2.2.1.sa == f0.sa && x.2.2.1.sb == f0.sb)
    if !agree then l.foldl (fun s x => s.stopOne x.1 .primary cGROUP (some x.2.1.uid)) s
    else
      let rows := unionRows (l.map (fun x => (x.1, x.2.1, x.2.2.1))) f0.m
      let fa := s.factorA k0 (e0.areg f0.aa) f0
      match s.checkFactor k0 fa rows with
      | .error c =>
        let s := s.stopOne k0 .primary c (some e0.uid)
        (l.drop 1).foldl (fun s x => s.stopOne x.1 .primary cGROUP (some x.2.1.uid)) s
      | .ok _ =>
        let s0 := s
        l.foldl (fun s x =>
          let (k, ent, f, z) := x
          let mine := rowsOf ent.rows f.m
          let fb := s0.factorB k (ent.areg f.ab) f
          if mine = [] then (s.touchFactor k0 fa rows).answered k .primary ent {} none
          else
            match s0.checkFactor k fb [0] with
            | .error c => s.stopOne k .primary c (some ent.uid)
            | .ok _ =>
              let s := (s.touchFactor k0 fa rows).touchFactor k fb [0]
              let (s, fl) := s.product k f.td mine f.n f.kk (intPair f) z fa fb
              s.answered k .primary ent fl none) s

/-- Put a started entry into a new wait. -/
def State.reneed (s : State) (k : Nat) (e : EngIx) (ent : Entry) (n : Need) : State :=
  s.modBank k (fun b => b.putEntry e { ent with need := n })

/-- The ranks of a group meet at an operation (11 R234, R236). -/
def State.meetGroup (s : State) (kind : GroupKind) (l : List (Nat × Entry × Nat)) : State :=
  match kind with
  | .mmac => s.groupProduct (l.filterMap (fun x => (mmacOf x.2.1.op).map (fun f => (x.1, x.2.1, f.1, f.2))))
  | .cbar => l.foldl (fun s x => s.reneed x.1 .transfer x.2.1 .pending) s
  | .phase =>
    let scopes := l.map (fun x => match phaseOf x.2.1.op with | some p => p.1 | none => 0)
    if scopes.all (fun a => some a == scopes.head?) then
      l.foldl (fun s x =>
        let s := s.modBank x.1 (fun b => { b with pubs := b.pubs.map (fun p => { p with held := false }) })
        s.reneed x.1 .transfer x.2.1 (.publish ((s.bank x.1).phase - 1) (some x.2.2))) s
    else l.foldl (fun s x => (s.modBank x.1 Bank.giveBack).stopOne x.1 .transfer cGROUP (some x.2.1.uid)) s

/-- GROUP_RENDEZVOUS: every rank of the group of cell k stands at the operation and it proceeds; or a rank is gone, and the
ranks that wait stop with GROUP_MISMATCH. -/
def execGroupRendezvous (k : Nat) (kind : GroupKind) (s : State) : Out :=
  .next (
    let g := (s.bank k).gsize
    let e := groupEngine kind
    let js := (List.range g).map (s.rankCell k)
    let l := js.filterMap (fun j => (s.atGroup k j kind).map (fun p => (j, p.1, p.2)))
    if (s.bank k).task.isNone then s
    else if l.length = g ∧ l.all (fun x => some x.2.2 == (l.head?.map (fun y => y.2.2))) then s.meetGroup kind l
    else if js.any (fun j => (s.atGroup k j kind).isNone && s.rankGone k j e) then
      l.foldl (fun s x => (s.modBank x.1 Bank.giveBack).stopOne x.1 e cGROUP (some x.2.1.uid)) s
    else s)

/-- MCAST_ARRIVAL: what is left of the multicast at the front lands, the counters of its targets rise, and it is answered (08 R167). -/
def execMcastArrival (k : Nat) (s : State) : Out :=
  .next (
    match (s.bank k).prim.entries with
    | [] => s
    | ent :: _ =>
      match mcastRanks ent.op with
      | none => s
      | some ranks =>
        if ent.stage = .far ∧ ent.need = .posted then
          let mine := (s.cell k).posted.filter (fun p => p.mcast && p.uid == ent.uid)
          let s := mine.foldl (fun s p => match p.dst.chip? with | some a => (s.landChip a p.data).1 | none => s) s
          let s := s.modCell k (fun c => { c with posted := c.posted.filter (fun p => !(p.mcast && p.uid == ent.uid)) })
          let r := (s.bank k).rank
          let s := ((List.range 4).filter (fun i => ranks.getLsbD i)).foldl (fun s i => s.arriveMcast (s.rankCell k i) r) s
          s.answered k .primary ent {} none
        else s)

/-- The fields of an MCWAIT entry. -/
def mcwaitOf (o : QOp) : Option (Nat × Nat) :=
  match o with
  | .prim (.mcwait _ _ rank count) => some (rank.toNat, count.toNat)
  | _ => none

/-- MCWAIT_RELEASE: the counter holds the count, which the entry takes; or the sending rank is gone, and the queue stops (08 R168). -/
def execMcwaitRelease (k : Nat) (s : State) : Out :=
  .next (
    match (s.bank k).prim.entries with
    | [] => s
    | ent :: _ =>
      match ent.need, mcwaitOf ent.op with
      | .mcwait, some (rank, count) =>
        let n := vget (s.bank k).mx.arr rank 0
        if count ≤ n then
          (s.modBank k (fun b => { b with mx := { b.mx with arr := vset b.mx.arr rank (n - count) } })).answered k .primary ent {} none
        else if s.rankGone k (s.rankCell k rank) .primary then s.stopQueue k .primary cGROUP (some ent.uid)
        else s
      | _, _ => s)

/-! ## The instructions that push (11 R237 to R241) -/

def execBalloc (g : Guard) (q : Eng) (xd : BitVec 5) (ad : BitVec 4) (slot : BitVec 4) (s : State) : Out :=
  transfer s g q (.balloc ad slot.toNat) [] (some xd) true noAct
def execBref (g : Guard) (q : Eng) (as : BitVec 4) (s : State) : Out := transfer s g q (.bref as) [] none true noAct
def execBdrop (g : Guard) (q : Eng) (as : BitVec 4) (s : State) : Out := transfer s g q (.bdrop as) [] none true noAct
def execBxfer (g : Guard) (q : Eng) (as : BitVec 4) (xa : BitVec 5) (rights : BitVec 5) (s : State) : Out :=
  transfer s g q (.bxfer as rights) [xa] none true noAct
def execGsubmit (g : Guard) (q : Eng) (xq : BitVec 5) (ar : BitVec 4) (s : State) : Out :=
  transfer s g q (.gsubmit ar) [xq] none true noAct
def execGsignal (g : Guard) (q : Eng) (ab : BitVec 4) (n : BitVec 8) (s : State) : Out :=
  transfer s g q (.gsignal ab n.toNat) [] none true noAct
def execGwait (g : Guard) (q : Eng) (xd xq : BitVec 5) (s : State) : Out := transfer s g q .gwait [xq] (some xd) false noAct
def execArrwait (g : Guard) (q : Eng) (ab : BitVec 4) (xv : BitVec 5) (s : State) : Out :=
  transfer s g q (.arrwait ab) [xv] none false noAct
def execHnotify (g : Guard) (q : Eng) (xv xp : BitVec 5) (s : State) : Out := transfer s g q .hnotify [xv, xp] none true noAct

end Sys2Proof.Machine
end

