-- ==== Sys2Proof/Machine/Launch.lean ====
section
/-! DEFINITION. The course of a task on a cell: what releases a blocked core, the launch-bank swap, completion, the end by a fault,
pre-emption and resumption (02 R15; 04 R76, R77, R83 to R86; 05 R99 to R101; 15 R289, R298, R301). -/

namespace Sys2Proof.Machine

/-! ## Cores that wait -/

/-- LONG_LATENCY_RESULT: result i of a core fills its X register (02 R15). -/
def execLongLatencyResult (k : Nat) (c : CoreIx) (i : Nat) (s : State) : Out :=
  .next (s.modCore k c (fun r =>
    match r.results[i]? with
    | some x => { r with results := r.results.eraseIdx i }.putX x.xd x.val x.poison
    | none => r))

/-- SEM_GRANT: the blocked core at the head of a semaphore's waiters takes its count and completes SEMWAIT (04 R76). -/
def execSemGrant (k n : Nat) (s : State) : Out :=
  .next (match ((s.bank k).sem n).queue with
    | ⟨.core _, _⟩ :: _ => (s.grantSem k n).getD s
    | _ => s)

/-- MUTEX_GRANT: a free mutex goes to its oldest waiter, which completes MTXLOCK (04 R77). -/
def execMutexGrant (k m : Nat) (s : State) : Out :=
  .next ((s.grantMutex k m).getD s)

/-- WAITWP_RELEASE: the write pointer has reached the value, or the channel is no longer open (04 R83). -/
def execWaitwpRelease (k : Nat) (c : CoreIx) (s : State) : Out :=
  .next (
    match s.grantWp k c with
    | some t => t
    | none => s.endWp k c)

/-- EQDRAIN_RELEASE: every pushed instruction has completed (04 R79). -/
def execEqdrainRelease (k : Nat) (c : CoreIx) (s : State) : Out :=
  .next (
    match (s.core k c).run, engineOf (s.cls k) k c with
    | .blocked .drain, some e =>
      let q := (s.bank k).engine e
      if q.entries = [] ∧ q.stop = none then s.retire k c 1 else s
    | _, _ => s)

/-- PAUSE_WAKE: a semaphore, mutex or write pointer has changed, or an X register has become full (04 R85). -/
def execPauseWake (k : Nat) (c : CoreIx) (s : State) : Out :=
  .next (
    match (s.core k c).run with
    | .blocked (.pause _ changes fills) =>
      if (s.bank k).changes ≠ changes ∨ (s.core k c).fills ≠ fills then s.retire k c 1 else s
    | _ => s)

/-- PAUSE_TIMEOUT: 1,024 core cycles have passed (04 R85). -/
def execPauseTimeout (k : Nat) (c : CoreIx) (s : State) : Out :=
  .next (
    match (s.core k c).run with
    | .blocked (.pause since _ _) => if since + 1024 ≤ (s.cell k).cycle then s.retire k c 1 else s
    | _ => s)

/-- QUEUE_PUSH_RESUME: an entry is free, so the stalled push issues (05 R92). -/
def execQueuePushResume (k : Nat) (c : CoreIx) (s : State) : Out :=
  .next (
    match (s.core k c).run, engineOf (s.cls k) k c with
    | .blocked .push, some e =>
      if ((s.bank k).engine e).entries.length < 16 then s.modCore k c (fun r => { r with run := .running }) else s
    | _, _ => s)

/-! ## Launch (05 R97 to R101) -/

def Task.word (t : Task) (i : Nat) : Nat := wordAt t.record i

/-- The cells of the group of a task that stands on cell k (05 R109). -/
def Task.group (t : Task) (k : Nat) : List Nat :=
  (List.range (field (t.word 0) 18 2 + 1)).map (k - field (t.word 0) 16 2 + ·)

/-- A core as the record in its bank gives it (05 R98, R99). -/
def State.launchCore (s : State) (k : Nat) (c : CoreIx) : Core :=
  let b := s.bank k
  let w := b.secWord c
  let cap := fun (i : Nat) => b.slotCap c i
  let x : Vector XReg 32 := Vector.ofFn (fun i =>
    if 1 ≤ i.val ∧ i.val ≤ 8 then { val := wNat (w (5 + i.val)) } else {})
  let a : Vector AReg 16 := Vector.ofFn (fun j =>
    if j.val = 0 then {}
    else
      let byte := field (w (4 + (j.val - 1) / 8)) (8 * ((j.val - 1) % 8)) 8
      if 128 ≤ byte then cap (byte % 16) else {})
  let win : Vector Win 8 := Vector.ofFn (fun i =>
    let v := w (14 + i.val)
    let r := cap (field v 56 4)
    let start := r.base.toNat + field v 0 48
    if bitOf v 63 && s.winOk k r start then s.bindWin k 0 { r with ptr := wNat start } else {})
  let go := bitOf (w 0) 63
  { x := x, a := a, win := win
    spillptr := if bitOf (w 3) 63 then (cap (field (w 3) 0 4)).base else 0
    pc := if go then wNat (8 * field (w 0) 3 29) else 0
    run := if go then .running else .done }

/-- Copy an image to the scratchpad (05 R101 step 5). -/
def State.copyImage (s : State) (k h n : Nat) : State :=
  let (bs, _) := s.homeWord h 0 n
  let s := s.noteHome h 0 n
  let s := { s with mem := s.mem.write (padBase k) bs }
  match s.buf? h with
  | some d =>
    if d.tolerant then s
    else { s with memBad := (granules 6 0 n).foldl (fun m g =>
        if nsHas s.hbmBad (bufKey h 0 / 64 + g) then nsAdd m (padBase k / 64 + g) else m) s.memBad }
  | none => s

/-- Steps 2 to 5 of the swap on one cell, whose shadow bank holds a record (05 R101). An ILEN beyond the scratchpad copies what the
scratchpad holds (DESIGN CHOICE, log 82). -/
def State.launchBank (s : State) (k : Nat) (t : Task) : State :=
  let c := s.cell k
  let h := t.word 2 / 2 ^ 32
  let n := min (field (t.word 2) 0 23) (s.padSize k)
  let image := (s.buf? h).map (fun b => (h, b.version, n))
  let same := image.isSome && c.image == image
  let s := s.wipeCell k (if same then (n + 4095) / 4096 * 4096 else 0)
  let s := if same then s else s.copyImage k h n
  let fresh : Bank := {
    uid := c.b.uid, ctxKey := s.free, task := some t, touched := granules 12 0 n
    spill := { mine := if c.suspended = [] then none else some [] } }
  let s := s.bump.setCell k { c with active := !c.active, shadow := none, image := image, lastImage := some h, b := fresh }
  s.modCell k (fun c => { c with imem := s.mem.part (padBase k) (s.padSize k) })

/-- The core before its first fetch where a suspended task still holds its scalar bank: it takes its record's values when it has claimed the
bank (16 R310). -/
def Core.toCome (r : Core) : Core := { pc := r.pc, run := r.run }

/-- Step 6 of the swap on one cell (05 R99, R101): registers and windows as the record gives them. -/
def State.launchCores (s : State) (k : Nat) (t : Task) : State :=
  let s := s.snapshot k
  let wait := (s.bank k).spill.mine.isSome
  let core := fun (c : CoreIx) => let r := s.launchCore k c; if wait then r.toCome else r
  let s := s.setBank k { s.bank k with e := core .e, v := core .v, x := core .x }
  let s := s.modNode t.node (fun x => if x.st = .placed then { x with st := .running } else x)
  if t.spec then s.noteReads t.node [t.word 2 / 2 ^ 32] else s

/-- The records in the shadow banks of a task's cells swap in together, as its next launch: every cell holds its image before a window is
bound (05 R101, R109; 13 R270). -/
def State.launch (s : State) (l : List (Nat × Task)) : State :=
  let n := s.sched.launches + 1
  let s := { s with sched := { s.sched with launches := n } }
  let l := l.map (fun p => (p.1, { p.2 with launch := n }))
  l.foldl (fun s p => s.launchCores p.1 p.2) (l.foldl (fun s p => s.launchBank p.1 p.2) s)

/-! ## Completion (05 R101; 10 R209) -/

/-- End the last phase of a cell: every store not yet captured goes into a publication (10 R209). -/
def State.lastPhase (s : State) (k : Nat) : State :=
  if (s.bank k).final then s
  else ((s.modBank k Bank.giveBack).capture k true none false).modBank k (fun b => { b with final := true })

/-- The task of a cell whose cores have all reported done: its last phase is published; once that has completed, the scheduler records
the task done on this cell and its lease ends (05 R101 step 1; 10 R202, R209). -/
def State.finishCell (s : State) (k : Nat) : State :=
  let b := s.bank k
  match b.task with
  | none => s
  | some t =>
    if !b.allDone || b.ending.isSome then s
    else
      let s := s.lastPhase k
      if (s.bank k).pubs ≠ [] ∨ (s.cell k).ownPosted ≠ [] then s
      else
        let s := s.modNode t.node (fun n => { n with cells := n.cells.erase k })
        let s := s.leaveBank k (s.cell k).active t
        (s.modCell k (fun c => { c with
          preempt := false, b := { c.b with task := none, final := false, kids := [], own := [], ownBad := [] } })).retireCell k

/-- May a cell take the record in its shadow bank? -/
def State.swapReady (s : State) (k : Nat) : Bool :=
  (s.bank k).task.isNone && (s.bank k).allDone && (s.bank k).ending.isNone && !(s.cell k).preempt

/-- LAUNCH_BANK_SWAP: the task on a cell completes, and the record in the shadow bank swaps in, on all cells of its group together
(05 R101, R109). A group that was placed launches though a cell of it has lost FULLW since: R109 says nothing of that (DESIGN CHOICE,
log 91). -/
def execLaunchBankSwap (k : Nat) (s : State) : Out :=
  .next (
    match (s.cell k).shadow with
    | none => s.finishCell k
    | some t =>
      let js := t.group k
      let s := js.foldl State.finishCell s
      let ts := js.filterMap (fun j => (s.cell j).shadow.map (fun x => (j, x)))
      if ts.length = js.length ∧ ts.all (fun p => p.2.launch == t.launch && s.swapReady p.1) then
        s.launch ts
      else s)

/-! ## The retirement of a node (13 R262) -/

/-- Kinds: TASK 0, INDIRECT 1, COND 2, LOOP 3, SWITCH 4, JOIN 5, EVENT 6 (13 R258). -/
def isTask (kind : Nat) : Bool := kind ≤ 1

/-- Statuses that cancel the successors of a node. -/
def cancels (st : Nat) : Bool := st == 1 || st == 2 || st == 3 || st == 5

/-- Mark the GSUBMIT entries whose node has retired, on a bank. -/
def Bank.kidDone (b : Bank) (n st : Nat) : Bank :=
  { b with kids := b.kids.map (fun x => if x.node = n ∧ x.done = none then { x with done := some st } else x) }

/-- Retire a node with a status: its entry is freed, its lease ends, its references are dropped, its successors are released or
cancelled, and so are the nodes gated on it; a gate that has gone names no entry any more. A loop keeps its body's nodes for the next
iteration (13 R264). -/
def State.retireNode (s : State) (n : Nat) (nd : Node) (st : Nat) : State :=
  let s := s.dropRefs nd.accs
  let next := fun (e : Nat × Node) =>
    let x := e.2
    let hit := x.pred.contains n && cancels st && (x.st == .waiting || x.st == .ready)
    let mine := (match x.gate with | some (g, _) => g == n | none => false)
    let gated := mine && x.st == .waiting && cancels st
    let skip := mine && x.st == .waiting && !x.gateOpen
    let body := nd.gate == some (e.1, 1) && x.kind == 3 && x.cancel.isNone && cancelled st
    (e.1, { x with
      pred := x.pred.filter (· != n)
      cancel := x.cancel.or (if hit || gated || body then some 5 else if skip then some 4 else none)
      gate := if mine then none else x.gate
      gateOpen := x.gateOpen || mine })
  let nodes := (kdel s.sched.nodes n).map next
  let bodies := s.sched.bodies.filter (fun e => e.1 != n)
  let bodies := match nd.gate with
    | some (g, 1) =>
      (match kget? s.sched.nodes g with
        | some x => if x.kind = 3 then bodies ++ [(g, nd)] else bodies
        | none => bodies)
    | _ => bodies
  { s with
    sched := { s.sched with nodes := nodes, bodies := bodies }
    cells := s.cells.map (fun (e : Nat × Cell) => (e.1, { e.2 with
      b := e.2.b.kidDone n st, suspended := e.2.suspended.map (fun (x : Suspended) => { x with bank := x.bank.kidDone n st }) })) }

/-- Have all tile tasks of a node been recorded done? -/
def Node.finished (nd : Node) : Bool :=
  isTask nd.kind && nd.launched == nd.tasks && nd.cells == [] && (nd.st == .placed || nd.st == .running || nd.st == .suspended)

/-! ## The end of a task by a fault (15 R289) -/

/-- May a started entry of cell k still get what it waits for: a group operation that no rank has left, an arrival at a buffer that
exists? -/
def State.canEnd (s : State) (k : Nat) (e : Entry) : Bool :=
  match e.need, e.op with
  | .group kind _, _ => (List.range (s.bank k).gsize).all (fun r =>
      let j := s.rankCell k r
      j == k || (s.atGroup k j kind).isSome || !s.rankGone k j (groupEngine kind))
  | .arrive, .xfer (.arrwait ab) => (s.buf? (e.areg ab).bind.toNat).isSome
  | _, _ => true

/-- Entries that the end of the task discards: the unstarted ones, a stopped queue's from its culprit on, and those that wait for
what cannot come. -/
def State.dropped (s : State) (k : Nat) (e : EngIx) : List Entry :=
  let q := (s.bank k).engine e
  q.entries.filter (fun e => e.idle ||
    (q.stop.isSome && (match q.culprit with | some u => decide (u ≤ e.uid) | none => true)) || !s.canEnd k e)

/-- The fault record and the event record of step 4. -/
def State.faultNote (s : State) (k : Nat) (b : Bank) (f : Ending) : State :=
  let r : FaultRec := { cell := k, core := f.core, cause := f.cause, epc := f.epc, tval := f.tval, eng := f.eng }
  let s := { s with sched := { s.sched with faults := s.sched.faults ++ [r] } }
  let (s, n) := s.schedSeq
  s.postRecord b.asid b.gen 0x7FE
    (wNat (f.cause + coreNum f.core * 64 + f.eng % 64 * 256 + f.epc.toNat % 2 ^ 32 * 2 ^ 32)) n none

/-- Discard the entries that the end of the task on cell k discards (15 R289 step 2). -/
def State.dropUnstarted (s : State) (k : Nat) : State :=
  s.modBank k (fun b => (b.dropEntries .primary (s.dropped k .primary)).dropEntries .transfer (s.dropped k .transfer))

/-- Have the started entries of a bank completed? -/
def Bank.emptied (b : Bank) : Bool := b.prim.entries == [] && b.xfer.entries == []

/-- The node of a task that ended by a fault retires with it where no other task of the node is left (13 R262, R265). -/
def State.retireFaultNode (s : State) (n : Nat) : State :=
  match kget? s.sched.nodes n with
  | some nd => if nd.finished && nd.faulted && nd.cancel.isNone && !nd.spec then s.retireNode n nd 1 else s
  | none => s

/-- TASK_END_BY_FAULT: once the started entries have run to completion and their posted writes have landed, the ended phase is
published, the cell counts as done, its node retires where it was the last, and the fault is noted. -/
def execTaskEndByFault (k : Nat) (s : State) : Out :=
  .next (
    match (s.bank k).ending with
    | none => s
    | some f =>
      let s := s.dropUnstarted k
      let b := s.bank k
      if !b.emptied ∨ (s.cell k).ownPosted ≠ [] then s
      else
        let s := s.lastPhase k
        if (s.bank k).pubs ≠ [] then s
        else
          let n := match b.task with | some t => t.node | none => 8192
          let quit := fun (r : Core) => if r.run = .absent then r else { r with run := .done }
          let s := s.modNode n (fun x => { x with faulted := true })
          let s := s.modBank k (fun b => { b with ending := none, e := quit b.e, v := quit b.v, x := quit b.x })
          ((s.finishCell k).retireFaultNode n).faultNote k b f)

/-! ## Pre-emption (15 R298, R301, R302) -/

/-- A core that stops for pre-emption: a blocked instruction is abandoned, to be issued anew (04 R86). -/
def Core.halt (r : Core) : Core :=
  match r.run with
  | .blocked _ => { r with run := .running }
  | _ => r

/-- Put an entry that waits at a group operation back as not started, undoing what its start counted (15 R298 step 2). -/
def Bank.unmeet (b : Bank) : Bank :=
  let back := fun (e : Entry) => match e.need with
    | .group _ _ => { e with stage := .granted, need := .none }
    | .mcwait => { e with stage := .granted, need := .none }
    | _ => e
  let has := fun (q : Engine) (kd : GroupKind) => q.entries.any (fun e => match e.need with | .group x _ => x == kd | _ => false)
  let phase := has b.xfer .phase
  let b := if phase then { b.giveBack with phase := b.phase - 1, phases := b.phases - 1 } else b
  let b := if has b.xfer .cbar then { b with cbars := b.cbars - 1 } else b
  let b := if has b.prim .mmac then { b with mmacs := b.mmacs - 1 } else b
  { b with prim := { b.prim with entries := b.prim.entries.map back }, xfer := { b.xfer with entries := b.xfer.entries.map back } }

/-- Steps 1 and 2 on a cell of a victim. A wait that is due is granted first (04 R86). -/
def State.beginPreempt (s : State) (k : Nat) : State :=
  (s.grants k).modCell k (fun c =>
    let b := ((c.b.leave .e).leave .v).leave .x
    { c with preempt := true, b := { b with e := b.e.halt, v := b.v.halt, x := b.x.halt }.unmeet })

/-- Does a core still await a long-latency result, those of unstarted entries of its engine aside? -/
def Bank.awaits (b : Bank) (c : CoreIx) : Bool :=
  let r := b.core c
  r.results != [] || (b.prim.entries ++ b.xfer.entries).any (fun e => !e.idle &&
    e.dest.any (fun i => (r.xreg i).fill == .entry && (match e.op with | .prim _ => c == .e | .xfer _ => c == .x)))

/-- Have a victim's results arrived on a cell, and for a group its posted bytes (15 R298 steps 1 and 3)? Its other started entries run
on. -/
def State.settledCell (s : State) (k : Nat) : Bool :=
  let b := s.bank k
  (s.cell k).preempt && [CoreIx.e, .v, .x].all (fun c => !b.awaits c) && (b.gsize == 1 || b.pb == 0)

/-- Suspend the task on a cell: its state and its part of the on-chip map are kept (15 R298 step 5, R299). -/
def State.suspend (s : State) (k : Nat) (later : List Nat) : State :=
  let s := match (s.cell k).b.task with | some t => s.leaveBank k (s.cell k).active t | none => s
  let c := s.cell k
  let m := s.area k
  let x : Suspended := { bank := c.b, mem := m.1, bad := m.2, later := later }
  (s.wipeCell k 0).setCell k { c with preempt := false, image := none, b := { Bank.idle with uid := c.b.uid }, suspended := c.suspended ++ [x] }

/-- The acceptance number of a node. -/
def State.orderOf (s : State) (n : Nat) : Nat := match kget? s.sched.nodes n with | some x => x.order | none => 0

/-- PREEMPT_SWAP: the victim's cells have settled; it is suspended, and the newcomer's record swaps in (15 R298). -/
def execPreemptSwap (k : Nat) (s : State) : Out :=
  .next (
    match (s.bank k).task with
    | none => s
    | some t =>
      let js := (t.group k).filter (fun j => (s.bank j).task.any (fun x => x.launch == t.launch))
      if js.all s.settledCell then
        let later := (js.filterMap (fun j => (s.cell j).shadow.map (fun x => s.orderOf x.node))).eraseDups
        let s := js.foldl (fun s j => s.suspend j later) s
        let s := s.modNode t.node (fun n => { n with st := .suspended })
        s.launch (js.filterMap (fun j => (s.cell j).shadow.map (fun x => (j, x))))
      else s)

/-- The index of the first bad word of a spilled record of cell k's task, none if it reads as it was written (15 R301): word 0, or the
tag. -/
def State.spillBad (s : State) (k : Nat) (b : Bank) (r : Spill) : Option Nat :=
  let cap := b.slotCap r.owner (field (b.secWord r.owner 3) 0 4)
  let n := 8 * r.words.length
  let ws := wordsOf r.words.length (if r.inOver then s.hbm.read (bufKey cap.bind.toNat r.off) n else s.chipBytes (padBase k + r.off) n)
  if ws = r.words then none else if ws[0]? = r.words[0]? then some (r.words.length - 1) else some 0

/-- The running task gets a bank back that was spilled for it: a record whose tag fails ends it (15 R301). -/
def State.reclaim (s : State) (k : Nat) (key : Nat × Nat × Nat) : State :=
  let b := s.bank k
  if !b.spill.taken.contains key then s
  else
    let s := s.modBank k (fun b => { b with spill := { b.spill with taken := b.spill.taken.filter (· != key) } })
    match b.spill.dir.find? (fun r => (r.kind, r.index, r.gran) == key) with
    | some r =>
      match s.spillBad k b r with
      | some i => s.endTask k r.owner cCTX (wNat i) (s.core k r.owner).pc 0
      | none => s
    | none => s

/-- Was bank t of a kind claimed without a record (15 R301)? -/
def Bank.gone (b : Bank) (kind t : Nat) : Bool :=
  b.spill.taken.contains (kind, t, 0) && !b.spill.dir.any (fun r => r.kind == kind && r.index == t)

/-- Restore a suspended task to its cell (15 R301): a tile that was claimed without a record is zero. Granules spilled for it are touched again
when it reaches them. -/
def State.restore (s : State) (k : Nat) (x : Suspended) : State :=
  let c := s.cell k
  let s := s.putArea k (x.mem, x.bad)
  let s := ((List.range 8).filter (x.bank.gone 3)).foldl (fun (s : State) t => s.chipPut (tileBase k t) (List.replicate 0x20000 0)) s
  let kept := x.bank.touched.filter (fun g => !x.bank.spill.taken.contains (7, 0, g))
  s.setCell k { c with
    b := { x.bank with touched := kept, uid := max x.bank.uid c.b.uid }, imem := s.mem.part (padBase k) (s.padSize k), image := none
    lastImage := x.bank.task.map (fun t => t.word 2 / 2 ^ 32)
    suspended := c.suspended.dropLast }

/-- TASK_RESUME: every node placed on its cells since has retired, and the suspended task goes on (15 R301). -/
def execTaskResume (k : Nat) (s : State) : Out :=
  .next (
    match (s.cell k).suspended.getLast? with
    | none => s
    | some x =>
      match x.bank.task with
      | none => s
      | some t =>
        let js := (t.group k).filter (fun j => (s.cell j).suspended.any (fun y => y.bank.task.any (fun u => u.launch == t.launch)))
        let s := js.foldl State.finishCell s
        let ready := fun (j : Nat) =>
          s.swapReady j && (s.cell j).shadow.isNone &&
            (match (s.cell j).suspended.getLast? with
              | some y => y.bank.ending.isNone && y.bank.task.any (fun u => u.launch == t.launch) &&
                  y.later.all (fun o => s.sched.nodes.all (fun e => e.2.order != o))
              | none => false)
        if js.all ready then
          let s := js.foldl (fun s j => match (s.cell j).suspended.getLast? with
            | some y => [(5, 0, 0), (5, 1, 0), (6, 0, 0)].foldl (fun (s : State) key => s.reclaim j key) (s.restore j y)
            | none => s) s
          s.modNode t.node (fun n => { n with st := .running })
        else s)

/-- The end by a fault of suspended task i of cell k goes on (15 R289): its started entries run to completion and their posted writes land, its
ended phase is published, it leaves the cell and its node, and its fault is noted. -/
def State.closeSuspended (s : State) (k i : Nat) : State :=
  match (s.cell k).suspended[i]?.bind (fun x => x.bank.ending) with
  | none => s
  | some f =>
    let own := (s.cell k).posted.any (fun p => (s.cell k).pusher p.uid == some i)
    let s := s.aside k i (fun s =>
      let s := s.dropUnstarted k
      if !(s.bank k).emptied ∨ own then s else s.lastPhase k)
    match (s.cell k).suspended[i]? with
    | none => s
    | some x =>
      if !x.bank.emptied ∨ own ∨ !x.bank.final ∨ x.bank.pubs ≠ [] then s
      else
        let n := match x.bank.task with | some t => t.node | none => 8192
        let s := s.modCell k (fun c => { c with suspended := c.suspended.eraseIdx i })
        let s := s.modNode n (fun y => { y with
          faulted := true, cells := y.cells.erase k, st := if y.st = .suspended then .running else y.st })
        (s.retireFaultNode n).faultNote k x.bank f

/-- A suspended task of a cell ends by a fault: it holds no bank any more, and nothing of it starts (15 R289, R300, R303). -/
def State.endSuspended (s : State) (k : Nat) (x : Suspended) (f : Ending) : State :=
  let same := fun (y : Suspended) => y.bank.task.any (fun t => x.bank.task.any (fun u => u.launch == t.launch))
  let stop := fun (b : Bank) =>
    if b.ending.isSome then b else { b.stopCores with ending := some f, spill := { b.spill with mine := some [] } }
  let s := s.modCell k (fun c => { c with
    suspended := c.suspended.map (fun (y : Suspended) => if same y then { y with bank := stop y.bank } else y) })
  match (s.cell k).suspended.findIdx? same with
  | some i => s.closeSuspended k i
  | none => s

/-- End the task on a cell, on every cell of its group, by an asynchronous cause. -/
def State.killTask (s : State) (k : Nat) (cause : Nat) (tval : Word) : State :=
  match (s.bank k).task with
  | none => s
  | some t =>
    (t.group k).foldl (fun s j =>
      if (s.bank j).task.any (fun x => x.launch == t.launch) then s.endTask j .e cause tval (s.core j .e).pc 0 else s) s

/-- TASK_KILLED: the host agent ends the running task of a cell with reason 0 (15 R286). -/
def execTaskKilled (k : Nat) (s : State) : Out := .next (s.killTask k cKILLED 0)

end Sys2Proof.Machine
end

