-- ==== Sys2Proof/Machine/Nodes.lean ====
section
/-! DEFINITION. Node records: their fields, the checks of acceptance, edges, present classes, leases and launch records
(05 R107 to R109; 12 R247, R250; 13 R256 to R261, R269, R271; 14 R282). -/

namespace Sys2Proof.Machine

/-! ## Fields of a node record (13 R258) -/

abbrev Rec := List Word

namespace NodeRec

def kind (r : Rec) : Nat := field (wordAt r 0) 61 3
def anyReady (r : Rec) : Bool := bitOf (wordAt r 0) 58
def fullW (r : Rec) : Bool := bitOf (wordAt r 0) 57
def gsize (r : Rec) : Nat := field (wordAt r 0) 55 2
def nacc (r : Rec) : Nat := field (wordAt r 0) 50 5
def progid (r : Rec) : Nat := field (wordAt r 0) 0 32
def code (r : Rec) (k : Nat) : Nat := field (wordAt r 1) (60 - 4 * k) 4
def template (r : Rec) (k : Nat) : Nat := field (wordAt r (2 + k)) 32 32
def toff (r : Rec) (k : Nat) : Nat := field (wordAt r (2 + k)) 0 32
def arg (r : Rec) (k : Nat) : Word := (r[6 + k]?).getD 0
def args (r : Rec) : List Word := (List.range 8).map (arg r)
def wacc (r : Rec) : Nat := field (wordAt r 14) 60 4
def woff (r : Rec) : Nat := field (wordAt r 14) 0 32
def body (r : Rec) : Nat := field (wordAt r 15) 48 12
def host (r : Rec) : Bool := bitOf (wordAt r 15) 32
def value (r : Rec) : Nat := field (wordAt r 15) 0 32
def gate (r : Rec) : Nat := field (wordAt r 16) 32 32
def arm (r : Rec) : Nat := field (wordAt r 16) 28 4
def edge (r : Rec) (k : Nat) : Nat := field (wordAt r (17 + k)) 0 32

end NodeRec

def isGate (kind : Nat) : Bool := 2 ≤ kind && kind ≤ 4

/-- The class list of a record: codes up to the first 0, with the implied fallback where word 3 gives its variant (05 R108). -/
def NodeRec.classes (r : Rec) : List Nat :=
  let l := ((List.range 4).map (NodeRec.code r)).takeWhile (· != 0)
  if wordAt r 3 = 0 then l
  else if l = [2] then [2, 1]
  else if l = [4] then [4, 3]
  else l

/-- Are the reserved fields and those that the kind does not use zero (13 R257, R258)? -/
def NodeRec.clean (r : Rec) : Bool :=
  let kd := NodeRec.kind r
  let codes := (List.range 4).map (NodeRec.code r)
  let n := (codes.takeWhile (· != 0)).length
  field (wordAt r 0) 59 2 == 0 && field (wordAt r 0) 32 18 == 0 && field (wordAt r 1) 0 48 == 0 && field (wordAt r 14) 32 28 == 0 &&
  field (wordAt r 15) 60 4 == 0 && field (wordAt r 15) 33 15 == 0 && field (wordAt r 16) 0 28 == 0 &&
  (List.range 4).all (fun k => wordAt r (17 + k) / 2 ^ 32 == 0) && wordAt r 21 == 0 && wordAt r 22 == 0 && wordAt r 23 == 0 &&
  kd != 7 && decide (NodeRec.nacc r ≤ 16) && NodeRec.gsize r != 2 &&
  codes.all (· ≤ 4) && (codes.drop n).all (· == 0) &&
  (if isTask kd then
    (List.range 4).all (fun k => decide (k < (NodeRec.classes r).length) || wordAt r (2 + k) == 0)
  else field (wordAt r 0) 55 4 == 0 && NodeRec.progid r == 0 && (List.range 13).all (fun i => wordAt r (1 + i) == 0)) &&
  (kd != 0 && kd != 5 || wordAt r 14 == 0) &&
  (kd != 6 || (if NodeRec.host r then wordAt r 14 == 0 else NodeRec.woff r == 0)) &&
  (isGate kd || NodeRec.body r == 0) && (kd == 6 || !NodeRec.host r) &&
  (kd != 0 && kd != 2 && kd != 5 || NodeRec.value r == 0) && (kd != 1 || NodeRec.arg r 7 == 0)

/-- Does a task record name a class, and a variant for each one (13 R257)? -/
def NodeRec.variants (r : Rec) : Bool :=
  !isTask (NodeRec.kind r) ||
    (NodeRec.classes r != [] && (List.range (NodeRec.classes r).length).all (fun k => NodeRec.template r k != 0))

/-! ## Access entries (13 R259, R260) -/

def modeOfCode (n : Nat) : AccMode := match n with | 0 => .r | 1 => .w | 2 => .rw | _ => .acc

/-- The rights that a mode needs. -/
def AccMode.rights : AccMode → BitVec 5
  | .r => 0b00001
  | .w => 0b00010
  | .rw => 0b00011
  | .acc => 0b00101

/-- The capability that an access entry names. -/
def State.accSource (s : State) (asid : Nat) (regs : List AReg) (w0 : Nat) : Option AReg :=
  if bitOf w0 60 then
    let h := field w0 0 32
    let r := s.held asid h
    match s.remote? h with
    | some e => some { base := wNat e.base, limit := wNat e.limit, bind := BitVec.ofNat 32 h, kind := 5, rights := r }
    | none => (s.buf? h).map (fun b => { limit := wNat b.bytes, bind := BitVec.ofNat 32 h, kind := 2, rights := r })
  else
    let a := field w0 56 4
    if a = 0 then none
    else (regs[a - 1]?).filter (fun x => x.kind == 2 || x.kind == 4 || x.kind == 5)

/-- The node's copy of access entry i, or none where it is rejected. A node that never launches uses no SLOT and no CORES (13 R258). -/
def State.accOf (s : State) (asid : Nat) (regs : List AReg) (r : Rec) (i : Nat) : Option Access :=
  let w0 := wordAt r (24 + 3 * i)
  let off := wordAt r (25 + 3 * i)
  let len := wordAt r (26 + 3 * i)
  if !bitOf w0 63 || field w0 32 17 != 0 || (!isTask (NodeRec.kind r) && field w0 49 7 != 0) then none
  else match s.accSource asid regs w0 with
    | none => none
    | some a =>
      let mode := modeOfCode (field w0 61 2)
      let lo := if len = 0 then a.base.toNat else off
      let hi := if len = 0 then a.limit.toNat else off + len
      if (len = 0 ∧ off ≠ 0) ∨ lo < a.base.toNat ∨ a.limit.toNat < hi ∨ a.rights &&& mode.rights ≠ mode.rights then none
      else some { mode := mode, slot := field w0 52 4, cores := BitVec.ofNat 3 (w0 / 2 ^ 49)
                  cap := { a with ptr := wNat lo, base := wNat lo, limit := wNat hi, rights := mode.rights ||| (a.rights &&& 0b11000) } }

/-- Does an access place its capability in the section of core c? -/
def Access.goesTo (a : Access) (c : CoreIx) : Bool := a.cores.getLsbD (2 - coreNum c)

/-- The places (core, slot) that accesses fill. -/
def accPlaces (l : List Access) : List (Nat × Nat) :=
  l.flatMap (fun a => ([CoreIx.e, .v, .x].filter a.goesTo).map (fun c => (coreNum c, a.slot)))

/-- The accesses of a record, or none where the node is rejected. -/
def State.accsOf (s : State) (asid : Nat) (regs : List AReg) (r : Rec) : Option (List Access) := do
  let l ← (List.range (NodeRec.nacc r)).mapM (s.accOf asid regs r)
  let ps := accPlaces l
  let rest := (List.range (3 * (16 - NodeRec.nacc r))).all (fun i => wordAt r (24 + 3 * NodeRec.nacc r + i) == 0)
  if rest && ps.eraseDups.length == ps.length && ps.all (fun p => decide (p.2 < 12 ∨ 12 + NodeRec.gsize r + 1 ≤ p.2)) then some l else none

/-! ## Gates, words, edges (13 R257, R261, R263; 12 R247) -/

/-- Nodes in flight, in acceptance order. -/
def State.flying (s : State) : List (Nat × Node) :=
  (s.sched.nodes.filter (fun e => !e.2.spec && e.2.st != .retired)).mergeSort (fun a b => decide (a.2.order ≤ b.2.order))

/-- The node in flight of a queue with a sequence number. -/
def State.nodeBySeq (s : State) (q seq : Nat) : Option (Nat × Node) := s.flying.find? (fun e => e.2.q == q && e.2.seq == seq)

/-- The gate of a node of queue q with number seq: none where it has none; an error where it is rejected. -/
def State.gateOf (s : State) (q seq : Nat) (r : Rec) : Option (Option (Nat × Nat)) :=
  if NodeRec.gate r = 0 then some none
  else match s.nodeBySeq q ((seq + 2 ^ 32 - NodeRec.gate r) % 2 ^ 32) with
    | some (i, g) =>
      if isGate g.kind ∧ NodeRec.arm r < (if g.kind = 4 then NodeRec.value g.record else 2) then some (some (i, NodeRec.arm r)) else none
    | none => none

/-- Is the word or counter that a record names in order (13 R257)? -/
def wordOk (r : Rec) (l : List Access) : Bool :=
  let kd := NodeRec.kind r
  if kd = 1 ∨ isGate kd ∨ (kd = 6 ∧ !NodeRec.host r) then
    match l[NodeRec.wacc r]? with
    | some a => a.cap.kind == 2 && (kd == 6 || (a.mode == .r && decide (a.cap.base.toNat + NodeRec.woff r + 8 ≤ a.cap.limit.toNat)))
    | none => false
  else true

/-- Do two modes conflict (12 R247, R250)? -/
def AccMode.clash : AccMode → AccMode → Bool
  | .r, .r => false
  | .acc, .acc => false
  | _, _ => true

/-- Do two access lists conflict on a buffer that is not SHARED (13 R261)? -/
def State.accsClash (s : State) (xs ys : List Access) : Bool :=
  xs.any (fun x => ys.any (fun y =>
    x.cap.kind == 2 && y.cap.kind == 2 && x.cap.bind == y.cap.bind && x.mode.clash y.mode &&
      decide (x.cap.base.toNat < y.cap.limit.toNat) && decide (y.cap.base.toNat < x.cap.limit.toNat) &&
      (match s.buf? x.cap.bind.toNat with | some b => !b.shared | none => false)))

/-- The predecessors of a node at its acceptance (13 R261). -/
def State.predsOf (s : State) (q seq : Nat) (r : Rec) (accs : List Access) : List Nat :=
  let named := ((List.range 4).filter (fun k => NodeRec.edge r k != 0)).map (fun k => (seq + 2 ^ 32 - NodeRec.edge r k) % 2 ^ 32)
  (s.flying.filter (fun e => s.accsClash e.2.accs accs || (e.2.q == q && named.contains e.2.seq))).map (·.1)

/-- The node that a submission asks for, or none where it is rejected (13 R257). -/
def State.parseNode (s : State) (sub : Submission) : Option Node := do
  let r := sub.record
  let q := s.queue sub.q
  guard (sub.q < 1024 && q.enable && q.asid == sub.asid && q.gen == sub.gen)
  guard (NodeRec.clean r && NodeRec.variants r)
  let accs ← s.accsOf sub.asid sub.regs r
  let gate ← s.gateOf sub.q q.nextseq r
  guard (wordOk r accs)
  let open_ := match gate with
    | some (i, a) => (match kget? s.sched.nodes i with | some g => g.arm == some a | none => true)
    | none => true
  pure { q := sub.q, seq := q.nextseq, order := s.sched.order, kind := NodeRec.kind r, record := r, accs := accs, asid := sub.asid, gen := sub.gen
         pred := s.predsOf sub.q q.nextseq r accs, gate := gate, gateOpen := open_ }

/-! ## Classes and cells (05 R107 to R109) -/

/-- Can a cell take work of a node, alone or (full) with full width (05 R107)? -/
def State.cellFits (s : State) (k : Nat) (full : Bool) : Bool :=
  let d := s.die (k / 128)
  s.cellExists k && !isService k && d.st == 0 && d.avail.getLsbD (k % 128) && (!full || d.fullw.getLsbD (k % 128))

/-- Every group of g cells of a class, in the order of R267 (05 R109). -/
def State.groupsOf (s : State) (cls g : Nat) : List (List Nat) :=
  ((List.range 24).filter (fun d => Config.dieClass s.pop d == cls)).flatMap (fun d =>
    (List.range (Config.cellsOf cls / g)).map (fun i => (List.range g).map (fun r => d * 128 + g * i + r)))

/-- The groups that can take a node. -/
def State.fitting (s : State) (cls : Nat) (r : Rec) : List (List Nat) :=
  let g := NodeRec.gsize r + 1
  (s.groupsOf cls g).filter (fun ks => ks.all (fun k => s.cellFits k (NodeRec.fullW r || decide (1 < g))))

/-- The present classes of a node, in its order (05 R107). -/
def State.presentOf (s : State) (r : Rec) : List Nat := (NodeRec.classes r).filter (fun c => s.fitting c r != [])

/-- The template handle and offset of a class. -/
def NodeRec.variantOf (r : Rec) (cls : Nat) : Nat × Nat :=
  let k := (NodeRec.classes r).findIdx (· == cls)
  (NodeRec.template r k, NodeRec.toff r k)

/-! ## Leases (10 R201; 12 R250; 13 R269) -/

/-- The lease that a node asks for: its accesses to buffers and host ranges, and the read of its template. -/
def leaseOf (accs : List Access) (tpl : Nat × Nat) : List LeaseEnt :=
  (accs.filter (fun (a : Access) => a.cap.kind == 2 || a.cap.kind == 4)).map (fun (a : Access) =>
    ({ host := a.cap.kind == 4, h := a.cap.bind.toNat, lo := a.cap.base.toNat, hi := a.cap.limit.toNat, mode := a.mode } : LeaseEnt)) ++ [{ h := tpl.1, lo := tpl.2, hi := tpl.2 + 2144, mode := .r }]

/-- Do two leases conflict (12 R250)? -/
def State.leasesClash (s : State) (xs ys : List LeaseEnt) : Bool :=
  xs.any (fun x => ys.any (fun y =>
    !x.host && !y.host && x.h == y.h && x.mode.clash y.mode && decide (x.lo < y.hi) && decide (y.lo < x.hi) &&
      (match s.buf? x.h with | some b => !b.shared | none => false)))

/-- Tasks that hold a lease: running, in a shadow bank, suspended. -/
def Cell.tasks (c : Cell) : List Task :=
  c.b.task.toList ++ c.shadow.toList ++ c.suspended.filterMap (fun x => x.bank.task)

/-- The leases held by others than node n, of speculative runs or of real work. -/
def State.heldLeases (s : State) (n : Nat) (spec : Bool) : List (Nat × List LeaseEnt) :=
  (s.sched.nodes.filter (fun e => e.1 != n && e.2.spec == spec)).map (fun e => (e.1, e.2.lease)) ++
    s.cells.flatMap (fun e => (e.2.tasks.filter (fun t => t.node != n && t.spec == spec)).map (fun t => (t.node, t.lease)))

/-- Is each leased buffer range live, its buffer not evacuating, and its stacks online (13 R269)? -/
def State.leaseLive (s : State) (l : List LeaseEnt) : Bool :=
  l.all (fun e => e.host || (match s.buf? e.h with
    | some b => b.st == .live && b.toHomes == 0 && b.homeList.all (fun i => (s.die (32 + i)).st == 0)
    | none => false))

/-- The pages of the host ranges of a lease. -/
def leasePages (l : List LeaseEnt) : List (Nat × Nat) :=
  ((l.filter (·.host)).flatMap (fun e => (granules 12 e.lo (e.hi - e.lo)).map (fun p => (e.h, p)))).eraseDups

/-- Is a translation of a page installed for an ASID's generation: one for another never matches (15 R303)? -/
def State.hasPage (s : State) (asid gen : Nat) (p : Nat × Nat) : Bool :=
  s.host.trans.any (fun t => t.pasid == p.1 && t.page == p.2 && t.valid && t.tags.contains (asid, gen))

/-- The ASIDs and generations in flight that declare a host page. -/
def State.pageUsers (s : State) (p : Nat × Nat) : List (Nat × Nat) :=
  ((s.flying.filter (fun e => (leasePages (leaseOf e.2.accs (0, 0))).contains p)).map (fun e => (e.2.asid, e.2.gen))).eraseDups

/-- Can a lease be granted to real node n: whole, without a conflict with real work (13 R269)? -/
def State.canLease (s : State) (n : Nat) (nd : Node) (l : List LeaseEnt) : Bool :=
  s.leaseLive l && (leasePages l).all (s.hasPage nd.asid nd.gen) && (s.heldLeases n false).all (fun x => !s.leasesClash l x.2)

/-! ## Templates and launch records (13 R271; 14 R282) -/

/-- The template of a variant as committed, where the ASID holds its buffer with READ. -/
def State.templateOf (s : State) (asid : Nat) (tpl : Nat × Nat) : Option (List Word) :=
  match s.buf? tpl.1 with
  | some b =>
    if b.st ≠ .lost ∧ (s.held asid tpl.1).getLsbD 0 ∧ tpl.2 + 2144 ≤ b.bytes then
      some (wordsOf 268 (s.homeWord tpl.1 tpl.2 2144).1)
    else none
  | none => none

/-- Set four words of a record from an A register. -/
def putSlot (l : List Word) (i : Nat) (a : AReg) : List Word :=
  (List.range 4).foldl (fun l j => l.set (i + j) ((a.words[j]?).getD 0)) l

/-- The window capability over rank r's cell (13 R271). -/
def windowCap (k : Nat) : AReg :=
  { ptr := wNat (chipAddr k 0 0), base := wNat (chipAddr k 0 0), limit := wNat (chipAddr k 7 0), kind := 3, rights := 0b10011 }

/-- The launch record of rank r of a group, from a template (13 R271; 14 R282). idx is the task's index of an INDIRECT node. -/
def launchRecord (t : List Word) (n : Nat) (nd : Node) (ks : List Nat) (r : Nat) (idx : Option Nat) : List Word :=
  let g := ks.length
  let w := wordAt t
  let t := t.set 0 (wNat (w 0 / 2 ^ 45 * 2 ^ 45 + n * 2 ^ 32 + field (w 0) 20 12 * 2 ^ 20 + (g - 1) * 2 ^ 18 + r * 2 ^ 16 + nd.gen % 16 * 4096 + nd.asid % 4096))
  let t := t.set 1 (wNat (NodeRec.progid nd.record * 2 ^ 32 + w 1 % 2 ^ 32))
  let t := t.set 3 (wNat (w 3 / 2 * 2 + nd.spec.toNat))
  recClean <| [CoreIx.e, .v, .x].foldl (fun t c =>
    let b := secBase c
    let t := (List.range 8).foldl (fun t j =>
      t.set (b + 6 + j) (match idx with | some i => if j = 7 then wNat i else NodeRec.arg nd.record j | none => NodeRec.arg nd.record j)) t
    let t := (List.range 16).foldl (fun t j =>
      let o := b + 24 + 4 * j
      if field (wordAt t (o + 3)) 20 4 = 1 then t else putSlot t o {}) t
    let t := nd.accs.foldl (fun t a => if a.goesTo c then putSlot t (b + 24 + 4 * a.slot) a.cap else t) t
    if 1 < g then (List.range g).foldl (fun t j => putSlot t (b + 24 + 4 * (12 + j)) (windowCap ((ks[j]?).getD 0))) t else t) t

end Sys2Proof.Machine
end

