-- ==== Sys2Proof/Machine/Place.lean ====
section
/-! DEFINITION. Choosing cells for a node, and its placement (13 R267 to R271; 15 R302). -/

namespace Sys2Proof.Machine

/-- A placement: the class, the cells in rank order, the cells of a victim to pre-empt, the lease and the template. -/
structure Placing where
  cls     : Nat
  cells   : List Nat
  victims : List Nat := []
  lease   : List LeaseEnt
  tpl     : List Word

/-! ## Suitable cells (13 R267, R270) -/

/-- Is the shadow bank of a cell free, counting (spec) one that holds a speculative record as free? -/
def Cell.shadowFree (c : Cell) (spec : Bool) : Bool := match c.shadow with | none => true | some t => spec && t.spec

/-- Is a cell idle with a free shadow bank? Under spec, speculative runs count as idle. -/
def Cell.isIdle (c : Cell) (spec : Bool) : Bool :=
  c.shadowFree spec && c.suspended == [] && !c.preempt && c.b.ending.isNone &&
    (match c.b.task with | none => true | some t => spec && t.spec)

/-- Does a cell run a task, with a free shadow bank? -/
def Cell.isRunning (c : Cell) : Bool := c.shadowFree true && !c.preempt && c.b.task.isSome

/-- The first group in the order of R267, one whose cells last loaded the same image before the others. -/
def State.choose_ (s : State) (image : Nat) (l : List (List Nat)) : Option (List Nat) :=
  (l.find? (fun ks => ks.all (fun k => (s.cell k).lastImage == some image))).or l.head?

/-- The idle group that a record takes. -/
def State.idleGroup (s : State) (cls image : Nat) (r : Rec) (spec : Bool) : Option (List Nat) :=
  s.choose_ image ((s.fitting cls r).filter (fun ks => ks.all (fun k => (s.cell k).isIdle spec)))

/-- Do an engine's leased translations, those of its running task and of a lease, stay within 256 (13 R269)? A suspended task's have left the
engine (15 R298). -/
def State.transFit (s : State) (l : List LeaseEnt) (k : Nat) : Bool :=
  decide ((leasePages ((match (s.cell k).b.task with | some t => t.lease | none => []) ++ l)).length ≤ 256)

/-- The group of busy cells that a record waits on. -/
def State.busyGroup (s : State) (cls image : Nat) (r : Rec) (l : List LeaseEnt) : Option (List Nat) :=
  s.choose_ image ((s.fitting cls r).filter (fun ks =>
    ks.all (fun k => ((s.cell k).isIdle true || (s.cell k).isRunning) && s.transFit l k)))

/-- May the task on cell k, of rank 0, be pre-empted for a record of a level (13 R270; 15 R302)? -/
def State.victimOk (s : State) (cls level : Nat) (r : Rec) (k : Nat) : Option (Nat × Nat × List Nat) :=
  match (s.cell k).b.task with
  | none => none
  | some t =>
    let js := t.group k
    let g := NodeRec.gsize r + 1
    let ok := s.cls k == cls && !isService k && !t.spec && decide (level < t.level) && field (t.word 0) 16 2 == 0 &&
      decide (g ≤ js.length) &&
      (js.take g).all (fun j => s.cellFits j (NodeRec.fullW r || decide (1 < g))) &&
      js.all (fun j =>
        let c := s.cell j
        c.isRunning && c.b.ending.isNone && !c.b.allDone && decide (c.suspended.length < 3) &&
          c.b.task.any (fun x => x.launch == t.launch))
    if ok then some (t.level, t.launch, js) else none

/-- The victim: the lowest level (largest number), then the most recent launch, then the lowest die and cell. -/
def State.victim (s : State) (cls level : Nat) (r : Rec) : Option (List Nat) :=
  (s.cells.foldl (fun (best : Option (Nat × Nat × List Nat)) e =>
    match s.victimOk cls level r e.1 with
    | none => best
    | some v =>
      match best with
      | none => some v
      | some b => if b.1 < v.1 ∨ (b.1 = v.1 ∧ b.2.1 < v.2.1) then some v else best) none).map (·.2.2)

/-! ## Placeable nodes (13 R267, R269) -/

/-- The class of a node and its template there: ANYREADY looks for the first class with an idle group (05 R107). The tasks of a node have one
class, under its one lease (13 R265). -/
def State.classFor (s : State) (nd : Node) : Option (Nat × List Word) :=
  let present := s.presentOf nd.record
  let tpl := fun c => s.templateOf nd.asid (NodeRec.variantOf nd.record c)
  if 0 < nd.launched then (tpl nd.cls).map (fun t => (nd.cls, t))
  else if NodeRec.anyReady nd.record then
    present.findSome? (fun c => (tpl c).bind (fun t =>
      if (s.idleGroup c (wordAt t 2 / 2 ^ 32) nd.record true).isSome then some (c, t) else none))
  else present.head?.bind (fun c => (tpl c).map (fun t => (c, t)))

/-- How a node can be placed now, if it can. -/
def State.planFor (s : State) (n : Nat) (nd : Node) : Option Placing :=
  match (if s.mayRun (NodeRec.progid nd.record) then s.classFor nd else none) with
  | none => none
  | some (c, t) =>
    let image := wordAt t 2 / 2 ^ 32
    let lease := if nd.lease ≠ [] then nd.lease else leaseOf nd.accs (NodeRec.variantOf nd.record c)
    if nd.lease = [] ∧ !s.canLease n nd lease then none
    else match s.idleGroup c image nd.record true with
      | some ks => some { cls := c, cells := ks, lease := lease, tpl := t }
      | none =>
        if NodeRec.anyReady nd.record then none
        else match s.victim c (s.queue nd.q).level nd.record with
          | some js => some { cls := c, cells := js.take (NodeRec.gsize nd.record + 1), victims := js, lease := lease, tpl := t }
          | none => (s.busyGroup c image nd.record lease).map (fun ks => { cls := c, cells := ks, lease := lease, tpl := t })

/-- Does a declared buffer of a node stand lost, or no template of its class (10 R200; 13 R262, R271)? -/
def State.nodeLost (s : State) (nd : Node) : Bool :=
  nd.accs.any (fun a => a.cap.kind == 2 && s.lost a.cap.bind.toNat) ||
    (isTask nd.kind && nd.launched == 0 && (s.presentOf nd.record).head?.any (fun c => (s.templateOf nd.asid (NodeRec.variantOf nd.record c)).isNone))

/-- Has a node tile tasks to place? The tasks of an INDIRECT node are placed one after another, whatever its first ones do (13 R265). -/
def Node.wantsCells (nd : Node) : Bool :=
  isTask nd.kind && nd.cancel.isNone && decide (nd.launched < nd.tasks) &&
    (nd.st == .ready || (nd.kind == 1 && (nd.st == .placed || nd.st == .running || nd.st == .suspended)))

/-- The placeable node of a queue that comes first in acceptance order. -/
def State.firstPlaceable (s : State) (q : Nat) : Option (Nat × Node × Placing) :=
  (s.flying.filter (fun e => e.2.q == q && e.2.wantsCells && !s.nodeLost e.2)).findSome? (fun e =>
    (s.planFor e.1 e.2).map (fun p => (e.1, e.2, p)))

/-! ## Placement (13 R269 to R271) -/

/-- The speculative runs that stand on some cells or whose leases conflict with a lease. -/
def State.runsInWay (s : State) (ks : List Nat) (l : List LeaseEnt) : List Nat :=
  (s.sched.nodes.filter (fun e => e.2.spec && (e.2.cells.any ks.contains || s.leasesClash e.2.lease l))).map (·.1)

/-- Write the launch records of a node into the shadow banks of its cells: each is an event across a die of the scheduler's unit, whose
number rises (17 R320). -/
def State.writeRecords (s : State) (n : Nat) (nd : Node) (p : Placing) : State :=
  let idx := if nd.kind = 1 then some nd.launched else none
  let num := s.sched.launches + 1
  let v := NodeRec.variantOf nd.record p.cls
  let s := s.noteHome v.1 v.2 2144
  let s := { s with sched := { s.sched with
    launches := num, wlast := some s.time, seqPlace := (s.sched.seqPlace + p.cells.length) % 2 ^ 32 } }
  let put := fun (s : State) (r : Nat) =>
    let k := (p.cells[r]?).getD 0
    let t : Task := { record := launchRecord p.tpl n nd p.cells r idx, level := (s.queue nd.q).level, lease := p.lease, spec := nd.spec,
                      node := n, launch := num }
    s.modCell k (fun c => { c with
      shadow := some t, suspended := c.suspended.map (fun x => { x with later := x.later ++ [nd.order] }) })
  let s := (List.range p.cells.length).foldl put s
  s.modNode n (fun x => { x with
    st := if x.st = .ready then .placed else x.st, cls := p.cls, lease := p.lease, launched := x.launched + 1, cells := x.cells ++ p.cells })

end Sys2Proof.Machine
end

