-- ==== Sys2Proof/Machine/Foxglove.lean ====
section
/-! DEFINITION. Foxglove: training, speculative runs, claims (13 R273 to R281; 14 R284). -/

namespace Sys2Proof.Machine

/-! ## Training (13 R273, R274) -/

/-- The entry that a launch of a program trains: the valid one of the program, else an invalid one, else the oldest; by index. -/
def Fox.slotFor (f : Fox) (progid : Nat) : Nat :=
  match f.ents.toList.findIdx? (fun e => e.valid && e.progid == progid) with
  | some i => i
  | none =>
    match f.ents.toList.findIdx? (fun e => !e.valid) with
    | some i => i
    | none =>
      let top := (f.ents.toList.map (·.age)).foldl max 0
      f.ents.toList.findIdx (fun e => e.age == top)

/-- An entry after a launch with a program, arguments, shape and the queue's previous program. -/
def FoxEnt.trained (e : FoxEnt) (p prev gsize cls : Nat) (a : List Word) : FoxEnt :=
  let steps := List.zipWith (fun (x y : Word) => x - y) a e.last
  let e' : FoxEnt :=
    if !(e.valid && e.progid == p) || e.gsize != gsize || e.cls != cls then
      { e with progid := p, valid := true, learned := false, conf := 1, gsize := gsize, cls := cls }
    else if !e.learned then { e with stride := steps, learned := true, conf := min 3 (e.conf + 1) }
    else if e.prev = prev ∧ a = List.zipWith (fun (x y : Word) => x + y) e.last e.stride then { e with conf := min 3 (e.conf + 1) }
    else { e with stride := steps, conf := 0 }
  { e' with last := a, prev := prev, age := 0 }

/-- A Grotto slot that no other saved record takes; which one is open (13 R273; log 2). -/
def State.freeSlot (s : State) (q i : Nat) : Nat :=
  let used := s.sched.fox.flatMap (fun f =>
    ((f.2.ents.toList.zipIdx).filter (fun e => e.1.valid && !(f.1 == q && e.2 == i))).map (fun e => e.1.slot))
  let c := Config.freeWord s.free
  (((List.range 16384).map (fun j => (c + j) % 16384)).find? (fun j => !used.contains j)).getD 0

/-- Train a queue on a launch of a TASK node with its class (13 R274). -/
def State.train (s : State) (q : Nat) (nd : Node) (cls : Nat) : State :=
  let p := NodeRec.progid nd.record
  let slot := s.freeSlot q ((s.fox q).slotFor p)
  s.bump.modFox q (fun f =>
    let i := f.slotFor p
    let e := (vget f.ents i {}).trained p f.prev (NodeRec.gsize nd.record) cls (NodeRec.args nd.record)
    let e := { e with slot := slot, record := nd.record, accs := nd.accs, descs := nd.accs.map (fun a => s.buf? a.cap.bind.toNat) }
    let older := f.ents.map (fun x => { x with age := min (x.age + 1) 65535 })
    { f with ents := vset older i e, prev := p })

/-! ## Speculative runs (13 R275, R277; 14 R284) -/

/-- The entry that predicts the next launch after program p. -/
def Fox.predicts (f : Fox) (p : Nat) : Option FoxEnt :=
  f.ents.toList.find? (fun e => e.valid && e.prev == p && e.learned && decide (2 ≤ e.conf))

/-- Replace the arguments of a record. -/
def withArgs (r : Rec) (a : List Word) : Rec := (List.range 8).foldl (fun r i => r.set (6 + i) ((a[i]?).getD 0)) r

/-- Could a real placeable node use one of some idle cells: does an idle group that fits it have one of them? -/
def State.realWants (s : State) (ks : List Nat) : Bool :=
  s.flying.any (fun e => e.2.wantsCells && !s.nodeLost e.2 && (match s.planFor e.1 e.2 with
    | some p =>
      let cs := if NodeRec.anyReady e.2.record && e.2.launched == 0 then s.presentOf e.2.record else [p.cls]
      cs.any (fun c => (s.fitting c e.2.record).any (fun g => g.any ks.contains && g.all (fun k => (s.cell k).isIdle true)))
    | none => false))

/-- Allocate a shadow buffer with a saved descriptor (13 R275, R277). -/
def State.shadowBuf (s : State) (d : Buf) : Option (State × Nat) :=
  match s.freeIndex 0xF00000 0x100000 with
  | none => none
  | some i =>
    some ((s.bump.enterBuf i { d with st := .live, refcnt := 1, version := 0, arrive := 0, arriveSrc := 0, written := false, toHomes := 0 }),
      s.handleAt i)

/-- A free entry of the dependency table; which one is open (log 2). -/
def State.freeNode (s : State) : Option Nat :=
  let c := Config.freeWord s.free
  ((List.range 8192).map (fun i => (c + i) % 8192)).find? (fun i => (kget? s.sched.nodes i).isNone)

/-- The shadow buffers of the W accesses, and the accesses that name them. -/
def State.shadowAll (s : State) : List (Access × Option Buf) → Nat → Option (State × List Access × List (Nat × Nat))
  | [], _ => some (s, [], [])
  | (a, d) :: l, i =>
    if a.mode = .r then
      (s.shadowAll l (i + 1)).map (fun x => (x.1, a :: x.2.1, x.2.2))
    else
      match d with
      | none => none
      | some d =>
        match s.shadowBuf d with
        | none => none
        | some (s, h) =>
          (s.shadowAll l (i + 1)).map (fun x =>
            (x.1, { a with cap := { a.cap with bind := BitVec.ofNat 32 h } } :: x.2.1, (h, i) :: x.2.2))

/-- The companion that a shadow buffer names: the shadow of the saved buffer's companion where the run writes that too, else the saved one
(13 R275). -/
def State.pairShadows (s : State) (saved : List Access) (shadows : List (Nat × Nat)) : State :=
  let map := shadows.filterMap (fun p => (saved[p.2]?).map (fun a => (a.cap.bind.toNat, p.1)))
  shadows.foldl (fun s p => s.modBuf p.1 (fun b => { b with
    companion := match map.find? (fun m => m.1 == b.companion) with | some m => m.2 | none => b.companion })) s

/-- The granules of all shadow buffers: the Grotto holds 4 GiB (13 R277). -/
def State.shadowGranules (s : State) : Nat := ((s.bufs.filter (fun e => decide (0xF00000 ≤ e.1))).map (fun e => e.2.granules)).sum

/-- Start a speculative run of an entry, where every condition holds (13 R275). -/
def State.startRun (s : State) (q : Nat) (e : FoxEnt) : State :=
  let cfg := s.queue q
  let a := cfg.asid
  let as_ := s.asid a
  let r := withArgs e.record (List.zipWith (fun (x y : Word) => x + y) e.last e.stride)
  let ok := cfg.specok && (s.fox q).run.isNone && !s.geode.hip && NodeRec.kind e.record == 0 &&
    e.accs.all (fun x => x.cap.kind == 2 && (x.mode == .r || x.mode == .w)) && as_.quota != 0
  let gran := ((e.accs.zip e.descs).map (fun x => if x.1.mode = .w then (match x.2 with | some d => d.granules | none => 0) else 0)).sum
  let tplAt := NodeRec.variantOf e.record e.cls
  if !ok || decide (as_.quota < as_.used + gran) || decide (2 ^ 20 < s.shadowGranules + gran) then s
  else match s.templateOf a tplAt, s.freeNode with
    | some t, some n =>
      match s.idleGroup e.cls (wordAt t 2 / 2 ^ 32) r false with
      | none => s
      | some ks =>
        let rl := leaseOf (e.accs.filter (fun x => x.mode == .r)) tplAt
        let free := (s.heldLeases 8192 false ++ s.heldLeases 8192 true).all (fun x => !s.leasesClash rl x.2)
        if !(s.leaseLive rl && free) || s.realWants ks then s
        else match s.bump.shadowAll (e.accs.zip e.descs) 0 with
          | none => s
          | some (s, accs, shadows) =>
            let s := s.pairShadows e.accs shadows
            let nd : Node := { q := q, seq := 0, order := s.sched.order, st := .ready, kind := 0, record := r, accs := accs, asid := a, gen := cfg.gen,
                               spec := true, shadows := shadows }
            let s := s.takeRefs nd.reads
            let s := { s with sched := { s.sched with nodes := kset s.sched.nodes n nd, order := s.sched.order + 1 } }
            let s := s.writeRecords n nd { cls := e.cls, cells := ks, lease := leaseOf accs tplAt, tpl := t }
            let s := s.noteReads n [tplAt.1]
            let s := s.modAsid a (fun x => { x with used := x.used + gran })
            (s.modFox q (fun f => { f with run := some n, since := 0 })).foxCount a 0
    | _, _ => s

/-- After a training step with program p: the predicted launch starts, if one is predicted. -/
def State.speculate (s : State) (q p : Nat) : State :=
  match (s.fox q).predicts p with
  | some e => s.startRun q e
  | none => s

/-- Train, then speculate. -/
def State.trainAndRun (s : State) (q : Nat) (nd : Node) (cls : Nat) : State :=
  (s.train q nd cls).speculate q (NodeRec.progid nd.record)

/-- A real launch of a queue counts against its run: the sixteenth discards it (13 R279). -/
def State.countLaunch (s : State) (q : Nat) : State :=
  match (s.fox q).run with
  | none => s
  | some r =>
    let s := s.modFox q (fun f => { f with since := f.since + 1 })
    if 16 ≤ (s.fox q).since then s.discardRun r 6 else s

/-! ## Claims (13 R276) -/

/-- Move the entries of keys [from, from + n) to another base. -/
def kmove {α : Type} (m : KMap α) (src dst n : Nat) : KMap α :=
  let part := (kpart m src n).map (fun e => (e.1 - src + dst, e.2))
  let rest := m.filter (fun e => decide (e.1 < src) || decide (src + n ≤ e.1))
  rest.takeWhile (fun e => e.1 < dst) ++ part ++ rest.dropWhile (fun e => e.1 < dst + n)

/-- Move the flags of granules in the same way. -/
def nmove (m : NSet) (src dst n : Nat) : NSet :=
  let part := (m.filter (fun g => decide (src ≤ g) && decide (g < src + n))).map (fun g => g - src + dst)
  let rest := m.filter (fun g => (decide (g < src) || decide (src + n ≤ g)) && (decide (g < dst) || decide (dst + n ≤ g)))
  part.foldl nsAdd rest

/-- Rename a handle. -/
def renH (src dst h : Nat) : Nat := if h = src then dst else h

def AReg.ren (src dst : Nat) (a : AReg) : AReg :=
  if a.kind = 2 then { a with bind := BitVec.ofNat 32 (renH src dst a.bind.toNat) } else a

/-- A window with a handle renamed; a KIND 2 snapshot goes with it. -/
def Win.ren (src dst : Nat) (w : Win) : Win :=
  if w.reg.kind = 2 ∧ w.reg.bind.toNat = src then
    { w with
      reg := w.reg.ren src dst
      vers := w.vers.map (fun v => (kmove v.1 (bufKey src 0) (bufKey dst 0) (2 ^ 64),
        nmove v.2 (bufKey src 0 / 64) (bufKey dst 0 / 64) (2 ^ 58))) }
  else w

def Core.ren (src dst : Nat) (r : Core) : Core := { r with a := r.a.map (AReg.ren src dst), win := r.win.map (Win.ren src dst) }

def Engine.ren (src dst : Nat) (q : Engine) : Engine :=
  { q with entries := q.entries.map (fun e => { e with
      a := e.a.map (AReg.ren src dst), late := e.late.map (fun l => { l with h := renH src dst l.h }) }) }

def VUnit.ren (src dst : Nat) (u : VUnit) : VUnit := { u with ports := u.ports.map (fun p => { p with bind := p.bind.ren src dst }) }

def renLease (src dst : Nat) (l : List LeaseEnt) : List LeaseEnt :=
  l.map (fun e => if e.host then e else { e with h := renH src dst e.h })

/-- A launch record with a handle renamed in its slots. -/
def renRecord (src dst : Nat) (l : List Word) : List Word :=
  [CoreIx.e, .v, .x].foldl (fun l c => (List.range 16).foldl (fun l j =>
    let o := secBase c + 24 + 4 * j
    putSlot l o ((aAt l o).ren src dst)) l) l

def Task.ren (src dst : Nat) (t : Task) : Task := { t with record := renRecord src dst t.record, lease := renLease src dst t.lease }

def Pub.ren (src dst : Nat) (p : Pub) : Pub :=
  let gr := fun (g : Nat) => if g * 64 / 2 ^ 64 = src then g - src * 2 ^ 58 + dst * 2 ^ 58 else g
  { p with
    granules := p.granules.map (fun g => { g with g := gr g.g, bytes := kmove g.bytes (bufKey src 0) (bufKey dst 0) (2 ^ 64) })
    handles := p.handles.map (renH src dst) }

/-- Every capability and store of a cell with a handle renamed (13 R276). -/
def Bank.ren (src dst : Nat) (b : Bank) : Bank :=
  let f := bufKey src 0
  let g := bufKey dst 0
  { b with
    e := b.e.ren src dst, v := b.v.ren src dst, x := b.x.ren src dst, prim := b.prim.ren src dst, xfer := b.xfer.ren src dst
    chans := b.chans.map (fun c => { c with bind := c.bind.ren src dst }), vu := b.vu.ren src dst, vu2 := b.vu2.ren src dst
    task := b.task.map (Task.ren src dst)
    snap := kmove b.snap f g (2 ^ 64), snapBad := nmove b.snapBad (f / 64) (g / 64) (2 ^ 58)
    seen := kmove b.seen f g (2 ^ 64), seenBad := nmove b.seenBad (f / 64) (g / 64) (2 ^ 58)
    own := kmove b.own f g (2 ^ 64), ownBad := kmove b.ownBad (f / 64) (g / 64) (2 ^ 58)
    dirty := kmove b.dirty f g (2 ^ 64), dirtyBad := kmove b.dirtyBad (f / 64) (g / 64) (2 ^ 58)
    amo := kmove b.amo (f / 8) (g / 8) (2 ^ 61), pubs := b.pubs.map (Pub.ren src dst) }

def Posted.ren (src dst : Nat) (p : Posted) : Posted :=
  { p with dst := match p.dst with | .red h o r => .red (renH src dst h) o r | x => x }

/-- The real buffer takes the shadow's granules and VERSION, every capability of the run's cells is renamed, and the shadow is freed. -/
def State.takeShadow (s : State) (ks : List Nat) (sh real : Nat) : State :=
  let f := bufKey sh 0
  let g := bufKey real 0
  match s.buf? sh with
  | none => s
  | some d =>
    let s := { s with hbm := kmove s.hbm f g (2 ^ 64), hbmBad := nmove s.hbmBad (f / 64) (g / 64) (2 ^ 58) }
    let s := s.modBuf real (fun b => { b with version := d.version, written := d.written })
    let s := ks.foldl (fun s k => s.modCell k (fun c => { c with
      b := c.b.ren sh real, shadow := c.shadow.map (Task.ren sh real), posted := c.posted.map (Posted.ren sh real) })) s
    s.freeBuf sh

/-- Does an access of the real node match one of the run (13 R276)? -/
def State.accMatches (s : State) (x y : Access) : Bool :=
  x.mode == y.mode && x.slot == y.slot && x.cores == y.cores && x.cap.base == y.cap.base && x.cap.limit == y.cap.limit &&
    x.cap.kind == y.cap.kind &&
    (if x.mode = .r then x.cap.bind == y.cap.bind
    else match s.buf? y.cap.bind.toNat, s.buf? x.cap.bind.toNat with
      | some b, some d => x.cap.rights == y.cap.rights && b.st == .live && b.version == 0 && !b.written && b.tag == d.tag && b.dims == d.dims && b.layout == d.layout &&
          b.pad == d.pad && b.granules == d.granules
      | _, _ => false)

/-- Does a real node match a run, the read set aside? -/
def State.runMatches (s : State) (run nd : Node) (cls : Nat) : Bool :=
  NodeRec.gsize nd.record == NodeRec.gsize run.record && cls == run.cls &&
    NodeRec.args nd.record == NodeRec.args run.record && nd.accs.length == run.accs.length &&
    NodeRec.variantOf nd.record cls == NodeRec.variantOf run.record run.cls &&
    (List.zipWith s.accMatches run.accs nd.accs).all id

/-- The task of a claimed run becomes the real node's. -/
def Task.claimed (n : Nat) (run : Nat) (t : Task) : Task :=
  if t.node = run then
    let w0 := wordAt t.record 0
    let r := t.record.set 0 (wNat (w0 - field w0 32 13 * 2 ^ 32 + n * 2 ^ 32))
    { t with node := n, spec := false, record := r.set 3 (wNat (wordAt r 3 / 2 * 2)) }
  else t

/-- Check a TASK node that becomes READY against its queue's run: it claims the run, or the run is discarded, or neither where the run
is of another program (13 R276, R280). cls is the class that R107 chooses, none for a node with none or that is cancelled as it becomes
READY. -/
def State.claimCheck (s : State) (n : Nat) (cls : Option Nat) : State :=
  match kget? s.sched.nodes n with
  | none => s
  | some nd =>
    match (s.fox nd.q).run with
    | none => s
    | some rn =>
      match kget? s.sched.nodes rn with
      | none => s
      | some run =>
        if NodeRec.progid run.record ≠ NodeRec.progid nd.record ∨ nd.kind ≠ 0 then s
        else match cls.filter (s.runMatches run nd) with
        | none => s.discardRun rn 2
        | some cls =>
        if !run.readset.all (fun p => (s.buf? p.1).any (fun b => b.version == p.2)) then s.discardRun rn 3
        else
          let real := fun (i : Nat) => match nd.accs[i]? with | some a => a.cap.bind.toNat | none => 0
          let gran := (run.shadows.map (fun p => match s.buf? p.1 with | some b => b.granules | none => 0)).sum
          let lease := run.shadows.foldl (fun l p => renLease p.1 (real p.2) l) run.lease
          let s := ((s.runsInWay [] lease).filter (· != rn)).foldl (fun s r => s.discardRun r 4) s
          let s := run.shadows.foldl (fun s p => s.takeShadow run.cells p.1 (real p.2)) s
          let s := run.cells.foldl (fun s k => s.modCell k (fun c => { c with
            shadow := c.shadow.map (Task.claimed n rn), b := { c.b with task := c.b.task.map (Task.claimed n rn) } })) s
          let s := ({ s with sched := { s.sched with nodes := kdel s.sched.nodes rn } } : State).dropRefs run.reads
          let s := s.modNode n (fun x => { x with
            st := if run.st = .placed then .placed else .running, cls := cls, launched := 1, cells := run.cells, lease := lease
            cancel := if run.cells = [] then some 0 else none })
          let s := (s.modFox nd.q (fun f => { f with run := none })).modAsid nd.asid (fun a => { a with used := a.used - gran })
          (s.foxCount nd.asid 1).trainAndRun nd.q nd cls

end Sys2Proof.Machine
end

