-- ==== Sys2Proof/Machine/Sched.lean ====
section
/-! DEFINITION. The scheduler's events: acceptance, readiness and evaluation, decisions, retirement, loops (05 R102; 13 R257, R261 to R268,
R272). -/

namespace Sys2Proof.Machine

/-! ## Words that nodes read (13 R263) -/

/-- The committed word of a node. -/
def State.nodeWord (s : State) (nd : Node) : Nat :=
  match nd.accs[NodeRec.wacc nd.record]? with
  | some a => leNat (s.homeWord a.cap.bind.toNat (a.cap.base.toNat + NodeRec.woff nd.record) 8).1
  | none => 0

/-- The counter of an EVENT node. -/
def State.eventCount (s : State) (nd : Node) : Nat :=
  if NodeRec.host nd.record then (s.queue nd.q).hevt
  else match nd.accs[NodeRec.wacc nd.record]? with
    | some a => (match s.buf? a.cap.bind.toNat with | some b => b.arrive | none => 0)
    | none => 0

/-! ## Readiness and evaluation (13 R262 to R265) -/

/-- Reading a node's word counts its substitutions (10 R208). -/
def State.noteWord (s : State) (nd : Node) : State :=
  match nd.accs[NodeRec.wacc nd.record]? with
  | some a => if 1 ≤ nd.kind ∧ nd.kind ≤ 4 then s.noteHome a.cap.bind.toNat (a.cap.base.toNat + NodeRec.woff nd.record) 8 else s
  | none => s

/-- Open the gates of the nodes gated on node g that wait for an arm. -/
def State.openGates (s : State) (g arm : Nat) : State :=
  { s with sched := { s.sched with nodes := s.sched.nodes.map (fun e =>
    (e.1, if e.2.gate = some (g, arm) then { e.2 with gateOpen := true } else e.2)) } }

/-- Ask the host for the pages of a lease that have no translation (13 R269). -/
def State.askPages (s : State) (nd : Node) (l : List LeaseEnt) : State :=
  ((leasePages l).filter (fun p => !s.hasPage nd.asid nd.gen p)).foldl (fun s p => s.send (.atsRequest p.1 p.2)) s

/-- A node has become READY: control kinds are evaluated at once; a TASK is checked against its queue's run (13 R263 to R265, R276). -/
def State.evaluate (s : State) (n : Nat) (nd : Node) : State :=
  let set := fun (s : State) (f : Node → Node) => s.modNode n (fun x => f { x with st := .ready })
  let v := NodeRec.value nd.record
  let s := s.noteWord nd
  if nd.accs.any (fun a => a.cap.kind == 2 && s.lost a.cap.bind.toNat) then
    (set s (fun x => { x with cancel := some 3 })).claimCheck n none
  else match nd.kind with
    | 2 =>
      let a := if s.nodeWord nd ≠ 0 then 1 else 0
      (set s (fun x => { x with arm := some a })).openGates n a
    | 3 =>
      if s.nodeWord nd ≠ 0 ∧ v ≠ 0 then (set s (fun x => { x with arm := some 1, iter := 0 })).openGates n 1
      else (set s (fun x => { x with arm := some 0, cancel := some 0 })).openGates n 0
    | 4 =>
      let w := s.nodeWord nd
      let a := if w < v then w else 255
      (set s (fun x => { x with arm := some a })).openGates n a
    | 5 => set s (fun x => { x with cancel := some 0 })
    | 6 => set s id
    | _ =>
      match (s.presentOf nd.record).head? with
      | none => (set s (fun x => { x with cancel := some 2 })).claimCheck n none
      | some c =>
        let l := leaseOf nd.accs (NodeRec.variantOf nd.record c)
        if 256 < (leasePages l).length then (set s (fun x => { x with cancel := some 7 })).claimCheck n none
        else if nd.kind = 1 then
          let w := s.nodeWord nd
          (set s (fun x => { x with
            tasks := min w v, clamped := decide (v < w), cancel := if min w v = 0 then some 0 else none })).askPages nd l
        else ((set s (fun x => { x with tasks := 1 })).askPages nd l).claimCheck n (if NodeRec.anyReady nd.record then (s.classFor nd).map (·.1) else some c)

/-- Has the gate of a node chosen another arm (13 R263)? -/
def State.skipped (s : State) (nd : Node) : Bool :=
  match nd.gate with
  | some (g, a) =>
    !nd.gateOpen && (match kget? s.sched.nodes g with
      | some x => (match x.arm with | some b => b != a && (x.kind != 3 || b == 0) | none => false)
      | none => true)
  | none => false

/-- The first waiting node that can move on. -/
def State.movable (s : State) : Option (Nat × Node) :=
  s.flying.find? (fun e => e.2.st == .waiting && e.2.cancel.isNone && (s.skipped e.2 || (e.2.pred == [] && e.2.gateOpen)))

/-- Waiting nodes become READY, are evaluated or are skipped, until none can move on. The first argument bounds the moves. -/
def State.settleNodes : Nat → State → State
  | 0, s => s
  | f + 1, s =>
    match s.movable with
    | none => s
    | some (n, nd) =>
      if s.skipped nd then State.settleNodes f (s.modNode n (fun x => { x with cancel := some 4 }))
      else State.settleNodes f (s.evaluate n nd)

def State.settleAll (s : State) : State := s.settleNodes (2 * s.sched.nodes.length + 2)

/-! ## Acceptance (13 R257, R261) -/

/-- Enter a node in the dependency table. -/
def State.enterNode (s : State) (i : Nat) (nd : Node) : State :=
  let s := s.bump.takeRefs nd.accs
  { s with sched := { s.sched with nodes := kset s.sched.nodes i { nd with order := s.sched.order }, order := s.sched.order + 1 } }

/-- The answer to the submitter: an accepted node, or NODE_REJECTED (13 R257; 17 R325). -/
def State.answerSubmit (s : State) (sub : Submission) (res : Option (Nat × Nat)) : State :=
  if sub.host then
    let ag := some (sub.gen % 16 * 4096 + sub.asid % 4096)
    match res with
    | some _ => s.answerMail 0x21 ag 0 []
    | none => s.answerMail 0x21 ag 2 [0x1A]
  else s.onPusher sub.cell sub.uid (fun s => match (s.bank sub.cell).xfer.entries.find? (fun e => e.uid == sub.uid) with
    | none => s
    | some ent =>
      match res with
      | some p =>
        (s.answered sub.cell .transfer ent {} none).modBank sub.cell (fun b =>
          { b with kids := b.kids ++ [{ q := sub.q, uid := sub.uid, node := p.1 }] })
      | none => s.stopQueue sub.cell .transfer cREJECTED (some sub.uid))

/-- NODE_ACCEPT: submission i, the first of its submitter, is accepted or rejected. While 8,192 nodes are in flight it waits. -/
def execNodeAccept (i : Nat) (s : State) : Out :=
  .next (
    match s.sched.subs[i]? with
    | none => s
    | some sub =>
      if !s.serves || (s.sched.subs.take i).any (fun x => x.host == sub.host && (sub.host || x.cell == sub.cell)) then s
      else
        let rest := s.sched.subs.eraseIdx i
        match s.parseNode sub with
        | none => ({ s with sched := { s.sched with subs := rest } } : State).answerSubmit sub none
        | some nd =>
          match s.freeNode with
          | none => s
          | some n =>
            if 8192 ≤ s.flying.length then s
            else
              let q := s.queue sub.q
              let s := s.enterNode n nd
              let s := { s with sched := { s.sched with
                subs := rest, queues := kset s.sched.queues sub.q { q with nextseq := (q.nextseq + 1) % 2 ^ 32 } } }
              let s := match nd.gate with
                | some (g, _) => s.modNode g (fun x => { x with gated := x.gated + 1 })
                | none => s
              (s.answerSubmit sub (some (n, nd.seq))).settleAll)

/-! ## Retirement (13 R262) -/

/-- Has a COND or SWITCH node chosen, its gated nodes been accepted, and none of them still waits for it (13 R263)? -/
def State.gateOver (s : State) (n : Nat) (nd : Node) : Bool :=
  (nd.kind == 2 || nd.kind == 4) && nd.arm.isSome && decide (NodeRec.body nd.record ≤ nd.gated) &&
    s.sched.nodes.all (fun e => !(e.2.st == .waiting && e.2.cancel.isNone && !e.2.gateOpen &&
      (match e.2.gate with | some (g, _) => g == n | none => false)))

/-- The status with which a node is to retire now, if it is (13 R262 to R265). An INDIRECT node that loses a buffer between two of its tasks
launches no more, and retires once the first ones have completed (10 R200). -/
def State.dueStatus (s : State) (n : Nat) (nd : Node) : Option Nat :=
  if nd.spec then none
  else match nd.cancel with
    | some st => some st
    | none =>
      if nd.finished then some (if nd.faulted then 1 else if nd.clamped then 6 else 0)
      else if nd.st = .ready ∧ s.nodeLost nd then some 3
      else if nd.st = .ready ∧ isTask nd.kind ∧ s.presentOf nd.record = [] then some 2
      else if nd.kind = 1 ∧ nd.st ≠ .waiting ∧ nd.st ≠ .ready ∧ nd.launched < nd.tasks ∧ nd.cells = [] ∧ s.nodeLost nd then
        some (if nd.faulted then 1 else 3)
      else if s.gateOver n nd then some 0
      else none

/-- NODE_RETIRE: its cells' tasks complete where they can, and a node that is due retires; of one that retired with its task's fault the
successors are released (15 R289). -/
def execNodeRetire (n : Nat) (s : State) : Out :=
  .next (
    match kget? s.sched.nodes n with
    | none => s.settleAll
    | some nd =>
      let s := nd.cells.foldl State.finishCell s
      match kget? s.sched.nodes n with
      | none => s
      | some nd =>
        match s.dueStatus n nd with
        | some st => (s.retireNode n nd st).settleAll
        | none => s)

/-- EVENT_NODE_SATISFIED: the counter has reached the node's value (13 R263). -/
def execEventNodeSatisfied (n : Nat) (s : State) : Out :=
  .next (
    match kget? s.sched.nodes n with
    | none => s
    | some nd =>
      if nd.kind = 6 ∧ nd.st = .ready ∧ nd.cancel = none ∧ !nd.spec ∧
          (s.eventCount nd + 2 ^ 32 - NodeRec.value nd.record) % 2 ^ 32 < 2 ^ 31 then
        (s.retireNode n nd 0).settleAll
      else s)

/-! ## Loops (13 R264) -/

/-- Re-accept a body node: its edges are derived anew, its references retaken. -/
def State.reaccept (s : State) (g : Nat) (nd : Node) : State :=
  match s.freeNode with
  | none => s
  | some i => s.enterNode i { nd with
      st := .waiting, pred := s.predsOf nd.q nd.seq nd.record nd.accs, gate := some (g, 1), gateOpen := true, arm := none, iter := 0
      cancel := none, tasks := 1, launched := 0, cells := [], faulted := false, clamped := false, lease := [] }

/-- The nodes gated on a node with an arm that are in flight. -/
def State.gatedOn (s : State) (g arm : Nat) : List (Nat × Node) := s.sched.nodes.filter (fun e => e.2.gate == some (g, arm))

/-- LOOP_ITERATION: every body node of a running loop has retired; the next iteration begins, or the loop ends. -/
def execLoopIteration (n : Nat) (s : State) : Out :=
  .next (
    match kget? s.sched.nodes n with
    | none => s
    | some nd =>
      if nd.kind = 3 ∧ nd.arm = some 1 ∧ nd.cancel = none ∧ NodeRec.body nd.record ≤ nd.gated ∧ s.gatedOn n 1 = [] then
        let i := nd.iter + 1
        let body := ((s.sched.bodies.filter (fun e => e.1 == n)).map (·.2)).mergeSort (fun a b => decide (a.order ≤ b.order))
        let again := decide (i < NodeRec.value nd.record)
        let next := again && s.nodeWord nd != 0
        -- while the table has no room for the body the iteration waits, as any acceptance does (13 R257)
        if next ∧ 8192 < s.sched.nodes.length + body.length then s
        else
        let s := if again then s.noteWord nd else s
        if next then
          let s := { s with sched := { s.sched with bodies := s.sched.bodies.filter (fun e => e.1 != n) } }
          let s := s.modNode n (fun x => { x with iter := i })
          (body.foldl (fun s b => s.reaccept n b) s).settleAll
        else ((s.modNode n (fun x => { x with iter := i, arm := some 0, cancel := some 0 })).openGates n 0).settleAll
      else s)

/-! ## Decisions (13 R267, R268) -/

/-- Draw a queue of a level by lottery. l holds the queues with a placeable node, in ascending number. -/
def State.draw (s : State) (l : List Nat) : State × Option Nat :=
  let qt := l.filter (fun q => (s.queue q).tickets != 0)
  if qt = [] then (s, l.head?)
  else
    let x := xorshift (seedOr s.sched.lottery)
    let t := (qt.map (fun q => (s.queue q).tickets)).sum
    let v := x.toNat * t / 2 ^ 32
    let sums := (List.range qt.length).map (fun i => ((qt.take (i + 1)).map (fun q => (s.queue q).tickets)).sum)
    ({ s with sched := { s.sched with lottery := x } }, qt[sums.findIdx (fun z => decide (v < z))]?)

/-- Place a node: runs in its way are discarded, a victim is stopped, the records are written, and a TASK trains Foxglove. -/
def State.place (s : State) (n : Nat) (nd : Node) (p : Placing) : State :=
  let s := (s.runsInWay (p.cells ++ p.victims) p.lease).foldl (fun s r => s.discardRun r 4) s
  let s := p.victims.foldl State.beginPreempt s
  let s := (s.writeRecords n nd p).countLaunch nd.q
  if nd.kind = 0 then s.trainAndRun nd.q nd p.cls else s

/-- The enabled queues of a level that hold a placeable node, with that node. -/
def State.levelQueues (s : State) (l : Nat) : List (Nat × Nat × Node × Placing) :=
  (s.sched.queues.filter (fun e => e.2.enable && e.2.level == l)).filterMap (fun e => (s.firstPlaceable e.1).map (fun p => (e.1, p)))

/-- SCHEDULER_DECISION (13 R267). During a hand-over no launch record is written (19 R346). -/
def execSchedulerDecision (s : State) : Out :=
  .next (
    if s.geode.hip || !s.serves then s
    else match [0, 1, 2, 3].findSome? (fun l => let qs := s.levelQueues l; if qs = [] then none else some qs) with
      | none => s
      | some qs =>
        let (s, q) := s.draw (qs.map (·.1))
        match q.bind (fun q => qs.find? (fun e => e.1 == q)) with
        | some (_, n, nd, p) => s.place n nd p
        | none => s)

end Sys2Proof.Machine
end

