-- ==== Sys2Proof/Machine/HostLink.lean ====
section
/-! DEFINITION. The host link: event records and interrupts, BAR0 registers, BAR2 windows, and address translation
(10 R201; 11 R225; 17 R322 to R328). -/

namespace Sys2Proof.Machine

/-! ## Interrupts (17 R328) -/

def State.msix (s : State) (v : Nat) : Msix := kget {} s.host.msix v

def State.modMsix (s : State) (v : Nat) (f : Msix → Msix) : State :=
  s.setHost (fun h => { h with msix := kset h.msix v (f (s.msix v)) })

/-- The instant of a vector's message has come: it is sent and the count is 0, or it is held while the vector is masked. -/
def State.fire (s : State) (v : Nat) : State :=
  if (s.msix v).masked then s.modMsix v (fun m => { m with held := true })
  else (s.modMsix v (fun m => { m with pend := 0, held := false })).send (.msix v)

/-- Send a vector's message if its count has reached N. -/
def State.fireFull (s : State) (v : Nat) : State :=
  if 0 < (s.msix v).pend ∧ (s.msix v).n ≤ (s.msix v).pend then s.fire v else s

/-- A record has been written for a vector. -/
def State.countRecord (s : State) (v : Nat) : State :=
  (s.modMsix v (fun m => { m with
    pend := m.pend + 1, first := if m.pend = 0 then s.time else m.first, latest := s.time })).fireFull v

/-- The instant at which a timer of a vector runs out, where records are pending and its message is not held. -/
def Msix.due (m : Msix) : Option Nat := if 0 < m.pend ∧ !m.held then some (min (m.first + 1000 * m.t) (m.latest + 1000 * m.i)) else none

/-- Send every message whose timer has run out. -/
def State.fireDue (s : State) : State :=
  ((s.host.msix.filter (fun e => e.2.due.any (fun d => decide (d ≤ s.time)))).map (·.1)).foldl State.fire s

/-- How much of ns may pass before the next timer runs out: a message is sent at the earliest of its instants. -/
def State.untilDue (s : State) (ns : Nat) : Nat := (s.host.msix.filterMap (fun e => e.2.due.map (· - s.time))).foldl min ns

/-- MSIX_FIRST_TIMER: T µs have passed since the first pending record. -/
def execMsixFirstTimer (v : Nat) (s : State) : Out :=
  .next (
    let m := s.msix v
    if 0 < m.pend ∧ m.first + 1000 * m.t ≤ s.time then s.fire v else s)

/-- MSIX_IDLE_TIMER: I µs have passed since the latest record. -/
def execMsixIdleTimer (v : Nat) (s : State) : Out :=
  .next (
    let m := s.msix v
    if 0 < m.pend ∧ m.latest + 1000 * m.i ≤ s.time then s.fire v else s)

/-- Unmask a vector: a held message is sent. -/
def State.unmask (s : State) (v : Nat) : State :=
  let held := (s.msix v).held
  let s := s.modMsix v (fun m => { m with masked := false, held := false })
  if held then s.fire v else s

/-- MSIX_UNMASK. -/
def execMsixUnmask (v : Nat) (s : State) : Out := .next (if s.serves then s.unmask v else s)

/-! ## Event rings (17 R326) -/

/-- Key of the host memory that the device reaches without a PASID. -/
def hostPlain : Nat := 2 ^ 20

/-- Has an ASID's ring a place and room? -/
def Asid.ringRoom (a : Asid) : Bool := decide (6 ≤ a.ringK) && decide (a.ringWr - a.ringRd < 2 ^ a.ringK)

/-- The bytes of an event record: three words, and the phase. -/
def recordBytes (words : List Word) (pass : Bool) : List Byte :=
  (words.take 3 ++ [wNat pass.toNat]).flatMap (fun w => leBytes 8 w.toNat)

/-- EVENT_RECORD_WRITE: the oldest waiting record is written once its ring has room, then its interrupt is counted; the HNOTIFY entry
that posted it has its answer. -/
def execEventRecordWrite (asid : Nat) (s : State) : Out :=
  .next (
    let a := s.asid asid
    match a.waiting with
    | [] => s
    | r :: rest =>
      if a.ringRoom then
        let i := a.ringWr % 2 ^ a.ringK
        let addr := hostKey hostPlain (a.ringBase + 32 * i)
        let s := { s with hostMem := s.hostMem.write addr (recordBytes r.words a.pass) }
        let s := s.modAsid asid (fun x => { x with
          waiting := rest, ringWr := x.ringWr + 1, pass := if i + 1 = 2 ^ x.ringK then !x.pass else x.pass })
        let s := s.countRecord (wordAt r.words 1 % 2048)
        match r.src with
        | none => s
        | some (k, uid) => s.onPusher k uid (fun s =>
          match (s.bank k).xfer.entries.find? (fun e => e.uid == uid && e.need == .ring) with
          | some ent => s.answered k .transfer ent {} none
          | none => s)
      else s)

/-! ## Registers of BAR0 (17 R322) -/

/-- HOST_REGISTER_WRITE: the register holds the value; a ring's read index moves on, a vector's mask or coalescing changes, a word of the request
block takes the value, and the mailbox doorbell hands the block over to be served in doorbell order. N, T and I outside 1 to 256 and an index
outside the records written are not taken. No rule says what a queue's doorbell does beyond the mailbox's SUBMIT (log 59). -/
def execHostRegisterWrite (addr : Nat) (val : Word) (s : State) : Out :=
  .next (
    if !s.serves then s
    else
      let s := s.setHost (fun h => { h with bar0 := kset h.bar0 addr val })
      let n := val.toNat
      let ok := decide (1 ≤ n) && decide (n ≤ 256)
      match Config.bar0 addr with
      | .ringRead a => s.modAsid a (fun x => if x.ringRd ≤ n ∧ n ≤ x.ringWr then { x with ringRd := n } else x)
      | .mask v => if n % 2 = 1 then s.modMsix v (fun m => { m with masked := true }) else s.unmask v
      | .count v => if ok then (s.modMsix v (fun m => { m with n := n })).fireFull v else s
      | .time v => if ok then s.modMsix v (fun m => { m with t := n }) else s
      | .idle v => if ok then s.modMsix v (fun m => { m with i := n }) else s
      | .mailWord i => s.setHost (fun h => { h with mail := vset h.mail i val })
      | .mailDoorbell => s.setHost (fun h => { h with rung := h.rung ++ [h.mail.toList] })
      | .queueDoorbell _ => s
      | .other => s)

/-! ## Windows of BAR2 (17 R324) -/

/-- The buffer and image offset that a window access reaches, where the mapping has the right (bit) and the range lies in the image. -/
def State.windowAt (s : State) (w off n bit : Nat) : Option (Bar2 × Nat) :=
  match kget? s.host.bar2 w with
  | none => none
  | some m =>
    match s.buf? m.handle with
    | none => none
    | some b =>
      if m.rights.getLsbD bit ∧ off + n ≤ 2 ^ 21 ∧ m.off + off + n ≤ b.bytes ∧ b.st ≠ .lost then some (m, m.off + off) else none

/-- HOST_WINDOW_READ: the contents committed at the home, or Unsupported Request. -/
def execHostWindowRead (w off len : Nat) (s : State) : Out :=
  .next (
    if !s.serves then s
    else match s.windowAt w off len 0 with
      | none => s.reply (.window false [] false)
      | some (m, o) =>
        let (bs, bad) := s.homeWord m.handle o len
        ((s.noteHome m.handle o len).cacheTouch m.asid m.handle o len).reply (.window true bs bad))

/-- HOST_WINDOW_WRITE: the write waits for the ASID's SYNC; one that is not allowed is discarded and logged in the ring of the scheduler die; the
spec gives the record no code and no detail: they are free (log 60). -/
def execHostWindowWrite (w off : Nat) (data : List Byte) (s : State) : Out :=
  .next (
    if !s.serves then s
    else match s.windowAt w off data.length 1 with
      | none =>
        (s.bump.bump.bump.reply (.dropped w off)).logHw Config.schedDie (Config.freeWord s.free % 0x8000) 0
          (wNat (Config.freeWord (s.free + 1))) (wNat (Config.freeWord (s.free + 2)))
      | some (m, o) => s.setHost (fun h => { h with writes := h.writes ++ [(m.asid, bufKey m.handle o, data)] }))

/-! ## Translations (10 R201; 11 R225; 13 R269; 17 R323) -/

def Trans.is (t : Trans) (pasid page : Nat) : Bool := t.pasid == pasid && t.page == page

/-- Change the entry of a page, making one where there is none. -/
def State.modTrans (s : State) (pasid page : Nat) (f : Trans → Trans) : State :=
  s.setHost (fun h => { h with
    trans := if h.trans.any (fun t => t.is pasid page) then h.trans.map (fun t => if t.is pasid page then f t else t)
      else h.trans ++ [f { pasid := pasid, page := page, valid := false }] })

/-- Does the lease of a task on a cell cover a host page? -/
def State.pageLeased (s : State) (pasid page : Nat) : Bool :=
  s.cells.any (fun e => e.2.tasks.any (fun t => (leasePages t.lease).contains (pasid, page)))

/-- ATS_INVALIDATION: the translation may not be used by any further element; firmware asks anew for a leased page. -/
def execAtsInvalidation (pasid page : Nat) (s : State) : Out :=
  .next (
    if !s.serves then s
    else
      let s := s.modTrans pasid page (fun t => { t with valid := false, inval := true })
      if s.pageLeased pasid page then s.send (.atsRequest pasid page) else s)

/-- Does a posted write to a host page that was issued, not parked, still stand? -/
def State.pagePosted (s : State) (pasid page : Nat) : Bool :=
  s.cells.any (fun e => e.2.posted.any (fun p => match p.dst with
    | .host q a => !p.parked && q == pasid && (granules 12 a p.data.length).contains page
    | _ => false))

/-- ATS_INVALIDATION_COMPLETE: every element that was issued under the old translation has been answered. -/
def execAtsInvalidationComplete (pasid page : Nat) (s : State) : Out :=
  .next (
    if s.host.trans.any (fun t => t.is pasid page && t.inval) ∧ !s.pagePosted pasid page then
      (s.setHost (fun h => { h with trans := h.trans.filterMap (fun t =>
        if t.is pasid page then (if t.valid then some { t with inval := false } else none) else some t) })).reply (.atsDone pasid page)
    else s)

/-- Is a generation of an ASID the present one? -/
def State.live (s : State) (p : Nat × Nat) : Bool := (s.asid p.1).live && (s.asid p.1).gen == p.2

/-- TRANSLATION_RESPONSE: the translation is installed for those in flight that declare the page, or the page is asked for through PRI. -/
def execTranslationResponse (pasid page : Nat) (ok : Bool) (s : State) : Out :=
  .next (
    if !s.serves then s
    else if ok then (s.modTrans pasid page (fun t => { t with
      valid := true, tags := (t.tags ++ (s.pageUsers (pasid, page)).filter s.live).eraseDups })).pageAnswered pasid page
    else s.askPage pasid page)

end Sys2Proof.Machine
end

