-- ==== Sys2Proof/Machine/Links.lean ====
section
/-! DEFINITION. Die-to-die links and the Odsoga fabric (11 R228, R229; 17 R317 to R319, R329 to R333; 18 R336, R337). -/

namespace Sys2Proof.Machine

def State.setFabric (s : State) (f : Fabric → Fabric) : State := { s with fabric := f s.fabric }

/-! ## Stream flits (17 R317 to R319) -/

def flitByte (f : Flit) (i : Nat) : Nat := ((f[i]?).getD 0).toNat

/-- n bytes of a flit from byte i. -/
def flitNat (f : Flit) (i n : Nat) : Nat := leNat ((f.drop i).take n)

def flitKind (f : Flit) : Nat := flitByte f 1 / 64
def flitTag (f : Flit) : Nat := flitByte f 0

/-- Is a flit whole, with the CRC that its bytes give? -/
def flitOk (f : Flit) : Bool := f.length == 256 && flitNat f 252 4 == (crc32 (f.take 252)).toNat

def State.link (s : State) (l : Nat) : Link := kget {} s.fabric.links l

def State.modLink (s : State) (l : Nat) (f : Link → Link) : State :=
  s.setFabric (fun x => { x with links := kset x.links l (f (s.link l)) })

/-- A flit of a kind arrives on a link: with a good CRC and the LSEQ that is due it is taken; the next LSEQ is then due. -/
def State.takeFlit (s : State) (l kind : Nat) (f : Flit) (act : State → State) : State :=
  if flitOk f && flitKind f == kind && flitNat f 242 2 == (s.link l).nextLseq then
    act (s.modLink l (fun x => { x with nextLseq := (x.nextLseq + 1) % 2 ^ 16 }))
  else s

/-- The open context of a tag on a link. -/
def State.ctxOf (s : State) (l tag : Nat) : Option Ctx := s.fabric.ctxs.find? (fun c => c.link == l && c.tag == tag)

/-- STREAM_OPEN: a context opens with its OPEN flit as header; tag 255 is reserved. -/
def execStreamOpen (link : Nat) (f : Flit) (s : State) : Out :=
  .next (s.takeFlit link 1 f (fun s =>
    if flitTag f = 255 then s
    else s.setFabric (fun x => { x with
      ctxs := x.ctxs.filter (fun c => !(c.link == link && c.tag == flitTag f)) ++ [{ link := link, tag := flitTag f, header := f }] })))

/-- The payload bytes of DATA flit i of a context, with the poison of their quarters. -/
def Ctx.payload (c : Ctx) (i : Nat) (f : Flit) : List WByte :=
  let n := flitNat c.header 12 4 - 240 * i
  let bs := ((f.drop 2).take 240).take n
  (List.range bs.length).zipWith (fun j b => { v := b, bad := bitOf (flitByte f 1) (j / 60) }) bs

/-- Bytes of a write or of a read response land at the context's destination: an on-chip address, or an image offset of a buffer. A semaphore
signal is a write to the semaphore's address (10 R192; log 61). The selectors of an ASID's present generation see the access, an old one's
never match (15 R303). -/
def State.landStream (s : State) (c : Ctx) (i : Nat) (ws : List WByte) : State :=
  let a := flitNat c.header 16 8 + 240 * i
  let h := flitNat c.header 24 4
  if !([0, 2, 3] : List Nat).contains (flitByte c.header 2 / 16) then s
  else if h = 0 then
    let a := a % 2 ^ 48
    if s.chipOk a ws.length then (s.landChip a ws).1 else s
  else match s.buf? h with
    | some b =>
      if a + ws.length ≤ b.bytes then
        let ag := flitNat c.header 6 2
        let asid := if s.live (ag % 4096, ag / 4096) then ag % 4096 else 0
        ((s.homePut h a ws).modBuf h (fun d => { d with written := true })).cacheTouch asid h a ws.length
      else s
    | none => s

/-- Do two contexts come from one source unit and go to one die (17 R318, R319)? -/
def Ctx.alike (c d : Ctx) : Bool :=
  flitByte c.header 3 == flitByte d.header 3 && flitByte c.header 4 == flitByte d.header 4 && flitByte c.header 5 == flitByte d.header 5

def Ctx.same (c d : Ctx) : Bool := c.link == d.link && c.tag == d.tag

/-- Did every DATA flit of a context come (17 R319)? -/
def Ctx.whole (c : Ctx) : Bool := c.got.length == (flitNat c.header 12 4 + 239) / 240

def State.putCtx (s : State) (c : Ctx) : State :=
  s.setFabric (fun x => { x with ctxs := x.ctxs.map (fun d => if d.same c then c else d) })

/-- A context ends with a status; what was done stands by its OPEN flit, with status 0 only if every flit came. -/
def State.endCtx (s : State) (c : Ctx) (status : Nat) : State :=
  s.setFabric (fun x => { x with
    ctxs := x.ctxs.filter (fun d => !d.same c)
    done := if status ≠ 0 ∨ c.whole = true then x.done ++ [(status, c.header, c.got)] else x.done })

/-- The first context, in the order of opening, that has something to deliver and none of its source before it. -/
def dueCtx : List Ctx → List Ctx → Option Ctx
  | _, [] => none
  | before, c :: l =>
    if (c.wait != [] || c.closed.isSome) && !before.any c.alike then some c else dueCtx (before ++ [c]) l

/-- Contexts of one source towards one die deliver their payloads in the order in which they were opened (17 R319). -/
def State.settleCtxs : Nat → State → State
  | 0, s => s
  | n + 1, s =>
    match dueCtx [] s.fabric.ctxs with
    | none => s
    | some c =>
      let s := c.wait.foldl (fun s w => s.landStream c w.1 w.2) s
      State.settleCtxs n (match c.closed with
        | some st => s.endCtx c st
        | none => s.putCtx { c with wait := [] })

/-- STREAM_DATA: the next payload bytes of a context arrive; those of a write land. -/
def execStreamData (link : Nat) (f : Flit) (s : State) : Out :=
  .next (s.takeFlit link 0 f (fun s =>
    match s.ctxOf link (flitTag f) with
    | none => s
    | some c =>
      let i := c.got.length
      let ws := c.payload i f
      (s.putCtx { c with got := c.got ++ [(240 * i, ws.map (·.v))], wait := c.wait ++ [(i, ws)] }).settleCtxs
        (s.fabric.ctxs.length + 1)))

/-- STREAM_CLOSE: the context ends, with status 2 at once, else when its payload has been delivered. -/
def execStreamClose (link : Nat) (f : Flit) (s : State) : Out :=
  .next (s.takeFlit link 2 f (fun s =>
    match s.ctxOf link (flitTag f) with
    | none => s
    | some c =>
      if flitByte f 2 = 2 then (s.endCtx c 2).settleCtxs s.fabric.ctxs.length
      else (s.putCtx { c with closed := some (flitByte f 2) }).settleCtxs (2 * s.fabric.ctxs.length)))

/-- CREDIT: flits return to the request and the response class. -/
def execCredit (link : Nat) (f : Flit) (s : State) : Out :=
  .next (s.takeFlit link 3 f (fun s => s.modLink link (fun x => { x with
    creq := x.creq + flitNat f 2 2, crsp := x.crsp + flitNat f 4 2 })))

end Sys2Proof.Machine

namespace Sys2Proof

/-! ## Fields of Odsoga messages (17 R330) -/

def Msg.type_ (m : Msg) : Nat := field m.w0.toNat 56 8
def Msg.dst (m : Msg) : Nat := field m.w0.toNat 48 8
def Msg.src (m : Msg) : Nat := field m.w0.toNat 40 8
def Msg.seq (m : Msg) : Nat := field m.w1.toNat 32 32
def Msg.opid (m : Msg) : Nat := field m.w1.toNat 0 32
def Msg.handle (m : Msg) : Nat := field m.w2.toNat 32 32
def Msg.epoch (m : Msg) : Nat := field m.w2.toNat 16 16
def Msg.lmask (m : Msg) : Nat := field m.w2.toNat 8 8
def Msg.fmask (m : Msg) : Nat := field m.w2.toNat 0 8
def Msg.arg (m : Msg) : Nat := m.w3.toNat

/-- The bytes of a PUSH_DATA with the bits that they write (17 R330, R332). -/
def Msg.stores (m : Msg) : List Machine.WByte :=
  let n := m.payload.length
  let full := fun (v : Nat) => BitVec.ofNat 8 (if v = 0 then 255 else v)
  (List.range n).zipWith (fun i b =>
    { m := (if i = 0 then full m.fmask else 0xFF) &&& (if i + 1 = n then full m.lmask else 0xFF), v := b }) m.payload

end Sys2Proof

namespace Sys2Proof.Machine

/-- Is epoch a older than b (17 R333; 16 bits that wrap)? -/
def older (a b : Nat) : Bool := decide (0 < (b + 65536 - a) % 65536) && decide ((b + 65536 - a) % 65536 < 32768)

/-- Send a message from the scheduler die: its SEQ is that die's next, and its source cell is free (18 R336; log 2). -/
def State.sendSched (s : State) (ty dst opid? : Nat) (w2 : Word) (arg : Nat) (payload : List Byte) (own : Bool) : State :=
  let cell := Config.freeWord s.free % 128
  let (s, n) := s.schedSeq
  let op := if own then n else opid?
  s.bump.sendMsg { w0 := s.msgWord0 ty dst none (Config.schedDie * 128 + cell) payload.length, w1 := wNat (n * 2 ^ 32 + op), w2 := w2
                   w3 := wNat arg, payload := payload }

/-- Answer a message with its OPID, HANDLE and EPOCH repeated. -/
def State.answer (s : State) (m : Msg) (ty arg : Nat) (payload : List Byte) : State :=
  s.sendSched ty m.src m.opid (wNat (m.handle * 2 ^ 32 + m.epoch * 2 ^ 16)) arg payload false

/-! ## The target's side (11 R228; 17 R332, R333; 18 R337) -/

/-- Does an export admit a range of a buffer with a right (bit), the buffer live and SHARED (17 R332)? -/
def State.exported (s : State) (h lo n bit : Nat) : Bool :=
  (match s.buf? h with | some b => b.shared && b.st != .lost | none => false) &&
    s.fabric.exports.any (fun e => e.handle == h && e.rights.getLsbD bit && (n == 0 || (decide (e.base ≤ lo) && decide (lo + n ≤ e.limit))))

/-- The push of a source with an operation number, as it stands. -/
def State.inPush (s : State) (m : Msg) : InPush :=
  (s.fabric.inp.find? (fun p => p.src == m.src && p.opid == m.opid)).getD { src := m.src, opid := m.opid, handle := m.handle }

def State.dropPush (s : State) (p : InPush) : State :=
  s.setFabric (fun x => { x with inp := x.inp.filter (fun q => !(q.src == p.src && q.opid == p.opid)) })

def State.putPush (s : State) (p : InPush) : State :=
  (s.dropPush p).setFabric (fun x => { x with inp := x.inp ++ [p] })

/-- VERSION rises once for a push of which a byte landed (11 R228). -/
def State.bumpPush (s : State) (p : InPush) : State × InPush :=
  if p.landed && !p.bumped then (s.bumpVersion p.handle, { p with bumped := true }) else (s, p)

/-- The target refuses a push; what landed counts in VERSION now (11 R228). -/
def State.refuse (s : State) (p : InPush) : State × InPush :=
  let (s, p) := s.bumpPush p
  (s, { p with refused := true })

/-- The status of a push that has ended at the target: 1 another epoch, 2 refused, 0 done. -/
def InPush.status (p : InPush) : Nat := if p.stale then 1 else if p.refused then 2 else 0

/-- A push whose PUSH_DONE has come and whose counted messages have all come, or whose epoch is another, ends: ARRIVE rises and its
source is noted where it succeeded, and it is acknowledged. -/
def State.settlePush (s : State) (p : InPush) : State :=
  match p.done with
  | none => s.putPush p
  | some d =>
    if p.seen < d.arg / 2 ^ 32 ∧ !p.stale then s.putPush p
    else
      let s := s.dropPush p
      let (s, p) := if p.stale then (s, p) else s.bumpPush p
      let s := if p.status = 0 then
          s.modBuf p.handle (fun b => { b with
            arrive := (b.arrive + d.arg % 256) % 2 ^ 32, arriveSrc := wNat (d.src * 2 ^ 32 + d.seq) })
        else s
      s.answer d 3 p.status []

/-- The PUSH_DONE of a push: the one that has come, or the one that the run has still to bring, which names the push's last message before the
target learns of it (log 89). -/
def State.pushEnd (s : State) (p : InPush) : Option Msg :=
  p.done.or (s.agenda.findSome? (fun v => match v with
    | .event (.pushDone d) =>
      if d.type_ = 2 ∧ d.src = p.src ∧ d.opid = p.opid ∧ d.dst = s.fabric.moduleId ∧ msgWhole d = true then some d else none
    | _ => none))

/-- The bytes of a range before its first poisoned granule (11 R224). -/
def State.cleanPart (s : State) (h off n : Nat) : Nat :=
  match (granules 6 off n).find? (fun g => (s.homeWord h (64 * g) 64).2) with
  | some g => 64 * g - off
  | none => n

/-! ## The source's side (11 R228, R229) -/

def State.opOf (s : State) (m : Msg) (push : Bool) : Option RemOp :=
  s.fabric.ops.find? (fun o => o.push == push && o.module == m.src && o.opid == m.opid)

def RemOp.same (o p : RemOp) : Bool := o.push == p.push && o.module == p.module && o.opid == p.opid && o.cell == p.cell && o.uid == p.uid

def State.dropOp (s : State) (o : RemOp) : State :=
  s.setFabric (fun x => { x with ops := x.ops.filter (fun p => !p.same o) })

def State.putOp (s : State) (o : RemOp) : State :=
  s.setFabric (fun x => { x with ops := x.ops.map (fun p => if p.same o then o else p) })

/-- The entry of a bank that an operation belongs to, still waiting for it. -/
def Bank.opEntry (b : Bank) (o : RemOp) : Option Entry := b.xfer.entries.find? (fun e => e.uid == o.uid && e.need == .remote o.opid)

/-- The bank of the task that pushed entry uid of a cell. -/
def State.pusherBank (s : State) (k uid : Nat) : Bank :=
  match (s.cell k).pusher uid with
  | some i => (((s.cell k).suspended[i]?).map (·.bank)).getD (s.bank k)
  | none => s.bank k

/-- Bits of the bytes that an XPULL received. -/
def RemOp.bits (o : RemOp) (b w : Nat) : Nat :=
  field (leNat ((List.range ((b + w + 7) / 8 - b / 8)).map (fun i => kget 0 o.got (b / 8 + i)))) (b % 8) w

/-- Have the source bytes of an element arrived? -/
def RemOp.has (o : RemOp) (w : Nat) (v : Mv) : Bool :=
  match v.src with
  | some b => (List.range ((b + w + 7) / 8 - b / 8)).all (fun i => (kget? o.got (b / 8 + i)).isSome)
  | none => true

/-- Have all source bytes of an operation's entry arrived? -/
def State.pulled (s : State) (o : RemOp) : Bool :=
  match (s.pusherBank o.cell o.uid).opEntry o with
  | some ent => ent.moves.all (o.has ent.w)
  | none => true

/-- Which destination granules of a pull that ended with status 1 have landed is open: any subset (11 R229; log 2). -/
def State.somePart (s : State) (m : KMap WByte) : State × KMap WByte :=
  let gs := (m.map (fun e => e.1 / 64)).eraseDups
  let keep := (gs.zipIdx.filter (fun p => Config.freeBool (s.free + p.2))).map (·.1)
  ({ s with free := s.free + gs.length }, m.filter (fun e => keep.contains (e.1 / 64)))

/-- The pulled elements whose bytes arrived are laid down at the local destination. -/
def State.layPull (s : State) (o : RemOp) (status : Nat) (ent : Entry) : State × Entry × Need :=
  match ent.op with
  | .xfer (.copy opc f) =>
    let m := (ent.moves.filter (o.has ent.w)).foldl (fun (m : KMap WByte) (v : Mv) =>
      putBits m v.dst ent.w (match v.src with | some b => o.bits b ent.w | none => field o.pad 0 ent.w) false) []
    let (s, m) := if status = 1 then s.somePart m else (s, m)
    let r := s.layDown o.cell ent opc f (ent.areg f.ad) [] m false
    (r.s, r.ent.getD ent, r.need)
  | _ => (s, ent, .none)

/-- An operation ends with a status, which its entry reports; a pull completes when its bytes stand at their destination (11 R228). -/
def State.endOp (s : State) (o : RemOp) (status : Nat) : State :=
  (s.dropOp o).onPusher o.cell o.uid (fun s =>
    match (s.bank o.cell).opEntry o with
    | none => s
    | some ent =>
      let (s, ent, n) := if o.push then (s, ent, Need.none) else s.layPull o status ent
      let ent := { ent with moves := [] }
      let s := s.answered o.cell .transfer ent {} (some (statusWord status o.seq, false))
      if n = .none then s else s.modBank o.cell (fun b => b.putEntry .transfer { ent with stage := .far, need := n }))

/-- A pull whose requests are all answered ends: with status 0 once every byte has arrived. -/
def State.settlePull (s : State) (o : RemOp) : State :=
  if o.expect = 0 ∧ (o.status ≠ 0 ∨ s.pulled o = true) then s.endOp o o.status else s.putOp o

/-- The module counts another as lost, or sees it in a new epoch (17 R333): entries of it become STALE where bad says so, operations
towards it end with REMOTE_LOST, and pushes from it are abandoned. -/
def State.loseModule (s : State) (j : Nat) (bad : Nat → Bool) : State :=
  let s := s.setFabric (fun x => { x with
    remote := x.remote.map (fun e => (e.1, if e.2.module = j ∧ bad e.2.epoch then { e.2 with stale := true } else e.2)) })
  let s := (s.fabric.ops.filter (fun o => o.module == j && bad o.epoch)).foldl (fun s o => s.endOp o 1) s
  (s.fabric.inp.filter (fun p => p.src == j)).foldl (fun s p => ((s.bumpPush p).1).dropPush p) s

/-- MODULE_UNREACHABLE: no live port has reached a module for 1 ms. -/
def execModuleUnreachable (m : Nat) (s : State) : Out := .next (s.loseModule m (fun _ => true))

def State.loseLane (s : State) (port : Nat) : State :=
  s.setFabric (fun x => { x with lanes := kset x.lanes port (s.lanes port - 1) })

/-- ODSOGA_LANE_LOSS: a port of the 36 loses a lane. -/
def execOdsogaLaneLoss (port : Nat) (s : State) : Out := .next (if port < 36 then s.loseLane port else s)

/-! ## Epochs (17 R333) -/

/-- The module's epoch rises, and it announces the new value to every module. -/
def State.newEpoch (s : State) : State :=
  let e := (s.fabric.epoch + 1) % 65536
  let s := s.setFabric (fun x => { x with epoch := e })
  ((List.range 256).filter (· != s.fabric.moduleId)).foldl (fun s j =>
    s.sendSched 7 j 0 (wNat (kget 0 s.fabric.known j * 2 ^ 16)) e [] true) s

/-- MODULE_JOINS_DOMAIN: the epoch rises; pushes under the old one are of another epoch. -/
def execModuleJoinsDomain (s : State) : Out :=
  .next (
    let s := s.fabric.inp.foldl (fun s p => let (s, p) := s.bumpPush p; s.putPush { p with stale := true }) s
    s.newEpoch)

end Sys2Proof.Machine
end

