-- ==== Sys2Proof/Machine/Mailbox.lean ====
section
/-! DEFINITION. The requests of the host agent that the memory processor serves (15 R303; 17 R324, R325, R331, R334; 18 R335, R337). -/

namespace Sys2Proof.Machine

/-- What a request leaves: the state, STATUS and the result words from word 1 on. -/
abbrev Served := State × Nat × List Word

/-- Does a SUBMIT of the host still wait for the scheduler's answer? -/
def State.submitting (s : State) : Bool := s.sched.subs.any (·.host)

/-- Serve a request with a code, with the ASID and generation of word 0 where it names them, once the module serves requests and every
earlier SUBMIT is answered: requests are served in doorbell order (17 R325; 19 R341). -/
def mailbox (code : Nat) (ag : Option Nat) (s : State) (act : State → Served) : Out :=
  .next (
    if !s.serves || s.submitting then s
    else
      let (s, status, ws) := act s
      s.answerMail code ag status ws)

/-- Bits [15:0] of word 0 of a request. -/
def asidGen (asid gen : Nat) : Option Nat := some (gen % 16 * 4096 + asid % 4096)

/-- Is an ASID live at a generation? -/
def State.asidIs (s : State) (a gen : Nat) : Bool := (s.asid a).live && (s.asid a).gen == gen

/-- A request of an ASID: status 2 where it is not live at the generation. -/
def ofAsid (s : State) (a gen : Nat) (act : Served) : Served := if s.asidIs a gen then act else (s, 2, [])

/-! ## ASIDs (15 R303; 17 R326) -/

/-- Forget the selectors of an ASID (10 R204). -/
def State.clearSelectors (s : State) (a : Nat) : State :=
  { s with hbmStacks := s.hbmStacks.map (fun e => (e.1, { e.2 with sel := kdel e.2.sel a })) }

/-- ASID_CREATE: the ASID is live at the generation, with its event ring. While its sweep runs the request is busy. -/
def execAsidCreate (asid gen ringBase ringK : Nat) (s : State) : Out :=
  mailbox 0x01 (asidGen asid gen) s (fun s =>
    let a := s.asid asid
    if 4096 ≤ asid ∨ 16 ≤ gen ∨ ringK < 6 ∨ 16 < ringK ∨ a.live then (s, 2, [])
    else if a.sweep then (s, 4, [])
    else ((s.clearSelectors asid).modAsid asid (fun x => { x with
      live := true, gen := gen, ringBase := ringBase, ringK := ringK, ringWr := 0, ringRd := 0, pass := true }), 0, []))

/-- Disable a queue: its speculative run is discarded (13 R279). -/
def State.disableQueue (s : State) (q : Nat) : State :=
  let s := { s with sched := { s.sched with queues := kset s.sched.queues q { s.queue q with enable := false } } }
  match (s.fox q).run with
  | some r => s.discardRun r 7
  | none => s

/-- Take a launch record that has not swapped in from the shadow bank of a cell. -/
def State.unplace (s : State) (k : Nat) : State :=
  match (s.cell k).shadow with
  | some t => (s.leaveBank k (!(s.cell k).active) t).modCell k (fun c => { c with shadow := none })
  | none => s

/-- The task of a suspended task's bank ends on its cell by a cause. -/
def State.endAllSuspended (s : State) (k : Nat) (mine : Task → Bool) (cause tval : Nat) : State :=
  ((s.cell k).suspended.filter (fun x => x.bank.task.any mine)).foldl (fun s x =>
    s.endSuspended k x { core := .e, cause := cause, tval := wNat tval, epc := x.bank.e.pc }) s

/-- A node of a retired ASID: what has not launched is cancelled; an INDIRECT node launches no further task, and retires FAULTED where some are
left. -/
def Node.retired (nd : Node) : Node :=
  match nd.st with
  | .waiting => { nd with cancel := nd.cancel.or (some 5) }
  | .ready => { nd with cancel := nd.cancel.or (some 5) }
  | .placed => { nd with cancel := nd.cancel.or (some 5), cells := [] }
  | _ => { nd with tasks := nd.launched, faulted := nd.faulted || decide (nd.launched < nd.tasks) }

/-- A node of which the record for a cell is taken back before its launch. -/
def Node.unlaunched (nd : Node) (k : Nat) (t : Task) : Node :=
  { nd with cells := nd.cells.erase k, launched := if field (t.word 0) 16 2 = 0 then nd.launched - 1 else nd.launched }

/-- ASID_RETIRE. -/
def execAsidRetire (asid gen : Nat) (s : State) : Out :=
  mailbox 0x02 (asidGen asid gen) s (fun s => ofAsid s asid gen (
    let mine := fun (t : Task) => field (t.word 0) 0 12 == asid && field (t.word 0) 12 4 == gen && !t.spec
    let qs := (s.sched.queues.filter (fun e => e.2.asid == asid && e.2.gen == gen)).map (·.1)
    let s := qs.foldl State.disableQueue s
    let s := s.cells.foldl (fun s e => match (s.cell e.1).shadow with
      | some t => if mine t then (s.unplace e.1).modNode t.node (·.unlaunched e.1 t) else s
      | none => s) s
    let s := { s with sched := { s.sched with nodes := s.sched.nodes.map (fun (e : Nat × Node) =>
      (e.1, if e.2.asid = asid ∧ e.2.gen = gen ∧ !e.2.spec then e.2.retired else e.2)) } }
    let s := s.cells.foldl (fun s e => if (s.bank e.1).task.any mine then s.killTask e.1 cKILLED 1 else s) s
    let s := s.cells.foldl (fun s e => s.endAllSuspended e.1 mine cKILLED 1) s
    let s := (s.dropHoldings asid).clearSelectors asid
    let s := qs.foldl (fun s q => s.modFox q (fun _ => {})) s
    let s := s.modAsid asid (fun x => { x with live := false, quota := 0, gen := (x.gen + 1) % 16, sweep := true })
    (s.settleAll, 0, [])))

/-- The sweep of an ASID: its tags leave the translations, and so does a translation that no other has and no task's lease covers. -/
def State.sweepTags (s : State) (asid : Nat) : State :=
  s.setHost (fun h => { h with trans := h.trans.filterMap (fun t =>
    let l := t.tags.filter (fun p => p.1 != asid)
    if l = [] ∧ t.tags ≠ [] ∧ !t.inval ∧ !s.pageLeased t.pasid t.page then none else some { t with tags := l }) })

/-- ASID_SWEEP_COMPLETE: no translation or tag of the ASID stands any more. -/
def execAsidSweepComplete (asid : Nat) (s : State) : Out := .next ((s.sweepTags asid).modAsid asid (fun x => { x with sweep := false }))

/-! ## Buffers and windows (17 R324, R325) -/

/-- BUF_ALLOC: as BALLOC, the reference held by the ASID; no free index is NO_CAPACITY too. -/
def execBufAlloc (asid gen : Nat) (template : List Word) (s : State) : Out :=
  mailbox 0x10 (asidGen asid gen) s (fun s => ofAsid s asid gen (
    let (t, st, h) := s.alloc template
    let w := wNat (st * 2 ^ 32 + h)
    if st = 0 then (t.hold asid h rightsRWA, 0, [w])
    else (t, if st = 3 then 1 else st, [w])))

/-- BUF_DROP: as BDROP; with no reference held, status 3. -/
def execBufDrop (asid gen handle : Nat) (s : State) : Out :=
  mailbox 0x11 (asidGen asid gen) s (fun s => ofAsid s asid gen (
    if (kget? (s.asid asid).holdings handle).isSome then (s.unhold asid handle, 0, []) else (s, 3, [])))

/-- MAP: a window is mapped to a buffer from an image offset, with rights that the ASID holds. -/
def execMap (w asid gen handle off : Nat) (rights : BitVec 5) (s : State) : Out :=
  mailbox 0x12 (asidGen asid gen) s (fun s => ofAsid s asid gen (
    if 32768 ≤ w ∨ (s.buf? handle).isNone then (s, 2, [])
    else if rights &&& ~~~(s.held asid handle) ≠ 0 then (s, 3, [])
    else (s.setHost (fun h => { h with bar2 := kset h.bar2 w { asid := asid, handle := handle, off := off, rights := rights } }), 0, [])))

/-- UNMAP. -/
def execUnmap (w : Nat) (s : State) : Out :=
  mailbox 0x13 none s (fun s =>
    if 32768 ≤ w then (s, 2, []) else (s.setHost (fun h => { h with bar2 := kdel h.bar2 w }), 0, []))

/-- Publish host writes, in their order. -/
def State.publishHost (s : State) (asid : Nat) (l : List (Nat × List Byte)) : State :=
  l.foldl (fun s e =>
    let h := e.1 / 2 ^ 64
    let off := e.1 % 2 ^ 64
    if s.lost h then s
    else ((s.homePut h off (e.2.map (fun b => { v := b }))).modBuf h (fun d => { d with written := true })).cacheTouch asid h off e.2.length) s

/-- SYNC: the host writes since the ASID's last SYNC are published, and VERSION of each buffer they wrote rises by 1. -/
def execSync (asid gen : Nat) (s : State) : Out :=
  mailbox 0x14 (asidGen asid gen) s (fun s => ofAsid s asid gen (
    let mine := (s.host.writes.filter (fun e => e.1 == asid)).map (·.2)
    let s := s.publishHost asid mine
    let hs := (mine.filter (fun e => e.2 != [])).foldr (fun e acc => nsAdd acc (e.1 / 2 ^ 64)) []
    let s := hs.foldl State.bumpVersion s
    (s.setHost (fun h => { h with writes := h.writes.filter (fun e => e.1 != asid) }), 0, [])))

/-! ## Queues (13 R256, R257, R272, R274, R277, R279) -/

/-- A queue from the words of its configuration; reserved bits have no effect (00 R4). Word 1 holds what the host agent adds to HEVT
(13 R256; log 83). -/
def queueOf (w0 w1 : Word) (hevt nextseq : Nat) : Queue :=
  let w := w0.toNat
  { enable := bitOf w 63, specok := bitOf w 62, level := field w 56 2, tickets := field w 48 8, gen := field w 12 4, asid := field w 0 12
    hevt := (hevt + field w1.toNat 0 32) % 2 ^ 32, nextseq := nextseq }

/-- QUEUE_CFG: enabling starts SEQ at 0 and clears Foxglove's entries; a run is discarded when the queue is disabled or its ASID or
generation changes; a change of generation drops the holdings of the old one. -/
def execQueueCfg (q : Nat) (w0 w1 : Word) (s : State) : Out :=
  mailbox 0x20 none s (fun s =>
    if 1024 ≤ q then (s, 2, [])
    else
      let old := s.queue q
      let on := bitOf w0.toNat 63 && !old.enable
      let new := queueOf w0 w1 old.hevt (if on then 0 else old.nextseq)
      let moved := old.asid != new.asid || old.gen != new.gen
      let s := if !new.enable || moved then (match (s.fox q).run with | some r => s.discardRun r 7 | none => s) else s
      let s := if on || moved then s.modFox q (fun f => { run := f.run, since := f.since }) else s
      let s := if old.asid = new.asid ∧ old.gen ≠ new.gen ∧ (s.asid old.asid).gen = old.gen then s.dropHoldings old.asid else s
      ({ s with sched := { s.sched with queues := kset s.sched.queues q new } }, 0, []))

/-- SUBMIT: the record goes to the scheduler, whose acceptance answers the request. -/
def execSubmit (q asid gen : Nat) (record : List Word) (s : State) : Out :=
  .next (
    if !s.serves then s
    else { s with sched := { s.sched with subs := s.sched.subs ++
      [{ q := q, asid := asid, gen := gen, record := record, regs := [], host := true }] } })

/-- QUOTA: the Grotto quota of an ASID, in granules. -/
def execQuota (o : Owner) (granules : Nat) (s : State) : Out :=
  mailbox 0x22 (asidGen o.asid o.gen) s (fun s =>
    ofAsid s o.asid o.gen (s.modAsid o.asid (fun x => { x with quota := granules }), 0, []))

/-! ## Remote handles (17 R331; 18 R335) -/

/-- REMOTE_EXPORT: a range of a SHARED buffer, with rights to its bytes that the ASID holds. -/
def execRemoteExport (asid gen handle base limit : Nat) (rights : BitVec 5) (s : State) : Out :=
  mailbox 0x30 (asidGen asid gen) s (fun s => ofAsid s asid gen (
    match s.buf? handle with
    | none => (s, 2, [])
    | some b =>
      if !b.shared ∨ limit < base ∨ b.bytes < limit then (s, 2, [])
      else if rights &&& rightsRWA &&& ~~~(s.held asid handle) ≠ 0 then (s, 3, [])
      else (s.setFabric (fun x => { x with
        exports := x.exports ++ [{ handle := handle, base := base, limit := limit, rights := rights }] }), 0, [])))

/-- REMOTE_IMPORT: an entry of the remote table under a free index, with the descriptor copy; the ASID holds it. An entry of an epoch
older than the one last announced stands STALE at once. -/
def execRemoteImport (asid gen target module epoch base limit : Nat) (rights : BitVec 5) (desc : List Word) (s : State) : Out :=
  mailbox 0x31 (asidGen asid gen) s (fun s => ofAsid s asid gen (
    match s.freeIndex 1 0xEFFFFF with
    | none => (s.bump, 1, [])
    | some i =>
      let h := s.handleAt i
      let stale := match kget? s.fabric.known module with | some e => older epoch e | none => false
      let r : Remote := { target := target, module := module, epoch := epoch, stale := stale, rights := rights, base := base, limit := limit
                          desc := desc.take 4 }
      let s := s.bump.setFabric (fun x => { x with remote := kset x.remote h r })
      (s.hold asid h rights, 0, [wNat h])))

/-! ## Dies offline and online (17 R334; 05 R104, R105) -/

/-- The offered cells of a die that is online: none of its faulty ones. -/
def State.availOf (s : State) (d : Nat) : BitVec 32 :=
  let bad := (s.die d).faulty
  BitVec.ofNat 32 (((List.range (Config.cellsOf (Config.dieClass s.pop d))).filter (fun c => !bad.contains (.cell (d * 128 + c)))).map (2 ^ ·)).sum

/-- The speculative runs with a cell on a die. -/
def State.runsOn (s : State) (d : Nat) : List Nat :=
  (s.sched.nodes.filter (fun e => e.2.spec && e.2.cells.any (fun k => k / 128 == d))).map (·.1)

/-- A die leaves service: its STATE, and its AVAIL bits clear; speculative runs on it are discarded. -/
def State.takeOff (s : State) (d st : Nat) : State :=
  ((s.runsOn d).foldl (fun s n => s.discardRun n 4) s).modDie d (fun x => { x with st := st, avail := 0 })

/-- Live buffers with storage on stack i, or with space kept there for their evacuation. -/
def State.buffersOn (s : State) (i : Nat) : List Nat :=
  ((s.bufs.filter (fun e => (e.2.homes.getLsbD i || e.2.toHomes.getLsbD i) && (e.2.st == .live || e.2.st == .evacuating))).map
    (fun e => e.2.handle))

/-- Is a buffer under a lease? -/
def State.leased (s : State) (h : Nat) : Bool :=
  (s.heldLeases 8192 false ++ s.heldLeases 8192 true).any (fun x => x.2.any (fun e => !e.host && e.h == h))

/-- The stacks that a buffer moves to from stack i: its other homes, or where they cannot hold it every other one that is online. -/
def State.newHomes (s : State) (b : Buf) (i : Nat) : Option (BitVec 16) :=
  let rest := b.homes &&& ~~~(BitVec.ofNat 16 (2 ^ i))
  let others := BitVec.ofNat 16 ((s.onlineStacks.filter (· != i)).map (2 ^ ·)).sum
  let on := fun (hs : BitVec 16) =>
    if hs = 0 then none else ({ s with bufs := kdel s.bufs (b.handle % 2 ^ 24) } : State).placeOn { b with homes := hs }
  (on rest).or (on others)

/-- Keep space for each of some buffers off stack i, one after another, the die of the stack being out of service; the buffers that have
somewhere to go already stay as they are. What is left cannot move. -/
def State.planMoves (s : State) (i : Nat) : List Nat → State × List Nat
  | [] => (s, [])
  | h :: hs =>
    match s.buf? h with
    | none => s.planMoves i hs
    | some b =>
      if b.toHomes ≠ 0 ∧ !b.toHomes.getLsbD i then s.planMoves i hs
      else match s.newHomes b i with
        | some hs' => (s.modBuf h (fun b => { b with toHomes := hs' })).planMoves i hs
        | none =>
          let (t, stuck) := s.planMoves i hs
          (t, h :: stuck)

/-- A buffer is lost: each holding ASID has a record (17 R334). -/
def State.loseBuf (s : State) (h : Nat) : State :=
  let s := s.modBuf h (fun b => { b with st := .lost, toHomes := 0 })
  (s.sched.asids.filter (fun e => (kget? e.2.holdings h).isSome)).foldl (fun s e => s.deviceRecord e.1 0x7FD (wNat h)) s

/-- The copies of the buffers of stack i that have somewhere to go and are under no lease begin. -/
def State.beginCopies (s : State) (i : Nat) : State :=
  ((s.bufs.filter (fun e => e.2.homes.getLsbD i && e.2.toHomes != 0 && e.2.st == .live)).map (fun e => e.2.handle)).foldl (fun s h =>
    if s.leased h then s else s.modBuf h (fun b => { b with st := .evacuating })) s

/-- The copy of a buffer ends: its HOMES are rewritten. -/
def State.moveBuf (s : State) (h : Nat) : State :=
  s.modBuf h (fun b => if b.toHomes = 0 then b else { b with homes := b.toHomes, toHomes := 0, st := .live })

/-- Everything on stack i is to leave it: the copies begin, and the buffers that cannot move are lost. -/
def State.clearStack (s : State) (i : Nat) : State :=
  let (s, stuck) := s.planMoves i (s.buffersOn i)
  (stuck.foldl State.loseBuf s).beginCopies i

/-- DIE_OFFLINE. A die that is offline or failed is a bad argument. -/
def execDieOffline (slot : Nat) (force : Bool) (s : State) : Out :=
  mailbox 0x40 none s (fun s =>
    let cls := Config.dieClass s.pop slot
    if cls = 0 ∨ cls = 5 ∨ cls = 6 ∨ 2 ≤ (s.die slot).st then (s, 2, [])
    else
      let t := (s.takeOff slot 1).discUpdate
      if cls ≠ 7 then (t, 0, [])
      else
        let i := slot - 32
        if !force ∧ (t.planMoves i (t.buffersOn i)).2 ≠ [] then (s, 1, []) else (t.clearStack i, 0, []))

/-- Is a cell idle for good: no task, no record, no suspended task? -/
def Cell.empty (c : Cell) : Bool := c.b.task.isNone && c.shadow.isNone && c.suspended == []

/-- DIE_OFFLINE_COMPLETE: all cells of a draining compute die are idle. -/
def execDieOfflineComplete (slot : Nat) (s : State) : Out :=
  .next (
    let cls := Config.dieClass s.pop slot
    if (s.die slot).st = 1 ∧ 1 ≤ cls ∧ cls ≤ 4 ∧ s.cells.all (fun e => e.1 / 128 != slot || isService e.1 || e.2.empty) then
      (s.modDie slot (fun x => { x with st := 2 })).discCaused slot
    else s)

/-- EVACUATION_COMPLETE: the copies under way off a stack end, and HOMES of their buffers are rewritten; the copies of buffers whose
leases have ended begin. With nothing left on a stack that drains, its die is offline. -/
def execEvacuationComplete (slot : Nat) (s : State) : Out :=
  .next (
    if Config.dieClass s.pop slot = 7 then
      let i := slot - 32
      let moving := (s.bufs.filter (fun e => e.2.homes.getLsbD i && !e.2.toHomes.getLsbD i && e.2.st == .evacuating)).map (fun e => e.2.handle)
      let s := (moving.foldl State.moveBuf s).beginCopies i
      if (s.die slot).st = 1 ∧ s.buffersOn i = [] then (s.modDie slot (fun x => { x with st := 2 })).discCaused slot else s
    else s)

/-- DIE_ONLINE: a die of STATE 2 returns to STATE 0. -/
def execDieOnline (slot : Nat) (s : State) : Out :=
  mailbox 0x41 none s (fun s =>
    if Config.dieClass s.pop slot = 0 ∨ (s.die slot).st ≠ 2 then (s, 2, [])
    else ((s.modDie slot (fun x => { x with st := 0, avail := s.availOf slot })).discUpdate, 0, []))

/-! ## Reading (10 R195; 13 R273, R281; 18 R337) -/

/-- READ_DESC: the descriptor in words 1 to 8, ARRIVE in word 9, its source in word 10. -/
def execReadDesc (oh : Owner × Nat) (s : State) : Out :=
  mailbox 0x50 (asidGen oh.1.asid oh.1.gen) s (fun s => ofAsid s oh.1.asid oh.1.gen (
    match s.buf? oh.2 with
    | some b => (s, 0, b.words ++ [wNat b.arrive, b.arriveSrc])
    | none => (s, 2, [])))

/-- The 19 words of a Foxglove entry. -/
def FoxEnt.words (e : FoxEnt) : List Word :=
  let eight := fun (l : List Word) => (List.range 8).map (fun i => (l[i]?).getD 0)
  [wNat (e.progid * 2 ^ 32 + e.prev),
    wNat (e.valid.toNat * 2 ^ 63 + e.learned.toNat * 2 ^ 62 + e.conf % 4 * 2 ^ 60 + e.gsize % 4 * 2 ^ 55 + e.cls % 16 * 2 ^ 51 + e.age % 2 ^ 16)] ++
    eight e.last ++ eight e.stride ++ [wNat (e.slot % 2 ^ 14)]

/-- FOX_READ: the 16 entries of a queue, then the eight counters of the ASID, cleared by the read, and its LASTFAULT; the block holds the
first fifteen words, the rest reaches the host beside it (log 85). -/
def execFoxRead (q : Nat) (o : Owner) (s : State) : Out :=
  mailbox 0x51 (asidGen o.asid o.gen) s (fun s => ofAsid s o.asid o.gen (
    if 1024 ≤ q then (s, 2, [])
    else
      let a := s.asid o.asid
      (s.modAsid o.asid (fun x => { x with ctrs := Vector.replicate 8 0 }), 0,
        (s.fox q).ents.toList.flatMap FoxEnt.words ++ a.ctrs.toList.map wNat ++ [wNat a.lastFault])))

/-- The assigned request codes (17 R325). -/
def mailboxCodes : List Nat :=
  [0x01, 0x02, 0x10, 0x11, 0x12, 0x13, 0x14, 0x20, 0x21, 0x22, 0x30, 0x31, 0x40, 0x41, 0x50, 0x51]

/-- MAILBOX_UNKNOWN_CODE: status 2. -/
def execMailboxUnknownCode (code : Nat) (s : State) : Out :=
  if mailboxCodes.contains code then .next s else mailbox code none s (fun s => (s, 2, []))

end Sys2Proof.Machine
end

