-- ==== Sys2Proof/Machine/System.lean ====
section
/-! DEFINITION. The system instructions (15 R288, R297, R304 to R308), and the Geode's SPDM answers (17 R327; 19 R345, R350). -/

namespace Sys2Proof.Machine

/-! ## SPDM (17 R327; 19 R350). The frames of the messages are those of DMTF DSP0274 (log 15). -/

/-- The value of a measurement block, if the index has one (17 R327; 19 R350). -/
def Geode.block? (g : Geode) (i : Nat) : Option (List Byte) :=
  if 1 ≤ i ∧ i ≤ 32 then some (vget g.meas (i - 1) [])
  else if i = 0x40 then some (g.sm g.active)
  else if i = 0x41 then
    some (BitVec.ofNat 8 (g.hip.toNat + g.pending.toNat * 2 + g.rolled.toNat * 4 + g.active.toNat * 8) :: List.replicate 7 0 ++
      leBytes 8 g.hoseq.toNat)
  else if i = 0x42 ∧ g.hip then some (g.sm (!g.active))
  else none

/-- All indices that have a block. -/
def Geode.indices (g : Geode) : List Nat :=
  ((List.range 0x43).filter (fun i => (g.block? i).isSome))

/-- A measurement block in the raw bit-stream form. -/
def spdmBlock (i : Nat) (v : List Byte) : List Byte :=
  [BitVec.ofNat 8 i, 1] ++ leBytes 2 (v.length + 3) ++ [0x80] ++ leBytes 2 v.length ++ v

/-- The blocks of some indices, in their order. -/
def Geode.blocks (g : Geode) (is : List Nat) : List (List Byte) :=
  is.filterMap (fun i => (g.block? i).map (spdmBlock i))

/-- MEASUREMENTS for some indices: the blocks; nonce, opaque data and signature are free (log 2). -/
def State.spdmMeasurements (s : State) (is : List Nat) : List Byte :=
  let bs := s.geode.blocks is
  [0x13, 0x60, if is = [0] then BitVec.ofNat 8 s.geode.indices.length else 0, 0, BitVec.ofNat 8 bs.length] ++ leBytes 3 bs.flatten.length ++ bs.flatten ++ Config.freeBytes s.free

/-- ERROR with a code and the request it answers. -/
def spdmError (code data : Nat) : List Byte := [0x13, 0x7F, BitVec.ofNat 8 code, BitVec.ofNat 8 data]

/-- The codes of the supported requests. -/
def spdmKnown (code : Nat) : Bool := [0x81, 0x82, 0x83, 0x84, 0xE0, 0xE1, 0xE3].contains code

/-- A response whose contents the spec does not give: its code, then free bytes (log 2). -/
def State.spdmOther (s : State) (code : Nat) : List Byte := [0x13, BitVec.ofNat 8 (code - 0x80)] ++ Config.freeBytes s.free

/-- ALGORITHMS: DMTF measurements in the raw bit stream, ECDSA over P-384 and SHA3-384 (17 R327; the frame is log 86's). -/
def spdmAlgorithms : List Byte :=
  [0x13, 0x63, 0, 0] ++ leBytes 2 36 ++ [1, 0] ++ leBytes 4 1 ++ leBytes 4 0x80 ++ leBytes 4 0x10 ++ List.replicate 16 0

/-- The indices that GET_MEASUREMENTS asks for by its operation byte: all, or one; none for the number of blocks alone. -/
def Geode.asked (g : Geode) (op : Nat) : List Nat := if op = 0xFF then g.indices else [op]

/-- The Geode's answer to a request (17 R327). -/
def State.spdmAnswer (s : State) (req : List Byte) : State × List Byte :=
  let code := ((req[1]?).getD 0).toNat
  if !spdmKnown code then (s, spdmError 7 code)
  else if code = 0xE0 then (s.bump, s.spdmMeasurements (s.geode.asked ((req[3]?).getD 0).toNat))
  else if code = 0xE3 then (s, spdmAlgorithms)
  else (s.bump, s.spdmOther code)

/-! ## Memory operands of KIND 1 and 2 (15 R297, R306; 01 R9) -/

/-- May a byte of an operand be accessed by range, rights and protection? A KIND 1 range beyond the scratchpad allows none (14 R282). -/
def State.areaByte (s : State) (k : Nat) (a : AReg) (u : Use) (p : Nat) : Bool :=
  a.inside p 1 && (a.kind != 1 || (s.padOk k p 1 && s.limitOk k a && (u != .write || s.storeOk (padBase k + p) 1)))

/-- Check n bytes from an address of a KIND 1 or 2 operand: BOUNDS with the first failing byte, then lease and buffer state. -/
def State.checkArea (s : State) (k : Nat) (a : AReg) (p n : Nat) (u : Use) : M Unit :=
  if (a.kind != 1 && a.kind != 2) || !a.allows u || (n == 0 && !a.inside p 0) then trap cBOUNDS (wNat p)
  else match (List.range n).find? (fun i => !s.areaByte k a u (p + i)) with
    | some i => trap cBOUNDS (wNat (p + i))
    | none => if a.kind = 2 ∧ n ≠ 0 then s.checkBuf k a.bind.toNat p n u else .ok ()

/-- Read and write checked bytes of an operand; those of a buffer pass through the memory-side cache (10 R203). -/
def State.areaLoad (s : State) (k : Nat) (a : AReg) (p n : Nat) : State × List Byte × Bool := (s.cacheKind a p n).loadBytes k a p n
def State.areaStore (s : State) (k : Nat) (a : AReg) (bs : List Byte) : State :=
  (s.cacheKind a a.ptr.toNat bs.length).storeBytes k a a.ptr.toNat bs

/-- The bytes that an A register holds from its pointer to its limit. -/
def AReg.room (a : AReg) : Nat := a.limit.toNat - a.ptr.toNat

/-- A speculative run parks here, its privilege checked (13 R278). -/
def State.parkSpec (s : State) : M Unit := if (s.bank s.fk).spec then stall .parked else .ok ()

/-- PRIVILEGE with word 0, unless the core has PRIV (15). -/
def State.needPriv (s : State) (opc : Nat) (f : FmtY) : M Unit :=
  if isPriv s.fk s.fc then .ok () else trap cPRIVILEGE (wNat (encY opc f))

/-! ## Traps (15 R288, R304) -/

def execTrap (f : FmtY) (s : State) : Out := guarded 1 f.g s (fun _ => trap cTRAP (wNat f.imm.toNat))

def execEret (f : FmtY) (s : State) : Out :=
  .next (if s.fcore.stageOn && s.fcore.guard f.g then
      match s.fcore.eret with
      | .ok r => s.putCore r
      | .error e => s.stopped s.fk s.fc e
    else s.squash s.fk s.fc 1)

/-- ECALL (15 R304): X1 to X4 are read and consumed; the reply brings X1 and X2. -/
def ecall (f : FmtY) (s : State) (reply : Word → Word × Word) : Out :=
  onCore 1 f.g s (fun r => do
    let v1 ← r.readX 1 false
    let v2 ← r.readX 2 false
    let v3 ← r.readX 3 false
    let v4 ← r.readX 4 false
    let x1 ← consume 1 v1
    let _ ← consume 2 v2
    let _ ← consume 3 v3
    let _ ← consume 4 v4
    let r ← r.lateX 1 (reply x1).1 false
    r.lateX 2 (reply x1).2 false)

def execEcallTime (f : FmtY) (s : State) : Out := ecall f s (fun _ => (0, wNat s.time))
def execEcallErrorCount (f : FmtY) (s : State) : Out := ecall f s (fun _ => (0, wNat (s.cell s.fk).errors))
def execEcallLocation (f : FmtY) (s : State) : Out := ecall f s (fun _ => (0, wNat (s.fk % 128 * 64 + s.fk / 128)))
def execEcallDiscovery (f : FmtY) (s : State) : Out :=
  ecall f s (fun x => if x.toNat < 516 then (0, s.discWord x.toNat) else (2, 0))
def execEcallUnsupported (f : FmtY) (s : State) : Out := ecall f s (fun _ => (1, 0))

/-! ## Saving and loading a context (15 R297) -/

/-- Wait for every long-latency result and for the queued engine of the core (15 R297). -/
def State.quiet (s : State) : M Unit := do
  if s.fcore.pending then stall .parked else pure ()
  s.drain .parked

/-- CTXSAVE. -/
def execCtxsave (f : FmtY) (s : State) : Out :=
  guarded 1 f.g s (fun s => do
    s.quiet
    let k := s.fk
    let s := s.putCore s.fcore.fillAwaiting
    let ws := (s.contents k).area (s.cls k) k s.fc (s.fcore.pc + 8)
    let a := s.fcore.areg f.a
    s.checkArea k a a.ptr.toNat (8 * (ws.length + 1)) .write
    pure (s.areaStore k a (bytesOf (ws ++ [Config.keyedTag (s.bank k).ctxKey ws]))))

/-- The first word of an area that disagrees with the core (15 R297). -/
def State.badWord (s : State) (ws : List Word) : Option Nat :=
  let k := s.fk
  let cls := s.cls k
  let b := s.bank k
  let hd := fun i => (wAt ws i).toNat
  let n := areaWords cls k s.fc (field (hd 2) 16 16) (hd 3) (field (hd 4) 8 8) (field (hd 4) 0 8)
  if hd 0 / 2 ^ 34 ≠ 0xC7A5 * 2 ^ 14 + 2 ^ 6 + coreNum s.fc * 2 ^ 4 + cls ∨ ws.length ≠ n then some 0
  else if field (hd 1) 0 16 ≠ b.gen * 4096 + b.asid then some 1
  else if wAt ws (n - 1) ≠ Config.keyedTag b.ctxKey (ws.take (n - 1)) then some (n - 1)
  else none

/-- CTXLOAD. An area with an uncorrectable granule raises POISON_CONSUMED with the number of As. -/
def execCtxload (f : FmtY) (s : State) : Out :=
  guarded 1 f.g s (fun s => do
    s.quiet
    let k := s.fk
    let s := s.putCore s.fcore.fillAwaiting
    let a := s.fcore.areg f.a
    s.checkArea k a a.ptr.toNat 8 .read
    let (_, w0, _) := s.areaLoad k a a.ptr.toNat 8
    let n := leNat w0 % 2 ^ 32
    s.checkArea k a a.ptr.toNat (8 * n) .read
    let (s, bs, bad) := s.areaLoad k a a.ptr.toNat (8 * n)
    if bad then trap cPOISON (wNat f.a.toNat)
    let ws := wordsOf n bs
    match s.badWord ws with
    | some i => trap cCTX (wNat i)
    | none => pure (s.readArea k s.fc ws))

/-! ## LEASEQ (15 R305) -/

/-- Does a lease cover every byte of [lo, hi) with entries that a test admits? The first argument bounds the entries used. -/
def leaseCovers (l : List LeaseEnt) (host : Bool) (h : Nat) (ok : AccMode → Bool) : Nat → Nat → Nat → Bool
  | 0, lo, hi => decide (hi ≤ lo)
  | n + 1, lo, hi =>
    if hi ≤ lo then true
    else
      let reach := (l.filter (fun e => e.host == host && e.h == h && ok e.mode && decide (e.lo ≤ lo) && decide (lo < e.hi))).map (·.hi)
      match reach.max? with
      | some m => leaseCovers l host h ok n m hi
      | none => false

/-- What LEASEQ answers for a binding. -/
def State.leaseWord (s : State) (k : Nat) (a : AReg) : Word :=
  let lo := a.ptr.toNat
  let hi := a.limit.toNat
  let l := (s.bank k).lease
  let bits := fun (x r w t p : Bool) => wNat (x.toNat * 2 ^ 63 + r.toNat + w.toNat * 2 + t.toNat * 4 + p.toNat * 8)
  match a.kind.toNat with
  | 1 => bits true a.canRead a.canWrite a.canAtomic false
  | 3 => bits true a.canRead a.canWrite a.canAtomic false
  | 2 =>
    let c := fun ok => leaseCovers l false a.bind.toNat ok l.length lo hi
    bits (c (fun _ => true)) (c (·.permits .read)) (c (·.permits .write)) (c (·.permits .acc)) false
  | 4 =>
    let c := fun ok => leaseCovers l true a.bind.toNat ok l.length lo hi
    bits (c (fun _ => true)) (c (·.permits .read)) (c (·.permits .write)) (c (·.permits .acc))
      (hi ≤ lo || (granules 12 lo (hi - lo)).all (fun p => s.host.trans.any (fun t => t.pasid == a.bind.toNat && t.page == p && t.valid)))
  | _ => 0

def execLeaseq (f : FmtY) (s : State) : Out :=
  onCore 1 f.g s (fun r => r.lateX f.x (s.leaseWord s.fk (r.areg f.a)) false)

/-! ## The Geode's services (15 R306, R307; 19 R345) -/

/-- Write a SEC instruction's status with low bits to Xd. -/
def State.secDone (s : State) (f : FmtY) (status low : Nat) : M State := do
  let r ← s.fcore.writeX f.x (wNat (status * 2 ^ 56 + low)) false
  pure (s.putCore r)

/-- SECHASH. -/
def execSechash (f : FmtY) (s : State) : Out :=
  guarded 1 f.g s (fun s => do
    s.parkSpec
    let k := s.fk
    let am := s.fcore.areg f.a
    let ag := s.fcore.areg f.a2
    let n := am.room
    s.checkArea k am am.ptr.toNat n .read
    s.checkArea k ag ag.ptr.toNat (min ag.room 64) .write
    let (s, bs, bad) := s.areaLoad k am am.ptr.toNat n
    if bad then s.secDone f 3 0
    else if 16777216 < n ∨ ag.room < 64 then s.secDone f 1 0
    else (s.areaStore k ag (shake256 bs 64)).secDone f 0 0)

/-- SECVER succeeded on a slot of the scheduler die with the fused key: VER and SM are set (19 R345). -/
def State.slotVerified (s : State) (a : AReg) (key image : List Byte) : State :=
  let hit := fun slot => a.kind == 1 && a.ptr.toNat == slotBase slot
  if isPriv s.fk s.fc && s.fk / 128 == Config.schedDie && shake256 key 64 == s.geode.key then
    let d := shake256 image 64
    if hit false then { s with geode := { s.geode with vera := true, sma := d } }
    else if hit true then { s with geode := { s.geode with verb := true, smb := d } }
    else s
  else s

/-- SECVER. Bits [63:32] of the word at Ao, which software keeps zero, have no effect (00 R4). -/
def execSecver (f : FmtY) (s : State) : Out :=
  guarded 1 f.g s (fun s => do
    s.parkSpec
    let k := s.fk
    let ao := s.fcore.areg f.a
    let ak := s.fcore.areg f.a2
    let p := ao.ptr.toNat
    s.checkArea k ao p 8 .read
    s.checkArea k ak ak.ptr.toNat 64 .read
    let (s, w, bad1) := s.areaLoad k ao p 8
    let (s, key, bad2) := s.areaLoad k ak ak.ptr.toNat 64
    if bad1 || bad2 then s.secDone f 3 0
    else
      let l := leNat w % 2 ^ 32
      if ao.limit.toNat < p + 8 + l + 29792 then s.secDone f 2 0
      else do
        s.checkArea k ao (p + 8) (l + 29792) .read
        let (s, bs, bad3) := s.areaLoad k ao (p + 8) (l + 29792)
        let image := bs.take l
        if bad3 then s.secDone f 3 0
        else if slhVerify image (bs.drop l) key then (s.slotVerified ao key image).secDone f 0 0
        else s.secDone f 1 0)

/-- SECMEAS. -/
def execSecmeas (f : FmtY) (s : State) : Out :=
  guarded 1 f.g s (fun s => do
    s.needPriv 0x1C8 f
    s.parkSpec
    let k := s.fk
    let am := s.fcore.areg f.a
    s.checkArea k am am.ptr.toNat 64 .read
    let (s, v, bad) := s.areaLoad k am am.ptr.toNat 64
    if f.imm.toNat < 8 then s.secDone f 1 0
    else if bad then s.secDone f 3 0
    else (s.extend f.imm.toNat v).secDone f 0 0)

/-- SECATT. A poisoned request is answered with status 3, as the other requests to the Geode are. -/
def execSecatt (f : FmtY) (s : State) : Out :=
  guarded 1 f.g s (fun s => do
    s.needPriv 0x1C9 f
    s.parkSpec
    let k := s.fk
    let aq := s.fcore.areg f.a
    let ar := s.fcore.areg f.a2
    s.checkArea k aq aq.ptr.toNat aq.room .read
    let (s, req, bad) := s.areaLoad k aq aq.ptr.toNat aq.room
    if bad then s.secDone f 3 0
    else do
      let (s, answer) := s.spdmAnswer req
      s.checkArea k ar ar.ptr.toNat (min ar.room answer.length) .write
      if ar.room < answer.length then s.secDone f 1 0
      else (s.areaStore k ar answer).secDone f 0 answer.length)

/-! ## Watchdog and black box (15 R308) -/

/-- WDPET. One issued when the heartbeat timer has expired is abandoned by the roll-back (20 R356). -/
def execWdpet (f : FmtY) (s : State) : Out :=
  if s.fcore.stageOn && s.fcore.guard f.g && isPriv s.fk s.fc && s.fk / 128 == Config.schedDie && s.beatDue then .next s.rollback
  else guarded 1 f.g s (fun s => do
    s.needPriv 0x1CA f
    pure (s.wdpet (s.fk / 128)))

/-- BBLOG. -/
def execBblog (f : FmtY) (s : State) : Out :=
  guarded 1 f.g s (fun s => do
    if f.imm.toNat < 0x8000 then s.needPriv 0x1CB f
    s.parkSpec
    let v ← s.fcore.useX f.x false
    let b := s.bank s.fk
    let own := if isPriv s.fk s.fc then 0 else b.gen * 4096 + b.asid
    pure (s.logRec (s.fk / 128) f.imm.toNat (coreNum s.fc) (s.fk % 128) [wNat own, v, 0, 0, 0, 0]))

end Sys2Proof.Machine
end

