-- ==== Sys2Proof/Machine/Boot.lean ====
section
/-! DEFINITION. Resets and the boot sequence, life-cycle moves, and the Geode's answers to SPDM requests
(17 R327; 19 R339, R341 to R345, R350; 22 R379). -/

namespace Sys2Proof.Machine

/-! ## Resets (19 R341, R343; 22 R379) -/

/-- The TDP of a population, in W (22 R375). -/
def tdp (p : Config.Pop) : Nat := match p with | .l => 5000 | .m => 3600 | .s => 2800

/-- The slots that hold a die. -/
def State.dieSlots (s : State) : List Nat := (List.range 64).filter (fun d => Config.dieClass s.pop d != 0)

/-- What a reset keeps of a die: its units that are faulty for good (19 R353), and if it is warm its ring. -/
def Die.afterReset (x : Die) (cold : Bool) : Die :=
  if cold then { faulty := x.faulty } else { ring := x.ring, next := x.next, wraps := x.wraps, frozen := x.frozen, faulty := x.faulty }

/-- The code of a life-cycle state. -/
def lifeCode : Life → Nat
  | .manufacture => 0 | .provisioned => 1 | .deployed => 2 | .rma => 3 | .decommissioned => 4

/-- The record of a life-cycle change or of a reset: the old and the new state in word 6, the kind of the reset in word 7 (19 R351). -/
def State.logReset (s : State) (d code : Nat) (old new : Life) (cold : Bool) : State :=
  s.logHw d code 0 (wNat (Config.lifeWord (lifeCode old) (lifeCode new))) (wNat (Config.resetWord cold))

/-- The units of the module that are faulty for good. -/
def State.faulty (s : State) : List ErrUnit := s.dies.flatMap (fun e => e.2.faulty)

/-- A reset of the module. Flash and fuses, the agenda, the count of free values, what stands outside the module and what is faulty or
repaired for good remain; a warm reset keeps the rings, adding record 0x0031, and HOSEQ. The epoch rises. -/
def State.resetTo (s : State) (cold : Bool) : State :=
  let t : State := {
    agenda := s.agenda, free := s.free, pop := s.pop, hostMem := s.hostMem, flash := s.flash
    dies := s.dies.map (fun e => (e.1, e.2.afterReset cold))
    hbmStacks := s.hbmStacks.map (fun e => (e.1, { spares := e.2.spares, gone := e.2.gone }))
    geode := { key := s.geode.key, life := s.geode.life, hoseq := if cold then 0 else s.geode.hoseq }
    fabric := {
      moduleId := s.fabric.moduleId, epoch := (s.fabric.epoch + 1) % 65536
      lanes := s.fabric.lanes.map (fun e => (e.1, 2 - (s.faulty.filter (fun u => match u with | .odsogaLane p _ => p == e.1 | _ => false)).length))
      links := s.fabric.links.map (fun e => (e.1, { spares := e.2.spares })) }
    host := { replies := s.host.replies, sent := s.host.sent }
    power := { plim := tdp s.pop } }
  if cold then t else t.dieSlots.foldl (fun t d => t.logReset d 0x0031 s.geode.life s.geode.life false) t

/-! ## The steps of boot (19 R341) -/

/-- A signed object: its image, and whether it verifies under the boot key with the fused digest (19 R345). -/
def State.objectOk (s : State) (o : List Byte) : Bool :=
  let l := field (leNat (o.take 8)) 0 32
  shake256 Config.bootKey 64 == s.geode.key && slhVerify ((o.drop 8).take l) ((o.drop (8 + l)).take 29792) Config.bootKey

/-- The digest of the image of a signed object. -/
def imageDigest (o : List Byte) : List Byte := shake256 ((o.drop 8).take (field (leNat (o.take 8)) 0 32)) 64

/-- Write bytes at an offset of a die's service-cell scratchpad. -/
def State.putSvc (s : State) (d off : Nat) (bs : List Byte) : State :=
  { s with mem := s.mem.write (padBase (svc d) + off) bs }

/-- Step 1 and step 2: M0 is extended with the digest of the ROM and the fuses, the slots are loaded and verified, and the slot in control is chosen. A DECOMMISSIONED module
goes no further, nor does one whose slots both fail; else the discovery table is built while VER is 1 (05 R105). -/
def State.bootStart (s : State) : State :=
  let s := s.extend 0 (Config.romDigest (s.geode.key ++ [BitVec.ofNat 8 (lifeCode s.geode.life)]))
  if s.geode.life = .decommissioned then { s with geode := { s.geode with boot := .stuck } }
  else
    let a := s.flash.a.bytes
    let b := s.flash.b.bytes
    let va := s.objectOk a
    let vb := s.objectOk b
    let s := (s.putSvc Config.schedDie 0 (a.take 0x100000)).putSvc Config.schedDie 0x100000 (b.take 0x100000)
    let zero := List.replicate 64 (0 : Byte)
    let first := s.flash.boot
    let act := if first then (if vb then true else false) else (if va then false else true)
    { s with
      geode := { s.geode with
        vera := va, verb := vb, sma := if va then imageDigest a else zero, smb := if vb then imageDigest b else zero
        active := act, boot := if va || vb then .fill else .stuck }
      sched := { s.sched with discVer := if va || vb then 1 else 0 } }

/-- The measurement register that a die's image extends, by class (19 R341 step 5). -/
def measOf (cls : Nat) : Nat :=
  match cls with
  | 6 => 2 | 7 => 3 | 1 => 4 | 2 => 5 | 3 => 6 | _ => 7

/-- Step 5 on a die: its image is loaded, measured and started. -/
def State.startDie (s : State) (d : Nat) : State :=
  let image := kget [] s.flash.others d
  let s := (s.putSvc d 0 (image.take 4194304)).extend (measOf (Config.dieClass s.pop d)) (shake256 image 64)
  (s.startFw d 0).petDog d

/-- A cell after boot: no task. -/
def Cell.fresh : Cell := { b := Bank.idle }

/-- The cells offered to tile tasks. -/
def State.tileCells (s : State) : List Nat :=
  s.dieSlots.flatMap (fun d => (List.range (Config.cellsOf (Config.dieClass s.pop d))).map (fun c => d * 128 + c))

/-- The cells of a die with no faulty sub-array, and the FENCE bits of its faulty sub-arrays (05 R104; 19 R353). -/
def State.wideOf (s : State) (d : Nat) : BitVec 32 :=
  let narrow := fun (c : Nat) => (s.die d).faulty.any (fun u => match u with | .subArray k _ => k == d * 128 + c | _ => false)
  BitVec.ofNat 32 (((List.range (Config.cellsOf (Config.dieClass s.pop d))).filter (fun c => !narrow c)).map (2 ^ ·)).sum
def State.fenceOf (s : State) (d : Nat) : BitVec 128 :=
  (s.die d).faulty.foldl (fun m u => match u with | .subArray k i => m ||| BitVec.ofNat 128 (2 ^ (8 * (k % 128) + i)) | _ => m) 0

/-- Steps 4 to 6: M1 is extended, firmware starts on every die that has not failed since, the discovery table is published, and the scheduler
firmware's readings of PAVG begin (22 R376). -/
def State.bootFinish (s : State) : State :=
  let s := s.extend 1 (s.geode.sm s.geode.active)
  let s := { s with cells := s.tileCells.map (fun k => (k, Cell.fresh)) }
  let s := (s.startFw Config.schedDie 0).petDog Config.schedDie
  let s := (s.dieSlots.filter (fun d => d != Config.schedDie && (s.die d).st != 3)).foldl State.startDie s
  let s := (s.dieSlots.filter (fun d => (s.die d).st != 3)).foldl (fun s d => s.modDie d (fun x => { x with
    avail := s.availOf d, fullw := s.wideOf d, fence := s.fenceOf d })) s
  { s with
    geode := { s.geode with boot := .up }, sched := { s.sched with discVer := 2 }, power := { s.power with tick := s.time } }

/-- BOOT_ZERO_FILL_DONE: the zero fill has ended, and the module comes up; it announces its epoch (17 R333). -/
def execBootZeroFillDone (s : State) : Out :=
  .next (if s.geode.boot = .fill then
      let s := s.bootFinish
      ((List.range 256).filter (· != s.fabric.moduleId)).foldl (fun s j =>
        s.sendSched 7 j 0 (wNat (kget 0 s.fabric.known j * 2 ^ 16)) s.fabric.epoch [] true) s
    else s)

/-- COLD_RESET. -/
def execColdReset (s : State) : Out := .next (s.resetTo true).bootStart

/-- WARM_RESET: a module held after a trip stays so until a cold reset (22 R377). -/
def execWarmReset (s : State) : Out := .next (if s.geode.boot = .tripped then s else (s.resetTo false).bootStart)

/-- Does the management interface serve its commands: past step 2, no die held in reset, not DECOMMISSIONED (19 R341; 22 R377, R378)? -/
def State.managed (s : State) : Bool :=
  (s.geode.boot == .fill || s.geode.boot == .up) && s.geode.life != .decommissioned

/-- RESET: a warm or a cold reset by command. -/
def execReset (cold : Bool) (s : State) : Out := .next (if s.managed then (s.resetTo cold).bootStart else s)

/-! ## Life-cycle moves (19 R342) -/

/-- The key that signs a move: false Theok's, true the owner's; none where the move does not exist. RMA returns to DEPLOYED
with Theok's signature first and then the owner's. -/
def Geode.signer (g : Geode) (target : Life) : Option Bool :=
  match g.life, target with
  | .manufacture, .provisioned => some false
  | .provisioned, .deployed => some true
  | .deployed, .rma => some true
  | .deployed, .decommissioned => some true
  | .rma, .deployed => some g.theok
  | .rma, .decommissioned => some false
  | _, _ => none

/-- May the Geode answer: not before step 1 nor while every die is held in reset? -/
def State.geodeUp (s : State) : Bool := s.geode.boot != .held && s.geode.boot != .tripped

/-- LIFECYCLE: a request with a good signature moves the state, is logged and followed by a full reset; another is refused. -/
def execLifecycle (target : Life) (message signature key : List Byte) (s : State) : Out :=
  .next (
    if !s.geodeUp then s
    else match s.geode.signer target with
      | none => s.reply (.mgmt 2 [])
      | some who =>
        if shake256 key 64 = Config.lifeKey who ∧ Config.lifeOrder (lifeCode s.geode.life) (lifeCode target) message ∧
            slhVerify message signature key then
          if s.geode.life = .rma ∧ target = .deployed ∧ !s.geode.theok then
            ({ s with geode := { s.geode with theok := true } } : State).reply (.mgmt 0 [])
          else
            let s := s.logReset Config.schedDie 0x0030 s.geode.life target false
            let s := ({ s with geode := { s.geode with life := target } } : State).reply (.mgmt 0 [])
            (s.resetTo false).bootStart
        else s.reply (.mgmt 2 []))

/-! ## SPDM (17 R327; 19 R350) -/

/-- Answer an SPDM request whose code is the one named. -/
def spdm (code : Nat) (req : List Byte) (s : State) (answer : State → State × List Byte) : Out :=
  .next (
    if !s.geodeUp || ((req[1]?).getD 0).toNat != code then s
    else
      let (s, a) := answer s
      s.reply (.spdm a))

def execGetVersion (req : List Byte) (s : State) : Out := spdm 0x84 req s (fun s => (s.bump, s.spdmOther 0x84))
def execGetCapabilities (req : List Byte) (s : State) : Out := spdm 0xE1 req s (fun s => (s.bump, s.spdmOther 0xE1))
def execNegotiateAlgorithms (req : List Byte) (s : State) : Out := spdm 0xE3 req s (fun s => (s, spdmAlgorithms))
def execGetDigests (req : List Byte) (s : State) : Out := spdm 0x81 req s (fun s => (s.bump, s.spdmOther 0x81))
def execGetCertificate (req : List Byte) (s : State) : Out := spdm 0x82 req s (fun s => (s.bump, s.spdmOther 0x82))
def execChallenge (req : List Byte) (s : State) : Out := spdm 0x83 req s (fun s => (s.bump, s.spdmOther 0x83))

/-- GET_MEASUREMENTS: the blocks of the indices asked for, all sampled at this instant. -/
def execGetMeasurements (req : List Byte) (indices : List Nat) (s : State) : Out :=
  spdm 0xE0 req s (fun s => (s.bump, s.spdmMeasurements indices))

/-- SPDM_UNSUPPORTED: ERROR with UnsupportedRequest. -/
def execSpdmUnsupported (req : List Byte) (s : State) : Out :=
  .next (
    let code := ((req[1]?).getD 0).toNat
    if !s.geodeUp || spdmKnown code then s else s.reply (.spdm (spdmError 7 code)))

end Sys2Proof.Machine
end

