-- ==== Sys2Proof/Machine/Errors.lean ====
section
/-! DEFINITION. Watchdog and heartbeat, refresh and row activations, correctable and uncorrectable errors, failing dies
(10 R206 to R208; 15 R291, R292; 17 R334; 19 R348, R349, R351 to R353). -/

namespace Sys2Proof

/-- The die that keeps a unit's count. -/
def ErrUnit.die : ErrUnit → Nat
  | .subArray k _ => k / 128
  | .hbmRow st _ _ => st
  | .odsogaLane port _ => if port < 18 then 25 else 26
  | .dieLane d _ _ => d
  | .cell k => k / 128

/-- The kind and the numbers of a unit. -/
def ErrUnit.nums : ErrUnit → List Nat
  | .subArray k i => [0, k, i]
  | .hbmRow st bank row => [1, st, bank, row]
  | .odsogaLane port lane => [2, port, lane]
  | .dieLane d link lane => [3, d, link, lane]
  | .cell k => [4, k]

/-- The cell whose correctable-error count a unit's error raises (15 R304). -/
def ErrUnit.cell? : ErrUnit → Option Nat
  | .subArray k _ => some k
  | .cell k => some k
  | _ => none

end Sys2Proof

namespace Sys2Proof.Machine

/-! ## Failing dies (17 R334; 19 R349, R351) -/

/-- The ring of a die freezes (19 R351). -/
def State.freeze (s : State) (d : Nat) : State := s.modDie d (fun x => { x with frozen := true })

/-- A task ends with MACHINE_CHECK wherever it stands on a cell: running, in the shadow bank, suspended. -/
def State.checkCell (s : State) (k : Nat) (tval : Nat) : State :=
  let s := match (s.cell k).shadow with
    | some t =>
      let js := t.group k
      let s := js.foldl (fun (s : State) (j : Nat) => if (s.cell j).shadow.any (fun (x : Task) => x.launch == t.launch) then s.unplace j else s) s
      if t.spec then s.discardRun t.node 4
      else
        (s.faultNote k { s.bank k with task := some t } { core := .e, cause := cCHECK, tval := wNat tval, epc := 0 }).modNode t.node
          (fun n => { n with faulted := true, cells := js.foldl List.erase n.cells })
    | none => s
  let s := s.killTask k cCHECK (wNat tval)
  s.endAllSuspended k (fun _ => true) cCHECK tval

/-- Every task on some cells ends with MACHINE_CHECK. -/
def State.checkCells (s : State) (p : Nat → Bool) (tval : Nat) : State :=
  (s.cells.filter (fun e => !isService e.1 && p e.1)).foldl (fun s e => s.checkCell e.1 tval) s

/-- The firmware core of a die stops. -/
def State.stopFw (s : State) (d : Nat) : State := s.modCore (svc d) .x (fun r => { r with run := .held })

/-- A die fails: it is offline by force with STATE 3, its ring freezes, its tasks end; a stack's buffers leave it, and those that cannot
are lost; the scheduler die takes every task with it and is reported. -/
def State.failDie (s : State) (d : Nat) : State :=
  let cls := Config.dieClass s.pop d
  let s := s.takeOff d 3
  let s := ((if cls = 5 then s.discUpdate else s.discCaused d).freeze d).stopFw d
  let s := s.checkCells (fun k => k / 128 == d) 5
  let s := if cls = 7 then s.clearStack (d - 32) else s
  if cls = 5 then (s.checkCells (fun _ => true) 5).raiseAer else s

/-- Is a slot's die present, the module up, and the die not failed already? -/
def State.alive (s : State) (d : Nat) : Bool := s.geode.boot == .up && Config.dieClass s.pop d != 0 && (s.die d).st != 3

/-- DIE_FAILURE. -/
def execDieFailure (slot : Nat) (s : State) : Out := .next (if s.alive slot then s.failDie slot else s)

/-! ## Watchdog and heartbeat (19 R348, R349) -/

/-- WATCHDOG_EXPIRY: 100 ms without a WDPET. A second expiry within 1 s fails the die; else its firmware restarts, or rolls back. -/
def execWatchdogExpiry (die : Nat) (s : State) : Out :=
  .next (
    let d := s.die die
    if s.alive die && decide (d.wdStart + 100000000 ≤ s.time) then
      if d.wdLast.any (fun t => s.time ≤ t + 1000000000) then
        (s.logHw die 0x0001 0 0 (s.core (svc die) .x).pc).failDie die
      else (s.fwFail die 0).modDie die (fun x => { x with wdLast := some s.time })
    else s)

/-- HEARTBEAT_TIMEOUT: 5 ms have passed since a commit without a heartbeat. -/
def execHeartbeatTimeout (s : State) : Out :=
  .next (
    match s.geode.beat with
    | some t => if s.alive Config.schedDie ∧ s.geode.pending ∧ t + 5000000 ≤ s.time then s.rollback else s
    | none => s)

/-! ## Refresh and row activations (10 R206, R207) -/

/-- A refresh of a stack: the counts of the rows that it refreshes are reset. -/
def Stack.refresh (x : Stack) (st now : Nat) : Stack :=
  { x with
    refreshes := x.refreshes + 1, lastRef := now
    acts := x.acts.filter (fun e => !Config.refreshes st x.refreshes e.1) }

/-- Is a slot a base die that is up? -/
def State.stackUp (s : State) (st : Nat) : Bool := s.alive st && Config.dieClass s.pop st == 7

/-- REFRESH_INTERVAL: the management core refreshes and gives a heartbeat; two in a row end a takeover, which is logged. -/
def execRefreshInterval (st : Nat) (s : State) : Out :=
  .next (
    let x := s.stack st
    if s.stackUp st && decide (x.lastBeat + 3900 ≤ s.time) then
      let beats := if s.time < x.lastBeat + 7800 then x.beats + 1 else 1
      let back := x.takeover && decide (2 ≤ beats)
      let s := s.modStack st (fun x => { x.refresh st s.time with lastBeat := s.time, beats := beats, takeover := x.takeover && !back })
      if back then s.logHw st 0x0021 0 (wNat st) 0 else s
    else s)

/-- REFRESH_TAKEOVER: two heartbeats are missed and the hardwired sequencer refreshes, which is logged; from then on it refreshes every
2.6 µs. -/
def execRefreshTakeover (st : Nat) (s : State) : Out :=
  .next (
    let x := s.stack st
    if !s.stackUp st then s
    else if x.takeover then
      if x.lastRef + 2600 ≤ s.time then s.modStack st (fun x => x.refresh st s.time) else s
    else if x.lastBeat + 7800 ≤ s.time then
      (s.modStack st (fun x => { x.refresh st s.time with takeover := true, beats := 0 })).logHw st 0x0020 0 (wNat st) 0
    else s)

/-- ROW_ACTIVATION_THRESHOLD: a row's count has reached MTH: an alert, refreshes of its four neighbours, the count reset, the bank held
for 350 ns. -/
def execRowActivationThreshold (st bank row : Nat) (s : State) : Out :=
  .next (
    let key := bank * 2 ^ 20 + row
    let x := s.stack st
    if s.stackUp st && decide (x.mth ≤ kget 0 x.acts key) then
      let near := fun (k : Nat) => k / 2 ^ 20 == bank && decide (k ≤ key + 2) && decide (key ≤ k + 2)
      s.modStack st (fun x => { x with
        alerts := x.alerts + 1, acts := x.acts.filter (fun e => !near e.1), holds := kset x.holds bank (s.time + 350) })
    else s)

/-- RFM_HOLD_END: 350 ns have passed and the bank is free. -/
def execRfmHoldEnd (st bank : Nat) (s : State) : Out :=
  .next (
    match kget? (s.stack st).holds bank with
    | some t => if t ≤ s.time then s.modStack st (fun x => { x with holds := kdel x.holds bank }) else s
    | none => s)

/-! ## Units and their repair (19 R353) -/

/-- Fence a sub-array of a cell, in one update (05 R105). -/
def State.fenceSub (s : State) (k i : Nat) : State :=
  (s.modDie (k / 128) (fun d => { d with
    fence := d.fence ||| BitVec.ofNat 128 (2 ^ (8 * (k % 128) + i)), fullw := setBit d.fullw (k % 128) false })).discCaused (k / 128)

/-- Repair a row of a stack: a spare row takes its place, or its granules leave the allocator and the buffers on it are evacuated, but for
those that no other stack can hold (17 R334). -/
def State.repairRow (s : State) (st bank row : Nat) : State :=
  if (s.stack st).spares < Config.spareRows st then s.modStack st (fun x => { x with spares := x.spares + 1 })
  else
    let s := s.modStack st (fun x => { x with gone := x.gone + Config.rowGranules })
    let hit := (s.buffersOn (st - 32)).filter (fun h => Config.rowHolds st (bank * 2 ^ 20 + row) h)
    (s.planMoves (st - 32) hit).1.beginCopies (st - 32)

/-- Words 6 and 7 of a record of a unit: the unit, and its count or the action taken on it (19 R351). -/
def State.logUnit (s : State) (d code : Nat) (u : List Nat) (w7 : Word) : State := s.logHw d code 0 (wNat (Config.unitCode u)) w7

/-- Record 0x0012 and the action of a unit that is faulty for good: a discovery update that the action causes has the record as its cause (17
R321). -/
def State.repair (s : State) (u : ErrUnit) : State :=
  let d := u.die
  if (s.die d).faulty.contains u then s
  else
    let s := s.modDie d (fun x => { x with faulty := x.faulty ++ [u] })
    let act := match u with
      | .subArray _ _ => 0
      | .hbmRow st _ _ => if (s.stack st).spares < Config.spareRows st then 1 else 2
      | .dieLane _ _ _ => 3
      | .odsogaLane _ _ => 4
      | .cell _ => 5
    let s := s.logUnit d 0x0012 u.nums (wNat (Config.actionCode act))
    match u with
    | .subArray k i => s.fenceSub k i
    | .hbmRow st bank row => s.repairRow st bank row
    | .odsogaLane port _ => s.loseLane port
    | .dieLane _ l _ => s.modLink l (fun x => { x with spares := x.spares + 1 })
    | .cell k => s.retireCell k

/-- Count an error of a unit: the events of the last 600 s, this one included. -/
def State.countError (s : State) (u : ErrUnit) : State × Nat :=
  let d := u.die
  let s := s.modDie d (fun x => { x with errs := x.errs.filter (fun e => s.time < e.2 + 600000000000) ++ [(u, s.time)] })
  (s, ((s.die d).errs.filter (fun e => e.1 == u)).length)

/-- An error of a unit is corrected, counted and logged; the third within 600 s makes the unit faulty (19 R352, R353). -/
def State.corrected (s : State) (u : ErrUnit) : State :=
  let (s, n) := s.countError u
  let s := match u.cell? with
    | some k => s.modCell k (fun c => { c with errors := c.errors + 1 })
    | none => s
  let s := s.logUnit u.die 0x0010 u.nums (wNat n)
  if 3 ≤ n then s.repair u else s

/-- CORRECTABLE_ERROR. -/
def execCorrectableError (u : ErrUnit) (s : State) : Out := .next (s.corrected u)

/-- FLIT_CRC_REPLAY: a flit with a bad CRC is dropped, and the sender is asked to replay from the LSEQ that is due; the error of the link's
lane is corrected by it (17 R317; 19 R352). -/
def execFlitCrcReplay (link : Nat) (f : Flit) (s : State) : Out :=
  .next (
    if flitOk f then s
    else
      ((s.modLink link (fun x => { x with crcBad := x.crcBad + 1 })).send (.replayRequest link (s.link link).nextLseq)).corrected
        (.dieLane (Config.linkDie link) link (Config.linkLane link)))

/-! ## Uncorrectable errors (10 R208; 15 R292) -/

/-- Flag an on-chip granule. -/
def State.flagAt (s : State) (a : Nat) : State := { s with memBad := nsAdd s.memBad (a / 64) }

/-- A bank's snapshot sees an uncorrectable granule of the home, unless the cell's own stores cover it. -/
def Bank.flagHome (b : Bank) (g : Nat) : Bank := { b with snapBad := nsAdd b.snapBad g }

/-- A granule of a buffer is uncorrectable: for the home, and for every snapshot that reads it. -/
def State.flagHome (s : State) (h granule : Nat) : State :=
  let g := bufKey h 0 / 64 + granule
  { s with
    hbmBad := nsAdd s.hbmBad g
    cells := s.cells.map (fun (e : Nat × Cell) => (e.1, { e.2 with
      b := e.2.b.flagHome g, suspended := e.2.suspended.map (fun (x : Suspended) => { x with bank := x.bank.flagHome g }) })) }

/-- MACHINE_CHECK on a core: it ends the task; the firmware core takes it, and its die's ring freezes (15 R291; 19 R351). A core that is held
in reset or is not there takes none. -/
def State.machineCheck (s : State) (k : Nat) (c : CoreIx) (code : Nat) : State :=
  if (s.core k c).run = .held ∨ (s.core k c).run = .absent then s
  else if isPriv k c then (s.freeze (k / 128)).takeTrap k c cCHECK (wNat code)
  else s.endTask k c cCHECK (wNat code) (s.core k c).pc 0

/-- The effect of an uncorrectable error where it strikes. -/
def State.strike (s : State) (p : ErrPlace) : State :=
  match p with
  | .xreg k c j => if j = 0 then s else s.modCore k c (fun r => { r with x := vset r.x j { r.xreg j with poison := true } })
  | .vseg k unit v seg => s.flagAt (chipAddr k (2 + unit) (1024 * v + 64 * seg))
  | .tileSeg k t seg => s.flagAt (chipAddr k 1 (131072 * t + 64 * seg))
  | .scratch k granule => s.flagAt (padBase k + 64 * granule)
  | .icache k _ line =>
    let a := padBase k + 64 * line
    if 64 * line < s.padSize k then s.modCell k (fun x => { x with imem := x.imem.write a (s.mem.read a 64) }) else s
  | .control k c code => s.machineCheck k c code
  | .hbm h granule => s.flagHome h granule
  | .unit _ => s

/-- The unit that an uncorrectable error makes faulty. -/
def State.unitOf (s : State) (p : ErrPlace) : ErrUnit :=
  match p with
  | .xreg k _ _ => .cell k
  | .vseg k _ _ _ => .cell k
  | .tileSeg k _ _ => .cell k
  | .scratch k _ => .cell k
  | .icache k _ _ => .cell k
  | .control k _ _ => .cell k
  | .unit u => u
  | .hbm h granule =>
    let st := match s.buf? h with | some b => b.stackOf (64 * granule) | none => 32
    let row := Config.dramRow st (bufKey h 0 / 64 + granule)
    .hbmRow st (row / 2 ^ 20) (row % 2 ^ 20)

/-- UNCORRECTABLE_ERROR: it is counted and logged, it takes effect where it strikes, and its unit is faulty for good. -/
def execUncorrectableError (p : ErrPlace) (s : State) : Out :=
  .next (
    let u := s.unitOf p
    let (s, n) := s.countError u
    let s := s.logUnit u.die 0x0011 u.nums (wNat n)
    (s.strike p).repair u)

end Sys2Proof.Machine
end

