-- ==== Sys2Proof/Machine/Message.lean ====
section
/-! DEFINITION. Odsoga messages as they arrive: the target's side and the source's (11 R228, R229; 17 R329 to R333; 19 R352). -/

namespace Sys2Proof.Machine

/-- An Odsoga message arrives whose CRC fails: it is dropped, its sender is asked to send it again, and the error of the lane that brought it
is corrected by that, counted and logged (19 R352). Which lane of which port brought it is free (log 66). -/
def State.badMsg (s : State) : State :=
  let port := Config.freeWord s.free % 36
  let lane := Config.freeWord (s.free + 1) % 2
  (({ s with free := s.free + 2 } : State).send (.msgRetry port)).corrected (.odsogaLane port lane)

/-- A message arrives while the module serves requests: a whole one of a type for this module is acted on, another whole one is not, and one
whose CRC fails is retried (17 R330; 19 R341, R352; 22 R377). -/
def State.receive (s : State) (ty : Nat) (m : Msg) (act : State → State) : State :=
  if s.serves = false then s
  else if msgWhole m = false then s.badMsg
  else if m.type_ = ty ∧ m.dst = s.fabric.moduleId then act s
  else s

/-! ## The target's side (11 R228; 17 R332, R333; 18 R337) -/

/-- PUSH_DATA: the message is checked, and its bytes land at the home, published as they land; VERSION rises with the last of them
(11 R228). -/
def execPushData (m : Msg) (s : State) : Out :=
  .next (s.receive 1 m (fun s =>
    let p := s.inPush m
    let p := { p with seen := p.seen + 1 }
    let n := m.payload.length
    if p.stale || m.epoch != s.fabric.epoch then s.settlePush { p with stale := true }
    else if p.refused then s.settlePush p
    else if !s.exported m.handle m.arg n 1 then
      let (s, p) := s.refuse p
      s.settlePush p
    else
      let s := ((s.homePut m.handle m.arg m.stores).modBuf m.handle (fun b => { b with written := true })).cacheTouch 0 m.handle m.arg n
      let p := { p with landed := p.landed || n != 0 }
      let last := (s.pushEnd p).any (fun d => decide (d.arg / 2 ^ 32 ≤ p.seen))
      let (s, p) := if last then s.bumpPush p else (s, p)
      s.settlePush p))

/-- PUSH_DONE: it is checked, and the push ends once its messages have come. -/
def execPushDone (m : Msg) (s : State) : Out :=
  .next (s.receive 2 m (fun s =>
    let p := s.inPush m
    let p := { p with done := some m }
    if p.stale || m.epoch != s.fabric.epoch then s.settlePush { p with stale := true }
    else if !p.refused && !s.exported m.handle 0 0 1 then
      let (s, p) := s.refuse p
      s.settlePush p
    else s.settlePush p))

/-- PULL_REQ: the target answers with the committed bytes, at most 256 in a message, and PULL_DONE. A poisoned granule consumes its poison:
it and every later one are not sent, and the answer is status 2 (DESIGN CHOICE, log 88). -/
def execPullReq (m : Msg) (s : State) : Out :=
  .next (s.receive 4 m (fun s =>
    let n := leNat (m.payload.take 8)
    if m.epoch ≠ s.fabric.epoch then s.answer m 6 1 []
    else if n = 0 ∨ 2 ^ 22 < n ∨ !s.exported m.handle m.arg n 0 then s.answer m 6 2 []
    else
      let c := s.cleanPart m.handle m.arg n
      let bs := (s.homeWord m.handle m.arg c).1
      let s := s.noteHome m.handle m.arg c
      let cs := chunks (n / 256 + 1) 256 bs
      let s := s.cacheTouch 0 m.handle m.arg n
      let s := ((List.range cs.length).zip cs).foldl (fun s c => s.answer m 5 (m.arg + 256 * c.1) c.2) s
      s.answer m 6 (if c = n then 0 else 2) []))

/-! ## The source's side (11 R228, R229) -/

/-- PUSH_ACK: the push completes with the status; an answer that nothing awaits is discarded. -/
def execPushAck (m : Msg) (s : State) : Out :=
  .next (s.receive 3 m (fun s =>
    match s.opOf m true with
    | some o => s.endOp o (m.arg % 256)
    | none => s))

/-- PULL_DATA: bytes of a pull arrive. -/
def execPullData (m : Msg) (s : State) : Out :=
  .next (s.receive 5 m (fun s =>
    match s.opOf m false with
    | some o => s.settlePull { o with got := kputAll o.got m.arg m.payload }
    | none => s))

/-- PULL_DONE: one request of a pull is done; with the last one the pull completes. -/
def execPullDone (m : Msg) (s : State) : Out :=
  .next (s.receive 6 m (fun s =>
    match s.opOf m false with
    | some o => s.settlePull { o with expect := o.expect - 1, status := if o.status = 0 then m.arg % 256 else o.status }
    | none => s))

/-- EPOCH: the sender has a new epoch. -/
def execEpoch (m : Msg) (s : State) : Out :=
  .next (s.receive 7 m (fun s =>
    let e := m.arg % 65536
    let s := s.setFabric (fun x => { x with known := kset x.known m.src e })
    s.loseModule m.src (fun x => older x e)))

/-- ODSOGA_UNKNOWN_TYPE: a message of another type is discarded and counted. -/
def execOdsogaUnknownType (m : Msg) (s : State) : Out :=
  .next (if s.serves = false then s
    else if msgWhole m = false then s.badMsg
    else if 1 ≤ m.type_ ∧ m.type_ ≤ 7 then s
    else s.setFabric (fun x => { x with unknown := x.unknown + 1 }))

end Sys2Proof.Machine
end

