-- ==== Sys2Proof/Machine/Power.lean ====
section
/-! DEFINITION. The management commands, the package cap, and the temperature limits (19 R351; 22 R373 to R378). -/

namespace Sys2Proof.Machine

/-! ## Islands (22 R373, R374, R376) -/

/-- Does the module have an island: one per die present, the memory processor's, six of the SerDes? -/
def State.island? (s : State) (i : Nat) : Bool :=
  Config.dieClass s.pop i != 0 || i == 48 || (decide (49 ≤ i) && decide (i ≤ 54))

/-- Is an island a compute die's? -/
def State.computeIsland (s : State) (i : Nat) : Bool :=
  decide (1 ≤ Config.dieClass s.pop i) && decide (Config.dieClass s.pop i ≤ 4)

def State.island (s : State) (i : Nat) : Island := kget {} s.power.islands i

def State.modIsland (s : State) (i : Nat) (f : Island → Island) : State :=
  { s with power := { s.power with islands := kset s.power.islands i (f (s.island i)) } }

/-- FLIM of a compute island (22 R376). -/
def Island.flim (x : Island) : Nat := min 700 (min x.limMgmt (min x.limCap x.limTherm))

/-- FLIM of any island: islands other than compute islands are not limited and stand at their clock of 17 R315. -/
def State.flim (s : State) (i : Nat) : Nat :=
  if s.computeIsland i then (s.island i).flim
  else if 49 ≤ i then Config.serdesClock i % 4096
  else 1000

/-- The die whose state an island reports in OFF: the memory processor's and the SerDes islands report their host die's. -/
def hostDie (i : Nat) : Nat := if i < 48 then i else if i = 48 then Config.schedDie else if i < 52 then 25 else 26

/-- The sensors of an island are read: what they say is free (log 2). -/
def State.sense (s : State) (i : Nat) : State :=
  let n := s.free
  s.bump.bump.bump.modIsland i (fun x => { x with
    temp := Config.freeWord n % 256, power := Config.freeWord (n + 1) % 4096, vcur := Config.freeWord (n + 2) % 4096 })

/-- The status word of an island (22 R374). The present clock stands at the limit in force. -/
def State.islandWord (s : State) (i : Nat) : Word :=
  let x := s.island i
  let f := s.flim i
  let st := (s.die (hostDie i)).st
  let lim := s.computeIsland i
  wNat (x.temp * 2 ^ 56 + x.power * 2 ^ 44 + x.vcur * 2 ^ 32 + f * 2 ^ 20 + f * 2 ^ 8 +
    (lim && decide (x.limTherm < 700)).toNat * 8 + (lim && decide (x.limCap < 700)).toNat * 4 +
    (lim && decide (x.limMgmt < 700)).toNat * 2 + (st == 2 || st == 3).toNat)

/-! ## The management commands (22 R378) -/

/-- A management command: answered where the interface serves, with a status and words. -/
def manage (s : State) (f : State → State × Nat × List Word) : Out :=
  .next (if s.managed then
      let (t, st, ws) := f s
      t.reply (.mgmt st ws)
    else s)

/-- The ring's status word (19 R351). -/
def Die.ringStatus (x : Die) : Word := wNat (x.next % 1024 + x.wraps % 2 ^ 32 * 2 ^ 10 + x.frozen.toNat * 2 ^ 63)

/-- RING_READ: the ring's status word and its records, in the order of their indices. -/
def execRingRead (d : Nat) (s : State) : Out :=
  manage s (fun s =>
    if Config.dieClass s.pop d = 0 then (s, 2, [])
    else (s, 0, (s.die d).ringStatus :: (s.die d).ring.flatMap (fun e => e.2)))

/-- RING_RELEASE: a frozen ring takes records again. -/
def execRingRelease (d : Nat) (s : State) : Out :=
  manage s (fun s =>
    if Config.dieClass s.pop d = 0 then (s, 2, []) else (s.modDie d (fun x => { x with frozen := false }), 0, []))

/-- ISLAND_READ: an island's status word. -/
def execIslandRead (i : Nat) (s : State) : Out :=
  manage s (fun s =>
    if s.island? i then
      let s := s.sense i
      (s, 0, [s.islandWord i])
    else (s, 2, []))

/-- The package word (22 R376). -/
def Power.word (p : Power) : Word := wNat (p.plim % 2 ^ 16 * 2 ^ 48 + p.pavg % 2 ^ 16 * 2 ^ 32)

/-- PKG_READ: the package word, PAVG read at this instant (log 2). -/
def execPkgRead (s : State) : Out :=
  manage s (fun s =>
    let t : State := { s.bump with power := { s.power with pavg := Config.freeWord s.free % 2 ^ 16 } }
    (t, 0, [t.power.word]))

/-- PKG_SET: PLIM is written, from 1,000 W to the TDP. -/
def execPkgSet (w : Word) (s : State) : Out :=
  manage s (fun s =>
    let v := field w.toNat 48 16
    if v < 1000 ∨ tdp s.pop < v then (s, 2, []) else ({ s with power := { s.power with plim := v } }, 0, []))

/-- LIMIT_SET: the management limit of a compute island, from 350 to 700 MHz. -/
def execLimitSet (i mhz : Nat) (s : State) : Out :=
  manage s (fun s =>
    if s.computeIsland i && decide (350 ≤ mhz) && decide (mhz ≤ 700) then
      (s.modIsland i (fun x => { x with limMgmt := mhz }), 0, [])
    else (s, 2, []))

/-- DISC_READ: a word of the discovery table; its reader takes the entries between two readings of VER, word 0 (05 R105). -/
def execDiscRead (index : Nat) (s : State) : Out :=
  manage s (fun s => if index < 516 then (s, 0, [s.discWord index]) else (s, 2, []))

/-! ## The package cap (22 R376) -/

/-- The compute islands of the module. -/
def State.computeIslands (s : State) : List Nat := (List.range 22).filter s.computeIsland

/-- A cap limit after a reading of PAVG. -/
def capNext (plim pavg lim : Nat) : Nat :=
  if plim < pavg then max 350 (lim - 25)
  else if 100 * pavg < 95 * plim then min 700 (lim + 25)
  else lim

/-- POWER_CAP_TICK: every 1 ms the scheduler firmware reads PAVG and moves every cap limit. -/
def execPowerCapTick (pavg : Nat) (s : State) : Out :=
  .next (
    if s.serves && decide (s.power.tick + 1000000 ≤ s.time) then
      let t : State := { s with power := { s.power with pavg := pavg, tick := s.power.tick + 1000000 } }
      t.computeIslands.foldl (fun (u : State) (i : Nat) =>
        u.modIsland i (fun x => { x with limCap := capNext u.power.plim pavg x.limCap })) t
    else s)

/-! ## Temperature (22 R377) -/

/-- Do the limits of 22 R377 act on an island: it is there, and the module is not held in reset? They act from the zero fill on. -/
def State.sensed (s : State) (i : Nat) : Bool :=
  s.island? i && (s.geode.boot == .up || s.geode.boot == .fill)

/-- THERMAL_THROTTLE: a compute island at 100 °C has its thermal limit at 350 MHz. -/
def execThermalThrottle (i temp : Nat) (s : State) : Out :=
  .next (
    if s.sensed i && s.computeIsland i && decide (100 ≤ temp) then s.modIsland i (fun x => { x with temp := temp, limTherm := 350 })
    else s)

/-- THERMAL_RELEASE: below 90 °C the thermal limit is released. -/
def execThermalRelease (i temp : Nat) (s : State) : Out :=
  .next (
    if s.sensed i && s.computeIsland i && decide (temp < 90) then s.modIsland i (fun x => { x with temp := temp, limTherm := 700 })
    else s)

/-- COMPUTE_TRIP: a compute island at 115 °C makes its die failed, and record 0x0012 with the die as its unit is written before the ring
freezes. -/
def execComputeTrip (i temp : Nat) (s : State) : Out :=
  .next (
    if s.sensed i && (s.die i).st != 3 && s.computeIsland i && decide (115 ≤ temp) then
      ((s.modIsland i (fun x => { x with temp := temp })).logUnit i 0x0012 [5, i] (wNat (Config.actionCode 6))).failDie i
    else s)

/-- The fault that ends the task of a bank of cell k is noted at once (15 R289 step 4). -/
def State.noteEnd (s : State) (k : Nat) (b : Bank) : State :=
  match b.ending with
  | none => s
  | some f =>
    let s := s.faultNote k b f
    match b.task with
    | some t => s.modNode t.node (fun n => { n with faulted := true })
    | none => s

/-- The faults that end the tasks of a cell, a suspended one's too, are noted. -/
def State.noteNow (s : State) (k : Nat) : State :=
  ((s.cell k).b :: (s.cell k).suspended.map (·.bank)).foldl (fun s b => s.noteEnd k b) s

/-- A node with a task that has ended by a fault retires, all others being gone as well. -/
def State.retireFaulted (s : State) (n : Nat) : State :=
  (s.modNode n (fun x => if x.faulted then { x with tasks := x.launched, cells := [] } else x)).retireFaultNode n

/-- ISLAND_TRIP: another island at 115 °C ends every task with MACHINE_CHECK, TVAL 6: their faults are noted and their nodes retire
FAULTED; every die is then held in reset until a cold reset. -/
def execIslandTrip (i temp : Nat) (s : State) : Out :=
  .next (
    if s.sensed i && !s.computeIsland i && decide (115 ≤ temp) then
      let s := (s.modIsland i (fun x => { x with temp := temp })).checkCells (fun _ => true) 6
      let s := (s.cells.map (·.1)).foldl State.noteNow s
      let s := (s.sched.nodes.map (·.1)).foldl State.retireFaulted s
      { s with cells := [], geode := { s.geode with boot := .tripped } }
    else s)

/-! ## Settings by firmware (10 R203, R206; 13 R268; log 79) -/

/-- The firmware of a die makes a setting: a row threshold from 64 to 4,095, or a seed, 0 replaced. -/
def State.applySetting (s : State) (x : Setting) : State :=
  if !s.serves then s
  else match x with
    | .mth st v => if s.stackUp st ∧ 64 ≤ v ∧ v ≤ 4095 then s.modStack st (fun y => { y with mth := v }) else s
    | .slice st seed => if s.stackUp st then s.modStack st (fun y => { y with gen := seedOr seed }) else s
    | .lottery seed => { s with sched := { s.sched with lottery := seedOr seed } }

end Sys2Proof.Machine
end

