-- ==== Sys2Proof/Machine/Dispatch.lean ====
section
/-! DEFINITION. One arm for each instruction and event: the call of its meaning. -/

namespace Sys2Proof.Machine

open Sys2Proof

def exec (i : Instr) (s : State) : Host.Outcome State Fault Refusal :=
  match i with
  | .nop f => Sys2Proof.Machine.execNop f s
  | .mov f => Sys2Proof.Machine.execMov f s
  | .movhi f => Sys2Proof.Machine.execMovhi f s
  | .add f => Sys2Proof.Machine.execAdd f s
  | .sub f => Sys2Proof.Machine.execSub f s
  | .mul f => Sys2Proof.Machine.execMul f s
  | .mulh f => Sys2Proof.Machine.execMulh f s
  | .mulhu f => Sys2Proof.Machine.execMulhu f s
  | .div f => Sys2Proof.Machine.execDiv f s
  | .divu f => Sys2Proof.Machine.execDivu f s
  | .rem f => Sys2Proof.Machine.execRem f s
  | .remu f => Sys2Proof.Machine.execRemu f s
  | .min f => Sys2Proof.Machine.execMin f s
  | .max f => Sys2Proof.Machine.execMax f s
  | .minu f => Sys2Proof.Machine.execMinu f s
  | .maxu f => Sys2Proof.Machine.execMaxu f s
  | .abs f => Sys2Proof.Machine.execAbs f s
  | .and f => Sys2Proof.Machine.execAnd f s
  | .or f => Sys2Proof.Machine.execOr f s
  | .xor f => Sys2Proof.Machine.execXor f s
  | .andn f => Sys2Proof.Machine.execAndn f s
  | .orn f => Sys2Proof.Machine.execOrn f s
  | .lut3 f => Sys2Proof.Machine.execLut3 f s
  | .shl f => Sys2Proof.Machine.execShl f s
  | .shr f => Sys2Proof.Machine.execShr f s
  | .sar f => Sys2Proof.Machine.execSar f s
  | .rol f => Sys2Proof.Machine.execRol f s
  | .fshl f => Sys2Proof.Machine.execFshl f s
  | .fshr f => Sys2Proof.Machine.execFshr f s
  | .clz f => Sys2Proof.Machine.execClz f s
  | .ctz f => Sys2Proof.Machine.execCtz f s
  | .popc f => Sys2Proof.Machine.execPopc f s
  | .sext f => Sys2Proof.Machine.execSext f s
  | .zext f => Sys2Proof.Machine.execZext f s
  | .bfx f => Sys2Proof.Machine.execBfx f s
  | .bfxu f => Sys2Proof.Machine.execBfxu f s
  | .bfi f => Sys2Proof.Machine.execBfi f s
  | .sel f => Sys2Proof.Machine.execSel f s
  | .cmpEq f => Sys2Proof.Machine.execCmpEq f s
  | .cmpNe f => Sys2Proof.Machine.execCmpNe f s
  | .cmpLt f => Sys2Proof.Machine.execCmpLt f s
  | .cmpLe f => Sys2Proof.Machine.execCmpLe f s
  | .cmpGt f => Sys2Proof.Machine.execCmpGt f s
  | .cmpGe f => Sys2Proof.Machine.execCmpGe f s
  | .cmpLtu f => Sys2Proof.Machine.execCmpLtu f s
  | .cmpLeu f => Sys2Proof.Machine.execCmpLeu f s
  | .cmpGtu f => Sys2Proof.Machine.execCmpGtu f s
  | .cmpGeu f => Sys2Proof.Machine.execCmpGeu f s
  | .tstZ f => Sys2Proof.Machine.execTstZ f s
  | .tstNz f => Sys2Proof.Machine.execTstNz f s
  | .plut f => Sys2Proof.Machine.execPlut f s
  | .pget f => Sys2Proof.Machine.execPget f s
  | .pput f => Sys2Proof.Machine.execPput f s
  | .fadd f => Sys2Proof.Machine.execFadd f s
  | .fsub f => Sys2Proof.Machine.execFsub f s
  | .fmul f => Sys2Proof.Machine.execFmul f s
  | .ffma f => Sys2Proof.Machine.execFfma f s
  | .fmin f => Sys2Proof.Machine.execFmin f s
  | .fmax f => Sys2Proof.Machine.execFmax f s
  | .fcvtIf f => Sys2Proof.Machine.execFcvtIf f s
  | .fcvtFi f => Sys2Proof.Machine.execFcvtFi f s
  | .fcmpEq f => Sys2Proof.Machine.execFcmpEq f s
  | .fcmpLt f => Sys2Proof.Machine.execFcmpLt f s
  | .fcmpLe f => Sys2Proof.Machine.execFcmpLe f s
  | .fcmpUn f => Sys2Proof.Machine.execFcmpUn f s
  | .acap f => Sys2Proof.Machine.execAcap f s
  | .amov f => Sys2Proof.Machine.execAmov f s
  | .aset f => Sys2Proof.Machine.execAset f s
  | .aadd f => Sys2Proof.Machine.execAadd f s
  | .anrw f => Sys2Proof.Machine.execAnrw f s
  | .aget f => Sys2Proof.Machine.execAget f s
  | .ld f => Sys2Proof.Machine.execLd f s
  | .ldu f => Sys2Proof.Machine.execLdu f s
  | .st f => Sys2Proof.Machine.execSt f s
  | .lds f => Sys2Proof.Machine.execLds f s
  | .pchk f => Sys2Proof.Machine.execPchk f s
  | .ldpf f => Sys2Proof.Machine.execLdpf f s
  | .br f => Sys2Proof.Machine.execBr f s
  | .brx f => Sys2Proof.Machine.execBrx f s
  | .call f => Sys2Proof.Machine.execCall f s
  | .ret f => Sys2Proof.Machine.execRet f s
  | .mloop f => Sys2Proof.Machine.execMloop f s
  | .brlc f => Sys2Proof.Machine.execBrlc f s
  | .rbset f => Sys2Proof.Machine.execRbset f s
  | .semsig f => Sys2Proof.Machine.execSemsig f s
  | .semwait f => Sys2Proof.Machine.execSemwait f s
  | .semtry f => Sys2Proof.Machine.execSemtry f s
  | .mtxlock f => Sys2Proof.Machine.execMtxlock f s
  | .mtxtry f => Sys2Proof.Machine.execMtxtry f s
  | .mtxfree f => Sys2Proof.Machine.execMtxfree f s
  | .xempty f => Sys2Proof.Machine.execXempty f s
  | .xfullq f => Sys2Proof.Machine.execXfullq f s
  | .eqdrain f => Sys2Proof.Machine.execEqdrain f s
  | .eqlevel f => Sys2Proof.Machine.execEqlevel f s
  | .mfs f => Sys2Proof.Machine.execMfs f s
  | .mts f => Sys2Proof.Machine.execMts f s
  | .cwbind f => Sys2Proof.Machine.execCwbind f s
  | .waitwp f => Sys2Proof.Machine.execWaitwp f s
  | .done f => Sys2Proof.Machine.execDone f s
  | .pause f => Sys2Proof.Machine.execPause f s
  | .vmov f => Sys2Proof.Machine.execVmov f s
  | .vsplatV f => Sys2Proof.Machine.execVsplatV f s
  | .vsplatSlot f => Sys2Proof.Machine.execVsplatSlot f s
  | .vzero f => Sys2Proof.Machine.execVzero f s
  | .vtag f => Sys2Proof.Machine.execVtag f s
  | .vadd f => Sys2Proof.Machine.execVadd f s
  | .vsub f => Sys2Proof.Machine.execVsub f s
  | .vmul f => Sys2Proof.Machine.execVmul f s
  | .vfma f => Sys2Proof.Machine.execVfma f s
  | .vfms f => Sys2Proof.Machine.execVfms f s
  | .vfnma f => Sys2Proof.Machine.execVfnma f s
  | .vdiv f => Sys2Proof.Machine.execVdiv f s
  | .vmin f => Sys2Proof.Machine.execVmin f s
  | .vmax f => Sys2Proof.Machine.execVmax f s
  | .vabs f => Sys2Proof.Machine.execVabs f s
  | .vneg f => Sys2Proof.Machine.execVneg f s
  | .vclamp f => Sys2Proof.Machine.execVclamp f s
  | .vsgn f => Sys2Proof.Machine.execVsgn f s
  | .vround f => Sys2Proof.Machine.execVround f s
  | .vrsq f => Sys2Proof.Machine.execVrsq f s
  | .vrcp f => Sys2Proof.Machine.execVrcp f s
  | .vexp2 f => Sys2Proof.Machine.execVexp2 f s
  | .vlog2 f => Sys2Proof.Machine.execVlog2 f s
  | .vactRelu f => Sys2Proof.Machine.execVactRelu f s
  | .vactGelu f => Sys2Proof.Machine.execVactGelu f s
  | .vactSilu f => Sys2Proof.Machine.execVactSilu f s
  | .vactTanh f => Sys2Proof.Machine.execVactTanh f s
  | .vactSigm f => Sys2Proof.Machine.execVactSigm f s
  | .vdot4 f => Sys2Proof.Machine.execVdot4 f s
  | .vand f => Sys2Proof.Machine.execVand f s
  | .vor f => Sys2Proof.Machine.execVor f s
  | .vxor f => Sys2Proof.Machine.execVxor f s
  | .vlut3 f => Sys2Proof.Machine.execVlut3 f s
  | .vshl f => Sys2Proof.Machine.execVshl f s
  | .vshr f => Sys2Proof.Machine.execVshr f s
  | .vsar f => Sys2Proof.Machine.execVsar f s
  | .vfshl f => Sys2Proof.Machine.execVfshl f s
  | .vfshr f => Sys2Proof.Machine.execVfshr f s
  | .vpopc f => Sys2Proof.Machine.execVpopc f s
  | .vclz f => Sys2Proof.Machine.execVclz f s
  | .vcmpEq f => Sys2Proof.Machine.execVcmpEq f s
  | .vcmpNe f => Sys2Proof.Machine.execVcmpNe f s
  | .vcmpLt f => Sys2Proof.Machine.execVcmpLt f s
  | .vcmpLe f => Sys2Proof.Machine.execVcmpLe f s
  | .vcmpGt f => Sys2Proof.Machine.execVcmpGt f s
  | .vcmpGe f => Sys2Proof.Machine.execVcmpGe f s
  | .vcmpUn f => Sys2Proof.Machine.execVcmpUn f s
  | .vclass f => Sys2Proof.Machine.execVclass f s
  | .vsel f => Sys2Proof.Machine.execVsel f s
  | .klut f => Sys2Proof.Machine.execKlut f s
  | .ksetp f => Sys2Proof.Machine.execKsetp f s
  | .kpopc f => Sys2Proof.Machine.execKpopc f s
  | .kfirst f => Sys2Proof.Machine.execKfirst f s
  | .vcvt f => Sys2Proof.Machine.execVcvt f s
  | .vquant f => Sys2Proof.Machine.execVquant f s
  | .vdequant f => Sys2Proof.Machine.execVdequant f s
  | .vmxpack f => Sys2Proof.Machine.execVmxpack f s
  | .vmxunpk f => Sys2Proof.Machine.execVmxunpk f s
  | .vredAdd f => Sys2Proof.Machine.execVredAdd f s
  | .vredMax f => Sys2Proof.Machine.execVredMax f s
  | .vredMin f => Sys2Proof.Machine.execVredMin f s
  | .vscanAdd f => Sys2Proof.Machine.execVscanAdd f s
  | .vperm f => Sys2Proof.Machine.execVperm f s
  | .vrot f => Sys2Proof.Machine.execVrot f s
  | .vzip f => Sys2Proof.Machine.execVzip f s
  | .vunzip f => Sys2Proof.Machine.execVunzip f s
  | .vcompress f => Sys2Proof.Machine.execVcompress f s
  | .vexpand f => Sys2Proof.Machine.execVexpand f s
  | .vgetl f => Sys2Proof.Machine.execVgetl f s
  | .vsetl f => Sys2Proof.Machine.execVsetl f s
  | .vld f => Sys2Proof.Machine.execVld f s
  | .vlds f => Sys2Proof.Machine.execVlds f s
  | .vldx f => Sys2Proof.Machine.execVldx f s
  | .vldsp f => Sys2Proof.Machine.execVldsp f s
  | .vst f => Sys2Proof.Machine.execVst f s
  | .vsts f => Sys2Proof.Machine.execVsts f s
  | .vstx f => Sys2Proof.Machine.execVstx f s
  | .qcfg f => Sys2Proof.Machine.execQcfg f s
  | .qloop f => Sys2Proof.Machine.execQloop f s
  | .qreset f => Sys2Proof.Machine.execQreset f s
  | .vpchk f => Sys2Proof.Machine.execVpchk f s
  | .mma f => Sys2Proof.Machine.execMma f s
  | .mmaz f => Sys2Proof.Machine.execMmaz f s
  | .mmat f => Sys2Proof.Machine.execMmat f s
  | .mmaq f => Sys2Proof.Machine.execMmaq f s
  | .mmamx f => Sys2Proof.Machine.execMmamx f s
  | .mmast f => Sys2Proof.Machine.execMmast f s
  | .mmac f => Sys2Proof.Machine.execMmac f s
  | .mmacz f => Sys2Proof.Machine.execMmacz f s
  | .tzero g q td tag sh => Sys2Proof.Machine.execTzero g q td tag sh s
  | .tload g q td as tag sa sh => Sys2Proof.Machine.execTload g q td as tag sa sh s
  | .tstore g q ts ad tag rm sh => Sys2Proof.Machine.execTstore g q ts ad tag rm sh s
  | .tstoreq g q ts ad tag rm sg sh am gs => Sys2Proof.Machine.execTstoreq g q ts ad tag rm sg sh am gs s
  | .tstoremx g q ts ad tag rm sh am => Sys2Proof.Machine.execTstoremx g q ts ad tag rm sh am s
  | .tbias g q td as tag sa sh => Sys2Proof.Machine.execTbias g q td as tag sa sh s
  | .tscale g q td ar ac tag sh => Sys2Proof.Machine.execTscale g q td ar ac tag sh s
  | .tact g q td fn sh => Sys2Proof.Machine.execTact g q td fn sh s
  | .tredr g q ts ad op sh => Sys2Proof.Machine.execTredr g q ts ad op sh s
  | .tredc g q ts ad op sh => Sys2Proof.Machine.execTredc g q ts ad op sh s
  | .ttrans g q td ts sh => Sys2Proof.Machine.execTtrans g q td ts sh s
  | .ttov g q ts v row cnt1 => Sys2Proof.Machine.execTtov g q ts v row cnt1 s
  | .tfromv g q td v row cnt1 => Sys2Proof.Machine.execTfromv g q td v row cnt1 s
  | .tclamp g q td xlo xhi sh => Sys2Proof.Machine.execTclamp g q td xlo xhi sh s
  | .mcast g q ad as ranks len1 => Sys2Proof.Machine.execMcast g q ad as ranks len1 s
  | .mcwait g q rank count => Sys2Proof.Machine.execMcwait g q rank count s
  | .mcfgKset g q kd xs => Sys2Proof.Machine.execMcfgKset g q kd xs s
  | .mcfgKput g q kd xs h => Sys2Proof.Machine.execMcfgKput g q kd xs h s
  | .mcfgKlut g q kd ka kb kc tt => Sys2Proof.Machine.execMcfgKlut g q kd ka kb kc tt s
  | .mtest g q => Sys2Proof.Machine.execMtest g q s
  | .mstat g q xd sel => Sys2Proof.Machine.execMstat g q xd sel s
  | .tcopy g q td ts sh => Sys2Proof.Machine.execTcopy g q td ts sh s
  | .spmm f => Sys2Proof.Machine.execSpmm f s
  | .spmmz f => Sys2Proof.Machine.execSpmmz f s
  | .spmmb f => Sys2Proof.Machine.execSpmmb f s
  | .spmv f => Sys2Proof.Machine.execSpmv f s
  | .sddmm f => Sys2Proof.Machine.execSddmm f s
  | .spgath f => Sys2Proof.Machine.execSpgath f s
  | .spscat f => Sys2Proof.Machine.execSpscat f s
  | .spseg f => Sys2Proof.Machine.execSpseg f s
  | .spisect f => Sys2Proof.Machine.execSpisect f s
  | .spunion f => Sys2Proof.Machine.execSpunion f s
  | .spcsr f => Sys2Proof.Machine.execSpcsr f s
  | .spdense f => Sys2Proof.Machine.execSpdense f s
  | .sptrans f => Sys2Proof.Machine.execSptrans f s
  | .spcount f => Sys2Proof.Machine.execSpcount f s
  | .spscan f => Sys2Proof.Machine.execSpscan f s
  | .embag f => Sys2Proof.Machine.execEmbag f s
  | .spcfg g q item xs => Sys2Proof.Machine.execSpcfg g q item xs s
  | .spstat g q xd sel => Sys2Proof.Machine.execSpstat g q xd sel s
  | .sort f => Sys2Proof.Machine.execSort f s
  | .sortkv f => Sys2Proof.Machine.execSortkv f s
  | .topk f => Sys2Proof.Machine.execTopk f s
  | .topkv f => Sys2Proof.Machine.execTopkv f s
  | .merge f => Sys2Proof.Machine.execMerge f s
  | .mergekv f => Sys2Proof.Machine.execMergekv f s
  | .argsort f => Sys2Proof.Machine.execArgsort f s
  | .kth f => Sys2Proof.Machine.execKth f s
  | .unique f => Sys2Proof.Machine.execUnique f s
  | .partn f => Sys2Proof.Machine.execPartn f s
  | .histo f => Sys2Proof.Machine.execHisto f s
  | .search f => Sys2Proof.Machine.execSearch f s
  | .srtcfg g q item xs => Sys2Proof.Machine.execSrtcfg g q item xs s
  | .srtstat g q xd sel => Sys2Proof.Machine.execSrtstat g q xd sel s
  | .xcopy f => Sys2Proof.Machine.execXcopy f s
  | .xcopyw f => Sys2Proof.Machine.execXcopyw f s
  | .xcopyc f => Sys2Proof.Machine.execXcopyc f s
  | .xcopyh f => Sys2Proof.Machine.execXcopyh f s
  | .xfill f => Sys2Proof.Machine.execXfill f s
  | .xgath f => Sys2Proof.Machine.execXgath f s
  | .xred f => Sys2Proof.Machine.execXred f s
  | .xconv f => Sys2Proof.Machine.execXconv f s
  | .xlayout f => Sys2Proof.Machine.execXlayout f s
  | .xpush f => Sys2Proof.Machine.execXpush f s
  | .xpull f => Sys2Proof.Machine.execXpull f s
  | .xstream g q k ar => Sys2Proof.Machine.execXstream g q k ar s
  | .xstrend g q k => Sys2Proof.Machine.execXstrend g q k s
  | .xwptr g q xd c => Sys2Proof.Machine.execXwptr g q xd c s
  | .xchan g q c ad => Sys2Proof.Machine.execXchan g q c ad s
  | .xchanClose g q c => Sys2Proof.Machine.execXchanClose g q c s
  | .xabort g q c => Sys2Proof.Machine.execXabort g q c s
  | .amoadd f => Sys2Proof.Machine.execAmoadd f s
  | .amomax f => Sys2Proof.Machine.execAmomax f s
  | .amomin f => Sys2Proof.Machine.execAmomin f s
  | .amoand f => Sys2Proof.Machine.execAmoand f s
  | .amoor f => Sys2Proof.Machine.execAmoor f s
  | .amoxch f => Sys2Proof.Machine.execAmoxch f s
  | .amocas f => Sys2Proof.Machine.execAmocas f s
  | .phase g q scope group => Sys2Proof.Machine.execPhase g q scope group s
  | .fence g q scope => Sys2Proof.Machine.execFence g q scope s
  | .cbar g q => Sys2Proof.Machine.execCbar g q s
  | .balloc g q xd ad slot => Sys2Proof.Machine.execBalloc g q xd ad slot s
  | .bref g q as => Sys2Proof.Machine.execBref g q as s
  | .bdrop g q as => Sys2Proof.Machine.execBdrop g q as s
  | .bxfer g q as xa rights => Sys2Proof.Machine.execBxfer g q as xa rights s
  | .gsubmit g q xq ar => Sys2Proof.Machine.execGsubmit g q xq ar s
  | .gsignal g q ab n => Sys2Proof.Machine.execGsignal g q ab n s
  | .gwait g q xd xq => Sys2Proof.Machine.execGwait g q xd xq s
  | .arrwait g q ab xv => Sys2Proof.Machine.execArrwait g q ab xv s
  | .hnotify g q xv xp => Sys2Proof.Machine.execHnotify g q xv xp s
  | .xpend g q xd => Sys2Proof.Machine.execXpend g q xd s
  | .trap f => Sys2Proof.Machine.execTrap f s
  | .eret f => Sys2Proof.Machine.execEret f s
  | .ecallTime f => Sys2Proof.Machine.execEcallTime f s
  | .ecallErrorCount f => Sys2Proof.Machine.execEcallErrorCount f s
  | .ecallLocation f => Sys2Proof.Machine.execEcallLocation f s
  | .ecallDiscovery f => Sys2Proof.Machine.execEcallDiscovery f s
  | .ecallUnsupported f => Sys2Proof.Machine.execEcallUnsupported f s
  | .ctxsave f => Sys2Proof.Machine.execCtxsave f s
  | .ctxload f => Sys2Proof.Machine.execCtxload f s
  | .leaseq f => Sys2Proof.Machine.execLeaseq f s
  | .sechash f => Sys2Proof.Machine.execSechash f s
  | .secver f => Sys2Proof.Machine.execSecver f s
  | .secmeas f => Sys2Proof.Machine.execSecmeas f s
  | .secatt f => Sys2Proof.Machine.execSecatt f s
  | .wdpet f => Sys2Proof.Machine.execWdpet f s
  | .bblog f => Sys2Proof.Machine.execBblog f s
  | .fwslotCommit f => Sys2Proof.Machine.execFwslotCommit f s
  | .longLatencyResult k c ix => Sys2Proof.Machine.execLongLatencyResult k c ix s
  | .semGrant k n => Sys2Proof.Machine.execSemGrant k n s
  | .mutexGrant k m => Sys2Proof.Machine.execMutexGrant k m s
  | .waitwpRelease k c => Sys2Proof.Machine.execWaitwpRelease k c s
  | .eqdrainRelease k c => Sys2Proof.Machine.execEqdrainRelease k c s
  | .pauseWake k c => Sys2Proof.Machine.execPauseWake k c s
  | .pauseTimeout k c => Sys2Proof.Machine.execPauseTimeout k c s
  | .queuePushResume k c => Sys2Proof.Machine.execQueuePushResume k c s
  | .engineWaitGrant k e => Sys2Proof.Machine.execEngineWaitGrant k e s
  | .engineEntryStart k e => Sys2Proof.Machine.execEngineEntryStart k e s
  | .engineEntryComplete k e => Sys2Proof.Machine.execEngineEntryComplete k e s
  | .farEndReply k => Sys2Proof.Machine.execFarEndReply k s
  | .postedWriteLand k ix => Sys2Proof.Machine.execPostedWriteLand k ix s
  | .groupRendezvous k kind => Sys2Proof.Machine.execGroupRendezvous k kind s
  | .mcastArrival k => Sys2Proof.Machine.execMcastArrival k s
  | .mcwaitRelease k => Sys2Proof.Machine.execMcwaitRelease k s
  | .selftestCount k => Sys2Proof.Machine.execSelftestCount k s
  | .selftestTimer k => Sys2Proof.Machine.execSelftestTimer k s
  | .publicationComplete k ix => Sys2Proof.Machine.execPublicationComplete k ix s
  | .launchBankSwap k => Sys2Proof.Machine.execLaunchBankSwap k s
  | .taskEndByFault k => Sys2Proof.Machine.execTaskEndByFault k s
  | .preemptSwap k => Sys2Proof.Machine.execPreemptSwap k s
  | .taskResume k => Sys2Proof.Machine.execTaskResume k s
  | .nodeAccept ix => Sys2Proof.Machine.execNodeAccept ix s
  | .schedulerDecision => Sys2Proof.Machine.execSchedulerDecision s
  | .nodeRetire n => Sys2Proof.Machine.execNodeRetire n s
  | .eventNodeSatisfied n => Sys2Proof.Machine.execEventNodeSatisfied n s
  | .loopIteration n => Sys2Proof.Machine.execLoopIteration n s
  | .eventRecordWrite asid => Sys2Proof.Machine.execEventRecordWrite asid s
  | .msixFirstTimer v => Sys2Proof.Machine.execMsixFirstTimer v s
  | .msixIdleTimer v => Sys2Proof.Machine.execMsixIdleTimer v s
  | .msixUnmask v => Sys2Proof.Machine.execMsixUnmask v s
  | .hostRegisterWrite addr val => Sys2Proof.Machine.execHostRegisterWrite addr val s
  | .hostWindowRead w off len => Sys2Proof.Machine.execHostWindowRead w off len s
  | .hostWindowWrite w off data => Sys2Proof.Machine.execHostWindowWrite w off data s
  | .atsInvalidation pasid page => Sys2Proof.Machine.execAtsInvalidation pasid page s
  | .atsInvalidationComplete pasid page => Sys2Proof.Machine.execAtsInvalidationComplete pasid page s
  | .translationResponse pasid page ok => Sys2Proof.Machine.execTranslationResponse pasid page ok s
  | .replayRelease k => Sys2Proof.Machine.execReplayRelease k s
  | .hostPageRefused k => Sys2Proof.Machine.execHostPageRefused k s
  | .streamOpen link f => Sys2Proof.Machine.execStreamOpen link f s
  | .streamData link f => Sys2Proof.Machine.execStreamData link f s
  | .streamClose link f => Sys2Proof.Machine.execStreamClose link f s
  | .credit link f => Sys2Proof.Machine.execCredit link f s
  | .flitCrcReplay link f => Sys2Proof.Machine.execFlitCrcReplay link f s
  | .pushData m => Sys2Proof.Machine.execPushData m s
  | .pushDone m => Sys2Proof.Machine.execPushDone m s
  | .pushAck m => Sys2Proof.Machine.execPushAck m s
  | .pullReq m => Sys2Proof.Machine.execPullReq m s
  | .pullData m => Sys2Proof.Machine.execPullData m s
  | .pullDone m => Sys2Proof.Machine.execPullDone m s
  | .epoch m => Sys2Proof.Machine.execEpoch m s
  | .odsogaUnknownType m => Sys2Proof.Machine.execOdsogaUnknownType m s
  | .moduleUnreachable m => Sys2Proof.Machine.execModuleUnreachable m s
  | .odsogaLaneLoss port => Sys2Proof.Machine.execOdsogaLaneLoss port s
  | .asidCreate asid gen ringBase ringK => Sys2Proof.Machine.execAsidCreate asid gen ringBase ringK s
  | .asidRetire asid gen => Sys2Proof.Machine.execAsidRetire asid gen s
  | .asidSweepComplete asid => Sys2Proof.Machine.execAsidSweepComplete asid s
  | .bufAlloc asid gen template => Sys2Proof.Machine.execBufAlloc asid gen template s
  | .bufDrop asid gen handle => Sys2Proof.Machine.execBufDrop asid gen handle s
  | .map w asid gen handle off rights => Sys2Proof.Machine.execMap w asid gen handle off rights s
  | .unmap w => Sys2Proof.Machine.execUnmap w s
  | .sync asid gen => Sys2Proof.Machine.execSync asid gen s
  | .queueCfg q w0 w1 => Sys2Proof.Machine.execQueueCfg q w0 w1 s
  | .submit q asid gen record => Sys2Proof.Machine.execSubmit q asid gen record s
  | .quota o granules => Sys2Proof.Machine.execQuota o granules s
  | .remoteExport asid gen handle base limit rights => Sys2Proof.Machine.execRemoteExport asid gen handle base limit rights s
  | .remoteImport asid gen target module epoch base limit rights desc => Sys2Proof.Machine.execRemoteImport asid gen target module epoch base limit rights desc s
  | .dieOffline slot force => Sys2Proof.Machine.execDieOffline slot force s
  | .dieOfflineComplete slot => Sys2Proof.Machine.execDieOfflineComplete slot s
  | .evacuationComplete slot => Sys2Proof.Machine.execEvacuationComplete slot s
  | .dieOnline slot => Sys2Proof.Machine.execDieOnline slot s
  | .readDesc oh => Sys2Proof.Machine.execReadDesc oh s
  | .foxRead q o => Sys2Proof.Machine.execFoxRead q o s
  | .mailboxUnknownCode code => Sys2Proof.Machine.execMailboxUnknownCode code s
  | .getVersion req => Sys2Proof.Machine.execGetVersion req s
  | .getCapabilities req => Sys2Proof.Machine.execGetCapabilities req s
  | .negotiateAlgorithms req => Sys2Proof.Machine.execNegotiateAlgorithms req s
  | .getDigests req => Sys2Proof.Machine.execGetDigests req s
  | .getCertificate req => Sys2Proof.Machine.execGetCertificate req s
  | .challenge req => Sys2Proof.Machine.execChallenge req s
  | .getMeasurements req indices => Sys2Proof.Machine.execGetMeasurements req indices s
  | .spdmUnsupported req => Sys2Proof.Machine.execSpdmUnsupported req s
  | .lifecycle target message signature key => Sys2Proof.Machine.execLifecycle target message signature key s
  | .ringRead die => Sys2Proof.Machine.execRingRead die s
  | .ringRelease die => Sys2Proof.Machine.execRingRelease die s
  | .islandRead ix => Sys2Proof.Machine.execIslandRead ix s
  | .pkgRead => Sys2Proof.Machine.execPkgRead s
  | .pkgSet w => Sys2Proof.Machine.execPkgSet w s
  | .limitSet ix mhz => Sys2Proof.Machine.execLimitSet ix mhz s
  | .discRead index => Sys2Proof.Machine.execDiscRead index s
  | .reset cold => Sys2Proof.Machine.execReset cold s
  | .coldReset => Sys2Proof.Machine.execColdReset s
  | .warmReset => Sys2Proof.Machine.execWarmReset s
  | .bootZeroFillDone => Sys2Proof.Machine.execBootZeroFillDone s
  | .watchdogExpiry die => Sys2Proof.Machine.execWatchdogExpiry die s
  | .heartbeatTimeout => Sys2Proof.Machine.execHeartbeatTimeout s
  | .refreshInterval st => Sys2Proof.Machine.execRefreshInterval st s
  | .refreshTakeover st => Sys2Proof.Machine.execRefreshTakeover st s
  | .rowActivationThreshold st bank row => Sys2Proof.Machine.execRowActivationThreshold st bank row s
  | .rfmHoldEnd st bank => Sys2Proof.Machine.execRfmHoldEnd st bank s
  | .correctableError u => Sys2Proof.Machine.execCorrectableError u s
  | .uncorrectableError p => Sys2Proof.Machine.execUncorrectableError p s
  | .dieFailure slot => Sys2Proof.Machine.execDieFailure slot s
  | .powerCapTick pavg => Sys2Proof.Machine.execPowerCapTick pavg s
  | .thermalThrottle ix temp => Sys2Proof.Machine.execThermalThrottle ix temp s
  | .thermalRelease ix temp => Sys2Proof.Machine.execThermalRelease ix temp s
  | .computeTrip ix temp => Sys2Proof.Machine.execComputeTrip ix temp s
  | .islandTrip ix temp => Sys2Proof.Machine.execIslandTrip ix temp s
  | .taskKilled k => Sys2Proof.Machine.execTaskKilled k s
  | .moduleJoinsDomain => Sys2Proof.Machine.execModuleJoinsDomain s

end Sys2Proof.Machine
end

