-- ==== Sys2Proof/Machine/Fetch.lean ====
section
/-! DEFINITION. Fetching and decoding the next instruction of a core (02 R31, R33; 03 R34, R50). -/

namespace Sys2Proof.Machine

/-- What a fetch gives: an instruction, or the trap it raises (02 R33 steps 1 and 2). -/
inductive Fetched where
  | ok (i : Instr)
  | bad (e : Stop)

/-- Decode two words for core c of cell k. -/
noncomputable def State.decodeAt (s : State) (k : Nat) (c : CoreIx) (w0 w1 : Nat) : Fetched :=
  match decode c (s.cls k) w0 w1 with
  | .ok i => .ok i
  | .error .illegal => .bad (.trap cILLEGAL (wNat w0))
  | .error (.reserved j) => .bad (.trap cRESERVED (wNat (if j = 0 then w0 else w1)))

/-- Fetch and decode at the program counter of core c of cell k. An MLOOP whose body leaves the scratchpad fails at the
fetch whatever its other fields (04 R74). -/
noncomputable def State.fetchDecode (s : State) (k : Nat) (c : CoreIx) : State × Fetched :=
  let pc := (s.core k c).pc.toNat
  if s.padSize k < pc + 8 then (s, .bad (.trap cBOUNDS (wNat pc)))
  else
    let (s, w0) := s.codeWord k pc
    if isTwo (opcOf w0) then
      if s.padSize k < pc + 16 then (s, .bad (.trap cBOUNDS (wNat (pc + 8))))
      else
        let (s, w1) := s.codeWord k (pc + 8)
        (s, s.decodeAt k c w0 w1)
    else if opcOf w0 = 0x051 then
      match s.scanBody k pc (field w0 23 6 + 1) 8 with
      | (s, .error a) => (s, .bad (.trap cBOUNDS (wNat a)))
      | (s, .ok _) => (s, s.decodeAt k c w0 0)
    else (s, s.decodeAt k c w0 0)

/-! ## Where a pre-emption stops a modulo loop (16 R311) -/

/-- Does a core in a modulo loop pass over an instruction: its stage predicate is 0, or its guard, where that is read once at issue (02 R20,
R26; 03 R36)? -/
def Core.squashes (r : Core) (i : Instr) : Bool :=
  let w := ((encode i)[0]?).getD 0
  r.loop.isSome && (!r.stageOn || (!(decide (0x080 ≤ opcOf w) && decide (opcOf w < 0x140)) && !r.guard (rawG w)))

/-- A core in a modulo loop goes to the next position that issues, at most n positions on: the decrements of RBASE on the way belong to
instructions that have issued. -/
noncomputable def State.skipSquashed : Nat → State → Nat → CoreIx → State
  | 0, s, _, _ => s
  | n + 1, s, k, c =>
    match s.fetchDecode k c with
    | (t, .ok i) => if (s.core k c).squashes i then State.skipSquashed n (t.squash k c (encode i).length) k c else s
    | (_, .bad _) => s

/-- The positions that a core's loop has still to come to. -/
def Core.positions (r : Core) : Nat :=
  match r.run, r.loop with
  | .running, some l => (l.trip + stages l.n l.ii - l.round) * l.n
  | _, _ => 0

/-- The cores of a victim stand at the next instruction that issues (16 R311). -/
noncomputable def State.settleLoops (s : State) : State :=
  ((s.cells.filter (fun e => e.2.preempt)).map (·.1)).foldl
    (fun s k => [CoreIx.e, .v, .x].foldl (fun s c => s.skipSquashed (s.core k c).positions k c) s) s

end Sys2Proof.Machine
end

