-- ==== Sys2Proof/Machine/Preempt.lean ====
section
/-! DEFINITION. Claims of banks by a newcomer, and the spill records that they write for a suspended task (10 R193; 15 R299 to R302;
16 R309 to R312). -/

namespace Sys2Proof.Machine

/-- A bank: its kind, its index, and for a granule its number (16 R309). -/
abbrev BankKey := Nat × Nat × Nat

def kScalar (c : CoreIx) : BankKey := (0, coreNum c, 0)
def kGroup (unit g : Nat) : BankKey := (1, 8 * unit + g, 0)
def kPorts (unit : Nat) : BankKey := (2, unit, 0)
def kTile (t : Nat) : BankKey := (3, t, 0)
def kMatrix : BankKey := (4, 0, 0)
def kQueue (e : EngIx) : BankKey := (5, match e with | .primary => 0 | .transfer => 1, 0)
def kSync : BankKey := (6, 0, 0)
def kGranule (g : Nat) : BankKey := (7, 0, g)

/-- The core that owns a bank's record (15 R299). -/
def bankOwner (key : BankKey) : CoreIx :=
  match key.1 with
  | 0 => if key.2.1 = 0 then .e else if key.2.1 = 1 then .v else .x
  | 1 => if key.2.1 < 8 then .v else .e
  | 2 => if key.2.1 = 0 then .v else .e
  | 3 => .e
  | 4 => .e
  | 5 => if key.2.1 = 0 then .e else .x
  | _ => .x

/-- The core whose vector unit a bank of kind 1 or 2 belongs to. -/
def unitCore (u : Nat) : CoreIx := if u = 0 then .v else .e

/-! ## Records (15 R299, R300; 16 R309, R312) -/

/-- Values packed into words, per values of w bits. -/
def packed (w per : Nat) (l : List Nat) : List Word :=
  (List.range ((l.length + per - 1) / per)).map (fun i =>
    wNat (((l.drop (i * per)).take per).zipIdx.map (fun p => p.1 % 2 ^ w * 2 ^ (w * p.2))).sum)

def chanCode : ChanState → Nat
  | .closed => 0
  | .open_ => 1
  | .aborted => 2

/-- The 138 words of the sync bank. -/
def Bank.syncWords (b : Bank) : List Word :=
  packed 16 4 (b.sems.toList.map (·.val)) ++ packed 32 2 (b.sems.toList.map (·.credit)) ++
    packed 2 32 (b.mutexes.toList.map (fun m => match m.owner with | none => 0 | some .e => 1 | some .v => 2 | some .x => 3)) ++
    [wNat b.pb] ++ b.chans.toList.flatMap (fun c => c.bind.words ++ [wNat c.fo, wNat c.wp, wNat (chanCode c.st)])

/-- Does an engine-queue bank hold something: entries, settings, or streams? -/
def Bank.queueFull (b : Bank) (i : Nat) : Bool :=
  if i = 0 then
    b.prim.entries != [] || b.sp.ax != 0 || b.sp.ay != 0 || b.sp.aq != 0 || b.so.p0 != 0 || b.so.p1 != 0 || b.so.result != 0
  else b.xfer.entries != [] || b.streams.toList.any (·.open_)

/-- The payload of an engine-queue record: its format and length are Theok's, so both are free (log 2); whole, at most 512 or 2,048
words. -/
def State.queueWords (s : State) (i : Nat) : State × List Word :=
  let n := Config.freeWord s.free % (if i = 0 then 511 else 2047)
  ({ s with free := s.free + n + 1 }, (List.range n).map (fun j => wNat (Config.freeWord (s.free + 1 + j))))

/-- The payload of a bank's record as the suspended task left the bank, none where there is nothing to keep. -/
def State.payload (s : State) (k : Nat) (x : Suspended) (key : BankKey) : State × Option (List Word) :=
  let v : Contents := ⟨x.bank, x.mem, x.bad⟩
  let (kind, ix, g) := key
  let c := bankOwner key
  let r := x.bank.core c
  match kind with
  | 0 => (s, some (r.section_ false r.pc (r.run == .done) (((v.header (s.cls k) k c 0).drop 1).take 4)))
  | 1 =>
    let u := unitCore (ix / 8)
    (s, some ((List.range 8).flatMap (fun j => v.vreg k u (8 * (ix % 8) + j))))
  | 2 =>
    let u := x.bank.unitOf (unitCore ix)
    (s, some ((x.bank.core (unitCore ix)).liveKs.flatMap u.mask ++ u.usedPorts.flatMap (fun i => (vget u.ports i {}).part) ++
      u.slotWords ++ u.gens.words))
  | 3 => (s, if vget x.bank.mx.tags ix 0 = 0 then none else some (v.tile k ix))
  | 4 => (s, some (r.liveKs.flatMap x.bank.mx.mask ++ x.bank.mx.gens.words ++ x.bank.mx.counters))
  | 5 =>
    if x.bank.queueFull ix then
      let (s, ws) := s.queueWords ix
      (s, some ws)
    else (s, none)
  | 6 => (s, some x.bank.syncWords)
  | _ => (s, if nsHas x.bank.touched g then some (v.words (padBase k + 4096 * g) 512) else none)

/-- A record: its header word, its payload, and the tag under the task's key. The length counts every word. -/
def record_ (b : Bank) (key : BankKey) (ws : List Word) : List Word :=
  let body := wNat (key.1 * 2 ^ 56 + key.2.1 * 2 ^ 48 + key.2.2 % 2 ^ 16 * 2 ^ 32 + (ws.length + 2)) :: ws
  body ++ [Config.keyedTag b.ctxKey body]

/-! ## Places (10 R193; 15 R300) -/

/-- The carve-out of a core: its first byte and its end (05 R98). -/
def State.carve (s : State) (k : Nat) (b : Bank) (c : CoreIx) : Nat × Nat :=
  let n := fun c => field (b.secWord c 2) 12 16 * 4096
  let top := s.padSize k
  match c with
  | .e => (top - n .e, top)
  | .v => (top - n .e - n .v, top - n .e)
  | .x => (top - n .e - n .v - n .x, top - n .e - n .v)

/-- The lowest free place of n bytes in a core's carve-out. -/
def State.carvePlace (s : State) (k : Nat) (b : Bank) (c : CoreIx) (n : Nat) : Option Nat :=
  let (lo, hi) := s.carve k b c
  let fits := fun (p : Nat) => decide (lo ≤ p) && decide (p + n ≤ hi) && b.spill.used.all (fun u => decide (p + n ≤ u.1) || decide (u.2 ≤ p))
  ((lo :: b.spill.used.map (·.2)).filter fits).min?

/-- Change the suspended task of a launch on a cell. -/
def State.modSuspended (s : State) (k launch : Nat) (f : Bank → Bank) : State :=
  s.modCell k (fun c => { c with
    suspended := c.suspended.map (fun (y : Suspended) => if y.bank.task.any (fun t => t.launch == launch) then { y with bank := f y.bank } else y) })

/-- The suspended task of a launch on a cell. -/
def State.suspendedOf (s : State) (k launch : Nat) : Option Suspended :=
  (s.cell k).suspended.find? (fun y => y.bank.task.any (fun t => t.launch == launch))

/-- A suspended task ends with SPILL_OVERFLOW of a core, on every cell of its group; its unspilled banks are discarded (15 R300). -/
def State.spillOverflow (s : State) (k launch : Nat) (c : CoreIx) : State :=
  match s.suspendedOf k launch with
  | none => s
  | some x =>
    let js := match x.bank.task with | some t => t.group k | none => [k]
    js.foldl (fun s j => match s.suspendedOf j launch with
      | some y => s.endSuspended j y { core := c, cause := cSPILL, tval := wNat (coreNum c), epc := (y.bank.core c).pc }
      | none => s) s

/-- The place of n bytes in a core's overflow region, at its SPILLPTR: handle and image offset. -/
def State.overPlace (s : State) (b : Bank) (c : CoreIx) (n : Nat) : Option (Nat × Nat) :=
  let w := b.secWord c 3
  let cap := b.slotCap c (field w 0 4)
  let p := (b.core c).spillptr.toNat
  if bitOf w 63 && cap.kind == 2 && cap.rights.getLsbD 1 && (s.buf? cap.bind.toNat).any (fun d => d.st != .lost) &&
      decide (cap.base.toNat ≤ p) && decide (p + n ≤ cap.limit.toNat) then some (cap.bind.toNat, p) else none

/-- Note a record of a task. -/
def Bank.keep (b : Bank) (r : Spill) : Bank :=
  { b with spill := { b.spill with dir := b.spill.dir.filter (fun q => (q.kind, q.index, q.gran) != (r.kind, r.index, r.gran)) ++ [r] } }

/-- Write a record of a task to its owner's overflow region, where SPILLPTR advances; without room the task ends. -/
def State.toOver (s : State) (k launch : Nat) (r : Spill) : State :=
  match s.suspendedOf k launch with
  | none => s
  | some x =>
    let n := 8 * r.words.length
    if x.bank.ending.isSome then s
    else match s.overPlace x.bank r.owner n with
    | none => s.spillOverflow k launch r.owner
    | some (h, p) =>
      let s := s.homePut h p ((bytesOf r.words).map (fun v => { v := v }))
      s.modSuspended k launch (fun b =>
        let c := b.core r.owner
        (b.keep { r with inOver := true, off := p }).setCore r.owner { c with spillptr := c.spillptr + wNat n })

/-- Write a record of a task: to its owner's carve-out if it fits there whole, else to the overflow region. -/
def State.writeRecord (s : State) (k launch : Nat) (r : Spill) : State :=
  match s.suspendedOf k launch with
  | none => s
  | some x =>
    let n := 8 * r.words.length
    if x.bank.ending.isSome then s
    else match s.carvePlace k x.bank r.owner n with
    | some p =>
      let s := s.modSuspended k launch (fun b =>
        let b := b.keep { r with inOver := false, off := p }
        { b with spill := { b.spill with used := b.spill.used ++ [(p, p + n)] } })
      s.modCell k (fun c => { c with suspended := c.suspended.map (fun (y : Suspended) =>
        if y.bank.task.any (fun t => t.launch == launch) then { y with mem := y.mem.write (padBase k + p) (bytesOf r.words) } else y) })
    | none => s.toOver k launch r

/-- A granule is about to be claimed: records in it move to the overflow region, and its space no longer counts as free. -/
def State.evict (s : State) (k g : Nat) : State :=
  let lo := 4096 * g
  let hi := lo + 4096
  let launches := (s.cell k).suspended.filterMap (fun y => y.bank.task.map (·.launch))
  launches.foldl (fun s l =>
    let s := s.modSuspended k l (fun b => { b with spill := { b.spill with used := b.spill.used ++ [(lo, hi)] } })
    match s.suspendedOf k l with
    | none => s
    | some x =>
      let rs := x.bank.spill.dir.filter (fun r => !r.inOver && decide (r.off < hi) && decide (lo < r.off + 8 * r.words.length))
      rs.foldl (fun s r => s.toOver k l r) s) s

/-! ## Claims (15 R300, R302) -/

/-- Does a suspended task hold a bank in place? -/
def Suspended.holds (y : Suspended) (key : BankKey) : Bool :=
  !y.bank.spill.taken.contains key && (match y.bank.spill.mine with | none => true | some l => l.contains key)

/-- Spill a bank for the task that holds it. -/
def State.spillHeld (s : State) (k : Nat) (key : BankKey) : State :=
  let s := if key.1 = 7 then s.evict k key.2.2 else s
  match (s.cell k).suspended.reverse.find? (fun y => y.holds key) with
  | none => s
  | some x =>
    match x.bank.task with
    | none => s
    | some t =>
      let (s, p) := s.payload k x key
      let s := s.modSuspended k t.launch (fun b => { b with spill := { b.spill with taken := b.spill.taken ++ [key] } })
      match p with
      | none => s
      | some ws => s.writeRecord k t.launch
          { kind := key.1, index := key.2.1, gran := key.2.2, owner := bankOwner key, inOver := false, off := 0, words := record_ x.bank key ws }

/-- The running task of a cell reaches a bank: it is restored if it was spilled for this task, and claimed if it was not its own. -/
def State.claim (s : State) (k : Nat) (key : BankKey) : State :=
  let b := s.bank k
  if b.task.isNone then s
  else if b.spill.taken.contains key then s.reclaim k key
  else match b.spill.mine with
    | none => s
    | some l =>
      if l.contains key then s
      else (s.spillHeld k key).modBank k (fun b => { b with spill := { b.spill with mine := some (key :: l) } })

/-- Do claims matter on a cell: a task is suspended there, or the running one has banks to get back or was launched beside a suspended
one? -/
def Cell.claims (c : Cell) : Bool := c.suspended != [] || c.b.spill.taken != [] || c.b.spill.mine.isSome

/-- Claim the granules that the running task of a cell has touched. -/
def State.claimTouched (s : State) (k : Nat) : State :=
  if (s.cell k).claims then (s.bank k).touched.foldl (fun s g => s.claim k (kGranule g)) s else s

/-- Claim touched granules on every cell. -/
def State.claimAll (s : State) : State :=
  ((s.cells.filter (fun e => e.2.claims)).map (·.1)).foldl State.claimTouched s

/-! ## What an instruction claims (15 R299; 16 R310) -/

/-- Which of D, A, B and C of a vector instruction are V fields or sources (07 R128 to R155). -/
def vFields : Instr → Option (FmtV × Bool × Bool × Bool × Bool)
  | .vmov f | .vpopc f | .vclz f | .vcompress f | .vexpand f | .vtag f | .vabs f | .vneg f | .vsgn f | .vround f | .vactRelu f
  | .vredAdd f | .vredMax f | .vredMin f | .vscanAdd f | .vrsq f | .vrcp f | .vexp2 f | .vlog2 f | .vactGelu f | .vactSilu f
  | .vactTanh f | .vactSigm f | .vcvt f | .vdequant f | .vmxpack f | .vmxunpk f | .vrot f | .vldx f => some (f, true, true, false, false)
  | .vadd f | .vsub f | .vmul f | .vdiv f | .vmin f | .vmax f | .vand f | .vor f | .vxor f | .vshl f | .vshr f | .vsar f
  | .vfshl f | .vfshr f | .vsel f | .vquant f | .vperm f | .vzip f | .vunzip f => some (f, true, true, true, false)
  | .vfma f | .vfms f | .vfnma f | .vclamp f | .vdot4 f | .vlut3 f => some (f, true, true, true, true)
  | .vsplatV f | .vzero f | .vsetl f | .vld f | .vlds f | .vldsp f => some (f, true, false, false, false)
  | .vcmpEq f | .vcmpNe f | .vcmpLt f | .vcmpLe f | .vcmpGt f | .vcmpGe f | .vcmpUn f => some (f, false, true, true, false)
  | .vclass f | .vgetl f | .vst f | .vsts f | .vpchk f => some (f, false, true, false, false)
  | .vstx f => some (f, false, true, false, true)
  | .vsplatSlot f | .klut f | .ksetp f | .kpopc f | .kfirst f | .qcfg f | .qloop f | .qreset f => some (f, false, false, false, false)
  | _ => none

/-- The logical V registers that a vector instruction names. -/
def vNames (i : Instr) : List Nat :=
  match vFields i with
  | none => []
  | some (f, d, a, b, c) =>
    ((if d then [f.d.toNat] else []) ++ (if a then [f.a.toNat] else []) ++ (if b then [f.b.toNat] else []) ++
      (if c then [f.c.toNat] else [])).filter (· < 48)

/-- The tiles that a matrix push names, and the V registers. -/
def tileNames : Instr → List Nat
  | .mma f | .mmaz f | .mmat f | .mmaq f | .mmamx f | .mmast f | .mmac f | .mmacz f => [f.td.toNat]
  | .tzero _ _ td _ _ | .tload _ _ td _ _ _ _ | .tbias _ _ td _ _ _ _ | .tscale _ _ td _ _ _ _ | .tact _ _ td _ _
  | .tfromv _ _ td _ _ _ | .tclamp _ _ td _ _ _ => [td.toNat]
  | .tstore _ _ ts _ _ _ _ | .tstoreq _ _ ts _ _ _ _ _ _ _ | .tstoremx _ _ ts _ _ _ _ _ | .tredr _ _ ts _ _ _ | .tredc _ _ ts _ _ _
  | .ttov _ _ ts _ _ _ => [ts.toNat]
  | .ttrans _ _ td ts _ | .tcopy _ _ td ts _ => [td.toNat, ts.toNat]
  | _ => []

/-- The V registers of TTOV and TFROMV, which are physical: the first and the last (08 R174). -/
def tileV : Instr → Option (Nat × Nat)
  | .ttov _ _ _ v _ cnt1 => some (v.toNat, v.toNat + cnt1.toNat)
  | .tfromv _ _ _ v _ cnt1 => some (v.toNat, v.toNat + cnt1.toNat)
  | _ => none

/-- Is an instruction one of the semaphores, mutexes or channels, or XPEND? -/
def usesSync : Instr → Bool
  | .semsig _ | .semwait _ | .semtry _ | .mtxlock _ | .mtxtry _ | .mtxfree _ | .waitwp _ | .xcopyc _ | .xwptr _ _ _ _ | .xchan _ _ _ _
  | .xchanClose _ _ _ | .xabort _ _ _ | .xpend _ _ _ => true
  | _ => false

/-- Does word 1 of a push name a semaphore to wait for or to signal (03 R38)? -/
def namesSem (w1 : Nat) : Bool := field w1 59 5 != 0 || field w1 50 5 != 0

/-- The banks that an instruction claims on core c of cell k, in the order of 16 R310. -/
def State.named (s : State) (k : Nat) (c : CoreIx) (i : Instr) : List BankKey :=
  let opc := opcOf (((encode i)[0]?).getD 0)
  let w1 := ((encode i)[1]?).getD 0
  let r := s.core k c
  let unit := if c = .v then 0 else 1
  let vs := ((vNames i).map r.vp).map (· / 8)
  let push := decide (0x100 ≤ opc) && decide (opc < 0x1C0)
  let eng := if opc < 0x180 then EngIx.primary else .transfer
  let queue := match i with
    | .eqlevel _ => (engineOf (s.cls k) k c).toList
    | .eqdrain _ => (engineOf (s.cls k) k c).toList
    | .ctxsave _ => (engineOf (s.cls k) k c).toList
    | .ctxload _ => (engineOf (s.cls k) k c).toList
    | _ => if push then [eng] else []
  (if (vFields i).isSome then [kPorts unit] else []) ++
  (if decide (0x100 ≤ opc) && decide (opc < 0x140) then [kMatrix] else []) ++
  queue.map kQueue ++
  (if usesSync i || (push && namesSem w1) then [kSync] else []) ++
  ((List.range 6).filter vs.contains).map (kGroup unit) ++
  (match tileV i with
    | some (v, w) => ((List.range 6).filter (fun g => decide (v / 8 ≤ g) && decide (g ≤ w / 8))).map (kGroup 0)
    | none => []) ++
  ((List.range 8).filter (tileNames i).contains).map kTile

/-- A core claims its scalar bank; at the first fetch of a task launched beside a suspended one it then takes its launch values (16 R310). -/
def State.claimCore (s : State) (k : Nat) (c : CoreIx) : State :=
  let first := match (s.bank k).spill.mine with | some l => !l.contains (kScalar c) && (s.bank k).task.isSome | none => false
  let s := s.claim k (kScalar c)
  if first then s.setCore k c (s.launchCore k c) else s

/-- Claims of a core that fetches: its scalar bank, then the granules of the words at its program counter, two for an instruction of two
words (16 R310). -/
def State.claimFetch (s : State) (k : Nat) (c : CoreIx) (words : Nat) : State :=
  let s := s.claimCore k c
  (granules 12 (s.core k c).pc.toNat (8 * words)).foldl (fun s g => s.claim k (kGranule g)) s

/-- Claims of a core that issues: those of the fetch, and what its instruction names. -/
def State.claimIssue (s : State) (k : Nat) (c : CoreIx) (i : Option Instr) : State :=
  match i with
  | some i => (s.named k c i).foldl (fun s key => s.claim k key) (s.claimFetch k c (encode i).length)
  | none => s.claimFetch k c 1

/-- Would a claim of the sync bank of the task on a cell wait: entries of a suspended task run on there (15 R299)? -/
def State.syncWaits (s : State) (k : Nat) : Bool :=
  (s.cell k).runsOn && (match (s.bank k).spill.mine with | some l => !l.contains kSync | none => false)

/-- Does an instruction wait for the sync bank that it names? -/
def State.issueWaits (s : State) (k : Nat) (c : CoreIx) (i : Option Instr) : Bool :=
  match i with
  | some i => (s.named k c i).contains kSync && s.syncWaits k
  | none => false

/-- The cell whose semaphores a posted write of cell k's newcomer would signal (10 R192). -/
def State.signalled (s : State) (k i : Nat) : Option Nat :=
  match (s.cell k).posted[i]? with
  | some p =>
    match p.dst.chip? with
    | some a => if chipRegion a = 6 ∧ ((s.cell k).pusher p.uid).isNone then some (chipKey a) else none
    | none => none
  | none => none

/-- Does an event wait: for a sync bank, or, once a trip holds every die in reset, for a cold reset (22 R377)? -/
def State.eventWaits (s : State) (e : Instr) : Bool :=
  match e with
  | .postedWriteLand k i => (s.signalled k i).any s.syncWaits || s.geode.boot == .tripped
  | .coldReset => false
  | _ => s.geode.boot == .tripped

/-- An entry that starts reaches the banks of its instruction again (15 R301). -/
def State.claimStart (s : State) (k : Nat) (e : EngIx) : State :=
  if (s.cell k).claims then
    match ((s.bank k).engine e).entries.find? Entry.idle with
    | some x =>
      match x.op with
      | .prim i => (s.named k (ownerOf e) i).foldl (fun s key => s.claim k key) s
      | .xfer _ => s
    | none => s
  else s

/-- The events by which entries of a suspended task run on (15 R298). -/
def runsOnBy (k : Nat) : Instr → Bool
  | .engineEntryComplete j _ => j == k
  | .farEndReply j => j == k
  | .publicationComplete j _ => j == k
  | .replayRelease j => j == k
  | .hostPageRefused j => j == k
  | .mcastArrival j => j == k
  | .taskEndByFault j => j == k
  | _ => false

/-- What an event claims before it takes effect; before a victim is suspended its cores stand at the next instruction that issues. -/
noncomputable def State.beforeEvent (s : State) (e : Instr) : State :=
  match e with
  | .preemptSwap _ => s.settleLoops
  | .engineEntryStart k q => s.claimStart k q
  | .postedWriteLand k i =>
    match s.signalled k i with
    | some j => if (s.cell j).claims then s.claim j kSync else s
    | none => s
  | _ => s

end Sys2Proof.Machine
end

