-- ==== Sys2Proof/Machine/Step.lean ====
section
/-! DEFINITION. One step of the module: the next move of the agenda, or the core in focus issues (log 1). -/

namespace Sys2Proof.Machine

/-- The instruction that a fetch gives, if it gives one. -/
def Fetched.instr : Fetched → Option Instr
  | .ok i => some i
  | .bad _ => none

/-- The claims that a fetch and its instruction make, where a claim matters on the cell (15 R299). -/
noncomputable def State.prepare (s : State) (k : Nat) (c : CoreIx) (f : Fetched) : State :=
  if (s.cell k).claims then s.claimIssue k c f.instr else s

/-- Does a core stand where it can issue? -/
def Core.ready (r : Core) : Bool :=
  match r.run with
  | .running => true
  | .blocked (.xreg _) => true
  | .blocked (.xdest _) => true
  | .blocked .push => true
  | .blocked .parked => true
  | _ => false

/-- Fetch, decode and execute at the program counter of core c of cell k. An instruction that needs the sync bank while a suspended task's
entries use it waits (15 R299); a claim that ends the task leaves nothing to execute. -/
noncomputable def State.runCore (s : State) (k : Nat) (c : CoreIx) : Out :=
  match s.fetchDecode k c with
  | (t, f) =>
    if t.issueWaits k c f.instr then .next t
    else
      let u := t.prepare k c f
      if (u.core k c).ready then
        match f with
        | .bad e => .next (u.stopped k c e)
        | .ok i => exec i (u.openRound k c)
      else .next u

/-- Core c of cell k issues, if it can; a core that waits for an event, and a core of a victim, stays as it is (15 R298). -/
noncomputable def State.issue (s : State) (k : Nat) (c : CoreIx) : Out :=
  let s := { s with focus := ⟨k, c⟩ }
  if (s.cell k).preempt then .next s
  else
    match (s.core k c).run with
    | .blocked (.trap cause tval) => .next (if (s.core k c).pending then s else s.deliver k c cause tval)
    | _ => if (s.core k c).ready then s.runCore k c else .next s

/-- The clock of a cell's control cores in MHz: on compute dies twice the array clock (22 R374). -/
def State.coreClock (s : State) (k : Nat) : Nat :=
  if s.computeIsland (k / 128) then 2 * s.flim (k / 128) else s.flim (k / 128)

/-- A cell's cycles after ns at a clock in MHz, with what is left of a cycle. -/
def Cell.tick (c : Cell) (ns clock : Nat) : Cell :=
  { c with cycle := c.cycle + (c.part + ns * clock) / 1000, part := (c.part + ns * clock) % 1000 }

/-- Package time passes, and each cell's cycles with it (17 R315, R316; 02 R29). Interrupts that are due go first, and time stops where
the next one falls due (17 R328). None is due while a trip holds every die in reset (22 R377). -/
def State.elapse (s : State) (ns : Nat) : State :=
  let held := s.geode.boot == .tripped
  let s := if held then s else s.fireDue
  let ns := if held then ns else s.untilDue ns
  { s with time := s.time + ns, cells := s.cells.map (fun (e : Nat × Cell) => (e.1, e.2.tick ns (s.coreClock e.1))) }

/-- An event whose turn has come. -/
noncomputable def State.event (s : State) (e : Instr) : Out :=
  if encode e = [] ∧ !s.eventWaits e then exec e (s.beforeEvent e) else .next s

/-- The state of an outcome, or the one before it. -/
def afterOr (o : Out) (s : State) : State :=
  match o with
  | .next t => t
  | _ => s

/-- An event for suspended task i of cell k, whose started entries run on (15 R298), or whose end by a fault completes (15 R289). -/
noncomputable def State.behind (s : State) (k i : Nat) (e : Instr) : State :=
  if !runsOnBy k e then s
  else match e with
    | .taskEndByFault _ => s.closeSuspended k i
    | _ => s.aside k i (fun t => afterOr (exec e t) t)

/-- One move. -/
noncomputable def State.move (s : State) (m : Move) : Out :=
  match m with
  | .issue k c => if s.cellExists k then s.issue k c else .next s
  | .event e => s.event e
  | .behind k i e => .next (s.behind k i e)
  | .elapse ns => .next (s.elapse ns)
  | .setting x => .next (s.applySetting x)
  | .boot => .next (if s.geode.boot = .held then s.bootStart else s)

/-- Every grant that is due on a cell where something waits (04 R76). -/
def State.grantAll (s : State) : State := ((s.cells.filter (fun e => e.2.b.waiters != 0)).map (·.1)).foldl State.grants s

/-- A WAITWP that no grant has completed ends with the close or abort of its channel (04 R83; 11 R226, R227). -/
def State.endWaits (s : State) : State :=
  ((s.cells.filter (fun e => e.2.b.waiters != 0)).map (·.1)).foldl
    (fun s k => [CoreIx.e, .v, .x].foldl (fun s c => s.endWp k c) s) s

/-- After a move: waits that are due are granted, those of a channel that has closed end, the granules that running tasks have touched are
claimed (15 R299), speculative runs note what their windows have shown (13 R275), and windows what has been stored (02 R28). -/
def State.afterMove (s : State) : State := s.grantAll.endWaits.claimAll.noteSeen.noteWindows

/-- An outcome of a move, settled. -/
def settle (o : Out) : Out :=
  match o with
  | .next t => .next t.afterMove
  | .fault f => .fault f
  | .refused r => .refused r

/-- The step: an update of the discovery table under way may be published; then the first move of the agenda, or an issue of the core in
focus. -/
noncomputable def step (s : State) : Host.Outcome State Fault Refusal :=
  let s := s.discSettle
  match s.agenda with
  | [] => settle (s.move (.issue s.focus.k s.focus.c))
  | m :: rest => settle (({ s with agenda := rest } : State).move m)

/-- The core that withFetchWord lets fetch an instruction of an opcode: the firmware's X-core of the scheduler die for the
opcodes that every X-core accepts, else the first cell of a class that accepts it. -/
def fetchCore (opc : Nat) : CoreRef :=
  if opc < 0x80 then ⟨svc Config.schedDie, .x⟩
  else if opc < 0x100 then ⟨0, .v⟩
  else if opc < 0x140 then ⟨0, .e⟩
  else if opc < 0x160 then ⟨12 * 128, .e⟩
  else if opc < 0x180 then ⟨20 * 128, .e⟩
  else ⟨svc Config.schedDie, .x⟩

/-- The state with an instruction stored where the core that accepts it fetches next: that core runs, its cell holds a task,
and it is in focus. -/
def State.withFetchWord (s : State) (_nbits w : Nat) : State :=
  let r := fetchCore (field w 35 9)
  let a := padBase r.k + (s.core r.k r.c).pc.toNat
  let bs := leBytes 16 w
  let s := { s with agenda := [], focus := r, mem := s.mem.write a bs }
  let s := s.modCell r.k (fun c => { c with imem := c.imem.write a bs })
  let s := if isService r.k then s else s.modBank r.k (fun b => { b with task := some (b.task.getD {}) })
  s.modCore r.k r.c (fun c => { c with run := .running })

end Sys2Proof.Machine
end

