-- ==== Sys2Proof/Safety.lean ====
section
/-! DEFINITION. A safe run, and the words in which the statements speak of a state: what a register reads, whether it may be
written, what a core's register file is after a write. -/

namespace Sys2Proof

/-- The run of n steps from s stops neither in a fault nor in a refusal. -/
def SafeFor (n : Nat) (s : Machine.State) : Prop := ∃ t, Host.Core.run core n s = .next t

/-- No run from s ever stops. -/
def Safe (s : Machine.State) : Prop := ∀ n, SafeFor n s

namespace Machine

/-- The issuing core's stage predicate and the guard are true (02 R20, R26). -/
def State.Enabled (s : State) (g : Guard) : Prop := s.fcore.stageOn = true ∧ s.fcore.guard g = true

/-- Logical X register j is full with this value and poison; X0 is always zero (02 R14 to R16). -/
def Core.Holds (r : Core) (j : BitVec 5) (v : Word) (bad : Bool) : Prop :=
  if j = 0 then v = 0 ∧ bad = false else vget r.x (r.px j.toNat) {} = ⟨v, bad, .full⟩

/-- Logical X register j waits for no earlier producer (02 R15). -/
def Core.Ready (r : Core) (j : BitVec 5) : Prop :=
  j = 0 ∨ (vget r.x (r.px j.toNat) {}).fill = .full ∨ (vget r.x (r.px j.toNat) {}).fill = .awaiting

/-- The core with logical X register j full with a value; a write to X0 is discarded (02 R14, R15). -/
def Core.wrote (r : Core) (j : BitVec 5) (v : Word) (bad : Bool) : Core := if j = 0 then r else r.putX (r.px j.toNat) v bad

/-- The state with the issuing core's X register j written and the instruction, of one word, retired. -/
def State.wroteX (s : State) (j : BitVec 5) (v : Word) (bad : Bool) : State :=
  (s.putCore (s.fcore.wrote j v bad)).retire s.fk s.fc 1

/-- The second operand of a compare is b: a full, unpoisoned register, or the widened immediate (03 R42). -/
def Core.Second (r : Core) (f : FmtC) (im : BitVec 16 → Word) (b : Word) : Prop :=
  match f.b with
  | .reg s2 _ => r.Holds s2 b false
  | .imm v => im v = b

/-- Nothing but the issuing core and the count of free values differs (log 2): no memory, buffer, other core, semaphore, queue. -/
def State.OnlyCore (s t : State) : Prop := t = { s.setCore s.fk s.fc (t.core s.fk s.fc) with free := t.free }

/-- Nothing but the issuing core, the count of free values and the counters of substitutions, which a word of a constant window over a TOLERANT
buffer advances, differs (02 R28; 10 R208; log 2). -/
def State.OnlyRead (s t : State) : Prop :=
  t = { s.setCore s.fk s.fc (t.core s.fk s.fc) with free := t.free, hbmStacks := t.hbmStacks } ∧
    ∀ i, { t.stack i with subst := 0 } = { s.stack i with subst := 0 }

/-- Every X register but these, by physical index, every A register, predicate, flag and special register is the same. -/
def Core.OnlyX (r r' : Core) (xs : List Nat) : Prop :=
  (∀ i, i ∉ xs → r'.xreg i = r.xreg i) ∧ r'.a = r.a ∧ r'.status = r.status ∧ r'.lc = r.lc ∧ r'.epc = r.epc ∧
    r'.cause = r.cause ∧ r'.tval = r.tval ∧ r'.spillptr = r.spillptr ∧ r'.livek = r.livek ∧ r'.livev = r.livev ∧ r'.h = r.h ∧
    (r.loop = none → r'.p = r.p ∧ r'.livep = r.livep ∧ r'.rbase = r.rbase)

/-- The core after a taken branch. -/
def State.jumped (s : State) (pc : Word) : State := s.modCore s.fk s.fc (fun r => { r with pc := pc, run := .running })

/-- The state differs at most in the issuing cell's bank and in the count of free values. -/
def State.OnlyBank (s t : State) : Prop := t = { s.setBank s.fk (t.bank s.fk) with free := t.free }

/-! ## Vector registers -/

/-- The mode in which element i is rounded: the field's, or under SR the draw of its generator after those of the enabled elements before
it that share the generator (06 R121; 03 R45). -/
def State.modeFor (s : State) (rm : BitVec 2) (draws : Bool) (gen : Nat → Nat) (en : List Nat) (i : Nat) : Rm :=
  if draws ∧ rm = 0 ∧ stSRE s.fcore.status then
    .sr (xorshift^[(en.filter (fun j => decide (j < i) && gen j == gen i)).length + 1] (s.unit.gens.get (gen i))).toNat
  else rmOf rm.toNat

/-- Vector register d of the issuing core's unit carries a tag and has the elements given (pattern and poison), the others keeping
their bits; it is live; no other byte of any memory, no X and no A register differs (06 R119; 07 R131, R132). -/
def State.VWrote (s t : State) (d : BitVec 6) (tag : Nat) (val : Nat → Option (Nat × Bool)) : Prop :=
  let v := s.fcore.vp d.toNat
  let w := tagBits tag
  let a := s.regAddr v
  t.focus = s.focus ∧ (vget t.unit.tags v 0).toNat = tag ∧ (t.core s.fk s.fc).livev.getLsbD v = true ∧
  (∀ i, i < elemCount tag → field (leNat (t.chipBytes a 1024)) (i * w) w =
    match val i with
    | some e => e.1 % 2 ^ w
    | none => field (leNat (s.chipBytes a 1024)) (i * w) w) ∧
  (∀ i e, i < elemCount tag → val i = some e → e.2 = true → nsHas t.memBad (a / 64 + i * w / 512) = true) ∧
  (∀ b, b < a ∨ a + 1024 ≤ b → t.mem.byte b = s.mem.byte b) ∧
  t.hbm = s.hbm ∧ t.hostMem = s.hostMem ∧ t.bufs = s.bufs ∧
  (t.core s.fk s.fc).x = s.fcore.x ∧ (t.core s.fk s.fc).a = s.fcore.a

/-- The values at the indices of a list. -/
def lanes (en : List Nat) (f : Nat → Nat × Bool) (i : Nat) : Option (Nat × Bool) := if i ∈ en then some (f i) else none

/-- The elements that an instruction writes under a tag: the enabled ones, and under a tag of blocks or groups those of the units that
are enabled whole (07 R131). -/
def whole (tag gs : Nat) (en : List Nat) : List Nat := if isX tag then unitElems tag gs (fullUnits tag gs en) else en

/-- Mask j of the issuing core's unit has the bits given, the others keeping theirs; K0 keeps all ones; no memory, no X, no A register and no
vector register differs (07 R141 to R143). -/
def State.KWrote (s t : State) (j : Nat) (val : Nat → Option Bool) : Prop :=
  t.focus = s.focus ∧
  (j ≠ 0 → ∀ i, i < 1024 → (vget t.unit.k (s.fcore.kp j) 0).getLsbD i =
    match val i with
    | some b => b
    | none => (s.kmask j).getLsbD i) ∧
  t.mem = s.mem ∧ t.hbm = s.hbm ∧ t.hostMem = s.hostMem ∧ t.bufs = s.bufs ∧ t.unit.tags = s.unit.tags ∧
  (t.core s.fk s.fc).x = s.fcore.x ∧ (t.core s.fk s.fc).a = s.fcore.a

end Machine

end Sys2Proof
end

