-- ==== Sys2Proof/Certificates/Slice0/Obligations.lean ====
section
/-! DEFINITION. The statements for the provers. -/

namespace Sys2Proof.Machine

/-! ## Scalar instructions (04) -/

/-- D ← f(S1, operand two): the operations of 04 R55 with each one's function of a, b. -/
def aluArith : List ((FmtS → Instr) × (FmtS → Word → Word → Word)) :=
  [(.add, fun _ a b => a + b),
    (.sub, fun _ a b => a - b),
    (.mul, fun _ a b => a * b),
    (.mulh, fun _ a b => BitVec.ofInt 64 (a.toInt * b.toInt / 2 ^ 64)),
    (.mulhu, fun _ a b => BitVec.ofNat 64 (a.toNat * b.toNat / 2 ^ 64)),
    (.div, fun _ a b => if b = 0 then BitVec.allOnes 64 else BitVec.ofInt 64 (a.toInt.tdiv b.toInt)),
    (.divu, fun _ a b => if b = 0 then BitVec.allOnes 64 else a / b),
    (.rem, fun _ a b => if b = 0 then a else BitVec.ofInt 64 (a.toInt.tmod b.toInt)),
    (.remu, fun _ a b => if b = 0 then a else a % b)]

/-- Minimum, maximum, logic and shifts (04 R55). -/
def aluLogic : List ((FmtS → Instr) × (FmtS → Word → Word → Word)) :=
  [(.min, fun _ a b => if b.toInt < a.toInt then b else a),
    (.max, fun _ a b => if a.toInt < b.toInt then b else a),
    (.minu, fun _ a b => if b < a then b else a),
    (.maxu, fun _ a b => if a < b then b else a),
    (.and, fun _ a b => a &&& b),
    (.or, fun _ a b => a ||| b),
    (.xor, fun _ a b => a ^^^ b),
    (.andn, fun _ a b => a &&& ~~~b),
    (.orn, fun _ a b => a ||| ~~~b),
    (.shl, fun _ a b => a <<< (b.toNat % 64)),
    (.shr, fun _ a b => a >>> (b.toNat % 64)),
    (.sar, fun _ a b => a.sshiftRight (b.toNat % 64)),
    (.rol, fun _ a b => a <<< (b.toNat % 64) ||| a >>> ((64 - b.toNat % 64) % 64))]

/-- Funnel shifts and extensions (04 R55, R58). -/
def aluWide : List ((FmtS → Instr) × (FmtS → Word → Word → Word)) :=
  [(.fshl, fun f a b => ((a ++ b) <<< (modBits f.b % 64)).extractLsb' 64 64),
    (.fshr, fun f a b => ((a ++ b) >>> (modBits f.b % 64)).extractLsb' 0 64),
    (.sext, fun _ a b => (a.setWidth (width b)).signExtend 64),
    (.zext, fun _ a b => (a.setWidth (width b)).zeroExtend 64)]

def aluTable : List ((FmtS → Instr) × (FmtS → Word → Word → Word)) := aluArith ++ aluLogic ++ aluWide

/-- D ← f(S1) (04 R56, R59). -/
def unaryTable : List ((FmtS → Instr) × (FmtS → Word → Word)) :=
  [(.abs, fun _ a => if a.toInt < 0 then -a else a),
    (.clz, fun _ a => a.clz),
    (.ctz, fun _ a => a.reverse.clz),
    (.popc, fun _ a => BitVec.ofNat 64 ((List.range 64).countP (fun i => a.getLsbD i))),
    (.bfx, fun f a => ((a >>> bfPos f.b).setWidth (bfLen f.b)).signExtend 64),
    (.bfxu, fun f a => ((a >>> bfPos f.b).setWidth (bfLen f.b)).zeroExtend 64)]

def ScalarUnary : Prop :=
  ∀ p ∈ unaryTable, ∀ (f : FmtS) (s : State) (a : Word) (pa : Bool),
    s.Enabled f.g → s.fcore.Holds f.s1 a pa → s.fcore.Ready f.d →
    exec (p.1 f) s = .next (s.wroteX f.d (p.2 f a) pa)

/-- MOV writes operand two; MOVHI shifts S1 left by 21 and adds the raw immediate (04 R57). -/
def ScalarMoves : Prop :=
  (∀ (f : FmtS) (s t : State) (b : Val), s.Enabled f.g → s.op2 immS f.b = .ok (t, b) → t.fcore.Ready f.d →
    exec (.mov f) s = .next (t.wroteX f.d b.v b.bad)) ∧
  (∀ (f : FmtS) (s : State) (a : Word) (pa : Bool) (v : BitVec 21), s.Enabled f.g → s.fcore.Holds f.s1 a pa → f.b = .imm v →
    s.fcore.Ready f.d → exec (.movhi f) s = .next (s.wroteX f.d ((a <<< 21) + v.zeroExtend 64) pa))

/-- Operand two: a register's value, the immediate sign-extended, or a word of a bound window. Of KIND 1 and 3 the word is one that its range has
held since the window's snapshot, and never one older than the core has seen of it; a word that has held one value throughout is that value.
Of KIND 2 it is the snapshot's. An unbound window and a word beyond LIMIT raise BOUNDS, a KIND 2 word outside the lease LEASE_VIOLATION, of
a lost buffer BUFFER_LOST (02 R28; 04 R53). -/
def OperandTwoForms : Prop :=
  (∀ (s : State) (j : BitVec 5) (w : Bool) (md : BitVec 16) (v : Word) (bad : Bool), s.fcore.Holds j v bad →
    s.op2 immS (.reg j w md) = .ok (s, ⟨v, bad, wNat j.toNat⟩)) ∧
  (∀ (s : State) (v : BitVec 21), s.op2 immS (.imm v) = .ok (s, ⟨v.signExtend 64, false, 0⟩)) ∧
  (∀ (s : State) (w : BitVec 3) (o : BitVec 17) (x : Win) (a : Nat),
    vget s.fcore.win w.toNat {} = x → x.bound = true → x.reg.kind = 1 ∨ x.reg.kind = 3 →
    a = (if x.reg.kind = 1 then padBase s.fk else 0) + (x.reg.ptr.toNat + 8 * o.toNat) →
    x.reg.ptr.toNat + 8 * o.toNat + 8 ≤ x.reg.limit.toNat → chipRegion a = 0 → s.chipOk a 8 = true → s.limitOk s.fk x.reg = true →
    let now := (s.see a 8, badIn s.memBad a 8)
    let held := x.vers.map (verWord a) ++ [now]
    let seen := min (kget 0 s.fcore.wcur a - x.first) (held.length - 1)
    (∃ t v id, s.op2 immS (.win w o) = .ok (t, ⟨wNat (leNat v.1), v.2, id⟩) ∧ v ∈ held.drop seen ∧ (t = s ∨ s.OnlyCore t)) ∧
    ((∀ v ∈ x.vers, verWord a v = now) → ∃ id, s.op2 immS (.win w o) = .ok (s, ⟨wNat (leNat now.1), now.2, id⟩))) ∧
  (∀ (s : State) (w : BitVec 3) (o : BitVec 17),
    let x := vget s.fcore.win w.toNat {}
    let addr := x.reg.ptr.toNat + 8 * o.toNat
    let h := x.reg.bind.toNat
    let stops := fun (cause : Nat) (tval : Word) => s.op2 immS (.win w o) = .error (.trap cause tval)
    (x.bound = false → stops cBOUNDS (wNat (8 * o.toNat))) ∧
    (x.bound = true → x.reg.limit.toNat < addr + 8 → stops cBOUNDS (wNat addr)) ∧
    (x.bound = true → addr + 8 ≤ x.reg.limit.toNat → x.reg.kind = 2 →
      let leased := leaseHas (s.bank s.fk).lease false h addr 8 .read
      (leased = false → stops cLEASE (wNat addr)) ∧
      (leased = true → s.lost h = true → stops cLOST (wNat h)) ∧
      (∀ b m bad, leased = true → s.lost h = false → s.buf? h = some b → b.tolerant = false → x.vers = [(m, bad)] →
        ∃ t id, s.op2 immS (.win w o) = .ok (t, ⟨wNat (leNat (m.read (bufKey h addr) 8)), badIn bad (bufKey h addr) 8, id⟩) ∧
          (t = s ∨ s.OnlyCore t) ∧ ((s.bank s.fk).spec = false → t = s))))

/-- LUT3 takes each result bit from the table at the three source bits; BFI replaces len bits at pos; SEL chooses by a
predicate (04 R58, R59). -/
def ScalarThreeSource : Prop :=
  (∀ (f : FmtS) (s : State) (a b d : Word) (pa pb pd : Bool) (s2 : BitVec 5) (w2 : Bool) (md : BitVec 16),
    s.Enabled f.g → f.b = .reg s2 w2 md → s.fcore.Holds f.s1 a pa → s.fcore.Holds s2 b pb → s.fcore.Holds f.d d pd →
    ∃ v : Word, (∀ i < 64, v.getLsbD i = md.getLsbD ((a.getLsbD i).toNat * 4 + (b.getLsbD i).toNat * 2 + (d.getLsbD i).toNat)) ∧
      exec (.lut3 f) s = .next (s.wroteX f.d v (pa || pb || pd))) ∧
  (∀ (f : FmtS) (s : State) (a d : Word) (pa pd : Bool) (m : BitVec 21),
    s.Enabled f.g → f.b = .imm m → bfPos f.b + bfLen f.b ≤ 64 → s.fcore.Holds f.s1 a pa → s.fcore.Holds f.d d pd →
    ∃ v : Word, (∀ i < 64, v.getLsbD i =
        if bfPos f.b ≤ i ∧ i < bfPos f.b + bfLen f.b then a.getLsbD (i - bfPos f.b) else d.getLsbD i) ∧
      exec (.bfi f) s = .next (s.wroteX f.d v (pa || pd))) ∧
  (∀ (f : FmtS) (s : State) (a b : Word) (pa pb : Bool) (s2 : BitVec 5) (w2 : Bool) (md : BitVec 16),
    s.Enabled f.g → f.b = .reg s2 w2 md → s.fcore.Holds f.s1 a pa → s.fcore.Holds s2 b pb → s.fcore.Ready f.d →
    exec (.sel f) s = .next (s.wroteX f.d (if s.fcore.pred (md.toNat % 16) then a else b) (pa || pb)))

/-- The compares with signed, unsigned and widened immediates, and their outcome (04 R60, R65). -/
def cmpTable : List ((FmtC → Instr) × (BitVec 16 → Word) × (Word → Word → Bool)) :=
  [(.cmpEq, BitVec.signExtend 64, fun a b => decide (a = b)),
    (.cmpNe, BitVec.signExtend 64, fun a b => decide (a ≠ b)),
    (.cmpLt, BitVec.signExtend 64, fun a b => a.slt b),
    (.cmpLe, BitVec.signExtend 64, fun a b => a.sle b),
    (.cmpGt, BitVec.signExtend 64, fun a b => b.slt a),
    (.cmpGe, BitVec.signExtend 64, fun a b => b.sle a),
    (.cmpLtu, BitVec.zeroExtend 64, fun a b => a.ult b),
    (.cmpLeu, BitVec.zeroExtend 64, fun a b => a.ule b),
    (.cmpGtu, BitVec.zeroExtend 64, fun a b => b.ult a),
    (.cmpGeu, BitVec.zeroExtend 64, fun a b => b.ule a)]

/-- The four pair modes on two different predicates other than P0, the reads before the writes; where both names are one, the second
write remains; P0 stays 1; no other predicate changes (02 R14, R21). -/
def PredicatePairs : Prop :=
  ∀ (r : Core) (pd pe : BitVec 4) (mode : BitVec 2) (c : Bool),
    let r' := r.setPair pd pe mode c
    let d := r.pred pd.toNat
    let e := r.pred pe.toNat
    let outs : Bool × Bool := match mode.toNat with
      | 0 => (c, !c)
      | 1 => (d && c, e && !c)
      | 2 => (d || c, e || !c)
      | _ => (c, e)
    (pd ≠ 0 → pd ≠ pe → r'.pred pd.toNat = outs.1) ∧
    (pe ≠ 0 → (pd ≠ pe ∨ mode ≠ 3) → r'.pred pe.toNat = outs.2) ∧
    r'.pred 0 = true ∧
    (∀ j : BitVec 4, j ≠ pd → j ≠ pe → r'.pred j.toNat = r.pred j.toNat) ∧
    r'.x = r.x ∧ r'.a = r.a ∧ r'.status = r.status ∧ r'.lc = r.lc ∧ r'.rbase = r.rbase

/-- PLUT writes a predicate from a truth table of three; PGET gathers the sixteen predicates by name; PPUT writes those that the
mask names (04 R61). -/
def PredicateMoves : Prop :=
  (∀ (f : FmtS) (s : State) (s2 : BitVec 5) (w2 : Bool) (md : BitVec 16), s.Enabled f.g → f.b = .reg s2 w2 md →
    exec (.plut f) s = .next ((s.putCore (s.fcore.setPred (f.d.toNat % 16) (md.getLsbD
      ((s.fcore.pred (f.s1.toNat % 16)).toNat * 4 + (s.fcore.pred (s2.toNat % 16)).toNat * 2 +
        (s.fcore.pred (md.toNat / 256 % 16)).toNat)))).retire s.fk s.fc 1)) ∧
  (∀ (f : FmtS) (s : State), s.Enabled f.g → s.fcore.Ready f.d →
    ∃ v : Word, (∀ i < 64, v.getLsbD i = (decide (i < 16) && s.fcore.pred i)) ∧ exec (.pget f) s = .next (s.wroteX f.d v false)) ∧
  (∀ (f : FmtS) (s : State) (m : BitVec 21) (x : Word), s.Enabled f.g → f.b = .imm m → s.fcore.Holds f.s1 x false →
    ∃ r : Core, (∀ j : BitVec 4, r.pred j.toNat =
        if j ≠ 0 ∧ m.getLsbD j.toNat then x.getLsbD j.toNat else s.fcore.pred j.toNat) ∧
      r = { s.fcore with p := r.p, livep := r.livep } ∧ exec (.pput f) s = .next ((s.putCore r).retire s.fk s.fc 1))

/-- The FP32 arithmetic: the exact operation of 04 R63, rounded once by STATUS.RM, with the flags of both; poison is passed on. -/
def fpTable : List ((FmtS → Instr) × (Bool → Fp → Fp → Fp × Flags)) :=
  [(.fadd, fun down a b => Fp.add down a b),
    (.fsub, fun down a b => Fp.add down a b.neg),
    (.fmul, fun _ a b => Fp.mul a b),
    (.fmin, fun _ a b => Fp.minmax false a b),
    (.fmax, fun _ a b => Fp.minmax true a b)]

def ScalarFloat : Prop :=
  (∀ p ∈ fpTable, ∀ (f : FmtS) (s t : State) (a : Word) (pa : Bool) (b : Val), s.Enabled f.g → s.fcore.Holds f.s1 a pa →
    s.op2 immBF f.b = .ok (t, b) → t.fcore.Ready f.d →
    let x := p.2 (t.fcore.rm == .rdn) (f32 a) (f32 b.v)
    let y := fp32.result t.fcore.rm false x.1
    exec (p.1 f) s = .next ((t.putCore ((t.fcore.wrote f.d (wNat y.1) (pa || b.bad)).flag (x.2.or y.2))).retire t.fk t.fc 1)) ∧
  (∀ (f : FmtS) (s t : State) (a d : Word) (pa pd : Bool) (b : Val), s.Enabled f.g → s.fcore.Holds f.s1 a pa →
    s.fcore.Holds f.d d pd → s.op2 immBF f.b = .ok (t, b) → t.fcore.Ready f.d →
    let x := Fp.fma (t.fcore.rm == .rdn) (f32 a) (f32 b.v) (f32 d)
    let y := fp32.result t.fcore.rm false x.1
    exec (.ffma f) s =
      .next ((t.putCore ((t.fcore.wrote f.d (wNat y.1) (pa || b.bad || pd)).flag (x.2.or y.2))).retire t.fk t.fc 1)) ∧
  (∀ (f : FmtS) (s : State) (a : Word) (pa : Bool), s.Enabled f.g → s.fcore.Holds f.s1 a pa → s.fcore.Ready f.d →
    let uns := bitOf (modBits f.b) 0
    let y := fp32.result s.fcore.rm false (ofInt (if uns then (a.toNat : Int) else a.toInt))
    let z := toInt 64 (!uns) (if bitOf (modBits f.b) 1 then .rtz else s.fcore.rm) (f32 a)
    exec (.fcvtIf f) s = .next ((s.putCore ((s.fcore.wrote f.d (wNat y.1) pa).flag y.2)).retire s.fk s.fc 1) ∧
    exec (.fcvtFi f) s = .next ((s.putCore ((s.fcore.wrote f.d (wNat z.1) pa).flag z.2)).retire s.fk s.fc 1))

/-- The FP32 compares: the outcome, and INV on the operands that 04 R65 names. -/
def fcmpTable : List ((FmtC → Instr) × (Fp → Fp → Bool × Bool)) :=
  [(.fcmpEq, fun a b => (Fp.cmp a b == some .eq, a.isSig || b.isSig)),
    (.fcmpLt, fun a b => (Fp.cmp a b == some .lt, a.isNaN || b.isNaN)),
    (.fcmpLe, fun a b => (Fp.cmp a b == some .lt || Fp.cmp a b == some .eq, a.isNaN || b.isNaN)),
    (.fcmpUn, fun a b => (a.isNaN || b.isNaN, a.isSig || b.isSig))]

def ScalarFloatCompares : Prop :=
  (∀ f : FmtC, [Instr.fcmpEq f, .fcmpLt f, .fcmpLe f, .fcmpUn f].map (fun i => (encode i).map (fun w => field w 35 9)) =
    [[0x3D], [0x3E], [0x3F], [0x40]]) ∧
  ∀ p ∈ fcmpTable, ∀ (f : FmtC) (s : State) (a b : Word), s.Enabled f.g → s.fcore.Holds f.s1 a false →
    s.fcore.Second f (fun v => v.zeroExtend 64 <<< 16) b →
    let o := p.2 (f32 a) (f32 b)
    exec (p.1 f) s =
      .next ((s.putCore ((s.fcore.setPair f.pd f.pe f.mode o.1).flag { inv := o.2 })).retire s.fk s.fc 1)

/-- A load from a buffer or a window marks its destination empty and puts the value on its way: of a window the bytes there, of a buffer the
cell's own stores over its snapshot, and what atomics of other parties have left there is open (02 R15; 04 R67; 10 R210, R212). -/
def LateLoad : Prop :=
  ∀ (f : FmtM) (s : State) (a : AReg) (addr : Nat) (new : Word), s.Enabled f.g → s.fcore.Ready f.data → f.data ≠ 0 →
    s.checkMem f .read = .ok (a, addr, new) → a.kind ≠ 1 →
    ∀ p ∈ [(Instr.ld f, true), (Instr.ldu f, false), (Instr.lds f, true)], ∃ t : State, exec p.1 s = .next t ∧
      let j := s.fcore.px f.data.toNat
      let r := t.core s.fk s.fc
      let n := 2 ^ f.size.toNat
      (r.xreg j).fill = .load ∧ (r.xreg j).val = (s.fcore.xreg j).val ∧
      (∃ bs bad, r.results = s.fcore.results ++
          [⟨j, if p.2 then (BitVec.ofNat (8 * n) (leNat bs)).signExtend 64 else (BitVec.ofNat (8 * n) (leNat bs)).zeroExtend 64, bad⟩] ∧
        (a.kind = 3 → bs = s.see addr n ∧ bad = badIn s.memBad addr n) ∧
        (a.kind = 2 → (s.bank s.fk).amo = [] →
          bs = s.bufBytes s.fk a.bind.toNat addr n ∧ bad = s.bufBad s.fk a.bind.toNat addr n)) ∧
      r.a = (s.fcore.setA f.a { a with ptr := new }).a ∧ t.mem = s.mem ∧ t.hbm = s.hbm ∧ t.hostMem = s.hostMem

/-- LDS whose checks fail raises nothing: its destination takes the address, poisoned, and the pointer stays (04 R69). -/
def DeferredFault : Prop :=
  ∀ (f : FmtM) (s : State) (cause : Nat) (tval : Word), s.Enabled f.g → s.fcore.Ready f.data →
    s.checkMem f .read = .error (.trap cause tval) →
    let a := s.fcore.areg f.a
    let addr : Int := if f.mode = 1 then a.ptr.toNat else a.ptr.toNat + f.off.toInt
    exec (.lds f) s = .next (s.wroteX f.data (BitVec.ofInt 64 addr) true)

/-- ST to the own scratchpad, or through a window to one, writes the low bytes of its register at the address and nothing else; every other
byte on chip, every buffer and host byte is unchanged; the pointer moves as the mode says (04 R68). -/
def ScratchpadStore : Prop :=
  ∀ (f : FmtM) (s : State) (x : Word) (a : AReg) (addr : Nat) (new : Word), s.Enabled f.g → s.fcore.Holds f.data x false →
    s.checkMem f .write = .ok (a, addr, new) → a.kind = 1 ∨ (a.kind = 3 ∧ chipRegion addr = 0) → s.mem.wf → f.size.toNat ≤ 3 →
    let at_ := if a.kind = 1 then padBase s.fk + addr else addr
    ∃ t : State, exec (.st f) s = .next t ∧
      (∀ i < 2 ^ f.size.toNat, t.mem.byte (at_ + i) = x.extractLsb' (8 * i) 8) ∧
      (∀ b, b < at_ ∨ at_ + 2 ^ f.size.toNat ≤ b → t.mem.byte b = s.mem.byte b) ∧
      t.hbm = s.hbm ∧ t.hostMem = s.hostMem ∧ t.bufs = s.bufs ∧
      s.fcore.OnlyX { t.core s.fk s.fc with a := s.fcore.a } [] ∧
      (t.core s.fk s.fc).a = (s.fcore.setA f.a { a with ptr := new }).a ∧
      (s.fcore.loop = none → (t.core s.fk s.fc).pc = s.fcore.pc + 8)

/-- ST to a buffer puts the low bytes of its register among the cell's own stores and those to be published, in place of earlier ones, and no
byte beside them; no memory changes (04 R68; 10 R209, R210). -/
def BufferStore : Prop :=
  ∀ (f : FmtM) (s : State) (x : Word) (a : AReg) (addr : Nat) (new : Word), s.Enabled f.g → s.fcore.Holds f.data x false →
    s.checkMem f .write = .ok (a, addr, new) → a.kind = 2 → f.size.toNat ≤ 3 →
    let key := bufKey a.bind.toNat addr
    ∃ t : State, exec (.st f) s = .next t ∧
      (∀ p ∈ [((t.bank s.fk).own, (s.bank s.fk).own), ((t.bank s.fk).dirty, (s.bank s.fk).dirty)],
        (∀ i < 2 ^ f.size.toNat, ∃ w, kget? p.1 (key + i) = some w ∧ w.v = x.extractLsb' (8 * i) 8 ∧ w.m = 0xFF) ∧
        (∀ b, b < key ∨ key + 2 ^ f.size.toNat ≤ b → kget? p.1 b = kget? p.2 b)) ∧
      t.mem = s.mem ∧ t.hbm = s.hbm ∧ t.hostMem = s.hostMem ∧
      s.fcore.OnlyX { t.core s.fk s.fc with a := s.fcore.a } [] ∧
      (t.core s.fk s.fc).a = (s.fcore.setA f.a { a with ptr := new }).a

/-- PCHK tells a register's poison and consumes nothing; LDPF touches no byte and no register but its pointer (04 R70, R71). -/
def PoisonCheckAndPrefetch : Prop :=
  (∀ (f : FmtS) (s : State) (v : Word) (bad : Bool), s.Enabled f.g → s.fcore.Holds f.s1 v bad →
    exec (.pchk f) s = .next ((s.putCore (s.fcore.setPred (f.d.toNat % 16) bad)).retire s.fk s.fc 1)) ∧
  (∀ (f : FmtM) (s : State), s.Enabled f.g →
    (f.mode ≠ 0 → (s.fcore.areg f.a).ptrOk ((s.fcore.areg f.a).ptr.toNat + f.off.toInt) = true) →
    ∃ t : State, exec (.ldpf f) s = .next t ∧ t.mem = s.mem ∧ t.hbm = s.hbm ∧ t.hostMem = s.hostMem ∧
      s.fcore.OnlyX { t.core s.fk s.fc with a := s.fcore.a } [] ∧
      (t.core s.fk s.fc).a = (if f.mode = 0 then s.fcore
        else s.fcore.setA f.a { s.fcore.areg f.a with ptr := (s.fcore.areg f.a).ptr + f.off.signExtend 64 }).a)

/-! ## Branches, loops, special registers (01 R6; 02 R24 to R30; 04 R73, R74, R81) -/

/-- MLOOP with a trip count starts round 0 at its first body instruction, P8 set and the later stage predicates clear; with a count of 0,
or disabled, it goes on after its body; a forbidden body instruction raises LOOP_BODY with its address (02 R25, R26; 04 R74). -/
def ModuloLoopTrip : Prop :=
  ∀ (f : FmtBL) (s t : State) (offs ws : List Nat), s.scanBody s.fk s.fcore.pc.toNat (f.n1.toNat + 1) 8 = (t, .ok (offs, ws)) →
    let n := f.n1.toNat + 1
    let ii := f.ii1.toNat + 1
    let stages := (n + ii - 1) / ii
    let past := t.jumped (wNat (s.fcore.pc.toNat + (offs[n]?).getD 0))
    (¬ s.Enabled f.g → exec (.mloop f) s = .next past) ∧
    (s.Enabled f.g → s.fcore.held = none →
      (∀ i, ws.findIdx? bodyBad = some i →
        exec (.mloop f) s = .next (t.stopped s.fk s.fc (.trap cLOOPBODY (wNat (s.fcore.pc.toNat + (offs[i]?).getD 0))))) ∧
      (ws.findIdx? bodyBad = none → s.fcore.Holds f.xtrip 0 false → exec (.mloop f) s = .next past) ∧
      (∀ c, ws.findIdx? bodyBad = none → stages ≤ 8 → c ≠ 0 → s.fcore.Holds f.xtrip c false →
        ∃ u, exec (.mloop f) s = .next u ∧
          let r := u.core s.fk s.fc
          r.loop = some { laddr := s.fcore.pc, n := n, ii := ii, trip := c.toNat, round := 0, p := 0, offs := offs, fresh := true } ∧
          r.pc = s.fcore.pc + wNat ((offs[0]?).getD 0) ∧ r.openRound.pred 8 = true ∧
          (∀ j, 9 ≤ j → j < 8 + stages → r.pred j = false) ∧ r.rbase = s.fcore.rbase ∧ r.x = s.fcore.x ∧ r.a = s.fcore.a ∧
          u.mem = s.mem ∧ u.hbm = s.hbm ∧ u.hostMem = s.hostMem))

/-- The order of a modulo loop: after position p comes p + ii while it lies in the body, else the first of the next slot; after the last,
RBASE falls by one and the next round begins, until T + S - 1 rounds have run; then the core goes on after the body. The first instruction
that a round issues writes P8, which tells whether an iteration starts (02 R26; 16 R311). -/
def ModuloOrder : Prop :=
  ∀ (r : Core) (l : LoopPos) (len : Nat), r.loop = some l → 0 < l.ii → 0 < l.n → l.p < l.n →
    let at_ := fun (p : Nat) => l.laddr + wNat ((l.offs[p]?).getD 0)
    let slot := l.p % l.ii
    let r' := r.advance len
    (l.p + l.ii < l.n → r'.loop = some { l with p := l.p + l.ii, fresh := false, undo := none } ∧ r'.pc = at_ (l.p + l.ii) ∧
      r'.rbase = r.rbase ∧ (l.fresh = true → r'.pred 8 = decide (l.round < l.trip))) ∧
    (l.n ≤ l.p + l.ii → slot + 1 < min l.ii l.n →
      r'.loop = some { l with p := slot + 1, fresh := false, undo := none } ∧ r'.pc = at_ (slot + 1) ∧ r'.rbase = r.rbase ∧
      (l.fresh = true → r'.pred 8 = decide (l.round < l.trip))) ∧
    (l.n ≤ l.p + l.ii → ¬ slot + 1 < min l.ii l.n → r'.rbase = r.rbase - 1 ∧
      (l.round + 1 + 2 ≤ l.trip + (l.n + l.ii - 1) / l.ii →
        r'.loop = some { l with p := 0, round := l.round + 1, fresh := true, undo := none } ∧ r'.pc = at_ 0 ∧
          r'.openRound.pred 8 = decide (l.round + 1 < l.trip)) ∧
      (l.trip + (l.n + l.ii - 1) / l.ii < l.round + 1 + 2 → 2 ≤ l.trip + (l.n + l.ii - 1) / l.ii →
        r'.loop = none ∧ r'.pc = at_ l.n))

/-! ## Semaphores, mutexes, full and empty, queues, pausing (04 R75 to R86) -/

/-- The count is an immediate, a register or a window word, whose reading changes no register. SEMSIG adds, and traps with its count where the sum passes 65,535; SEMWAIT takes its count at once where nobody waits and there is
enough, or joins the tail and blocks; SEMTRY takes it in the same case and tells (04 R75, R76). -/
def Semaphores : Prop :=
  ∀ (f : FmtS) (s t : State) (n : Nat), s.Enabled f.g → s.semCount f.b = .ok (t, n) →
    let d := f.d.toNat
    let x := (t.bank t.fk).sem d
    (t = s ∨ s.OnlyRead t) ∧
    (x.val + n ≤ 65535 → ∃ u, exec (.semsig f) s = .next u ∧
      (u.bank s.fk).sem d = { x with val := x.val + n, credit := min (x.credit + n) 4294967295 } ∧
      (∀ m, m ≠ d → (u.bank s.fk).sem m = (s.bank s.fk).sem m) ∧ t.OnlyBank u) ∧
    (65535 < x.val + n → exec (.semsig f) s = .next (s.stopped s.fk s.fc (.trap cSEMRANGE (wNat n)))) ∧
    (n = 0 ∨ (x.queue = [] ∧ n ≤ x.val) → ∃ u, exec (.semwait f) s = .next u ∧
      (u.bank s.fk).sem d = { x with val := x.val - n } ∧ (∀ m, m ≠ d → (u.bank s.fk).sem m = (s.bank s.fk).sem m) ∧
      t.OnlyBank u) ∧
    (n ≠ 0 → ¬ (x.queue = [] ∧ n ≤ x.val) → ∃ u, exec (.semwait f) s = .next u ∧
      (u.bank s.fk).sem d = { x with queue := x.queue ++ [⟨.core s.fc, n⟩] } ∧
      (u.core s.fk s.fc).run = .blocked (.sem d n) ∧ (u.core s.fk s.fc).pc = s.fcore.pc) ∧
    (∃ u, exec (.semtry f) s = .next u ∧
      (let ok := decide (x.queue = []) && decide (n ≤ x.val);
        (u.bank s.fk).sem d = (if ok then { x with val := x.val - n } else x) ∧
        (s.fcore.loop = none → f.s1.toNat % 16 ≠ 0 → (u.core s.fk s.fc).pred (f.s1.toNat % 16) = ok) ∧
        (∀ m, m ≠ d → (u.bank s.fk).sem m = (s.bank s.fk).sem m) ∧ t.OnlyBank u))

/-- The owner of a mutex may only free it; others take a free one that nobody waits for, or wait at the tail, or are told no; freeing
what one does not own traps; each trap carries the mutex's number (04 R77). -/
def Mutexes : Prop :=
  ∀ (f : FmtS) (s : State), s.Enabled f.g → f.d.toNat < 16 →
    let d := f.d.toNat
    let m := (s.bank s.fk).mutex d
    let trapped := Host.Outcome.next (s.stopped s.fk s.fc (.trap cMUTEX (wNat d)))
    (m.owner = some s.fc → exec (.mtxlock f) s = trapped ∧ exec (.mtxtry f) s = trapped ∧
      ∃ u, exec (.mtxfree f) s = .next u ∧ (u.bank s.fk).mutex d = { m with owner := none } ∧ s.OnlyBank u) ∧
    (m.owner ≠ some s.fc → exec (.mtxfree f) s = trapped) ∧
    (m.owner = none → m.queue = [] →
      (∃ u, exec (.mtxlock f) s = .next u ∧ (u.bank s.fk).mutex d = { m with owner := some s.fc } ∧ s.OnlyBank u) ∧
      (∃ u, exec (.mtxtry f) s = .next u ∧ (u.bank s.fk).mutex d = { m with owner := some s.fc } ∧
        (s.fcore.loop = none → f.s1.toNat % 16 ≠ 0 → (u.core s.fk s.fc).pred (f.s1.toNat % 16) = true))) ∧
    (m.owner ≠ some s.fc → ¬ (m.owner = none ∧ m.queue = []) →
      (∃ u, exec (.mtxlock f) s = .next u ∧ (u.bank s.fk).mutex d = { m with queue := m.queue ++ [s.fc] } ∧
        (u.core s.fk s.fc).run = .blocked (.mutex d) ∧ (u.core s.fk s.fc).pc = s.fcore.pc) ∧
      (∃ u, exec (.mtxtry f) s = .next u ∧ (u.bank s.fk).mutex d = m ∧
        (s.fcore.loop = none → f.s1.toNat % 16 ≠ 0 → (u.core s.fk s.fc).pred (f.s1.toNat % 16) = false)))

/-! ## Traps and the system instructions (15) -/

/-- Taking a trap on a core of a tile task that has a handler and is not in it: EPC, CAUSE, TVAL and H are set, a running loop is held,
the core goes on at the handler; it leaves every queue of waiters, awaiting registers become full; ENGINE_FAULT clears the stopped queue of the
entry at fault and those behind it; no other register, no memory and no other
cell changes (15 R287, R290). -/
def TrapEntry : Prop :=
  ∀ (s : State) (k cause : Nat) (c : CoreIx) (tval h : Word),
    isPriv k c = false → endsTask cause = false → (cause = cENGINE → endsTask tval.toNat = false) → (s.bank k).handler c = some h → (s.bank k).spec = false →
    (s.core k c).h = false → (s.core k c).pending = false →
    let r := s.core k c
    let t := s.takeTrap k c cause tval
    let r' := t.core k c
    r'.epc = r.pc ∧ r'.cause = wNat cause ∧ r'.tval = tval ∧ r'.h = true ∧ r'.pc = h ∧ r'.loop = none ∧ r'.held = r.loop.or r.held ∧
      r'.run = .running ∧ (∀ i, i < 32 → (r'.xreg i).val = (r.xreg i).val ∧ (r'.xreg i).poison = (r.xreg i).poison) ∧
      r'.a = r.a ∧ r'.p = r.p ∧ r'.status = r.status ∧ r'.lc = r.lc ∧ r'.rbase = r.rbase ∧
      (∀ e, cause = cENGINE → engineOf (s.cls k) k c = some e → ((t.bank k).engine e).stop = none ∧
        ∀ u, ((s.bank k).engine e).culprit = some u →
          ((t.bank k).engine e).entries = ((s.bank k).engine e).entries.filter (fun x => decide (x.uid < u))) ∧
      (∀ m, ((t.bank k).sem m).val = ((s.bank k).sem m).val) ∧ (∀ d, d ≠ c → (t.bank k).core d = (s.bank k).core d) ∧
      t = s.setBank k (t.bank k)

/-- Firmware enters its own vector on a trap (15 R287; 19 R349). -/
def FirmwareTrapEntry : Prop :=
  ∀ (s : State) (k cause : Nat) (tval : Word), isService k = true → (s.core k .x).h = false →
    (s.core k .x).pending = false →
    let r' := (s.takeTrap k .x cause tval).core k .x
    r'.epc = (s.core k .x).pc ∧ r'.cause = wNat cause ∧ r'.tval = tval ∧ r'.h = true ∧ r'.pc = wNat (s.fwEntry (k / 128))

/-- A trap of a task that no speculative run holds waits until no long-latency result is on its way: the core blocks with it (02 R33). -/
def TrapAwaitsResults : Prop :=
  ∀ (s : State) (k cause : Nat) (c : CoreIx) (tval : Word), (s.core k c).pending = true → (s.bank k).spec = false →
    let t := s.takeTrap k c cause tval
    (t.core k c).run = .blocked (.trap cause tval) ∧ (t.core k c).pc = (s.core k c).pc ∧ (t.core k c).epc = (s.core k c).epc ∧
      t = s.setBank k (t.bank k)

/-- A trap that no handler may take ends the task with its cause, and a trap inside the handler ends it as DOUBLE_TRAP with the second
cause as TVAL: every core of the cell stops, and the first cause stands; with ENGINE_FAULT its engine's cause is kept beside it
(15 R287 to R290). -/
def TrapEndsTask : Prop :=
  ∀ (s : State) (k cause : Nat) (c : CoreIx) (tval : Word) (t0 : Task),
    isPriv k c = false → (s.bank k).task = some t0 → t0.spec = false → (s.bank k).ending = none → (s.core k c).pending = false →
    let eng := if cause = cENGINE then tval.toNat else 0
    let stop := fun (t : State) (cs : Nat) (tv : Word) (en : Nat) =>
      (t.bank k).ending = some ⟨c, cs, tv, (s.core k c).pc, en⟩ ∧ (t.bank k).task = some t0 ∧
      (∀ d, (s.core k d).run ≠ .absent → (t.core k d).run = .stopped) ∧
      t = s.setBank k (t.bank k)
    (endsTask cause = true ∨ endsTask eng = true ∨ (s.bank k).handler c = none → stop (s.takeTrap k c cause tval) cause tval eng) ∧
    (∀ h, endsTask cause = false → endsTask eng = false → (s.bank k).handler c = some h → (s.core k c).h = true →
      stop (s.takeTrap k c cause tval) cDOUBLE (wNat cause) 0)

/-- The services of ECALL and their answers by the argument in X1 (15 R304). -/
noncomputable def ecallTable : List ((FmtY → Instr) × (State → Word → Word × Word)) :=
  [(.ecallTime, fun s _ => (0, wNat s.time)),
    (.ecallErrorCount, fun s _ => (0, wNat (s.cell s.fk).errors)),
    (.ecallLocation, fun s _ => (0, wNat (s.fk % 128 * 64 + s.fk / 128))),
    (.ecallDiscovery, fun s x => if x.toNat < 516 then (0, s.discWord x.toNat) else (2, 0)),
    (.ecallUnsupported, fun _ _ => (1, 0))]

/-- CTXSAVE, with no result or entry outstanding, stores the area at As.PTR: header, scalar section with the next address, unit
sections, and the keyed CHECK word over them (15 R293 to R297). -/
def ContextSave : Prop :=
  ∀ (f : FmtY) (s : State), s.Enabled f.g → s.quiet = .ok () →
    let t := s.putCore s.fcore.fillAwaiting
    let a := s.fcore.areg f.a
    let ws := (t.contents s.fk).area (s.cls s.fk) s.fk s.fc (s.fcore.pc + 8)
    t.checkArea s.fk a a.ptr.toNat (8 * (ws.length + 1)) .write = .ok () →
    (wAt ws 0).toNat / 2 ^ 48 = 0xC7A5 ∧ (wAt ws 0).toNat % 2 ^ 32 = (ws.length + 1) % 2 ^ 32 ∧
    (∀ i, 1 ≤ i → i < 32 → wAt ws (6 + i) = (s.fcore.xreg i).val) ∧ wAt ws (7 + 136) = s.fcore.pc + 8 ∧
    exec (.ctxsave f) s =
      .next ((t.areaStore s.fk a (bytesOf (ws ++ [Config.keyedTag (s.bank s.fk).ctxKey ws]))).retire s.fk s.fc 1)

/-- CTXLOAD of an area that agrees with the core and the task sets every register of the scalar section from it; one that does not raises CTX_INVALID with the
index of the first word that disagrees (15 R297). -/
def ContextLoad : Prop :=
  ∀ (f : FmtY) (s u : State) (n : Nat) (bs : List Byte), s.Enabled f.g → s.quiet = .ok () →
    let t := s.putCore s.fcore.fillAwaiting
    let a := s.fcore.areg f.a
    t.checkArea s.fk a a.ptr.toNat 8 .read = .ok () → n = leNat (t.areaLoad s.fk a a.ptr.toNat 8).2.1 % 2 ^ 32 →
    t.checkArea s.fk a a.ptr.toNat (8 * n) .read = .ok () → t.areaLoad s.fk a a.ptr.toNat (8 * n) = (u, bs, false) →
    let ws := wordsOf n bs
    (∀ i, u.badWord ws = some i → exec (.ctxload f) s = .next (s.stopped s.fk s.fc (.trap cCTX (wNat i)))) ∧
    (u.badWord ws = none → ∃ v, exec (.ctxload f) s = .next v ∧
      let r := v.core s.fk s.fc
      (∀ i, 1 ≤ i → i < 32 → r.xreg i = ⟨wAt ws (6 + i), (wAt ws 38).getLsbD i, .full⟩) ∧
      r.epc = wAt ws 135 ∧ r.cause = wAt ws 136 ∧ r.tval = wAt ws 137 ∧ r.lc = wAt ws 132 ∧
      r.rbase = wAt ws 133 ∧ (∀ j, 1 ≤ j → j < 16 → vget r.a j {} = aAt ws (35 + 4 * j)) ∧
      r.livep = (wAt ws 2).truncate 16 ∧ (∀ i, i < 16 → r.p.getLsbD i = ((wAt ws 99).getLsbD i && (wAt ws 2).getLsbD i)) ∧
      (∀ j, j < 8 → let w := vget r.win j {}; let c := aAt ws (100 + 4 * j);
        w.bound = decide (c.kind ≠ 0) ∧ (c.kind ≠ 0 → w.reg = c)) ∧
      r.status = wAt ws 134 &&& 0xFFFFFFFF00000E1F ∧ r.h = (wAt ws 1).getLsbD 32 ∧ r.spillptr = s.fcore.spillptr)

/-! ## Vector instructions (07) -/

/-- An elementwise instruction: its sources, the tags they may carry, whether it may round stochastically, and its function of the
sources' patterns in the floating and in the integer class. -/
structure VRow where
  ins   : FmtV → Instr
  srcs  : FmtV → State → List Opnd
  cls   : Nat → Bool
  draws : Bool
  ff    : FmtV → Nat → Fmt → Rm → List Nat → Nat × Flags
  fi    : FmtV → Nat → List Nat → Nat × Flags

/-- Sums, products, quotients and choices (07 R136, R137). -/
def vecArith : List VRow :=
  [⟨.vadd, srcAB, clsFI, true, fun f => onF f (fun d l => Fp.add d (fv l 0) (fv l 1)), fun f => onI f (fun a b _ => a + b)⟩,
    ⟨.vsub, srcAB, clsFI, true, fun f => onF f (fun d l => Fp.add d (fv l 0) (fv l 1).neg), fun f => onI f (fun a b _ => a - b)⟩,
    ⟨.vmul, srcAB, clsFI, true, fun f => onF f (fun _ l => Fp.mul (fv l 0) (fv l 1)), fun f => onI f (fun a b _ => a * b)⟩,
    ⟨.vfma, srcABC, clsFI, true, fun f => onF f (fun d l => Fp.fma d (fv l 0) (fv l 1) (fv l 2)),
      fun f => onI f (fun a b c => a * b + c)⟩,
    ⟨.vfms, srcABC, clsFI, true, fun f => onF f (fun d l => Fp.fma d (fv l 0) (fv l 1) (fv l 2).neg),
      fun f => onI f (fun a b c => a * b - c)⟩,
    ⟨.vfnma, srcABC, clsFI, true, fun f => onF f (fun d l => Fp.fma d (fv l 0).neg (fv l 1) (fv l 2)),
      fun f => onI f (fun a b c => c - a * b)⟩,
    ⟨.vdiv, srcAB, isF, true, fun f => onF f (fun _ l => Fp.div (fv l 0) (fv l 1)), fun _ => noI⟩,
    ⟨.vmin, srcAB, clsFI, true, fun f => onF f (fun _ l => Fp.minmax false (fv l 0) (fv l 1)),
      fun f w ps => (if iv f w ps 0 ≤ iv f w ps 1 then pat ps 0 else pat ps 1, {})⟩,
    ⟨.vmax, srcAB, clsFI, true, fun f => onF f (fun _ l => Fp.minmax true (fv l 0) (fv l 1)),
      fun f w ps => (if iv f w ps 1 ≤ iv f w ps 0 then pat ps 0 else pat ps 1, {})⟩]

/-- Operations of one source, VCLAMP, and the functions of 07 R136, R139. -/
def vecUnary : List VRow :=
  [⟨.vabs, srcA, clsFI, true, fun f => onF f (fun _ l => unaryF Fp.abs (fv l 0)), fun f => onI f (fun a _ _ => |a|)⟩,
    ⟨.vneg, srcA, clsFI, true, fun f => onF f (fun _ l => unaryF Fp.neg (fv l 0)), fun f => onI f (fun a _ _ => -a)⟩,
    ⟨.vsgn, srcA, clsFI, true, fun f => onF f (fun _ l => unaryF signF (fv l 0)), fun f => onI f (fun a _ _ => a.sign)⟩,
    ⟨.vrsq, srcA, (· == 1), false, fun _ _ _ _ ps => rsqSeed (pat ps 0), fun _ => noI⟩,
    ⟨.vrcp, srcA, isF, true, fun f => onF f (fun _ l => Fp.div (.fin 1 false) (fv l 0)), fun _ => noI⟩]

/-- The transcendental functions (07 R139). -/
def vecFunctions : List VRow :=
  [⟨.vexp2, srcA, isF, true, fun f free fm md ps => TFun.exp2.apply fm md f.sat free (fm.value (pat ps 0)), fun _ => noI⟩,
    ⟨.vlog2, srcA, isF, true, fun f free fm md ps => TFun.log2.apply fm md f.sat free (fm.value (pat ps 0)), fun _ => noI⟩,
    ⟨.vactGelu, srcA, isF, true, fun f free fm md ps => TFun.gelu.apply fm md f.sat free (fm.value (pat ps 0)), fun _ => noI⟩,
    ⟨.vactSilu, srcA, isF, true, fun f free fm md ps => TFun.silu.apply fm md f.sat free (fm.value (pat ps 0)), fun _ => noI⟩,
    ⟨.vactTanh, srcA, isF, true, fun f free fm md ps => TFun.tanh.apply fm md f.sat free (fm.value (pat ps 0)), fun _ => noI⟩,
    ⟨.vactSigm, srcA, isF, true, fun f free fm md ps => TFun.sigm.apply fm md f.sat free (fm.value (pat ps 0)), fun _ => noI⟩]

/-- VCLAMP, VROUND and ReLU (07 R136, R139). -/
def vecShape : List VRow :=
  [⟨.vclamp, srcABC, clsFI, true,
      fun f => onF f (fun _ l => ((Fp.minmax false (Fp.minmax true (fv l 0) (fv l 1)).1 (fv l 2)).1,
        (Fp.minmax true (fv l 0) (fv l 1)).2.or (Fp.minmax false (Fp.minmax true (fv l 0) (fv l 1)).1 (fv l 2)).2)),
      fun f w ps =>
        let m := max (iv f w ps 0) (iv f w ps 1)
        (if m ≤ iv f w ps 2 then (if iv f w ps 1 ≤ iv f w ps 0 then pat ps 0 else pat ps 1) else pat ps 2, {})⟩,
    ⟨.vround, srcA, isF, true, fun f _ fm md ps =>
      match fm.value (pat ps 0) with
      | .fin v n =>
        let r := fm.result .rne f.sat (.fin (roundInt md v) n)
        (r.1, r.2.or { nx := decide ((roundInt md v : Rat) ≠ v) })
      | .nan sg => (fm.nan, { inv := sg })
      | x => fm.result md f.sat x, fun _ => noI⟩,
    ⟨.vactRelu, srcA, clsFI, true, fun f => onF f (fun _ l => match fv l 0 with
      | .nan sg => (.nan false, { inv := sg })
      | .inf n => (if n then .fin 0 false else .inf false, {})
      | .fin v n => (if 0 < v then .fin v n else .fin 0 false, {})),
      fun f w ps => (if 0 < iv f w ps 0 then pat ps 0 else 0, {})⟩]

/-- Bitwise operations on the patterns of integer elements (07 R140). -/
def vecBits : List ((FmtV → Instr) × (FmtV → State → List Opnd) × (FmtV → Nat → List Nat → Nat)) :=
  [(.vand, srcAB, fun _ _ ps => pat ps 0 &&& pat ps 1),
    (.vor, srcAB, fun _ _ ps => pat ps 0 ||| pat ps 1),
    (.vxor, srcAB, fun _ _ ps => pat ps 0 ^^^ pat ps 1),
    (.vlut3, srcABC, fun f w ps => lutNat (ttOf f) w (pat ps 0) (pat ps 1) (pat ps 2)),
    (.vshl, srcAB, fun _ w ps => pat ps 0 <<< (pat ps 1 % w)),
    (.vshr, srcAB, fun _ w ps => pat ps 0 >>> (pat ps 1 % w)),
    (.vsar, srcAB, fun _ w ps => (intOf w true (pat ps 0) / (2 ^ (pat ps 1 % w) : Nat) % (2 ^ w : Nat)).toNat),
    (.vfshl, srcAB, fun f w ps => (pat ps 0 * 2 ^ w + pat ps 1) * 2 ^ (f.sub.toNat % w) / 2 ^ w),
    (.vfshr, srcAB, fun f w ps => (pat ps 0 * 2 ^ w + pat ps 1) / 2 ^ (f.sub.toNat % w)),
    (.vpopc, srcA, fun _ w ps => (List.range w).countP (fun i => (pat ps 0).testBit i)),
    (.vclz, srcA, fun _ w ps => if pat ps 0 = 0 then w else w - 1 - Nat.log2 (pat ps 0))]

/-- The bitwise instructions on each enabled lane; no flag changes (07 R140). -/
def VectorBitwise : Prop :=
  ∀ p ∈ vecBits, ∀ (f : FmtV) (s : State), s.fcore.stageOn = true → f.d.toNat < 48 → s.mem.wf →
    let os := p.2.1 f s
    let tag := match os with | o :: _ => o.tag | [] => 0
    let en := s.enabled f.g tag (elemCount tag)
    sameTags isN os = .ok () → en ≠ [] → s.checkPorts (os.map (fun o => o.need en)) = .ok () →
    ∃ t, exec (p.1 f) s = .next t ∧
      s.VWrote t f.d tag (lanes en (fun i => (p.2.2 f (tagBits tag) (os.map (fun o => o.el i)), os.any (fun o => o.elBad i)))) ∧
      (t.core s.fk s.fc).status = s.fcore.status

/-- VDOT4 (0x9B): each enabled INT32 lane gains four INT8 products, saturated under SAT; other tags raise TAG_MISMATCH (07 R138). -/
def VectorDot : Prop :=
  ∀ (f : FmtV) (s : State), s.fcore.stageOn = true → f.d.toNat < 48 → s.mem.wf →
    let a := s.opnd f.a
    let b := s.opnd f.b
    let c := s.opnd f.c
    let en := s.enabled f.g 6 256
    let quad := en.flatMap (fun i => (List.range 4).map (fun k => 4 * i + k))
    (encode (.vdot4 f)).map (fun w => field w 35 9) = [0x9B] ∧
    (∀ o, (if a.tag ≠ 8 then some a else if b.tag ≠ 8 then some b else if c.tag ≠ 6 then some c else none) = some o →
      exec (.vdot4 f) s = .next (s.stopped s.fk s.fc (.trap cTAG (tagTval o.spec o.tag)))) ∧
    (a.tag = 8 → b.tag = 8 → c.tag = 6 → en ≠ [] → s.checkPorts [a.need quad, b.need quad, c.need en] = .ok () →
    let sum := fun i : Nat => intOf 32 true (c.el i) +
      intOf 8 f.sa (a.el (4 * i)) * intOf 8 f.sb (b.el (4 * i)) + intOf 8 f.sa (a.el (4 * i + 1)) * intOf 8 f.sb (b.el (4 * i + 1)) +
      intOf 8 f.sa (a.el (4 * i + 2)) * intOf 8 f.sb (b.el (4 * i + 2)) + intOf 8 f.sa (a.el (4 * i + 3)) * intOf 8 f.sb (b.el (4 * i + 3))
    let clamped := fun i => if f.sat then max (-2147483648) (min 2147483647 (sum i)) else sum i
    ∃ (t : State) (bad : Nat → Bool), exec (.vdot4 f) s = .next t ∧
      s.VWrote t f.d 6 (lanes en (fun i => ((clamped i % 4294967296).toNat, bad i))) ∧
      (∀ i, bad i = (c.elBad i || (List.range 4).any (fun k => a.elBad (4 * i + k) || b.elBad (4 * i + k)))))

/-- VMOV and VTAG copy lanes, VTAG under another tag; VSPLAT fills lanes or a slot from an X register; VZERO clears lanes (07 R135). -/
def VectorWholeMoves : Prop :=
  (∀ (f : FmtV) (s : State), s.fcore.stageOn = true → f.d.toNat < 48 → s.mem.wf →
    let o := s.opnd f.a
    isAny o.tag = true →
    ∀ p ∈ [(Instr.vmov f, o.tag), (Instr.vtag f, f.sub.toNat)], p.2 ≤ 18 →
      let en := whole p.2 (if isBlock p.2 then 0 else o.gs) (s.enabled f.g p.2 (elemCount p.2))
      let w := tagBits p.2
      en ≠ [] → s.checkPorts [⟨o, w, s.enabled f.g p.2 (elemCount p.2)⟩] = .ok () →
      ∃ t, exec p.1 s = .next t ∧ s.VWrote t f.d p.2 (lanes en (fun i => (o.rd (i * w) w, o.bad (i * w) w)))) ∧
  (∀ (f : FmtV) (s : State) (x : Word), s.fcore.stageOn = true → f.d.toNat < 48 → s.mem.wf → f.a.toNat < 32 →
    s.fcore.Holds (f.a.truncate 5) x false →
    let tag := f.b.toNat % 32
    let en := s.enabled f.g tag (elemCount tag)
    en ≠ [] →
    ∃ t, exec (.vsplatV f) s = .next t ∧ s.VWrote t f.d tag (lanes en (fun _ => (x.toNat, false)))) ∧
  (∀ (f : FmtV) (s : State) (x : Word), s.fcore.stageOn = true → f.a.toNat < 32 → s.fcore.Holds (f.a.truncate 5) x false →
    s.enabled f.g 8 1 ≠ [] →
    ∃ t, exec (.vsplatSlot f) s = .next t ∧ vget t.unit.slots (f.sub.toNat % 8) {} = ⟨x, f.b.truncate 5, false⟩ ∧
      (∀ j, j ≠ f.sub.toNat % 8 → vget t.unit.slots j {} = vget s.unit.slots j {}) ∧ t.mem = s.mem ∧ t.unit.tags = s.unit.tags) ∧
  (∀ (f : FmtV) (s : State), s.fcore.stageOn = true → f.d.toNat < 48 → s.mem.wf → 1 ≤ f.sub.toNat → f.sub.toNat ≤ 18 →
    let v := s.fcore.vp f.d.toNat
    let gs := if isQ f.sub.toNat ∧ isQ (vget s.unit.tags v 0).toNat then (vget s.unit.gs v 0).toNat else 0
    let en := whole f.sub.toNat gs (s.enabled f.g f.sub.toNat (elemCount f.sub.toNat))
    en ≠ [] → ∃ t, exec (.vzero f) s = .next t ∧ s.VWrote t f.d f.sub.toNat (lanes en (fun _ => (0, false))))

/-- VGETL brings one enabled lane, chosen modulo the count, to an X register late, sign-extended under sa for an integer tag; VSETL writes
one lane and keeps the others and the tag (07 R135). -/
def VectorLanes : Prop :=
  (∀ (f : FmtV) (s : State) (x : Word), s.fcore.stageOn = true → f.b.toNat < 32 → f.d.toNat < 32 →
    s.fcore.Holds (f.b.truncate 5) x false →
    let o := s.opnd f.a
    let k := x.toNat % elemCount o.tag
    let d : BitVec 5 := f.d.truncate 5
    tagPlain o.tag = true → k ∈ s.enabled f.g o.tag (elemCount o.tag) → s.checkPorts [o.need [k]] = .ok () →
    s.fcore.Ready d → d ≠ 0 →
    ∃ t, exec (.vgetl f) s = .next t ∧ t.mem = s.mem ∧
      (t.core s.fk s.fc).results = s.fcore.results ++ [⟨s.fcore.px d.toNat,
        if f.sa ∧ isFloat o.tag = false then BitVec.ofInt 64 (intOf o.w true (o.el k)) else BitVec.ofNat 64 (o.el k), o.elBad k⟩] ∧
      ((t.core s.fk s.fc).xreg (s.fcore.px d.toNat)).fill = .load) ∧
  (∀ (f : FmtV) (s : State) (x k : Word), s.fcore.stageOn = true → f.d.toNat < 48 → s.mem.wf → f.a.toNat < 32 → f.b.toNat < 32 →
    s.fcore.Holds (f.a.truncate 5) x false → s.fcore.Holds (f.b.truncate 5) k false →
    let o := s.opnd f.d
    let i := k.toNat % elemCount o.tag
    tagPlain o.tag = true → i ∈ s.enabled f.g o.tag (elemCount o.tag) →
    ∃ t, exec (.vsetl f) s = .next t ∧ s.VWrote t f.d o.tag (lanes [i] (fun _ => (x.toNat, false))))

/-- A compare: the class of tags, the outcome and INV of two values, and the outcome of two integers (07 R141, R142). -/
structure CRow where
  ins : FmtV → Instr
  cls : Nat → Bool
  ff  : Fp → Fp → Bool × Bool
  fi  : Int → Int → Bool

/-- The seven compares (07 R142; 04 R64). -/
def vecCompares : List CRow :=
  [⟨.vcmpEq, clsFI, fun a b => (Fp.cmp a b == some .eq, a.isSig || b.isSig), fun a b => decide (a = b)⟩,
    ⟨.vcmpNe, clsFI, fun a b => (!(Fp.cmp a b == some .eq), a.isSig || b.isSig), fun a b => decide (a ≠ b)⟩,
    ⟨.vcmpLt, clsFI, fun a b => (Fp.cmp a b == some .lt, a.isNaN || b.isNaN), fun a b => decide (a < b)⟩,
    ⟨.vcmpLe, clsFI, fun a b => (Fp.cmp a b == some .lt || Fp.cmp a b == some .eq, a.isNaN || b.isNaN), fun a b => decide (a ≤ b)⟩,
    ⟨.vcmpGt, clsFI, fun a b => (Fp.cmp b a == some .lt, a.isNaN || b.isNaN), fun a b => decide (b < a)⟩,
    ⟨.vcmpGe, clsFI, fun a b => (Fp.cmp b a == some .lt || Fp.cmp b a == some .eq, a.isNaN || b.isNaN), fun a b => decide (b ≤ a)⟩,
    ⟨.vcmpUn, isF, fun a b => (a.isNaN || b.isNaN, a.isSig || b.isSig), fun _ _ => false⟩]

/-- What the first and the second mask of a pair take at an enabled bit, by the pair's mode (02 R21; 07 R141). -/
def pairFirst (mode : Nat) (old c : Bool) : Bool := if mode = 1 then old && c else if mode = 2 then old || c else c
def pairSecond (mode : Nat) (old c : Bool) : Bool := if mode = 1 then old && !c else if mode = 2 then old || !c else !c

/-- A pair of masks written at the enabled bits: under mode 3 only the first; of one mask named twice the second write stands. -/
def State.PairWrote (s t : State) (d e mode : Nat) (en : List Nat) (c : Nat → Bool) : Prop :=
  (d ≠ e ∨ mode = 3 → s.KWrote t d (fun i => if i ∈ en then some (pairFirst mode ((s.kmask d).getLsbD i) (c i)) else none)) ∧
  (mode ≠ 3 → s.KWrote t e (fun i => if i ∈ en then some (pairSecond mode ((s.kmask e).getLsbD i) (c i)) else none)) ∧
  (∀ j, j < 16 → j ≠ d → (mode = 3 ∨ j ≠ e) → vget t.unit.k (s.fcore.kp j) 0 = vget s.unit.k (s.fcore.kp j) 0)

/-- A conversion of operand a to a tag: the part p of the register with more elements, the source of each element, the enabled elements that
the part governs, each converted and rounded once (06 R119, R121, R124; 07 R144). -/
def Converts (s : State) (f : FmtV) (ins : Instr) (a : Opnd) (extra : List Opnd) (tag gs : Nat)
    (cv : Rm → Nat → Nat → Nat × Flags) (bad : Nat → Nat → Bool) : Prop :=
  let p := f.c.toNat % 8
  let na := elemCount a.tag
  let nd := elemCount tag
  let src := fun i : Nat =>
    if na ≤ nd then (if p * na ≤ i ∧ i < p * na + na then some (i - p * na) else none)
    else (if i + p * nd < na then some (i + p * nd) else none)
  let asked := (s.enabled f.g tag nd).filter (fun i => decide (nd < na) || (src i).isSome)
  let en := whole tag gs asked
  let m := s.modeFor f.rm true (· % 256) en
  p * min na nd < max na nd → en ≠ [] → s.checkPorts (a.need (asked.filterMap src) :: extra.map (fun o => o.need asked)) = .ok () →
  ∃ t, exec ins s = .next t ∧
    s.VWrote t f.d tag (lanes en (fun i => match src i with
      | some j => ((cv (m i) i j).1, bad i j)
      | none => (0, false))) ∧
    (vget t.unit.gs (s.fcore.vp f.d.toNat) 0).toNat = gs ∧
    (t.core s.fk s.fc).status = orFlags s.fcore.status (orAll (en.map (fun i => match src i with
      | some j => (cv (m i) i j).2
      | none => {})))

/-- A store by the issuing core to spans of its own scratchpad: every other byte of the chip's memory, every other memory, every register of
the unit and the core's X and A registers are the same. -/
def State.PadStored (s t : State) (sps : List (Int × Nat)) : Prop :=
  t.focus = s.focus ∧
  (∀ b, (∀ sp ∈ sps, b < padBase s.fk + sp.1.toNat ∨ padBase s.fk + sp.1.toNat + sp.2 ≤ b) → t.mem.byte b = s.mem.byte b) ∧
  t.hbm = s.hbm ∧ t.hostMem = s.hostMem ∧ t.bufs = s.bufs ∧ t.unit.tags = s.unit.tags ∧ t.unit.gs = s.unit.gs ∧
  t.unit.side = s.unit.side ∧ t.unit.k = s.unit.k ∧ t.unit.slots = s.unit.slots ∧
  (t.core s.fk s.fc).x = s.fcore.x ∧ (t.core s.fk s.fc).a = s.fcore.a

/-! ## Engine queues (05 R92 to R95; 08 R154 to R187; 11 R215 to R241) -/

/-- With its sources full and unpoisoned, its destination free, the queue running and not full, and credit for its wait, an instruction
appends an entry that copies its A registers, sources, rows and SRE; its wait joins the semaphore's waiters and takes credit, its signal gives
credit; its destination stands empty; nothing else of the registers or of any memory changes. more says what else holds of the
next state. -/
def Pushes (s : State) (i : Instr) (e : EngIx) (q : Eng) (op : QOp) (xs : List (BitVec 5)) (dest : Option (BitVec 5))
    (rows : BitVec 128) (park : Bool) (more : List Word → State → Prop) : Prop :=
  ∀ ws : List Word, List.Forall₂ (fun j w => s.fcore.Holds j w false) xs ws → (∀ j ∈ dest, s.fcore.Ready j) →
    let b := s.bank s.fk
    let r := s.fcore
    (b.engine e).stop = none → (b.engine e).entries.length < 16 → (park = true → b.spec = false) →
    (q.wsem ≠ 0 → q.wcnt.toNat + 1 ≤ (b.sem q.wsem.toNat).credit) →
    ∃ t, exec i s = .next t ∧
      let b' := t.bank s.fk
      let d := dest.bind (fun j => if j = 0 then none else some (r.px j.toNat))
      (b'.engine e).entries = (b.engine e).entries ++
        [{ uid := b.uid + 1, op := op, q := q, a := Vector.ofFn (fun n : Fin 16 => r.areg (BitVec.ofNat 4 n.val)), xs := ws, rows := rows,
           sre := stSRE r.status, dest := d }] ∧
      (∀ n, (b'.sem n).val = (b.sem n).val) ∧
      (q.wsem ≠ 0 → (b'.sem q.wsem.toNat).queue = (b.sem q.wsem.toNat).queue ++ [⟨.entry e (b.uid + 1), q.wcnt.toNat + 1⟩]) ∧
      (q.wsem ≠ 0 → q.ssem ≠ q.wsem → (b'.sem q.wsem.toNat).credit = (b.sem q.wsem.toNat).credit - (q.wcnt.toNat + 1)) ∧
      (q.ssem ≠ 0 → q.ssem ≠ q.wsem →
        (b'.sem q.ssem.toNat).credit = min ((b.sem q.ssem.toNat).credit + (q.scnt.toNat + 1)) 4294967295) ∧
      (∀ n, (t.core s.fk s.fc).xreg n = if d = some n then { r.xreg n with fill := .entry } else r.xreg n) ∧
      (t.core s.fk s.fc).a = r.a ∧ t.mem = s.mem ∧ t.hbm = s.hbm ∧ t.hostMem = s.hostMem ∧ t.bufs = s.bufs ∧ more ws t

/-- Nothing more. -/
def noMore (_ : List Word) (_ : State) : Prop := True

/-- A matrix instruction pushes an entry whatever rows its guard enables, which the entry holds; MCFG changes the enabled bits of a row mask
at its push; MSTAT has a destination only if row 0 is enabled (03 R37; 05 R92 to R94; 08 R155, R159, R175, R176). -/
def MatrixPushes : Prop :=
  ∀ s : State, s.fcore.stageOn = true →
    let push := fun (g : Guard) (q : Eng) (i : Instr) => Pushes s i .primary q (.prim i) [] none (s.rowMask g) false noMore
    (∀ f : FmtP, push f.g f.q (.mma f) ∧ push f.g f.q (.mmaz f) ∧ push f.g f.q (.mmat f) ∧ push f.g f.q (.mmaq f) ∧
      push f.g f.q (.mmamx f) ∧ push f.g f.q (.mmast f) ∧ push f.g f.q (.mmac f) ∧ push f.g f.q (.mmacz f)) ∧
    (∀ (g : Guard) (q : Eng) (td ts fn : BitVec 3) (ad as am : BitVec 4) (tag : BitVec 5) (rm gs op : BitVec 2) (sg : Bool) (sh : Shape)
      (v : BitVec 6) (row cnt : BitVec 7) (len : BitVec 22) (count : BitVec 16),
      push g q (.tzero g q td tag sh) ∧ push g q (.tload g q td as tag sg sh) ∧ push g q (.tstore g q ts ad tag rm sh) ∧
      push g q (.tstoreq g q ts ad tag rm sg sh am gs) ∧ push g q (.tstoremx g q ts ad tag rm sh am) ∧
      push g q (.tbias g q td as tag sg sh) ∧ push g q (.tscale g q td ad as tag sh) ∧ push g q (.tact g q td fn sh) ∧
      push g q (.tredr g q ts ad op sh) ∧ push g q (.tredc g q ts ad op sh) ∧ push g q (.ttrans g q td ts sh) ∧
      push g q (.ttov g q ts v row cnt) ∧ push g q (.tfromv g q td v row cnt) ∧ push g q (.mcast g q ad as am len) ∧
      push g q (.mcwait g q op count) ∧ push g q (.mtest g q) ∧ push g q (.tcopy g q td ts sh)) ∧
    (∀ (g : Guard) (q : Eng) (td : BitVec 3) (lo hi : BitVec 5) (sh : Shape),
      Pushes s (.tclamp g q td lo hi sh) .primary q (.prim (.tclamp g q td lo hi sh)) [lo, hi] none (s.rowMask g) false noMore) ∧
    (∀ (g : Guard) (q : Eng) (xd : BitVec 5) (sel : BitVec 3),
      Pushes s (.mstat g q xd sel) .primary q (.prim (.mstat g q xd sel)) [] (if (s.rowMask g).getLsbD 0 then some xd else none)
        (s.rowMask g) false noMore) ∧
    (∀ (g : Guard) (q : Eng) (kd ka kb kc : BitVec 4) (xs : BitVec 5) (h : Bool) (tt : BitVec 8),
      let mask := fun (i : Instr) (x : List (BitVec 5)) (only : Nat → Bool) (new : List Word → Nat → Bool) =>
        Pushes s i .primary q (.prim i) x none (s.rowMask g) false (fun ws t =>
          (kd ≠ 0 → ∀ n, n < 128 → (vget (t.bank s.fk).mx.k (s.fcore.kp kd.toNat) 0).getLsbD n =
            if (s.rowMask g).getLsbD n && only n then new ws n else (s.rowK kd.toNat).getLsbD n) ∧
          (∀ j, j ≠ s.fcore.kp kd.toNat → vget (t.bank s.fk).mx.k j 0 = vget (s.bank s.fk).mx.k j 0))
      mask (.mcfgKset g q kd xs) [xs] (fun _ => true) (fun ws n => decide (n < ((ws.head?).getD 0).toNat)) ∧
      mask (.mcfgKput g q kd xs h) [xs] (fun n => decide (n / 64 = h.toNat)) (fun ws n => ((ws.head?).getD 0).getLsbD (n % 64)) ∧
      mask (.mcfgKlut g q kd ka kb kc tt) [] (fun _ => true)
        (fun _ n => ttAt tt ((s.rowK ka.toNat).getLsbD n) ((s.rowK kb.toNat).getLsbD n) ((s.rowK kc.toNat).getLsbD n)))

/-- A sparse or a sort instruction pushes an entry if its guard is true (03 R37; 05 R92 to R94; 08 R178, R183, R184, R187). -/
def SparseSortPushes : Prop :=
  ∀ s : State,
    let push := fun (g : Guard) (q : Eng) (i : Instr) => s.Enabled g → Pushes s i .primary q (.prim i) [] none 0 false noMore
    (∀ f : FmtSp, ∀ i ∈ [Instr.spmm f, .spmmz f, .spmmb f, .spmv f, .sddmm f, .spgath f, .spscat f, .spseg f, .spisect f, .spunion f,
      .spcsr f, .spdense f, .sptrans f, .spcount f, .spscan f, .embag f], push f.g f.q i) ∧
    (∀ f : FmtSo, ∀ i ∈ [Instr.sort f, .sortkv f, .topk f, .topkv f, .merge f, .mergekv f, .argsort f, .kth f, .unique f, .partn f,
      .histo f, .search f], push f.g f.q i) ∧
    (∀ (g : Guard) (q : Eng) (item sel : BitVec 3) (x : BitVec 5), s.Enabled g →
      Pushes s (.spcfg g q item x) .primary q (.prim (.spcfg g q item x)) [x] none 0 false noMore ∧
      Pushes s (.spstat g q x sel) .primary q (.prim (.spstat g q x sel)) [] (some x) 0 false noMore ∧
      Pushes s (.srtcfg g q item x) .primary q (.prim (.srtcfg g q item x)) [x] none 0 false noMore ∧
      Pushes s (.srtstat g q x sel) .primary q (.prim (.srtstat g q x sel)) [] (some x) 0 false noMore)

/-- The copy instructions, the instruction, its opcode, its X sources, its X destination, and whether a speculative run parks it. -/
noncomputable def copyTable : List ((FmtX → Instr) × Nat × (FmtX → List (BitVec 5)) × (FmtX → Option (BitVec 5)) × (FmtX → AReg → Bool)) :=
  [(.xcopy, 0x180, fun _ => [], fun _ => none, fun _ _ => false),
    (.xcopyw, 0x181, fun _ => [], fun _ => none, fun _ _ => false),
    (.xcopyc, 0x182, fun _ => [], fun _ => none, fun _ _ => false),
    (.xcopyh, 0x183, fun _ => [], fun _ => none, fun _ d => d.kind == 4),
    (.xfill, 0x184, fun f => [f.xs], fun _ => none, fun _ _ => false),
    (.xgath, 0x185, fun _ => [], fun _ => none, fun _ _ => false),
    (.xred, 0x186, fun _ => [], fun _ => none, fun _ _ => false),
    (.xconv, 0x187, fun _ => [], fun _ => none, fun _ _ => false),
    (.xlayout, 0x188, fun _ => [], fun _ => none, fun _ _ => false),
    (.xpush, 0x189, fun _ => [], fun f => some f.xs, fun _ _ => true),
    (.xpull, 0x18A, fun _ => [], fun f => some f.xs, fun _ _ => false)]

/-- The atomics and their opcodes. -/
noncomputable def amoTable : List ((FmtA → Instr) × Nat) :=
  [(.amoadd, 0x190), (.amomax, 0x191), (.amomin, 0x192), (.amoand, 0x193), (.amoor, 0x194), (.amoxch, 0x195)]

/-- Entry ent of cell k's primary engine, for instruction i, is the next to start: its wait is granted or it has none, the cell's task holds its
cores, no self-test is due. -/
def Starting (s : State) (k : Nat) (ent : Entry) (i : Instr) : Prop :=
  (s.bank k).upNext .primary = some ent ∧ (ent.stage = .granted ∨ ent.q.wsem = 0) ∧ s.mayStart k = true ∧ s.testDue k = false ∧
    ent.op = .prim i

/-- Words of a tile: those at rows of a list and columns below n take a value, every other word of every tile keeps its own; the tile takes a
tag; no scratchpad byte changes. -/
def TileIs (s t : State) (k : Nat) (td : BitVec 3) (tag : Nat) (rows : List Nat) (n : Nat) (val : Nat → Nat → Nat) : Prop :=
  t.tileTag k td = tag ∧
  (∀ i j, i < 128 → j < 256 → t.tileWord k td i j = if i ∈ rows ∧ j < n then val i j % 4294967296 else s.tileWord k td i j) ∧
  (∀ x : BitVec 3, x ≠ td → ∀ i j, i < 128 → j < 256 → t.tileWord k x i j = s.tileWord k x i j) ∧
  (∀ o, o < 1048576 → t.mem.byte (padBase k + o) = s.mem.byte (padBase k + o))

/-- MMA, MMAZ and MMAT (and MMAC, MMACZ outside a group) at their start: each enabled element of the tile becomes, for integers, the exact sum of
products modulo 2^32, and otherwise the accumulation of its products in groups of 32 by k (06 R125; 08 R159 to R162, R166). -/
def MatrixProducts : Prop :=
  ∀ (f : FmtP) (s : State) (k : Nat) (ent : Entry), s.cls k = 1 → s.mem.wf →
    ∀ p ∈ [(Instr.mma f, false), (.mmaz f, true), (.mmat f, f.z), (.mmac f, false), (.mmacz f, true)], Starting s k ent p.1 →
    (s.bank k).gsize = 1 →
    let int := isI f.taga.toNat || f.taga == 9
    let a := ent.areg f.aa
    let b := ent.areg f.ab
    let rows := (List.range (f.m1.toNat + 1)).filter (fun i => ent.rows.getLsbD i)
    let n := f.n1.toNat + 1
    let kk := f.k1.toNat + 1
    let ea := fun i c => s.opEl k a (tagBits f.taga.toNat) (if f.ta then c * (f.m1.toNat + 1) + i else i * kk + c)
    let eb := fun j c => s.opEl k b (tagBits f.tagb.toNat) (if f.tb then j * kk + c else c * n + j)
    rows ≠ [] → (p.2 = false → s.tileTag k f.td = if int then 6 else 1) →
    s.checkFactor k (s.factorA k a f) rows = .ok () → s.checkFactor k (s.factorB k b f) [0] = .ok () →
    ∃ t, exec (.engineEntryStart k .primary) s = .next t ∧
      TileIs s t k f.td (if int then 6 else 1) rows n (fun i j =>
        if int then
          ((((if p.2 then 0 else s.tileWord k f.td i j : Nat) : Int) + ((List.range kk).map (fun c =>
            intOf (tagBits f.taga.toNat) f.sa (ea i c) * intOf (tagBits f.tagb.toNat) f.sb (eb j c))).sum) % 4294967296).toNat
        else (accumulate (if p.2 then none else some (s.tileWord k f.td i j)) ((List.range kk).map (fun c =>
          (Fp.mul (plainValue f.taga.toNat f.sa (ea i c)) (plainValue f.tagb.toNat f.sb (eb j c))).1))).1)

/-- TZERO, TCOPY, TTRANS and TLOAD at their start (08 R158, R159, R170). -/
def TileMoves : Prop :=
  ∀ (g : Guard) (q : Eng) (td ts : BitVec 3) (as : BitVec 4) (tag : BitVec 5) (sa : Bool) (sh : Shape) (s : State) (k : Nat) (ent : Entry),
    s.cls k = 1 → s.mem.wf →
    let m := sh.m1.toNat + 1
    let n := sh.n1.toNat + 1
    let rows := fun (x : Nat) => (List.range x).filter (fun i => ent.rows.getLsbD i)
    let after := fun (i : Instr) (tg : Nat) (rs : List Nat) (n : Nat) (val : Nat → Nat → Nat) => Starting s k ent i → rs ≠ [] →
      ∃ t, exec (.engineEntryStart k .primary) s = .next t ∧ TileIs s t k td tg rs n val
    after (.tzero g q td tag sh) tag.toNat (rows m) n (fun _ _ => 0) ∧
    (s.tileTag k ts = 1 ∨ s.tileTag k ts = 6 →
      after (.tcopy g q td ts sh) (s.tileTag k ts) (rows m) n (fun i j => s.tileWord k ts i j) ∧
      after (.ttrans g q td ts sh) (s.tileTag k ts) ((rows n).filter (fun i => decide (i < 128))) m (fun i j => s.tileWord k ts j i)) ∧
    (s.checkOpnd k true (ent.areg as) .read ((rows m).map (fun i => elemsSpan (tagBits tag.toNat) (i * n) n)) = .ok () →
      after (.tload g q td as tag sa sh) (if isFloat tag.toNat then 1 else 6) (rows m) n (fun i j =>
        let e := s.opEl k (ent.areg as) (tagBits tag.toNat) (i * n + j)
        if isFloat tag.toNat then (fp32.result .rne false ((fmtOf tag.toNat).value e)).1
        else (intOf (tagBits tag.toNat) sa e % 4294967296).toNat))

/-- SORT and TOPK at their start write keys of the input, in order, equal ones in input order; SORT writes a permutation of its input
(08 R185, R186). -/
def SortedKeys : Prop :=
  ∀ (f : FmtSo) (s : State) (k : Nat) (ent : Entry), s.cls k ≠ 1 → s.cls k ≠ 2 → s.mem.wf →
    ∀ p ∈ [(Instr.sort f, f.n1.toNat + 1), (Instr.topk f, f.m1.toNat + 1)], Starting s k ent p.1 → p.2 ≤ f.n1.toNat + 1 →
    let w := tagBits f.kt.toNat
    let a := ent.areg f.ak
    let o := ent.areg f.ao
    let ins : List SoReg := [⟨a, w / 8, f.n1.toNat + 1⟩]
    s.soCheck k [⟨o, w / 8, p.2⟩] ins (fun x y => p.1 == .sort f && SoReg.same k x y) = .ok () → w % 8 = 0 → 0 < w →
    ∃ (t : State) (order : List Nat), exec (.engineEntryStart k .primary) s = .next t ∧
      order.Perm (List.range (f.n1.toNat + 1)) ∧
      order.Pairwise (fun i j =>
        let x := s.opEl k a w i
        let y := s.opEl k a w j
        precedes f.kt.toNat f.s f.desc y x = false ∧ (precedes f.kt.toNat f.s f.desc x y = true ∨ i < j)) ∧
      (∀ i, i < p.2 → t.opEl k o w i = s.opEl k a w ((order[i]?).getD 0)) ∧
      (∀ b, b < o.onChip k 0 ∨ o.onChip k 0 + p.2 * (w / 8) ≤ b → t.mem.byte b = s.mem.byte b)

/-- A linear XCOPY within the scratchpad at its start copies LEN bytes and changes no other byte of any memory (11 R217, R218, R220). -/
def ScratchpadCopies : Prop :=
  ∀ (f : FmtX) (s : State) (k : Nat) (ent : Entry) (p : Plan), s.mem.wf →
    (s.bank k).upNext .transfer = some ent → (ent.stage = .granted ∨ ent.q.wsem = 0) → s.mayStart k = true →
    ent.op = .xfer (.copy 0x180 f) → s.xferReady k ent = true → f.at_ = 0 →
    let a := ent.areg f.as
    let d := ent.areg f.ad
    let n := f.len1.toNat + 1
    a.kind = 1 → d.kind = 1 → s.plan k ent 0x180 f = .ok p → a.ptr.toNat + n ≤ s.padSize k → d.ptr.toNat + n ≤ s.padSize k →
    ∃ t, exec (.engineEntryStart k .transfer) s = .next t ∧
      (∀ i, i < n → t.mem.byte (padBase k + d.ptr.toNat + i) = s.seeByte (padBase k + a.ptr.toNat + i)) ∧
      (∀ b, b < padBase k + d.ptr.toNat ∨ padBase k + d.ptr.toNat + n ≤ b → t.mem.byte b = s.mem.byte b) ∧
      t.hbm = s.hbm ∧ t.hostMem = s.hostMem ∧ t.bufs = s.bufs

/-! ## Events of a cell (02 R15; 04 R76 to R85; 05 R92 to R101; 08 R167, R168, R177; 10 R209; 11 R216, R225, R236; 15 R289, R298, R301) -/

/-- Far ends, multicasts and rendezvous of the engines: the one answer there is fills its register and its entry completes in turn; a posted write
lands its bytes; ranks that all stand at a CBAR go on to wait for their pending bytes; a multicast's arrival counts at each target; MCWAIT
takes its count; the last granule of a publication completes it (08 R167, R168; 10 R209; 11 R216, R236). -/
def FarEnds : Prop :=
  (∀ (s : State) (k : Nat) (ent : Entry) (v : Option (Word × Bool)),
    (s.bank k).xfer.entries.filter (fun e => (s.replyOf k e).isSome) = [ent] → s.replyOf k ent = some v →
    ∃ t, exec (.farEndReply k) s = .next t ∧
      (t.bank k).xfer.entries = (s.bank k).xfer.entries.map (fun e =>
        if e.uid = ent.uid then { ent with stage := .finished, need := .none, flags := ent.flags ||| ({} : Flags).word } else e) ∧
      (∀ d w, ent.dest = some d → v = some w → d < 32 → (t.core k .x).xreg d = ⟨w.1, w.2, .full⟩) ∧ t.mem = s.mem ∧ t.hbm = s.hbm) ∧
  (∀ (s : State) (k i a : Nat) (p : Posted), (s.cell k).posted[i]? = some p → p.dst = .chip a → p.chan = none → p.mcast = false →
    s.mayLand p ((s.cell k).posted.take i) = true → chipRegion a = 0 → s.mem.wf → (∀ w ∈ p.data, w.m = 0xFF) →
    (s.cell k).pusher p.uid = none →
    ∃ t, exec (.postedWriteLand k i) s = .next t ∧
      (∀ j w, p.data[j]? = some w → t.mem.byte (a + j) = w.v) ∧
      (∀ b, b < a ∨ a + p.data.length ≤ b → t.mem.byte b = s.mem.byte b) ∧
      (t.cell k).posted = (s.cell k).posted.eraseIdx i ∧
      (t.bank (chipKey a)).pb = (s.bank (chipKey a)).pb - p.data.length) ∧
  (∀ (s : State) (k n : Nat) (ent : Nat → Entry), (s.bank k).task.isSome = true → 0 < (s.bank k).gsize →
    (∀ r, r < (s.bank k).gsize → s.atGroup k (s.rankCell k r) .cbar = some (ent r, n)) →
    ∃ t, exec (.groupRendezvous k .cbar) s = .next t ∧ t.mem = s.mem ∧
      (∀ r, r < (s.bank k).gsize → ∃ x ∈ (t.bank (s.rankCell k r)).xfer.entries, x.uid = (ent r).uid ∧ x.need = .pending)) ∧
  (∀ (s : State) (k : Nat) (ent : Entry) (rest : List Entry) (ranks : BitVec 4), (s.bank k).prim.entries = ent :: rest →
    mcastRanks ent.op = some ranks → ent.stage = .far → ent.need = .posted → (s.bank k).rank < 4 →
    ∃ t, exec (.mcastArrival k) s = .next t ∧
      (∀ p ∈ (t.cell k).posted, ¬ (p.mcast = true ∧ p.uid = ent.uid)) ∧
      (∀ i, i < 4 → ranks.getLsbD i = true → vget (t.bank (s.rankCell k i)).mx.arr (s.bank k).rank 0 =
        min (vget (s.bank (s.rankCell k i)).mx.arr (s.bank k).rank 0 + 1) 65535)) ∧
  (∀ (s : State) (k rank count : Nat) (ent : Entry) (rest : List Entry), (s.bank k).prim.entries = ent :: rest → ent.need = .mcwait →
    mcwaitOf ent.op = some (rank, count) → rank < 4 → count ≤ vget (s.bank k).mx.arr rank 0 →
    ∃ t, exec (.mcwaitRelease k) s = .next t ∧ vget (t.bank k).mx.arr rank 0 = vget (s.bank k).mx.arr rank 0 - count ∧
      (∃ x ∈ (t.bank k).prim.entries, x.uid = ent.uid ∧ x.stage = .finished ∧ x.need = .none) ∧ t.mem = s.mem) ∧
  (∀ (s : State) (k i : Nat) (p : Pub) (rest : List Pub) (g : PubGran), (s.bank k).pubs = p :: rest → p.held = false →
    p.granules[i]? = some g →
    let left := p.granules.filter (fun x => !s.tied p.granules g.g x.g)
    ∃ t, exec (.publicationComplete k i) s = .next t ∧
      (t.bank k).pubs = (if left = [] then rest else { p with granules := left } :: rest) ∧
      (p.granules.filter (fun x => s.tied p.granules g.g x.g) = [g] → (s.buf? (g.g * 64 / 2 ^ 64)).isSome = true →
        t.hbm = g.bytes.foldl (fun h e => h.merge e.1 [e.2]) s.hbm) ∧ t.mem = s.mem)

/-- A self-test that is due on a matrix cell whose engine stands between entries restarts both counts: a pass is counted, and failing
sub-arrays, whichever they are (log 2), are fenced and stop the queue (05 R105; 08 R177). Parked elements of a host copy move once
their pages have translations, and a refused page stops the queue with HOST_ACCESS (11 R225). -/
def SelfTestsAndReplays : Prop :=
  (∀ (s : State) (k : Nat) (e : Instr), s.cls k = 1 → isService k = false → (s.bank k).prim.entries = [] → (s.bank k).prim.stop = none →
    (s.bank k).spec = false → (s.core k .e).run = .running →
    (e = .selftestCount k ∧ 4096 ≤ (s.cell k).since) ∨ (e = .selftestTimer k ∧ 1000000 ≤ s.time - (s.cell k).lastTest) →
    ∃ t, exec e s = .next t ∧ (t.cell k).since = 0 ∧ (t.cell k).lastTest = s.time ∧ t.mem = s.mem ∧
      (s.failing k = 0 → (t.cell k).passed = (s.cell k).passed + 1 ∧ (t.bank k).prim.stop = none ∧ t.dies = s.dies) ∧
      (s.failing k ≠ 0 → (t.bank k).prim.stop = some cSELFTEST ∧
        (t.die (k / 128)).fence = (s.die (k / 128)).fence ||| BitVec.ofNat 128 (s.failing k * 2 ^ (8 * (k % 128))))) ∧
  (∀ (s : State) (k : Nat) (ent : Entry) (f : FmtX) (d a : XSide), (s.bank k).xfer.entries.find? (fun e => e.need == .replay) = some ent →
    ent.op = .xfer (.copy 0x183 f) → s.side (ent.areg f.ad) = .ok d → s.side (ent.areg f.as) = .ok a → d.kind = 4 → ent.moves ≠ [] →
    (∀ m ∈ ent.moves, s.pageOk d.h (m.dst / 8) = true ∧ s.pageOk d.h ((m.dst + ent.w - 1) / 8) = true) → s.parkedIn k ent.uid < 64 →
    s.memBad = [] → a.kind = 1 →
    (∀ p ∈ (s.cell k).posted, p.uid ≠ ent.uid) →
    ∃ t, exec (.replayRelease k) s = .next t ∧
      (∃ ps, (t.cell k).posted = (s.cell k).posted ++ ps ∧ ∀ p ∈ ps, p.uid = ent.uid ∧ ∃ adr, p.dst = .host d.h adr) ∧
      (∃ x ∈ (t.bank k).xfer.entries, x.uid = ent.uid ∧ x.stage = .finished ∧ x.moves = []) ∧ t.mem = s.mem ∧ t.hostMem = s.hostMem) ∧
  (∀ (s : State) (k : Nat) (ent : Entry), (s.bank k).xfer.entries.find? (fun e => e.need == .replay) = some ent →
    (s.bank k).spec = false → (s.core k .x).run = .running →
    ∃ t, exec (.hostPageRefused k) s = .next t ∧ (t.bank k).xfer.stop = some cHOST ∧ (t.bank k).xfer.culprit = some ent.uid ∧
      t.mem = s.mem ∧ t.hostMem = s.hostMem)

/-! ## Events of the host link and the fabric (10 R201; 11 R225, R228, R229; 17 R317 to R333) -/

/-- Stream flits: one with a good CRC, the kind and the LSEQ due is taken; OPEN opens its tag's context, DATA adds its payload, which the
oldest context has delivered at once; CLOSE with status 2 ends its context at once as that of a failed die, and another ends the oldest one, which
is done with status 0 only if every flit came; CREDIT returns flits; a bad CRC asks for a replay (17 R317 to R319). -/
def StreamFlits : Prop :=
  ∀ (s : State) (l : Nat) (f : Flit),
    let due := fun (kind : Nat) => flitOk f = true ∧ flitKind f = kind ∧ flitNat f 242 2 = (s.link l).nextLseq
    let taken := fun (t : State) => (t.link l).nextLseq = ((s.link l).nextLseq + 1) % 65536
    (due 1 → flitTag f ≠ 255 → ∃ t, exec (.streamOpen l f) s = .next t ∧ taken t ∧
      t.ctxOf l (flitTag f) = some { link := l, tag := flitTag f, header := f }) ∧
    (∀ c, due 0 → s.ctxOf l (flitTag f) = some c → c.closed = none → ∃ t, exec (.streamData l f) s = .next t ∧ taken t ∧
      ∃ c', t.ctxOf l (flitTag f) = some c' ∧ c'.header = c.header ∧
        c'.got = c.got ++ [(240 * c.got.length, ((f.drop 2).take 240).take (flitNat c.header 12 4 - 240 * c.got.length))] ∧
        (s.fabric.ctxs.head? = some c → c'.wait = [])) ∧
    (∀ c, due 2 → s.ctxOf l (flitTag f) = some c → flitByte f 2 = 2 ∨ s.fabric.ctxs.head? = some c →
      ∃ t more, exec (.streamClose l f) s = .next t ∧ taken t ∧ t.ctxOf l (flitTag f) = none ∧
        t.fabric.done = s.fabric.done ++
          (if flitByte f 2 ≠ 0 ∨ c.got.length = (flitNat c.header 12 4 + 239) / 240 then [(flitByte f 2, c.header, c.got)] else []) ++ more) ∧
    (due 3 → ∃ t, exec (.credit l f) s = .next t ∧ taken t ∧ (t.link l).creq = (s.link l).creq + flitNat f 2 2 ∧
      (t.link l).crsp = (s.link l).crsp + flitNat f 4 2) ∧
    (flitOk f = false → ∃ t, exec (.flitCrcReplay l f) s = .next t ∧ (t.link l).crcBad = (s.link l).crcBad + 1 ∧
      t.host.sent = s.host.sent ++ [.replayRequest l (s.link l).nextLseq])

/-- Whole Odsoga messages for this module, while it serves requests: an admitted PUSH_DATA lands its bytes at the home, one of another epoch
marks its push; PUSH_DONE raises ARRIVE and is acknowledged; PULL_REQ is answered; PUSH_ACK and the last PULL_DONE bring the status to the
waiting entry's X register; an EPOCH, or a module out of reach, makes its remote entries stale; other types are counted (11 R228, R229;
17 R329 to R333). -/
def FabricMessages : Prop :=
  ∀ (s : State) (m : Msg),
    let mine := fun (ty : Nat) => m.type_ = ty ∧ m.dst = s.fabric.moduleId ∧ msgWhole m = true ∧ s.serves = true
    let p := s.inPush m
    (mine 1 → p.stale = false → p.refused = false → p.done = none → m.epoch = s.fabric.epoch →
      s.exported m.handle m.arg m.payload.length 1 = true → m.fmask = 0 → m.lmask = 0 → s.hbm.wf →
      ∃ t, exec (.pushData m) s = .next t ∧ (t.inPush m).seen = p.seen + 1 ∧
        (∀ i b, m.payload[i]? = some b → t.hbm.byte (bufKey m.handle m.arg + i) = b) ∧
        (∀ a, a < bufKey m.handle m.arg ∨ bufKey m.handle m.arg + m.payload.length ≤ a → t.hbm.byte a = s.hbm.byte a)) ∧
    (mine 1 → p.done = none → m.epoch ≠ s.fabric.epoch →
      ∃ t, exec (.pushData m) s = .next t ∧ (t.inPush m).stale = true ∧ t.hbm = s.hbm) ∧
    (∀ b, mine 2 → p.stale = false → p.refused = false → p.handle = m.handle → m.epoch = s.fabric.epoch →
      s.exported m.handle 0 0 1 = true → m.arg / 4294967296 ≤ p.seen → s.buf? m.handle = some b → s.livePorts ≠ [] →
      ∃ t, exec (.pushDone m) s = .next t ∧ (∃ b', t.buf? m.handle = some b' ∧ b'.arrive = (b.arrive + m.arg % 256) % 4294967296) ∧
        ∃ port ∈ s.livePorts, ∃ a, t.host.sent = s.host.sent ++ [.msg port a] ∧ a.type_ = 3 ∧ a.opid = m.opid ∧ a.arg = 0) ∧
    (mine 4 → m.epoch ≠ s.fabric.epoch → s.livePorts ≠ [] → ∃ t, ∃ port ∈ s.livePorts, ∃ a, exec (.pullReq m) s = .next t ∧
      t.host.sent = s.host.sent ++ [.msg port a] ∧ a.type_ = 6 ∧ a.opid = m.opid ∧ a.arg = 1) ∧
    (let n := leNat (m.payload.take 8);
      mine 4 → m.epoch = s.fabric.epoch → 0 < n → n ≤ 4194304 → s.exported m.handle m.arg n 0 = true → s.livePorts ≠ [] →
      s.cleanPart m.handle m.arg n = n →
      ∃ t sent, ∃ port ∈ s.livePorts, ∃ a, exec (.pullReq m) s = .next t ∧ t.host.sent = s.host.sent ++ sent ++ [.msg port a] ∧
        a.type_ = 6 ∧ a.opid = m.opid ∧ a.arg = 0 ∧ t.hbm = s.hbm) ∧
    (∀ o ent d, mine 3 → s.opOf m true = some o → (s.cell o.cell).pusher o.uid = none → (s.bank o.cell).opEntry o = some ent →
      ent.dest = some d → d < 32 →
      ∃ t, exec (.pushAck m) s = .next t ∧ (t.core o.cell .x).xreg d = ⟨statusWord (m.arg % 256) o.seq, false, .full⟩ ∧
        (∃ x ∈ (t.bank o.cell).xfer.entries, x.uid = ent.uid ∧ x.stage = .finished) ∧ t.mem = s.mem) ∧
    (∀ o, mine 5 → s.opOf m false = some o → o.expect ≠ 0 → ∃ t, exec (.pullData m) s = .next t ∧
      t.fabric.ops = s.fabric.ops.map (fun x => if x.same o then { o with got := kputAll o.got m.arg m.payload } else x) ∧ t.mem = s.mem) ∧
    (∀ o, mine 6 → s.opOf m false = some o →
      (2 ≤ o.expect → ∃ t, exec (.pullDone m) s = .next t ∧ t.fabric.ops = s.fabric.ops.map (fun x =>
        if x.same o then { o with expect := o.expect - 1, status := if o.status = 0 then m.arg % 256 else o.status } else x)) ∧
      (∀ ent d, o.expect = 1 → (s.cell o.cell).pusher o.uid = none → (s.bank o.cell).opEntry o = some ent → ent.dest = some d → d < 32 →
        let status := if o.status = 0 then m.arg % 256 else o.status
        (status ≠ 0 ∨ ∀ v ∈ ent.moves, o.has ent.w v = true) → ∃ t, exec (.pullDone m) s = .next t ∧
          (t.core o.cell .x).xreg d = ⟨statusWord status o.seq, false, .full⟩)) ∧
    (mine 7 → ∃ t, exec (.epoch m) s = .next t ∧ kget? t.fabric.known m.src = some (m.arg % 65536) ∧
      (∀ h r, kget? s.fabric.remote h = some r → r.module = m.src → older r.epoch (m.arg % 65536) = true →
        ∃ r', kget? t.fabric.remote h = some r' ∧ r'.stale = true)) ∧
    (¬ (1 ≤ m.type_ ∧ m.type_ ≤ 7) → msgWhole m = true → s.serves = true → exec (.odsogaUnknownType m) s =
      .next { s with fabric := { s.fabric with unknown := s.fabric.unknown + 1 } }) ∧
    (∀ j, ∃ t, exec (.moduleUnreachable j) s = .next t ∧ (∀ h r, kget? s.fabric.remote h = some r → r.module = j →
      ∃ r', kget? t.fabric.remote h = some r' ∧ r'.stale = true)) ∧
    (∀ port, port < 36 → ∃ t, exec (.odsogaLaneLoss port) s = .next t ∧ t.lanes port = s.lanes port - 1 ∧
      (∀ q, q ≠ port → t.lanes q = s.lanes q)) ∧
    (∃ t, exec .moduleJoinsDomain s = .next t ∧ t.fabric.epoch = (s.fabric.epoch + 1) % 65536 ∧ t.fabric.remote = s.fabric.remote)

/-! ## Requests of the host (10 R194, R199; 13 R256, R281; 15 R303; 17 R324, R325, R331, R334; 18 R335) -/

/-- The module serves requests and has answered every SUBMIT before (17 R325; 19 R341). -/
def State.AtDoorbell (s : State) : Prop := s.serves = true ∧ s.submitting = false

/-- After an event t has one more reply than s, of the mailbox. -/
def Answered (s t : State) (code status : Nat) (ws : List Word) : Prop :=
  t.host.replies = s.host.replies ++ [.mailbox code status ws]

/-- A live ASID's requests for buffers and windows: allocation by a template, a drop of a holding, a mapping with rights that are held, the
publication of its host writes; a stale ASID has status 2 (17 R324, R325). Some statuses are the model's choice (log 56). -/
def BufferRequests : Prop :=
  ∀ (s : State) (a g : Nat), s.AtDoorbell →
    (s.asidIs a g = false → ∀ (tm : List Word) (h w off : Nat) (r : BitVec 5),
      exec (.bufAlloc a g tm) s = .next (s.answerMail 0x10 (asidGen a g) 2 []) ∧ exec (.bufDrop a g h) s = .next (s.answerMail 0x11 (asidGen a g) 2 []) ∧
      exec (.map w a g h off r) s = .next (s.answerMail 0x12 (asidGen a g) 2 []) ∧ exec (.sync a g) s = .next (s.answerMail 0x14 (asidGen a g) 2 [])) ∧
    (s.asidIs a g = true →
      (∀ (tm : List Word) (b : Buf) (hs : BitVec 16) (i : Nat), parseTemplate tm = some b → s.placeOn b = some hs → b.companionOf = none →
        s.freeIndex 1 0xEFFFFF = some i →
        ∃ t, exec (.bufAlloc a g tm) s = .next t ∧ Answered s t 0x10 0 [wNat (s.handleAt i)] ∧
          t.buf? (s.handleAt i) = some { b with handle := s.handleAt i, homes := hs } ∧
          (kget (0, 0) (t.asid a).holdings (s.handleAt i)).2 &&& rightsRWA = rightsRWA ∧ t.hbm = s.hbm) ∧
      (∀ (tm : List Word), parseTemplate tm = none → exec (.bufAlloc a g tm) s = .next (s.answerMail 0x10 (asidGen a g) 2 [wNat (2 * 2 ^ 32)])) ∧
      (∀ (tm : List Word) (b : Buf), parseTemplate tm = some b → s.placeOn b = none →
        exec (.bufAlloc a g tm) s = .next (s.answerMail 0x10 (asidGen a g) 1 [wNat (2 ^ 32)])) ∧
      (∀ (h : Nat), kget? (s.asid a).holdings h = none → exec (.bufDrop a g h) s = .next (s.answerMail 0x11 (asidGen a g) 3 [])) ∧
      (∀ (h n : Nat) (r : BitVec 5) (b : Buf), kget? (s.asid a).holdings h = some (n, r) → s.remote? h = none → s.buf? h = some b →
        2 ≤ n → 2 ≤ b.refcnt →
        ∃ t, exec (.bufDrop a g h) s = .next t ∧ Answered s t 0x11 0 [] ∧ kget? (t.asid a).holdings h = some (n - 1, r) ∧
          t.buf? h = some { b with refcnt := b.refcnt - 1 } ∧ t.hbm = s.hbm) ∧
      (∀ (h : Nat) (r : BitVec 5) (b : Buf), kget? (s.asid a).holdings h = some (1, r) → s.remote? h = none → s.buf? h = some b →
        b.refcnt ≤ 1 → s.buf? b.companion = none →
        ∃ t, exec (.bufDrop a g h) s = .next t ∧ Answered s t 0x11 0 [] ∧ kget? (t.asid a).holdings h = none ∧ t.buf? h = none ∧
          t.hbm = s.hbm.clear (bufKey h 0) (2 ^ 64)) ∧
      (∀ (w h off : Nat) (r : BitVec 5) (b : Buf), w < 32768 → s.buf? h = some b → r &&& ~~~(s.held a h) = 0 →
        ∃ t, exec (.map w a g h off r) s = .next t ∧ Answered s t 0x12 0 [] ∧ kget? t.host.bar2 w = some ⟨a, h, off, r⟩ ∧
          ∀ v, v ≠ w → kget? t.host.bar2 v = kget? s.host.bar2 v) ∧
      (∀ (w h off : Nat) (r : BitVec 5) (b : Buf), w < 32768 → s.buf? h = some b → r &&& ~~~(s.held a h) ≠ 0 →
        exec (.map w a g h off r) s = .next (s.answerMail 0x12 (asidGen a g) 3 [])) ∧
      (∀ (h off : Nat) (bs : List Byte) (b : Buf), s.host.writes.filter (fun e => e.1 == a) = [(a, bufKey h off, bs)] → off < 2 ^ 64 →
        bs ≠ [] → s.buf? h = some b → b.st = .live → s.hbm.wf = true →
        ∃ t b', exec (.sync a g) s = .next t ∧ Answered s t 0x14 0 [] ∧ t.host.writes = s.host.writes.filter (fun e => e.1 != a) ∧
          t.buf? h = some b' ∧ b'.version = (b.version + 1) % 2 ^ 64 ∧
          (∀ i v, bs[i]? = some v → t.hbm.byte (bufKey h off + i) = v) ∧
          (∀ x, x < bufKey h off ∨ bufKey h off + bs.length ≤ x → t.hbm.byte x = s.hbm.byte x))) ∧
    (∀ w, w < 32768 → ∃ t, exec (.unmap w) s = .next t ∧ Answered s t 0x13 0 [] ∧ kget? t.host.bar2 w = none ∧
      ∀ v, v ≠ w → kget? t.host.bar2 v = kget? s.host.bar2 v)

/-- ASIDs, queues, submissions and quotas: creation makes an ASID live at the generation named; a retirement ends it, advances the generation
and begins a sweep; enabling a queue starts its SEQ at 0 with an empty Foxglove table (13 R256, R273; 15 R303; 17 R325, R326). The answer
under a sweep, and that QUEUE_CFG adds word 1 to HEVT, are the model's choice (logs 55, 83). -/
def AsidRequests : Prop :=
  ∀ (s : State),
    (∀ a, ∃ t, exec (.asidSweepComplete a) s = .next t ∧ t.asid a = { s.asid a with sweep := false } ∧ ∀ x, x ≠ a → t.asid x = s.asid x) ∧
    (s.AtDoorbell →
      (∀ a g base k, a < 4096 → g < 16 → 6 ≤ k → k ≤ 16 → (s.asid a).live = false → (s.asid a).sweep = false →
        ∃ t, exec (.asidCreate a g base k) s = .next t ∧ Answered s t 0x01 0 [] ∧ (t.asid a).live = true ∧ (t.asid a).gen = g ∧
          (t.asid a).ringBase = base ∧ (t.asid a).ringK = k ∧ (t.asid a).ringWr = 0 ∧ (t.asid a).ringRd = 0 ∧ (t.asid a).pass = true ∧
          ∀ x, x ≠ a → t.asid x = s.asid x) ∧
      (∀ a g base k, 4096 ≤ a ∨ 16 ≤ g ∨ k < 6 ∨ 16 < k ∨ (s.asid a).live = true →
        exec (.asidCreate a g base k) s = .next (s.answerMail 0x01 (asidGen a g) 2 [])) ∧
      (∀ a g base k, a < 4096 → g < 16 → 6 ≤ k → k ≤ 16 → (s.asid a).live = false → (s.asid a).sweep = true →
        exec (.asidCreate a g base k) s = .next (s.answerMail 0x01 (asidGen a g) 4 [])) ∧
      (∀ a g, s.asidIs a g = true → s.cells = [] → s.sched.nodes = [] → (s.asid a).holdings = [] → (∀ q, (s.fox q).run = none) →
        ∃ t, exec (.asidRetire a g) s = .next t ∧ Answered s t 0x02 0 [] ∧ (t.asid a).live = false ∧ (t.asid a).gen = (g + 1) % 16 ∧
          (t.asid a).sweep = true ∧ (t.asid a).quota = 0 ∧
          (∀ q, (s.queue q).asid = a → (s.queue q).gen = g → (s.queue q).enable = true → (t.queue q).enable = false ∧ t.fox q = {}) ∧
          (∀ x, x ≠ a → t.asid x = s.asid x)) ∧
      (∀ a g, s.asidIs a g = false → exec (.asidRetire a g) s = .next (s.answerMail 0x02 (asidGen a g) 2 [])) ∧
      (∀ q (w0 w1 : Word), q < 1024 → w0.getLsbD 63 = true → (s.queue q).enable = false → (s.fox q).run = none →
        ∃ t, exec (.queueCfg q w0 w1) s = .next t ∧ Answered s t 0x20 0 [] ∧
          t.queue q = { enable := true, specok := w0.getLsbD 62, level := w0.toNat / 2 ^ 56 % 4, tickets := w0.toNat / 2 ^ 48 % 256
                        gen := w0.toNat / 2 ^ 12 % 16, asid := w0.toNat % 4096, hevt := ((s.queue q).hevt + w1.toNat % 2 ^ 32) % 2 ^ 32, nextseq := 0 } ∧
          (t.fox q).ents = Vector.replicate 16 {} ∧ ∀ x, x ≠ q → t.queue x = s.queue x) ∧
      (∀ q w0 w1, 1024 ≤ q → exec (.queueCfg q w0 w1) s = .next (s.answerMail 0x20 none 2 [])) ∧
      (∀ a g n, s.asidIs a g = true → ∃ t, exec (.quota ⟨a, g⟩ n) s = .next t ∧ Answered s t 0x22 0 [] ∧
        t.asid a = { s.asid a with quota := n } ∧ ∀ x, x ≠ a → t.asid x = s.asid x) ∧
      (∀ a g n, s.asidIs a g = false → exec (.quota ⟨a, g⟩ n) s = .next (s.answerMail 0x22 (asidGen a g) 2 []))) ∧
    (s.serves = true → ∀ q a g r, ∃ t, exec (.submit q a g r) s = .next t ∧ t.host = s.host ∧
      t.sched = { s.sched with subs := s.sched.subs ++ [⟨q, a, g, r, [], true, 0, 0⟩] })

/-! ## The Geode, resets and management (17 R327; 19 R341 to R343, R350, R351; 22 R374, R376, R378) -/

/-- The SPDM requests whose answers the spec leaves open but for their codes. -/
noncomputable def spdmTable : List ((List Byte → Instr) × Nat) :=
  [(.getVersion, 0x84), (.getCapabilities, 0xE1), (.getDigests, 0x81), (.getCertificate, 0x82), (.challenge, 0x83)]

/-- The management interface: the ring of a die with its status word and its release, the status of an island, the package word and PLIM from
1,000 W to the TDP, the limit of a compute island from 350 to 700 MHz, the discovery table; a bad argument has status 2 (19 R351; 22 R374,
R376, R378). It answers from the third step of boot on, a failed scheduler die or not, except in a DECOMMISSIONED module (19 R341). -/
def Management : Prop :=
  ∀ (s : State), (s.geode.boot = .fill ∨ s.geode.boot = .up) → s.geode.life ≠ .decommissioned →
    (∀ d, Config.dieClass s.pop d ≠ 0 →
      exec (.ringRead d) s = .next (s.reply (.mgmt 0 (wNat ((s.die d).next % 1024 + (s.die d).wraps % 4294967296 * 1024 +
        (s.die d).frozen.toNat * 9223372036854775808) :: (s.die d).ring.flatMap (fun e => e.2)))) ∧
      ∃ t, exec (.ringRelease d) s = .next t ∧ t.die d = { s.die d with frozen := false } ∧
        t.host.replies = s.host.replies ++ [.mgmt 0 []]) ∧
    (∀ d, Config.dieClass s.pop d = 0 → exec (.ringRead d) s = .next (s.reply (.mgmt 2 [])) ∧
      exec (.ringRelease d) s = .next (s.reply (.mgmt 2 []))) ∧
    (∀ i, (s.island? i = true → ∃ t w, exec (.islandRead i) s = .next t ∧ t.host.replies = s.host.replies ++ [.mgmt 0 [w]] ∧
        (s.computeIsland i = true →
          let x := s.island i;
          w.toNat / 2 ^ 20 % 4096 = min 700 (min x.limMgmt (min x.limCap x.limTherm)) ∧
          w.toNat / 2 ^ 8 % 4096 = min 700 (min x.limMgmt (min x.limCap x.limTherm)) ∧
          w.getLsbD 3 = decide (x.limTherm < 700) ∧ w.getLsbD 2 = decide (x.limCap < 700) ∧ w.getLsbD 1 = decide (x.limMgmt < 700) ∧
          w.getLsbD 0 = ((s.die i).st == 2 || (s.die i).st == 3))) ∧
      (s.island? i = false → exec (.islandRead i) s = .next (s.reply (.mgmt 2 [])))) ∧
    (∃ t w, exec .pkgRead s = .next t ∧ t.host.replies = s.host.replies ++ [.mgmt 0 [w]] ∧ w.toNat / 2 ^ 48 = s.power.plim % 65536 ∧
      w.toNat % 2 ^ 32 = 0) ∧
    (∀ w : Word,
      let v := w.toNat / 2 ^ 48;
      let most := match s.pop with | .l => 5000 | .m => 3600 | .s => 2800;
      (1000 ≤ v → v ≤ most → ∃ t, exec (.pkgSet w) s = .next t ∧ t.power = { s.power with plim := v } ∧
        t.host.replies = s.host.replies ++ [.mgmt 0 []]) ∧
      (v < 1000 ∨ most < v → exec (.pkgSet w) s = .next (s.reply (.mgmt 2 [])))) ∧
    (∀ i mhz, (s.computeIsland i = true → 350 ≤ mhz → mhz ≤ 700 → ∃ t, exec (.limitSet i mhz) s = .next t ∧
        t.island i = { s.island i with limMgmt := mhz } ∧ (∀ j, j ≠ i → t.island j = s.island j) ∧
        t.host.replies = s.host.replies ++ [.mgmt 0 []]) ∧
      (s.computeIsland i = false ∨ mhz < 350 ∨ 700 < mhz → exec (.limitSet i mhz) s = .next (s.reply (.mgmt 2 [])))) ∧
    (∀ i, (i < 516 → exec (.discRead i) s = .next (s.reply (.mgmt 0 [s.discWord i]))) ∧
      (516 ≤ i → exec (.discRead i) s = .next (s.reply (.mgmt 2 []))))

/-- A reset keeps flash, fuses, the units that are faulty for good and what is outside, empties every memory and raises the epoch; a cold
one clears the rings and HOSEQ, a warm one adds record 0x0031 to each ring and keeps HOSEQ; the verdicts on the two slots follow. After the
zero fill firmware runs on the scheduler die at its entry, with HOSEQ in X1, every offered cell is idle, and VER of the discovery table,
which was 1 while it was built, is 2 (05 R103 to R105; 19 R339, R341, R343, R353). -/
def Resets : Prop :=
  (∀ (s : State) (c : Bool), (c = false → s.geode.boot ≠ .tripped) →
    ∃ t, exec (if c then .coldReset else .warmReset) s = .next t ∧
      t.cells = [] ∧ t.hbm = [] ∧ t.bufs = [] ∧ t.host.bar2 = [] ∧ t.sched.nodes = [] ∧ t.flash = s.flash ∧ t.pop = s.pop ∧
      t.hostMem = s.hostMem ∧ t.geode.key = s.geode.key ∧ t.geode.life = s.geode.life ∧ t.fabric.epoch = (s.fabric.epoch + 1) % 65536 ∧
      t.geode.hoseq = (if c then 0 else s.geode.hoseq) ∧
      t.geode.boot = (if s.geode.life = .decommissioned then .stuck
        else if s.objectOk s.flash.a.bytes || s.objectOk s.flash.b.bytes then .fill else .stuck) ∧
      (s.geode.life ≠ .decommissioned → t.geode.vera = s.objectOk s.flash.a.bytes ∧ t.geode.verb = s.objectOk s.flash.b.bytes) ∧
      t.sched.discVer = (if t.geode.boot = .fill then 1 else 0) ∧ (∀ d, (t.die d).faulty = (s.die d).faulty) ∧
      (∀ d, c = true → (t.die d).ring = []) ∧
      (∀ d, c = false → d < 64 → Config.dieClass s.pop d ≠ 0 → (s.die d).frozen = false →
        ∃ w ws, (t.die d).ring = kset (s.die d).ring (s.die d).next (w :: ws) ∧ w.toNat / 65536 % 65536 = 0x0031)) ∧
  (∀ (s : State), s.geode.boot = .tripped → exec .warmReset s = .next s) ∧
  (∀ (s : State) (c : Bool), (s.geode.boot = .fill ∨ s.geode.boot = .up) → s.geode.life ≠ .decommissioned → exec (.reset c) s = exec (if c then .coldReset else .warmReset) s) ∧
  (∀ (s : State), s.geode.boot = .fill →
    ∃ t, exec .bootZeroFillDone s = .next t ∧ t.geode.boot = .up ∧ t.sched.discVer = 2 ∧
      (let r := t.core (svc Config.schedDie) .x;
        r.run = .running ∧ r.pc = wNat ((if s.geode.active then 0x100000 else 0) + 8) ∧ (r.xreg 1).val = s.geode.hoseq ∧ (r.xreg 2).val = 0) ∧
      (∀ d c, d < 64 → c < Config.cellsOf (Config.dieClass s.pop d) → (t.bank (d * 128 + c)).task = none ∧ (t.cell (d * 128 + c)).shadow = none) ∧
      (∀ d c, d < 64 → c < Config.cellsOf (Config.dieClass s.pop d) →
        (t.die d).avail.getLsbD c = !(s.die d).faulty.contains (.cell (d * 128 + c))))

/-! ## Watchdogs, refresh, errors and limits (10 R206 to R208; 15 R291, R292; 17 R334; 19 R348, R349, R351 to R353; 22 R376, R377) -/

/-- t's ring of die d is s's with one more record of a code, where the ring is not frozen (19 R351). -/
def Logged (s t : State) (d code : Nat) : Prop :=
  (s.die d).frozen = false → ∃ w ws, (t.die d).ring = kset (s.die d).ring (s.die d).next (w :: ws) ∧ w.toNat / 65536 % 65536 = code

/-- A roll-back: the other slot is active, M1 extended with its measurement, PENDING 0, HOSEQ one more, and the scheduler firmware starts
with reason 2 (19 R348). -/
def RolledBack (s t : State) : Prop :=
  t.geode.active = !s.geode.active ∧ t.geode.pending = false ∧ t.geode.rolled = true ∧ t.geode.hoseq = s.geode.hoseq + 1 ∧
    vget t.geode.meas 1 [] = shake256 (vget s.geode.meas 1 [] ++ s.geode.sm (!s.geode.active)) 64 ∧
    (let r := t.core (svc Config.schedDie) .x;
      r.run = .running ∧ r.pc = wNat ((if s.geode.active then 0 else 0x100000) + 8) ∧ (r.xreg 1).val = s.geode.hoseq + 1 ∧ (r.xreg 2).val = 2)

/-- A correctable error is counted and logged; with the third within 600 s its unit is faulty for good, a faulty sub-array being fenced. An
uncorrectable one makes its unit faulty at once and takes effect where it strikes: poison in a register, flags on granules, MACHINE_CHECK
for a control unit (05 R105; 10 R208; 15 R291, R292; 19 R353). -/
def Errors : Prop :=
  ∀ (s : State),
    (∀ u : ErrUnit,
      let d := u.die;
      let old := ((s.die d).errs.filter (fun e => e.1 == u && decide (s.time < e.2 + 600000000000))).length;
      (old < 2 → ∃ t, exec (.correctableError u) s = .next t ∧ Logged s t d 0x0010 ∧ (t.die d).faulty = (s.die d).faulty ∧ t.mem = s.mem ∧
        (∀ k, u.cell? = some k → (t.cell k).errors = (s.cell k).errors + 1)) ∧
      (2 ≤ old → ∃ t, exec (.correctableError u) s = .next t ∧ u ∈ (t.die d).faulty ∧ t.mem = s.mem) ∧
      (∀ k i, u = .subArray k i → i < 8 → k % 128 < 16 → u ∉ (s.die d).faulty → 2 ≤ old → ∃ t, exec (.correctableError u) s = .next t ∧
        (t.die d).fence.getLsbD (8 * (k % 128) + i) = true ∧ (t.die d).fullw.getLsbD (k % 128) = false)) ∧
    (∀ k c j, j < 32 → j ≠ 0 → ∃ t, exec (.uncorrectableError (.xreg k c j)) s = .next t ∧
      (t.core k c).xreg j = { (s.core k c).xreg j with poison := true } ∧ (∀ i, i ≠ j → (t.core k c).xreg i = (s.core k c).xreg i) ∧
      ErrUnit.cell k ∈ (t.die (k / 128)).faulty) ∧
    (∀ k g, ∃ t, exec (.uncorrectableError (.scratch k g)) s = .next t ∧ nsHas t.memBad (padBase k / 64 + g) = true ∧ t.mem = s.mem ∧
      ErrUnit.cell k ∈ (t.die (k / 128)).faulty) ∧
    (∀ k t' seg, ∃ t, exec (.uncorrectableError (.tileSeg k t' seg)) s = .next t ∧
      nsHas t.memBad ((chipAddr k 1 (131072 * t' + 64 * seg)) / 64) = true ∧ t.mem = s.mem ∧ ErrUnit.cell k ∈ (t.die (k / 128)).faulty) ∧
    (∀ k u v seg, ∃ t, exec (.uncorrectableError (.vseg k u v seg)) s = .next t ∧
      nsHas t.memBad ((chipAddr k (2 + u) (1024 * v + 64 * seg)) / 64) = true ∧ t.mem = s.mem ∧
      ErrUnit.cell k ∈ (t.die (k / 128)).faulty) ∧
    (∀ h g, ∃ t, exec (.uncorrectableError (.hbm h g)) s = .next t ∧ nsHas t.hbmBad (bufKey h 0 / 64 + g) = true ∧ t.hbm = s.hbm ∧
      ∃ st bank row, ErrUnit.hbmRow st bank row ∈ (t.die st).faulty) ∧
    (∀ k c code (t0 : Task), isPriv k c = false → (s.core k c).run ≠ .held → (s.core k c).run ≠ .absent → (s.bank k).task = some t0 → t0.spec = false → (s.bank k).ending = none →
      ∃ t, exec (.uncorrectableError (.control k c code)) s = .next t ∧
        (t.bank k).ending = some ⟨c, 0x1E, wNat code, (s.core k c).pc, 0⟩ ∧ t.mem = s.mem ∧ ErrUnit.cell k ∈ (t.die (k / 128)).faulty)

/-- A die that fails is offline for good, its ring frozen; a stack's buffer moves to other stacks if they have room, and is lost if not. The
package cap moves every compute island's limit by 25 MHz within 350 to 700; the thermal limit at 100 °C and its release below 90 °C; at
115 °C a compute die fails, and any other island ends every task and holds the module (17 R334; 22 R376, R377). -/
def Limits : Prop :=
  ∀ (s : State),
    (∀ d, s.alive d = true → (∃ t, exec (.dieFailure d) s = .next t ∧ (t.die d).st = 3 ∧ (t.die d).frozen = true) ∧
      (Config.dieClass s.pop d = 7 → s.cells = [] → s.sched.nodes = [] → s.sched.asids = [] → ∀ h b, s.buffersOn (d - 32) = [h] →
        s.buf? h = some b → (∀ e ∈ s.bufs, e.2.handle = h → e.2 = b) → b.toHomes = 0 →
        let u := s.modDie d (fun x => { x with st := 3 })
        (u.newHomes b (d - 32) = none → ∃ t b', exec (.dieFailure d) s = .next t ∧ t.buf? h = some b' ∧ b'.st = .lost) ∧
        (∀ hs, u.newHomes b (d - 32) = some hs → hs ≠ 0 →
          ∃ t b', exec (.dieFailure d) s = .next t ∧ t.buf? h = some b' ∧ b'.st = .evacuating ∧ b'.toHomes = hs))) ∧
    (∀ d, s.alive d = false → exec (.dieFailure d) s = .next s) ∧
    (∀ pavg, s.serves = true → s.power.tick + 1000000 ≤ s.time → ∃ t, exec (.powerCapTick pavg) s = .next t ∧
      t.power.pavg = pavg ∧ t.power.tick = s.power.tick + 1000000 ∧ t.power.plim = s.power.plim ∧
      ∀ i, t.island i = (if s.computeIsland i then { s.island i with limCap :=
        (if s.power.plim < pavg then max 350 ((s.island i).limCap - 25)
          else if 100 * pavg < 95 * s.power.plim then min 700 ((s.island i).limCap + 25) else (s.island i).limCap) } else s.island i)) ∧
    (∀ i T, s.sensed i = true → s.computeIsland i = true →
      (100 ≤ T → ∃ t, exec (.thermalThrottle i T) s = .next t ∧ t.island i = { s.island i with temp := T, limTherm := 350 }) ∧
      (T < 90 → ∃ t, exec (.thermalRelease i T) s = .next t ∧ t.island i = { s.island i with temp := T, limTherm := 700 }) ∧
      (115 ≤ T → s.alive i = true → ∃ t, exec (.computeTrip i T) s = .next t ∧ (t.die i).st = 3 ∧ (t.die i).frozen = true ∧
        Logged s t i 0x0012)) ∧
    (∀ i T, s.sensed i = true → s.computeIsland i = false → 115 ≤ T → ∃ t, exec (.islandTrip i T) s = .next t ∧ t.cells = [] ∧
      t.geode.boot = .tripped)

/-! ## The machine as a whole (02 R20, R26, R31 to R33; 03 R35 to R52; 19 R341, R343) -/

/-- Every memory is in canonical form, those kept with suspended tasks too, whose bytes lie in Regions 0 to 3 of their cell. -/
def State.Canonical (s : State) : Prop :=
  s.mem.wf = true ∧ s.hbm.wf = true ∧ s.hostMem.wf = true ∧
    ∀ e ∈ s.cells, ∀ x ∈ e.2.suspended, x.mem.wf = true ∧ ∀ p ∈ x.mem, padBase e.1 ≤ p.1 ∧ p.1 < chipAddr e.1 4 0

end Sys2Proof.Machine

/-! # The statements -/

open Sys2Proof Sys2Proof.Machine

/-! ## Scalar instructions (04) -/

/-- An ALU instruction writes its function of S1 and operand two, with the poison of either source, and retires; X0 discards
the result (04 R53 to R55, R58). -/
def Obligations.ScalarArithmetic : Prop :=
  ∀ p ∈ aluTable, ∀ (f : FmtS) (s t : State) (a : Word) (pa : Bool) (b : Val),
    s.Enabled f.g → s.fcore.Holds f.s1 a pa → s.op2 immS f.b = .ok (t, b) → t.fcore.Ready f.d →
    exec (p.1 f) s = .next (t.wroteX f.d (p.2 f a b.v) (pa || b.bad))

/-- Unary operations and moves retire with D as 04 gives it: each of the two parts is stated above. -/
def Obligations.ScalarUnaryAndMoves : Prop := ScalarUnary ∧ ScalarMoves

/-- Operand two in its three forms, and the operations of three sources. -/
def Obligations.OperandTwoAndThreeSource : Prop := OperandTwoForms ∧ ScalarThreeSource

/-- A compare writes its predicate pair with its outcome and retires; TST tests S1 alone (04 R60; 02 R21). That CMP.EQ and CMP.NE
sign-extend their immediate is the model's choice (log 75). -/
def Obligations.ScalarCompares : Prop :=
  (∀ p ∈ cmpTable, ∀ (f : FmtC) (s : State) (a b : Word), s.Enabled f.g → s.fcore.Holds f.s1 a false →
    s.fcore.Second f p.2.1 b →
    exec (p.1 f) s = .next ((s.putCore (s.fcore.setPair f.pd f.pe f.mode (p.2.2 a b))).retire s.fk s.fc 1)) ∧
  (∀ (f : FmtC) (s : State) (a : Word), s.Enabled f.g → s.fcore.Holds f.s1 a false →
    exec (.tstZ f) s = .next ((s.putCore (s.fcore.setPair f.pd f.pe f.mode (decide (a = 0)))).retire s.fk s.fc 1) ∧
    exec (.tstNz f) s = .next ((s.putCore (s.fcore.setPair f.pd f.pe f.mode (decide (a ≠ 0)))).retire s.fk s.fc 1))

/-- Predicate results of compares, and the instructions that move predicates. -/
def Obligations.Predicates : Prop := PredicatePairs ∧ PredicateMoves

/-- Binary32 arithmetic, conversions and compares. -/
def Obligations.ScalarFloating : Prop := ScalarFloat ∧ ScalarFloatCompares

/-- Address registers: ACAP takes a capability slot, AMOV copies, ASET and AADD move the pointer from BASE or PTR, which must lie between
BASE and LIMIT, ANRW narrows to [PTR, PTR + b) within LIMIT and keeps the rights that its mask names, all of them for an immediate; a
pointer or limit that fails raises BOUNDS with its value, a source of KIND 0 with 0; AGET reads a word of the four; each of the first five
writes all of Ad (04 R66; 02 R18, R19). That KIND 0 is tested before the poison of operand two is the model's choice (log 30). -/
def Obligations.AddressRegisters : Prop :=
  (∀ (f : FmtS) (s : State) (v : BitVec 21), s.Enabled f.g → f.b = .imm v →
    exec (.acap f) s = .next ((s.putCore (s.fcore.setA (aIdx f.d) ((s.bank s.fk).slotCap s.fc v.toNat))).retire s.fk s.fc 1)) ∧
  (∀ (f : FmtS) (s : State), s.Enabled f.g →
    exec (.amov f) s = .next ((s.putCore (s.fcore.setA (aIdx f.d) (s.fcore.areg (aIdx f.s1)))).retire s.fk s.fc 1)) ∧
  (∀ (f : FmtS) (s t : State) (b : Val) (a : AReg), s.Enabled f.g → s.op2 immS f.b = .ok (t, b) → a = t.fcore.areg (aIdx f.s1) →
    let traps := fun (i : Instr) (cause : Nat) (v : Word) => exec i s = .next (s.stopped s.fk s.fc (.trap cause v))
    let writes := fun (i : Instr) (x : AReg) => exec i s = .next ((t.putCore (t.fcore.setA (aIdx f.d) x)).retire t.fk t.fc 1)
    let set : Int := a.base.toNat + b.v.toInt
    let sum : Int := a.ptr.toNat + b.v.toInt
    (a.kind = 0 → ∀ i ∈ [Instr.aset f, .aadd f, .anrw f], traps i cBOUNDS 0) ∧
    (a.kind ≠ 0 → b.bad = true → ∀ i ∈ [Instr.aset f, .aadd f, .anrw f], traps i cPOISON b.id) ∧
    (a.kind ≠ 0 → b.bad = false →
      (if (a.base.toNat : Int) ≤ set ∧ set ≤ a.limit.toNat then writes (.aset f) { a with ptr := BitVec.ofInt 64 set }
        else traps (.aset f) cBOUNDS (BitVec.ofInt 64 set)) ∧
      (if (a.base.toNat : Int) ≤ sum ∧ sum ≤ a.limit.toNat then writes (.aadd f) { a with ptr := BitVec.ofInt 64 sum }
        else traps (.aadd f) cBOUNDS (BitVec.ofInt 64 sum)) ∧
      (if 0 ≤ b.v.toInt ∧ sum ≤ a.limit.toNat then
          writes (.anrw f) { a with
            base := a.ptr
            limit := BitVec.ofInt 64 sum
            rights := match f.b with | .reg _ _ md => a.rights &&& md.truncate 5 | _ => a.rights }
        else traps (.anrw f) cBOUNDS (BitVec.ofInt 64 sum)))) ∧
  (∀ (f : FmtS) (s : State) (v : BitVec 21), s.Enabled f.g → f.b = .imm v → v.toNat < 4 → s.fcore.Ready f.d →
    exec (.aget f) s = .next (s.wroteX f.d (((s.fcore.areg (aIdx f.s1)).words[v.toNat]?).getD 0) false))

/-- The frame of the ALU and the unary instructions: nothing outside the issuing core changes, so no byte of any memory, but for the
substitutions that a window of a TOLERANT buffer counts; in it only the destination, the pc and the constant cache
(02 R14, R20, R28; 04 R54; 10 R208). -/
def Obligations.RegisterFrame : Prop :=
  (∀ p ∈ aluTable, ∀ (f : FmtS) (s t u : State) (a : Word) (pa : Bool) (b : Val),
    s.Enabled f.g → s.fcore.Holds f.s1 a pa → s.op2 immS f.b = .ok (t, b) → t.fcore.Ready f.d → exec (p.1 f) s = .next u →
    s.OnlyRead u ∧ s.fcore.OnlyX (u.core s.fk s.fc) (if f.d = 0 then [] else [s.fcore.px f.d.toNat])) ∧
  (∀ p ∈ unaryTable, ∀ (f : FmtS) (s u : State) (a : Word) (pa : Bool),
    s.Enabled f.g → s.fcore.Holds f.s1 a pa → s.fcore.Ready f.d → exec (p.1 f) s = .next u →
    s.OnlyCore u ∧ s.fcore.OnlyX (u.core s.fk s.fc) (if f.d = 0 then [] else [s.fcore.px f.d.toNat]))

/-- When a scalar access is allowed, and which address and pointer it has: the mode gives them, then the range and right, the new
pointer, and the kind are checked in that order; the first that fails raises BOUNDS with the address it checked. By kind: a task reaches scratchpads by KIND 1 and 3, which end where the
cell's does, a buffer by KIND 2 within its lease and while it is not lost, and no other kind (01 R9; 02 R19;
04 R67, R68). -/
def Obligations.AccessChecks : Prop :=
  ∀ (s : State) (f : FmtM) (u : Use),
    let a := s.fcore.areg f.a
    let n := 2 ^ f.size.toNat
    let addr : Int := if f.mode = 1 then a.ptr.toNat else a.ptr.toNat + f.off.toInt
    let new : Int := if f.mode = 0 then a.ptr.toNat else a.ptr.toNat + f.off.toInt
    ((a.allows u && a.inside addr n) = false → s.checkMem f u = .error (.trap cBOUNDS (BitVec.ofInt 64 addr))) ∧
    ((a.allows u && a.inside addr n) = true → a.ptrOk new = false →
      s.checkMem f u = .error (.trap cBOUNDS (BitVec.ofInt 64 new))) ∧
    ((a.allows u && a.inside addr n) = true → a.ptrOk new = true →
      (∀ e, s.checkKind s.fk s.fc a addr.toNat n u = .error e → s.checkMem f u = .error e) ∧
      (s.checkKind s.fk s.fc a addr.toNat n u = .ok () → s.checkMem f u = .ok (a, addr.toNat, BitVec.ofInt 64 new))) ∧
    (a.kind = 0 ∨ 4 ≤ a.kind.toNat → s.checkKind s.fk s.fc a addr.toNat n u = .error (.trap cBOUNDS (wNat addr.toNat))) ∧
    (a.kind = 2 → leaseHas (s.bank s.fk).lease false a.bind.toNat addr.toNat n u = false →
      s.checkKind s.fk s.fc a addr.toNat n u = .error (.trap cLEASE (wNat addr.toNat))) ∧
    (a.kind = 2 → leaseHas (s.bank s.fk).lease false a.bind.toNat addr.toNat n u = true →
      s.checkKind s.fk s.fc a addr.toNat n u = if s.lost a.bind.toNat then .error (.trap cLOST (wNat a.bind.toNat)) else .ok ()) ∧
    (a.kind = 1 → s.checkKind s.fk s.fc a addr.toNat n u =
      if s.padOk s.fk addr.toNat n ∧ s.limitOk s.fk a ∧ (u = .write → s.storeOk (padBase s.fk + addr.toNat) n = true) then .ok ()
      else .error (.trap cBOUNDS (wNat addr.toNat))) ∧
    (a.kind = 3 → isPriv s.fk s.fc = false → s.checkKind s.fk s.fc a addr.toNat n u =
      if s.chipOk addr.toNat n ∧ chipRegion addr.toNat = 0 ∧ (u = .write → s.storeOk addr.toNat n = true) then .ok ()
      else .error (.trap cBOUNDS (wNat addr.toNat)))

/-- A load from the cell's own scratchpad (KIND 1) is synchronous: the bytes, little-endian, sign- or zero-extended, with the poison of
a flagged granule; the pointer moves as the mode says (04 R67 to R69). The bytes read lose only their mark of a fresh bank. -/
def Obligations.ScratchpadLoads : Prop :=
  ∀ (f : FmtM) (s : State) (a : AReg) (addr : Nat) (new : Word), s.Enabled f.g → s.fcore.Ready f.data →
    s.checkMem f .read = .ok (a, addr, new) → a.kind = 1 →
    let n := 2 ^ f.size.toNat
    let bs := s.see (padBase s.fk + addr) n
    let bad := badIn s.memBad (padBase s.fk + addr) n
    let done := fun (v : Word) =>
      let t := s.touch s.fk addr n
      (t.putCore ((t.fcore.wrote f.data v bad).setA f.a { a with ptr := new })).retire s.fk s.fc 1
    exec (.ld f) s = .next (done ((BitVec.ofNat (8 * n) (leNat bs)).signExtend 64)) ∧
    exec (.ldu f) s = .next (done ((BitVec.ofNat (8 * n) (leNat bs)).zeroExtend 64)) ∧
    exec (.lds f) s = .next (done ((BitVec.ofNat (8 * n) (leNat bs)).signExtend 64))

/-- Loads from beyond the scratchpad, and the deferred fault of a speculative load. -/
def Obligations.LateLoads : Prop := LateLoad ∧ DeferredFault

/-- A store to a scratchpad and to a buffer; PCHK and LDPF. -/
def Obligations.StoresAndChecks : Prop := ScratchpadStore ∧ BufferStore ∧ PoisonCheckAndPrefetch

/-! ## Branches, loops, special registers (01 R6; 02 R24 to R30; 04 R73, R74, R81) -/

/-- BR, CALL and BRLC jump by the words that bits [30:0] name, from their own address; BRX and RET jump to a register; CALL links in X31; BRLC counts LC and
RBASE down and falls through at zero; an unaligned register target raises BOUNDS with the target (04 R73, R74; 01 R6). -/
def Obligations.Branches : Prop :=
  (∀ (f : FmtBD) (i : Instr), i ∈ [Instr.br f, .call f, .brlc f] → ∀ w ∈ encode i, BitVec.ofNat 31 w = f.disp) ∧
  (∃ g : Guard, encode (.brlc ⟨g, BitVec.ofInt 31 (-2)⟩) = [0xFF0002907FFFFFFE]) ∧
  (∀ (f : FmtBD) (s : State), s.Enabled f.g →
    let to_ := BitVec.ofInt 64 (s.fcore.pc.toInt + 8 * f.disp.toInt)
    exec (.br f) s = .next (s.jumped to_) ∧
    (s.fcore.Ready 31 → exec (.call f) s = .next ((s.putCore (s.fcore.wrote 31 (s.fcore.pc + 8) false)).jumped to_)) ∧
    (let r := { s.fcore with lc := s.fcore.lc - 1, rbase := s.fcore.rbase - 1 };
      exec (.brlc f) s = .next (if s.fcore.lc = 1 then (s.putCore r).retire s.fk s.fc 1 else (s.putCore r).jumped to_))) ∧
  (∀ (f : FmtBR) (s : State) (t : Word), s.Enabled f.g → s.fcore.Holds f.x t false →
    (t.toNat % 8 = 0 → exec (.brx f) s = .next (s.jumped t) ∧ exec (.ret f) s = .next (s.jumped t)) ∧
    (t.toNat % 8 ≠ 0 → exec (.brx f) s = .next (s.stopped s.fk s.fc (.trap cBOUNDS t)) ∧
      exec (.ret f) s = .next (s.stopped s.fk s.fc (.trap cBOUNDS t)))) ∧
  (∀ (f : FmtS) (s t : State) (b : Val), s.Enabled f.g → s.op2 immS f.b = .ok (t, b) → b.bad = false →
    exec (.rbset f) s = .next ((t.putCore { t.fcore with rbase := b.v }).retire t.fk t.fc 1))

/-- A modulo loop from its MLOOP to its last round, and the order of one round. -/
def Obligations.ModuloLoops : Prop := ModuloLoopTrip ∧ ModuloOrder

/-- MFS reads each special register; FWSLOT and HOSEQ only with PRIV, else PRIVILEGE with the number. MTS writes the registers a task may
write, keeping reserved bits and PRIV, and raises PRIVILEGE for the others without PRIV and for HOSEQ always (02 R29, R30; 04 R81). -/
def Obligations.SpecialRegisters : Prop :=
  (∀ (f : FmtS) (s : State), s.Enabled f.g → (f.s1.toNat < 11 ∨ isPriv s.fk s.fc = true) → s.fcore.Ready f.d →
    exec (.mfs f) s = .next (s.wroteX f.d (s.special f.s1.toNat) false)) ∧
  (∀ s : State,
    let r := s.fcore
    s.special 0 = r.lc ∧ s.special 1 = r.rbase ∧ (s.special 2).getLsbD 16 = (isPriv s.fk s.fc || r.status.getLsbD 16) ∧
      (∀ i, i ≠ 16 → (s.special 2).getLsbD i = r.status.getLsbD i) ∧ s.special 3 = r.epc ∧ s.special 4 = r.cause ∧
      s.special 5 = r.tval ∧ s.special 6 = wNat (s.cell s.fk).cycle ∧
      s.special 7 = wNat (padBase (svc Config.schedDie) + 0x309000) ∧
      s.special 9 = (if hasMasks (s.cls s.fk) s.fk s.fc then r.livek.zeroExtend 64 else 0) ∧
      (let g := s.geode;
        s.fk / 128 = Config.schedDie → s.special 12 = g.hoseq ∧ s.special 11 =
          wNat (g.verb.toNat * 128 + g.vera.toNat * 64 + g.rolled.toNat * 8 + g.pending.toNat * 4 + g.stage.toNat * 2 + g.active.toNat)) ∧
      s.special 8 = r.livep.zeroExtend 64 ∧ s.special 10 = r.spillptr) ∧
  (∀ (f : FmtS) (s : State), s.Enabled f.g → 11 ≤ f.s1.toNat → isPriv s.fk s.fc = false →
    exec (.mfs f) s = .next (s.stopped s.fk s.fc (.trap cPRIVILEGE (wNat f.s1.toNat)))) ∧
  (∀ (f : FmtS) (s : State) (v : Word), s.Enabled f.g → s.fcore.Holds f.s1 v false →
    let done := fun (r : Core) => Host.Outcome.next ((s.putCore r).retire s.fk s.fc 1)
    (f.d = 0 → exec (.mts f) s = done { s.fcore with lc := v }) ∧
    (f.d = 1 → exec (.mts f) s = done { s.fcore with rbase := v }) ∧
    (f.d = 2 → ∃ u, exec (.mts f) s = .next u ∧ (u.core s.fk s.fc).status = v &&& 0xFFFFFFFF00000E1F ∧ s.OnlyBank u ∧
      (s.fc = .x → exec (.mts f) s = done { s.fcore with status := v &&& 0xFFFFFFFF00000E1F })) ∧
    (f.d = 3 → exec (.mts f) s = done { s.fcore with epc := v }) ∧
    (f.d = 4 → exec (.mts f) s = done { s.fcore with cause := v &&& 0x3F }) ∧
    (f.d = 5 → exec (.mts f) s = done { s.fcore with tval := v }) ∧
    (f.d = 6 ∨ f.d = 7 ∨ f.d = 9 → isPriv s.fk s.fc = true → exec (.mts f) s = .next (s.retire s.fk s.fc 1)) ∧
    (f.d = 8 → isPriv s.fk s.fc = true → exec (.mts f) s = done { s.fcore with livep := v.truncate 16 &&& 0xFFFE }) ∧
    (f.d = 10 → isPriv s.fk s.fc = true → exec (.mts f) s = done { s.fcore with spillptr := v }) ∧
    ((6 ≤ f.d.toNat ∧ isPriv s.fk s.fc = false) ∨ f.d.toNat = 12 →
      exec (.mts f) s = .next (s.stopped s.fk s.fc (.trap cPRIVILEGE (wNat f.d.toNat)))))

/-! ## Semaphores, mutexes, full and empty, queues, pausing (04 R75 to R86) -/

/-- Semaphores and mutexes of a cell. -/
def Obligations.SemaphoresAndMutexes : Prop := Semaphores ∧ Mutexes

/-- XEMPTY makes a register awaiting with its value kept; XFULLQ tells whether one is full; EQLEVEL and EQDRAIN answer 0 and at once
where the core owns no queued engine (EQLEVEL's 0 at once being the model's choice, log 75), and else count its entries or wait for none
(04 R78 to R80). -/
def Obligations.FullEmptyAndQueues : Prop :=
  (∀ (f : FmtS) (s : State), s.Enabled f.g → s.fcore.Ready f.d →
    let j := s.fcore.px f.d.toNat
    exec (.xempty f) s =
      .next ((s.putCore { s.fcore with x := vset s.fcore.x j { s.fcore.xreg j with fill := .awaiting } }).retire s.fk s.fc 1)) ∧
  (∀ (f : FmtS) (s : State), s.Enabled f.g →
    exec (.xfullq f) s = .next ((s.putCore (s.fcore.setPred (f.d.toNat % 16)
      (decide (f.s1 = 0 ∨ (s.fcore.xreg (s.fcore.px f.s1.toNat)).fill = .full)))).retire s.fk s.fc 1)) ∧
  (∀ (f : FmtS) (s : State), s.Enabled f.g → engineOf (s.cls s.fk) s.fk s.fc = none →
    exec (.eqdrain f) s = .next (s.retire s.fk s.fc 1) ∧
    (s.fcore.Ready f.d → exec (.eqlevel f) s = .next (s.wroteX f.d 0 false))) ∧
  (∀ (f : FmtS) (s : State) (e : EngIx), s.Enabled f.g → engineOf (s.cls s.fk) s.fk s.fc = some e →
    let q := (s.bank s.fk).engine e
    (q.stop = none → q.entries = [] → exec (.eqdrain f) s = .next (s.retire s.fk s.fc 1)) ∧
    (q.stop = none → q.entries ≠ [] → exec (.eqdrain f) s = .next (s.stopped s.fk s.fc (.wait .drain))) ∧
    (∀ c, q.stop = some c → exec (.eqdrain f) s = .next (s.stopped s.fk s.fc (.trap cENGINE (wNat c)))) ∧
    (s.fcore.Ready f.d → f.d ≠ 0 → ∃ u, exec (.eqlevel f) s = .next u ∧
      (u.core s.fk s.fc).results = s.fcore.results ++
        [⟨s.fcore.px f.d.toNat, wNat (q.entries.length + (if q.stop.isSome then 2 ^ 63 else 0)), false⟩] ∧
      ((u.core s.fk s.fc).xreg (s.fcore.px f.d.toNat)).fill = .load))

/-- NOP does nothing; PAUSE waits; DONE ends the core once its results, its engine and its mutexes are settled; WAITWP goes on when the
channel's pointer has come far enough; CWBIND binds a window with the bytes and flags of its range, for KIND 2 those of the cell's snapshot, or unbinds it and reads no operand two then (04 R82 to R85; log 75). -/
def Obligations.EndingAndWaiting : Prop :=
  (∀ (f : FmtS) (s : State), s.Enabled f.g → exec (.nop f) s = .next (s.retire s.fk s.fc 1)) ∧
  (∀ (f : FmtS) (s : State), s.Enabled f.g → ∃ u a b c, exec (.pause f) s = .next u ∧
    (u.core s.fk s.fc) = { s.fcore.closeRound with run := .blocked (.pause a b c) } ∧ s.OnlyCore u) ∧
  (∀ (f : FmtS) (s : State), s.Enabled f.g → s.fcore.pending = false → s.drain .parked = .ok () →
    ((s.bank s.fk).ownedBy s.fc = none → ∃ u, exec (.done f) s = .next u ∧ s.OnlyCore u ∧
      (u.core s.fk s.fc).run = .done ∧ (u.core s.fk s.fc).pc = s.fcore.pc + 8 ∧
      (∀ i, i < 32 → ((u.core s.fk s.fc).xreg i).val = (s.fcore.xreg i).val ∧ ((u.core s.fk s.fc).xreg i).fill = .full)) ∧
    (∀ m, (s.bank s.fk).ownedBy s.fc = some m → exec (.done f) s = .next (s.stopped s.fk s.fc (.trap cMUTEX (wNat m))))) ∧
  (∀ (f : FmtS) (s t : State) (c : Word) (b : Val), s.Enabled f.g → s.fcore.Holds f.s1 c false → s.op2 immS f.b = .ok (t, b) →
    b.bad = false →
    let ch := vget (t.bank t.fk).chans c.toNat {}
    (c.toNat < 16 → ch.st = .open_ → b.v.toNat ≤ ch.wp → exec (.waitwp f) s = .next (t.retire s.fk s.fc 1)) ∧
    (c.toNat < 16 → ch.st = .open_ → ch.wp < b.v.toNat → exec (.waitwp f) s = .next (s.stopped s.fk s.fc (.wait (.wp c.toNat b.v)))) ∧
    (16 ≤ c.toNat ∨ ch.st ≠ .open_ → exec (.waitwp f) s = .next (s.stopped s.fk s.fc (.trap cCHANNEL c)))) ∧
  (∀ (f : FmtS) (s : State), s.Enabled f.g → aIdx f.s1 = 0 →
    exec (.cwbind f) s = .next ((s.putCore { s.fcore with win := vset s.fcore.win f.d.toNat {} }).retire s.fk s.fc 1)) ∧
  (∀ (f : FmtS) (s t : State) (b : Val), s.Enabled f.g → s.op2 immS f.b = .ok (t, b) →
    (let a := t.fcore.areg (aIdx f.s1)
      let start : Int := a.ptr.toNat + b.v.toInt
      aIdx f.s1 ≠ 0 → b.bad = false →
      (t.winOk t.fk a start = true → ∃ (w : Win) (m : Mem) (bad : NSet), w.bound = true ∧ w.reg = { a with ptr := BitVec.ofInt 64 start } ∧
        w.first = t.fcore.wcount ∧ w.vers = [(m, bad)] ∧
        (let base := (if a.kind = 1 then padBase t.fk else 0) + start.toNat;
          a.kind ≠ 2 → t.mem.wf → ∀ i, i < a.limit.toNat - start.toNat → inCtl (base + i) = false →
          m.byte (base + i) = t.mem.byte (base + i) ∧ nsHas bad ((base + i) / 64) = nsHas t.memBad ((base + i) / 64)) ∧
        (let base := bufKey a.bind.toNat start.toNat;
          let b := t.bank t.fk;
          a.kind = 2 → b.snap.wf → ∀ i, i < a.limit.toNat - start.toNat →
          m.byte (base + i) = b.snap.byte (base + i) ∧ nsHas bad ((base + i) / 64) = nsHas b.snapBad ((base + i) / 64)) ∧
        exec (.cwbind f) s = .next ((t.putCore { t.fcore with win := vset t.fcore.win f.d.toNat w }).retire s.fk s.fc 1)) ∧
      (t.winOk t.fk a start = false → exec (.cwbind f) s = .next (s.stopped s.fk s.fc (.trap cBOUNDS (BitVec.ofInt 64 start))))))

/-! ## Traps and the system instructions (15) -/

/-- A trap: its entry, on a task's cores and on firmware, the wait for results before it, and the end of a task that has no handler. -/
def Obligations.Traps : Prop := TrapEntry ∧ FirmwareTrapEntry ∧ TrapAwaitsResults ∧ TrapEndsTask

/-- TRAP takes the trap with its number; ERET leaves the handler for EPC and resumes a held loop at its position; an unaligned EPC raises
BOUNDS (15 R288, R304). -/
def Obligations.TrapAndReturn : Prop :=
  (∀ (f : FmtY) (s : State), s.Enabled f.g →
    exec (.trap f) s = .next (s.stopped s.fk s.fc (.trap cTRAP (wNat f.imm.toNat)))) ∧
  (∀ (f : FmtY) (s : State), s.Enabled f.g → s.fcore.epc.toNat % 8 = 0 →
    (s.fcore.held = none →
      exec (.eret f) s = .next (s.putCore { s.fcore with h := false, held := none, run := .running, pc := s.fcore.epc })) ∧
    (∀ l, s.fcore.held = some l → s.fcore.epc = l.laddr + wNat ((l.offs[l.p]?).getD 0) →
      exec (.eret f) s = .next (s.putCore { s.fcore with
        h := false, held := none, run := .running, loop := some l, pc := s.fcore.epc }))) ∧
  (∀ (f : FmtY) (s : State), s.Enabled f.g → s.fcore.epc.toNat % 8 ≠ 0 →
    exec (.eret f) s = .next (s.stopped s.fk s.fc (.trap cBOUNDS s.fcore.epc)))

/-- ECALL reads X1 to X4 and puts the answer's two words on their way to X1 and X2, which stand empty; LEASEQ its word to its
register: what the task's lease covers of [PTR, LIMIT), or the rights of a scratchpad's register, or 0 (15 R304, R305). -/
def Obligations.ServiceCalls : Prop :=
  (∀ p ∈ ecallTable, ∀ (f : FmtY) (s : State) (x1 x2 x3 x4 : Word), s.Enabled f.g → s.fcore.Holds 1 x1 false →
    s.fcore.Holds 2 x2 false → s.fcore.Holds 3 x3 false → s.fcore.Holds 4 x4 false →
    ∃ u, exec (p.1 f) s = .next u ∧
      (u.core s.fk s.fc).results = s.fcore.results ++ [⟨1, (p.2 s x1).1, false⟩, ⟨2, (p.2 s x1).2, false⟩] ∧
      ((u.core s.fk s.fc).xreg 1).fill = .load ∧ ((u.core s.fk s.fc).xreg 2).fill = .load ∧
      (∀ i, i ≠ 1 → i ≠ 2 → (u.core s.fk s.fc).xreg i = s.fcore.xreg i) ∧ s.OnlyCore u) ∧
  (∀ (f : FmtY) (s : State), s.Enabled f.g → s.fcore.Ready f.x → f.x ≠ 0 →
    ∃ u, exec (.leaseq f) s = .next u ∧
      (u.core s.fk s.fc).results = s.fcore.results ++ [⟨s.fcore.px f.x.toNat, s.leaseWord s.fk (s.fcore.areg f.a), false⟩] ∧
      (let a := s.fcore.areg f.a;
        let w := s.leaseWord s.fk a;
        let l := (s.bank s.fk).lease;
        let each := fun (ok : AccMode → Bool) => decide (∀ i < a.limit.toNat - a.ptr.toNat, ∃ e ∈ l,
          e.host = (a.kind == 4) ∧ e.h = a.bind.toNat ∧ ok e.mode = true ∧ e.lo ≤ a.ptr.toNat + i ∧ a.ptr.toNat + i < e.hi);
        (a.kind = 0 ∨ a.kind = 5 → w = 0) ∧
        (a.kind = 1 ∨ a.kind = 3 → w.getLsbD 63 = true ∧ w.getLsbD 0 = a.canRead ∧ w.getLsbD 1 = a.canWrite ∧ w.getLsbD 2 = a.canAtomic) ∧
        (a.kind = 2 ∨ a.kind = 4 → w.getLsbD 63 = each (fun _ => true) ∧ w.getLsbD 0 = each (·.permits .read) ∧
          w.getLsbD 1 = each (·.permits .write) ∧ w.getLsbD 2 = each (·.permits .acc))) ∧
      ((u.core s.fk s.fc).xreg (s.fcore.px f.x.toNat)).fill = .load ∧ s.OnlyCore u)

/-- CTXSAVE and CTXLOAD. -/
def Obligations.Contexts : Prop := ContextSave ∧ ContextLoad

/-- The Geode's services: SECHASH stores the SHAKE256 digest of the message, SECVER tells whether the signature over the image verifies
under the key, and sets VER and SM of a slot that firmware verifies with the fused key, SECMEAS extends a measurement register, SECATT stores
the SPDM answer and its length in Xd; a poisoned operand answers 3 and stores nothing; each writes its status to bits 63:56 of Xd
(15 R306, R307; 19 R345). -/
def Obligations.GeodeServices : Prop :=
  (∀ (f : FmtY) (s t : State) (bs : List Byte) (bad : Bool), s.Enabled f.g → (s.bank s.fk).spec = false →
    let am := s.fcore.areg f.a
    let ag := s.fcore.areg f.a2
    s.checkArea s.fk am am.ptr.toNat am.room .read = .ok () → s.checkArea s.fk ag ag.ptr.toNat (min ag.room 64) .write = .ok () →
    s.areaLoad s.fk am am.ptr.toNat am.room = (t, bs, bad) → s.fcore.Ready f.x →
    let answer := fun (u : State) (status : Nat) =>
      exec (.sechash f) s = .next ((u.putCore (u.fcore.wrote f.x (wNat (status * 2 ^ 56)) false)).retire s.fk s.fc 1)
    (bad = true → answer t 3) ∧
    (bad = false → 16777216 < am.room ∨ ag.room < 64 → answer t 1) ∧
    (bad = false → am.room ≤ 16777216 → 64 ≤ ag.room →
      answer (t.areaStore s.fk ag (shake256 bs 64)) 0)) ∧
  (∀ (f : FmtY) (s t u : State) (w key : List Byte) (bad1 bad2 : Bool), s.Enabled f.g → (s.bank s.fk).spec = false →
    let ao := s.fcore.areg f.a
    let ak := s.fcore.areg f.a2
    let p := ao.ptr.toNat
    s.checkArea s.fk ao p 8 .read = .ok () → s.checkArea s.fk ak ak.ptr.toNat 64 .read = .ok () →
    s.areaLoad s.fk ao p 8 = (t, w, bad1) → t.areaLoad s.fk ak ak.ptr.toNat 64 = (u, key, bad2) → s.fcore.Ready f.x →
    let l := leNat w % 2 ^ 32
    let answer := fun (u : State) (status : Nat) =>
      exec (.secver f) s = .next ((u.putCore (u.fcore.wrote f.x (wNat (status * 2 ^ 56)) false)).retire s.fk s.fc 1)
    (bad1 = true ∨ bad2 = true → answer u 3) ∧
    (bad1 = false → bad2 = false → ao.limit.toNat < p + 8 + l + 29792 → answer u 2) ∧
    (∀ v bs bad3, bad1 = false → bad2 = false → p + 8 + l + 29792 ≤ ao.limit.toNat →
      u.checkArea s.fk ao (p + 8) (l + 29792) .read = .ok () → u.areaLoad s.fk ao (p + 8) (l + 29792) = (v, bs, bad3) →
      (bad3 = true → answer v 3) ∧
      (bad3 = false → slhVerify (bs.take l) (bs.drop l) key = false → answer v 1) ∧
      (bad3 = false → slhVerify (bs.take l) (bs.drop l) key = true →
        let firm := isPriv s.fk s.fc = true ∧ s.fk / 128 = Config.schedDie ∧ shake256 key 64 = v.geode.key ∧ ao.kind = 1
        let sm := shake256 (bs.take l) 64
        (firm → p = 0 → answer { v with geode := { v.geode with vera := true, sma := sm } } 0) ∧
        (firm → p = 0x100000 → answer { v with geode := { v.geode with verb := true, smb := sm } } 0) ∧
        (¬ (firm ∧ (p = 0 ∨ p = 0x100000)) → answer v 0)))) ∧
  (∀ (f : FmtY) (s t : State) (m : List Byte) (bad : Bool), s.Enabled f.g → isPriv s.fk s.fc = true → (s.bank s.fk).spec = false →
    let am := s.fcore.areg f.a
    s.checkArea s.fk am am.ptr.toNat 64 .read = .ok () → s.areaLoad s.fk am am.ptr.toNat 64 = (t, m, bad) → s.fcore.Ready f.x →
    ∃ x, exec (.secmeas f) s = .next x ∧
      (f.x ≠ 0 → (x.core s.fk s.fc).xreg (s.fcore.px f.x.toNat) =
        ⟨wNat ((if f.imm.toNat < 8 then 1 else if bad then 3 else 0) * 2 ^ 56), false, .full⟩) ∧
      (f.imm.toNat < 8 ∨ bad = true → x.geode.meas = t.geode.meas) ∧
      (8 ≤ f.imm.toNat → f.imm.toNat < 32 → bad = false →
        vget x.geode.meas f.imm.toNat [] = shake256 (vget t.geode.meas f.imm.toNat [] ++ m) 64) ∧
      (∀ j, j ≠ f.imm.toNat → vget x.geode.meas j [] = vget t.geode.meas j [])) ∧
  (∀ (f : FmtY) (s t : State) (req : List Byte) (bad : Bool), s.Enabled f.g → isPriv s.fk s.fc = true → (s.bank s.fk).spec = false →
    let aq := s.fcore.areg f.a
    let ar := s.fcore.areg f.a2
    s.checkArea s.fk aq aq.ptr.toNat aq.room .read = .ok () → s.areaLoad s.fk aq aq.ptr.toNat aq.room = (t, req, bad) →
    s.fcore.Ready f.x →
    let ans := t.spdmAnswer req
    let answer := fun (u : State) (v : Nat) => exec (.secatt f) s = .next ((u.putCore (u.fcore.wrote f.x (wNat v) false)).retire s.fk s.fc 1)
    (bad = true → answer t (3 * 2 ^ 56)) ∧
    (bad = false → ans.1.checkArea s.fk ar ar.ptr.toNat (min ar.room ans.2.length) .write = .ok () →
      (ar.room < ans.2.length → answer ans.1 (2 ^ 56)) ∧
      (ans.2.length ≤ ar.room → answer (ans.1.areaStore s.fk ar ans.2) ans.2.length))) ∧
  (∀ (f : FmtY) (s : State), s.Enabled f.g → isPriv s.fk s.fc = false →
    exec (.secmeas f) s = .next (s.stopped s.fk s.fc (.trap cPRIVILEGE (wNat (encY 0x1C8 f)))) ∧
    exec (.secatt f) s = .next (s.stopped s.fk s.fc (.trap cPRIVILEGE (wNat (encY 0x1C9 f)))) ∧
    exec (.wdpet f) s = .next (s.stopped s.fk s.fc (.trap cPRIVILEGE (wNat (encY 0x1CA f)))))

/-- WDPET restarts the die's watchdog and, in the firmware that a hand-over started, ends the pending state and makes its slot the one
to boot; one that comes after the 5 ms of the heartbeat timer is abandoned by the roll-back; BBLOG appends a record with its code and word to
a ring that is not frozen; a commit through MTS FWSLOT swaps the ACTIVE slot, counts HOSEQ, extends measurement 1 and restarts the
scheduler's firmware (15 R308; 19 R346 to R348, R351; 20 R356). -/
def Obligations.FirmwareControl : Prop :=
  (∀ (f : FmtY) (s : State), s.Enabled f.g → isPriv s.fk s.fc = true → s.fk / 128 = Config.schedDie → s.geode.pending = true →
    (∃ t, s.geode.beat = some t ∧ t + 5000000 ≤ s.time) → ∃ u, exec (.wdpet f) s = .next u ∧ RolledBack s u) ∧
  (∀ (f : FmtY) (s : State), s.Enabled f.g → isPriv s.fk s.fc = true →
    let d := s.fk / 128
    (d = Config.schedDie → s.geode.pending = true → ∀ t, s.geode.beat = some t → s.time < t + 5000000) →
    ∃ u, exec (.wdpet f) s = .next u ∧ (u.die d).wdStart = s.time ∧
      (d = Config.schedDie → s.geode.pending = true →
        u.geode.pending = false ∧ u.geode.beat = none ∧ u.flash.boot = s.geode.active ∧ u.geode.active = s.geode.active) ∧
      (d ≠ Config.schedDie ∨ s.geode.pending = false → u.geode = s.geode ∧ u.flash = s.flash)) ∧
  (∀ (f : FmtY) (s : State) (v : Word), s.Enabled f.g → (0x8000 ≤ f.imm.toNat ∨ isPriv s.fk s.fc = true) →
    (s.bank s.fk).spec = false → s.fcore.Holds f.x v false →
    let d := s.fk / 128
    (s.die d).frozen = false → ∃ u w0 w2, exec (.bblog f) s = .next u ∧
      kget? (u.die d).ring (s.die d).next = some [w0, wNat s.time, w2, v, 0, 0, 0, 0] ∧ field w0.toNat 16 16 = f.imm.toNat ∧
      (u.die d).seq = ((s.die d).seq + 1) % 2 ^ 32 ∧ (u.die d).next = ((s.die d).next + 1) % 1024 ∧
      (∀ i, i ≠ (s.die d).next → kget? (u.die d).ring i = kget? (s.die d).ring i)) ∧
  (∀ (f : FmtS) (s : State) (v : Word), s.Enabled f.g → isPriv s.fk s.fc = true → s.fk / 128 = Config.schedDie →
    s.fcore.Holds f.s1 v false →
    (bitOf v.toNat 0 = s.geode.active → ∃ u, exec (.fwslotCommit f) s = .next u ∧
      u.geode = { s.geode with stage := bitOf v.toNat 1, rolled := s.geode.rolled && bitOf v.toNat 3 }) ∧
    (bitOf v.toNat 0 ≠ s.geode.active → s.geode.stage = true → s.geode.pending = false → s.geode.ver (!s.geode.active) = true →
      ∃ u, exec (.fwslotCommit f) s = .next u ∧ u.geode.active = !s.geode.active ∧ u.geode.pending = true ∧
        u.geode.stage = false ∧ u.geode.hoseq = s.geode.hoseq + 1 ∧ u.geode.beat = some s.time ∧
        vget u.geode.meas 1 [] = shake256 (vget s.geode.meas 1 [] ++ s.geode.sm (!s.geode.active)) 64 ∧
        u.mem = s.mem ∧ (u.die Config.schedDie).wdStart = s.time ∧
        (let r := u.core (svc Config.schedDie) .x;
          r.run = .running ∧ r.pc = wNat ((if s.geode.active then 0 else 0x100000) + 8) ∧ (r.xreg 1).val = s.geode.hoseq + 1 ∧
            (r.xreg 2).val = 1)) ∧
    (bitOf v.toNat 0 ≠ s.geode.active → ¬ (s.geode.stage = true ∧ s.geode.pending = false ∧ s.geode.ver (!s.geode.active) = true) →
      exec (.fwslotCommit f) s = .next (s.stopped s.fk s.fc (.trap cPRIVILEGE 11))))

/-! ## Vector instructions (07) -/

/-- Every enabled lane of an elementwise instruction takes its function of the sources' lanes, rounded once by the instruction's mode, with
the sources' poison; disabled lanes keep their bits; the flags are ORed into STATUS; with no lane enabled nothing is written
(06 R119, R121, R124; 07 R128 to R132, R136, R137, R139). What SAT does to an infinite operand and to VRSQ of zero is the model's choice
(logs 33, 81). -/
def Obligations.VectorElementwise : Prop :=
  ∀ p ∈ vecArith ++ vecUnary ++ vecFunctions ++ vecShape, ∀ (f : FmtV) (s : State), s.fcore.stageOn = true → f.d.toNat < 48 → s.mem.wf →
    let os := p.srcs f s
    let tag := match os with | o :: _ => o.tag | [] => 0
    let en := s.enabled f.g tag (elemCount tag)
    sameTags p.cls os = .ok () → ¬ (isI tag = true ∧ f.rm ≠ 0) →
    (en = [] → exec (p.ins f) s = .next (s.retire s.fk s.fc 1)) ∧
    (en ≠ [] → s.checkPorts (os.map (fun o => o.need en)) = .ok () →
      let r := fun i =>
        let ps := os.map (fun o => o.el i)
        if isF tag then p.ff f (Config.freeWord s.free) (fmtOf tag) (s.modeFor f.rm p.draws (· % 256) en i) ps
        else p.fi f (tagBits tag) ps
      ∃ t, exec (p.ins f) s = .next t ∧ s.VWrote t f.d tag (lanes en (fun i => ((r i).1, os.any (fun o => o.elBad i)))) ∧
        (t.core s.fk s.fc).status = orFlags s.fcore.status (orAll (en.map (fun i => (r i).2))))

/-- Bitwise vector operations and dot products. -/
def Obligations.VectorBitwiseAndDot : Prop := VectorBitwise ∧ VectorDot

/-- Moves of whole vector registers, and of lanes. -/
def Obligations.VectorMoves : Prop := VectorWholeMoves ∧ VectorLanes

/-- VCMP writes its pair of masks at the enabled lanes and VCLASS by its set of classes; a NaN sets INV as the compare says, VCLASS sets no
flag (07 R141, R142). -/
def Obligations.VectorCompares : Prop :=
  (∀ p ∈ vecCompares, ∀ (f : FmtV) (s : State), s.fcore.stageOn = true →
    let a := s.opnd f.a
    let b := s.opnd f.b
    let en := s.enabled f.g a.tag (elemCount a.tag)
    sameTags p.cls [a, b] = .ok () → en ≠ [] → s.checkPorts [a.need en, b.need en] = .ok () →
    (∀ i ∈ en, a.elBad i = false ∧ b.elBad i = false) →
    let fm := fmtOf a.tag
    let c := fun i =>
      if isF a.tag then (p.ff (fm.value (a.el i)) (fm.value (b.el i))).1 else p.fi (intOf a.w f.sa (a.el i)) (intOf b.w f.sb (b.el i))
    ∃ t, exec (p.ins f) s = .next t ∧ s.PairWrote t (f.d.toNat % 16) (f.c.toNat % 16) (f.sub.toNat % 4) en c ∧
      (t.core s.fk s.fc).status = orFlags s.fcore.status
        { inv := isF a.tag && en.any (fun i => (p.ff (fm.value (a.el i)) (fm.value (b.el i))).2) }) ∧
  (∀ (f : FmtV) (s : State), s.fcore.stageOn = true →
    let a := s.opnd f.a
    let en := s.enabled f.g a.tag (elemCount a.tag)
    let v := fun i => (fmtOf a.tag).value (a.el i)
    let set := f.sub.toNat
    isFloat a.tag = true → en ≠ [] → s.checkPorts [a.need en] = .ok () → (∀ i ∈ en, a.elBad i = false) →
    let inSet := fun i => match v i with
      | .nan _ => set.testBit 0
      | .inf _ => set.testBit 1
      | .fin x _ => if x = 0 then set.testBit 4 else if |x| < pow2 (fmtOf a.tag).emin then set.testBit 3 else set.testBit 2
    let c := fun i => inSet i && (!set.testBit 5 || (a.el i).testBit (a.w - 1))
    ∃ t, exec (.vclass f) s = .next t ∧ s.PairWrote t (f.d.toNat % 16) (f.c.toNat % 16) (f.b.toNat % 4) en c ∧
      (t.core s.fk s.fc).status = s.fcore.status) ∧
  (∀ (f : FmtV) (s : State), s.fcore.stageOn = true → f.d.toNat < 48 → s.mem.wf →
    let a := s.opnd f.a
    let b := s.opnd f.b
    let n := elemCount a.tag
    let en := s.enabled f.g a.tag n
    let pick := fun i => (s.kmask (f.c.toNat % 16)).getLsbD (if n = 2048 then i / 2 else i)
    sameTags tagPlain [a, b] = .ok () → en ≠ [] →
    s.checkPorts [a.need en, b.need en] = .ok () →
    ∃ t, exec (.vsel f) s = .next t ∧
      s.VWrote t f.d a.tag (lanes en (fun i => if pick i then (a.el i, a.elBad i) else (b.el i, b.elBad i))))

/-- KLUT, KSETP, KFIRST and VPCHK write a mask at the enabled bits, KPOPC counts the enabled set bits into an X register late, whatever its
guard enables (07 R143). -/
def Obligations.VectorMasks : Prop :=
  (∀ (f : FmtV) (s : State), s.fcore.stageOn = true →
    let en := s.enabledBits f.g 1024
    let m := fun (x : BitVec 6) i => (s.kmask (x.toNat % 16)).getLsbD i
    let tt := BitVec.ofNat 8 (ttOf f)
    en ≠ [] → ∃ t, exec (.klut f) s = .next t ∧
      s.KWrote t (f.d.toNat % 16) (fun i => if i ∈ en then some (ttAt tt (m f.a i) (m f.b i) (m f.c i)) else none)) ∧
  (∀ (f : FmtV) (s : State) (x : Word), s.fcore.stageOn = true → f.a.toNat < 32 → s.fcore.Holds (f.a.truncate 5) x false →
    let en := s.enabledBits f.g 1024
    en ≠ [] → ∃ t, exec (.ksetp f) s = .next t ∧
      s.KWrote t (f.d.toNat % 16) (fun i => if i ∈ en then some (decide (i < x.toNat)) else none)) ∧
  (∀ (f : FmtV) (s : State), s.fcore.stageOn = true →
    let en := s.enabledBits f.g 1024
    let m := s.kmask (f.a.toNat % 16)
    en ≠ [] → ∃ t, exec (.kfirst f) s = .next t ∧
      s.KWrote t (f.d.toNat % 16) (fun i =>
        if i ∈ en then some (m.getLsbD i && en.all (fun j => !(decide (j < i) && m.getLsbD j))) else none)) ∧
  (∀ (f : FmtV) (s : State), s.fcore.stageOn = true →
    let a := s.opnd f.a
    let n := elemCount a.tag
    let en := s.enabledBits f.g (min n 1024)
    let lane := fun i => if n = 2048 then 2 * i else i
    isAny a.tag = true → a.tag ≠ 0 → en ≠ [] → s.checkPorts [a.need (en.map lane)] = .ok () →
    ∃ t, exec (.vpchk f) s = .next t ∧
      s.KWrote t (f.d.toNat % 16) (fun i => if i ∈ en then some (a.elBad (lane i)) else none)) ∧
  (∀ (f : FmtV) (s : State), s.fcore.stageOn = true → f.d.toNat < 32 → f.d ≠ 0 → s.fcore.Ready (f.d.truncate 5) →
    ∃ t, exec (.kpopc f) s = .next t ∧ t.mem = s.mem ∧ t.unit = s.unit ∧
      (t.core s.fk s.fc).results = s.fcore.results ++ [⟨s.fcore.px f.d.toNat,
        wNat ((s.enabledBits f.g 1024).countP (fun i => (s.kmask (f.a.toNat % 16)).getLsbD i)), false⟩] ∧
      ((t.core s.fk s.fc).xreg (s.fcore.px f.d.toNat)).fill = .load)

/-- VCVT, VQUANT, VDEQUANT and VMXUNPK convert each enabled element that their part governs; VMXPACK packs whole blocks and stores their
scale codes (06 R113 to R115; 07 R144, R145). Which enabled elements draw and flag where no whole unit is enabled, and some flags, are
the model's choice (logs 36, 80, 81). -/
def Obligations.VectorConversions : Prop :=
  (∀ (f : FmtV) (s : State), s.fcore.stageOn = true → f.d.toNat < 48 → s.mem.wf → f.sub.toNat ≤ 18 →
    let a := s.opnd f.a
    let b := s.opnd f.b
    let tag := f.sub.toNat
    (tagPlain a.tag = true → tagPlain tag = true →
      Converts s f (.vcvt f) a [] tag 0 (fun m _ j => toPlain m a.tag tag f.sb (plainValue a.tag f.sa (a.el j))) (fun _ j => a.elBad j)) ∧
    (isF a.tag = true → isQ b.tag = true → b.gs < 3 →
      Converts s f (.vquant f) a [b] b.tag b.gs
        (fun m i j => quantise b.w f.sb m (b.group i).1 (b.group i).2 ((fmtOf a.tag).value (a.el j)))
        (fun i j => a.elBad j || b.elBad i)) ∧
    (isQ a.tag = true → a.gs < 3 → isF tag = true →
      Converts s f (.vdequant f) a [] tag 0
        (fun m _ j =>
          let v := dequant (a.group j).1 (intOf a.w f.sa (a.el j)) (a.group j).2
          (((fmtOf tag).convert m v.1).1, v.2.or ((fmtOf tag).convert m v.1).2))
        (fun _ j => a.elBad j)) ∧
    (isBlock a.tag = true → isF tag = true →
      Converts s f (.vmxunpk f) a [] tag 0 (fun m _ j => (fmtOf tag).convert m (mxValue a.tag (a.side (j / 32)) (a.el j)))
        (fun _ j => a.elBad j))) ∧
  (∀ (f : FmtV) (s : State), s.fcore.stageOn = true → f.d.toNat < 48 → s.mem.wf → s.unit.side.wf →
    let a := s.opnd f.a
    let tag := f.sub.toNat
    let p := f.c.toNat % 8
    let na := elemCount a.tag
    let asked := (s.enabled f.g tag (elemCount tag)).filter (fun i => decide (p * na ≤ i ∧ i < p * na + na))
    let en := whole tag 0 asked
    let val := fun i => (fmtOf a.tag).value (a.el (i - p * na))
    let scale := fun i => blockScale tag ((List.range 32).map (fun j => val (i / 32 * 32 + j)))
    let m := s.modeFor f.rm true (· % 256) en
    let r := fun i => match (scale i).1 with
      | some x => packMx tag (m i) x (val i)
      | none => (0, { inv := decide ((scale i).2 = 255) })
    isF a.tag = true → isBlock tag = true → p * na < elemCount tag → en ≠ [] →
    s.checkPorts [a.need ((unitElems tag 0 (asked.map (· / 32)).eraseDups).map (fun i => i - p * na))] = .ok () →
    ∃ t, exec (.vmxpack f) s = .next t ∧
      s.VWrote t f.d tag (lanes en (fun i => ((r i).1, (List.range 32).any (fun j => a.elBad (i / 32 * 32 + j - p * na))))) ∧
      (∀ i ∈ en, (t.unit.side.byte (256 * s.fcore.vp f.d.toNat + i / 32)).toNat = (scale i).2) ∧
      (t.core s.fk s.fc).status = orFlags s.fcore.status (orAll (en.map (fun i => (r i).2))))

/-- VRED writes the sum, the largest or the smallest of the enabled elements to element 0 and zeros to the others; VSCAN.ADD writes to each
enabled element the sum of those up to it (07 R146). The draws, and that MAX and MIN do not saturate, are the model's choice (log 33). -/
def Obligations.VectorReductions : Prop :=
  ∀ (f : FmtV) (s : State), s.fcore.stageOn = true → f.d.toNat < 48 → s.mem.wf →
    let a := s.opnd f.a
    let en := s.enabled f.g a.tag (elemCount a.tag)
    let int := fun i => intOf a.w f.sa (a.el i)
    let fval := fun i => (fmtOf a.tag).value (a.el i)
    en ≠ [] → s.checkPorts [a.need en] = .ok () →
    let whole := fun (ins : Instr) (tag val : Nat) (fl : Flags) => ∃ t, exec ins s = .next t ∧
      s.VWrote t f.d tag (fun i => some (if i = 0 then (val, en.any a.elBad) else (0, false))) ∧
      (t.core s.fk s.fc).status = orFlags s.fcore.status fl
    (isI a.tag = true → f.rm = 0 →
      whole (.vredAdd f) 18 ((en.map int).sum % 18446744073709551616).toNat {} ∧
      (∃ j ∈ en, (∀ i ∈ en, int i ≤ int j) ∧ whole (.vredMax f) a.tag (a.el j) {}) ∧
      (∃ j ∈ en, (∀ i ∈ en, int j ≤ int i) ∧ whole (.vredMin f) a.tag (a.el j) {}) ∧
      ∃ t, exec (.vscanAdd f) s = .next t ∧ s.VWrote t f.d a.tag (lanes en (fun i =>
        ((wrapI f a.w ((en.filter (fun j => decide (j ≤ i))).map int).sum).1, (en.filter (fun j => decide (j ≤ i))).any a.elBad)))) ∧
    (isF a.tag = true →
      let m := s.modeFor f.rm true id [0] 0
      let put := fun (fm : Fmt) (sat : Bool) (v : Fp × Flags) => ((fm.result m sat v.1).1, v.2.or (fm.result m sat v.1).2)
      let add := put fp32 f.sat (sumF (m == .rdn) (en.map fval))
      let top := put (fmtOf a.tag) false (extremeF true (en.map fval))
      let low := put (fmtOf a.tag) false (extremeF false (en.map fval))
      whole (.vredAdd f) 1 add.1 add.2 ∧ whole (.vredMax f) a.tag top.1 top.2 ∧ whole (.vredMin f) a.tag low.1 low.2 ∧
      let mi := s.modeFor f.rm true (· % 256) en
      let v := fun i => sumF (mi i == .rdn) ((en.filter (fun j => decide (j ≤ i))).map fval)
      ∃ t, exec (.vscanAdd f) s = .next t ∧ s.VWrote t f.d a.tag (lanes en (fun i =>
        (((fmtOf a.tag).result (mi i) f.sat (v i).1).1, (en.filter (fun j => decide (j ≤ i))).any a.elBad))) ∧
        (t.core s.fk s.fc).status = orFlags s.fcore.status
          (orAll (en.map (fun i => (v i).2.or ((fmtOf a.tag).result (mi i) f.sat (v i).1).2))))

/-- The permutes: each enabled element takes the element that VPERM's index, VROT's distance, VZIP's or VUNZIP's interleaving, VCOMPRESS's or
VEXPAND's count of enabled lanes names, with its poison (07 R147). -/
def Obligations.VectorPermutes : Prop :=
  ∀ (f : FmtV) (s : State), s.fcore.stageOn = true → f.d.toNat < 48 → s.mem.wf →
    let a := s.opnd f.a
    let b := s.opnd f.b
    let n := elemCount a.tag
    let en := s.enabled f.g a.tag n
    isE a.tag = true → en ≠ [] →
    let from' := fun (ins : Instr) (src : Nat → Nat) => ∃ t, exec ins s = .next t ∧
      s.VWrote t f.d a.tag (lanes en (fun i => (a.el (src i), a.elBad (src i))))
    let both := fun (ins : Instr) (src : Nat → Bool × Nat) =>
      s.checkPorts [a.need ((en.filter (fun i => !(src i).1)).map (fun i => (src i).2)),
        b.need ((en.filter (fun i => (src i).1)).map (fun i => (src i).2))] = .ok () →
      ∃ t, exec ins s = .next t ∧ s.VWrote t f.d a.tag (lanes en (fun i =>
        if (src i).1 then (b.el (src i).2, b.elBad (src i).2) else (a.el (src i).2, a.elBad (src i).2)))
    let m := min n (2 ^ a.w)
    let perm := fun i => b.el i % m + m * (i / m)
    let l := min (2 ^ f.sub.toNat) n
    (b.tag = (if a.w = 8 then 8 else if a.w = 16 then 7 else 6) → s.checkPorts [a.need (en.map perm), b.need en] = .ok () →
      (∀ i ∈ en, b.elBad i = false) → from' (.vperm f) perm) ∧
    (∀ x : Word, f.b.toNat < 32 → s.fcore.Holds (f.b.truncate 5) x false →
      let rot := fun i => l * (i / l) + (i % l + l - x.toNat % l) % l
      s.checkPorts [a.need (en.map rot)] = .ok () → from' (.vrot f) rot) ∧
    (b.tag = a.tag → both (.vzip f) (fun i => (decide (i % 2 = 1), i / 2 + f.sub.toNat * (n / 2)))) ∧
    (b.tag = a.tag → both (.vunzip f) (fun i =>
      (decide (n ≤ 2 * i + f.sub.toNat), if n ≤ 2 * i + f.sub.toNat then 2 * i + f.sub.toNat - n else 2 * i + f.sub.toNat))) ∧
    (s.checkPorts [a.need en] = .ok () → ∃ t, exec (.vcompress f) s = .next t ∧
      s.VWrote t f.d a.tag (fun i => some (match en[i]? with
        | some j => (a.el j, a.elBad j)
        | none => (0, false)))) ∧
    (s.checkPorts [a.need (List.range en.length)] = .ok () →
      from' (.vexpand f) (fun i => (en.filter (fun j => decide (j < i))).length))

/-- The vector loads: VLD a tag's packed elements, VLDX by INT32 indices, VLDSP by a byte stride, from the own scratchpad through a
KIND 1 A register, each with its bytes' poison; VLDS the sidecar entries and GS of whole blocks or groups, the unused fourth byte of a
group's entry reading zero, the elements unchanged
(06 R117; 07 R148, R149). -/
def Obligations.VectorLoads : Prop :=
  ∀ (f : FmtV) (s : State), s.fcore.stageOn = true → f.d.toNat < 48 → s.mem.wf →
    let a := s.fcore.areg (f.b.truncate 4)
    let p : Int := a.ptr.toNat
    let tag := f.sub.toNat
    let w := tagBits tag
    let at' := fun (q : Int) (i : Nat) => (s.padBits s.fk q (i * w) w, s.padBad s.fk q (i * w) w)
    let en := s.enabled f.g tag (elemCount tag)
    (tag ≤ 18 →
      let gs := if isBlock tag then 0 else (vget s.unit.gs (s.fcore.vp f.d.toNat) 0).toNat
      let el := whole tag gs en
      el ≠ [] → s.checkSpans a .read (el.map (elemSpan p w)) = .ok () →
      ∃ t, exec (.vld f) s = .next t ∧ s.VWrote t f.d tag (lanes el (at' p))) ∧
    (isE tag = true →
      let o := s.opnd f.a
      let low := en.filter (fun i => decide (i < 256))
      o.tag = 6 → en ≠ [] → s.checkPorts [o.need low] = .ok () → (∀ i ∈ low, o.elBad i = false) →
      let q := fun i => p + intOf 32 true (o.el i) * (w / 8 : Nat)
      s.checkSpans a .read (low.map (fun i => (q i, w / 8))) = .ok () →
      ∃ t, exec (.vldx f) s = .next t ∧ s.VWrote t f.d tag (lanes en (fun i => if i < 256 then at' (q i) 0 else (0, false)))) ∧
    (∀ x : Word, isE tag = true → f.c.toNat < 32 → s.fcore.Holds (f.c.truncate 5) x false → en ≠ [] →
      let q := fun i : Nat => p + i * x.toInt
      s.checkSpans a .read (en.map (fun i => (q i, w / 8))) = .ok () →
      ∃ t, exec (.vldsp f) s = .next t ∧ s.VWrote t f.d tag (lanes en (fun i => at' (q i) 0))) ∧
    (let o := s.opnd f.d
      let gs := f.sub.toNat
      let z := entrySize o.tag
      let us := fullUnits o.tag gs (s.enabled f.g o.tag (elemCount o.tag))
      isX o.tag = true → gs ≤ 3 → (isBlock o.tag = true → gs = 0) → us ≠ [] → s.unit.side.wf →
      s.checkSpans a .read (us.map (fun u => (p + (z * u : Nat), z))) = .ok () →
      ∃ t, exec (.vlds f) s = .next t ∧ t.mem = s.mem ∧ t.unit.tags = s.unit.tags ∧
        (vget t.unit.gs (s.fcore.vp f.d.toNat) 0).toNat = gs ∧
        (∀ u ∈ us, ∀ i, i < z →
          (t.unit.side.byte (256 * s.fcore.vp f.d.toNat + (z * u + i))).toNat =
            if isQ o.tag ∧ i = 3 then 0 else s.padBits s.fk p (8 * (z * u + i)) 8) ∧
        (t.core s.fk s.fc).x = s.fcore.x ∧ (t.core s.fk s.fc).a = s.fcore.a)

/-- The vector stores: VST the packed enabled elements, VSTX the first 256 at INT32 indices, the later standing where two overlap, VSTS the
sidecar entries of whole blocks or groups; nothing else of any memory changes (07 R148, R149). -/
def Obligations.VectorStores : Prop :=
  ∀ (f : FmtV) (s : State), s.fcore.stageOn = true → s.mem.wf →
    let a := s.fcore.areg (f.b.truncate 4)
    let p : Int := a.ptr.toNat
    let o := s.opnd f.a
    let w := o.w
    let en := s.enabled f.g o.tag (elemCount o.tag)
    (isAny o.tag = true → en ≠ [] → s.checkPorts [o.need en] = .ok () → s.checkSpans a .write (en.map (elemSpan p w)) = .ok () →
      (∀ i ∈ en, o.elBad i = false) →
      ∃ t, exec (.vst f) s = .next t ∧ s.PadStored t (en.map (elemSpan p w)) ∧
        (∀ i ∈ en, t.padBits s.fk p (i * w) w = o.el i % 2 ^ w)) ∧
    (let x := s.opnd f.c;
      let low := en.filter (fun i => decide (i < 256))
      let q := fun i => p + intOf 32 true (x.el i) * (w / 8 : Nat)
      isE o.tag = true → x.tag = 6 → low ≠ [] → s.checkPorts [o.need low, x.need low] = .ok () →
      s.checkSpans a .write (low.map (fun i => (q i, w / 8))) = .ok () → (∀ i ∈ low, o.elBad i = false ∧ x.elBad i = false) →
      ∃ t, exec (.vstx f) s = .next t ∧ s.PadStored t (low.map (fun i => (q i, w / 8))) ∧
        (∀ i ∈ low, (∀ j ∈ low, i < j → q i + (w / 8 : Nat) ≤ q j ∨ q j + (w / 8 : Nat) ≤ q i) →
          t.padBits s.fk (q i) 0 w = o.el i % 2 ^ w)) ∧
    (let z := entrySize o.tag
      let us := fullUnits o.tag o.gs en
      isX o.tag = true → o.gs < 3 → us ≠ [] → s.checkSpans a .write (us.map (fun u => (p + (z * u : Nat), z))) = .ok () →
      (∀ i ∈ unitElems o.tag o.gs us, o.elBad i = false) →
      ∃ t, exec (.vsts f) s = .next t ∧ s.PadStored t (us.map (fun u => (p + (z * u : Nat), z))) ∧
        (∀ u ∈ us, ∀ i, i < z → t.padBits s.fk p (8 * (z * u + i)) 8 = o.side (u * z + i) % 256))

/-- QCFG binds a readable KIND 1 A register to a port, with four levels of one step, and A0 unbinds; QLOOP sets a level's count and stride and
rewinds; QRESET rewinds; a port with a zero count is exhausted at once, and one not bound raises PORT_EXHAUSTED (07 R150, R151). -/
def Obligations.Ports : Prop :=
  ∀ (f : FmtV) (s : State), s.fcore.stageOn = true → s.enabledBits f.g 1 ≠ [] → 48 ≤ f.a.toNat → f.a.toNat < 56 →
    let q := f.a.toNat - 48
    let a := s.fcore.areg (f.b.truncate 4)
    let old := vget s.unit.ports q {}
    let set := fun (ins : Instr) (p : Port) =>
      ∃ t, exec ins s = .next t ∧ vget t.unit.ports q {} = p ∧ (∀ j, j ≠ q → vget t.unit.ports j {} = vget s.unit.ports j {}) ∧
        t.mem = s.mem ∧ t.unit.tags = s.unit.tags ∧ t.unit.k = s.unit.k ∧
        (t.core s.fk s.fc).x = s.fcore.x ∧ (t.core s.fk s.fc).a = s.fcore.a
    let start := fun (ls : Vector Level 4) => { old with
      levels := ls.map (fun l => { l with index := 0 }), status := if ls.toList.any (fun l => l.count == 0) then 2 else 1 }
    ((f.b.truncate 4 : BitVec 4) = 0 → set (.qcfg f) {}) ∧
    ((f.b.truncate 4 : BitVec 4) ≠ 0 → a.kind = 1 → a.canRead = true → set (.qcfg f)
      { bind := a, base := a.ptr, tag := f.sub.truncate 5, status := 1, levels := Vector.replicate 4 { count := 1 } }) ∧
    ((f.b.truncate 4 : BitVec 4) ≠ 0 → ¬ (a.kind = 1 ∧ a.canRead = true) →
      exec (.qcfg f) s = .next (s.stopped s.fk s.fc (.trap cBOUNDS a.ptr))) ∧
    (∀ n d : Word, old.status ≠ 0 → f.d.toNat < 32 → f.c.toNat < 32 →
      s.fcore.Holds (f.d.truncate 5) n false → s.fcore.Holds (f.c.truncate 5) d false →
      set (.qloop f) (start (vset old.levels (f.sub.toNat % 4) { count := n.toNat % 4294967296, stride := d }))) ∧
    (∀ n d pn pd, old.status = 0 → f.d.toNat < 32 → f.c.toNat < 32 →
      s.fcore.Holds (f.d.truncate 5) n pn → s.fcore.Holds (f.c.truncate 5) d pd →
      exec (.qloop f) s = .next (s.stopped s.fk s.fc (.trap cPORT (wNat q)))) ∧
    (old.status ≠ 0 → set (.qreset f) (start old.levels)) ∧
    (old.status = 0 → exec (.qreset f) s = .next (s.stopped s.fk s.fc (.trap cPORT (wNat q))))

/-! ## Engine queues (05 R92 to R95; 08 R154 to R187; 11 R215 to R241) -/

/-- Pushes of matrix, sparse and sort entries. -/
def Obligations.EnginePushes : Prop := MatrixPushes ∧ SparseSortPushes

/-- A transfer instruction pushes an entry if its guard is true, unless a speculative run parks it; XWPTR and XPEND bring the write pointer
and the pending bytes to an X register late at their push; XABORT aborts its channel at its push (03 R37; 05 R92 to R94; 11 R215, R226, R236,
R242). -/
def Obligations.TransferPushes : Prop :=
  ∀ s : State,
    (∀ p ∈ copyTable, ∀ f : FmtX, s.Enabled f.g →
      Pushes s (p.1 f) .transfer f.q (.xfer (.copy p.2.1 f)) (p.2.2.1 f) (p.2.2.2.1 f) 0 (p.2.2.2.2 f (s.fcore.areg f.ad)) noMore) ∧
    (∀ p ∈ amoTable, ∀ f : FmtA, s.Enabled f.g →
      Pushes s (p.1 f) .transfer f.q (.xfer (.amo p.2 f)) [f.xs] (some f.xd) 0 true noMore) ∧
    (∀ f : FmtA, s.Enabled f.g →
      Pushes s (.amocas f) .transfer f.q (.xfer (.amo 0x196 f)) [f.xs, f.xt] (some f.xd) 0 true noMore) ∧
    (∀ (g : Guard) (q : Eng) (n : BitVec 3) (c ar ad : BitVec 4) (sc : BitVec 2) (gr : Bool), s.Enabled g →
      let push := fun (i : Instr) (op : XOp) (park : Bool) => Pushes s i .transfer q (.xfer op) [] none 0 park noMore
      push (.xstream g q n ar) (.xstream n.toNat ar) true ∧ push (.xstrend g q n) (.xstrend n.toNat) false ∧
      push (.xchan g q c ad) (.xchan c.toNat ad) false ∧ push (.xchanClose g q c) (.xchanClose c.toNat) false ∧
      push (.phase g q sc gr) (.phase sc.toNat gr) false ∧ push (.fence g q sc) (.fence sc.toNat) false ∧ push (.cbar g q) .cbar false) ∧
    (∀ (g : Guard) (q : Eng) (x y : BitVec 5) (a c : BitVec 4) (rights : BitVec 5) (n : BitVec 8), s.Enabled g →
      let push := fun (i : Instr) (op : XOp) (xs : List (BitVec 5)) (d : Option (BitVec 5)) (park : Bool) =>
        Pushes s i .transfer q (.xfer op) xs d 0 park noMore
      push (.balloc g q x a c) (.balloc a c.toNat) [] (some x) true ∧ push (.bref g q a) (.bref a) [] none true ∧
      push (.bdrop g q a) (.bdrop a) [] none true ∧ push (.bxfer g q a x rights) (.bxfer a rights) [x] none true ∧
      push (.gsubmit g q x a) (.gsubmit a) [x] none true ∧ push (.gsignal g q a n) (.gsignal a n.toNat) [] none true ∧
      push (.gwait g q x y) .gwait [y] (some x) false ∧ push (.arrwait g q a x) (.arrwait a) [x] none false ∧
      push (.hnotify g q x y) .hnotify [x, y] none true) ∧
    (∀ (g : Guard) (q : Eng) (x : BitVec 5) (c : BitVec 4), s.Enabled g → x ≠ 0 → s.fcore.Ready x →
      let b := s.bank s.fk
      b.xfer.stop = none → b.xfer.entries.length < 16 → (q.wsem ≠ 0 → q.wcnt.toNat + 1 ≤ (b.sem q.wsem.toNat).credit) →
      ∀ p ∈ [(Instr.xwptr g q x c, if (vget b.chans c.toNat {}).st = .open_ then wNat (vget b.chans c.toNat {}).wp else BitVec.allOnes 64),
        (Instr.xpend g q x, wNat b.pb)],
        ∃ t, exec p.1 s = .next t ∧ t.mem = s.mem ∧ (t.bank s.fk).xfer.entries.length = b.xfer.entries.length + 1 ∧
          (t.core s.fk s.fc).results = s.fcore.results ++ [⟨s.fcore.px x.toNat, p.2, false⟩] ∧
          ((t.core s.fk s.fc).xreg (s.fcore.px x.toNat)).fill = .load) ∧
    (∀ (g : Guard) (q : Eng) (c : BitVec 4), s.Enabled g →
      let b := s.bank s.fk
      b.xfer.stop = none → b.xfer.entries.length < 16 → (q.wsem ≠ 0 → q.wcnt.toNat + 1 ≤ (b.sem q.wsem.toNat).credit) →
      ∃ t, exec (.xabort g q c) s = .next t ∧ (vget (t.bank s.fk).chans c.toNat {}).st = .aborted ∧
        (∀ p ∈ (t.cell s.fk).posted, ∀ h ∈ p.chan, h.c ≠ c.toNat) ∧ t.mem = s.mem ∧
        (∀ j, j ≠ c.toNat → vget (t.bank s.fk).chans j {} = vget b.chans j {}))

/-- Matrix entries: products, and moves of tiles. -/
def Obligations.MatrixEntries : Prop := MatrixProducts ∧ TileMoves

/-- Entries of the sort engine and copies by the transfer engine. -/
def Obligations.SortAndCopyEntries : Prop := SortedKeys ∧ ScratchpadCopies

/-- A granted wait takes its count and marks the entry; the front entry completes: its flags reach STATUS, it leaves the queue and signals,
and a signal past 65535 stops the queue with SEM_RANGE (05 R92, R93, R95; 06 R124). -/
def Obligations.EntryLifetime : Prop :=
  (∀ (s : State) (k : Nat) (e : EngIx) (ent : Entry) (rest : List Waiter),
    let b := s.bank k
    let n := ent.q.wsem.toNat
    b.upNext e = some ent → ent.stage = .queued → n ≠ 0 → (b.sem n).queue = ⟨.entry e ent.uid, ent.q.wcnt.toNat + 1⟩ :: rest →
    ent.q.wcnt.toNat + 1 ≤ (b.sem n).val →
    ∃ t, exec (.engineWaitGrant k e) s = .next t ∧
      ((t.bank k).sem n).val = (b.sem n).val - (ent.q.wcnt.toNat + 1) ∧ ((t.bank k).sem n).queue = rest ∧
      (∀ m, m ≠ n → (t.bank k).sem m = b.sem m) ∧
      ((t.bank k).engine e).entries = (b.engine e).entries.map (fun x => if x.uid = ent.uid then { ent with stage := .granted } else x) ∧
      t.mem = s.mem) ∧
  (∀ (s : State) (k : Nat) (e : EngIx) (ent : Entry) (rest : List Entry),
    let b := s.bank k
    let n := ent.q.ssem.toNat
    (b.engine e).entries = ent :: rest → (∀ x ∈ rest, x.uid ≠ ent.uid) → ent.stage = .finished → (b.engine e).stop = none → ent.late = [] →
    phaseOf ent.op = none →
    (n = 0 ∨ (b.sem n).val + (ent.q.scnt.toNat + 1) ≤ 65535 →
      ∃ t, exec (.engineEntryComplete k e) s = .next t ∧
        ((t.bank k).engine e).entries = rest ∧ (t.core k (ownerOf e)).status = (b.core (ownerOf e)).status ||| ent.flags ∧
        (∀ m, ((t.bank k).sem m).val = if m = n ∧ n ≠ 0 then (b.sem n).val + (ent.q.scnt.toNat + 1) else (b.sem m).val) ∧
        t.mem = s.mem) ∧
    (n ≠ 0 → 65535 < (b.sem n).val + (ent.q.scnt.toNat + 1) → b.spec = false → (b.core (ownerOf e)).run = .running → (∀ m, (b.sem m).queue = []) →
      ∃ t, exec (.engineEntryComplete k e) s = .next t ∧ ((t.bank k).engine e).stop = some cSEMRANGE ∧
        (∀ m, ((t.bank k).sem m).val = (b.sem m).val) ∧ t.mem = s.mem))

/-! ## Events of a cell (02 R15; 04 R76 to R85; 05 R92 to R101; 08 R167, R168, R177; 10 R209; 11 R216, R225, R236; 15 R289, R298, R301) -/

/-- What ends a core's wait: a result arrives in its X register; the waiter at the head of a semaphore takes its count, that of a free mutex
becomes its owner; a write pointer has reached its value; a drained queue; a change or 1,024 cycles for PAUSE: the blocked
instruction then retires. A stalled push issues anew once an entry is free (02 R15; 04 R76, R77, R79, R83, R85; 05 R92). -/
def Obligations.CoreWakeups : Prop :=
  ∀ (s : State) (k : Nat) (c : CoreIx),
    let b := s.bank k
    let r := s.core k c
    (∀ (i : Nat) (x : Result), r.results[i]? = some x → x.xd < 32 →
      ∃ t, exec (.longLatencyResult k c i) s = .next t ∧ (t.core k c).xreg x.xd = ⟨x.val, x.poison, .full⟩ ∧
        (∀ j, j ≠ x.xd → (t.core k c).xreg j = r.xreg j) ∧ (t.core k c).results = r.results.eraseIdx i ∧
        (t.core k c).pc = r.pc ∧ t = s.setCore k c (t.core k c)) ∧
    (∀ (n cnt : Nat) (rest : List Waiter), n < 32 → (b.sem n).queue = ⟨.core c, cnt⟩ :: rest → cnt ≤ (b.sem n).val →
      r.run = .blocked (.sem n cnt) →
      ∃ t, exec (.semGrant k n) s = .next t ∧ ((t.bank k).sem n).val = (b.sem n).val - cnt ∧ ((t.bank k).sem n).queue = rest ∧
        (∀ m, m ≠ n → (t.bank k).sem m = b.sem m) ∧ t.core k c = { r.advance 1 with run := .running } ∧ t = s.setBank k (t.bank k)) ∧
    (∀ (m : Nat) (rest : List CoreIx), m < 16 → (b.mutex m).owner = none → (b.mutex m).queue = c :: rest → r.run = .blocked (.mutex m) →
      ∃ t, exec (.mutexGrant k m) s = .next t ∧ (t.bank k).mutex m = ⟨some c, rest⟩ ∧
        (∀ j, j ≠ m → (t.bank k).mutex j = b.mutex j) ∧ t.core k c = { r.advance 1 with run := .running } ∧ t = s.setBank k (t.bank k)) ∧
    (∀ (ch : Nat) (n : Word), r.run = .blocked (.wp ch n) →
      (n.toNat ≤ (vget b.chans ch {}).wp → exec (.waitwpRelease k c) s = .next (s.retire k c 1)) ∧
      ((vget b.chans ch {}).st ≠ .open_ → (vget b.chans ch {}).wp < n.toNat →
        exec (.waitwpRelease k c) s = .next (s.takeTrap k c cCHANNEL (wNat ch)))) ∧
    (∀ e : EngIx, engineOf (s.cls k) k c = some e →
      (r.run = .blocked .drain → (b.engine e).entries = [] → (b.engine e).stop = none →
        exec (.eqdrainRelease k c) s = .next (s.retire k c 1)) ∧
      (r.run = .blocked .push → (b.engine e).entries.length < 16 →
        exec (.queuePushResume k c) s = .next (s.setCore k c { r with run := .running }))) ∧
    (∀ since changes fills : Nat, r.run = .blocked (.pause since changes fills) →
      (b.changes ≠ changes ∨ r.fills ≠ fills → exec (.pauseWake k c) s = .next (s.retire k c 1)) ∧
      (since + 1024 ≤ (s.cell k).cycle → exec (.pauseTimeout k c) s = .next (s.retire k c 1)))

/-- What happens to an engine's entries from outside: far ends, multicasts, self-tests, replays. -/
def Obligations.EngineEvents : Prop := FarEnds ∧ SelfTestsAndReplays

/-- A task of a single cell: with no record in the shadow bank its completion frees the cell; a record swaps in with each core's PC and X1 to X8
from it and zeros behind its image; a task that has ended by a fault leaves a fault record and its cores done; a settled victim is suspended
with its bank; a suspended task resumes with it; a killed task ends with TASK_KILLED (05 R98 to R101; 15 R286, R289, R298, R301), under
core E by the model's choice (log 50). -/
def Obligations.TaskEvents : Prop :=
  (∀ (s : State) (k : Nat) (t0 : Task), (s.cell k).shadow = none → (s.bank k).task = some t0 → (s.bank k).allDone = true →
    (s.bank k).ending = none → (s.bank k).pubs = [] → (s.cell k).posted = [] → ((s.bank k).final = true ∨ (s.bank k).dirty = []) →
    s.mem.wf = true →
    ∃ t, exec (.launchBankSwap k) s = .next t ∧ (t.bank k).task = none ∧ t.hbm = s.hbm ∧
      (∀ a, ¬ (bankBase k (s.cell k).active ≤ a ∧ a < bankBase k (s.cell k).active + 8 * t0.record.length) → t.mem.byte a = s.mem.byte a)) ∧
  (∀ (s : State) (k : Nat) (t0 : Task), (s.cell k).shadow = some t0 → t0.group k = [k] → s.swapReady k = true → s.mem.wf = true →
    ∃ t, exec (.launchBankSwap k) s = .next t ∧ (t.bank k).task = some { t0 with launch := s.sched.launches + 1 } ∧
      t.sched.launches = s.sched.launches + 1 ∧ (t.cell k).shadow = none ∧
      (t.cell k).active = !(s.cell k).active ∧
      (∀ o, (min (field (t0.word 2) 0 23) (s.padSize k) + 4095) / 4096 * 4096 ≤ o → o < s.padSize k → t.mem.byte (padBase k + o) = 0) ∧
      (∀ c : CoreIx,
        let r := t.core k c
        let w := (t.bank k).secWord c
        r.pc = (if bitOf (w 0) 63 then wNat (8 * field (w 0) 3 29) else 0) ∧
        r.run = (if bitOf (w 0) 63 then .running else .done) ∧
        ((s.cell k).suspended = [] → ∀ i, i < 32 → r.xreg i = ⟨if 1 ≤ i ∧ i ≤ 8 then wNat (w (5 + i)) else 0, false, .full⟩) ∧
        r.p = 0 ∧ r.status = 0 ∧ r.lc = 0 ∧ r.rbase = 0 ∧ r.epc = 0 ∧ r.cause = 0 ∧ r.tval = 0 ∧ r.h = false)) ∧
  (∀ (s : State) (k : Nat) (f : Ending), (s.bank k).ending = some f → (s.bank k).prim.entries = [] → (s.bank k).xfer.entries = [] →
    (s.cell k).posted = [] → (s.bank k).pubs = [] → ((s.bank k).final = true ∨ (s.bank k).dirty = []) → s.mem.wf = true →
    ∃ t, exec (.taskEndByFault k) s = .next t ∧ (t.bank k).ending = none ∧
      t.sched.faults = s.sched.faults ++ [⟨k, f.core, f.cause, f.epc, f.tval, f.eng⟩] ∧
      (∀ c, (s.core k c).run ≠ .absent → (t.core k c).run = .done) ∧
      (∀ a, (∀ t0, (s.bank k).task = some t0 →
        ¬ (bankBase k (s.cell k).active ≤ a ∧ a < bankBase k (s.cell k).active + 8 * t0.record.length)) → t.mem.byte a = s.mem.byte a)) ∧
  (∀ (s : State) (k : Nat) (t0 : Task), (s.bank k).task = some t0 → t0.group k = [k] → s.settledCell k = true →
    ∃ t x, exec (.preemptSwap k) s = .next t ∧ (t.cell k).suspended = (s.cell k).suspended ++ [x] ∧ x.bank = s.bank k ∧
      (t.cell k).preempt = false) ∧
  (∀ (s : State) (k : Nat) (x : Suspended) (t0 : Task), (s.cell k).suspended.getLast? = some x → x.bank.task = some t0 → x.bank.ending = none → t0.group k = [k] →
    s.swapReady k = true → (s.cell k).shadow = none → (∀ o ∈ x.later, ∀ e ∈ s.sched.nodes, e.2.order ≠ o) → x.bank.spill.taken = [] →
    ∃ t, exec (.taskResume k) s = .next t ∧ t.bank k = { x.bank with uid := max x.bank.uid (s.bank k).uid } ∧ (t.cell k).suspended = (s.cell k).suspended.dropLast) ∧
  (∀ (s : State) (k : Nat) (t0 : Task), (s.bank k).task = some t0 → t0.group k = [k] → t0.spec = false → (s.bank k).ending = none →
    ∃ t, exec (.taskKilled k) s = .next t ∧ (t.bank k).ending = some ⟨.e, 0x1F, 0, (s.core k .e).pc, 0⟩ ∧
      (∀ c, (s.core k c).run ≠ .absent → (t.core k c).run = .stopped) ∧ t = s.setBank k (t.bank k))

/-- The scheduler: the first submission of a submitter is rejected, or counts in its queue; the one queue of the highest level with a placeable
node has it placed; a node that is due retires, its successors losing it and being cancelled by a failing status; an EVENT node retires at
its count; a loop runs its body again or ends (13 R257, R262 to R264, R267). -/
def Obligations.SchedulerEvents : Prop :=
  (∀ (s : State) (i : Nat) (sub : Submission), s.sched.subs[i]? = some sub → s.serves = true →
    (∀ x ∈ s.sched.subs.take i, ¬ (x.host = sub.host ∧ (sub.host = true ∨ x.cell = sub.cell))) → sub.host = true →
    (s.parseNode sub = none → ∃ t, exec (.nodeAccept i) s = .next t ∧ t.sched.subs = s.sched.subs.eraseIdx i ∧
      t.host.replies = s.host.replies ++ [.mailbox 0x21 2 [0x1A]] ∧ t.sched.nodes = s.sched.nodes) ∧
    (∀ nd n, s.parseNode sub = some nd → s.freeNode = some n → s.flying.length < 8192 →
      (∀ q r, (s.fox q).run = some r → ∃ x, kget? s.sched.nodes r = some x ∧ x.spec = true) → (∀ e ∈ s.sched.nodes, e.2.order < s.sched.order) →
      ∃ t, exec (.nodeAccept i) s = .next t ∧ t.sched.subs = s.sched.subs.eraseIdx i ∧
        (∃ x, kget? t.sched.nodes n = some x ∧ x.record = nd.record ∧ x.q = nd.q ∧ x.seq = nd.seq) ∧
        (t.queue sub.q).nextseq = ((s.queue sub.q).nextseq + 1) % 4294967296)) ∧
  (∀ (s : State) (l q n : Nat) (nd : Node) (p : Placing), s.geode.hip = false → s.serves = true → l < 4 →
    (∀ m, m < l → s.levelQueues m = []) → s.levelQueues l = [(q, n, nd, p)] → (s.queue q).tickets = 0 →
    exec .schedulerDecision s = .next (s.place n nd p)) ∧
  (∀ (s : State) (n st : Nat) (nd : Node), kget? s.sched.nodes n = some nd → nd.cells = [] → s.dueStatus n nd = some st →
    exec (.nodeRetire n) s = .next (s.retireNode n nd st).settleAll ∧
    kget? (s.retireNode n nd st).sched.nodes n = none ∧
    (∀ m x, m ≠ n → kget? s.sched.nodes m = some x → ∃ y, kget? (s.retireNode n nd st).sched.nodes m = some y ∧
      y.pred = x.pred.filter (· != n) ∧ y.record = x.record ∧ y.st = x.st ∧
      (n ∈ x.pred → (x.st = .waiting ∨ x.st = .ready) → (st = 1 ∨ st = 2 ∨ st = 3 ∨ st = 5) → y.cancel.isSome = true))) ∧
  (∀ (s : State) (n : Nat) (nd : Node), kget? s.sched.nodes n = some nd → nd.kind = 6 → nd.st = .ready → nd.cancel = none → nd.spec = false →
    (s.eventCount nd + 4294967296 - NodeRec.value nd.record) % 4294967296 < 2147483648 →
    exec (.eventNodeSatisfied n) s = .next (s.retireNode n nd 0).settleAll) ∧
  (∀ (s : State) (n : Nat) (nd : Node), kget? s.sched.nodes n = some nd → nd.kind = 3 → nd.arm = some 1 → nd.cancel = none →
    NodeRec.body nd.record ≤ nd.gated → s.gatedOn n 1 = [] →
    let bodies := (s.sched.bodies.filter (fun e => e.1 == n)).map (·.2)
    (nd.iter + 1 < NodeRec.value nd.record → s.nodeWord nd ≠ 0 →
      (s.sched.nodes.length + bodies.length ≤ 8192 →
        let u := s.noteWord nd
        exec (.loopIteration n) s = .next ((bodies.mergeSort (fun a b => decide (a.order ≤ b.order))).foldl (fun u b => u.reaccept n b)
          (({ u with sched := { u.sched with bodies := u.sched.bodies.filter (fun e => e.1 != n) } } : State).modNode n
            (fun x => { x with iter := nd.iter + 1 }))).settleAll) ∧
      (8192 < s.sched.nodes.length + bodies.length → exec (.loopIteration n) s = .next s)) ∧
    (¬ (nd.iter + 1 < NodeRec.value nd.record ∧ s.nodeWord nd ≠ 0) →
      let u := if nd.iter + 1 < NodeRec.value nd.record then s.noteWord nd else s
      exec (.loopIteration n) s = .next ((u.modNode n (fun x => { x with
        iter := nd.iter + 1, arm := some 0, cancel := some 0 })).openGates n 0).settleAll))

/-! ## Events of the host link and the fabric (10 R201; 11 R225, R228, R229; 17 R317 to R333) -/

/-- Event records and interrupts, registers, windows and translations of the host link (10 R201; 17 R322 to R324, R326, R328). Where a
register stands, and that a ring's read index counts records, is the model's choice (log 59); the code of a dropped write's ring record is free
(log 60). -/
def Obligations.HostLinkEvents : Prop :=
  (∀ (s : State) (a : Nat) (r : WaitRec) (rest : List WaitRec), (s.asid a).waiting = r :: rest → (s.asid a).ringRoom = true → r.src = none →
    let x := s.asid a
    let i := x.ringWr % 2 ^ x.ringK
    ∃ t, exec (.eventRecordWrite a) s = .next t ∧ (t.asid a).waiting = rest ∧ (t.asid a).ringWr = x.ringWr + 1 ∧
      (t.asid a).pass = (if i + 1 = 2 ^ x.ringK then !x.pass else x.pass) ∧
      t.hostMem = s.hostMem.write (hostKey hostPlain (x.ringBase + 32 * i)) (recordBytes r.words x.pass) ∧ t.mem = s.mem) ∧
  (∀ (s : State) (v : Nat) (e : Instr),
    let m := s.msix v
    (e = .msixFirstTimer v ∧ 0 < m.pend ∧ m.first + 1000 * m.t ≤ s.time) ∨ (e = .msixIdleTimer v ∧ 0 < m.pend ∧ m.latest + 1000 * m.i ≤ s.time) ∨
      (e = .msixUnmask v ∧ m.held = true ∧ s.serves = true) →
    (m.masked = false ∨ e = .msixUnmask v → ∃ t, exec e s = .next t ∧ (t.msix v).pend = 0 ∧ (t.msix v).masked = false ∧
      t.host.sent = s.host.sent ++ [.msix v]) ∧
    (m.masked = true → e ≠ .msixUnmask v → ∃ t, exec e s = .next t ∧ (t.msix v).held = true ∧ (t.msix v).pend = m.pend ∧
      t.host.sent = s.host.sent)) ∧
  (∀ (s : State) (addr : Nat) (val : Word), s.serves = true →
    ∃ t, exec (.hostRegisterWrite addr val) s = .next t ∧ kget? t.host.bar0 addr = some val ∧
      (∀ a, Config.bar0 addr = .ringRead a → (s.asid a).ringRd ≤ val.toNat → val.toNat ≤ (s.asid a).ringWr → (t.asid a).ringRd = val.toNat) ∧
      (∀ v, Config.bar0 addr = .count v → (t.msix v).n = if 1 ≤ val.toNat ∧ val.toNat ≤ 256 then val.toNat else (s.msix v).n) ∧
      (∀ v, Config.bar0 addr = .time v → (t.msix v).t = if 1 ≤ val.toNat ∧ val.toNat ≤ 256 then val.toNat else (s.msix v).t) ∧
      (∀ v, Config.bar0 addr = .idle v → (t.msix v).i = if 1 ≤ val.toNat ∧ val.toNat ≤ 256 then val.toNat else (s.msix v).i) ∧
      (∀ v, Config.bar0 addr = .mask v → (t.msix v).masked = decide (val.toNat % 2 = 1))) ∧
  (∀ (s : State) (w off len : Nat) (data : List Byte), s.serves = true →
    (s.windowAt w off len 0 = none → exec (.hostWindowRead w off len) s = .next (s.reply (.window false [] false))) ∧
    (∀ m o, s.windowAt w off len 0 = some (m, o) → ∃ t, exec (.hostWindowRead w off len) s = .next t ∧
      t.host.replies = s.host.replies ++ [.window true (s.homeWord m.handle o len).1 (s.homeWord m.handle o len).2] ∧ t.hbm = s.hbm) ∧
    (s.windowAt w off data.length 1 = none → ∃ t, exec (.hostWindowWrite w off data) s = .next t ∧
      t.host.replies = s.host.replies ++ [.dropped w off] ∧ t.host.writes = s.host.writes ∧ t.hbm = s.hbm ∧
      ∃ code, code < 0x8000 ∧ Logged s t Config.schedDie code) ∧
    (∀ m o, s.windowAt w off data.length 1 = some (m, o) → ∃ t, exec (.hostWindowWrite w off data) s = .next t ∧
      t.host.writes = s.host.writes ++ [(m.asid, bufKey m.handle o, data)] ∧ t.hbm = s.hbm)) ∧
  (∀ (s : State) (pasid page : Nat),
    (s.serves = true → ∃ t, exec (.atsInvalidation pasid page) s = .next t ∧ (∀ x ∈ t.host.trans, x.is pasid page = true → x.valid = false ∧ x.inval = true) ∧
      (s.pageLeased pasid page = true → t.host.sent = s.host.sent ++ [.atsRequest pasid page])) ∧
    (s.host.trans.any (fun t => t.is pasid page && t.inval) = true → s.pagePosted pasid page = false →
      ∃ t, exec (.atsInvalidationComplete pasid page) s = .next t ∧ t.host.replies = s.host.replies ++ [.atsDone pasid page] ∧
        (∀ x ∈ t.host.trans, x.is pasid page = true → x.valid = true ∧ x.inval = false)) ∧
    (s.serves = true → ∃ t, exec (.translationResponse pasid page true) s = .next t ∧ t.host.trans.any (fun x => x.is pasid page && x.valid) = true) ∧
    (s.serves = true → (pasid, page) ∉ s.host.pri → (pasid, page) ∉ s.host.priWait →
      ∃ t, exec (.translationResponse pasid page false) s = .next t ∧
        if s.host.pri.length < 512 then
          t.host.sent = s.host.sent ++ [.pageRequest pasid page] ∧ t.host.pri = s.host.pri ++ [(pasid, page)] ∧ t.host.priWait = s.host.priWait
        else t.host.sent = s.host.sent ∧ t.host.pri = s.host.pri ∧ t.host.priWait = s.host.priWait ++ [(pasid, page)]))

/-- Stream flits and Odsoga messages. -/
def Obligations.LinksAndMessages : Prop := StreamFlits ∧ FabricMessages

/-! ## Requests of the host (10 R194, R199; 13 R256, R281; 15 R303; 17 R324, R325, R331, R334; 18 R335) -/

/-- Requests for buffers and windows, for ASIDs and queues. -/
def Obligations.BufferAndAsidRequests : Prop := BufferRequests ∧ AsidRequests

/-- Remote handles: an export of a SHARED buffer within its image and the rights held; an import under a free index (17 R331). Dies leave and
return: a compute die drains and is offline when its cells are empty; a stack of which some buffers fit nowhere refuses without FORCE;
a buffer whose copy ends has the homes kept for it, and the copy of one under no lease begins (17 R334); VER is odd from then on
(05 R105). Descriptors, Foxglove and unknown codes (10 R195; 13 R281; 17 R325). The layout of some replies, a second export and an
import's rights are the model's choice (logs 56, 58). -/
def Obligations.DieAndReadRequests : Prop :=
  ∀ (s : State),
    let odd := if s.sched.discVer % 2 = 1 then s.sched.discVer else (s.sched.discVer + 1) % 4294967296;
    (s.AtDoorbell →
      (∀ a g h base limit (r : BitVec 5) (b : Buf), s.asidIs a g = true → s.buf? h = some b → b.shared = true → base ≤ limit → limit ≤ b.bytes →
        (r &&& rightsRWA &&& ~~~(s.held a h) = 0 → ∃ t, exec (.remoteExport a g h base limit r) s = .next t ∧ Answered s t 0x30 0 [] ∧
          t.fabric.exports = s.fabric.exports ++ [⟨h, base, limit, r⟩]) ∧
        (r &&& rightsRWA &&& ~~~(s.held a h) ≠ 0 → exec (.remoteExport a g h base limit r) s = .next (s.answerMail 0x30 (asidGen a g) 3 []))) ∧
      (∀ a g h base limit r, s.asidIs a g = true → s.buf? h = none →
        exec (.remoteExport a g h base limit r) s = .next (s.answerMail 0x30 (asidGen a g) 2 [])) ∧
      (∀ a g tgt m e base limit (r : BitVec 5) (d : List Word) (i : Nat), s.asidIs a g = true → s.freeIndex 1 0xEFFFFF = some i →
        ∃ t x, exec (.remoteImport a g tgt m e base limit r d) s = .next t ∧ Answered s t 0x31 0 [wNat (s.handleAt i)] ∧
          kget? t.fabric.remote (s.handleAt i) = some x ∧ x.target = tgt ∧ x.module = m ∧ x.epoch = e ∧ x.base = base ∧ x.limit = limit ∧
          x.rights = r ∧ (kget (0, 0) (t.asid a).holdings (s.handleAt i)).2 &&& r = r) ∧
      (∀ a g tgt m e base limit r d, s.asidIs a g = true → s.freeIndex 1 0xEFFFFF = none →
        ∃ t, exec (.remoteImport a g tgt m e base limit r d) s = .next t ∧ Answered s t 0x31 1 [] ∧ t.fabric = s.fabric) ∧
      (∀ d (f : Bool),
        let cls := Config.dieClass s.pop d;
        (cls = 0 ∨ cls = 5 ∨ cls = 6 ∨ 2 ≤ (s.die d).st → exec (.dieOffline d f) s = .next (s.answerMail 0x40 none 2 [])) ∧
        (1 ≤ cls → cls ≤ 4 → (s.die d).st < 2 → ∃ t, exec (.dieOffline d f) s = .next t ∧ Answered s t 0x40 0 [] ∧
          (t.die d).st = 1 ∧ (t.die d).avail = 0 ∧ t.sched.discVer = odd) ∧
        (cls = 7 → (s.die d).st < 2 →
          let u := (s.takeOff d 1).discUpdate;
          let stuck := (u.planMoves (d - 32) (u.buffersOn (d - 32))).2;
          (f = true ∨ stuck = [] → ∃ t, exec (.dieOffline d f) s = .next t ∧ Answered s t 0x40 0 [] ∧ (t.die d).st = 1) ∧
          (f = false → stuck ≠ [] → exec (.dieOffline d f) s = .next (s.answerMail 0x40 none 1 [])))) ∧
      (∀ d, (Config.dieClass s.pop d ≠ 0 → (s.die d).st = 2 → ∃ t, exec (.dieOnline d) s = .next t ∧ Answered s t 0x41 0 [] ∧ (t.die d).st = 0 ∧
          (t.die d).avail = s.availOf d ∧ t.sched.discVer = odd) ∧
        ((s.die d).st ≠ 2 → exec (.dieOnline d) s = .next (s.answerMail 0x41 none 2 []))) ∧
      (∀ a g h b, s.asidIs a g = true → s.buf? h = some b →
        exec (.readDesc (⟨a, g⟩, h)) s = .next (s.answerMail 0x50 (asidGen a g) 0 (b.words ++ [wNat b.arrive, b.arriveSrc]))) ∧
      (∀ a g h, s.asidIs a g = false ∨ s.buf? h = none → exec (.readDesc (⟨a, g⟩, h)) s = .next (s.answerMail 0x50 (asidGen a g) 2 [])) ∧
      (∀ q a g, s.asidIs a g = false ∨ 1024 ≤ q → exec (.foxRead q ⟨a, g⟩) s = .next (s.answerMail 0x51 (asidGen a g) 2 [])) ∧
      (∀ q a g, q < 1024 → s.asidIs a g = true → ∃ t ws, exec (.foxRead q ⟨a, g⟩) s = .next t ∧ Answered s t 0x51 0 ws ∧ ws.length = 313 ∧
        ws.drop 304 = (s.asid a).ctrs.toList.map wNat ++ [wNat (s.asid a).lastFault] ∧ (t.asid a).ctrs = Vector.replicate 8 0 ∧
        t.fox q = s.fox q) ∧
      (∀ c, c ∉ mailboxCodes → exec (.mailboxUnknownCode c) s = .next (s.answerMail c none 2 []))) ∧
    (∀ d, 1 ≤ Config.dieClass s.pop d → Config.dieClass s.pop d ≤ 4 → (s.die d).st = 1 →
      (∀ e ∈ s.cells, e.1 / 128 = d → isService e.1 = false → e.2.b.task = none ∧ e.2.shadow = none ∧ e.2.suspended = []) →
      ∃ t, exec (.dieOfflineComplete d) s = .next t ∧ (t.die d).st = 2 ∧ t.sched.discVer = odd) ∧
    (∀ d, Config.dieClass s.pop d = 7 →
      ((s.die d).st = 1 → s.buffersOn (d - 32) = [] → ∃ t, exec (.evacuationComplete d) s = .next t ∧ (t.die d).st = 2) ∧
      (∀ h b, s.buf? h = some b → b.homes.getLsbD (d - 32) = true → b.toHomes ≠ 0 → b.toHomes.getLsbD (d - 32) = false →
        (∀ e ∈ s.bufs, e.2.handle = h → e.2 = b) →
        ∃ t, exec (.evacuationComplete d) s = .next t ∧ t.hbm = s.hbm ∧
          (b.st = .evacuating → t.buf? h = some { b with homes := b.toHomes, toHomes := 0, st := .live }) ∧
          (b.st = .live → s.leased h = false → t.buf? h = some { b with st := .evacuating })))

/-! ## The Geode, resets and management (17 R327; 19 R341 to R343, R350, R351; 22 R374, R376, R378) -/

/-- The Geode answers SPDM requests: GET_MEASUREMENTS with the blocks of the indices asked for; the other supported codes each with its
response code, what follows being open (log 2), but for ALGORITHMS, which names ECDSA P-384 and SHA3-384 (log 86); an unsupported one with
ERROR, code 7. The framing is log 15's. A life-cycle move that is
signed by the right key takes effect, or is refused (17 R327; 19 R342, R350). -/
def Obligations.SpdmAndLifeCycle : Prop :=
  ∀ (s : State), s.geodeUp = true →
    (∀ p ∈ spdmTable, ∀ req : List Byte, ((req[1]?).getD 0).toNat = p.2 → ∃ t rest, exec (p.1 req) s = .next t ∧
      t.host.replies = s.host.replies ++ [.spdm (0x13 :: BitVec.ofNat 8 (p.2 - 0x80) :: rest)] ∧ t.geode = s.geode ∧ t.mem = s.mem) ∧
    (∀ req : List Byte, ((req[1]?).getD 0).toNat = 0xE3 → exec (.negotiateAlgorithms req) s = .next (s.reply (.spdm spdmAlgorithms))) ∧
    (∀ (req : List Byte) (is : List Nat), ((req[1]?).getD 0).toNat = 0xE0 → ∃ t rest n,
      let bs := s.geode.blocks is;
      exec (.getMeasurements req is) s = .next t ∧
      t.host.replies = s.host.replies ++
        [.spdm ([0x13, 0x60, n, 0, BitVec.ofNat 8 bs.length] ++ leBytes 3 bs.flatten.length ++ bs.flatten ++ rest)] ∧
      t.geode = s.geode) ∧
    (∀ req : List Byte, ((req[1]?).getD 0).toNat ∉ [0x81, 0x82, 0x83, 0x84, 0xE0, 0xE1, 0xE3] →
      exec (.spdmUnsupported req) s = .next (s.reply (.spdm [0x13, 0x7F, 7, BitVec.ofNat 8 ((req[1]?).getD 0).toNat]))) ∧
    (∀ (tgt : Life) (m sig key : List Byte),
      (s.geode.signer tgt = none → exec (.lifecycle tgt m sig key) s = .next (s.reply (.mgmt 2 []))) ∧
      (∀ who, s.geode.signer tgt = some who →
        let good := shake256 key 64 = Config.lifeKey who ∧ Config.lifeOrder (lifeCode s.geode.life) (lifeCode tgt) m = true ∧
          slhVerify m sig key = true;
        (¬ good → exec (.lifecycle tgt m sig key) s = .next (s.reply (.mgmt 2 []))) ∧
        (good → s.geode.life = .rma → tgt = .deployed → s.geode.theok = false → ∃ t, exec (.lifecycle tgt m sig key) s = .next t ∧
          t.geode = { s.geode with theok := true } ∧ t.host.replies = s.host.replies ++ [.mgmt 0 []]) ∧
        (good → ¬ (s.geode.life = .rma ∧ tgt = .deployed ∧ s.geode.theok = false) → ∃ t, exec (.lifecycle tgt m sig key) s = .next t ∧
          t.geode.life = tgt ∧ t.geode.key = s.geode.key ∧ t.geode.hoseq = s.geode.hoseq ∧ t.cells = [] ∧ t.hbm = [] ∧
          t.fabric.epoch = (s.fabric.epoch + 1) % 65536 ∧ t.host.replies = s.host.replies ++ [.mgmt 0 []] ∧
          (tgt = .decommissioned → t.geode.boot = .stuck))))

/-- The management commands and the resets. -/
def Obligations.ManagementAndResets : Prop := Management ∧ Resets

/-! ## Watchdogs, refresh, errors and limits (10 R206 to R208; 15 R291, R292; 17 R334; 19 R348, R349, R351 to R353; 22 R376, R377) -/

/-- A watchdog that expires restarts its die's firmware, rolls a pending hand-over back, or within 1 s of an earlier expiry fails the
die; 5 ms without a heartbeat after a commit roll it back, unless the scheduler die has failed. Refresh, its takeover and its return; a row at
its threshold: an alert, its neighbours refreshed, its bank held for 350 ns (10 R206, R207; 19 R348, R349). -/
def Obligations.WatchdogsAndRefresh : Prop :=
  ∀ (s : State),
    (∀ d, s.alive d = true → (s.die d).wdStart + 100000000 ≤ s.time →
      (∀ t0, (s.die d).wdLast = some t0 → s.time ≤ t0 + 1000000000 →
        ∃ t, exec (.watchdogExpiry d) s = .next t ∧ (t.die d).st = 3 ∧ (t.die d).frozen = true) ∧
      ((∀ t0, (s.die d).wdLast = some t0 → t0 + 1000000000 < s.time) →
        (d ≠ Config.schedDie ∨ s.geode.pending = false → ∃ t, exec (.watchdogExpiry d) s = .next t ∧ Logged s t d 0x0001 ∧
          (t.die d).wdStart = s.time ∧ (t.die d).wdLast = some s.time ∧
          (let r := t.core (svc d) .x;
            r.run = .running ∧ r.pc = wNat (s.fwEntry d) ∧ (r.xreg 2).val = 3 ∧ r.status = 0) ∧ t.geode = s.geode ∧ t.mem = s.mem) ∧
        (d = Config.schedDie → s.geode.pending = true → ∃ t, exec (.watchdogExpiry d) s = .next t ∧ RolledBack s t))) ∧
    (∀ t0, s.geode.beat = some t0 → s.geode.pending = true →
      (s.alive Config.schedDie = false → exec .heartbeatTimeout s = .next s) ∧
      (s.alive Config.schedDie = true → t0 + 5000000 ≤ s.time → ∃ t, exec .heartbeatTimeout s = .next t ∧ RolledBack s t ∧ Logged s t Config.schedDie 0x0003) ∧
      (s.time < t0 + 5000000 → exec .heartbeatTimeout s = .next s)) ∧
    (∀ st, s.stackUp st = true →
      let x := s.stack st;
      (x.lastBeat + 3900 ≤ s.time → ∃ t, exec (.refreshInterval st) s = .next t ∧ (t.stack st).refreshes = x.refreshes + 1 ∧
        (t.stack st).lastBeat = s.time ∧ (t.stack st).lastRef = s.time ∧
        (t.stack st).acts = x.acts.filter (fun e => !Config.refreshes st x.refreshes e.1) ∧
        (t.stack st).takeover = (x.takeover && !(decide (s.time < x.lastBeat + 7800) && decide (1 ≤ x.beats))) ∧
        (∀ j, j ≠ st → t.stack j = s.stack j) ∧
        ((t.stack st).takeover ≠ x.takeover → Logged s t st 0x0021)) ∧
      (x.takeover = false → x.lastBeat + 7800 ≤ s.time → ∃ t, exec (.refreshTakeover st) s = .next t ∧ (t.stack st).takeover = true ∧
        (t.stack st).beats = 0 ∧ (t.stack st).refreshes = x.refreshes + 1 ∧ Logged s t st 0x0020) ∧
      (x.takeover = true → x.lastRef + 2600 ≤ s.time → ∃ t, exec (.refreshTakeover st) s = .next t ∧ t.stack st = x.refresh st s.time) ∧
      (∀ bank row, row < 1048576 → x.mth ≤ kget 0 x.acts (bank * 1048576 + row) →
        ∃ t, exec (.rowActivationThreshold st bank row) s = .next t ∧ (t.stack st).alerts = x.alerts + 1 ∧
          kget? (t.stack st).holds bank = some (s.time + 350) ∧
          (∀ r, r < 1048576 → kget 0 (t.stack st).acts (bank * 1048576 + r) =
            if r ≤ row + 2 ∧ row ≤ r + 2 then 0 else kget 0 x.acts (bank * 1048576 + r)) ∧
          (∀ b r, b ≠ bank → r < 1048576 → kget 0 (t.stack st).acts (b * 1048576 + r) = kget 0 x.acts (b * 1048576 + r)))) ∧
    (∀ st bank t0, kget? (s.stack st).holds bank = some t0 →
      (t0 ≤ s.time → ∃ t, exec (.rfmHoldEnd st bank) s = .next t ∧ kget? (t.stack st).holds bank = none) ∧
      (s.time < t0 → exec (.rfmHoldEnd st bank) s = .next s))

/-- Errors of units, and the limits of dies and islands. -/
def Obligations.ErrorsAndLimits : Prop := Errors ∧ Limits

/-! ## The machine as a whole (02 R20, R26, R31 to R33; 03 R35 to R52; 19 R341, R343) -/

/-- An instruction whose stage predicate is false, or whose guard is false, is passed over, whatever its fields. The guard of a vector or matrix
instruction is no predicate of the core but masks elements or rows: there only the stage counts. MLOOP passes over its body instead
(stated in ModuloLoops) (02 R20, R26; 03 R35 to R37). -/
def Obligations.DisabledOnlyRetires : Prop :=
  ∀ (i : Instr) (s : State), i.wf = true → encode i ≠ [] → (∀ f, i ≠ .mloop f) →
    let w := (encode i).headD 0;
    s.fcore.stageOn = false ∨ (s.fcore.guard (rawG w) = false ∧ ¬ (0x80 ≤ opcOf w ∧ opcOf w < 0x140)) →
    exec i s = .next (s.squash s.fk s.fc (encode i).length)

/-- The step fetches the words at the program counter, decodes them and runs the instruction that they encode: in focus, or as the first move of the
agenda; a word that is no instruction of the core raises ILLEGAL, or RESERVED_FIELD, with the word. An event's move runs the event, unless a
suspended task's entries still use the sync bank it needs (15 R299) or a trip holds the module (22 R377). Before it an update of the discovery table under way may be published
(05 R105); the first instruction of a round opens it (16 R311); after it waits that are due are granted, touched granules claimed and windows note
stores, which does nothing where nothing waits, no task is suspended, no window of KIND 1 or 3 is bound and no window of a speculative run has shown
a buffer (02 R28, R31 to R33; 03 R34, R50; 04 R76; log 1). -/
def Obligations.StepRunsDecoded : Prop :=
  (∀ (s : State) (k : Nat) (c : CoreIx) (rest : List Move),
    (s.agenda = [] ∧ rest = [] ∧ s.focus = ⟨k, c⟩) ∨ s.agenda = .issue k c :: rest →
    let u : State := { s.discSettle with agenda := rest, focus := ⟨k, c⟩ };
    u.cellExists k = true → (u.cell k).preempt = false → (u.cell k).claims = false → (u.core k c).run = .running →
    let pc := (u.core k c).pc.toNat;
    let word := fun o => leNat (u.see (padBase k + o) 8);
    let two := isTwo (opcOf (word pc));
    pc + (if two then 16 else 8) ≤ u.padSize k →
    (∀ o, (o = pc ∨ (two = true ∧ o = pc + 8)) → (u.cell k).imem.read (padBase k + o) 8 = u.see (padBase k + o) 8) →
    (opcOf (word pc) = 0x051 → ∃ r, u.scanBody k pc (field (word pc) 23 6 + 1) 8 = (u, .ok r)) →
    let got := decode c (u.cls k) (word pc) (if two then word (pc + 8) else 0);
    (∀ i, got = .ok i → step s = settle (exec i (u.openRound k c))) ∧
    (got = .error .illegal → step s = settle (.next (u.stopped k c (.trap cILLEGAL (wNat (word pc)))))) ∧
    (∀ j, got = .error (.reserved j) →
      step s = settle (.next (u.stopped k c (.trap cRESERVED (wNat (word (if j = 0 then pc else pc + 8)))))))) ∧
  (∀ (s : State) (e : Instr) (rest : List Move), s.agenda = .event e :: rest → encode e = [] →
    let u : State := { s.discSettle with agenda := rest };
    step s = settle (if u.eventWaits e then .next u else exec e (u.beforeEvent e))) ∧
  (∀ s : State, (∀ x ∈ s.cells, x.2.b.waiters = 0 ∧ x.2.claims = false ∧ x.2.b.watches = false) → settle (.next s) = .next s) ∧
  (∀ (s : State) (k : Nat) (c : CoreIx), (s.core k c).loop = none → s.openRound k c = s) ∧
  (∀ s : State, (∃ n v, s.discSettle = { s with free := n, sched := { s.sched with discVer := v } }) ∧
    (s.sched.discVer % 2 = 0 → s.discSettle = s))

/-- Words that the spec writes out, one or more of each format, decode to the instructions that it gives for them, or are refused as it says
(01; 03 Worked encodings; 08; 09; 11; 15; 16). -/
def Obligations.DecodedWords : Prop :=
  let on : Guard := ⟨0xFF, 0, 0, 0⟩;
  let noq : Eng := ⟨0, 0, 0, 0⟩;
  decode .x 1 0xFF00001A31800001 0 = .ok (.add ⟨on, 3, 3, false, .imm 1⟩) ∧
  decode .e 1 0xFF00001821030000 0 = .ok (.add ⟨on, 2, 2, false, .reg 3 false 0⟩) ∧
  decode .v 1 0xFF00000C20000006 0 = .ok (.mov ⟨on, 2, 0, false, .win 0 3⟩) ∧
  decode .x 1 0x3013001A63000001 0 = .ok (.add ⟨⟨0x30, 1, 3, 0⟩, 6, 6, false, .imm 1⟩) ∧
  decode .x 1 0xFF00014024011000 0 = .ok (.cmpLt ⟨on, 1, 2, 0, 1, false, .reg 2 false⟩) ∧
  decode .x 1 0xFF0002390DA00008 0 = .ok (.ld ⟨on, 4, 3, 3, 1, false, 8⟩) ∧
  decode .x 1 0xFF0002687FFFFFFE 0 = .ok (.br ⟨on, 0x7FFFFFFE⟩) ∧
  decode .v 1 0xFF00028849A60000 0 = .ok (.mloop ⟨on, 1, false, 19, 19⟩) ∧
  decode .v 1 0xFF00043880841800 0 = .ok (.vfma ⟨on, 4, 1, 2, 3, 0, false, false, false, 0⟩) ∧
  decode .e 1 0x3023085140800000 0x1898038380000000 = .ok (.tstore ⟨0x30, 2, 3, 0⟩ ⟨3, 1, 6, 0⟩ 1 4 1 0 ⟨7, 7⟩) ∧
  decode .e 1 0xFF00081823145200 0x0000000001F05000 =
    .ok (.mmaq ⟨on, 0, 2, 3, 2, 17, false, true, false, false, true, noq, 0, 0, 31, 0, 5, 0, 0⟩) ∧
  decode .e 2 0xFF000A0A2B040000 0x00000001C0000000 = .ok (.spmmz ⟨on, 4, 5, 6, 1, false, false, 0, 0, noq, 7⟩) ∧
  decode .e 4 0xFF000B1902285800 0x0000000140008000 = .ok (.topkv ⟨on, 2, 0, 4, 5, 1, false, true, true, noq, 5, 2, 0, 0⟩) ∧
  decode .x 1 0xFF000C0210000000 0x00000003FF000000 =
    .ok (.xcopy ⟨on, 4, 2, 0, 0, 0, false, 0, 0, 0, false, false, noq, 1023, 0, 0⟩) ∧
  decode .x 1 0xFF000C8108A08000 0 = .ok (.amoadd ⟨on, 4, 2, 5, 0, true, false, noq⟩) ∧
  decode .x 1 0xFF000E0000000007 0 = .ok (.trap ⟨on, 0, 0, 0, 7⟩) ∧
  decode .x 1 0 0 = .ok (.nop ⟨⟨0, 0, 0, 0⟩, 0, 0, false, .reg 0 false 0⟩) ∧
  decode .x 1 0xFF00032000000000 0 = .error .illegal ∧
  decode .x 1 0x0000014424011000 0 = .error (.reserved 0) ∧
  decode .x 1 0xFF00062820080001 0 = .error .illegal ∧
  decode .x 1 0xFF00002620000000 0 = .error (.reserved 0) ∧
  decode .x 1 0xFFFFFFFFFFFFFFFF 0 = .error .illegal

/-- Decode and encode agree: a well-formed instruction has one word, or two where its opcode is a queued engine's, of 64 bits each, and every core
that accepts its opcode decodes them to it, with every operand; what a core decodes is well formed, and its words are what encode gives. So
no bit is dropped and no two instructions share their words (03 R34, R40, R50 to R52). -/
def Obligations.DecodeEncode : Prop :=
  (∀ (i : Instr), i.wf = true → encode i ≠ [] →
    let w0 := (encode i).headD 0;
    (encode i).length = (if isTwo (field w0 35 9) then 2 else 1) ∧ (∀ w ∈ encode i, w < 2 ^ 64) ∧
    (∀ (c : CoreIx) (cls w : Nat), accepts c cls (field w0 35 9) = true → decode c cls w0 ((encode i)[1]?.getD w) = .ok i) ∧
    decodeTableWord (64 * (encode i).length) (w0 + 2 ^ 64 * (encode i)[1]?.getD 0) = some i) ∧
  (∀ (c : CoreIx) (cls w0 w1 : Nat) (i : Instr), w0 < 2 ^ 64 → w1 < 2 ^ 64 → decode c cls w0 w1 = .ok i →
    i.wf = true ∧ accepts c cls (field w0 35 9) = true ∧ (encode i)[0]? = some w0 ∧ (isTwo (field w0 35 9) = true → (encode i)[1]? = some w1)) ∧
  (∀ i j : Instr, i.wf = true → j.wf = true → encode i ≠ [] → encode i = encode j → i = j)

/-- Right after reset: every core and every cell held, every register, flag, semaphore and measurement register zero, every memory reading zero and
in canonical form, nothing allocated, submitted, mapped or held, the rings of all dies empty; the thresholds, timers and limits at
the values of 10 R207, 17 R328 and 22 R375, R376. Which die slots are populated, and the values that log entries 3 and 4 name, are the model's
choice. -/
def Obligations.ResetValues : Prop :=
  let s := State.reset;
  s.geode.boot = .held ∧ s.agenda = [] ∧ s.time = 0 ∧
  (∀ a, s.mem.byte a = 0 ∧ s.hbm.byte a = 0 ∧ s.hostMem.byte a = 0) ∧ s.mem.wf = true ∧ s.hbm.wf = true ∧ s.hostMem.wf = true ∧
  s.memBad = [] ∧ s.hbmBad = [] ∧ s.bufs = [] ∧
  (∀ (k : Nat) (c : CoreIx),
    let r := s.core k c;
    r.run = .held ∧ r.pc = 0 ∧ r.status = 0 ∧ r.p = 0 ∧ r.lc = 0 ∧ r.rbase = 0 ∧ r.epc = 0 ∧ r.cause = 0 ∧ r.tval = 0 ∧ r.spillptr = 0 ∧
      r.h = false ∧ r.loop = none ∧ r.held = none ∧ r.livep = 0 ∧ r.livek = 0 ∧ r.livev = 0 ∧ r.results = [] ∧
      (∀ j, r.xreg j = ⟨0, false, .full⟩) ∧ (∀ j, r.areg j = ⟨0, 0, 0, 0, 0, 0⟩) ∧ (∀ j, (vget r.win j {}).bound = false) ∧
      (let u := (s.bank k).unitOf c;
        (∀ j, vget u.tags j 0 = 0 ∧ vget u.gs j 0 = 0 ∧ vget u.k j 0 = 0 ∧ (vget u.ports j {}).status = 0 ∧ vget u.slots j {} = ⟨0, 0, false⟩) ∧
          u.side = [])) ∧
  (∀ k j, vget (s.bank k).mx.tags j 0 = 0 ∧ vget (s.bank k).mx.k j 0 = 0 ∧ vget (s.bank k).mx.arr j 0 = 0 ∧
    (s.bank k).mx.sticky = false ∧ (vget (s.bank k).chans j {}).st = .closed) ∧
  (∀ k n, ((s.bank k).sem n).val = 0 ∧ (s.bank k).mutex n = ⟨none, []⟩ ∧ (s.bank k).prim.entries = [] ∧ (s.bank k).xfer.entries = [] ∧
    (s.bank k).task = none) ∧
  (∀ i, i < 32 → vget s.geode.meas i [] = List.replicate 64 0) ∧ s.geode.hoseq = 0 ∧ s.geode.hip = false ∧
  (∀ q, (s.queue q).enable = false) ∧ (∀ a, (s.asid a).live = false) ∧ s.sched.nodes = [] ∧ s.sched.subs = [] ∧
  (∀ d, (s.die d).ring = [] ∧ (s.die d).frozen = false) ∧ (∀ st, (s.stack st).mth = 512) ∧
  (∀ v, (s.msix v).n = 32 ∧ (s.msix v).t = 64 ∧ (s.msix v).i = 16 ∧ (s.msix v).pend = 0) ∧
  (∀ i, (s.island i).flim = 700) ∧ s.power.plim = 5000

/-- The canonical form holds after reset, and every step keeps it, whatever it runs: equal contents of a memory are equal data. -/
def Obligations.StepKeepsCanonical : Prop :=
  State.reset.Canonical ∧ ∀ s t : State, s.Canonical → step s = .next t → t.Canonical

/-- No step stops: every state has a next one, since every trap of the spec is a state that the module goes on from (15 R287). -/
def Obligations.NoStepStops : Prop := (∀ s : State, ∃ t, step s = .next t) ∧ ∀ s : State, Safe s
end

