-- ==== Sys2Proof/Laws/Store.lean ====
section
/-! SUPPORT. Finite maps and byte memories: what a lookup gives after each operation, and that each keeps the canonical form. -/

namespace Sys2Proof.Machine

/-! ## Maps -/

theorem kget?_kset {α : Type} (m : KMap α) (i j : Nat) (v : α) : kget? (kset m i v) j = if j = i then some v else kget? m j := by
  induction m with
  | nil => simp [kset, kget?, eq_comm]
  | cons e m ih =>
    obtain ⟨k, w⟩ := e
    simp only [kset]
    split
    · rename_i h; subst h
      by_cases hj : j = k
      · simp [kget?, hj]
      · simp [kget?, hj, Ne.symm hj]
    · split
      · by_cases hj : j = i
        · simp [kget?, hj]
        · simp [kget?, hj, Ne.symm hj]
      · rename_i h _
        by_cases hj : j = i
        · subst hj; simp [kget?, ih, h]
        · simp only [kget?, ih, hj, if_false]

theorem kget_kset {α : Type} (d : α) (m : KMap α) (i j : Nat) (v : α) :
    kget d (kset m i v) j = if j = i then v else kget d m j := by
  simp only [kget, kget?_kset]; split <;> simp

@[simp] theorem kget_kset_same {α : Type} (d : α) (m : KMap α) (i : Nat) (v : α) : kget d (kset m i v) i = v := by
  simp [kget_kset]

theorem kget_kset_other {α : Type} (d : α) (m : KMap α) {i j : Nat} (v : α) (h : j ≠ i) :
    kget d (kset m i v) j = kget d m j := by simp [kget_kset, h]

/-! ## Byte memories -/

/-- Addresses strictly rising. -/
def Rising (m : Mem) : Prop := m.Pairwise (fun e f => e.1 < f.1)

theorem Mem.wf_iff (m : Mem) : m.wf = true ↔ Rising m ∧ ∀ e ∈ m, e.2 ≠ 0 := by
  induction m with
  | nil => simp [Mem.wf, Rising]
  | cons e m ih =>
    obtain ⟨a, v⟩ := e
    cases m with
    | nil => simp [Mem.wf, Rising]
    | cons f m =>
      obtain ⟨b, w⟩ := f
      simp only [Mem.wf, Bool.and_eq_true, bne_iff_ne, decide_eq_true_eq, ih, Rising, List.pairwise_cons, List.mem_cons,
        forall_eq_or_imp]
      constructor
      · rintro ⟨⟨hv, hab⟩, ⟨h1, h2⟩, h3, h4⟩
        exact ⟨⟨⟨hab, fun e he => lt_trans hab (h1 e he)⟩, h1, h2⟩, hv, h3, h4⟩
      · rintro ⟨⟨⟨hab, _⟩, h1, h2⟩, hv, h3, h4⟩
        exact ⟨⟨hv, hab⟩, ⟨h1, h2⟩, h3, h4⟩

theorem Mem.wf_rising {m : Mem} (h : m.wf = true) : Rising m := ((Mem.wf_iff m).1 h).1

/-- A key that no entry has is not found. -/
theorem kget?_none {α : Type} {m : KMap α} {x : Nat} (h : ∀ e ∈ m, e.1 ≠ x) : kget? m x = none := by
  induction m with
  | nil => rfl
  | cons e m ih =>
    obtain ⟨k, v⟩ := e
    simp only [List.mem_cons, forall_eq_or_imp] at h
    simp [kget?, h.1, ih h.2]

theorem kget?_append {α : Type} (l m : KMap α) (x : Nat) : kget? (l ++ m) x = (kget? l x).or (kget? m x) := by
  induction l with
  | nil => simp [kget?]
  | cons e l ih =>
    obtain ⟨k, v⟩ := e
    simp only [List.cons_append, kget?]
    split <;> simp [ih]

theorem Mem.mem_below {m : Mem} {a : Nat} {e : Host.Cell} (h : e ∈ m.below a) : e ∈ m ∧ e.1 < a :=
  ⟨(List.takeWhile_sublist _).subset h, by simpa using List.mem_takeWhile_imp h⟩

theorem Mem.mem_above {m : Mem} (hm : Rising m) {a : Nat} {e : Host.Cell} (h : e ∈ m.above a) : e ∈ m ∧ a ≤ e.1 := by
  refine ⟨(List.dropWhile_sublist _).subset h, ?_⟩
  induction m with
  | nil => simp [Mem.above] at h
  | cons f m ih =>
    simp only [Mem.above, List.dropWhile_cons] at h
    split at h
    · exact ih (List.Pairwise.of_cons hm) h
    · rename_i hf
      simp only [decide_eq_true_eq, not_lt] at hf
      rcases List.mem_cons.1 h with rfl | h
      · exact hf
      · exact le_trans hf (le_of_lt (List.rel_of_pairwise_cons hm h))

theorem Mem.get_below {m : Mem} (a x : Nat) (hm : Rising m) : kget? (m.below a) x = if x < a then kget? m x else none := by
  split
  · rename_i hx
    induction m with
    | nil => rfl
    | cons f m ih =>
      obtain ⟨k, v⟩ := f
      simp only [Mem.below, List.takeWhile_cons]
      split
      · simp only [kget?]; split
        · rfl
        · exact ih (List.Pairwise.of_cons hm)
      · rename_i hk
        simp only [decide_eq_true_eq, not_lt] at hk
        have h1 : k ≠ x := by omega
        simp only [kget?, h1, if_false]
        exact (kget?_none (fun e he => by have := List.rel_of_pairwise_cons hm he; simp only at this; omega)).symm
  · rename_i hx
    exact kget?_none (fun e he => by have := (Mem.mem_below he).2; omega)

theorem Mem.get_above {m : Mem} (a x : Nat) (hm : Rising m) : kget? (m.above a) x = if a ≤ x then kget? m x else none := by
  split
  · rename_i hx
    induction m with
    | nil => rfl
    | cons f m ih =>
      obtain ⟨k, v⟩ := f
      simp only [Mem.above, List.dropWhile_cons]
      split
      · rename_i hk
        simp only [decide_eq_true_eq] at hk
        have h1 : k ≠ x := by omega
        simp only [kget?, h1, if_false]
        exact ih (List.Pairwise.of_cons hm)
      · rfl
  · rename_i hx
    exact kget?_none (fun e he => by have := (Mem.mem_above hm he).2; omega)

theorem mem_cellsOfBytes {a : Nat} {bs : List Byte} {e : Host.Cell} (h : e ∈ cellsOfBytes a bs) :
    a ≤ e.1 ∧ e.1 < a + bs.length ∧ e.2 ≠ 0 := by
  induction bs generalizing a with
  | nil => simp [cellsOfBytes] at h
  | cons b bs ih =>
    simp only [cellsOfBytes] at h
    simp only [List.length_cons]
    split at h
    · obtain ⟨h1, h2, h3⟩ := ih h
      exact ⟨by omega, by omega, h3⟩
    · rename_i hb
      rcases List.mem_cons.1 h with rfl | h
      · exact ⟨le_refl _, by simp, hb⟩
      · obtain ⟨h1, h2, h3⟩ := ih h
        exact ⟨by omega, by omega, h3⟩

theorem rising_cellsOfBytes (a : Nat) (bs : List Byte) : Rising (cellsOfBytes a bs) := by
  induction bs generalizing a with
  | nil => exact List.Pairwise.nil
  | cons b bs ih =>
    simp only [cellsOfBytes]
    split
    · exact ih _
    · refine List.Pairwise.cons (fun e he => ?_) (ih _)
      have := (mem_cellsOfBytes he).1
      simp only; omega

theorem byte_cellsOfBytes (a : Nat) (bs : List Byte) (x : Nat) :
    kget 0 (cellsOfBytes a bs) x = if a ≤ x then (bs[x - a]?).getD 0 else 0 := by
  induction bs generalizing a with
  | nil => simp [cellsOfBytes, kget, kget?]
  | cons b bs ih =>
    have hrest : x ≠ a → kget 0 (cellsOfBytes (a + 1) bs) x = if a ≤ x then ((b :: bs)[x - a]?).getD 0 else 0 := by
      intro hx
      rw [ih]
      by_cases hle : a ≤ x
      · have h1 : a + 1 ≤ x := by omega
        have h2 : x - a = x - (a + 1) + 1 := by omega
        simp only [h1, hle, if_true, h2, List.getElem?_cons_succ]
      · have h1 : ¬ a + 1 ≤ x := by omega
        simp [h1, hle]
    have hnone : kget? (cellsOfBytes (a + 1) bs) a = none :=
      kget?_none (fun e he => by have := (mem_cellsOfBytes he).1; omega)
    simp only [cellsOfBytes]
    by_cases hb : b = 0
    · simp only [hb, if_true]
      by_cases hx : x = a
      · subst hx; simp [kget, hnone]
      · rw [hrest hx, hb]
    · simp only [hb, if_false]
      by_cases hx : x = a
      · subst hx; simp [kget, kget?]
      · have : kget 0 ((a, b) :: cellsOfBytes (a + 1) bs) x = kget 0 (cellsOfBytes (a + 1) bs) x := by
          simp [kget, kget?, Ne.symm hx]
        rw [this, hrest hx]

/-- What a byte reads after consecutive bytes are written: the byte written there, else what it read before. -/
theorem Mem.byte_write {m : Mem} (hm : Rising m) (a : Nat) (bs : List Byte) (x : Nat) :
    (m.write a bs).byte x = if a ≤ x ∧ x < a + bs.length then (bs[x - a]?).getD 0 else m.byte x := by
  simp only [Mem.byte, Mem.write, kget, kget?_append, Mem.get_below a x hm, Mem.get_above (a + bs.length) x hm]
  have hc := byte_cellsOfBytes a bs x
  simp only [kget] at hc
  by_cases h1 : x < a
  · have h2 : ¬ a + bs.length ≤ x := by omega
    have h3 : ¬ (a ≤ x ∧ x < a + bs.length) := by omega
    have h4 : kget? (cellsOfBytes a bs) x = none := kget?_none (fun e he => by have := (mem_cellsOfBytes he).1; omega)
    simp [h1, h2, h3, h4]
  · by_cases h2 : a + bs.length ≤ x
    · have h3 : ¬ (a ≤ x ∧ x < a + bs.length) := by omega
      have h4 : kget? (cellsOfBytes a bs) x = none := kget?_none (fun e he => by have := (mem_cellsOfBytes he).2.1; omega)
      simp [h1, h2, h3, h4]
    · have h3 : a ≤ x ∧ x < a + bs.length := by omega
      have h4 : a ≤ x := h3.1
      rw [if_pos h4] at hc
      simp only [h1, h2, h3, if_false, if_true, and_self, Option.none_or, Option.or_none]
      exact hc

theorem Mem.byte_clear {m : Mem} (hm : Rising m) (a n x : Nat) :
    (m.clear a n).byte x = if a ≤ x ∧ x < a + n then 0 else m.byte x := by
  simp only [Mem.byte, Mem.clear, kget, kget?_append, Mem.get_below a x hm, Mem.get_above (a + n) x hm]
  by_cases h1 : x < a
  · have h2 : ¬ a + n ≤ x := by omega
    have h3 : ¬ (a ≤ x ∧ x < a + n) := by omega
    simp [h1, h2, h3]
  · by_cases h2 : a + n ≤ x
    · have h3 : ¬ (a ≤ x ∧ x < a + n) := by omega
      simp [h1, h2, h3]
    · have h3 : a ≤ x ∧ x < a + n := by omega
      simp [h1, h2, h3]

theorem takeBytes_eq (n a : Nat) (m : Mem) (hm : Rising m) (ha : ∀ e ∈ m, a ≤ e.1) :
    takeBytes n a m = (List.range n).map (fun i => m.byte (a + i)) := by
  induction n generalizing a m with
  | zero => rfl
  | succ n ih =>
    rw [List.range_succ_eq_map, List.map_cons, List.map_map]
    cases m with
    | nil =>
      simp only [takeBytes]
      rw [ih (a + 1) [] hm (by simp)]
      exact congrArg₂ _ rfl (List.map_congr_left (fun i _ => rfl))
    | cons e m =>
      obtain ⟨b, v⟩ := e
      have hb : a ≤ b := ha (b, v) (by simp)
      simp only [takeBytes]
      split
      · rename_i h; subst h
        rw [ih (b + 1) m (List.Pairwise.of_cons hm) (fun e he => List.rel_of_pairwise_cons hm he)]
        refine congrArg₂ _ (by simp [Mem.byte, kget, kget?]) (List.map_congr_left (fun i _ => ?_))
        have h2 : ¬ (b = b + (i + 1)) := by omega
        simp [Mem.byte, kget, kget?, add_assoc, add_comm 1 i]
      · rename_i h
        rw [ih (a + 1) ((b, v) :: m) hm (fun e he => by
          rcases List.mem_cons.1 he with rfl | he
          · simp only; omega
          · have := List.rel_of_pairwise_cons hm he; simp only at this; omega)]
        refine congrArg₂ _ ?_ (List.map_congr_left (fun i _ => by simp [add_assoc, add_comm 1 i]))
        rw [Mem.byte, kget, kget?_none (fun e he => ?_)]
        · rfl
        · rcases List.mem_cons.1 he with rfl | he
          · exact h
          · have := List.rel_of_pairwise_cons hm he; simp only at this; omega

/-- Reading n bytes reads each byte. -/
theorem Mem.read_eq {m : Mem} (hm : Rising m) (a n : Nat) : m.read a n = (List.range n).map (fun i => m.byte (a + i)) := by
  have hab : Rising (m.above a) := hm.sublist (List.dropWhile_sublist _)
  rw [Mem.read, takeBytes_eq n a _ hab (fun e he => (Mem.mem_above hm he).2)]
  refine List.map_congr_left (fun i _ => ?_)
  simp [Mem.byte, kget, Mem.get_above _ _ hm]

@[simp] theorem Mem.read_length (m : Mem) (a n : Nat) : (m.read a n).length = n := by
  have h : ∀ (n a : Nat) (m : Mem), (takeBytes n a m).length = n := by
    intro n
    induction n with
    | zero => intros; rfl
    | succ n ih =>
      intro a m
      cases m with
      | nil => simp [takeBytes, ih]
      | cons e m => obtain ⟨b, v⟩ := e; simp only [takeBytes]; split <;> simp [ih]
  exact h n a _

/-- Reading back what was written. -/
theorem Mem.read_write_same {m : Mem} (hm : Rising m) (h' : Rising (m.write a bs)) : (m.write a bs).read a bs.length = bs := by
  rw [Mem.read_eq h']
  refine List.ext_getElem (by simp) (fun i h1 h2 => ?_)
  simp only [List.getElem_map, List.getElem_range, Mem.byte_write hm]
  simp only [List.length_map, List.length_range] at h1
  have : a ≤ a + i ∧ a + i < a + bs.length := by omega
  simp [this, h1]

theorem Mem.wf_write {m : Mem} (h : m.wf = true) (a : Nat) (bs : List Byte) : (m.write a bs).wf = true := by
  obtain ⟨hr, hz⟩ := (Mem.wf_iff m).1 h
  refine (Mem.wf_iff _).2 ⟨?_, fun e he => ?_⟩
  · refine List.pairwise_append.2 ⟨List.pairwise_append.2 ⟨hr.sublist (List.takeWhile_sublist _), rising_cellsOfBytes _ _, ?_⟩,
      hr.sublist (List.dropWhile_sublist _), ?_⟩
    · intro e he f hf
      have := (Mem.mem_below he).2
      have := (mem_cellsOfBytes hf).1
      omega
    · intro e he f hf
      have hf' := (Mem.mem_above hr hf).2
      rcases List.mem_append.1 he with he | he
      · have := (Mem.mem_below he).2; omega
      · have := (mem_cellsOfBytes he).2.1; omega
  · rcases List.mem_append.1 he with he | he
    · rcases List.mem_append.1 he with he | he
      · exact hz e (Mem.mem_below he).1
      · exact (mem_cellsOfBytes he).2.2
    · exact hz e (Mem.mem_above hr he).1

theorem Mem.wf_clear {m : Mem} (h : m.wf = true) (a n : Nat) : (m.clear a n).wf = true := by
  obtain ⟨hr, hz⟩ := (Mem.wf_iff m).1 h
  refine (Mem.wf_iff _).2 ⟨List.pairwise_append.2 ⟨hr.sublist (List.takeWhile_sublist _), hr.sublist (List.dropWhile_sublist _), ?_⟩,
    fun e he => ?_⟩
  · intro e he f hf
    have := (Mem.mem_below he).2
    have := (Mem.mem_above hr hf).2
    omega
  · rcases List.mem_append.1 he with he | he
    · exact hz e (Mem.mem_below he).1
    · exact hz e (Mem.mem_above hr he).1

theorem Mem.wf_merge {m : Mem} (h : m.wf = true) (a : Nat) (ws : List WByte) : (m.merge a ws).wf = true := Mem.wf_write h _ _

theorem Mem.wf_part {m : Mem} (h : m.wf = true) (a n : Nat) : (m.part a n).wf = true := by
  obtain ⟨hr, hz⟩ := (Mem.wf_iff m).1 h
  have hs : (m.part a n).Sublist m := (List.takeWhile_sublist _).trans (List.dropWhile_sublist _)
  exact (Mem.wf_iff _).2 ⟨hr.sublist hs, fun e he => hz e (hs.subset he)⟩

/-- Putting back a part of canonical entries of the same range. -/
theorem Mem.wf_putPart {m p : Mem} (h : m.wf = true) (hp : p.wf = true) (a n : Nat)
    (hin : ∀ e ∈ p, a ≤ e.1 ∧ e.1 < a + n) : (m.putPart a n p).wf = true := by
  obtain ⟨hr, hz⟩ := (Mem.wf_iff m).1 h
  obtain ⟨pr, pz⟩ := (Mem.wf_iff p).1 hp
  refine (Mem.wf_iff _).2 ⟨?_, fun e he => ?_⟩
  · refine List.pairwise_append.2 ⟨List.pairwise_append.2 ⟨hr.sublist (List.takeWhile_sublist _), pr, ?_⟩,
      hr.sublist (List.dropWhile_sublist _), ?_⟩
    · intro e he f hf
      have := (Mem.mem_below he).2
      have := (hin f hf).1
      omega
    · intro e he f hf
      have hf' := (Mem.mem_above hr hf).2
      rcases List.mem_append.1 he with he | he
      · have := (Mem.mem_below he).2; omega
      · have := (hin e he).2; omega
  · rcases List.mem_append.1 he with he | he
    · rcases List.mem_append.1 he with he | he
      · exact hz e (Mem.mem_below he).1
      · exact pz e he
    · exact hz e (Mem.mem_above hr he).1

/-! ## Bytes and values -/

@[simp] theorem leBytes_length (n v : Nat) : (leBytes n v).length = n := by
  induction n generalizing v with
  | zero => rfl
  | succ n ih => simp [leBytes, ih]

theorem leNat_leBytes (n v : Nat) : leNat (leBytes n v) = v % 256 ^ n := by
  induction n generalizing v with
  | zero => simp [leBytes, leNat, Nat.mod_one]
  | succ n ih =>
    rw [leBytes, leNat, ih, BitVec.toNat_ofNat, show (2 : Nat) ^ 8 = 256 from rfl, pow_succ, Nat.mul_comm (256 ^ n) 256,
      Nat.mod_mul]

theorem leNat_lt (bs : List Byte) : leNat bs < 256 ^ bs.length := by
  induction bs with
  | nil => simp [leNat]
  | cons b bs ih =>
    simp only [leNat, List.length_cons, pow_succ]
    have := b.isLt
    omega

end Sys2Proof.Machine
end

