-- ==== Sys2Proof/Laws/State.lean ====
section
/-! SUPPORT. What each update of the state leaves in each field, and what a lookup of a cell, bank, core, register gives after it. -/

namespace Sys2Proof.Machine

/-! ## Lookups -/

theorem vget_vset {α : Type} {n : Nat} (v : Vector α n) (i j : Nat) (a d : α) :
    vget (vset v i a) j d = if i = j ∧ j < n then a else vget v j d := by
  simp only [vget, vset, Vector.getElem?_setIfInBounds]
  split
  · rename_i h; subst h; split <;> simp_all
  · rename_i h; simp [h]

theorem State.cell_setCell (s : State) (k j : Nat) (c : Cell) : (s.setCell k c).cell j = if j = k then c else s.cell j := by
  simp [State.cell, State.setCell, kget_kset]

@[simp] theorem State.cell_setCell_same (s : State) (k : Nat) (c : Cell) : (s.setCell k c).cell k = c := by simp [State.cell_setCell]

theorem State.cell_modCell (s : State) (k j : Nat) (f : Cell → Cell) :
    (s.modCell k f).cell j = if j = k then f (s.cell k) else s.cell j := by simp [State.modCell, State.cell_setCell]

theorem State.bank_setBank (s : State) (k j : Nat) (b : Bank) : (s.setBank k b).bank j = if j = k then b else s.bank j := by
  simp only [State.bank, State.setBank, State.cell_modCell]; split <;> rfl

@[simp] theorem State.bank_setBank_same (s : State) (k : Nat) (b : Bank) : (s.setBank k b).bank k = b := by
  simp [State.bank_setBank]

theorem State.bank_modBank (s : State) (k j : Nat) (f : Bank → Bank) :
    (s.modBank k f).bank j = if j = k then f (s.bank k) else s.bank j := by simp [State.modBank, State.bank_setBank]

@[simp] theorem Bank.core_setCore_same (b : Bank) (c : CoreIx) (r : Core) : (b.setCore c r).core c = r := by cases c <;> rfl

theorem Bank.core_setCore (b : Bank) (c d : CoreIx) (r : Core) : (b.setCore c r).core d = if d = c then r else b.core d := by
  cases c <;> cases d <;> rfl

@[simp] theorem State.core_setCore_same (s : State) (k : Nat) (c : CoreIx) (r : Core) : (s.setCore k c r).core k c = r := by
  simp [State.core, State.setCore]

theorem State.core_setCore (s : State) (k j : Nat) (c d : CoreIx) (r : Core) :
    (s.setCore k c r).core j d = if j = k ∧ d = c then r else s.core j d := by
  simp only [State.core, State.setCore, State.bank_setBank]
  by_cases hj : j = k
  · subst hj; simp [Bank.core_setCore]
  · simp [hj]

@[simp] theorem State.core_modCore_same (s : State) (k : Nat) (c : CoreIx) (f : Core → Core) :
    (s.modCore k c f).core k c = f (s.core k c) := by simp [State.modCore]

@[simp] theorem State.fcore_putCore (s : State) (r : Core) : (s.putCore r).fcore = r := by
  simp only [State.fcore, State.putCore, State.fk, State.fc]
  exact State.core_setCore_same s s.focus.k s.focus.c r

/-- A core's write leaves the other cells. -/
theorem State.cell_setCore_other (s : State) (k j : Nat) (c : CoreIx) (r : Core) (h : j ≠ k) : (s.setCore k c r).cell j = s.cell j := by
  simp [State.setCore, State.setBank, State.cell_modCell, h]

/-! ## Cells and banks keep what a core's write does not name -/

@[simp] theorem Bank.setCore_task (b : Bank) (c : CoreIx) (r : Core) : (b.setCore c r).task = b.task := by cases c <;> rfl
@[simp] theorem Bank.setCore_sems (b : Bank) (c : CoreIx) (r : Core) : (b.setCore c r).sems = b.sems := by cases c <;> rfl
@[simp] theorem Bank.setCore_mutexes (b : Bank) (c : CoreIx) (r : Core) : (b.setCore c r).mutexes = b.mutexes := by cases c <;> rfl
@[simp] theorem Bank.setCore_prim (b : Bank) (c : CoreIx) (r : Core) : (b.setCore c r).prim = b.prim := by cases c <;> rfl
@[simp] theorem Bank.setCore_xfer (b : Bank) (c : CoreIx) (r : Core) : (b.setCore c r).xfer = b.xfer := by cases c <;> rfl
@[simp] theorem Bank.setCore_vu (b : Bank) (c : CoreIx) (r : Core) : (b.setCore c r).vu = b.vu := by cases c <;> rfl
@[simp] theorem Bank.setCore_vu2 (b : Bank) (c : CoreIx) (r : Core) : (b.setCore c r).vu2 = b.vu2 := by cases c <;> rfl
@[simp] theorem Bank.setCore_mx (b : Bank) (c : CoreIx) (r : Core) : (b.setCore c r).mx = b.mx := by cases c <;> rfl

/-! ## Registers of a core -/

@[simp] theorem Core.putX_a (r : Core) (i : Nat) (v : Word) (p : Bool) : (r.putX i v p).a = r.a := rfl
@[simp] theorem Core.putX_p (r : Core) (i : Nat) (v : Word) (p : Bool) : (r.putX i v p).p = r.p := rfl
@[simp] theorem Core.putX_status (r : Core) (i : Nat) (v : Word) (p : Bool) : (r.putX i v p).status = r.status := rfl
@[simp] theorem Core.putX_pc (r : Core) (i : Nat) (v : Word) (p : Bool) : (r.putX i v p).pc = r.pc := rfl
@[simp] theorem Core.putX_rbase (r : Core) (i : Nat) (v : Word) (p : Bool) : (r.putX i v p).rbase = r.rbase := rfl
@[simp] theorem Core.putX_win (r : Core) (i : Nat) (v : Word) (p : Bool) : (r.putX i v p).win = r.win := rfl
@[simp] theorem Core.putX_wcount (r : Core) (i : Nat) (v : Word) (p : Bool) : (r.putX i v p).wcount = r.wcount := rfl
@[simp] theorem Core.putX_wcur (r : Core) (i : Nat) (v : Word) (p : Bool) : (r.putX i v p).wcur = r.wcur := rfl
@[simp] theorem Core.putX_loop (r : Core) (i : Nat) (v : Word) (p : Bool) : (r.putX i v p).loop = r.loop := rfl

theorem Core.xreg_putX (r : Core) (i j : Nat) (v : Word) (p : Bool) :
    (r.putX i v p).xreg j = if i = j ∧ j < 32 then ⟨v, p, .full⟩ else r.xreg j := by
  simp [Core.xreg, Core.putX, vget_vset]

@[simp] theorem Core.flag_x (r : Core) (fl : Flags) : (r.flag fl).x = r.x := rfl
@[simp] theorem Core.flag_pc (r : Core) (fl : Flags) : (r.flag fl).pc = r.pc := rfl
@[simp] theorem Core.flag_p (r : Core) (fl : Flags) : (r.flag fl).p = r.p := rfl
@[simp] theorem Core.flag_a (r : Core) (fl : Flags) : (r.flag fl).a = r.a := rfl
@[simp] theorem Core.setPred_x (r : Core) (i : Nat) (b : Bool) : (r.setPred i b).x = r.x := by
  unfold Core.setPred; split <;> rfl
@[simp] theorem Core.setPred_a (r : Core) (i : Nat) (b : Bool) : (r.setPred i b).a = r.a := by
  unfold Core.setPred; split <;> rfl
@[simp] theorem Core.setPred_status (r : Core) (i : Nat) (b : Bool) : (r.setPred i b).status = r.status := by
  unfold Core.setPred; split <;> rfl
@[simp] theorem Core.setA_x (r : Core) (i : BitVec 4) (a : AReg) : (r.setA i a).x = r.x := rfl
@[simp] theorem Core.setA_p (r : Core) (i : BitVec 4) (a : AReg) : (r.setA i a).p = r.p := rfl
@[simp] theorem Core.setA_status (r : Core) (i : BitVec 4) (a : AReg) : (r.setA i a).status = r.status := rfl

theorem rot_lt (f n : Nat) (rb : Word) (j : Nat) (hn : 0 < n) (hj : j < f + n) : rot f n rb j < f + n := by
  unfold rot; split
  · omega
  · have := Nat.mod_lt (j - f + rb.toNat) hn; omega

theorem Core.px_lt (r : Core) (j : BitVec 5) : r.px j.toNat < 32 := rot_lt 24 8 _ _ (by decide) j.isLt

/-! ## Fields of the state -/

/-! ## setCell -/

@[simp] theorem State.setCell_agenda (s : State) (k : Nat) (c : Cell) : (s.setCell k c).agenda = s.agenda := rfl
@[simp] theorem State.setCell_focus (s : State) (k : Nat) (c : Cell) : (s.setCell k c).focus = s.focus := rfl
@[simp] theorem State.setCell_free (s : State) (k : Nat) (c : Cell) : (s.setCell k c).free = s.free := rfl
@[simp] theorem State.setCell_pop (s : State) (k : Nat) (c : Cell) : (s.setCell k c).pop = s.pop := rfl
@[simp] theorem State.setCell_time (s : State) (k : Nat) (c : Cell) : (s.setCell k c).time = s.time := rfl
@[simp] theorem State.setCell_mem (s : State) (k : Nat) (c : Cell) : (s.setCell k c).mem = s.mem := rfl
@[simp] theorem State.setCell_memBad (s : State) (k : Nat) (c : Cell) : (s.setCell k c).memBad = s.memBad := rfl
@[simp] theorem State.setCell_hbm (s : State) (k : Nat) (c : Cell) : (s.setCell k c).hbm = s.hbm := rfl
@[simp] theorem State.setCell_hbmBad (s : State) (k : Nat) (c : Cell) : (s.setCell k c).hbmBad = s.hbmBad := rfl
@[simp] theorem State.setCell_hostMem (s : State) (k : Nat) (c : Cell) : (s.setCell k c).hostMem = s.hostMem := rfl
@[simp] theorem State.setCell_bufs (s : State) (k : Nat) (c : Cell) : (s.setCell k c).bufs = s.bufs := rfl
@[simp] theorem State.setCell_genOf (s : State) (k : Nat) (c : Cell) : (s.setCell k c).genOf = s.genOf := rfl
@[simp] theorem State.setCell_hbmStacks (s : State) (k : Nat) (c : Cell) : (s.setCell k c).hbmStacks = s.hbmStacks := rfl
@[simp] theorem State.setCell_dies (s : State) (k : Nat) (c : Cell) : (s.setCell k c).dies = s.dies := rfl
@[simp] theorem State.setCell_sched (s : State) (k : Nat) (c : Cell) : (s.setCell k c).sched = s.sched := rfl
@[simp] theorem State.setCell_geode (s : State) (k : Nat) (c : Cell) : (s.setCell k c).geode = s.geode := rfl
@[simp] theorem State.setCell_flash (s : State) (k : Nat) (c : Cell) : (s.setCell k c).flash = s.flash := rfl
@[simp] theorem State.setCell_fabric (s : State) (k : Nat) (c : Cell) : (s.setCell k c).fabric = s.fabric := rfl
@[simp] theorem State.setCell_host (s : State) (k : Nat) (c : Cell) : (s.setCell k c).host = s.host := rfl
@[simp] theorem State.setCell_power (s : State) (k : Nat) (c : Cell) : (s.setCell k c).power = s.power := rfl

/-! ## modCell -/

@[simp] theorem State.modCell_agenda (s : State) (k : Nat) (f : Cell → Cell) : (s.modCell k f).agenda = s.agenda := rfl
@[simp] theorem State.modCell_focus (s : State) (k : Nat) (f : Cell → Cell) : (s.modCell k f).focus = s.focus := rfl
@[simp] theorem State.modCell_free (s : State) (k : Nat) (f : Cell → Cell) : (s.modCell k f).free = s.free := rfl
@[simp] theorem State.modCell_pop (s : State) (k : Nat) (f : Cell → Cell) : (s.modCell k f).pop = s.pop := rfl
@[simp] theorem State.modCell_time (s : State) (k : Nat) (f : Cell → Cell) : (s.modCell k f).time = s.time := rfl
@[simp] theorem State.modCell_mem (s : State) (k : Nat) (f : Cell → Cell) : (s.modCell k f).mem = s.mem := rfl
@[simp] theorem State.modCell_memBad (s : State) (k : Nat) (f : Cell → Cell) : (s.modCell k f).memBad = s.memBad := rfl
@[simp] theorem State.modCell_hbm (s : State) (k : Nat) (f : Cell → Cell) : (s.modCell k f).hbm = s.hbm := rfl
@[simp] theorem State.modCell_hbmBad (s : State) (k : Nat) (f : Cell → Cell) : (s.modCell k f).hbmBad = s.hbmBad := rfl
@[simp] theorem State.modCell_hostMem (s : State) (k : Nat) (f : Cell → Cell) : (s.modCell k f).hostMem = s.hostMem := rfl
@[simp] theorem State.modCell_bufs (s : State) (k : Nat) (f : Cell → Cell) : (s.modCell k f).bufs = s.bufs := rfl
@[simp] theorem State.modCell_genOf (s : State) (k : Nat) (f : Cell → Cell) : (s.modCell k f).genOf = s.genOf := rfl
@[simp] theorem State.modCell_hbmStacks (s : State) (k : Nat) (f : Cell → Cell) : (s.modCell k f).hbmStacks = s.hbmStacks := rfl
@[simp] theorem State.modCell_dies (s : State) (k : Nat) (f : Cell → Cell) : (s.modCell k f).dies = s.dies := rfl
@[simp] theorem State.modCell_sched (s : State) (k : Nat) (f : Cell → Cell) : (s.modCell k f).sched = s.sched := rfl
@[simp] theorem State.modCell_geode (s : State) (k : Nat) (f : Cell → Cell) : (s.modCell k f).geode = s.geode := rfl
@[simp] theorem State.modCell_flash (s : State) (k : Nat) (f : Cell → Cell) : (s.modCell k f).flash = s.flash := rfl
@[simp] theorem State.modCell_fabric (s : State) (k : Nat) (f : Cell → Cell) : (s.modCell k f).fabric = s.fabric := rfl
@[simp] theorem State.modCell_host (s : State) (k : Nat) (f : Cell → Cell) : (s.modCell k f).host = s.host := rfl
@[simp] theorem State.modCell_power (s : State) (k : Nat) (f : Cell → Cell) : (s.modCell k f).power = s.power := rfl

/-! ## setBank -/

@[simp] theorem State.setBank_agenda (s : State) (k : Nat) (b : Bank) : (s.setBank k b).agenda = s.agenda := rfl
@[simp] theorem State.setBank_focus (s : State) (k : Nat) (b : Bank) : (s.setBank k b).focus = s.focus := rfl
@[simp] theorem State.setBank_free (s : State) (k : Nat) (b : Bank) : (s.setBank k b).free = s.free := rfl
@[simp] theorem State.setBank_pop (s : State) (k : Nat) (b : Bank) : (s.setBank k b).pop = s.pop := rfl
@[simp] theorem State.setBank_time (s : State) (k : Nat) (b : Bank) : (s.setBank k b).time = s.time := rfl
@[simp] theorem State.setBank_mem (s : State) (k : Nat) (b : Bank) : (s.setBank k b).mem = s.mem := rfl
@[simp] theorem State.setBank_memBad (s : State) (k : Nat) (b : Bank) : (s.setBank k b).memBad = s.memBad := rfl
@[simp] theorem State.setBank_hbm (s : State) (k : Nat) (b : Bank) : (s.setBank k b).hbm = s.hbm := rfl
@[simp] theorem State.setBank_hbmBad (s : State) (k : Nat) (b : Bank) : (s.setBank k b).hbmBad = s.hbmBad := rfl
@[simp] theorem State.setBank_hostMem (s : State) (k : Nat) (b : Bank) : (s.setBank k b).hostMem = s.hostMem := rfl
@[simp] theorem State.setBank_bufs (s : State) (k : Nat) (b : Bank) : (s.setBank k b).bufs = s.bufs := rfl
@[simp] theorem State.setBank_genOf (s : State) (k : Nat) (b : Bank) : (s.setBank k b).genOf = s.genOf := rfl
@[simp] theorem State.setBank_hbmStacks (s : State) (k : Nat) (b : Bank) : (s.setBank k b).hbmStacks = s.hbmStacks := rfl
@[simp] theorem State.setBank_dies (s : State) (k : Nat) (b : Bank) : (s.setBank k b).dies = s.dies := rfl
@[simp] theorem State.setBank_sched (s : State) (k : Nat) (b : Bank) : (s.setBank k b).sched = s.sched := rfl
@[simp] theorem State.setBank_geode (s : State) (k : Nat) (b : Bank) : (s.setBank k b).geode = s.geode := rfl
@[simp] theorem State.setBank_flash (s : State) (k : Nat) (b : Bank) : (s.setBank k b).flash = s.flash := rfl
@[simp] theorem State.setBank_fabric (s : State) (k : Nat) (b : Bank) : (s.setBank k b).fabric = s.fabric := rfl
@[simp] theorem State.setBank_host (s : State) (k : Nat) (b : Bank) : (s.setBank k b).host = s.host := rfl
@[simp] theorem State.setBank_power (s : State) (k : Nat) (b : Bank) : (s.setBank k b).power = s.power := rfl

/-! ## modBank -/

@[simp] theorem State.modBank_agenda (s : State) (k : Nat) (f : Bank → Bank) : (s.modBank k f).agenda = s.agenda := rfl
@[simp] theorem State.modBank_focus (s : State) (k : Nat) (f : Bank → Bank) : (s.modBank k f).focus = s.focus := rfl
@[simp] theorem State.modBank_free (s : State) (k : Nat) (f : Bank → Bank) : (s.modBank k f).free = s.free := rfl
@[simp] theorem State.modBank_pop (s : State) (k : Nat) (f : Bank → Bank) : (s.modBank k f).pop = s.pop := rfl
@[simp] theorem State.modBank_time (s : State) (k : Nat) (f : Bank → Bank) : (s.modBank k f).time = s.time := rfl
@[simp] theorem State.modBank_mem (s : State) (k : Nat) (f : Bank → Bank) : (s.modBank k f).mem = s.mem := rfl
@[simp] theorem State.modBank_memBad (s : State) (k : Nat) (f : Bank → Bank) : (s.modBank k f).memBad = s.memBad := rfl
@[simp] theorem State.modBank_hbm (s : State) (k : Nat) (f : Bank → Bank) : (s.modBank k f).hbm = s.hbm := rfl
@[simp] theorem State.modBank_hbmBad (s : State) (k : Nat) (f : Bank → Bank) : (s.modBank k f).hbmBad = s.hbmBad := rfl
@[simp] theorem State.modBank_hostMem (s : State) (k : Nat) (f : Bank → Bank) : (s.modBank k f).hostMem = s.hostMem := rfl
@[simp] theorem State.modBank_bufs (s : State) (k : Nat) (f : Bank → Bank) : (s.modBank k f).bufs = s.bufs := rfl
@[simp] theorem State.modBank_genOf (s : State) (k : Nat) (f : Bank → Bank) : (s.modBank k f).genOf = s.genOf := rfl
@[simp] theorem State.modBank_hbmStacks (s : State) (k : Nat) (f : Bank → Bank) : (s.modBank k f).hbmStacks = s.hbmStacks := rfl
@[simp] theorem State.modBank_dies (s : State) (k : Nat) (f : Bank → Bank) : (s.modBank k f).dies = s.dies := rfl
@[simp] theorem State.modBank_sched (s : State) (k : Nat) (f : Bank → Bank) : (s.modBank k f).sched = s.sched := rfl
@[simp] theorem State.modBank_geode (s : State) (k : Nat) (f : Bank → Bank) : (s.modBank k f).geode = s.geode := rfl
@[simp] theorem State.modBank_flash (s : State) (k : Nat) (f : Bank → Bank) : (s.modBank k f).flash = s.flash := rfl
@[simp] theorem State.modBank_fabric (s : State) (k : Nat) (f : Bank → Bank) : (s.modBank k f).fabric = s.fabric := rfl
@[simp] theorem State.modBank_host (s : State) (k : Nat) (f : Bank → Bank) : (s.modBank k f).host = s.host := rfl
@[simp] theorem State.modBank_power (s : State) (k : Nat) (f : Bank → Bank) : (s.modBank k f).power = s.power := rfl

/-! ## setCore -/

@[simp] theorem State.setCore_agenda (s : State) (k : Nat) (c : CoreIx) (r : Core) : (s.setCore k c r).agenda = s.agenda := rfl
@[simp] theorem State.setCore_focus (s : State) (k : Nat) (c : CoreIx) (r : Core) : (s.setCore k c r).focus = s.focus := rfl
@[simp] theorem State.setCore_free (s : State) (k : Nat) (c : CoreIx) (r : Core) : (s.setCore k c r).free = s.free := rfl
@[simp] theorem State.setCore_pop (s : State) (k : Nat) (c : CoreIx) (r : Core) : (s.setCore k c r).pop = s.pop := rfl
@[simp] theorem State.setCore_time (s : State) (k : Nat) (c : CoreIx) (r : Core) : (s.setCore k c r).time = s.time := rfl
@[simp] theorem State.setCore_mem (s : State) (k : Nat) (c : CoreIx) (r : Core) : (s.setCore k c r).mem = s.mem := rfl
@[simp] theorem State.setCore_memBad (s : State) (k : Nat) (c : CoreIx) (r : Core) : (s.setCore k c r).memBad = s.memBad := rfl
@[simp] theorem State.setCore_hbm (s : State) (k : Nat) (c : CoreIx) (r : Core) : (s.setCore k c r).hbm = s.hbm := rfl
@[simp] theorem State.setCore_hbmBad (s : State) (k : Nat) (c : CoreIx) (r : Core) : (s.setCore k c r).hbmBad = s.hbmBad := rfl
@[simp] theorem State.setCore_hostMem (s : State) (k : Nat) (c : CoreIx) (r : Core) : (s.setCore k c r).hostMem = s.hostMem := rfl
@[simp] theorem State.setCore_bufs (s : State) (k : Nat) (c : CoreIx) (r : Core) : (s.setCore k c r).bufs = s.bufs := rfl
@[simp] theorem State.setCore_genOf (s : State) (k : Nat) (c : CoreIx) (r : Core) : (s.setCore k c r).genOf = s.genOf := rfl
@[simp] theorem State.setCore_hbmStacks (s : State) (k : Nat) (c : CoreIx) (r : Core) : (s.setCore k c r).hbmStacks = s.hbmStacks := rfl
@[simp] theorem State.setCore_dies (s : State) (k : Nat) (c : CoreIx) (r : Core) : (s.setCore k c r).dies = s.dies := rfl
@[simp] theorem State.setCore_sched (s : State) (k : Nat) (c : CoreIx) (r : Core) : (s.setCore k c r).sched = s.sched := rfl
@[simp] theorem State.setCore_geode (s : State) (k : Nat) (c : CoreIx) (r : Core) : (s.setCore k c r).geode = s.geode := rfl
@[simp] theorem State.setCore_flash (s : State) (k : Nat) (c : CoreIx) (r : Core) : (s.setCore k c r).flash = s.flash := rfl
@[simp] theorem State.setCore_fabric (s : State) (k : Nat) (c : CoreIx) (r : Core) : (s.setCore k c r).fabric = s.fabric := rfl
@[simp] theorem State.setCore_host (s : State) (k : Nat) (c : CoreIx) (r : Core) : (s.setCore k c r).host = s.host := rfl
@[simp] theorem State.setCore_power (s : State) (k : Nat) (c : CoreIx) (r : Core) : (s.setCore k c r).power = s.power := rfl

/-! ## modCore -/

@[simp] theorem State.modCore_agenda (s : State) (k : Nat) (c : CoreIx) (f : Core → Core) : (s.modCore k c f).agenda = s.agenda := rfl
@[simp] theorem State.modCore_focus (s : State) (k : Nat) (c : CoreIx) (f : Core → Core) : (s.modCore k c f).focus = s.focus := rfl
@[simp] theorem State.modCore_free (s : State) (k : Nat) (c : CoreIx) (f : Core → Core) : (s.modCore k c f).free = s.free := rfl
@[simp] theorem State.modCore_pop (s : State) (k : Nat) (c : CoreIx) (f : Core → Core) : (s.modCore k c f).pop = s.pop := rfl
@[simp] theorem State.modCore_time (s : State) (k : Nat) (c : CoreIx) (f : Core → Core) : (s.modCore k c f).time = s.time := rfl
@[simp] theorem State.modCore_mem (s : State) (k : Nat) (c : CoreIx) (f : Core → Core) : (s.modCore k c f).mem = s.mem := rfl
@[simp] theorem State.modCore_memBad (s : State) (k : Nat) (c : CoreIx) (f : Core → Core) : (s.modCore k c f).memBad = s.memBad := rfl
@[simp] theorem State.modCore_hbm (s : State) (k : Nat) (c : CoreIx) (f : Core → Core) : (s.modCore k c f).hbm = s.hbm := rfl
@[simp] theorem State.modCore_hbmBad (s : State) (k : Nat) (c : CoreIx) (f : Core → Core) : (s.modCore k c f).hbmBad = s.hbmBad := rfl
@[simp] theorem State.modCore_hostMem (s : State) (k : Nat) (c : CoreIx) (f : Core → Core) : (s.modCore k c f).hostMem = s.hostMem := rfl
@[simp] theorem State.modCore_bufs (s : State) (k : Nat) (c : CoreIx) (f : Core → Core) : (s.modCore k c f).bufs = s.bufs := rfl
@[simp] theorem State.modCore_genOf (s : State) (k : Nat) (c : CoreIx) (f : Core → Core) : (s.modCore k c f).genOf = s.genOf := rfl
@[simp] theorem State.modCore_hbmStacks (s : State) (k : Nat) (c : CoreIx) (f : Core → Core) : (s.modCore k c f).hbmStacks = s.hbmStacks := rfl
@[simp] theorem State.modCore_dies (s : State) (k : Nat) (c : CoreIx) (f : Core → Core) : (s.modCore k c f).dies = s.dies := rfl
@[simp] theorem State.modCore_sched (s : State) (k : Nat) (c : CoreIx) (f : Core → Core) : (s.modCore k c f).sched = s.sched := rfl
@[simp] theorem State.modCore_geode (s : State) (k : Nat) (c : CoreIx) (f : Core → Core) : (s.modCore k c f).geode = s.geode := rfl
@[simp] theorem State.modCore_flash (s : State) (k : Nat) (c : CoreIx) (f : Core → Core) : (s.modCore k c f).flash = s.flash := rfl
@[simp] theorem State.modCore_fabric (s : State) (k : Nat) (c : CoreIx) (f : Core → Core) : (s.modCore k c f).fabric = s.fabric := rfl
@[simp] theorem State.modCore_host (s : State) (k : Nat) (c : CoreIx) (f : Core → Core) : (s.modCore k c f).host = s.host := rfl
@[simp] theorem State.modCore_power (s : State) (k : Nat) (c : CoreIx) (f : Core → Core) : (s.modCore k c f).power = s.power := rfl

/-! ## putCore -/

@[simp] theorem State.putCore_agenda (s : State) (r : Core) : (s.putCore r).agenda = s.agenda := rfl
@[simp] theorem State.putCore_focus (s : State) (r : Core) : (s.putCore r).focus = s.focus := rfl
@[simp] theorem State.putCore_free (s : State) (r : Core) : (s.putCore r).free = s.free := rfl
@[simp] theorem State.putCore_pop (s : State) (r : Core) : (s.putCore r).pop = s.pop := rfl
@[simp] theorem State.putCore_time (s : State) (r : Core) : (s.putCore r).time = s.time := rfl
@[simp] theorem State.putCore_mem (s : State) (r : Core) : (s.putCore r).mem = s.mem := rfl
@[simp] theorem State.putCore_memBad (s : State) (r : Core) : (s.putCore r).memBad = s.memBad := rfl
@[simp] theorem State.putCore_hbm (s : State) (r : Core) : (s.putCore r).hbm = s.hbm := rfl
@[simp] theorem State.putCore_hbmBad (s : State) (r : Core) : (s.putCore r).hbmBad = s.hbmBad := rfl
@[simp] theorem State.putCore_hostMem (s : State) (r : Core) : (s.putCore r).hostMem = s.hostMem := rfl
@[simp] theorem State.putCore_bufs (s : State) (r : Core) : (s.putCore r).bufs = s.bufs := rfl
@[simp] theorem State.putCore_genOf (s : State) (r : Core) : (s.putCore r).genOf = s.genOf := rfl
@[simp] theorem State.putCore_hbmStacks (s : State) (r : Core) : (s.putCore r).hbmStacks = s.hbmStacks := rfl
@[simp] theorem State.putCore_dies (s : State) (r : Core) : (s.putCore r).dies = s.dies := rfl
@[simp] theorem State.putCore_sched (s : State) (r : Core) : (s.putCore r).sched = s.sched := rfl
@[simp] theorem State.putCore_geode (s : State) (r : Core) : (s.putCore r).geode = s.geode := rfl
@[simp] theorem State.putCore_flash (s : State) (r : Core) : (s.putCore r).flash = s.flash := rfl
@[simp] theorem State.putCore_fabric (s : State) (r : Core) : (s.putCore r).fabric = s.fabric := rfl
@[simp] theorem State.putCore_host (s : State) (r : Core) : (s.putCore r).host = s.host := rfl
@[simp] theorem State.putCore_power (s : State) (r : Core) : (s.putCore r).power = s.power := rfl

/-! ## retire -/

@[simp] theorem State.retire_agenda (s : State) (k : Nat) (c : CoreIx) (n : Nat) : (s.retire k c n).agenda = s.agenda := rfl
@[simp] theorem State.retire_focus (s : State) (k : Nat) (c : CoreIx) (n : Nat) : (s.retire k c n).focus = s.focus := rfl
@[simp] theorem State.retire_free (s : State) (k : Nat) (c : CoreIx) (n : Nat) : (s.retire k c n).free = s.free := rfl
@[simp] theorem State.retire_pop (s : State) (k : Nat) (c : CoreIx) (n : Nat) : (s.retire k c n).pop = s.pop := rfl
@[simp] theorem State.retire_time (s : State) (k : Nat) (c : CoreIx) (n : Nat) : (s.retire k c n).time = s.time := rfl
@[simp] theorem State.retire_mem (s : State) (k : Nat) (c : CoreIx) (n : Nat) : (s.retire k c n).mem = s.mem := rfl
@[simp] theorem State.retire_memBad (s : State) (k : Nat) (c : CoreIx) (n : Nat) : (s.retire k c n).memBad = s.memBad := rfl
@[simp] theorem State.retire_hbm (s : State) (k : Nat) (c : CoreIx) (n : Nat) : (s.retire k c n).hbm = s.hbm := rfl
@[simp] theorem State.retire_hbmBad (s : State) (k : Nat) (c : CoreIx) (n : Nat) : (s.retire k c n).hbmBad = s.hbmBad := rfl
@[simp] theorem State.retire_hostMem (s : State) (k : Nat) (c : CoreIx) (n : Nat) : (s.retire k c n).hostMem = s.hostMem := rfl
@[simp] theorem State.retire_bufs (s : State) (k : Nat) (c : CoreIx) (n : Nat) : (s.retire k c n).bufs = s.bufs := rfl
@[simp] theorem State.retire_genOf (s : State) (k : Nat) (c : CoreIx) (n : Nat) : (s.retire k c n).genOf = s.genOf := rfl
@[simp] theorem State.retire_hbmStacks (s : State) (k : Nat) (c : CoreIx) (n : Nat) : (s.retire k c n).hbmStacks = s.hbmStacks := rfl
@[simp] theorem State.retire_dies (s : State) (k : Nat) (c : CoreIx) (n : Nat) : (s.retire k c n).dies = s.dies := rfl
@[simp] theorem State.retire_sched (s : State) (k : Nat) (c : CoreIx) (n : Nat) : (s.retire k c n).sched = s.sched := rfl
@[simp] theorem State.retire_geode (s : State) (k : Nat) (c : CoreIx) (n : Nat) : (s.retire k c n).geode = s.geode := rfl
@[simp] theorem State.retire_flash (s : State) (k : Nat) (c : CoreIx) (n : Nat) : (s.retire k c n).flash = s.flash := rfl
@[simp] theorem State.retire_fabric (s : State) (k : Nat) (c : CoreIx) (n : Nat) : (s.retire k c n).fabric = s.fabric := rfl
@[simp] theorem State.retire_host (s : State) (k : Nat) (c : CoreIx) (n : Nat) : (s.retire k c n).host = s.host := rfl
@[simp] theorem State.retire_power (s : State) (k : Nat) (c : CoreIx) (n : Nat) : (s.retire k c n).power = s.power := rfl

/-! ## squash -/

@[simp] theorem State.squash_agenda (s : State) (k : Nat) (c : CoreIx) (n : Nat) : (s.squash k c n).agenda = s.agenda := rfl
@[simp] theorem State.squash_focus (s : State) (k : Nat) (c : CoreIx) (n : Nat) : (s.squash k c n).focus = s.focus := rfl
@[simp] theorem State.squash_free (s : State) (k : Nat) (c : CoreIx) (n : Nat) : (s.squash k c n).free = s.free := rfl
@[simp] theorem State.squash_pop (s : State) (k : Nat) (c : CoreIx) (n : Nat) : (s.squash k c n).pop = s.pop := rfl
@[simp] theorem State.squash_time (s : State) (k : Nat) (c : CoreIx) (n : Nat) : (s.squash k c n).time = s.time := rfl
@[simp] theorem State.squash_mem (s : State) (k : Nat) (c : CoreIx) (n : Nat) : (s.squash k c n).mem = s.mem := rfl
@[simp] theorem State.squash_memBad (s : State) (k : Nat) (c : CoreIx) (n : Nat) : (s.squash k c n).memBad = s.memBad := rfl
@[simp] theorem State.squash_hbm (s : State) (k : Nat) (c : CoreIx) (n : Nat) : (s.squash k c n).hbm = s.hbm := rfl
@[simp] theorem State.squash_hbmBad (s : State) (k : Nat) (c : CoreIx) (n : Nat) : (s.squash k c n).hbmBad = s.hbmBad := rfl
@[simp] theorem State.squash_hostMem (s : State) (k : Nat) (c : CoreIx) (n : Nat) : (s.squash k c n).hostMem = s.hostMem := rfl
@[simp] theorem State.squash_bufs (s : State) (k : Nat) (c : CoreIx) (n : Nat) : (s.squash k c n).bufs = s.bufs := rfl
@[simp] theorem State.squash_genOf (s : State) (k : Nat) (c : CoreIx) (n : Nat) : (s.squash k c n).genOf = s.genOf := rfl
@[simp] theorem State.squash_hbmStacks (s : State) (k : Nat) (c : CoreIx) (n : Nat) : (s.squash k c n).hbmStacks = s.hbmStacks := rfl
@[simp] theorem State.squash_dies (s : State) (k : Nat) (c : CoreIx) (n : Nat) : (s.squash k c n).dies = s.dies := rfl
@[simp] theorem State.squash_sched (s : State) (k : Nat) (c : CoreIx) (n : Nat) : (s.squash k c n).sched = s.sched := rfl
@[simp] theorem State.squash_geode (s : State) (k : Nat) (c : CoreIx) (n : Nat) : (s.squash k c n).geode = s.geode := rfl
@[simp] theorem State.squash_flash (s : State) (k : Nat) (c : CoreIx) (n : Nat) : (s.squash k c n).flash = s.flash := rfl
@[simp] theorem State.squash_fabric (s : State) (k : Nat) (c : CoreIx) (n : Nat) : (s.squash k c n).fabric = s.fabric := rfl
@[simp] theorem State.squash_host (s : State) (k : Nat) (c : CoreIx) (n : Nat) : (s.squash k c n).host = s.host := rfl
@[simp] theorem State.squash_power (s : State) (k : Nat) (c : CoreIx) (n : Nat) : (s.squash k c n).power = s.power := rfl

/-! ## setUnit -/

@[simp] theorem State.setUnit_agenda (s : State) (u : VUnit) : (s.setUnit u).agenda = s.agenda := rfl
@[simp] theorem State.setUnit_focus (s : State) (u : VUnit) : (s.setUnit u).focus = s.focus := rfl
@[simp] theorem State.setUnit_free (s : State) (u : VUnit) : (s.setUnit u).free = s.free := rfl
@[simp] theorem State.setUnit_pop (s : State) (u : VUnit) : (s.setUnit u).pop = s.pop := rfl
@[simp] theorem State.setUnit_time (s : State) (u : VUnit) : (s.setUnit u).time = s.time := rfl
@[simp] theorem State.setUnit_mem (s : State) (u : VUnit) : (s.setUnit u).mem = s.mem := rfl
@[simp] theorem State.setUnit_memBad (s : State) (u : VUnit) : (s.setUnit u).memBad = s.memBad := rfl
@[simp] theorem State.setUnit_hbm (s : State) (u : VUnit) : (s.setUnit u).hbm = s.hbm := rfl
@[simp] theorem State.setUnit_hbmBad (s : State) (u : VUnit) : (s.setUnit u).hbmBad = s.hbmBad := rfl
@[simp] theorem State.setUnit_hostMem (s : State) (u : VUnit) : (s.setUnit u).hostMem = s.hostMem := rfl
@[simp] theorem State.setUnit_bufs (s : State) (u : VUnit) : (s.setUnit u).bufs = s.bufs := rfl
@[simp] theorem State.setUnit_genOf (s : State) (u : VUnit) : (s.setUnit u).genOf = s.genOf := rfl
@[simp] theorem State.setUnit_hbmStacks (s : State) (u : VUnit) : (s.setUnit u).hbmStacks = s.hbmStacks := rfl
@[simp] theorem State.setUnit_dies (s : State) (u : VUnit) : (s.setUnit u).dies = s.dies := rfl
@[simp] theorem State.setUnit_sched (s : State) (u : VUnit) : (s.setUnit u).sched = s.sched := rfl
@[simp] theorem State.setUnit_geode (s : State) (u : VUnit) : (s.setUnit u).geode = s.geode := rfl
@[simp] theorem State.setUnit_flash (s : State) (u : VUnit) : (s.setUnit u).flash = s.flash := rfl
@[simp] theorem State.setUnit_fabric (s : State) (u : VUnit) : (s.setUnit u).fabric = s.fabric := rfl
@[simp] theorem State.setUnit_host (s : State) (u : VUnit) : (s.setUnit u).host = s.host := rfl
@[simp] theorem State.setUnit_power (s : State) (u : VUnit) : (s.setUnit u).power = s.power := rfl

/-! ## touch -/

@[simp] theorem State.touch_agenda (s : State) (k off n : Nat) : (s.touch k off n).agenda = s.agenda := rfl
@[simp] theorem State.touch_focus (s : State) (k off n : Nat) : (s.touch k off n).focus = s.focus := rfl
@[simp] theorem State.touch_free (s : State) (k off n : Nat) : (s.touch k off n).free = s.free := rfl
@[simp] theorem State.touch_pop (s : State) (k off n : Nat) : (s.touch k off n).pop = s.pop := rfl
@[simp] theorem State.touch_time (s : State) (k off n : Nat) : (s.touch k off n).time = s.time := rfl
@[simp] theorem State.touch_mem (s : State) (k off n : Nat) : (s.touch k off n).mem = s.mem := rfl
@[simp] theorem State.touch_memBad (s : State) (k off n : Nat) : (s.touch k off n).memBad = s.memBad := rfl
@[simp] theorem State.touch_hbm (s : State) (k off n : Nat) : (s.touch k off n).hbm = s.hbm := rfl
@[simp] theorem State.touch_hbmBad (s : State) (k off n : Nat) : (s.touch k off n).hbmBad = s.hbmBad := rfl
@[simp] theorem State.touch_hostMem (s : State) (k off n : Nat) : (s.touch k off n).hostMem = s.hostMem := rfl
@[simp] theorem State.touch_bufs (s : State) (k off n : Nat) : (s.touch k off n).bufs = s.bufs := rfl
@[simp] theorem State.touch_genOf (s : State) (k off n : Nat) : (s.touch k off n).genOf = s.genOf := rfl
@[simp] theorem State.touch_hbmStacks (s : State) (k off n : Nat) : (s.touch k off n).hbmStacks = s.hbmStacks := rfl
@[simp] theorem State.touch_dies (s : State) (k off n : Nat) : (s.touch k off n).dies = s.dies := rfl
@[simp] theorem State.touch_sched (s : State) (k off n : Nat) : (s.touch k off n).sched = s.sched := rfl
@[simp] theorem State.touch_geode (s : State) (k off n : Nat) : (s.touch k off n).geode = s.geode := rfl
@[simp] theorem State.touch_flash (s : State) (k off n : Nat) : (s.touch k off n).flash = s.flash := rfl
@[simp] theorem State.touch_fabric (s : State) (k off n : Nat) : (s.touch k off n).fabric = s.fabric := rfl
@[simp] theorem State.touch_host (s : State) (k off n : Nat) : (s.touch k off n).host = s.host := rfl
@[simp] theorem State.touch_power (s : State) (k off n : Nat) : (s.touch k off n).power = s.power := rfl

/-! ## bump -/

@[simp] theorem State.bump_agenda (s : State) : (s.bump).agenda = s.agenda := rfl
@[simp] theorem State.bump_focus (s : State) : (s.bump).focus = s.focus := rfl
@[simp] theorem State.bump_pop (s : State) : (s.bump).pop = s.pop := rfl
@[simp] theorem State.bump_time (s : State) : (s.bump).time = s.time := rfl
@[simp] theorem State.bump_mem (s : State) : (s.bump).mem = s.mem := rfl
@[simp] theorem State.bump_memBad (s : State) : (s.bump).memBad = s.memBad := rfl
@[simp] theorem State.bump_hbm (s : State) : (s.bump).hbm = s.hbm := rfl
@[simp] theorem State.bump_hbmBad (s : State) : (s.bump).hbmBad = s.hbmBad := rfl
@[simp] theorem State.bump_hostMem (s : State) : (s.bump).hostMem = s.hostMem := rfl
@[simp] theorem State.bump_bufs (s : State) : (s.bump).bufs = s.bufs := rfl
@[simp] theorem State.bump_genOf (s : State) : (s.bump).genOf = s.genOf := rfl
@[simp] theorem State.bump_hbmStacks (s : State) : (s.bump).hbmStacks = s.hbmStacks := rfl
@[simp] theorem State.bump_cells (s : State) : (s.bump).cells = s.cells := rfl
@[simp] theorem State.bump_dies (s : State) : (s.bump).dies = s.dies := rfl
@[simp] theorem State.bump_sched (s : State) : (s.bump).sched = s.sched := rfl
@[simp] theorem State.bump_geode (s : State) : (s.bump).geode = s.geode := rfl
@[simp] theorem State.bump_flash (s : State) : (s.bump).flash = s.flash := rfl
@[simp] theorem State.bump_fabric (s : State) : (s.bump).fabric = s.fabric := rfl
@[simp] theorem State.bump_host (s : State) : (s.bump).host = s.host := rfl
@[simp] theorem State.bump_power (s : State) : (s.bump).power = s.power := rfl

/-! ## modDie -/

@[simp] theorem State.modDie_agenda (s : State) (d : Nat) (f : Die → Die) : (s.modDie d f).agenda = s.agenda := rfl
@[simp] theorem State.modDie_focus (s : State) (d : Nat) (f : Die → Die) : (s.modDie d f).focus = s.focus := rfl
@[simp] theorem State.modDie_free (s : State) (d : Nat) (f : Die → Die) : (s.modDie d f).free = s.free := rfl
@[simp] theorem State.modDie_pop (s : State) (d : Nat) (f : Die → Die) : (s.modDie d f).pop = s.pop := rfl
@[simp] theorem State.modDie_time (s : State) (d : Nat) (f : Die → Die) : (s.modDie d f).time = s.time := rfl
@[simp] theorem State.modDie_mem (s : State) (d : Nat) (f : Die → Die) : (s.modDie d f).mem = s.mem := rfl
@[simp] theorem State.modDie_memBad (s : State) (d : Nat) (f : Die → Die) : (s.modDie d f).memBad = s.memBad := rfl
@[simp] theorem State.modDie_hbm (s : State) (d : Nat) (f : Die → Die) : (s.modDie d f).hbm = s.hbm := rfl
@[simp] theorem State.modDie_hbmBad (s : State) (d : Nat) (f : Die → Die) : (s.modDie d f).hbmBad = s.hbmBad := rfl
@[simp] theorem State.modDie_hostMem (s : State) (d : Nat) (f : Die → Die) : (s.modDie d f).hostMem = s.hostMem := rfl
@[simp] theorem State.modDie_bufs (s : State) (d : Nat) (f : Die → Die) : (s.modDie d f).bufs = s.bufs := rfl
@[simp] theorem State.modDie_genOf (s : State) (d : Nat) (f : Die → Die) : (s.modDie d f).genOf = s.genOf := rfl
@[simp] theorem State.modDie_hbmStacks (s : State) (d : Nat) (f : Die → Die) : (s.modDie d f).hbmStacks = s.hbmStacks := rfl
@[simp] theorem State.modDie_cells (s : State) (d : Nat) (f : Die → Die) : (s.modDie d f).cells = s.cells := rfl
@[simp] theorem State.modDie_sched (s : State) (d : Nat) (f : Die → Die) : (s.modDie d f).sched = s.sched := rfl
@[simp] theorem State.modDie_geode (s : State) (d : Nat) (f : Die → Die) : (s.modDie d f).geode = s.geode := rfl
@[simp] theorem State.modDie_flash (s : State) (d : Nat) (f : Die → Die) : (s.modDie d f).flash = s.flash := rfl
@[simp] theorem State.modDie_fabric (s : State) (d : Nat) (f : Die → Die) : (s.modDie d f).fabric = s.fabric := rfl
@[simp] theorem State.modDie_host (s : State) (d : Nat) (f : Die → Die) : (s.modDie d f).host = s.host := rfl
@[simp] theorem State.modDie_power (s : State) (d : Nat) (f : Die → Die) : (s.modDie d f).power = s.power := rfl

/-! ## chipPut -/

@[simp] theorem State.chipPut_agenda (s : State) (a : Nat) (bs : List Byte) : (s.chipPut a bs).agenda = s.agenda := rfl
@[simp] theorem State.chipPut_focus (s : State) (a : Nat) (bs : List Byte) : (s.chipPut a bs).focus = s.focus := rfl
@[simp] theorem State.chipPut_free (s : State) (a : Nat) (bs : List Byte) : (s.chipPut a bs).free = s.free := rfl
@[simp] theorem State.chipPut_pop (s : State) (a : Nat) (bs : List Byte) : (s.chipPut a bs).pop = s.pop := rfl
@[simp] theorem State.chipPut_time (s : State) (a : Nat) (bs : List Byte) : (s.chipPut a bs).time = s.time := rfl
@[simp] theorem State.chipPut_hbm (s : State) (a : Nat) (bs : List Byte) : (s.chipPut a bs).hbm = s.hbm := rfl
@[simp] theorem State.chipPut_hbmBad (s : State) (a : Nat) (bs : List Byte) : (s.chipPut a bs).hbmBad = s.hbmBad := rfl
@[simp] theorem State.chipPut_hostMem (s : State) (a : Nat) (bs : List Byte) : (s.chipPut a bs).hostMem = s.hostMem := rfl
@[simp] theorem State.chipPut_bufs (s : State) (a : Nat) (bs : List Byte) : (s.chipPut a bs).bufs = s.bufs := rfl
@[simp] theorem State.chipPut_genOf (s : State) (a : Nat) (bs : List Byte) : (s.chipPut a bs).genOf = s.genOf := rfl
@[simp] theorem State.chipPut_hbmStacks (s : State) (a : Nat) (bs : List Byte) : (s.chipPut a bs).hbmStacks = s.hbmStacks := rfl
@[simp] theorem State.chipPut_cells (s : State) (a : Nat) (bs : List Byte) : (s.chipPut a bs).cells = s.cells := rfl
@[simp] theorem State.chipPut_dies (s : State) (a : Nat) (bs : List Byte) : (s.chipPut a bs).dies = s.dies := rfl
@[simp] theorem State.chipPut_sched (s : State) (a : Nat) (bs : List Byte) : (s.chipPut a bs).sched = s.sched := rfl
@[simp] theorem State.chipPut_geode (s : State) (a : Nat) (bs : List Byte) : (s.chipPut a bs).geode = s.geode := rfl
@[simp] theorem State.chipPut_flash (s : State) (a : Nat) (bs : List Byte) : (s.chipPut a bs).flash = s.flash := rfl
@[simp] theorem State.chipPut_fabric (s : State) (a : Nat) (bs : List Byte) : (s.chipPut a bs).fabric = s.fabric := rfl
@[simp] theorem State.chipPut_host (s : State) (a : Nat) (bs : List Byte) : (s.chipPut a bs).host = s.host := rfl
@[simp] theorem State.chipPut_power (s : State) (a : Nat) (bs : List Byte) : (s.chipPut a bs).power = s.power := rfl

/-! ## chipMark -/

@[simp] theorem State.chipMark_agenda (s : State) (a n : Nat) : (s.chipMark a n).agenda = s.agenda := rfl
@[simp] theorem State.chipMark_focus (s : State) (a n : Nat) : (s.chipMark a n).focus = s.focus := rfl
@[simp] theorem State.chipMark_free (s : State) (a n : Nat) : (s.chipMark a n).free = s.free := rfl
@[simp] theorem State.chipMark_pop (s : State) (a n : Nat) : (s.chipMark a n).pop = s.pop := rfl
@[simp] theorem State.chipMark_time (s : State) (a n : Nat) : (s.chipMark a n).time = s.time := rfl
@[simp] theorem State.chipMark_mem (s : State) (a n : Nat) : (s.chipMark a n).mem = s.mem := rfl
@[simp] theorem State.chipMark_hbm (s : State) (a n : Nat) : (s.chipMark a n).hbm = s.hbm := rfl
@[simp] theorem State.chipMark_hbmBad (s : State) (a n : Nat) : (s.chipMark a n).hbmBad = s.hbmBad := rfl
@[simp] theorem State.chipMark_hostMem (s : State) (a n : Nat) : (s.chipMark a n).hostMem = s.hostMem := rfl
@[simp] theorem State.chipMark_bufs (s : State) (a n : Nat) : (s.chipMark a n).bufs = s.bufs := rfl
@[simp] theorem State.chipMark_genOf (s : State) (a n : Nat) : (s.chipMark a n).genOf = s.genOf := rfl
@[simp] theorem State.chipMark_hbmStacks (s : State) (a n : Nat) : (s.chipMark a n).hbmStacks = s.hbmStacks := rfl
@[simp] theorem State.chipMark_cells (s : State) (a n : Nat) : (s.chipMark a n).cells = s.cells := rfl
@[simp] theorem State.chipMark_dies (s : State) (a n : Nat) : (s.chipMark a n).dies = s.dies := rfl
@[simp] theorem State.chipMark_sched (s : State) (a n : Nat) : (s.chipMark a n).sched = s.sched := rfl
@[simp] theorem State.chipMark_geode (s : State) (a n : Nat) : (s.chipMark a n).geode = s.geode := rfl
@[simp] theorem State.chipMark_flash (s : State) (a n : Nat) : (s.chipMark a n).flash = s.flash := rfl
@[simp] theorem State.chipMark_fabric (s : State) (a n : Nat) : (s.chipMark a n).fabric = s.fabric := rfl
@[simp] theorem State.chipMark_host (s : State) (a n : Nat) : (s.chipMark a n).host = s.host := rfl
@[simp] theorem State.chipMark_power (s : State) (a n : Nat) : (s.chipMark a n).power = s.power := rfl

/-! ## modStack -/

@[simp] theorem State.modStack_agenda (s : State) (i : Nat) (f : Stack → Stack) : (s.modStack i f).agenda = s.agenda := rfl
@[simp] theorem State.modStack_focus (s : State) (i : Nat) (f : Stack → Stack) : (s.modStack i f).focus = s.focus := rfl
@[simp] theorem State.modStack_free (s : State) (i : Nat) (f : Stack → Stack) : (s.modStack i f).free = s.free := rfl
@[simp] theorem State.modStack_pop (s : State) (i : Nat) (f : Stack → Stack) : (s.modStack i f).pop = s.pop := rfl
@[simp] theorem State.modStack_time (s : State) (i : Nat) (f : Stack → Stack) : (s.modStack i f).time = s.time := rfl
@[simp] theorem State.modStack_mem (s : State) (i : Nat) (f : Stack → Stack) : (s.modStack i f).mem = s.mem := rfl
@[simp] theorem State.modStack_memBad (s : State) (i : Nat) (f : Stack → Stack) : (s.modStack i f).memBad = s.memBad := rfl
@[simp] theorem State.modStack_hbm (s : State) (i : Nat) (f : Stack → Stack) : (s.modStack i f).hbm = s.hbm := rfl
@[simp] theorem State.modStack_hbmBad (s : State) (i : Nat) (f : Stack → Stack) : (s.modStack i f).hbmBad = s.hbmBad := rfl
@[simp] theorem State.modStack_hostMem (s : State) (i : Nat) (f : Stack → Stack) : (s.modStack i f).hostMem = s.hostMem := rfl
@[simp] theorem State.modStack_bufs (s : State) (i : Nat) (f : Stack → Stack) : (s.modStack i f).bufs = s.bufs := rfl
@[simp] theorem State.modStack_genOf (s : State) (i : Nat) (f : Stack → Stack) : (s.modStack i f).genOf = s.genOf := rfl
@[simp] theorem State.modStack_cells (s : State) (i : Nat) (f : Stack → Stack) : (s.modStack i f).cells = s.cells := rfl
@[simp] theorem State.modStack_dies (s : State) (i : Nat) (f : Stack → Stack) : (s.modStack i f).dies = s.dies := rfl
@[simp] theorem State.modStack_sched (s : State) (i : Nat) (f : Stack → Stack) : (s.modStack i f).sched = s.sched := rfl
@[simp] theorem State.modStack_geode (s : State) (i : Nat) (f : Stack → Stack) : (s.modStack i f).geode = s.geode := rfl
@[simp] theorem State.modStack_flash (s : State) (i : Nat) (f : Stack → Stack) : (s.modStack i f).flash = s.flash := rfl
@[simp] theorem State.modStack_fabric (s : State) (i : Nat) (f : Stack → Stack) : (s.modStack i f).fabric = s.fabric := rfl
@[simp] theorem State.modStack_host (s : State) (i : Nat) (f : Stack → Stack) : (s.modStack i f).host = s.host := rfl
@[simp] theorem State.modStack_power (s : State) (i : Nat) (f : Stack → Stack) : (s.modStack i f).power = s.power := rfl

/-! ## homePut -/

@[simp] theorem State.homePut_agenda (s : State) (h off : Nat) (ws : List WByte) : (s.homePut h off ws).agenda = s.agenda := rfl
@[simp] theorem State.homePut_focus (s : State) (h off : Nat) (ws : List WByte) : (s.homePut h off ws).focus = s.focus := rfl
@[simp] theorem State.homePut_free (s : State) (h off : Nat) (ws : List WByte) : (s.homePut h off ws).free = s.free := rfl
@[simp] theorem State.homePut_pop (s : State) (h off : Nat) (ws : List WByte) : (s.homePut h off ws).pop = s.pop := rfl
@[simp] theorem State.homePut_time (s : State) (h off : Nat) (ws : List WByte) : (s.homePut h off ws).time = s.time := rfl
@[simp] theorem State.homePut_mem (s : State) (h off : Nat) (ws : List WByte) : (s.homePut h off ws).mem = s.mem := rfl
@[simp] theorem State.homePut_memBad (s : State) (h off : Nat) (ws : List WByte) : (s.homePut h off ws).memBad = s.memBad := rfl
@[simp] theorem State.homePut_hostMem (s : State) (h off : Nat) (ws : List WByte) : (s.homePut h off ws).hostMem = s.hostMem := rfl
@[simp] theorem State.homePut_bufs (s : State) (h off : Nat) (ws : List WByte) : (s.homePut h off ws).bufs = s.bufs := rfl
@[simp] theorem State.homePut_genOf (s : State) (h off : Nat) (ws : List WByte) : (s.homePut h off ws).genOf = s.genOf := rfl
@[simp] theorem State.homePut_hbmStacks (s : State) (h off : Nat) (ws : List WByte) : (s.homePut h off ws).hbmStacks = s.hbmStacks := rfl
@[simp] theorem State.homePut_cells (s : State) (h off : Nat) (ws : List WByte) : (s.homePut h off ws).cells = s.cells := rfl
@[simp] theorem State.homePut_dies (s : State) (h off : Nat) (ws : List WByte) : (s.homePut h off ws).dies = s.dies := rfl
@[simp] theorem State.homePut_sched (s : State) (h off : Nat) (ws : List WByte) : (s.homePut h off ws).sched = s.sched := rfl
@[simp] theorem State.homePut_geode (s : State) (h off : Nat) (ws : List WByte) : (s.homePut h off ws).geode = s.geode := rfl
@[simp] theorem State.homePut_flash (s : State) (h off : Nat) (ws : List WByte) : (s.homePut h off ws).flash = s.flash := rfl
@[simp] theorem State.homePut_fabric (s : State) (h off : Nat) (ws : List WByte) : (s.homePut h off ws).fabric = s.fabric := rfl
@[simp] theorem State.homePut_host (s : State) (h off : Nat) (ws : List WByte) : (s.homePut h off ws).host = s.host := rfl
@[simp] theorem State.homePut_power (s : State) (h off : Nat) (ws : List WByte) : (s.homePut h off ws).power = s.power := rfl

end Sys2Proof.Machine
end

