-- ==== Sys2Proof/Laws/Core.lean ====
section
/-! SUPPORT. What the shared operations of a core do: reading and writing registers, operand two, running a guarded
instruction, taking a trap. The provers cite these instead of unfolding the operations. -/

namespace Sys2Proof.Machine

/-! ## Registers (02 R14 to R16) -/

/-- A register that is full reads its value and its poison. -/
theorem Core.readX_of_holds {r : Core} {j : BitVec 5} {v : Word} {bad : Bool} (h : r.Holds j v bad) (w : Bool) :
    r.readX j w = .ok (v, bad) := by
  unfold Core.Holds at h
  unfold Core.readX Core.xreg
  split <;> simp_all

/-- What a read can answer: the value of a full register, EMPTY_REG under W, or a stall. -/
theorem Core.readX_cases (r : Core) (j : BitVec 5) (w : Bool) :
    (∃ v bad, r.Holds j v bad ∧ r.readX j w = .ok (v, bad)) ∨
    (j ≠ 0 ∧ (r.xreg (r.px j.toNat)).fill ≠ .full ∧
      r.readX j w = if w then .error (.trap cEMPTY (wNat j.toNat)) else .error (.wait (.xreg (r.px j.toNat)))) := by
  unfold Core.Holds Core.readX Core.xreg
  by_cases hj : j = 0
  · simp [hj]
  · simp only [hj, if_false, trap, stall]
    rcases hx : vget r.x (r.px j.toNat) {} with ⟨v, p, fl⟩
    cases fl <;> simp <;> exact hj

/-- A consumed read of a clean register. -/
theorem Core.useX_of_holds {r : Core} {j : BitVec 5} {v : Word} (h : r.Holds j v false) (w : Bool) : r.useX j w = .ok v := by
  simp [Core.useX, Core.readX_of_holds h, consume, bind, Except.bind]

/-- A register that waits for no producer takes the value. -/
theorem Core.writeX_of_ready {r : Core} {j : BitVec 5} (h : r.Ready j) (v : Word) (bad : Bool) :
    r.writeX j v bad = .ok (r.wrote j v bad) := by
  unfold Core.writeX Core.wrote Core.xreg
  unfold Core.Ready at h
  by_cases hj : j = 0
  · simp [hj]
  · rcases h with h | h | h <;> simp_all

theorem Core.freeX_of_ready {r : Core} {j : BitVec 5} (h : r.Ready j) : r.freeX j = .ok () := by
  simp [Core.freeX, Core.writeX_of_ready h, bind, Except.bind, pure, Except.pure]

/-- The register written reads the new value. -/
theorem Core.holds_wrote (r : Core) {j : BitVec 5} (hj : j ≠ 0) (v : Word) (bad : Bool) : (r.wrote j v bad).Holds j v bad := by
  simp only [Core.Holds, Core.wrote, hj, if_false]
  have := Core.xreg_putX r (r.px j.toNat) (r.px j.toNat) v bad
  simp only [Core.xreg, Core.px_lt, and_true, if_true] at this
  simpa [Core.px, Core.putX_rbase] using this

@[simp] theorem Core.wrote_zero (r : Core) (v : Word) (bad : Bool) : r.wrote 0 v bad = r := by simp [Core.wrote]
@[simp] theorem Core.wrote_status (r : Core) (j : BitVec 5) (v : Word) (bad : Bool) : (r.wrote j v bad).status = r.status := by
  unfold Core.wrote; split <;> rfl
@[simp] theorem Core.wrote_a (r : Core) (j : BitVec 5) (v : Word) (bad : Bool) : (r.wrote j v bad).a = r.a := by
  unfold Core.wrote; split <;> rfl
@[simp] theorem Core.wrote_p (r : Core) (j : BitVec 5) (v : Word) (bad : Bool) : (r.wrote j v bad).p = r.p := by
  unfold Core.wrote; split <;> rfl

/-! ## Operand two (04 R53) -/

@[simp] theorem State.countSubst_focus (s : State) (d : Buf) (gs : List Nat) : (s.countSubst d gs).focus = s.focus := by
  unfold State.countSubst
  induction gs generalizing s with
  | nil => rfl
  | cons g gs ih => rw [List.foldl_cons, ih]; rfl

/-- What a window has shown changes no focus. -/
theorem State.sawBuf_focus (s : State) (k : Nat) (c : CoreIx) (h first : Nat) : (s.sawBuf k c h first).focus = s.focus := by
  unfold State.sawBuf; split <;> rfl

@[simp] theorem State.noteWinSubst_focus (s : State) (h addr : Nat) (v : Mem × NSet) : (s.noteWinSubst h addr v).focus = s.focus := by
  unfold State.noteWinSubst
  split
  · split
    · exact s.countSubst_focus _ _
    · rfl
  · rfl

/-- Reading operand two changes what a core has seen of its windows, the counts of substitutions and of free values, and nothing else. -/
theorem State.op2_focus {s t : State} {im : BitVec 21 → Word} {b : Op2} {v : Val} (h : s.op2 im b = .ok (t, v)) :
    t.focus = s.focus := by
  cases b with
  | reg s2 w2 md =>
    simp only [State.op2, bind, Except.bind] at h
    split at h <;> simp_all [pure, Except.pure]
  | imm x => simp only [State.op2, Except.ok.injEq, Prod.mk.injEq] at h; rw [h.1]
  | win w o =>
    simp only [State.op2, bind, Except.bind] at h
    split at h
    · exact nomatch h
    · rename_i x hx
      obtain ⟨t', v', b'⟩ := x
      simp only [pure, Except.pure, Except.ok.injEq, Prod.mk.injEq] at h
      rw [← h.1]
      unfold State.winRead at hx
      simp only [trap] at hx
      split at hx
      · exact nomatch hx
      split at hx
      · exact nomatch hx
      split at hx
      · simp only [bind, Except.bind] at hx
        split at hx
        · exact nomatch hx
        · simp only [pure, Except.pure, Except.ok.injEq, Prod.mk.injEq] at hx
          rw [← hx.1, State.sawBuf_focus, State.noteWinSubst_focus]
      split at hx
      · exact nomatch hx
      split at hx
      · simp only [Except.ok.injEq, Prod.mk.injEq] at hx; rw [hx.1]
      · simp only [Except.ok.injEq, Prod.mk.injEq] at hx
        rw [← hx.1]
        rfl

@[simp] theorem State.op2_imm (s : State) (im : BitVec 21 → Word) (v : BitVec 21) :
    s.op2 im (.imm v) = .ok (s, ⟨im v, false, 0⟩) := rfl

theorem State.op2_reg {s : State} {im : BitVec 21 → Word} {j : BitVec 5} {w : Bool} {md : BitVec 16} {v : Word} {bad : Bool}
    (h : s.fcore.Holds j v bad) : s.op2 im (.reg j w md) = .ok (s, ⟨v, bad, wNat j.toNat⟩) := by
  simp [State.op2, Core.readX_of_holds h, bind, Except.bind, pure, Except.pure]

/-! ## Rounds of a modulo loop (02 R26; 16 R311) -/

/-- Outside a loop, and once a round is open, nothing is written. -/
theorem Core.openRound_of_not_fresh {r : Core} (h : ∀ l, r.loop = some l → l.fresh = false) : r.openRound = r := by
  unfold Core.openRound
  split
  · rename_i l hl; rw [h l hl]; rfl
  · rfl

/-- An instruction that opened its round and does not issue leaves the core as it was. -/
theorem Core.closeRound_openRound {r : Core} {l : LoopPos} (hl : r.loop = some l) (hf : l.fresh = true) (hu : l.undo = none) :
    r.openRound.closeRound = r := by
  obtain ⟨la, n, ii, trip, round, p, offs, fresh, undo⟩ := l
  subst hf hu
  unfold Core.openRound
  rw [hl]
  cases r
  simp only [Core.setPred] at hl ⊢
  subst hl
  rfl

@[simp] theorem Core.openRound_x (r : Core) : r.openRound.x = r.x := by unfold Core.openRound; split <;> [split <;> simp; rfl]
@[simp] theorem Core.openRound_a (r : Core) : r.openRound.a = r.a := by unfold Core.openRound; split <;> [split <;> simp; rfl]
@[simp] theorem Core.openRound_status (r : Core) : r.openRound.status = r.status := by
  unfold Core.openRound; split <;> [split <;> simp; rfl]

/-! ## Running an instruction (02 R20) -/

/-- An enabled instruction whose body succeeds retires with the body's state. -/
theorem guarded_ok {len : Nat} {g : Guard} {s t : State} {body : State → M State} (he : s.Enabled g) (h : body s = .ok t) :
    guarded len g s body = .next (t.retire s.fk s.fc len) := by
  simp [guarded, he.1, he.2, h, State.finish]

/-- An enabled instruction whose body stops does what the stop says. -/
theorem guarded_error {len : Nat} {g : Guard} {s : State} {body : State → M State} {e : Stop} (he : s.Enabled g)
    (h : body s = .error e) : guarded len g s body = .next (s.stopped s.fk s.fc e) := by
  simp [guarded, he.1, he.2, h, State.finish]

/-- A disabled instruction is passed over. -/
theorem guarded_off {len : Nat} {g : Guard} {s : State} {body : State → M State} (h : ¬ s.Enabled g) :
    guarded len g s body = .next (s.squash s.fk s.fc len) := by
  simp only [State.Enabled] at h
  simp only [guarded, Bool.and_eq_true]
  rw [if_neg h]

theorem onCore_ok {len : Nat} {g : Guard} {s : State} {body : Core → M Core} {r : Core} (he : s.Enabled g)
    (h : body s.fcore = .ok r) : onCore len g s body = .next ((s.putCore r).retire s.fk s.fc len) :=
  guarded_ok he (by simp [h, bind, Except.bind, pure, Except.pure, State.putCore])

theorem onCore_error {len : Nat} {g : Guard} {s : State} {body : Core → M Core} {e : Stop} (he : s.Enabled g)
    (h : body s.fcore = .error e) : onCore len g s body = .next (s.stopped s.fk s.fc e) :=
  guarded_error he (by simp [h, bind, Except.bind])

end Sys2Proof.Machine
end

