-- ==== Sys2Proof/Laws/Fields.lean ====
section
/-! SUPPORT. Each format's fields are read back from its encoding: the raw readers after the enc functions. -/

namespace Sys2Proof.Laws

/-- A field read from a number is the value that stands there. -/
theorem bits_eq {n : Nat} {w lo : Nat} {v : BitVec n} (h : w / 2 ^ lo % 2 ^ n = v.toNat) : bits w lo = v :=
  BitVec.eq_of_toNat_eq (by simpa [bits] using h)

theorem bitOf_eq {w lo : Nat} {b : Bool} (h : w / 2 ^ lo % 2 = b.toNat) : bitOf w lo = b := by
  cases b <;> simp_all [bitOf]

theorem head_rest (opc w : Nat) (g : Guard) (hw : w < 2 ^ 35) (ho : opc < 512) :
    field (head opc g + w) 35 9 = opc ∧ rawG (head opc g + w) = g ∧ head opc g + w < 2 ^ 64 := by
  obtain ⟨tt, pa, pb, pc⟩ := g
  have := tt.isLt; have := pa.isLt; have := pb.isLt; have := pc.isLt
  refine ⟨?_, ?_, ?_⟩
  · simp only [field, head]; omega
  · simp only [rawG, Guard.mk.injEq]
    refine ⟨bits_eq ?_, bits_eq ?_, bits_eq ?_, bits_eq ?_⟩ <;> simp only [head] <;> omega
  · simp only [head]; omega

/-- A field below bit 35 does not see the guard and the opcode. -/
theorem low_div (opc w lo n : Nat) (g : Guard) (h : lo + n ≤ 35) :
    (head opc g + w) / 2 ^ lo % 2 ^ n = w / 2 ^ lo % 2 ^ n := by
  have e : head opc g = 2 ^ (lo + n) * (2 ^ (35 - (lo + n)) *
      (g.tt.toNat * 2 ^ 21 + g.pa.toNat * 2 ^ 17 + g.pb.toNat * 2 ^ 13 + g.pc.toNat * 2 ^ 9 + opc)) := by
    rw [← Nat.mul_assoc, ← Nat.pow_add, show lo + n + (35 - (lo + n)) = 35 by omega]
    simp only [head]; omega
  rw [e, Nat.pow_add, Nat.mul_assoc, Nat.mul_comm, Nat.add_comm, ]
  generalize (2 ^ (35 - (lo + n)) * _ : Nat) = z
  rw [show 2 ^ n * z * 2 ^ lo = 2 ^ lo * (2 ^ n * z) by ring, Nat.add_mul_div_left _ _ (by positivity),
    Nat.add_mul_mod_self_left]

theorem low_bits {n : Nat} (opc w lo : Nat) (g : Guard) (h : lo + n ≤ 35) :
    (bits (head opc g + w) lo : BitVec n) = bits w lo :=
  BitVec.eq_of_toNat_eq (by simp [bits, low_div opc w lo n g h])

theorem low_bitOf (opc w lo : Nat) (g : Guard) (h : lo + 1 ≤ 35) : bitOf (head opc g + w) lo = bitOf w lo := by
  have := low_div opc w lo 1 g h
  simp only [pow_one] at this
  simp [bitOf, this]

theorem low_field (opc w lo n : Nat) (g : Guard) (h : lo + n ≤ 35) : field (head opc g + w) lo n = field w lo n :=
  low_div opc w lo n g h

/-! ## The formats of one word -/

/-- What a format's encoding is to its reader: the number read gives the fields, and the opcode stands at bit 35. -/
def Reads {F : Type} (rd : Nat → F) (enc : Nat → F → Nat) (f : F) : Prop :=
  ∀ opc < 512, field (enc opc f) 35 9 = opc ∧ rd (enc opc f) = f ∧ enc opc f < 2 ^ 64

theorem raws {g : Guard} {opc w : Nat} (hw : w < 2 ^ 35) (ho : opc < 512) {F : Type} {rd : Nat → F} {f : F}
    (h : rd (head opc g + w) = f) :
    field (head opc g + w) 35 9 = opc ∧ rd (head opc g + w) = f ∧ head opc g + w < 2 ^ 64 :=
  ⟨(head_rest opc w g hw ho).1, h, (head_rest opc w g hw ho).2.2⟩

theorem readsM (f : FmtM) : Reads rawM encM f := by
  intro opc ho
  obtain ⟨g, data, a, size, mode, w, off⟩ := f
  have := data.isLt
  have := a.isLt
  have := size.isLt
  have := mode.isLt
  have := w.toNat_lt
  have := off.isLt
  simp only [encM, Nat.add_assoc]
  have hw : data.toNat * 2 ^ 30 + (a.toNat * 2 ^ 26 + (size.toNat * 2 ^ 23 + (mode.toNat * 2 ^ 21 + (w.toNat * 2 ^ 20 + (off.toNat))))) < 2 ^ 35 := by omega
  refine raws hw ho ?_
  simp only [rawM, (head_rest opc _ g hw ho).2.1, low_bits, low_bitOf, FmtM.mk.injEq, Nat.reduceAdd,
    Nat.reduceLeDiff, true_and]
  refine ⟨bits_eq ?_, bits_eq ?_, bits_eq ?_, bits_eq ?_, bitOf_eq ?_, bits_eq ?_⟩ <;> omega

theorem readsBD (f : FmtBD) : Reads rawBd encBd f := by
  intro opc ho
  obtain ⟨g, disp⟩ := f
  have := disp.isLt
  simp only [encBd]
  have hw : disp.toNat < 2 ^ 35 := by omega
  refine raws hw ho ?_
  simp only [rawBd, (head_rest opc _ g hw ho).2.1, low_bits, FmtBD.mk.injEq, Nat.reduceAdd,
    Nat.reduceLeDiff, true_and]
  exact bits_eq (by omega)

theorem readsBR (f : FmtBR) : Reads rawBr encBr f := by
  intro opc ho
  obtain ⟨g, x, w⟩ := f
  have := x.isLt
  have := w.toNat_lt
  simp only [encBr, Nat.add_assoc]
  have hw : x.toNat * 2 ^ 30 + (w.toNat * 2 ^ 29) < 2 ^ 35 := by omega
  refine raws hw ho ?_
  simp only [rawBr, (head_rest opc _ g hw ho).2.1, low_bits, low_bitOf, FmtBR.mk.injEq, Nat.reduceAdd,
    Nat.reduceLeDiff, true_and]
  refine ⟨bits_eq ?_, bitOf_eq ?_⟩ <;> omega

theorem readsBL (f : FmtBL) : Reads rawBl encBl f := by
  intro opc ho
  obtain ⟨g, xtrip, w, n1, ii1⟩ := f
  have := xtrip.isLt
  have := w.toNat_lt
  have := n1.isLt
  have := ii1.isLt
  simp only [encBl, Nat.add_assoc]
  have hw : xtrip.toNat * 2 ^ 30 + (w.toNat * 2 ^ 29 + (n1.toNat * 2 ^ 23 + (ii1.toNat * 2 ^ 17))) < 2 ^ 35 := by omega
  refine raws hw ho ?_
  simp only [rawBl, (head_rest opc _ g hw ho).2.1, low_bits, low_bitOf, FmtBL.mk.injEq, Nat.reduceAdd,
    Nat.reduceLeDiff, true_and]
  refine ⟨bits_eq ?_, bitOf_eq ?_, bits_eq ?_, bits_eq ?_⟩ <;> omega

theorem readsV (f : FmtV) : Reads rawV encV f := by
  intro opc ho
  obtain ⟨g, d, a, b, c, rm, sat, sa, sb, sub⟩ := f
  have := d.isLt
  have := a.isLt
  have := b.isLt
  have := c.isLt
  have := rm.isLt
  have := sat.toNat_lt
  have := sa.toNat_lt
  have := sb.toNat_lt
  have := sub.isLt
  simp only [encV, Nat.add_assoc]
  have hw : d.toNat * 2 ^ 29 + (a.toNat * 2 ^ 23 + (b.toNat * 2 ^ 17 + (c.toNat * 2 ^ 11 + (rm.toNat * 2 ^ 9 + (sat.toNat * 2 ^ 8 + (sa.toNat * 2 ^ 7 + (sb.toNat * 2 ^ 6 + (sub.toNat)))))))) < 2 ^ 35 := by omega
  refine raws hw ho ?_
  simp only [rawV, (head_rest opc _ g hw ho).2.1, low_bits, low_bitOf, FmtV.mk.injEq, Nat.reduceAdd,
    Nat.reduceLeDiff, true_and]
  refine ⟨bits_eq ?_, bits_eq ?_, bits_eq ?_, bits_eq ?_, bits_eq ?_, bitOf_eq ?_, bitOf_eq ?_, bitOf_eq ?_, bits_eq ?_⟩ <;> omega

theorem readsY (f : FmtY) : Reads rawY encY f := by
  intro opc ho
  obtain ⟨g, x, a, a2, imm⟩ := f
  have := x.isLt
  have := a.isLt
  have := a2.isLt
  have := imm.isLt
  simp only [encY, Nat.add_assoc]
  have hw : x.toNat * 2 ^ 30 + (a.toNat * 2 ^ 26 + (a2.toNat * 2 ^ 22 + (imm.toNat))) < 2 ^ 35 := by omega
  refine raws hw ho ?_
  simp only [rawY, (head_rest opc _ g hw ho).2.1, low_bits, FmtY.mk.injEq, Nat.reduceAdd,
    Nat.reduceLeDiff, true_and]
  refine ⟨bits_eq ?_, bits_eq ?_, bits_eq ?_, bits_eq ?_⟩ <;> omega

theorem readsS (f : FmtS) : Reads rawS encS f := by
  intro opc ho
  obtain ⟨g, d, s1, w1, o⟩ := f
  have := d.isLt
  have := s1.isLt
  have := w1.toNat_lt
  cases o with
  | reg s2 w2 md =>
    have := s2.isLt
    have := w2.toNat_lt
    have := md.isLt
    simp only [encS, op2W, Nat.add_assoc]
    have hw : d.toNat * 2 ^ 28 + (s1.toNat * 2 ^ 23 + (w1.toNat * 2 ^ 22 + (s2.toNat * 2 ^ 16 + (w2.toNat * 2 ^ 21 + (md.toNat))))) < 2 ^ 35 := by omega
    refine raws hw ho ?_
    have hk : field (d.toNat * 2 ^ 28 + (s1.toNat * 2 ^ 23 + (w1.toNat * 2 ^ 22 + (s2.toNat * 2 ^ 16 + (w2.toNat * 2 ^ 21 + (md.toNat)))))) 33 2 = 0 := by simp only [field]; omega
    simp only [rawS, (head_rest opc _ g hw ho).2.1, low_bits, low_bitOf, low_field, hk, FmtS.mk.injEq, Nat.reduceAdd,
      Nat.reduceLeDiff, Op2.reg.injEq, true_and]
    refine ⟨bits_eq ?_, bits_eq ?_, bitOf_eq ?_, ⟨bits_eq ?_, bitOf_eq ?_, bits_eq ?_⟩⟩ <;> omega
  | imm v =>
    have := v.isLt
    simp only [encS, op2W, Nat.add_assoc]
    have hw : d.toNat * 2 ^ 28 + (s1.toNat * 2 ^ 23 + (w1.toNat * 2 ^ 22 + (2 ^ 33 + (v.toNat)))) < 2 ^ 35 := by omega
    refine raws hw ho ?_
    have hk : field (d.toNat * 2 ^ 28 + (s1.toNat * 2 ^ 23 + (w1.toNat * 2 ^ 22 + (2 ^ 33 + (v.toNat))))) 33 2 = 1 := by simp only [field]; omega
    simp only [rawS, (head_rest opc _ g hw ho).2.1, low_bits, low_bitOf, low_field, hk, FmtS.mk.injEq, Nat.reduceAdd,
      Nat.reduceLeDiff, Op2.imm.injEq, true_and]
    refine ⟨bits_eq ?_, bits_eq ?_, bitOf_eq ?_, bits_eq ?_⟩ <;> omega
  | win w k =>
    have := w.isLt
    have := k.isLt
    simp only [encS, op2W, Nat.add_assoc]
    have hw : d.toNat * 2 ^ 28 + (s1.toNat * 2 ^ 23 + (w1.toNat * 2 ^ 22 + (2 * 2 ^ 33 + (w.toNat * 2 ^ 18 + (k.toNat * 2))))) < 2 ^ 35 := by omega
    refine raws hw ho ?_
    have hk : field (d.toNat * 2 ^ 28 + (s1.toNat * 2 ^ 23 + (w1.toNat * 2 ^ 22 + (2 * 2 ^ 33 + (w.toNat * 2 ^ 18 + (k.toNat * 2)))))) 33 2 = 2 := by simp only [field]; omega
    simp only [rawS, (head_rest opc _ g hw ho).2.1, low_bits, low_bitOf, low_field, hk, FmtS.mk.injEq, Nat.reduceAdd,
      Nat.reduceLeDiff, Op2.win.injEq, true_and]
    refine ⟨bits_eq ?_, bits_eq ?_, bitOf_eq ?_, ⟨bits_eq ?_, bits_eq ?_⟩⟩ <;> omega

theorem readsC (f : FmtC) : Reads rawC encC f := by
  intro opc ho
  obtain ⟨g, pd, pe, mode, s1, w1, o⟩ := f
  have := pd.isLt
  have := pe.isLt
  have := mode.isLt
  have := s1.isLt
  have := w1.toNat_lt
  cases o with
  | reg s2 w2 =>
    have := s2.isLt
    have := w2.toNat_lt
    simp only [encC, opCW, Nat.add_assoc]
    have hw : pd.toNat * 2 ^ 29 + (pe.toNat * 2 ^ 25 + (mode.toNat * 2 ^ 23 + (w1.toNat * 2 ^ 22 + (s1.toNat * 2 ^ 16 + (s2.toNat * 2 ^ 11 + (w2.toNat * 2 ^ 21)))))) < 2 ^ 35 := by omega
    refine raws hw ho ?_
    have hk : field (pd.toNat * 2 ^ 29 + (pe.toNat * 2 ^ 25 + (mode.toNat * 2 ^ 23 + (w1.toNat * 2 ^ 22 + (s1.toNat * 2 ^ 16 + (s2.toNat * 2 ^ 11 + (w2.toNat * 2 ^ 21))))))) 33 2 = 0 := by simp only [field]; omega
    simp only [rawC, (head_rest opc _ g hw ho).2.1, low_bits, low_bitOf, low_field, hk, FmtC.mk.injEq, Nat.reduceAdd,
      Nat.reduceLeDiff, OpC.reg.injEq, true_and]
    refine ⟨bits_eq ?_, bits_eq ?_, bits_eq ?_, bits_eq ?_, bitOf_eq ?_, ⟨bits_eq ?_, bitOf_eq ?_⟩⟩ <;> omega
  | imm v =>
    have := v.isLt
    simp only [encC, opCW, Nat.add_assoc]
    have hw : pd.toNat * 2 ^ 29 + (pe.toNat * 2 ^ 25 + (mode.toNat * 2 ^ 23 + (w1.toNat * 2 ^ 22 + (s1.toNat * 2 ^ 16 + (2 ^ 33 + (v.toNat)))))) < 2 ^ 35 := by omega
    refine raws hw ho ?_
    have hk : field (pd.toNat * 2 ^ 29 + (pe.toNat * 2 ^ 25 + (mode.toNat * 2 ^ 23 + (w1.toNat * 2 ^ 22 + (s1.toNat * 2 ^ 16 + (2 ^ 33 + (v.toNat))))))) 33 2 = 1 := by simp only [field]; omega
    simp only [rawC, (head_rest opc _ g hw ho).2.1, low_bits, low_bitOf, low_field, hk, FmtC.mk.injEq, Nat.reduceAdd,
      Nat.reduceLeDiff, OpC.imm.injEq, true_and]
    refine ⟨bits_eq ?_, bits_eq ?_, bits_eq ?_, bits_eq ?_, bitOf_eq ?_, bits_eq ?_⟩ <;> omega

/-! ## The formats of two words -/

theorem eng_rest (q : Eng) (w : Nat) (hw : w < 2 ^ 46) : rawQ (engW q + w) = q ∧ engW q + w < 2 ^ 64 := by
  obtain ⟨ws, wc, ss, sc⟩ := q
  have := ws.isLt; have := wc.isLt; have := ss.isLt; have := sc.isLt
  refine ⟨?_, ?_⟩
  · simp only [rawQ, Eng.mk.injEq]
    refine ⟨bits_eq ?_, bits_eq ?_, bits_eq ?_, bits_eq ?_⟩ <;> simp only [engW] <;> omega
  · simp only [engW]; omega

/-- A field of word 1 below bit 46 does not see the semaphore fields. -/
theorem eng_div (w lo n : Nat) (q : Eng) (h : lo + n ≤ 46) :
    (engW q + w) / 2 ^ lo % 2 ^ n = w / 2 ^ lo % 2 ^ n := by
  have e : engW q = 2 ^ (lo + n) * (2 ^ (46 - (lo + n)) *
      (q.wsem.toNat * 2 ^ 13 + q.wcnt.toNat * 2 ^ 9 + q.ssem.toNat * 2 ^ 4 + q.scnt.toNat)) := by
    rw [← Nat.mul_assoc, ← Nat.pow_add, show lo + n + (46 - (lo + n)) = 46 by omega]
    simp only [engW]; omega
  rw [e, Nat.pow_add, Nat.mul_assoc, Nat.mul_comm, Nat.add_comm]
  generalize (2 ^ (46 - (lo + n)) * _ : Nat) = z
  rw [show 2 ^ n * z * 2 ^ lo = 2 ^ lo * (2 ^ n * z) by ring, Nat.add_mul_div_left _ _ (by positivity),
    Nat.add_mul_mod_self_left]

theorem eng_bits {n : Nat} (w lo : Nat) (q : Eng) (h : lo + n ≤ 46) :
    (bits (engW q + w) lo : BitVec n) = bits w lo :=
  BitVec.eq_of_toNat_eq (by simp [bits, eng_div w lo n q h])

/-- A two-word format: its encoding is two words whose opcode, sizes and reading are as they should be. -/
def ReadsTwo {F : Type} (rd : Nat → Nat → F) (enc : Nat → F → List Nat) (f : F) : Prop :=
  ∀ opc < 512, ∃ a b, enc opc f = [a, b] ∧ field a 35 9 = opc ∧ a < 2 ^ 64 ∧ b < 2 ^ 64 ∧ rd a b = f

theorem readsP (f : FmtP) : ReadsTwo rawP encP f := by
  intro opc ho
  obtain ⟨g, td, aa, ab, taga, tagb, sa, sb, ta, tb, z, q, m1, n1, k1, ma, mb, gsa, gsb⟩ := f
  have := td.isLt
  have := aa.isLt
  have := ab.isLt
  have := taga.isLt
  have := tagb.isLt
  have := sa.toNat_lt
  have := sb.toNat_lt
  have := ta.toNat_lt
  have := tb.toNat_lt
  have := z.toNat_lt
  have := m1.isLt
  have := n1.isLt
  have := k1.isLt
  have := ma.isLt
  have := mb.isLt
  have := gsa.isLt
  have := gsb.isLt
  have hw : td.toNat * 2 ^ 32 + (aa.toNat * 2 ^ 28 + (ab.toNat * 2 ^ 24 + (taga.toNat * 2 ^ 19 + (tagb.toNat * 2 ^ 14 + (sa.toNat * 2 ^ 13 + (sb.toNat * 2 ^ 12 + (ta.toNat * 2 ^ 11 + (tb.toNat * 2 ^ 10 + (z.toNat * 2 ^ 9))))))))) < 2 ^ 35 := by omega
  have hv : m1.toNat * 2 ^ 39 + (n1.toNat * 2 ^ 31 + (k1.toNat * 2 ^ 20 + (ma.toNat * 2 ^ 16 + (mb.toNat * 2 ^ 12 + (gsa.toNat * 2 ^ 10 + (gsb.toNat * 2 ^ 8)))))) < 2 ^ 46 := by clear hw; omega
  refine ⟨_, _, rfl, ?_⟩
  simp only [Nat.add_assoc]
  refine ⟨(head_rest opc _ g hw ho).1, (head_rest opc _ g hw ho).2.2, (eng_rest q _ hv).2, ?_⟩
  simp only [rawP, (head_rest opc _ g hw ho).2.1, (eng_rest q _ hv).1, low_bits, low_bitOf, eng_bits, FmtP.mk.injEq,
    Nat.reduceAdd, Nat.reduceLeDiff, true_and]
  refine ⟨bits_eq ?_, bits_eq ?_, bits_eq ?_, bits_eq ?_, bits_eq ?_, bitOf_eq ?_, bitOf_eq ?_, bitOf_eq ?_, bitOf_eq ?_, bitOf_eq ?_, bits_eq ?_, bits_eq ?_, bits_eq ?_, bits_eq ?_, bits_eq ?_, bits_eq ?_, bits_eq ?_⟩ <;> clear hw hv <;> omega

theorem readsSp (f : FmtSp) : ReadsTwo rawSp encSp f := by
  intro opc ho
  obtain ⟨g, as, ax, ay, xt, sa, sb, aq, op, q, n1⟩ := f
  have := as.isLt
  have := ax.isLt
  have := ay.isLt
  have := xt.isLt
  have := sa.toNat_lt
  have := sb.toNat_lt
  have := aq.isLt
  have := op.isLt
  have := n1.isLt
  have hw : as.toNat * 2 ^ 31 + (ax.toNat * 2 ^ 27 + (ay.toNat * 2 ^ 23 + (xt.toNat * 2 ^ 18 + (sa.toNat * 2 ^ 15 + (sb.toNat * 2 ^ 14 + (aq.toNat * 2 ^ 10 + (op.toNat * 2 ^ 6))))))) < 2 ^ 35 := by omega
  have hv : n1.toNat * 2 ^ 30 < 2 ^ 46 := by clear hw; omega
  refine ⟨_, _, rfl, ?_⟩
  simp only [Nat.add_assoc]
  refine ⟨(head_rest opc _ g hw ho).1, (head_rest opc _ g hw ho).2.2, (eng_rest q _ hv).2, ?_⟩
  simp only [rawSp, (head_rest opc _ g hw ho).2.1, (eng_rest q _ hv).1, low_bits, low_bitOf, eng_bits, FmtSp.mk.injEq,
    Nat.reduceAdd, Nat.reduceLeDiff, true_and]
  refine ⟨bits_eq ?_, bits_eq ?_, bits_eq ?_, bits_eq ?_, bitOf_eq ?_, bitOf_eq ?_, bits_eq ?_, bits_eq ?_, bits_eq ?_⟩ <;> clear hw hv <;> omega

theorem readsSo (f : FmtSo) : ReadsTwo rawSo encSo f := by
  intro opc ho
  obtain ⟨g, ak, av, ao, aw, kt, s, desc, iota, q, n1, m1, ak2, av2⟩ := f
  have := ak.isLt
  have := av.isLt
  have := ao.isLt
  have := aw.isLt
  have := kt.isLt
  have := s.toNat_lt
  have := desc.toNat_lt
  have := iota.toNat_lt
  have := n1.isLt
  have := m1.isLt
  have := ak2.isLt
  have := av2.isLt
  have hw : ak.toNat * 2 ^ 31 + (av.toNat * 2 ^ 27 + (ao.toNat * 2 ^ 23 + (aw.toNat * 2 ^ 19 + (kt.toNat * 2 ^ 14 + (s.toNat * 2 ^ 13 + (desc.toNat * 2 ^ 12 + (iota.toNat * 2 ^ 11))))))) < 2 ^ 35 := by omega
  have hv : n1.toNat * 2 ^ 30 + (m1.toNat * 2 ^ 14 + (ak2.toNat * 2 ^ 10 + (av2.toNat * 2 ^ 6))) < 2 ^ 46 := by clear hw; omega
  refine ⟨_, _, rfl, ?_⟩
  simp only [Nat.add_assoc]
  refine ⟨(head_rest opc _ g hw ho).1, (head_rest opc _ g hw ho).2.2, (eng_rest q _ hv).2, ?_⟩
  simp only [rawSo, (head_rest opc _ g hw ho).2.1, (eng_rest q _ hv).1, low_bits, low_bitOf, eng_bits, FmtSo.mk.injEq,
    Nat.reduceAdd, Nat.reduceLeDiff, true_and]
  refine ⟨bits_eq ?_, bits_eq ?_, bits_eq ?_, bits_eq ?_, bits_eq ?_, bitOf_eq ?_, bitOf_eq ?_, bitOf_eq ?_, bits_eq ?_, bits_eq ?_, bits_eq ?_, bits_eq ?_⟩ <;> clear hw hv <;> omega

theorem readsX (f : FmtX) : ReadsTwo rawX encX f := by
  intro opc ho
  obtain ⟨g, ad, as, at_, etag, rm, sat, op, xs, ch, ss, sd, q, len1, perm, arrv⟩ := f
  have := ad.isLt
  have := as.isLt
  have := at_.isLt
  have := etag.isLt
  have := rm.isLt
  have := sat.toNat_lt
  have := op.isLt
  have := xs.isLt
  have := ch.isLt
  have := ss.toNat_lt
  have := sd.toNat_lt
  have := len1.isLt
  have := perm.isLt
  have := arrv.isLt
  have hw : ad.toNat * 2 ^ 31 + (as.toNat * 2 ^ 27 + (at_.toNat * 2 ^ 23 + (etag.toNat * 2 ^ 18 + (rm.toNat * 2 ^ 16 + (sat.toNat * 2 ^ 15 + (op.toNat * 2 ^ 12 + (xs.toNat * 2 ^ 7 + (ch.toNat * 2 ^ 3 + (ss.toNat * 2 ^ 2 + (sd.toNat * 2)))))))))) < 2 ^ 35 := by omega
  have hv : len1.toNat * 2 ^ 24 + (perm.toNat * 2 ^ 16 + (arrv.toNat * 2 ^ 8)) < 2 ^ 46 := by clear hw; omega
  refine ⟨_, _, rfl, ?_⟩
  simp only [Nat.add_assoc]
  refine ⟨(head_rest opc _ g hw ho).1, (head_rest opc _ g hw ho).2.2, (eng_rest q _ hv).2, ?_⟩
  simp only [rawX, (head_rest opc _ g hw ho).2.1, (eng_rest q _ hv).1, low_bits, low_bitOf, eng_bits, FmtX.mk.injEq,
    Nat.reduceAdd, Nat.reduceLeDiff, true_and]
  refine ⟨bits_eq ?_, bits_eq ?_, bits_eq ?_, bits_eq ?_, bits_eq ?_, bitOf_eq ?_, bits_eq ?_, bits_eq ?_, bits_eq ?_, bitOf_eq ?_, bitOf_eq ?_, bits_eq ?_, bits_eq ?_, bits_eq ?_⟩ <;> clear hw hv <;> omega

theorem readsA (f : FmtA) : ReadsTwo rawA encA f := by
  intro opc ho
  obtain ⟨g, xd, aa, xs, xt, sz, s, q⟩ := f
  have := xd.isLt
  have := aa.isLt
  have := xs.isLt
  have := xt.isLt
  have := sz.toNat_lt
  have := s.toNat_lt
  have hw : xd.toNat * 2 ^ 30 + (aa.toNat * 2 ^ 26 + (xs.toNat * 2 ^ 21 + (xt.toNat * 2 ^ 16 + (sz.toNat * 2 ^ 15 + (s.toNat * 2 ^ 14))))) < 2 ^ 35 := by omega
  have hv : 0 < 2 ^ 46 := by clear hw; omega
  refine ⟨_, _, rfl, ?_⟩
  simp only [Nat.add_assoc]
  refine ⟨(head_rest opc _ g hw ho).1, (head_rest opc _ g hw ho).2.2, (eng_rest q _ hv).2, ?_⟩
  simp only [rawA, (head_rest opc _ g hw ho).2.1, (eng_rest q _ hv).1, low_bits, low_bitOf, FmtA.mk.injEq,
    Nat.reduceAdd, Nat.reduceLeDiff, true_and, and_true]
  refine ⟨bits_eq ?_, bits_eq ?_, bits_eq ?_, bits_eq ?_, bitOf_eq ?_, bitOf_eq ?_⟩ <;> clear hw hv <;> omega

end Sys2Proof.Laws
end

