-- ==== Sys2Proof/Laws/PerInstr.lean ====
section
/-! SUPPORT. For every instruction: decoding its words gives it back (03 R50 to R52). -/

namespace Sys2Proof.Laws.RoundTrip

/-- A well-formed instruction that has words: every core that accepts its opcode decodes them to it, whatever word stands
after a one-word instruction. -/
def Statement (i : Instr) : Prop :=
  i.wf = true → encode i ≠ [] → ∀ (c : CoreIx) (cls w : Nat),
    accepts c cls (field ((encode i).headD 0) 35 9) = true →
    decode c cls ((encode i).headD 0) ((encode i)[1]?.getD w) = .ok i

/-- The table look-up of raw, at an opcode given by itself. -/
noncomputable def rawAt (opc w0 w1 : Nat) : Option Instr :=
  let look (tab : List (Nat → Nat → Instr)) (base : Nat) : Option Instr :=
    (tab[opc - base]?).map (fun f => f w0 w1)
  if opc < 0x80 then look scalTab 0
  else if opc < 0x100 then look vecTab 0x80
  else if opc < 0x140 then look matTab 0x100
  else if opc < 0x160 then look spTab 0x140
  else if opc < 0x180 then look soTab 0x160
  else if opc < 0x1C0 then look xfTab 0x180
  else look syTab 0x1C0

theorem raw_at {w0 opc : Nat} (w1 : Nat) (h : field w0 35 9 = opc) : raw w0 w1 = rawAt opc w0 w1 := by
  subst h; rfl

theorem of_raw {i : Instr} {a b : Nat} (hr : raw a b = some i) (h0 : (encode i).head? = some a)
    (h1 : isTwo (field a 35 9) = true → (encode i)[1]? = some b) (ha : a < 2 ^ 64) (hb : isTwo (field a 35 9) = true → b < 2 ^ 64)
    (hw : i.wf = true) (c : CoreIx) (cls : Nat) (hac : accepts c cls (field a 35 9) = true) :
    decode c cls a b = .ok i := by
  simp only [Instr.wf, Bool.and_eq_true] at hw
  have e0 : ¬ ((encode i).head? ≠ some (a % 2 ^ 64) ∨ i.wf0 = false) := by
    rw [Nat.mod_eq_of_lt ha, h0]; simp [hw.1]
  have e1 : ¬ ((isTwo (field a 35 9) = true ∧ (encode i)[1]? ≠ some (b % 2 ^ 64)) ∨ i.wf1 = false) := by
    rintro (⟨ht, hn⟩ | hn)
    · rw [Nat.mod_eq_of_lt (hb ht), h1 ht] at hn; exact hn rfl
    · simp [hw.2] at hn
  simp only [decode, hac, if_true, hr, if_neg e0, if_neg e1]

/-- An instruction of one word. -/
theorem oneWord {F : Type} {rd : Nat → F} {enc : Nat → F → Nat} {f : F} {mk : F → Instr} {opc : Nat} (hf : Reads rd enc f)
    (ho : opc < 512) (ht : isTwo opc = false) (he : encode (mk f) = [enc opc f])
    (hr : (mk f).wf = true → ∀ w0 w1, rd w0 = f → rawAt opc w0 w1 = some (mk f)) : Statement (mk f) := by
  intro hw _ c cls w hac
  obtain ⟨h1, h2, h3⟩ := hf opc ho
  rw [he] at hac ⊢
  refine of_raw (by rw [raw_at _ h1]; exact hr hw _ _ h2) (by rw [he]; rfl) ?_ h3 ?_ hw c cls hac <;>
    rw [h1, ht] <;> exact fun h => nomatch h

/-- An instruction of two words in one of the shared formats. -/
theorem twoWords {F : Type} {rd : Nat → Nat → F} {enc : Nat → F → List Nat} {f : F} {mk : F → Instr} {opc : Nat}
    (hf : ReadsTwo rd enc f) (ho : opc < 512) (he : encode (mk f) = enc opc f)
    (hr : ∀ w0 w1, rd w0 w1 = f → rawAt opc w0 w1 = some (mk f)) : Statement (mk f) := by
  intro hw _ c cls w hac
  obtain ⟨a, b, e, h1, h2, h3, h4⟩ := hf opc ho
  rw [he, e] at hac ⊢
  exact of_raw (by rw [raw_at _ h1]; exact hr _ _ h4) (by rw [he, e]; rfl) (fun _ => by rw [he, e]; rfl) h2 (fun _ => h3) hw
    c cls hac

/-- An instruction of two words with fields of its own. -/
theorem ownFields {i : Instr} {opc b0 b1 : Nat} {g : Guard} {q : Eng} (ho : opc < 512) (he : encode i = two opc g q b0 b1)
    (h0 : b0 < 2 ^ 35) (h1 : b1 < 2 ^ 46)
    (hr : rawG (head opc g + b0) = g → rawQ (engW q + b1) = q → rawAt opc (head opc g + b0) (engW q + b1) = some i) :
    Statement i := by
  intro hw _ c cls w hac
  obtain ⟨e1, e2, e3⟩ := head_rest opc b0 g h0 ho
  obtain ⟨e4, e5⟩ := eng_rest q b1 h1
  rw [he] at hac ⊢
  exact of_raw ((raw_at _ e1).trans (hr e2 e4)) (by rw [he]; rfl) (fun _ => by rw [he]; rfl) e3
    (fun _ => e5) hw c cls hac

theorem event {i : Instr} (h : encode i = []) : Statement i := fun _ hn => absurd h hn


theorem wf0_of {i : Instr} {b : Bool} (hw : i.wf = true) (h : i.wf0 = b) : b = true :=
  h ▸ ((Bool.and_eq_true _ _).mp hw).1

theorem at_5f (w0 w1 : Nat) :
    rawAt 0x5f w0 w1 = some (if field w0 28 5 = 11 then .fwslotCommit (rawS w0) else .mts (rawS w0)) := rfl
theorem at_81 (w0 w1 : Nat) :
    rawAt 0x81 w0 w1 = some (if bitOf w0 5 then .vsplatSlot (rawV w0) else .vsplatV (rawV w0)) := rfl
theorem at_1c2 (w0 w1 : Nat) : rawAt 0x1c2 w0 w1 = some (rawEcall w0) := rfl

theorem d_field {w : Nat} {f : FmtS} (h : rawS w = f) : field w 28 5 = f.d.toNat := by
  subst h; simp [rawS, bits, field]

theorem sub_field {w : Nat} {f : FmtV} (h : rawV w = f) : w % 64 = f.sub.toNat := by
  subst h; simp [rawV, bits]

theorem imm_field {w : Nat} {f : FmtY} (h : rawY w = f) : field w 0 16 = f.imm.toNat := by
  subst h; simp [rawY, bits, field]

theorem ecall_0 {w : Nat} (h : field w 0 16 = 0) : rawEcall w = .ecallTime (rawY w) := by simp only [rawEcall, h]
theorem ecall_1 {w : Nat} (h : field w 0 16 = 1) : rawEcall w = .ecallErrorCount (rawY w) := by simp only [rawEcall, h]
theorem ecall_2 {w : Nat} (h : field w 0 16 = 2) : rawEcall w = .ecallLocation (rawY w) := by simp only [rawEcall, h]
theorem ecall_3 {w : Nat} (h : field w 0 16 = 3) : rawEcall w = .ecallDiscovery (rawY w) := by simp only [rawEcall, h]
theorem ecall_4 {w : Nat} (h : 4 ≤ field w 0 16) : rawEcall w = .ecallUnsupported (rawY w) := by
  obtain ⟨k, hk⟩ : ∃ k, field w 0 16 = k + 4 := ⟨_, (Nat.sub_add_cancel h).symm⟩
  simp only [rawEcall, hk]

theorem mcfg_0 (w0 w1 : Nat) (h : field w0 32 3 = 0) :
    rawMcfg w0 w1 = .mcfgKset (rawG w0) (rawQ w1) (bits w0 28) (bits w0 23) := by simp only [rawMcfg, h]
theorem mcfg_1 (w0 w1 : Nat) (h : field w0 32 3 = 1) :
    rawMcfg w0 w1 = .mcfgKput (rawG w0) (rawQ w1) (bits w0 28) (bits w0 23) (bitOf w0 22) := by simp only [rawMcfg, h]
theorem mcfg_2 (w0 w1 : Nat) (h : field w0 32 3 = 2) : rawMcfg w0 w1 =
    .mcfgKlut (rawG w0) (rawQ w1) (bits w0 28) (bits w0 24) (bits w0 20) (bits w0 16) (bits w0 8) := by
  simp only [rawMcfg, h]

theorem nop (f : FmtS) : Statement (.nop f) :=
  oneWord (mk := .nop) (opc := 0x0) (readsS f) (by decide) rfl rfl (fun _ _ _ h => h ▸ rfl)

theorem mov (f : FmtS) : Statement (.mov f) :=
  oneWord (mk := .mov) (opc := 0x1) (readsS f) (by decide) rfl rfl (fun _ _ _ h => h ▸ rfl)

theorem movhi (f : FmtS) : Statement (.movhi f) :=
  oneWord (mk := .movhi) (opc := 0x2) (readsS f) (by decide) rfl rfl (fun _ _ _ h => h ▸ rfl)

theorem add (f : FmtS) : Statement (.add f) :=
  oneWord (mk := .add) (opc := 0x3) (readsS f) (by decide) rfl rfl (fun _ _ _ h => h ▸ rfl)

theorem sub (f : FmtS) : Statement (.sub f) :=
  oneWord (mk := .sub) (opc := 0x4) (readsS f) (by decide) rfl rfl (fun _ _ _ h => h ▸ rfl)

theorem mul (f : FmtS) : Statement (.mul f) :=
  oneWord (mk := .mul) (opc := 0x5) (readsS f) (by decide) rfl rfl (fun _ _ _ h => h ▸ rfl)

theorem mulh (f : FmtS) : Statement (.mulh f) :=
  oneWord (mk := .mulh) (opc := 0x6) (readsS f) (by decide) rfl rfl (fun _ _ _ h => h ▸ rfl)

theorem mulhu (f : FmtS) : Statement (.mulhu f) :=
  oneWord (mk := .mulhu) (opc := 0x7) (readsS f) (by decide) rfl rfl (fun _ _ _ h => h ▸ rfl)

theorem div (f : FmtS) : Statement (.div f) :=
  oneWord (mk := .div) (opc := 0x8) (readsS f) (by decide) rfl rfl (fun _ _ _ h => h ▸ rfl)

theorem divu (f : FmtS) : Statement (.divu f) :=
  oneWord (mk := .divu) (opc := 0x9) (readsS f) (by decide) rfl rfl (fun _ _ _ h => h ▸ rfl)

theorem rem (f : FmtS) : Statement (.rem f) :=
  oneWord (mk := .rem) (opc := 0xa) (readsS f) (by decide) rfl rfl (fun _ _ _ h => h ▸ rfl)

theorem remu (f : FmtS) : Statement (.remu f) :=
  oneWord (mk := .remu) (opc := 0xb) (readsS f) (by decide) rfl rfl (fun _ _ _ h => h ▸ rfl)

theorem min (f : FmtS) : Statement (.min f) :=
  oneWord (mk := .min) (opc := 0xc) (readsS f) (by decide) rfl rfl (fun _ _ _ h => h ▸ rfl)

theorem max (f : FmtS) : Statement (.max f) :=
  oneWord (mk := .max) (opc := 0xd) (readsS f) (by decide) rfl rfl (fun _ _ _ h => h ▸ rfl)

theorem minu (f : FmtS) : Statement (.minu f) :=
  oneWord (mk := .minu) (opc := 0xe) (readsS f) (by decide) rfl rfl (fun _ _ _ h => h ▸ rfl)

theorem maxu (f : FmtS) : Statement (.maxu f) :=
  oneWord (mk := .maxu) (opc := 0xf) (readsS f) (by decide) rfl rfl (fun _ _ _ h => h ▸ rfl)

theorem abs (f : FmtS) : Statement (.abs f) :=
  oneWord (mk := .abs) (opc := 0x10) (readsS f) (by decide) rfl rfl (fun _ _ _ h => h ▸ rfl)

theorem and (f : FmtS) : Statement (.and f) :=
  oneWord (mk := .and) (opc := 0x11) (readsS f) (by decide) rfl rfl (fun _ _ _ h => h ▸ rfl)

theorem or (f : FmtS) : Statement (.or f) :=
  oneWord (mk := .or) (opc := 0x12) (readsS f) (by decide) rfl rfl (fun _ _ _ h => h ▸ rfl)

theorem xor (f : FmtS) : Statement (.xor f) :=
  oneWord (mk := .xor) (opc := 0x13) (readsS f) (by decide) rfl rfl (fun _ _ _ h => h ▸ rfl)

theorem andn (f : FmtS) : Statement (.andn f) :=
  oneWord (mk := .andn) (opc := 0x14) (readsS f) (by decide) rfl rfl (fun _ _ _ h => h ▸ rfl)

theorem orn (f : FmtS) : Statement (.orn f) :=
  oneWord (mk := .orn) (opc := 0x15) (readsS f) (by decide) rfl rfl (fun _ _ _ h => h ▸ rfl)

theorem lut3 (f : FmtS) : Statement (.lut3 f) :=
  oneWord (mk := .lut3) (opc := 0x16) (readsS f) (by decide) rfl rfl (fun _ _ _ h => h ▸ rfl)

theorem shl (f : FmtS) : Statement (.shl f) :=
  oneWord (mk := .shl) (opc := 0x17) (readsS f) (by decide) rfl rfl (fun _ _ _ h => h ▸ rfl)

theorem shr (f : FmtS) : Statement (.shr f) :=
  oneWord (mk := .shr) (opc := 0x18) (readsS f) (by decide) rfl rfl (fun _ _ _ h => h ▸ rfl)

theorem sar (f : FmtS) : Statement (.sar f) :=
  oneWord (mk := .sar) (opc := 0x19) (readsS f) (by decide) rfl rfl (fun _ _ _ h => h ▸ rfl)

theorem rol (f : FmtS) : Statement (.rol f) :=
  oneWord (mk := .rol) (opc := 0x1a) (readsS f) (by decide) rfl rfl (fun _ _ _ h => h ▸ rfl)

theorem fshl (f : FmtS) : Statement (.fshl f) :=
  oneWord (mk := .fshl) (opc := 0x1b) (readsS f) (by decide) rfl rfl (fun _ _ _ h => h ▸ rfl)

theorem fshr (f : FmtS) : Statement (.fshr f) :=
  oneWord (mk := .fshr) (opc := 0x1c) (readsS f) (by decide) rfl rfl (fun _ _ _ h => h ▸ rfl)

theorem clz (f : FmtS) : Statement (.clz f) :=
  oneWord (mk := .clz) (opc := 0x1d) (readsS f) (by decide) rfl rfl (fun _ _ _ h => h ▸ rfl)

theorem ctz (f : FmtS) : Statement (.ctz f) :=
  oneWord (mk := .ctz) (opc := 0x1e) (readsS f) (by decide) rfl rfl (fun _ _ _ h => h ▸ rfl)

theorem popc (f : FmtS) : Statement (.popc f) :=
  oneWord (mk := .popc) (opc := 0x1f) (readsS f) (by decide) rfl rfl (fun _ _ _ h => h ▸ rfl)

theorem sext (f : FmtS) : Statement (.sext f) :=
  oneWord (mk := .sext) (opc := 0x20) (readsS f) (by decide) rfl rfl (fun _ _ _ h => h ▸ rfl)

theorem zext (f : FmtS) : Statement (.zext f) :=
  oneWord (mk := .zext) (opc := 0x21) (readsS f) (by decide) rfl rfl (fun _ _ _ h => h ▸ rfl)

theorem bfx (f : FmtS) : Statement (.bfx f) :=
  oneWord (mk := .bfx) (opc := 0x22) (readsS f) (by decide) rfl rfl (fun _ _ _ h => h ▸ rfl)

theorem bfxu (f : FmtS) : Statement (.bfxu f) :=
  oneWord (mk := .bfxu) (opc := 0x23) (readsS f) (by decide) rfl rfl (fun _ _ _ h => h ▸ rfl)

theorem bfi (f : FmtS) : Statement (.bfi f) :=
  oneWord (mk := .bfi) (opc := 0x24) (readsS f) (by decide) rfl rfl (fun _ _ _ h => h ▸ rfl)

theorem sel (f : FmtS) : Statement (.sel f) :=
  oneWord (mk := .sel) (opc := 0x25) (readsS f) (by decide) rfl rfl (fun _ _ _ h => h ▸ rfl)

theorem cmpEq (f : FmtC) : Statement (.cmpEq f) :=
  oneWord (mk := .cmpEq) (opc := 0x26) (readsC f) (by decide) rfl rfl (fun _ _ _ h => h ▸ rfl)

theorem cmpNe (f : FmtC) : Statement (.cmpNe f) :=
  oneWord (mk := .cmpNe) (opc := 0x27) (readsC f) (by decide) rfl rfl (fun _ _ _ h => h ▸ rfl)

theorem cmpLt (f : FmtC) : Statement (.cmpLt f) :=
  oneWord (mk := .cmpLt) (opc := 0x28) (readsC f) (by decide) rfl rfl (fun _ _ _ h => h ▸ rfl)

theorem cmpLe (f : FmtC) : Statement (.cmpLe f) :=
  oneWord (mk := .cmpLe) (opc := 0x29) (readsC f) (by decide) rfl rfl (fun _ _ _ h => h ▸ rfl)

theorem cmpGt (f : FmtC) : Statement (.cmpGt f) :=
  oneWord (mk := .cmpGt) (opc := 0x2a) (readsC f) (by decide) rfl rfl (fun _ _ _ h => h ▸ rfl)

theorem cmpGe (f : FmtC) : Statement (.cmpGe f) :=
  oneWord (mk := .cmpGe) (opc := 0x2b) (readsC f) (by decide) rfl rfl (fun _ _ _ h => h ▸ rfl)

theorem cmpLtu (f : FmtC) : Statement (.cmpLtu f) :=
  oneWord (mk := .cmpLtu) (opc := 0x2c) (readsC f) (by decide) rfl rfl (fun _ _ _ h => h ▸ rfl)

theorem cmpLeu (f : FmtC) : Statement (.cmpLeu f) :=
  oneWord (mk := .cmpLeu) (opc := 0x2d) (readsC f) (by decide) rfl rfl (fun _ _ _ h => h ▸ rfl)

theorem cmpGtu (f : FmtC) : Statement (.cmpGtu f) :=
  oneWord (mk := .cmpGtu) (opc := 0x2e) (readsC f) (by decide) rfl rfl (fun _ _ _ h => h ▸ rfl)

theorem cmpGeu (f : FmtC) : Statement (.cmpGeu f) :=
  oneWord (mk := .cmpGeu) (opc := 0x2f) (readsC f) (by decide) rfl rfl (fun _ _ _ h => h ▸ rfl)

theorem tstZ (f : FmtC) : Statement (.tstZ f) :=
  oneWord (mk := .tstZ) (opc := 0x30) (readsC f) (by decide) rfl rfl (fun _ _ _ h => h ▸ rfl)

theorem tstNz (f : FmtC) : Statement (.tstNz f) :=
  oneWord (mk := .tstNz) (opc := 0x31) (readsC f) (by decide) rfl rfl (fun _ _ _ h => h ▸ rfl)

theorem plut (f : FmtS) : Statement (.plut f) :=
  oneWord (mk := .plut) (opc := 0x32) (readsS f) (by decide) rfl rfl (fun _ _ _ h => h ▸ rfl)

theorem pget (f : FmtS) : Statement (.pget f) :=
  oneWord (mk := .pget) (opc := 0x33) (readsS f) (by decide) rfl rfl (fun _ _ _ h => h ▸ rfl)

theorem pput (f : FmtS) : Statement (.pput f) :=
  oneWord (mk := .pput) (opc := 0x34) (readsS f) (by decide) rfl rfl (fun _ _ _ h => h ▸ rfl)

theorem fadd (f : FmtS) : Statement (.fadd f) :=
  oneWord (mk := .fadd) (opc := 0x35) (readsS f) (by decide) rfl rfl (fun _ _ _ h => h ▸ rfl)

theorem fsub (f : FmtS) : Statement (.fsub f) :=
  oneWord (mk := .fsub) (opc := 0x36) (readsS f) (by decide) rfl rfl (fun _ _ _ h => h ▸ rfl)

theorem fmul (f : FmtS) : Statement (.fmul f) :=
  oneWord (mk := .fmul) (opc := 0x37) (readsS f) (by decide) rfl rfl (fun _ _ _ h => h ▸ rfl)

theorem ffma (f : FmtS) : Statement (.ffma f) :=
  oneWord (mk := .ffma) (opc := 0x38) (readsS f) (by decide) rfl rfl (fun _ _ _ h => h ▸ rfl)

theorem fmin (f : FmtS) : Statement (.fmin f) :=
  oneWord (mk := .fmin) (opc := 0x39) (readsS f) (by decide) rfl rfl (fun _ _ _ h => h ▸ rfl)

theorem fmax (f : FmtS) : Statement (.fmax f) :=
  oneWord (mk := .fmax) (opc := 0x3a) (readsS f) (by decide) rfl rfl (fun _ _ _ h => h ▸ rfl)

theorem fcvtIf (f : FmtS) : Statement (.fcvtIf f) :=
  oneWord (mk := .fcvtIf) (opc := 0x3b) (readsS f) (by decide) rfl rfl (fun _ _ _ h => h ▸ rfl)

theorem fcvtFi (f : FmtS) : Statement (.fcvtFi f) :=
  oneWord (mk := .fcvtFi) (opc := 0x3c) (readsS f) (by decide) rfl rfl (fun _ _ _ h => h ▸ rfl)

theorem fcmpEq (f : FmtC) : Statement (.fcmpEq f) :=
  oneWord (mk := .fcmpEq) (opc := 0x3d) (readsC f) (by decide) rfl rfl (fun _ _ _ h => h ▸ rfl)

theorem fcmpLt (f : FmtC) : Statement (.fcmpLt f) :=
  oneWord (mk := .fcmpLt) (opc := 0x3e) (readsC f) (by decide) rfl rfl (fun _ _ _ h => h ▸ rfl)

theorem fcmpLe (f : FmtC) : Statement (.fcmpLe f) :=
  oneWord (mk := .fcmpLe) (opc := 0x3f) (readsC f) (by decide) rfl rfl (fun _ _ _ h => h ▸ rfl)

theorem fcmpUn (f : FmtC) : Statement (.fcmpUn f) :=
  oneWord (mk := .fcmpUn) (opc := 0x40) (readsC f) (by decide) rfl rfl (fun _ _ _ h => h ▸ rfl)

theorem acap (f : FmtS) : Statement (.acap f) :=
  oneWord (mk := .acap) (opc := 0x41) (readsS f) (by decide) rfl rfl (fun _ _ _ h => h ▸ rfl)

theorem amov (f : FmtS) : Statement (.amov f) :=
  oneWord (mk := .amov) (opc := 0x42) (readsS f) (by decide) rfl rfl (fun _ _ _ h => h ▸ rfl)

theorem aset (f : FmtS) : Statement (.aset f) :=
  oneWord (mk := .aset) (opc := 0x43) (readsS f) (by decide) rfl rfl (fun _ _ _ h => h ▸ rfl)

theorem aadd (f : FmtS) : Statement (.aadd f) :=
  oneWord (mk := .aadd) (opc := 0x44) (readsS f) (by decide) rfl rfl (fun _ _ _ h => h ▸ rfl)

theorem anrw (f : FmtS) : Statement (.anrw f) :=
  oneWord (mk := .anrw) (opc := 0x45) (readsS f) (by decide) rfl rfl (fun _ _ _ h => h ▸ rfl)

theorem aget (f : FmtS) : Statement (.aget f) :=
  oneWord (mk := .aget) (opc := 0x46) (readsS f) (by decide) rfl rfl (fun _ _ _ h => h ▸ rfl)

theorem ld (f : FmtM) : Statement (.ld f) :=
  oneWord (mk := .ld) (opc := 0x47) (readsM f) (by decide) rfl rfl (fun _ _ _ h => h ▸ rfl)

theorem ldu (f : FmtM) : Statement (.ldu f) :=
  oneWord (mk := .ldu) (opc := 0x48) (readsM f) (by decide) rfl rfl (fun _ _ _ h => h ▸ rfl)

theorem st (f : FmtM) : Statement (.st f) :=
  oneWord (mk := .st) (opc := 0x49) (readsM f) (by decide) rfl rfl (fun _ _ _ h => h ▸ rfl)

theorem lds (f : FmtM) : Statement (.lds f) :=
  oneWord (mk := .lds) (opc := 0x4a) (readsM f) (by decide) rfl rfl (fun _ _ _ h => h ▸ rfl)

theorem pchk (f : FmtS) : Statement (.pchk f) :=
  oneWord (mk := .pchk) (opc := 0x4b) (readsS f) (by decide) rfl rfl (fun _ _ _ h => h ▸ rfl)

theorem ldpf (f : FmtM) : Statement (.ldpf f) :=
  oneWord (mk := .ldpf) (opc := 0x4c) (readsM f) (by decide) rfl rfl (fun _ _ _ h => h ▸ rfl)

theorem br (f : FmtBD) : Statement (.br f) :=
  oneWord (mk := .br) (opc := 0x4d) (readsBD f) (by decide) rfl rfl (fun _ _ _ h => h ▸ rfl)

theorem brx (f : FmtBR) : Statement (.brx f) :=
  oneWord (mk := .brx) (opc := 0x4e) (readsBR f) (by decide) rfl rfl (fun _ _ _ h => h ▸ rfl)

theorem call (f : FmtBD) : Statement (.call f) :=
  oneWord (mk := .call) (opc := 0x4f) (readsBD f) (by decide) rfl rfl (fun _ _ _ h => h ▸ rfl)

theorem ret (f : FmtBR) : Statement (.ret f) :=
  oneWord (mk := .ret) (opc := 0x50) (readsBR f) (by decide) rfl rfl (fun _ _ _ h => h ▸ rfl)

theorem mloop (f : FmtBL) : Statement (.mloop f) :=
  oneWord (mk := .mloop) (opc := 0x51) (readsBL f) (by decide) rfl rfl (fun _ _ _ h => h ▸ rfl)

theorem brlc (f : FmtBD) : Statement (.brlc f) :=
  oneWord (mk := .brlc) (opc := 0x52) (readsBD f) (by decide) rfl rfl (fun _ _ _ h => h ▸ rfl)

theorem rbset (f : FmtS) : Statement (.rbset f) :=
  oneWord (mk := .rbset) (opc := 0x53) (readsS f) (by decide) rfl rfl (fun _ _ _ h => h ▸ rfl)

theorem semsig (f : FmtS) : Statement (.semsig f) :=
  oneWord (mk := .semsig) (opc := 0x54) (readsS f) (by decide) rfl rfl (fun _ _ _ h => h ▸ rfl)

theorem semwait (f : FmtS) : Statement (.semwait f) :=
  oneWord (mk := .semwait) (opc := 0x55) (readsS f) (by decide) rfl rfl (fun _ _ _ h => h ▸ rfl)

theorem semtry (f : FmtS) : Statement (.semtry f) :=
  oneWord (mk := .semtry) (opc := 0x56) (readsS f) (by decide) rfl rfl (fun _ _ _ h => h ▸ rfl)

theorem mtxlock (f : FmtS) : Statement (.mtxlock f) :=
  oneWord (mk := .mtxlock) (opc := 0x57) (readsS f) (by decide) rfl rfl (fun _ _ _ h => h ▸ rfl)

theorem mtxtry (f : FmtS) : Statement (.mtxtry f) :=
  oneWord (mk := .mtxtry) (opc := 0x58) (readsS f) (by decide) rfl rfl (fun _ _ _ h => h ▸ rfl)

theorem mtxfree (f : FmtS) : Statement (.mtxfree f) :=
  oneWord (mk := .mtxfree) (opc := 0x59) (readsS f) (by decide) rfl rfl (fun _ _ _ h => h ▸ rfl)

theorem xempty (f : FmtS) : Statement (.xempty f) :=
  oneWord (mk := .xempty) (opc := 0x5a) (readsS f) (by decide) rfl rfl (fun _ _ _ h => h ▸ rfl)

theorem xfullq (f : FmtS) : Statement (.xfullq f) :=
  oneWord (mk := .xfullq) (opc := 0x5b) (readsS f) (by decide) rfl rfl (fun _ _ _ h => h ▸ rfl)

theorem eqdrain (f : FmtS) : Statement (.eqdrain f) :=
  oneWord (mk := .eqdrain) (opc := 0x5c) (readsS f) (by decide) rfl rfl (fun _ _ _ h => h ▸ rfl)

theorem eqlevel (f : FmtS) : Statement (.eqlevel f) :=
  oneWord (mk := .eqlevel) (opc := 0x5d) (readsS f) (by decide) rfl rfl (fun _ _ _ h => h ▸ rfl)

theorem mfs (f : FmtS) : Statement (.mfs f) :=
  oneWord (mk := .mfs) (opc := 0x5e) (readsS f) (by decide) rfl rfl (fun _ _ _ h => h ▸ rfl)

theorem mts (f : FmtS) : Statement (.mts f) :=
  oneWord (mk := .mts) (opc := 0x5f) (readsS f) (by decide) rfl rfl (fun hw w0 w1 h => by
    have hw := wf0_of (b := sOk .spec .x o2Zero f && f.d != 11) hw rfl
    simp only [Bool.and_eq_true, bne_iff_ne] at hw
    rw [at_5f, if_neg (by rw [d_field h]; exact fun e => hw.2 (BitVec.eq_of_toNat_eq e)), h])

theorem cwbind (f : FmtS) : Statement (.cwbind f) :=
  oneWord (mk := .cwbind) (opc := 0x60) (readsS f) (by decide) rfl rfl (fun _ _ _ h => h ▸ rfl)

theorem waitwp (f : FmtS) : Statement (.waitwp f) :=
  oneWord (mk := .waitwp) (opc := 0x61) (readsS f) (by decide) rfl rfl (fun _ _ _ h => h ▸ rfl)

theorem done (f : FmtS) : Statement (.done f) :=
  oneWord (mk := .done) (opc := 0x62) (readsS f) (by decide) rfl rfl (fun _ _ _ h => h ▸ rfl)

theorem pause (f : FmtS) : Statement (.pause f) :=
  oneWord (mk := .pause) (opc := 0x63) (readsS f) (by decide) rfl rfl (fun _ _ _ h => h ▸ rfl)

theorem vmov (f : FmtV) : Statement (.vmov f) :=
  oneWord (mk := .vmov) (opc := 0x80) (readsV f) (by decide) rfl rfl (fun _ _ _ h => h ▸ rfl)

theorem vsplatV (f : FmtV) : Statement (.vsplatV f) :=
  oneWord (mk := .vsplatV) (opc := 0x81) (readsV f) (by decide) rfl rfl (fun hw w0 w1 h => by
    have hw := wf0_of (b := splatVOk f) hw rfl
    simp only [splatVOk, vOk, Bool.and_eq_true, decide_eq_true_eq] at hw
    rw [at_81, if_neg (by have := sub_field h; simp only [bitOf, beq_iff_eq]; omega), h])

theorem vsplatSlot (f : FmtV) : Statement (.vsplatSlot f) :=
  oneWord (mk := .vsplatSlot) (opc := 0x81) (readsV f) (by decide) rfl rfl (fun hw w0 w1 h => by
    have hw := wf0_of (b := splatSlotOk f) hw rfl
    simp only [splatSlotOk, vOk, Bool.and_eq_true, decide_eq_true_eq] at hw
    rw [at_81, if_pos (by have := sub_field h; simp only [bitOf, beq_iff_eq]; omega), h])

theorem vzero (f : FmtV) : Statement (.vzero f) :=
  oneWord (mk := .vzero) (opc := 0x82) (readsV f) (by decide) rfl rfl (fun _ _ _ h => h ▸ rfl)

theorem vtag (f : FmtV) : Statement (.vtag f) :=
  oneWord (mk := .vtag) (opc := 0x83) (readsV f) (by decide) rfl rfl (fun _ _ _ h => h ▸ rfl)

theorem vadd (f : FmtV) : Statement (.vadd f) :=
  oneWord (mk := .vadd) (opc := 0x84) (readsV f) (by decide) rfl rfl (fun _ _ _ h => h ▸ rfl)

theorem vsub (f : FmtV) : Statement (.vsub f) :=
  oneWord (mk := .vsub) (opc := 0x85) (readsV f) (by decide) rfl rfl (fun _ _ _ h => h ▸ rfl)

theorem vmul (f : FmtV) : Statement (.vmul f) :=
  oneWord (mk := .vmul) (opc := 0x86) (readsV f) (by decide) rfl rfl (fun _ _ _ h => h ▸ rfl)

theorem vfma (f : FmtV) : Statement (.vfma f) :=
  oneWord (mk := .vfma) (opc := 0x87) (readsV f) (by decide) rfl rfl (fun _ _ _ h => h ▸ rfl)

theorem vfms (f : FmtV) : Statement (.vfms f) :=
  oneWord (mk := .vfms) (opc := 0x88) (readsV f) (by decide) rfl rfl (fun _ _ _ h => h ▸ rfl)

theorem vfnma (f : FmtV) : Statement (.vfnma f) :=
  oneWord (mk := .vfnma) (opc := 0x89) (readsV f) (by decide) rfl rfl (fun _ _ _ h => h ▸ rfl)

theorem vdiv (f : FmtV) : Statement (.vdiv f) :=
  oneWord (mk := .vdiv) (opc := 0x8a) (readsV f) (by decide) rfl rfl (fun _ _ _ h => h ▸ rfl)

theorem vmin (f : FmtV) : Statement (.vmin f) :=
  oneWord (mk := .vmin) (opc := 0x8b) (readsV f) (by decide) rfl rfl (fun _ _ _ h => h ▸ rfl)

theorem vmax (f : FmtV) : Statement (.vmax f) :=
  oneWord (mk := .vmax) (opc := 0x8c) (readsV f) (by decide) rfl rfl (fun _ _ _ h => h ▸ rfl)

theorem vabs (f : FmtV) : Statement (.vabs f) :=
  oneWord (mk := .vabs) (opc := 0x8d) (readsV f) (by decide) rfl rfl (fun _ _ _ h => h ▸ rfl)

theorem vneg (f : FmtV) : Statement (.vneg f) :=
  oneWord (mk := .vneg) (opc := 0x8e) (readsV f) (by decide) rfl rfl (fun _ _ _ h => h ▸ rfl)

theorem vclamp (f : FmtV) : Statement (.vclamp f) :=
  oneWord (mk := .vclamp) (opc := 0x8f) (readsV f) (by decide) rfl rfl (fun _ _ _ h => h ▸ rfl)

theorem vsgn (f : FmtV) : Statement (.vsgn f) :=
  oneWord (mk := .vsgn) (opc := 0x90) (readsV f) (by decide) rfl rfl (fun _ _ _ h => h ▸ rfl)

theorem vround (f : FmtV) : Statement (.vround f) :=
  oneWord (mk := .vround) (opc := 0x91) (readsV f) (by decide) rfl rfl (fun _ _ _ h => h ▸ rfl)

theorem vrsq (f : FmtV) : Statement (.vrsq f) :=
  oneWord (mk := .vrsq) (opc := 0x92) (readsV f) (by decide) rfl rfl (fun _ _ _ h => h ▸ rfl)

theorem vrcp (f : FmtV) : Statement (.vrcp f) :=
  oneWord (mk := .vrcp) (opc := 0x93) (readsV f) (by decide) rfl rfl (fun _ _ _ h => h ▸ rfl)

theorem vexp2 (f : FmtV) : Statement (.vexp2 f) :=
  oneWord (mk := .vexp2) (opc := 0x94) (readsV f) (by decide) rfl rfl (fun _ _ _ h => h ▸ rfl)

theorem vlog2 (f : FmtV) : Statement (.vlog2 f) :=
  oneWord (mk := .vlog2) (opc := 0x95) (readsV f) (by decide) rfl rfl (fun _ _ _ h => h ▸ rfl)

theorem vactRelu (f : FmtV) : Statement (.vactRelu f) :=
  oneWord (mk := .vactRelu) (opc := 0x96) (readsV f) (by decide) rfl rfl (fun _ _ _ h => h ▸ rfl)

theorem vactGelu (f : FmtV) : Statement (.vactGelu f) :=
  oneWord (mk := .vactGelu) (opc := 0x97) (readsV f) (by decide) rfl rfl (fun _ _ _ h => h ▸ rfl)

theorem vactSilu (f : FmtV) : Statement (.vactSilu f) :=
  oneWord (mk := .vactSilu) (opc := 0x98) (readsV f) (by decide) rfl rfl (fun _ _ _ h => h ▸ rfl)

theorem vactTanh (f : FmtV) : Statement (.vactTanh f) :=
  oneWord (mk := .vactTanh) (opc := 0x99) (readsV f) (by decide) rfl rfl (fun _ _ _ h => h ▸ rfl)

theorem vactSigm (f : FmtV) : Statement (.vactSigm f) :=
  oneWord (mk := .vactSigm) (opc := 0x9a) (readsV f) (by decide) rfl rfl (fun _ _ _ h => h ▸ rfl)

theorem vdot4 (f : FmtV) : Statement (.vdot4 f) :=
  oneWord (mk := .vdot4) (opc := 0x9b) (readsV f) (by decide) rfl rfl (fun _ _ _ h => h ▸ rfl)

theorem vand (f : FmtV) : Statement (.vand f) :=
  oneWord (mk := .vand) (opc := 0x9c) (readsV f) (by decide) rfl rfl (fun _ _ _ h => h ▸ rfl)

theorem vor (f : FmtV) : Statement (.vor f) :=
  oneWord (mk := .vor) (opc := 0x9d) (readsV f) (by decide) rfl rfl (fun _ _ _ h => h ▸ rfl)

theorem vxor (f : FmtV) : Statement (.vxor f) :=
  oneWord (mk := .vxor) (opc := 0x9e) (readsV f) (by decide) rfl rfl (fun _ _ _ h => h ▸ rfl)

theorem vlut3 (f : FmtV) : Statement (.vlut3 f) :=
  oneWord (mk := .vlut3) (opc := 0x9f) (readsV f) (by decide) rfl rfl (fun _ _ _ h => h ▸ rfl)

theorem vshl (f : FmtV) : Statement (.vshl f) :=
  oneWord (mk := .vshl) (opc := 0xa0) (readsV f) (by decide) rfl rfl (fun _ _ _ h => h ▸ rfl)

theorem vshr (f : FmtV) : Statement (.vshr f) :=
  oneWord (mk := .vshr) (opc := 0xa1) (readsV f) (by decide) rfl rfl (fun _ _ _ h => h ▸ rfl)

theorem vsar (f : FmtV) : Statement (.vsar f) :=
  oneWord (mk := .vsar) (opc := 0xa2) (readsV f) (by decide) rfl rfl (fun _ _ _ h => h ▸ rfl)

theorem vfshl (f : FmtV) : Statement (.vfshl f) :=
  oneWord (mk := .vfshl) (opc := 0xa3) (readsV f) (by decide) rfl rfl (fun _ _ _ h => h ▸ rfl)

theorem vfshr (f : FmtV) : Statement (.vfshr f) :=
  oneWord (mk := .vfshr) (opc := 0xa4) (readsV f) (by decide) rfl rfl (fun _ _ _ h => h ▸ rfl)

theorem vpopc (f : FmtV) : Statement (.vpopc f) :=
  oneWord (mk := .vpopc) (opc := 0xa5) (readsV f) (by decide) rfl rfl (fun _ _ _ h => h ▸ rfl)

theorem vclz (f : FmtV) : Statement (.vclz f) :=
  oneWord (mk := .vclz) (opc := 0xa6) (readsV f) (by decide) rfl rfl (fun _ _ _ h => h ▸ rfl)

theorem vcmpEq (f : FmtV) : Statement (.vcmpEq f) :=
  oneWord (mk := .vcmpEq) (opc := 0xa7) (readsV f) (by decide) rfl rfl (fun _ _ _ h => h ▸ rfl)

theorem vcmpNe (f : FmtV) : Statement (.vcmpNe f) :=
  oneWord (mk := .vcmpNe) (opc := 0xa8) (readsV f) (by decide) rfl rfl (fun _ _ _ h => h ▸ rfl)

theorem vcmpLt (f : FmtV) : Statement (.vcmpLt f) :=
  oneWord (mk := .vcmpLt) (opc := 0xa9) (readsV f) (by decide) rfl rfl (fun _ _ _ h => h ▸ rfl)

theorem vcmpLe (f : FmtV) : Statement (.vcmpLe f) :=
  oneWord (mk := .vcmpLe) (opc := 0xaa) (readsV f) (by decide) rfl rfl (fun _ _ _ h => h ▸ rfl)

theorem vcmpGt (f : FmtV) : Statement (.vcmpGt f) :=
  oneWord (mk := .vcmpGt) (opc := 0xab) (readsV f) (by decide) rfl rfl (fun _ _ _ h => h ▸ rfl)

theorem vcmpGe (f : FmtV) : Statement (.vcmpGe f) :=
  oneWord (mk := .vcmpGe) (opc := 0xac) (readsV f) (by decide) rfl rfl (fun _ _ _ h => h ▸ rfl)

theorem vcmpUn (f : FmtV) : Statement (.vcmpUn f) :=
  oneWord (mk := .vcmpUn) (opc := 0xad) (readsV f) (by decide) rfl rfl (fun _ _ _ h => h ▸ rfl)

theorem vclass (f : FmtV) : Statement (.vclass f) :=
  oneWord (mk := .vclass) (opc := 0xae) (readsV f) (by decide) rfl rfl (fun _ _ _ h => h ▸ rfl)

theorem vsel (f : FmtV) : Statement (.vsel f) :=
  oneWord (mk := .vsel) (opc := 0xaf) (readsV f) (by decide) rfl rfl (fun _ _ _ h => h ▸ rfl)

theorem klut (f : FmtV) : Statement (.klut f) :=
  oneWord (mk := .klut) (opc := 0xb0) (readsV f) (by decide) rfl rfl (fun _ _ _ h => h ▸ rfl)

theorem ksetp (f : FmtV) : Statement (.ksetp f) :=
  oneWord (mk := .ksetp) (opc := 0xb1) (readsV f) (by decide) rfl rfl (fun _ _ _ h => h ▸ rfl)

theorem kpopc (f : FmtV) : Statement (.kpopc f) :=
  oneWord (mk := .kpopc) (opc := 0xb2) (readsV f) (by decide) rfl rfl (fun _ _ _ h => h ▸ rfl)

theorem kfirst (f : FmtV) : Statement (.kfirst f) :=
  oneWord (mk := .kfirst) (opc := 0xb3) (readsV f) (by decide) rfl rfl (fun _ _ _ h => h ▸ rfl)

theorem vcvt (f : FmtV) : Statement (.vcvt f) :=
  oneWord (mk := .vcvt) (opc := 0xb4) (readsV f) (by decide) rfl rfl (fun _ _ _ h => h ▸ rfl)

theorem vquant (f : FmtV) : Statement (.vquant f) :=
  oneWord (mk := .vquant) (opc := 0xb5) (readsV f) (by decide) rfl rfl (fun _ _ _ h => h ▸ rfl)

theorem vdequant (f : FmtV) : Statement (.vdequant f) :=
  oneWord (mk := .vdequant) (opc := 0xb6) (readsV f) (by decide) rfl rfl (fun _ _ _ h => h ▸ rfl)

theorem vmxpack (f : FmtV) : Statement (.vmxpack f) :=
  oneWord (mk := .vmxpack) (opc := 0xb7) (readsV f) (by decide) rfl rfl (fun _ _ _ h => h ▸ rfl)

theorem vmxunpk (f : FmtV) : Statement (.vmxunpk f) :=
  oneWord (mk := .vmxunpk) (opc := 0xb8) (readsV f) (by decide) rfl rfl (fun _ _ _ h => h ▸ rfl)

theorem vredAdd (f : FmtV) : Statement (.vredAdd f) :=
  oneWord (mk := .vredAdd) (opc := 0xb9) (readsV f) (by decide) rfl rfl (fun _ _ _ h => h ▸ rfl)

theorem vredMax (f : FmtV) : Statement (.vredMax f) :=
  oneWord (mk := .vredMax) (opc := 0xba) (readsV f) (by decide) rfl rfl (fun _ _ _ h => h ▸ rfl)

theorem vredMin (f : FmtV) : Statement (.vredMin f) :=
  oneWord (mk := .vredMin) (opc := 0xbb) (readsV f) (by decide) rfl rfl (fun _ _ _ h => h ▸ rfl)

theorem vscanAdd (f : FmtV) : Statement (.vscanAdd f) :=
  oneWord (mk := .vscanAdd) (opc := 0xbc) (readsV f) (by decide) rfl rfl (fun _ _ _ h => h ▸ rfl)

theorem vperm (f : FmtV) : Statement (.vperm f) :=
  oneWord (mk := .vperm) (opc := 0xbd) (readsV f) (by decide) rfl rfl (fun _ _ _ h => h ▸ rfl)

theorem vrot (f : FmtV) : Statement (.vrot f) :=
  oneWord (mk := .vrot) (opc := 0xbe) (readsV f) (by decide) rfl rfl (fun _ _ _ h => h ▸ rfl)

theorem vzip (f : FmtV) : Statement (.vzip f) :=
  oneWord (mk := .vzip) (opc := 0xbf) (readsV f) (by decide) rfl rfl (fun _ _ _ h => h ▸ rfl)

theorem vunzip (f : FmtV) : Statement (.vunzip f) :=
  oneWord (mk := .vunzip) (opc := 0xc0) (readsV f) (by decide) rfl rfl (fun _ _ _ h => h ▸ rfl)

theorem vcompress (f : FmtV) : Statement (.vcompress f) :=
  oneWord (mk := .vcompress) (opc := 0xc1) (readsV f) (by decide) rfl rfl (fun _ _ _ h => h ▸ rfl)

theorem vexpand (f : FmtV) : Statement (.vexpand f) :=
  oneWord (mk := .vexpand) (opc := 0xc2) (readsV f) (by decide) rfl rfl (fun _ _ _ h => h ▸ rfl)

theorem vgetl (f : FmtV) : Statement (.vgetl f) :=
  oneWord (mk := .vgetl) (opc := 0xc3) (readsV f) (by decide) rfl rfl (fun _ _ _ h => h ▸ rfl)

theorem vsetl (f : FmtV) : Statement (.vsetl f) :=
  oneWord (mk := .vsetl) (opc := 0xc4) (readsV f) (by decide) rfl rfl (fun _ _ _ h => h ▸ rfl)

theorem vld (f : FmtV) : Statement (.vld f) :=
  oneWord (mk := .vld) (opc := 0xc5) (readsV f) (by decide) rfl rfl (fun _ _ _ h => h ▸ rfl)

theorem vlds (f : FmtV) : Statement (.vlds f) :=
  oneWord (mk := .vlds) (opc := 0xc6) (readsV f) (by decide) rfl rfl (fun _ _ _ h => h ▸ rfl)

theorem vldx (f : FmtV) : Statement (.vldx f) :=
  oneWord (mk := .vldx) (opc := 0xc7) (readsV f) (by decide) rfl rfl (fun _ _ _ h => h ▸ rfl)

theorem vldsp (f : FmtV) : Statement (.vldsp f) :=
  oneWord (mk := .vldsp) (opc := 0xc8) (readsV f) (by decide) rfl rfl (fun _ _ _ h => h ▸ rfl)

theorem vst (f : FmtV) : Statement (.vst f) :=
  oneWord (mk := .vst) (opc := 0xc9) (readsV f) (by decide) rfl rfl (fun _ _ _ h => h ▸ rfl)

theorem vsts (f : FmtV) : Statement (.vsts f) :=
  oneWord (mk := .vsts) (opc := 0xca) (readsV f) (by decide) rfl rfl (fun _ _ _ h => h ▸ rfl)

theorem vstx (f : FmtV) : Statement (.vstx f) :=
  oneWord (mk := .vstx) (opc := 0xcb) (readsV f) (by decide) rfl rfl (fun _ _ _ h => h ▸ rfl)

theorem qcfg (f : FmtV) : Statement (.qcfg f) :=
  oneWord (mk := .qcfg) (opc := 0xcc) (readsV f) (by decide) rfl rfl (fun _ _ _ h => h ▸ rfl)

theorem qloop (f : FmtV) : Statement (.qloop f) :=
  oneWord (mk := .qloop) (opc := 0xcd) (readsV f) (by decide) rfl rfl (fun _ _ _ h => h ▸ rfl)

theorem qreset (f : FmtV) : Statement (.qreset f) :=
  oneWord (mk := .qreset) (opc := 0xce) (readsV f) (by decide) rfl rfl (fun _ _ _ h => h ▸ rfl)

theorem vpchk (f : FmtV) : Statement (.vpchk f) :=
  oneWord (mk := .vpchk) (opc := 0xcf) (readsV f) (by decide) rfl rfl (fun _ _ _ h => h ▸ rfl)

theorem mma (f : FmtP) : Statement (.mma f) :=
  twoWords (mk := .mma) (opc := 0x100) (readsP f) (by decide) rfl (fun _ _ h => h ▸ rfl)

theorem mmaz (f : FmtP) : Statement (.mmaz f) :=
  twoWords (mk := .mmaz) (opc := 0x101) (readsP f) (by decide) rfl (fun _ _ h => h ▸ rfl)

theorem mmat (f : FmtP) : Statement (.mmat f) :=
  twoWords (mk := .mmat) (opc := 0x102) (readsP f) (by decide) rfl (fun _ _ h => h ▸ rfl)

theorem mmaq (f : FmtP) : Statement (.mmaq f) :=
  twoWords (mk := .mmaq) (opc := 0x103) (readsP f) (by decide) rfl (fun _ _ h => h ▸ rfl)

theorem mmamx (f : FmtP) : Statement (.mmamx f) :=
  twoWords (mk := .mmamx) (opc := 0x104) (readsP f) (by decide) rfl (fun _ _ h => h ▸ rfl)

theorem mmast (f : FmtP) : Statement (.mmast f) :=
  twoWords (mk := .mmast) (opc := 0x105) (readsP f) (by decide) rfl (fun _ _ h => h ▸ rfl)

theorem mmac (f : FmtP) : Statement (.mmac f) :=
  twoWords (mk := .mmac) (opc := 0x106) (readsP f) (by decide) rfl (fun _ _ h => h ▸ rfl)

theorem mmacz (f : FmtP) : Statement (.mmacz f) :=
  twoWords (mk := .mmacz) (opc := 0x107) (readsP f) (by decide) rfl (fun _ _ h => h ▸ rfl)

theorem tzero (g : Guard) (q : Eng) (td : BitVec 3) (tag : BitVec 5) (sh : Shape) : Statement (.tzero g q td tag sh) := by
  obtain ⟨m1, n1⟩ := sh
  have := td.isLt
  have := tag.isLt
  have := m1.isLt
  have := n1.isLt
  refine ownFields (opc := 0x108) (g := g) (q := q) (b0 := td.toNat * 2 ^ 32 + tag.toNat * 2 ^ 19)
    (b1 := m1.toNat * 2 ^ 39 + n1.toNat * 2 ^ 31) (by decide) rfl (by omega) (by omega) (fun h1 h2 => ?_)
  have e0 : bits (head 0x108 g + (td.toNat * 2 ^ 32 + tag.toNat * 2 ^ 19)) 32 = td := by
    rw [low_bits _ _ _ _ (by decide)]; exact bits_eq (by omega)
  have e1 : bits (head 0x108 g + (td.toNat * 2 ^ 32 + tag.toNat * 2 ^ 19)) 19 = tag := by
    rw [low_bits _ _ _ _ (by decide)]; exact bits_eq (by omega)
  have e2 : bits (engW q + (m1.toNat * 2 ^ 39 + n1.toNat * 2 ^ 31)) 39 = m1 := by
    rw [eng_bits _ _ _ (by decide)]; exact bits_eq (by omega)
  have e3 : bits (engW q + (m1.toNat * 2 ^ 39 + n1.toNat * 2 ^ 31)) 31 = n1 := by
    rw [eng_bits _ _ _ (by decide)]; exact bits_eq (by omega)
  refine congrArg some ?_
  change Instr.tzero (rawG (head 0x108 g + (td.toNat * 2 ^ 32 + tag.toNat * 2 ^ 19))) (rawQ (engW q + (m1.toNat * 2 ^ 39 + n1.toNat * 2 ^ 31))) (bits (head 0x108 g + (td.toNat * 2 ^ 32 + tag.toNat * 2 ^ 19)) 32) (bits (head 0x108 g + (td.toNat * 2 ^ 32 + tag.toNat * 2 ^ 19)) 19) (rawShape (engW q + (m1.toNat * 2 ^ 39 + n1.toNat * 2 ^ 31))) = _
  simp only [h1, h2, e0, e1, e2, e3, rawShape]

theorem tload (g : Guard) (q : Eng) (td : BitVec 3) (as : BitVec 4) (tag : BitVec 5) (sa : Bool) (sh : Shape) : Statement (.tload g q td as tag sa sh) := by
  obtain ⟨m1, n1⟩ := sh
  have := td.isLt
  have := as.isLt
  have := tag.isLt
  have := sa.toNat_lt
  have := m1.isLt
  have := n1.isLt
  refine ownFields (opc := 0x109) (g := g) (q := q) (b0 := td.toNat * 2 ^ 32 + as.toNat * 2 ^ 28 + tag.toNat * 2 ^ 19 + sa.toNat * 2 ^ 13)
    (b1 := m1.toNat * 2 ^ 39 + n1.toNat * 2 ^ 31) (by decide) rfl (by omega) (by omega) (fun h1 h2 => ?_)
  have e0 : bits (head 0x109 g + (td.toNat * 2 ^ 32 + as.toNat * 2 ^ 28 + tag.toNat * 2 ^ 19 + sa.toNat * 2 ^ 13)) 32 = td := by
    rw [low_bits _ _ _ _ (by decide)]; exact bits_eq (by omega)
  have e1 : bits (head 0x109 g + (td.toNat * 2 ^ 32 + as.toNat * 2 ^ 28 + tag.toNat * 2 ^ 19 + sa.toNat * 2 ^ 13)) 28 = as := by
    rw [low_bits _ _ _ _ (by decide)]; exact bits_eq (by omega)
  have e2 : bits (head 0x109 g + (td.toNat * 2 ^ 32 + as.toNat * 2 ^ 28 + tag.toNat * 2 ^ 19 + sa.toNat * 2 ^ 13)) 19 = tag := by
    rw [low_bits _ _ _ _ (by decide)]; exact bits_eq (by omega)
  have e3 : bitOf (head 0x109 g + (td.toNat * 2 ^ 32 + as.toNat * 2 ^ 28 + tag.toNat * 2 ^ 19 + sa.toNat * 2 ^ 13)) 13 = sa := by
    rw [low_bitOf _ _ _ _ (by decide)]; exact bitOf_eq (by omega)
  have e4 : bits (engW q + (m1.toNat * 2 ^ 39 + n1.toNat * 2 ^ 31)) 39 = m1 := by
    rw [eng_bits _ _ _ (by decide)]; exact bits_eq (by omega)
  have e5 : bits (engW q + (m1.toNat * 2 ^ 39 + n1.toNat * 2 ^ 31)) 31 = n1 := by
    rw [eng_bits _ _ _ (by decide)]; exact bits_eq (by omega)
  refine congrArg some ?_
  change Instr.tload (rawG (head 0x109 g + (td.toNat * 2 ^ 32 + as.toNat * 2 ^ 28 + tag.toNat * 2 ^ 19 + sa.toNat * 2 ^ 13))) (rawQ (engW q + (m1.toNat * 2 ^ 39 + n1.toNat * 2 ^ 31))) (bits (head 0x109 g + (td.toNat * 2 ^ 32 + as.toNat * 2 ^ 28 + tag.toNat * 2 ^ 19 + sa.toNat * 2 ^ 13)) 32) (bits (head 0x109 g + (td.toNat * 2 ^ 32 + as.toNat * 2 ^ 28 + tag.toNat * 2 ^ 19 + sa.toNat * 2 ^ 13)) 28) (bits (head 0x109 g + (td.toNat * 2 ^ 32 + as.toNat * 2 ^ 28 + tag.toNat * 2 ^ 19 + sa.toNat * 2 ^ 13)) 19) (bitOf (head 0x109 g + (td.toNat * 2 ^ 32 + as.toNat * 2 ^ 28 + tag.toNat * 2 ^ 19 + sa.toNat * 2 ^ 13)) 13) (rawShape (engW q + (m1.toNat * 2 ^ 39 + n1.toNat * 2 ^ 31))) = _
  simp only [h1, h2, e0, e1, e2, e3, e4, e5, rawShape]

theorem tstore (g : Guard) (q : Eng) (ts : BitVec 3) (ad : BitVec 4) (tag : BitVec 5) (rm : BitVec 2) (sh : Shape) : Statement (.tstore g q ts ad tag rm sh) := by
  obtain ⟨m1, n1⟩ := sh
  have := ts.isLt
  have := ad.isLt
  have := tag.isLt
  have := rm.isLt
  have := m1.isLt
  have := n1.isLt
  refine ownFields (opc := 0x10a) (g := g) (q := q) (b0 := ts.toNat * 2 ^ 32 + ad.toNat * 2 ^ 28 + tag.toNat * 2 ^ 23 + rm.toNat * 2 ^ 21)
    (b1 := m1.toNat * 2 ^ 39 + n1.toNat * 2 ^ 31) (by decide) rfl (by omega) (by omega) (fun h1 h2 => ?_)
  have e0 : bits (head 0x10a g + (ts.toNat * 2 ^ 32 + ad.toNat * 2 ^ 28 + tag.toNat * 2 ^ 23 + rm.toNat * 2 ^ 21)) 32 = ts := by
    rw [low_bits _ _ _ _ (by decide)]; exact bits_eq (by omega)
  have e1 : bits (head 0x10a g + (ts.toNat * 2 ^ 32 + ad.toNat * 2 ^ 28 + tag.toNat * 2 ^ 23 + rm.toNat * 2 ^ 21)) 28 = ad := by
    rw [low_bits _ _ _ _ (by decide)]; exact bits_eq (by omega)
  have e2 : bits (head 0x10a g + (ts.toNat * 2 ^ 32 + ad.toNat * 2 ^ 28 + tag.toNat * 2 ^ 23 + rm.toNat * 2 ^ 21)) 23 = tag := by
    rw [low_bits _ _ _ _ (by decide)]; exact bits_eq (by omega)
  have e3 : bits (head 0x10a g + (ts.toNat * 2 ^ 32 + ad.toNat * 2 ^ 28 + tag.toNat * 2 ^ 23 + rm.toNat * 2 ^ 21)) 21 = rm := by
    rw [low_bits _ _ _ _ (by decide)]; exact bits_eq (by omega)
  have e4 : bits (engW q + (m1.toNat * 2 ^ 39 + n1.toNat * 2 ^ 31)) 39 = m1 := by
    rw [eng_bits _ _ _ (by decide)]; exact bits_eq (by omega)
  have e5 : bits (engW q + (m1.toNat * 2 ^ 39 + n1.toNat * 2 ^ 31)) 31 = n1 := by
    rw [eng_bits _ _ _ (by decide)]; exact bits_eq (by omega)
  refine congrArg some ?_
  change Instr.tstore (rawG (head 0x10a g + (ts.toNat * 2 ^ 32 + ad.toNat * 2 ^ 28 + tag.toNat * 2 ^ 23 + rm.toNat * 2 ^ 21))) (rawQ (engW q + (m1.toNat * 2 ^ 39 + n1.toNat * 2 ^ 31))) (bits (head 0x10a g + (ts.toNat * 2 ^ 32 + ad.toNat * 2 ^ 28 + tag.toNat * 2 ^ 23 + rm.toNat * 2 ^ 21)) 32) (bits (head 0x10a g + (ts.toNat * 2 ^ 32 + ad.toNat * 2 ^ 28 + tag.toNat * 2 ^ 23 + rm.toNat * 2 ^ 21)) 28) (bits (head 0x10a g + (ts.toNat * 2 ^ 32 + ad.toNat * 2 ^ 28 + tag.toNat * 2 ^ 23 + rm.toNat * 2 ^ 21)) 23) (bits (head 0x10a g + (ts.toNat * 2 ^ 32 + ad.toNat * 2 ^ 28 + tag.toNat * 2 ^ 23 + rm.toNat * 2 ^ 21)) 21) (rawShape (engW q + (m1.toNat * 2 ^ 39 + n1.toNat * 2 ^ 31))) = _
  simp only [h1, h2, e0, e1, e2, e3, e4, e5, rawShape]

theorem tstoreq (g : Guard) (q : Eng) (ts : BitVec 3) (ad : BitVec 4) (tag : BitVec 5) (rm : BitVec 2) (s : Bool) (sh : Shape) (am : BitVec 4) (gs : BitVec 2) : Statement (.tstoreq g q ts ad tag rm s sh am gs) := by
  obtain ⟨m1, n1⟩ := sh
  have := ts.isLt
  have := ad.isLt
  have := tag.isLt
  have := rm.isLt
  have := s.toNat_lt
  have := m1.isLt
  have := n1.isLt
  have := am.isLt
  have := gs.isLt
  refine ownFields (opc := 0x10b) (g := g) (q := q) (b0 := ts.toNat * 2 ^ 32 + ad.toNat * 2 ^ 28 + tag.toNat * 2 ^ 23 + rm.toNat * 2 ^ 21 + s.toNat * 2 ^ 12)
    (b1 := m1.toNat * 2 ^ 39 + n1.toNat * 2 ^ 31 + am.toNat * 2 ^ 16 + gs.toNat * 2 ^ 10) (by decide) rfl (by omega) (by omega) (fun h1 h2 => ?_)
  have e0 : bits (head 0x10b g + (ts.toNat * 2 ^ 32 + ad.toNat * 2 ^ 28 + tag.toNat * 2 ^ 23 + rm.toNat * 2 ^ 21 + s.toNat * 2 ^ 12)) 32 = ts := by
    rw [low_bits _ _ _ _ (by decide)]; exact bits_eq (by omega)
  have e1 : bits (head 0x10b g + (ts.toNat * 2 ^ 32 + ad.toNat * 2 ^ 28 + tag.toNat * 2 ^ 23 + rm.toNat * 2 ^ 21 + s.toNat * 2 ^ 12)) 28 = ad := by
    rw [low_bits _ _ _ _ (by decide)]; exact bits_eq (by omega)
  have e2 : bits (head 0x10b g + (ts.toNat * 2 ^ 32 + ad.toNat * 2 ^ 28 + tag.toNat * 2 ^ 23 + rm.toNat * 2 ^ 21 + s.toNat * 2 ^ 12)) 23 = tag := by
    rw [low_bits _ _ _ _ (by decide)]; exact bits_eq (by omega)
  have e3 : bits (head 0x10b g + (ts.toNat * 2 ^ 32 + ad.toNat * 2 ^ 28 + tag.toNat * 2 ^ 23 + rm.toNat * 2 ^ 21 + s.toNat * 2 ^ 12)) 21 = rm := by
    rw [low_bits _ _ _ _ (by decide)]; exact bits_eq (by omega)
  have e4 : bitOf (head 0x10b g + (ts.toNat * 2 ^ 32 + ad.toNat * 2 ^ 28 + tag.toNat * 2 ^ 23 + rm.toNat * 2 ^ 21 + s.toNat * 2 ^ 12)) 12 = s := by
    rw [low_bitOf _ _ _ _ (by decide)]; exact bitOf_eq (by omega)
  have e5 : bits (engW q + (m1.toNat * 2 ^ 39 + n1.toNat * 2 ^ 31 + am.toNat * 2 ^ 16 + gs.toNat * 2 ^ 10)) 39 = m1 := by
    rw [eng_bits _ _ _ (by decide)]; exact bits_eq (by omega)
  have e6 : bits (engW q + (m1.toNat * 2 ^ 39 + n1.toNat * 2 ^ 31 + am.toNat * 2 ^ 16 + gs.toNat * 2 ^ 10)) 31 = n1 := by
    rw [eng_bits _ _ _ (by decide)]; exact bits_eq (by omega)
  have e7 : bits (engW q + (m1.toNat * 2 ^ 39 + n1.toNat * 2 ^ 31 + am.toNat * 2 ^ 16 + gs.toNat * 2 ^ 10)) 16 = am := by
    rw [eng_bits _ _ _ (by decide)]; exact bits_eq (by omega)
  have e8 : bits (engW q + (m1.toNat * 2 ^ 39 + n1.toNat * 2 ^ 31 + am.toNat * 2 ^ 16 + gs.toNat * 2 ^ 10)) 10 = gs := by
    rw [eng_bits _ _ _ (by decide)]; exact bits_eq (by omega)
  refine congrArg some ?_
  change Instr.tstoreq (rawG (head 0x10b g + (ts.toNat * 2 ^ 32 + ad.toNat * 2 ^ 28 + tag.toNat * 2 ^ 23 + rm.toNat * 2 ^ 21 + s.toNat * 2 ^ 12))) (rawQ (engW q + (m1.toNat * 2 ^ 39 + n1.toNat * 2 ^ 31 + am.toNat * 2 ^ 16 + gs.toNat * 2 ^ 10))) (bits (head 0x10b g + (ts.toNat * 2 ^ 32 + ad.toNat * 2 ^ 28 + tag.toNat * 2 ^ 23 + rm.toNat * 2 ^ 21 + s.toNat * 2 ^ 12)) 32) (bits (head 0x10b g + (ts.toNat * 2 ^ 32 + ad.toNat * 2 ^ 28 + tag.toNat * 2 ^ 23 + rm.toNat * 2 ^ 21 + s.toNat * 2 ^ 12)) 28) (bits (head 0x10b g + (ts.toNat * 2 ^ 32 + ad.toNat * 2 ^ 28 + tag.toNat * 2 ^ 23 + rm.toNat * 2 ^ 21 + s.toNat * 2 ^ 12)) 23) (bits (head 0x10b g + (ts.toNat * 2 ^ 32 + ad.toNat * 2 ^ 28 + tag.toNat * 2 ^ 23 + rm.toNat * 2 ^ 21 + s.toNat * 2 ^ 12)) 21) (bitOf (head 0x10b g + (ts.toNat * 2 ^ 32 + ad.toNat * 2 ^ 28 + tag.toNat * 2 ^ 23 + rm.toNat * 2 ^ 21 + s.toNat * 2 ^ 12)) 12) (rawShape (engW q + (m1.toNat * 2 ^ 39 + n1.toNat * 2 ^ 31 + am.toNat * 2 ^ 16 + gs.toNat * 2 ^ 10))) (bits (engW q + (m1.toNat * 2 ^ 39 + n1.toNat * 2 ^ 31 + am.toNat * 2 ^ 16 + gs.toNat * 2 ^ 10)) 16) (bits (engW q + (m1.toNat * 2 ^ 39 + n1.toNat * 2 ^ 31 + am.toNat * 2 ^ 16 + gs.toNat * 2 ^ 10)) 10) = _
  simp only [h1, h2, e0, e1, e2, e3, e4, e5, e6, e7, e8, rawShape]

theorem tstoremx (g : Guard) (q : Eng) (ts : BitVec 3) (ad : BitVec 4) (tag : BitVec 5) (rm : BitVec 2) (sh : Shape) (am : BitVec 4) : Statement (.tstoremx g q ts ad tag rm sh am) := by
  obtain ⟨m1, n1⟩ := sh
  have := ts.isLt
  have := ad.isLt
  have := tag.isLt
  have := rm.isLt
  have := m1.isLt
  have := n1.isLt
  have := am.isLt
  refine ownFields (opc := 0x10c) (g := g) (q := q) (b0 := ts.toNat * 2 ^ 32 + ad.toNat * 2 ^ 28 + tag.toNat * 2 ^ 23 + rm.toNat * 2 ^ 21)
    (b1 := m1.toNat * 2 ^ 39 + n1.toNat * 2 ^ 31 + am.toNat * 2 ^ 16) (by decide) rfl (by omega) (by omega) (fun h1 h2 => ?_)
  have e0 : bits (head 0x10c g + (ts.toNat * 2 ^ 32 + ad.toNat * 2 ^ 28 + tag.toNat * 2 ^ 23 + rm.toNat * 2 ^ 21)) 32 = ts := by
    rw [low_bits _ _ _ _ (by decide)]; exact bits_eq (by omega)
  have e1 : bits (head 0x10c g + (ts.toNat * 2 ^ 32 + ad.toNat * 2 ^ 28 + tag.toNat * 2 ^ 23 + rm.toNat * 2 ^ 21)) 28 = ad := by
    rw [low_bits _ _ _ _ (by decide)]; exact bits_eq (by omega)
  have e2 : bits (head 0x10c g + (ts.toNat * 2 ^ 32 + ad.toNat * 2 ^ 28 + tag.toNat * 2 ^ 23 + rm.toNat * 2 ^ 21)) 23 = tag := by
    rw [low_bits _ _ _ _ (by decide)]; exact bits_eq (by omega)
  have e3 : bits (head 0x10c g + (ts.toNat * 2 ^ 32 + ad.toNat * 2 ^ 28 + tag.toNat * 2 ^ 23 + rm.toNat * 2 ^ 21)) 21 = rm := by
    rw [low_bits _ _ _ _ (by decide)]; exact bits_eq (by omega)
  have e4 : bits (engW q + (m1.toNat * 2 ^ 39 + n1.toNat * 2 ^ 31 + am.toNat * 2 ^ 16)) 39 = m1 := by
    rw [eng_bits _ _ _ (by decide)]; exact bits_eq (by omega)
  have e5 : bits (engW q + (m1.toNat * 2 ^ 39 + n1.toNat * 2 ^ 31 + am.toNat * 2 ^ 16)) 31 = n1 := by
    rw [eng_bits _ _ _ (by decide)]; exact bits_eq (by omega)
  have e6 : bits (engW q + (m1.toNat * 2 ^ 39 + n1.toNat * 2 ^ 31 + am.toNat * 2 ^ 16)) 16 = am := by
    rw [eng_bits _ _ _ (by decide)]; exact bits_eq (by omega)
  refine congrArg some ?_
  change Instr.tstoremx (rawG (head 0x10c g + (ts.toNat * 2 ^ 32 + ad.toNat * 2 ^ 28 + tag.toNat * 2 ^ 23 + rm.toNat * 2 ^ 21))) (rawQ (engW q + (m1.toNat * 2 ^ 39 + n1.toNat * 2 ^ 31 + am.toNat * 2 ^ 16))) (bits (head 0x10c g + (ts.toNat * 2 ^ 32 + ad.toNat * 2 ^ 28 + tag.toNat * 2 ^ 23 + rm.toNat * 2 ^ 21)) 32) (bits (head 0x10c g + (ts.toNat * 2 ^ 32 + ad.toNat * 2 ^ 28 + tag.toNat * 2 ^ 23 + rm.toNat * 2 ^ 21)) 28) (bits (head 0x10c g + (ts.toNat * 2 ^ 32 + ad.toNat * 2 ^ 28 + tag.toNat * 2 ^ 23 + rm.toNat * 2 ^ 21)) 23) (bits (head 0x10c g + (ts.toNat * 2 ^ 32 + ad.toNat * 2 ^ 28 + tag.toNat * 2 ^ 23 + rm.toNat * 2 ^ 21)) 21) (rawShape (engW q + (m1.toNat * 2 ^ 39 + n1.toNat * 2 ^ 31 + am.toNat * 2 ^ 16))) (bits (engW q + (m1.toNat * 2 ^ 39 + n1.toNat * 2 ^ 31 + am.toNat * 2 ^ 16)) 16) = _
  simp only [h1, h2, e0, e1, e2, e3, e4, e5, e6, rawShape]

theorem tbias (g : Guard) (q : Eng) (td : BitVec 3) (as : BitVec 4) (tag : BitVec 5) (sa : Bool) (sh : Shape) : Statement (.tbias g q td as tag sa sh) := by
  obtain ⟨m1, n1⟩ := sh
  have := td.isLt
  have := as.isLt
  have := tag.isLt
  have := sa.toNat_lt
  have := m1.isLt
  have := n1.isLt
  refine ownFields (opc := 0x10d) (g := g) (q := q) (b0 := td.toNat * 2 ^ 32 + as.toNat * 2 ^ 28 + tag.toNat * 2 ^ 19 + sa.toNat * 2 ^ 13)
    (b1 := m1.toNat * 2 ^ 39 + n1.toNat * 2 ^ 31) (by decide) rfl (by omega) (by omega) (fun h1 h2 => ?_)
  have e0 : bits (head 0x10d g + (td.toNat * 2 ^ 32 + as.toNat * 2 ^ 28 + tag.toNat * 2 ^ 19 + sa.toNat * 2 ^ 13)) 32 = td := by
    rw [low_bits _ _ _ _ (by decide)]; exact bits_eq (by omega)
  have e1 : bits (head 0x10d g + (td.toNat * 2 ^ 32 + as.toNat * 2 ^ 28 + tag.toNat * 2 ^ 19 + sa.toNat * 2 ^ 13)) 28 = as := by
    rw [low_bits _ _ _ _ (by decide)]; exact bits_eq (by omega)
  have e2 : bits (head 0x10d g + (td.toNat * 2 ^ 32 + as.toNat * 2 ^ 28 + tag.toNat * 2 ^ 19 + sa.toNat * 2 ^ 13)) 19 = tag := by
    rw [low_bits _ _ _ _ (by decide)]; exact bits_eq (by omega)
  have e3 : bitOf (head 0x10d g + (td.toNat * 2 ^ 32 + as.toNat * 2 ^ 28 + tag.toNat * 2 ^ 19 + sa.toNat * 2 ^ 13)) 13 = sa := by
    rw [low_bitOf _ _ _ _ (by decide)]; exact bitOf_eq (by omega)
  have e4 : bits (engW q + (m1.toNat * 2 ^ 39 + n1.toNat * 2 ^ 31)) 39 = m1 := by
    rw [eng_bits _ _ _ (by decide)]; exact bits_eq (by omega)
  have e5 : bits (engW q + (m1.toNat * 2 ^ 39 + n1.toNat * 2 ^ 31)) 31 = n1 := by
    rw [eng_bits _ _ _ (by decide)]; exact bits_eq (by omega)
  refine congrArg some ?_
  change Instr.tbias (rawG (head 0x10d g + (td.toNat * 2 ^ 32 + as.toNat * 2 ^ 28 + tag.toNat * 2 ^ 19 + sa.toNat * 2 ^ 13))) (rawQ (engW q + (m1.toNat * 2 ^ 39 + n1.toNat * 2 ^ 31))) (bits (head 0x10d g + (td.toNat * 2 ^ 32 + as.toNat * 2 ^ 28 + tag.toNat * 2 ^ 19 + sa.toNat * 2 ^ 13)) 32) (bits (head 0x10d g + (td.toNat * 2 ^ 32 + as.toNat * 2 ^ 28 + tag.toNat * 2 ^ 19 + sa.toNat * 2 ^ 13)) 28) (bits (head 0x10d g + (td.toNat * 2 ^ 32 + as.toNat * 2 ^ 28 + tag.toNat * 2 ^ 19 + sa.toNat * 2 ^ 13)) 19) (bitOf (head 0x10d g + (td.toNat * 2 ^ 32 + as.toNat * 2 ^ 28 + tag.toNat * 2 ^ 19 + sa.toNat * 2 ^ 13)) 13) (rawShape (engW q + (m1.toNat * 2 ^ 39 + n1.toNat * 2 ^ 31))) = _
  simp only [h1, h2, e0, e1, e2, e3, e4, e5, rawShape]

theorem tscale (g : Guard) (q : Eng) (td : BitVec 3) (ar : BitVec 4) (ac : BitVec 4) (tag : BitVec 5) (sh : Shape) : Statement (.tscale g q td ar ac tag sh) := by
  obtain ⟨m1, n1⟩ := sh
  have := td.isLt
  have := ar.isLt
  have := ac.isLt
  have := tag.isLt
  have := m1.isLt
  have := n1.isLt
  refine ownFields (opc := 0x10e) (g := g) (q := q) (b0 := td.toNat * 2 ^ 32 + ar.toNat * 2 ^ 28 + ac.toNat * 2 ^ 24 + tag.toNat * 2 ^ 19)
    (b1 := m1.toNat * 2 ^ 39 + n1.toNat * 2 ^ 31) (by decide) rfl (by omega) (by omega) (fun h1 h2 => ?_)
  have e0 : bits (head 0x10e g + (td.toNat * 2 ^ 32 + ar.toNat * 2 ^ 28 + ac.toNat * 2 ^ 24 + tag.toNat * 2 ^ 19)) 32 = td := by
    rw [low_bits _ _ _ _ (by decide)]; exact bits_eq (by omega)
  have e1 : bits (head 0x10e g + (td.toNat * 2 ^ 32 + ar.toNat * 2 ^ 28 + ac.toNat * 2 ^ 24 + tag.toNat * 2 ^ 19)) 28 = ar := by
    rw [low_bits _ _ _ _ (by decide)]; exact bits_eq (by omega)
  have e2 : bits (head 0x10e g + (td.toNat * 2 ^ 32 + ar.toNat * 2 ^ 28 + ac.toNat * 2 ^ 24 + tag.toNat * 2 ^ 19)) 24 = ac := by
    rw [low_bits _ _ _ _ (by decide)]; exact bits_eq (by omega)
  have e3 : bits (head 0x10e g + (td.toNat * 2 ^ 32 + ar.toNat * 2 ^ 28 + ac.toNat * 2 ^ 24 + tag.toNat * 2 ^ 19)) 19 = tag := by
    rw [low_bits _ _ _ _ (by decide)]; exact bits_eq (by omega)
  have e4 : bits (engW q + (m1.toNat * 2 ^ 39 + n1.toNat * 2 ^ 31)) 39 = m1 := by
    rw [eng_bits _ _ _ (by decide)]; exact bits_eq (by omega)
  have e5 : bits (engW q + (m1.toNat * 2 ^ 39 + n1.toNat * 2 ^ 31)) 31 = n1 := by
    rw [eng_bits _ _ _ (by decide)]; exact bits_eq (by omega)
  refine congrArg some ?_
  change Instr.tscale (rawG (head 0x10e g + (td.toNat * 2 ^ 32 + ar.toNat * 2 ^ 28 + ac.toNat * 2 ^ 24 + tag.toNat * 2 ^ 19))) (rawQ (engW q + (m1.toNat * 2 ^ 39 + n1.toNat * 2 ^ 31))) (bits (head 0x10e g + (td.toNat * 2 ^ 32 + ar.toNat * 2 ^ 28 + ac.toNat * 2 ^ 24 + tag.toNat * 2 ^ 19)) 32) (bits (head 0x10e g + (td.toNat * 2 ^ 32 + ar.toNat * 2 ^ 28 + ac.toNat * 2 ^ 24 + tag.toNat * 2 ^ 19)) 28) (bits (head 0x10e g + (td.toNat * 2 ^ 32 + ar.toNat * 2 ^ 28 + ac.toNat * 2 ^ 24 + tag.toNat * 2 ^ 19)) 24) (bits (head 0x10e g + (td.toNat * 2 ^ 32 + ar.toNat * 2 ^ 28 + ac.toNat * 2 ^ 24 + tag.toNat * 2 ^ 19)) 19) (rawShape (engW q + (m1.toNat * 2 ^ 39 + n1.toNat * 2 ^ 31))) = _
  simp only [h1, h2, e0, e1, e2, e3, e4, e5, rawShape]

theorem tact (g : Guard) (q : Eng) (td : BitVec 3) (fn : BitVec 3) (sh : Shape) : Statement (.tact g q td fn sh) := by
  obtain ⟨m1, n1⟩ := sh
  have := td.isLt
  have := fn.isLt
  have := m1.isLt
  have := n1.isLt
  refine ownFields (opc := 0x10f) (g := g) (q := q) (b0 := td.toNat * 2 ^ 32 + fn.toNat)
    (b1 := m1.toNat * 2 ^ 39 + n1.toNat * 2 ^ 31) (by decide) rfl (by omega) (by omega) (fun h1 h2 => ?_)
  have e0 : bits (head 0x10f g + (td.toNat * 2 ^ 32 + fn.toNat)) 32 = td := by
    rw [low_bits _ _ _ _ (by decide)]; exact bits_eq (by omega)
  have e1 : bits (head 0x10f g + (td.toNat * 2 ^ 32 + fn.toNat)) 0 = fn := by
    rw [low_bits _ _ _ _ (by decide)]; exact bits_eq (by omega)
  have e2 : bits (engW q + (m1.toNat * 2 ^ 39 + n1.toNat * 2 ^ 31)) 39 = m1 := by
    rw [eng_bits _ _ _ (by decide)]; exact bits_eq (by omega)
  have e3 : bits (engW q + (m1.toNat * 2 ^ 39 + n1.toNat * 2 ^ 31)) 31 = n1 := by
    rw [eng_bits _ _ _ (by decide)]; exact bits_eq (by omega)
  refine congrArg some ?_
  change Instr.tact (rawG (head 0x10f g + (td.toNat * 2 ^ 32 + fn.toNat))) (rawQ (engW q + (m1.toNat * 2 ^ 39 + n1.toNat * 2 ^ 31))) (bits (head 0x10f g + (td.toNat * 2 ^ 32 + fn.toNat)) 32) (bits (head 0x10f g + (td.toNat * 2 ^ 32 + fn.toNat)) 0) (rawShape (engW q + (m1.toNat * 2 ^ 39 + n1.toNat * 2 ^ 31))) = _
  simp only [h1, h2, e0, e1, e2, e3, rawShape]

theorem tredr (g : Guard) (q : Eng) (ts : BitVec 3) (ad : BitVec 4) (op : BitVec 2) (sh : Shape) : Statement (.tredr g q ts ad op sh) := by
  obtain ⟨m1, n1⟩ := sh
  have := ts.isLt
  have := ad.isLt
  have := op.isLt
  have := m1.isLt
  have := n1.isLt
  refine ownFields (opc := 0x110) (g := g) (q := q) (b0 := ts.toNat * 2 ^ 32 + ad.toNat * 2 ^ 28 + op.toNat)
    (b1 := m1.toNat * 2 ^ 39 + n1.toNat * 2 ^ 31) (by decide) rfl (by omega) (by omega) (fun h1 h2 => ?_)
  have e0 : bits (head 0x110 g + (ts.toNat * 2 ^ 32 + ad.toNat * 2 ^ 28 + op.toNat)) 32 = ts := by
    rw [low_bits _ _ _ _ (by decide)]; exact bits_eq (by omega)
  have e1 : bits (head 0x110 g + (ts.toNat * 2 ^ 32 + ad.toNat * 2 ^ 28 + op.toNat)) 28 = ad := by
    rw [low_bits _ _ _ _ (by decide)]; exact bits_eq (by omega)
  have e2 : bits (head 0x110 g + (ts.toNat * 2 ^ 32 + ad.toNat * 2 ^ 28 + op.toNat)) 0 = op := by
    rw [low_bits _ _ _ _ (by decide)]; exact bits_eq (by omega)
  have e3 : bits (engW q + (m1.toNat * 2 ^ 39 + n1.toNat * 2 ^ 31)) 39 = m1 := by
    rw [eng_bits _ _ _ (by decide)]; exact bits_eq (by omega)
  have e4 : bits (engW q + (m1.toNat * 2 ^ 39 + n1.toNat * 2 ^ 31)) 31 = n1 := by
    rw [eng_bits _ _ _ (by decide)]; exact bits_eq (by omega)
  refine congrArg some ?_
  change Instr.tredr (rawG (head 0x110 g + (ts.toNat * 2 ^ 32 + ad.toNat * 2 ^ 28 + op.toNat))) (rawQ (engW q + (m1.toNat * 2 ^ 39 + n1.toNat * 2 ^ 31))) (bits (head 0x110 g + (ts.toNat * 2 ^ 32 + ad.toNat * 2 ^ 28 + op.toNat)) 32) (bits (head 0x110 g + (ts.toNat * 2 ^ 32 + ad.toNat * 2 ^ 28 + op.toNat)) 28) (bits (head 0x110 g + (ts.toNat * 2 ^ 32 + ad.toNat * 2 ^ 28 + op.toNat)) 0) (rawShape (engW q + (m1.toNat * 2 ^ 39 + n1.toNat * 2 ^ 31))) = _
  simp only [h1, h2, e0, e1, e2, e3, e4, rawShape]

theorem tredc (g : Guard) (q : Eng) (ts : BitVec 3) (ad : BitVec 4) (op : BitVec 2) (sh : Shape) : Statement (.tredc g q ts ad op sh) := by
  obtain ⟨m1, n1⟩ := sh
  have := ts.isLt
  have := ad.isLt
  have := op.isLt
  have := m1.isLt
  have := n1.isLt
  refine ownFields (opc := 0x111) (g := g) (q := q) (b0 := ts.toNat * 2 ^ 32 + ad.toNat * 2 ^ 28 + op.toNat)
    (b1 := m1.toNat * 2 ^ 39 + n1.toNat * 2 ^ 31) (by decide) rfl (by omega) (by omega) (fun h1 h2 => ?_)
  have e0 : bits (head 0x111 g + (ts.toNat * 2 ^ 32 + ad.toNat * 2 ^ 28 + op.toNat)) 32 = ts := by
    rw [low_bits _ _ _ _ (by decide)]; exact bits_eq (by omega)
  have e1 : bits (head 0x111 g + (ts.toNat * 2 ^ 32 + ad.toNat * 2 ^ 28 + op.toNat)) 28 = ad := by
    rw [low_bits _ _ _ _ (by decide)]; exact bits_eq (by omega)
  have e2 : bits (head 0x111 g + (ts.toNat * 2 ^ 32 + ad.toNat * 2 ^ 28 + op.toNat)) 0 = op := by
    rw [low_bits _ _ _ _ (by decide)]; exact bits_eq (by omega)
  have e3 : bits (engW q + (m1.toNat * 2 ^ 39 + n1.toNat * 2 ^ 31)) 39 = m1 := by
    rw [eng_bits _ _ _ (by decide)]; exact bits_eq (by omega)
  have e4 : bits (engW q + (m1.toNat * 2 ^ 39 + n1.toNat * 2 ^ 31)) 31 = n1 := by
    rw [eng_bits _ _ _ (by decide)]; exact bits_eq (by omega)
  refine congrArg some ?_
  change Instr.tredc (rawG (head 0x111 g + (ts.toNat * 2 ^ 32 + ad.toNat * 2 ^ 28 + op.toNat))) (rawQ (engW q + (m1.toNat * 2 ^ 39 + n1.toNat * 2 ^ 31))) (bits (head 0x111 g + (ts.toNat * 2 ^ 32 + ad.toNat * 2 ^ 28 + op.toNat)) 32) (bits (head 0x111 g + (ts.toNat * 2 ^ 32 + ad.toNat * 2 ^ 28 + op.toNat)) 28) (bits (head 0x111 g + (ts.toNat * 2 ^ 32 + ad.toNat * 2 ^ 28 + op.toNat)) 0) (rawShape (engW q + (m1.toNat * 2 ^ 39 + n1.toNat * 2 ^ 31))) = _
  simp only [h1, h2, e0, e1, e2, e3, e4, rawShape]

theorem ttrans (g : Guard) (q : Eng) (td : BitVec 3) (ts : BitVec 3) (sh : Shape) : Statement (.ttrans g q td ts sh) := by
  obtain ⟨m1, n1⟩ := sh
  have := td.isLt
  have := ts.isLt
  have := m1.isLt
  have := n1.isLt
  refine ownFields (opc := 0x112) (g := g) (q := q) (b0 := td.toNat * 2 ^ 32 + ts.toNat * 2 ^ 29)
    (b1 := m1.toNat * 2 ^ 39 + n1.toNat * 2 ^ 31) (by decide) rfl (by omega) (by omega) (fun h1 h2 => ?_)
  have e0 : bits (head 0x112 g + (td.toNat * 2 ^ 32 + ts.toNat * 2 ^ 29)) 32 = td := by
    rw [low_bits _ _ _ _ (by decide)]; exact bits_eq (by omega)
  have e1 : bits (head 0x112 g + (td.toNat * 2 ^ 32 + ts.toNat * 2 ^ 29)) 29 = ts := by
    rw [low_bits _ _ _ _ (by decide)]; exact bits_eq (by omega)
  have e2 : bits (engW q + (m1.toNat * 2 ^ 39 + n1.toNat * 2 ^ 31)) 39 = m1 := by
    rw [eng_bits _ _ _ (by decide)]; exact bits_eq (by omega)
  have e3 : bits (engW q + (m1.toNat * 2 ^ 39 + n1.toNat * 2 ^ 31)) 31 = n1 := by
    rw [eng_bits _ _ _ (by decide)]; exact bits_eq (by omega)
  refine congrArg some ?_
  change Instr.ttrans (rawG (head 0x112 g + (td.toNat * 2 ^ 32 + ts.toNat * 2 ^ 29))) (rawQ (engW q + (m1.toNat * 2 ^ 39 + n1.toNat * 2 ^ 31))) (bits (head 0x112 g + (td.toNat * 2 ^ 32 + ts.toNat * 2 ^ 29)) 32) (bits (head 0x112 g + (td.toNat * 2 ^ 32 + ts.toNat * 2 ^ 29)) 29) (rawShape (engW q + (m1.toNat * 2 ^ 39 + n1.toNat * 2 ^ 31))) = _
  simp only [h1, h2, e0, e1, e2, e3, rawShape]

theorem ttov (g : Guard) (q : Eng) (ts : BitVec 3) (v : BitVec 6) (row : BitVec 7) (cnt1 : BitVec 7) : Statement (.ttov g q ts v row cnt1) := by
  have := ts.isLt
  have := v.isLt
  have := row.isLt
  have := cnt1.isLt
  refine ownFields (opc := 0x113) (g := g) (q := q) (b0 := ts.toNat * 2 ^ 32 + v.toNat * 2 ^ 26 + row.toNat * 2 ^ 19)
    (b1 := cnt1.toNat * 2 ^ 39) (by decide) rfl (by omega) (by omega) (fun h1 h2 => ?_)
  have e0 : bits (head 0x113 g + (ts.toNat * 2 ^ 32 + v.toNat * 2 ^ 26 + row.toNat * 2 ^ 19)) 32 = ts := by
    rw [low_bits _ _ _ _ (by decide)]; exact bits_eq (by omega)
  have e1 : bits (head 0x113 g + (ts.toNat * 2 ^ 32 + v.toNat * 2 ^ 26 + row.toNat * 2 ^ 19)) 26 = v := by
    rw [low_bits _ _ _ _ (by decide)]; exact bits_eq (by omega)
  have e2 : bits (head 0x113 g + (ts.toNat * 2 ^ 32 + v.toNat * 2 ^ 26 + row.toNat * 2 ^ 19)) 19 = row := by
    rw [low_bits _ _ _ _ (by decide)]; exact bits_eq (by omega)
  have e3 : bits (engW q + (cnt1.toNat * 2 ^ 39)) 39 = cnt1 := by
    rw [eng_bits _ _ _ (by decide)]; exact bits_eq (by omega)
  refine congrArg some ?_
  change Instr.ttov (rawG (head 0x113 g + (ts.toNat * 2 ^ 32 + v.toNat * 2 ^ 26 + row.toNat * 2 ^ 19))) (rawQ (engW q + (cnt1.toNat * 2 ^ 39))) (bits (head 0x113 g + (ts.toNat * 2 ^ 32 + v.toNat * 2 ^ 26 + row.toNat * 2 ^ 19)) 32) (bits (head 0x113 g + (ts.toNat * 2 ^ 32 + v.toNat * 2 ^ 26 + row.toNat * 2 ^ 19)) 26) (bits (head 0x113 g + (ts.toNat * 2 ^ 32 + v.toNat * 2 ^ 26 + row.toNat * 2 ^ 19)) 19) (bits (engW q + (cnt1.toNat * 2 ^ 39)) 39) = _
  simp only [h1, h2, e0, e1, e2, e3]

theorem tfromv (g : Guard) (q : Eng) (td : BitVec 3) (v : BitVec 6) (row : BitVec 7) (cnt1 : BitVec 7) : Statement (.tfromv g q td v row cnt1) := by
  have := td.isLt
  have := v.isLt
  have := row.isLt
  have := cnt1.isLt
  refine ownFields (opc := 0x114) (g := g) (q := q) (b0 := td.toNat * 2 ^ 32 + v.toNat * 2 ^ 26 + row.toNat * 2 ^ 19)
    (b1 := cnt1.toNat * 2 ^ 39) (by decide) rfl (by omega) (by omega) (fun h1 h2 => ?_)
  have e0 : bits (head 0x114 g + (td.toNat * 2 ^ 32 + v.toNat * 2 ^ 26 + row.toNat * 2 ^ 19)) 32 = td := by
    rw [low_bits _ _ _ _ (by decide)]; exact bits_eq (by omega)
  have e1 : bits (head 0x114 g + (td.toNat * 2 ^ 32 + v.toNat * 2 ^ 26 + row.toNat * 2 ^ 19)) 26 = v := by
    rw [low_bits _ _ _ _ (by decide)]; exact bits_eq (by omega)
  have e2 : bits (head 0x114 g + (td.toNat * 2 ^ 32 + v.toNat * 2 ^ 26 + row.toNat * 2 ^ 19)) 19 = row := by
    rw [low_bits _ _ _ _ (by decide)]; exact bits_eq (by omega)
  have e3 : bits (engW q + (cnt1.toNat * 2 ^ 39)) 39 = cnt1 := by
    rw [eng_bits _ _ _ (by decide)]; exact bits_eq (by omega)
  refine congrArg some ?_
  change Instr.tfromv (rawG (head 0x114 g + (td.toNat * 2 ^ 32 + v.toNat * 2 ^ 26 + row.toNat * 2 ^ 19))) (rawQ (engW q + (cnt1.toNat * 2 ^ 39))) (bits (head 0x114 g + (td.toNat * 2 ^ 32 + v.toNat * 2 ^ 26 + row.toNat * 2 ^ 19)) 32) (bits (head 0x114 g + (td.toNat * 2 ^ 32 + v.toNat * 2 ^ 26 + row.toNat * 2 ^ 19)) 26) (bits (head 0x114 g + (td.toNat * 2 ^ 32 + v.toNat * 2 ^ 26 + row.toNat * 2 ^ 19)) 19) (bits (engW q + (cnt1.toNat * 2 ^ 39)) 39) = _
  simp only [h1, h2, e0, e1, e2, e3]

theorem tclamp (g : Guard) (q : Eng) (td : BitVec 3) (xlo : BitVec 5) (xhi : BitVec 5) (sh : Shape) : Statement (.tclamp g q td xlo xhi sh) := by
  obtain ⟨m1, n1⟩ := sh
  have := td.isLt
  have := xlo.isLt
  have := xhi.isLt
  have := m1.isLt
  have := n1.isLt
  refine ownFields (opc := 0x115) (g := g) (q := q) (b0 := td.toNat * 2 ^ 32 + xlo.toNat * 2 ^ 27 + xhi.toNat * 2 ^ 22)
    (b1 := m1.toNat * 2 ^ 39 + n1.toNat * 2 ^ 31) (by decide) rfl (by omega) (by omega) (fun h1 h2 => ?_)
  have e0 : bits (head 0x115 g + (td.toNat * 2 ^ 32 + xlo.toNat * 2 ^ 27 + xhi.toNat * 2 ^ 22)) 32 = td := by
    rw [low_bits _ _ _ _ (by decide)]; exact bits_eq (by omega)
  have e1 : bits (head 0x115 g + (td.toNat * 2 ^ 32 + xlo.toNat * 2 ^ 27 + xhi.toNat * 2 ^ 22)) 27 = xlo := by
    rw [low_bits _ _ _ _ (by decide)]; exact bits_eq (by omega)
  have e2 : bits (head 0x115 g + (td.toNat * 2 ^ 32 + xlo.toNat * 2 ^ 27 + xhi.toNat * 2 ^ 22)) 22 = xhi := by
    rw [low_bits _ _ _ _ (by decide)]; exact bits_eq (by omega)
  have e3 : bits (engW q + (m1.toNat * 2 ^ 39 + n1.toNat * 2 ^ 31)) 39 = m1 := by
    rw [eng_bits _ _ _ (by decide)]; exact bits_eq (by omega)
  have e4 : bits (engW q + (m1.toNat * 2 ^ 39 + n1.toNat * 2 ^ 31)) 31 = n1 := by
    rw [eng_bits _ _ _ (by decide)]; exact bits_eq (by omega)
  refine congrArg some ?_
  change Instr.tclamp (rawG (head 0x115 g + (td.toNat * 2 ^ 32 + xlo.toNat * 2 ^ 27 + xhi.toNat * 2 ^ 22))) (rawQ (engW q + (m1.toNat * 2 ^ 39 + n1.toNat * 2 ^ 31))) (bits (head 0x115 g + (td.toNat * 2 ^ 32 + xlo.toNat * 2 ^ 27 + xhi.toNat * 2 ^ 22)) 32) (bits (head 0x115 g + (td.toNat * 2 ^ 32 + xlo.toNat * 2 ^ 27 + xhi.toNat * 2 ^ 22)) 27) (bits (head 0x115 g + (td.toNat * 2 ^ 32 + xlo.toNat * 2 ^ 27 + xhi.toNat * 2 ^ 22)) 22) (rawShape (engW q + (m1.toNat * 2 ^ 39 + n1.toNat * 2 ^ 31))) = _
  simp only [h1, h2, e0, e1, e2, e3, e4, rawShape]

theorem mcast (g : Guard) (q : Eng) (ad : BitVec 4) (as : BitVec 4) (ranks : BitVec 4) (len1 : BitVec 22) : Statement (.mcast g q ad as ranks len1) := by
  have := ad.isLt
  have := as.isLt
  have := ranks.isLt
  have := len1.isLt
  refine ownFields (opc := 0x116) (g := g) (q := q) (b0 := ad.toNat * 2 ^ 28 + as.toNat * 2 ^ 24 + ranks.toNat * 2 ^ 20)
    (b1 := len1.toNat * 2 ^ 24) (by decide) rfl (by omega) (by omega) (fun h1 h2 => ?_)
  have e0 : bits (head 0x116 g + (ad.toNat * 2 ^ 28 + as.toNat * 2 ^ 24 + ranks.toNat * 2 ^ 20)) 28 = ad := by
    rw [low_bits _ _ _ _ (by decide)]; exact bits_eq (by omega)
  have e1 : bits (head 0x116 g + (ad.toNat * 2 ^ 28 + as.toNat * 2 ^ 24 + ranks.toNat * 2 ^ 20)) 24 = as := by
    rw [low_bits _ _ _ _ (by decide)]; exact bits_eq (by omega)
  have e2 : bits (head 0x116 g + (ad.toNat * 2 ^ 28 + as.toNat * 2 ^ 24 + ranks.toNat * 2 ^ 20)) 20 = ranks := by
    rw [low_bits _ _ _ _ (by decide)]; exact bits_eq (by omega)
  have e3 : bits (engW q + (len1.toNat * 2 ^ 24)) 24 = len1 := by
    rw [eng_bits _ _ _ (by decide)]; exact bits_eq (by omega)
  refine congrArg some ?_
  change Instr.mcast (rawG (head 0x116 g + (ad.toNat * 2 ^ 28 + as.toNat * 2 ^ 24 + ranks.toNat * 2 ^ 20))) (rawQ (engW q + (len1.toNat * 2 ^ 24))) (bits (head 0x116 g + (ad.toNat * 2 ^ 28 + as.toNat * 2 ^ 24 + ranks.toNat * 2 ^ 20)) 28) (bits (head 0x116 g + (ad.toNat * 2 ^ 28 + as.toNat * 2 ^ 24 + ranks.toNat * 2 ^ 20)) 24) (bits (head 0x116 g + (ad.toNat * 2 ^ 28 + as.toNat * 2 ^ 24 + ranks.toNat * 2 ^ 20)) 20) (bits (engW q + (len1.toNat * 2 ^ 24)) 24) = _
  simp only [h1, h2, e0, e1, e2, e3]

theorem mcwait (g : Guard) (q : Eng) (rank : BitVec 2) (count : BitVec 16) : Statement (.mcwait g q rank count) := by
  have := rank.isLt
  have := count.isLt
  refine ownFields (opc := 0x117) (g := g) (q := q) (b0 := rank.toNat * 2 ^ 33 + count.toNat * 2 ^ 16)
    (b1 := 0) (by decide) rfl (by omega) (by omega) (fun h1 h2 => ?_)
  have e0 : bits (head 0x117 g + (rank.toNat * 2 ^ 33 + count.toNat * 2 ^ 16)) 33 = rank := by
    rw [low_bits _ _ _ _ (by decide)]; exact bits_eq (by omega)
  have e1 : bits (head 0x117 g + (rank.toNat * 2 ^ 33 + count.toNat * 2 ^ 16)) 16 = count := by
    rw [low_bits _ _ _ _ (by decide)]; exact bits_eq (by omega)
  refine congrArg some ?_
  change Instr.mcwait (rawG (head 0x117 g + (rank.toNat * 2 ^ 33 + count.toNat * 2 ^ 16))) (rawQ (engW q + (0))) (bits (head 0x117 g + (rank.toNat * 2 ^ 33 + count.toNat * 2 ^ 16)) 33) (bits (head 0x117 g + (rank.toNat * 2 ^ 33 + count.toNat * 2 ^ 16)) 16) = _
  simp only [h1, h2, e0, e1]

theorem mcfgKset (g : Guard) (q : Eng) (kd : BitVec 4) (xs : BitVec 5) : Statement (.mcfgKset g q kd xs) := by
  have := kd.isLt
  have := xs.isLt
  refine ownFields (opc := 0x118) (g := g) (q := q) (b0 := kd.toNat * 2 ^ 28 + xs.toNat * 2 ^ 23)
    (b1 := 0) (by decide) rfl (by omega) (by omega) (fun h1 h2 => ?_)
  have ekd : bits (head 0x118 g + (kd.toNat * 2 ^ 28 + xs.toNat * 2 ^ 23)) 28 = kd := by
    rw [low_bits _ _ _ _ (by decide)]; exact bits_eq (by omega)
  have exs : bits (head 0x118 g + (kd.toNat * 2 ^ 28 + xs.toNat * 2 ^ 23)) 23 = xs := by
    rw [low_bits _ _ _ _ (by decide)]; exact bits_eq (by omega)
  have hk : field (head 0x118 g + (kd.toNat * 2 ^ 28 + xs.toNat * 2 ^ 23)) 32 3 = 0 := by rw [low_field _ _ _ _ _ (by decide)]; simp only [field]; omega
  refine (congrArg some (mcfg_0 _ _ hk)).trans ?_
  simp only [h1, h2, ekd, exs]

theorem mcfgKput (g : Guard) (q : Eng) (kd : BitVec 4) (xs : BitVec 5) (h : Bool) : Statement (.mcfgKput g q kd xs h) := by
  have := kd.isLt
  have := xs.isLt
  have := h.toNat_lt
  refine ownFields (opc := 0x118) (g := g) (q := q) (b0 := kd.toNat * 2 ^ 28 + xs.toNat * 2 ^ 23 + h.toNat * 2 ^ 22 + 2 ^ 32)
    (b1 := 0) (by decide) rfl (by omega) (by omega) (fun h1 h2 => ?_)
  have ekd : bits (head 0x118 g + (kd.toNat * 2 ^ 28 + xs.toNat * 2 ^ 23 + h.toNat * 2 ^ 22 + 2 ^ 32)) 28 = kd := by
    rw [low_bits _ _ _ _ (by decide)]; exact bits_eq (by omega)
  have exs : bits (head 0x118 g + (kd.toNat * 2 ^ 28 + xs.toNat * 2 ^ 23 + h.toNat * 2 ^ 22 + 2 ^ 32)) 23 = xs := by
    rw [low_bits _ _ _ _ (by decide)]; exact bits_eq (by omega)
  have eh : bitOf (head 0x118 g + (kd.toNat * 2 ^ 28 + xs.toNat * 2 ^ 23 + h.toNat * 2 ^ 22 + 2 ^ 32)) 22 = h := by
    rw [low_bitOf _ _ _ _ (by decide)]; exact bitOf_eq (by omega)
  have hk : field (head 0x118 g + (kd.toNat * 2 ^ 28 + xs.toNat * 2 ^ 23 + h.toNat * 2 ^ 22 + 2 ^ 32)) 32 3 = 1 := by rw [low_field _ _ _ _ _ (by decide)]; simp only [field]; omega
  refine (congrArg some (mcfg_1 _ _ hk)).trans ?_
  simp only [h1, h2, ekd, exs, eh]

theorem mcfgKlut (g : Guard) (q : Eng) (kd : BitVec 4) (ka : BitVec 4) (kb : BitVec 4) (kc : BitVec 4) (tt : BitVec 8) : Statement (.mcfgKlut g q kd ka kb kc tt) := by
  have := kd.isLt
  have := ka.isLt
  have := kb.isLt
  have := kc.isLt
  have := tt.isLt
  refine ownFields (opc := 0x118) (g := g) (q := q) (b0 := kd.toNat * 2 ^ 28 + ka.toNat * 2 ^ 24 + kb.toNat * 2 ^ 20 + kc.toNat * 2 ^ 16 + tt.toNat * 2 ^ 8 + 2 * 2 ^ 32)
    (b1 := 0) (by decide) rfl (by omega) (by omega) (fun h1 h2 => ?_)
  have ekd : bits (head 0x118 g + (kd.toNat * 2 ^ 28 + ka.toNat * 2 ^ 24 + kb.toNat * 2 ^ 20 + kc.toNat * 2 ^ 16 + tt.toNat * 2 ^ 8 + 2 * 2 ^ 32)) 28 = kd := by
    rw [low_bits _ _ _ _ (by decide)]; exact bits_eq (by omega)
  have eka : bits (head 0x118 g + (kd.toNat * 2 ^ 28 + ka.toNat * 2 ^ 24 + kb.toNat * 2 ^ 20 + kc.toNat * 2 ^ 16 + tt.toNat * 2 ^ 8 + 2 * 2 ^ 32)) 24 = ka := by
    rw [low_bits _ _ _ _ (by decide)]; exact bits_eq (by omega)
  have ekb : bits (head 0x118 g + (kd.toNat * 2 ^ 28 + ka.toNat * 2 ^ 24 + kb.toNat * 2 ^ 20 + kc.toNat * 2 ^ 16 + tt.toNat * 2 ^ 8 + 2 * 2 ^ 32)) 20 = kb := by
    rw [low_bits _ _ _ _ (by decide)]; exact bits_eq (by omega)
  have ekc : bits (head 0x118 g + (kd.toNat * 2 ^ 28 + ka.toNat * 2 ^ 24 + kb.toNat * 2 ^ 20 + kc.toNat * 2 ^ 16 + tt.toNat * 2 ^ 8 + 2 * 2 ^ 32)) 16 = kc := by
    rw [low_bits _ _ _ _ (by decide)]; exact bits_eq (by omega)
  have ett : bits (head 0x118 g + (kd.toNat * 2 ^ 28 + ka.toNat * 2 ^ 24 + kb.toNat * 2 ^ 20 + kc.toNat * 2 ^ 16 + tt.toNat * 2 ^ 8 + 2 * 2 ^ 32)) 8 = tt := by
    rw [low_bits _ _ _ _ (by decide)]; exact bits_eq (by omega)
  have hk : field (head 0x118 g + (kd.toNat * 2 ^ 28 + ka.toNat * 2 ^ 24 + kb.toNat * 2 ^ 20 + kc.toNat * 2 ^ 16 + tt.toNat * 2 ^ 8 + 2 * 2 ^ 32)) 32 3 = 2 := by rw [low_field _ _ _ _ _ (by decide)]; simp only [field]; omega
  refine (congrArg some (mcfg_2 _ _ hk)).trans ?_
  simp only [h1, h2, ekd, eka, ekb, ekc, ett]

theorem mtest (g : Guard) (q : Eng) : Statement (.mtest g q) := by
  refine ownFields (opc := 0x119) (g := g) (q := q) (b0 := 0)
    (b1 := 0) (by decide) rfl (by omega) (by omega) (fun h1 h2 => ?_)
  refine congrArg some ?_
  change Instr.mtest (rawG (head 0x119 g + (0))) (rawQ (engW q + (0))) = _
  simp only [h1, h2]

theorem mstat (g : Guard) (q : Eng) (xd : BitVec 5) (sel : BitVec 3) : Statement (.mstat g q xd sel) := by
  have := xd.isLt
  have := sel.isLt
  refine ownFields (opc := 0x11a) (g := g) (q := q) (b0 := xd.toNat * 2 ^ 30 + sel.toNat * 2 ^ 27)
    (b1 := 0) (by decide) rfl (by omega) (by omega) (fun h1 h2 => ?_)
  have e0 : bits (head 0x11a g + (xd.toNat * 2 ^ 30 + sel.toNat * 2 ^ 27)) 30 = xd := by
    rw [low_bits _ _ _ _ (by decide)]; exact bits_eq (by omega)
  have e1 : bits (head 0x11a g + (xd.toNat * 2 ^ 30 + sel.toNat * 2 ^ 27)) 27 = sel := by
    rw [low_bits _ _ _ _ (by decide)]; exact bits_eq (by omega)
  refine congrArg some ?_
  change Instr.mstat (rawG (head 0x11a g + (xd.toNat * 2 ^ 30 + sel.toNat * 2 ^ 27))) (rawQ (engW q + (0))) (bits (head 0x11a g + (xd.toNat * 2 ^ 30 + sel.toNat * 2 ^ 27)) 30) (bits (head 0x11a g + (xd.toNat * 2 ^ 30 + sel.toNat * 2 ^ 27)) 27) = _
  simp only [h1, h2, e0, e1]

theorem tcopy (g : Guard) (q : Eng) (td : BitVec 3) (ts : BitVec 3) (sh : Shape) : Statement (.tcopy g q td ts sh) := by
  obtain ⟨m1, n1⟩ := sh
  have := td.isLt
  have := ts.isLt
  have := m1.isLt
  have := n1.isLt
  refine ownFields (opc := 0x11b) (g := g) (q := q) (b0 := td.toNat * 2 ^ 32 + ts.toNat * 2 ^ 29)
    (b1 := m1.toNat * 2 ^ 39 + n1.toNat * 2 ^ 31) (by decide) rfl (by omega) (by omega) (fun h1 h2 => ?_)
  have e0 : bits (head 0x11b g + (td.toNat * 2 ^ 32 + ts.toNat * 2 ^ 29)) 32 = td := by
    rw [low_bits _ _ _ _ (by decide)]; exact bits_eq (by omega)
  have e1 : bits (head 0x11b g + (td.toNat * 2 ^ 32 + ts.toNat * 2 ^ 29)) 29 = ts := by
    rw [low_bits _ _ _ _ (by decide)]; exact bits_eq (by omega)
  have e2 : bits (engW q + (m1.toNat * 2 ^ 39 + n1.toNat * 2 ^ 31)) 39 = m1 := by
    rw [eng_bits _ _ _ (by decide)]; exact bits_eq (by omega)
  have e3 : bits (engW q + (m1.toNat * 2 ^ 39 + n1.toNat * 2 ^ 31)) 31 = n1 := by
    rw [eng_bits _ _ _ (by decide)]; exact bits_eq (by omega)
  refine congrArg some ?_
  change Instr.tcopy (rawG (head 0x11b g + (td.toNat * 2 ^ 32 + ts.toNat * 2 ^ 29))) (rawQ (engW q + (m1.toNat * 2 ^ 39 + n1.toNat * 2 ^ 31))) (bits (head 0x11b g + (td.toNat * 2 ^ 32 + ts.toNat * 2 ^ 29)) 32) (bits (head 0x11b g + (td.toNat * 2 ^ 32 + ts.toNat * 2 ^ 29)) 29) (rawShape (engW q + (m1.toNat * 2 ^ 39 + n1.toNat * 2 ^ 31))) = _
  simp only [h1, h2, e0, e1, e2, e3, rawShape]

theorem spmm (f : FmtSp) : Statement (.spmm f) :=
  twoWords (mk := .spmm) (opc := 0x140) (readsSp f) (by decide) rfl (fun _ _ h => h ▸ rfl)

theorem spmmz (f : FmtSp) : Statement (.spmmz f) :=
  twoWords (mk := .spmmz) (opc := 0x141) (readsSp f) (by decide) rfl (fun _ _ h => h ▸ rfl)

theorem spmmb (f : FmtSp) : Statement (.spmmb f) :=
  twoWords (mk := .spmmb) (opc := 0x142) (readsSp f) (by decide) rfl (fun _ _ h => h ▸ rfl)

theorem spmv (f : FmtSp) : Statement (.spmv f) :=
  twoWords (mk := .spmv) (opc := 0x143) (readsSp f) (by decide) rfl (fun _ _ h => h ▸ rfl)

theorem sddmm (f : FmtSp) : Statement (.sddmm f) :=
  twoWords (mk := .sddmm) (opc := 0x144) (readsSp f) (by decide) rfl (fun _ _ h => h ▸ rfl)

theorem spgath (f : FmtSp) : Statement (.spgath f) :=
  twoWords (mk := .spgath) (opc := 0x145) (readsSp f) (by decide) rfl (fun _ _ h => h ▸ rfl)

theorem spscat (f : FmtSp) : Statement (.spscat f) :=
  twoWords (mk := .spscat) (opc := 0x146) (readsSp f) (by decide) rfl (fun _ _ h => h ▸ rfl)

theorem spseg (f : FmtSp) : Statement (.spseg f) :=
  twoWords (mk := .spseg) (opc := 0x147) (readsSp f) (by decide) rfl (fun _ _ h => h ▸ rfl)

theorem spisect (f : FmtSp) : Statement (.spisect f) :=
  twoWords (mk := .spisect) (opc := 0x148) (readsSp f) (by decide) rfl (fun _ _ h => h ▸ rfl)

theorem spunion (f : FmtSp) : Statement (.spunion f) :=
  twoWords (mk := .spunion) (opc := 0x149) (readsSp f) (by decide) rfl (fun _ _ h => h ▸ rfl)

theorem spcsr (f : FmtSp) : Statement (.spcsr f) :=
  twoWords (mk := .spcsr) (opc := 0x14a) (readsSp f) (by decide) rfl (fun _ _ h => h ▸ rfl)

theorem spdense (f : FmtSp) : Statement (.spdense f) :=
  twoWords (mk := .spdense) (opc := 0x14b) (readsSp f) (by decide) rfl (fun _ _ h => h ▸ rfl)

theorem sptrans (f : FmtSp) : Statement (.sptrans f) :=
  twoWords (mk := .sptrans) (opc := 0x14c) (readsSp f) (by decide) rfl (fun _ _ h => h ▸ rfl)

theorem spcount (f : FmtSp) : Statement (.spcount f) :=
  twoWords (mk := .spcount) (opc := 0x14d) (readsSp f) (by decide) rfl (fun _ _ h => h ▸ rfl)

theorem spscan (f : FmtSp) : Statement (.spscan f) :=
  twoWords (mk := .spscan) (opc := 0x14e) (readsSp f) (by decide) rfl (fun _ _ h => h ▸ rfl)

theorem embag (f : FmtSp) : Statement (.embag f) :=
  twoWords (mk := .embag) (opc := 0x14f) (readsSp f) (by decide) rfl (fun _ _ h => h ▸ rfl)

theorem spcfg (g : Guard) (q : Eng) (item : BitVec 3) (xs : BitVec 5) : Statement (.spcfg g q item xs) := by
  have := item.isLt
  have := xs.isLt
  refine ownFields (opc := 0x150) (g := g) (q := q) (b0 := item.toNat * 2 ^ 32 + xs.toNat * 2 ^ 23)
    (b1 := 0) (by decide) rfl (by omega) (by omega) (fun h1 h2 => ?_)
  have e0 : bits (head 0x150 g + (item.toNat * 2 ^ 32 + xs.toNat * 2 ^ 23)) 32 = item := by
    rw [low_bits _ _ _ _ (by decide)]; exact bits_eq (by omega)
  have e1 : bits (head 0x150 g + (item.toNat * 2 ^ 32 + xs.toNat * 2 ^ 23)) 23 = xs := by
    rw [low_bits _ _ _ _ (by decide)]; exact bits_eq (by omega)
  refine congrArg some ?_
  change Instr.spcfg (rawG (head 0x150 g + (item.toNat * 2 ^ 32 + xs.toNat * 2 ^ 23))) (rawQ (engW q + (0))) (bits (head 0x150 g + (item.toNat * 2 ^ 32 + xs.toNat * 2 ^ 23)) 32) (bits (head 0x150 g + (item.toNat * 2 ^ 32 + xs.toNat * 2 ^ 23)) 23) = _
  simp only [h1, h2, e0, e1]

theorem spstat (g : Guard) (q : Eng) (xd : BitVec 5) (sel : BitVec 3) : Statement (.spstat g q xd sel) := by
  have := xd.isLt
  have := sel.isLt
  refine ownFields (opc := 0x151) (g := g) (q := q) (b0 := xd.toNat * 2 ^ 30 + sel.toNat * 2 ^ 27)
    (b1 := 0) (by decide) rfl (by omega) (by omega) (fun h1 h2 => ?_)
  have e0 : bits (head 0x151 g + (xd.toNat * 2 ^ 30 + sel.toNat * 2 ^ 27)) 30 = xd := by
    rw [low_bits _ _ _ _ (by decide)]; exact bits_eq (by omega)
  have e1 : bits (head 0x151 g + (xd.toNat * 2 ^ 30 + sel.toNat * 2 ^ 27)) 27 = sel := by
    rw [low_bits _ _ _ _ (by decide)]; exact bits_eq (by omega)
  refine congrArg some ?_
  change Instr.spstat (rawG (head 0x151 g + (xd.toNat * 2 ^ 30 + sel.toNat * 2 ^ 27))) (rawQ (engW q + (0))) (bits (head 0x151 g + (xd.toNat * 2 ^ 30 + sel.toNat * 2 ^ 27)) 30) (bits (head 0x151 g + (xd.toNat * 2 ^ 30 + sel.toNat * 2 ^ 27)) 27) = _
  simp only [h1, h2, e0, e1]

theorem sort (f : FmtSo) : Statement (.sort f) :=
  twoWords (mk := .sort) (opc := 0x160) (readsSo f) (by decide) rfl (fun _ _ h => h ▸ rfl)

theorem sortkv (f : FmtSo) : Statement (.sortkv f) :=
  twoWords (mk := .sortkv) (opc := 0x161) (readsSo f) (by decide) rfl (fun _ _ h => h ▸ rfl)

theorem topk (f : FmtSo) : Statement (.topk f) :=
  twoWords (mk := .topk) (opc := 0x162) (readsSo f) (by decide) rfl (fun _ _ h => h ▸ rfl)

theorem topkv (f : FmtSo) : Statement (.topkv f) :=
  twoWords (mk := .topkv) (opc := 0x163) (readsSo f) (by decide) rfl (fun _ _ h => h ▸ rfl)

theorem merge (f : FmtSo) : Statement (.merge f) :=
  twoWords (mk := .merge) (opc := 0x164) (readsSo f) (by decide) rfl (fun _ _ h => h ▸ rfl)

theorem mergekv (f : FmtSo) : Statement (.mergekv f) :=
  twoWords (mk := .mergekv) (opc := 0x165) (readsSo f) (by decide) rfl (fun _ _ h => h ▸ rfl)

theorem argsort (f : FmtSo) : Statement (.argsort f) :=
  twoWords (mk := .argsort) (opc := 0x166) (readsSo f) (by decide) rfl (fun _ _ h => h ▸ rfl)

theorem kth (f : FmtSo) : Statement (.kth f) :=
  twoWords (mk := .kth) (opc := 0x167) (readsSo f) (by decide) rfl (fun _ _ h => h ▸ rfl)

theorem unique (f : FmtSo) : Statement (.unique f) :=
  twoWords (mk := .unique) (opc := 0x168) (readsSo f) (by decide) rfl (fun _ _ h => h ▸ rfl)

theorem partn (f : FmtSo) : Statement (.partn f) :=
  twoWords (mk := .partn) (opc := 0x169) (readsSo f) (by decide) rfl (fun _ _ h => h ▸ rfl)

theorem histo (f : FmtSo) : Statement (.histo f) :=
  twoWords (mk := .histo) (opc := 0x16a) (readsSo f) (by decide) rfl (fun _ _ h => h ▸ rfl)

theorem search (f : FmtSo) : Statement (.search f) :=
  twoWords (mk := .search) (opc := 0x16b) (readsSo f) (by decide) rfl (fun _ _ h => h ▸ rfl)

theorem srtcfg (g : Guard) (q : Eng) (item : BitVec 3) (xs : BitVec 5) : Statement (.srtcfg g q item xs) := by
  have := item.isLt
  have := xs.isLt
  refine ownFields (opc := 0x16c) (g := g) (q := q) (b0 := item.toNat * 2 ^ 32 + xs.toNat * 2 ^ 23)
    (b1 := 0) (by decide) rfl (by omega) (by omega) (fun h1 h2 => ?_)
  have e0 : bits (head 0x16c g + (item.toNat * 2 ^ 32 + xs.toNat * 2 ^ 23)) 32 = item := by
    rw [low_bits _ _ _ _ (by decide)]; exact bits_eq (by omega)
  have e1 : bits (head 0x16c g + (item.toNat * 2 ^ 32 + xs.toNat * 2 ^ 23)) 23 = xs := by
    rw [low_bits _ _ _ _ (by decide)]; exact bits_eq (by omega)
  refine congrArg some ?_
  change Instr.srtcfg (rawG (head 0x16c g + (item.toNat * 2 ^ 32 + xs.toNat * 2 ^ 23))) (rawQ (engW q + (0))) (bits (head 0x16c g + (item.toNat * 2 ^ 32 + xs.toNat * 2 ^ 23)) 32) (bits (head 0x16c g + (item.toNat * 2 ^ 32 + xs.toNat * 2 ^ 23)) 23) = _
  simp only [h1, h2, e0, e1]

theorem srtstat (g : Guard) (q : Eng) (xd : BitVec 5) (sel : BitVec 3) : Statement (.srtstat g q xd sel) := by
  have := xd.isLt
  have := sel.isLt
  refine ownFields (opc := 0x16d) (g := g) (q := q) (b0 := xd.toNat * 2 ^ 30 + sel.toNat * 2 ^ 27)
    (b1 := 0) (by decide) rfl (by omega) (by omega) (fun h1 h2 => ?_)
  have e0 : bits (head 0x16d g + (xd.toNat * 2 ^ 30 + sel.toNat * 2 ^ 27)) 30 = xd := by
    rw [low_bits _ _ _ _ (by decide)]; exact bits_eq (by omega)
  have e1 : bits (head 0x16d g + (xd.toNat * 2 ^ 30 + sel.toNat * 2 ^ 27)) 27 = sel := by
    rw [low_bits _ _ _ _ (by decide)]; exact bits_eq (by omega)
  refine congrArg some ?_
  change Instr.srtstat (rawG (head 0x16d g + (xd.toNat * 2 ^ 30 + sel.toNat * 2 ^ 27))) (rawQ (engW q + (0))) (bits (head 0x16d g + (xd.toNat * 2 ^ 30 + sel.toNat * 2 ^ 27)) 30) (bits (head 0x16d g + (xd.toNat * 2 ^ 30 + sel.toNat * 2 ^ 27)) 27) = _
  simp only [h1, h2, e0, e1]

theorem xcopy (f : FmtX) : Statement (.xcopy f) :=
  twoWords (mk := .xcopy) (opc := 0x180) (readsX f) (by decide) rfl (fun _ _ h => h ▸ rfl)

theorem xcopyw (f : FmtX) : Statement (.xcopyw f) :=
  twoWords (mk := .xcopyw) (opc := 0x181) (readsX f) (by decide) rfl (fun _ _ h => h ▸ rfl)

theorem xcopyc (f : FmtX) : Statement (.xcopyc f) :=
  twoWords (mk := .xcopyc) (opc := 0x182) (readsX f) (by decide) rfl (fun _ _ h => h ▸ rfl)

theorem xcopyh (f : FmtX) : Statement (.xcopyh f) :=
  twoWords (mk := .xcopyh) (opc := 0x183) (readsX f) (by decide) rfl (fun _ _ h => h ▸ rfl)

theorem xfill (f : FmtX) : Statement (.xfill f) :=
  twoWords (mk := .xfill) (opc := 0x184) (readsX f) (by decide) rfl (fun _ _ h => h ▸ rfl)

theorem xgath (f : FmtX) : Statement (.xgath f) :=
  twoWords (mk := .xgath) (opc := 0x185) (readsX f) (by decide) rfl (fun _ _ h => h ▸ rfl)

theorem xred (f : FmtX) : Statement (.xred f) :=
  twoWords (mk := .xred) (opc := 0x186) (readsX f) (by decide) rfl (fun _ _ h => h ▸ rfl)

theorem xconv (f : FmtX) : Statement (.xconv f) :=
  twoWords (mk := .xconv) (opc := 0x187) (readsX f) (by decide) rfl (fun _ _ h => h ▸ rfl)

theorem xlayout (f : FmtX) : Statement (.xlayout f) :=
  twoWords (mk := .xlayout) (opc := 0x188) (readsX f) (by decide) rfl (fun _ _ h => h ▸ rfl)

theorem xpush (f : FmtX) : Statement (.xpush f) :=
  twoWords (mk := .xpush) (opc := 0x189) (readsX f) (by decide) rfl (fun _ _ h => h ▸ rfl)

theorem xpull (f : FmtX) : Statement (.xpull f) :=
  twoWords (mk := .xpull) (opc := 0x18a) (readsX f) (by decide) rfl (fun _ _ h => h ▸ rfl)

theorem xstream (g : Guard) (q : Eng) (k : BitVec 3) (ar : BitVec 4) : Statement (.xstream g q k ar) := by
  have := k.isLt
  have := ar.isLt
  refine ownFields (opc := 0x18b) (g := g) (q := q) (b0 := k.toNat * 2 ^ 32 + ar.toNat * 2 ^ 28)
    (b1 := 0) (by decide) rfl (by omega) (by omega) (fun h1 h2 => ?_)
  have e0 : bits (head 0x18b g + (k.toNat * 2 ^ 32 + ar.toNat * 2 ^ 28)) 32 = k := by
    rw [low_bits _ _ _ _ (by decide)]; exact bits_eq (by omega)
  have e1 : bits (head 0x18b g + (k.toNat * 2 ^ 32 + ar.toNat * 2 ^ 28)) 28 = ar := by
    rw [low_bits _ _ _ _ (by decide)]; exact bits_eq (by omega)
  refine congrArg some ?_
  change Instr.xstream (rawG (head 0x18b g + (k.toNat * 2 ^ 32 + ar.toNat * 2 ^ 28))) (rawQ (engW q + (0))) (bits (head 0x18b g + (k.toNat * 2 ^ 32 + ar.toNat * 2 ^ 28)) 32) (bits (head 0x18b g + (k.toNat * 2 ^ 32 + ar.toNat * 2 ^ 28)) 28) = _
  simp only [h1, h2, e0, e1]

theorem xstrend (g : Guard) (q : Eng) (k : BitVec 3) : Statement (.xstrend g q k) := by
  have := k.isLt
  refine ownFields (opc := 0x18c) (g := g) (q := q) (b0 := k.toNat * 2 ^ 32)
    (b1 := 0) (by decide) rfl (by omega) (by omega) (fun h1 h2 => ?_)
  have e0 : bits (head 0x18c g + (k.toNat * 2 ^ 32)) 32 = k := by
    rw [low_bits _ _ _ _ (by decide)]; exact bits_eq (by omega)
  refine congrArg some ?_
  change Instr.xstrend (rawG (head 0x18c g + (k.toNat * 2 ^ 32))) (rawQ (engW q + (0))) (bits (head 0x18c g + (k.toNat * 2 ^ 32)) 32) = _
  simp only [h1, h2, e0]

theorem xwptr (g : Guard) (q : Eng) (xd : BitVec 5) (c : BitVec 4) : Statement (.xwptr g q xd c) := by
  have := xd.isLt
  have := c.isLt
  refine ownFields (opc := 0x18d) (g := g) (q := q) (b0 := xd.toNat * 2 ^ 30 + c.toNat * 2 ^ 26)
    (b1 := 0) (by decide) rfl (by omega) (by omega) (fun h1 h2 => ?_)
  have e0 : bits (head 0x18d g + (xd.toNat * 2 ^ 30 + c.toNat * 2 ^ 26)) 30 = xd := by
    rw [low_bits _ _ _ _ (by decide)]; exact bits_eq (by omega)
  have e1 : bits (head 0x18d g + (xd.toNat * 2 ^ 30 + c.toNat * 2 ^ 26)) 26 = c := by
    rw [low_bits _ _ _ _ (by decide)]; exact bits_eq (by omega)
  refine congrArg some ?_
  change Instr.xwptr (rawG (head 0x18d g + (xd.toNat * 2 ^ 30 + c.toNat * 2 ^ 26))) (rawQ (engW q + (0))) (bits (head 0x18d g + (xd.toNat * 2 ^ 30 + c.toNat * 2 ^ 26)) 30) (bits (head 0x18d g + (xd.toNat * 2 ^ 30 + c.toNat * 2 ^ 26)) 26) = _
  simp only [h1, h2, e0, e1]

theorem xchan (g : Guard) (q : Eng) (c : BitVec 4) (ad : BitVec 4) : Statement (.xchan g q c ad) := by
  have := c.isLt
  have := ad.isLt
  refine ownFields (opc := 0x18e) (g := g) (q := q) (b0 := c.toNat * 2 ^ 31 + ad.toNat * 2 ^ 27)
    (b1 := 0) (by decide) rfl (by omega) (by omega) (fun h1 h2 => ?_)
  have ec : bits (head 0x18e g + (c.toNat * 2 ^ 31 + ad.toNat * 2 ^ 27)) 31 = c := by
    rw [low_bits _ _ _ _ (by decide)]; exact bits_eq (by omega)
  have ead : bits (head 0x18e g + (c.toNat * 2 ^ 31 + ad.toNat * 2 ^ 27)) 27 = ad := by
    rw [low_bits _ _ _ _ (by decide)]; exact bits_eq (by omega)
  have hk : bitOf (head 0x18e g + (c.toNat * 2 ^ 31 + ad.toNat * 2 ^ 27)) 26 = false := by rw [low_bitOf _ _ _ _ (by decide)]; simp only [bitOf, beq_eq_false_iff_ne, ne_eq]; omega
  refine (congrArg some (if_neg (by rw [hk]; decide))).trans ?_
  simp only [h1, h2, ec, ead]

theorem xchanClose (g : Guard) (q : Eng) (c : BitVec 4) : Statement (.xchanClose g q c) := by
  have := c.isLt
  refine ownFields (opc := 0x18e) (g := g) (q := q) (b0 := c.toNat * 2 ^ 31 + 2 ^ 26)
    (b1 := 0) (by decide) rfl (by omega) (by omega) (fun h1 h2 => ?_)
  have ec : bits (head 0x18e g + (c.toNat * 2 ^ 31 + 2 ^ 26)) 31 = c := by
    rw [low_bits _ _ _ _ (by decide)]; exact bits_eq (by omega)
  have hk : bitOf (head 0x18e g + (c.toNat * 2 ^ 31 + 2 ^ 26)) 26 = true := by rw [low_bitOf _ _ _ _ (by decide)]; simp only [bitOf, beq_iff_eq]; omega
  refine (congrArg some (if_pos (by rw [hk]))).trans ?_
  simp only [h1, h2, ec]

theorem xabort (g : Guard) (q : Eng) (c : BitVec 4) : Statement (.xabort g q c) := by
  have := c.isLt
  refine ownFields (opc := 0x18f) (g := g) (q := q) (b0 := c.toNat * 2 ^ 31)
    (b1 := 0) (by decide) rfl (by omega) (by omega) (fun h1 h2 => ?_)
  have e0 : bits (head 0x18f g + (c.toNat * 2 ^ 31)) 31 = c := by
    rw [low_bits _ _ _ _ (by decide)]; exact bits_eq (by omega)
  refine congrArg some ?_
  change Instr.xabort (rawG (head 0x18f g + (c.toNat * 2 ^ 31))) (rawQ (engW q + (0))) (bits (head 0x18f g + (c.toNat * 2 ^ 31)) 31) = _
  simp only [h1, h2, e0]

theorem amoadd (f : FmtA) : Statement (.amoadd f) :=
  twoWords (mk := .amoadd) (opc := 0x190) (readsA f) (by decide) rfl (fun _ _ h => h ▸ rfl)

theorem amomax (f : FmtA) : Statement (.amomax f) :=
  twoWords (mk := .amomax) (opc := 0x191) (readsA f) (by decide) rfl (fun _ _ h => h ▸ rfl)

theorem amomin (f : FmtA) : Statement (.amomin f) :=
  twoWords (mk := .amomin) (opc := 0x192) (readsA f) (by decide) rfl (fun _ _ h => h ▸ rfl)

theorem amoand (f : FmtA) : Statement (.amoand f) :=
  twoWords (mk := .amoand) (opc := 0x193) (readsA f) (by decide) rfl (fun _ _ h => h ▸ rfl)

theorem amoor (f : FmtA) : Statement (.amoor f) :=
  twoWords (mk := .amoor) (opc := 0x194) (readsA f) (by decide) rfl (fun _ _ h => h ▸ rfl)

theorem amoxch (f : FmtA) : Statement (.amoxch f) :=
  twoWords (mk := .amoxch) (opc := 0x195) (readsA f) (by decide) rfl (fun _ _ h => h ▸ rfl)

theorem amocas (f : FmtA) : Statement (.amocas f) :=
  twoWords (mk := .amocas) (opc := 0x196) (readsA f) (by decide) rfl (fun _ _ h => h ▸ rfl)

theorem phase (g : Guard) (q : Eng) (scope : BitVec 2) (group : Bool) : Statement (.phase g q scope group) := by
  have := scope.isLt
  have := group.toNat_lt
  refine ownFields (opc := 0x197) (g := g) (q := q) (b0 := scope.toNat * 2 ^ 33 + group.toNat * 2 ^ 32)
    (b1 := 0) (by decide) rfl (by omega) (by omega) (fun h1 h2 => ?_)
  have e0 : bits (head 0x197 g + (scope.toNat * 2 ^ 33 + group.toNat * 2 ^ 32)) 33 = scope := by
    rw [low_bits _ _ _ _ (by decide)]; exact bits_eq (by omega)
  have e1 : bitOf (head 0x197 g + (scope.toNat * 2 ^ 33 + group.toNat * 2 ^ 32)) 32 = group := by
    rw [low_bitOf _ _ _ _ (by decide)]; exact bitOf_eq (by omega)
  refine congrArg some ?_
  change Instr.phase (rawG (head 0x197 g + (scope.toNat * 2 ^ 33 + group.toNat * 2 ^ 32))) (rawQ (engW q + (0))) (bits (head 0x197 g + (scope.toNat * 2 ^ 33 + group.toNat * 2 ^ 32)) 33) (bitOf (head 0x197 g + (scope.toNat * 2 ^ 33 + group.toNat * 2 ^ 32)) 32) = _
  simp only [h1, h2, e0, e1]

theorem fence (g : Guard) (q : Eng) (scope : BitVec 2) : Statement (.fence g q scope) := by
  have := scope.isLt
  refine ownFields (opc := 0x198) (g := g) (q := q) (b0 := scope.toNat * 2 ^ 33)
    (b1 := 0) (by decide) rfl (by omega) (by omega) (fun h1 h2 => ?_)
  have e0 : bits (head 0x198 g + (scope.toNat * 2 ^ 33)) 33 = scope := by
    rw [low_bits _ _ _ _ (by decide)]; exact bits_eq (by omega)
  refine congrArg some ?_
  change Instr.fence (rawG (head 0x198 g + (scope.toNat * 2 ^ 33))) (rawQ (engW q + (0))) (bits (head 0x198 g + (scope.toNat * 2 ^ 33)) 33) = _
  simp only [h1, h2, e0]

theorem cbar (g : Guard) (q : Eng) : Statement (.cbar g q) := by
  refine ownFields (opc := 0x199) (g := g) (q := q) (b0 := 0)
    (b1 := 0) (by decide) rfl (by omega) (by omega) (fun h1 h2 => ?_)
  refine congrArg some ?_
  change Instr.cbar (rawG (head 0x199 g + (0))) (rawQ (engW q + (0))) = _
  simp only [h1, h2]

theorem balloc (g : Guard) (q : Eng) (xd : BitVec 5) (ad : BitVec 4) (slot : BitVec 4) : Statement (.balloc g q xd ad slot) := by
  have := xd.isLt
  have := ad.isLt
  have := slot.isLt
  refine ownFields (opc := 0x19a) (g := g) (q := q) (b0 := xd.toNat * 2 ^ 30 + ad.toNat * 2 ^ 26 + slot.toNat * 2 ^ 22)
    (b1 := 0) (by decide) rfl (by omega) (by omega) (fun h1 h2 => ?_)
  have e0 : bits (head 0x19a g + (xd.toNat * 2 ^ 30 + ad.toNat * 2 ^ 26 + slot.toNat * 2 ^ 22)) 30 = xd := by
    rw [low_bits _ _ _ _ (by decide)]; exact bits_eq (by omega)
  have e1 : bits (head 0x19a g + (xd.toNat * 2 ^ 30 + ad.toNat * 2 ^ 26 + slot.toNat * 2 ^ 22)) 26 = ad := by
    rw [low_bits _ _ _ _ (by decide)]; exact bits_eq (by omega)
  have e2 : bits (head 0x19a g + (xd.toNat * 2 ^ 30 + ad.toNat * 2 ^ 26 + slot.toNat * 2 ^ 22)) 22 = slot := by
    rw [low_bits _ _ _ _ (by decide)]; exact bits_eq (by omega)
  refine congrArg some ?_
  change Instr.balloc (rawG (head 0x19a g + (xd.toNat * 2 ^ 30 + ad.toNat * 2 ^ 26 + slot.toNat * 2 ^ 22))) (rawQ (engW q + (0))) (bits (head 0x19a g + (xd.toNat * 2 ^ 30 + ad.toNat * 2 ^ 26 + slot.toNat * 2 ^ 22)) 30) (bits (head 0x19a g + (xd.toNat * 2 ^ 30 + ad.toNat * 2 ^ 26 + slot.toNat * 2 ^ 22)) 26) (bits (head 0x19a g + (xd.toNat * 2 ^ 30 + ad.toNat * 2 ^ 26 + slot.toNat * 2 ^ 22)) 22) = _
  simp only [h1, h2, e0, e1, e2]

theorem bref (g : Guard) (q : Eng) (as : BitVec 4) : Statement (.bref g q as) := by
  have := as.isLt
  refine ownFields (opc := 0x19b) (g := g) (q := q) (b0 := as.toNat * 2 ^ 26)
    (b1 := 0) (by decide) rfl (by omega) (by omega) (fun h1 h2 => ?_)
  have e0 : bits (head 0x19b g + (as.toNat * 2 ^ 26)) 26 = as := by
    rw [low_bits _ _ _ _ (by decide)]; exact bits_eq (by omega)
  refine congrArg some ?_
  change Instr.bref (rawG (head 0x19b g + (as.toNat * 2 ^ 26))) (rawQ (engW q + (0))) (bits (head 0x19b g + (as.toNat * 2 ^ 26)) 26) = _
  simp only [h1, h2, e0]

theorem bdrop (g : Guard) (q : Eng) (as : BitVec 4) : Statement (.bdrop g q as) := by
  have := as.isLt
  refine ownFields (opc := 0x19c) (g := g) (q := q) (b0 := as.toNat * 2 ^ 26)
    (b1 := 0) (by decide) rfl (by omega) (by omega) (fun h1 h2 => ?_)
  have e0 : bits (head 0x19c g + (as.toNat * 2 ^ 26)) 26 = as := by
    rw [low_bits _ _ _ _ (by decide)]; exact bits_eq (by omega)
  refine congrArg some ?_
  change Instr.bdrop (rawG (head 0x19c g + (as.toNat * 2 ^ 26))) (rawQ (engW q + (0))) (bits (head 0x19c g + (as.toNat * 2 ^ 26)) 26) = _
  simp only [h1, h2, e0]

theorem bxfer (g : Guard) (q : Eng) (as : BitVec 4) (xa : BitVec 5) (rights : BitVec 5) : Statement (.bxfer g q as xa rights) := by
  have := as.isLt
  have := xa.isLt
  have := rights.isLt
  refine ownFields (opc := 0x19d) (g := g) (q := q) (b0 := as.toNat * 2 ^ 26 + xa.toNat * 2 ^ 21 + rights.toNat * 2 ^ 16)
    (b1 := 0) (by decide) rfl (by omega) (by omega) (fun h1 h2 => ?_)
  have e0 : bits (head 0x19d g + (as.toNat * 2 ^ 26 + xa.toNat * 2 ^ 21 + rights.toNat * 2 ^ 16)) 26 = as := by
    rw [low_bits _ _ _ _ (by decide)]; exact bits_eq (by omega)
  have e1 : bits (head 0x19d g + (as.toNat * 2 ^ 26 + xa.toNat * 2 ^ 21 + rights.toNat * 2 ^ 16)) 21 = xa := by
    rw [low_bits _ _ _ _ (by decide)]; exact bits_eq (by omega)
  have e2 : bits (head 0x19d g + (as.toNat * 2 ^ 26 + xa.toNat * 2 ^ 21 + rights.toNat * 2 ^ 16)) 16 = rights := by
    rw [low_bits _ _ _ _ (by decide)]; exact bits_eq (by omega)
  refine congrArg some ?_
  change Instr.bxfer (rawG (head 0x19d g + (as.toNat * 2 ^ 26 + xa.toNat * 2 ^ 21 + rights.toNat * 2 ^ 16))) (rawQ (engW q + (0))) (bits (head 0x19d g + (as.toNat * 2 ^ 26 + xa.toNat * 2 ^ 21 + rights.toNat * 2 ^ 16)) 26) (bits (head 0x19d g + (as.toNat * 2 ^ 26 + xa.toNat * 2 ^ 21 + rights.toNat * 2 ^ 16)) 21) (bits (head 0x19d g + (as.toNat * 2 ^ 26 + xa.toNat * 2 ^ 21 + rights.toNat * 2 ^ 16)) 16) = _
  simp only [h1, h2, e0, e1, e2]

theorem gsubmit (g : Guard) (q : Eng) (xq : BitVec 5) (ar : BitVec 4) : Statement (.gsubmit g q xq ar) := by
  have := xq.isLt
  have := ar.isLt
  refine ownFields (opc := 0x19e) (g := g) (q := q) (b0 := xq.toNat * 2 ^ 30 + ar.toNat * 2 ^ 26)
    (b1 := 0) (by decide) rfl (by omega) (by omega) (fun h1 h2 => ?_)
  have e0 : bits (head 0x19e g + (xq.toNat * 2 ^ 30 + ar.toNat * 2 ^ 26)) 30 = xq := by
    rw [low_bits _ _ _ _ (by decide)]; exact bits_eq (by omega)
  have e1 : bits (head 0x19e g + (xq.toNat * 2 ^ 30 + ar.toNat * 2 ^ 26)) 26 = ar := by
    rw [low_bits _ _ _ _ (by decide)]; exact bits_eq (by omega)
  refine congrArg some ?_
  change Instr.gsubmit (rawG (head 0x19e g + (xq.toNat * 2 ^ 30 + ar.toNat * 2 ^ 26))) (rawQ (engW q + (0))) (bits (head 0x19e g + (xq.toNat * 2 ^ 30 + ar.toNat * 2 ^ 26)) 30) (bits (head 0x19e g + (xq.toNat * 2 ^ 30 + ar.toNat * 2 ^ 26)) 26) = _
  simp only [h1, h2, e0, e1]

theorem gsignal (g : Guard) (q : Eng) (ab : BitVec 4) (n : BitVec 8) : Statement (.gsignal g q ab n) := by
  have := ab.isLt
  have := n.isLt
  refine ownFields (opc := 0x19f) (g := g) (q := q) (b0 := ab.toNat * 2 ^ 26 + n.toNat * 2 ^ 18)
    (b1 := 0) (by decide) rfl (by omega) (by omega) (fun h1 h2 => ?_)
  have e0 : bits (head 0x19f g + (ab.toNat * 2 ^ 26 + n.toNat * 2 ^ 18)) 26 = ab := by
    rw [low_bits _ _ _ _ (by decide)]; exact bits_eq (by omega)
  have e1 : bits (head 0x19f g + (ab.toNat * 2 ^ 26 + n.toNat * 2 ^ 18)) 18 = n := by
    rw [low_bits _ _ _ _ (by decide)]; exact bits_eq (by omega)
  refine congrArg some ?_
  change Instr.gsignal (rawG (head 0x19f g + (ab.toNat * 2 ^ 26 + n.toNat * 2 ^ 18))) (rawQ (engW q + (0))) (bits (head 0x19f g + (ab.toNat * 2 ^ 26 + n.toNat * 2 ^ 18)) 26) (bits (head 0x19f g + (ab.toNat * 2 ^ 26 + n.toNat * 2 ^ 18)) 18) = _
  simp only [h1, h2, e0, e1]

theorem gwait (g : Guard) (q : Eng) (xd : BitVec 5) (xq : BitVec 5) : Statement (.gwait g q xd xq) := by
  have := xd.isLt
  have := xq.isLt
  refine ownFields (opc := 0x1a0) (g := g) (q := q) (b0 := xd.toNat * 2 ^ 30 + xq.toNat * 2 ^ 25)
    (b1 := 0) (by decide) rfl (by omega) (by omega) (fun h1 h2 => ?_)
  have e0 : bits (head 0x1a0 g + (xd.toNat * 2 ^ 30 + xq.toNat * 2 ^ 25)) 30 = xd := by
    rw [low_bits _ _ _ _ (by decide)]; exact bits_eq (by omega)
  have e1 : bits (head 0x1a0 g + (xd.toNat * 2 ^ 30 + xq.toNat * 2 ^ 25)) 25 = xq := by
    rw [low_bits _ _ _ _ (by decide)]; exact bits_eq (by omega)
  refine congrArg some ?_
  change Instr.gwait (rawG (head 0x1a0 g + (xd.toNat * 2 ^ 30 + xq.toNat * 2 ^ 25))) (rawQ (engW q + (0))) (bits (head 0x1a0 g + (xd.toNat * 2 ^ 30 + xq.toNat * 2 ^ 25)) 30) (bits (head 0x1a0 g + (xd.toNat * 2 ^ 30 + xq.toNat * 2 ^ 25)) 25) = _
  simp only [h1, h2, e0, e1]

theorem arrwait (g : Guard) (q : Eng) (ab : BitVec 4) (xv : BitVec 5) : Statement (.arrwait g q ab xv) := by
  have := ab.isLt
  have := xv.isLt
  refine ownFields (opc := 0x1a1) (g := g) (q := q) (b0 := ab.toNat * 2 ^ 26 + xv.toNat * 2 ^ 21)
    (b1 := 0) (by decide) rfl (by omega) (by omega) (fun h1 h2 => ?_)
  have e0 : bits (head 0x1a1 g + (ab.toNat * 2 ^ 26 + xv.toNat * 2 ^ 21)) 26 = ab := by
    rw [low_bits _ _ _ _ (by decide)]; exact bits_eq (by omega)
  have e1 : bits (head 0x1a1 g + (ab.toNat * 2 ^ 26 + xv.toNat * 2 ^ 21)) 21 = xv := by
    rw [low_bits _ _ _ _ (by decide)]; exact bits_eq (by omega)
  refine congrArg some ?_
  change Instr.arrwait (rawG (head 0x1a1 g + (ab.toNat * 2 ^ 26 + xv.toNat * 2 ^ 21))) (rawQ (engW q + (0))) (bits (head 0x1a1 g + (ab.toNat * 2 ^ 26 + xv.toNat * 2 ^ 21)) 26) (bits (head 0x1a1 g + (ab.toNat * 2 ^ 26 + xv.toNat * 2 ^ 21)) 21) = _
  simp only [h1, h2, e0, e1]

theorem hnotify (g : Guard) (q : Eng) (xv : BitVec 5) (xp : BitVec 5) : Statement (.hnotify g q xv xp) := by
  have := xv.isLt
  have := xp.isLt
  refine ownFields (opc := 0x1a2) (g := g) (q := q) (b0 := xv.toNat * 2 ^ 30 + xp.toNat * 2 ^ 25)
    (b1 := 0) (by decide) rfl (by omega) (by omega) (fun h1 h2 => ?_)
  have e0 : bits (head 0x1a2 g + (xv.toNat * 2 ^ 30 + xp.toNat * 2 ^ 25)) 30 = xv := by
    rw [low_bits _ _ _ _ (by decide)]; exact bits_eq (by omega)
  have e1 : bits (head 0x1a2 g + (xv.toNat * 2 ^ 30 + xp.toNat * 2 ^ 25)) 25 = xp := by
    rw [low_bits _ _ _ _ (by decide)]; exact bits_eq (by omega)
  refine congrArg some ?_
  change Instr.hnotify (rawG (head 0x1a2 g + (xv.toNat * 2 ^ 30 + xp.toNat * 2 ^ 25))) (rawQ (engW q + (0))) (bits (head 0x1a2 g + (xv.toNat * 2 ^ 30 + xp.toNat * 2 ^ 25)) 30) (bits (head 0x1a2 g + (xv.toNat * 2 ^ 30 + xp.toNat * 2 ^ 25)) 25) = _
  simp only [h1, h2, e0, e1]

theorem xpend (g : Guard) (q : Eng) (xd : BitVec 5) : Statement (.xpend g q xd) := by
  have := xd.isLt
  refine ownFields (opc := 0x1a3) (g := g) (q := q) (b0 := xd.toNat * 2 ^ 30)
    (b1 := 0) (by decide) rfl (by omega) (by omega) (fun h1 h2 => ?_)
  have e0 : bits (head 0x1a3 g + (xd.toNat * 2 ^ 30)) 30 = xd := by
    rw [low_bits _ _ _ _ (by decide)]; exact bits_eq (by omega)
  refine congrArg some ?_
  change Instr.xpend (rawG (head 0x1a3 g + (xd.toNat * 2 ^ 30))) (rawQ (engW q + (0))) (bits (head 0x1a3 g + (xd.toNat * 2 ^ 30)) 30) = _
  simp only [h1, h2, e0]

theorem trap (f : FmtY) : Statement (.trap f) :=
  oneWord (mk := .trap) (opc := 0x1c0) (readsY f) (by decide) rfl rfl (fun _ _ _ h => h ▸ rfl)

theorem eret (f : FmtY) : Statement (.eret f) :=
  oneWord (mk := .eret) (opc := 0x1c1) (readsY f) (by decide) rfl rfl (fun _ _ _ h => h ▸ rfl)

theorem ecallTime (f : FmtY) : Statement (.ecallTime f) :=
  oneWord (mk := .ecallTime) (opc := 0x1c2) (readsY f) (by decide) rfl rfl (fun hw w0 w1 h => by
    have hw := wf0_of (b := yOk false false false (· == 0) f) hw rfl
    simp only [yOk, Bool.and_eq_true, beq_iff_eq] at hw
    rw [at_1c2, ecall_0 (by rw [imm_field h, hw.2]), h])

theorem ecallErrorCount (f : FmtY) : Statement (.ecallErrorCount f) :=
  oneWord (mk := .ecallErrorCount) (opc := 0x1c2) (readsY f) (by decide) rfl rfl (fun hw w0 w1 h => by
    have hw := wf0_of (b := yOk false false false (· == 1) f) hw rfl
    simp only [yOk, Bool.and_eq_true, beq_iff_eq] at hw
    rw [at_1c2, ecall_1 (by rw [imm_field h, hw.2]), h])

theorem ecallLocation (f : FmtY) : Statement (.ecallLocation f) :=
  oneWord (mk := .ecallLocation) (opc := 0x1c2) (readsY f) (by decide) rfl rfl (fun hw w0 w1 h => by
    have hw := wf0_of (b := yOk false false false (· == 2) f) hw rfl
    simp only [yOk, Bool.and_eq_true, beq_iff_eq] at hw
    rw [at_1c2, ecall_2 (by rw [imm_field h, hw.2]), h])

theorem ecallDiscovery (f : FmtY) : Statement (.ecallDiscovery f) :=
  oneWord (mk := .ecallDiscovery) (opc := 0x1c2) (readsY f) (by decide) rfl rfl (fun hw w0 w1 h => by
    have hw := wf0_of (b := yOk false false false (· == 3) f) hw rfl
    simp only [yOk, Bool.and_eq_true, beq_iff_eq] at hw
    rw [at_1c2, ecall_3 (by rw [imm_field h, hw.2]), h])

theorem ecallUnsupported (f : FmtY) : Statement (.ecallUnsupported f) :=
  oneWord (mk := .ecallUnsupported) (opc := 0x1c2) (readsY f) (by decide) rfl rfl (fun hw w0 w1 h => by
    have hw := wf0_of (b := yOk false false false (4 ≤ ·) f) hw rfl
    simp only [yOk, Bool.and_eq_true, decide_eq_true_eq] at hw
    rw [at_1c2, ecall_4 (by rw [imm_field h]; exact hw.2), h])

theorem ctxsave (f : FmtY) : Statement (.ctxsave f) :=
  oneWord (mk := .ctxsave) (opc := 0x1c3) (readsY f) (by decide) rfl rfl (fun _ _ _ h => h ▸ rfl)

theorem ctxload (f : FmtY) : Statement (.ctxload f) :=
  oneWord (mk := .ctxload) (opc := 0x1c4) (readsY f) (by decide) rfl rfl (fun _ _ _ h => h ▸ rfl)

theorem leaseq (f : FmtY) : Statement (.leaseq f) :=
  oneWord (mk := .leaseq) (opc := 0x1c5) (readsY f) (by decide) rfl rfl (fun _ _ _ h => h ▸ rfl)

theorem sechash (f : FmtY) : Statement (.sechash f) :=
  oneWord (mk := .sechash) (opc := 0x1c6) (readsY f) (by decide) rfl rfl (fun _ _ _ h => h ▸ rfl)

theorem secver (f : FmtY) : Statement (.secver f) :=
  oneWord (mk := .secver) (opc := 0x1c7) (readsY f) (by decide) rfl rfl (fun _ _ _ h => h ▸ rfl)

theorem secmeas (f : FmtY) : Statement (.secmeas f) :=
  oneWord (mk := .secmeas) (opc := 0x1c8) (readsY f) (by decide) rfl rfl (fun _ _ _ h => h ▸ rfl)

theorem secatt (f : FmtY) : Statement (.secatt f) :=
  oneWord (mk := .secatt) (opc := 0x1c9) (readsY f) (by decide) rfl rfl (fun _ _ _ h => h ▸ rfl)

theorem wdpet (f : FmtY) : Statement (.wdpet f) :=
  oneWord (mk := .wdpet) (opc := 0x1ca) (readsY f) (by decide) rfl rfl (fun _ _ _ h => h ▸ rfl)

theorem bblog (f : FmtY) : Statement (.bblog f) :=
  oneWord (mk := .bblog) (opc := 0x1cb) (readsY f) (by decide) rfl rfl (fun _ _ _ h => h ▸ rfl)

theorem fwslotCommit (f : FmtS) : Statement (.fwslotCommit f) :=
  oneWord (mk := .fwslotCommit) (opc := 0x5f) (readsS f) (by decide) rfl rfl (fun hw w0 w1 h => by
    have hw := wf0_of (b := sOk .spec .x o2Zero f && f.d == 11) hw rfl
    simp only [Bool.and_eq_true, beq_iff_eq] at hw
    rw [at_5f, if_pos (by rw [d_field h, hw.2]; rfl), h])

theorem longLatencyResult (k : Nat) (c : CoreIx) (i : Nat) : Statement (.longLatencyResult k c i) := event rfl

theorem semGrant (k n : Nat) : Statement (.semGrant k n) := event rfl

theorem mutexGrant (k m : Nat) : Statement (.mutexGrant k m) := event rfl

theorem waitwpRelease (k : Nat) (c : CoreIx) : Statement (.waitwpRelease k c) := event rfl

theorem eqdrainRelease (k : Nat) (c : CoreIx) : Statement (.eqdrainRelease k c) := event rfl

theorem pauseWake (k : Nat) (c : CoreIx) : Statement (.pauseWake k c) := event rfl

theorem pauseTimeout (k : Nat) (c : CoreIx) : Statement (.pauseTimeout k c) := event rfl

theorem queuePushResume (k : Nat) (c : CoreIx) : Statement (.queuePushResume k c) := event rfl

theorem engineWaitGrant (k : Nat) (e : EngIx) : Statement (.engineWaitGrant k e) := event rfl

theorem engineEntryStart (k : Nat) (e : EngIx) : Statement (.engineEntryStart k e) := event rfl

theorem engineEntryComplete (k : Nat) (e : EngIx) : Statement (.engineEntryComplete k e) := event rfl

theorem farEndReply (k : Nat) : Statement (.farEndReply k) := event rfl

theorem postedWriteLand (k i : Nat) : Statement (.postedWriteLand k i) := event rfl

theorem groupRendezvous (k : Nat) (kind : GroupKind) : Statement (.groupRendezvous k kind) := event rfl

theorem mcastArrival (k : Nat) : Statement (.mcastArrival k) := event rfl

theorem mcwaitRelease (k : Nat) : Statement (.mcwaitRelease k) := event rfl

theorem selftestCount (k : Nat) : Statement (.selftestCount k) := event rfl

theorem selftestTimer (k : Nat) : Statement (.selftestTimer k) := event rfl

theorem publicationComplete (k i : Nat) : Statement (.publicationComplete k i) := event rfl

theorem launchBankSwap (k : Nat) : Statement (.launchBankSwap k) := event rfl

theorem taskEndByFault (k : Nat) : Statement (.taskEndByFault k) := event rfl

theorem preemptSwap (k : Nat) : Statement (.preemptSwap k) := event rfl

theorem taskResume (k : Nat) : Statement (.taskResume k) := event rfl

theorem nodeAccept (i : Nat) : Statement (.nodeAccept i) := event rfl

theorem schedulerDecision : Statement (.schedulerDecision) := event rfl

theorem nodeRetire (n : Nat) : Statement (.nodeRetire n) := event rfl

theorem eventNodeSatisfied (n : Nat) : Statement (.eventNodeSatisfied n) := event rfl

theorem loopIteration (n : Nat) : Statement (.loopIteration n) := event rfl

theorem eventRecordWrite (asid : Nat) : Statement (.eventRecordWrite asid) := event rfl

theorem msixFirstTimer (v : Nat) : Statement (.msixFirstTimer v) := event rfl

theorem msixIdleTimer (v : Nat) : Statement (.msixIdleTimer v) := event rfl

theorem msixUnmask (v : Nat) : Statement (.msixUnmask v) := event rfl

theorem hostRegisterWrite (addr : Nat) (val : Word) : Statement (.hostRegisterWrite addr val) := event rfl

theorem hostWindowRead (w off len : Nat) : Statement (.hostWindowRead w off len) := event rfl

theorem hostWindowWrite (w off : Nat) (data : List Byte) : Statement (.hostWindowWrite w off data) := event rfl

theorem atsInvalidation (pasid page : Nat) : Statement (.atsInvalidation pasid page) := event rfl

theorem atsInvalidationComplete (pasid page : Nat) : Statement (.atsInvalidationComplete pasid page) := event rfl

theorem translationResponse (pasid page : Nat) (ok : Bool) : Statement (.translationResponse pasid page ok) := event rfl

theorem replayRelease (k : Nat) : Statement (.replayRelease k) := event rfl

theorem hostPageRefused (k : Nat) : Statement (.hostPageRefused k) := event rfl

theorem streamOpen (link : Nat) (f : Flit) : Statement (.streamOpen link f) := event rfl

theorem streamData (link : Nat) (f : Flit) : Statement (.streamData link f) := event rfl

theorem streamClose (link : Nat) (f : Flit) : Statement (.streamClose link f) := event rfl

theorem credit (link : Nat) (f : Flit) : Statement (.credit link f) := event rfl

theorem flitCrcReplay (link : Nat) (f : Flit) : Statement (.flitCrcReplay link f) := event rfl

theorem pushData (m : Msg) : Statement (.pushData m) := event rfl

theorem pushDone (m : Msg) : Statement (.pushDone m) := event rfl

theorem pushAck (m : Msg) : Statement (.pushAck m) := event rfl

theorem pullReq (m : Msg) : Statement (.pullReq m) := event rfl

theorem pullData (m : Msg) : Statement (.pullData m) := event rfl

theorem pullDone (m : Msg) : Statement (.pullDone m) := event rfl

theorem epoch (m : Msg) : Statement (.epoch m) := event rfl

theorem odsogaUnknownType (m : Msg) : Statement (.odsogaUnknownType m) := event rfl

theorem moduleUnreachable (m : Nat) : Statement (.moduleUnreachable m) := event rfl

theorem odsogaLaneLoss (port : Nat) : Statement (.odsogaLaneLoss port) := event rfl

theorem asidCreate (asid gen ringBase ringK : Nat) : Statement (.asidCreate asid gen ringBase ringK) := event rfl

theorem asidRetire (asid gen : Nat) : Statement (.asidRetire asid gen) := event rfl

theorem asidSweepComplete (asid : Nat) : Statement (.asidSweepComplete asid) := event rfl

theorem bufAlloc (asid gen : Nat) (template : List Word) : Statement (.bufAlloc asid gen template) := event rfl

theorem bufDrop (asid gen handle : Nat) : Statement (.bufDrop asid gen handle) := event rfl

theorem map (w asid gen handle off : Nat) (rights : BitVec 5) : Statement (.map w asid gen handle off rights) := event rfl

theorem unmap (w : Nat) : Statement (.unmap w) := event rfl

theorem sync (asid gen : Nat) : Statement (.sync asid gen) := event rfl

theorem queueCfg (q : Nat) (w0 w1 : Word) : Statement (.queueCfg q w0 w1) := event rfl

theorem submit (q asid gen : Nat) (record : List Word) : Statement (.submit q asid gen record) := event rfl

theorem quota (o : Owner) (granules : Nat) : Statement (.quota o granules) := event rfl

theorem remoteExport (asid gen handle base limit : Nat) (rights : BitVec 5) : Statement (.remoteExport asid gen handle base limit rights) := event rfl

theorem remoteImport (asid gen target module epoch base limit : Nat) (rights : BitVec 5) (desc : List Word) : Statement (.remoteImport asid gen target module epoch base limit rights desc) := event rfl

theorem dieOffline (slot : Nat) (force : Bool) : Statement (.dieOffline slot force) := event rfl

theorem dieOfflineComplete (slot : Nat) : Statement (.dieOfflineComplete slot) := event rfl

theorem evacuationComplete (slot : Nat) : Statement (.evacuationComplete slot) := event rfl

theorem dieOnline (slot : Nat) : Statement (.dieOnline slot) := event rfl

theorem readDesc (oh : Owner × Nat) : Statement (.readDesc oh) := event rfl

theorem foxRead (q : Nat) (o : Owner) : Statement (.foxRead q o) := event rfl

theorem mailboxUnknownCode (code : Nat) : Statement (.mailboxUnknownCode code) := event rfl

theorem getVersion (req : List Byte) : Statement (.getVersion req) := event rfl

theorem getCapabilities (req : List Byte) : Statement (.getCapabilities req) := event rfl

theorem negotiateAlgorithms (req : List Byte) : Statement (.negotiateAlgorithms req) := event rfl

theorem getDigests (req : List Byte) : Statement (.getDigests req) := event rfl

theorem getCertificate (req : List Byte) : Statement (.getCertificate req) := event rfl

theorem challenge (req : List Byte) : Statement (.challenge req) := event rfl

theorem getMeasurements (req : List Byte) (indices : List Nat) : Statement (.getMeasurements req indices) := event rfl

theorem spdmUnsupported (req : List Byte) : Statement (.spdmUnsupported req) := event rfl

theorem lifecycle (target : Life) (message : List Byte) (signature : List Byte) (key : List Byte) : Statement (.lifecycle target message signature key) := event rfl

theorem ringRead (die : Nat) : Statement (.ringRead die) := event rfl

theorem ringRelease (die : Nat) : Statement (.ringRelease die) := event rfl

theorem islandRead (i : Nat) : Statement (.islandRead i) := event rfl

theorem pkgRead : Statement (.pkgRead) := event rfl

theorem pkgSet (w : Word) : Statement (.pkgSet w) := event rfl

theorem limitSet (i mhz : Nat) : Statement (.limitSet i mhz) := event rfl

theorem discRead (index : Nat) : Statement (.discRead index) := event rfl

theorem reset (cold : Bool) : Statement (.reset cold) := event rfl

theorem coldReset : Statement (.coldReset) := event rfl

theorem warmReset : Statement (.warmReset) := event rfl

theorem bootZeroFillDone : Statement (.bootZeroFillDone) := event rfl

theorem watchdogExpiry (die : Nat) : Statement (.watchdogExpiry die) := event rfl

theorem heartbeatTimeout : Statement (.heartbeatTimeout) := event rfl

theorem refreshInterval (st : Nat) : Statement (.refreshInterval st) := event rfl

theorem refreshTakeover (st : Nat) : Statement (.refreshTakeover st) := event rfl

theorem rowActivationThreshold (st bank row : Nat) : Statement (.rowActivationThreshold st bank row) := event rfl

theorem rfmHoldEnd (st bank : Nat) : Statement (.rfmHoldEnd st bank) := event rfl

theorem correctableError (u : ErrUnit) : Statement (.correctableError u) := event rfl

theorem uncorrectableError (p : ErrPlace) : Statement (.uncorrectableError p) := event rfl

theorem dieFailure (slot : Nat) : Statement (.dieFailure slot) := event rfl

theorem powerCapTick (pavg : Nat) : Statement (.powerCapTick pavg) := event rfl

theorem thermalThrottle (i temp : Nat) : Statement (.thermalThrottle i temp) := event rfl

theorem thermalRelease (i temp : Nat) : Statement (.thermalRelease i temp) := event rfl

theorem computeTrip (i temp : Nat) : Statement (.computeTrip i temp) := event rfl

theorem islandTrip (i temp : Nat) : Statement (.islandTrip i temp) := event rfl

theorem taskKilled (k : Nat) : Statement (.taskKilled k) := event rfl

theorem moduleJoinsDomain : Statement (.moduleJoinsDomain) := event rfl

end Sys2Proof.Laws.RoundTrip
end

