-- ==== Sys2Proof/Tests/Slice0.lean ====
section
/-! SUPPORT. Tests: ill-formed terms that WellFormed refuses, words of the spec that decode to their instructions, single steps with results from
the spec, and for every statement with hypotheses a state and operands that meet them. -/

namespace Sys2Proof.Machine.Tests

set_option Elab.async false

/-! ## Terms -/

def on : Guard := ⟨0xFF, 0, 0, 0⟩
def off : Guard := ⟨0, 0, 0, 0⟩
def noq : Eng := ⟨0, 0, 0, 0⟩
def rg (j : BitVec 5) : Op2 := .reg j false 0
def fs (d s1 : BitVec 5) (b : Op2) : FmtS := ⟨on, d, s1, false, b⟩
def fc (pd pe : BitVec 4) (mode : BitVec 2) (s1 : BitVec 5) (b : OpC) : FmtC := ⟨on, pd, pe, mode, s1, false, b⟩
def fm (data : BitVec 5) (a : BitVec 4) (size : BitVec 3) (mode : BitVec 2) (off : BitVec 20) : FmtM := ⟨on, data, a, size, mode, false, off⟩
def fv (d a b c sub : BitVec 6) : FmtV := ⟨on, d, a, b, c, 0, false, false, false, sub⟩
def fy (x : BitVec 5) (a a2 : BitVec 4) (imm : BitVec 16) : FmtY := ⟨on, x, a, a2, imm⟩
def fp (td : BitVec 3) (aa ab : BitVec 4) (ta tb : BitVec 5) (m n : Nat) (k : Nat) : FmtP :=
  { g := on, td := td, aa := aa, ab := ab, taga := ta, tagb := tb, sa := true, sb := true, ta := false, tb := false, z := false, q := noq
    m1 := BitVec.ofNat 7 (m - 1), n1 := BitVec.ofNat 8 (n - 1), k1 := BitVec.ofNat 11 (k - 1), ma := 0, mb := 0, gsa := 0, gsb := 0 }
def fx (ad as : BitVec 4) (len : Nat) : FmtX :=
  { g := on, ad := ad, as := as, at_ := 0, etag := 0, rm := 0, sat := false, op := 0, xs := 0, ch := 0, ss := false, sd := false, q := noq
    len1 := BitVec.ofNat 22 (len - 1), perm := 0, arrv := 0 }
def fsp (as ax ay : BitVec 4) (xt : BitVec 5) (n : Nat) : FmtSp := ⟨on, as, ax, ay, xt, false, false, 0, 0, noq, BitVec.ofNat 16 (n - 1)⟩
def fso (ak av ao aw : BitVec 4) (kt : BitVec 5) (n m : Nat) : FmtSo :=
  ⟨on, ak, av, ao, aw, kt, false, false, false, noq, BitVec.ofNat 16 (n - 1), BitVec.ofNat 16 (m - 1), 0, 0⟩
def fa (xd : BitVec 5) (aa : BitVec 4) (xs xt : BitVec 5) : FmtA := ⟨on, xd, aa, xs, xt, true, false, noq⟩

/-! ## WellFormed: each check refuses a term (03 R39 to R50) -/

theorem test_wf_scalar : [Instr.add (fs 3 1 (rg 2)), .movhi (fs 1 1 (.imm 0x0B3C4D)), .cmpLt (fc 1 2 0 1 (.reg 2 false)), .ld (fm 4 3 3 1 8),
    .mloop ⟨on, 1, false, 19, 19⟩, .mts (fs 12 1 (rg 0)), .st { fm 4 3 3 1 8 with w := true }].all Instr.wf = true := by decide +kernel

theorem test_ill_formed_scalar : [
    Instr.nop (fs 1 0 (rg 0)), .nop { fs 0 0 (rg 0) with w1 := true }, .nop (fs 0 0 (rg 1)), .mov (fs 1 2 (rg 3)), .mov (fs 1 0 (.reg 3 false 1)),
    .add (fs 1 2 (.reg 3 false 1)), .abs (fs 1 2 (rg 3)), .movhi (fs 1 2 (rg 3)), .lut3 (fs 1 2 (.imm 0)), .lut3 (fs 1 2 (.reg 3 false 0x100)),
    .sel (fs 1 2 (.reg 3 false 0x10)), .bfx (fs 1 2 (.imm 4096)), .bfi (fs 1 2 (.imm (63 * 64 + 1))), .bfxu (fs 1 2 (rg 0)),
    .plut (fs 16 1 (rg 2)), .plut (fs 1 16 (rg 2)), .plut (fs 1 2 (rg 16)), .pput (fs 0 1 (.imm 65536)), .fadd (fs 1 2 (.imm 65536)),
    .fcvtIf (fs 1 2 (.reg 0 false 2)), .fcvtFi (fs 1 2 (.reg 0 false 4)), .acap (fs 0 0 (.imm 1)), .acap (fs 1 0 (.imm 16)), .amov (fs 0 1 (rg 0)),
    .amov (fs 1 16 (rg 0)), .anrw (fs 1 2 (.reg 3 false 0x20)), .aget (fs 1 2 (.imm 4)), .semsig (fs 0 0 (.imm 1)), .mtxlock (fs 16 0 (rg 0)),
    .xempty (fs 0 0 (rg 0)), .xfullq { fs 1 2 (rg 0) with w1 := true }, .mfs (fs 1 13 (rg 0)), .mts (fs 13 1 (rg 0)), .mts (fs 11 1 (rg 0)),
    .cwbind (fs 8 1 (rg 2)), .cmpEq (fc 1 2 3 1 (.imm 0)), .tstZ (fc 1 2 0 1 (.imm 0)), .tstNz (fc 1 2 0 1 (.reg 2 false)),
    .ld (fm 1 2 4 0 0), .ld (fm 1 2 3 3 0), .ld { fm 1 2 3 0 0 with w := true }, .ldpf (fm 1 2 3 0 0), .mloop ⟨on, 1, false, 8, 0⟩
  ].all (fun i => !i.wf) = true := by decide +kernel

theorem test_ill_formed_vector : [
    Instr.vadd (fv 48 0 0 0 0), .vadd (fv 0 1 2 3 0), .vadd (fv 0 1 2 0 1), .vmov { fv 0 1 0 0 0 with rm := 1 }, .vmov { fv 0 1 0 0 0 with sat := true },
    .vand { fv 0 1 2 0 0 with sa := true }, .vabs { fv 0 1 0 0 0 with sb := true }, .vsplatV (fv 0 32 1 0 0), .vsplatV (fv 0 1 10 0 0),
    .vsplatV (fv 0 1 1 0 8), .vsplatSlot (fv 0 1 1 0 31), .vsplatSlot (fv 0 1 1 0 40), .vsplatSlot (fv 1 1 1 0 32), .vzero (fv 0 0 0 0 0),
    .vtag (fv 0 1 0 0 19), .vcmpEq (fv 16 1 2 0 0), .vcmpEq (fv 1 1 2 1 3), .vcmpEq (fv 1 1 2 1 4), .vclass (fv 1 1 4 0 0), .vsel (fv 1 1 2 16 0),
    .vcvt (fv 1 2 0 8 1), .vcvt (fv 1 2 0 0 10), .vdequant (fv 1 2 0 0 4), .vmxpack (fv 1 2 0 0 9), .vrot (fv 1 2 3 0 16), .vzip (fv 1 2 3 0 2),
    .vld (fv 0 0 16 0 1), .vlds (fv 0 0 1 0 3), .vldx (fv 0 1 1 0 9), .qcfg (fv 0 47 1 0 1), .qcfg (fv 0 56 1 0 1), .qloop (fv 1 48 0 2 4)
  ].all (fun i => !i.wf) = true := by decide +kernel

theorem test_ill_formed_engines : [
    Instr.mma { fp 0 1 2 2 2 1 1 1 with q := ⟨0, 1, 0, 0⟩ }, .mma { fp 0 1 2 2 2 1 1 1 with q := ⟨0, 0, 0, 1⟩ }, .mma (fp 0 1 2 2 3 1 1 1), .mma (fp 0 1 2 1 1 1 1 1),
    .mma { fp 0 1 2 2 2 1 1 1 with ta := true }, .mma { fp 0 1 2 2 2 1 1 1 with z := true }, .mma { fp 0 1 2 2 2 1 1 1 with ma := 1 },
    .mmaq (fp 0 1 2 2 2 1 1 1), .mmaq { fp 0 1 2 2 17 1 1 33 with mb := 5 }, .mmaq { fp 0 1 2 2 17 1 1 32 with mb := 0 }, .mmamx (fp 0 1 2 9 10 1 1 32),
    .mmamx { fp 0 1 2 10 10 1 1 33 with ma := 1, mb := 2 }, .mmast { fp 0 1 2 2 2 1 1 2 with ma := 1 }, .tzero on noq 0 2 ⟨0, 0⟩, .tload on noq 0 1 10 false ⟨0, 0⟩,
    .tstoreq on noq 0 1 8 0 false ⟨0, 31⟩ 1 0, .tstoreq on noq 0 1 16 0 false ⟨0, 30⟩ 1 0, .tstoremx on noq 0 1 9 0 ⟨0, 31⟩ 1, .tbias on noq 0 1 9 false ⟨0, 0⟩,
    .tscale on noq 0 1 2 4 ⟨0, 0⟩, .tact on noq 0 5 ⟨0, 0⟩, .tredr on noq 0 1 3 ⟨0, 0⟩, .ttov on noq 0 48 0 0, .mcast on noq 1 2 0 0, .mcwait on noq 0 0,
    .mstat on noq 1 4, .spmm { fsp 1 2 3 1 1 with aq := 1 }, .spmm { fsp 1 2 3 1 1 with op := 1 }, .spmm (fsp 1 2 3 19 1), .sptrans (fsp 1 2 3 0 1),
    .spcfg on noq 3 1, .spstat on noq 1 2, .sort (fso 1 2 3 0 1 1 1), .sort (fso 1 0 3 0 4 1 1), .sort { fso 1 0 3 0 1 1 1 with iota := true },
    .sort { fso 1 0 3 0 1 1 1 with ak2 := 1 }, .histo { fso 1 0 3 0 6 1 1 with desc := true }, .histo (fso 1 0 3 0 1 1 1), .srtcfg on noq 2 1, .srtstat on noq 1 2,
    .xcopy { fx 1 2 1 with rm := 1 }, .xcopy { fx 1 2 1 with perm := 0xE4 }, .xlayout { fx 1 2 1 with perm := 0x55 }, .xcopy { fx 1 2 2 with at_ := 1 },
    .xcopy { fx 1 2 1 with etag := 19 }, .xred { fx 1 2 1 with op := 3 }, .xcopy { fx 1 2 1 with arrv := 1 }, .amoadd (fa 1 2 3 4), .gsignal on noq 1 0,
    .trap (fy 1 0 0 0), .eret (fy 0 0 0 1), .ctxsave (fy 0 1 1 0), .secmeas (fy 1 1 0 32), .bblog (fy 1 1 0 0), .ecallUnsupported (fy 0 0 0 3)
  ].all (fun i => !i.wf) = true := by decide +kernel

/-! ## Decoding: words that the spec writes out (01; 03 Worked encodings; 04; 07 to 11; 15; 16; 19) -/

/-- What decode answers, as plain data. -/
noncomputable def got (c : CoreIx) (cls w0 w1 : Nat) : Option Instr ⊕ DecErr :=
  match decode c cls w0 w1 with
  | .ok i => .inl (some i)
  | .error e => .inr e

theorem test_decode_add_imm : got .x 1 0xFF00001A31800001 0 = .inl (some (.add (fs 3 3 (.imm 1)))) := by decide +kernel
theorem test_decode_add_reg : got .e 1 0xFF00001821030000 0 = .inl (some (.add (fs 2 2 (rg 3)))) := by decide +kernel
theorem test_decode_mov_window : got .v 1 0xFF00000C20000006 0 = .inl (some (.mov (fs 2 0 (.win 0 3)))) := by decide +kernel
theorem test_decode_guarded : got .x 1 0x3013001A63000001 0 = .inl (some (.add ⟨⟨0x30, 1, 3, 0⟩, 6, 6, false, .imm 1⟩)) := by decide +kernel
theorem test_decode_cmp : got .x 1 0xFF00014024011000 0 = .inl (some (.cmpLt (fc 1 2 0 1 (.reg 2 false)))) := by decide +kernel
theorem test_decode_tst : got .x 1 0xFF00018068030000 0 = .inl (some (.tstZ (fc 3 4 0 3 (.reg 0 false)))) := by decide +kernel
theorem test_decode_ld : got .x 1 0xFF0002390DA00008 0 = .inl (some (.ld (fm 4 3 3 1 8))) := by decide +kernel
theorem test_decode_lds : got .x 1 0xFF00025089000000 0 = .inl (some (.lds (fm 2 2 2 0 0))) := by decide +kernel
theorem test_decode_br : got .x 1 0xFF0002687FFFFFFE 0 = .inl (some (.br ⟨on, 0x7FFFFFFE⟩)) := by decide +kernel
theorem test_decode_mloop : got .v 1 0xFF00028849A60000 0 = .inl (some (.mloop ⟨on, 1, false, 19, 19⟩)) := by decide +kernel
theorem test_decode_semwait : got .x 1 0xFF0002AA60000001 0 = .inl (some (.semwait (fs 6 0 (.imm 1)))) := by decide +kernel
theorem test_decode_mfs : got .x 1 0xFF0002F066000000 0 = .inl (some (.mfs (fs 6 12 (rg 0)))) := by decide +kernel
theorem test_decode_fwslot : got .x 1 0xFF0002F8B2800000 0 = .inl (some (.fwslotCommit (fs 11 5 (rg 0)))) := by decide +kernel
theorem test_decode_vfma : got .v 1 0xFF00043880841800 0 = .inl (some (.vfma (fv 4 1 2 3 0))) := by decide +kernel
theorem test_decode_vcmp : got .v 1 0xFF00054821881000 0 = .inl (some (.vcmpLt (fv 1 3 4 2 0))) := by decide +kernel
theorem test_decode_vsplat : got .v 1 0xFF00040802820021 0 = .inl (some (.vsplatSlot (fv 0 5 1 0 0x21))) := by decide +kernel
theorem test_decode_vld : got .v 1 0xFF00062820080001 0 = .inl (some (.vld (fv 1 0 4 0 1))) := by decide +kernel
theorem test_decode_tstore : got .e 1 0x3023085140800000 0x1898038380000000 =
    .inl (some (.tstore ⟨0x30, 2, 3, 0⟩ ⟨3, 1, 6, 0⟩ 1 4 1 0 ⟨7, 7⟩)) := by decide +kernel
theorem test_decode_mmaq : got .e 1 0xFF00081823145200 0x0000000001F05000 =
    .inl (some (.mmaq ⟨on, 0, 2, 3, 2, 17, false, true, false, false, true, noq, 0, 0, 31, 0, 5, 0, 0⟩)) := by decide +kernel
theorem test_decode_mcwait : got .e 1 0xFF0008BA00020000 0x0008000000000000 = .inl (some (.mcwait on ⟨0, 0, 2, 0⟩ 1 2)) := by decide +kernel
theorem test_decode_spmmz : got .e 2 0xFF000A0A2B040000 0x00000001C0000000 = .inl (some (.spmmz (fsp 4 5 6 1 8))) := by decide +kernel
theorem test_decode_topkv : got .e 4 0xFF000B1902285800 0x0000000140008000 =
    .inl (some (.topkv { fso 2 0 4 5 1 6 3 with desc := true, iota := true })) := by decide +kernel
theorem test_decode_xcopy : got .x 1 0xFF000C0210000000 0x00000003FF000000 = .inl (some (.xcopy (fx 4 2 1024))) := by decide +kernel
theorem test_decode_xpush : got .x 1 0xFF000C4A918003C0 0x0000000000D80100 =
    .inl (some (.xpush { fx 5 2 1 with at_ := 3, xs := 7, ch := 8, perm := 0xD8, arrv := 1 })) := by decide +kernel
theorem test_decode_amoadd : got .x 1 0xFF000C8108A08000 0 = .inl (some (.amoadd (fa 4 2 5 0))) := by decide +kernel
theorem test_decode_phase : got .x 1 0xFF000CBD00000000 0 = .inl (some (.phase on noq 2 true)) := by decide +kernel
theorem test_decode_trap : got .x 1 0xFF000E0000000007 0 = .inl (some (.trap (fy 0 0 0 7))) := by decide +kernel
theorem test_decode_sechash : got .x 1 0xFF000E30C9000000 0 = .inl (some (.sechash (fy 3 2 4 0))) := by decide +kernel
theorem test_decode_zero_is_nop : got .x 1 0 0 = .inl (some (.nop ⟨off, 0, 0, false, rg 0⟩)) := by decide +kernel
theorem test_decode_unassigned : got .x 1 0xFF00032000000000 0 = .inr .illegal ∧ got .x 1 0xFFFFFFFFFFFFFFFF 0 = .inr .illegal := by decide +kernel
theorem test_decode_reserved_k : got .x 1 0x0000014424011000 0 = .inr (.reserved 0) ∧ got .x 1 0xFF00002620000000 0 = .inr (.reserved 0) := by
  decide +kernel
theorem test_decode_wrong_core : got .x 1 0xFF00062820080001 0 = .inr .illegal ∧ got .e 2 0xFF00081823145200 0x0000000001F05000 = .inr .illegal := by
  decide +kernel


/-! ## States that the statements' hypotheses hold in -/

/-- A running core: Xj holds j, A1 to A3 the own scratchpad, A4 a buffer, A5 a window, all with every right. -/
def c0 : Core :=
  { run := .running, x := Vector.ofFn fun i => { val := BitVec.ofNat 64 i.val }
    a := Vector.ofFn fun i => match i.val with
      | 1 => ⟨64, 0, 4096, 0, 1, 31⟩ | 2 => ⟨1024, 0, 4096, 0, 1, 31⟩ | 3 => ⟨4096, 0, 4096, 0, 1, 31⟩
      | 4 => ⟨0, 0, 128, 0x01000001, 2, 31⟩ | 5 => ⟨0, 0, 4096, 0, 3, 31⟩ | _ => {} }

/-- A buffer of 32 words. -/
def buf0 : Buf := { handle := 0x01000001, tag := 1, ndim := 0, layout := 0, shared := true, dims := ⟨#[32, 1, 1, 1], rfl⟩, granules := 2, homes := 1 }

def lease0 : List LeaseEnt := [{ h := 0x01000001, lo := 0, hi := 128, mode := .rw }]

def bank0 : Bank := { task := some { lease := lease0 }, e := c0, v := c0, x := c0 }

/-- Cell k of a module that is up, with the bank b; core c is in focus. -/
def st (k : Nat) (c : CoreIx) (b : Bank) : State :=
  { focus := ⟨k, c⟩, geode := { boot := .up }, cells := [(k, { b := b })], bufs := [(1, buf0)] }

/-- Core c of cell 0, of a matrix die. -/
def s0 (c : CoreIx) : State := st 0 c bank0

/-- Firmware's X-core on the scheduler die. -/
def sf : State := st (svc Config.schedDie) .x bank0

theorem c0_enabled {s : State} (h : s.fcore = c0) : s.Enabled on := by
  rw [State.Enabled, h]; decide +kernel
theorem c0_holds : ∀ j : BitVec 5, c0.Holds j (j.zeroExtend 64) false := by
  unfold Core.Holds; decide +kernel
theorem c0_ready : ∀ j : BitVec 5, c0.Ready j := by
  unfold Core.Ready; decide +kernel
theorem s0_fcore (c : CoreIx) : (s0 c).fcore = c0 := by cases c <;> rfl
theorem s0_enabled (c : CoreIx) : (s0 c).Enabled on := c0_enabled (s0_fcore c)
theorem s0_holds (c : CoreIx) (j : BitVec 5) : (s0 c).fcore.Holds j (j.zeroExtend 64) false := s0_fcore c ▸ c0_holds j
theorem s0_ready (c : CoreIx) (j : BitVec 5) : (s0 c).fcore.Ready j := s0_fcore c ▸ c0_ready j
theorem sf_fcore : sf.fcore = c0 := rfl
theorem sf_enabled : sf.Enabled on := c0_enabled sf_fcore
theorem sf_holds (j : BitVec 5) : sf.fcore.Holds j (j.zeroExtend 64) false := sf_fcore ▸ c0_holds j
theorem sf_ready (j : BitVec 5) : sf.fcore.Ready j := sf_fcore ▸ c0_ready j

/-! ## Witnesses: every statement's hypotheses hold somewhere -/

theorem witness_ScalarArithmetic : (s0 .x).Enabled on ∧ (s0 .x).fcore.Holds 1 1 false ∧
    (s0 .x).op2 immS (.imm 5) = .ok (s0 .x, ⟨5, false, 0⟩) ∧ (s0 .x).fcore.Ready 3 :=
  ⟨s0_enabled _, s0_holds _ 1, rfl, s0_ready _ 3⟩

theorem witness_ScalarUnaryAndMoves : (s0 .e).Enabled on ∧ (s0 .e).fcore.Holds 31 31 false ∧
    (s0 .e).op2 immS (.imm 5) = .ok (s0 .e, ⟨5, false, 0⟩) ∧ (s0 .e).fcore.Ready 0 ∧ (s0 .e).fcore.Ready 31 :=
  ⟨s0_enabled _, s0_holds _ 31, rfl, s0_ready _ 0, s0_ready _ 31⟩

/-- Core X of cell 0 with window 7 bound to the scratchpad's last word, which has held nothing but what it holds, and with it after a store. -/
def sWin (m : Mem) : State :=
  { st 0 .x { bank0 with x := { c0 with win := vset c0.win 7 { bound := true, reg := ⟨4088, 0, 4096, 0, 1, 31⟩, vers := [([], [])] } } } with mem := m }

theorem witness_OperandTwoAndThreeSource :
    (s0 .x).fcore.Holds 0 0 false ∧
    (let s := sWin []; let x := vget s.fcore.win 7 {}; let a := padBase 0 + 4088;
      x.bound = true ∧ x.reg.kind = 1 ∧ x.reg.ptr.toNat + 8 * 0 + 8 ≤ x.reg.limit.toNat ∧ chipRegion a = 0 ∧ s.chipOk a 8 = true ∧
        s.limitOk 0 x.reg = true ∧ (∀ v ∈ x.vers, verWord a v = (s.see a 8, badIn s.memBad a 8)) ∧
        ∃ v ∈ (vget (sWin [(4088, 1)]).fcore.win 7 {}).vers, verWord a v ≠ ((sWin [(4088, 1)]).see a 8, false)) ∧
    ((s0 .x).Enabled on ∧ (s0 .x).fcore.Holds 1 1 false ∧ (s0 .x).fcore.Holds 2 2 false ∧ (s0 .x).fcore.Holds 3 3 false) ∧
    bfPos (.imm 63) + bfLen (.imm 63) ≤ 64 ∧ bfPos (.imm 4032) + bfLen (.imm 4032) ≤ 64 ∧ (s0 .x).fcore.Ready 3 :=
  ⟨s0_holds _ 0, by decide +kernel, ⟨s0_enabled _, s0_holds _ 1, s0_holds _ 2, s0_holds _ 3⟩, by decide +kernel, by decide +kernel, s0_ready _ 3⟩

/-- Core X of cell 0 with window 0 over the buffer, 1 over one that does not exist, 2 through a window on the scratchpad, 3 unbound. -/
def sKinds : State :=
  let l := lease0 ++ [{ h := 0x01000003, lo := 0, hi := 8, mode := .rw }]
  st 0 .x { bank0 with task := some { lease := l }, x := { c0 with win := Vector.ofFn fun i => match i.val with
    | 0 => { bound := true, reg := ⟨0, 0, 128, 0x01000001, 2, 31⟩, vers := [([], [])] }
    | 1 => { bound := true, reg := ⟨0, 0, 64, 0x01000003, 2, 31⟩, vers := [([], [])] }
    | 2 => { bound := true, reg := ⟨0, 0, 4096, 0, 3, 31⟩, vers := [([], [])] }
    | _ => {} } }

/-- The last word of the buffer's window and one beyond it; a word outside the lease; a lost buffer; the same for a store to the buffer. -/
theorem witness_OperandTwoAndThreeSource_kinds :
    let s := sKinds
    let r := fun i => (vget s.fcore.win i {}).reg
    (vget s.fcore.win 3 {}).bound = false ∧ (r 0).kind = 2 ∧ 0 + 8 * 15 + 8 ≤ (r 0).limit.toNat ∧ (r 0).limit.toNat < 0 + 8 * 16 + 8 ∧
    leaseHas (s.bank 0).lease false 0x01000001 120 8 .read = true ∧ s.lost 0x01000001 = false ∧ buf0.tolerant = false ∧
    leaseHas (s.bank 0).lease false 0x01000003 8 8 .read = false ∧ leaseHas (s.bank 0).lease false 0x01000003 0 8 .read = true ∧
    s.lost 0x01000003 = true ∧ (r 2).kind = 3 ∧ chipRegion (0 + (0 + 8 * 511)) = 0 ∧ s.chipOk (0 + (0 + 8 * 511)) 8 = true ∧ s.limitOk 0 (r 2) = true ∧
    (s.bank s.fk).spec = false := by
  decide +kernel

theorem witness_ScalarCompares : (s0 .x).Enabled on ∧ (s0 .x).fcore.Holds 1 1 false ∧
    (s0 .x).fcore.Second (fc 1 2 0 1 (.imm 0xFFFF)) (BitVec.signExtend 64) (-1) ∧
    (s0 .x).fcore.Second (fc 1 2 0 1 (.reg 2 false)) (BitVec.signExtend 64) 2 :=
  ⟨s0_enabled _, s0_holds _ 1, by simp only [Core.Second, fc]; decide +kernel, s0_holds _ 2⟩

theorem witness_Predicates : (s0 .x).Enabled on ∧ (s0 .x).fcore.Ready 3 ∧ (s0 .x).fcore.Holds 1 1 false ∧
    (1 : BitVec 4) ≠ 0 ∧ (15 : BitVec 4) ≠ 1 ∧ (3 : BitVec 2) = 3 := ⟨s0_enabled _, s0_ready _ 3, s0_holds _ 1, by decide, by decide, rfl⟩

theorem witness_ScalarFloating : (s0 .x).Enabled on ∧ (s0 .x).fcore.Holds 1 1 false ∧ (s0 .x).fcore.Holds 3 3 false ∧
    (s0 .x).op2 immBF (.imm 0x3F80) = .ok (s0 .x, ⟨0x3F800000, false, 0⟩) ∧ (s0 .x).fcore.Ready 3 ∧
    (s0 .x).fcore.Second (fc 1 2 0 1 (.imm 0x3F80)) (fun v => v.zeroExtend 64 <<< 16) 0x3F800000 :=
  ⟨s0_enabled _, s0_holds _ 1, s0_holds _ 3, rfl, s0_ready _ 3, by simp only [Core.Second, fc]; decide +kernel⟩

/-- A pointer that moves to LIMIT is one past the last byte; the widest narrowing; each word of AGET. -/
theorem witness_AddressRegisters : (s0 .x).Enabled on ∧ (s0 .x).op2 immS (.imm 4096) = .ok (s0 .x, ⟨4096, false, 0⟩) ∧
    (s0 .x).op2 immS (.imm 4032) = .ok (s0 .x, ⟨4032, false, 0⟩) ∧
    (let a := (s0 .x).fcore.areg 1;
      a.kind ≠ 0 ∧ (a.base.toNat : Int) ≤ a.base.toNat + (4096 : Word).toInt ∧ a.base.toNat + (4096 : Word).toInt ≤ (a.limit.toNat : Int) ∧
        (a.base.toNat : Int) ≤ a.ptr.toNat + (4032 : Word).toInt ∧ a.ptr.toNat + (4032 : Word).toInt ≤ (a.limit.toNat : Int) ∧
        0 ≤ (4032 : Word).toInt ∧ ¬ (a.base.toNat + (4097 : Word).toInt ≤ (a.limit.toNat : Int)) ∧
        ¬ (a.ptr.toNat + (4033 : Word).toInt ≤ (a.limit.toNat : Int)) ∧ ¬ 0 ≤ (-1 : Word).toInt) ∧
    ((s0 .x).fcore.areg 6).kind = 0 ∧ (s0 .x).fcore.Ready 3 :=
  ⟨s0_enabled _, rfl, rfl, by decide +kernel, by decide +kernel, s0_ready _ 3⟩

theorem witness_RegisterFrame : (s0 .x).Enabled on ∧ (s0 .x).fcore.Holds 1 1 false ∧
    (s0 .x).op2 immS (.imm 5) = .ok (s0 .x, ⟨5, false, 0⟩) ∧ (s0 .x).fcore.Ready 3 ∧
    exec (.add (fs 3 1 (.imm 5))) (s0 .x) = .next ((s0 .x).wroteX 3 6 false) ∧
    exec (.abs (fs 3 1 (.imm 0))) (s0 .x) = .next ((s0 .x).wroteX 3 1 false) :=
  ⟨s0_enabled _, s0_holds _ 1, rfl, s0_ready _ 3, by rfl, by rfl⟩

/-- Cell 0 with core X's record replaced. -/
def sxc (r : Core) : State := st 0 .x { bank0 with x := r }

/-- A load of the last byte, of one byte more, of a KIND 4 register, of a range without a lease. -/
theorem witness_AccessChecks :
    (let a := (s0 .x).fcore.areg 3; (a.allows .read && a.inside 4095 1) = true ∧ a.ptrOk 4096 = true ∧ (a.allows .read && a.inside 4096 1) = false) ∧
    (let a := (s0 .x).fcore.areg 1; (a.allows .write && a.inside 64 8) = true ∧ a.ptrOk 4097 = false) ∧
    (s0 .x).checkKind 0 .x ((s0 .x).fcore.areg 1) 4088 8 .read = .ok () ∧
    (s0 .x).checkKind 0 .x { (s0 .x).fcore.areg 1 with kind := 4 } 0 8 .read = .error (.trap cBOUNDS 0) ∧
    leaseHas bank0.lease false 0x01000001 120 8 .read = true ∧ leaseHas bank0.lease false 0x01000001 121 8 .read = false := by
  refine ⟨by decide +kernel, by decide +kernel, by rfl, by rfl, by decide +kernel, by decide +kernel⟩

theorem witness_ScratchpadLoads : (s0 .x).Enabled on ∧ (s0 .x).fcore.Ready 6 ∧
    (s0 .x).checkMem (fm 6 2 3 0 3064) .read = .ok (⟨1024, 0, 4096, 0, 1, 31⟩, 4088, 1024) ∧ ((⟨1024, 0, 4096, 0, 1, 31⟩ : AReg).kind = 1) :=
  ⟨s0_enabled _, s0_ready _ 6, by rfl, rfl⟩

theorem witness_LateLoads : (s0 .x).Enabled on ∧ (s0 .x).fcore.Ready 6 ∧ (6 : BitVec 5) ≠ 0 ∧
    (s0 .x).checkMem (fm 6 4 3 0 120) .read = .ok (⟨0, 0, 128, 0x01000001, 2, 31⟩, 120, 0) ∧
    (s0 .x).checkMem (fm 6 5 3 0 0) .read = .ok (⟨0, 0, 4096, 0, 3, 31⟩, 0, 0) ∧
    (s0 .x).checkMem (fm 6 3 3 0 0) .read = .error (.trap cBOUNDS 4096) :=
  ⟨s0_enabled _, s0_ready _ 6, by decide, by rfl, by rfl, by rfl⟩

theorem witness_StoresAndChecks : (s0 .x).Enabled on ∧ (s0 .x).fcore.Holds 31 31 false ∧
    (s0 .x).checkMem (fm 31 2 3 1 8) .write = .ok (⟨1024, 0, 4096, 0, 1, 31⟩, 1024, 1032) ∧ (s0 .x).mem.wf = true ∧
    (s0 .x).fcore.loop = none ∧ ((s0 .x).fcore.areg 3).ptrOk (((s0 .x).fcore.areg 3).ptr.toNat + (0 : BitVec 20).toInt) = true :=
  ⟨s0_enabled _, s0_holds _ 31, by rfl, rfl, rfl, by decide +kernel⟩

/-- A store of the buffer's last word, and one through a window; a check that fails for the window's region and one for a lost buffer. -/
theorem witness_StoresAndChecks_kinds :
    (s0 .x).checkMem (fm 31 4 3 0 120) .write = .ok (⟨0, 0, 128, 0x01000001, 2, 31⟩, 120, 0) ∧
    (s0 .x).checkMem (fm 31 5 3 0 4088) .write = .ok (⟨0, 0, 4096, 0, 3, 31⟩, 4088, 0) ∧ chipRegion 4088 = 0 ∧ ((s0 .x).bank 0).amo = [] ∧
    (s0 .x).checkKind 0 .x ⟨0, 0, 4096, 0, 3, 31⟩ 4088 8 .write = .ok () ∧
    (s0 .x).checkKind 0 .x ⟨0, 0, 4096, 0, 3, 31⟩ (chipAddr 0 1 0) 8 .write = .error (.trap cBOUNDS (wNat (chipAddr 0 1 0))) ∧
    sKinds.checkKind 0 .x ⟨0, 0, 64, 0x01000003, 2, 31⟩ 0 8 .read = .error (.trap cLOST 0x01000003) ∧
    (s0 .x).checkKind 0 .x {} 0 8 .read = .error (.trap cBOUNDS 0) := by
  refine ⟨by rfl, by rfl, by decide +kernel, rfl, by rfl, by rfl, by rfl, by rfl⟩

theorem witness_Branches : (s0 .x).Enabled on ∧ (s0 .x).fcore.Ready 31 ∧ (s0 .x).fcore.Holds 8 8 false ∧ (8 : Word).toNat % 8 = 0 ∧
    (s0 .x).fcore.Holds 7 7 false ∧ (7 : Word).toNat % 8 ≠ 0 ∧ (s0 .x).op2 immS (.imm 5) = .ok (s0 .x, ⟨5, false, 0⟩) :=
  ⟨s0_enabled _, s0_ready _ 31, s0_holds _ 8, by decide, s0_holds _ 7, by decide, rfl⟩

/-- MLOOP over one NOP and over one BR, from address 0. -/
def sLoop (w : Nat) : State := { s0 .x with cells := [(0, { b := { bank0 with x := c0 }, imem := Mem.write [] 8 (leBytes 8 w) })],
                                            mem := Mem.write [] 8 (leBytes 8 w) }

theorem witness_ModuloLoops :
    (∃ t, (sLoop 0).scanBody 0 0 1 8 = (t, .ok ([8, 16], [0]))) ∧ [0].findIdx? bodyBad = none ∧ (sLoop 0).Enabled on ∧
    (sLoop 0).fcore.held = none ∧ (sLoop 0).fcore.Holds 0 0 false ∧ (sLoop 0).fcore.Holds 3 3 false ∧
    (∃ t, (sLoop 0xFF0002687FFFFFFE).scanBody 0 0 1 8 = (t, .ok ([8, 16], [0xFF0002687FFFFFFE]))) ∧
    [0xFF0002687FFFFFFE].findIdx? bodyBad = some 0 ∧
    ¬ (sLoop 0).Enabled off ∧
    (∃ (r : Core) (l : LoopPos), r.loop = some l ∧ 0 < l.ii ∧ 0 < l.n ∧ l.p < l.n ∧ l.n ≤ l.p + l.ii ∧ ¬ l.p % l.ii + 1 < min l.ii l.n ∧
      l.trip + (l.n + l.ii - 1) / l.ii < l.round + 1 + 2 ∧ 2 ≤ l.trip + (l.n + l.ii - 1) / l.ii) := by
  refine ⟨⟨_, rfl⟩, by decide +kernel, c0_enabled rfl, rfl, c0_holds 0, c0_holds 3, ⟨_, rfl⟩, by decide +kernel, ?_,
    ⟨{ c0 with loop := some ⟨0, 3, 2, 1, 1, 1, [8, 16, 24, 32], false, none⟩ }, ⟨0, 3, 2, 1, 1, 1, [8, 16, 24, 32], false, none⟩, rfl, by decide⟩⟩
  rintro ⟨-, h⟩; exact absurd h (by decide +kernel)

theorem witness_SpecialRegisters : (s0 .x).Enabled on ∧ sf.Enabled on ∧ (11 < 11 ∨ isPriv sf.fk sf.fc = true) ∧ 10 < 11 ∧
    isPriv (s0 .x).fk (s0 .x).fc = false ∧ (s0 .x).fcore.Ready 6 ∧ sf.fcore.Ready 6 ∧ (s0 .x).fcore.Holds 1 1 false ∧ sf.fcore.Holds 1 1 false :=
  ⟨s0_enabled _, sf_enabled, .inr rfl, by decide, rfl, s0_ready _ 6, sf_ready 6, s0_holds _ 1, sf_holds 1⟩

/-- Semaphore 1 at 65535 and mutex 15 owned by core V, mutex 0 free, mutex 1 owned by X; the count at its two limits. -/
def sSem : State := st 0 .x { bank0 with
  sems := vset bank0.sems 1 { val := 65535 }, mutexes := vset (vset bank0.mutexes 15 { owner := some .v }) 1 { owner := some .x } }

theorem witness_SemaphoresAndMutexes : sSem.Enabled on ∧ sSem.semCount (.imm 0) = .ok (sSem, 0) ∧ sSem.semCount (.imm 1) = .ok (sSem, 1) ∧
    sSem.semCount (.imm 65535) = .ok (sSem, 65535) ∧
    ((sSem.bank 0).sem 1).val + 0 ≤ 65535 ∧ 65535 < ((sSem.bank 0).sem 1).val + 1 ∧
    (((sSem.bank 0).sem 1).queue = [] ∧ 65535 ≤ ((sSem.bank 0).sem 1).val) ∧
    ¬ (((sSem.bank 0).sem 2).queue = [] ∧ 1 ≤ ((sSem.bank 0).sem 2).val) ∧
    ((sSem.bank 0).mutex 1).owner = some .x ∧ ((sSem.bank 0).mutex 0).owner = none ∧ ((sSem.bank 0).mutex 0).queue = [] ∧
    ((sSem.bank 0).mutex 15).owner ≠ some .x := by
  refine ⟨c0_enabled rfl, by rfl, by rfl, by rfl, by decide +kernel, by decide +kernel, by decide +kernel, by decide +kernel, by decide +kernel,
    by decide +kernel, by decide +kernel, by decide +kernel⟩

def ent0 : Entry := { uid := 1, op := .prim (.mtest on noq), a := c0.a }

/-- Core E of cell 0 with one entry in its engine's queue, or with the queue stopped. -/
def sQueue (stop : Option Nat) : State := st 0 .e { bank0 with prim := { entries := [ent0], stop := stop } }

theorem witness_FullEmptyAndQueues : (s0 .v).Enabled on ∧ (s0 .v).fcore.Ready 6 ∧ engineOf ((s0 .v).cls 0) 0 .v = none ∧
    engineOf ((s0 .e).cls 0) 0 .e = some .primary ∧ ((s0 .e).bank 0).prim.stop = none ∧ ((s0 .e).bank 0).prim.entries = [] ∧
    (sQueue none).Enabled on ∧ ((sQueue none).bank 0).prim.entries ≠ [] ∧ (sQueue none).fcore.Ready 6 ∧ (6 : BitVec 5) ≠ 0 ∧
    (sQueue (some cSELFTEST)).Enabled on ∧ ((sQueue (some cSELFTEST)).bank 0).prim.stop = some cSELFTEST :=
  ⟨s0_enabled _, s0_ready _ 6, by decide +kernel, by decide +kernel, by decide +kernel, by decide +kernel, c0_enabled rfl, by decide +kernel,
    c0_ready 6, by decide, c0_enabled rfl, by decide +kernel⟩

/-- Channel 15 of cell 0 open with write pointer 5. -/
def sChan : State := st 0 .x { bank0 with chans := vset bank0.chans 15 { st := .open_, wp := 5 } }

theorem witness_EndingAndWaiting : (s0 .x).Enabled on ∧ (s0 .x).fcore.pending = false ∧ (s0 .x).drain .parked = .ok () ∧
    ((s0 .x).bank 0).ownedBy .x = none ∧ (sSem.bank 0).ownedBy .x = some 1 ∧ sSem.fcore.pending = false ∧ sSem.drain .parked = .ok () ∧
    sChan.Enabled on ∧ sChan.fcore.Holds 15 15 false ∧ sChan.op2 immS (.imm 5) = .ok (sChan, ⟨5, false, 0⟩) ∧
    (vget (sChan.bank 0).chans 15 {}).st = .open_ ∧ (5 : Word).toNat ≤ (vget (sChan.bank 0).chans 15 {}).wp ∧
    (vget (sChan.bank 0).chans 15 {}).wp < (6 : Word).toNat ∧ sChan.fcore.Holds 16 16 false ∧ (vget (sChan.bank 0).chans 14 {}).st ≠ .open_ ∧
    (s0 .x).winOk 0 ((s0 .x).fcore.areg 1) (64 + 4024) = true ∧ (s0 .x).winOk 0 ((s0 .x).fcore.areg 1) (64 + 4032) = false :=
  ⟨s0_enabled _, by decide +kernel, by rfl, by decide +kernel, by decide +kernel, by decide +kernel, by rfl, c0_enabled rfl, c0_holds 15, rfl,
    by decide +kernel, by decide +kernel, by decide +kernel, c0_holds 16, by decide +kernel, by decide +kernel, by decide +kernel⟩

theorem witness_EndingAndWaiting_windows :
    (s0 .x).winOk 0 ((s0 .x).fcore.areg 4) 120 = true ∧ (s0 .x).winOk 0 ((s0 .x).fcore.areg 5) 4088 = true ∧ aIdx 4 ≠ 0 ∧ aIdx 0 = 0 ∧
    ((s0 .x).bank 0).snap.wf = true ∧ inCtl (0 + 4088) = false := by decide +kernel

/-- Cell 0 of a task whose three cores have handlers at 0x100. -/
def bankH : Bank := { bank0 with task := some { lease := lease0, record := List.replicate 268 (wNat (2 ^ 63 + 0x100)) } }

theorem witness_Traps :
    (isPriv 0 .x = false ∧ endsTask cTRAP = false ∧ cTRAP ≠ cENGINE ∧ ((st 0 .x bankH).bank 0).handler .x = some 0x100 ∧
      ((st 0 .x bankH).bank 0).spec = false ∧ ((st 0 .x bankH).core 0 .x).h = false ∧ ((st 0 .x bankH).core 0 .x).pending = false) ∧
    (isService sf.fk = true ∧ (sf.core sf.fk .x).h = false ∧ (sf.core sf.fk .x).pending = false) ∧
    ((sxc { c0 with results := [⟨1, 0, false⟩], x := vset c0.x 1 { fill := .load } }).core 0 .x).pending = true ∧
    ((s0 .x).bank 0).task.isSome = true ∧ ((s0 .x).bank 0).spec = false ∧ ((s0 .x).bank 0).ending = none ∧ ((s0 .x).core 0 .x).pending = false ∧
    endsTask cLEASE = true ∧ ((s0 .x).bank 0).handler .x = none ∧
    ((st 0 .x { bankH with x := { c0 with h := true } }).bank 0).handler .x = some 0x100 ∧
    ((st 0 .x { bankH with x := { c0 with h := true } }).core 0 .x).h = true := by decide +kernel

/-- ENGINE_FAULT of a stopped queue, with a cause that a handler takes and with one that ends the task. -/
theorem witness_Traps_engine :
    (let s := st 0 .e { bankH with prim := { entries := [ent0], stop := some cSELFTEST, culprit := some 1 } };
      endsTask cENGINE = false ∧ endsTask (wNat cSELFTEST).toNat = false ∧ (s.bank 0).handler .e = some 0x100 ∧ engineOf (s.cls 0) 0 .e = some .primary ∧
        ((s.bank 0).engine .primary).culprit = some 1 ∧ (s.core 0 .e).pending = false) ∧
    endsTask (wNat cLOST).toNat = true := by decide +kernel

theorem witness_TrapAndReturn : (s0 .x).Enabled on ∧ (s0 .x).fcore.epc.toNat % 8 = 0 ∧ (s0 .x).fcore.held = none ∧
    (sxc { c0 with epc := 1 }).Enabled on ∧ (sxc { c0 with epc := 1 }).fcore.epc.toNat % 8 ≠ 0 ∧
    (let l : LoopPos := ⟨0, 2, 2, 3, 0, 1, [8, 16, 24], false, none⟩; let s := sxc { c0 with epc := 16, held := some l };
      s.Enabled on ∧ s.fcore.held = some l ∧ s.fcore.epc = 0 + wNat (([8, 16, 24][1]?).getD 0)) :=
  ⟨s0_enabled _, by decide +kernel, rfl, ⟨by decide +kernel, by decide +kernel⟩, by decide +kernel,
    ⟨by decide +kernel, by decide +kernel⟩, rfl, by decide +kernel⟩

theorem witness_ServiceCalls : (s0 .x).Enabled on ∧ (s0 .x).fcore.Holds 1 1 false ∧ (s0 .x).fcore.Holds 2 2 false ∧
    (s0 .x).fcore.Holds 3 3 false ∧ (s0 .x).fcore.Holds 4 4 false ∧ (s0 .x).fcore.Ready 6 ∧ (6 : BitVec 5) ≠ 0 :=
  ⟨s0_enabled _, s0_holds _ 1, s0_holds _ 2, s0_holds _ 3, s0_holds _ 4, s0_ready _ 6, by decide⟩

theorem wordsOf_bytesOf (ws : List Word) : wordsOf ws.length (bytesOf ws) = ws := by
  induction ws with
  | nil => rfl
  | cons w ws ih =>
    have h : bytesOf (w :: ws) = leBytes 8 w.toNat ++ bytesOf ws := rfl
    rw [List.length_cons, wordsOf, h, List.take_left' (by simp), List.drop_left' (by simp), ih, leNat_leBytes]
    congr 1
    simp only [wNat]
    apply BitVec.eq_of_toNat_eq
    have := w.isLt
    simp only [BitVec.toNat_ofNat]
    omega

/-- The words of core X's area in s0, and a state with that area and a tag over it at the place A1 points to. -/
def area0 : List Word := ((s0 .x).contents 0).area 1 0 .x 8
def sArea : State := { s0 .x with mem := Mem.write [] 64 (bytesOf (area0 ++ [Config.keyedTag 0 area0])) }

theorem bytesOf_length (ws : List Word) : (bytesOf ws).length = 8 * ws.length := by
  induction ws with
  | nil => rfl
  | cons w ws ih =>
    have h : bytesOf (w :: ws) = leBytes 8 w.toNat ++ bytesOf ws := rfl
    rw [h, List.length_append, ih, leBytes_length, List.length_cons]; omega

theorem area0_length : area0.length = 151 := by decide +kernel

theorem ok_of {ε : Type} {m : Except ε Unit} (h : (match m with | .ok _ => true | .error _ => false) = true) : m = .ok () := by
  cases m <;> simp_all

theorem load_pad (s : State) (k : Nat) {a : AReg} (p n : Nat) (h : a.kind = 1) :
    s.areaLoad k a p n = (s.touch k p n, s.see (padBase k + p) n, badIn s.memBad (padBase k + p) n) := by
  have h2 : a.kind.toNat = 1 := by rw [h]; rfl
  have h3 : ¬ a.kind = 2 := by rw [h]; decide
  simp only [State.areaLoad, State.cacheKind, if_neg h3, State.loadBytes, h2]

theorem sArea_see (s : State) (h : s.mem = sArea.mem) : s.see (padBase 0 + 64) (8 * 152) = bytesOf (area0 ++ [Config.keyedTag 0 area0]) := by
  have hl : (bytesOf (area0 ++ [Config.keyedTag 0 area0])).length = 1216 := by
    rw [bytesOf_length, List.length_append, area0_length]; rfl
  have hw : Rising sArea.mem := Mem.wf_rising (Mem.wf_write (m := []) rfl _ _)
  have hr : Mem.read (Mem.write [] 64 (bytesOf (area0 ++ [Config.keyedTag 0 area0]))) 64 1216 =
      bytesOf (area0 ++ [Config.keyedTag 0 area0]) := by
    have h := Mem.read_write_same (m := []) (Mem.wf_rising rfl) hw
    rw [hl] at h
    exact h
  rw [show 8 * 152 = 1216 from rfl, State.see, if_pos (by decide +kernel), State.chipBytes, h]; exact hr

theorem sArea_agrees (u : State) (hf : u.focus = ⟨0, .x⟩) (hc : u.cls 0 = 1) (hb : ((u.bank 0).asid = 0 ∧ (u.bank 0).gen = 0) ∧ (u.bank 0).ctxKey = 0) :
    u.badWord (area0 ++ [Config.keyedTag 0 area0]) = none := by
  obtain ⟨⟨h1, h2⟩, h3⟩ := hb
  have hk : u.fk = 0 := by rw [State.fk, hf]
  have hx : u.fc = .x := by rw [State.fc, hf]
  have h0 : ∀ (tag : Word) (i : Nat), i < 151 → wAt (area0 ++ [tag]) i = wAt area0 i := by
    intro tag i hi
    rw [wAt, wAt, List.getElem?_append_left (by rw [area0_length]; exact hi)]
  have hl : ∀ tag : Word, wAt (area0 ++ [tag]) 151 = tag := by
    intro tag
    rw [wAt, List.getElem?_append_right (by rw [area0_length]), area0_length]; rfl
  have ht : ∀ tag : Word, (area0 ++ [tag]).take 151 = area0 := by
    intro tag; rw [← area0_length, List.take_left]
  have hn : areaWords 1 0 .x (field (wAt area0 2).toNat 16 16) (wAt area0 3).toNat (field (wAt area0 4).toNat 8 8)
      (field (wAt area0 4).toNat 0 8) = 152 := by decide +kernel
  unfold State.badWord
  simp only [hk, hx, hc, h0 _ 0 (by decide), h0 _ 1 (by decide), h0 _ 2 (by decide), h0 _ 3 (by decide), h0 _ 4 (by decide), hn, h1, h2, h3,
    List.length_append, area0_length, List.length_cons, List.length_nil]
  rw [if_neg (by decide +kernel), if_neg (by decide +kernel)]
  simp only [Nat.reduceSub, hl, ht, ne_eq, not_true, if_false]

theorem witness_Contexts : (s0 .x).Enabled on ∧ (s0 .x).quiet = .ok () ∧
    (let t := (s0 .x).putCore (s0 .x).fcore.fillAwaiting;
      t.checkArea 0 ((s0 .x).fcore.areg 1) 64 (8 * (area0.length + 1)) .write = .ok () ∧
      t.checkArea 0 ((s0 .x).fcore.areg 1) 64 8 .read = .ok () ∧
      (∃ u bs, t.areaLoad 0 ((s0 .x).fcore.areg 1) 64 0 = (u, bs, false) ∧ u.badWord (wordsOf 0 bs) = some 0)) ∧
    sArea.Enabled on ∧ sArea.quiet = .ok () ∧
    (let t := sArea.putCore sArea.fcore.fillAwaiting;
      leNat (t.areaLoad 0 (sArea.fcore.areg 1) 64 8).2.1 % 2 ^ 32 = 152 ∧
      t.checkArea 0 (sArea.fcore.areg 1) 64 (8 * 152) .read = .ok () ∧
      (∃ u bs, t.areaLoad 0 (sArea.fcore.areg 1) 64 (8 * 152) = (u, bs, false) ∧ u.badWord (wordsOf 152 bs) = none)) := by
  refine ⟨s0_enabled _, by rfl, ⟨?_, by rfl, _, _, rfl, by decide +kernel⟩, c0_enabled rfl, by rfl, ?_, ok_of (by decide +kernel), ?_⟩
  · rw [area0_length]; exact ok_of (by decide +kernel)
  · decide +kernel
  · have h1 := load_pad (sArea.putCore sArea.fcore.fillAwaiting) 0 64 (8 * 152) (a := sArea.fcore.areg 1) rfl
    have hm : (sArea.putCore sArea.fcore.fillAwaiting).mem = sArea.mem := rfl
    have hb : badIn (sArea.putCore sArea.fcore.fillAwaiting).memBad (padBase 0 + 64) (8 * 152) = false := by decide +kernel
    rw [sArea_see _ hm, hb] at h1
    refine ⟨_, _, h1, ?_⟩
    have hw := wordsOf_bytesOf (area0 ++ [Config.keyedTag 0 area0])
    rw [List.length_append, area0_length] at hw
    rw [show wordsOf 152 _ = _ from hw]
    exact sArea_agrees _ rfl (by decide +kernel) ⟨⟨by decide +kernel, by decide +kernel⟩, by decide +kernel⟩

theorem load_ok {s : State} {k : Nat} {a : AReg} {p n : Nat} (h : (s.areaLoad k a p n).2.2 = false) :
    ∃ t bs, s.areaLoad k a p n = (t, bs, false) := ⟨_, _, Prod.ext rfl (Prod.ext rfl h)⟩

theorem area_ok {s : State} {k : Nat} {a : AReg} {p n : Nat} (hk : a.kind = 1) (hr : a.allows .read = true) (hn : n ≠ 0)
    (hb : a.base.toNat ≤ p) (hl : p + n ≤ a.limit.toNat) (hc : s.cellExists k = true) (hp : a.limit.toNat ≤ s.padSize k) :
    s.checkArea k a p n .read = .ok () := by
  have hf : (List.range n).find? (fun i => !s.areaByte k a .read (p + i)) = none := by
    rw [List.find?_eq_none]
    intro i hi
    have hi := List.mem_range.1 hi
    have h1 : a.base.toNat ≤ p + i := by omega
    have h2 : p + i + 1 ≤ a.limit.toNat := by omega
    have h3 : p + i + 1 ≤ s.padSize k := by omega
    have h4 : (a.base.toNat : Int) ≤ (p : Int) + i ∧ (p : Int) + i < a.limit.toNat := by omega
    simpa [State.areaByte, AReg.inside, State.padOk, State.limitOk, hk, hc, h3, hp] using h4
  simp [State.checkArea, hk, hr, hn, hf]

theorem load_clean {s : State} {k : Nat} {a : AReg} {p n : Nat} (hk : a.kind = 1) (hm : s.memBad = []) :
    ∃ bs, s.areaLoad k a p n = (s.touch k p n, bs, false) := by
  have h : badIn [] (padBase k + p) n = false := by simp [badIn, nsHas]
  exact ⟨_, (load_pad s k p n hk).trans (by rw [hm, h])⟩

/-- Core c of cell k, with A6 over 8 + 29,792 bytes, A7 over 63 and A8 over 4 above the slots of the firmware. -/
def sGeo (k : Nat) : State := st k .x { bank0 with
  x := { c0 with a := vset (vset (vset c0.a 6 ⟨0, 0, 29800, 0, 1, 31⟩) 7 ⟨1024, 0, 1087, 0, 1, 31⟩) 8 ⟨0x200000, 0, 0x200004, 0, 1, 31⟩ } }

theorem sGeo_secver : ∃ t w u key, (sGeo 0).areaLoad 0 ((sGeo 0).fcore.areg 6) 0 8 = (t, w, false) ∧
    t.areaLoad 0 ((sGeo 0).fcore.areg 1) 64 64 = (u, key, false) ∧ leNat w = 0 ∧ 0 + 8 + leNat w + 29792 ≤ ((sGeo 0).fcore.areg 6).limit.toNat ∧
    u.checkArea 0 ((sGeo 0).fcore.areg 6) 8 29792 .read = .ok () ∧ ∃ v bs, u.areaLoad 0 ((sGeo 0).fcore.areg 6) 8 29792 = (v, bs, false) := by
  have hw : leNat (List.replicate 8 (0 : Byte)) = 0 := by decide
  obtain ⟨key, hk⟩ := load_clean (s := (sGeo 0).touch 0 0 8) (k := 0) (a := (sGeo 0).fcore.areg 1) (p := 64) (n := 64) rfl rfl
  obtain ⟨bs, hb⟩ := load_clean (s := ((sGeo 0).touch 0 0 8).touch 0 64 64) (k := 0) (a := (sGeo 0).fcore.areg 6) (p := 8) (n := 29792) rfl rfl
  refine ⟨_, List.replicate 8 0, _, key, ?_, hk, hw, by rw [hw]; decide +kernel, area_ok rfl (by decide +kernel) (by decide) (by decide +kernel)
    (by decide +kernel) (by decide +kernel) (by decide +kernel), _, bs, hb⟩
  exact Prod.ext rfl (by decide +kernel)

/-- A message of 4,032 bytes, whole and with a poisoned granule, and an answer's room of 64 bytes and of 63. -/
theorem witness_GeodeServices_hash :
    let s := sGeo 0
    s.Enabled on ∧ (s.bank 0).spec = false ∧ s.fcore.Ready 3 ∧ s.checkArea 0 (s.fcore.areg 1) 64 4032 .read = .ok () ∧
    s.checkArea 0 (s.fcore.areg 2) 1024 64 .write = .ok () ∧ s.checkArea 0 (s.fcore.areg 7) 1024 63 .write = .ok () ∧
    (s.fcore.areg 7).room < 64 ∧ (s.fcore.areg 1).room = 4032 ∧ 64 ≤ (s.fcore.areg 2).room ∧
    (∃ t bs, s.areaLoad 0 (s.fcore.areg 1) 64 4032 = (t, bs, false)) ∧
    badIn ({ s with memBad := [1] } : State).memBad (padBase 0 + 64) 4032 = true := by
  obtain ⟨bs, h⟩ := load_clean (s := sGeo 0) (k := 0) (a := (sGeo 0).fcore.areg 1) (p := 64) (n := 4032) rfl rfl
  exact ⟨⟨by decide +kernel, by decide +kernel⟩, by decide +kernel, by unfold Core.Ready; decide +kernel,
    area_ok rfl (by decide +kernel) (by decide) (by decide +kernel) (by decide +kernel) (by decide +kernel) (by decide +kernel),
    ok_of (by decide +kernel), ok_of (by decide +kernel), by decide +kernel, by decide +kernel, by decide +kernel, ⟨_, bs, h⟩, by decide +kernel⟩

/-- A key with a poisoned granule; an area that is too short for a signature. -/
theorem witness_GeodeServices_poison :
    ((({ sGeo 0 with memBad := [1] } : State)).areaLoad 0 ((sGeo 0).fcore.areg 1) 64 64).2.2 = true ∧
    ((sGeo 0).fcore.areg 2).limit.toNat < 1024 + 8 + 0 + 29792 ∧
    (sGeo 0).checkArea 0 ((sGeo 0).fcore.areg 2) 1024 8 .read = .ok () :=
  ⟨by decide +kernel, by decide +kernel, ok_of (by decide +kernel)⟩

/-- An object whose length word is 0, and a key. -/
theorem witness_GeodeServices_verify :
    let s := sGeo 0
    s.checkArea 0 (s.fcore.areg 6) 0 8 .read = .ok () ∧ s.checkArea 0 (s.fcore.areg 1) 64 64 .read = .ok () ∧
    ∃ t w u key, s.areaLoad 0 (s.fcore.areg 6) 0 8 = (t, w, false) ∧ t.areaLoad 0 (s.fcore.areg 1) 64 64 = (u, key, false) ∧ leNat w = 0 ∧
      0 + 8 + leNat w + 29792 ≤ (s.fcore.areg 6).limit.toNat ∧ u.checkArea 0 (s.fcore.areg 6) 8 29792 .read = .ok () ∧
      ∃ v bs, u.areaLoad 0 (s.fcore.areg 6) 8 29792 = (v, bs, false) :=
  ⟨ok_of (by decide +kernel), ok_of (by decide +kernel), sGeo_secver⟩

/-- Firmware with a measurement of 64 bytes and a request of 63 zero bytes, and a task's core without the privilege. -/
theorem witness_GeodeServices_firmware :
    let s := sGeo (svc 24)
    s.Enabled on ∧ isPriv s.fk s.fc = true ∧ (s.bank s.fk).spec = false ∧ s.fcore.Ready 3 ∧
    s.checkArea s.fk (s.fcore.areg 1) 64 64 .read = .ok () ∧ (∃ t m, s.areaLoad s.fk (s.fcore.areg 1) 64 64 = (t, m, false)) ∧
    s.checkArea s.fk (s.fcore.areg 7) 1024 63 .read = .ok () ∧
    (∃ t req, s.areaLoad s.fk (s.fcore.areg 7) 1024 63 = (t, req, false) ∧
      (t.spdmAnswer req).1.checkArea s.fk (s.fcore.areg 8) 0x200000 (min 4 (t.spdmAnswer req).2.length) .write = .ok ()) ∧
    isPriv (sGeo 0).fk (sGeo 0).fc = false := by
  obtain ⟨m, h⟩ := load_clean (s := sGeo (svc 24)) (k := svc 24) (a := (sGeo (svc 24)).fcore.areg 1) (p := 64) (n := 64) rfl rfl
  exact ⟨⟨by decide +kernel, by decide +kernel⟩, rfl, by decide +kernel, by unfold Core.Ready; decide +kernel, ok_of (by decide +kernel),
    ⟨_, m, h⟩, ok_of (by decide +kernel), ⟨_, _, Prod.ext rfl (Prod.ext rfl (by decide +kernel)), ok_of (by decide +kernel)⟩, rfl⟩

/-- Firmware of the scheduler die; a hand-over pending; slot 1 staged and verified; word 1 names slot 1, word 0 slot 0. -/
theorem witness_FirmwareControl : sf.Enabled on ∧ isPriv sf.fk sf.fc = true ∧ sf.fk / 128 = Config.schedDie ∧ sf.geode.pending = false ∧
    ({ sf with geode := { pending := true } } : State).geode.pending = true ∧ (st (svc 0) .x bank0).fk / 128 ≠ Config.schedDie ∧
    (sf.bank sf.fk).spec = false ∧ sf.fcore.Holds 1 1 false ∧ sf.fcore.Holds 0 0 false ∧ (sf.die 24).frozen = false ∧
    0x8000 ≤ (fy 1 0 0 0x8000).imm.toNat ∧ ¬ 0x8000 ≤ (fy 1 0 0 0x7FFF).imm.toNat ∧
    bitOf (0 : Word).toNat 0 = sf.geode.active ∧ bitOf (1 : Word).toNat 0 ≠ sf.geode.active ∧
    (let g : Geode := { stage := true, verb := true }; g.stage = true ∧ g.pending = false ∧ g.ver (!g.active) = true) ∧
    (let s : State := { sf with geode := { pending := true, beat := some 5 }, time := 5000005 };
      s.geode.pending = true ∧ (∃ t, s.geode.beat = some t ∧ t + 5000000 ≤ s.time)) ∧
    (let s : State := { sf with geode := { pending := true, beat := some 5 }, time := 5000004 };
      s.geode.pending = true ∧ ∀ t, s.geode.beat = some t → s.time < t + 5000000) ∧
    ¬ (sf.geode.stage = true ∧ sf.geode.pending = false ∧ sf.geode.ver (!sf.geode.active) = true) :=
  ⟨sf_enabled, rfl, rfl, rfl, rfl, by decide +kernel, by decide +kernel, sf_holds 1, sf_holds 0, rfl, by decide +kernel, by decide +kernel, by decide +kernel,
    by decide +kernel, by decide +kernel, ⟨rfl, 5, rfl, by decide +kernel⟩, ⟨rfl, fun t h => by cases h; decide +kernel⟩, by decide +kernel⟩

/-- Core V of cell 0: V1 to V3 FP32, V4 to V6 INT32, V7 to V9 INT8, V10 an MX format, V11 INT8Q by groups of 32, V12 INT64, port Q0 bound, slot B0 FP32, K1 four lanes, K2 two blocks. -/
def sv : State := st 0 .v { bank0 with vu := {
  tags := Vector.ofFn fun i => match i.val with
    | 1 => 1 | 2 => 1 | 3 => 1 | 4 => 6 | 5 => 6 | 6 => 6 | 7 => 8 | 8 => 8 | 9 => 8 | 10 => 10 | 11 => 16 | 12 => 18 | _ => 0
  ports := vset (Vector.replicate 8 {}) 0 { bind := ⟨64, 0, 4096, 0, 1, 31⟩, base := 64, tag := 1, status := 1 }
  slots := vset (Vector.replicate 8 {}) 0 { val := 0x3F800000, tag := 1 }
  k := vset (vset (Vector.replicate 16 0) 1 (1 + 2 ^ 127 + 2 ^ 255 + 2 ^ 1023)) 2 (0xFFFFFFFF + 0xFFFFFFFF * 2 ^ 768) } }

/-- Enables the lanes 0, 127, 255 and 1,023 alone. -/
def few : Guard := ⟨0x80, 1, 0, 0⟩

/-- Enables two whole blocks alone. -/
def two : Guard := ⟨0x80, 2, 0, 0⟩

theorem sv_fcore : sv.fcore = c0 := rfl

/-- FP32, INT32 and INT8 sources, a port and a slot as sources, the last register as destination. -/
theorem witness_VectorElementwise : sv.fcore.stageOn = true ∧ (47 : BitVec 6).toNat < 48 ∧ sv.mem.wf = true ∧
    sameTags clsFI (srcABC (fv 47 1 2 3 0) sv) = .ok () ∧ sameTags isF (srcAB (fv 47 1 2 0 0) sv) = .ok () ∧ sameTags (· == 1) (srcA (fv 47 1 0 0 0) sv) = .ok () ∧
    sameTags clsFI (srcABC (fv 47 4 5 6 0) sv) = .ok () ∧ sameTags clsFI (srcAB (fv 47 48 56 0 0) sv) = .ok () ∧
    sv.enabled few 1 (elemCount 1) ≠ [] ∧ sv.enabled off 1 (elemCount 1) = [] ∧ isI 6 = true ∧ isF 1 = true ∧
    sv.checkPorts ((srcABC (fv 47 1 2 3 0) sv).map (fun o => o.need (sv.enabled few 1 (elemCount 1)))) = .ok () := by
  refine ⟨by decide +kernel, by decide, rfl, by rfl, by rfl, by rfl, by rfl, by rfl, by decide +kernel, by decide +kernel, by decide +kernel,
    by decide +kernel, ok_of (by decide +kernel)⟩

theorem witness_VectorBitwiseAndDot : sv.fcore.stageOn = true ∧ sv.mem.wf = true ∧ sameTags isN (srcABC (fv 0 4 5 6 0) sv) = .ok () ∧
    sameTags isN (srcAB (fv 0 7 8 0 0) sv) = .ok () ∧ sv.enabled few 6 (elemCount 6) ≠ [] ∧
    sv.checkPorts ((srcABC (fv 0 4 5 6 0) sv).map (fun o => o.need (sv.enabled few 6 (elemCount 6)))) = .ok () ∧
    (sv.opnd 7).tag = 8 ∧ (sv.opnd 8).tag = 8 ∧ (sv.opnd 6).tag = 6 ∧ sv.enabled few 6 256 ≠ [] ∧
    (let en := sv.enabled few 6 256; let quad := en.flatMap (fun i => (List.range 4).map (fun k => 4 * i + k));
      sv.checkPorts [(sv.opnd 7).need quad, (sv.opnd 8).need quad, (sv.opnd 6).need en] = .ok ()) := by
  refine ⟨by decide +kernel, rfl, by rfl, by rfl, by decide +kernel, ok_of (by decide +kernel), by decide +kernel, by decide +kernel, by decide +kernel,
    by decide +kernel, ok_of (by decide +kernel)⟩

theorem witness_VectorMoves : sv.fcore.stageOn = true ∧ sv.mem.wf = true ∧ isAny (sv.opnd 10).tag = true ∧ (sv.opnd 10).tag ≤ 18 ∧
    whole 10 (sv.opnd 10).gs (sv.enabled two 10 (elemCount 10)) ≠ [] ∧
    sv.checkPorts [⟨sv.opnd 10, tagBits 10, whole 10 (sv.opnd 10).gs (sv.enabled two 10 (elemCount 10))⟩] = .ok () ∧
    sv.fcore.Holds 31 31 false ∧ sv.enabled few 18 (elemCount 18) ≠ [] ∧ sv.enabled on 8 1 ≠ [] ∧
    tagPlain (sv.opnd 12).tag = true ∧ 127 ∈ sv.enabled few 18 (elemCount 18) ∧ sv.checkPorts [(sv.opnd 12).need [127]] = .ok () ∧
    sv.fcore.Ready 6 ∧ sv.fcore.Holds 5 5 false ∧ tagPlain (sv.opnd 4).tag = true ∧ 5 ∈ sv.enabled on 6 (elemCount 6) := by
  refine ⟨by decide +kernel, rfl, by decide +kernel, by decide +kernel, by decide +kernel, ok_of (by decide +kernel), c0_holds 31, by decide +kernel,
    by decide +kernel, by decide +kernel, by decide +kernel, ok_of (by decide +kernel), c0_ready 6, c0_holds 5, by decide +kernel, by decide +kernel⟩

theorem witness_VectorCompares : sv.fcore.stageOn = true ∧ sameTags clsFI [sv.opnd 1, sv.opnd 2] = .ok () ∧ sameTags isF [sv.opnd 1, sv.opnd 56] = .ok () ∧
    sameTags clsFI [sv.opnd 4, sv.opnd 5] = .ok () ∧ sameTags tagPlain [sv.opnd 7, sv.opnd 8] = .ok () ∧
    (let en := sv.enabled few 1 (elemCount 1);
      en ≠ [] ∧ sv.checkPorts [(sv.opnd 1).need en, (sv.opnd 2).need en] = .ok () ∧ sv.checkPorts [(sv.opnd 1).need en] = .ok () ∧
      (∀ i ∈ en, (sv.opnd 1).elBad i = false ∧ (sv.opnd 2).elBad i = false) ∧ isFloat (sv.opnd 1).tag = true ∧
      sv.checkPorts [(sv.opnd 1).need (en.filter (fun i => (sv.kmask 0).getLsbD i)),
        (sv.opnd 2).need (en.filter (fun i => !(sv.kmask 0).getLsbD i))] = .ok ()) := by
  refine ⟨by decide +kernel, by rfl, by rfl, by rfl, by rfl, by decide +kernel, ok_of (by decide +kernel), ok_of (by decide +kernel), by decide +kernel,
    by decide +kernel, ok_of (by decide +kernel)⟩

theorem witness_VectorMasks : sv.fcore.stageOn = true ∧ sv.enabledBits few 1024 ≠ [] ∧ sv.fcore.Holds 31 31 false ∧ isAny (sv.opnd 7).tag = true ∧
    (let en := sv.enabledBits few (min (elemCount 8) 1024); en ≠ [] ∧ sv.checkPorts [(sv.opnd 7).need (en.map (fun i => i))] = .ok ()) ∧
    sv.fcore.Ready ((6 : BitVec 6).truncate 5) ∧ (6 : BitVec 6) ≠ 0 := by
  refine ⟨by decide +kernel, by decide +kernel, c0_holds 31, by decide +kernel, ⟨by decide +kernel, ok_of (by decide +kernel)⟩, c0_ready _, by decide⟩

/-- Conversions between FP32 (V1), INT8 (V7), groups (V11) and blocks (V10): each has its class, its parts and its ports. -/
theorem witness_VectorConversions : sv.fcore.stageOn = true ∧ sv.mem.wf = true ∧ sv.unit.side.wf = true ∧
    tagPlain (sv.opnd 7).tag = true ∧ tagPlain 18 = true ∧ 7 * min (elemCount 8) (elemCount 18) < max (elemCount 8) (elemCount 18) ∧
    isF (sv.opnd 1).tag = true ∧ isQ (sv.opnd 11).tag = true ∧ (sv.opnd 11).gs < 3 ∧ isBlock (sv.opnd 10).tag = true ∧
    (let en := sv.enabled few 18 (elemCount 18);
      en ≠ [] ∧ sv.checkPorts [(sv.opnd 7).need (en.filterMap (fun i => if i + 7 * 128 < 1024 then some (i + 7 * 128) else none))] = .ok ()) ∧
    (let en := whole 10 0 ((sv.enabled two 10 (elemCount 10)).filter (fun i => decide (3 * 256 ≤ i ∧ i < 3 * 256 + 256)));
      en ≠ [] ∧ 3 * elemCount 1 < elemCount 10 ∧ sv.checkPorts [(sv.opnd 1).need (en.map (fun i => i - 3 * 256))] = .ok ()) := by
  refine ⟨by decide +kernel, rfl, by decide +kernel, by decide +kernel, by decide +kernel, by decide +kernel, by decide +kernel, by decide +kernel,
    by decide +kernel, by decide +kernel, ⟨by decide +kernel, ok_of (by decide +kernel)⟩, ⟨by decide +kernel, by decide +kernel, ok_of (by decide +kernel)⟩⟩

theorem witness_VectorReductions : sv.fcore.stageOn = true ∧ sv.mem.wf = true ∧ isI (sv.opnd 4).tag = true ∧ isF (sv.opnd 1).tag = true ∧
    (fv 1 2 0 0 0).rm = 0 ∧ (let en := sv.enabled few 1 256; en ≠ [] ∧ sv.checkPorts [(sv.opnd 1).need en] = .ok () ∧
      sv.checkPorts [(sv.opnd 4).need en] = .ok ()) := by
  refine ⟨by decide +kernel, rfl, by decide +kernel, by decide +kernel, rfl, by decide +kernel, ok_of (by decide +kernel), ok_of (by decide +kernel)⟩

theorem witness_VectorPermutes : sv.fcore.stageOn = true ∧ isE (sv.opnd 1).tag = true ∧ isE (sv.opnd 7).tag = true ∧ (sv.opnd 8).tag = 8 ∧
    (sv.opnd 4).tag = 6 ∧ (sv.opnd 2).tag = (sv.opnd 1).tag ∧ sv.fcore.Holds 31 31 false ∧
    (let en := sv.enabled few 1 256;
      en ≠ [] ∧ (∀ i ∈ en, (sv.opnd 4).elBad i = false) ∧
      sv.checkPorts [(sv.opnd 1).need (en.map (fun i => (sv.opnd 4).el i % 256 + 256 * (i / 256))), (sv.opnd 4).need en] = .ok () ∧
      sv.checkPorts [(sv.opnd 1).need (en.map (fun i => 256 * (i / 256) + (i % 256 + 256 - 31 % 256) % 256))] = .ok () ∧
      sv.checkPorts [(sv.opnd 1).need en] = .ok () ∧ sv.checkPorts [(sv.opnd 1).need (List.range en.length)] = .ok () ∧
      sv.checkPorts [(sv.opnd 1).need ((en.filter (fun i => !decide (i % 2 = 1))).map (fun i => i / 2 + 128)),
        (sv.opnd 2).need ((en.filter (fun i => decide (i % 2 = 1))).map (fun i => i / 2 + 128))] = .ok ()) := by
  refine ⟨by decide +kernel, by decide +kernel, by decide +kernel, by decide +kernel, by decide +kernel, by decide +kernel, c0_holds 31, by decide +kernel,
    by decide +kernel, ok_of (by decide +kernel), ok_of (by decide +kernel), ok_of (by decide +kernel), ok_of (by decide +kernel),
    ok_of (by decide +kernel)⟩

/-- Loads of the 1,024 bytes from A1, by indices of V4 (zeros) and by a stride of 1, and of the sidecar of V10 and of the four groups' entries of
V11. -/
theorem witness_VectorLoads : sv.fcore.stageOn = true ∧ sv.mem.wf = true ∧ sv.unit.side.wf = true ∧
    (let a := sv.fcore.areg 1; let en := sv.enabled few 8 (elemCount 8); let low := en.filter (fun i => decide (i < 256));
      whole 8 0 en ≠ [] ∧ sv.checkSpans a .read ((whole 8 0 en).map (elemSpan 64 8)) = .ok () ∧ isE 8 = true ∧ (sv.opnd 4).tag = 6 ∧
      sv.checkPorts [(sv.opnd 4).need low] = .ok () ∧ (∀ i ∈ low, (sv.opnd 4).elBad i = false) ∧
      sv.checkSpans a .read (low.map (fun i => (64 + intOf 32 true ((sv.opnd 4).el i) * 1, 1))) = .ok () ∧ sv.fcore.Holds 1 1 false ∧
      sv.checkSpans a .read (en.map (fun i => (64 + (i : Nat) * (1 : Word).toInt, 1))) = .ok ()) ∧
    (∀ v ∈ [(10 : BitVec 6), 11], let o := sv.opnd v; let us := fullUnits o.tag 0 (sv.enabled two o.tag (elemCount o.tag));
      isX o.tag = true ∧ us ≠ [] ∧
      sv.checkSpans (sv.fcore.areg 1) .read (us.map (fun u => (64 + (entrySize o.tag * u : Nat), entrySize o.tag))) = .ok ()) := by
  refine ⟨by decide +kernel, rfl, by decide +kernel, ⟨by decide +kernel, ok_of (by decide +kernel), by decide +kernel, by decide +kernel,
    ok_of (by decide +kernel), by decide +kernel, ok_of (by decide +kernel), c0_holds 1, ok_of (by decide +kernel)⟩, ?_⟩
  intro v hv
  rcases List.mem_cons.1 hv with rfl | hv
  · exact ⟨by decide +kernel, by decide +kernel, ok_of (by decide +kernel)⟩
  · rw [List.mem_singleton.1 hv]; exact ⟨by decide +kernel, by decide +kernel, ok_of (by decide +kernel)⟩

theorem witness_VectorStores : sv.fcore.stageOn = true ∧ sv.mem.wf = true ∧
    (let a := sv.fcore.areg 1; let o := sv.opnd 7; let en := sv.enabled few 8 (elemCount 8); let low := en.filter (fun i => decide (i < 256));
      isAny o.tag = true ∧ en ≠ [] ∧ sv.checkPorts [o.need en] = .ok () ∧ sv.checkSpans a .write (en.map (elemSpan 64 8)) = .ok () ∧
      (∀ i ∈ en, o.elBad i = false) ∧ isE o.tag = true ∧ (sv.opnd 4).tag = 6 ∧ low ≠ [] ∧
      sv.checkPorts [o.need low, (sv.opnd 4).need low] = .ok () ∧ (∀ i ∈ low, (sv.opnd 4).elBad i = false) ∧
      sv.checkSpans a .write (low.map (fun i => (64 + intOf 32 true ((sv.opnd 4).el i) * 1, 1))) = .ok ()) ∧
    (let o := sv.opnd 10; let us := fullUnits 10 0 (sv.enabled two 10 (elemCount 10));
      isX o.tag = true ∧ o.gs < 3 ∧ us ≠ [] ∧
      sv.checkSpans (sv.fcore.areg 1) .write (us.map (fun u => (64 + (entrySize 10 * u : Nat), entrySize 10))) = .ok () ∧
      (∀ i ∈ unitElems 10 0 us, o.elBad i = false)) := by
  refine ⟨by decide +kernel, rfl, ⟨by decide +kernel, by decide +kernel, ok_of (by decide +kernel), ok_of (by decide +kernel), by decide +kernel,
    by decide +kernel, by decide +kernel, by decide +kernel, ok_of (by decide +kernel), by decide +kernel, ok_of (by decide +kernel)⟩,
    ⟨by decide +kernel, by decide +kernel, by decide +kernel, ok_of (by decide +kernel), by decide +kernel⟩⟩

/-- The first and the last port: Q0 is bound, Q7 is not; A0, a KIND 1 and a KIND 2 register. -/
theorem witness_Ports : sv.fcore.stageOn = true ∧ sv.enabledBits on 1 ≠ [] ∧ 48 ≤ (48 : BitVec 6).toNat ∧ (55 : BitVec 6).toNat < 56 ∧
    (vget sv.unit.ports 0 {}).status ≠ 0 ∧ (vget sv.unit.ports 7 {}).status = 0 ∧ (sv.fcore.areg 1).kind = 1 ∧ (sv.fcore.areg 1).canRead = true ∧
    ¬ ((sv.fcore.areg 4).kind = 1 ∧ (sv.fcore.areg 4).canRead = true) ∧ sv.fcore.Holds 0 0 false ∧ sv.fcore.Holds 31 31 false := by
  refine ⟨by decide +kernel, by decide +kernel, by decide, by decide, by decide +kernel, by decide +kernel, by decide +kernel, by decide +kernel,
    by decide +kernel, c0_holds 0, c0_holds 31⟩

def q3 : Eng := ⟨3, 7, 4, 15⟩

/-- Core c of cell 0 with 15 entries in each queue and credit 8 at semaphore 3. -/
def sPush (c : CoreIx) : State := st 0 c { bank0 with
  prim := { entries := List.replicate 15 ent0 }, xfer := { entries := List.replicate 15 ent0 }, sems := vset bank0.sems 3 { credit := 8 } }

/-- The last free place of a queue and the last of the credit; no sources, one source, a destination. -/
theorem witness_EnginePushes : (sPush .e).fcore.stageOn = true ∧ (sPush .e).Enabled on ∧
    List.Forall₂ (fun j w => (sPush .e).fcore.Holds j w false) [1, 2] [1, 2] ∧ List.Forall₂ (fun j w => (sPush .e).fcore.Holds j w false) [] [] ∧
    (∀ j ∈ (some 6 : Option (BitVec 5)), (sPush .e).fcore.Ready j) ∧ ((sPush .e).rowMask on).getLsbD 0 = true ∧ ((sPush .e).rowMask off).getLsbD 0 = false ∧
    (((sPush .e).bank 0).engine .primary).stop = none ∧ (((sPush .e).bank 0).engine .primary).entries.length < 16 ∧ ((sPush .e).bank 0).spec = false ∧
    (q3.wsem ≠ 0 ∧ q3.ssem ≠ 0 ∧ q3.ssem ≠ q3.wsem ∧ q3.wcnt.toNat + 1 ≤ (((sPush .e).bank 0).sem q3.wsem.toNat).credit) :=
  ⟨by decide +kernel, c0_enabled rfl, .cons (c0_holds 1) (.cons (c0_holds 2) .nil), .nil, fun j _ => c0_ready j, by decide +kernel, by decide +kernel,
    by decide +kernel, by decide +kernel, by decide +kernel, by decide +kernel⟩

theorem witness_TransferPushes : (sPush .x).Enabled on ∧ List.Forall₂ (fun j w => (sPush .x).fcore.Holds j w false) [5, 0] [5, 0] ∧
    (∀ j ∈ (some 6 : Option (BitVec 5)), (sPush .x).fcore.Ready j) ∧ (6 : BitVec 5) ≠ 0 ∧
    ((sPush .x).bank 0).xfer.stop = none ∧ ((sPush .x).bank 0).xfer.entries.length < 16 ∧ ((sPush .x).bank 0).spec = false ∧
    q3.wcnt.toNat + 1 ≤ (((sPush .x).bank 0).sem q3.wsem.toNat).credit ∧ (sChan.bank 0).xfer.entries.length < 16 ∧
    (vget (sChan.bank 0).chans 15 {}).st = .open_ ∧ (vget (sChan.bank 0).chans 0 {}).st ≠ .open_ :=
  ⟨c0_enabled rfl, .cons (c0_holds 5) (.cons (c0_holds 0) .nil), fun j _ => c0_ready j, by decide, by decide +kernel, by decide +kernel, by decide +kernel,
    by decide +kernel, by decide +kernel, by decide +kernel, by decide +kernel⟩

/-- Cell k with an entry at the head of its primary queue; tile 0 FP32, tile 1 INT32. -/
def sPrim (k : Nat) (ent : Entry) : State := st k .e { bank0 with prim := { entries := [ent] }, mx := { tags := vset (vset (Vector.replicate 8 0) 0 1) 1 6 } }

def entOf (i : Instr) : Entry := { uid := 1, op := .prim i, a := c0.a, rows := 1 ||| 1 <<< 127 }

/-- Entries that may start: a wait granted, and no wait; FP and integer products; tiles of both tags. -/
theorem witness_MatrixEntries :
    (let f := fp 0 1 2 2 2 128 1 1; let e := entOf (.mma f); let s := sPrim 0 e;
      s.cls 0 = 1 ∧ s.mem.wf = true ∧ Starting s 0 e (.mma f) ∧ (s.bank 0).gsize = 1 ∧ s.tileTag 0 0 = 1 ∧
      s.checkFactor 0 (s.factorA 0 (e.areg 1) f) [0, 127] = .ok () ∧ s.checkFactor 0 (s.factorB 0 (e.areg 2) f) [0] = .ok ()) ∧
    (let f := { fp 1 1 2 8 8 128 1 1 with z := true }; let e := { entOf (.mmat f) with stage := .granted }; let s := sPrim 0 e;
      Starting s 0 e (.mmat f) ∧ s.checkFactor 0 (s.factorA 0 (e.areg 1) f) [0, 127] = .ok ()) ∧
    (let i := Instr.tload on noq 0 1 8 true ⟨127, 0⟩; let e := entOf i; let s := sPrim 0 e;
      Starting s 0 e i ∧ (s.tileTag 0 0 = 1 ∧ s.tileTag 0 1 = 6) ∧
      s.checkOpnd 0 true (e.areg 1) .read ([0, 127].map (fun r => elemsSpan (tagBits 8) (r * 1) 1)) = .ok ()) := by
  refine ⟨⟨by decide +kernel, rfl, ⟨by decide +kernel, .inr rfl, by decide +kernel, by decide +kernel, rfl⟩, by decide +kernel, by decide +kernel,
      ok_of (by decide +kernel), ok_of (by decide +kernel)⟩,
    ⟨⟨by decide +kernel, .inl rfl, by decide +kernel, by decide +kernel, rfl⟩, ok_of (by decide +kernel)⟩,
    ⟨by decide +kernel, .inr rfl, by decide +kernel, by decide +kernel, rfl⟩, by decide +kernel, ok_of (by decide +kernel)⟩

/-- Core X of cell 0 with one copy of 64 bytes from A1 to A2 at the head of its queue. -/
def entX : Entry := { uid := 1, op := .xfer (.copy 0x180 (fx 2 1 64)), a := c0.a }
def sXfer : State := st 0 .x { bank0 with xfer := { entries := [entX] } }

theorem witness_SortAndCopyEntries :
    (let f := fso 1 0 2 0 8 16 16; let e := entOf (.topk f); let s := sPrim (20 * 128) e;
      s.cls (20 * 128) ≠ 1 ∧ s.cls (20 * 128) ≠ 2 ∧ s.mem.wf = true ∧ Starting s (20 * 128) e (.topk f) ∧ f.m1.toNat + 1 ≤ f.n1.toNat + 1 ∧
      s.soCheck (20 * 128) [⟨e.areg 2, 1, 16⟩] [⟨e.areg 1, 1, 16⟩] (fun _ _ => false) = .ok () ∧ tagBits 8 % 8 = 0 ∧ 0 < tagBits 8) ∧
    sXfer.mem.wf = true ∧ (sXfer.bank 0).upNext .transfer = some entX ∧ entX.q.wsem = 0 ∧ sXfer.mayStart 0 = true ∧
    sXfer.xferReady 0 entX = true ∧ (entX.areg 1).kind = 1 ∧ (entX.areg 2).kind = 1 ∧ (∃ p, sXfer.plan 0 entX 0x180 (fx 2 1 64) = .ok p) ∧
    (entX.areg 1).ptr.toNat + 64 ≤ sXfer.padSize 0 ∧ (entX.areg 2).ptr.toNat + 64 ≤ sXfer.padSize 0 := by
  refine ⟨⟨by decide +kernel, by decide +kernel, rfl, ⟨by decide +kernel, .inr rfl, by decide +kernel, by decide +kernel, rfl⟩, by decide,
    ok_of (by decide +kernel), by decide +kernel, by decide +kernel⟩, rfl, by decide +kernel, rfl, by decide +kernel, by decide +kernel, by decide +kernel, by decide +kernel,
    ⟨_, rfl⟩, by decide +kernel, by decide +kernel⟩

/-- An entry whose wait can be granted, and a finished one whose signal of 16 fits or does not. -/
theorem witness_EntryLifetime :
    (let e : Entry := { entOf (.mtest on q3) with q := q3 };
      let s := st 0 .e { bank0 with prim := { entries := [e] }, sems := vset bank0.sems 3 { val := 8, queue := [⟨.entry .primary 1, 8⟩] } };
      (s.bank 0).upNext .primary = some e ∧ e.stage = .queued ∧ e.q.wsem.toNat ≠ 0 ∧ ((s.bank 0).sem 3).queue = [⟨.entry .primary e.uid, 8⟩] ∧
        8 ≤ ((s.bank 0).sem 3).val) ∧
    (let e : Entry := { entOf (.mtest on q3) with q := q3, stage := .finished };
      let s := fun n => st 0 .e { bank0 with prim := { entries := [e] }, sems := vset bank0.sems 4 { val := n } };
      ((s 0).bank 0).prim.entries = [e] ∧ ((s 0).bank 0).prim.stop = none ∧ e.late = [] ∧ phaseOf e.op = none ∧
        (((s 65519).bank 0).sem 4).val + 16 ≤ 65535 ∧ 65535 < (((s 65520).bank 0).sem 4).val + 16 ∧ ((s 65520).bank 0).spec = false ∧
        (((s 65520).bank 0).core .e).run = .running ∧ ∀ m, m < 32 → (((s 65520).bank 0).sem m).queue = []) := by decide +kernel

/-- What each clause waits on: a result, the head of a semaphore's and of a mutex's queue, a write pointer, a drained and a full queue, a pause. -/
theorem witness_CoreWakeups :
    (let s := sxc { c0 with results := [⟨31, 7, true⟩], x := vset c0.x 31 { fill := .load } };
      (s.core 0 .x).results[0]? = some ⟨31, 7, true⟩) ∧
    (let s := st 0 .x { bank0 with x := { c0 with run := .blocked (.sem 31 5) }, sems := vset bank0.sems 31 { val := 5, queue := [⟨.core .x, 5⟩] } };
      ((s.bank 0).sem 31).queue = [⟨.core .x, 5⟩] ∧ 5 ≤ ((s.bank 0).sem 31).val ∧ (s.core 0 .x).run = .blocked (.sem 31 5)) ∧
    (let s := st 0 .x { bank0 with x := { c0 with run := .blocked (.mutex 15) }, mutexes := vset bank0.mutexes 15 { queue := [.x] } };
      ((s.bank 0).mutex 15).owner = none ∧ ((s.bank 0).mutex 15).queue = [.x] ∧ (s.core 0 .x).run = .blocked (.mutex 15)) ∧
    (let s := fun c => st 0 .x { bank0 with x := { c0 with run := .blocked (.wp c 5) }, chans := vset bank0.chans 15 { st := .open_, wp := 5 } };
      ((s 15).core 0 .x).run = .blocked (.wp 15 5) ∧ (vget ((s 15).bank 0).chans 15 {}).st = .open_ ∧
        (5 : Word).toNat ≤ (vget ((s 15).bank 0).chans 15 {}).wp ∧ (vget ((s 14).bank 0).chans 14 {}).st ≠ .open_ ∧
        (vget ((s 14).bank 0).chans 14 {}).wp < (5 : Word).toNat) ∧
    (let s := st 0 .x { bank0 with x := { c0 with run := .blocked .drain } };
      engineOf (s.cls 0) 0 .x = some .transfer ∧ (s.core 0 .x).run = .blocked .drain ∧ ((s.bank 0).engine .transfer).entries = [] ∧
        ((s.bank 0).engine .transfer).stop = none) ∧
    (let s := st 0 .x { bank0 with x := { c0 with run := .blocked .push }, xfer := { entries := List.replicate 15 ent0 } };
      (s.core 0 .x).run = .blocked .push ∧ ((s.bank 0).engine .transfer).entries.length < 16) ∧
    (let s := { sxc { c0 with run := .blocked (.pause 0 0 0) } with
        cells := [(0, { b := { bank0 with x := { c0 with run := .blocked (.pause 0 0 0) }, changes := 1 }, cycle := 1024 })] };
      (s.core 0 .x).run = .blocked (.pause 0 0 0) ∧ (s.bank 0).changes ≠ 0 ∧ 0 + 1024 ≤ (s.cell 0).cycle) := by decide +kernel

/-- Cell 0, a queue of each engine, and what stands beside them. -/
def sEng (p x : List Entry) (c : Cell) : State :=
  { s0 .x with cells := [(0, { c with b := { bank0 with prim := { entries := p }, xfer := { entries := x }, mx := { arr := ⟨#[65535, 0, 0, 5], rfl⟩ } } })] }

def entF (op : QOp) (n : Need) (d : Option Nat) : Entry := { uid := 1, op := op, a := c0.a, stage := .far, need := n, dest := d }

/-- An answered GWAIT, a posted write of 64 bytes at the end of Region 0, a CBAR, a multicast to rank 0, MCWAIT on the last rank, a publication. -/
theorem witness_EngineEvents_far :
    (let e := entF (.xfer .hnotify) .reply (some 31); let s := sEng [] [e] {};
      ((s.bank 0).xfer.entries.filter (fun e => (s.replyOf 0 e).isSome)) = [e] ∧ s.replyOf 0 e = some (some (0, false)) ∧ e.dest = some 31) ∧
    (let p : Posted := { dst := .chip 4194240, data := List.replicate 64 { v := 7 } }; let s := sEng [] [] { posted := [p] };
      (s.cell 0).posted[0]? = some p ∧ (s.cell 0).pusher p.uid = none ∧ p.chan = none ∧ p.mcast = false ∧ s.mayLand p ((s.cell 0).posted.take 0) = true ∧ chipRegion 4194240 = 0 ∧
        s.mem.wf = true ∧ (∀ w ∈ p.data, w.m = 0xFF)) ∧
    (let e := entF (.xfer .cbar) (.group .cbar 0) none; let s := sEng [] [e] {};
      (s.bank 0).task.isSome = true ∧ (s.bank 0).gsize = 1 ∧ s.atGroup 0 (s.rankCell 0 0) .cbar = some (e, 0)) ∧
    (let e := entF (.prim (.mcast on noq 1 2 1 0)) .posted none; let s := sEng [e] [] {};
      (s.bank 0).prim.entries = [e] ∧ mcastRanks e.op = some 1 ∧ e.stage = .far ∧ e.need = .posted ∧ (s.bank 0).rank < 4) ∧
    (let e := entF (.prim (.mcwait on noq 3 5)) .mcwait none; let s := sEng [e] [] {};
      (s.bank 0).prim.entries = [e] ∧ mcwaitOf e.op = some (3, 5) ∧ 3 < 4 ∧ 5 ≤ vget (s.bank 0).mx.arr 3 0) ∧
    (let p : Pub := { phase := 1, granules := [⟨0x01000001 * 2 ^ 58, [(0x01000001 * 2 ^ 64, { v := 7 })], none⟩], handles := [0x01000001] };
      let s := st 0 .x { bank0 with pubs := [p] };
      (s.bank 0).pubs = [p] ∧ p.held = false ∧ p.granules[0]? = some ⟨0x01000001 * 2 ^ 58, [(0x01000001 * 2 ^ 64, { v := 7 })], none⟩ ∧
        (s.buf? (0x01000001 * 2 ^ 58 * 64 / 2 ^ 64)).isSome = true) := by decide +kernel

/-- Self-tests due by count and by time; a host copy with one parked element whose page has come; one whose page is refused. -/
theorem witness_EngineEvents_tests :
    (let s := sEng [] [] { since := 4096 };
      s.cls 0 = 1 ∧ isService 0 = false ∧ (s.bank 0).prim.entries = [] ∧ (s.bank 0).prim.stop = none ∧ (s.bank 0).spec = false ∧
        (s.core 0 .e).run = .running ∧ 4096 ≤ (s.cell 0).since ∧ 1000000 ≤ 1000000 - (s.cell 0).lastTest) ∧
    (let f := fx 6 1 1; let e : Entry := { entF (.xfer (.copy 0x183 f)) .replay none with a := vset c0.a 6 ⟨0, 0, 4096, 9, 4, 31⟩, moves := [⟨some 512, 0⟩] };
      let s := { sEng [] [e] {} with host := { trans := [{ pasid := 9, page := 0 }] } };
      (s.bank 0).xfer.entries.find? (fun e => e.need == .replay) = some e ∧ e.op = .xfer (.copy 0x183 f) ∧ e.moves ≠ [] ∧
        (∀ m ∈ e.moves, s.pageOk 9 (m.dst / 8) = true ∧ s.pageOk 9 ((m.dst + e.w - 1) / 8) = true) ∧ s.parkedIn 0 e.uid < 64 ∧ s.memBad = [] ∧ (∀ p ∈ (s.cell 0).posted, p.uid ≠ e.uid) ∧ (s.core 0 .x).run = .running) ∧
    (∃ d a, (s0 .x).side ⟨0, 0, 4096, 9, 4, 31⟩ = .ok d ∧ (s0 .x).side (c0.areg 1) = .ok a ∧ d.kind = 4 ∧ a.kind = 1) :=
  ⟨by decide +kernel, by decide +kernel, _, _, rfl, rfl, rfl, rfl⟩

/-- A record for a task of one cell, all three cores running, an image of 4,096 bytes. -/
def task0 : Task := { record := List.replicate 268 (wNat (2 ^ 63 + 0x100)), launch := 1 }

def idleBank : Bank := { e := { run := .done }, v := { run := .done }, x := { run := .done } }

theorem witness_TaskEvents :
    (let s := sEng [] [] {}; let t := { s with cells := [(0, { b := { idleBank with task := some task0, final := true } })] };
      (t.cell 0).shadow = none ∧ (t.bank 0).task = some task0 ∧ (t.bank 0).allDone = true ∧ (t.bank 0).ending = none ∧ (t.bank 0).pubs = [] ∧
        (t.cell 0).posted = [] ∧ (t.bank 0).final = true) ∧
    (let t := { s0 .x with cells := [(0, { b := idleBank, shadow := some task0 })] };
      (t.cell 0).shadow = some task0 ∧ task0.group 0 = [0] ∧ t.swapReady 0 = true ∧ t.mem.wf = true) ∧
    (let t := st 0 .x { bank0 with ending := some ⟨.x, cTRAP, 0, 0, 0⟩ };
      (t.bank 0).ending = some ⟨.x, cTRAP, 0, 0, 0⟩ ∧ (t.bank 0).prim.entries = [] ∧ (t.bank 0).xfer.entries = [] ∧ (t.cell 0).posted = [] ∧
        (t.bank 0).pubs = [] ∧ (t.bank 0).dirty = [] ∧ t.mem.wf = true) ∧
    (let t := sEng [] [] { preempt := true };
      (∃ t0, (t.bank 0).task = some t0 ∧ t0.group 0 = [0]) ∧ t.settledCell 0 = true) ∧
    (let x : Suspended := { bank := bank0, mem := [], bad := [] };
      let t := { s0 .x with cells := [(0, { b := idleBank, suspended := [x] })] };
      (t.cell 0).suspended.getLast? = some x ∧ t.swapReady 0 = true ∧ (t.cell 0).shadow = none ∧ x.later = [] ∧ x.bank.spill.taken = [] ∧ x.bank.ending = none) ∧
    (∃ t0, ((s0 .x).bank 0).task = some t0 ∧ t0.group 0 = [0] ∧ t0.spec = false ∧ ((s0 .x).bank 0).ending = none) := by
  refine ⟨by decide +kernel, by decide +kernel, by decide +kernel, ⟨⟨_, rfl, by decide +kernel⟩, by decide +kernel⟩, by decide +kernel, _, rfl,
    by decide +kernel, by decide +kernel, by decide +kernel⟩

/-! ### Scheduler, host link, fabric -/

/-- A module that is up, with nothing in it. -/
def up : State := { geode := { boot := .up } }

/-- A template's buffer of 2,144 bytes, held by ASID 0 with READ. -/
def bufT : Buf := { handle := 0x01000002, tag := 18, ndim := 0, layout := 0, shared := true, dims := ⟨#[268, 1, 1, 1], rfl⟩, granules := 34, homes := 1 }

/-- A node record of a TASK for class 1 at that template. -/
def rec0 : List Word := ([0, wNat (2 ^ 60), wNat (0x01000002 * 2 ^ 32)] : List Word) ++ List.replicate 69 0

def nd0 : Node := { q := 1023, seq := 0, order := 0, st := .ready, kind := 0, record := rec0, accs := [], asid := 0, gen := 0 }

/-- Queue 1023 enabled at a level, the template, and the nodes given; die 0 with one available cell. -/
def sSched (ns : KMap Node) (l : Nat) : State :=
  { up with bufs := [(2, bufT)], dies := [(0, { avail := 1, fullw := 1 })]
            sched := { queues := [(1023, { enable := true, level := l })], nodes := ns, asids := [(0, { live := true, holdings := [(0x01000002, (1, 1))] })] } }

theorem freeNode_of_empty (s : State) (h : s.sched.nodes = []) : ∃ n, s.freeNode = some n := by
  apply Option.isSome_iff_exists.1
  unfold State.freeNode
  rw [List.find?_isSome]
  exact ⟨_, List.mem_map.2 ⟨0, List.mem_range.2 (by decide), rfl⟩, by rw [h]; rfl⟩

theorem freeIndex_of_empty (s : State) (h : s.bufs = []) (hr : s.fabric.remote = []) (lo n : Nat) : ∃ i, s.freeIndex lo n = some i := by
  apply Option.isSome_iff_exists.1
  unfold State.freeIndex
  rw [List.find?_isSome]
  refine ⟨_, List.mem_map.2 ⟨0, List.mem_range.2 (by omega), rfl⟩, ?_⟩
  simp [State.indexUsed, h, hr, kget?]

/-- A refused and an accepted submission of the host; a placeable node of the lowest level; a cancelled node; an EVENT at its count; a LOOP
with one iteration more, and its last. -/
theorem witness_SchedulerEvents :
    (let sub : Submission := ⟨1023, 0, 0, rec0, [], true, 0, 0⟩; let s := { sSched [] 3 with sched := { (sSched [] 3).sched with subs := [sub] } };
      s.sched.subs[0]? = some sub ∧ s.serves = true ∧ s.sched.subs.take 0 = [] ∧ sub.host = true ∧ (s.parseNode sub).isSome = true ∧
        s.parseNode { sub with q := 1024 } = none ∧ s.flying.length < 8192 ∧ (∃ n, s.freeNode = some n) ∧
        (∀ q r, (s.fox q).run ≠ some r) ∧ ∀ e ∈ s.sched.nodes, e.2.order < s.sched.order) ∧
    (let s := sSched [(5, nd0)] 3;
      s.geode.hip = false ∧ s.serves = true ∧ (∀ m, m < 3 → s.levelQueues m = []) ∧ (∃ n nd p, s.levelQueues 3 = [(1023, n, nd, p)]) ∧
        (s.queue 1023).tickets = 0) ∧
    (let s := sSched [(5, { nd0 with cancel := some 5 })] 0;
      kget? s.sched.nodes 5 = some { nd0 with cancel := some 5 } ∧ s.dueStatus 5 { nd0 with cancel := some 5 } = some 5) ∧
    (let e : Node := { nd0 with kind := 6, record := ([wNat (6 * 2 ^ 61)] : List Word) ++ List.replicate 14 0 ++ [wNat (2 ^ 32)] ++ List.replicate 56 0 }; let s := sSched [(5, e)] 0;
      kget? s.sched.nodes 5 = some e ∧ e.kind = 6 ∧ e.st = .ready ∧ e.cancel = none ∧ e.spec = false ∧
        (s.eventCount e + 4294967296 - NodeRec.value e.record) % 4294967296 < 2147483648) ∧
    (let l : Node := { nd0 with kind := 3, arm := some 1, record := ([wNat (3 * 2 ^ 61)] : List Word) ++ List.replicate 14 0 ++ [2] ++ List.replicate 56 0
                                accs := [{ mode := .r, slot := 0, cores := 1, cap := ⟨0, 0, 2144, 0x01000002, 2, 1⟩ }] };
      let s := { sSched [(5, l)] 0 with hbm := Mem.write [] (bufKey 0x01000002 0) [1] };
      kget? s.sched.nodes 5 = some l ∧ l.kind = 3 ∧ l.arm = some 1 ∧ l.cancel = none ∧ NodeRec.body l.record ≤ l.gated ∧ s.gatedOn 5 1 = [] ∧
        l.iter + 1 < NodeRec.value l.record ∧ s.nodeWord l ≠ 0 ∧ s.sched.nodes.length + s.sched.bodies.length ≤ 8192 ∧ ¬ ({ l with iter := 1 }.iter + 1 < NodeRec.value l.record)) := by
  refine ⟨⟨rfl, rfl, rfl, rfl, by decide +kernel, by decide +kernel, by decide +kernel, freeNode_of_empty _ rfl, (fun _ _ h => by cases h), (fun _ h => by cases h)⟩,
    ⟨rfl, rfl, ?_, ?_, by decide +kernel⟩, by decide +kernel, by decide +kernel, by decide +kernel⟩
  · intro m hm
    refine (List.map_eq_nil_iff (f := fun x => x.1)).1 ?_
    revert m
    decide +kernel
  · obtain ⟨⟨q, n, nd, p⟩, h, hq⟩ := List.map_eq_singleton_iff.1
      (show ((sSched [(5, nd0)] 3).levelQueues 3).map (fun x => x.1) = [1023] by decide +kernel)
    cases hq
    exact ⟨n, nd, p, h⟩

/-- A waiting record and room for one more; a vector's two timers and a held message; a mapped window, its last byte and one past it; a leased
page. -/
theorem witness_HostLinkEvents :
    (let s := { up with sched := { asids := [(4095, { live := true, ringK := 6, ringWr := 63, waiting := [{ words := [1, 2, 3] }] })] } };
      (s.asid 4095).waiting = [{ words := [1, 2, 3] }] ∧ (s.asid 4095).ringRoom = true) ∧
    (let s := fun m => { up with time := 64000, host := { msix := [(7, { pend := 1, masked := m, held := m, latest := 48000 })] } };
      0 < ((s true).msix 7).pend ∧ ((s true).msix 7).first + 1000 * ((s true).msix 7).t ≤ (s true).time ∧
        ((s true).msix 7).latest + 1000 * ((s true).msix 7).i ≤ (s true).time ∧ ((s true).msix 7).held = true ∧ ((s true).msix 7).masked = true ∧
        ((s false).msix 7).masked = false) ∧
    (let s := { up with bufs := [(1, buf0)], host := { bar2 := [(32767, ⟨0, 0x01000001, 0, 3⟩)], trans := [{ pasid := 9, page := 0, inval := true }] }
                        cells := [(0, { b := { bank0 with task := some { lease := [{ host := true, h := 9, lo := 0, hi := 64, mode := .rw }] } } })] };
      s.serves = true ∧ s.windowAt 32767 128 1 0 = none ∧ (s.windowAt 32767 127 1 0).isSome = true ∧ (s.windowAt 32767 0 128 1).isSome = true ∧
        (9, 1) ∉ s.host.pri ∧ (9, 1) ∉ s.host.priWait ∧ s.host.pri.length < 512 ∧ 512 ≤ (List.replicate 512 (9, 0)).length ∧
        s.windowAt 0 0 1 1 = none ∧ s.pageLeased 9 0 = true ∧ s.host.trans.any (fun t => t.is 9 0 && t.inval) = true ∧ s.pagePosted 9 0 = false) := by
  decide +kernel

/-- The first 252 bytes of a flit: tag, kind, zeros, LSEQ 0; and the flit with the CRC over them. -/
def flitHead (kind tag : Nat) : List Byte := [BitVec.ofNat 8 tag, BitVec.ofNat 8 (kind * 64)] ++ List.replicate 250 0
def flitOf (kind tag : Nat) : Flit := flitHead kind tag ++ leBytes 4 (crc32 (flitHead kind tag)).toNat

theorem flitHead_length (kind tag : Nat) : (flitHead kind tag).length = 252 := by
  rw [flitHead, List.length_append, List.length_replicate]; rfl

theorem flitOk_of (kind tag : Nat) : flitOk (flitOf kind tag) = true := by
  have h := flitHead_length kind tag
  have hc := (crc32 (flitHead kind tag)).isLt
  simp only [flitOk, flitOf, flitNat, List.length_append, h, leBytes_length, List.take_left' h, List.drop_left' h, Bool.and_eq_true]
  rw [List.take_of_length_le (by simp), leNat_leBytes]
  refine ⟨rfl, ?_⟩
  rw [beq_iff_eq]
  omega

theorem flit_fields (kind tag : Nat) : flitKind (flitOf kind tag) = kind * 64 % 256 / 64 ∧ flitTag (flitOf kind tag) = tag % 256 ∧
    flitNat (flitOf kind tag) 242 2 = 0 := by
  have h := flitHead_length kind tag
  refine ⟨rfl, rfl, ?_⟩
  rw [flitNat, flitOf, List.drop_append_of_le_length (by omega), List.take_append_of_le_length (by rw [List.length_drop]; omega)]
  rfl

/-- OPEN with the highest tag that is not reserved, DATA and CLOSE of an open context, CREDIT, and a flit of wrong length. -/
theorem witness_LinksAndMessages_flits :
    (flitOk (flitOf 1 254) = true ∧ flitKind (flitOf 1 254) = 1 ∧ flitTag (flitOf 1 254) ≠ 255 ∧ flitNat (flitOf 1 254) 242 2 = (up.link 7).nextLseq) ∧
    (let c : Ctx := { link := 7, tag := 254, header := [] }; let s := { up with fabric := { ctxs := [c] } };
      flitKind (flitOf 0 254) = 0 ∧ flitKind (flitOf 2 254) = 2 ∧ s.ctxOf 7 (flitTag (flitOf 0 254)) = some c ∧
        s.fabric.ctxs.head? = some c ∧ c.closed = none) ∧
    (flitOk (flitOf 3 0) = true ∧ flitKind (flitOf 3 0) = 3) ∧ flitOk [] = false :=
  ⟨⟨flitOk_of _ _, rfl, by rw [(flit_fields 1 254).2.1]; decide, (flit_fields 1 254).2.2⟩, ⟨rfl, rfl, by rw [(flit_fields 0 254).2.1]; decide +kernel⟩,
    ⟨flitOk_of _ _, rfl⟩, by decide +kernel⟩

/-- A message of module 3 to module 0 under epoch 1. -/
def msg (ty arg : Nat) (p : List Byte) : Msg :=
  sealed ⟨wNat (ty * 2 ^ 56 + 3 * 2 ^ 40 + p.length), 9, wNat (0x01000001 * 2 ^ 32 + 2 ^ 16), wNat arg, p, 0⟩

/-- A sealed message whose LEN is its payload's length arrives whole. -/
theorem sealed_whole (m : Msg) (h : m.payload.length = field m.w0.toNat 0 9) : msgWhole (sealed m) = true := by
  have e : (sealed m).trailer.truncate 32 = msgCrc (sealed m) := by simp [sealed, msgCrc]
  simp [msgWhole, e, show (sealed m).payload.length = field (sealed m).w0.toNat 0 9 from h]

/-- The exported buffer, an XPUSH and an XPULL in flight towards module 3, and an entry of its remote table. -/
def sFab : State :=
  { up with
    bufs := [(1, buf0)]
    fabric := {
      exports := [⟨0x01000001, 0, 128, 3⟩]
      ops := [{ opid := 9, cell := 0, uid := 1, module := 3, epoch := 1, push := true, seq := 0 },
        { opid := 9, cell := 0, uid := 2, module := 3, epoch := 1, push := false, seq := 0, expect := 1 }]
      remote := [(0x02000005, { target := 0x01000001, module := 3, epoch := 1, rights := 3, base := 0, limit := 128, desc := [] })] }
    cells := [(0, { b := { bank0 with xfer := { entries := [
      { uid := 1, op := .xfer (.copy 0x189 (fx 1 4 1)), a := c0.a, stage := .far, need := .remote 9, dest := some 31 },
      { uid := 2, op := .xfer (.copy 0x18A (fx 1 4 1)), a := c0.a, stage := .far, need := .remote 9, dest := some 30 }] } } })] }

/-- A push that lands, one of another epoch, its end, a pull of 8 bytes and one of another epoch, the three answers, an EPOCH, an unknown type. -/
theorem witness_LinksAndMessages_messages :
    (let m := msg 1 120 (List.replicate 8 7);
      m.type_ = 1 ∧ m.dst = sFab.fabric.moduleId ∧ (sFab.inPush m).stale = false ∧ (sFab.inPush m).refused = false ∧ (sFab.inPush m).done = none ∧
        m.epoch = sFab.fabric.epoch ∧ sFab.exported m.handle m.arg m.payload.length 1 = true ∧ m.fmask = 0 ∧ m.lmask = 0 ∧ sFab.hbm.wf = true ∧
        ({ m with w2 := 0 } : Msg).epoch ≠ sFab.fabric.epoch) ∧
    (let m := msg 2 5 [];
      m.type_ = 2 ∧ (sFab.inPush m).handle = m.handle ∧ sFab.exported m.handle 0 0 1 = true ∧ m.arg / 4294967296 ≤ (sFab.inPush m).seen ∧
        sFab.buf? m.handle = some buf0) ∧
    (let m := msg 4 120 (leBytes 8 8);
      m.type_ = 4 ∧ leNat (m.payload.take 8) = 8 ∧ m.epoch = sFab.fabric.epoch ∧ sFab.exported m.handle m.arg 8 0 = true ∧
        sFab.cleanPart m.handle m.arg 8 = 8) ∧
    (sFab.serves = true ∧ sFab.livePorts ≠ [] ∧ (∀ ty, ty < 9 → msgWhole (msg ty 120 (leBytes 8 8)) = true) ∧ msgWhole (msg 2 5 []) = true) ∧
    (∃ o ent, sFab.opOf (msg 3 0 []) true = some o ∧ (sFab.cell o.cell).pusher o.uid = none ∧ (sFab.bank o.cell).opEntry o = some ent ∧
      ent.dest = some 31) ∧
    (∃ o ent, sFab.opOf (msg 6 0 []) false = some o ∧ o.expect = 1 ∧ (sFab.cell o.cell).pusher o.uid = none ∧
      (sFab.bank o.cell).opEntry o = some ent ∧ ent.dest = some 30 ∧ ∀ v ∈ ent.moves, o.has ent.w v = true) ∧
    (∃ o, sFab.opOf (msg 5 0 [7]) false = some o ∧ o.expect ≠ 0) ∧
    (∃ o, ({ sFab with fabric := { sFab.fabric with ops := [{ opid := 9, cell := 0, uid := 2, module := 3, epoch := 1, push := false, seq := 0, expect := 2 }] } } :
      State).opOf (msg 6 0 []) false = some o ∧ 2 ≤ o.expect) ∧
    (let m := msg 7 2 [];
      m.type_ = 7 ∧ ∃ r, kget? sFab.fabric.remote 0x02000005 = some r ∧ r.module = m.src ∧ older r.epoch (m.arg % 65536) = true) ∧
    ¬ (1 ≤ (msg 8 0 []).type_ ∧ (msg 8 0 []).type_ ≤ 7) ∧ ¬ (1 ≤ (msg 0 0 []).type_ ∧ (msg 0 0 []).type_ ≤ 7) ∧ 35 < 36 := by
  refine ⟨by decide +kernel, by decide +kernel, by decide +kernel,
    ⟨by decide +kernel, by decide +kernel, fun ty _ => sealed_whole _ (by interval_cases ty <;> decide +kernel), sealed_whole _ (by decide +kernel)⟩,
    ⟨_, _, rfl, rfl, rfl, rfl⟩, ⟨_, _, rfl, rfl, rfl, rfl, rfl, by decide +kernel⟩, ⟨_, rfl, by decide⟩, ⟨_, rfl, by decide⟩,
    ⟨by decide +kernel, _, rfl, by decide +kernel, by decide +kernel⟩, by decide +kernel, by decide +kernel, by decide⟩

/-- ASID 4095 live at generation 15, holding the buffer once or twice, with windows 0 and 32767. -/
def sHost (n : Nat) : State :=
  { up with
    bufs := [(1, { buf0 with refcnt := n })]
    host := { bar2 := [(0, ⟨4095, 0x01000001, 0, 3⟩), (32767, ⟨4095, 0x01000001, 0, 3⟩)], writes := [(4095, bufKey 0x01000001 120, [1, 2, 3, 4])] }
    sched := { asids := [(4095, { live := true, gen := 15, holdings := [(0x01000001, (n, 7))] })] } }

/-- A template of 32 elements of a tag, on all stacks or on stack 0 alone. -/
def tmpl (tag homes : Nat) : List Word := [wNat (tag * 65536), 32, 0, 0, 0, 0, wNat (homes * 2 ^ 48), 0]

theorem witness_BufferAndAsidRequests_buffers :
    (sHost 2).AtDoorbell ∧ (sHost 2).asidIs 4095 15 = true ∧ (sHost 2).asidIs 4095 14 = false ∧ (sHost 2).asidIs 0 0 = false ∧
    ((parseTemplate (tmpl 1 0)).isSome = true ∧ (∀ b ∈ parseTemplate (tmpl 1 0), ((sHost 2).placeOn b).isSome = true ∧ b.companionOf = none)) ∧
    parseTemplate (tmpl 19 0) = none ∧
    ((parseTemplate (tmpl 1 1)).isSome = true ∧ ∀ b ∈ parseTemplate (tmpl 1 1),
      ({ sHost 2 with dies := [(32, { st := 2 })] } : State).placeOn b = none) ∧
    (∃ i, ({ sHost 2 with bufs := [] } : State).freeIndex 1 0xEFFFFF = some i) ∧
    kget? ((sHost 2).asid 4095).holdings 5 = none ∧
    (kget? ((sHost 2).asid 4095).holdings 0x01000001 = some (2, 7) ∧ (sHost 2).remote? 0x01000001 = none ∧
      (sHost 2).buf? 0x01000001 = some { buf0 with refcnt := 2 }) ∧
    (kget? ((sHost 1).asid 4095).holdings 0x01000001 = some (1, 7) ∧ (sHost 1).buf? 0x01000001 = some buf0 ∧ (sHost 1).buf? buf0.companion = none) ∧
    ((7 : BitVec 5) &&& ~~~((sHost 2).held 4095 0x01000001) = 0 ∧ (8 : BitVec 5) &&& ~~~((sHost 2).held 4095 0x01000001) ≠ 0 ∧ 32767 < 32768) ∧
    ((sHost 2).host.writes.filter (fun e => e.1 == 4095) = [(4095, bufKey 0x01000001 120, [1, 2, 3, 4])] ∧ (120 : Nat) < 2 ^ 64 ∧
      buf0.st = .live ∧ (sHost 2).hbm.wf = true) := by
  refine ⟨⟨by decide +kernel, by decide +kernel⟩, by decide +kernel, by decide +kernel, by decide +kernel, by decide +kernel, by decide +kernel,
    by decide +kernel, freeIndex_of_empty _ rfl rfl _ _, by decide +kernel, by decide +kernel, by decide +kernel, by decide +kernel, by decide +kernel⟩

/-- ASID 0 not live, ASID 4095 live and holding nothing, ASID 1 sweeping; ring sizes 6 and 16; the first and the last queue. -/
def sAsid : State := { up with sched := { asids := [(1, { sweep := true }), (4095, { live := true, gen := 15 })],
                                          queues := [(1023, { enable := true, asid := 4095, gen := 15 })] } }

theorem witness_BufferAndAsidRequests_asids :
    sAsid.AtDoorbell ∧ sAsid.serves = true ∧ ((sAsid.asid 0).live = false ∧ (sAsid.asid 0).sweep = false) ∧
    ((sAsid.asid 1).live = false ∧ (sAsid.asid 1).sweep = true) ∧ (sAsid.asid 4095).live = true ∧ sAsid.asidIs 4095 15 = true ∧
    sAsid.asidIs 4095 0 = false ∧ sAsid.cells = [] ∧ sAsid.sched.nodes = [] ∧ (sAsid.asid 4095).holdings = [] ∧ (∀ q, (sAsid.fox q).run = none) ∧
    ((sAsid.queue 1023).asid = 4095 ∧ (sAsid.queue 1023).gen = 15 ∧ (sAsid.queue 1023).enable = true) ∧
    ((sAsid.queue 0).enable = false ∧ (wNat (2 ^ 63)).getLsbD 63 = true) := by
  refine ⟨⟨by decide +kernel, by decide +kernel⟩, by decide +kernel, by decide +kernel, by decide +kernel, by decide +kernel, by decide +kernel,
    by decide +kernel, rfl, rfl, by decide +kernel, fun q => rfl, by decide +kernel, by decide +kernel⟩

/-- The smallest package with its one full stack left: the others are offline. -/
def sSmall : State :=
  { up with pop := .s, bufs := [(1, { buf0 with st := .evacuating })], dies := (0, { st := 1 }) :: (List.range 7).map (fun i => (33 + i, { st := 2 })) }

theorem witness_DieAndReadRequests :
    ((sHost 2).AtDoorbell ∧ (sHost 2).asidIs 4095 15 = true ∧ (sHost 2).buf? 0x01000001 = some { buf0 with refcnt := 2 } ∧ buf0.shared = true ∧
      0 ≤ 128 ∧ 128 ≤ buf0.bytes ∧ (7 : BitVec 5) &&& rightsRWA &&& ~~~((sHost 2).held 4095 0x01000001) = 0 ∧
      (sHost 2).buf? 0x02000001 = none ∧ (∃ i, ({ sHost 2 with bufs := [] } : State).freeIndex 1 0xEFFFFF = some i)) ∧
    (3 : BitVec 5) &&& rightsRWA &&& ~~~(sAsid.held 4095 0x01000001) ≠ 0 ∧
    (Config.dieClass up.pop 23 = 0 ∧ Config.dieClass up.pop 24 = 5 ∧ Config.dieClass up.pop 26 = 6 ∧ 2 ≤ (sSmall.die 33).st) ∧
    (Config.dieClass up.pop 21 = 4 ∧ (up.die 21).st < 2) ∧ (Config.dieClass up.pop 47 = 7 ∧ (up.die 47).st < 2 ∧ up.buffersOn (47 - 32) = []) ∧
    (sSmall.AtDoorbell ∧ Config.dieClass sSmall.pop 32 = 7 ∧ (sSmall.die 32).st < 2 ∧
      (let u := (sSmall.takeOff 32 1).discUpdate; (u.planMoves 0 (u.buffersOn 0)).2 ≠ []) ∧
      (let u := (up.takeOff 32 1).discUpdate; (u.planMoves 0 (u.buffersOn 0)).2 = [])) ∧
    (Config.dieClass sSmall.pop 33 ≠ 0 ∧ (sSmall.die 33).st = 2 ∧ (sSmall.die 34).st ≠ 1 ∧ (sSmall.die 1).st ≠ 2) ∧
    ((0x99 : Nat) ∉ mailboxCodes) ∧
    (Config.dieClass sSmall.pop 0 = 1 ∧ (sSmall.die 0).st = 1 ∧ sSmall.cells = []) ∧
    (let b := { buf0 with toHomes := 0x8000 }; let s := { up with bufs := [(1, b)], dies := [(32, { st := 1 })] };
      s.buf? 0x01000001 = some b ∧ b.homes.getLsbD (32 - 32) = true ∧ b.toHomes ≠ 0 ∧ b.toHomes.getLsbD (32 - 32) = false ∧
        (∀ e ∈ s.bufs, e.2.handle = 0x01000001 → e.2 = b) ∧ b.st = .live ∧ s.leased 0x01000001 = false ∧ (s.die 32).st = 1 ∧
        ({ s with bufs := [(1, { b with st := .evacuating })] } : State).buf? 0x01000001 = some { b with st := .evacuating } ∧
        ({ s with bufs := [] } : State).buffersOn 0 = []) := by
  refine ⟨⟨⟨by decide +kernel, by decide +kernel⟩, by decide +kernel, by decide +kernel, by decide +kernel, by decide +kernel, by decide +kernel,
    by decide +kernel, by decide +kernel, freeIndex_of_empty _ rfl rfl _ _⟩, by decide +kernel, by decide +kernel, by decide +kernel, by decide +kernel,
    ⟨⟨by decide +kernel, by decide +kernel⟩, by decide +kernel, by decide +kernel, by decide +kernel⟩, by decide +kernel, by decide +kernel,
    by decide +kernel, by decide +kernel⟩

theorem witness_SpdmAndLifeCycle : up.geodeUp = true ∧ (([0x10, 0x84] : List Byte)[1]?.getD 0).toNat = 0x84 ∧
    (([0x10, 0xE0, 0, 0xFF] : List Byte)[1]?.getD 0).toNat = 0xE0 ∧ (([0x10, 0x85] : List Byte)[1]?.getD 0).toNat ∉ [0x81, 0x82, 0x83, 0x84, 0xE0, 0xE1, 0xE3] ∧
    (([] : List Byte)[1]?.getD 0).toNat ∉ [0x81, 0x82, 0x83, 0x84, 0xE0, 0xE1, 0xE3] ∧ up.geode.signer .manufacture = none ∧
    up.geode.signer .rma = some true ∧ slhVerify [] [] [] = false := by decide +kernel

/-- Slots 0 and 23; islands 0, 54 and 55; the ends of PLIM's, the limits' and the table's ranges. -/
theorem witness_ManagementAndResets : up.serves = true ∧ Config.dieClass up.pop 0 ≠ 0 ∧ Config.dieClass up.pop 23 = 0 ∧ up.island? 54 = true ∧
    up.island? 55 = false ∧ up.computeIsland 21 = true ∧ up.computeIsland 24 = false ∧
    (let v := fun n : Nat => (wNat (n * 2 ^ 48)).toNat / 2 ^ 48; 1000 ≤ v 1000 ∧ v 5000 ≤ 5000 ∧ v 999 < 1000 ∧ 5000 < v 5001) ∧
    350 ≤ 350 ∧ 700 ≤ 700 ∧ 349 < 350 ∧ 700 < 701 ∧ 515 < 516 ∧
    up.geode.boot ≠ .tripped ∧ ({ up with geode := { boot := .tripped } } : State).geode.boot = .tripped ∧ up.geode.life ≠ .decommissioned ∧
    ({ up with geode := { boot := .fill } } : State).geode.boot = .fill ∧ (up.die 63).frozen = false := by decide +kernel

/-- A module of which die 0's watchdog has just run out, with an earlier expiry 1 s ago, long ago, or none; a heartbeat awaited. -/
def sWd (last : Option Nat) (pend : Bool) (t : Nat) : State :=
  { up with time := t, dies := [(0, { wdLast := last, wdStart := t - 100000000 }), (24, { wdLast := last, wdStart := t - 100000000 })]
            geode := { boot := .up, pending := pend, beat := some 5 } }

theorem witness_WatchdogsAndRefresh :
    (let s := sWd (some 1000) false 1000001000;
      s.alive 0 = true ∧ (s.die 0).wdStart + 100000000 ≤ s.time ∧ (s.die 0).wdLast = some 1000 ∧ s.time ≤ 1000 + 1000000000) ∧
    (let s := sWd (some 1000) true 1000001001;
      1000 + 1000000000 < s.time ∧ s.alive 24 = true ∧ s.geode.pending = true ∧ (s.die 24).wdStart + 100000000 ≤ s.time) ∧
    ((sWd none true 100000000).die 0).wdLast = none ∧
    (sWd none true 5000005).alive Config.schedDie = true ∧
    ({ sWd none true 5000005 with dies := [(24, { st := 3 })] } : State).alive Config.schedDie = false ∧
    ((sWd none true 5000005).geode.beat = some 5 ∧ 5 + 5000000 ≤ (sWd none true 5000005).time ∧ (sWd none true 5000004).time < 5 + 5000000) ∧
    (let s := { up with time := 7800, hbmStacks := [(47, { acts := [(1048575, 512)], holds := [(31, 7800), (30, 7801)] }), (46, { takeover := true, lastRef := 5200 })] };
      s.stackUp 47 = true ∧ (s.stack 47).lastBeat + 3900 ≤ s.time ∧ (s.stack 47).takeover = false ∧ (s.stack 47).lastBeat + 7800 ≤ s.time ∧
        s.stackUp 46 = true ∧ (s.stack 46).takeover = true ∧ (s.stack 46).lastRef + 2600 ≤ s.time ∧
        (1048575 < 1048576 ∧ (s.stack 47).mth ≤ kget 0 (s.stack 47).acts (0 * 1048576 + 1048575)) ∧
        (kget? (s.stack 47).holds 31 = some 7800 ∧ 7800 ≤ s.time) ∧ (kget? (s.stack 47).holds 30 = some 7801 ∧ s.time < 7801)) := by decide +kernel

/-- A sub-array with two errors within 600 s, and with one that is 600 s old; a core of a task; the limits' ends. -/
theorem witness_ErrorsAndLimits :
    (let u : ErrUnit := .subArray 0 7; let s := { up with time := 600000000000, dies := [(0, { errs := [(u, 1), (u, 1)] }), (1, { errs := [(.cell 128, 0)] })] };
      2 ≤ ((s.die u.die).errs.filter (fun e => e.1 == u && decide (s.time < e.2 + 600000000000))).length ∧
        ((s.die 1).errs.filter (fun e => e.1 == .cell 128 && decide (s.time < e.2 + 600000000000))).length < 2 ∧ u ∉ (s.die u.die).faulty ∧
        7 < 8 ∧ 0 % 128 < 16 ∧ (s.die 0).frozen = false) ∧
    (∃ t0, isPriv 0 .x = false ∧ ((s0 .x).core 0 .x).run = .running ∧ ((s0 .x).bank 0).task = some t0 ∧ t0.spec = false ∧ ((s0 .x).bank 0).ending = none) ∧
    (up.alive 47 = true ∧ (up.modDie 32 (fun x => { x with st := 3 })).newHomes buf0 0 ≠ none ∧
      ({ sSmall with dies := (0, { st := 1 }) :: (List.range 8).map (fun i => (32 + i, { st := 3 })) } : State).newHomes buf0 0 = none ∧ buf0.toHomes = 0 ∧ up.alive 23 = false ∧ Config.dieClass up.pop 47 = 7 ∧ up.cells = [] ∧ up.sched.nodes = [] ∧ up.sched.asids = [] ∧
      ({ up with bufs := [(1, buf0)] } : State).buffersOn (32 - 32) = [0x01000001] ∧ ({ up with bufs := [(1, buf0)] } : State).buf? 0x01000001 = some buf0 ∧
      ∀ e ∈ ({ up with bufs := [(1, buf0)] } : State).bufs, e.2.handle = 0x01000001 → e.2 = buf0) ∧
    (up.serves = true ∧ up.power.tick + 1000000 ≤ ({ up with time := 1000000 } : State).time) ∧
    (up.sensed 21 = true ∧ up.computeIsland 21 = true ∧ up.sensed 54 = true ∧ up.computeIsland 54 = false) := by
  refine ⟨by decide +kernel, ⟨_, rfl, rfl, rfl, rfl, by decide +kernel⟩, by decide +kernel, by decide +kernel, by decide +kernel⟩

/-- A false guard, and a later stage of a loop whose predicate is 0. -/
theorem witness_DisabledOnlyRetires :
    (Instr.add ⟨off, 3, 3, false, .imm 1⟩).wf = true ∧ encode (.add ⟨off, 3, 3, false, .imm 1⟩) ≠ [] ∧
    (let w := (encode (.add ⟨off, 3, 3, false, .imm 1⟩)).headD 0; (s0 .x).fcore.guard (rawG w) = false ∧ ¬ (0x80 ≤ opcOf w ∧ opcOf w < 0x140)) ∧
    (sxc { c0 with loop := some ⟨0, 2, 1, 1, 0, 1, [8, 16, 24], false, none⟩ }).fcore.stageOn = false := by decide +kernel

/-- Core X of cell 0 at a word that stands in memory and in its instruction cache; an event of the agenda. -/
def sFetch (w : Nat) : State := { st 0 .x bank0 with
  mem := Mem.write [] 0 (leBytes 8 w), cells := [(0, { b := bank0, imem := Mem.write [] 0 (leBytes 8 w) })] }

theorem witness_StepRunsDecoded :
    (let s := sFetch 0xFF00001A31800001;
      s.agenda = [] ∧ s.focus = ⟨0, .x⟩ ∧ s.cellExists 0 = true ∧ (s.cell 0).preempt = false ∧ (s.cell 0).claims = false ∧
        (s.core 0 .x).run = .running ∧ isTwo (opcOf (leNat (s.see (padBase 0 + 0) 8))) = false ∧ 0 + 8 ≤ s.padSize 0 ∧
        (s.cell 0).imem.read (padBase 0 + 0) 8 = s.see (padBase 0 + 0) 8 ∧ leNat (s.see (padBase 0 + 0) 8) = 0xFF00001A31800001) ∧
    got .x 1 0xFF00001A31800001 0 = .inl (some (.add (fs 3 3 (.imm 1)))) ∧ got .x 1 0xFFFFFFFFFFFFFFFF 0 = .inr .illegal ∧
    got .x 1 0x0000014424011000 0 = .inr (.reserved 0) ∧ encode (.selftestCount 0) = [] ∧
    (∀ x ∈ (s0 .x).cells, x.2.b.waiters = 0 ∧ x.2.claims = false ∧ x.2.b.watches = false) ∧ ((s0 .x).core 0 .x).loop = none ∧
    (s0 .x).sched.discVer % 2 = 0 := by decide +kernel

/-- One word, two words, and a core that accepts each. -/
theorem witness_DecodeEncode : (Instr.add (fs 3 3 (.imm 1))).wf = true ∧ encode (.add (fs 3 3 (.imm 1))) ≠ [] ∧ accepts .x 1 0x003 = true ∧
    (Instr.xcopy (fx 4 2 4194304)).wf = true ∧ (encode (.xcopy (fx 4 2 4194304))).length = 2 ∧ accepts .x 1 0x180 = true := by decide +kernel

theorem witness_StepKeepsCanonical : State.reset.Canonical := ⟨rfl, rfl, rfl, by intro e he; exact absurd he List.not_mem_nil⟩

theorem witness_NextStep : ∃ t, step State.reset = .next t := ⟨_, rfl⟩

/-! ## Single steps: results from the spec's rules, worked by hand -/

/-- The next state of an instruction on s, or s. -/
def after (i : Instr) (s : State) : State := match exec i s with | .next t => t | _ => s

/-- X register j of the issuing core after an instruction on core X of cell 0 with X1 = a, X2 = b, X3 = d. -/
def xOf (i : Instr) (j : Nat) (a b d : Word) : Word :=
  let s := sxc { c0 with x := vset (vset (vset c0.x 1 { val := a }) 2 { val := b }) 3 { val := d } }
  (((after i s).core 0 .x).xreg j).val

def rr (i : FmtS → Instr) (a b d : Word) : Word := xOf (i (fs 3 1 (rg 2))) 3 a b d

-- 04 R55: the sum wraps; the high halves signed and unsigned; division by zero and the overflow; shifts modulo 64.
theorem test_add_wraps : rr .add (BitVec.allOnes 64) 2 0 = 1 := by decide +kernel
theorem test_mulh : rr .mulh (-1) 2 0 = -1 ∧ rr .mulhu (-1) 2 0 = 1 := by decide +kernel
theorem test_div : rr .div (-7) 2 0 = -3 ∧ rr .rem (-7) 2 0 = -1 ∧ rr .div 7 0 0 = -1 ∧ rr .rem 7 0 0 = 7 := by decide +kernel
theorem test_div_overflow : rr .div (1 <<< 63) (-1) 0 = 1 <<< 63 ∧ rr .rem (1 <<< 63) (-1) 0 = 0 := by decide +kernel
theorem test_shifts : rr .shl 1 65 0 = 2 ∧ rr .sar (-8) 1 0 = -4 ∧ rr .rol (1 <<< 63) 1 0 = 1 ∧ rr .shr (-1) 63 0 = 1 := by decide +kernel
theorem test_x0_discards : (after (.add (fs 0 1 (rg 2))) (s0 .x)).fcore.x = c0.x ∧ (after (.add (fs 0 1 (rg 2))) (s0 .x)).fcore.pc = 8 := by
  decide +kernel
-- 04 R58, R59: bit fields, LUT3 with the table of exclusive or of three, the selection by a false predicate.
theorem test_bfx : xOf (.bfx (fs 3 1 (.imm (3 * 64 + 4)))) 3 0xF0 0 0 = -1 ∧ xOf (.bfxu (fs 3 1 (.imm (3 * 64 + 4)))) 3 0xF0 0 0 = 0xF := by decide +kernel
theorem test_lut3 : xOf (.lut3 (fs 3 1 (.reg 2 false 0x96))) 3 0b1100 0b1010 0b0001 = 0b0111 := by decide +kernel
theorem test_sel : xOf (.sel (fs 3 1 (.reg 2 false 1))) 3 7 9 0 = 9 := by decide +kernel
-- 04 R60; 02 R21: signed against unsigned; the second predicate is the complement; P0 stays.
theorem test_cmp : (let s := after (.cmpLt (fc 1 2 0 1 (.imm 0xFFFF))) (s0 .x); s.fcore.pred 1 = false ∧ s.fcore.pred 2 = true) ∧
    (let s := after (.cmpLtu (fc 0 2 0 1 (.imm 0xFFFF))) (s0 .x); s.fcore.pred 0 = true ∧ s.fcore.pred 2 = false) := by decide +kernel
-- 04 R63: 1 + 2 in binary32, and 1 + 2^-24 rounds to even.
theorem test_fadd : rr .fadd 0x3F800000 0x40000000 0 = 0x40400000 ∧ rr .fadd 0x3F800000 0x33800000 0 = 0x3F800000 := by decide +kernel
theorem test_fmul_inf_zero : rr .fmul 0x7F800000 0 0 = 0x7FC00000 := by decide +kernel
-- 04 R67, R68: little-endian, sign and zero extension, post-increment; BOUNDS past LIMIT with the address.
def sBytes : State := { s0 .x with mem := Mem.write [] 64 [0x01, 0x82] }
theorem test_ld : (let s := after (.ld (fm 6 1 1 1 2)) sBytes; (s.fcore.xreg 6).val = 0xFFFFFFFFFFFF8201 ∧ (s.fcore.areg 1).ptr = 66) ∧
    ((after (.ldu (fm 6 1 1 0 0)) sBytes).fcore.xreg 6).val = 0x8201 := by decide +kernel
theorem test_st : (after (.st (fm 31 1 0 0 1)) sBytes).mem.read 64 3 = [0x01, 31, 0] := by decide +kernel
def bankHx : Bank := { bankH with x := { c0 with pc := 24 } }
theorem test_ld_bounds : (let r := (after (.ld (fm 6 3 3 0 0)) (st 0 .x bankHx)).core 0 .x;
    r.epc = 24 ∧ r.cause = 5 ∧ r.tval = 4096 ∧ r.h = true ∧ r.pc = 0x100 ∧ (r.xreg 6).val = 6) := by decide +kernel
-- 04 R73: a branch by words; BRLC falls through at the last count.
theorem test_br : (after (.br ⟨on, -1⟩) (sxc { c0 with pc := 24 })).fcore.pc = 16 := by decide +kernel
theorem test_brlc : (after (.brlc ⟨on, -1⟩) (sxc { c0 with pc := 24, lc := 1 })).fcore.pc = 32 ∧
    (after (.brlc ⟨on, -1⟩) (sxc { c0 with pc := 24, lc := 2 })).fcore.pc = 16 := by decide +kernel
-- 04 R75: a signal past 65,535 adds nothing and traps.
theorem test_semsig : (let s := after (.semsig (fs 1 0 (.imm 1))) (st 0 .x { bankH with sems := vset bankH.sems 1 { val := 65535 } });
    ((s.bank 0).sem 1).val = 65535 ∧ (s.core 0 .x).h = true) := by decide +kernel
-- 07 R136: FP32 lanes of V1 + V2, here 0 + 0, and INT8 lanes wrap: V7 holds 0x7F in lane 0.
def sVec : State := { sv with mem := Mem.write [] (chipAddr 0 2 (1024 * 7)) [0x7F, 1] }
theorem test_vadd : (let s := after (.vadd (fv 0 7 7 0 0)) sVec; s.mem.read (chipAddr 0 2 0) 3 = [0xFE, 2, 0] ∧ vget s.unit.tags 0 0 = 8) := by decide +kernel
theorem test_vadd_saturates : (after (.vadd { fv 0 7 7 0 0 with sat := true, sa := true, sb := true }) sVec).mem.read (chipAddr 0 2 0) 3 = [0x7F, 2, 0] := by
  decide +kernel
-- 11 R217: a copy within the scratchpad, by its engine.
theorem test_xcopy : (let s := after (.engineEntryStart 0 .transfer) { sXfer with mem := Mem.write [] 64 [5, 6] };
    s.mem.read 1024 2 = [5, 6] ∧ s.mem.read 64 2 = [5, 6]) := by decide +kernel
-- 08 R185: four INT8 keys in ascending order by the engine of a sort die.
theorem test_sort : (let s := { sPrim (20 * 128) (entOf (.sort { fso 1 0 2 0 8 4 1 with s := true })) with mem := Mem.write [] (padBase (20 * 128) + 64) [3, 0xFF, 7, 0] };
    (after (.engineEntryStart (20 * 128) .primary) s).mem.read (padBase (20 * 128) + 1024) 4 = [0xFF, 0, 3, 7]) := by decide +kernel
-- 08 R161: one product of INT8 elements, 3 · 5, added to the tile's 7.
theorem test_mma : (let f := fp 1 1 2 8 8 1 1 1; let s := { sPrim 0 (entOf (.mma f)) with mem := Mem.write (Mem.write (Mem.write [] 64 [3]) 1024 [5]) (chipAddr 0 1 0x20000) [7] };
    (after (.engineEntryStart 0 .primary) s).tileWord 0 1 0 0 = 22) := by decide +kernel

end Sys2Proof.Machine.Tests
end

section
/-! Branches (01 R6; 02 R24; 04 R73, R74): the displacement of a branch word, what an enabled branch does by the answer of its
body, and each branch instruction by itself. -/

namespace Sys2Proof.Machine

/-! ## The displacement (01 R6) -/

/-- Bits [30:0] of a word in the displacement layout are its displacement, whatever the opcode. -/
theorem ofNat_encBd {opc : Nat} (ho : opc < 512) (f : FmtBD) : BitVec.ofNat 31 (encBd opc f) = f.disp := by
  obtain ⟨_, hread, _⟩ := Laws.readsBD f opc ho
  simpa only [rawBd, bits, pow_zero, Nat.div_one] using congrArg FmtBD.disp hread

/-- The target of a displacement as a signed sum: eight bytes a word. -/
theorem dispTo_eq_ofInt (pc : Word) (disp : BitVec 31) : dispTo pc disp = BitVec.ofInt 64 (pc.toInt + 8 * disp.toInt) := by
  have hshift : disp.signExtend 64 <<< 3 = BitVec.ofInt 64 (8 * disp.toInt) := by
    rw [BitVec.shiftLeft_eq_mul_twoPow, BitVec.mul_comm, BitVec.ofInt_mul]; rfl
  rw [dispTo, hshift, BitVec.ofInt_add, BitVec.ofInt_toInt]

/-! ## An enabled branch -/

/-- A branch whose body names a target goes there. -/
theorem branching_taken {g : Guard} {s t : State} {pc : Word} {body : State → M (State × Option Word)} (he : s.Enabled g)
    (h : body s = .ok (t, some pc)) (hf : t.focus = s.focus) : branching g s body = .next (t.jumped pc) := by
  obtain ⟨hstage, hguard⟩ := he
  simp only [branching, hstage, hguard, h, Bool.and_self, if_true, State.jumped, State.fk, State.fc, hf]

/-- A branch whose body names no target falls through. -/
theorem branching_fallsThrough {g : Guard} {s t : State} {body : State → M (State × Option Word)} (he : s.Enabled g)
    (h : body s = .ok (t, none)) : branching g s body = .next (t.retire s.fk s.fc 1) := by
  obtain ⟨hstage, hguard⟩ := he
  simp [branching, hstage, hguard, h]

/-- A branch whose body stops does what the stop says. -/
theorem branching_error {g : Guard} {s : State} {e : Stop} {body : State → M (State × Option Word)} (he : s.Enabled g)
    (h : body s = .error e) : branching g s body = .next (s.stopped s.fk s.fc e) := by
  obtain ⟨hstage, hguard⟩ := he
  simp [branching, hstage, hguard, h]

/-! ## Branches by displacement -/

theorem execBr_enabled {f : FmtBD} {s : State} (he : s.Enabled f.g) :
    execBr f s = .next (s.jumped (dispTo s.fcore.pc f.disp)) := by
  unfold execBr
  exact branching_taken he rfl rfl

/-- CALL links in X31 before it goes (04 R73). -/
theorem execCall_enabled {f : FmtBD} {s : State} (he : s.Enabled f.g) (hready : s.fcore.Ready 31) :
    execCall f s = .next ((s.putCore (s.fcore.wrote 31 (s.fcore.pc + 8) false)).jumped (dispTo s.fcore.pc f.disp)) := by
  unfold execCall
  exact branching_taken he (by rw [Core.writeX_of_ready hready]; rfl) (State.putCore_focus _ _)

/-- The core after BRLC has counted (01 R6). -/
def Core.countedDown (r : Core) : Core := { r with lc := r.lc - 1, rbase := r.rbase - 1 }

/-- BRLC at a count of one falls through (01 R6). -/
theorem execBrlc_last {f : FmtBD} {s : State} (he : s.Enabled f.g) (hlc : s.fcore.lc = 1) :
    execBrlc f s = .next ((s.putCore s.fcore.countedDown).retire s.fk s.fc 1) := by
  have hzero : s.fcore.lc - 1 = 0 := by rw [hlc]; rfl
  unfold execBrlc
  exact branching_fallsThrough he (by simp only [hzero, if_true, Core.countedDown])

/-- BRLC at any other count branches, at zero too (01 R6; 02 R24). -/
theorem execBrlc_branches {f : FmtBD} {s : State} (he : s.Enabled f.g) (hlc : s.fcore.lc ≠ 1) :
    execBrlc f s = .next ((s.putCore s.fcore.countedDown).jumped (dispTo s.fcore.pc f.disp)) := by
  have hnonzero : s.fcore.lc - 1 ≠ 0 := fun h => hlc (sub_eq_zero.1 h)
  unfold execBrlc
  exact branching_taken he (by simp only [hnonzero, if_false]; rfl) (State.putCore_focus _ _)

/-! ## Branches to a register -/

/-- An aligned target is where the branch goes (04 R73). -/
theorem branchX_aligned {f : FmtBR} {s : State} {t : Word} (he : s.Enabled f.g) (hx : s.fcore.Holds f.x t false)
    (ht : t.toNat % 8 = 0) : branchX f s = .next (s.jumped t) := by
  unfold branchX
  exact branching_taken he (by simp [Core.useX_of_holds hx, ht, bind, Except.bind, pure, Except.pure]) rfl

/-- An unaligned target raises BOUNDS with the target (04 R73). -/
theorem branchX_unaligned {f : FmtBR} {s : State} {t : Word} (he : s.Enabled f.g) (hx : s.fcore.Holds f.x t false)
    (ht : t.toNat % 8 ≠ 0) : branchX f s = .next (s.stopped s.fk s.fc (.trap cBOUNDS t)) := by
  unfold branchX
  exact branching_error he (by simp [Core.useX_of_holds hx, ht, bind, Except.bind, trap])

/-! ## RBSET (04 R74) -/

theorem execRbset_enabled {f : FmtS} {s t : State} {b : Val} (he : s.Enabled f.g) (hb : s.op2 immS f.b = .ok (t, b))
    (hgood : b.bad = false) : execRbset f s = .next ((t.putCore { t.fcore with rbase := b.v }).retire t.fk t.fc 1) := by
  unfold execRbset
  rw [State.fk, State.fc, State.op2_focus hb]
  exact guarded_ok he (by simp [hb, Val.use, hgood, bind, Except.bind, pure, Except.pure])

/-! ## The obligation -/

/-- Settles O13: each branch instruction by its own lemma, the target of a displacement as a signed sum. -/
theorem branches : Obligations.Branches := by
  refine ⟨?words, ⟨⟨0xFF, 0, 0, 0⟩, by decide⟩, ?displacement, ?register, fun f s t b he hb hgood => execRbset_enabled he hb hgood⟩
  case words =>
    intro f i hi w hw
    simp only [List.mem_cons, List.not_mem_nil, or_false] at hi
    rcases hi with rfl | rfl | rfl <;> rw [List.mem_singleton.1 hw] <;> exact ofNat_encBd (by decide) f
  case displacement =>
    intro f s he
    simp only [← dispTo_eq_ofInt]
    refine ⟨execBr_enabled he, execCall_enabled he, ?_⟩
    split
    · next hlc => exact execBrlc_last he hlc
    · next hlc => exact execBrlc_branches he hlc
  case register =>
    intro f s t he hx
    exact ⟨fun ht => ⟨branchX_aligned he hx ht, branchX_aligned he hx ht⟩,
      fun ht => ⟨branchX_unaligned he hx ht, branchX_unaligned he hx ht⟩⟩

end Sys2Proof.Machine
end

section
/-! Scalar FP32 (04 R62 to R65): what an enabled arithmetic form, conversion and compare does once its operands are there, by each shared
operation, and the tables of the instructions that are one. -/

namespace Sys2Proof.Machine

/-! ## Operands -/

/-- A read of operand two that answers finds nothing to wait for beforehand. -/
theorem Core.preOp_of_op2 {s t : State} {im : BitVec 21 → Word} {b : Op2} {v : Val} (h : s.op2 im b = .ok (t, v)) :
    s.fcore.preOp b = .ok () := by
  cases b with
  | reg s2 w2 md =>
    obtain ⟨x, bad, _, hread⟩ | ⟨_, _, hstop⟩ := s.fcore.readX_cases s2 w2
    · simp [Core.preOp, hread, bind, Except.bind, pure, Except.pure]
    · cases w2 <;> simp [State.op2, hstop, bind, Except.bind] at h
  | imm x => rfl
  | win w o => rfl

/-- Both sources of a compare, full and unpoisoned, are consumed as they are (03 R42; 04 R60). -/
theorem Core.pairOf_of_second {r : Core} {f : FmtC} {im : BitVec 16 → Word} {a b : Word} (ha : r.Holds f.s1 a false)
    (hb : r.Second f im b) : r.pairOf f im = .ok (a, b) := by
  unfold Core.Second at hb
  unfold Core.pairOf
  rw [Core.readX_of_holds ha]
  cases hf : f.b with
  | reg s2 w2 =>
    rw [hf] at hb
    simp [Core.readX_of_holds hb, consume, bind, Except.bind, pure, Except.pure]
  | imm v =>
    rw [hf] at hb
    simp [← hb, consume, bind, Except.bind, pure, Except.pure]

/-- The BF16 immediate widened exactly: the pattern in the high half of an FP32 (04 R62). -/
theorem im16BF_eq_shiftLeft : im16BF = fun v : BitVec 16 => v.zeroExtend 64 <<< 16 := by
  funext v
  apply BitVec.eq_of_toNat_eq
  simp [im16BF, wNat, Nat.shiftLeft_eq]

/-- The integer that a word's pattern holds, signed or unsigned (06 R111). -/
theorem intOf_toNat (signed : Bool) (a : Word) : intOf 64 signed a.toNat = if signed then a.toInt else (a.toNat : Int) := by
  have hmsb : bitOf a.toNat 63 = a.msb := by
    rw [BitVec.msb_eq_getLsbD_last, BitVec.getLsbD, Nat.testBit_eq_decide_div_mod_eq]
    rfl
  cases signed
  · simp [intOf, Nat.mod_eq_of_lt a.isLt]
  · simp only [intOf, hmsb, BitVec.toInt_eq_msb_cond, Nat.mod_eq_of_lt a.isLt, Bool.true_and, if_true]

/-! ## The shared operations, enabled and with their operands there -/

/-- An arithmetic form writes its function of the sources, rounded once by the mode of STATUS, with the poison of either source and the
flags of the function and of the rounding (04 R63). -/
theorem falu_of_ready {f : FmtS} {s t : State} {a : Word} {pa : Bool} {b : Val} (fn : Bool → Fp → Fp → Fp × Flags)
    (he : s.Enabled f.g) (ha : s.fcore.Holds f.s1 a pa) (hb : s.op2 immBF f.b = .ok (t, b)) (hd : t.fcore.Ready f.d) :
    let x := fn (t.fcore.rm == .rdn) (f32 a) (f32 b.v)
    let y := fp32.result t.fcore.rm false x.1
    falu f s fn = .next ((t.putCore ((t.fcore.wrote f.d (wNat y.1) (pa || b.bad)).flag (x.2.or y.2))).retire t.fk t.fc 1) := by
  intro x y
  unfold falu
  rw [State.fk, State.fc, State.op2_focus hb]
  exact guarded_ok he (by simp [Core.readX_of_holds ha, hb, Core.writeX_of_ready hd, x, y, bind, Except.bind, pure, Except.pure])

/-- FFMA does the same with the old D as its addend (04 R63). -/
theorem execFfma_of_ready {f : FmtS} {s t : State} {a d : Word} {pa pd : Bool} {b : Val} (he : s.Enabled f.g)
    (ha : s.fcore.Holds f.s1 a pa) (hold : s.fcore.Holds f.d d pd) (hb : s.op2 immBF f.b = .ok (t, b)) (hd : t.fcore.Ready f.d) :
    let x := Fp.fma (t.fcore.rm == .rdn) (f32 a) (f32 b.v) (f32 d)
    let y := fp32.result t.fcore.rm false x.1
    execFfma f s =
      .next ((t.putCore ((t.fcore.wrote f.d (wNat y.1) (pa || b.bad || pd)).flag (x.2.or y.2))).retire t.fk t.fc 1) := by
  intro x y
  unfold execFfma
  rw [State.fk, State.fc, State.op2_focus hb]
  exact guarded_ok he (by
    simp [Core.readX_of_holds ha, Core.preOp_of_op2 hb, Core.readX_of_holds hold, hb, Core.writeX_of_ready hd, x, y, bind, Except.bind,
      pure, Except.pure])

/-- FCVT.IF rounds the integer of its source by the mode of STATUS (04 R64). -/
theorem execFcvtIf_of_ready {f : FmtS} {s : State} {a : Word} {pa : Bool} (he : s.Enabled f.g) (ha : s.fcore.Holds f.s1 a pa)
    (hd : s.fcore.Ready f.d) :
    let y := fp32.result s.fcore.rm false (ofInt (if bitOf (modBits f.b) 0 then (a.toNat : Int) else a.toInt))
    execFcvtIf f s = .next ((s.putCore ((s.fcore.wrote f.d (wNat y.1) pa).flag y.2)).retire s.fk s.fc 1) := by
  intro y
  have hint : intOf 64 (!bitOf (modBits f.b) 0) a.toNat = if bitOf (modBits f.b) 0 then (a.toNat : Int) else a.toInt := by
    rw [intOf_toNat]
    cases bitOf (modBits f.b) 0 <;> rfl
  unfold execFcvtIf
  exact onCore_ok he (by simp [Core.readX_of_holds ha, hint, Core.writeX_of_ready hd, y, bind, Except.bind, pure, Except.pure])

/-- FCVT.FI converts the FP32 value of its source, toward zero under T, else by the mode of STATUS (04 R64). -/
theorem execFcvtFi_of_ready {f : FmtS} {s : State} {a : Word} {pa : Bool} (he : s.Enabled f.g) (ha : s.fcore.Holds f.s1 a pa)
    (hd : s.fcore.Ready f.d) :
    let z := toInt 64 (!bitOf (modBits f.b) 0) (if bitOf (modBits f.b) 1 then .rtz else s.fcore.rm) (f32 a)
    execFcvtFi f s = .next ((s.putCore ((s.fcore.wrote f.d (wNat z.1) pa).flag z.2)).retire s.fk s.fc 1) := by
  intro z
  unfold execFcvtFi
  exact onCore_ok he (by simp [Core.readX_of_holds ha, Core.writeX_of_ready hd, z, bind, Except.bind, pure, Except.pure])

/-- A compare writes its predicate pair with its outcome and sets INV where its function says (04 R65). -/
theorem fcompare_of_second {f : FmtC} {s : State} {a b : Word} (fn : Fp → Fp → Bool × Bool) (he : s.Enabled f.g)
    (ha : s.fcore.Holds f.s1 a false) (hb : s.fcore.Second f im16BF b) :
    let o := fn (f32 a) (f32 b)
    fcompare f s fn = .next ((s.putCore ((s.fcore.setPair f.pd f.pe f.mode o.1).flag { inv := o.2 })).retire s.fk s.fc 1) := by
  intro o
  unfold fcompare
  exact onCore_ok he (by simp [Core.pairOf_of_second ha hb, o, bind, Except.bind, pure, Except.pure])

/-! ## The instructions of each table -/

theorem exec_of_mem_fpTable {p : (FmtS → Instr) × (Bool → Fp → Fp → Fp × Flags)} (hp : p ∈ fpTable) (f : FmtS) (s : State) :
    exec (p.1 f) s = falu f s p.2 := by
  simp only [fpTable, List.mem_cons, List.not_mem_nil, or_false] at hp
  rcases hp with rfl | rfl | rfl | rfl | rfl <;> rfl

theorem exec_of_mem_fcmpTable {p : (FmtC → Instr) × (Fp → Fp → Bool × Bool)} (hp : p ∈ fcmpTable) (f : FmtC) (s : State) :
    exec (p.1 f) s = fcompare f s p.2 := by
  simp only [fcmpTable, List.mem_cons, List.not_mem_nil, or_false] at hp
  rcases hp with rfl | rfl | rfl | rfl <;> rfl

/-- A word of format C carries the opcode that it is encoded under in bits [43:35]. -/
theorem field_encC {opc : Nat} (ho : opc < 512) (f : FmtC) : field (encC opc f) 35 9 = opc := (Laws.readsC f opc ho).1

/-! ## The obligation -/

theorem scalarFloat : ScalarFloat := by
  refine ⟨?arithmetic, fun f s t a d pa pd b he ha hold hb hd => execFfma_of_ready he ha hold hb hd,
    fun f s a pa he ha hd => ⟨execFcvtIf_of_ready he ha hd, execFcvtFi_of_ready he ha hd⟩⟩
  case arithmetic =>
    intro p hp f s t a pa b he ha hb hd
    rw [exec_of_mem_fpTable hp]
    exact falu_of_ready p.2 he ha hb hd

theorem scalarFloatCompares : ScalarFloatCompares := by
  refine ⟨?opcodes, ?outcomes⟩
  case opcodes =>
    intro f
    change [[field (encC 0x3D f) 35 9], [field (encC 0x3E f) 35 9], [field (encC 0x3F f) 35 9], [field (encC 0x40 f) 35 9]] = _
    rw [field_encC (by decide), field_encC (by decide), field_encC (by decide), field_encC (by decide)]
  case outcomes =>
    intro p hp f s a b he ha hb
    rw [← im16BF_eq_shiftLeft] at hb
    rw [exec_of_mem_fcmpTable hp]
    exact fcompare_of_second p.2 he ha hb

/-- Settles O6: the arithmetic forms and the compares by the shared operation of their table, FFMA and the conversions by their own lemmas. -/
theorem scalarFloating : Obligations.ScalarFloating := ⟨scalarFloat, scalarFloatCompares⟩

end Sys2Proof.Machine
end

section
/-! Writes of vector registers (06 R119; 07 R131, R132): elements packed in a number, poison by segment, and what holds of a state after
State.vput, under pops before it and flags and retirement after it. -/

namespace Sys2Proof.Machine

/-! ## Elements packed in a number (06 R112) -/

theorem testBit_field (v lo n i : Nat) : (field v lo n).testBit i = (decide (i < n) && v.testBit (lo + i)) := by
  rw [field, Nat.testBit_mod_two_pow, Nat.testBit_div_two_pow, Nat.add_comm i lo]

/-- A number as the bits above a field, the field and the bits below it. -/
theorem eq_above_add_field (v lo w : Nat) : v = 2 ^ lo * (2 ^ w * (v / 2 ^ lo / 2 ^ w) + field v lo w) + v % 2 ^ lo := by
  rw [field, Nat.div_add_mod, Nat.div_add_mod]

/-- Replacing a field keeps the bits above it and below it. -/
theorem setField_eq (v lo w x : Nat) :
    setField v lo w x = 2 ^ lo * (2 ^ w * (v / 2 ^ lo / 2 ^ w) + x % 2 ^ w) + v % 2 ^ lo := by
  have hv := eq_above_add_field v lo w
  rw [Nat.mul_add] at hv ⊢
  rw [setField, Nat.mul_comm (field v lo w), Nat.mul_comm (x % 2 ^ w)]
  omega

theorem testBit_setField (v lo w x i : Nat) :
    (setField v lo w x).testBit i = if lo ≤ i ∧ i < lo + w then x.testBit (i - lo) else v.testBit i := by
  rw [setField_eq, Nat.testBit_two_pow_mul_add _ (Nat.mod_lt _ (Nat.two_pow_pos lo)),
    Nat.testBit_two_pow_mul_add _ (Nat.mod_lt _ (Nat.two_pow_pos w)), Nat.testBit_mod_two_pow, Nat.testBit_mod_two_pow,
    Nat.testBit_div_two_pow, Nat.testBit_div_two_pow]
  by_cases hlo : i < lo
  · simp [hlo, Nat.not_le.2 hlo]
  · by_cases hw : i - lo < w
    · simp [hlo, hw, Nat.not_lt.1 hlo, show i < lo + w by omega]
    · simp [hlo, hw, show ¬ i < lo + w by omega, show i - lo - w + w + lo = i by omega]

theorem field_setField_same (v lo w x : Nat) : field (setField v lo w x) lo w = x % 2 ^ w := by
  refine Nat.eq_of_testBit_eq (fun i => ?_)
  rw [testBit_field, testBit_setField, Nat.testBit_mod_two_pow]
  by_cases hi : i < w <;> simp [hi]

theorem field_setField_disjoint {lo lo' w : Nat} (h : lo' + w ≤ lo ∨ lo + w ≤ lo') (v x : Nat) :
    field (setField v lo w x) lo' w = field v lo' w := by
  refine Nat.eq_of_testBit_eq (fun i => ?_)
  rw [testBit_field, testBit_field, testBit_setField]
  by_cases hi : i < w
  · rw [if_neg (by omega)]
  · simp [hi]

theorem setField_lt {v lo w n : Nat} (hv : v < 2 ^ n) (h : lo + w ≤ n) (x : Nat) : setField v lo w x < 2 ^ n := by
  refine Nat.lt_pow_two_of_testBit _ (fun i hi => ?_)
  rw [testBit_setField, if_neg (by omega)]
  exact Nat.testBit_eq_false_of_lt (lt_of_lt_of_le hv (Nat.pow_le_pow_right (by decide) hi))

/-- A number with elements (index, pattern, poison) of width w laid over it, in order: the bits that State.vput writes. -/
def rawWith (w raw : Nat) (ws : List (Nat × Nat × Bool)) : Nat := ws.foldl (fun r e => setField r (e.1 * w) w e.2.1) raw

theorem rawWith_lt {w n : Nat} {ws : List (Nat × Nat × Bool)} (hws : ∀ e ∈ ws, e.1 * w + w ≤ n) {raw : Nat} (hraw : raw < 2 ^ n) :
    rawWith w raw ws < 2 ^ n := by
  induction ws generalizing raw with
  | nil => exact hraw
  | cons e ws ih =>
    exact ih (fun e' he' => hws e' (List.mem_cons_of_mem _ he')) (setField_lt hraw (hws e List.mem_cons_self) _)

/-- Elements of different indices do not overlap. -/
theorem elements_disjoint {i j : Nat} (h : i ≠ j) (w : Nat) : i * w + w ≤ j * w ∨ j * w + w ≤ i * w := by
  rw [← Nat.succ_mul, ← Nat.succ_mul]
  exact (Nat.lt_or_gt_of_ne h).imp (Nat.mul_le_mul_right w) (Nat.mul_le_mul_right w)

/-- An element reads what the list gives for its index, else what stood there. -/
theorem field_rawWith (w raw : Nat) (en : List Nat) (g : Nat → Nat × Bool) (i : Nat) :
    field (rawWith w raw (en.map (fun i => (i, g i)))) (i * w) w = if i ∈ en then (g i).1 % 2 ^ w else field raw (i * w) w := by
  induction en generalizing raw with
  | nil => rfl
  | cons j en ih =>
    rw [List.map_cons, rawWith, List.foldl_cons, ← rawWith, ih]
    by_cases hen : i ∈ en
    · simp [hen]
    · by_cases hj : i = j
      · simp [hj, field_setField_same]
      · simp [hen, hj, field_setField_disjoint (elements_disjoint hj w)]

/-- The elements of a tag fit in the 1,024 bytes of a register (06 R116). -/
theorem elemCount_mul_tagBits_le (tag : Nat) : elemCount tag * tagBits tag ≤ 8192 := by
  by_cases h : tag < 19
  · exact (by decide : ∀ t < 19, elemCount t * tagBits t ≤ 8192) tag h
  · obtain ⟨n, rfl⟩ := Nat.exists_eq_add_of_le (Nat.not_lt.1 h)
    have hcount : elemCount (19 + n) = 256 := by rw [Nat.add_comm]; rfl
    have hbits : tagBits (19 + n) = 32 := by rw [Nat.add_comm]; rfl
    rw [hcount, hbits]

theorem element_end_le {tag i : Nat} (hi : i < elemCount tag) : i * tagBits tag + tagBits tag ≤ 8192 := by
  rw [← Nat.succ_mul]
  exact le_trans (Nat.mul_le_mul_right _ hi) (elemCount_mul_tagBits_le tag)

theorem tagBits_pos (tag : Nat) : 0 < tagBits tag := by
  unfold tagBits
  split <;> decide

/-- The first bit of an element lies in its segment, and that is one of a register's sixteen (10 R191). -/
theorem firstSegment {tag i : Nat} (hi : i < elemCount tag) :
    i * tagBits tag / 512 < 16 ∧ 0 < bitsIn (tagBits tag) i (i * tagBits tag / 512) := by
  have hend := element_end_le hi
  have hpos := tagBits_pos tag
  unfold bitsIn
  omega

/-! ## Poison by segment (07 R132) -/

theorem mem_nsAdd (l : NSet) (i j : Nat) : j ∈ nsAdd l i ↔ j = i ∨ j ∈ l := by
  induction l with
  | nil => simp [nsAdd]
  | cons k l ih =>
    rw [nsAdd]
    split
    · next hk => simp [hk]
    · split
      · simp
      · simp [ih, or_left_comm]

theorem nsHas_nsAdd (l : NSet) (i j : Nat) : nsHas (nsAdd l i) j = (decide (j = i) || nsHas l j) := by
  simp [nsHas, mem_nsAdd]

theorem nsHas_nsDel_other {i j : Nat} (h : j ≠ i) (l : NSet) : nsHas (nsDel l i) j = nsHas l j := by
  simp [nsHas, nsDel, h]

/-- Segment seg takes the poison of the elements written into it: set by one, cleared when they cover it. -/
def segMark (w g : Nat) (ws : List (Nat × Nat × Bool)) (bad : NSet) (seg : Nat) : NSet :=
  if ws.any (fun e => e.2.2 && decide (0 < bitsIn w e.1 seg)) then nsAdd bad (g + seg)
  else if (ws.map (fun e => bitsIn w e.1 seg)).sum == 512 then nsDel bad (g + seg) else bad

/-- A segment that a poisoned element is written into is flagged, whatever is done to the segments after it. -/
theorem nsHas_segMarks {w g seg : Nat} {ws : List (Nat × Nat × Bool)} {e : Nat × Nat × Bool} (he : e ∈ ws) (hbad : e.2.2 = true)
    (hin : 0 < bitsIn w e.1 seg) (segs : List Nat) (bad : NSet) (h : nsHas bad (g + seg) = true ∨ seg ∈ segs) :
    nsHas (segs.foldl (segMark w g ws) bad) (g + seg) = true := by
  have hnew : ws.any (fun e => e.2.2 && decide (0 < bitsIn w e.1 seg)) = true :=
    List.any_eq_true.2 ⟨e, he, by simp [hbad, hin]⟩
  induction segs generalizing bad with
  | nil => simpa using h
  | cons x segs ih =>
    refine ih _ ?_
    by_cases hx : seg = x
    · subst hx
      simp [segMark, hnew, nsHas_nsAdd]
    · have hne : g + seg ≠ g + x := by omega
      have hkeep : nsHas (segMark w g ws bad x) (g + seg) = nsHas bad (g + seg) := by
        unfold segMark
        split
        · simp [nsHas_nsAdd, hx]
        · split
          · exact nsHas_nsDel_other hne bad
          · rfl
      rw [hkeep]
      simpa [hx] using h

/-! ## Cores and units -/

@[simp] theorem State.unit_setUnit (s : State) (u : VUnit) : (s.setUnit u).unit = u := by
  simp only [State.unit, State.setUnit, State.bank_modBank, State.modBank_focus, State.fk, State.fc, if_true]
  cases s.focus.c <;> rfl

@[simp] theorem State.unit_setCore (s : State) (k : Nat) (c : CoreIx) (r : Core) : (s.setCore k c r).unit = s.unit := by
  simp only [State.unit, State.setCore, State.bank_setBank, State.setBank_focus, State.fk, State.fc]
  by_cases hk : s.focus.k = k <;> simp [hk]

/-- A change of the issuing cell's bank that keeps its cores keeps the issuing core. -/
theorem State.fcore_modBank (s : State) {f : Bank → Bank} (hf : ∀ b c, (f b).core c = b.core c) :
    (s.modBank s.fk f).fcore = s.fcore := by
  simp only [State.core, State.bank_modBank, State.modBank_focus, State.fk, State.fc, if_true, hf]

@[simp] theorem State.fcore_setUnit (s : State) (u : VUnit) : (s.setUnit u).fcore = s.fcore := by
  refine s.fcore_modBank (fun b c => ?_)
  cases s.fc <;> cases c <;> rfl

theorem State.fcore_eq_core {s t : State} (h : t.focus = s.focus) : t.fcore = t.core s.fk s.fc := by
  change t.core t.focus.k t.focus.c = t.core s.focus.k s.focus.c
  rw [h]

/-- X and A registers, live vector registers and flags are the same. -/
structure Core.KeepsFile (r r' : Core) : Prop where
  x      : r'.x = r.x
  a      : r'.a = r.a
  livev  : r'.livev = r.livev
  status : r'.status = r.status

theorem Core.KeepsFile.openRound (r : Core) : r.KeepsFile r.openRound := by
  refine ⟨r.openRound_x, r.openRound_a, ?_, r.openRound_status⟩
  unfold Core.openRound Core.setPred
  split
  · split <;> rfl
  · rfl

theorem Core.KeepsFile.nextInLoop {r r' : Core} (h : r.KeepsFile r') (l : LoopPos) : r.KeepsFile (r'.nextInLoop l) := by
  unfold Core.nextInLoop
  split
  · exact ⟨h.x, h.a, h.livev, h.status⟩
  · unfold Core.startRound
    split <;> exact ⟨h.x, h.a, h.livev, h.status⟩

/-- Moving past an instruction may open or end a round, which none of these registers sees (02 R26). -/
theorem Core.KeepsFile.advance (r : Core) (len : Nat) : r.KeepsFile (r.advance len) := by
  have hopen := Core.KeepsFile.openRound r
  unfold Core.advance
  dsimp only
  split
  · exact ⟨hopen.x, hopen.a, hopen.livev, hopen.status⟩
  · exact hopen.nextInLoop _

theorem Core.KeepsFile.retire (s : State) (k : Nat) (c : CoreIx) (len : Nat) : (s.core k c).KeepsFile ((s.retire k c len).core k c) := by
  have hadvance := Core.KeepsFile.advance (s.core k c) len
  rw [State.retire, State.core_modCore_same]
  exact ⟨hadvance.x, hadvance.a, hadvance.livev, hadvance.status⟩

/-! ## What a vector instruction does before it writes: pops (07 R152) -/

/-- Nothing that a write of a vector register is measured against differs: the focus, the memories, the poison, the issuing core. -/
structure State.KeepsRegs (s t : State) : Prop where
  focus   : t.focus = s.focus
  mem     : t.mem = s.mem
  memBad  : t.memBad = s.memBad
  hbm     : t.hbm = s.hbm
  hostMem : t.hostMem = s.hostMem
  bufs    : t.bufs = s.bufs
  fcore   : t.fcore = s.fcore

namespace State.KeepsRegs

theorem refl (s : State) : s.KeepsRegs s := ⟨rfl, rfl, rfl, rfl, rfl, rfl, rfl⟩

theorem trans {s t u : State} (h : s.KeepsRegs t) (h' : t.KeepsRegs u) : s.KeepsRegs u :=
  ⟨h'.focus.trans h.focus, h'.mem.trans h.mem, h'.memBad.trans h.memBad, h'.hbm.trans h.hbm, h'.hostMem.trans h.hostMem,
    h'.bufs.trans h.bufs, h'.fcore.trans h.fcore⟩

theorem bump (s : State) : s.KeepsRegs s.bump := ⟨rfl, rfl, rfl, rfl, rfl, rfl, rfl⟩

theorem setUnit (s : State) (u : VUnit) : s.KeepsRegs (s.setUnit u) := ⟨rfl, rfl, rfl, rfl, rfl, rfl, s.fcore_setUnit u⟩

theorem touchSpans (s : State) (l : List (Int × Nat)) : s.KeepsRegs (s.touchSpans l) := by
  refine ⟨rfl, rfl, rfl, rfl, rfl, rfl, s.fcore_modBank (fun b c => ?_)⟩
  cases c <;> rfl

theorem foldl {α : Type} {step : State → α → State} (hstep : ∀ (s : State) (x : α), s.KeepsRegs (step s x)) (l : List α) (s : State) :
    s.KeepsRegs (l.foldl step s) := by
  induction l generalizing s with
  | nil => exact refl s
  | cons x l ih => exact (hstep s x).trans (ih _)

theorem popPorts (s : State) (l : List Need1) : s.KeepsRegs (s.popPorts l) := by
  refine (foldl (fun s n => ?_) l s).trans (foldl (fun s q => setUnit s _) _ _)
  split
  · exact touchSpans s _
  · exact refl s

end State.KeepsRegs

/-! ## A written vector register -/

/-- What State.vput does, by its parts. -/
theorem State.vput_parts (s : State) (d : BitVec 6) (tag : Nat) {ws : List (Nat × Nat × Bool)} (hws : ws ≠ []) (side : Side) :
    let v := s.fcore.vp d.toNat
    let a := s.regAddr v
    ∃ u : VUnit, u.tags = vset s.unit.tags v (BitVec.ofNat 5 tag) ∧
      s.vput d tag ws side = (({ s with
        mem := s.mem.write a (leBytes 1024 (rawWith (tagBits tag) (leNat (s.chipBytes a 1024)) ws))
        memBad := (List.range 16).foldl (segMark (tagBits tag) (a / 64) ws) s.memBad }).setUnit u).putCore
          { s.fcore with livev := setBit s.fcore.livev v true } := by
  intro v a
  refine ⟨?unit, ?tags, ?eq⟩
  case eq =>
    simp only [State.vput, if_neg hws, State.fcore_setUnit]
    rfl
  case tags => cases side <;> rfl

theorem leNat_leBytes_of_lt {n v : Nat} (h : v < 2 ^ (8 * n)) : leNat (leBytes n v) = v := by
  rw [leNat_leBytes, show (256 : Nat) = 2 ^ 8 from rfl, ← Nat.pow_mul, Nat.mod_eq_of_lt h]

theorem leNat_read_lt (m : Mem) (a n : Nat) : leNat (m.read a n) < 2 ^ (8 * n) := by
  have h := leNat_lt (m.read a n)
  rwa [Mem.read_length, show (256 : Nat) = 2 ^ 8 from rfl, ← Nat.pow_mul] at h

theorem Core.vp_lt (r : Core) {j : Nat} (h : j < 48) : r.vp j < 48 := rot_lt 16 32 _ _ (by decide) h

theorem getLsbD_setBit_true {n i : Nat} (h : i < n) (v : BitVec n) : (setBit v i true).getLsbD i = true := by
  simp only [setBit, if_true, BitVec.getLsbD_or, BitVec.getLsbD_ofNat, h, Nat.testBit_two_pow_self, decide_true, Bool.and_self,
    Bool.or_true]

/-- A number of n bytes, written to memory, is read back. -/
theorem leNat_read_write {m : Mem} (hm : m.wf = true) (a : Nat) {n v : Nat} (hv : v < 2 ^ (8 * n)) :
    leNat ((m.write a (leBytes n v)).read a n) = v := by
  have hread := Mem.read_write_same (Mem.wf_rising hm) (Mem.wf_rising (Mem.wf_write hm a (leBytes n v)))
  rw [leBytes_length] at hread
  rw [hread, leNat_leBytes_of_lt hv]

theorem lanes_eq_some {en : List Nat} {g : Nat → Nat × Bool} {i : Nat} {e : Nat × Bool} :
    lanes en g i = some e ↔ i ∈ en ∧ g i = e := by
  rw [lanes, Option.ite_none_right_eq_some, Option.some.injEq]

@[simp] theorem State.vput_focus (s : State) (d : BitVec 6) (tag : Nat) (ws : List (Nat × Nat × Bool)) (side : Side) :
    (s.vput d tag ws side).focus = s.focus := by
  unfold State.vput
  split <;> rfl

/-- Of the issuing core a written register changes its being live alone. -/
theorem core_vput (s : State) (d : BitVec 6) (tag : Nat) {ws : List (Nat × Nat × Bool)} (hws : ws ≠ []) (side : Side) :
    (s.vput d tag ws side).core s.fk s.fc = { s.fcore with livev := setBit s.fcore.livev (s.fcore.vp d.toNat) true } := by
  obtain ⟨u, _, hput⟩ := s.vput_parts d tag hws side
  rw [hput]
  exact State.fcore_putCore _ _

/-- State.vput writes the elements of its list and nothing else of any register or memory (06 R119; 07 R131, R132). -/
theorem vWrote_vput {s : State} {d : BitVec 6} {tag : Nat} {en : List Nat} (hd : d.toNat < 48) (hmem : s.mem.wf = true)
    (htag : tag < 32) (hen : en ≠ []) (hin : ∀ i ∈ en, i < elemCount tag) (g : Nat → Nat × Bool) (side : Side) :
    s.VWrote (s.vput d tag (en.map (fun i => (i, g i))) side) d tag (lanes en g) := by
  have hws : en.map (fun i => (i, g i)) ≠ [] := by simpa using hen
  obtain ⟨u, htags, hput⟩ := s.vput_parts d tag hws side
  have hv := s.fcore.vp_lt hd
  rw [State.VWrote, core_vput s d tag hws side, hput]
  refine ⟨rfl, ?tagged, getLsbD_setBit_true hv _, ?elements, ?poison, ?bytes, rfl, rfl, rfl, rfl, rfl⟩
  case tagged =>
    rw [State.putCore, State.unit_setCore, State.unit_setUnit, htags, vget_vset, if_pos ⟨rfl, hv⟩, BitVec.toNat_ofNat,
      Nat.mod_eq_of_lt htag]
  case elements =>
    intro i _
    have hraw : rawWith (tagBits tag) (leNat (s.chipBytes (s.regAddr (s.fcore.vp d.toNat)) 1024)) (en.map (fun i => (i, g i))) <
        2 ^ (8 * 1024) := by
      refine rawWith_lt (fun e he => ?_) (leNat_read_lt _ _ _)
      obtain ⟨j, hj, rfl⟩ := List.mem_map.1 he
      exact element_end_le (hin j hj)
    refine (congrArg (fun v => field v _ _) (leNat_read_write hmem _ hraw)).trans ?_
    rw [field_rawWith, lanes]
    split <;> rfl
  case poison =>
    intro i e hi hval hbad
    obtain ⟨hien, rfl⟩ := lanes_eq_some.1 hval
    obtain ⟨hseg, hbits⟩ := firstSegment hi
    exact nsHas_segMarks (List.mem_map_of_mem hien) hbad hbits _ _ (.inr (List.mem_range.2 hseg))
  case bytes =>
    intro b hb
    refine (Mem.byte_write (Mem.wf_rising hmem) _ _ _).trans (if_neg ?_)
    rw [leBytes_length]
    omega

/-! ## The same write seen from another state -/

namespace State.VWrote

variable {s t u : State} {d : BitVec 6} {tag : Nat} {val val' : Nat → Option (Nat × Bool)}

/-- What came before the write and kept the registers is part of it. -/
theorem of_keepsRegs (hkeep : s.KeepsRegs u) (h : u.VWrote t d tag val) : s.VWrote t d tag val := by
  obtain ⟨hfocus, hmem, hmemBad, hhbm, hhostMem, hbufs, hcore⟩ := hkeep
  have hreg : ∀ v, u.regAddr v = s.regAddr v := fun v => by simp only [State.regAddr, State.fk, State.fc, hfocus]
  have hbytes : ∀ a, u.chipBytes a 1024 = s.chipBytes a 1024 := fun a => by simp only [State.chipBytes, hmem]
  have hk : u.fk = s.fk := congrArg (·.k) hfocus
  have hc : u.fc = s.fc := congrArg (·.c) hfocus
  rw [State.VWrote] at h ⊢
  rw [hcore, hk, hc, hfocus, hmem, hhbm, hhostMem, hbufs] at h
  simpa only [hreg, hbytes] using h

/-- What comes after the write and changes the issuing core alone, and there neither X nor A nor the live registers, keeps it. -/
theorem setCore (h : s.VWrote t d tag val) {r : Core} (hx : r.x = (t.core s.fk s.fc).x) (ha : r.a = (t.core s.fk s.fc).a)
    (hlive : r.livev = (t.core s.fk s.fc).livev) : s.VWrote (t.setCore s.fk s.fc r) d tag val := by
  obtain ⟨hfocus, htag, hl, helements, hpoison, hbytes, hhbm, hhost, hbufs, hxs, has⟩ := h
  refine ⟨hfocus, ?_, ?_, helements, hpoison, hbytes, hhbm, hhost, hbufs, ?_, ?_⟩
  · rw [State.unit_setCore, htag]
  · rw [State.core_setCore_same, hlive, hl]
  · rw [State.core_setCore_same, hx, hxs]
  · rw [State.core_setCore_same, ha, has]

theorem vflag (h : s.VWrote t d tag val) (fl : Flags) : s.VWrote (t.vflag fl) d tag val := by
  have hput : t.vflag fl = t.setCore s.fk s.fc ((t.core s.fk s.fc).flag fl) := by
    rw [State.vflag, State.fcore_eq_core h.1]
    exact congrArg (fun c : CoreRef => t.setCore c.k c.c _) h.1
  rw [hput]
  exact h.setCore rfl rfl rfl

theorem retire (h : s.VWrote t d tag val) (len : Nat) : s.VWrote (t.retire s.fk s.fc len) d tag val := by
  have hkeep := Core.KeepsFile.advance (t.core s.fk s.fc) len
  exact h.setCore hkeep.x hkeep.a hkeep.livev

/-- Only the low bits of a pattern are written. -/
theorem lanes_congr {en : List Nat} {g g' : Nat → Nat × Bool} (h : s.VWrote t d tag (Machine.lanes en g))
    (hg : ∀ i ∈ en, (g i).1 % 2 ^ tagBits tag = (g' i).1 % 2 ^ tagBits tag ∧ (g i).2 = (g' i).2) :
    s.VWrote t d tag (Machine.lanes en g') := by
  obtain ⟨hfocus, htag, hl, helements, hpoison, hrest⟩ := h
  refine ⟨hfocus, htag, hl, fun i hi => ?_, fun i e hi hval hbad => ?_, hrest⟩
  · rw [helements i hi]
    by_cases hen : i ∈ en
    · simp [Machine.lanes, hen, (hg i hen).1]
    · simp [Machine.lanes, hen]
  · obtain ⟨hen, rfl⟩ := lanes_eq_some.1 hval
    exact hpoison i (g i) hi (if_pos hen) ((hg i hen).2.trans hbad)

end State.VWrote

/-! ## How a vector instruction ends (07 R130, R133) -/

theorem vector_ok {s t : State} {body : State → M State} (hstage : s.fcore.stageOn = true) (h : body s = .ok t) :
    vector s body = .next (t.retire s.fk s.fc 1) := by
  simp only [vector, hstage, if_true, h, State.finish]

theorem vector_error {s : State} {e : Stop} {body : State → M State} (hstage : s.fcore.stageOn = true) (h : body s = .error e) :
    vector s body = .next (s.stopped s.fk s.fc e) := by
  simp only [vector, hstage, if_true, h, State.finish]

/-- The end of a vector instruction that writes a register: pops, the write, flags, retirement. -/
def State.vdone (s u : State) (d : BitVec 6) (tag : Nat) (en : List Nat) (g : Nat → Nat × Bool) (fl : Flags) : State :=
  ((u.vput d tag (en.map (fun i => (i, g i))) .zero).vflag fl).retire s.fk s.fc 1

theorem State.vWrote_vdone {s u : State} {d : BitVec 6} {tag : Nat} {en : List Nat} (hkeep : s.KeepsRegs u) (hd : d.toNat < 48)
    (hmem : s.mem.wf = true) (htag : tag < 32) (hen : en ≠ []) (hin : ∀ i ∈ en, i < elemCount tag) (g : Nat → Nat × Bool)
    (fl : Flags) : s.VWrote (s.vdone u d tag en g fl) d tag (Machine.lanes en g) := by
  have hwrite := vWrote_vput hd (hkeep.mem ▸ hmem) htag hen hin g .zero
  exact ((hwrite.of_keepsRegs hkeep).vflag fl).retire 1

/-- The flags are ORed into STATUS (06 R124). -/
theorem State.vdone_status {s u : State} (hkeep : s.KeepsRegs u) (d : BitVec 6) (tag : Nat) {en : List Nat} (hen : en ≠ [])
    (g : Nat → Nat × Bool) (fl : Flags) :
    ((s.vdone u d tag en g fl).core s.fk s.fc).status = orFlags s.fcore.status fl := by
  have hws : en.map (fun i => (i, g i)) ≠ [] := by simpa using hen
  have hput : (u.vput d tag (en.map (fun i => (i, g i))) .zero).fcore.status = s.fcore.status := by
    rw [State.fcore_eq_core (State.vput_focus u d tag _ _), core_vput u d tag hws, hkeep.fcore]
  have hfocus : ((u.vput d tag (en.map (fun i => (i, g i))) .zero).vflag fl).focus = s.focus :=
    (State.vput_focus u d tag _ _).trans hkeep.focus
  rw [State.vdone, (Core.KeepsFile.retire _ _ _ _).status, ← State.fcore_eq_core hfocus, State.vflag, State.fcore_putCore, Core.flag,
    hput]

/-- Enabled elements lie in the register (07 R130). -/
theorem State.lt_of_mem_enabled {s : State} {g : Guard} {tag n i : Nat} (h : i ∈ s.enabled g tag n) : i < n := by
  unfold State.enabled at h
  split at h
  · exact List.mem_range.1 h
  · exact List.mem_range.1 (List.mem_filter.1 h).1

/-! ## Classes of sources (07 R128, R129) -/

theorem cls_of_sameTags {cls : Nat → Bool} {o : Opnd} {os : List Opnd} (h : sameTags cls (o :: os) = .ok ()) : cls o.tag = true := by
  by_contra hcls
  rw [sameTags, List.find?_cons_of_pos (by simp [hcls])] at h
  exact nomatch h

theorem ofClass_ok {cls : Nat → Bool} {o : Opnd} (h : cls o.tag = true) : ofClass cls o = .ok () := if_pos h

theorem ofClass_error {cls : Nat → Bool} {o : Opnd} (h : ¬ cls o.tag = true) :
    ofClass cls o = .error (.trap cTAG (tagTval o.spec o.tag)) := if_neg h

/-! ## Elementwise instructions that draw no random number -/

/-- An elementwise instruction pops its ports, writes its function of each enabled lane, and ORs the flags of all (07 R128 to R133). -/
theorem elementwise_undrawn {f : FmtV} {s : State} {srcs : State → List Opnd} {cls : Nat → Bool} {o : Opnd} {os : List Opnd}
    {en : List Nat} (ff : Nat → Fmt → Rm → List Nat → Nat × Flags) (fi : Nat → List Nat → Nat × Flags)
    (hstage : s.fcore.stageOn = true) (hsrcs : srcs s = o :: os) (hcls : sameTags cls (o :: os) = .ok ())
    (hrm : ¬ (isI o.tag = true ∧ f.rm ≠ 0)) (hdef : s.enabled f.g o.tag (elemCount o.tag) = en) (hen : en ≠ [])
    (hports : s.checkPorts ((o :: os).map (fun o => o.need en)) = .ok ()) :
    let r := fun i =>
      let ps := (o :: os).map (fun o => o.el i)
      if isF o.tag then ff (Config.freeWord s.free) (fmtOf o.tag) (rmOf f.rm.toNat) ps else fi (tagBits o.tag) ps
    ∃ u, s.KeepsRegs u ∧ elementwise f s srcs cls false ff fi =
      .next (s.vdone u f.d o.tag en (fun i => ((r i).1, (o :: os).any (fun o => o.elBad i))) (orAll (en.map (fun i => (r i).2)))) := by
  intro r
  have hpops := (State.KeepsRegs.bump s).trans (State.KeepsRegs.popPorts s.bump ((o :: os).map (fun o => o.need en)))
  refine ⟨_, hpops.trans (State.KeepsRegs.setUnit _ { (s.bump.popPorts ((o :: os).map (fun o => o.need en))).unit with
    gens := s.unit.gens }), vector_ok hstage ?_⟩
  simp only [hsrcs, hcls, hrm, hdef, hen, hports, rounding, bind, Except.bind, pure, Except.pure, if_false, and_false, Bool.false_eq_true,
    List.map_map]
  rfl

end Sys2Proof.Machine
end

section
/-! Bitwise vector operations (07 R140) and VDOT4 (07 R138). -/

namespace Sys2Proof.Machine

/-! ## The bitwise instructions -/

/-- The one bits of a pattern, counted. -/
theorem popNat_eq_countP (w v : Nat) : popNat w v = (List.range w).countP (fun i => v.testBit i) := by
  induction w generalizing v with
  | zero => rfl
  | succ w ih =>
    have hhead : v % 2 = if v.testBit 0 then 1 else 0 := by
      rcases Nat.mod_two_eq_zero_or_one v with hv | hv <;> simp [hv]
    have htail : ((fun i => v.testBit i) ∘ Nat.succ) = fun i => (v / 2).testBit i := funext (fun i => Nat.testBit_succ v i)
    rw [popNat, ih, List.range_succ_eq_map, List.countP_cons, List.countP_map, htail, hhead, Nat.add_comm]

theorem execVshl_eq (f : FmtV) (s : State) :
    execVshl f s = bitwise f s (srcAB f) (fun w ps => pat ps 0 <<< (pat ps 1 % w)) := by
  simp only [execVshl, Nat.shiftLeft_eq]

theorem execVshr_eq (f : FmtV) (s : State) :
    execVshr f s = bitwise f s (srcAB f) (fun w ps => pat ps 0 >>> (pat ps 1 % w)) := by
  simp only [execVshr, Nat.shiftRight_eq_div_pow]

theorem execVpopc_eq (f : FmtV) (s : State) :
    execVpopc f s = bitwise f s (srcA f) (fun w ps => (List.range w).countP (fun i => (pat ps 0).testBit i)) := by
  simp only [execVpopc, popNat_eq_countP]

/-- Each row of the table is the shared operation with the function that the row states. -/
theorem exec_of_mem_vecBits {p : (FmtV → Instr) × (FmtV → State → List Opnd) × (FmtV → Nat → List Nat → Nat)} (hp : p ∈ vecBits)
    (f : FmtV) (s : State) : exec (p.1 f) s = bitwise f s (p.2.1 f) (p.2.2 f) := by
  simp only [vecBits, List.mem_cons, List.not_mem_nil, or_false] at hp
  rcases hp with rfl | rfl | rfl | rfl | rfl | rfl | rfl | rfl | rfl | rfl | rfl
  exacts [rfl, rfl, rfl, rfl, execVshl_eq f s, execVshr_eq f s, rfl, rfl, rfl, execVpopc_eq f s, rfl]

/-- Each row reads one source at least. -/
theorem srcs_of_mem_vecBits {p : (FmtV → Instr) × (FmtV → State → List Opnd) × (FmtV → Nat → List Nat → Nat)} (hp : p ∈ vecBits)
    (f : FmtV) (s : State) : ∃ o os, p.2.1 f s = o :: os := by
  simp only [vecBits, List.mem_cons, List.not_mem_nil, or_false] at hp
  rcases hp with rfl | rfl | rfl | rfl | rfl | rfl | rfl | rfl | rfl | rfl | rfl <;> exact ⟨_, _, rfl⟩

/-- A tag of integer elements is a register's, and of no floating class (06 R116). -/
theorem isN_bounds {tag : Nat} (h : isN tag = true) : tag < 32 ∧ isF tag = false := by
  simp only [isN, isF, Bool.or_eq_true, Bool.and_eq_true, decide_eq_true_eq, beq_iff_eq, Bool.and_eq_false_iff,
    decide_eq_false_iff_not] at h ⊢
  omega

theorem orAll_none {α : Type} (l : List α) : orAll (l.map (fun _ => ({} : Flags))) = {} := by
  unfold orAll
  induction l with
  | nil => rfl
  | cons _ l ih => exact ih

theorem orFlags_none (st : Word) : orFlags st {} = st := BitVec.or_zero

/-- A bitwise operation writes its function of the enabled lanes' patterns and sets no flag (07 R140). -/
theorem bitwise_of_ports {f : FmtV} {s : State} {srcs : State → List Opnd} {o : Opnd} {os : List Opnd} {en : List Nat}
    (fn : Nat → List Nat → Nat) (hstage : s.fcore.stageOn = true) (hsrcs : srcs s = o :: os) (hcls : sameTags isN (o :: os) = .ok ())
    (hdef : s.enabled f.g o.tag (elemCount o.tag) = en) (hen : en ≠ [])
    (hports : s.checkPorts ((o :: os).map (fun o => o.need en)) = .ok ()) :
    ∃ u, s.KeepsRegs u ∧ bitwise f s srcs fn = .next (s.vdone u f.d o.tag en
      (fun i => (fn (tagBits o.tag) ((o :: os).map (fun o => o.el i)) % 2 ^ tagBits o.tag, (o :: os).any (fun o => o.elBad i))) {}) := by
  obtain ⟨_, hfloat⟩ := isN_bounds (cls_of_sameTags hcls)
  obtain ⟨u, hkeep, hrun⟩ := elementwise_undrawn (f := { f with rm := 0 }) (fun _ _ _ _ => (0, {}))
    (fun w ps => (fn w ps % 2 ^ w, {})) hstage hsrcs hcls (by simp) hdef hen hports
  simp only [hfloat, Bool.false_eq_true, if_false, orAll_none] at hrun
  exact ⟨u, hkeep, hrun⟩

theorem vectorBitwise : VectorBitwise := by
  intro p hp f s hstage hd hmem
  obtain ⟨o, os, hsrcs⟩ := srcs_of_mem_vecBits hp f s
  rw [hsrcs]
  intro os' tag en hcls hen hports
  obtain ⟨u, hkeep, hrun⟩ := bitwise_of_ports (p.2.2 f) hstage hsrcs hcls rfl hen hports
  have hwrite := State.vWrote_vdone hkeep hd hmem (isN_bounds (cls_of_sameTags hcls)).1 hen (fun i hi => State.lt_of_mem_enabled hi)
  refine ⟨_, (exec_of_mem_vecBits hp f s).trans hrun, ?_, ?_⟩
  · exact (hwrite _ _).lanes_congr (fun i _ => ⟨Nat.mod_mod _ _, rfl⟩)
  · rw [State.vdone_status hkeep _ _ hen, orFlags_none]

/-! ## VDOT4 -/

/-- The elements of A and B that the enabled lanes read, four a lane. -/
def quads (en : List Nat) : List Nat := en.flatMap (fun i => (List.range 4).map (fun k => 4 * i + k))

/-- Lane i of C and the four products under it, exactly. -/
def dot4 (f : FmtV) (a b c : Opnd) (i : Nat) : Int :=
  intOf 32 true (c.el i) + ((List.range 4).map (fun k => intOf 8 f.sa (a.el (4 * i + k)) * intOf 8 f.sb (b.el (4 * i + k)))).sum

/-- The pattern of a dot product and its flags, saturated under SAT. -/
def dot4Result (f : FmtV) (x : Int) : Nat × Flags :=
  if f.sat then (patOf 32 (clampInt 32 true x), { of_ := clampInt 32 true x != x }) else (patOf 32 x, {})

/-- The poison of a lane's sources. -/
def dot4Bad (a b c : Opnd) (i : Nat) : Bool :=
  c.elBad i || (List.range 4).any (fun k => a.elBad (4 * i + k) || b.elBad (4 * i + k))

theorem dot4_eq_sum (f : FmtV) (a b c : Opnd) (i : Nat) : dot4 f a b c i = intOf 32 true (c.el i) +
    intOf 8 f.sa (a.el (4 * i)) * intOf 8 f.sb (b.el (4 * i)) + intOf 8 f.sa (a.el (4 * i + 1)) * intOf 8 f.sb (b.el (4 * i + 1)) +
    intOf 8 f.sa (a.el (4 * i + 2)) * intOf 8 f.sb (b.el (4 * i + 2)) +
    intOf 8 f.sa (a.el (4 * i + 3)) * intOf 8 f.sb (b.el (4 * i + 3)) := by
  have hrange : List.range 4 = [0, 1, 2, 3] := rfl
  simp only [dot4, hrange, List.map_cons, List.map_nil, List.sum_cons, List.sum_nil, add_zero, add_assoc]

/-- Clamping to INT32 as a maximum of a minimum. -/
theorem clampInt_32 (x : Int) : clampInt 32 true x = max (-2147483648) (min 2147483647 x) := by
  have hmin : intMin 32 true = -2147483648 := rfl
  have hmax : intMax 32 true = 2147483647 := rfl
  rw [clampInt, hmin, hmax]
  split
  · omega
  · split <;> omega

theorem dot4Result_pattern (f : FmtV) (x : Int) :
    (dot4Result f x).1 = ((if f.sat then max (-2147483648) (min 2147483647 x) else x) % 4294967296).toNat := by
  rw [dot4Result, ← clampInt_32]
  split <;> rfl

/-- VDOT4 checks the tags of A, B and C in this order (07 R138). -/
theorem execVdot4_mismatch {f : FmtV} {s : State} {o : Opnd} (hstage : s.fcore.stageOn = true)
    (h : (if (s.opnd f.a).tag ≠ 8 then some (s.opnd f.a) else if (s.opnd f.b).tag ≠ 8 then some (s.opnd f.b)
      else if (s.opnd f.c).tag ≠ 6 then some (s.opnd f.c) else none) = some o) :
    execVdot4 f s = .next (s.stopped s.fk s.fc (.trap cTAG (tagTval o.spec o.tag))) := by
  unfold execVdot4
  refine vector_error hstage ?_
  split at h
  · next ha =>
    obtain rfl := Option.some.inj h
    simp [ofClass_error, ha, bind, Except.bind]
  · next ha =>
    split at h
    · next hb =>
      obtain rfl := Option.some.inj h
      simp [ofClass_ok, ofClass_error, not_not.1 ha, hb, bind, Except.bind]
    · next hb =>
      split at h
      · next hc =>
        obtain rfl := Option.some.inj h
        simp [ofClass_ok, ofClass_error, not_not.1 ha, not_not.1 hb, hc, bind, Except.bind]
      · exact nomatch h

/-- VDOT4 on sources of its tags pops its ports and writes a dot product to each enabled INT32 lane (07 R138). -/
theorem execVdot4_of_ports {f : FmtV} {s : State} {en : List Nat} (hstage : s.fcore.stageOn = true) (ha : (s.opnd f.a).tag = 8)
    (hb : (s.opnd f.b).tag = 8) (hc : (s.opnd f.c).tag = 6) (hdef : s.enabled f.g 6 256 = en) (hen : en ≠ [])
    (hports : s.checkPorts [(s.opnd f.a).need (quads en), (s.opnd f.b).need (quads en), (s.opnd f.c).need en] = .ok ()) :
    let r := fun i => dot4Result f (dot4 f (s.opnd f.a) (s.opnd f.b) (s.opnd f.c) i)
    ∃ u, s.KeepsRegs u ∧ execVdot4 f s = .next (s.vdone u f.d 6 en
      (fun i => ((r i).1, dot4Bad (s.opnd f.a) (s.opnd f.b) (s.opnd f.c) i)) (orAll (en.map (fun i => (r i).2)))) := by
  intro r
  refine ⟨_, State.KeepsRegs.popPorts s [(s.opnd f.a).need (quads en), (s.opnd f.b).need (quads en), (s.opnd f.c).need en], ?_⟩
  rw [quads] at hports
  unfold execVdot4
  refine vector_ok hstage ?_
  simp only [ofClass, ha, hb, hc, hdef, hen, hports, bind, Except.bind, pure, Except.pure, if_false, beq_self_eq_true, if_true,
    List.map_map]
  rfl

theorem vectorDot : VectorDot := by
  intro f s hstage hd hmem a b c en quad
  refine ⟨?opcode, fun o ho => execVdot4_mismatch hstage ho, ?lanes⟩
  case opcode => exact congrArg (fun w => [w]) (Laws.readsV f 0x9B (by decide)).1
  case lanes =>
    intro ha hb hc hen hports sum clamped
    obtain ⟨u, hkeep, hrun⟩ := execVdot4_of_ports hstage ha hb hc rfl hen hports
    have hwrite := State.vWrote_vdone hkeep hd hmem (tag := 6) (by decide) hen (fun i hi => State.lt_of_mem_enabled hi)
    refine ⟨_, dot4Bad a b c, hrun, (hwrite _ _).lanes_congr (fun i _ => ⟨?_, rfl⟩), fun _ => rfl⟩
    rw [dot4Result_pattern, dot4_eq_sum]

/-- Settles O26: the bitwise instructions by the shared operation of their table, VDOT4 by its own lemmas. -/
theorem vectorBitwiseAndDot : Obligations.VectorBitwiseAndDot := ⟨vectorBitwise, vectorDot⟩

end Sys2Proof.Machine
end

section
/-! Decode and encode (03 R34, R40, R50 to R52): every instruction's round trip, gathered from its own lemma, and the number of words that
each table's instructions have. -/

namespace Sys2Proof.Laws.RoundTrip

/-! ## How many words an instruction has (03 R34) -/

/-- Every row of a table reads an instruction of n words. -/
def RowsHave (n : Nat) (tab : List (Nat → Nat → Instr)) : Prop := tab.Forall (fun row => ∀ w0 w1, (encode (row w0 w1)).length = n)

theorem RowsHave.append {n : Nat} {l m : List (Nat → Nat → Instr)} (hl : RowsHave n l) (hm : RowsHave n m) : RowsHave n (l ++ m) :=
  List.forall_append.2 ⟨hl, hm⟩

/-- A look-up in a table whose rows have n words. -/
theorem RowsHave.length_eq {n : Nat} {tab : List (Nat → Nat → Instr)} (h : RowsHave n tab) {j w0 w1 : Nat} {i : Instr}
    (hi : (tab[j]?).map (fun row => row w0 w1) = some i) : (encode i).length = n := by
  obtain ⟨row, hrow, rfl⟩ := Option.map_eq_some_iff.1 hi
  exact List.forall_iff_forall_mem.1 h row (List.mem_of_getElem? hrow) w0 w1

theorem rawEcall_length (w : Nat) : (encode (rawEcall w)).length = 1 := by
  unfold rawEcall
  split <;> rfl

theorem rawMcfg_length (w0 w1 : Nat) : (encode (rawMcfg w0 w1)).length = 2 := by
  unfold rawMcfg
  split <;> rfl

theorem scalTab_oneWord : RowsHave 1 scalTab := by
  have hmts (w0 : Nat) : (encode (if field w0 28 5 = 11 then .fwslotCommit (rawS w0) else .mts (rawS w0))).length = 1 := by
    split <;> rfl
  have h0 : RowsHave 1 scalTab0 := by and_intros <;> exact fun _ _ => rfl
  have h1 : RowsHave 1 scalTab1 := by and_intros <;> exact fun _ _ => rfl
  have h2 : RowsHave 1 scalTab2 := by and_intros <;> exact fun _ _ => rfl
  have h3 : RowsHave 1 scalTab3 := by and_intros <;> exact fun _ _ => rfl
  have h4 : RowsHave 1 scalTab4 := by
    refine ⟨?_, ?_, ?_, ?_, ?_, ?_, ?_, ?_, ?_, ?_, ?_, ?_, ?_, ?_, ?_, fun w0 _ => hmts w0, ?_⟩
    all_goals and_intros <;> exact fun _ _ => rfl
  exact (((h0.append h1).append h2).append h3).append h4

theorem vecTab_oneWord : RowsHave 1 vecTab := by
  have hsplat (w0 : Nat) : (encode (if bitOf w0 5 then .vsplatSlot (rawV w0) else .vsplatV (rawV w0))).length = 1 := by
    split <;> rfl
  have h0 : RowsHave 1 vecTab0 := by
    refine ⟨?_, fun w0 _ => hsplat w0, ?_⟩
    all_goals and_intros <;> exact fun _ _ => rfl
  have h1 : RowsHave 1 vecTab1 := by and_intros <;> exact fun _ _ => rfl
  have h2 : RowsHave 1 vecTab2 := by and_intros <;> exact fun _ _ => rfl
  have h3 : RowsHave 1 vecTab3 := by and_intros <;> exact fun _ _ => rfl
  exact ((h0.append h1).append h2).append h3

theorem matTab_twoWords : RowsHave 2 matTab := by
  have h0 : RowsHave 2 matTab0 := by and_intros <;> exact fun _ _ => rfl
  have h1 : RowsHave 2 matTab1 := by
    refine ⟨?_, ?_, ?_, ?_, rawMcfg_length, ?_⟩
    all_goals and_intros <;> exact fun _ _ => rfl
  exact h0.append h1

theorem spTab_twoWords : RowsHave 2 spTab := by and_intros <;> exact fun _ _ => rfl

theorem soTab_twoWords : RowsHave 2 soTab := by and_intros <;> exact fun _ _ => rfl

theorem xfTab_twoWords : RowsHave 2 xfTab := by
  have hchan (w0 w1 : Nat) : (encode (if bitOf w0 26 then .xchanClose (rawG w0) (rawQ w1) (bits w0 31)
      else .xchan (rawG w0) (rawQ w1) (bits w0 31) (bits w0 27))).length = 2 := by
    split <;> rfl
  have h0 : RowsHave 2 xfTab0 := by
    refine ⟨?_, ?_, ?_, ?_, ?_, ?_, ?_, ?_, ?_, ?_, ?_, ?_, ?_, ?_, hchan, ?_⟩
    all_goals and_intros <;> exact fun _ _ => rfl
  have h1 : RowsHave 2 xfTab1 := by and_intros <;> exact fun _ _ => rfl
  exact h0.append h1

theorem syTab_oneWord : RowsHave 1 syTab := by
  refine ⟨?_, ?_, fun w0 _ => rawEcall_length w0, ?_⟩
  all_goals and_intros <;> exact fun _ _ => rfl

/-- What the opcode map reads at an opcode has two words where the opcode is a queued engine's, else one (03 R34). -/
theorem length_of_raw {w0 w1 : Nat} {i : Instr} (h : raw w0 w1 = some i) :
    (encode i).length = if isTwo (field w0 35 9) then 2 else 1 := by
  have htwo : isTwo (field w0 35 9) = true ↔ 0x100 ≤ field w0 35 9 ∧ field w0 35 9 < 0x1C0 := by simp [isTwo]
  simp only [raw] at h
  split at h
  · next ho => rw [scalTab_oneWord.length_eq h, if_neg (fun hc => by have := htwo.1 hc; omega)]
  split at h
  · next ho => rw [vecTab_oneWord.length_eq h, if_neg (fun hc => by have := htwo.1 hc; omega)]
  split at h
  · next ho => rw [matTab_twoWords.length_eq h, if_pos (htwo.2 (by omega))]
  split at h
  · next ho => rw [spTab_twoWords.length_eq h, if_pos (htwo.2 (by omega))]
  split at h
  · next ho => rw [soTab_twoWords.length_eq h, if_pos (htwo.2 (by omega))]
  split at h
  · next ho => rw [xfTab_twoWords.length_eq h, if_pos (htwo.2 (by omega))]
  · next ho => rw [syTab_oneWord.length_eq h, if_neg (fun hc => by have := htwo.1 hc; omega)]

/-! ## What decode answers (03 R50) -/

/-- A core that decodes two words to an instruction accepts their opcode; the instruction is the opcode map's, well formed, and its words
are these. -/
theorem decode_ok {c : CoreIx} {cls w0 w1 : Nat} {i : Instr} (h : decode c cls w0 w1 = .ok i) :
    accepts c cls (field w0 35 9) = true ∧ raw w0 w1 = some i ∧ i.wf = true ∧ (encode i).head? = some (w0 % 2 ^ 64) ∧
      (isTwo (field w0 35 9) = true → (encode i)[1]? = some (w1 % 2 ^ 64)) := by
  unfold decode at h
  split at h
  · next hac =>
    split at h
    · exact nomatch h
    · next j hraw =>
      split at h
      · exact nomatch h
      · next h0 =>
        split at h
        · exact nomatch h
        · next h1 =>
          obtain rfl := Except.ok.inj h
          simp only [not_or, not_not, Bool.not_eq_false, not_and] at h0 h1
          exact ⟨hac, hraw, by rw [Instr.wf, h0.2, h1.2]; rfl, h0.1, h1.1⟩
  · exact nomatch h

/-- Every opcode has a core that accepts it (02 R32). -/
theorem accepts_coreFor (opc : Nat) : accepts (coreFor opc).1 (coreFor opc).2 opc = true := by
  unfold accepts coreFor
  split
  · rfl
  split
  · rfl
  split
  · rfl
  split
  · rfl
  split
  · rfl
  split <;> rfl

/-- Every instruction that has words is decoded from them. -/
theorem statement (i : Instr) : Statement i := by
  cases i
  exacts [
    nop _, mov _, movhi _, add _, sub _, mul _, mulh _, mulhu _, div _, divu _, rem _, remu _, min _, max _, minu _, maxu _, abs _,
    and _, or _, xor _, andn _, orn _, lut3 _, shl _, shr _, sar _, rol _, fshl _, fshr _, clz _, ctz _, popc _, sext _, zext _, bfx _,
    bfxu _, bfi _, sel _, cmpEq _, cmpNe _, cmpLt _, cmpLe _, cmpGt _, cmpGe _, cmpLtu _, cmpLeu _, cmpGtu _, cmpGeu _, tstZ _, tstNz _,
    plut _, pget _, pput _, fadd _, fsub _, fmul _, ffma _, fmin _, fmax _, fcvtIf _, fcvtFi _, fcmpEq _, fcmpLt _, fcmpLe _, fcmpUn _,
    acap _, amov _, aset _, aadd _, anrw _, aget _, ld _, ldu _, st _, lds _, pchk _, ldpf _, br _, brx _, call _, ret _, mloop _,
    brlc _, rbset _, semsig _, semwait _, semtry _, mtxlock _, mtxtry _, mtxfree _, xempty _, xfullq _, eqdrain _, eqlevel _, mfs _,
    mts _, cwbind _, waitwp _, done _, pause _, vmov _, vsplatV _, vsplatSlot _, vzero _, vtag _, vadd _, vsub _, vmul _, vfma _, vfms _,
    vfnma _, vdiv _, vmin _, vmax _, vabs _, vneg _, vclamp _, vsgn _, vround _, vrsq _, vrcp _, vexp2 _, vlog2 _, vactRelu _,
    vactGelu _, vactSilu _, vactTanh _, vactSigm _, vdot4 _, vand _, vor _, vxor _, vlut3 _, vshl _, vshr _, vsar _, vfshl _, vfshr _,
    vpopc _, vclz _, vcmpEq _, vcmpNe _, vcmpLt _, vcmpLe _, vcmpGt _, vcmpGe _, vcmpUn _, vclass _, vsel _, klut _, ksetp _, kpopc _,
    kfirst _, vcvt _, vquant _, vdequant _, vmxpack _, vmxunpk _, vredAdd _, vredMax _, vredMin _, vscanAdd _, vperm _, vrot _, vzip _,
    vunzip _, vcompress _, vexpand _, vgetl _, vsetl _, vld _, vlds _, vldx _, vldsp _, vst _, vsts _, vstx _, qcfg _, qloop _, qreset _,
    vpchk _, mma _, mmaz _, mmat _, mmaq _, mmamx _, mmast _, mmac _, mmacz _, tzero _ _ _ _ _, tload _ _ _ _ _ _ _,
    tstore _ _ _ _ _ _ _, tstoreq _ _ _ _ _ _ _ _ _ _, tstoremx _ _ _ _ _ _ _ _, tbias _ _ _ _ _ _ _, tscale _ _ _ _ _ _ _,
    tact _ _ _ _ _, tredr _ _ _ _ _ _, tredc _ _ _ _ _ _, ttrans _ _ _ _ _, ttov _ _ _ _ _ _, tfromv _ _ _ _ _ _, tclamp _ _ _ _ _ _,
    mcast _ _ _ _ _ _, mcwait _ _ _ _, mcfgKset _ _ _ _, mcfgKput _ _ _ _ _, mcfgKlut _ _ _ _ _ _ _, mtest _ _, mstat _ _ _ _,
    tcopy _ _ _ _ _, spmm _, spmmz _, spmmb _, spmv _, sddmm _, spgath _, spscat _, spseg _, spisect _, spunion _, spcsr _, spdense _,
    sptrans _, spcount _, spscan _, embag _, spcfg _ _ _ _, spstat _ _ _ _, sort _, sortkv _, topk _, topkv _, merge _, mergekv _,
    argsort _, kth _, unique _, partn _, histo _, search _, srtcfg _ _ _ _, srtstat _ _ _ _, xcopy _, xcopyw _, xcopyc _, xcopyh _,
    xfill _, xgath _, xred _, xconv _, xlayout _, xpush _, xpull _, xstream _ _ _ _, xstrend _ _ _, xwptr _ _ _ _, xchan _ _ _ _,
    xchanClose _ _ _, xabort _ _ _, amoadd _, amomax _, amomin _, amoand _, amoor _, amoxch _, amocas _, phase _ _ _ _, fence _ _ _,
    cbar _ _, balloc _ _ _ _ _, bref _ _ _, bdrop _ _ _, bxfer _ _ _ _ _, gsubmit _ _ _ _, gsignal _ _ _ _, gwait _ _ _ _,
    arrwait _ _ _ _, hnotify _ _ _ _, xpend _ _ _, trap _, eret _, ecallTime _, ecallErrorCount _, ecallLocation _, ecallDiscovery _,
    ecallUnsupported _, ctxsave _, ctxload _, leaseq _, sechash _, secver _, secmeas _, secatt _, wdpet _, bblog _, fwslotCommit _,
    longLatencyResult _ _ _, semGrant _ _, mutexGrant _ _, waitwpRelease _ _, eqdrainRelease _ _, pauseWake _ _, pauseTimeout _ _,
    queuePushResume _ _, engineWaitGrant _ _, engineEntryStart _ _, engineEntryComplete _ _, farEndReply _, postedWriteLand _ _,
    groupRendezvous _ _, mcastArrival _, mcwaitRelease _, selftestCount _, selftestTimer _, publicationComplete _ _, launchBankSwap _,
    taskEndByFault _, preemptSwap _, taskResume _, nodeAccept _, schedulerDecision, nodeRetire _, eventNodeSatisfied _, loopIteration _,
    eventRecordWrite _, msixFirstTimer _, msixIdleTimer _, msixUnmask _, hostRegisterWrite _ _, hostWindowRead _ _ _,
    hostWindowWrite _ _ _, atsInvalidation _ _, atsInvalidationComplete _ _, translationResponse _ _ _, replayRelease _,
    hostPageRefused _, streamOpen _ _, streamData _ _, streamClose _ _, credit _ _, flitCrcReplay _ _, pushData _, pushDone _, pushAck _,
    pullReq _, pullData _, pullDone _, epoch _, odsogaUnknownType _, moduleUnreachable _, odsogaLaneLoss _, asidCreate _ _ _ _,
    asidRetire _ _, asidSweepComplete _, bufAlloc _ _ _, bufDrop _ _ _, map _ _ _ _ _ _, unmap _, sync _ _, queueCfg _ _ _,
    submit _ _ _ _, quota _ _, remoteExport _ _ _ _ _ _, remoteImport _ _ _ _ _ _ _ _ _, dieOffline _ _, dieOfflineComplete _,
    evacuationComplete _, dieOnline _, readDesc _, foxRead _ _, mailboxUnknownCode _, getVersion _, getCapabilities _,
    negotiateAlgorithms _, getDigests _, getCertificate _, challenge _, getMeasurements _ _, spdmUnsupported _, lifecycle _ _ _ _,
    ringRead _, ringRelease _, islandRead _, pkgRead, pkgSet _, limitSet _ _, discRead _, reset _, coldReset, warmReset,
    bootZeroFillDone, watchdogExpiry _, heartbeatTimeout, refreshInterval _, refreshTakeover _, rowActivationThreshold _ _ _,
    rfmHoldEnd _ _, correctableError _, uncorrectableError _, dieFailure _, powerCapTick _, thermalThrottle _ _, thermalRelease _ _,
    computeTrip _ _, islandTrip _ _, taskKilled _, moduleJoinsDomain]

/-- The first word, and the second where there is one, of a well-formed instruction that has words. -/
theorem words_of_wf {i : Instr} (hw : i.wf = true) (hn : encode i ≠ []) :
    let w0 := (encode i).headD 0
    (encode i).length = (if isTwo (field w0 35 9) then 2 else 1) ∧ w0 < 2 ^ 64 ∧
      ∀ w1, (encode i)[1]? = some w1 → w1 < 2 ^ 64 := by
  intro w0
  obtain ⟨_, hraw, _, h0, h1⟩ := decode_ok (statement i hw hn _ _ 0 (accepts_coreFor (field w0 35 9)))
  have hlen := length_of_raw hraw
  refine ⟨hlen, ?first, fun w1 hw1 => ?second⟩
  case first =>
    have hhead : w0 = w0 % 2 ^ 64 := by
      change (encode i).headD 0 = _
      rw [List.headD_eq_head?_getD, h0]; rfl
    omega
  case second =>
    have htwo : isTwo (field w0 35 9) = true := by
      by_contra hone
      rw [if_neg hone] at hlen
      obtain ⟨w, hsingle⟩ := List.length_eq_one_iff.1 hlen
      rw [hsingle] at hw1
      exact nomatch hw1
    have hmod := h1 htwo
    rw [hw1, Option.getD_some, Option.some.injEq] at hmod
    omega

/-- An instruction of one or two words is its first word and the second, if any. -/
theorem encode_eq {i : Instr} (hw : i.wf = true) (hn : encode i ≠ []) :
    encode i = (encode i).headD 0 :: (if isTwo (field ((encode i).headD 0) 35 9) then [(encode i)[1]?.getD 0] else []) := by
  obtain ⟨hlen, _, _⟩ := words_of_wf hw hn
  match he : encode i with
  | [] => exact absurd he hn
  | [a] =>
    rw [he] at hlen
    split at hlen
    · exact nomatch hlen
    · next hone => rw [List.headD_cons] at hone ⊢; rw [if_neg hone]
  | [a, b] =>
    rw [he] at hlen
    split at hlen
    · next htwo => rw [List.headD_cons] at htwo ⊢; rw [if_pos htwo]; rfl
    · exact nomatch hlen
  | a :: b :: c :: l =>
    rw [he] at hlen
    split at hlen <;> simp at hlen

/-! ## The obligation -/

/-- A well-formed instruction's words are read back, one word whatever stands after it. -/
theorem decode_encode {i : Instr} (hw : i.wf = true) (hn : encode i ≠ []) :
    let w0 := (encode i).headD 0
    (encode i).length = (if isTwo (field w0 35 9) then 2 else 1) ∧ (∀ w ∈ encode i, w < 2 ^ 64) ∧
    (∀ (c : CoreIx) (cls w : Nat), accepts c cls (field w0 35 9) = true → decode c cls w0 ((encode i)[1]?.getD w) = .ok i) ∧
    decodeTableWord (64 * (encode i).length) (w0 + 2 ^ 64 * (encode i)[1]?.getD 0) = some i := by
  intro w0
  obtain ⟨hlen, h0, h1⟩ := words_of_wf hw hn
  have hsecond : (encode i)[1]?.getD 0 < 2 ^ 64 := by
    cases hb : (encode i)[1]? with
    | none => decide
    | some b => exact h1 b hb
  refine ⟨hlen, fun w hmem => ?bound, fun c cls w hac => statement i hw hn c cls w hac, ?table⟩
  case bound =>
    rw [encode_eq hw hn, List.mem_cons] at hmem
    rcases hmem with rfl | hmem
    · exact h0
    · split at hmem
      · rwa [List.mem_singleton.1 hmem]
      · exact nomatch hmem
  case table =>
    have hlow : (w0 + 2 ^ 64 * (encode i)[1]?.getD 0) % 2 ^ 64 = w0 := by omega
    have hhigh : (w0 + 2 ^ 64 * (encode i)[1]?.getD 0) / 2 ^ 64 % 2 ^ 64 = (encode i)[1]?.getD 0 := by omega
    have hopc : field (w0 + 2 ^ 64 * (encode i)[1]?.getD 0) 35 9 = field w0 35 9 := by simp only [field]; omega
    rw [decodeTableWord, hlow, hhigh, hopc, statement i hw hn _ _ 0 (accepts_coreFor _)]

/-- Two well-formed instructions of the same words are one: a core that accepts the words decodes them to both. -/
theorem eq_of_encode_eq {i j : Instr} (hi : i.wf = true) (hj : j.wf = true) (hn : encode i ≠ []) (h : encode i = encode j) : i = j := by
  have hdi := statement i hi hn _ _ 0 (accepts_coreFor _)
  have hdj := statement j hj (h ▸ hn) _ _ 0 (accepts_coreFor _)
  rw [h] at hdi
  exact Except.ok.inj (hdi.symm.trans hdj)

end Sys2Proof.Laws.RoundTrip

namespace Sys2Proof.Machine

/-- Settles O56: the round trip of each instruction, the number of words of each table's rows, and what decode checks. -/
theorem decodeEncode : Obligations.DecodeEncode := by
  refine ⟨fun i hw hn => Laws.RoundTrip.decode_encode hw hn, fun c cls w0 w1 i h0 h1 h => ?_,
    fun i j hi hj hn h => Laws.RoundTrip.eq_of_encode_eq hi hj hn h⟩
  obtain ⟨hac, _, hw, hhead, hsecond⟩ := Laws.RoundTrip.decode_ok h
  rw [Nat.mod_eq_of_lt h0] at hhead
  rw [Nat.mod_eq_of_lt h1] at hsecond
  exact ⟨hw, hac, by rw [← List.head?_eq_getElem?, hhead], hsecond⟩

end Sys2Proof.Machine
end

section
/-! Scalar integer instructions (04 R53 to R59): the model's functions of the sources as those of the tables, and what an enabled ALU,
unary or move instruction does once its sources are there. -/

namespace Sys2Proof.Machine

/-! ## Patterns of w bits as words (06 R111) -/

/-- The low n bits of a word, sign-extended. -/
theorem signExtend_setWidth (a : Word) {n : Nat} (hn : 0 < n) : (a.setWidth n).signExtend 64 = w64 (intOf n true a.toNat) := by
  have hmsb : bitOf a.toNat (n - 1) = (a.setWidth n).msb := by
    rw [BitVec.msb_eq_getLsbD_last, BitVec.getLsbD_setWidth, BitVec.getLsbD, Nat.testBit_eq_decide_div_mod_eq]
    simp [bitOf, hn, Bool.beq_eq_decide_eq]
  have hint : intOf n true a.toNat = (a.setWidth n).toInt := by
    simp only [intOf, hmsb, BitVec.toInt_eq_msb_cond, BitVec.toNat_setWidth, Bool.true_and]
  rw [w64, hint]
  rfl

theorem sextBits_eq (a : Word) {n : Nat} (hn : 0 < n) : sextBits n a = (a.setWidth n).signExtend 64 :=
  (signExtend_setWidth a hn).symm

theorem wNat_mod_two_pow (a : Word) (n : Nat) : wNat (a.toNat % 2 ^ n) = (a.setWidth n).zeroExtend 64 := by
  apply BitVec.eq_of_toNat_eq
  simp [wNat]

theorem width_pos (b : Word) : 0 < width b := by unfold width; split <;> omega

theorem bfLen_pos (b : Op2) : 0 < bfLen b := by unfold bfLen; split <;> omega

/-! ## Counting bits (04 R56) -/

theorem clzNat_eq_clz (a : Word) : wNat (clzNat 64 a.toNat) = a.clz := by
  by_cases ha : a = 0
  · subst ha; decide
  · have hne : a.toNat ≠ 0 := fun h => ha (BitVec.eq_of_toNat_eq h)
    have hlow := BitVec.two_pow_sub_clz_le_toNat_of_ne_zero (by decide) ha
    have hhigh := BitVec.toNat_lt_two_pow_sub_clz (x := a)
    have hclz : a.clz.toNat < 64 := BitVec.lt_def.1 (BitVec.clz_lt_iff_ne_zero.2 ha)
    have hlog : Nat.log2 a.toNat = 63 - a.clz.toNat := by
      refine (Nat.log2_eq_iff hne).2 ⟨hlow, ?_⟩
      rwa [show 63 - a.clz.toNat + 1 = 64 - a.clz.toNat by omega]
    apply BitVec.eq_of_toNat_eq
    rw [clzNat, if_neg hne, hlog, wNat, BitVec.toNat_ofNat, Nat.mod_eq_of_lt (by omega)]
    omega

/-- The position of the lowest one bit. -/
theorem ctzNat_eq_of_testBit {w v n : Nat} (hn : n < w) (hone : v.testBit n = true) (hzero : ∀ i < n, v.testBit i = false) :
    ctzNat w v = n := by
  induction n generalizing w v with
  | zero =>
    obtain ⟨w, rfl⟩ := Nat.exists_eq_succ_of_ne_zero (Nat.ne_of_gt hn)
    rw [Nat.testBit_zero, decide_eq_true_eq] at hone
    rw [ctzNat, if_pos hone]
  | succ n ih =>
    obtain ⟨w, rfl⟩ := Nat.exists_eq_succ_of_ne_zero (Nat.ne_of_gt (Nat.lt_of_le_of_lt (Nat.zero_le _) hn))
    have heven : v % 2 ≠ 1 := by simpa [Nat.testBit_zero] using hzero 0 (Nat.succ_pos n)
    rw [ctzNat, if_neg heven, ih (Nat.lt_of_succ_lt_succ hn) (by rwa [Nat.testBit_succ] at hone)
      (fun i hi => by rw [← Nat.testBit_succ]; exact hzero _ (Nat.succ_lt_succ hi))]

theorem ctzNat_zero (w : Nat) : ctzNat w 0 = w := by
  induction w with
  | zero => rfl
  | succ w ih => rw [ctzNat, Nat.zero_mod, if_neg (by decide), Nat.zero_div, ih]

theorem ctzNat_eq_clz_reverse (a : Word) : wNat (ctzNat 64 a.toNat) = a.reverse.clz := by
  by_cases ha : a = 0
  · have hclz : a.reverse.clz = (64 : Word) := BitVec.clz_eq_iff_eq_zero.2 (BitVec.reverse_eq_zero_iff.2 ha)
    rw [hclz, ha]
    exact congrArg wNat (ctzNat_zero 64)
  · have hctz : a.ctz.toNat < 64 := BitVec.lt_def.1 (BitVec.ctz_lt_iff_ne_zero.2 ha)
    rw [← BitVec.ctz_eq_reverse_clz, ctzNat_eq_of_testBit hctz (BitVec.getLsbD_true_ctz_of_ne_zero ha)
      (fun i hi => BitVec.getLsbD_false_of_lt_ctz hi), wNat, BitVec.ofNat_toNat, BitVec.setWidth_eq]

theorem bfxu_eq (a : Word) (b : Op2) :
    wNat (field a.toNat (bfPos b) (bfLen b)) = ((a >>> bfPos b).setWidth (bfLen b)).zeroExtend 64 := by
  rw [← wNat_mod_two_pow, BitVec.toNat_ushiftRight, Nat.shiftRight_eq_div_pow, field]

/-! ## Division, order, rotation (04 R55, R58) -/

theorem divU_eq (a b : Word) : divU a b = if b = 0 then BitVec.allOnes 64 else a / b := by
  unfold divU
  split
  · rfl
  · exact BitVec.eq_of_toNat_eq (by simp [wNat, Nat.mod_eq_of_lt (Nat.lt_of_le_of_lt (Nat.div_le_self _ _) a.isLt)])

theorem remU_eq (a b : Word) : remU a b = if b = 0 then a else a % b := by
  unfold remU
  split
  · rfl
  · exact BitVec.eq_of_toNat_eq (by simp [wNat, Nat.mod_eq_of_lt (Nat.lt_of_le_of_lt (Nat.mod_le _ _) a.isLt)])

/-- A rotation by the two shifts that make it, at a count of 0 too. -/
theorem rotateLeft_eq_shifts (a : Word) {n : Nat} (hn : n < 64) : a.rotateLeft n = a <<< n ||| a >>> ((64 - n) % 64) := by
  rw [BitVec.rotateLeft_eq_rotateLeftAux_of_lt hn, BitVec.rotateLeftAux]
  by_cases h0 : n = 0
  · subst h0
    have hout : a >>> 64 = 0 := BitVec.ushiftRight_eq_zero (Nat.le_refl 64)
    simp [hout]
  · rw [Nat.mod_eq_of_lt (by omega)]

theorem append_toNat (a b : Word) : (a ++ b).toNat = a.toNat * 2 ^ 64 + b.toNat := by
  rw [BitVec.toNat_append, Nat.shiftLeft_eq, Nat.mul_comm, Nat.two_pow_add_eq_or_of_lt b.isLt]

theorem fshl_eq (a b : Word) (m : Nat) :
    wNat ((a.toNat * 2 ^ 64 + b.toNat) * 2 ^ m / 2 ^ 64) = ((a ++ b) <<< m).extractLsb' 64 64 := by
  apply BitVec.eq_of_toNat_eq
  rw [BitVec.extractLsb'_toNat, BitVec.toNat_shiftLeft, append_toNat, wNat, BitVec.toNat_ofNat, Nat.shiftLeft_eq,
    Nat.shiftRight_eq_div_pow]
  generalize (a.toNat * 2 ^ 64 + b.toNat) * 2 ^ m = x
  omega

theorem fshr_eq (a b : Word) (m : Nat) :
    wNat ((a.toNat * 2 ^ 64 + b.toNat) / 2 ^ m) = ((a ++ b) >>> m).extractLsb' 0 64 := by
  apply BitVec.eq_of_toNat_eq
  rw [BitVec.extractLsb'_toNat, BitVec.toNat_ushiftRight, append_toNat, wNat, BitVec.toNat_ofNat, Nat.shiftRight_zero,
    Nat.shiftRight_eq_div_pow]

/-! ## The shared operations, enabled and with their sources there -/

theorem State.wroteX_eq {s t : State} (h : t.focus = s.focus) (j : BitVec 5) (v : Word) (bad : Bool) :
    (t.putCore (t.fcore.wrote j v bad)).retire s.fk s.fc 1 = t.wroteX j v bad := by
  simp only [State.wroteX, State.fk, State.fc, h]

theorem alu_of_ready {f : FmtS} {s t : State} {a : Word} {pa : Bool} {b : Val} (fn : Word → Word → Word) (he : s.Enabled f.g)
    (ha : s.fcore.Holds f.s1 a pa) (hb : s.op2 immS f.b = .ok (t, b)) (hd : t.fcore.Ready f.d) :
    alu f s fn = .next (t.wroteX f.d (fn a b.v) (pa || b.bad)) := by
  unfold alu
  rw [← State.wroteX_eq (State.op2_focus hb)]
  exact guarded_ok he (by
    simp [Core.readX_of_holds ha, hb, Core.writeX_of_ready hd, bind, Except.bind, pure, Except.pure])

theorem una_of_ready {f : FmtS} {s : State} {a : Word} {pa : Bool} (fn : Word → Word) (he : s.Enabled f.g)
    (ha : s.fcore.Holds f.s1 a pa) (hd : s.fcore.Ready f.d) : una f s fn = .next (s.wroteX f.d (fn a) pa) := by
  unfold una
  exact onCore_ok he (by simp [Core.readX_of_holds ha, Core.writeX_of_ready hd, bind, Except.bind])

/-- A register that is full waits for no producer. -/
theorem Core.ready_of_holds {r : Core} {j : BitVec 5} {v : Word} {bad : Bool} (h : r.Holds j v bad) : r.Ready j := by
  unfold Core.Holds at h
  unfold Core.Ready
  split at h
  · exact .inl ‹_›
  · exact .inr (.inl (by rw [h]))

theorem alu3_of_holds {f : FmtS} {s : State} {a d : Word} {pa pd : Bool} {b : Val} (fn : Word → Word → Word → Word) (he : s.Enabled f.g)
    (ha : s.fcore.Holds f.s1 a pa) (hb : s.op2 immS f.b = .ok (s, b)) (hd : s.fcore.Holds f.d d pd) :
    alu3 f s fn = .next (s.wroteX f.d (fn a b.v d) (pa || b.bad || pd)) := by
  unfold alu3
  exact guarded_ok he (by
    simp [Core.readX_of_holds ha, hb, Core.readX_of_holds hd, Core.writeX_of_ready (Core.ready_of_holds hd), bind, Except.bind, pure,
      Except.pure])

/-! ## The instructions of each table -/

theorem execDiv_eq (f : FmtS) (s : State) :
    execDiv f s = alu f s (fun a b => if b = 0 then BitVec.allOnes 64 else BitVec.ofInt 64 (a.toInt.tdiv b.toInt)) := rfl

theorem execDivu_eq (f : FmtS) (s : State) : execDivu f s = alu f s (fun a b => if b = 0 then BitVec.allOnes 64 else a / b) :=
  congrArg (alu f s) (funext₂ divU_eq)

theorem execRemu_eq (f : FmtS) (s : State) : execRemu f s = alu f s (fun a b => if b = 0 then a else a % b) :=
  congrArg (alu f s) (funext₂ remU_eq)

theorem execMin_eq (f : FmtS) (s : State) : execMin f s = alu f s (fun a b => if b.toInt < a.toInt then b else a) := by
  simp only [execMin, ← not_lt, ite_not]

theorem execMax_eq (f : FmtS) (s : State) : execMax f s = alu f s (fun a b => if a.toInt < b.toInt then b else a) := by
  simp only [execMax, ← not_lt, ite_not]

theorem execMinu_eq (f : FmtS) (s : State) : execMinu f s = alu f s (fun a b => if b < a then b else a) := by
  simp only [execMinu, ← not_lt, ite_not, BitVec.lt_def]

theorem execMaxu_eq (f : FmtS) (s : State) : execMaxu f s = alu f s (fun a b => if a < b then b else a) := by
  simp only [execMaxu, ← not_lt, ite_not, BitVec.lt_def]

theorem execRol_eq (f : FmtS) (s : State) :
    execRol f s = alu f s (fun a b => a <<< (b.toNat % 64) ||| a >>> ((64 - b.toNat % 64) % 64)) :=
  congrArg (alu f s) (funext₂ fun a _ => rotateLeft_eq_shifts a (Nat.mod_lt _ (by decide)))

theorem execFshl_eq (f : FmtS) (s : State) :
    execFshl f s = alu f s (fun a b => ((a ++ b) <<< (modBits f.b % 64)).extractLsb' 64 64) :=
  congrArg (alu f s) (funext₂ fun a b => fshl_eq a b _)

theorem execFshr_eq (f : FmtS) (s : State) :
    execFshr f s = alu f s (fun a b => ((a ++ b) >>> (modBits f.b % 64)).extractLsb' 0 64) :=
  congrArg (alu f s) (funext₂ fun a b => fshr_eq a b _)

theorem execSext_eq (f : FmtS) (s : State) : execSext f s = alu f s (fun a b => (a.setWidth (width b)).signExtend 64) :=
  congrArg (alu f s) (funext₂ fun a b => sextBits_eq a (width_pos b))

theorem execZext_eq (f : FmtS) (s : State) : execZext f s = alu f s (fun a b => (a.setWidth (width b)).zeroExtend 64) :=
  congrArg (alu f s) (funext₂ fun a b => wNat_mod_two_pow a (width b))

/-- Each row of the table is the shared operation with the function that the row states. -/
theorem exec_of_mem_aluTable {p : (FmtS → Instr) × (FmtS → Word → Word → Word)} (hp : p ∈ aluTable) (f : FmtS) (s : State) :
    exec (p.1 f) s = alu f s (p.2 f) := by
  simp only [aluTable, List.mem_append] at hp
  rcases hp with (hp | hp) | hp
  · simp only [aluArith, List.mem_cons, List.not_mem_nil, or_false] at hp
    rcases hp with rfl | rfl | rfl | rfl | rfl | rfl | rfl | rfl | rfl
    exacts [rfl, rfl, rfl, rfl, rfl, execDiv_eq f s, execDivu_eq f s, rfl, execRemu_eq f s]
  · simp only [aluLogic, List.mem_cons, List.not_mem_nil, or_false] at hp
    rcases hp with rfl | rfl | rfl | rfl | rfl | rfl | rfl | rfl | rfl | rfl | rfl | rfl | rfl
    exacts [execMin_eq f s, execMax_eq f s, execMinu_eq f s, execMaxu_eq f s, rfl, rfl, rfl, rfl, rfl, rfl, rfl, rfl, execRol_eq f s]
  · simp only [aluWide, List.mem_cons, List.not_mem_nil, or_false] at hp
    rcases hp with rfl | rfl | rfl | rfl
    exacts [execFshl_eq f s, execFshr_eq f s, execSext_eq f s, execZext_eq f s]

theorem execClz_eq (f : FmtS) (s : State) : execClz f s = una f s (fun a => a.clz) := congrArg (una f s) (funext clzNat_eq_clz)

theorem execCtz_eq (f : FmtS) (s : State) : execCtz f s = una f s (fun a => a.reverse.clz) :=
  congrArg (una f s) (funext ctzNat_eq_clz_reverse)

theorem execPopc_eq (f : FmtS) (s : State) :
    execPopc f s = una f s (fun a => BitVec.ofNat 64 ((List.range 64).countP (fun i => a.getLsbD i))) :=
  congrArg (una f s) (funext fun a => congrArg wNat (popNat_eq_countP 64 a.toNat))

theorem execBfx_eq (f : FmtS) (s : State) :
    execBfx f s = una f s (fun a => ((a >>> bfPos f.b).setWidth (bfLen f.b)).signExtend 64) :=
  congrArg (una f s) (funext fun _ => sextBits_eq _ (bfLen_pos f.b))

theorem execBfxu_eq (f : FmtS) (s : State) :
    execBfxu f s = una f s (fun a => ((a >>> bfPos f.b).setWidth (bfLen f.b)).zeroExtend 64) :=
  congrArg (una f s) (funext fun a => bfxu_eq a f.b)

theorem exec_of_mem_unaryTable {p : (FmtS → Instr) × (FmtS → Word → Word)} (hp : p ∈ unaryTable) (f : FmtS) (s : State) :
    exec (p.1 f) s = una f s (p.2 f) := by
  simp only [unaryTable, List.mem_cons, List.not_mem_nil, or_false] at hp
  rcases hp with rfl | rfl | rfl | rfl | rfl | rfl
  exacts [rfl, execClz_eq f s, execCtz_eq f s, execPopc_eq f s, execBfx_eq f s, execBfxu_eq f s]

/-! ## The obligations of one and two sources -/

/-- Settles O1: the shared operation of the ALU table. -/
theorem scalarArithmetic : Obligations.ScalarArithmetic := by
  intro p hp f s t a pa b he ha hb hd
  rw [exec_of_mem_aluTable hp]
  exact alu_of_ready (p.2 f) he ha hb hd

theorem execMov_of_ready {f : FmtS} {s t : State} {b : Val} (he : s.Enabled f.g) (hb : s.op2 immS f.b = .ok (t, b))
    (hd : t.fcore.Ready f.d) : execMov f s = .next (t.wroteX f.d b.v b.bad) := by
  unfold execMov
  rw [← State.wroteX_eq (State.op2_focus hb)]
  exact guarded_ok he (by simp [hb, Core.writeX_of_ready hd, bind, Except.bind, pure, Except.pure])

theorem execMovhi_of_ready {f : FmtS} {s : State} {a : Word} {pa : Bool} {v : BitVec 21} (he : s.Enabled f.g)
    (ha : s.fcore.Holds f.s1 a pa) (hb : f.b = .imm v) (hd : s.fcore.Ready f.d) :
    execMovhi f s = .next (s.wroteX f.d ((a <<< 21) + v.zeroExtend 64) pa) := by
  unfold execMovhi
  exact guarded_ok he (by
    simp [Core.readX_of_holds ha, hb, immU, Core.writeX_of_ready hd, bind, Except.bind, pure, Except.pure])

theorem scalarUnary : ScalarUnary := by
  intro p hp f s a pa he ha hd
  rw [exec_of_mem_unaryTable hp]
  exact una_of_ready (p.2 f) he ha hd

/-- Settles O2: the shared operation of the unary table, MOV and MOVHI by their own lemmas. -/
theorem scalarUnaryAndMoves : Obligations.ScalarUnaryAndMoves :=
  ⟨scalarUnary, fun _ _ _ _ he hb hd => execMov_of_ready he hb hd, fun _ _ _ _ _ he ha hb hd => execMovhi_of_ready he ha hb hd⟩

end Sys2Proof.Machine
end

section
/-! What leaves a core and a state as they were: moving past an instruction, writing a register, reading operand two (02 R14, R26, R28;
04 R54; 10 R208). -/

namespace Sys2Proof.Machine

/-! ## Repeated writes -/

theorem kset_kset {α : Type} (m : KMap α) (i : Nat) (v w : α) : kset (kset m i v) i w = kset m i w := by
  induction m with
  | nil => simp [kset]
  | cons e m ih =>
    obtain ⟨k, x⟩ := e
    by_cases hk : k = i
    · simp [kset, hk]
    · by_cases hlt : i < k
      · simp [kset, hk, hlt]
      · simp [kset, hk, hlt, ih]

theorem State.setCell_setCell (s : State) (k : Nat) (c d : Cell) : (s.setCell k c).setCell k d = s.setCell k d := by
  simp [State.setCell, kset_kset]

theorem State.setBank_setBank (s : State) (k : Nat) (b b' : Bank) : (s.setBank k b).setBank k b' = s.setBank k b' := by
  simp [State.setBank, State.modCell, State.setCell_setCell]

theorem Bank.setCore_setCore (b : Bank) (c : CoreIx) (r r' : Core) : (b.setCore c r).setCore c r' = b.setCore c r' := by cases c <;> rfl

theorem State.setCore_setCore (s : State) (k : Nat) (c : CoreIx) (r r' : Core) : (s.setCore k c r).setCore k c r' = s.setCore k c r' := by
  simp [State.setCore, State.setBank_setBank, Bank.setCore_setCore]

theorem State.modCore_setCore (s : State) (k : Nat) (c : CoreIx) (r : Core) (f : Core → Core) :
    (s.setCore k c r).modCore k c f = s.setCore k c (f r) := by
  rw [State.modCore, State.core_setCore_same, State.setCore_setCore]

/-- Retirement of an instruction that has changed its core. -/
theorem State.retire_setCore (s : State) (k : Nat) (c : CoreIx) (r : Core) (len : Nat) :
    (s.setCore k c r).retire k c len = s.setCore k c { r.advance len with run := .running } := s.modCore_setCore k c r _

theorem State.wroteX_eq_setCore (s : State) (j : BitVec 5) (v : Word) (bad : Bool) :
    s.wroteX j v bad = s.setCore s.fk s.fc { (s.fcore.wrote j v bad).advance 1 with run := .running } :=
  s.retire_setCore s.fk s.fc _ 1

/-! ## Moving past an instruction (02 R26) -/

theorem Core.setPred_eq (r : Core) (i : Nat) (b : Bool) :
    r.setPred i b = { r with p := (r.setPred i b).p, livep := (r.setPred i b).livep } := by
  unfold Core.setPred
  split <;> rfl

theorem Core.openRound_eq (r : Core) :
    r.openRound = { r with p := r.openRound.p, livep := r.openRound.livep, loop := r.openRound.loop } := by
  unfold Core.openRound
  split
  · split
    · rw [Core.setPred_eq]
    · rfl
  · rfl

theorem Core.nextInLoop_eq (r : Core) (l : LoopPos) :
    r.nextInLoop l = { r with rbase := (r.nextInLoop l).rbase, loop := (r.nextInLoop l).loop, pc := (r.nextInLoop l).pc } := by
  unfold Core.nextInLoop
  split
  · rfl
  · unfold Core.startRound
    split <;> rfl

/-- Of a core, moving on changes the position and what a round of a loop rotates and writes. -/
theorem Core.advance_eq (r : Core) (len : Nat) :
    r.advance len = { r with
      p := (r.advance len).p, livep := (r.advance len).livep, rbase := (r.advance len).rbase, loop := (r.advance len).loop,
      pc := (r.advance len).pc } := by
  unfold Core.advance
  dsimp only
  split
  · rw [Core.openRound_eq]
  · rw [Core.nextInLoop_eq, Core.openRound_eq]

/-- Outside a loop an instruction moves to the next word. -/
theorem Core.advance_of_no_loop {r : Core} (h : r.loop = none) (len : Nat) : r.advance len = { r with pc := r.pc + wNat (8 * len) } := by
  have hopen : r.openRound = r := by rw [Core.openRound, h]
  rw [Core.advance, hopen, h]

@[simp] theorem Core.advance_x (r : Core) (len : Nat) : (r.advance len).x = r.x := by rw [Core.advance_eq]
@[simp] theorem Core.advance_a (r : Core) (len : Nat) : (r.advance len).a = r.a := by rw [Core.advance_eq]
@[simp] theorem Core.advance_status (r : Core) (len : Nat) : (r.advance len).status = r.status := by rw [Core.advance_eq]
@[simp] theorem Core.advance_results (r : Core) (len : Nat) : (r.advance len).results = r.results := by rw [Core.advance_eq]
@[simp] theorem Core.advance_win (r : Core) (len : Nat) : (r.advance len).win = r.win := by rw [Core.advance_eq]
@[simp] theorem Core.advance_h (r : Core) (len : Nat) : (r.advance len).h = r.h := by rw [Core.advance_eq]

/-! ## What no register shows -/

theorem Core.OnlyX.refl (r : Core) (xs : List Nat) : r.OnlyX r xs :=
  ⟨fun _ _ => rfl, rfl, rfl, rfl, rfl, rfl, rfl, rfl, rfl, rfl, rfl, fun _ => ⟨rfl, rfl, rfl⟩⟩

theorem Core.OnlyX.trans {r r' r'' : Core} {xs : List Nat} (h : r.OnlyX r' xs) (h' : r'.OnlyX r'' xs) (hl : r'.loop = r.loop) :
    r.OnlyX r'' xs := by
  obtain ⟨hx, ha, hst, hlc, hepc, hca, htv, hsp, hk, hv, hh, hp⟩ := h
  obtain ⟨hx', ha', hst', hlc', hepc', hca', htv', hsp', hk', hv', hh', hp'⟩ := h'
  refine ⟨fun i hi => (hx' i hi).trans (hx i hi), ha'.trans ha, hst'.trans hst, hlc'.trans hlc, hepc'.trans hepc, hca'.trans hca,
    htv'.trans htv, hsp'.trans hsp, hk'.trans hk, hv'.trans hv, hh'.trans hh, fun hnone => ?_⟩
  obtain ⟨hp1, hp2, hp3⟩ := hp hnone
  obtain ⟨hp1', hp2', hp3'⟩ := hp' (hl.trans hnone)
  exact ⟨hp1'.trans hp1, hp2'.trans hp2, hp3'.trans hp3⟩

/-- Moving on shows in no register outside a loop, and there in the predicates and RBASE alone. -/
theorem Core.OnlyX.advance (r : Core) (len : Nat) (run : Run) (xs : List Nat) : r.OnlyX { r.advance len with run := run } xs := by
  refine ⟨fun i _ => ?_, ?_, ?_, ?_, ?_, ?_, ?_, ?_, ?_, ?_, ?_, fun hnone => ?_⟩
  case refine_1 => exact congrArg (fun x => vget x i {}) (r.advance_x len)
  case refine_12 => rw [Core.advance_of_no_loop hnone]; exact ⟨rfl, rfl, rfl⟩
  all_goals rw [Core.advance_eq]

/-- A written register is the one that differs. -/
theorem Core.OnlyX.wrote (r : Core) (j : BitVec 5) (v : Word) (bad : Bool) :
    r.OnlyX (r.wrote j v bad) (if j = 0 then [] else [r.px j.toNat]) := by
  by_cases hj : j = 0
  · rw [hj, Core.wrote_zero]; exact Core.OnlyX.refl r _
  · rw [Core.wrote, if_neg hj, if_neg hj]
    refine ⟨fun i hi => ?_, rfl, rfl, rfl, rfl, rfl, rfl, rfl, rfl, rfl, rfl, fun _ => ⟨rfl, rfl, rfl⟩⟩
    rw [Core.xreg_putX, if_neg (fun h => hi (List.mem_singleton.2 h.1.symm))]

theorem Core.wrote_loop (r : Core) (j : BitVec 5) (v : Word) (bad : Bool) : (r.wrote j v bad).loop = r.loop := by
  unfold Core.wrote; split <;> rfl

theorem Core.OnlyX.wrote_advance (r : Core) (j : BitVec 5) (v : Word) (bad : Bool) (len : Nat) (run : Run) :
    r.OnlyX { (r.wrote j v bad).advance len with run := run } (if j = 0 then [] else [r.px j.toNat]) :=
  (Core.OnlyX.wrote r j v bad).trans (Core.OnlyX.advance _ len run _) (r.wrote_loop j v bad)

theorem State.OnlyCore.setCore (s : State) (r : Core) : s.OnlyCore (s.setCore s.fk s.fc r) := by
  rw [State.OnlyCore, State.core_setCore_same]

/-! ## What reading operand two leaves (02 R28; 10 R208) -/

/-- t differs from s at most in the counts of free values and of substitutions. -/
def State.Counts (s t : State) : Prop :=
  ∃ n st, t = { s with free := n, hbmStacks := st } ∧ ∀ i, { kget {} st i with subst := 0 } = { s.stack i with subst := 0 }

/-- t differs from s at most in these counts, and in what the issuing core has seen of its windows. -/
def State.Reads (s t : State) : Prop := ∃ u, s.Counts u ∧ (t = u ∨ ∃ w, t = u.putCore { s.fcore with wcur := w })

namespace State.Counts

theorem refl (s : State) : s.Counts s := ⟨s.free, s.hbmStacks, rfl, fun _ => rfl⟩

theorem bump (s : State) : s.Counts s.bump := ⟨s.free + 1, s.hbmStacks, rfl, fun _ => rfl⟩

theorem modStack_subst {s t : State} (h : s.Counts t) (i n : Nat) : s.Counts (t.modStack i (fun st => { st with subst := n })) := by
  obtain ⟨m, st, rfl, hst⟩ := h
  refine ⟨m, _, rfl, fun j => ?_⟩
  rw [kget_kset, ← hst j]
  split
  · next hj => rw [hj]; rfl
  · rfl

theorem countSubst {s t : State} (h : s.Counts t) (d : Buf) (gs : List Nat) : s.Counts (t.countSubst d gs) := by
  unfold State.countSubst
  induction gs generalizing t with
  | nil => exact h
  | cons g gs ih => exact ih (h.modStack_subst _ _)

theorem noteWinSubst (s : State) (b addr : Nat) (v : Mem × NSet) : s.Counts (s.noteWinSubst b addr v) := by
  unfold State.noteWinSubst
  split
  · split
    · exact (refl s).countSubst _ _
    · exact refl s
  · exact refl s

theorem fcore {s t : State} (h : s.Counts t) : t.fcore = s.fcore := by
  obtain ⟨n, st, rfl, _⟩ := h
  rfl

theorem onlyRead {s t : State} (h : s.Counts t) (r : Core) : s.OnlyRead (t.setCore s.fk s.fc r) := by
  obtain ⟨n, st, rfl, hst⟩ := h
  refine ⟨?_, hst⟩
  rw [State.core_setCore_same]
  rfl

end State.Counts

namespace State.Reads

theorem refl (s : State) : s.Reads s := ⟨s, State.Counts.refl s, .inl rfl⟩

theorem modCore_wcur {s u : State} (h : s.Counts u) (f : KMap Nat → KMap Nat) :
    s.Reads (u.modCore s.fk s.fc (fun r => { r with wcur := f r.wcur })) := by
  refine ⟨u, h, .inr ⟨f s.fcore.wcur, ?_⟩⟩
  obtain ⟨n, st, rfl, _⟩ := h
  rfl

theorem sawBuf {s u : State} (h : s.Counts u) (b first : Nat) : s.Reads (u.sawBuf s.fk s.fc b first) := by
  unfold State.sawBuf
  split
  · exact modCore_wcur h (fun m => kset m _ _)
  · exact ⟨u, h, .inl rfl⟩

/-- A word of a constant window. -/
theorem winRead {s t : State} {w : BitVec 3} {o : BitVec 17} {x : Word × Bool} (h : s.winRead s.fk s.fc w o = .ok (t, x)) : s.Reads t := by
  unfold State.winRead at h
  simp only [trap] at h
  split at h
  · exact nomatch h
  split at h
  · exact nomatch h
  split at h
  · simp only [bind, Except.bind] at h
    split at h
    · exact nomatch h
    · simp only [pure, Except.pure, Except.ok.injEq, Prod.mk.injEq] at h
      rw [← h.1]
      exact sawBuf (State.Counts.noteWinSubst s _ _ _) _ _
  split at h
  · exact nomatch h
  split at h
  · simp only [Except.ok.injEq, Prod.mk.injEq] at h
    rw [← h.1]
    exact refl s
  · simp only [Except.ok.injEq, Prod.mk.injEq] at h
    rw [← h.1]
    exact modCore_wcur (State.Counts.bump s) (fun m => kset m _ _)

theorem op2 {s t : State} {im : BitVec 21 → Word} {b : Op2} {v : Val} (h : s.op2 im b = .ok (t, v)) : s.Reads t := by
  cases b with
  | reg s2 w2 md =>
    simp only [State.op2, bind, Except.bind] at h
    split at h
    · exact nomatch h
    · simp only [pure, Except.pure, Except.ok.injEq, Prod.mk.injEq] at h
      rw [← h.1]
      exact refl s
  | imm x =>
    simp only [State.op2, Except.ok.injEq, Prod.mk.injEq] at h
    rw [← h.1]
    exact refl s
  | win w o =>
    simp only [State.op2, bind, Except.bind] at h
    split at h
    · exact nomatch h
    · next x hx =>
      simp only [pure, Except.pure, Except.ok.injEq, Prod.mk.injEq] at h
      rw [← h.1]
      exact winRead hx

theorem focus {s t : State} (h : s.Reads t) : t.focus = s.focus := by
  obtain ⟨u, ⟨n, st, rfl, _⟩, rfl | ⟨w, rfl⟩⟩ := h <;> rfl

theorem fcore {s t : State} (h : s.Reads t) : ∃ w, t.fcore = { s.fcore with wcur := w } := by
  obtain ⟨u, hu, rfl | ⟨w, rfl⟩⟩ := h
  · exact ⟨s.fcore.wcur, hu.fcore⟩
  · exact ⟨w, State.fcore_putCore _ _⟩

/-- Once the issuing core is written, nothing but that core and the counts differs. -/
theorem onlyRead {s t : State} (h : s.Reads t) (r : Core) : s.OnlyRead (t.setCore s.fk s.fc r) := by
  obtain ⟨u, hu, rfl | ⟨w, rfl⟩⟩ := h
  · exact hu.onlyRead r
  · have hput : (u.putCore { s.fcore with wcur := w }).setCore s.fk s.fc r = u.setCore s.fk s.fc r := by
      obtain ⟨n, st, rfl, _⟩ := hu
      exact State.setCore_setCore _ _ _ _ _
    rw [hput]
    exact hu.onlyRead r

end State.Reads

/-! ## The frame of the ALU and the unary instructions -/

theorem Core.OnlyX.of_wcur {r r' : Core} {w : KMap Nat} {xs : List Nat} (h : { r with wcur := w }.OnlyX r' xs) : r.OnlyX r' xs := h

theorem Core.px_wcur (r : Core) (w : KMap Nat) (j : Nat) : ({ r with wcur := w } : Core).px j = r.px j := rfl

/-- Settles O8: reading operand two leaves all but what a core has seen of its windows, writing a register all but that register, and
moving on all but the position. -/
theorem registerFrame : Obligations.RegisterFrame := by
  refine ⟨fun p hp f s t u a pa b he ha hb hd hu => ?alu, fun p hp f s u a pa he ha hd hu => ?una⟩
  case alu =>
    rw [exec_of_mem_aluTable hp, alu_of_ready (p.2 f) he ha hb hd, Host.Outcome.next.injEq] at hu
    have hreads := State.Reads.op2 hb
    obtain ⟨w, hcore⟩ := hreads.fcore
    have hfk : t.fk = s.fk := congrArg CoreRef.k hreads.focus
    have hfc : t.fc = s.fc := congrArg CoreRef.c hreads.focus
    rw [← hu, State.wroteX_eq_setCore, hfk, hfc, State.core_setCore_same, hcore]
    exact ⟨hreads.onlyRead _, Core.OnlyX.of_wcur (Core.OnlyX.wrote_advance { s.fcore with wcur := w } f.d _ _ 1 .running)⟩
  case una =>
    rw [exec_of_mem_unaryTable hp, una_of_ready (p.2 f) he ha hd, Host.Outcome.next.injEq] at hu
    rw [← hu, State.wroteX_eq_setCore, State.core_setCore_same]
    exact ⟨State.OnlyCore.setCore s _, Core.OnlyX.wrote_advance s.fcore f.d _ _ 1 .running⟩

end Sys2Proof.Machine
end

section
/-! Operand two in its three forms, and the operations of three sources (02 R28; 04 R53, R58, R59). -/

namespace Sys2Proof.Machine

/-! ## A word of a window of KIND 1 or 3 (02 R28) -/

/-- The values that the word at a has held since a window's snapshot, oldest first. -/
def State.heldWords (s : State) (x : Win) (a : Nat) : List (List Byte × Bool) :=
  x.vers.map (verWord a) ++ [(s.see a 8, badIn s.memBad a 8)]

/-- The oldest of them that the issuing core may still see. -/
def State.seenFrom (s : State) (x : Win) (a : Nat) : Nat := min (kget 0 s.fcore.wcur a - x.first) ((s.heldWords x a).length - 1)

theorem State.seenFrom_lt (s : State) (x : Win) (a : Nat) : s.seenFrom x a < (s.heldWords x a).length := by
  have hpos : 0 < (s.heldWords x a).length := by simp [State.heldWords]
  unfold State.seenFrom
  omega

theorem State.getLast?_heldWords (s : State) (x : Win) (a : Nat) :
    (s.heldWords x a).getLast? = some (s.see a 8, badIn s.memBad a 8) := by
  rw [State.heldWords, List.getLast?_append]; rfl

/-- The present word is one that may be seen. -/
theorem State.now_mem_drop_heldWords (s : State) (x : Win) (a : Nat) :
    (s.see a 8, badIn s.memBad a 8) ∈ (s.heldWords x a).drop (s.seenFrom x a) := by
  refine List.mem_of_getLast? ?_
  rw [List.getLast?_drop, if_neg (Nat.not_le.2 (s.seenFrom_lt x a)), s.getLast?_heldWords]

/-- A word of a live window inside its range: the present one where the word has held no other, else one by free choice. -/
theorem State.winRead_live {s : State} {w : BitVec 3} {o : BitVec 17} {x : Win} {a : Nat} (hx : vget s.fcore.win w.toNat {} = x)
    (hbound : x.bound = true) (hkind : x.reg.kind = 1 ∨ x.reg.kind = 3)
    (ha : a = (if x.reg.kind = 1 then padBase s.fk else 0) + (x.reg.ptr.toNat + 8 * o.toNat))
    (hlimit : x.reg.ptr.toNat + 8 * o.toNat + 8 ≤ x.reg.limit.toNat) (hregion : chipRegion a = 0) (hchip : s.chipOk a 8 = true)
    (hpad : s.limitOk s.fk x.reg = true) :
    let vals := s.heldWords x a
    let lo := s.seenFrom x a
    let now := (s.see a 8, badIn s.memBad a 8)
    let i := lo + Config.freeWord s.free % (vals.length - lo)
    let v := (vals[i]?).getD now
    s.winRead s.fk s.fc w o =
      if (vals.drop lo).all (· == now) then .ok (s, wNat (leNat now.1), now.2)
      else .ok (s.bump.modCore s.fk s.fc (fun r => { r with wcur := kset r.wcur a (x.first + i) }), wNat (leNat v.1), v.2) := by
  intro vals lo now i v
  have hbase : winBase s.fk x.reg + 8 * o.toNat = a := by
    rw [ha, winBase]
    rcases hkind with hk | hk <;> simp [hk, Nat.add_assoc]
  have hnot2 : x.reg.kind ≠ 2 := by rcases hkind with hk | hk <;> simp [hk]
  have hlast : (x.vers.map (verWord a) ++ [(s.see a 8, badIn s.memBad a 8)]).getLast?.getD ([], false) = now := by
    rw [← State.heldWords, s.getLast?_heldWords]; rfl
  unfold State.winRead
  simp only [hx, hbound, Bool.not_true, Bool.false_eq_true, if_false, Nat.not_lt.2 hlimit, hnot2, hbase, hregion, ne_eq, not_true_eq_false,
    hchip, hpad, or_self, hlast]
  rfl

theorem State.op2_win_ok {s t : State} {w : BitVec 3} {o : BitVec 17} {v : Word} {bad : Bool}
    (h : s.winRead s.fk s.fc w o = .ok (t, v, bad)) :
    s.op2 immS (.win w o) = .ok (t, ⟨v, bad, wNat (Config.freeWord s.free)⟩) := by
  simp only [State.op2, h, bind, Except.bind, pure, Except.pure]

theorem State.OnlyCore.bump_modCore (s : State) (f : Core → Core) : s.OnlyCore (s.bump.modCore s.fk s.fc f) := by
  rw [State.OnlyCore, State.core_modCore_same]
  rfl

/-- Some word that the core may see, and no other, is what a live window gives. -/
theorem State.op2_live {s : State} {w : BitVec 3} {o : BitVec 17} {x : Win} {a : Nat} (hx : vget s.fcore.win w.toNat {} = x)
    (hbound : x.bound = true) (hkind : x.reg.kind = 1 ∨ x.reg.kind = 3)
    (ha : a = (if x.reg.kind = 1 then padBase s.fk else 0) + (x.reg.ptr.toNat + 8 * o.toNat))
    (hlimit : x.reg.ptr.toNat + 8 * o.toNat + 8 ≤ x.reg.limit.toNat) (hregion : chipRegion a = 0) (hchip : s.chipOk a 8 = true)
    (hpad : s.limitOk s.fk x.reg = true) :
    ∃ t v id, s.op2 immS (.win w o) = .ok (t, ⟨wNat (leNat v.1), v.2, id⟩) ∧ v ∈ (s.heldWords x a).drop (s.seenFrom x a) ∧
      (t = s ∨ s.OnlyCore t) := by
  have hread := State.winRead_live hx hbound hkind ha hlimit hregion hchip hpad
  dsimp only at hread
  split at hread
  · exact ⟨s, _, _, State.op2_win_ok hread, s.now_mem_drop_heldWords x a, .inl rfl⟩
  · have hlt := s.seenFrom_lt x a
    have hi : s.seenFrom x a + Config.freeWord s.free % ((s.heldWords x a).length - s.seenFrom x a) < (s.heldWords x a).length := by
      have := Nat.mod_lt (Config.freeWord s.free) (Nat.sub_pos_of_lt hlt)
      omega
    refine ⟨_, _, _, State.op2_win_ok hread, ?_, .inr (State.OnlyCore.bump_modCore s _)⟩
    rw [List.getElem?_eq_getElem hi, Option.getD_some]
    exact List.mem_drop_iff_getElem.2 ⟨_, by omega, rfl⟩

/-- A word that has held one value since the snapshot is that value. -/
theorem State.op2_live_unchanged {s : State} {w : BitVec 3} {o : BitVec 17} {x : Win} {a : Nat} (hx : vget s.fcore.win w.toNat {} = x)
    (hbound : x.bound = true) (hkind : x.reg.kind = 1 ∨ x.reg.kind = 3)
    (ha : a = (if x.reg.kind = 1 then padBase s.fk else 0) + (x.reg.ptr.toNat + 8 * o.toNat))
    (hlimit : x.reg.ptr.toNat + 8 * o.toNat + 8 ≤ x.reg.limit.toNat) (hregion : chipRegion a = 0) (hchip : s.chipOk a 8 = true)
    (hpad : s.limitOk s.fk x.reg = true) (hsame : ∀ v ∈ x.vers, verWord a v = (s.see a 8, badIn s.memBad a 8)) :
    ∃ id, s.op2 immS (.win w o) = .ok (s, ⟨wNat (leNat (s.see a 8)), badIn s.memBad a 8, id⟩) := by
  have hall : ((s.heldWords x a).drop (s.seenFrom x a)).all (· == (s.see a 8, badIn s.memBad a 8)) = true := by
    refine List.all_eq_true.2 (fun v hv => beq_iff_eq.2 ?_)
    rcases List.mem_append.1 (List.mem_of_mem_drop hv) with hold | hnow
    · obtain ⟨y, hy, rfl⟩ := List.mem_map.1 hold
      exact hsame y hy
    · exact List.mem_singleton.1 hnow
  have hread := State.winRead_live hx hbound hkind ha hlimit hregion hchip hpad
  simp only [hall, if_true] at hread
  exact ⟨_, State.op2_win_ok hread⟩

/-! ## What a window refuses, and a word of KIND 2 (02 R28) -/

theorem State.op2_win_error {s : State} {w : BitVec 3} {o : BitVec 17} {e : Stop} (h : s.winRead s.fk s.fc w o = .error e) :
    s.op2 immS (.win w o) = .error e := by
  simp only [State.op2, h, bind, Except.bind]

theorem State.winRead_unbound {s : State} {w : BitVec 3} {o : BitVec 17} (h : (vget s.fcore.win w.toNat {}).bound = false) :
    s.winRead s.fk s.fc w o = .error (.trap cBOUNDS (wNat (8 * o.toNat))) := by
  unfold State.winRead
  simp only [h, Bool.not_false, if_true, trap]

theorem State.winRead_beyond {s : State} {w : BitVec 3} {o : BitVec 17} {x : Win} (hx : vget s.fcore.win w.toNat {} = x)
    (hbound : x.bound = true) (h : x.reg.limit.toNat < x.reg.ptr.toNat + 8 * o.toNat + 8) :
    s.winRead s.fk s.fc w o = .error (.trap cBOUNDS (wNat (x.reg.ptr.toNat + 8 * o.toNat))) := by
  unfold State.winRead
  simp only [hx, hbound, Bool.not_true, Bool.false_eq_true, if_false, h, if_true, trap]

/-- A KIND 2 window inside its limit: the checks of its buffer, then the snapshot's word. -/
theorem State.winRead_buffer {s : State} {w : BitVec 3} {o : BitVec 17} {x : Win} {addr : Nat} (hx : vget s.fcore.win w.toNat {} = x)
    (hbound : x.bound = true) (haddr : addr = x.reg.ptr.toNat + 8 * o.toNat) (hlimit : addr + 8 ≤ x.reg.limit.toNat)
    (hkind : x.reg.kind = 2) :
    s.winRead s.fk s.fc w o = (do
      s.checkBuf s.fk x.reg.bind.toNat addr 8 .read
      let (bs, bad) := s.winBuf x.reg.bind.toNat addr (x.vers.head?.getD ([], []))
      pure ((s.noteWinSubst x.reg.bind.toNat addr (x.vers.head?.getD ([], []))).sawBuf s.fk s.fc x.reg.bind.toNat x.first,
        wNat (leNat bs), bad)) := by
  unfold State.winRead
  simp only [hx, hbound, Bool.not_true, Bool.false_eq_true, if_false, ← haddr, Nat.not_lt.2 hlimit, hkind, if_true]

theorem State.OnlyCore.modCore (s : State) (f : Core → Core) : s.OnlyCore (s.modCore s.fk s.fc f) := State.OnlyCore.setCore s _

theorem State.sawBuf_onlyCore (s : State) (h first : Nat) : s.sawBuf s.fk s.fc h first = s ∨ s.OnlyCore (s.sawBuf s.fk s.fc h first) := by
  unfold State.sawBuf
  split
  · exact .inr (State.OnlyCore.modCore s _)
  · exact .inl rfl

theorem operandTwoForms : OperandTwoForms := by
  refine ⟨fun s j w md v bad h => State.op2_reg h, fun s v => State.op2_imm s immS v, ?live, ?refused⟩
  case live =>
    intro s w o x a hx hbound hkind ha hlimit hregion hchip hpad
    exact ⟨State.op2_live hx hbound hkind ha hlimit hregion hchip hpad,
      State.op2_live_unchanged hx hbound hkind ha hlimit hregion hchip hpad⟩
  case refused =>
    intro s w o x addr h stops
    refine ⟨fun hbound => State.op2_win_error (State.winRead_unbound hbound),
      fun hbound hlimit => State.op2_win_error (State.winRead_beyond rfl hbound hlimit), fun hbound hlimit hkind => ?_⟩
    have hread := State.winRead_buffer (s := s) (w := w) (o := o) rfl hbound rfl hlimit hkind
    refine ⟨fun hlease => State.op2_win_error ?noLease, fun hlease hlost => State.op2_win_error ?lost, ?word⟩
    case noLease => rw [hread, State.checkBuf, hlease]; rfl
    case lost => rw [hread, State.checkBuf, hlease, hlost]; rfl
    case word =>
      intro b m bad hlease hlost hbuf htol hvers
      have hcheck : s.checkBuf s.fk h addr 8 .read = .ok () := by
        rw [State.checkBuf, hlease, hlost]; rfl
      have hnote (v : Mem × NSet) : s.noteWinSubst h addr v = s := by
        simp [State.noteWinSubst, hbuf, htol]
      have hword : s.winBuf h addr (m, bad) = (m.read (bufKey h addr) 8, badIn bad (bufKey h addr) 8) := by
        simp [State.winBuf, hbuf, htol, verWord]
      rw [hcheck, hnote, hvers, List.head?_cons, Option.getD_some, hword] at hread
      exact ⟨_, _, State.op2_win_ok hread, s.sawBuf_onlyCore h x.first, fun hspec => by simp [State.sawBuf, hspec]⟩

/-! ## Three sources (04 R58, R59) -/

theorem bitOf_eq_testBit (v i : Nat) : bitOf v i = v.testBit i := by
  rw [Nat.testBit_eq_decide_div_mod_eq, bitOf, Bool.beq_eq_decide_eq]

/-- One of the eight terms of the table: present where its bit is, and there where the three sources are as it says. -/
theorem getLsbD_ite_zero (c : Bool) (x : Word) (i : Nat) : (if c then x else 0).getLsbD i = (c && x.getLsbD i) := by
  cases c
  · exact BitVec.getLsbD_zero
  · rfl

theorem bitOf_modifier {md : BitVec 16} {k : Nat} (hk : k < 8) : bitOf (md.toNat % 256) k = md.getLsbD k := by
  rw [bitOf_eq_testBit, show (256 : Nat) = 2 ^ 8 from rfl, Nat.testBit_mod_two_pow, decide_eq_true hk, Bool.true_and, BitVec.getLsbD]

/-- Each bit of LUT3's result is the table's at the three source bits. -/
theorem getLsbD_lut3W (md : BitVec 16) (a b d : Word) {i : Nat} (hi : i < 64) :
    (lut3W (md.toNat % 256) a b d).getLsbD i =
      md.getLsbD ((a.getLsbD i).toNat * 4 + (b.getLsbD i).toNat * 2 + (d.getLsbD i).toNat) := by
  have hbit (k : Nat) (hk : k < 8) := bitOf_modifier (md := md) hk
  simp only [lut3W, BitVec.getLsbD_or, getLsbD_ite_zero, BitVec.getLsbD_and, BitVec.getLsbD_not, hi, decide_true, Bool.true_and,
    hbit 0 (by decide), hbit 1 (by decide), hbit 2 (by decide), hbit 3 (by decide), hbit 4 (by decide), hbit 5 (by decide),
    hbit 6 (by decide), hbit 7 (by decide)]
  cases a.getLsbD i <;> cases b.getLsbD i <;> cases d.getLsbD i <;> simp

/-- The mask of a field: one bits from pos on, len of them. -/
theorem getLsbD_fieldMask {pos len i : Nat} (hi : i < 64) :
    (wNat ((2 ^ len - 1) * 2 ^ pos)).getLsbD i = (decide (pos ≤ i) && decide (i < pos + len)) := by
  rw [wNat, BitVec.getLsbD_ofNat, decide_eq_true hi, Bool.true_and, Nat.testBit_mul_two_pow, Nat.testBit_two_pow_sub_one]
  by_cases hpos : pos ≤ i
  · simp only [hpos, decide_true, Bool.true_and, decide_eq_decide]
    omega
  · simp [hpos]

/-- The masked merge of a field into a word. -/
theorem getLsbD_insertField (a d : Word) {pos len i : Nat} (hi : i < 64) :
    ((d &&& ~~~wNat ((2 ^ len - 1) * 2 ^ pos)) ||| ((a <<< pos) &&& wNat ((2 ^ len - 1) * 2 ^ pos))).getLsbD i =
      if pos ≤ i ∧ i < pos + len then a.getLsbD (i - pos) else d.getLsbD i := by
  simp only [BitVec.getLsbD_or, BitVec.getLsbD_and, BitVec.getLsbD_not, BitVec.getLsbD_shiftLeft, getLsbD_fieldMask hi, hi, decide_true,
    Bool.true_and]
  by_cases hlow : pos ≤ i <;> by_cases hhigh : i < pos + len <;> simp [hlow, hhigh]

theorem execLut3_of_holds {f : FmtS} {s : State} {a b d : Word} {pa pb pd : Bool} {s2 : BitVec 5} {w2 : Bool} {md : BitVec 16}
    (he : s.Enabled f.g) (hf : f.b = .reg s2 w2 md) (ha : s.fcore.Holds f.s1 a pa) (hb : s.fcore.Holds s2 b pb)
    (hd : s.fcore.Holds f.d d pd) : execLut3 f s = .next (s.wroteX f.d (lut3W (md.toNat % 256) a b d) (pa || pb || pd)) := by
  unfold execLut3
  rw [alu3_of_holds _ he ha (by rw [hf]; exact State.op2_reg hb) hd, hf]
  rfl

theorem execBfi_of_holds {f : FmtS} {s : State} {a d : Word} {pa pd : Bool} {m : BitVec 21} (he : s.Enabled f.g) (hf : f.b = .imm m)
    (ha : s.fcore.Holds f.s1 a pa) (hd : s.fcore.Holds f.d d pd) :
    let mask := wNat ((2 ^ bfLen f.b - 1) * 2 ^ bfPos f.b)
    execBfi f s = .next (s.wroteX f.d ((d &&& ~~~mask) ||| ((a <<< bfPos f.b) &&& mask)) (pa || pd)) := by
  intro mask
  unfold execBfi
  rw [alu3_of_holds _ he ha (by rw [hf]; exact State.op2_imm s immS m) hd, Bool.or_false]

theorem execSel_of_holds {f : FmtS} {s : State} {a b : Word} {pa pb : Bool} {s2 : BitVec 5} {w2 : Bool} {md : BitVec 16}
    (he : s.Enabled f.g) (hf : f.b = .reg s2 w2 md) (ha : s.fcore.Holds f.s1 a pa) (hb : s.fcore.Holds s2 b pb)
    (hd : s.fcore.Ready f.d) :
    execSel f s = .next (s.wroteX f.d (if s.fcore.pred (md.toNat % 16) then a else b) (pa || pb)) := by
  unfold execSel
  exact onCore_ok he (by
    simp [hf, Core.readX_of_holds ha, Core.readX_of_holds hb, modBits, Core.writeX_of_ready hd, bind, Except.bind])

theorem scalarThreeSource : ScalarThreeSource := by
  refine ⟨fun f s a b d pa pb pd s2 w2 md he hf ha hb hd => ⟨_, fun i hi => getLsbD_lut3W md a b d hi, ?lut3⟩,
    fun f s a d pa pd m he hf _ ha hd => ⟨_, fun i hi => getLsbD_insertField a d hi, ?bfi⟩,
    fun f s a b pa pb s2 w2 md he hf ha hb hd => execSel_of_holds he hf ha hb hd⟩
  case lut3 => exact execLut3_of_holds he hf ha hb hd
  case bfi => exact execBfi_of_holds he hf ha hd

/-- Settles O3: operand two by its forms, and the three operations by their functions bit for bit. -/
theorem operandTwoAndThreeSource : Obligations.OperandTwoAndThreeSource := ⟨operandTwoForms, scalarThreeSource⟩

end Sys2Proof.Machine
end

section
/-! Compares and predicates (04 R60, R61; 02 R14, R21): a predicate after a write to any predicate, what an enabled compare does, and
the instructions that move predicates. -/

namespace Sys2Proof.Machine

/-! ## Bits -/

theorem getLsbD_ofNat_two_pow {n i j : Nat} (hj : j < n) : (BitVec.ofNat n (2 ^ i)).getLsbD j = decide (i = j) := by
  rw [BitVec.getLsbD_ofNat, Nat.testBit_two_pow, decide_eq_true hj, Bool.true_and]

theorem getLsbD_setBit {n i j : Nat} (hj : j < n) (v : BitVec n) (b : Bool) :
    (setBit v i b).getLsbD j = if i = j then b else v.getLsbD j := by
  unfold setBit
  split
  · next hb => rw [BitVec.getLsbD_or, getLsbD_ofNat_two_pow hj]; split <;> simp [*]
  · next hb => rw [BitVec.getLsbD_and, BitVec.getLsbD_not, getLsbD_ofNat_two_pow hj]; split <;> simp [*]

/-- A sum of distinct powers of two is the number of its bits. -/
theorem sum_two_pow_eq_ofBits (p : Nat → Bool) (n : Nat) :
    ((List.range n).map (fun i => (p i).toNat * 2 ^ i)).sum = Nat.ofBits (fun i : Fin n => p i) := by
  induction n generalizing p with
  | zero => rfl
  | succ n ih =>
    have hshift : ((List.range n).map (fun i => (p (i + 1)).toNat * 2 ^ (i + 1))).sum =
        2 * ((List.range n).map (fun i => (p (i + 1)).toNat * 2 ^ i)).sum := by
      rw [← List.sum_map_mul_left]
      exact congrArg List.sum (List.map_congr_left fun i _ => by rw [pow_succ]; ring)
    have htail : (fun i : Fin (n + 1) => p i) ∘ Fin.succ = fun i : Fin n => p (i + 1) := funext fun i => congrArg p (Fin.val_succ i)
    rw [Nat.ofBits_succ, htail, ← ih (fun i => p (i + 1)), ← hshift, List.range_succ_eq_map, List.map_cons, List.sum_cons, List.map_map]
    simp only [pow_zero, mul_one, Fin.val_zero, Nat.add_comm]
    rfl

/-! ## Writes to predicates (02 R14, R21) -/

/-- No two names of a file are one register. -/
theorem rot_inj {f n : Nat} {rb : Word} {i j : Nat} (hi : i < f + n) (hj : j < f + n) (h : rot f n rb i = rot f n rb j) : i = j := by
  unfold rot at h
  split at h <;> split at h
  · exact h
  · omega
  · omega
  · have hmod : (i - f + rb.toNat) % n = (j - f + rb.toNat) % n := by omega
    have hsame : (i - f) % n = (j - f) % n := Nat.ModEq.add_right_cancel' rb.toNat hmod
    rw [Nat.mod_eq_of_lt (by omega), Nat.mod_eq_of_lt (by omega)] at hsame
    omega

@[simp] theorem Core.setPred_rbase (r : Core) (i : Nat) (b : Bool) : (r.setPred i b).rbase = r.rbase := by
  unfold Core.setPred; split <;> rfl

/-- A predicate after a write to any predicate: P0 stays 1. -/
theorem Core.pred_setPred (r : Core) {i j : Nat} (hi : i < 16) (hj : j < 16) (b : Bool) :
    (r.setPred i b).pred j = if i ≠ 0 ∧ i = j then b else r.pred j := by
  by_cases hi0 : i = 0
  · simp [Core.setPred, hi0]
  · have hbit : r.pp i = r.pp j ↔ i = j := ⟨rot_inj hi hj, fun h => by rw [h]⟩
    have hlt : r.pp j < 16 := rot_lt 8 8 r.rbase j (by decide) hj
    have hpp : ({ r with p := setBit r.p (r.pp i) b, livep := setBit r.livep (r.pp i) true } : Core).pp j = r.pp j := rfl
    rw [Core.pred, Core.pred, Core.setPred, if_neg hi0, hpp, getLsbD_setBit hlt]
    simp only [hbit]
    by_cases hij : i = j
    · subst hij; simp [hi0]
    · simp [hij]

theorem Core.setPred_eq_with (r : Core) (i : Nat) (b : Bool) :
    r.setPred i b = { r with p := (r.setPred i b).p, livep := (r.setPred i b).livep } := by
  unfold Core.setPred; split <;> rfl

/-- What the two writes of a pair are, by its mode. -/
def Core.pairOuts (r : Core) (pd pe : BitVec 4) (mode : BitVec 2) (c : Bool) : Bool × Bool :=
  match mode.toNat with
  | 0 => (c, !c)
  | 1 => (r.pred pd.toNat && c, r.pred pe.toNat && !c)
  | 2 => (r.pred pd.toNat || c, r.pred pe.toNat || !c)
  | _ => (c, r.pred pe.toNat)

/-- A pair is written first to its first name, then, but under mode 3, to its second. -/
theorem Core.setPair_eq (r : Core) (pd pe : BitVec 4) (mode : BitVec 2) (c : Bool) :
    r.setPair pd pe mode c = if mode = 3 then r.setPred pd.toNat c
      else (r.setPred pd.toNat (r.pairOuts pd pe mode c).1).setPred pe.toNat (r.pairOuts pd pe mode c).2 := by
  obtain rfl | rfl | rfl | rfl : mode = 0 ∨ mode = 1 ∨ mode = 2 ∨ mode = 3 := by
    revert mode; decide
  all_goals rfl

theorem Core.pairOuts_three (r : Core) (pd pe : BitVec 4) (c : Bool) : r.pairOuts pd pe 3 c = (c, r.pred pe.toNat) := rfl

theorem Core.setPair_eq_with (r : Core) (pd pe : BitVec 4) (mode : BitVec 2) (c : Bool) :
    r.setPair pd pe mode c = { r with p := (r.setPair pd pe mode c).p, livep := (r.setPair pd pe mode c).livep } := by
  rw [Core.setPair_eq]
  split
  · exact r.setPred_eq_with _ _
  · rw [Core.setPred_eq_with, r.setPred_eq_with]

/-- A predicate after the writes of a pair. -/
theorem Core.pred_setPair (r : Core) (pd pe j : BitVec 4) (mode : BitVec 2) (c : Bool) :
    (r.setPair pd pe mode c).pred j.toNat =
      if mode ≠ 3 ∧ pe ≠ 0 ∧ pe = j then (r.pairOuts pd pe mode c).2
      else if pd ≠ 0 ∧ pd = j then (r.pairOuts pd pe mode c).1 else r.pred j.toNat := by
  have hzero (x : BitVec 4) : x.toNat ≠ 0 ↔ x ≠ 0 := by rw [ne_eq, ne_eq, ← BitVec.toNat_inj]; rfl
  rw [Core.setPair_eq]
  split
  · next hmode =>
    subst hmode
    simp only [Core.pred_setPred _ pd.isLt j.isLt, hzero, BitVec.toNat_inj, ne_eq, not_true_eq_false, false_and, if_false,
      Core.pairOuts_three]
  · next hmode =>
    simp only [Core.pred_setPred _ pd.isLt j.isLt, Core.pred_setPred _ pe.isLt j.isLt, hzero, BitVec.toNat_inj, ne_eq, hmode,
      not_false_eq_true, true_and]

theorem predicatePairs : PredicatePairs := by
  intro r pd pe mode c
  have hp := r.pred_setPair pd pe (mode := mode) (c := c)
  refine ⟨fun hpd hne => ?first, fun hpe hsecond => ?second, rfl, fun j hd he => ?others, ?frame⟩
  case first => rw [hp, if_neg fun h => hne h.2.2.symm, if_pos ⟨hpd, rfl⟩]; rfl
  case second =>
    rw [hp]
    by_cases hmode : mode = 3
    · subst hmode
      obtain hne | habs := hsecond
      · rw [if_neg fun h => h.1 rfl, if_neg fun h => hne h.2]; rfl
      · exact absurd rfl habs
    · rw [if_pos ⟨hmode, hpe, rfl⟩]; rfl
  case others => rw [hp, if_neg fun h => he h.2.2.symm, if_neg fun h => hd h.2.symm]
  case frame => rw [r.setPair_eq_with]; exact ⟨rfl, rfl, rfl, rfl, rfl⟩

/-! ## Compares (04 R60) -/

theorem compare_of_second {f : FmtC} {s : State} {im : BitVec 16 → Word} {a b : Word} (fn : Word → Word → Bool) (he : s.Enabled f.g)
    (ha : s.fcore.Holds f.s1 a false) (hb : s.fcore.Second f im b) :
    compare f s im fn = .next ((s.putCore (s.fcore.setPair f.pd f.pe f.mode (fn a b))).retire s.fk s.fc 1) := by
  unfold compare
  exact onCore_ok he (by simp [Core.pairOf_of_second ha hb, bind, Except.bind, pure, Except.pure])

theorem test_of_holds {f : FmtC} {s : State} {a : Word} (fn : Word → Bool) (he : s.Enabled f.g) (ha : s.fcore.Holds f.s1 a false) :
    test f s fn = .next ((s.putCore (s.fcore.setPair f.pd f.pe f.mode (fn a))).retire s.fk s.fc 1) := by
  unfold test
  exact onCore_ok he (by simp [Core.useX_of_holds ha, bind, Except.bind, pure, Except.pure])

theorem exec_of_mem_cmpTable {p : (FmtC → Instr) × (BitVec 16 → Word) × (Word → Word → Bool)} (hp : p ∈ cmpTable) (f : FmtC)
    (s : State) : exec (p.1 f) s = compare f s p.2.1 p.2.2 := by
  simp only [cmpTable, List.mem_cons, List.not_mem_nil, or_false] at hp
  have hne : (fun a b : Word => a != b) = fun a b => decide (a ≠ b) := funext₂ fun a b => by rw [bne, Bool.beq_eq_decide_eq, decide_not]
  rcases hp with rfl | rfl | rfl | rfl | rfl | rfl | rfl | rfl | rfl | rfl
  exacts [rfl, congrArg (compare f s im16S) hne, rfl, rfl, rfl, rfl, rfl, rfl, rfl, rfl]

/-- Settles O4: the shared operations of the compares and of TST. -/
theorem scalarCompares : Obligations.ScalarCompares := by
  refine ⟨fun p hp f s a b he ha hb => ?compares, fun f s a he ha => ⟨?zero, ?nonzero⟩⟩
  case compares => rw [exec_of_mem_cmpTable hp]; exact compare_of_second p.2.2 he ha hb
  case zero => exact test_of_holds (fun a => decide (a = 0)) he ha
  case nonzero =>
    rw [show decide (a ≠ 0) = (a != 0) by rw [bne, Bool.beq_eq_decide_eq, decide_not]]
    exact test_of_holds (fun a => a != 0) he ha

/-! ## PLUT, PGET and PPUT (04 R61) -/

theorem execPlut_of_reg {f : FmtS} {s : State} {s2 : BitVec 5} {w2 : Bool} {md : BitVec 16} (he : s.Enabled f.g)
    (hb : f.b = .reg s2 w2 md) :
    execPlut f s = .next ((s.putCore (s.fcore.setPred (f.d.toNat % 16) (md.getLsbD
      ((s.fcore.pred (f.s1.toNat % 16)).toNat * 4 + (s.fcore.pred (s2.toNat % 16)).toNat * 2 +
        (s.fcore.pred (md.toNat / 256 % 16)).toNat)))).retire s.fk s.fc 1) := by
  have htable (x y z : Bool) : ttAt (BitVec.ofNat 8 md.toNat) x y z = md.getLsbD (x.toNat * 4 + y.toNat * 2 + z.toNat) := by
    have hlt : x.toNat * 4 + y.toNat * 2 + z.toNat < 8 := by revert x y z; decide
    rw [ttAt, BitVec.getLsbD_ofNat, decide_eq_true hlt, Bool.true_and, BitVec.getLsbD]
  unfold execPlut
  exact onCore_ok he (by rw [hb]; simp only [modBits, htable])

/-- The sixteen predicates as a word, each at its name. -/
def Core.predWord (r : Core) : Word := wNat (((List.range 16).map (fun i => (r.pred i).toNat * 2 ^ i)).sum)

theorem Core.getLsbD_predWord (r : Core) {i : Nat} (hi : i < 64) : r.predWord.getLsbD i = (decide (i < 16) && r.pred i) := by
  rw [Core.predWord, wNat, BitVec.getLsbD_ofNat, decide_eq_true hi, Bool.true_and, sum_two_pow_eq_ofBits, Nat.testBit_ofBits]
  by_cases h : i < 16 <;> simp [h]

theorem execPget_of_ready {f : FmtS} {s : State} (he : s.Enabled f.g) (hd : s.fcore.Ready f.d) :
    execPget f s = .next (s.wroteX f.d s.fcore.predWord false) := by
  unfold execPget
  exact onCore_ok he (Core.writeX_of_ready hd _ _)

/-- The core after PPUT has written the predicates below n that a mask names. -/
def Core.putPreds (r : Core) (mask x n : Nat) : Core :=
  (List.range n).foldl (fun r i => if i ≠ 0 ∧ bitOf mask i then r.setPred i (bitOf x i) else r) r

theorem Core.putPreds_succ (r : Core) (mask x n : Nat) : r.putPreds mask x (n + 1) =
    if n ≠ 0 ∧ bitOf mask n then (r.putPreds mask x n).setPred n (bitOf x n) else r.putPreds mask x n := by
  rw [Core.putPreds, List.range_succ, List.foldl_append]; rfl

theorem Core.putPreds_eq_with (r : Core) (mask x n : Nat) :
    r.putPreds mask x n = { r with p := (r.putPreds mask x n).p, livep := (r.putPreds mask x n).livep } := by
  induction n with
  | zero => rfl
  | succ n ih =>
    rw [Core.putPreds_succ]
    split
    · rw [Core.setPred_eq_with, ih]
    · exact ih

theorem Core.pred_putPreds (r : Core) (mask x : Nat) {n j : Nat} (hn : n ≤ 16) (hj : j < 16) :
    (r.putPreds mask x n).pred j = if j < n ∧ j ≠ 0 ∧ bitOf mask j then bitOf x j else r.pred j := by
  induction n with
  | zero => simp [Core.putPreds]
  | succ n ih =>
    have ih := ih (by omega)
    rw [Core.putPreds_succ]
    by_cases hwrites : n ≠ 0 ∧ bitOf mask n
    · rw [if_pos hwrites, Core.pred_setPred _ (by omega) hj, ih]
      by_cases hjn : n = j
      · subst hjn; simp [hwrites]
      · rw [if_neg (by tauto)]
        have : j < n + 1 ↔ j < n := by omega
        simp only [this]
    · rw [if_neg hwrites, ih]
      have : (j < n + 1 ∧ j ≠ 0 ∧ bitOf mask j = true) ↔ (j < n ∧ j ≠ 0 ∧ bitOf mask j = true) :=
        ⟨fun ⟨hlt, hw⟩ => ⟨Nat.lt_of_le_of_ne (Nat.le_of_lt_succ hlt) fun h => hwrites (h ▸ hw), hw⟩,
          fun ⟨hlt, hw⟩ => ⟨Nat.lt_succ_of_lt hlt, hw⟩⟩
      simp only [this]

theorem execPput_of_holds {f : FmtS} {s : State} {m : BitVec 21} {x : Word} (he : s.Enabled f.g) (hb : f.b = .imm m)
    (hx : s.fcore.Holds f.s1 x false) :
    execPput f s = .next ((s.putCore (s.fcore.putPreds m.toNat x.toNat 16)).retire s.fk s.fc 1) := by
  unfold execPput
  exact onCore_ok he (by simp [Core.useX_of_holds hx, hb, Core.putPreds, bind, Except.bind, pure, Except.pure])

theorem predicateMoves : PredicateMoves := by
  refine ⟨fun f s s2 w2 md he hb => execPlut_of_reg he hb,
    fun f s he hd => ⟨s.fcore.predWord, fun i hi => s.fcore.getLsbD_predWord hi, execPget_of_ready he hd⟩,
    fun f s m x he hb hx => ⟨s.fcore.putPreds m.toNat x.toNat 16, fun j => ?_, s.fcore.putPreds_eq_with _ _ _,
      execPput_of_holds he hb hx⟩⟩
  have hzero : j.toNat ≠ 0 ↔ j ≠ 0 := by rw [ne_eq, ne_eq, ← BitVec.toNat_inj]; rfl
  simp only [s.fcore.pred_putPreds _ _ (Nat.le_refl 16) j.isLt, j.isLt, true_and, bitOf_eq_testBit, BitVec.getLsbD, hzero]

/-- Settles O5: a predicate after a pair of writes, and the three moves. -/
theorem predicates : Obligations.Predicates := ⟨predicatePairs, predicateMoves⟩

end Sys2Proof.Machine
end

section
/-! Address registers (04 R66; 02 R18, R19): a moved pointer, a narrowed range, the copies and AGET, each by what its operand and its
source are. -/

namespace Sys2Proof.Machine

theorem Val.use_poisoned {b : Val} (h : b.bad = true) : b.use = .error (.trap cPOISON b.id) := by
  simp only [Val.use, h, if_true, trap]

theorem Val.use_good {b : Val} (h : b.bad = false) : b.use = .ok b.v := by
  simp only [Val.use, h, Bool.false_eq_true, if_false]

/-- A pointer of a register with a KIND is good between BASE and LIMIT (02 R19). -/
theorem AReg.ptrOk_iff {a : AReg} (hk : a.kind ≠ 0) (p : Int) : a.ptrOk p = true ↔ (a.base.toNat : Int) ≤ p ∧ p ≤ a.limit.toNat := by
  simp only [AReg.ptrOk, bne_iff_ne.2 hk, Bool.true_and, Bool.and_eq_true, decide_eq_true_eq]

theorem checkPtr_ok {a : AReg} {p : Int} (h : a.ptrOk p = true) : checkPtr a p = .ok () := by
  simp only [checkPtr, h, if_true]

theorem checkPtr_error {a : AReg} {p : Int} (h : a.ptrOk p = false) : checkPtr a p = .error (.trap cBOUNDS (BitVec.ofInt 64 p)) := by
  simp only [checkPtr, h, Bool.false_eq_true, if_false, trap, w64]

/-! ## ASET, AADD and ANRW -/

section
variable {f : FmtS} {s t : State} {b : Val} (he : s.Enabled f.g) (hb : s.op2 immS f.b = .ok (t, b))
include he hb

theorem movePtr_null (p0 : AReg → Word) (hk : (t.fcore.areg (aIdx f.s1)).kind = 0) :
    movePtr f s p0 = .next (s.stopped s.fk s.fc (.trap cBOUNDS 0)) := by
  unfold movePtr
  exact guarded_error he (by simp only [hb, hk, if_true, trap, bind, Except.bind])

theorem movePtr_poisoned (p0 : AReg → Word) (hk : (t.fcore.areg (aIdx f.s1)).kind ≠ 0) (hbad : b.bad = true) :
    movePtr f s p0 = .next (s.stopped s.fk s.fc (.trap cPOISON b.id)) := by
  unfold movePtr
  exact guarded_error he (by simp only [hb, hk, if_false, Val.use_poisoned hbad, bind, Except.bind])

/-- The pointer goes where the sum is, between BASE and LIMIT, or BOUNDS names the sum. -/
theorem movePtr_good (p0 : AReg → Word) (hk : (t.fcore.areg (aIdx f.s1)).kind ≠ 0) (hgood : b.bad = false) :
    let a := t.fcore.areg (aIdx f.s1)
    let p : Int := (p0 a).toNat + b.v.toInt
    if (a.base.toNat : Int) ≤ p ∧ p ≤ a.limit.toNat then
      movePtr f s p0 = .next ((t.putCore (t.fcore.setA (aIdx f.d) { a with ptr := BitVec.ofInt 64 p })).retire t.fk t.fc 1)
    else movePtr f s p0 = .next (s.stopped s.fk s.fc (.trap cBOUNDS (BitVec.ofInt 64 p))) := by
  intro a p
  unfold movePtr
  split
  · next hin =>
    rw [State.fk, State.fc, State.op2_focus hb]
    exact guarded_ok he (by
      simp only [hb, hk, if_false, Val.use_good hgood, checkPtr_ok ((AReg.ptrOk_iff hk p).2 hin), w64, bind, Except.bind, pure,
        Except.pure, p, a])
  · next hout =>
    exact guarded_error he (by
      simp only [hb, hk, if_false, Val.use_good hgood, checkPtr_error (Bool.eq_false_iff.2 (mt (AReg.ptrOk_iff hk p).1 hout)), bind,
        Except.bind, p, a])

theorem execAnrw_null (hk : (t.fcore.areg (aIdx f.s1)).kind = 0) :
    execAnrw f s = .next (s.stopped s.fk s.fc (.trap cBOUNDS 0)) := by
  unfold execAnrw
  exact guarded_error he (by simp only [hb, hk, if_true, trap, bind, Except.bind])

theorem execAnrw_poisoned (hk : (t.fcore.areg (aIdx f.s1)).kind ≠ 0) (hbad : b.bad = true) :
    execAnrw f s = .next (s.stopped s.fk s.fc (.trap cPOISON b.id)) := by
  unfold execAnrw
  exact guarded_error he (by simp only [hb, hk, if_false, Val.use_poisoned hbad, bind, Except.bind])

/-- The new range is [PTR, PTR + b) for a length that is not negative and ends within LIMIT. -/
theorem execAnrw_good (hk : (t.fcore.areg (aIdx f.s1)).kind ≠ 0) (hgood : b.bad = false) :
    let a := t.fcore.areg (aIdx f.s1)
    let lim : Int := a.ptr.toNat + b.v.toInt
    if 0 ≤ b.v.toInt ∧ lim ≤ a.limit.toNat then
      execAnrw f s = .next ((t.putCore (t.fcore.setA (aIdx f.d) { a with
        base := a.ptr
        limit := BitVec.ofInt 64 lim
        rights := match f.b with | .reg _ _ md => a.rights &&& md.truncate 5 | _ => a.rights })).retire t.fk t.fc 1)
    else execAnrw f s = .next (s.stopped s.fk s.fc (.trap cBOUNDS (BitVec.ofInt 64 lim))) := by
  intro a lim
  have hbad : (b.v.toInt < 0 ∨ (a.limit.toNat : Int) < lim) ↔ ¬ (0 ≤ b.v.toInt ∧ lim ≤ a.limit.toNat) := by omega
  unfold execAnrw
  split
  · next hin =>
    have hnot := mt hbad.1 (not_not.2 hin)
    rw [State.fk, State.fc, State.op2_focus hb]
    refine guarded_ok he ?_
    simp only [hb, hk, if_false, Val.use_good hgood, bind, Except.bind]
    exact if_neg hnot
  · next hout =>
    refine guarded_error he ?_
    simp only [hb, hk, if_false, Val.use_good hgood, bind, Except.bind]
    exact if_pos (hbad.2 hout)

end

/-! ## ACAP, AMOV and AGET -/

theorem execAcap_of_imm {f : FmtS} {s : State} {v : BitVec 21} (he : s.Enabled f.g) (hb : f.b = .imm v) :
    execAcap f s = .next ((s.putCore (s.fcore.setA (aIdx f.d) ((s.bank s.fk).slotCap s.fc v.toNat))).retire s.fk s.fc 1) := by
  unfold execAcap
  exact guarded_ok he (by simp only [hb])

theorem execAmov_enabled {f : FmtS} {s : State} (he : s.Enabled f.g) :
    execAmov f s = .next ((s.putCore (s.fcore.setA (aIdx f.d) (s.fcore.areg (aIdx f.s1)))).retire s.fk s.fc 1) := by
  unfold execAmov
  exact onCore_ok he rfl

theorem execAget_of_imm {f : FmtS} {s : State} {v : BitVec 21} (he : s.Enabled f.g) (hb : f.b = .imm v) (hd : s.fcore.Ready f.d) :
    execAget f s = .next (s.wroteX f.d (((s.fcore.areg (aIdx f.s1)).words[v.toNat]?).getD 0) false) := by
  unfold execAget
  exact onCore_ok he (by simp only [hb, Core.writeX_of_ready hd])

/-- Settles O7: each address-register instruction by its own lemmas, the three that move or narrow by the case of their source. -/
theorem addressRegisters : Obligations.AddressRegisters := by
  refine ⟨fun f s v he hb => execAcap_of_imm he hb, fun f s he => execAmov_enabled he, ?moves,
    fun f s v he hb _ hd => execAget_of_imm he hb hd⟩
  case moves =>
    rintro f s t b a he hb rfl
    simp only [List.mem_cons, List.not_mem_nil, or_false, forall_eq_or_imp, forall_eq]
    exact ⟨fun hk => ⟨movePtr_null he hb _ hk, movePtr_null he hb _ hk, execAnrw_null he hb hk⟩,
      fun hk hbad => ⟨movePtr_poisoned he hb _ hk hbad, movePtr_poisoned he hb _ hk hbad, execAnrw_poisoned he hb hk hbad⟩,
      fun hk hgood => ⟨movePtr_good he hb AReg.base hk hgood, movePtr_good he hb AReg.ptr hk hgood, execAnrw_good he hb hk hgood⟩⟩

end Sys2Proof.Machine
end

section
/-! The checks of a scalar access (01 R9; 02 R19; 04 R67, R68): the address and the new pointer by the mode, the order of the checks,
and the check of each kind. -/

namespace Sys2Proof.Machine

/-! ## The checks by themselves -/

theorem memAddr_eq (a : AReg) (mode : BitVec 2) (off : Int) :
    memAddr a mode.toNat off =
      (if mode = 1 then (a.ptr.toNat : Int) else a.ptr.toNat + off, if mode = 0 then (a.ptr.toNat : Int) else a.ptr.toNat + off) := by
  obtain rfl | rfl | rfl | rfl : mode = 0 ∨ mode = 1 ∨ mode = 2 ∨ mode = 3 := by revert mode; decide
  all_goals rfl

theorem checkRange_ok {a : AReg} {addr : Int} {n : Nat} {u : Use} (h : (a.allows u && a.inside addr n) = true) :
    checkRange a addr n u = .ok () := by
  simp only [checkRange, h, if_true]

theorem checkRange_error {a : AReg} {addr : Int} {n : Nat} {u : Use} (h : (a.allows u && a.inside addr n) = false) :
    checkRange a addr n u = .error (.trap cBOUNDS (BitVec.ofInt 64 addr)) := by
  simp only [checkRange, h, Bool.false_eq_true, if_false, trap, w64]

section
variable (s : State) (k : Nat) (c : CoreIx) {a : AReg} (addr n : Nat) (u : Use)

/-- No other kind than 1, 2 and 3 reaches anything. -/
theorem State.checkKind_other (h : a.kind = 0 ∨ 4 ≤ a.kind.toNat) :
    s.checkKind k c a addr n u = .error (.trap cBOUNDS (wNat addr)) := by
  have hne (i : Nat) (hi : 1 ≤ i) (hi' : i ≤ 3) : a.kind.toNat ≠ i := by
    obtain h0 | h4 := h
    · rw [h0]; exact Nat.ne_of_lt hi
    · exact fun hki => absurd (hki ▸ h4) (Nat.not_le.2 (Nat.lt_succ_of_le hi'))
  unfold State.checkKind
  split
  · exact absurd ‹_› (hne 1 (by decide) (by decide))
  · exact absurd ‹_› (hne 2 (by decide) (by decide))
  · exact absurd ‹_› (hne 3 (by decide) (by decide))
  · rfl

theorem State.checkKind_pad (h : a.kind = 1) :
    s.checkKind k c a addr n u =
      if s.padOk k addr n && s.limitOk k a && (u != .write || s.storeOk (padBase k + addr) n) then .ok ()
      else .error (.trap cBOUNDS (wNat addr)) := by
  rw [State.checkKind, h]; rfl

theorem State.checkKind_buf (h : a.kind = 2) : s.checkKind k c a addr n u = s.checkBuf k a.bind.toNat addr n u := by
  rw [State.checkKind, h]; rfl

theorem State.checkKind_window (h : a.kind = 3) :
    s.checkKind k c a addr n u =
      if s.windowOk k c addr n && (u != .write || s.storeOk addr n) && !(u == .write && chipRegion addr == 6 && decide (0x80 ≤ chipOff addr))
      then .ok () else .error (.trap cBOUNDS (wNat addr)) := by
  rw [State.checkKind, h]; rfl

theorem State.checkBuf_unleased {h : Nat} (hl : leaseHas (s.bank k).lease false h addr n u = false) :
    s.checkBuf k h addr n u = .error (.trap cLEASE (wNat addr)) := by
  simp only [State.checkBuf, hl, Bool.not_false, if_true, trap]

theorem State.checkBuf_leased {h : Nat} (hl : leaseHas (s.bank k).lease false h addr n u = true) :
    s.checkBuf k h addr n u = if s.lost h then .error (.trap cLOST (wNat h)) else .ok () := by
  simp only [State.checkBuf, hl, Bool.not_true, Bool.false_eq_true, if_false, trap]

end

theorem Use.bne_write_or (u : Use) (b : Bool) : (u != .write || b) = true ↔ (u = .write → b = true) := by
  cases u <;> simp

/-- A task reaches Region 0 alone through KIND 3. -/
theorem State.windowOk_of_task {s : State} {k : Nat} {c : CoreIx} (h : isPriv k c = false) (addr n : Nat) :
    s.windowOk k c addr n = true ↔ s.chipOk addr n = true ∧ chipRegion addr = 0 := by
  simp [State.windowOk, h]

/-! ## The order of the checks (04 R68) -/

section
variable {s : State} {f : FmtM} {u : Use} {addr new : Int}
variable (ha : memAddr (s.fcore.areg f.a) f.mode.toNat f.off.toInt = (addr, new))
include ha

theorem State.checkMem_range (h : ((s.fcore.areg f.a).allows u && (s.fcore.areg f.a).inside addr (2 ^ f.size.toNat)) = false) :
    s.checkMem f u = .error (.trap cBOUNDS (BitVec.ofInt 64 addr)) := by
  simp only [State.checkMem, ha, checkRange_error h, bind, Except.bind]

variable (hrange : ((s.fcore.areg f.a).allows u && (s.fcore.areg f.a).inside addr (2 ^ f.size.toNat)) = true)
include hrange

theorem State.checkMem_ptr (h : (s.fcore.areg f.a).ptrOk new = false) :
    s.checkMem f u = .error (.trap cBOUNDS (BitVec.ofInt 64 new)) := by
  simp only [State.checkMem, ha, checkRange_ok hrange, checkPtr_error h, bind, Except.bind]

theorem State.checkMem_kind (h : (s.fcore.areg f.a).ptrOk new = true) :
    s.checkMem f u = (s.checkKind s.fk s.fc (s.fcore.areg f.a) addr.toNat (2 ^ f.size.toNat) u).map
      (fun _ => (s.fcore.areg f.a, addr.toNat, BitVec.ofInt 64 new)) := by
  simp only [State.checkMem, ha, checkRange_ok hrange, checkPtr_ok h, bind, Except.bind, pure, Except.pure, w64]
  cases s.checkKind s.fk s.fc (s.fcore.areg f.a) addr.toNat (2 ^ f.size.toNat) u <;> rfl

end

/-- Settles O9: the checks in their order, then the check of each kind. -/
theorem accessChecks : Obligations.AccessChecks := by
  intro s f u a n addr new
  have hmem : memAddr a f.mode.toNat f.off.toInt = (addr, new) := memAddr_eq a f.mode f.off.toInt
  refine ⟨State.checkMem_range hmem, State.checkMem_ptr hmem, fun hrange hptr => ⟨fun e he => ?fails, fun hok => ?passes⟩,
    s.checkKind_other _ _ _ _ _, fun hk hl => ?unleased, fun hk hl => ?leased, fun hk => ?pad, fun hk hp => ?window⟩
  case fails => rw [State.checkMem_kind hmem hrange hptr, he]; rfl
  case passes => rw [State.checkMem_kind hmem hrange hptr, hok]; rfl
  case unleased => rw [s.checkKind_buf _ _ _ _ _ hk]; exact s.checkBuf_unleased _ _ _ _ hl
  case leased => rw [s.checkKind_buf _ _ _ _ _ hk]; exact s.checkBuf_leased _ _ _ _ hl
  case pad =>
    rw [s.checkKind_pad _ _ _ _ _ hk]
    simp only [Bool.and_eq_true, Use.bne_write_or, and_assoc]
  case window =>
    rw [s.checkKind_window _ _ _ _ _ hk]
    by_cases hr : chipRegion addr.toNat = 0
    · simp [imp_iff_not_or, State.windowOk_of_task hp, hr]
    · have hout : s.windowOk s.fk s.fc addr.toNat n = false := Bool.eq_false_iff.2 fun h => hr ((State.windowOk_of_task hp _ _).1 h).2
      simp [hout, hr]

end Sys2Proof.Machine
end

section
/-! Scalar loads (02 R15; 04 R67 to R69; 10 R210, R212): what reading a byte of any kind leaves unchanged, the value that a load extends,
the load from the own scratchpad, the late one, and the deferred fault of LDS. -/

namespace Sys2Proof.Machine

/-! ## Changes that no core and no memory shows -/

/-- No core, no byte of a memory and no focus differs. -/
structure State.Keeps (s t : State) : Prop where
  focus   : t.focus = s.focus
  core    : ∀ k c, t.core k c = s.core k c
  mem     : t.mem = s.mem
  hbm     : t.hbm = s.hbm
  hostMem : t.hostMem = s.hostMem

namespace State.Keeps

theorem refl (s : State) : s.Keeps s := ⟨rfl, fun _ _ => rfl, rfl, rfl, rfl⟩

theorem trans {s t u : State} (h : s.Keeps t) (h' : t.Keeps u) : s.Keeps u :=
  ⟨h'.focus.trans h.focus, fun k c => (h'.core k c).trans (h.core k c), h'.mem.trans h.mem, h'.hbm.trans h.hbm,
    h'.hostMem.trans h.hostMem⟩

theorem foldl {α : Type} {s : State} {f : State → α → State} (hf : ∀ (t : State) (a : α), t.Keeps (f t a)) (l : List α) : s.Keeps (l.foldl f s) :=
  List.foldlRecOn l f (refl s) fun t h a _ => h.trans (hf t a)

theorem modBank (s : State) (k : Nat) {f : Bank → Bank} (hf : ∀ b c, (f b).core c = b.core c) : s.Keeps (s.modBank k f) := by
  refine ⟨rfl, fun j c => ?_, rfl, rfl, rfl⟩
  rw [State.core, State.bank_modBank]
  split
  · next h => rw [hf, h]; rfl
  · rfl

theorem touch (s : State) (k off n : Nat) : s.Keeps (s.touch k off n) := modBank s k fun _ c => by cases c <;> rfl

theorem modStack (s : State) (i : Nat) (f : Stack → Stack) : s.Keeps (s.modStack i f) := ⟨rfl, fun _ _ => rfl, rfl, rfl, rfl⟩

theorem bump (s : State) : s.Keeps s.bump := ⟨rfl, fun _ _ => rfl, rfl, rfl, rfl⟩

theorem modNode (s : State) (n : Nat) (f : Node → Node) : s.Keeps (s.modNode n f) := by
  unfold State.modNode
  split
  · exact ⟨rfl, fun _ _ => rfl, rfl, rfl, rfl⟩
  · exact refl s

theorem noteBufs (s : State) (k : Nat) (hs : List Nat) : s.Keeps (s.noteBufs k hs) := by
  unfold State.noteBufs
  split
  · split
    · exact modNode s _ _
    · exact refl s
  · exact refl s

theorem countSubst (s : State) (d : Buf) (gs : List Nat) : s.Keeps (s.countSubst d gs) := foldl (fun t _ => modStack t _ _) gs

theorem noteSubst (s : State) (k h off n : Nat) : s.Keeps (s.noteSubst k h off n) := by
  unfold State.noteSubst
  split
  · split
    · exact countSubst s _ _
    · exact refl s
  · exact refl s

theorem settle (s : State) (k h off n : Nat) : s.Keeps (s.settle k h off n) := by
  refine foldl (fun t g => ?_) _
  split
  · dsimp only
    split
    · exact bump t
    · exact (bump t).trans (modBank _ _ fun _ c => by cases c <;> rfl)
  · exact refl t

theorem cacheTouch (s : State) (asid h off n : Nat) : s.Keeps (s.cacheTouch asid h off n) := by
  unfold State.cacheTouch
  split
  · exact foldl (fun t _ => modStack t _ _) _
  · exact refl s

theorem cacheKind (s : State) (a : AReg) (addr n : Nat) : s.Keeps (s.cacheKind a addr n) := by
  unfold State.cacheKind
  split
  · exact cacheTouch s _ _ _ _
  · exact refl s

theorem fk {s t : State} (h : s.Keeps t) : t.fk = s.fk := congrArg CoreRef.k h.focus

theorem fc {s t : State} (h : s.Keeps t) : t.fc = s.fc := congrArg CoreRef.c h.focus

theorem fcore {s t : State} (h : s.Keeps t) : t.fcore = s.fcore := by
  rw [State.fcore, h.fk, h.fc, h.core, State.fcore]

/-- The issuing core once it is written after such a change and its instruction retires. -/
theorem core_retire {s t : State} (h : s.Keeps t) (r : Core) (len : Nat) :
    ((t.putCore r).retire s.fk s.fc len).core s.fk s.fc = { r.advance len with run := .running } := by
  rw [State.putCore, h.fk, h.fc, State.retire_setCore, State.core_setCore_same]

end State.Keeps

/-! ## The bytes read -/

@[simp] theorem State.see_length (s : State) (a n : Nat) : (s.see a n).length = n := by
  unfold State.see
  dsimp only
  split
  · exact Mem.read_length s.mem a n
  · simp

@[simp] theorem overlay_length (a : Nat) (bs : List Byte) (m : KMap WByte) : (overlay a bs m).length = bs.length := by
  induction bs generalizing a m with
  | nil => simp [overlay]
  | cons b bs ih =>
    cases m with
    | nil => simp [overlay, ih]
    | cons e m => obtain ⟨i, v⟩ := e; rw [overlay]; split <;> simp [ih]

@[simp] theorem State.bufBytes_length (s : State) (k h off n : Nat) : (s.bufBytes k h off n).length = n := by
  have hraw : (overlay (bufKey h off) ((s.bank k).homeBytes (bufKey h off) n) (kpart (s.bank k).own (bufKey h off) n)).length = n := by
    simp [Bank.homeBytes]
  unfold State.bufBytes
  dsimp only
  split
  · split
    · simp [hraw]
    · exact hraw
  · exact hraw

@[simp] theorem State.loadBytes_length (s : State) (k : Nat) (a : AReg) (addr n : Nat) : (s.loadBytes k a addr n).2.1.length = n := by
  unfold State.loadBytes
  split <;> simp

theorem State.Keeps.loadBytes (s : State) (k : Nat) (a : AReg) (addr n : Nat) : s.Keeps (s.loadBytes k a addr n).1 := by
  unfold State.loadBytes
  split
  · exact State.Keeps.touch s _ _ _
  · exact ((State.Keeps.settle s _ _ _ _).trans (State.Keeps.noteSubst _ _ _ _ _)).trans (State.Keeps.noteBufs _ _ _)
  · dsimp only
    split
    · exact State.Keeps.touch s _ _ _
    · exact State.Keeps.refl s

theorem State.loadBytes_pad {a : AReg} (h : a.kind = 1) (s : State) (k addr n : Nat) :
    s.loadBytes k a addr n = (s.touch k addr n, s.see (padBase k + addr) n, badIn s.memBad (padBase k + addr) n) := by
  rw [State.loadBytes, h]; rfl

theorem State.loadBytes_window {a : AReg} (h : a.kind = 3) (s : State) (k addr n : Nat) :
    (s.loadBytes k a addr n).2 = (s.see addr n, badIn s.memBad addr n) := by
  rw [State.loadBytes, h]; rfl

/-- What atomics have not changed needs no choice. -/
theorem State.settle_of_no_amo {s : State} {k : Nat} (hamo : (s.bank k).amo = []) (h off n : Nat) : s.settle k h off n = s :=
  List.foldlRecOn (motive := fun t => t = s) (words8 (bufKey h off) n) _ rfl fun t ht g _ => by
    subst ht; simp only [hamo, kget?]

theorem State.loadBytes_buf {a : AReg} (h : a.kind = 2) {s : State} {k : Nat} (hamo : (s.bank k).amo = []) (addr n : Nat) :
    (s.loadBytes k a addr n).2 = (s.bufBytes k a.bind.toNat addr n, s.bufBad k a.bind.toNat addr n) := by
  have hbuf : (s.loadBytes k a addr n).2 = ((s.settle k a.bind.toNat addr n).bufBytes k a.bind.toNat addr n,
      (s.settle k a.bind.toNat addr n).bufBad k a.bind.toNat addr n) := by
    rw [State.loadBytes, h]; rfl
  rw [hbuf, State.settle_of_no_amo hamo]

/-- The memory-side cache changes no bank and no buffer. -/
theorem State.cacheKind_cells (s : State) (a : AReg) (addr n : Nat) :
    (s.cacheKind a addr n).cells = s.cells ∧ (s.cacheKind a addr n).bufs = s.bufs := by
  unfold State.cacheKind State.cacheTouch
  split
  · split
    · exact List.foldlRecOn (motive := fun t : State => t.cells = s.cells ∧ t.bufs = s.bufs) _ _ ⟨rfl, rfl⟩ fun t ht g _ => ht
    · exact ⟨rfl, rfl⟩
  · exact ⟨rfl, rfl⟩

theorem State.cacheKind_of_not_buf {a : AReg} (h : a.kind ≠ 2) (s : State) (addr n : Nat) : s.cacheKind a addr n = s := by
  rw [State.cacheKind, if_neg h]

/-! ## The value -/

theorem signExtend_ofNat {n : Nat} (hn : 0 < n) (v : Nat) : w64 (intOf n true v) = (BitVec.ofNat n v).signExtend 64 := by
  have hmsb : bitOf v (n - 1) = (BitVec.ofNat n v).msb := by
    rw [BitVec.msb_eq_getLsbD_last, BitVec.getLsbD_ofNat, bitOf_eq_testBit, decide_eq_true (Nat.sub_lt hn Nat.one_pos), Bool.true_and]
  have hint : intOf n true v = (BitVec.ofNat n v).toInt := by
    simp only [intOf, hmsb, BitVec.toInt_eq_msb_cond, BitVec.toNat_ofNat, Bool.true_and]
  rw [w64, hint]
  rfl

/-- The value that a load of bytes extends. -/
def loadValue (signed : Bool) (bs : List Byte) : Word :=
  if signed then w64 (intOf (8 * bs.length) true (leNat bs)) else wNat (leNat bs)

theorem loadValue_eq {n : Nat} {bs : List Byte} (hn : 0 < n) (hlen : bs.length = n) (signed : Bool) :
    loadValue signed bs = if signed then (BitVec.ofNat (8 * n) (leNat bs)).signExtend 64 else (BitVec.ofNat (8 * n) (leNat bs)).zeroExtend 64 := by
  have hlt : leNat bs < 2 ^ (8 * n) := by rw [pow_mul, ← hlen]; exact leNat_lt bs
  unfold loadValue
  split
  · rw [hlen]; exact signExtend_ofNat (by omega) _
  · exact BitVec.eq_of_toNat_eq (by simp [wNat, Nat.mod_eq_of_lt hlt])

/-! ## A checked load -/

/-- The state and the bytes that a checked load of format M reads, the memory-side cache having seen the access. -/
def State.fetched (s : State) (f : FmtM) (a : AReg) (addr : Nat) : State × List Byte × Bool :=
  (s.cacheKind a addr (2 ^ f.size.toNat)).loadBytes s.fk a addr (2 ^ f.size.toNat)

theorem State.Keeps.fetched (s : State) (f : FmtM) (a : AReg) (addr : Nat) : s.Keeps (s.fetched f a addr).1 :=
  (State.Keeps.cacheKind s a addr _).trans (State.Keeps.loadBytes _ _ _ _ _)

theorem State.fetched_length (s : State) (f : FmtM) (a : AReg) (addr : Nat) : (s.fetched f a addr).2.1.length = 2 ^ f.size.toNat :=
  State.loadBytes_length _ _ _ _ _

/-- The value of a fetch as the statements give it. -/
theorem State.loadValue_fetched (s : State) (f : FmtM) (a : AReg) (addr : Nat) (signed : Bool) :
    loadValue signed (s.fetched f a addr).2.1 =
      if signed then (BitVec.ofNat (8 * 2 ^ f.size.toNat) (leNat (s.fetched f a addr).2.1)).signExtend 64
      else (BitVec.ofNat (8 * 2 ^ f.size.toNat) (leNat (s.fetched f a addr).2.1)).zeroExtend 64 :=
  loadValue_eq (Nat.two_pow_pos _) (s.fetched_length f a addr) signed

theorem State.doLoad_eq (s : State) (f : FmtM) (signed : Bool) (a : AReg) (addr : Nat) (p : Word) :
    s.doLoad f signed a addr p =
      (let t := (s.fetched f a addr).1
      let v := loadValue signed (s.fetched f a addr).2.1
      let bad := (s.fetched f a addr).2.2
      (if a.kind = 1 then t.fcore.writeX f.data v bad else t.fcore.lateX f.data v bad).map
        (fun r => t.putCore (r.setA f.a { a with ptr := p }))) := by
  dsimp only
  rw [loadValue, s.fetched_length f a addr]
  unfold State.doLoad State.fetched
  simp only [bind, Except.bind, pure, Except.pure]
  split
  · next h => split <;> (next he => rw [he]; rfl)
  · next h => split <;> (next he => rw [he]; rfl)

section
variable {f : FmtM} {s t : State} {a : AReg} {addr : Nat} {new : Word} (he : s.Enabled f.g) (hd : s.fcore.Ready f.data)
variable (hc : s.checkMem f .read = .ok (a, addr, new))
include he hd hc

theorem load_of_doLoad {signed : Bool} (h : s.doLoad f signed a addr new = .ok t) : load f s signed = .next (t.retire s.fk s.fc 1) := by
  unfold load
  exact guarded_ok he (by simp only [Core.freeX_of_ready hd, hc, h, bind, Except.bind])

theorem execLds_of_doLoad (h : s.doLoad f true a addr new = .ok t) : execLds f s = .next (t.retire s.fk s.fc 1) := by
  unfold execLds
  exact guarded_ok he (by simp only [Core.freeX_of_ready hd, hc, h, bind, Except.bind])

end

/-! ## From the own scratchpad -/

theorem State.doLoad_pad {s : State} {f : FmtM} {a : AReg} (hk : a.kind = 1) (hd : s.fcore.Ready f.data) (signed : Bool) (addr : Nat)
    (p : Word) :
    s.doLoad f signed a addr p = .ok ((s.touch s.fk addr (2 ^ f.size.toNat)).putCore
      (((s.touch s.fk addr (2 ^ f.size.toNat)).fcore.wrote f.data (loadValue signed (s.see (padBase s.fk + addr) (2 ^ f.size.toNat)))
        (badIn s.memBad (padBase s.fk + addr) (2 ^ f.size.toNat))).setA f.a { a with ptr := p })) := by
  have hnot : a.kind ≠ 2 := by rw [hk]; decide
  have hready : (s.touch s.fk addr (2 ^ f.size.toNat)).fcore.Ready f.data := by rwa [(State.Keeps.touch s _ _ _).fcore]
  have hfetch : s.fetched f a addr = (s.touch s.fk addr (2 ^ f.size.toNat), s.see (padBase s.fk + addr) (2 ^ f.size.toNat),
      badIn s.memBad (padBase s.fk + addr) (2 ^ f.size.toNat)) := by
    rw [State.fetched, State.cacheKind_of_not_buf hnot, State.loadBytes_pad hk]
  rw [State.doLoad_eq, hfetch]
  simp only [hk, if_true, Core.writeX_of_ready hready]
  rfl

/-- Settles O10: a load of KIND 1 writes its register at once. -/
theorem scratchpadLoads : Obligations.ScratchpadLoads := by
  intro f s a addr new he hd hc hk n bs bad done
  have hvalue (signed : Bool) : loadValue signed bs =
      if signed then (BitVec.ofNat (8 * n) (leNat bs)).signExtend 64 else (BitVec.ofNat (8 * n) (leNat bs)).zeroExtend 64 :=
    loadValue_eq (Nat.two_pow_pos _) (s.see_length _ _) signed
  have hsigned : loadValue true bs = (BitVec.ofNat (8 * n) (leNat bs)).signExtend 64 := hvalue true
  have hunsigned : loadValue false bs = (BitVec.ofNat (8 * n) (leNat bs)).zeroExtend 64 := hvalue false
  rw [← hsigned, ← hunsigned]
  exact ⟨load_of_doLoad he hd hc (State.doLoad_pad hk hd true addr new), load_of_doLoad he hd hc (State.doLoad_pad hk hd false addr new),
    execLds_of_doLoad he hd hc (State.doLoad_pad hk hd true addr new)⟩

/-! ## From a buffer or through a window -/

/-- The core with a register emptied and its value on the way (02 R15). -/
def Core.awaits (r : Core) (i : Nat) (v : Word) (bad : Bool) : Core :=
  { r with x := vset r.x i { r.xreg i with fill := .load }, results := r.results ++ [⟨i, v, bad⟩] }

theorem Core.lateX_of_ready {r : Core} {j : BitVec 5} (hj : j ≠ 0) (h : r.Ready j) (v : Word) (bad : Bool) :
    r.lateX j v bad = .ok (r.awaits (r.px j.toNat) v bad) := by
  unfold Core.lateX Core.awaits Core.xreg
  rw [if_neg hj]
  obtain h | h | h := h
  · exact absurd h hj
  · simp only [h]
  · simp only [h]

theorem Core.xreg_awaits (r : Core) {i : Nat} (hi : i < 32) (v : Word) (bad : Bool) :
    (r.awaits i v bad).xreg i = { r.xreg i with fill := .load } := by
  rw [Core.xreg, Core.awaits, vget_vset, if_pos ⟨rfl, hi⟩]

theorem State.doLoad_late {s : State} {f : FmtM} {a : AReg} (hk : a.kind ≠ 1) (hj : f.data ≠ 0) (hd : s.fcore.Ready f.data)
    (signed : Bool) (addr : Nat) (p : Word) :
    s.doLoad f signed a addr p = .ok ((s.fetched f a addr).1.putCore
      ((s.fcore.awaits (s.fcore.px f.data.toNat) (loadValue signed (s.fetched f a addr).2.1) (s.fetched f a addr).2.2).setA f.a
        { a with ptr := p })) := by
  have hcore := (State.Keeps.fetched s f a addr).fcore
  rw [State.doLoad_eq]
  simp only [hk, if_false, hcore, Core.lateX_of_ready hj hd]
  rfl

/-- The bytes and the poison of a fetch, by the kind of its register. -/
theorem State.fetched_window {s : State} {f : FmtM} {a : AReg} (hk : a.kind = 3) (addr : Nat) :
    (s.fetched f a addr).2 = (s.see addr (2 ^ f.size.toNat), badIn s.memBad addr (2 ^ f.size.toNat)) := by
  have hnot : a.kind ≠ 2 := by rw [hk]; decide
  rw [State.fetched, State.cacheKind_of_not_buf hnot, State.loadBytes_window hk]

theorem State.fetched_buf {s : State} {f : FmtM} {a : AReg} (hk : a.kind = 2) (hamo : (s.bank s.fk).amo = []) (addr : Nat) :
    (s.fetched f a addr).2 = (s.bufBytes s.fk a.bind.toNat addr (2 ^ f.size.toNat), s.bufBad s.fk a.bind.toNat addr (2 ^ f.size.toNat)) := by
  obtain ⟨hcells, hbufs⟩ := s.cacheKind_cells a addr (2 ^ f.size.toNat)
  have hbank (k : Nat) : (s.cacheKind a addr (2 ^ f.size.toNat)).bank k = s.bank k := by rw [State.bank, State.bank, State.cell, State.cell, hcells]
  rw [State.fetched, State.loadBytes_buf hk (by rw [hbank, hamo])]
  simp only [State.bufBytes, State.bufBad, State.buf?, hbank, hbufs]

theorem lateLoad : LateLoad := by
  intro f s a addr new he hd hj hc hk p hp
  have hload (signed : Bool) := State.doLoad_late hk hj hd signed addr new
  have hexec : exec p.1 s = .next (((s.fetched f a addr).1.putCore
      ((s.fcore.awaits (s.fcore.px f.data.toNat) (loadValue p.2 (s.fetched f a addr).2.1) (s.fetched f a addr).2.2).setA f.a
        { a with ptr := new })).retire s.fk s.fc 1) := by
    simp only [List.mem_cons, List.not_mem_nil, or_false] at hp
    rcases hp with rfl | rfl | rfl
    exacts [load_of_doLoad he hd hc (hload true), load_of_doLoad he hd hc (hload false), execLds_of_doLoad he hd hc (hload true)]
  have hkeeps := State.Keeps.fetched s f a addr
  refine ⟨_, hexec, ?_⟩
  rw [hkeeps.core_retire, s.loadValue_fetched]
  have hx (r : Core) (i : Nat) : ({ r.advance 1 with run := .running } : Core).xreg i = r.xreg i := by
    rw [Core.xreg, Core.xreg, ← r.advance_x 1]
  have hemptied (w : Word) (b : Bool) := s.fcore.xreg_awaits (s.fcore.px_lt f.data) w b
  have hset (r : Core) (i : Nat) (x : AReg) : (r.setA f.a x).xreg i = r.xreg i := rfl
  dsimp only
  refine ⟨?fill, ?val, ⟨(s.fetched f a addr).2.1, (s.fetched f a addr).2.2, ?results, ?window, ?buf⟩, ?pointer, hkeeps.mem, hkeeps.hbm, hkeeps.hostMem⟩
  case fill => rw [hx, hset, hemptied]
  case val => rw [hx, hset, hemptied]
  case results => rw [Core.advance_results]; rfl
  case window => exact fun hkind => Prod.mk.inj (State.fetched_window hkind addr)
  case buf => exact fun hkind hamo => Prod.mk.inj (State.fetched_buf hkind hamo addr)
  case pointer => rw [Core.advance_a]; rfl

/-! ## The deferred fault of LDS (04 R69) -/

theorem deferredFault : DeferredFault := by
  intro f s cause tval he hd hc a addr
  have haddr : (memAddr a f.mode.toNat f.off.toInt).1 = addr := congrArg Prod.fst (memAddr_eq a f.mode f.off.toInt)
  show execLds f s = _
  unfold execLds
  refine guarded_ok he ?_
  simp only [Core.freeX_of_ready hd, hc, Core.writeX_of_ready hd, bind, Except.bind, pure, Except.pure]
  rw [haddr]
  rfl

/-- Settles O11: the late load of each kind, and the poisoned destination of a check that fails. -/
theorem lateLoads : Obligations.LateLoads := ⟨lateLoad, deferredFault⟩

end Sys2Proof.Machine
end

section
/-! Scalar stores, PCHK and LDPF (04 R68, R70, R71; 10 R209, R210): the bytes of a value, a map of stores after a store, and what an
enabled store writes by the kind of its register. -/

namespace Sys2Proof.Machine

/-! ## Bytes -/

theorem leBytes_getElem? (n v i : Nat) : (leBytes n v)[i]? = if i < n then some (BitVec.ofNat 8 (v / 256 ^ i)) else none := by
  induction n generalizing v i with
  | zero => simp [leBytes]
  | succ n ih =>
    cases i with
    | zero => simp [leBytes]
    | succ i => simp [leBytes, ih, Nat.div_div_eq_div_mul, pow_succ, Nat.mul_comm]

/-- Byte i of a word's low bytes. -/
theorem leBytes_word {n i : Nat} (hi : i < n) (x : Word) : ((leBytes n x.toNat)[i]?).getD 0 = x.extractLsb' (8 * i) 8 := by
  rw [leBytes_getElem?, if_pos hi, Option.getD_some]
  exact BitVec.eq_of_toNat_eq (by
    rw [BitVec.extractLsb'_toNat, BitVec.toNat_ofNat, Nat.shiftRight_eq_div_pow, pow_mul]; rfl)

/-! ## Stores held by a cell (10 R209, R210) -/

/-- A store at a key after another at the same key, if there is one. -/
def joined (o : Option WByte) (w : WByte) : WByte := match o with | some x => x.join w | none => w

theorem joined_whole (o : Option WByte) (b : Byte) : (joined o { v := b }).v = b ∧ (joined o { v := b }).m = 0xFF := by
  cases o with
  | none => exact ⟨rfl, rfl⟩
  | some x =>
    have hand : b &&& 0xFF = b := BitVec.and_allOnes
    have hor : x.m ||| 0xFF = 0xFF := BitVec.or_allOnes
    have hold : x.v &&& ~~~(0xFF : Byte) ||| b = b := by rw [show ~~~(0xFF : Byte) = 0#8 from rfl, BitVec.and_zero, BitVec.zero_or]
    exact ⟨by simp only [joined, WByte.join, hand, hold], hor⟩

theorem kjoin_cons (m : KMap WByte) (a : Nat) (w : WByte) (ws : List WByte) :
    kjoin m a (w :: ws) = kjoin (kset m a (joined (kget? m a) w)) (a + 1) ws := rfl

theorem kget?_kjoin (m : KMap WByte) (a : Nat) (ws : List WByte) (j : Nat) :
    kget? (kjoin m a ws) j = if a ≤ j ∧ j < a + ws.length then (ws[j - a]?).map (joined (kget? m j)) else kget? m j := by
  induction ws generalizing m a with
  | nil => rw [if_neg (by simp)]; rfl
  | cons w ws ih =>
    rw [kjoin_cons, ih, kget?_kset, List.length_cons]
    obtain hlt | rfl | hgt := Nat.lt_trichotomy j a
    · rw [if_neg (by omega), if_neg (by omega), if_neg (by omega)]
    · rw [if_neg (by omega), if_pos rfl, if_pos (by omega), Nat.sub_self]; rfl
    · have hsucc : j - a = j - (a + 1) + 1 := by omega
      have hiff : (a + 1 ≤ j ∧ j < a + 1 + ws.length) ↔ (a ≤ j ∧ j < a + (ws.length + 1)) := by omega
      simp only [if_neg (Nat.ne_of_gt hgt), hiff, hsucc, List.getElem?_cons_succ]

/-! ## What a store leaves -/

theorem State.bank_setCore_same (s : State) (k : Nat) (c : CoreIx) (r : Core) : (s.setCore k c r).bank k = (s.bank k).setCore c r :=
  s.bank_setBank_same k _

@[simp] theorem Bank.setCore_own (b : Bank) (c : CoreIx) (r : Core) : (b.setCore c r).own = b.own := by cases c <;> rfl
@[simp] theorem Bank.setCore_dirty (b : Bank) (c : CoreIx) (r : Core) : (b.setCore c r).dirty = b.dirty := by cases c <;> rfl

/-- A pointer moved, the instruction retired: of the core nothing else shows. -/
theorem Core.OnlyX.setA_advance (r : Core) (i : BitVec 4) (x : AReg) (len : Nat) (run : Run) :
    r.OnlyX { { (r.setA i x).advance len with run := run } with a := r.a } [] := by
  obtain ⟨hx, _, hst, hlc, hepc, hca, htv, hsp, hk, hv, hh, hp⟩ := Core.OnlyX.advance (r.setA i x) len run []
  exact ⟨hx, rfl, hst, hlc, hepc, hca, htv, hsp, hk, hv, hh, hp⟩

theorem Core.advance_one_pc {r : Core} (h : r.loop = none) : (r.advance 1).pc = r.pc + 8 := by
  rw [Core.advance_of_no_loop h]; rfl

namespace State.Keeps

theorem modBuf (s : State) (h : Nat) (f : Buf → Buf) : s.Keeps (s.modBuf h f) := by
  unfold State.modBuf
  split
  · exact ⟨rfl, fun _ _ => rfl, rfl, rfl, rfl⟩
  · exact refl s

theorem bufPutW (s : State) (k h off : Nat) (ws : List WByte) : s.Keeps (s.bufPutW k h off ws) :=
  (modBank s k fun _ c => by cases c <;> rfl).trans (modBuf _ _ _)

end State.Keeps

theorem State.modBuf_bank (s : State) (h k : Nat) (f : Buf → Buf) : (s.modBuf h f).bank k = s.bank k := by
  unfold State.modBuf; split <;> rfl

/-- A store into a slot changes at most what the Geode holds of it (19 R345). -/
theorem State.noteSlotStore_eq (s : State) (a n : Nat) : ∃ g, s.noteSlotStore a n = { s with geode := g } := by
  unfold State.noteSlotStore
  extract_lets base other o
  split
  · exact ⟨_, rfl⟩
  · exact ⟨s.geode, rfl⟩

theorem State.Keeps.noteSlotStore (s : State) (a n : Nat) : s.Keeps (s.noteSlotStore a n) := by
  obtain ⟨g, hg⟩ := s.noteSlotStore_eq a n
  rw [hg]
  exact ⟨rfl, fun _ _ => rfl, rfl, rfl, rfl⟩

theorem State.noteSlotStore_bufs (s : State) (a n : Nat) : (s.noteSlotStore a n).bufs = s.bufs := by
  obtain ⟨g, hg⟩ := s.noteSlotStore_eq a n
  rw [hg]

/-- A store to Region 0 writes its bytes, claims its granules, and may clear the VER bit of a slot. -/
theorem State.chipStore_pad {a : Nat} (hr : chipRegion a = 0) (s : State) (bs : List Byte) :
    s.chipStore a bs false = ((s.chipPut a bs).touch (chipKey a) (chipOff a) bs.length).noteSlotStore a bs.length := by
  simp only [State.chipStore, hr, Bool.false_eq_true, if_false, if_true]

theorem State.Keeps.chipStore_pad {a : Nat} (hr : chipRegion a = 0) (s : State) (bs : List Byte) :
    (s.chipPut a bs).Keeps (s.chipStore a bs false) := by
  rw [State.chipStore_pad hr]
  exact (State.Keeps.touch _ _ _ _).trans (State.Keeps.noteSlotStore _ _ _)

/-! ## The checks of a store that passes -/

theorem State.checkKind_of_checkMem {s : State} {f : FmtM} {u : Use} {a : AReg} {addr : Nat} {new : Word}
    (h : s.checkMem f u = .ok (a, addr, new)) : s.checkKind s.fk s.fc a addr (2 ^ f.size.toNat) u = .ok () := by
  simp only [State.checkMem, bind, Except.bind, pure, Except.pure] at h
  split at h
  · exact nomatch h
  split at h
  · exact nomatch h
  split at h
  · exact nomatch h
  · next hkind =>
    simp only [Except.ok.injEq, Prod.mk.injEq] at h
    obtain ⟨rfl, rfl, -⟩ := h
    exact hkind

theorem padBytes_le (cls : Nat) : Config.padBytes cls ≤ 4194304 := by
  unfold Config.padBytes; split <;> decide

theorem State.padSize_le (s : State) (k : Nat) : s.padSize k ≤ 4194304 := by
  unfold State.padSize
  split
  · exact Nat.le_refl _
  · exact padBytes_le _

theorem chipRegion_padBase {k off : Nat} (h : off < 2 ^ 31) : chipRegion (padBase k + off) = 0 := by
  unfold chipRegion padBase chipAddr
  omega

theorem State.chipRegion_of_padOk {s : State} {k off n : Nat} (h : s.padOk k off n = true) (hn : 0 < n) :
    chipRegion (padBase k + off) = 0 := by
  simp only [State.padOk, Bool.and_eq_true, decide_eq_true_eq] at h
  have hsize := s.padSize_le k
  exact chipRegion_padBase (by omega)

/-! ## ST -/

theorem execSt_of_checked {f : FmtM} {s : State} {x : Word} {a : AReg} {addr : Nat} {new : Word} (he : s.Enabled f.g)
    (hx : s.fcore.Holds f.data x false) (hc : s.checkMem f .write = .ok (a, addr, new)) :
    execSt f s = .next (((s.storeBytes s.fk a addr (leBytes (2 ^ f.size.toNat) x.toNat)).putCore
      ((s.storeBytes s.fk a addr (leBytes (2 ^ f.size.toNat) x.toNat)).fcore.setA f.a { a with ptr := new })).retire s.fk s.fc 1) := by
  unfold execSt
  refine guarded_ok he ?_
  simp only [Core.readX_of_holds hx, hc, consume, bind, Except.bind, pure, Except.pure]
  rfl

/-- The core after a store has moved its pointer and retired, when the store itself changes no core. -/
theorem State.core_of_stored {s u : State} (hf : u.focus = s.focus) (hcore : ∀ k c, u.core k c = s.core k c) (i : BitVec 4) (x : AReg) :
    let t := (u.putCore (u.fcore.setA i x)).retire s.fk s.fc 1
    s.fcore.OnlyX { t.core s.fk s.fc with a := s.fcore.a } [] ∧ (t.core s.fk s.fc).a = (s.fcore.setA i x).a ∧
      (s.fcore.loop = none → (t.core s.fk s.fc).pc = s.fcore.pc + 8) := by
  have hfk : u.fk = s.fk := congrArg CoreRef.k hf
  have hfc : u.fc = s.fc := congrArg CoreRef.c hf
  have hfcore : u.fcore = s.fcore := by rw [State.fcore, hfk, hfc, hcore, State.fcore]
  intro t
  have ht : t.core s.fk s.fc = { (s.fcore.setA i x).advance 1 with run := .running } := by
    simp only [t, State.putCore, hfk, hfc, State.retire_setCore, State.core_setCore_same, hfcore]
  rw [ht]
  exact ⟨Core.OnlyX.setA_advance s.fcore i x 1 .running, Core.advance_a _ _, fun h => Core.advance_one_pc (r := s.fcore.setA i x) h⟩

/-- A store to Region 0 at an address on chip (04 R68). -/
theorem State.storeBytes_pad {s : State} {a : AReg} {addr n : Nat} (hn : 0 < n) (hk : a.kind = 1 ∨ (a.kind = 3 ∧ chipRegion addr = 0))
    (hc : s.checkKind s.fk s.fc a addr n .write = .ok ()) (bs : List Byte) :
    let at_ := if a.kind = 1 then padBase s.fk + addr else addr
    chipRegion at_ = 0 ∧ s.storeBytes s.fk a addr bs = s.chipStore at_ bs false := by
  obtain hk | ⟨hk, hr⟩ := hk
  · have hnum : a.kind.toNat = 1 := by rw [hk]; rfl
    rw [s.checkKind_pad s.fk s.fc addr n .write hk] at hc
    have hpad : s.padOk s.fk addr n = true := by
      by_contra hnot
      simp [Bool.eq_false_iff.2 hnot] at hc
    rw [if_pos hk]
    exact ⟨State.chipRegion_of_padOk hpad hn, by simp only [State.storeBytes, hnum]⟩
  · have hnum : a.kind.toNat = 3 := by rw [hk]; rfl
    have hne : a.kind ≠ 1 := by rw [hk]; decide
    rw [if_neg hne]
    exact ⟨hr, by simp only [State.storeBytes, hnum]⟩

theorem State.chipStore_pad_bufs {a : Nat} (hr : chipRegion a = 0) (s : State) (bs : List Byte) : (s.chipStore a bs false).bufs = s.bufs := by
  rw [State.chipStore_pad hr, State.noteSlotStore_bufs, State.touch_bufs, State.chipPut_bufs]

theorem scratchpadStore : ScratchpadStore := by
  intro f s x a addr new he hx hc hk hwf _ at_
  obtain ⟨hr, hstore⟩ := State.storeBytes_pad (Nat.two_pow_pos _) hk (State.checkKind_of_checkMem hc) (leBytes (2 ^ f.size.toNat) x.toNat)
  have hbyte (b : Nat) := Mem.byte_write (Mem.wf_rising hwf) at_ (leBytes (2 ^ f.size.toNat) x.toNat) b
  rw [leBytes_length] at hbyte
  have hbufs := State.chipStore_pad_bufs hr s (leBytes (2 ^ f.size.toNat) x.toNat)
  have hexec := execSt_of_checked he hx hc
  obtain ⟨hfocus, hcore, hmem, hhbm, hhost⟩ := State.Keeps.chipStore_pad hr s (leBytes (2 ^ f.size.toNat) x.toNat)
  rw [hstore] at hexec
  generalize s.chipStore at_ (leBytes (2 ^ f.size.toNat) x.toNat) false = u at hexec hbufs hfocus hcore hmem hhbm hhost
  obtain ⟨honly, ha, hpc⟩ := State.core_of_stored (s := s) hfocus hcore f.a { a with ptr := new }
  refine ⟨_, hexec, ?_⟩
  simp only [State.retire_mem, State.putCore_mem, State.retire_hbm, State.putCore_hbm, State.retire_hostMem, State.putCore_hostMem,
    State.retire_bufs, State.putCore_bufs, hmem, hbufs]
  refine ⟨fun i hi => ?inside, fun b hb => ?outside, hhbm, hhost, trivial, honly, ha, hpc⟩
  case inside => rw [State.chipPut, hbyte, if_pos ⟨Nat.le_add_right _ _, Nat.add_lt_add_left hi _⟩, Nat.add_sub_cancel_left, leBytes_word hi]
  case outside => rw [State.chipPut, hbyte, if_neg (by omega)]

/-- A store to a buffer among the stores that a cell holds. -/
theorem State.bufPut_held (s : State) (k h off : Nat) (bs : List Byte) :
    ((s.bufPut k h off bs).bank k).own = kjoin (s.bank k).own (bufKey h off) (bs.map (fun b => { v := b })) ∧
      ((s.bufPut k h off bs).bank k).dirty = kjoin (s.bank k).dirty (bufKey h off) (bs.map (fun b => { v := b })) := by
  simp only [State.bufPut, State.bufPutW, State.modBuf_bank, State.bank_modBank, if_true, and_self]

/-- The low bytes of a word as a store of whole bytes. -/
def storeOf (n : Nat) (x : Word) : List WByte := (leBytes n x.toNat).map (fun b => { v := b })

/-- The stores that a cell holds after one more. -/
theorem kget?_kjoin_storeOf (m : KMap WByte) (key n : Nat) (x : Word) :
    (∀ i < n, ∃ w, kget? (kjoin m key (storeOf n x)) (key + i) = some w ∧ w.v = x.extractLsb' (8 * i) 8 ∧ w.m = 0xFF) ∧
      ∀ b, b < key ∨ key + n ≤ b → kget? (kjoin m key (storeOf n x)) b = kget? m b := by
  have hlen : (storeOf n x).length = n := by simp [storeOf]
  refine ⟨fun i hi => ?_, fun b hb => ?_⟩
  · have hbyte := leBytes_word hi x
    rw [leBytes_getElem?, if_pos hi, Option.getD_some] at hbyte
    obtain ⟨hv, hm⟩ := joined_whole (kget? m (key + i)) (x.extractLsb' (8 * i) 8)
    refine ⟨_, ?_, hv, hm⟩
    rw [kget?_kjoin, hlen, if_pos ⟨Nat.le_add_right _ _, Nat.add_lt_add_left hi _⟩, Nat.add_sub_cancel_left, storeOf, List.getElem?_map,
      leBytes_getElem?, if_pos hi, hbyte]
    rfl
  · rw [kget?_kjoin, hlen, if_neg (by omega)]

/-- Writing a core and retiring leave the stores that its cell holds. -/
theorem State.held_of_retire {s u : State} (hu : u.focus = s.focus) (r : Core) (len : Nat) :
    (((u.putCore r).retire s.fk s.fc len).bank s.fk).own = (u.bank s.fk).own ∧
      (((u.putCore r).retire s.fk s.fc len).bank s.fk).dirty = (u.bank s.fk).dirty := by
  have hput : u.putCore r = u.setCore s.fk s.fc r := by rw [State.putCore, State.fk, State.fc, hu]
  rw [hput, State.retire_setCore, State.bank_setCore_same]
  exact ⟨Bank.setCore_own _ _ _, Bank.setCore_dirty _ _ _⟩

theorem bufferStore : BufferStore := by
  intro f s x a addr new he hx hc hk _ key
  have hnum : a.kind.toNat = 2 := by rw [hk]; rfl
  have hstore (bs : List Byte) : s.storeBytes s.fk a addr bs = s.bufPut s.fk a.bind.toNat addr bs := by
    simp only [State.storeBytes, hnum]
  have hkeeps : s.Keeps (s.bufPut s.fk a.bind.toNat addr (leBytes (2 ^ f.size.toNat) x.toNat)) := State.Keeps.bufPutW _ _ _ _ _
  obtain ⟨honly, ha, -⟩ := State.core_of_stored hkeeps.focus hkeeps.core f.a { a with ptr := new }
  obtain ⟨hown, hdirty⟩ := s.bufPut_held s.fk a.bind.toNat addr (leBytes (2 ^ f.size.toNat) x.toNat)
  refine ⟨_, execSt_of_checked he hx hc, ?_⟩
  rw [hstore]
  refine ⟨?held, hkeeps.mem, hkeeps.hbm, hkeeps.hostMem, honly, ha⟩
  simp only [List.mem_cons, List.not_mem_nil, or_false, forall_eq_or_imp, forall_eq, (State.held_of_retire hkeeps.focus _ _).1,
    (State.held_of_retire hkeeps.focus _ _).2, hown, hdirty]
  exact ⟨kget?_kjoin_storeOf _ key _ x, kget?_kjoin_storeOf _ key _ x⟩

/-! ## PCHK and LDPF -/

theorem execPchk_of_holds {f : FmtS} {s : State} {v : Word} {bad : Bool} (he : s.Enabled f.g) (hx : s.fcore.Holds f.s1 v bad) :
    execPchk f s = .next ((s.putCore (s.fcore.setPred (f.d.toNat % 16) bad)).retire s.fk s.fc 1) := by
  unfold execPchk
  exact onCore_ok he (by simp only [Core.readX_of_holds hx, bind, Except.bind, pure, Except.pure])

/-- What LDPF fetches passes through the memory-side cache. -/
def State.prefetched (s : State) (f : FmtM) : State :=
  let a := s.fcore.areg f.a
  let addr := (memAddr a f.mode.toNat f.off.toInt).1
  if 0 ≤ addr then s.cacheKind a (addr.toNat / 64 * 64) (64 * 2 ^ f.size.toNat) else s

theorem State.Keeps.prefetched (s : State) (f : FmtM) : s.Keeps (s.prefetched f) := by
  unfold State.prefetched
  dsimp only
  split
  · exact State.Keeps.cacheKind s _ _ _
  · exact State.Keeps.refl s

/-- Under mode 0 the pointer is neither moved nor checked. -/
theorem execLdpf_still {f : FmtM} {s : State} (he : s.Enabled f.g) (hm : f.mode = 0) :
    execLdpf f s = .next ((s.prefetched f).retire s.fk s.fc 1) := by
  unfold execLdpf
  refine guarded_ok he ?_
  simp only [hm, if_true, bind, Except.bind, pure, Except.pure, State.prefetched]

theorem execLdpf_moving {f : FmtM} {s : State} (he : s.Enabled f.g) (hm : f.mode ≠ 0)
    (hp : (s.fcore.areg f.a).ptrOk ((s.fcore.areg f.a).ptr.toNat + f.off.toInt) = true) :
    execLdpf f s = .next (((s.prefetched f).putCore ((s.prefetched f).fcore.setA f.a
      { s.fcore.areg f.a with ptr := (s.fcore.areg f.a).ptr + f.off.signExtend 64 })).retire s.fk s.fc 1) := by
  have hnew : (memAddr (s.fcore.areg f.a) f.mode.toNat f.off.toInt).2 = (s.fcore.areg f.a).ptr.toNat + f.off.toInt := by
    rw [memAddr_eq, if_neg hm]
  have hsum (x : Word) : BitVec.ofInt 64 (x.toNat + f.off.toInt) = x + f.off.signExtend 64 := by
    rw [BitVec.ofInt_add, BitVec.ofInt_natCast, BitVec.ofNat_toNat, BitVec.setWidth_eq]; rfl
  unfold execLdpf
  refine guarded_ok he ?_
  simp only [hm, if_false, hnew, checkPtr_ok hp, bind, Except.bind, pure, Except.pure, w64, hsum]
  rfl

theorem poisonCheckAndPrefetch : PoisonCheckAndPrefetch := by
  refine ⟨fun f s v bad he hx => execPchk_of_holds he hx, fun f s he hp => ?_⟩
  have hkeeps := State.Keeps.prefetched s f
  by_cases hm : f.mode = 0
  · refine ⟨_, execLdpf_still he hm, hkeeps.mem, hkeeps.hbm, hkeeps.hostMem, ?_⟩
    rw [State.retire, State.core_modCore_same, hkeeps.core, if_pos hm]
    obtain ⟨hx, -, hrest⟩ := Core.OnlyX.advance s.fcore 1 .running []
    exact ⟨⟨hx, rfl, hrest⟩, Core.advance_a _ _⟩
  · obtain ⟨honly, ha, -⟩ := State.core_of_stored hkeeps.focus hkeeps.core f.a
      { s.fcore.areg f.a with ptr := (s.fcore.areg f.a).ptr + f.off.signExtend 64 }
    refine ⟨_, execLdpf_moving he hm (hp hm), hkeeps.mem, hkeeps.hbm, hkeeps.hostMem, honly, ?_⟩
    rw [if_neg hm]
    exact ha

/-- Settles O12: a store by the kind of its register, PCHK and LDPF. -/
theorem storesAndChecks : Obligations.StoresAndChecks := ⟨scratchpadStore, bufferStore, poisonCheckAndPrefetch⟩

end Sys2Proof.Machine
end

section
/-! Modulo loops (02 R25, R26; 04 R74; 16 R311): where a core goes after each position of a loop, and what MLOOP does by its guard, its body
words and its trip count. -/

namespace Sys2Proof.Machine

/-! ## The order of a loop -/

theorem nextPos_stage {n ii p : Nat} (h : p + ii < n) : nextPos n ii p = some (p + ii) := by rw [nextPos, if_pos h]

theorem nextPos_slot {n ii p : Nat} (h : n ≤ p + ii) (hs : p % ii + 1 < min ii n) : nextPos n ii p = some (p % ii + 1) := by
  rw [nextPos, if_neg (Nat.not_lt.2 h), if_pos (lt_min_iff.1 hs)]

theorem nextPos_last {n ii p : Nat} (h : n ≤ p + ii) (hs : ¬ p % ii + 1 < min ii n) : nextPos n ii p = none := by
  rw [nextPos, if_neg (Nat.not_lt.2 h), if_neg (mt lt_min_iff.2 hs)]

/-- The position of a loop once its round is open. -/
def LoopPos.opened (l : LoopPos) (r : Core) : LoopPos := if l.fresh then { l with fresh := false, undo := some (r.p, r.livep) } else l

theorem LoopPos.opened_moved (l : LoopPos) (r : Core) (p : Nat) :
    { l.opened r with p := p, undo := none } = { l with p := p, fresh := false, undo := none } := by
  unfold LoopPos.opened
  cases hf : l.fresh
  · rw [if_neg Bool.false_ne_true]; cases l; cases hf; rfl
  · rfl

theorem LoopPos.opened_fields (l : LoopPos) (r : Core) :
    (l.opened r).n = l.n ∧ (l.opened r).ii = l.ii ∧ (l.opened r).p = l.p ∧ (l.opened r).trip = l.trip ∧ (l.opened r).round = l.round ∧
      (l.opened r).laddr = l.laddr ∧ (l.opened r).offs = l.offs := by
  unfold LoopPos.opened; split <;> exact ⟨rfl, rfl, rfl, rfl, rfl, rfl, rfl⟩

section
variable {r : Core} {l : LoopPos} (hl : r.loop = some l)
include hl

theorem Core.openRound_loop : r.openRound.loop = some (l.opened r) := by
  unfold Core.openRound LoopPos.opened
  rw [hl]
  dsimp only
  split
  · rfl
  · exact hl

omit hl in
theorem Core.openRound_rbase (r : Core) : r.openRound.rbase = r.rbase := by rw [Core.openRound_eq]

/-- A round's first instruction finds P8 as the iteration starts or not. -/
theorem Core.openRound_pred (hf : l.fresh = true) : r.openRound.pred 8 = decide (l.round < l.trip) := by
  unfold Core.openRound
  rw [hl]
  dsimp only
  rw [if_pos hf]
  exact (Core.pred_setPred r (by decide) (by decide) _).trans (if_pos ⟨by decide, rfl⟩)

theorem Core.advance_in_loop (len : Nat) : r.advance len = r.openRound.nextInLoop (l.opened r) := by
  rw [Core.advance, Core.openRound_loop hl]

omit hl in
theorem LoopPos.nextPos_opened (l : LoopPos) (r : Core) :
    nextPos (l.opened r).n (l.opened r).ii (l.opened r).p = nextPos l.n l.ii l.p := by
  obtain ⟨hn, hii, hp, -⟩ := l.opened_fields r
  rw [hn, hii, hp]

omit hl in
theorem LoopPos.offAt_opened (l : LoopPos) (r : Core) (p : Nat) :
    (l.opened r).laddr + wNat ((l.opened r).offAt p) = l.laddr + wNat ((l.offs[p]?).getD 0) := by
  obtain ⟨-, -, -, -, -, hladdr, hoffs⟩ := l.opened_fields r
  rw [LoopPos.offAt, hladdr, hoffs]

/-- A position that another follows in the round. -/
theorem Core.advance_within {q : Nat} (hq : nextPos l.n l.ii l.p = some q) (len : Nat) :
    (r.advance len).loop = some { l with p := q, fresh := false, undo := none } ∧
      (r.advance len).pc = l.laddr + wNat ((l.offs[q]?).getD 0) ∧ (r.advance len).rbase = r.rbase ∧
      (l.fresh = true → (r.advance len).pred 8 = decide (l.round < l.trip)) := by
  rw [← l.nextPos_opened r] at hq
  have hadv : r.advance len = r.openRound.atPos { l.opened r with p := q, undo := none } := by
    rw [Core.advance_in_loop hl, Core.nextInLoop, hq]
  rw [hadv]
  exact ⟨congrArg some (l.opened_moved r q), l.offAt_opened r q, r.openRound_rbase, fun hf => Core.openRound_pred hl hf⟩

/-- The last position of a round that another round follows. -/
theorem Core.advance_next_round (hq : nextPos l.n l.ii l.p = none) (ht : l.round + 1 ≤ l.trip + stages l.n l.ii - 2) (len : Nat) :
    (r.advance len).loop = some { l with p := 0, round := l.round + 1, fresh := true, undo := none } ∧
      (r.advance len).pc = l.laddr + wNat ((l.offs[0]?).getD 0) ∧ (r.advance len).rbase = r.rbase - 1 := by
  obtain ⟨hn, hii, -, htrip, hround, hladdr, hoffs⟩ := l.opened_fields r
  rw [← l.nextPos_opened r] at hq
  rw [← hn, ← hii, ← htrip, ← hround] at ht
  have hadv : r.advance len = { r.openRound with rbase := r.openRound.rbase - 1 }.atPos
      { l.opened r with round := (l.opened r).round + 1, p := 0, fresh := true, undo := none } := by
    rw [Core.advance_in_loop hl, Core.nextInLoop, hq]
    exact if_pos ht
  rw [hadv]
  refine ⟨congrArg some ?_, l.offAt_opened r 0, congrArg (· - 1) r.openRound_rbase⟩
  simp only [hn, hii, htrip, hround, hladdr, hoffs]

/-- The last position of the last round. -/
theorem Core.advance_leaves (hq : nextPos l.n l.ii l.p = none) (ht : ¬ l.round + 1 ≤ l.trip + stages l.n l.ii - 2) (len : Nat) :
    (r.advance len).loop = none ∧ (r.advance len).pc = l.laddr + wNat ((l.offs[l.n]?).getD 0) ∧ (r.advance len).rbase = r.rbase - 1 := by
  obtain ⟨hn, hii, -, htrip, hround, -⟩ := l.opened_fields r
  have hpc := l.offAt_opened r (l.opened r).n
  rw [← l.nextPos_opened r] at hq
  rw [← hn, ← hii, ← htrip, ← hround] at ht
  have hadv : r.advance len = { r.openRound with
      rbase := r.openRound.rbase - 1, loop := none, pc := (l.opened r).laddr + wNat ((l.opened r).offAt (l.opened r).n) } := by
    rw [Core.advance_in_loop hl, Core.nextInLoop, hq]
    exact if_neg ht
  rw [hadv]
  rw [hn] at hpc ⊢
  exact ⟨rfl, hpc, congrArg (· - 1) r.openRound_rbase⟩

end

theorem moduloOrder : ModuloOrder := by
  intro r l len hl _ _ _ at_ slot r'
  refine ⟨fun hstage => Core.advance_within hl (nextPos_stage hstage) len,
    fun hend hslot => Core.advance_within hl (nextPos_slot hend hslot) len, fun hend hslot => ?_⟩
  have hlast := nextPos_last hend hslot
  refine ⟨?rotates, fun hnext => ?next, fun hleave htwo => ?leaves⟩
  case rotates =>
    by_cases ht : l.round + 1 ≤ l.trip + stages l.n l.ii - 2
    · exact (Core.advance_next_round hl hlast ht len).2.2
    · exact (Core.advance_leaves hl hlast ht len).2.2
  case next =>
    have ht : l.round + 1 ≤ l.trip + stages l.n l.ii - 2 := by unfold stages; omega
    obtain ⟨hloop, hpc, -⟩ := Core.advance_next_round hl hlast ht len
    exact ⟨hloop, hpc, Core.openRound_pred hloop rfl⟩
  case leaves =>
    have ht : ¬ l.round + 1 ≤ l.trip + stages l.n l.ii - 2 := by unfold stages; omega
    obtain ⟨hloop, hpc, -⟩ := Core.advance_leaves hl hlast ht len
    exact ⟨hloop, hpc⟩

/-! ## MLOOP -/

/-- Reading the body words uses up free values alone. -/
theorem State.codeWord_free (s : State) (k off : Nat) : ∃ n, (s.codeWord k off).1 = { s with free := n } := by
  unfold State.codeWord
  extract_lets cur old
  split
  · exact ⟨s.free, rfl⟩
  · exact ⟨s.free + 1, rfl⟩

/-- One unfolding of a recursion on a number, by the steps of the recursion alone. -/
theorem exists_brecOn_succ {motive : Nat → Sort _} (F : (n : Nat) → Nat.below (motive := motive) n → motive n) (n : Nat) :
    ∃ b, b.1 = Nat.brecOn n F ∧ Nat.brecOn (n + 1) F = F (n + 1) b := ⟨_, rfl, rfl⟩

/-- The scan of one more body word, as the recursion has it: its equation by rfl would have the kernel evaluate the word. -/
theorem State.scanBody_succ (k laddr n : Nat) :
    ∃ b : Nat.below (motive := fun _ => State → Nat → State × Except Nat (List Nat × List Nat)) (n + 1),
      (∀ s off, b.1 s off = State.scanBody s k laddr n off) ∧
        ∀ s off, State.scanBody s k laddr (n + 1) off = State.scanBody._f k laddr (n + 1) b s off := by
  delta State.scanBody
  obtain ⟨b, hb, h⟩ := exists_brecOn_succ (State.scanBody._f k laddr) n
  exact ⟨b, fun s off => congrFun (congrFun hb s) off, fun s off => congrFun (congrFun h s) off⟩

/-- A scan step has what every state has that reading words alone reaches, where the rest of the scan has it. -/
theorem State.scanBody_step (P : State → Prop) (k laddr n : Nat)
    (b : Nat.below (motive := fun _ => State → Nat → State × Except Nat (List Nat × List Nat)) (n + 1))
    (hcode : ∀ s a, P s → P (State.codeWord s k a).1) (hb : ∀ s off, P s → P (b.1 s off).1) (s : State) (off : Nat) (hs : P s) :
    P (State.scanBody._f k laddr (n + 1) b s off).1 := by
  delta State.scanBody._f
  generalize State.codeWord = code at hcode ⊢
  generalize State.padSize = pad
  generalize isTwo = two
  generalize opcOf = opc
  have hword := hcode s (laddr + off) hs
  by_cases hbeyond : pad s k < laddr + off + 8
  · exact Eq.mpr (congrArg (fun x => P (Prod.fst x)) (if_pos hbeyond)) hs
  · refine Eq.mpr (congrArg (fun x => P (Prod.fst x)) (if_neg hbeyond)) ?_
    revert hword
    generalize code s k (laddr + off) = x
    obtain ⟨u, w⟩ := x
    intro hword
    have hrest := hb u (off + if two (opc w) then 16 else 8) hword
    by_cases hsecond : pad u k < laddr + off + (if two (opc w) then 16 else 8)
    · exact Eq.mpr (congrArg (fun x => P (Prod.fst x)) (if_pos hsecond)) hword
    · refine Eq.mpr (congrArg (fun x => P (Prod.fst x)) (if_neg hsecond)) ?_
      split
      · next v os ws h => exact Eq.mp (congrArg P (congrArg Prod.fst h : _ = v)) hrest
      · next v e h => exact Eq.mp (congrArg P (congrArg Prod.fst h : _ = v)) hrest

/-- A scan of the body words has what every state has that reading words alone reaches. -/
theorem State.scanBody_rec (P : State → Prop) (k laddr : Nat) (hcode : ∀ s a, P s → P (State.codeWord s k a).1) (n : Nat) (s : State)
    (off : Nat) (hs : P s) : P (s.scanBody k laddr n off).1 := by
  induction n generalizing s off with
  | zero => exact hs
  | succ n ih =>
    obtain ⟨b, hb, hsucc⟩ := State.scanBody_succ k laddr n
    rw [hsucc]
    exact State.scanBody_step P k laddr n b hcode (fun u o hu => by rw [hb]; exact ih u o hu) s off hs

theorem State.scanBody_free (s : State) (k laddr n off : Nat) : ∃ m, (s.scanBody k laddr n off).1 = { s with free := m } := by
  refine State.scanBody_rec (fun t => ∃ m, t = { s with free := m }) k laddr (fun t a ht => ?_) n s off ⟨s.free, rfl⟩
  obtain ⟨m, rfl⟩ := ht
  exact State.codeWord_free _ k a

/-- The core after the stage predicates P9 to P(8 + n) are cleared. -/
def Core.clearStages (r : Core) (n : Nat) : Core := (List.range n).foldl (fun r i => r.setPred (9 + i) false) r

theorem Core.clearStages_succ (r : Core) (n : Nat) : r.clearStages (n + 1) = (r.clearStages n).setPred (9 + n) false := by
  rw [Core.clearStages, List.range_succ, List.foldl_append]; rfl

theorem Core.clearStages_eq (r : Core) (n : Nat) :
    r.clearStages n = { r with p := (r.clearStages n).p, livep := (r.clearStages n).livep } := by
  induction n with
  | zero => rfl
  | succ n ih => rw [Core.clearStages_succ, Core.setPred_eq, ih]

theorem Core.pred_clearStages (r : Core) {n j : Nat} (hn : n ≤ 7) (hj : 9 ≤ j) (hjn : j < 9 + n) : (r.clearStages n).pred j = false := by
  induction n with
  | zero => omega
  | succ n ih =>
    rw [Core.clearStages_succ, Core.pred_setPred _ (by omega) (by omega)]
    split
    · rfl
    · exact ih (by omega) (by omega)

theorem Core.startLoop_eq (r : Core) (l : LoopPos) :
    r.startLoop l = (r.clearStages (stages l.n l.ii - 1)).atPos { l with round := 0, p := 0, fresh := true, undo := none } := by
  rw [Core.startLoop, Core.startRound, if_pos (Nat.zero_le _)]
  rfl


section
variable {f : FmtBL} {s t : State} {offs ws : List Nat}
variable (hscan : s.scanBody s.fk s.fcore.pc.toNat (f.n1.toNat + 1) 8 = (t, .ok (offs, ws)))
include hscan

theorem State.scanBody_eq_free : ∃ m, t = { s with free := m } := by
  obtain ⟨m, hm⟩ := s.scanBody_free s.fk s.fcore.pc.toNat (f.n1.toNat + 1) 8
  exact ⟨m, by rw [← hm, hscan]⟩

/-- Where the core goes on after the body. -/
theorem State.pastBody :
    t.modCore s.fk s.fc (fun r => { r with pc := wNat (s.fcore.pc.toNat + (offs[f.n1.toNat + 1]?).getD 0), run := .running }) =
      t.jumped (wNat (s.fcore.pc.toNat + (offs[f.n1.toNat + 1]?).getD 0)) := by
  obtain ⟨m, rfl⟩ := State.scanBody_eq_free hscan
  rfl

theorem execMloop_off (h : ¬ s.Enabled f.g) :
    execMloop f s = .next (t.jumped (wNat (s.fcore.pc.toNat + (offs[f.n1.toNat + 1]?).getD 0))) := by
  rw [← State.pastBody hscan]
  obtain ⟨m, rfl⟩ := State.scanBody_eq_free hscan
  have hoff : (s.fcore.stageOn && s.fcore.guard f.g) = false := by
    rw [Bool.eq_false_iff]
    exact fun hon => h (Bool.and_eq_true_iff.1 hon)
  unfold execMloop
  dsimp only
  rw [hscan]
  exact if_pos (by rw [Bool.not_eq_true']; exact hoff)

variable (he : s.Enabled f.g) (hheld : s.fcore.held = none)
include he hheld

/-- What an enabled MLOOP does once its body is scanned and no loop is held. -/
theorem execMloop_enabled :
    execMloop f s = (match ws.findIdx? bodyBad with
      | some i => .next (t.stopped s.fk s.fc (.trap cLOOPBODY (wNat (s.fcore.pc.toNat + (offs[i]?).getD 0))))
      | none =>
        match s.fcore.useX f.xtrip f.w with
        | .error e => .next (t.stopped s.fk s.fc e)
        | .ok c =>
          if c = 0 then .next (t.jumped (wNat (s.fcore.pc.toNat + (offs[f.n1.toNat + 1]?).getD 0)))
          else .next (t.putCore ((({ s.fcore with run := .running }) : Core).startLoop
            { laddr := wNat s.fcore.pc.toNat, n := f.n1.toNat + 1, ii := f.ii1.toNat + 1, trip := c.toNat, round := 0, p := 0,
              offs := offs }))) := by
  rw [← State.pastBody hscan]
  obtain ⟨m, rfl⟩ := State.scanBody_eq_free hscan
  obtain ⟨hstage, hguard⟩ := he
  have hon : (!(s.fcore.stageOn && s.fcore.guard f.g)) = false := by rw [hstage, hguard]; rfl
  unfold execMloop
  dsimp only
  rw [hscan]
  have hnot : ¬ (!(({ s with free := m } : State).fcore.stageOn && ({ s with free := m } : State).fcore.guard f.g)) = true := by
    rw [Bool.not_eq_true]; exact hon
  have hnone : ¬ ({ s with free := m } : State).fcore.held.isSome = true := by
    show ¬ s.fcore.held.isSome = true
    rw [hheld]; exact Bool.false_ne_true
  exact (if_neg hnot).trans (if_neg hnone)

end

/-- A core with run set and its loop begun: round 0 at the first position, the later stage predicates clear. -/
theorem Core.startLoop_shows (r : Core) (laddr : Word) (n ii trip : Nat) (offs : List Nat) (hs : stages n ii ≤ 8) (ht : trip ≠ 0) :
    let l : LoopPos := { laddr := laddr, n := n, ii := ii, trip := trip, round := 0, p := 0, offs := offs }
    let r' := r.startLoop l
    r'.loop = some { l with fresh := true } ∧ r'.pc = laddr + wNat ((offs[0]?).getD 0) ∧ r'.openRound.pred 8 = true ∧
      (∀ j, 9 ≤ j → j < 8 + stages n ii → r'.pred j = false) ∧ r'.rbase = r.rbase ∧ r'.x = r.x ∧ r'.a = r.a := by
  intro l r'
  have hstart : r' = (r.clearStages (stages n ii - 1)).atPos { l with fresh := true } := r.startLoop_eq l
  have hloop : r'.loop = some { l with fresh := true } := by rw [hstart]; rfl
  refine ⟨hloop, by rw [hstart]; rfl, ?opens, fun j hj hlt => ?later, ?rest⟩
  case opens => exact (Core.openRound_pred hloop rfl).trans (decide_eq_true (Nat.pos_of_ne_zero ht))
  case later => rw [hstart]; exact r.pred_clearStages (by omega) hj (by omega)
  case rest => rw [hstart, r.clearStages_eq]; exact ⟨rfl, rfl, rfl⟩

theorem moduloLoopTrip : ModuloLoopTrip := by
  intro f s t offs ws hscan n ii nstages past
  refine ⟨fun h => execMloop_off hscan h, fun he hheld => ⟨fun i hi => ?body, fun hgood hzero => ?zero, fun c hgood hst hc hx => ?starts⟩⟩
  case body =>
    show execMloop f s = _
    rw [execMloop_enabled hscan he hheld, hi]
  case zero =>
    show execMloop f s = _
    rw [execMloop_enabled hscan he hheld, hgood, Core.useX_of_holds hzero]
    rfl
  case starts =>
    have hexec := execMloop_enabled hscan he hheld
    rw [hgood, Core.useX_of_holds hx] at hexec
    dsimp only at hexec
    rw [if_neg hc, wNat, BitVec.ofNat_toNat, BitVec.setWidth_eq] at hexec
    obtain ⟨m, rfl⟩ := State.scanBody_eq_free hscan
    have hne : c.toNat ≠ 0 := fun h => hc (BitVec.eq_of_toNat_eq h)
    obtain ⟨hloop, hpc, hopen, hlater, hrb, hxs, has⟩ :=
      Core.startLoop_shows { s.fcore with run := .running } s.fcore.pc (f.n1.toNat + 1) (f.ii1.toNat + 1) c.toNat offs hst hne
    refine ⟨_, hexec, ?_⟩
    rw [State.putCore, show ({ s with free := m } : State).fk = s.fk from rfl, show ({ s with free := m } : State).fc = s.fc from rfl,
      State.core_setCore_same]
    exact ⟨hloop, hpc, hopen, hlater, hrb, hxs, has, rfl, rfl, rfl⟩

/-- Settles O14: MLOOP by its scan, its guard and its count, then each position of a loop by the one that follows it. -/
theorem moduloLoops : Obligations.ModuloLoops := ⟨moduloLoopTrip, moduloOrder⟩

end Sys2Proof.Machine
end

section
/-! Special registers (02 R29, R30; 04 R81): what MFS reads, and what MTS writes by the number it names. -/

namespace Sys2Proof.Machine

/-! ## MFS -/

theorem execMfs_allowed {f : FmtS} {s : State} (he : s.Enabled f.g) (hn : f.s1.toNat < 11 ∨ isPriv s.fk s.fc = true)
    (hd : s.fcore.Ready f.d) : execMfs f s = .next (s.wroteX f.d (s.special f.s1.toNat) false) := by
  have hnot : ¬ (11 ≤ f.s1.toNat ∧ (!isPriv s.fk s.fc) = true) := by
    rw [Bool.not_eq_true']
    exact fun ⟨hle, hpriv⟩ => hn.elim (fun h => Nat.not_le.2 h hle) fun h => Bool.false_ne_true (hpriv.symm.trans h)
  unfold execMfs
  exact guarded_ok he (by simp only [if_neg hnot, Core.writeX_of_ready hd, bind, Except.bind, pure, Except.pure])

theorem execMfs_privileged {f : FmtS} {s : State} (he : s.Enabled f.g) (hn : 11 ≤ f.s1.toNat) (hp : isPriv s.fk s.fc = false) :
    execMfs f s = .next (s.stopped s.fk s.fc (.trap cPRIVILEGE (wNat f.s1.toNat))) := by
  have hpriv : 11 ≤ f.s1.toNat ∧ (!isPriv s.fk s.fc) = true := ⟨hn, by rw [hp]; rfl⟩
  unfold execMfs
  exact guarded_error he (if_pos hpriv)

/-- STATUS reads with PRIV (02 R30). -/
theorem State.getLsbD_special_status (s : State) (i : Nat) :
    (s.special 2).getLsbD i = if i = 16 then isPriv s.fk s.fc || s.fcore.status.getLsbD 16 else s.fcore.status.getLsbD i := by
  have hbit : (0x10000 : Word).getLsbD i = decide (i = 16) := by
    rw [show (0x10000 : Word) = BitVec.twoPow 64 16 from rfl, BitVec.getLsbD_twoPow]
    by_cases h : i = 16
    · subst h; rfl
    · rw [decide_eq_false h, decide_eq_false (Ne.symm h), Bool.and_false]
  have hspecial : s.special 2 = if isPriv s.fk s.fc then s.fcore.status ||| 0x10000 else s.fcore.status := rfl
  rw [hspecial]
  by_cases hi : i = 16
  · rw [if_pos hi]
    cases isPriv s.fk s.fc
    · rw [hi]; rfl
    · rw [if_pos rfl, BitVec.getLsbD_or, hbit, decide_eq_true hi, Bool.or_true, Bool.true_or]
  · rw [if_neg hi]
    split
    · rw [BitVec.getLsbD_or, hbit, decide_eq_false hi, Bool.or_false]
    · rfl

/-! ## MTS -/

theorem execMts_allowed {f : FmtS} {s : State} {v : Word} (he : s.Enabled f.g) (hx : s.fcore.Holds f.s1 v false)
    (hn : f.d.toNat < 6 ∨ isPriv s.fk s.fc = true) (hh : f.d.toNat ≠ 12) :
    execMts f s = .next ((s.setSpecial f.d.toNat v).retire s.fk s.fc 1) := by
  have hnot : ¬ ((6 ≤ f.d.toNat ∧ (!isPriv s.fk s.fc) = true) ∨ f.d.toNat = 12) := by
    rw [Bool.not_eq_true']
    rintro (⟨hle, hpriv⟩ | h)
    · exact hn.elim (fun h => Nat.not_le.2 h hle) fun h => Bool.false_ne_true (hpriv.symm.trans h)
    · exact hh h
  unfold execMts
  exact guarded_ok he (by simp only [if_neg hnot, Core.useX_of_holds hx, bind, Except.bind, pure, Except.pure])

theorem execMts_privileged {f : FmtS} {s : State} (he : s.Enabled f.g)
    (h : (6 ≤ f.d.toNat ∧ isPriv s.fk s.fc = false) ∨ f.d.toNat = 12) :
    execMts f s = .next (s.stopped s.fk s.fc (.trap cPRIVILEGE (wNat f.d.toNat))) := by
  have hpriv : (6 ≤ f.d.toNat ∧ (!isPriv s.fk s.fc) = true) ∨ f.d.toNat = 12 := by rwa [Bool.not_eq_true']
  unfold execMts
  exact guarded_error he (if_pos hpriv)

/-- Reseeding changes generators alone, of the bank. -/
theorem Bank.applyReseeds_core (b : Bank) (c : CoreIx) : b.applyReseeds.core c = b.core c := by
  unfold Bank.applyReseeds
  dsimp only
  split <;> (cases c <;> rfl)

theorem State.reseed_eq (s : State) (seed : BitVec 32) :
    s.reseed seed = s ∨ ∃ f : Bank → Bank, (∀ b c, (f b).core c = b.core c) ∧ s.reseed seed = s.modBank s.fk f := by
  unfold State.reseed
  split
  · exact .inr ⟨_, fun b c => by cases c <;> rfl, rfl⟩
  · exact .inl rfl
  · split
    · exact .inr ⟨_, fun b c => by cases c <;> rfl, rfl⟩
    split
    · refine .inr ⟨_, fun b c => ?_, rfl⟩
      rw [Bank.applyReseeds_core]
      cases c <;> rfl
    · exact .inl rfl

/-- Nothing but a bank differs after its core is written, changed by f, and written again. -/
theorem State.onlyBank_setBank (s : State) (b : Bank) : s.OnlyBank (s.setBank s.fk b) := by
  rw [State.OnlyBank, State.bank_setBank_same]

theorem State.setCore_eq_setBank (s : State) (k : Nat) (c : CoreIx) (r : Core) :
    s.setCore k c r = s.setBank k ((s.bank k).setCore c r) := rfl

theorem State.setBank_modBank (s : State) (k : Nat) (b : Bank) (f : Bank → Bank) : (s.setBank k b).modBank k f = s.setBank k (f b) := by
  rw [State.modBank, State.bank_setBank_same, State.setBank_setBank]

theorem State.setBank_setCore (s : State) (k : Nat) (b : Bank) (c : CoreIx) (r : Core) :
    (s.setBank k b).setCore k c r = s.setBank k (b.setCore c r) := by
  rw [State.setCore, State.bank_setBank_same, State.setBank_setBank]

theorem execMts_status {f : FmtS} {s : State} {v : Word} (he : s.Enabled f.g) (hx : s.fcore.Holds f.s1 v false) (hd : f.d = 2) :
    ∃ u, execMts f s = .next u ∧ (u.core s.fk s.fc).status = v &&& 0xFFFFFFFF00000E1F ∧ s.OnlyBank u ∧
      (s.fc = .x → execMts f s = .next ((s.putCore { s.fcore with status := v &&& 0xFFFFFFFF00000E1F }).retire s.fk s.fc 1)) := by
  have hnum : f.d.toNat = 2 := by rw [hd]; rfl
  have hexec := execMts_allowed he hx (.inl (by omega)) (by omega)
  have hset : s.setSpecial f.d.toNat v = (s.putCore { s.fcore with status := v &&& 0xFFFFFFFF00000E1F }).reseed (stSeed v) := by
    rw [hnum]; rfl
  rw [hset] at hexec
  refine ⟨_, hexec, ?status, ?bank, fun hfc => ?x⟩
  case x =>
    have hput : (s.putCore { s.fcore with status := v &&& 0xFFFFFFFF00000E1F }).fc = .x := hfc
    rw [hexec, State.reseed, hput]
  case status =>
    rw [State.retire, State.core_modCore_same]
    refine (Core.advance_status _ 1).trans ?_
    obtain hsame | ⟨g, hg, hmod⟩ := State.reseed_eq (s.putCore { s.fcore with status := v &&& 0xFFFFFFFF00000E1F }) (stSeed v)
    · rw [hsame, State.putCore, State.core_setCore_same]
    · rw [hmod, (State.Keeps.modBank _ _ hg).core, State.putCore, State.core_setCore_same]
  case bank =>
    obtain hsame | ⟨g, hg, hmod⟩ := State.reseed_eq (s.putCore { s.fcore with status := v &&& 0xFFFFFFFF00000E1F }) (stSeed v)
    · rw [hsame, State.putCore, State.retire_setCore]
      exact s.onlyBank_setBank _
    · have hfk : (s.putCore { s.fcore with status := v &&& 0xFFFFFFFF00000E1F }).fk = s.fk := rfl
      rw [hmod, hfk, State.putCore, State.setCore_eq_setBank, State.setBank_modBank, State.retire, State.modCore, State.setBank_setCore]
      exact s.onlyBank_setBank _

/-- Settles O15: what each special register reads, and MTS by the register it names. -/
theorem specialRegisters : Obligations.SpecialRegisters := by
  refine ⟨fun f s he hn hd => execMfs_allowed he hn hd, fun s => ?reads, fun f s he hn hp => execMfs_privileged he hn hp,
    fun f s v he hx => ?writes⟩
  case reads =>
    refine ⟨rfl, rfl, ?_, fun i hi => ?_, rfl, rfl, rfl, rfl, rfl, rfl, fun hdie => ⟨?_, ?_⟩, rfl, rfl⟩
    · rw [State.getLsbD_special_status, if_pos rfl]
    · rw [State.getLsbD_special_status, if_neg hi]
    · exact if_pos hdie
    · exact if_pos hdie
  case writes =>
    have hunpriv {n : Nat} (hd : f.d.toNat = n) (hn : n < 6) : execMts f s = .next ((s.setSpecial n v).retire s.fk s.fc 1) := by
      subst hd
      exact execMts_allowed he hx (.inl hn) (by omega)
    have hpriv {n : Nat} (hd : f.d.toNat = n) (hn : n ≠ 12) (hp : isPriv s.fk s.fc = true) :
        execMts f s = .next ((s.setSpecial n v).retire s.fk s.fc 1) := by
      subst hd
      exact execMts_allowed he hx (.inr hp) hn
    have hmasks (hp : isPriv s.fk s.fc = true) : hasMasks (s.cls s.fk) s.fk s.fc = false := by
      rw [hasMasks, (Bool.and_eq_true_iff.1 hp).1]; rfl
    refine ⟨fun hd => hunpriv (n := 0) (by rw [hd]; rfl) (by decide), fun hd => hunpriv (n := 1) (by rw [hd]; rfl) (by decide),
      fun hd => execMts_status he hx hd, fun hd => hunpriv (n := 3) (by rw [hd]; rfl) (by decide),
      fun hd => hunpriv (n := 4) (by rw [hd]; rfl) (by decide), fun hd => hunpriv (n := 5) (by rw [hd]; rfl) (by decide),
      fun hd hp => ?ignored, fun hd hp => hpriv (n := 8) (by rw [hd]; rfl) (by decide) hp,
      fun hd hp => hpriv (n := 10) (by rw [hd]; rfl) (by decide) hp, fun h => execMts_privileged he h⟩
    obtain hd | hd | hd := hd
    · exact hpriv (n := 6) (by rw [hd]; rfl) (by decide) hp
    · exact hpriv (n := 7) (by rw [hd]; rfl) (by decide) hp
    · refine (hpriv (n := 9) (by rw [hd]; rfl) (by decide) hp).trans ?_
      rw [State.setSpecial]
      simp only [hmasks hp, Bool.false_eq_true, if_false]

end Sys2Proof.Machine
end

section
/-! Full and empty, the engine's queue, waiting and ending (02 R28; 04 R78 to R85): each instruction by what its core, its engine and its
windows hold. -/

namespace Sys2Proof.Machine

/-! ## XEMPTY and XFULLQ -/

theorem execXempty_of_ready {f : FmtS} {s : State} (he : s.Enabled f.g) (hd : s.fcore.Ready f.d) :
    execXempty f s = .next ((s.putCore { s.fcore with
      x := vset s.fcore.x (s.fcore.px f.d.toNat) { s.fcore.xreg (s.fcore.px f.d.toNat) with fill := .awaiting } }).retire s.fk s.fc 1) := by
  unfold execXempty
  exact onCore_ok he (by simp only [Core.freeX_of_ready hd, bind, Except.bind, pure, Except.pure])

theorem execXfullq_enabled {f : FmtS} {s : State} (he : s.Enabled f.g) :
    execXfullq f s = .next ((s.putCore (s.fcore.setPred (f.d.toNat % 16)
      (decide (f.s1 = 0 ∨ (s.fcore.xreg (s.fcore.px f.s1.toNat)).fill = .full)))).retire s.fk s.fc 1) := by
  unfold execXfullq
  refine onCore_ok he (congrArg (fun b => Except.ok (s.fcore.setPred (f.d.toNat % 16) b)) ?_)
  rw [Bool.decide_or, Bool.beq_eq_decide_eq, Bool.beq_eq_decide_eq]

/-! ## EQDRAIN and EQLEVEL -/

theorem State.drain_of_none {s : State} (h : engineOf (s.cls s.fk) s.fk s.fc = none) (w : Wait) : s.drain w = .ok () := by
  simp only [State.drain, h]

section
variable {s : State} {e : EngIx} (h : engineOf (s.cls s.fk) s.fk s.fc = some e)
include h

theorem State.drain_stopped {c : Nat} (hs : ((s.bank s.fk).engine e).stop = some c) (w : Wait) :
    s.drain w = .error (.trap cENGINE (wNat c)) := by
  simp only [State.drain, h, hs, trap]

theorem State.drain_empty (hs : ((s.bank s.fk).engine e).stop = none) (hq : ((s.bank s.fk).engine e).entries = []) (w : Wait) :
    s.drain w = .ok () := by
  simp only [State.drain, h, hs, hq, if_true]

theorem State.drain_waits (hs : ((s.bank s.fk).engine e).stop = none) (hq : ((s.bank s.fk).engine e).entries ≠ []) (w : Wait) :
    s.drain w = .error (.wait w) := by
  simp only [State.drain, h, hs, hq, if_false, stall]

end

section
variable {f : FmtS} {s : State} (he : s.Enabled f.g)
include he

theorem execEqdrain_ok (h : s.drain .drain = .ok ()) : execEqdrain f s = .next (s.retire s.fk s.fc 1) := by
  unfold execEqdrain
  exact guarded_ok he (by simp only [h, bind, Except.bind, pure, Except.pure])

theorem execEqdrain_error {e : Stop} (h : s.drain .drain = .error e) : execEqdrain f s = .next (s.stopped s.fk s.fc e) := by
  unfold execEqdrain
  exact guarded_error he (by simp only [h, bind, Except.bind])

theorem execEqlevel_none (hn : engineOf (s.cls s.fk) s.fk s.fc = none) (hd : s.fcore.Ready f.d) :
    execEqlevel f s = .next (s.wroteX f.d 0 false) := by
  unfold execEqlevel
  exact guarded_ok he (by simp only [hn, Core.writeX_of_ready hd, bind, Except.bind, pure, Except.pure])

theorem execEqlevel_some {e : EngIx} (hs : engineOf (s.cls s.fk) s.fk s.fc = some e) (hd : s.fcore.Ready f.d) (hj : f.d ≠ 0) :
    let q := (s.bank s.fk).engine e
    execEqlevel f s = .next ((s.putCore (s.fcore.awaits (s.fcore.px f.d.toNat)
      (wNat (q.entries.length + (if q.stop.isSome then 2 ^ 63 else 0))) false)).retire s.fk s.fc 1) := by
  unfold execEqlevel
  exact guarded_ok he (by simp only [hs, Core.lateX_of_ready hj hd, bind, Except.bind, pure, Except.pure])

end

/-- A core with a result on the way, once its instruction has retired. -/
theorem State.core_of_awaits (s : State) (r : Core) {i : Nat} (hi : i < 32) (v : Word) (bad : Bool) :
    let u := (s.putCore (r.awaits i v bad)).retire s.fk s.fc 1
    (u.core s.fk s.fc).results = r.results ++ [⟨i, v, bad⟩] ∧ ((u.core s.fk s.fc).xreg i).fill = .load ∧
      s.OnlyCore u := by
  intro u
  have hu : u = s.setCore s.fk s.fc { (r.awaits i v bad).advance 1 with run := .running } := State.retire_setCore _ _ _ _ _
  rw [hu, State.core_setCore_same]
  refine ⟨Core.advance_results _ _, ?_, State.OnlyCore.setCore s _⟩
  rw [Core.xreg, Core.advance_x]
  exact congrArg XReg.fill (r.xreg_awaits hi v bad)

/-- Settles O17: the two instructions of a register, and the two of a queue by the engine that the core owns. -/
theorem fullEmptyAndQueues : Obligations.FullEmptyAndQueues := by
  refine ⟨fun f s he hd => execXempty_of_ready he hd, fun f s he => execXfullq_enabled he,
    fun f s he hn => ⟨execEqdrain_ok he (State.drain_of_none hn _), fun hd => execEqlevel_none he hn hd⟩, ?_⟩
  intro f s e he hs q
  refine ⟨fun hstop hempty => execEqdrain_ok he (State.drain_empty hs hstop hempty _),
    fun hstop hne => execEqdrain_error he (State.drain_waits hs hstop hne _),
    fun c hstop => execEqdrain_error he (State.drain_stopped hs hstop _), fun hd hj => ?_⟩
  obtain ⟨hres, hfill, -⟩ := s.core_of_awaits s.fcore (s.fcore.px_lt f.d) (wNat (q.entries.length + (if q.stop.isSome then 2 ^ 63 else 0))) false
  exact ⟨_, execEqlevel_some he hs hd hj, hres, hfill⟩

/-! ## NOP, PAUSE, WAITWP -/

theorem execNop_enabled {f : FmtS} {s : State} (he : s.Enabled f.g) : execNop f s = .next (s.retire s.fk s.fc 1) := by
  unfold execNop
  exact guarded_ok he rfl

/-- A core with nothing to take back of its round is left as it is. -/
theorem Core.closeRound_of_none {r : Core} (h : (r.loop.bind (·.undo)).isSome = false) : r.closeRound = r := by
  unfold Core.closeRound
  split
  · next l hl =>
    rw [hl, Option.bind_some] at h
    split
    · next hu => rw [hu] at h; exact Bool.noConfusion h
    · rfl
  · rfl

/-- A core that waits, for what has no queue of waiters, closes its round and is blocked; nothing else differs. -/
theorem State.stopped_wait {s : State} {k : Nat} {c : CoreIx} {w : Wait} (hw : ∀ t : State, t.block k c w =
    t.modCore k c (fun r => { r with run := .blocked w })) :
    s.stopped k c (.wait w) = s.setCore k c { (s.core k c).closeRound with run := .blocked w } := by
  rw [State.stopped, hw, State.closeRound]
  split
  · exact State.modCore_setCore s k c _ _
  · next h =>
    rw [Core.closeRound_of_none (Bool.eq_false_iff.2 h)]
    rfl

theorem execPause_enabled {f : FmtS} {s : State} (he : s.Enabled f.g) :
    ∃ a b c, execPause f s = .next (s.setCore s.fk s.fc { s.fcore.closeRound with run := .blocked (.pause a b c) }) := by
  refine ⟨(s.cell s.fk).cycle, (s.bank s.fk).changes, s.fcore.fills, ?_⟩
  unfold execPause
  exact (guarded_error he rfl).trans (congrArg Host.Outcome.next (State.stopped_wait fun _ => rfl))

section
variable {f : FmtS} {s t : State} {c : Word} {b : Val} (he : s.Enabled f.g) (hx : s.fcore.Holds f.s1 c false)
variable (hb : s.op2 immS f.b = .ok (t, b)) (hgood : b.bad = false)
include he hx hb hgood

theorem execWaitwp_reached (hc : c.toNat < 16) (ho : (vget (t.bank t.fk).chans c.toNat {}).st = .open_)
    (hn : b.v.toNat ≤ (vget (t.bank t.fk).chans c.toNat {}).wp) : execWaitwp f s = .next (t.retire s.fk s.fc 1) := by
  have hnot : ¬ (16 ≤ c.toNat ∨ (vget (t.bank t.fk).chans c.toNat {}).st ≠ .open_) := fun h => h.elim (Nat.not_le.2 hc) (· ho)
  unfold execWaitwp
  exact guarded_ok he (by
    simp only [Core.readX_of_holds hx, hb, consume, Val.use_good hgood, if_neg hnot, if_pos hn, bind, Except.bind, pure, Except.pure,
      Bool.false_eq_true, if_false])

theorem execWaitwp_waits (hc : c.toNat < 16) (ho : (vget (t.bank t.fk).chans c.toNat {}).st = .open_)
    (hn : (vget (t.bank t.fk).chans c.toNat {}).wp < b.v.toNat) :
    execWaitwp f s = .next (s.stopped s.fk s.fc (.wait (.wp c.toNat b.v))) := by
  have hnot : ¬ (16 ≤ c.toNat ∨ (vget (t.bank t.fk).chans c.toNat {}).st ≠ .open_) := fun h => h.elim (Nat.not_le.2 hc) (· ho)
  unfold execWaitwp
  exact guarded_error he (by
    simp only [Core.readX_of_holds hx, hb, consume, Val.use_good hgood, if_neg hnot, if_neg (Nat.not_le.2 hn), stall, bind, Except.bind,
      Bool.false_eq_true, if_false])

theorem execWaitwp_closed (hc : 16 ≤ c.toNat ∨ (vget (t.bank t.fk).chans c.toNat {}).st ≠ .open_) :
    execWaitwp f s = .next (s.stopped s.fk s.fc (.trap cCHANNEL c)) := by
  unfold execWaitwp
  exact guarded_error he (by
    simp only [Core.readX_of_holds hx, hb, consume, Val.use_good hgood, if_pos hc, trap, bind, Except.bind, Bool.false_eq_true, if_false])

end

/-! ## DONE -/

/-- A core that DONE ends. -/
def Core.ended (r : Core) : Core := { r.fillAwaiting with run := .done, pc := r.pc + 8 }

theorem vget_map {α β : Type} {n i : Nat} (hi : i < n) (v : Vector α n) (f : α → β) (d : α) (e : β) : vget (v.map f) i e = f (vget v i d) := by
  simp [vget, hi]

theorem vget_mem {α : Type} {n i : Nat} (hi : i < n) (v : Vector α n) (d : α) : vget v i d ∈ v.toList := by
  simp [vget, hi]

/-- With no result on the way, filling the awaiting registers leaves every register full with its value. -/
theorem Core.xreg_fillAwaiting {r : Core} (h : r.pending = false) {i : Nat} (hi : i < 32) :
    (r.fillAwaiting.xreg i).val = (r.xreg i).val ∧ (r.fillAwaiting.xreg i).fill = .full := by
  have hfilled : r.fillAwaiting.xreg i = if (r.xreg i).fill = .awaiting then { r.xreg i with fill := .full } else r.xreg i := by
    simp only [Core.xreg, Core.fillAwaiting, vget_map (d := ({} : XReg)) hi]
    rfl
  have hnot : (r.xreg i).fill ≠ .load ∧ (r.xreg i).fill ≠ .entry := by
    have hall := List.any_eq_false.1 h (r.xreg i) (vget_mem hi r.x {})
    simpa using hall
  rw [hfilled]
  cases hfill : (r.xreg i).fill
  · rw [if_neg (by decide)]; exact ⟨rfl, hfill⟩
  · exact absurd hfill hnot.1
  · exact absurd hfill hnot.2
  · exact ⟨rfl, rfl⟩

theorem execDone_settled {f : FmtS} {s : State} (he : s.Enabled f.g) (hp : s.fcore.pending = false) (hd : s.drain .parked = .ok ())
    (ho : (s.bank s.fk).ownedBy s.fc = none) : execDone f s = .next (s.setCore s.fk s.fc s.fcore.ended) := by
  obtain ⟨hstage, hguard⟩ := he
  unfold execDone
  simp only [hstage, hguard, hp, hd, ho, Bool.and_self, Bool.false_eq_true, if_true, if_false, bind, Except.bind, pure, Except.pure]
  rfl

theorem execDone_owning {f : FmtS} {s : State} {m : Nat} (he : s.Enabled f.g) (hp : s.fcore.pending = false)
    (hd : s.drain .parked = .ok ()) (ho : (s.bank s.fk).ownedBy s.fc = some m) :
    execDone f s = .next (s.stopped s.fk s.fc (.trap cMUTEX (wNat m))) := by
  obtain ⟨hstage, hguard⟩ := he
  unfold execDone
  simp only [hstage, hguard, hp, hd, ho, Bool.and_self, Bool.false_eq_true, if_true, if_false, bind, Except.bind, trap]

/-! ## CWBIND -/

theorem execCwbind_unbinds {f : FmtS} {s : State} (he : s.Enabled f.g) (h : aIdx f.s1 = 0) :
    execCwbind f s = .next ((s.putCore { s.fcore with win := vset s.fcore.win f.d.toNat {} }).retire s.fk s.fc 1) := by
  unfold execCwbind
  refine guarded_ok he ?_
  rw [if_pos h]
  rfl

section
variable {f : FmtS} {s t : State} {b : Val} (he : s.Enabled f.g) (hb : s.op2 immS f.b = .ok (t, b)) (hne : aIdx f.s1 ≠ 0)
variable (hgood : b.bad = false)
include he hb hne hgood

theorem execCwbind_binds {start : Int} (hstart : start = (t.fcore.areg (aIdx f.s1)).ptr.toNat + b.v.toInt)
    (hok : t.winOk t.fk (t.fcore.areg (aIdx f.s1)) start = true) :
    let w := t.bindWin t.fk t.fcore.wcount { t.fcore.areg (aIdx f.s1) with ptr := BitVec.ofInt 64 start }
    execCwbind f s = .next ((t.putCore { t.fcore with win := vset t.fcore.win f.d.toNat w }).retire s.fk s.fc 1) := by
  subst hstart
  unfold execCwbind
  refine guarded_ok he ?_
  rw [if_neg hne]
  simp only [hb, Val.use_good hgood, hok, if_true, bind, Except.bind, pure, Except.pure]
  rfl

theorem execCwbind_bounds {start : Int} (hstart : start = (t.fcore.areg (aIdx f.s1)).ptr.toNat + b.v.toInt)
    (hbad : t.winOk t.fk (t.fcore.areg (aIdx f.s1)) start = false) :
    execCwbind f s = .next (s.stopped s.fk s.fc (.trap cBOUNDS (BitVec.ofInt 64 start))) := by
  subst hstart
  unfold execCwbind
  refine guarded_error he ?_
  rw [if_neg hne]
  simp only [hb, Val.use_good hgood, hbad, Bool.false_eq_true, if_false, bind, Except.bind, trap, w64]

end

/-! ## What a window holds (02 R28; 10 R210) -/

theorem Mem.byte_part {m : Mem} (hm : Rising m) {a n x : Nat} (hx : a ≤ x ∧ x < a + n) : (m.part a n).byte x = m.byte x := by
  have habove : Rising (m.above a) := hm.sublist (List.dropWhile_sublist _)
  rw [Mem.byte, Mem.part, kget, Mem.get_below _ _ habove, if_pos hx.2, Mem.get_above _ _ hm, if_pos hx.1]
  rfl

/-- The flagged granules of a range are among those kept of it. -/
theorem nsHas_filter_range (m : NSet) {base n i : Nat} (hi : i < n) :
    nsHas (m.filter (fun g => decide (base < g * 64 + 64) && decide (g * 64 < base + n))) ((base + i) / 64) = nsHas m ((base + i) / 64) := by
  have hin : (decide (base < (base + i) / 64 * 64 + 64) && decide ((base + i) / 64 * 64 < base + n)) = true := by
    rw [Bool.and_eq_true, decide_eq_true_eq, decide_eq_true_eq]
    omega
  rw [nsHas, nsHas, Bool.eq_iff_iff, List.contains_iff_mem, List.contains_iff_mem, List.mem_filter]
  exact ⟨fun h => h.1, fun h => ⟨h, hin⟩⟩

/-- Beside the control block a range is seen as it is stored. -/
theorem State.byte_seePart {s : State} (hm : s.mem.wf = true) {a n x : Nat} (hx : a ≤ x ∧ x < a + n) (hctl : inCtl x = false) :
    (s.seePart a n).byte x = s.mem.byte x := by
  have hwf := Mem.wf_part hm a n
  have hpart := Mem.byte_part (Mem.wf_rising hm) hx
  unfold inCtl at hctl
  unfold State.seePart
  generalize padBase (svc Config.schedDie) = ctl at hctl ⊢
  extract_lets lo hi m
  split
  · next hlt =>
    rw [Mem.byte_write (Mem.wf_rising hwf), if_neg, hpart]
    rw [Bool.and_eq_false_iff, decide_eq_false_iff_not, decide_eq_false_iff_not] at hctl
    simp only [List.length_map, List.length_range]
    omega
  · exact hpart

theorem State.winNow_buf (s : State) (k : Nat) {a : AReg} (hk : a.kind = 2) {i : Nat} (hi : i < a.limit.toNat - a.ptr.toNat)
    (hm : (s.bank k).snap.wf = true) :
    let base := bufKey a.bind.toNat a.ptr.toNat
    (s.winNow k a).1.byte (base + i) = (s.bank k).snap.byte (base + i) ∧
      nsHas (s.winNow k a).2 ((base + i) / 64) = nsHas (s.bank k).snapBad ((base + i) / 64) := by
  have hbase : winBase k a = bufKey a.bind.toNat a.ptr.toNat := by rw [winBase, hk]; rfl
  rw [State.winNow, hbase, if_pos hk]
  exact ⟨Mem.byte_part (Mem.wf_rising hm) ⟨Nat.le_add_right _ _, Nat.add_lt_add_left hi _⟩, nsHas_filter_range _ hi⟩

theorem State.winNow_chip (s : State) (k : Nat) {a : AReg} (hk : a.kind ≠ 2) {i : Nat} (hi : i < a.limit.toNat - a.ptr.toNat)
    (hm : s.mem.wf = true) :
    let base := (if a.kind = 1 then padBase k else 0) + a.ptr.toNat
    inCtl (base + i) = false → (s.winNow k a).1.byte (base + i) = s.mem.byte (base + i) ∧
      nsHas (s.winNow k a).2 ((base + i) / 64) = nsHas s.memBad ((base + i) / 64) := by
  have hbase : winBase k a = (if a.kind = 1 then padBase k else 0) + a.ptr.toNat := by
    unfold winBase
    have hnum (n : Nat) (hn : n < 16) : a.kind.toNat = n ↔ a.kind = BitVec.ofNat 4 n := by
      rw [← BitVec.toNat_inj, BitVec.toNat_ofNat, Nat.mod_eq_of_lt hn]
    split
    · next h =>
      have h1 : a.kind = 1 := (hnum 1 (by decide)).1 h
      rw [if_pos h1]
    · next h => exact absurd ((hnum 2 (by decide)).1 h) hk
    · next h _ =>
      have h1 : a.kind ≠ 1 := fun h1 => h ((hnum 1 (by decide)).2 h1)
      rw [if_neg h1, Nat.zero_add]
  rw [State.winNow, hbase, if_neg hk]
  exact fun hctl => ⟨State.byte_seePart hm ⟨Nat.le_add_right _ _, Nat.add_lt_add_left hi _⟩ hctl, nsHas_filter_range _ hi⟩

/-- A window may only be bound at an address of its register's range. -/
theorem State.start_of_winOk {s : State} {k : Nat} {a : AReg} {start : Int} (h : s.winOk k a start = true) :
    (BitVec.ofInt 64 start).toNat = start.toNat := by
  simp only [State.winOk, Bool.and_eq_true, decide_eq_true_eq] at h
  obtain ⟨⟨⟨-, hbase⟩, hlimit⟩, -⟩ := h
  have := a.limit.isLt
  rw [BitVec.toNat_ofInt]
  omega

theorem cwbindWindow {t : State} {a : AReg} {start : Int} (hok : t.winOk t.fk a start = true) :
    let w := t.bindWin t.fk t.fcore.wcount { a with ptr := BitVec.ofInt 64 start }
    ∃ (m : Mem) (bad : NSet), w.bound = true ∧ w.reg = { a with ptr := BitVec.ofInt 64 start } ∧ w.first = t.fcore.wcount ∧
      w.vers = [(m, bad)] ∧
      (let base := (if a.kind = 1 then padBase t.fk else 0) + start.toNat;
        a.kind ≠ 2 → t.mem.wf → ∀ i, i < a.limit.toNat - start.toNat → inCtl (base + i) = false →
        m.byte (base + i) = t.mem.byte (base + i) ∧ nsHas bad ((base + i) / 64) = nsHas t.memBad ((base + i) / 64)) ∧
      (let base := bufKey a.bind.toNat start.toNat;
        let b := t.bank t.fk;
        a.kind = 2 → b.snap.wf → ∀ i, i < a.limit.toNat - start.toNat →
        m.byte (base + i) = b.snap.byte (base + i) ∧ nsHas bad ((base + i) / 64) = nsHas b.snapBad ((base + i) / 64)) := by
  intro w
  have hptr := State.start_of_winOk hok
  refine ⟨_, _, rfl, rfl, rfl, rfl, fun hk hm i hi hctl => ?_, fun hk hm i hi => ?_⟩
  · have h := t.winNow_chip t.fk (a := { a with ptr := BitVec.ofInt 64 start }) hk (i := i) (by rw [hptr]; exact hi) hm
    rw [hptr] at h
    exact h hctl
  · have h := t.winNow_buf t.fk (a := { a with ptr := BitVec.ofInt 64 start }) hk (i := i) (by rw [hptr]; exact hi) hm
    rw [hptr] at h
    exact h

/-- Settles O18: each instruction by what it waits for or binds. -/
theorem endingAndWaiting : Obligations.EndingAndWaiting := by
  refine ⟨fun f s he => execNop_enabled he, fun f s he => ?pause, fun f s he hp hd => ⟨fun ho => ?done, fun m ho => execDone_owning he hp hd ho⟩,
    fun f s t c b he hx hb hgood => ⟨fun hc ho hn => execWaitwp_reached he hx hb hgood hc ho hn,
      fun hc ho hn => execWaitwp_waits he hx hb hgood hc ho hn, fun hc => execWaitwp_closed he hx hb hgood hc⟩,
    fun f s he h => execCwbind_unbinds he h, ?bind⟩
  case pause =>
    obtain ⟨a, b, c, hexec⟩ := execPause_enabled he
    refine ⟨_, a, b, c, hexec, ?_⟩
    rw [State.core_setCore_same]
    exact ⟨rfl, State.OnlyCore.setCore s _⟩
  case done =>
    refine ⟨_, execDone_settled he hp hd ho, State.OnlyCore.setCore s _, ?_⟩
    rw [State.core_setCore_same]
    exact ⟨rfl, rfl, fun i hi => Core.xreg_fillAwaiting hp hi⟩
  case bind =>
    intro f s t b he hb a start hne hgood
    refine ⟨fun hok => ?_, fun hbad => execCwbind_bounds he hb hne hgood rfl hbad⟩
    obtain ⟨m, bad, hbound, hreg, hfirst, hvers, hchip, hbuf⟩ := cwbindWindow hok
    exact ⟨_, m, bad, hbound, hreg, hfirst, hvers, hchip, hbuf, execCwbind_binds he hb hne hgood rfl hok⟩

end Sys2Proof.Machine
end

section
/-! Taking a trap and returning (02 R33; 15 R287 to R290, R304; 19 R349): what a core keeps as it leaves the queues, its engine is cleared and
it enters a handler, and how a task ends. -/

namespace Sys2Proof.Machine

/-! ## Cores: awaiting and released registers -/

theorem Core.xreg_fillAwaiting_val (r : Core) {i : Nat} (hi : i < 32) :
    (r.fillAwaiting.xreg i).val = (r.xreg i).val ∧ (r.fillAwaiting.xreg i).poison = (r.xreg i).poison := by
  simp only [Core.xreg, Core.fillAwaiting, vget_map (d := ({} : XReg)) hi]
  split <;> exact ⟨rfl, rfl⟩

/-- Releasing the destinations of entries changes which registers are full, and no value. -/
theorem Core.release_shows (r : Core) (es : List Entry) :
    (∃ x n, r.release es = { r with x := x, fills := n }) ∧
      ∀ i, ((r.release es).xreg i).val = (r.xreg i).val ∧ ((r.release es).xreg i).poison = (r.xreg i).poison := by
  unfold Core.release
  refine List.foldlRecOn (motive := fun u : Core => (∃ x n, u = { r with x := x, fills := n }) ∧
    ∀ i, (u.xreg i).val = (r.xreg i).val ∧ (u.xreg i).poison = (r.xreg i).poison) es _ ⟨⟨r.x, r.fills, rfl⟩, fun _ => ⟨rfl, rfl⟩⟩ ?_
  rintro u ⟨⟨x, n, rfl⟩, hvals⟩ e -
  split
  · next j _ =>
    split
    · refine ⟨⟨_, _, rfl⟩, fun i => ?_⟩
      rw [← (hvals i).1, ← (hvals i).2, Core.xreg, vget_vset]
      split
      · next h => obtain ⟨rfl, -⟩ := h; exact ⟨rfl, rfl⟩
      · exact ⟨rfl, rfl⟩
    · exact ⟨⟨x, n, rfl⟩, hvals⟩
  · exact ⟨⟨x, n, rfl⟩, hvals⟩

/-! ## Banks: queues of waiters and credits -/

@[simp] theorem Bank.leave_core (b : Bank) (c d : CoreIx) : (b.leave c).core d = b.core d := by cases d <;> rfl
@[simp] theorem Bank.leave_task (b : Bank) (c : CoreIx) : (b.leave c).task = b.task := rfl
@[simp] theorem Bank.leave_ending (b : Bank) (c : CoreIx) : (b.leave c).ending = b.ending := rfl
@[simp] theorem Bank.leave_engine (b : Bank) (c : CoreIx) (e : EngIx) : (b.leave c).engine e = b.engine e := by cases e <;> rfl
@[simp] theorem Bank.setCore_engine (b : Bank) (c : CoreIx) (r : Core) (e : EngIx) : (b.setCore c r).engine e = b.engine e := by
  cases c <;> cases e <;> rfl
@[simp] theorem Bank.setCore_ending (b : Bank) (c : CoreIx) (r : Core) : (b.setCore c r).ending = b.ending := by cases c <;> rfl
@[simp] theorem Bank.setCore_sem (b : Bank) (c : CoreIx) (r : Core) (m : Nat) : (b.setCore c r).sem m = b.sem m := by cases c <;> rfl
@[simp] theorem Bank.setEngine_core (b : Bank) (e : EngIx) (q : Engine) (c : CoreIx) : (b.setEngine e q).core c = b.core c := by
  cases e <;> cases c <;> rfl
@[simp] theorem Bank.setEngine_sem (b : Bank) (e : EngIx) (q : Engine) (m : Nat) : (b.setEngine e q).sem m = b.sem m := by cases e <;> rfl
@[simp] theorem Bank.engine_setEngine_same (b : Bank) (e : EngIx) (q : Engine) : (b.setEngine e q).engine e = q := by cases e <;> rfl

theorem vget_of_le {α : Type} {n i : Nat} (hi : n ≤ i) (v : Vector α n) (d : α) : vget v i d = d := by
  simp [vget, Nat.not_lt.2 hi]

theorem Bank.leave_sem_val (b : Bank) (c : CoreIx) (m : Nat) : ((b.leave c).sem m).val = (b.sem m).val := by
  unfold Bank.leave Bank.sem
  obtain hm | hm := Nat.lt_or_ge m 32
  · rw [vget_map (d := ({} : Sem)) hm]
  · rw [vget_of_le hm, vget_of_le hm]

/-- b' differs from b in the credits and the waiters of its semaphores alone. -/
def Bank.Credits (b b' : Bank) : Prop := (∃ x, b' = { b with sems := x }) ∧ ∀ m, (b'.sem m).val = (b.sem m).val

theorem Bank.Credits.refl (b : Bank) : b.Credits b := ⟨⟨b.sems, rfl⟩, fun _ => rfl⟩

theorem Bank.Credits.trans {b b' b'' : Bank} (h : b.Credits b') (h' : b'.Credits b'') : b.Credits b'' := by
  obtain ⟨⟨x, rfl⟩, hv⟩ := h
  obtain ⟨⟨y, rfl⟩, hv'⟩ := h'
  exact ⟨⟨y, rfl⟩, fun m => (hv' m).trans (hv m)⟩

/-- A semaphore replaced by one of the same value. -/
theorem Bank.Credits.vset (b : Bank) (n : Nat) {x : Sem} (hx : x.val = (b.sem n).val) : b.Credits { b with sems := vset b.sems n x } := by
  refine ⟨⟨_, rfl⟩, fun m => ?_⟩
  rw [Bank.sem, vget_vset]
  split
  · next h => rw [hx, h.1]
  · rfl

theorem Bank.Credits.addCredit (b : Bank) (n cnt : Nat) : b.Credits (b.addCredit n cnt) := Bank.Credits.vset b n rfl

theorem Bank.Credits.subCredit (b : Bank) (n cnt : Nat) : b.Credits (b.subCredit n cnt) := Bank.Credits.vset b n rfl

theorem Bank.dropEntries_credits (b : Bank) (e : EngIx) (es : List Entry) :
    b.Credits (es.foldl (fun b x =>
      let b := if x.q.wsem = 0 then b else
        let b := b.addCredit x.q.wsem.toNat (waits x.q)
        { b with sems := vset b.sems x.q.wsem.toNat { b.sem x.q.wsem.toNat with
            queue := (b.sem x.q.wsem.toNat).queue.filter (fun w => w.who != .entry e x.uid) } }
      if x.q.ssem = 0 then b else b.subCredit x.q.ssem.toNat (signals x.q)) b) := by
  refine List.foldlRecOn (motive := fun u => b.Credits u) es _ (Bank.Credits.refl b) fun u hu x _ => hu.trans ?_
  have hwait : u.Credits (if x.q.wsem = 0 then u else
      let b := u.addCredit x.q.wsem.toNat (waits x.q)
      { b with sems := vset b.sems x.q.wsem.toNat { b.sem x.q.wsem.toNat with
          queue := (b.sem x.q.wsem.toNat).queue.filter (fun w => w.who != .entry e x.uid) } }) := by
    split
    · exact Bank.Credits.refl u
    · exact (Bank.Credits.addCredit u _ _).trans (Bank.Credits.vset (u.addCredit x.q.wsem.toNat (waits x.q)) x.q.wsem.toNat rfl)
  dsimp only at hwait ⊢
  split
  · exact hwait
  · exact hwait.trans (Bank.Credits.subCredit _ _ _)

/-! ## Clearing a stopped queue (15 R290) -/

@[simp] theorem Bank.applyReseeds_engine (b : Bank) (e : EngIx) : b.applyReseeds.engine e = b.engine e := by
  unfold Bank.applyReseeds
  dsimp only
  split <;> (cases e <;> rfl)

@[simp] theorem Bank.applyReseeds_sem (b : Bank) (m : Nat) : b.applyReseeds.sem m = b.sem m := by
  unfold Bank.applyReseeds
  dsimp only
  split <;> rfl

/-- Discarded entries leave their engine, release their core's registers, and give their credits back. -/
theorem Bank.dropEntries_shows (b : Bank) (e : EngIx) (es : List Entry) :
    (∀ m, ((b.dropEntries e es).sem m).val = (b.sem m).val) ∧
      (b.dropEntries e es).core (ownerOf e) = (b.core (ownerOf e)).release es ∧
      (∀ d, d ≠ ownerOf e → (b.dropEntries e es).core d = b.core d) ∧
      (b.dropEntries e es).engine e =
        { b.engine e with entries := (b.engine e).entries.filter (fun x => !es.any (fun y => y.uid == x.uid)) } := by
  obtain ⟨⟨x, hx⟩, hval⟩ := b.dropEntries_credits e es
  unfold Bank.dropEntries
  dsimp only at hx hval ⊢
  rw [hx] at hval ⊢
  have hcore (c : CoreIx) : ({ b with sems := x } : Bank).core c = b.core c := by cases c <;> rfl
  have hengine : ({ b with sems := x } : Bank).engine e = b.engine e := by cases e <;> rfl
  refine ⟨fun m => ?_, ?_, fun d hd => ?_, ?_⟩
  · rw [Bank.applyReseeds_sem, Bank.setCore_sem, Bank.setEngine_sem]; exact hval m
  · rw [Bank.applyReseeds_core, Bank.core_setCore_same, Bank.setEngine_core, hcore]
  · rw [Bank.applyReseeds_core, Bank.core_setCore, if_neg hd, Bank.setEngine_core, hcore]
  · rw [Bank.applyReseeds_engine, Bank.setCore_engine, Bank.engine_setEngine_same, hengine]

/-- Of a queue, clearing keeps the entries before the one at fault. -/
theorem filter_not_culprit (es : List Entry) (u : Nat) :
    es.filter (fun x => !(es.filter (fun x => decide (u ≤ x.uid))).any (fun y => y.uid == x.uid)) = es.filter (fun x => decide (x.uid < u)) := by
  refine List.filter_congr fun x hx => ?_
  rw [Bool.eq_iff_iff, Bool.not_eq_true', decide_eq_true_eq, List.any_eq_false]
  constructor
  · intro h
    by_contra hle
    exact h x (List.mem_filter.2 ⟨hx, decide_eq_true (Nat.not_lt.1 hle)⟩) (beq_self_eq_true _)
  · intro hlt y hy hsame
    have hle := of_decide_eq_true (List.mem_filter.1 hy).2
    rw [eq_of_beq hsame] at hle
    exact Nat.not_le.2 hlt hle

/-- The entries that the clearing of a stopped queue discards. -/
def Engine.faulted (q : Engine) : List Entry :=
  match q.culprit with
  | some u => q.entries.filter (fun x => decide (u ≤ x.uid))
  | none => q.entries

theorem Bank.clearStop_eq (b : Bank) (e : EngIx) :
    b.clearStop e = (b.dropEntries e (b.engine e).faulted).setEngine e
      { (b.dropEntries e (b.engine e).faulted).engine e with stop := none, culprit := none } := rfl

theorem Bank.clearStop_shows (b : Bank) (e : EngIx) :
    ((b.clearStop e).engine e).stop = none ∧
      (∀ u, (b.engine e).culprit = some u →
        ((b.clearStop e).engine e).entries = (b.engine e).entries.filter (fun x => decide (x.uid < u))) ∧
      (∀ m, ((b.clearStop e).sem m).val = (b.sem m).val) ∧
      (∃ es, (b.clearStop e).core (ownerOf e) = (b.core (ownerOf e)).release es) ∧
      (∀ d, d ≠ ownerOf e → (b.clearStop e).core d = b.core d) := by
  obtain ⟨hval, howner, hother, hengine⟩ := b.dropEntries_shows e (b.engine e).faulted
  rw [Bank.clearStop_eq]
  refine ⟨?_, fun u hu => ?_, fun m => ?_, ⟨(b.engine e).faulted, ?_⟩, fun d hd => ?_⟩
  · rw [Bank.engine_setEngine_same]
  · rw [Bank.engine_setEngine_same, hengine]
    have hfaulted : (b.engine e).faulted = (b.engine e).entries.filter (fun x => decide (u ≤ x.uid)) := by rw [Engine.faulted, hu]
    rw [hfaulted]
    exact filter_not_culprit _ u
  · rw [Bank.setEngine_sem]; exact hval m
  · rw [Bank.setEngine_core]; exact howner
  · rw [Bank.setEngine_core]; exact hother d hd

theorem ownerOf_engineOf {cls k : Nat} {c : CoreIx} {e : EngIx} (h : engineOf cls k c = some e) : ownerOf e = c := by
  unfold engineOf at h
  split at h
  · split at h
    · exact nomatch h
    · cases h; rfl
  · exact nomatch h
  · split at h
    · cases h; rfl
    · exact nomatch h

/-! ## Delivery (15 R287, R291) -/

/-- A bank whose core has left every queue of waiters, its awaiting registers full. -/
def Bank.unqueued (b : Bank) (c : CoreIx) : Bank := (b.leave c).setCore c (b.core c).fillAwaiting

theorem Bank.unqueued_shows (b : Bank) (c : CoreIx) :
    (b.unqueued c).core c = (b.core c).fillAwaiting ∧ (∀ d, d ≠ c → (b.unqueued c).core d = b.core d) ∧
      (∀ m, ((b.unqueued c).sem m).val = (b.sem m).val) ∧ (∀ e, (b.unqueued c).engine e = b.engine e) ∧
      (b.unqueued c).task = b.task ∧ (b.unqueued c).ending = b.ending := by
  refine ⟨Bank.core_setCore_same _ _ _, fun d hd => ?_, fun m => ?_, fun e => ?_, ?_, ?_⟩
  · rw [Bank.unqueued, Bank.core_setCore, if_neg hd, Bank.leave_core]
  · rw [Bank.unqueued, Bank.setCore_sem, Bank.leave_sem_val]
  · rw [Bank.unqueued, Bank.setCore_engine, Bank.leave_engine]
  · rw [Bank.unqueued, Bank.setCore_task, Bank.leave_task]
  · rw [Bank.unqueued, Bank.setCore_ending, Bank.leave_ending]

/-- A bank after the clearing that goes with a cause. -/
def Bank.clearedFor (b : Bank) (cls k : Nat) (c : CoreIx) (cause : Nat) : Bank :=
  if cause = cENGINE then (match engineOf cls k c with | some e => b.clearStop e | none => b) else b

theorem State.clearFor_setBank (s : State) (k : Nat) (b : Bank) (c : CoreIx) (cause : Nat) :
    (s.setBank k b).clearFor k c cause = s.setBank k (b.clearedFor (s.cls k) k c cause) := by
  have hcls : (s.setBank k b).cls k = s.cls k := rfl
  unfold State.clearFor Bank.clearedFor
  rw [hcls]
  split
  · cases engineOf (s.cls k) k c
    · rfl
    · exact State.setBank_modBank s k b _
  · rfl

theorem Bank.clearedFor_shows (b : Bank) (cls k : Nat) (c : CoreIx) (cause : Nat) :
    (∀ e, cause = cENGINE → engineOf cls k c = some e → ((b.clearedFor cls k c cause).engine e).stop = none ∧
        ∀ u, (b.engine e).culprit = some u →
          ((b.clearedFor cls k c cause).engine e).entries = (b.engine e).entries.filter (fun x => decide (x.uid < u))) ∧
      (∀ m, ((b.clearedFor cls k c cause).sem m).val = (b.sem m).val) ∧
      (∃ es, (b.clearedFor cls k c cause).core c = (b.core c).release es) ∧
      (∀ d, d ≠ c → (b.clearedFor cls k c cause).core d = b.core d) := by
  unfold Bank.clearedFor
  split
  · next hcause =>
    cases he : engineOf cls k c with
    | none => exact ⟨fun _ _ h => (nomatch h), fun _ => rfl, ⟨[], rfl⟩, fun _ _ => rfl⟩
    | some e =>
      obtain ⟨hstop, hentries, hval, howner, hother⟩ := b.clearStop_shows e
      rw [ownerOf_engineOf he] at howner hother
      refine ⟨fun e' _ he' => ?_, hval, howner, hother⟩
      cases he'
      exact ⟨hstop, hentries⟩
  · next hcause => exact ⟨fun _ h => absurd h hcause, fun _ => rfl, ⟨[], rfl⟩, fun _ _ => rfl⟩

/-- The bank as its core enters a handler at an address. -/
def Bank.entered (b : Bank) (cls k : Nat) (c : CoreIx) (cause : Nat) (tval pc : Word) : Bank :=
  let b' := (b.unqueued c).clearedFor cls k c cause
  b'.setCore c ((b'.core c).enter cause tval pc)

section
variable {s : State} {k : Nat} {c : CoreIx}

theorem State.core_of_unqueued (s : State) (k : Nat) (c : CoreIx) :
    ((s.setBank k ((s.bank k).unqueued c)).bank k).core c = (s.core k c).fillAwaiting := by
  rw [State.bank_setBank_same]
  exact ((s.bank k).unqueued_shows c).1

theorem State.takeTrap_eq_deliver (hp : (s.core k c).pending = false) (cause : Nat) (tval : Word) :
    s.takeTrap k c cause tval = s.deliver k c cause tval := by
  rw [State.takeTrap, hp, Bool.false_and, if_neg Bool.false_ne_true]

theorem State.enter_cleared (s : State) (k : Nat) (c : CoreIx) (cause : Nat) (tval pc : Word) :
    ((s.setBank k ((s.bank k).unqueued c)).clearFor k c cause).modCore k c (fun r => r.enter cause tval pc) =
      s.setBank k ((s.bank k).entered (s.cls k) k c cause tval pc) := by
  rw [State.clearFor_setBank, State.modCore, State.setBank_setCore, State.core, State.bank_setBank_same]
  rfl

theorem State.fwEntry_unqueued (s : State) (k d : Nat) (b : Bank) : (s.setBank k b).fwEntry d = s.fwEntry d := rfl

/-- What the delivery of a trap does, as a choice by what the bank and the core are. -/
theorem State.deliver_eq (s : State) (k : Nat) (c : CoreIx) (cause : Nat) (tval : Word) :
    s.deliver k c cause tval =
      (let t := s.setBank k ((s.bank k).unqueued c)
      let r := (t.bank k).core c
      let eng := if cause = cENGINE then tval.toNat else 0
      if isPriv k c then
        if r.h then t.fwFail (k / 128) 0x1D
        else (t.clearFor k c cause).modCore k c (fun r => r.enter cause tval (wNat ((t.clearFor k c cause).fwEntry (k / 128))))
      else if endsTask cause ∨ endsTask eng then t.endTask k c cause tval r.pc eng
      else match (t.bank k).handler c with
        | none => t.endTask k c cause tval r.pc eng
        | some h =>
          if (t.bank k).spec then t.endTask k c cause tval r.pc eng
          else if r.h then t.endTask k c cDOUBLE (wNat cause) r.pc 0
          else (t.clearFor k c cause).modCore k c (fun r => r.enter cause tval h)) := rfl

theorem Bank.handler_unqueued (b : Bank) (c : CoreIx) : (b.unqueued c).handler c = b.handler c := by
  have htask := (b.unqueued_shows c).2.2.2.2.1
  rw [Bank.handler, Bank.handler, Bank.secWord, Bank.recWord, htask]
  rfl

theorem Bank.spec_unqueued (b : Bank) (c : CoreIx) : (b.unqueued c).spec = b.spec := by
  have htask := (b.unqueued_shows c).2.2.2.2.1
  rw [Bank.spec, htask]
  rfl

/-- A task's core enters its handler. -/
theorem State.takeTrap_enters {cause : Nat} {tval h : Word} (hpriv : isPriv k c = false) (hcause : endsTask cause = false)
    (heng : cause = cENGINE → endsTask tval.toNat = false) (hh : (s.bank k).handler c = some h) (hspec : (s.bank k).spec = false)
    (hout : (s.core k c).h = false) (hp : (s.core k c).pending = false) :
    s.takeTrap k c cause tval = s.setBank k ((s.bank k).entered (s.cls k) k c cause tval h) := by
  have hends : ¬ (endsTask cause = true ∨ endsTask (if cause = cENGINE then tval.toNat else 0) = true) := by
    rw [hcause]
    rintro (h | h)
    · exact Bool.false_ne_true h
    · split at h
      · next he => rw [heng he] at h; exact Bool.false_ne_true h
      · exact absurd h (by decide)
  have hnoth : ¬ (((s.setBank k ((s.bank k).unqueued c)).bank k).core c).h = true := by
    rw [s.core_of_unqueued k c]
    exact fun hin => Bool.false_ne_true (hout.symm.trans hin)
  have hnospec : ¬ ((s.setBank k ((s.bank k).unqueued c)).bank k).spec = true := by
    rw [State.bank_setBank_same, Bank.spec_unqueued, hspec]
    exact Bool.false_ne_true
  have hhandler : ((s.setBank k ((s.bank k).unqueued c)).bank k).handler c = some h := by
    rw [State.bank_setBank_same, Bank.handler_unqueued, hh]
  rw [State.takeTrap_eq_deliver hp, State.deliver_eq]
  simp only [hpriv, Bool.false_eq_true, if_false, if_neg hends, hhandler, if_neg hnospec, if_neg hnoth, State.enter_cleared]

end

theorem trapEntry : TrapEntry := by
  intro s k cause c tval h hpriv hcause heng hh hspec hout hp r t r'
  have ht : t = s.setBank k ((s.bank k).entered (s.cls k) k c cause tval h) := State.takeTrap_enters hpriv hcause heng hh hspec hout hp
  obtain ⟨hcore, hother, hval, hengine, -, -⟩ := (s.bank k).unqueued_shows c
  obtain ⟨hstop, hval', ⟨es, hcore'⟩, hother'⟩ := ((s.bank k).unqueued c).clearedFor_shows (s.cls k) k c cause
  obtain ⟨⟨x, n, hrel⟩, hrelval⟩ := r.fillAwaiting.release_shows es
  have hr' : r' = (r.fillAwaiting.release es).enter cause tval h := by
    show t.core k c = _
    rw [ht, State.core, State.bank_setBank_same, Bank.entered, Bank.core_setCore_same, hcore', hcore]
    rfl
  have hx (i : Nat) (hi : i < 32) : (r'.xreg i).val = (r.xreg i).val ∧ (r'.xreg i).poison = (r.xreg i).poison := by
    have henter : r'.xreg i = (r.fillAwaiting.release es).xreg i := by rw [hr']; rfl
    obtain ⟨hv, hb⟩ := hrelval i
    obtain ⟨hv', hb'⟩ := r.xreg_fillAwaiting_val hi
    rw [henter]
    exact ⟨hv.trans hv', hb.trans hb'⟩
  have hbank : t.bank k = (s.bank k).entered (s.cls k) k c cause tval h := by rw [ht, State.bank_setBank_same]
  rw [hrel] at hr'
  refine ⟨by rw [hr']; rfl, by rw [hr']; rfl, by rw [hr']; rfl, by rw [hr']; rfl, by rw [hr']; rfl, by rw [hr']; rfl, by rw [hr']; rfl,
    by rw [hr']; rfl, hx, by rw [hr']; rfl, by rw [hr']; rfl, by rw [hr']; rfl, by rw [hr']; rfl, by rw [hr']; rfl, fun e hc he => ?engine,
    fun m => ?sems, fun d hd => ?cores, ?frame⟩
  case engine =>
    obtain ⟨hs, hent⟩ := hstop e hc he
    rw [hbank, Bank.entered, Bank.setCore_engine]
    rw [hengine] at hent
    exact ⟨hs, hent⟩
  case sems => rw [hbank, Bank.entered, Bank.setCore_sem, hval', hval]
  case cores => rw [hbank, Bank.entered, Bank.core_setCore, if_neg hd, hother' d hd, hother d hd]
  case frame => rw [hbank]; exact ht

theorem firmwareTrapEntry : FirmwareTrapEntry := by
  intro s k cause tval hserv hout hp r'
  have hpriv : isPriv k .x = true := by rw [isPriv, hserv]; rfl
  have hnoth : ¬ (((s.setBank k ((s.bank k).unqueued .x)).bank k).core .x).h = true := by
    rw [s.core_of_unqueued k .x]
    exact fun hin => Bool.false_ne_true (hout.symm.trans hin)
  have hentry : (((s.setBank k ((s.bank k).unqueued .x)).clearFor k .x cause).fwEntry (k / 128)) = s.fwEntry (k / 128) := by
    rw [State.clearFor_setBank]; rfl
  obtain ⟨hcore, -⟩ := (s.bank k).unqueued_shows .x
  obtain ⟨-, -, ⟨es, hcore'⟩, -⟩ := ((s.bank k).unqueued .x).clearedFor_shows (s.cls k) k .x cause
  obtain ⟨⟨x, n, hrel⟩, -⟩ := (s.core k .x).fillAwaiting.release_shows es
  have hr' : r' = ((s.core k .x).fillAwaiting.release es).enter cause tval (wNat (s.fwEntry (k / 128))) := by
    show (s.takeTrap k .x cause tval).core k .x = _
    rw [State.takeTrap_eq_deliver hp, State.deliver_eq]
    simp only [hpriv, if_true, if_neg hnoth, hentry, State.enter_cleared]
    rw [State.core, State.bank_setBank_same, Bank.entered, Bank.core_setCore_same, hcore', hcore]
    rfl
  rw [hr', hrel]
  exact ⟨rfl, rfl, rfl, rfl, rfl⟩

theorem trapAwaitsResults : TrapAwaitsResults := by
  intro s k cause c tval hp hspec t
  have ht : t = s.setBank k (((s.bank k).leave c).setCore c { (s.core k c) with run := .blocked (.trap cause tval) }) := by
    show s.takeTrap k c cause tval = _
    have hawait : (true && !false) = true := rfl
    rw [State.takeTrap, hp, hspec, if_pos hawait, State.modBank, State.modCore, State.setBank_setCore, State.core, State.bank_setBank_same,
      Bank.leave_core]
    rfl
  have hcore : t.core k c = { (s.core k c) with run := .blocked (.trap cause tval) } := by
    rw [ht, State.core, State.bank_setBank_same, Bank.core_setCore_same]
  rw [hcore]
  exact ⟨rfl, rfl, rfl, by rw [ht, State.bank_setBank_same]⟩

/-! ## The end of a task (15 R289) -/

theorem Bank.stopCores_shows (b : Bank) :
    b.stopCores.task = b.task ∧ ∀ d, (b.core d).run ≠ .absent → (b.stopCores.core d).run = .stopped := by
  refine ⟨rfl, fun d hd => ?_⟩
  have hhalt (r : Core) (hr : r.run ≠ .absent) : (if r.run = .absent then r else { r with run := .stopped, results := [] }).run = .stopped := by
    rw [if_neg hr]
  cases d
  · exact hhalt b.e hd
  · exact hhalt b.v hd
  · exact hhalt b.x hd

/-- A task that no speculative run holds and that has not ended yet ends with the cause given. -/
theorem State.endTask_shows {s : State} {k : Nat} {t0 : Task} (ht : (s.bank k).task = some t0) (hspec : t0.spec = false)
    (hend : (s.bank k).ending = none) (c : CoreIx) (cause : Nat) (tval epc : Word) (eng : Nat) :
    s.endTask k c cause tval epc eng = s.setBank k { (s.bank k).stopCores with ending := some ⟨c, cause, tval, epc, eng⟩ } := by
  unfold State.endTask
  simp only [ht, hspec, hend, Bool.false_eq_true, if_false, Option.isSome_none]

theorem trapEndsTask : TrapEndsTask := by
  intro s k cause c tval t0 hpriv htask hspec hend hp eng stop
  obtain ⟨hcore, hother, -, -, htask', hend'⟩ := (s.bank k).unqueued_shows c
  have hbank : (s.setBank k ((s.bank k).unqueued c)).bank k = (s.bank k).unqueued c := State.bank_setBank_same _ _ _
  have hpc : (((s.setBank k ((s.bank k).unqueued c)).bank k).core c).pc = (s.core k c).pc := by rw [s.core_of_unqueued k c]; rfl
  have hrun (d : CoreIx) : (((s.bank k).unqueued c).core d).run = (s.core k d).run := by
    by_cases hd : d = c
    · rw [hd, hcore]; rfl
    · rw [hother d hd]; rfl
  have hstop (cs : Nat) (tv : Word) (en : Nat) :
      stop ((s.setBank k ((s.bank k).unqueued c)).endTask k c cs tv (s.core k c).pc en) cs tv en := by
    obtain ⟨hst, hruns⟩ := ((s.bank k).unqueued c).stopCores_shows
    rw [State.endTask_shows (t0 := t0) (by rw [hbank, htask', htask]) hspec (by rw [hbank, hend', hend]), hbank, State.setBank_setBank]
    refine ⟨by rw [State.bank_setBank_same], ?_, fun d hd => ?_, by rw [State.bank_setBank_same]⟩
    · rw [State.bank_setBank_same]; exact hst.trans (htask'.trans htask)
    · rw [State.core, State.bank_setBank_same]
      have hend (b : Bank) (x : Option Ending) : ({ b with ending := x } : Bank).core d = b.core d := by cases d <;> rfl
      rw [hend]
      exact hruns d (by rw [hrun]; exact hd)
  rw [State.takeTrap_eq_deliver hp, State.deliver_eq]
  dsimp only
  have hhandler : ((s.setBank k ((s.bank k).unqueued c)).bank k).handler c = (s.bank k).handler c := by
    rw [hbank, Bank.handler_unqueued]
  rw [hpriv, if_neg Bool.false_ne_true, hpc, hhandler]
  refine ⟨fun hcase => ?ends, fun h hcause heng hh hin => ?double⟩
  case ends =>
    by_cases hends : endsTask cause = true ∨ endsTask eng = true
    · rw [if_pos hends]; exact hstop cause tval eng
    · have hnone : (s.bank k).handler c = none := hcase.elim (fun h => absurd (.inl h) hends) (Or.elim · (fun h => absurd (.inr h) hends) id)
      rw [if_neg hends, hnone]
      exact hstop cause tval eng
  case double =>
    have hends : ¬ (endsTask cause = true ∨ endsTask eng = true) := by rw [hcause, heng]; decide
    have hnospec : ¬ ((s.setBank k ((s.bank k).unqueued c)).bank k).spec = true := by
      rw [hbank, Bank.spec_unqueued, Bank.spec, htask]
      exact fun h => Bool.false_ne_true (hspec.symm.trans h)
    have hinh : (((s.setBank k ((s.bank k).unqueued c)).bank k).core c).h = true := by rw [s.core_of_unqueued k c]; exact hin
    rw [if_neg hends, hh]
    dsimp only
    rw [if_neg hnospec, if_pos hinh]
    exact hstop cDOUBLE (wNat cause) 0

/-- Settles O19: what a bank and a core keep as a trap is delivered, and the end of a task. -/
theorem traps : Obligations.Traps := ⟨trapEntry, firmwareTrapEntry, trapAwaitsResults, trapEndsTask⟩

/-! ## TRAP and ERET (15 R288, R304) -/

theorem execTrap_enabled {f : FmtY} {s : State} (he : s.Enabled f.g) :
    execTrap f s = .next (s.stopped s.fk s.fc (.trap cTRAP (wNat f.imm.toNat))) := by
  unfold execTrap
  exact guarded_error he rfl

theorem execEret_ok {f : FmtY} {s : State} {r : Core} (he : s.Enabled f.g) (h : s.fcore.eret = .ok r) :
    execEret f s = .next (s.putCore r) := by
  obtain ⟨hstage, hguard⟩ := he
  simp only [execEret, hstage, hguard, Bool.and_self, if_true, h]

theorem execEret_error {f : FmtY} {s : State} {e : Stop} (he : s.Enabled f.g) (h : s.fcore.eret = .error e) :
    execEret f s = .next (s.stopped s.fk s.fc e) := by
  obtain ⟨hstage, hguard⟩ := he
  simp only [execEret, hstage, hguard, Bool.and_self, if_true, h]

theorem Core.eret_plain {r : Core} (ha : r.epc.toNat % 8 = 0) (hheld : r.held = none) :
    r.eret = .ok { r with h := false, held := none, run := .running, pc := r.epc } := by
  simp only [Core.eret, ha, ne_eq, not_true_eq_false, if_false, hheld]

theorem Core.eret_resumes {r : Core} {l : LoopPos} (ha : r.epc.toNat % 8 = 0) (hheld : r.held = some l)
    (hepc : r.epc = l.laddr + wNat ((l.offs[l.p]?).getD 0)) :
    r.eret = .ok { r with h := false, held := none, run := .running, loop := some l, pc := r.epc } := by
  have hoff : r.epc = l.laddr + wNat (l.offAt l.p) := hepc
  simp only [Core.eret, ha, ne_eq, not_true_eq_false, if_false, hheld, ← hoff, if_true, Core.atPos]

theorem Core.eret_unaligned {r : Core} (ha : r.epc.toNat % 8 ≠ 0) : r.eret = .error (.trap cBOUNDS r.epc) := by
  simp only [Core.eret, ha, ne_eq, not_false_eq_true, if_true, trap]

/-- Settles O20: TRAP, and ERET by the address and the loop that it returns to. -/
theorem trapAndReturn : Obligations.TrapAndReturn :=
  ⟨fun _ _ he => execTrap_enabled he,
    fun _ _ he ha => ⟨fun hheld => execEret_ok he (Core.eret_plain ha hheld), fun _ hheld hepc => execEret_ok he (Core.eret_resumes ha hheld hepc)⟩,
    fun _ _ he ha => execEret_error he (Core.eret_unaligned ha)⟩

end Sys2Proof.Machine
end

section
/-! Semaphores (04 R75): a count that a window word of a TOLERANT buffer gives is counted at the buffer's stack. Where the map of cells
is out of order, that counter's change is not of the form that the frame `OnlyRead` asks for. -/

namespace Sys2Proof.Machine

/-- An unconditional `SEMSIG` of semaphore 0 by the first word of window 0. -/
def sigByWindow : FmtS := { g := ⟨0xFF, 0, 0, 0⟩, d := 0, s1 := 0, w1 := false, b := .win 0 0 }

/-- A core whose window 0 shows a KIND 2 range with a flagged granule. -/
def coreOfFlaggedWindow : Core :=
  { win := vset (Vector.replicate 8 {}) 0 { bound := true, reg := { limit := 64, kind := 2 }, vers := [([], [0])] } }

/-- That core at work under a lease of a TOLERANT buffer, in a map of cells that is not in order. -/
def stateOfUnorderedCells : State := {
  focus := ⟨3, .x⟩
  cells := [(5, {}), (3, { b := { x := coreOfFlaggedWindow, task := some { lease := [⟨false, 0, 0, 64, .r⟩] } } })]
  bufs := [(0, { handle := 0, tag := 0, ndim := 1, layout := 0, shared := false, tolerant := true, dims := Vector.replicate 4 1, granules := 1 })] }

theorem semCount_of_flaggedWindow :
    stateOfUnorderedCells.semCount (.win 0 0) = .ok ({ stateOfUnorderedCells with hbmStacks := [(32, { subst := 1 })] }, 0) := rfl

/-- Refutes O16: reading the count changes a counter of a stack, and `kset` lists the cell of the issuing core a second time. -/
theorem not_semaphoresAndMutexes : ¬ Obligations.SemaphoresAndMutexes := by
  rintro ⟨hsem, -⟩
  obtain ⟨hframe, -⟩ := hsem sigByWindow stateOfUnorderedCells _ _ ⟨rfl, rfl⟩ semCount_of_flaggedWindow
  rcases hframe with hsame | ⟨hcore, -⟩
  · exact absurd (congrArg (fun s => s.hbmStacks.length) hsame) (by decide)
  · exact absurd (congrArg (fun s => s.cells.length) hcore) (by decide)

end Sys2Proof.Machine

end

section
/-! Every step has a next state (15 R287): each arm of `exec` gives one, since what stops an instruction is a trap, which is a state. -/

namespace Sys2Proof.Machine

/-- An outcome that is a state. -/
def IsNext (o : Out) : Prop := ∃ t, o = .next t

theorem IsNext.intro (t : State) : IsNext (.next t) := ⟨t, rfl⟩

theorem IsNext.ite {c : Prop} [Decidable c] {a b : Out} (ha : IsNext a) (hb : IsNext b) : IsNext (if c then a else b) := by
  split
  · exact ha
  · exact hb

theorem isNext_execMloop (f : FmtBL) (s : State) : IsNext (execMloop f s) := by
  unfold execMloop
  extract_lets
  split
  · exact .intro _
  · refine .ite (.intro _) (.ite (.intro _) ?_)
    split
    · exact .intro _
    · split
      · exact .intro _
      · exact .ite (.intro _) (.intro _)

theorem isNext_exec (i : Instr) (s : State) : IsNext (exec i s) := by
  cases i with
  | mloop f => exact isNext_execMloop f s
  | wdpet f => exact .ite (.intro _) ⟨_, rfl⟩
  | mailboxUnknownCode code => exact .ite (.intro _) ⟨_, rfl⟩
  | _ => exact ⟨_, rfl⟩

theorem State.isNext_runCore (s : State) (k : Nat) (c : CoreIx) : IsNext (s.runCore k c) := by
  unfold State.runCore
  refine .ite (.intro _) (.ite ?_ (.intro _))
  split
  · exact .intro _
  · exact isNext_exec _ _

theorem State.isNext_issue (s : State) (k : Nat) (c : CoreIx) : IsNext (s.issue k c) := by
  unfold State.issue
  refine .ite (.intro _) ?_
  split
  · exact .intro _
  · exact .ite (State.isNext_runCore _ _ _) (.intro _)

theorem State.isNext_move (s : State) (m : Move) : IsNext (s.move m) := by
  cases m with
  | issue k c => exact .ite (s.isNext_issue k c) (.intro _)
  | event e => exact .ite (isNext_exec _ _) (.intro _)
  | behind k i e => exact .intro _
  | elapse ns => exact .intro _
  | setting x => exact .intro _
  | boot => exact .intro _

theorem IsNext.settle {o : Out} (h : IsNext o) : IsNext (settle o) := by
  obtain ⟨t, rfl⟩ := h
  exact .intro _

theorem isNext_step (s : State) : IsNext (step s) := by
  unfold step
  dsimp only
  split
  · exact (State.isNext_move _ _).settle
  · exact (State.isNext_move _ _).settle

theorem safe (s : State) : Safe s := by
  intro n
  induction n generalizing s with
  | zero => exact ⟨s, rfl⟩
  | succ n ih =>
    obtain ⟨t, ht⟩ := isNext_step s
    obtain ⟨u, hu⟩ := ih t
    refine ⟨u, ?_⟩
    have hstep : core.step s = .next t := ht
    simp only [Host.Core.run, hstep]
    exact hu

/-- Settles O59: each move of a step gives a state, and so does every run. -/
theorem noStepStops : Obligations.NoStepStops := ⟨isNext_step, safe⟩

end Sys2Proof.Machine

end

section
/-! The spec's own words (01; 03), and what reset leaves (log 3 to 5, 8, 17): closed terms, evaluated part by part. -/

namespace Sys2Proof.Machine

/-- Settles O55: each word is decoded by evaluation. -/
theorem decodedWords : Obligations.DecodedWords := by
  unfold Obligations.DecodedWords
  decide +kernel

/-- A read beside a map of which every entry is the default gives the default. -/
theorem vget_replicate {α : Type} (n : Nat) (x : α) (j : Nat) : vget (Vector.replicate n x) j x = x := by
  rw [vget, Vector.getElem?_replicate]
  split
  · rfl
  · rfl

/-- A core just out of reset holds no binding in any A register. -/
theorem Core.areg_default (j : BitVec 4) : ({} : Core).areg j = {} := by
  rw [Core.areg]
  split
  · rfl
  · exact vget_replicate _ _ _

/-- Settles O57: each part of the reset state is its default. -/
theorem resetValues : Obligations.ResetValues := by
  unfold Obligations.ResetValues
  refine ⟨rfl, rfl, rfl, fun a => ⟨rfl, rfl, rfl⟩, rfl, rfl, rfl, rfl, rfl, rfl, fun k c => ?_, fun k j => ?_, fun k n => ?_, fun i hi => ?_,
    rfl, rfl, fun q => rfl, fun a => rfl, rfl, rfl, fun d => ⟨rfl, rfl⟩, fun st => rfl, fun v => ⟨rfl, rfl, rfl, rfl⟩, fun i => rfl, rfl⟩
  · have hcore : State.reset.core k c = {} := by cases c <;> rfl
    have hunit : (State.reset.bank k).unitOf c = {} := by cases c <;> rfl
    intro r
    have hr : r = {} := hcore
    rw [hr, hunit]
    exact ⟨rfl, rfl, rfl, rfl, rfl, rfl, rfl, rfl, rfl, rfl, rfl, rfl, rfl, rfl, rfl, rfl, rfl, fun j => vget_replicate _ _ _,
      fun j => Core.areg_default j, fun j => congrArg Win.bound (vget_replicate _ _ _),
      fun j => ⟨vget_replicate _ _ _, vget_replicate _ _ _, vget_replicate _ _ _, congrArg Port.status (vget_replicate _ _ _),
        vget_replicate _ _ _⟩, rfl⟩
  · exact ⟨vget_replicate _ _ _, vget_replicate _ _ _, vget_replicate _ _ _, rfl, congrArg Chan.st (vget_replicate _ _ _)⟩
  · exact ⟨congrArg Sem.val (vget_replicate _ _ _), vget_replicate _ _ _, rfl, rfl, rfl⟩
  · have hmeas : State.reset.geode.meas = Vector.replicate 32 (List.replicate 64 0) := rfl
    rw [hmeas, vget, Vector.getElem?_replicate, if_pos hi]
    rfl

end Sys2Proof.Machine

end

section
/-! ECALL and LEASEQ (15 R304, R305): the answer of each service, and what a lease covers. -/

namespace Sys2Proof.Machine

/-! ## ECALL -/

theorem Core.px_of_lt (r : Core) {j : Nat} (h : j < 24) : r.px j = j := by
  rw [Core.px, rot, if_pos h]

theorem Core.ready_awaits {r : Core} {j : BitVec 5} {i : Nat} (hne : r.px j.toNat ≠ i) (h : r.Ready j) (v : Word) (bad : Bool) :
    (r.awaits i v bad).Ready j := by
  have hsame : vget (r.awaits i v bad).x ((r.awaits i v bad).px j.toNat) {} = vget r.x (r.px j.toNat) {} := by
    show vget (vset r.x i _) (r.px j.toNat) {} = _
    rw [vget_vset, if_neg (fun hi => hne hi.1.symm)]
  rw [Core.Ready, hsame]
  exact h

section
variable {f : FmtY} {s : State} (he : s.Enabled f.g)
include he

/-- ECALL reads and consumes X1 to X4, and its answer is on the way to X1 and X2. -/
theorem ecall_of_holds {x1 x2 x3 x4 : Word} (h1 : s.fcore.Holds 1 x1 false) (h2 : s.fcore.Holds 2 x2 false)
    (h3 : s.fcore.Holds 3 x3 false) (h4 : s.fcore.Holds 4 x4 false) (reply : Word → Word × Word) :
    ecall f s reply = .next ((s.putCore ((s.fcore.awaits 1 (reply x1).1 false).awaits 2 (reply x1).2 false)).retire s.fk s.fc 1) := by
  have p1 : s.fcore.px (1 : BitVec 5).toNat = 1 := s.fcore.px_of_lt (by decide)
  have p2 : s.fcore.px (2 : BitVec 5).toNat = 2 := s.fcore.px_of_lt (by decide)
  have hfirst := Core.lateX_of_ready (by decide) (Core.ready_of_holds h1) (reply x1).1 false
  have hsecond := Core.lateX_of_ready (by decide)
    (Core.ready_awaits (i := 1) (by rw [p2]; decide) (Core.ready_of_holds h2) (reply x1).1 false) (reply x1).2 false
  rw [p1] at hfirst
  have p2' : (s.fcore.awaits 1 (reply x1).1 false).px (2 : BitVec 5).toNat = 2 := p2
  rw [p2'] at hsecond
  unfold ecall
  refine onCore_ok he ?_
  simp only [Core.readX_of_holds h1, Core.readX_of_holds h2, Core.readX_of_holds h3, Core.readX_of_holds h4, consume, bind, Except.bind,
    Bool.false_eq_true, if_false, hfirst, hsecond]

theorem execLeaseq_of_ready (hd : s.fcore.Ready f.x) (hx : f.x ≠ 0) :
    execLeaseq f s = .next ((s.putCore (s.fcore.awaits (s.fcore.px f.x.toNat) (s.leaseWord s.fk (s.fcore.areg f.a)) false)).retire
      s.fk s.fc 1) := by
  unfold execLeaseq
  exact onCore_ok he (Core.lateX_of_ready hx hd _ _)

end

/-- A core with two results on the way, once its instruction has retired. -/
theorem State.core_of_awaits_two (s : State) (r : Core) (v w : Word) :
    let u := (s.putCore ((r.awaits 1 v false).awaits 2 w false)).retire s.fk s.fc 1
    (u.core s.fk s.fc).results = r.results ++ [⟨1, v, false⟩, ⟨2, w, false⟩] ∧ ((u.core s.fk s.fc).xreg 1).fill = .load ∧
      ((u.core s.fk s.fc).xreg 2).fill = .load ∧ (∀ i, i ≠ 1 → i ≠ 2 → (u.core s.fk s.fc).xreg i = r.xreg i) ∧ s.OnlyCore u := by
  intro u
  have hu : u = s.setCore s.fk s.fc { ((r.awaits 1 v false).awaits 2 w false).advance 1 with run := .running } :=
    State.retire_setCore _ _ _ _ _
  have hx (i : Nat) : (u.core s.fk s.fc).xreg i = ((r.awaits 1 v false).awaits 2 w false).xreg i := by
    rw [hu, State.core_setCore_same, Core.xreg, Core.advance_x]
    rfl
  have hother (r : Core) {i j : Nat} (h : i ≠ j) (v : Word) : (r.awaits j v false).xreg i = r.xreg i := by
    rw [Core.xreg, Core.awaits, vget_vset, if_neg (fun hij => h hij.1.symm)]
    rfl
  refine ⟨?_, ?_, ?_, fun i h1 h2 => ?_, hu ▸ State.OnlyCore.setCore s _⟩
  · rw [hu, State.core_setCore_same]
    exact (Core.advance_results _ _).trans (List.append_assoc _ _ _)
  · rw [hx, hother _ (by decide), Core.xreg_awaits _ (by decide)]
  · rw [hx, Core.xreg_awaits _ (by decide)]
  · rw [hx, hother _ h2, hother _ h1]

/-! ## What a lease covers -/

/-- The entries of a lease that a test admits for a binding. -/
def leaseGood (host : Bool) (h : Nat) (ok : AccMode → Bool) (e : LeaseEnt) : Bool := e.host == host && e.h == h && ok e.mode

/-- How many entries of a lease the walk from lo may still use. -/
def leaseAhead (l : List LeaseEnt) (host : Bool) (h : Nat) (ok : AccMode → Bool) (lo : Nat) : Nat :=
  (l.filter (fun e => leaseGood host h ok e && decide (lo < e.hi))).length

/-- Going on from the end of an admitted entry, the walk has passed that entry. -/
theorem leaseAhead_lt {l : List LeaseEnt} {host : Bool} {h : Nat} {ok : AccMode → Bool} {lo : Nat} {e : LeaseEnt} (he : e ∈ l)
    (hgood : leaseGood host h ok e = true) (hlo : lo < e.hi) : leaseAhead l host h ok e.hi < leaseAhead l host h ok lo := by
  have hsub : l.filter (fun x => leaseGood host h ok x && decide (e.hi < x.hi)) =
      (l.filter (fun x => leaseGood host h ok x && decide (lo < x.hi))).filter (fun x => decide (e.hi < x.hi)) := by
    rw [List.filter_filter]
    refine List.filter_congr (fun x _ => ?_)
    rw [Bool.eq_iff_iff]
    simp only [Bool.and_eq_true, decide_eq_true_eq]
    constructor
    · rintro ⟨hx, hlt⟩
      exact ⟨hlt, hx, by omega⟩
    · rintro ⟨hlt, hx, -⟩
      exact ⟨hx, hlt⟩
  rw [leaseAhead, leaseAhead, hsub]
  refine List.length_filter_lt_length_iff_exists.2 ⟨e, List.mem_filter.2 ⟨he, ?_⟩, ?_⟩
  · rw [hgood, Bool.true_and, decide_eq_true_iff]
    exact hlo
  · rw [decide_eq_true_iff]
    exact Nat.lt_irrefl _

/-- The greedy walk covers [lo, hi) exactly if an admitted entry holds each of its bytes: each step passes the entry it uses. -/
theorem leaseCovers_iff (l : List LeaseEnt) (host : Bool) (h : Nat) (ok : AccMode → Bool) (n lo hi : Nat)
    (hn : leaseAhead l host h ok lo ≤ n) :
    leaseCovers l host h ok n lo hi = true ↔
      ∀ i < hi - lo, ∃ e ∈ l, leaseGood host h ok e = true ∧ e.lo ≤ lo + i ∧ lo + i < e.hi := by
  induction n generalizing lo with
  | zero =>
    have hnone := List.filter_eq_nil_iff.1 (List.length_eq_zero_iff.1 (Nat.le_zero.1 hn))
    rw [leaseCovers, decide_eq_true_iff]
    refine ⟨fun hle i hi => by omega, fun hall => ?_⟩
    by_contra hlt
    obtain ⟨e, he, hgood, -, hhi⟩ := hall 0 (by omega)
    exact hnone e he (by rw [hgood, Bool.true_and, decide_eq_true_iff]; omega)
  | succ n ih =>
    have hhere (e : LeaseEnt) : (e.host == host && e.h == h && ok e.mode && decide (e.lo ≤ lo) && decide (lo < e.hi)) = true ↔
        leaseGood host h ok e = true ∧ e.lo ≤ lo ∧ lo < e.hi := by
      simp only [leaseGood, Bool.and_eq_true, decide_eq_true_eq, and_assoc]
    rw [leaseCovers]
    split
    · next hle => exact ⟨fun _ i hi => by omega, fun _ => rfl⟩
    · next hlt =>
      extract_lets reach
      split
      · next m hm =>
        obtain ⟨hmem, -⟩ := List.max?_eq_some_iff.1 hm
        obtain ⟨e, hfilter, rfl⟩ := List.mem_map.1 hmem
        obtain ⟨hel, hcond⟩ := List.mem_filter.1 hfilter
        obtain ⟨hgood, hle, hlo⟩ := (hhere e).1 hcond
        rw [ih e.hi (Nat.le_of_lt_succ (Nat.lt_of_lt_of_le (leaseAhead_lt hel hgood hlo) hn))]
        constructor
        · intro hall i hi
          by_cases hin : lo + i < e.hi
          · exact ⟨e, hel, hgood, by omega, hin⟩
          · have := hall (lo + i - e.hi) (by omega)
            rwa [Nat.add_sub_cancel' (Nat.not_lt.1 hin)] at this
        · intro hall i hi
          have := hall (e.hi + i - lo) (by omega)
          rwa [Nat.add_sub_cancel' (by omega)] at this
      · next hm =>
        refine ⟨fun h => Bool.noConfusion h, fun hall => ?_⟩
        obtain ⟨e, hel, hgood, hle, hlo⟩ := hall 0 (by omega)
        have hempty := List.map_eq_nil_iff.1 (List.max?_eq_none_iff.1 hm)
        exact absurd ((hhere e).2 ⟨hgood, hle, hlo⟩) (List.filter_eq_nil_iff.1 hempty e hel)

/-- The walk with as many steps as the lease has entries decides whether a byte range is covered. -/
theorem leaseCovers_eq (l : List LeaseEnt) (host : Bool) (h : Nat) (ok : AccMode → Bool) (lo hi : Nat) :
    leaseCovers l host h ok l.length lo hi =
      decide (∀ i < hi - lo, ∃ e ∈ l, e.host = host ∧ e.h = h ∧ ok e.mode = true ∧ e.lo ≤ lo + i ∧ lo + i < e.hi) := by
  rw [Bool.eq_iff_iff, decide_eq_true_iff, leaseCovers_iff l host h ok l.length lo hi (List.length_filter_le _ _)]
  simp only [leaseGood, Bool.and_eq_true, beq_iff_eq, and_assoc]

/-! ## The word that LEASEQ answers -/

/-- Its bits 63, 0, 1 and 2, whatever bit 3 is. -/
theorem leaseBits (x r w t p : Bool) :
    let v := wNat (x.toNat * 2 ^ 63 + r.toNat + w.toNat * 2 + t.toNat * 4 + p.toNat * 8)
    v.getLsbD 63 = x ∧ v.getLsbD 0 = r ∧ v.getLsbD 1 = w ∧ v.getLsbD 2 = t := by
  revert x r w t p
  decide

theorem State.leaseWord_none {s : State} {k : Nat} {a : AReg} (h : a.kind = 0 ∨ a.kind = 5) : s.leaseWord k a = 0 := by
  rcases h with h | h
  · simp only [State.leaseWord, h]; rfl
  · simp only [State.leaseWord, h]; rfl

theorem State.leaseWord_pad {s : State} {k : Nat} {a : AReg} (h : a.kind = 1 ∨ a.kind = 3) :
    let w := s.leaseWord k a
    w.getLsbD 63 = true ∧ w.getLsbD 0 = a.canRead ∧ w.getLsbD 1 = a.canWrite ∧ w.getLsbD 2 = a.canAtomic := by
  rcases h with h | h
  · simp only [State.leaseWord, h]; exact leaseBits _ _ _ _ _
  · simp only [State.leaseWord, h]; exact leaseBits _ _ _ _ _

/-- Does the lease of a cell cover what a register names, by entries that a test admits? -/
def State.leaseSpans (s : State) (k : Nat) (host : Bool) (a : AReg) (ok : AccMode → Bool) : Bool :=
  leaseCovers (s.bank k).lease host a.bind.toNat ok (s.bank k).lease.length a.ptr.toNat a.limit.toNat

theorem State.leaseWord_spans {s : State} {k : Nat} {a : AReg} (h : a.kind = 2 ∨ a.kind = 4) :
    let w := s.leaseWord k a
    let c := s.leaseSpans k (a.kind == 4) a
    w.getLsbD 63 = c (fun _ => true) ∧ w.getLsbD 0 = c (·.permits .read) ∧ w.getLsbD 1 = c (·.permits .write) ∧
      w.getLsbD 2 = c (·.permits .acc) := by
  rcases h with h | h
  · have hhost : (a.kind == 4) = false := by rw [h]; rfl
    rw [hhost]
    simp only [State.leaseWord, h]
    exact leaseBits _ _ _ _ _
  · have hhost : (a.kind == 4) = true := by rw [h]; rfl
    rw [hhost]
    simp only [State.leaseWord, h]
    exact leaseBits _ _ _ _ _

theorem State.leaseWord_leased {s : State} {k : Nat} {a : AReg} (h : a.kind = 2 ∨ a.kind = 4) :
    let w := s.leaseWord k a
    let each := fun (ok : AccMode → Bool) => decide (∀ i < a.limit.toNat - a.ptr.toNat, ∃ e ∈ (s.bank k).lease,
      e.host = (a.kind == 4) ∧ e.h = a.bind.toNat ∧ ok e.mode = true ∧ e.lo ≤ a.ptr.toNat + i ∧ a.ptr.toNat + i < e.hi)
    w.getLsbD 63 = each (fun _ => true) ∧ w.getLsbD 0 = each (·.permits .read) ∧ w.getLsbD 1 = each (·.permits .write) ∧
      w.getLsbD 2 = each (·.permits .acc) := by
  have heach (ok : AccMode → Bool) := leaseCovers_eq (s.bank k).lease (a.kind == 4) a.bind.toNat ok a.ptr.toNat a.limit.toNat
  obtain ⟨hany, hread, hwrite, hacc⟩ := State.leaseWord_spans (s := s) (k := k) h
  exact ⟨hany.trans (heach _), hread.trans (heach _), hwrite.trans (heach _), hacc.trans (heach _)⟩

/-- Settles O21: the services by their table, and LEASEQ by the kind of its register. -/
theorem serviceCalls : Obligations.ServiceCalls := by
  refine ⟨fun p hp f s x1 x2 x3 x4 he h1 h2 h3 h4 => ?_, fun f s he hd hx => ?_⟩
  · have hexec : exec (p.1 f) s = ecall f s (p.2 s) := by
      simp only [ecallTable, List.mem_cons, List.not_mem_nil, or_false] at hp
      rcases hp with rfl | rfl | rfl | rfl | rfl
      · rfl
      · rfl
      · rfl
      · rfl
      · rfl
    rw [hexec]
    exact ⟨_, ecall_of_holds he h1 h2 h3 h4 _, s.core_of_awaits_two s.fcore _ _⟩
  · obtain ⟨hres, hfill, honly⟩ := s.core_of_awaits s.fcore (s.fcore.px_lt f.x) (s.leaseWord s.fk (s.fcore.areg f.a)) false
    exact ⟨_, execLeaseq_of_ready he hd hx, hres, ⟨State.leaseWord_none, State.leaseWord_pad, State.leaseWord_leased⟩, hfill, honly⟩

end Sys2Proof.Machine

end

section
/-! Saving and loading a context (15 R293 to R297): the words of an area, and the core that an area gives. -/

namespace Sys2Proof.Machine

/-! ## The words of an area -/

theorem length_flatMap_of_length {α β : Type} {l : List α} {f : α → List β} {n : Nat} (h : ∀ x ∈ l, (f x).length = n) :
    (l.flatMap f).length = n * l.length := by
  rw [List.length_flatMap, List.map_congr_left h, List.map_const', List.sum_replicate, smul_eq_mul, Nat.mul_comm]

theorem wAt_append_left {l l' : List Word} {i : Nat} (h : i < l.length) : wAt (l ++ l') i = wAt l i := by
  rw [wAt, List.getElem?_append_left h, wAt]

theorem wAt_append_right {l l' : List Word} {n : Nat} (h : l.length = n) (i : Nat) : wAt (l ++ l') (n + i) = wAt l' i := by
  rw [wAt, List.getElem?_append_right (by omega), h, Nat.add_sub_cancel_left, wAt]

/-- The words of the windows in the scalar section. -/
def Core.winWords (r : Core) : List Word :=
  (List.range 8).flatMap (fun i => let x := vget r.win i {}; if x.bound then x.reg.words else [0, 0, 0, 0])

theorem Core.length_winWords (r : Core) : r.winWords.length = 32 := by
  refine length_flatMap_of_length (n := 4) (fun i _ => ?_)
  dsimp only
  split
  · rfl
  · rfl

theorem Core.length_aWords (r : Core) : ((List.range 15).flatMap (fun i => (vget r.a (i + 1) {}).words)).length = 60 :=
  length_flatMap_of_length (n := 4) (fun _ _ => rfl)

/-- The words of the loop position in the scalar section. -/
def Core.loopWords (r : Core) : List Word :=
  let w := fun (f : LoopPos → Word) => match r.position with | some p => f p | none => 0
  [w (·.laddr), w (fun p => wNat p.trip), w (fun p => wNat p.round), w (fun p => wNat p.p)]

/-- The parts of the scalar section. -/
theorem Core.section_eq (r : Core) (priv : Bool) (resume : Word) (doneRep : Bool) (extra : List Word) :
    r.section_ priv resume doneRep extra = (List.range 31).map (fun i => (r.xreg (i + 1)).val) ++
      ([bitsW 32 (fun j => j != 0 && (r.xreg j).poison)] ++ ((List.range 15).flatMap (fun i => (vget r.a (i + 1) {}).words) ++
      ([(r.p &&& r.livep).zeroExtend 64] ++ (r.winWords ++
      ([r.lc, r.rbase, if priv then r.status ||| 0x10000 else r.status, r.epc, r.cause, r.tval, r.spillptr] ++ (r.loopWords ++
      ([resume, if doneRep then 1 else 0] ++ (extra ++
      [bitsW 32 (fun j => j != 0 && (r.xreg j).fill == .entry), 0])))))))) := by
  unfold Core.section_
  simp only [List.append_assoc]
  rfl

theorem Core.length_section (r : Core) (priv : Bool) (resume : Word) (doneRep : Bool) (extra : List Word) :
    (r.section_ priv resume doneRep extra).length = 140 + extra.length := by
  rw [Core.section_eq]
  simp only [List.length_append, Core.length_winWords, Core.length_aWords, List.length_map, List.length_range, Core.loopWords, List.length_cons,
    List.length_nil]
  omega

/-- The scalar section begins with the values of X1 to X31. -/
theorem Core.section_x (r : Core) (priv : Bool) (resume : Word) (doneRep : Bool) (extra : List Word) {i : Nat} (hi : i < 31) :
    wAt (r.section_ priv resume doneRep extra) i = (r.xreg (i + 1)).val := by
  rw [Core.section_eq, wAt_append_left (by rw [List.length_map, List.length_range]; exact hi), wAt, List.getElem?_map, List.getElem?_range hi]
  rfl

/-- The address to resume at is its word 136. -/
theorem Core.section_resume (r : Core) (priv : Bool) (resume : Word) (doneRep : Bool) (extra : List Word) :
    wAt (r.section_ priv resume doneRep extra) 136 = resume := by
  rw [Core.section_eq, show 136 = 31 + (1 + (60 + (1 + (32 + (7 + (4 + 0)))))) from rfl,
    wAt_append_right (by rw [List.length_map, List.length_range]), wAt_append_right (n := 1) rfl, wAt_append_right r.length_aWords,
    wAt_append_right (n := 1) rfl, wAt_append_right r.length_winWords, wAt_append_right (n := 7) rfl, wAt_append_right (n := 4) rfl]
  rfl

section
variable (x : Contents) (cls k : Nat) (c : CoreIx) (resume : Word)

/-- What an area holds after its header. -/
def Contents.body : List Word := (x.b.core c).section_ (isPriv k c) resume false [0, 0, 0, 0] ++ x.sections cls k c

theorem Contents.area_eq : x.area cls k c resume = x.header cls k c (7 + (x.body cls k c resume).length + 1) ++ x.body cls k c resume := rfl

theorem Contents.wAt_area (i : Nat) : wAt (x.area cls k c resume) (7 + i) = wAt (x.body cls k c resume) i := by
  rw [Contents.area_eq, wAt_append_right (n := 7) rfl]

theorem Contents.length_area : (x.area cls k c resume).length = 7 + (x.body cls k c resume).length := by
  rw [Contents.area_eq, List.length_append]
  rfl

/-- Word 0 of an area: the magic number, and the length of the area with its CHECK word. -/
theorem Contents.area_head (hcls : cls < 16) :
    (wAt (x.area cls k c resume) 0).toNat / 2 ^ 48 = 0xC7A5 ∧
      (wAt (x.area cls k c resume) 0).toNat % 2 ^ 32 = ((x.area cls k c resume).length + 1) % 2 ^ 32 := by
  have hword : wAt (x.area cls k c resume) 0 =
      wNat (0xC7A5 * 2 ^ 48 + 2 ^ 40 + coreNum c * 2 ^ 38 + cls * 2 ^ 34 + ((x.area cls k c resume).length + 1) % 2 ^ 32) := by
    rw [Contents.length_area]
    rfl
  have hcore : coreNum c ≤ 2 := by cases c <;> decide
  have hlen := Nat.mod_lt ((x.area cls k c resume).length + 1) (Nat.two_pow_pos 32)
  rw [hword, wNat, BitVec.toNat_ofNat]
  omega

/-- The section is long enough to hold its word 136. -/
theorem Contents.area_resume : wAt (x.area cls k c resume) (7 + 136) = resume := by
  have hlen : 136 < ((x.b.core c).section_ (isPriv k c) resume false [0, 0, 0, 0]).length := by
    rw [Core.length_section]
    decide
  rw [Contents.wAt_area, Contents.body, wAt_append_left hlen, Core.section_resume]

theorem Contents.area_x {i : Nat} (h1 : 1 ≤ i) (h32 : i < 32) : wAt (x.area cls k c resume) (6 + i) = ((x.b.core c).xreg i).val := by
  have hlen : 31 ≤ ((x.b.core c).section_ (isPriv k c) resume false [0, 0, 0, 0]).length := by
    simp only [Core.section_, List.length_append, List.length_map, List.length_range]
    omega
  rw [show 6 + i = 7 + (i - 1) by omega, Contents.wAt_area, Contents.body, wAt_append_left (by omega), Core.section_x _ _ _ _ _ (by omega),
    Nat.sub_add_cancel h1]

end

/-! ## CTXSAVE -/

theorem State.cls_lt (s : State) (k : Nat) : s.cls k < 16 := by
  unfold State.cls Config.dieClass
  cases s.pop <;> dsimp only <;> split_ifs <;> decide

theorem contextSave : ContextSave := by
  intro f s he hq t a ws hcheck
  have hcore : (t.contents s.fk).b.core s.fc = s.fcore.fillAwaiting := State.core_setCore_same s s.fk s.fc _
  have hput : t.fcore = s.fcore.fillAwaiting := State.fcore_putCore s _
  have hkey : (t.bank s.fk).ctxKey = (s.bank s.fk).ctxKey := by
    simp only [t, State.putCore, State.bank_setCore_same]
    cases s.fc <;> rfl
  obtain ⟨hmagic, hlength⟩ := Contents.area_head (t.contents s.fk) (s.cls s.fk) s.fk s.fc (s.fcore.pc + 8) (s.cls_lt _)
  refine ⟨hmagic, hlength, fun i h1 h32 => ?_, Contents.area_resume _ _ _ _ _, ?_⟩
  · rw [Contents.area_x _ _ _ _ _ h1 h32, hcore]
    exact (Core.xreg_fillAwaiting_val _ h32).1
  · have hareg : t.fcore.areg f.a = a := by rw [hput]; rfl
    have hpc : t.fcore.pc = s.fcore.pc := by rw [hput]; rfl
    have hcheck' : t.checkArea s.fk (t.fcore.areg f.a) (t.fcore.areg f.a).ptr.toNat
        (8 * (((t.contents s.fk).area (t.cls s.fk) s.fk t.fc (t.fcore.pc + 8)).length + 1)) .write = .ok () := by
      rw [hareg, hpc]
      exact hcheck
    show execCtxsave f s = _
    unfold execCtxsave
    refine guarded_ok he ?_
    simp only [hq, bind, Except.bind, pure, Except.pure]
    rw [hcheck', hareg, hpc, hkey]
    rfl

/-! ## CTXLOAD: the core that an area gives -/

/-- What the sections after the scalar one set is no part of a control core. -/
theorem State.core_modBank_of {s : State} {f : Bank → Bank} (hf : ∀ b c, (f b).core c = b.core c) (k : Nat) (c : CoreIx) (j : Nat) :
    (s.modBank k f).core j c = s.core j c := by
  rw [State.core, State.bank_modBank]
  split
  · next h => rw [hf, h]; rfl
  · rfl

theorem Bank.core_setUnitOf (b : Bank) (c d : CoreIx) (u : VUnit) : (b.setUnitOf d u).core c = b.core c := by
  unfold Bank.setUnitOf
  split
  · cases c <;> rfl
  · cases c <;> rfl

theorem State.core_putGranules (s : State) (a : Nat) (ws : List Word) (bad : Nat → Bool) (k : Nat) (c : CoreIx) :
    (s.putGranules a ws bad).core k c = s.core k c := rfl

/-- Parts that each leave a core as it is leave it so together. -/
theorem core_eachPart {is : List Nat} {n : Nat} {f : State → Nat → List Word → State} {k : Nat} {c : CoreIx}
    (hf : ∀ s i ws, (f s i ws).core k c = s.core k c) (s : State) (ws : List Word) : (eachPart is n f s ws).1.core k c = s.core k c := by
  unfold eachPart
  induction is generalizing s ws with
  | nil => rfl
  | cons i is ih => exact (ih _ _).trans (hf s i _)

theorem State.core_ctxVreg (s : State) (k : Nat) (c : CoreIx) (v : Nat) (ws : List Word) (d : CoreIx) :
    (s.ctxVreg k c v ws).core k d = s.core k d :=
  (State.core_modBank_of (fun b j => b.core_setUnitOf j c _) _ _ _).trans (State.core_putGranules _ _ _ _ _ _)

theorem State.core_ctxTile (s : State) (k t : Nat) (ws : List Word) (d : CoreIx) : (s.ctxTile k t ws).core k d = s.core k d :=
  (State.core_modBank_of (fun b j => by cases j <;> rfl) _ _ _).trans (State.core_putGranules _ _ _ _ _ _)

theorem State.core_ctxUnit (s : State) (k : Nat) (c : CoreIx) (pmask : Nat) (ws : List Word) (d : CoreIx) :
    (s.ctxUnit k c pmask ws).core k d = s.core k d := by
  have hmod (s : State) (g : Bank → VUnit) : (s.modBank k (fun b => b.setUnitOf c (g b))).core k d = s.core k d :=
    State.core_modBank_of (fun b j => b.core_setUnitOf j c _) _ _ _
  unfold State.ctxUnit
  simp only [hmod, core_eachPart (k := k) (c := d) (fun _ _ _ => hmod _ _),
    core_eachPart (k := k) (c := d) (fun s v p => State.core_ctxVreg s k c v p d), State.core_putGranules]

theorem State.core_ctxArray (s : State) (k tmask : Nat) (ws : List Word) (d : CoreIx) : (s.ctxArray k tmask ws).core k d = s.core k d := by
  have hmod (s : State) (g : Bank → Mx) : (s.modBank k (fun b => { b with mx := g b })).core k d = s.core k d :=
    State.core_modBank_of (fun b j => by cases j <;> rfl) _ _ _
  unfold State.ctxArray
  simp only [hmod, core_eachPart (k := k) (c := d) (fun _ _ _ => hmod _ _),
    core_eachPart (k := k) (c := d) (fun s t p => State.core_ctxTile s k t p d), State.core_putGranules]

/-- The core that reading an area leaves is the one that its header and scalar section give. -/
theorem State.core_readArea (s : State) (k : Nat) (c d : CoreIx) (ws : List Word) :
    (s.readArea k c ws).core k d = (s.ctxScalar k c (ws.take 7) ((ws.drop 7).take 144)).core k d := by
  unfold State.readArea
  dsimp only
  split
  · exact State.core_ctxUnit _ _ _ _ _ _
  split
  · exact State.core_ctxArray _ _ _ _ _
  split
  · refine State.core_modBank_of (fun b j => ?_) _ _ _
    split
    · cases j <;> rfl
    · cases j <;> rfl
  · rfl

/-- What CTXLOAD gives a core of the scalar section ws, which begins with the header (15 R294). -/
structure Core.FromArea (r : Core) (ws : List Word) : Prop where
  x : ∀ i, 1 ≤ i → i < 32 → r.xreg i = ⟨wAt ws (6 + i), (wAt ws 38).getLsbD i, .full⟩
  epc : r.epc = wAt ws 135
  cause : r.cause = wAt ws 136
  tval : r.tval = wAt ws 137
  lc : r.lc = wAt ws 132
  rbase : r.rbase = wAt ws 133
  a : ∀ j, 1 ≤ j → j < 16 → vget r.a j {} = aAt ws (35 + 4 * j)
  livep : r.livep = (wAt ws 2).truncate 16
  p : ∀ i, i < 16 → r.p.getLsbD i = ((wAt ws 99).getLsbD i && (wAt ws 2).getLsbD i)
  win : ∀ j, j < 8 → let w := vget r.win j {}; let c := aAt ws (100 + 4 * j);
    w.bound = decide (c.kind ≠ 0) ∧ (c.kind ≠ 0 → w.reg = c)
  status : r.status = wAt ws 134 &&& 0xFFFFFFFF00000E1F
  h : r.h = (wAt ws 1).getLsbD 32
  loop : r.loop = none

theorem wAt_take {l : List Word} {n i : Nat} (h : i < n) : wAt (l.take n) i = wAt l i := by
  rw [wAt, List.getElem?_take_of_lt h, wAt]

/-- A word of the scalar section is a word of the area. -/
theorem wAt_section (ws : List Word) {i : Nat} (h : i < 144) : wAt ((ws.drop 7).take 144) i = wAt ws (7 + i) := by
  rw [wAt_take h, wAt, List.getElem?_drop, wAt]

theorem aAt_section (ws : List Word) {i : Nat} (h : i + 3 < 144) : aAt ((ws.drop 7).take 144) i = aAt ws (7 + i) := by
  rw [aAt, wAt_section ws (by omega), wAt_section ws (by omega), wAt_section ws (by omega), wAt_section ws (by omega), aAt]
  rfl

theorem vget_ofFn {α : Type} {n : Nat} (f : Fin n → α) (d : α) {i : Nat} (h : i < n) : vget (Vector.ofFn f) i d = f ⟨i, h⟩ := by
  rw [vget, Vector.getElem?_eq_getElem h, Vector.getElem_ofFn]
  rfl

/-- The core that a header and a scalar section give, but for the loop that it holds. -/
theorem State.ctxScalar_core (s : State) (k : Nat) (c : CoreIx) (ws : List Word) :
    ((s.ctxScalar k c (ws.take 7) ((ws.drop 7).take 144)).core k c).FromArea ws ∧
      ((s.ctxScalar k c (ws.take 7) ((ws.drop 7).take 144)).core k c).spillptr = (s.core k c).spillptr := by
  unfold State.ctxScalar
  extract_lets old livep x a win
  have hhead {i : Nat} (hi : i < 7) : wAt (ws.take 7) i = wAt ws i := wAt_take hi
  have hx (i : Nat) (h1 : 1 ≤ i) (h32 : i < 32) : vget x i {} = ⟨wAt ws (6 + i), (wAt ws 38).getLsbD i, .full⟩ := by
    rw [vget_ofFn _ _ h32, if_neg (Nat.ne_of_gt h1), wAt_section ws (by omega), wAt_section ws (by omega), show 7 + (i - 1) = 6 + i by omega]
  have ha (j : Nat) (h1 : 1 ≤ j) (h16 : j < 16) : vget a j {} = aAt ws (35 + 4 * j) := by
    rw [vget_ofFn _ _ h16, if_neg (Nat.ne_of_gt h1), aAt_section ws (by omega), show 7 + (32 + 4 * (j - 1)) = 35 + 4 * j by omega]
  have hlivep : livep = (wAt ws 2).truncate 16 := by rw [← hhead (by decide)]
  have hp (i : Nat) (hi : i < 16) :
      ((wAt ((ws.drop 7).take 144) 92).truncate 16 &&& livep).getLsbD i = ((wAt ws 99).getLsbD i && (wAt ws 2).getLsbD i) := by
    rw [hlivep, wAt_section ws (by decide), BitVec.getLsbD_and, BitVec.getLsbD_setWidth, BitVec.getLsbD_setWidth, decide_eq_true hi,
      Bool.true_and, Bool.true_and]
  have hwin (j : Nat) (hj : j < 8) : (vget win j {}).bound = decide ((aAt ws (100 + 4 * j)).kind ≠ 0) ∧
      ((aAt ws (100 + 4 * j)).kind ≠ 0 → (vget win j {}).reg = aAt ws (100 + 4 * j)) := by
    rw [vget_ofFn _ _ hj, aAt_section ws (by omega), show 7 + (93 + 4 * j) = 100 + 4 * j by omega]
    dsimp only
    split
    · next h => exact ⟨by rw [h]; rfl, fun hne => absurd h hne⟩
    · next h => exact ⟨(decide_eq_true h).symm, fun _ => rfl⟩
  split
  rw [State.core_setCore_same]
  exact ⟨⟨hx, wAt_section ws (by decide), wAt_section ws (by decide), wAt_section ws (by decide), wAt_section ws (by decide),
    wAt_section ws (by decide), ha, hlivep, hp, hwin, congrArg stMask (wAt_section ws (by decide)),
    congrArg (fun w => w.getLsbD 32) (hhead (by decide)), rfl⟩, rfl⟩

/-- A core without a loop keeps what an area has given it as its instruction retires. -/
theorem Core.FromArea.advance {r : Core} {ws : List Word} (h : r.FromArea ws) :
    ({ r.advance 1 with run := .running } : Core).FromArea ws := by
  rw [Core.advance_of_no_loop h.loop]
  exact { h with }

theorem State.Keeps.areaLoad (s : State) (k : Nat) (a : AReg) (p n : Nat) : s.Keeps (s.areaLoad k a p n).1 :=
  (State.Keeps.cacheKind s a p n).trans (State.Keeps.loadBytes _ _ _ _ _)

/-- An enabled instruction ends as its body does. -/
theorem guarded_enabled {len : Nat} {g : Guard} {s : State} {body : State → M State} {r : M State} (he : s.Enabled g) (h : body s = r) :
    guarded len g s body = .next (s.finish len r) := by
  obtain ⟨hstage, hguard⟩ := he
  rw [guarded, hstage, hguard, h]
  rfl

/-- What CTXLOAD does with the words it has loaded. -/
def State.loadContext (u : State) (k : Nat) (ws : List Word) : M State :=
  match u.badWord ws with
  | some i => trap cCTX (wNat i)
  | none => pure (u.readArea k u.fc ws)

theorem contextLoad : ContextLoad := by
  intro f s u n bs he hq t a hhead hn hcheck hload ws
  have hput : t.fcore = s.fcore.fillAwaiting := State.fcore_putCore s _
  have hareg : t.fcore.areg f.a = a := by rw [hput]; rfl
  have hkeeps : t.Keeps u := by
    have := State.Keeps.areaLoad t s.fk a a.ptr.toNat (8 * n)
    rwa [hload] at this
  have hexec : execCtxload f s = .next (s.finish 1 (u.loadContext s.fk ws)) := by
    unfold execCtxload
    refine guarded_enabled he ?_
    simp only [hq, bind, Except.bind, pure, Except.pure]
    rw [hareg, hhead]
    dsimp only
    rw [← hn, hcheck, hload]
    rfl
  have hcore : (u.readArea s.fk u.fc ws).core s.fk s.fc = (u.ctxScalar s.fk s.fc (ws.take 7) ((ws.drop 7).take 144)).core s.fk s.fc := by
    rw [State.core_readArea, hkeeps.fc]
    rfl
  obtain ⟨harea, hspill⟩ := u.ctxScalar_core s.fk s.fc ws
  refine ⟨fun i hbad => ?_, fun hgood => ?_⟩
  · rw [State.loadContext, hbad] at hexec
    exact hexec
  · rw [State.loadContext, hgood] at hexec
    refine ⟨_, hexec, ?_⟩
    have hr : ((u.readArea s.fk u.fc ws).retire s.fk s.fc 1).core s.fk s.fc =
        { ((u.ctxScalar s.fk s.fc (ws.take 7) ((ws.drop 7).take 144)).core s.fk s.fc).advance 1 with run := .running } := by
      rw [State.retire, State.core_modCore_same, hcore]
    have hfrom := harea.advance
    rw [← hr] at hfrom
    refine ⟨hfrom.x, hfrom.epc, hfrom.cause, hfrom.tval, hfrom.lc, hfrom.rbase, hfrom.a, hfrom.livep, hfrom.p, hfrom.win, hfrom.status,
      hfrom.h, ?_⟩
    refine (congrArg Core.spillptr hr).trans ?_
    rw [Core.advance_of_no_loop harea.loop]
    refine hspill.trans ?_
    rw [hkeeps.core]
    exact (congrArg Core.spillptr hput).trans rfl

/-- Settles O22: a context is saved and loaded word by word. -/
theorem contexts : Obligations.Contexts := ⟨contextSave, contextLoad⟩

end Sys2Proof.Machine

end

section
/-! The Geode's services (15 R306, R307; 19 R345): each ends with a status in Xd. -/

namespace Sys2Proof.Machine

/-! ## Operands of KIND 1 and 2 -/

/-- The focus and the cores are the same. -/
structure State.SameCores (s t : State) : Prop where
  focus : t.focus = s.focus
  core : ∀ k c, t.core k c = s.core k c

namespace State.SameCores

variable {s t u : State}

theorem refl (s : State) : s.SameCores s := ⟨rfl, fun _ _ => rfl⟩

theorem trans (h : s.SameCores t) (h' : t.SameCores u) : s.SameCores u :=
  ⟨h'.focus.trans h.focus, fun k c => (h'.core k c).trans (h.core k c)⟩

theorem of_keeps (h : s.Keeps t) : s.SameCores t := ⟨h.focus, h.core⟩

theorem fk (h : s.SameCores t) : t.fk = s.fk := by rw [State.fk, h.focus]

theorem fc (h : s.SameCores t) : t.fc = s.fc := by rw [State.fc, h.focus]

theorem fcore (h : s.SameCores t) : t.fcore = s.fcore := by rw [State.fcore, h.fk, h.fc, h.core]

end State.SameCores

/-- A range that passes the check for a store lies in a buffer or in the scratchpad. -/
theorem State.target_of_checkArea {s : State} {k n : Nat} {a : AReg} {u : Use} (hn : 0 < n)
    (h : s.checkArea k a a.ptr.toNat n u = .ok ()) : a.kind = 2 ∨ (a.kind = 1 ∧ chipRegion (padBase k + a.ptr.toNat) = 0) := by
  unfold State.checkArea at h
  split at h
  · exact nomatch h
  · next hcond =>
    simp only [Bool.or_eq_true, Bool.and_eq_true, bne_iff_ne, ne_eq, not_or, not_and, Decidable.not_not] at hcond
    obtain ⟨⟨hkind, -⟩, -⟩ := hcond
    by_cases hk : a.kind = 1
    · refine .inr ⟨hk, ?_⟩
      split at h
      · exact nomatch h
      · next hfind =>
        have hbyte := List.find?_eq_none.1 hfind 0 (List.mem_range.2 hn)
        simp only [State.areaByte, hk, bne_self_eq_false, Bool.false_or, Bool.not_eq_true', Bool.not_eq_false, Bool.and_eq_true] at hbyte
        obtain ⟨-, ⟨hpad, -⟩, -⟩ := hbyte
        exact State.chipRegion_of_padOk hpad (by decide)
    · exact .inl (hkind hk)

/-- A store of checked bytes changes no core. -/
theorem State.SameCores.areaStore {a : AReg} {k : Nat} (h : a.kind = 2 ∨ (a.kind = 1 ∧ chipRegion (padBase k + a.ptr.toNat) = 0))
    (s : State) (bs : List Byte) : s.SameCores (s.areaStore k a bs) := by
  rw [State.areaStore]
  refine (State.SameCores.of_keeps (State.Keeps.cacheKind s a a.ptr.toNat bs.length)).trans ?_
  generalize s.cacheKind a a.ptr.toNat bs.length = t
  rcases h with hk | ⟨hk, hr⟩
  · have hnum : a.kind.toNat = 2 := by rw [hk]; rfl
    simp only [State.storeBytes, hnum]
    exact .of_keeps (State.Keeps.bufPutW _ _ _ _ _)
  · have hnum : a.kind.toNat = 1 := by rw [hk]; rfl
    simp only [State.storeBytes, hnum]
    obtain ⟨hfocus, hcore, -⟩ := State.Keeps.chipStore_pad hr t bs
    exact ⟨hfocus, hcore⟩

theorem State.SameCores.areaLoad {s t : State} {k p n : Nat} {a : AReg} {bs : List Byte} {bad : Bool}
    (h : s.areaLoad k a p n = (t, bs, bad)) : s.SameCores t := by
  have hkeeps := State.SameCores.of_keeps (State.Keeps.areaLoad s k a p n)
  rwa [h] at hkeeps

/-! ## The status -/

/-- A service that writes its status has ended: Xd takes it, in the state that the service leaves. -/
theorem State.secDone_of_ready {s : State} {f : FmtY} (h : s.fcore.Ready f.x) (status low : Nat) :
    s.secDone f status low = .ok (s.putCore (s.fcore.wrote f.x (wNat (status * 2 ^ 56 + low)) false)) := by
  simp only [State.secDone, Core.writeX_of_ready h, bind, Except.bind, pure, Except.pure]

/-- The same, after a service that changed no core. -/
theorem State.SameCores.secDone {s t : State} (hst : s.SameCores t) {f : FmtY} (h : s.fcore.Ready f.x) (status low : Nat) :
    t.secDone f status low = .ok (t.putCore (t.fcore.wrote f.x (wNat (status * 2 ^ 56 + low)) false)) :=
  State.secDone_of_ready (by rw [hst.fcore]; exact h) status low

theorem State.parkSpec_ok {s : State} (h : (s.bank s.fk).spec = false) : s.parkSpec = .ok () := by
  rw [State.parkSpec, h]
  rfl

theorem State.needPriv_ok {s : State} (h : isPriv s.fk s.fc = true) (opc : Nat) (f : FmtY) : s.needPriv opc f = .ok () := by
  rw [State.needPriv, if_pos h]

theorem State.needPriv_error {s : State} (h : isPriv s.fk s.fc = false) (opc : Nat) (f : FmtY) :
    s.needPriv opc f = .error (.trap cPRIVILEGE (wNat (encY opc f))) := by
  rw [State.needPriv, h]
  rfl

/-! ## SECHASH -/

section
variable {f : FmtY} {s t : State} (he : s.Enabled f.g) (hspec : (s.bank s.fk).spec = false)
include he hspec

theorem execSechash_of_load {bs : List Byte} {bad : Bool} {am ag : AReg} (ham : s.fcore.areg f.a = am) (hag : s.fcore.areg f.a2 = ag)
    (hread : s.checkArea s.fk am am.ptr.toNat am.room .read = .ok ())
    (hwrite : s.checkArea s.fk ag ag.ptr.toNat (min ag.room 64) .write = .ok ())
    (hload : s.areaLoad s.fk am am.ptr.toNat am.room = (t, bs, bad)) :
    execSechash f s = .next (s.finish 1 (if bad then t.secDone f 3 0
      else if 16777216 < am.room ∨ ag.room < 64 then t.secDone f 1 0
      else (t.areaStore s.fk ag (shake256 bs 64)).secDone f 0 0)) := by
  unfold execSechash
  refine guarded_enabled he ?_
  simp only [State.parkSpec_ok hspec, ham, hag, hread, hwrite, hload, bind, Except.bind]

/-- SECVER up to its two reads, which give the length of the image, and the key. -/
def State.verifyImage (u : State) (f : FmtY) (k : Nat) (ao : AReg) (l : Nat) (key : List Byte) : M State := do
  u.checkArea k ao (ao.ptr.toNat + 8) (l + 29792) .read
  let (v, bs, bad) := u.areaLoad k ao (ao.ptr.toNat + 8) (l + 29792)
  if bad then v.secDone f 3 0
  else if slhVerify (bs.take l) (bs.drop l) key then (v.slotVerified ao key (bs.take l)).secDone f 0 0
  else v.secDone f 1 0

theorem execSecver_of_load {u : State} {w key : List Byte} {bad1 bad2 : Bool} {ao ak : AReg} (hao : s.fcore.areg f.a = ao)
    (hak : s.fcore.areg f.a2 = ak) (hword : s.checkArea s.fk ao ao.ptr.toNat 8 .read = .ok ())
    (hkey : s.checkArea s.fk ak ak.ptr.toNat 64 .read = .ok ()) (hload : s.areaLoad s.fk ao ao.ptr.toNat 8 = (t, w, bad1))
    (hload' : t.areaLoad s.fk ak ak.ptr.toNat 64 = (u, key, bad2)) :
    execSecver f s = .next (s.finish 1 (if bad1 || bad2 then u.secDone f 3 0
      else if ao.limit.toNat < ao.ptr.toNat + 8 + leNat w % 2 ^ 32 + 29792 then u.secDone f 2 0
      else u.verifyImage f s.fk ao (leNat w % 2 ^ 32) key)) := by
  unfold execSecver
  refine guarded_enabled he ?_
  simp only [State.parkSpec_ok hspec, hao, hak, hword, hkey, hload, hload', bind, Except.bind]
  rfl

theorem execSecmeas_of_load {am : AReg} {m : List Byte} {bad : Bool} (hp : isPriv s.fk s.fc = true) (ham : s.fcore.areg f.a = am)
    (hread : s.checkArea s.fk am am.ptr.toNat 64 .read = .ok ()) (hload : s.areaLoad s.fk am am.ptr.toNat 64 = (t, m, bad)) :
    execSecmeas f s = .next (s.finish 1 (if f.imm.toNat < 8 then t.secDone f 1 0 else if bad then t.secDone f 3 0
      else (t.extend f.imm.toNat m).secDone f 0 0)) := by
  unfold execSecmeas
  refine guarded_enabled he ?_
  simp only [State.needPriv_ok hp, State.parkSpec_ok hspec, ham, hread, hload, bind, Except.bind]

/-- What SECATT does with an answer. -/
def State.giveAnswer (t : State) (f : FmtY) (k : Nat) (ar : AReg) (answer : List Byte) : M State := do
  t.checkArea k ar ar.ptr.toNat (min ar.room answer.length) .write
  if ar.room < answer.length then t.secDone f 1 0 else (t.areaStore k ar answer).secDone f 0 answer.length

theorem execSecatt_of_load {aq ar : AReg} {req : List Byte} {bad : Bool} (hp : isPriv s.fk s.fc = true) (haq : s.fcore.areg f.a = aq)
    (har : s.fcore.areg f.a2 = ar) (hread : s.checkArea s.fk aq aq.ptr.toNat aq.room .read = .ok ())
    (hload : s.areaLoad s.fk aq aq.ptr.toNat aq.room = (t, req, bad)) :
    execSecatt f s = .next (s.finish 1 (if bad then t.secDone f 3 0
      else (t.spdmAnswer req).1.giveAnswer f s.fk ar (t.spdmAnswer req).2)) := by
  unfold execSecatt
  refine guarded_enabled he ?_
  simp only [State.needPriv_ok hp, State.parkSpec_ok hspec, haq, har, hread, hload, bind, Except.bind]
  rfl

end

theorem State.slotVerified_same (s : State) (a : AReg) (key image : List Byte) : s.SameCores (s.slotVerified a key image) := by
  unfold State.slotVerified
  extract_lets
  split_ifs
  all_goals exact ⟨rfl, fun _ _ => rfl⟩

/-- Is the image that SECVER has verified a slot's, verified by firmware of the scheduler die with the fused key? -/
def State.verifiesSlot (s : State) (a : AReg) (key : List Byte) : Prop :=
  isPriv s.fk s.fc = true ∧ s.fk / 128 = Config.schedDie ∧ shake256 key 64 = s.geode.key ∧ a.kind = 1

section
variable {s : State} {a : AReg} {key : List Byte} (image : List Byte)

theorem State.slotVerified_a (h : s.verifiesSlot a key) (hp : a.ptr.toNat = 0) :
    s.slotVerified a key image = { s with geode := { s.geode with vera := true, sma := shake256 image 64 } } := by
  obtain ⟨hpriv, hdie, hkey, hkind⟩ := h
  simp only [State.slotVerified, hpriv, hdie, hkey, hkind, hp, beq_self_eq_true, Bool.and_self, if_true, slotBase]
  rfl

theorem State.slotVerified_b (h : s.verifiesSlot a key) (hp : a.ptr.toNat = 0x100000) :
    s.slotVerified a key image = { s with geode := { s.geode with verb := true, smb := shake256 image 64 } } := by
  obtain ⟨hpriv, hdie, hkey, hkind⟩ := h
  simp only [State.slotVerified, hpriv, hdie, hkey, hkind, hp, beq_self_eq_true, Bool.and_self, if_true, slotBase]
  rfl

theorem State.slotVerified_other (h : ¬ (s.verifiesSlot a key ∧ (a.ptr.toNat = 0 ∨ a.ptr.toNat = 0x100000))) :
    s.slotVerified a key image = s := by
  unfold State.slotVerified
  extract_lets hit d
  have hhit (slot : Bool) : hit slot = true ↔ a.kind = 1 ∧ a.ptr.toNat = slotBase slot := by
    simp only [hit, Bool.and_eq_true, beq_iff_eq]
  split
  · next hfirm =>
    simp only [Bool.and_eq_true, beq_iff_eq] at hfirm
    obtain ⟨⟨hpriv, hdie⟩, hkey⟩ := hfirm
    rw [if_neg (fun hf => ?_), if_neg (fun ht => ?_)]
    · obtain ⟨hkind, hp⟩ := (hhit _).1 ht
      exact h ⟨⟨hpriv, hdie, hkey, hkind⟩, .inr hp⟩
    · obtain ⟨hkind, hp⟩ := (hhit _).1 hf
      exact h ⟨⟨hpriv, hdie, hkey, hkind⟩, .inl hp⟩
  · rfl

end

/-- An answer changes no core, and is never empty. -/
theorem State.spdmAnswer_same (s : State) (req : List Byte) : s.SameCores (s.spdmAnswer req).1 := by
  unfold State.spdmAnswer
  dsimp only
  split_ifs
  · exact .refl s
  · exact ⟨rfl, fun _ _ => rfl⟩
  · exact .refl s
  · exact ⟨rfl, fun _ _ => rfl⟩

theorem State.spdmAnswer_pos (s : State) (req : List Byte) : 0 < (s.spdmAnswer req).2.length := by
  unfold State.spdmAnswer
  dsimp only
  split_ifs
  all_goals exact Nat.succ_pos _

theorem State.finish_ok (s t : State) (len : Nat) : s.finish len (.ok t) = t.retire s.fk s.fc len := rfl

/-- The register that a service has answered in, and the Geode that it leaves. -/
theorem State.SameCores.answer {s t : State} (hst : s.SameCores t) (j : BitVec 5) (v : Word) :
    let u := (t.putCore (t.fcore.wrote j v false)).retire s.fk s.fc 1
    (j ≠ 0 → (u.core s.fk s.fc).xreg (s.fcore.px j.toNat) = ⟨v, false, .full⟩) ∧ u.geode = t.geode := by
  intro u
  have hu : u = t.setCore s.fk s.fc { (s.fcore.wrote j v false).advance 1 with run := .running } := by
    rw [← hst.fcore, show u = (t.putCore (t.fcore.wrote j v false)).retire s.fk s.fc 1 from rfl, ← hst.fk, ← hst.fc]
    exact State.retire_setCore _ _ _ _ _
  refine ⟨fun hj => ?_, by rw [hu]; rfl⟩
  rw [hu, State.core_setCore_same, Core.xreg, Core.advance_x, Core.wrote, if_neg hj]
  exact (vget_vset _ _ _ _ _).trans (if_pos ⟨rfl, s.fcore.px_lt j⟩)

/-- Settles O23: each service by what it loads and where it ends. -/
theorem geodeServices : Obligations.GeodeServices := by
  refine ⟨?hash, ?verify, ?measure, ?attest, ?privilege⟩
  case hash =>
    intro f s t bs bad he hspec am ag hread hwrite hload hd answer
    have hexec : exec (.sechash f) s = _ := execSechash_of_load he hspec rfl rfl hread hwrite hload
    have hsame := State.SameCores.areaLoad hload
    refine ⟨fun hb => ?_, fun hb hbounds => ?_, fun hb hroom h64 => ?_⟩
    · rw [hb, if_pos rfl, hsame.secDone hd] at hexec
      exact hexec
    · rw [hb, if_neg Bool.false_ne_true, if_pos hbounds, hsame.secDone hd] at hexec
      exact hexec
    · rw [Nat.min_eq_right h64] at hwrite
      have hstored := hsame.trans (State.SameCores.areaStore (State.target_of_checkArea (by decide) hwrite) t (shake256 bs 64))
      rw [hb, if_neg Bool.false_ne_true, if_neg (not_or.2 ⟨Nat.not_lt.2 hroom, Nat.not_lt.2 h64⟩), hstored.secDone hd] at hexec
      exact hexec
  case verify =>
    intro f s t u w key bad1 bad2 he hspec ao ak p hword hkey hload hload' hd l answer
    have hexec : exec (.secver f) s = _ := execSecver_of_load he hspec rfl rfl hword hkey hload hload'
    have hsame := (State.SameCores.areaLoad hload).trans (State.SameCores.areaLoad hload')
    refine ⟨fun hb => ?_, fun h1 h2 hlimit => ?_, fun v bs bad3 h1 h2 hlimit hread hload3 => ?_⟩
    · rw [if_pos (Bool.or_eq_true_iff.2 hb), hsame.secDone hd] at hexec
      exact hexec
    · rw [h1, h2, if_neg (by decide), if_pos hlimit, hsame.secDone hd] at hexec
      exact hexec
    · have hsame3 := hsame.trans (State.SameCores.areaLoad hload3)
      have himage : u.verifyImage f s.fk ao l key = (if bad3 then v.secDone f 3 0
          else if slhVerify (bs.take l) (bs.drop l) key then (v.slotVerified ao key (bs.take l)).secDone f 0 0 else v.secDone f 1 0) := by
        simp only [State.verifyImage, bind, Except.bind]
        rw [hread, hload3]
      rw [h1, h2, if_neg (by decide), if_neg (Nat.not_lt.2 hlimit), himage] at hexec
      refine ⟨fun h3 => ?_, fun h3 hbad => ?_, fun h3 hgood => ?_⟩
      · rw [h3, if_pos rfl, hsame3.secDone hd] at hexec
        exact hexec
      · rw [h3, if_neg Bool.false_ne_true, hbad, if_neg Bool.false_ne_true, hsame3.secDone hd] at hexec
        exact hexec
      · intro firm sm
        have hfirm : firm ↔ v.verifiesSlot ao key := by rw [State.verifiesSlot, hsame3.fk, hsame3.fc]
        rw [h3, if_neg Bool.false_ne_true, hgood, if_pos rfl, (hsame3.trans (v.slotVerified_same _ _ _)).secDone hd] at hexec
        refine ⟨fun hf hp => ?_, fun hf hp => ?_, fun hf => ?_⟩
        · rw [State.slotVerified_a _ (hfirm.1 hf) hp] at hexec
          exact hexec
        · rw [State.slotVerified_b _ (hfirm.1 hf) hp] at hexec
          exact hexec
        · rw [hfirm] at hf
          rw [State.slotVerified_other _ hf] at hexec
          exact hexec
  case measure =>
    intro f s t m bad he hp hspec am hread hload hd
    have hexec : exec (.secmeas f) s = _ := execSecmeas_of_load he hspec hp rfl hread hload
    have hsame := State.SameCores.areaLoad hload
    by_cases himm : f.imm.toNat < 8
    · rw [if_pos himm, hsame.secDone hd, State.finish_ok] at hexec
      obtain ⟨hx, hgeode⟩ := hsame.answer f.x (wNat (1 * 2 ^ 56 + 0))
      exact ⟨_, hexec, fun hj => by rw [if_pos himm]; exact hx hj, fun _ => by rw [hgeode], fun h8 => absurd himm (Nat.not_lt.2 h8),
        fun j _ => by rw [hgeode]⟩
    · rw [if_neg himm] at hexec
      cases bad with
      | true =>
        rw [if_pos rfl, hsame.secDone hd, State.finish_ok] at hexec
        obtain ⟨hx, hgeode⟩ := hsame.answer f.x (wNat (3 * 2 ^ 56 + 0))
        exact ⟨_, hexec, fun hj => by rw [if_neg himm]; exact hx hj, fun _ => by rw [hgeode], fun _ _ hb => Bool.noConfusion hb,
          fun j _ => by rw [hgeode]⟩
      | false =>
        have hext : s.SameCores (t.extend f.imm.toNat m) := ⟨hsame.focus, hsame.core⟩
        rw [if_neg Bool.false_ne_true, hext.secDone hd, State.finish_ok] at hexec
        obtain ⟨hx, hgeode⟩ := hext.answer f.x (wNat (0 * 2 ^ 56 + 0))
        have hmeas (j : Nat) : vget (t.extend f.imm.toNat m).geode.meas j [] = if f.imm.toNat = j ∧ j < 32 then
            shake256 (vget t.geode.meas f.imm.toNat [] ++ m) 64 else vget t.geode.meas j [] := vget_vset _ _ _ _ _
        exact ⟨_, hexec, fun hj => by rw [if_neg himm]; exact hx hj, fun h => absurd h (not_or.2 ⟨himm, Bool.false_ne_true⟩),
          fun _ h32 _ => by rw [hgeode, hmeas, if_pos ⟨rfl, h32⟩], fun j hj => by rw [hgeode, hmeas, if_neg (fun h => hj h.1.symm)]⟩
  case attest =>
    intro f s t req bad he hp hspec aq ar hread hload hd ans answer
    have hexec : exec (.secatt f) s = _ := execSecatt_of_load he hspec hp rfl rfl hread hload
    have hsame := (State.SameCores.areaLoad hload)
    have hasked := hsame.trans (t.spdmAnswer_same req)
    refine ⟨fun hb => ?_, fun hb hwrite => ⟨fun hroom => ?_, fun hroom => ?_⟩⟩
    · rw [hb, if_pos rfl, hsame.secDone hd] at hexec
      exact hexec
    · have hroom' : (s.fcore.areg f.a2).room < (t.spdmAnswer req).2.length := hroom
      rw [hb, if_neg Bool.false_ne_true, State.giveAnswer, hwrite] at hexec
      simp only [bind, Except.bind] at hexec
      rw [if_pos hroom', hasked.secDone hd] at hexec
      exact hexec
    · have hpos := t.spdmAnswer_pos req
      have hstored := hasked.trans (State.SameCores.areaStore
        (State.target_of_checkArea (Nat.lt_min.2 ⟨Nat.lt_of_lt_of_le hpos hroom, hpos⟩) hwrite) ans.1 ans.2)
      have hroom' : ¬ (s.fcore.areg f.a2).room < (t.spdmAnswer req).2.length := Nat.not_lt.2 hroom
      rw [hb, if_neg Bool.false_ne_true, State.giveAnswer, hwrite] at hexec
      simp only [bind, Except.bind] at hexec
      rw [if_neg hroom', hstored.secDone hd, Nat.zero_mul, Nat.zero_add] at hexec
      exact hexec
  case privilege =>
    intro f s he hp
    refine ⟨?_, ?_, ?_⟩
    · show execSecmeas f s = _
      unfold execSecmeas
      exact guarded_error he (by simp only [State.needPriv_error hp, bind, Except.bind])
    · show execSecatt f s = _
      unfold execSecatt
      exact guarded_error he (by simp only [State.needPriv_error hp, bind, Except.bind])
    · show execWdpet f s = _
      unfold execWdpet
      rw [hp, Bool.and_false, Bool.false_and, Bool.false_and, if_neg Bool.false_ne_true]
      exact guarded_error he (by simp only [State.needPriv_error hp, bind, Except.bind])

end Sys2Proof.Machine

end

section
/-! The black-box ring, the watchdog and the firmware of a die (15 R308; 19 R346 to R349, R351). -/

namespace Sys2Proof.Machine

/-! ## Changes of dies alone -/

/-- Nothing but the dies differs. -/
def State.OnlyDies (s t : State) : Prop := t = { s with dies := t.dies }

namespace State.OnlyDies

variable {s t u : State}

theorem refl (s : State) : s.OnlyDies s := rfl

theorem trans (h : s.OnlyDies t) (h' : t.OnlyDies u) : s.OnlyDies u := by
  rw [State.OnlyDies] at h h' ⊢
  rw [h', h]

theorem modDie (s : State) (d : Nat) (f : Die → Die) : s.OnlyDies (s.modDie d f) := rfl

theorem geode (h : s.OnlyDies t) : t.geode = s.geode := by rw [h]
theorem flash (h : s.OnlyDies t) : t.flash = s.flash := by rw [h]
theorem mem (h : s.OnlyDies t) : t.mem = s.mem := by rw [h]
theorem time (h : s.OnlyDies t) : t.time = s.time := by rw [h]
theorem cells (h : s.OnlyDies t) : t.cells = s.cells := by rw [h]

theorem core (h : s.OnlyDies t) (k : Nat) (c : CoreIx) : t.core k c = s.core k c := by
  rw [State.core, State.bank, State.cell, h.cells]
  rfl

end State.OnlyDies

theorem State.die_modDie (s : State) (d j : Nat) (f : Die → Die) : (s.modDie d f).die j = if j = d then f (s.die d) else s.die j :=
  kget_kset _ _ _ _ _

theorem State.die_modDie_same (s : State) (d : Nat) (f : Die → Die) : (s.modDie d f).die d = f (s.die d) := by
  rw [State.die_modDie, if_pos rfl]

/-! ## Records -/

/-- A die with one more record in its ring. -/
def Die.logged (x : Die) (record : List Word) : Die :=
  { x with
    ring := kset x.ring x.next record
    next := (x.next + 1) % 1024
    wraps := if x.next + 1 = 1024 then min (x.wraps + 1) (2 ^ 32 - 1) else x.wraps
    seq := (x.seq + 1) % 2 ^ 32 }

/-- The record that a die appends. -/
def State.record (s : State) (d code core cell : Nat) (ws : List Word) : List Word :=
  ringWord0 ((s.die d).seq + 1) code core cell :: wNat s.time :: ws

theorem State.logRec_eq (s : State) (d code core cell : Nat) (ws : List Word) :
    s.logRec d code core cell ws = if (s.die d).frozen then s else s.modDie d (·.logged (s.record d code core cell ws)) := rfl

theorem State.OnlyDies.logRec (s : State) (d code core cell : Nat) (ws : List Word) : s.OnlyDies (s.logRec d code core cell ws) := by
  rw [State.logRec_eq]
  split
  · exact .refl s
  · exact .modDie s d _

theorem State.die_logRec {s : State} {d : Nat} (h : (s.die d).frozen = false) (code core cell : Nat) (ws : List Word) :
    (s.logRec d code core cell ws).die d = (s.die d).logged (s.record d code core cell ws) := by
  rw [State.logRec_eq, h, if_neg Bool.false_ne_true, State.die_modDie_same]

/-- What no record touches of a die. -/
theorem State.logRec_wdStart (s : State) (d code core cell : Nat) (ws : List Word) (j : Nat) :
    ((s.logRec d code core cell ws).die j).wdStart = (s.die j).wdStart := by
  rw [State.logRec_eq]
  split
  · rfl
  · rw [State.die_modDie]
    split
    · next h => rw [h]; rfl
    · rfl

/-- Word 0 of a record holds its code. -/
theorem ringWord0_code (seq : Nat) {code core cell : Nat} (hcode : code < 2 ^ 16) (hcore : core ≤ 2) (hcell : cell < 128) :
    (ringWord0 seq code core cell).toNat / 65536 % 65536 = code := by
  have hseq := Nat.mod_lt seq (Nat.two_pow_pos 32)
  rw [ringWord0, wNat, BitVec.toNat_ofNat, Nat.mod_eq_of_lt hcode]
  omega

theorem coreNum_le (c : CoreIx) : coreNum c ≤ 2 := by cases c <;> decide

/-! ## Firmware starts -/

/-- The firmware's core of a die, as it starts. -/
theorem State.core_startFw (s : State) (d reason : Nat) : (s.startFw d reason).core (svc d) .x = s.fwCore d reason := by
  rw [State.startFw, State.core, State.bank, State.modCell, State.cell_setCell, if_pos rfl]
  rfl

/-- The X registers of firmware that starts: HOSEQ on the scheduler die in X1, the reason in X2. -/
theorem State.fwCore_x (s : State) (d reason : Nat) :
    ((s.fwCore d reason).xreg 1).val = (if d = Config.schedDie then s.geode.hoseq else 0) ∧
      ((s.fwCore d reason).xreg 2).val = wNat reason := by
  constructor
  · rw [Core.xreg, State.fwCore, vget_vset, if_neg (by decide), vget_vset, if_pos (by decide)]
  · rw [Core.xreg, State.fwCore, vget_vset, if_pos (by decide)]

/-- The firmware of the scheduler die starts in the active slot. -/
theorem State.fwCore_sched (s : State) (reason : Nat) :
    let r := s.fwCore Config.schedDie reason
    r.run = .running ∧ r.pc = wNat ((if s.geode.active then 0x100000 else 0) + 8) ∧ (r.xreg 1).val = s.geode.hoseq ∧
      (r.xreg 2).val = wNat reason := by
  intro r
  obtain ⟨h1, h2⟩ := s.fwCore_x Config.schedDie reason
  refine ⟨rfl, ?_, by rw [h1, if_pos rfl], h2⟩
  show wNat (s.fwEntry Config.schedDie) = _
  rw [State.fwEntry, if_pos rfl, slotBase]

theorem State.petDog_wdStart (s : State) (d : Nat) : ((s.petDog d).die d).wdStart = s.time := by
  rw [State.petDog, State.die_modDie_same]

/-- The scheduler die's firmware restarts, its watchdog with it. -/
def State.restartSched (s : State) (reason : Nat) : State := (s.startFw Config.schedDie reason).petDog Config.schedDie

theorem State.restartSched_shows (s : State) (reason : Nat) :
    let t := s.restartSched reason
    t.geode = s.geode ∧ t.mem = s.mem ∧ (t.die Config.schedDie).wdStart = s.time ∧
      t.core (svc Config.schedDie) .x = s.fwCore Config.schedDie reason :=
  ⟨rfl, rfl, State.petDog_wdStart _ _, ((State.OnlyDies.modDie _ _ _).core _ _).trans (s.core_startFw _ _)⟩

/-- The slot named for a hand-over, its measurement in M1, HOSEQ one more: what a commit and a roll-back share. -/
def State.switched (s : State) (new pending stage rolled : Bool) (beat : Option Nat) : State :=
  ({ s with geode := { s.geode with
      active := new, pending := pending, stage := stage, rolled := rolled, hoseq := s.geode.hoseq + 1, beat := beat } }).extend 1 (s.geode.sm new)

theorem State.switched_m1 (s : State) (new pending stage rolled : Bool) (beat : Option Nat) :
    vget (s.switched new pending stage rolled beat).geode.meas 1 [] = shake256 (vget s.geode.meas 1 [] ++ s.geode.sm new) 64 :=
  (vget_vset _ _ _ _ _).trans (if_pos (by decide))

theorem State.rollback_eq (s : State) :
    ∃ u, (s.switched (!s.geode.active) false s.geode.stage true none).OnlyDies u ∧ s.rollback = u.restartSched 2 :=
  ⟨_, .logRec _ _ _ _ _ _, rfl⟩

/-- The fields of a state that has switched slots and restarted the firmware. -/
theorem State.restarted_of_switched {s u : State} {new pending stage rolled : Bool} {beat : Option Nat}
    (hu : (s.switched new pending stage rolled beat).OnlyDies u) (reason : Nat) :
    let r := (u.restartSched reason).core (svc Config.schedDie) .x
    r.run = .running ∧ r.pc = wNat ((if new then 0x100000 else 0) + 8) ∧ (r.xreg 1).val = s.geode.hoseq + 1 ∧ (r.xreg 2).val = wNat reason := by
  intro r
  obtain ⟨-, -, -, hcore⟩ := u.restartSched_shows reason
  obtain ⟨hrun, hpc, h1, h2⟩ := u.fwCore_sched reason
  have hr : r = u.fwCore Config.schedDie reason := hcore
  have hg : u.geode = (s.switched new pending stage rolled beat).geode := hu.geode
  rw [hg] at hpc h1
  rw [hr]
  exact ⟨hrun, hpc, h1, h2⟩

theorem State.rollback_shows (s : State) : RolledBack s s.rollback := by
  obtain ⟨u, hu, ht⟩ := s.rollback_eq
  obtain ⟨hrun, hpc, h1, h2⟩ := State.restarted_of_switched hu 2
  have hgeode : s.rollback.geode = (s.switched (!s.geode.active) false s.geode.stage true none).geode := by
    rw [ht]
    exact hu.geode
  rw [← ht] at hrun hpc h1 h2
  refine ⟨by rw [hgeode]; rfl, by rw [hgeode]; rfl, by rw [hgeode]; rfl, by rw [hgeode]; rfl,
    by rw [hgeode]; exact s.switched_m1 _ _ _ _ _, hrun, ?_, h1, h2⟩
  rw [hpc]
  cases s.geode.active
  · rfl
  · rfl

/-- A commit switches the slots, starts the heartbeat timer and restarts the firmware with reason 1. -/
theorem State.commit_eq (s : State) (new : Bool) :
    ∃ u, (s.switched new true false s.geode.rolled (some s.time)).OnlyDies u ∧ s.commit new = u.restartSched 1 := by
  have hlog := State.OnlyDies.logRec (s.switched new true false s.geode.rolled s.geode.beat) Config.schedDie 0x0002 2 127
    [0, s.geode.hoseq + 1, 0, 0, activeWord s.geode.active new, s.geode.hoseq + 1]
  refine ⟨_, ?_, rfl⟩
  generalize ht : (s.switched new true false s.geode.rolled s.geode.beat).logRec Config.schedDie 0x0002 2 127 _ = t at hlog
  have hbeat : (s.switched new true false s.geode.rolled (some s.time)).OnlyDies
      { t with geode := { t.geode with beat := some t.time } } := by
    rw [State.OnlyDies] at hlog ⊢
    rw [hlog]
    rfl
  rw [← ht] at hbeat
  exact hbeat

theorem State.commit_shows (s : State) (new : Bool) :
    let u := s.commit new
    u.geode.active = new ∧ u.geode.pending = true ∧ u.geode.stage = false ∧ u.geode.hoseq = s.geode.hoseq + 1 ∧
      u.geode.beat = some s.time ∧ vget u.geode.meas 1 [] = shake256 (vget s.geode.meas 1 [] ++ s.geode.sm new) 64 ∧ u.mem = s.mem ∧
      (u.die Config.schedDie).wdStart = s.time ∧
      (let r := u.core (svc Config.schedDie) .x;
        r.run = .running ∧ r.pc = wNat ((if new then 0x100000 else 0) + 8) ∧ (r.xreg 1).val = s.geode.hoseq + 1 ∧
          (r.xreg 2).val = wNat 1) := by
  obtain ⟨t, ht, hcommit⟩ := s.commit_eq new
  intro u
  obtain ⟨hg, hm, hw, -⟩ := t.restartSched_shows 1
  have hu : u = t.restartSched 1 := hcommit
  have hgeode : u.geode = (s.switched new true false s.geode.rolled (some s.time)).geode := by rw [hu, hg, ht.geode]
  have hcore := State.restarted_of_switched ht 1
  rw [← hu] at hm hw hcore
  refine ⟨by rw [hgeode]; rfl, by rw [hgeode]; rfl, by rw [hgeode]; rfl, by rw [hgeode]; rfl, by rw [hgeode]; rfl,
    by rw [hgeode]; exact s.switched_m1 _ _ _ _ _, hm.trans ht.mem, hw.trans ht.time, hcore⟩

/-! ## WDPET -/

theorem State.wdpet_quiet {s : State} {d : Nat} (h : d ≠ Config.schedDie ∨ s.geode.pending = false) : s.wdpet d = s.petDog d := by
  have hoff : ¬ (d = Config.schedDie ∧ (s.petDog d).geode.pending = true) := fun ⟨hd, hp⟩ =>
    h.elim (fun hne => hne hd) (fun hn => Bool.noConfusion (hn.symm.trans hp))
  exact if_neg hoff

/-- The first pet of a pending hand-over ends it. -/
theorem State.wdpet_ends {s : State} (hp : s.geode.pending = true) :
    let u := s.wdpet Config.schedDie
    (u.die Config.schedDie).wdStart = s.time ∧ u.geode.pending = false ∧ u.geode.beat = none ∧ u.flash.boot = s.geode.active ∧
      u.geode.active = s.geode.active := by
  intro u
  have hlog := State.OnlyDies.logRec (s.petDog Config.schedDie) Config.schedDie 0x0004 2 127
    [0, s.geode.hoseq, 0, 0, activeWord (!s.geode.active) s.geode.active, s.geode.hoseq]
  have hdog := State.logRec_wdStart (s.petDog Config.schedDie) Config.schedDie 0x0004 2 127
    [0, s.geode.hoseq, 0, 0, activeWord (!s.geode.active) s.geode.active, s.geode.hoseq] Config.schedDie
  have hu : u = _ := if_pos ⟨rfl, hp⟩
  rw [hu]
  generalize hv : (s.petDog Config.schedDie).logHw _ _ _ _ _ = v
  have hvd : (v.die Config.schedDie).wdStart = s.time := by
    rw [← hv]
    exact hdog.trans (s.petDog_wdStart _)
  have hvg : v.geode = s.geode := by
    rw [← hv]
    exact hlog.geode
  refine ⟨hvd, rfl, rfl, ?_, (congrArg Geode.active hvg :)⟩
  dsimp only
  split
  · rfl
  · rfl

section
variable {f : FmtY} {s : State} (he : s.Enabled f.g)
include he

theorem execWdpet_due (hp : isPriv s.fk s.fc = true) (hd : s.fk / 128 = Config.schedDie) (hdue : s.beatDue = true) :
    execWdpet f s = .next s.rollback := by
  obtain ⟨hstage, hguard⟩ := he
  unfold execWdpet
  rw [hstage, hguard, hp, hd, hdue]
  rfl

theorem execWdpet_pets (hp : isPriv s.fk s.fc = true) (hnot : s.fk / 128 = Config.schedDie → s.beatDue = false) :
    execWdpet f s = .next ((s.wdpet (s.fk / 128)).retire s.fk s.fc 1) := by
  unfold execWdpet
  rw [if_neg]
  · exact guarded_ok he (by simp only [State.needPriv_ok hp, bind, Except.bind, pure, Except.pure])
  · simp only [Bool.and_eq_true, beq_iff_eq]
    rintro ⟨⟨-, hd⟩, hdue⟩
    exact Bool.noConfusion ((hnot hd).symm.trans hdue)

/-! ## BBLOG -/

theorem execBblog_of_holds {v : Word} (hp : 0x8000 ≤ f.imm.toNat ∨ isPriv s.fk s.fc = true) (hspec : (s.bank s.fk).spec = false)
    (hx : s.fcore.Holds f.x v false) :
    ∃ own : Nat, execBblog f s = .next ((s.logRec (s.fk / 128) f.imm.toNat (coreNum s.fc) (s.fk % 128)
      [wNat own, v, 0, 0, 0, 0]).retire s.fk s.fc 1) := by
  refine ⟨if isPriv s.fk s.fc then 0 else (s.bank s.fk).gen * 4096 + (s.bank s.fk).asid, ?_⟩
  unfold execBblog
  refine guarded_ok he ?_
  by_cases hlt : f.imm.toNat < 0x8000
  · simp only [if_pos hlt, State.needPriv_ok (hp.resolve_left (Nat.not_le.2 hlt)), State.parkSpec_ok hspec, Core.useX_of_holds hx, bind,
      Except.bind, pure, Except.pure]
  · simp only [if_neg hlt, State.parkSpec_ok hspec, Core.useX_of_holds hx, bind, Except.bind, pure, Except.pure]

end

/-! ## A commit by MTS FWSLOT -/

section
variable {f : FmtS} {s : State} {v : Word} (he : s.Enabled f.g) (hp : isPriv s.fk s.fc = true) (hd : s.fk / 128 = Config.schedDie)
  (hv : s.fcore.Holds f.s1 v false)
include he hp hd hv

theorem execFwslotCommit_of_holds :
    execFwslotCommit f s = .next (
      if bitOf v.toNat 0 = s.geode.active then
        ({ s with geode := { s.geode with stage := bitOf v.toNat 1, rolled := s.geode.rolled && bitOf v.toNat 3 } }).retire s.fk s.fc 1
      else if s.geode.stage ∧ !s.geode.pending ∧ s.geode.ver (bitOf v.toNat 0) then s.commit (bitOf v.toNat 0)
      else s.stopped s.fk s.fc (.trap cPRIVILEGE 11)) := by
  obtain ⟨hstage, hguard⟩ := he
  simp only [execFwslotCommit, hstage, hguard, hp, hd, Core.useX_of_holds hv, Bool.and_self, if_true, Bool.not_true, Bool.false_eq_true,
    ne_eq, not_true_eq_false, or_self, if_false]

end

/-- Settles O24: the watchdog, the ring, and the commit of a hand-over. -/
theorem firmwareControl : Obligations.FirmwareControl := by
  refine ⟨?late, ?pet, ?log, ?commit⟩
  case late =>
    intro f s he hp hd hpend ⟨t, hbeat, hdue⟩
    have hbeatDue : s.beatDue = true := by
      rw [State.beatDue, hpend, hbeat, Bool.true_and]
      exact decide_eq_true hdue
    exact ⟨_, execWdpet_due he hp hd hbeatDue, s.rollback_shows⟩
  case pet =>
    intro f s he hp d hearly
    have hnot (hd : d = Config.schedDie) : s.beatDue = false := by
      rw [State.beatDue, Bool.and_eq_false_iff]
      cases hpend : s.geode.pending
      · exact .inl rfl
      · right
        split
        · next t ht => exact decide_eq_false (Nat.not_le.2 (hearly hd hpend t ht))
        · rfl
    refine ⟨_, execWdpet_pets he hp hnot, ?_⟩
    by_cases hends : d = Config.schedDie ∧ s.geode.pending = true
    · obtain ⟨hd, hpend⟩ := hends
      have hshows := State.wdpet_ends hpend
      rw [← hd] at hshows
      obtain ⟨hw, hrest⟩ := hshows
      refine ⟨hw, fun _ _ => hrest, fun h => ?_⟩
      exact (h.elim (fun hne => hne hd) (fun hn => Bool.noConfusion (hn.symm.trans hpend))).elim
    · have hquiet : d ≠ Config.schedDie ∨ s.geode.pending = false := by rwa [not_and_or, Bool.not_eq_true] at hends
      rw [State.wdpet_quiet hquiet]
      exact ⟨s.petDog_wdStart d, fun hd hpend => absurd ⟨hd, hpend⟩ hends, fun _ => ⟨rfl, rfl⟩⟩
  case log =>
    intro f s v he hp hspec hx d hfrozen
    obtain ⟨own, hexec⟩ := execBblog_of_holds he hp hspec hx
    have hdie := State.die_logRec hfrozen f.imm.toNat (coreNum s.fc) (s.fk % 128) [wNat own, v, 0, 0, 0, 0]
    generalize s.logRec d f.imm.toNat (coreNum s.fc) (s.fk % 128) [wNat own, v, 0, 0, 0, 0] = t at hexec hdie
    have hu : (t.retire s.fk s.fc 1).die d = (s.die d).logged (s.record d f.imm.toNat (coreNum s.fc) (s.fk % 128) [wNat own, v, 0, 0, 0, 0]) :=
      hdie
    refine ⟨_, _, wNat own, hexec, ?_, ringWord0_code ((s.die d).seq + 1) f.imm.isLt (coreNum_le s.fc) (Nat.mod_lt s.fk (by decide)), ?_, ?_,
      fun i hi => ?_⟩
    · rw [hu]
      exact (kget?_kset _ _ _ _).trans (if_pos rfl)
    · rw [hu]
      rfl
    · rw [hu]
      rfl
    · rw [hu]
      exact (kget?_kset _ _ _ _).trans (if_neg hi)
  case commit =>
    intro f s v he hp hd hv
    have hexec : exec (.fwslotCommit f) s = _ := execFwslotCommit_of_holds he hp hd hv
    refine ⟨fun hsame => ?_, fun hnew hstage hpend hver => ?_, fun hnew hcond => ?_⟩
    · rw [if_pos hsame] at hexec
      exact ⟨_, hexec, rfl⟩
    · have hother : bitOf v.toNat 0 = !s.geode.active := Bool.eq_not.2 hnew
      rw [if_neg hnew, hother, if_pos ⟨hstage, by rw [hpend]; rfl, hver⟩] at hexec
      obtain ⟨hact, hpe, hst, hhs, hbeat, hm, hmem, hwd, hcore⟩ := s.commit_shows (!s.geode.active)
      obtain ⟨hrun, hpc, h1, h2⟩ := hcore
      refine ⟨_, hexec, hact, hpe, hst, hhs, hbeat, hm, hmem, hwd, hrun, ?_, h1, h2⟩
      rw [hpc]
      cases s.geode.active
      · rfl
      · rfl
    · have hother : bitOf v.toNat 0 = !s.geode.active := Bool.eq_not.2 hnew
      rw [if_neg hnew, hother, if_neg (fun ⟨hs, hn, hver⟩ => hcond ⟨hs, by rwa [Bool.not_eq_true'] at hn, hver⟩)] at hexec
      exact hexec

end Sys2Proof.Machine

end

section
/-! What a step runs (02 R31 to R33; 03 R34, R50): the instruction that the words at the program counter decode to. -/

namespace Sys2Proof.Machine

/-! ## The discovery table before a move -/

theorem State.discSettle_eq (s : State) : ∃ n v, s.discSettle = { s with free := n, sched := { s.sched with discVer := v } } := by
  unfold State.discSettle
  split_ifs
  · exact ⟨_, _, rfl⟩
  · exact ⟨_, s.sched.discVer, rfl⟩
  · exact ⟨s.free, s.sched.discVer, rfl⟩

theorem State.discSettle_even {s : State} (h : s.sched.discVer % 2 = 0) : s.discSettle = s :=
  if_neg (fun hodd => absurd (h.symm.trans hodd.2) (by decide))

theorem State.discSettle_agenda (s : State) : s.discSettle.agenda = s.agenda := by
  obtain ⟨n, v, h⟩ := s.discSettle_eq
  rw [h]

theorem State.discSettle_focus (s : State) : s.discSettle.focus = s.focus := by
  obtain ⟨n, v, h⟩ := s.discSettle_eq
  rw [h]

/-! ## The move that a step makes -/

theorem step_of_move {s : State} {m : Move} {rest : List Move} (h : s.agenda = m :: rest) :
    step s = settle (({ s.discSettle with agenda := rest } : State).move m) := by
  unfold step
  dsimp only
  rw [s.discSettle_agenda, h]

/-- A step with nothing on the agenda lets the core in focus issue. -/
theorem step_of_focus {s : State} (h : s.agenda = []) : step s = settle (s.discSettle.move (.issue s.focus.k s.focus.c)) := by
  unfold step
  dsimp only
  rw [s.discSettle_agenda, h, s.discSettle_focus]

/-- A step that lets core c of cell k issue, in focus or as the first move of the agenda. -/
theorem step_of_issue {s : State} {k : Nat} {c : CoreIx} {rest : List Move}
    (h : (s.agenda = [] ∧ rest = [] ∧ s.focus = ⟨k, c⟩) ∨ s.agenda = .issue k c :: rest) :
    let u : State := { s.discSettle with agenda := rest, focus := ⟨k, c⟩ }
    u.cellExists k = true → step s = settle (u.issue k c) := by
  intro u hu
  rcases h with ⟨hagenda, rfl, hfocus⟩ | hagenda
  · rw [step_of_focus hagenda, hfocus]
    have hsame : u = s.discSettle := by
      obtain ⟨n, v, hd⟩ := s.discSettle_eq
      simp only [u, hd, ← hagenda, ← hfocus]
    rw [hsame] at hu ⊢
    exact congrArg settle (if_pos hu)
  · rw [step_of_move hagenda]
    exact congrArg settle (if_pos hu)

/-! ## Which word a refusal names (03 R50) -/

/-- An instruction of one word has no rule of a second word to break. -/
theorem wf1_of_oneWord {i : Instr} (h : (encode i).length = 1) : i.wf1 = true := by
  cases i
  all_goals first | rfl | exact nomatch h

/-- Only words of an instruction of two words are refused for the second. -/
theorem isTwo_of_reserved {c : CoreIx} {cls w0 w1 j : Nat} (h : decode c cls w0 w1 = .error (.reserved j)) :
    j = 0 ∨ isTwo (opcOf w0) = true := by
  unfold decode at h
  split at h
  · split at h
    · exact nomatch h
    · next i hraw =>
      split at h
      · simp only [Except.error.injEq, DecErr.reserved.injEq] at h
        exact .inl h.symm
      · split at h
        · next hsecond =>
          refine .inr (hsecond.elim And.left (fun hwf => ?_))
          by_contra hone
          have hlen := Laws.RoundTrip.length_of_raw hraw
          rw [opcOf] at hone
          rw [if_neg hone] at hlen
          exact Bool.noConfusion ((wf1_of_oneWord hlen).symm.trans hwf)
        · exact nomatch h
  · exact nomatch h

/-! ## Fetching -/

/-- The word at an offset of a cell's scratchpad, as its cores see it. -/
def State.wordAt (s : State) (k o : Nat) : Nat := leNat (s.see (padBase k + o) 8)

/-- Is the cached copy of a word the one in memory? -/
def State.cached (s : State) (k o : Nat) : Prop := (s.cell k).imem.read (padBase k + o) 8 = s.see (padBase k + o) 8

/-- A word whose cached copy is the one in memory is fetched as it is. -/
theorem State.codeWord_of_cached {s : State} {k o : Nat} (h : s.cached k o) : s.codeWord k o = (s, s.wordAt k o) := by
  unfold State.cached at h
  unfold State.codeWord State.wordAt
  dsimp only
  rw [h]
  exact if_pos rfl

section
variable {u : State} {k : Nat} {c : CoreIx} {pc : Nat}

/-- A fetch of words that are cached as they are in memory decodes them. -/
theorem State.fetchDecode_of_cached (hpc : (u.core k c).pc.toNat = pc)
    (hsize : pc + (if isTwo (opcOf (u.wordAt k pc)) then 16 else 8) ≤ u.padSize k) (hfirst : u.cached k pc)
    (hsecond : isTwo (opcOf (u.wordAt k pc)) = true → u.cached k (pc + 8))
    (hbody : opcOf (u.wordAt k pc) = 0x051 → ∃ r, u.scanBody k pc (field (u.wordAt k pc) 23 6 + 1) 8 = (u, .ok r)) :
    u.fetchDecode k c = (u, u.decodeAt k c (u.wordAt k pc) (if isTwo (opcOf (u.wordAt k pc)) then u.wordAt k (pc + 8) else 0)) := by
  have hpos : 8 ≤ (if isTwo (opcOf (u.wordAt k pc)) then 16 else 8) := by split <;> decide
  unfold State.fetchDecode
  rw [hpc]
  extract_lets p
  rw [if_neg (by omega), State.codeWord_of_cached hfirst]
  split
  next t w heq =>
  obtain ⟨rfl, rfl⟩ := Prod.mk.inj heq
  split
  · next htwo =>
    rw [if_pos htwo] at hsize
    rw [if_neg (by omega), State.codeWord_of_cached (hsecond htwo)]
  · split
    · next hloop =>
      obtain ⟨r, hr⟩ := hbody hloop
      rw [hr]
    · rfl

/-- A cell on which no claim matters lets every instruction issue at once. -/
theorem State.issueWaits_of_no_claims (h : (u.cell k).claims = false) (i : Option Instr) : u.issueWaits k c i = false := by
  have hmine : (u.bank k).spill.mine = none := by
    simp only [Cell.claims, Bool.or_eq_false_iff] at h
    exact Option.not_isSome_iff_eq_none.1 (Bool.eq_false_iff.1 h.2)
  unfold State.issueWaits
  split
  · rw [State.syncWaits, hmine, Bool.and_false, Bool.and_false]
  · rfl

/-- What a core does with what it has fetched. -/
def State.runFetched (u : State) (k : Nat) (c : CoreIx) : Fetched → Out
  | .bad e => .next (u.stopped k c e)
  | .ok i => exec i (u.openRound k c)

theorem State.runCore_of_fetched {f : Fetched} (hclaims : (u.cell k).claims = false) (hrun : (u.core k c).run = .running)
    (hf : u.fetchDecode k c = (u, f)) : u.runCore k c = u.runFetched k c f := by
  have hready : (u.core k c).ready = true := by rw [Core.ready, hrun]
  simp only [State.runCore, hf, State.issueWaits_of_no_claims hclaims, State.prepare, hclaims, Bool.false_eq_true, if_false, hready, if_true]
  cases f <;> rfl

theorem State.issue_of_running (hfocus : u.focus = ⟨k, c⟩) (hpreempt : (u.cell k).preempt = false) (hrun : (u.core k c).run = .running) :
    u.issue k c = u.runCore k c := by
  have hready : (u.core k c).ready = true := by rw [Core.ready, hrun]
  have hu : ({ u with focus := ⟨k, c⟩ } : State) = u := by rw [← hfocus]
  simp only [State.issue, hu, hpreempt, hrun, hready, Bool.false_eq_true, if_false, if_true]

end

/-! ## After a move -/

theorem foldl_filter_of_none {α β : Type} {l : List α} {p : α → Bool} (h : ∀ x ∈ l, p x = false) (g : α → β) {σ : Type} (f : σ → β → σ) (s : σ) :
    ((l.filter p).map g).foldl f s = s := by
  rw [List.filter_eq_nil_iff.2 (fun x hx => by rw [h x hx]; exact Bool.false_ne_true)]
  rfl

/-- Where nothing waits, no claim matters and no window watches, nothing follows a move. -/
theorem State.afterMove_of_quiet {s : State} (h : ∀ x ∈ s.cells, x.2.b.waiters = 0 ∧ x.2.claims = false ∧ x.2.b.watches = false) :
    s.afterMove = s := by
  have hwaiters : ∀ x ∈ s.cells, (x.2.b.waiters != 0) = false := fun x hx => by rw [(h x hx).1]; rfl
  have hclaims : ∀ x ∈ s.cells, x.2.claims = false := fun x hx => (h x hx).2.1
  have hwatches : ∀ x ∈ s.cells, x.2.b.watches = false := fun x hx => (h x hx).2.2
  have hgrant : s.grantAll = s := foldl_filter_of_none hwaiters _ _ _
  have hend : s.endWaits = s := foldl_filter_of_none hwaiters _ _ _
  have hclaim : s.claimAll = s := foldl_filter_of_none hclaims _ _ _
  have hseen : s.noteSeen = s := foldl_filter_of_none hwatches _ _ _
  have hnote : s.noteWindows = s := foldl_filter_of_none hwatches _ _ _
  rw [State.afterMove, hgrant, hend, hclaim, hseen, hnote]

/-- Settles O54: the step's move, its fetch, and what stands before and after it. -/
theorem stepRunsDecoded : Obligations.StepRunsDecoded := by
  refine ⟨?issue, ?event, ?quiet, ?round, fun s => ⟨s.discSettle_eq, State.discSettle_even⟩⟩
  case issue =>
    intro s k c rest hmove u hexists hpreempt hclaims hrun pc word two hsize hcached hbody got
    have hfetch := State.fetchDecode_of_cached (u := u) (k := k) (c := c) rfl hsize (hcached pc (.inl rfl))
      (fun htwo => hcached (pc + 8) (.inr ⟨htwo, rfl⟩)) hbody
    have hstep : step s = settle (u.runFetched k c (u.decodeAt k c (word pc) (if two then word (pc + 8) else 0))) := by
      rw [step_of_issue hmove hexists, State.issue_of_running rfl hpreempt hrun, State.runCore_of_fetched hclaims hrun hfetch]
      rfl
    have hgot : decode c (u.cls k) (word pc) (if two then word (pc + 8) else 0) = got := rfl
    rw [hstep, State.decodeAt, hgot]
    refine ⟨fun i hi => by rw [hi]; rfl, fun hi => by rw [hi]; rfl, fun j hj => ?_⟩
    have hword : (if j = 0 then word pc else if two then word (pc + 8) else 0) = word (if j = 0 then pc else pc + 8) := by
      split
      · rfl
      · next hne => exact if_pos ((isTwo_of_reserved hj).resolve_left hne)
    rw [hj]
    exact congrArg (fun w => settle (.next (u.stopped k c (.trap cRESERVED (wNat w))))) hword
  case event =>
    intro s e rest hagenda henc u
    rw [step_of_move hagenda]
    refine congrArg settle ?_
    show State.event u e = _
    rw [State.event]
    cases u.eventWaits e
    · exact if_pos ⟨henc, rfl⟩
    · exact if_neg (fun h => Bool.noConfusion h.2)
  case quiet => exact fun s h => congrArg Host.Outcome.next (State.afterMove_of_quiet h)
  case round =>
    intro s k c h
    rw [State.openRound, h]
    rfl

end Sys2Proof.Machine

end

section
/-! A disabled instruction is passed over (02 R20, R26; 03 R36, R37): row by row of the opcode map, the arm of `exec` is a test of the stage and
the guard, or for vectors and matrices of the stage alone. -/

namespace Sys2Proof.Machine

open Laws.RoundTrip

/-- Every row of a table reads an instruction of n words that a false stage predicate or guard passes over. -/
def RowsGuarded (n : Nat) (tab : List (Nat → Nat → Instr)) : Prop :=
  tab.Forall (fun row => ∀ (w0 w1 : Nat) (s : State), (s.fcore.stageOn && s.fcore.guard (rawG w0)) = false → (∀ f, row w0 w1 ≠ .mloop f) →
    exec (row w0 w1) s = .next (s.squash s.fk s.fc n))

/-- Every row of a table reads an instruction of n words that a false stage predicate passes over. -/
def RowsStaged (n : Nat) (tab : List (Nat → Nat → Instr)) : Prop :=
  tab.Forall (fun row => ∀ (w0 w1 : Nat) (s : State), s.fcore.stageOn = false → exec (row w0 w1) s = .next (s.squash s.fk s.fc n))

theorem RowsGuarded.append {n : Nat} {l m : List (Nat → Nat → Instr)} (hl : RowsGuarded n l) (hm : RowsGuarded n m) : RowsGuarded n (l ++ m) :=
  List.forall_append.2 ⟨hl, hm⟩

theorem RowsStaged.append {n : Nat} {l m : List (Nat → Nat → Instr)} (hl : RowsStaged n l) (hm : RowsStaged n m) : RowsStaged n (l ++ m) :=
  List.forall_append.2 ⟨hl, hm⟩

/-- What an arm does whose test fails. -/
theorem passed {b : Bool} (h : b = false) (t u : State) : (.next (if b then t else u) : Out) = .next u := by
  rw [h]
  rfl

theorem scalTab_guarded : RowsGuarded 1 scalTab := by
  have h0 : RowsGuarded 1 scalTab0 := by and_intros <;> exact fun _ _ _ h _ => passed h _ _
  have h1 : RowsGuarded 1 scalTab1 := by and_intros <;> exact fun _ _ _ h _ => passed h _ _
  have h2 : RowsGuarded 1 scalTab2 := by and_intros <;> exact fun _ _ _ h _ => passed h _ _
  have h3 : RowsGuarded 1 scalTab3 := by and_intros <;> exact fun _ _ _ h _ => passed h _ _
  have hmts (w0 w1 : Nat) (s : State) (h : (s.fcore.stageOn && s.fcore.guard (rawG w0)) = false) :
      exec (if field w0 28 5 = 11 then .fwslotCommit (rawS w0) else .mts (rawS w0)) s = .next (s.squash s.fk s.fc 1) := by
    split
    · exact passed h _ _
    · exact passed h _ _
  have h4 : RowsGuarded 1 scalTab4 := by
    refine ⟨fun _ _ _ h _ => passed h _ _, fun w0 _ _ _ hloop => absurd rfl (hloop (rawBl w0)), ?_, ?_, ?_, ?_, ?_, ?_, ?_, ?_, ?_, ?_, ?_, ?_, ?_,
      fun w0 w1 s h _ => hmts w0 w1 s h, ?_⟩
    all_goals and_intros <;> exact fun _ _ _ h _ => passed h _ _
  exact (((h0.append h1).append h2).append h3).append h4

theorem vecTab_staged : RowsStaged 1 vecTab := by
  have hsplat (w0 : Nat) (s : State) (h : s.fcore.stageOn = false) :
      exec (if bitOf w0 5 then .vsplatSlot (rawV w0) else .vsplatV (rawV w0)) s = .next (s.squash s.fk s.fc 1) := by
    split
    · exact passed h _ _
    · exact passed h _ _
  have h0 : RowsStaged 1 vecTab0 := by
    refine ⟨?_, fun w0 _ s h => hsplat w0 s h, ?_⟩
    all_goals and_intros <;> exact fun _ _ _ h => passed h _ _
  have h1 : RowsStaged 1 vecTab1 := by and_intros <;> exact fun _ _ _ h => passed h _ _
  have h2 : RowsStaged 1 vecTab2 := by and_intros <;> exact fun _ _ _ h => passed h _ _
  have h3 : RowsStaged 1 vecTab3 := by and_intros <;> exact fun _ _ _ h => passed h _ _
  exact ((h0.append h1).append h2).append h3

theorem rawMcfg_staged (w0 w1 : Nat) (s : State) (h : s.fcore.stageOn = false) :
    exec (rawMcfg w0 w1) s = .next (s.squash s.fk s.fc 2) := by
  unfold rawMcfg
  split
  · exact passed h _ _
  · exact passed h _ _
  · exact passed h _ _

theorem matTab_staged : RowsStaged 2 matTab := by
  have h0 : RowsStaged 2 matTab0 := by and_intros <;> exact fun _ _ _ h => passed h _ _
  have h1 : RowsStaged 2 matTab1 := by
    refine ⟨?_, ?_, ?_, ?_, rawMcfg_staged, ?_⟩
    all_goals and_intros <;> exact fun _ _ _ h => passed h _ _
  exact h0.append h1

theorem spTab_guarded : RowsGuarded 2 spTab := by and_intros <;> exact fun _ _ _ h _ => passed h _ _

theorem soTab_guarded : RowsGuarded 2 soTab := by and_intros <;> exact fun _ _ _ h _ => passed h _ _

theorem xfTab_guarded : RowsGuarded 2 xfTab := by
  have hchan (w0 w1 : Nat) (s : State) (h : (s.fcore.stageOn && s.fcore.guard (rawG w0)) = false) :
      exec (if bitOf w0 26 then .xchanClose (rawG w0) (rawQ w1) (bits w0 31)
        else .xchan (rawG w0) (rawQ w1) (bits w0 31) (bits w0 27)) s = .next (s.squash s.fk s.fc 2) := by
    split
    · exact passed h _ _
    · exact passed h _ _
  have h0 : RowsGuarded 2 xfTab0 := by
    refine ⟨?_, ?_, ?_, ?_, ?_, ?_, ?_, ?_, ?_, ?_, ?_, ?_, ?_, ?_, fun w0 w1 s h _ => hchan w0 w1 s h, ?_⟩
    all_goals and_intros <;> exact fun _ _ _ h _ => passed h _ _
  have h1 : RowsGuarded 2 xfTab1 := by and_intros <;> exact fun _ _ _ h _ => passed h _ _
  exact h0.append h1

/-- WDPET tests for a heartbeat that is due in the same breath as its guard. -/
theorem execWdpet_off {f : FmtY} {s : State} (h : (s.fcore.stageOn && s.fcore.guard f.g) = false) :
    execWdpet f s = .next (s.squash s.fk s.fc 1) := by
  unfold execWdpet
  rw [h, Bool.false_and, Bool.false_and, Bool.false_and, if_neg Bool.false_ne_true]
  exact passed h _ _

theorem syTab_guarded : RowsGuarded 1 syTab := by
  have hecall (w0 : Nat) (s : State) (h : (s.fcore.stageOn && s.fcore.guard (rawG w0)) = false) :
      exec (rawEcall w0) s = .next (s.squash s.fk s.fc 1) := by
    unfold rawEcall
    split
    all_goals exact passed h _ _
  refine ⟨?_, ?_, fun w0 _ s h _ => hecall w0 s h, ?_, ?_, ?_, ?_, ?_, ?_, ?_, fun w0 _ s h _ => execWdpet_off (f := rawY w0) h, ?_⟩
  all_goals exact fun _ _ _ h _ => passed h _ _

/-! ## Look-ups -/

theorem RowsGuarded.exec {n : Nat} {tab : List (Nat → Nat → Instr)} (h : RowsGuarded n tab) {j w0 w1 : Nat} {i : Instr}
    (hi : (tab[j]?).map (fun row => row w0 w1) = some i) (hloop : ∀ f, i ≠ .mloop f) {s : State}
    (hoff : (s.fcore.stageOn && s.fcore.guard (rawG w0)) = false) : exec i s = .next (s.squash s.fk s.fc n) := by
  obtain ⟨row, hrow, rfl⟩ := Option.map_eq_some_iff.1 hi
  exact List.forall_iff_forall_mem.1 h row (List.mem_of_getElem? hrow) w0 w1 s hoff hloop

theorem RowsStaged.exec {n : Nat} {tab : List (Nat → Nat → Instr)} (h : RowsStaged n tab) {j w0 w1 : Nat} {i : Instr}
    (hi : (tab[j]?).map (fun row => row w0 w1) = some i) {s : State} (hoff : s.fcore.stageOn = false) :
    Machine.exec i s = .next (s.squash s.fk s.fc n) := by
  obtain ⟨row, hrow, rfl⟩ := Option.map_eq_some_iff.1 hi
  exact List.forall_iff_forall_mem.1 h row (List.mem_of_getElem? hrow) w0 w1 s hoff

/-- What the opcode map reads is passed over where its stage predicate is false, or, but for vectors and matrices, its guard. -/
theorem exec_of_raw {w0 w1 : Nat} {i : Instr} (hraw : raw w0 w1 = some i) (hloop : ∀ f, i ≠ .mloop f) {s : State}
    (hoff : s.fcore.stageOn = false ∨ (s.fcore.guard (rawG w0) = false ∧ ¬ (0x80 ≤ opcOf w0 ∧ opcOf w0 < 0x140))) :
    exec i s = .next (s.squash s.fk s.fc (encode i).length) := by
  have hg : (s.fcore.stageOn && s.fcore.guard (rawG w0)) = false :=
    Bool.and_eq_false_iff.2 (hoff.imp_right And.left)
  have hs (hmask : 0x80 ≤ field w0 35 9 ∧ field w0 35 9 < 0x140) : s.fcore.stageOn = false :=
    hoff.resolve_right (fun h => h.2 hmask)
  simp only [raw] at hraw
  split at hraw
  · rw [scalTab_oneWord.length_eq hraw, scalTab_guarded.exec hraw hloop hg]
  split at hraw
  · rw [vecTab_oneWord.length_eq hraw, vecTab_staged.exec hraw (hs (by omega))]
  split at hraw
  · rw [matTab_twoWords.length_eq hraw, matTab_staged.exec hraw (hs (by omega))]
  split at hraw
  · rw [spTab_twoWords.length_eq hraw, spTab_guarded.exec hraw hloop hg]
  split at hraw
  · rw [soTab_twoWords.length_eq hraw, soTab_guarded.exec hraw hloop hg]
  split at hraw
  · rw [xfTab_twoWords.length_eq hraw, xfTab_guarded.exec hraw hloop hg]
  · rw [syTab_oneWord.length_eq hraw, syTab_guarded.exec hraw hloop hg]

/-- Settles O53: a well-formed instruction is what the opcode map reads at its own words. -/
theorem disabledOnlyRetires : Obligations.DisabledOnlyRetires := by
  intro i s hw hn hloop w hoff
  obtain ⟨-, hraw, -⟩ := decode_ok (statement i hw hn _ _ 0 (accepts_coreFor (field w 35 9)))
  exact exec_of_raw hraw hloop hoff

end Sys2Proof.Machine

end

section
/-! Elementwise vector instructions (07 R128 to R132, R136, R137, R139), and the stochastic rounding that they share with conversions and
scans (06 R121). -/

namespace Sys2Proof.Machine

/-! ## Draws of the generators (06 R121) -/

theorem Gens.get_draw (g : Gens) (i j : Nat) : (g.draw i).2.get j = if j = i then xorshift (g.get i) else g.get j := by
  simp only [Gens.draw, Gens.get, kget?_kset]
  by_cases h : j = i <;> simp [h]

/-- The mode of an element after a list of earlier elements has drawn. -/
def drawMode (g : Gens) (gen : Nat → Nat) (pre : List Nat) (i : Nat) : Rm :=
  .sr (xorshift^[(pre.filter (fun j => gen j == gen i)).length + 1] (g.get (gen i))).toNat

/-- One element with its draw, after those before it. -/
def drawStep {α : Type} (gen : Nat → Nat) (fn : Rm → Nat → α) (acc : List (Nat × α) × Gens) (i : Nat) : List (Nat × α) × Gens :=
  ((i, fn (.sr (acc.2.draw (gen i)).1) i) :: acc.1, (acc.2.draw (gen i)).2)

/-- The elements of a rising list, each with the result that its mode gives, in reverse, and every generator advanced by its draws. -/
theorem foldl_drawStep {α : Type} (gen : Nat → Nat) (fn : Rm → Nat → α) (g : Gens) {l : List Nat} (hl : l.Pairwise (· < ·)) :
    let r := l.foldl (drawStep gen fn) ([], g)
    r.1.reverse = l.map (fun i => (i, fn (drawMode g gen (l.filter (fun j => decide (j < i))) i) i)) ∧
      ∀ k, r.2.get k = xorshift^[(l.filter (fun j => gen j == k)).length] (g.get k) := by
  induction l using List.reverseRecOn with
  | nil => exact ⟨rfl, fun _ => rfl⟩
  | append_singleton l x ih =>
    obtain ⟨hl, -, hlast⟩ := List.pairwise_append.1 hl
    replace hlast : ∀ i ∈ l, i < x := fun i hi => hlast i hi x List.mem_cons_self
    obtain ⟨hres, hgens⟩ := ih hl
    dsimp only
    rw [List.foldl_append, List.foldl_cons, List.foldl_nil]
    refine ⟨?results, fun k => ?generators⟩
    case results =>
      rw [drawStep, List.reverse_cons, hres, List.map_append, List.map_singleton]
      congr 1
      · refine List.map_congr_left (fun i hi => ?_)
        simp [List.filter_append, Nat.le_of_lt (hlast i hi)]
      · have hpre : (l ++ [x]).filter (fun j => decide (j < x)) = l := by
          rw [List.filter_append, List.filter_eq_self.2 (fun i hi => decide_eq_true (hlast i hi))]
          simp
        simp only [hpre, drawMode, Gens.draw, hgens, Function.iterate_succ_apply']
    case generators =>
      rw [drawStep, Gens.get_draw, hgens, hgens, List.filter_append, List.length_append]
      by_cases hk : k = gen x
      · rw [if_pos hk, hk, List.filter_singleton, beq_self_eq_true, cond_true, List.length_singleton,
          Function.iterate_succ_apply']
      · rw [if_neg hk, List.filter_singleton, beq_eq_false_iff_ne.2 (Ne.symm hk)]
        rfl

/-- Under the mode of a rounding field the elements of a rising list take the results that State.modeFor names. -/
theorem rounding_modeFor {α : Type} (s : State) (rm : BitVec 2) (gen : Nat → Nat) {l : List Nat} (hl : l.Pairwise (· < ·)) (fn : Rm → Nat → α) :
    (rounding (modeOf rm s.fcore.status) gen l s.unit.gens fn).1 = l.map (fun i => (i, fn (s.modeFor rm true gen l i) i)) := by
  unfold modeOf State.modeFor
  by_cases h : rm = 0 ∧ stSRE s.fcore.status
  · have hdraws : (rounding none gen l s.unit.gens fn).1 = _ := (foldl_drawStep gen fn s.unit.gens hl).1
    simp only [if_pos h, true_and, hdraws, drawMode, List.filter_filter, Bool.and_comm]
  · simp only [if_neg h, rounding, true_and]

/-- Enabled elements come in rising order. -/
theorem State.enabled_rising (s : State) (g : Guard) (tag n : Nat) : (s.enabled g tag n).Pairwise (· < ·) := by
  unfold State.enabled
  split
  · exact List.pairwise_lt_range
  · exact List.pairwise_lt_range.filter _

/-! ## The shared operation -/

/-- The pattern and the flags of lane i under a rounding mode. -/
def laneResult (s : State) (o : Opnd) (os : List Opnd) (ff : Nat → Fmt → Rm → List Nat → Nat × Flags) (fi : Nat → List Nat → Nat × Flags)
    (m : Rm) (i : Nat) : Nat × Flags :=
  let ps := (o :: os).map (fun o => o.el i)
  if isF o.tag then ff (Config.freeWord s.free) (fmtOf o.tag) m ps else fi (tagBits o.tag) ps

/-- An elementwise instruction with no element enabled only retires. -/
theorem elementwise_of_none {f : FmtV} {s : State} {srcs : State → List Opnd} {cls : Nat → Bool} {draws : Bool} {o : Opnd} {os : List Opnd}
    (ff : Nat → Fmt → Rm → List Nat → Nat × Flags) (fi : Nat → List Nat → Nat × Flags)
    (hstage : s.fcore.stageOn = true) (hsrcs : srcs s = o :: os) (hcls : sameTags cls (o :: os) = .ok ())
    (hrm : ¬ (isI o.tag = true ∧ f.rm ≠ 0)) (hen : s.enabled f.g o.tag (elemCount o.tag) = []) :
    elementwise f s srcs cls draws ff fi = .next (s.retire s.fk s.fc 1) := by
  refine vector_ok hstage ?_
  simp only [hsrcs, hcls, hrm, hen, bind, Except.bind, pure, Except.pure, if_false, if_true]

/-- Whether an elementwise instruction draws or not, each lane takes the result of the mode that State.modeFor names. -/
theorem rounding_lanes (s : State) (o : Opnd) (os : List Opnd) (rm : BitVec 2) (draws : Bool) {en : List Nat} (hrising : en.Pairwise (· < ·))
    (ff : Nat → Fmt → Rm → List Nat → Nat × Flags) (fi : Nat → List Nat → Nat × Flags) :
    (rounding (if isF o.tag = true ∧ draws = true then modeOf rm s.fcore.status else some (rmOf rm.toNat)) (· % 256) en s.unit.gens
        (laneResult s o os ff fi)).1 =
      en.map (fun i => (i, laneResult s o os ff fi (s.modeFor rm draws (· % 256) en i) i)) := by
  by_cases hdraws : isF o.tag = true ∧ draws = true
  · obtain ⟨hfloat, rfl⟩ := hdraws
    rw [if_pos ⟨hfloat, rfl⟩]
    exact rounding_modeFor s rm (· % 256) hrising _
  · rw [if_neg hdraws]
    refine List.map_congr_left (fun i _ => congrArg (Prod.mk i) ?_)
    by_cases hfloat : isF o.tag = true
    · simp [laneResult, State.modeFor, show draws = false by simpa [hfloat] using hdraws]
    · simp [laneResult, hfloat]

/-- An elementwise instruction pops its ports, writes its function of each enabled lane, rounded in the lane's mode, and ORs the flags of all
(06 R121; 07 R128 to R133). -/
theorem elementwise_eq {f : FmtV} {s : State} {srcs : State → List Opnd} {cls : Nat → Bool} {draws : Bool} {o : Opnd} {os : List Opnd}
    {en : List Nat} (ff : Nat → Fmt → Rm → List Nat → Nat × Flags) (fi : Nat → List Nat → Nat × Flags)
    (hstage : s.fcore.stageOn = true) (hsrcs : srcs s = o :: os) (hcls : sameTags cls (o :: os) = .ok ())
    (hrm : ¬ (isI o.tag = true ∧ f.rm ≠ 0)) (hdef : s.enabled f.g o.tag (elemCount o.tag) = en) (hen : en ≠ [])
    (hports : s.checkPorts ((o :: os).map (fun o => o.need en)) = .ok ()) :
    let r := fun i => laneResult s o os ff fi (s.modeFor f.rm draws (· % 256) en i) i
    ∃ u, s.KeepsRegs u ∧ elementwise f s srcs cls draws ff fi =
      .next (s.vdone u f.d o.tag en (fun i => ((r i).1, (o :: os).any (fun o => o.elBad i))) (orAll (en.map (fun i => (r i).2)))) := by
  intro r
  have hrounded := rounding_lanes s o os f.rm draws (hdef ▸ s.enabled_rising _ _ _) ff fi
  unfold laneResult at hrounded
  have hpops := (State.KeepsRegs.bump s).trans (State.KeepsRegs.popPorts s.bump ((o :: os).map (fun o => o.need en)))
  refine ⟨_, hpops.trans (State.KeepsRegs.setUnit _ { (s.bump.popPorts ((o :: os).map (fun o => o.need en))).unit with
    gens := (rounding (if isF o.tag = true ∧ draws = true then modeOf f.rm s.fcore.status else some (rmOf f.rm.toNat)) (· % 256) en
      s.unit.gens (laneResult s o os ff fi)).2 }), vector_ok hstage ?_⟩
  simp only [hsrcs, hcls, hrm, hdef, hen, hports, hrounded, bind, Except.bind, pure, Except.pure, if_false, List.map_map]
  rfl

/-! ## The rows of the tables -/

/-- The row's instruction is the shared operation with the row's sources, class, draws and functions; it reads one source at least, of class F
or I. -/
structure VRow.Runs (p : VRow) : Prop where
  exec_eq : ∀ f s, exec (p.ins f) s = elementwise f s (p.srcs f) p.cls p.draws (p.ff f) (p.fi f)
  srcs    : ∀ f s, ∃ o os, p.srcs f s = o :: os
  cls     : ∀ tag, p.cls tag = true → clsFI tag = true

theorem clsFI_of_isF (tag : Nat) (h : isF tag = true) : clsFI tag = true := by rw [clsFI, h, Bool.true_or]

theorem execVfnma_eq (f : FmtV) (s : State) : execVfnma f s = elementwise f s (srcABC f) clsFI true
    (onF f (fun d l => Fp.fma d (fv l 0).neg (fv l 1) (fv l 2))) (onI f (fun a b c => c - a * b)) := by
  simp only [execVfnma, neg_add_eq_sub]

theorem execVmin_eq (f : FmtV) (s : State) : execVmin f s = elementwise f s (srcAB f) clsFI true
    (onF f (fun _ l => Fp.minmax false (fv l 0) (fv l 1)))
    (fun w ps => (if iv f w ps 0 ≤ iv f w ps 1 then pat ps 0 else pat ps 1, {})) := by
  unfold execVmin
  congr 1

theorem execVmax_eq (f : FmtV) (s : State) : execVmax f s = elementwise f s (srcAB f) clsFI true
    (onF f (fun _ l => Fp.minmax true (fv l 0) (fv l 1)))
    (fun w ps => (if iv f w ps 1 ≤ iv f w ps 0 then pat ps 0 else pat ps 1, {})) := by
  unfold execVmax
  congr 1

theorem execVsgn_eq (f : FmtV) (s : State) : execVsgn f s = elementwise f s (srcA f) clsFI true (onF f (fun _ l => unaryF signF (fv l 0)))
    (onI f (fun a _ _ => a.sign)) := by
  have hsign : (fun a _ _ : Int => if 0 < a then (1 : Int) else if a < 0 then -1 else 0) = fun a _ _ => a.sign := by
    funext a _ _
    rcases lt_trichotomy a 0 with h | rfl | h
    · rw [if_neg (by omega), if_pos h, Int.sign_eq_neg_one_of_neg h]
    · rfl
    · rw [if_pos h, Int.sign_eq_one_of_pos h]
  rw [execVsgn, hsign]

/-- The larger of two integers, held against a third, in the two ways of writing it. -/
theorem execVclamp_eq (f : FmtV) (s : State) : execVclamp f s = elementwise f s (srcABC f) clsFI true
    (onF f (fun _ l => ((Fp.minmax false (Fp.minmax true (fv l 0) (fv l 1)).1 (fv l 2)).1,
      (Fp.minmax true (fv l 0) (fv l 1)).2.or (Fp.minmax false (Fp.minmax true (fv l 0) (fv l 1)).1 (fv l 2)).2)))
    (fun w ps =>
      let m := max (iv f w ps 0) (iv f w ps 1)
      (if m ≤ iv f w ps 2 then (if iv f w ps 1 ≤ iv f w ps 0 then pat ps 0 else pat ps 1) else pat ps 2, {})) := by
  unfold execVclamp
  congr 1
  funext w ps
  by_cases h : iv f w ps 1 ≤ iv f w ps 0
  · simp only [if_pos h, max_eq_left h]
  · simp only [if_neg h, max_eq_right (le_of_not_ge h)]

theorem execVround_eq (f : FmtV) (s : State) : execVround f s = elementwise f s (srcA f) isF true (fun _ fm md ps =>
    match fm.value (pat ps 0) with
    | .fin v n =>
      let r := fm.result .rne f.sat (.fin (roundInt md v) n)
      (r.1, r.2.or { nx := decide ((roundInt md v : Rat) ≠ v) })
    | .nan sg => (fm.nan, { inv := sg })
    | x => fm.result md f.sat x) noI := by
  unfold execVround
  congr 1
  funext _ fm md ps
  cases fm.value (pat ps 0) with
  | fin v n => simp [bne, beq_eq_decide]
  | inf n => rfl
  | nan sg => rfl

theorem execVactRelu_eq (f : FmtV) (s : State) : execVactRelu f s = elementwise f s (srcA f) clsFI true
    (onF f (fun _ l => match fv l 0 with
      | .nan sg => (.nan false, { inv := sg })
      | .inf n => (if n then .fin 0 false else .inf false, {})
      | .fin v n => (if 0 < v then .fin v n else .fin 0 false, {})))
    (fun w ps => (if 0 < iv f w ps 0 then pat ps 0 else 0, {})) := by
  unfold execVactRelu
  congr 1

theorem vecArith_runs : vecArith.Forall VRow.Runs := by
  and_intros
  · exact ⟨fun _ _ => rfl, fun _ _ => ⟨_, _, rfl⟩, fun _ h => h⟩
  · exact ⟨fun _ _ => rfl, fun _ _ => ⟨_, _, rfl⟩, fun _ h => h⟩
  · exact ⟨fun _ _ => rfl, fun _ _ => ⟨_, _, rfl⟩, fun _ h => h⟩
  · exact ⟨fun _ _ => rfl, fun _ _ => ⟨_, _, rfl⟩, fun _ h => h⟩
  · exact ⟨fun _ _ => rfl, fun _ _ => ⟨_, _, rfl⟩, fun _ h => h⟩
  · exact ⟨execVfnma_eq, fun _ _ => ⟨_, _, rfl⟩, fun _ h => h⟩
  · exact ⟨fun _ _ => rfl, fun _ _ => ⟨_, _, rfl⟩, clsFI_of_isF⟩
  · exact ⟨execVmin_eq, fun _ _ => ⟨_, _, rfl⟩, fun _ h => h⟩
  · exact ⟨execVmax_eq, fun _ _ => ⟨_, _, rfl⟩, fun _ h => h⟩

theorem vecUnary_runs : vecUnary.Forall VRow.Runs := by
  and_intros
  · exact ⟨fun _ _ => rfl, fun _ _ => ⟨_, _, rfl⟩, fun _ h => h⟩
  · exact ⟨fun _ _ => rfl, fun _ _ => ⟨_, _, rfl⟩, fun _ h => h⟩
  · exact ⟨execVsgn_eq, fun _ _ => ⟨_, _, rfl⟩, fun _ h => h⟩
  · exact ⟨fun _ _ => rfl, fun _ _ => ⟨_, _, rfl⟩, fun tag h => eq_of_beq h ▸ rfl⟩
  · exact ⟨fun _ _ => rfl, fun _ _ => ⟨_, _, rfl⟩, clsFI_of_isF⟩

theorem vecFunctions_runs : vecFunctions.Forall VRow.Runs := by
  and_intros <;> exact ⟨fun _ _ => rfl, fun _ _ => ⟨_, _, rfl⟩, clsFI_of_isF⟩

theorem vecShape_runs : vecShape.Forall VRow.Runs := by
  and_intros
  · exact ⟨execVclamp_eq, fun _ _ => ⟨_, _, rfl⟩, fun _ h => h⟩
  · exact ⟨execVround_eq, fun _ _ => ⟨_, _, rfl⟩, clsFI_of_isF⟩
  · exact ⟨execVactRelu_eq, fun _ _ => ⟨_, _, rfl⟩, fun _ h => h⟩

theorem lt_of_clsFI {tag : Nat} (h : clsFI tag = true) : tag < 32 := by
  simp only [clsFI, isF, isI, Bool.or_eq_true, Bool.and_eq_true, decide_eq_true_eq] at h
  omega

/-- Settles O25: each row by its run as the shared operation, which draws in the order of the elements. -/
theorem vectorElementwise : Obligations.VectorElementwise := by
  unfold Obligations.VectorElementwise
  intro p hp f s hstage hd hmem
  have hruns : p.Runs := by
    have hall := List.forall_append.2 ⟨List.forall_append.2 ⟨List.forall_append.2 ⟨vecArith_runs, vecUnary_runs⟩, vecFunctions_runs⟩,
      vecShape_runs⟩
    exact List.forall_iff_forall_mem.1 hall p hp
  obtain ⟨hexec, hsrcs, hclass⟩ := hruns
  obtain ⟨o, os, hos⟩ := hsrcs f s
  rw [hos]
  intro os' tag en hcls hrm
  refine ⟨fun hnone => ?_, fun hen hports => ?_⟩
  · rw [hexec]
    exact elementwise_of_none (p.ff f) (p.fi f) hstage hos hcls hrm hnone
  · intro r
    obtain ⟨u, hkeep, hrun⟩ := elementwise_eq (draws := p.draws) (p.ff f) (p.fi f) hstage hos hcls hrm rfl hen hports
    have htag := lt_of_clsFI (hclass _ (cls_of_sameTags hcls))
    exact ⟨_, (hexec f s).trans hrun, State.vWrote_vdone hkeep hd hmem htag hen (fun i hi => State.lt_of_mem_enabled hi) _ _,
      State.vdone_status hkeep _ _ hen _ _⟩

end Sys2Proof.Machine
end

section
/-! Blocks and groups enabled whole (07 R131). -/

namespace Sys2Proof.Machine

/-! ## Maps with rising keys -/

/-- The keys of a map, strictly rising. -/
def KMap.Rises {α : Type} (m : KMap α) : Prop := List.Pairwise (fun a b : Nat × α => a.1 < b.1) m

theorem mem_of_mem_kset {α : Type} {m : KMap α} {i : Nat} {v : α} {e : Nat × α} (h : e ∈ kset m i v) : e = (i, v) ∨ e ∈ m := by
  induction m with
  | nil => exact .inl (List.mem_singleton.1 h)
  | cons x m ih =>
    obtain ⟨k, w⟩ := x
    rw [kset] at h
    split at h
    · exact (List.mem_cons.1 h).imp_right (List.mem_cons_of_mem _)
    · split at h
      · exact List.mem_cons.1 h
      · rcases List.mem_cons.1 h with rfl | h
        · exact .inr List.mem_cons_self
        · exact (ih h).imp_right (List.mem_cons_of_mem _)

theorem KMap.Rises.kset {α : Type} {m : KMap α} (h : m.Rises) (i : Nat) (v : α) : (kset m i v).Rises := by
  induction m with
  | nil => exact List.pairwise_singleton _ _
  | cons x m ih =>
    obtain ⟨k, w⟩ := x
    obtain ⟨hhead, htail⟩ := List.pairwise_cons.1 h
    rw [Machine.kset]
    split
    · next hki => exact List.pairwise_cons.2 ⟨fun e he => hki ▸ hhead e he, htail⟩
    · split
      · next hik =>
        refine List.pairwise_cons.2 ⟨fun e he => ?_, h⟩
        rcases List.mem_cons.1 he with rfl | he
        · exact hik
        · exact hik.trans (hhead e he)
      · refine List.pairwise_cons.2 ⟨fun e he => ?_, ih htail⟩
        rcases mem_of_mem_kset he with rfl | he
        · show k < i
          omega
        · exact hhead e he

theorem KMap.Rises.kget?_of_mem {α : Type} {m : KMap α} (h : m.Rises) {e : Nat × α} (he : e ∈ m) : kget? m e.1 = some e.2 := by
  induction m with
  | nil => exact nomatch he
  | cons x m ih =>
    obtain ⟨k, w⟩ := x
    obtain ⟨hhead, htail⟩ := List.pairwise_cons.1 h
    rw [kget?]
    rcases List.mem_cons.1 he with rfl | he
    · exact if_pos rfl
    · rw [if_neg (Nat.ne_of_lt (hhead e he)), ih htail he]

/-! ## Units enabled whole -/

/-- How many listed elements lie in each unit of z. -/
def unitCounts (z : Nat) (en : List Nat) : KMap Nat := en.foldl (fun m i => kset m (i / z) (kget 0 m (i / z) + 1)) []

theorem unitCounts_append (z : Nat) (en : List Nat) (i : Nat) :
    unitCounts z (en ++ [i]) = kset (unitCounts z en) (i / z) (kget 0 (unitCounts z en) (i / z) + 1) := List.foldl_append ..

theorem unitCounts_rises (z : Nat) (en : List Nat) : (unitCounts z en).Rises := by
  induction en using List.reverseRecOn with
  | nil => exact List.Pairwise.nil
  | append_singleton en i ih => exact unitCounts_append z en i ▸ ih.kset _ _

theorem kget_unitCounts (z : Nat) (en : List Nat) (u : Nat) : kget 0 (unitCounts z en) u = (en.filter (fun i => i / z == u)).length := by
  induction en using List.reverseRecOn with
  | nil => rfl
  | append_singleton en i ih =>
    rw [unitCounts_append, kget_kset, List.filter_append, List.length_append, ← ih, List.filter_singleton]
    by_cases hu : u = i / z
    · simp [hu]
    · rw [if_neg hu, beq_eq_false_iff_ne.2 (Ne.symm hu)]
      rfl

theorem unitSize_pos (tag gs : Nat) : 0 < unitSize tag gs := by
  unfold unitSize
  split
  · decide
  · exact Nat.mul_pos (by decide) (Nat.two_pow_pos gs)

/-- Every element of a unit that is enabled whole is enabled. -/
theorem mem_of_mem_fullUnits {tag gs u : Nat} {en : List Nat} (hen : en.Nodup) (hu : u ∈ fullUnits tag gs en) {i : Nat}
    (hi : i / unitSize tag gs = u) : i ∈ en := by
  obtain ⟨e, he, rfl⟩ := List.mem_map.1 hu
  obtain ⟨hmem, hfull⟩ := List.mem_filter.1 he
  have hlen : (en.filter (fun i => i / unitSize tag gs == e.1)).length = unitSize tag gs := by
    rw [← kget_unitCounts, kget, (unitCounts_rises _ en).kget?_of_mem hmem]
    exact eq_of_beq hfull
  have hpos := unitSize_pos tag gs
  have hsub : en.filter (fun i => i / unitSize tag gs == e.1) ⊆ List.range' (e.1 * unitSize tag gs) (unitSize tag gs) := by
    intro j hj
    have hdiv : j / unitSize tag gs = e.1 := eq_of_beq (List.mem_filter.1 hj).2
    rw [Nat.div_eq_iff hpos] at hdiv
    exact List.mem_range'_1.2 (by omega)
  have hperm := ((hen.filter _).subperm hsub).perm_of_length_le (by rw [List.length_range', hlen])
  have hrange : i ∈ List.range' (e.1 * unitSize tag gs) (unitSize tag gs) := by
    rw [Nat.div_eq_iff hpos] at hi
    exact List.mem_range'_1.2 (by omega)
  exact (List.mem_filter.1 (hperm.mem_iff.2 hrange)).1

theorem mem_unitElems {tag gs i : Nat} {us : List Nat} : i ∈ unitElems tag gs us ↔ i / unitSize tag gs ∈ us := by
  have hpos := unitSize_pos tag gs
  simp only [unitElems, List.mem_flatMap, List.mem_map, List.mem_range]
  constructor
  · rintro ⟨u, hu, j, hj, rfl⟩
    rwa [Nat.mul_comm, Nat.mul_add_div hpos, Nat.div_eq_of_lt hj, Nat.add_zero]
  · exact fun h => ⟨_, h, i % unitSize tag gs, Nat.mod_lt _ hpos, Nat.div_add_mod' _ _⟩

/-- What is written of a register is enabled. -/
theorem mem_of_mem_whole {tag gs i : Nat} {en : List Nat} (hen : en.Nodup) (hi : i ∈ whole tag gs en) : i ∈ en := by
  unfold whole at hi
  split at hi
  · exact mem_of_mem_fullUnits hen (mem_unitElems.1 hi) rfl
  · exact hi

theorem whole_nil (tag gs : Nat) : whole tag gs [] = [] := by
  unfold whole
  split <;> rfl

theorem ne_nil_of_whole {tag gs : Nat} {en : List Nat} (h : whole tag gs en ≠ []) : en ≠ [] :=
  fun hen => h (by rw [hen, whole_nil])

theorem State.enabled_nodup (s : State) (g : Guard) (tag n : Nat) : (s.enabled g tag n).Nodup :=
  (s.enabled_rising g tag n).imp Nat.ne_of_lt

theorem State.lt_of_mem_whole {s : State} {g : Guard} {tag gs n i : Nat} (h : i ∈ whole tag gs (s.enabled g tag n)) : i < n :=
  State.lt_of_mem_enabled (mem_of_mem_whole (s.enabled_nodup _ _ _) h)

end Sys2Proof.Machine
end

section
/-! Moves of vector registers and lanes (07 R135). -/

namespace Sys2Proof.Machine

/-! ## The end of an instruction that writes a register -/

/-- A write of listed elements after what keeps the registers, with the instruction retired. -/
theorem State.vWrote_retired {s u : State} {d : BitVec 6} {tag : Nat} {en : List Nat} (hkeep : s.KeepsRegs u) (hd : d.toNat < 48)
    (hmem : s.mem.wf = true) (htag : tag < 32) (hen : en ≠ []) (hin : ∀ i ∈ en, i < elemCount tag) (g : Nat → Nat × Bool) (side : Side) :
    s.VWrote ((u.vput d tag (en.map (fun i => (i, g i))) side).retire s.fk s.fc 1) d tag (Machine.lanes en g) :=
  ((vWrote_vput hd (hkeep.mem ▸ hmem) htag hen hin g side).of_keepsRegs hkeep).retire 1

theorem vx_of_holds {s : State} {f : BitVec 6} {x : Word} {bad : Bool} (h : s.fcore.Holds (f.truncate 5) x bad) : s.vx f = .ok (x, bad) :=
  Core.readX_of_holds h false

/-! ## VMOV, VTAG, VZERO -/

/-- A copy of elements pops its port and writes the source's bits under the tag, of blocks and groups only whole ones. -/
theorem State.copyElems_eq {s : State} {f : FmtV} {o : Opnd} {tag : Nat} (hen : s.enabled f.g tag (elemCount tag) ≠ [])
    (hports : s.checkPorts [⟨o, tagBits tag, s.enabled f.g tag (elemCount tag)⟩] = .ok ()) :
    ∃ u side, s.KeepsRegs u ∧ s.copyElems f o tag = .ok (u.vput f.d tag
      ((whole tag (if isBlock tag then 0 else o.gs) (s.enabled f.g tag (elemCount tag))).map
        (fun i => (i, o.rd (i * tagBits tag) (tagBits tag), o.bad (i * tagBits tag) (tagBits tag)))) side) := by
  refine ⟨s.popPorts [⟨o, tagBits tag, s.enabled f.g tag (elemCount tag)⟩], if isX tag then .set (if isBlock tag then 0 else o.gs)
    (o.entries tag (fullUnits tag (if isBlock tag then 0 else o.gs) (s.enabled f.g tag (elemCount tag)))) else .zero,
    State.KeepsRegs.popPorts s _, ?_⟩
  simp only [State.copyElems, hen, hports, bind, Except.bind, pure, Except.pure, whole, ne_eq, not_false_eq_true, if_true]
  by_cases hx : isX tag = true
  · simp only [hx, if_true]
  · simp only [hx, if_false, Bool.false_eq_true]

theorem movesWhole (f : FmtV) (s : State) (hstage : s.fcore.stageOn = true) (hd : f.d.toNat < 48) (hmem : s.mem.wf = true) {ins : Instr}
    {tag : Nat} (hexec : exec ins s = vector s (fun s => do ofClass isAny (s.opnd f.a); s.copyElems f (s.opnd f.a) tag))
    (hclass : isAny (s.opnd f.a).tag = true) (htag : tag ≤ 18) :
    let o := s.opnd f.a
    let en := whole tag (if isBlock tag then 0 else o.gs) (s.enabled f.g tag (elemCount tag))
    let w := tagBits tag
    en ≠ [] → s.checkPorts [⟨o, w, s.enabled f.g tag (elemCount tag)⟩] = .ok () →
    ∃ t, exec ins s = .next t ∧ s.VWrote t f.d tag (lanes en (fun i => (o.rd (i * w) w, o.bad (i * w) w))) := by
  intro o en w hen hports
  obtain ⟨u, side, hkeep, hcopy⟩ := State.copyElems_eq (ne_nil_of_whole hen) hports
  refine ⟨_, hexec.trans (vector_ok hstage ?_), State.vWrote_retired hkeep hd hmem (Nat.lt_of_le_of_lt htag (by decide)) hen
    (fun i hi => State.lt_of_mem_whole hi) (fun i => (o.rd (i * w) w, o.bad (i * w) w)) side⟩
  simp only [ofClass_ok hclass, bind, Except.bind]
  exact hcopy

theorem execVzero_eq {f : FmtV} {s : State} (hstage : s.fcore.stageOn = true) :
    let tag := f.sub.toNat
    let v := s.fcore.vp f.d.toNat
    let gs := if isQ tag ∧ isQ (vget s.unit.tags v 0).toNat then (vget s.unit.gs v 0).toNat else 0
    ∃ side, execVzero f s = .next ((s.vput f.d tag ((whole tag gs (s.enabled f.g tag (elemCount tag))).map (fun i => (i, 0, false)))
      side).retire s.fk s.fc 1) := by
  intro tag v gs
  refine ⟨if isX tag then .set gs ((fullUnits tag gs (s.enabled f.g tag (elemCount tag))).map
    (fun u => (u, List.replicate (entrySize tag) 0))) else .zero, vector_ok hstage ?_⟩
  by_cases hx : isX tag = true
  · simp only [tag, gs, v, whole, if_pos hx]
  · simp only [tag, gs, v, whole, if_neg hx]

/-! ## VSPLAT -/

theorem execVsplatV_eq {f : FmtV} {s : State} {x : Word} (hstage : s.fcore.stageOn = true) (hx : s.fcore.Holds (f.a.truncate 5) x false)
    (hen : s.enabled f.g (f.b.toNat % 32) (elemCount (f.b.toNat % 32)) ≠ []) :
    execVsplatV f s = .next ((s.vput f.d (f.b.toNat % 32) ((s.enabled f.g (f.b.toNat % 32) (elemCount (f.b.toNat % 32))).map
      (fun i => (i, x.toNat % 2 ^ tagBits (f.b.toNat % 32), false))) .zero).retire s.fk s.fc 1) := by
  refine vector_ok hstage ?_
  simp only [vx_of_holds hx, hen, useVx, bind, Except.bind, pure, Except.pure, if_false, Bool.false_eq_true]

theorem execVsplatSlot_eq {f : FmtV} {s : State} {x : Word} (hstage : s.fcore.stageOn = true) (hx : s.fcore.Holds (f.a.truncate 5) x false)
    (hen : s.enabled f.g 8 1 ≠ []) :
    execVsplatSlot f s = .next ((s.setUnit { s.unit with
      slots := vset s.unit.slots (f.sub.toNat % 8) ⟨x, f.b.truncate 5, false⟩ }).retire s.fk s.fc 1) := by
  refine vector_ok hstage ?_
  simp only [vx_of_holds hx, hen, useVx, bind, Except.bind, pure, Except.pure, if_false, Bool.false_eq_true]

@[simp] theorem State.unit_retire (s : State) (k : Nat) (c : CoreIx) (len : Nat) : (s.retire k c len).unit = s.unit := s.unit_setCore k c _

theorem vectorWholeMoves : VectorWholeMoves := by
  refine ⟨?copies, ?splat, ?slot, ?zero⟩
  case copies =>
    intro f s hstage hd hmem o hclass p hp htag
    rcases List.mem_cons.1 hp with rfl | hp
    · exact movesWhole f s hstage hd hmem rfl hclass htag
    · obtain rfl := List.mem_singleton.1 hp
      exact movesWhole f s hstage hd hmem rfl hclass htag
  case splat =>
    intro f s x hstage hd hmem _ hx tag en hen
    have hwrite := State.vWrote_retired (State.KeepsRegs.refl s) hd hmem (Nat.mod_lt _ (by decide)) hen
      (fun i hi => State.lt_of_mem_enabled hi) (fun _ => (x.toNat % 2 ^ tagBits tag, false)) .zero
    exact ⟨_, execVsplatV_eq hstage hx hen, hwrite.lanes_congr (g' := fun _ => (x.toNat, false)) (fun i _ => ⟨Nat.mod_mod _ _, rfl⟩)⟩
  case slot =>
    intro f s x hstage _ hx hen
    refine ⟨_, execVsplatSlot_eq hstage hx hen, ?_, fun j hj => ?_, rfl, ?_⟩
    · rw [State.unit_retire, State.unit_setUnit, vget_vset, if_pos ⟨rfl, Nat.mod_lt _ (by decide)⟩]
    · rw [State.unit_retire, State.unit_setUnit, vget_vset, if_neg (fun h => hj h.1.symm)]
    · rw [State.unit_retire, State.unit_setUnit]
  case zero =>
    intro f s hstage hd hmem _ htag v gs en hen
    obtain ⟨side, hrun⟩ := execVzero_eq (f := f) hstage
    exact ⟨_, hrun, State.vWrote_retired (State.KeepsRegs.refl s) hd hmem (Nat.lt_of_le_of_lt htag (by decide)) hen
      (fun i hi => State.lt_of_mem_whole hi) (fun _ => (0, false)) side⟩

/-! ## Single lanes -/

/-- A result on its way to a register of the issuing core, with the instruction retired. -/
theorem State.KeepsRegs.core_of_awaits {s u : State} (hkeep : s.KeepsRegs u) (r : Core) {i : Nat} (hi : i < 32) (v : Word) (bad : Bool) :
    let t := (u.putCore (r.awaits i v bad)).retire s.fk s.fc 1
    (t.core s.fk s.fc).results = r.results ++ [⟨i, v, bad⟩] ∧ ((t.core s.fk s.fc).xreg i).fill = .load := by
  have hk : u.fk = s.fk := congrArg (·.k) hkeep.focus
  have hc : u.fc = s.fc := congrArg (·.c) hkeep.focus
  obtain ⟨hresults, hfill, -⟩ := u.core_of_awaits r hi v bad
  rw [hk, hc] at hresults hfill
  exact ⟨hresults, hfill⟩

theorem execVgetl_eq {f : FmtV} {s : State} {x : Word} (hstage : s.fcore.stageOn = true) (hx : s.fcore.Holds (f.b.truncate 5) x false)
    (hclass : tagPlain (s.opnd f.a).tag = true)
    (hk : x.toNat % elemCount (s.opnd f.a).tag ∈ s.enabled f.g (s.opnd f.a).tag (elemCount (s.opnd f.a).tag))
    (hports : s.checkPorts [(s.opnd f.a).need [x.toNat % elemCount (s.opnd f.a).tag]] = .ok ())
    (hready : s.fcore.Ready (f.d.truncate 5)) (hd : (f.d.truncate 5 : BitVec 5) ≠ 0) :
    let o := s.opnd f.a
    let k := x.toNat % elemCount o.tag
    ∃ u, s.KeepsRegs u ∧ execVgetl f s = .next ((u.putCore (s.fcore.awaits (s.fcore.px (f.d.truncate 5 : BitVec 5).toNat)
      (if f.sa ∧ isFloat o.tag = false then BitVec.ofInt 64 (intOf o.w true (o.el k)) else BitVec.ofNat 64 (o.el k)) (o.elBad k))).retire
        s.fk s.fc 1) := by
  intro o k
  have hkeep := State.KeepsRegs.popPorts s [o.need [k]]
  refine ⟨_, hkeep, vector_ok hstage ?_⟩
  have hcore : (s.popPorts [(s.opnd f.a).need [x.toNat % elemCount (s.opnd f.a).tag]]).fcore = s.fcore := hkeep.fcore
  simp only [vx_of_holds hx, ofClass_ok hclass, List.contains_iff_mem.2 hk, Core.freeX_of_ready hready, hports, hcore,
    Core.lateX_of_ready hd hready, useVx, bind, Except.bind,
    pure, Except.pure, if_true, if_false, Bool.false_eq_true]
  simp only [w64, wNat, Bool.not_eq_true']
  rfl

theorem execVsetl_eq {f : FmtV} {s : State} {x k : Word} (hstage : s.fcore.stageOn = true) (hx : s.fcore.Holds (f.a.truncate 5) x false)
    (hk : s.fcore.Holds (f.b.truncate 5) k false) (hclass : tagPlain (s.opnd f.d).tag = true)
    (hin : k.toNat % elemCount (s.opnd f.d).tag ∈ s.enabled f.g (s.opnd f.d).tag (elemCount (s.opnd f.d).tag)) :
    execVsetl f s = .next ((s.vput f.d (s.opnd f.d).tag [(k.toNat % elemCount (s.opnd f.d).tag, x.toNat % 2 ^ (s.opnd f.d).w, false)]
      .zero).retire s.fk s.fc 1) := by
  refine vector_ok hstage ?_
  simp only [vx_of_holds hx, vx_of_holds hk, ofClass_ok hclass, List.contains_iff_mem.2 hin, useVx, bind, Except.bind, pure, Except.pure,
    if_true, if_false, Bool.false_eq_true]

theorem lt_of_tagPlain {tag : Nat} (h : tagPlain tag = true) : tag < 32 := by
  simp only [tagPlain, Bool.or_eq_true, Bool.and_eq_true, decide_eq_true_eq, beq_iff_eq] at h
  omega

theorem vectorLanes : VectorLanes := by
  refine ⟨?get, ?set⟩
  case get =>
    intro f s x hstage _ _ hx o k d hclass hk hports hready hd
    obtain ⟨u, hkeep, hrun⟩ := execVgetl_eq hstage hx hclass hk hports hready hd
    obtain ⟨hresults, hfill⟩ := hkeep.core_of_awaits s.fcore (s.fcore.px_lt d)
      (if f.sa ∧ isFloat o.tag = false then BitVec.ofInt 64 (intOf o.w true (o.el k)) else BitVec.ofNat 64 (o.el k)) (o.elBad k)
    exact ⟨_, hrun, hkeep.mem, hresults, hfill⟩
  case set =>
    intro f s x k hstage hd hmem _ _ hx hk o i hclass hin
    have hwrite := State.vWrote_retired (State.KeepsRegs.refl s) hd hmem (lt_of_tagPlain hclass) (List.cons_ne_nil i [])
      (fun j hj => List.mem_singleton.1 hj ▸ State.lt_of_mem_enabled hin) (fun _ => (x.toNat % 2 ^ o.w, false)) .zero
    exact ⟨_, execVsetl_eq hstage hx hk hclass hin, hwrite.lanes_congr (g' := fun _ => (x.toNat, false)) (fun i _ => ⟨Nat.mod_mod _ _, rfl⟩)⟩

/-- Settles O27: whole moves and single lanes, each by the run of its instruction and the write of a register. -/
theorem vectorMoves : Obligations.VectorMoves := ⟨vectorWholeMoves, vectorLanes⟩

end Sys2Proof.Machine
end

section
/-! Masks: compares, VCLASS, VSEL and the mask instructions (07 R141 to R143). -/

namespace Sys2Proof.Machine

/-! ## Bits of a mask -/

theorem getLsbD_maskWith {j : Nat} (hj : j < 1024) (en : List Nat) (m : BitVec 1024) (b : Nat → Bool) :
    (maskWith m (en.map (fun i => (i, b i)))).getLsbD j = if j ∈ en then b j else m.getLsbD j := by
  induction en using List.reverseRecOn with
  | nil => rfl
  | append_singleton en i ih =>
    have hstep : maskWith m ((en ++ [i]).map (fun i => (i, b i))) = setBit (maskWith m (en.map (fun i => (i, b i)))) i (b i) := by
      rw [maskWith, List.map_append, List.foldl_append]
      rfl
    rw [hstep, getLsbD_setBit hj, ih]
    by_cases hij : i = j
    · simp [hij]
    · simp [hij, Ne.symm hij]

theorem Core.kp_lt (r : Core) {j : Nat} (h : j < 16) : r.kp j < 16 := rot_lt 8 8 _ _ (by decide) h

/-! ## What a write of masks keeps -/

/-- The register behind a logical mask, of K0 too. -/
def State.heldMask (s : State) (j : Nat) : BitVec 1024 := vget s.unit.k (s.fcore.kp j) 0

theorem State.kmask_eq (s : State) {j : Nat} (h : j ≠ 0) : s.kmask j = s.heldMask j := if_neg h

/-- At most masks, whose registers are m by logical index, ports, touched granules and the live masks differ. -/
structure State.Masked (s t : State) (m : Nat → BitVec 1024) : Prop where
  focus   : t.focus = s.focus
  mem     : t.mem = s.mem
  hbm     : t.hbm = s.hbm
  hostMem : t.hostMem = s.hostMem
  bufs    : t.bufs = s.bufs
  tags    : t.unit.tags = s.unit.tags
  x       : t.fcore.x = s.fcore.x
  a       : t.fcore.a = s.fcore.a
  status  : t.fcore.status = s.fcore.status
  rbase   : t.fcore.rbase = s.fcore.rbase
  mask    : ∀ j, j < 16 → t.heldMask j = m j

theorem State.popPorts_unit (s : State) (l : List Need1) : ∃ ports, (s.popPorts l).unit = { s.unit with ports := ports } := by
  have htouched (s : State) (l : List (Int × Nat)) : (s.touchSpans l).unit = s.unit := by
    simp only [State.unit, State.touchSpans, State.bank_modBank, State.modBank_focus, State.fk, State.fc, if_true]
  have htouch (l : List Need1) (s : State) : (l.foldl (fun s n => match n.o.port with
      | some q => s.touchSpans (n.idx.map (elemSpan (vget s.unit.ports q {}).addr n.w))
      | none => s) s).unit = s.unit := by
    induction l generalizing s with
    | nil => rfl
    | cons n l ih =>
      rw [List.foldl_cons, ih]
      split
      · exact htouched s _
      · rfl
  have hpop (qs : List Nat) (s : State) : ∃ ports, (qs.foldl (fun s q => s.setUnit { s.unit with
      ports := vset s.unit.ports q (vget s.unit.ports q {}).advance }) s).unit = { s.unit with ports := ports } := by
    induction qs generalizing s with
    | nil => exact ⟨_, rfl⟩
    | cons q qs ih =>
      obtain ⟨ports, h⟩ := ih (s.setUnit { s.unit with ports := vset s.unit.ports q (vget s.unit.ports q {}).advance })
      exact ⟨ports, by rw [List.foldl_cons, h, State.unit_setUnit]⟩
  obtain ⟨ports, h⟩ := hpop ((l.filterMap (fun n => n.o.port)).eraseDups) (l.foldl (fun s n => match n.o.port with
      | some q => s.touchSpans (n.idx.map (elemSpan (vget s.unit.ports q {}).addr n.w))
      | none => s) s)
  rw [htouch] at h
  exact ⟨ports, h⟩

namespace State.Masked

variable {s t : State} {m : Nat → BitVec 1024}

theorem refl (s : State) : s.Masked s s.heldMask := ⟨rfl, rfl, rfl, rfl, rfl, rfl, rfl, rfl, rfl, rfl, fun _ _ => rfl⟩

theorem popPorts (s : State) (l : List Need1) : s.Masked (s.popPorts l) s.heldMask := by
  obtain ⟨hfocus, hmem, -, hhbm, hhost, hbufs, hcore⟩ := State.KeepsRegs.popPorts s l
  obtain ⟨ports, hunit⟩ := s.popPorts_unit l
  refine ⟨hfocus, hmem, hhbm, hhost, hbufs, by rw [hunit], by rw [hcore], by rw [hcore], by rw [hcore], by rw [hcore], fun j _ => ?_⟩
  rw [State.heldMask, State.heldMask, hunit, hcore]

/-- A mask other than K0 takes the value written; the others stay (07 R143). -/
theorem setMask (h : s.Masked t m) {j : Nat} (hj : j < 16) (v : BitVec 1024) :
    s.Masked (t.setMask j v) (fun i => if i = j ∧ j ≠ 0 then v else m i) := by
  unfold State.setMask
  by_cases h0 : j = 0
  · rw [if_pos h0]
    exact { h with mask := fun i hi => by rw [if_neg (fun hij => hij.2 h0), h.mask i hi] }
  · rw [if_neg h0]
    obtain ⟨hfocus, hmem, hhbm, hhost, hbufs, htags, hx, ha, hstatus, hrbase, hmask⟩ := h
    have hcore : ((t.setUnit { t.unit with k := vset t.unit.k (t.fcore.kp j) v }).putCore
        { (t.setUnit { t.unit with k := vset t.unit.k (t.fcore.kp j) v }).fcore with
          livek := setBit (t.setUnit { t.unit with k := vset t.unit.k (t.fcore.kp j) v }).fcore.livek (t.fcore.kp j) true }).fcore =
        { t.fcore with livek := setBit t.fcore.livek (t.fcore.kp j) true } := by
      rw [State.fcore_putCore, State.fcore_setUnit]
    refine ⟨hfocus, hmem, hhbm, hhost, hbufs, ?_, ?_, ?_, ?_, ?_, fun i hi => ?_⟩
    · rw [State.putCore, State.unit_setCore, State.unit_setUnit, ← htags]
    · exact (congrArg Core.x hcore).trans hx
    · exact (congrArg Core.a hcore).trans ha
    · exact (congrArg Core.status hcore).trans hstatus
    · exact (congrArg Core.rbase hcore).trans hrbase
    · have hkp : ∀ i, Core.kp { t.fcore with livek := setBit t.fcore.livek (t.fcore.kp j) true } i = t.fcore.kp i := fun _ => rfl
      rw [State.heldMask, hcore, hkp, State.putCore, State.unit_setCore, State.unit_setUnit, ← hmask i hi, State.heldMask, vget_vset]
      exact if_congr ⟨fun hk => ⟨rot_inj (by omega) (by omega) hk.1.symm, h0⟩, fun hij => ⟨hij.1 ▸ rfl, t.fcore.kp_lt hi⟩⟩ rfl rfl

/-- What a state shows whose masks alone were written: mask j with the bits given. -/
theorem kWrote (h : s.Masked t m) {j : Nat} (hj : j < 16) {val : Nat → Option Bool}
    (hval : j ≠ 0 → ∀ i, i < 1024 → (m j).getLsbD i = (val i).getD ((s.kmask j).getLsbD i)) : s.KWrote t j val := by
  obtain ⟨hfocus, hmem, hhbm, hhost, hbufs, htags, hx, ha, -, hrbase, hmask⟩ := h
  rw [State.fcore_eq_core hfocus] at hx ha
  refine ⟨hfocus, fun h0 i hi => ?_, hmem, hhbm, hhost, hbufs, htags, hx, ha⟩
  have hkp : s.fcore.kp j = t.fcore.kp j := by rw [Core.kp, Core.kp, hrbase]
  have hheld : (vget t.unit.k (s.fcore.kp j) 0).getLsbD i = (m j).getLsbD i := by rw [← hmask j hj, State.heldMask, hkp]
  rw [hheld, hval h0 i hi]
  cases val i <;> rfl

/-- A mask that was not written is what it was. -/
theorem kept (h : s.Masked t m) {j : Nat} (hj : j < 16) (hm : m j = s.heldMask j) :
    vget t.unit.k (s.fcore.kp j) 0 = vget s.unit.k (s.fcore.kp j) 0 := by
  have hkp : s.fcore.kp j = t.fcore.kp j := by rw [Core.kp, Core.kp, h.rbase]
  exact (congrArg (fun i => vget t.unit.k i 0) hkp).trans ((h.mask j hj).trans hm)

/-- Bits listed are written to a mask, the others keep what the mask held. -/
theorem setBits (h : s.Masked t s.heldMask) {j : Nat} (hj : j < 16) (en : List Nat) (b : Nat → Bool) :
    s.KWrote (t.setMask j (maskWith (s.kmask j) (en.map (fun i => (i, b i))))) j (fun i => if i ∈ en then some (b i) else none) := by
  refine (h.setMask hj _).kWrote hj (fun h0 i hi => ?_)
  rw [if_pos ⟨rfl, h0⟩, getLsbD_maskWith hi]
  split <;> rfl

end State.Masked

/-! ## The same write seen after what follows -/

theorem State.KWrote.setCore {s t : State} {j : Nat} {val : Nat → Option Bool} (h : s.KWrote t j val) {r : Core}
    (hx : r.x = (t.core s.fk s.fc).x) (ha : r.a = (t.core s.fk s.fc).a) : s.KWrote (t.setCore s.fk s.fc r) j val := by
  obtain ⟨hfocus, hbits, hmem, hhbm, hhost, hbufs, htags, hxs, has⟩ := h
  refine ⟨hfocus, ?_, hmem, hhbm, hhost, hbufs, ?_, ?_, ?_⟩
  · rwa [State.unit_setCore]
  · rw [State.unit_setCore, htags]
  · rw [State.core_setCore_same, hx, hxs]
  · rw [State.core_setCore_same, ha, has]

theorem State.KWrote.retire {s t : State} {j : Nat} {val : Nat → Option Bool} (h : s.KWrote t j val) (len : Nat) :
    s.KWrote (t.retire s.fk s.fc len) j val := h.setCore (Core.advance_x _ len) (Core.advance_a _ len)

theorem State.vflag_eq {s t : State} (h : t.focus = s.focus) (fl : Flags) : t.vflag fl = t.setCore s.fk s.fc ((t.core s.fk s.fc).flag fl) := by
  rw [State.vflag, State.fcore_eq_core h]
  exact congrArg (fun c : CoreRef => t.setCore c.k c.c _) h

theorem State.PairWrote.setCore {s t : State} {d e mode : Nat} {en : List Nat} {c : Nat → Bool} (h : s.PairWrote t d e mode en c) {r : Core}
    (hx : r.x = (t.core s.fk s.fc).x) (ha : r.a = (t.core s.fk s.fc).a) : s.PairWrote (t.setCore s.fk s.fc r) d e mode en c := by
  obtain ⟨hfirst, hsecond, hothers⟩ := h
  refine ⟨fun hd => (hfirst hd).setCore hx ha, fun he => (hsecond he).setCore hx ha, ?_⟩
  rwa [State.unit_setCore]

theorem State.PairWrote.retire {s t : State} {d e mode : Nat} {en : List Nat} {c : Nat → Bool} (h : s.PairWrote t d e mode en c) (len : Nat) :
    s.PairWrote (t.retire s.fk s.fc len) d e mode en c := h.setCore (Core.advance_x _ len) (Core.advance_a _ len)

/-! ## A pair of masks -/

/-- What the model writes to the first mask of a pair, and to the second. -/
theorem State.setMaskPair_eq (s : State) (d e mode : Nat) (en : List Nat) (c : Nat → Bool) :
    s.setMaskPair d e mode (en.map (fun i => (i, c i))) =
      let u := s.setMask d (maskWith (s.kmask d) (en.map (fun i => (i, pairFirst mode ((s.kmask d).getLsbD i) (c i)))))
      if mode = 3 then u
      else u.setMask e (maskWith (s.kmask e) (en.map (fun i => (i, pairSecond mode ((s.kmask e).getLsbD i) (c i))))) := by
  rw [State.setMaskPair, List.map_map, List.map_map]
  by_cases h1 : mode = 1
  · subst h1
    rfl
  · by_cases h2 : mode = 2
    · subst h2
      rfl
    · have hfirst : (fun i => (i, pairFirst mode ((s.kmask d).getLsbD i) (c i))) = fun i => (i, c i) := by
        funext i
        rw [pairFirst, if_neg h1, if_neg h2]
      have hsecond : (fun i => (i, pairSecond mode ((s.kmask e).getLsbD i) (c i))) = fun i => (i, !c i) := by
        funext i
        rw [pairSecond, if_neg h1, if_neg h2]
      rw [hfirst, hsecond]
      obtain _ | _ | _ | n := mode
      · rfl
      · exact absurd rfl h1
      · exact absurd rfl h2
      · rfl

theorem State.Masked.kmask {s t : State} (h : s.Masked t s.heldMask) {j : Nat} (hj : j < 16) : t.kmask j = s.kmask j := by
  by_cases h0 : j = 0
  · rw [State.kmask, State.kmask, if_pos h0, if_pos h0]
  · rw [State.kmask_eq t h0, State.kmask_eq s h0, h.mask j hj]

/-- A pair is written first to first, then to second, each with what both held before (02 R21). -/
theorem State.Masked.pairWrote {s t : State} (h : s.Masked t s.heldMask) {d e : Nat} (hd : d < 16) (he : e < 16) (mode : Nat) (en : List Nat)
    (c : Nat → Bool) : s.PairWrote (t.setMaskPair d e mode (en.map (fun i => (i, c i)))) d e mode en c := by
  rw [State.setMaskPair_eq, h.kmask hd, h.kmask he]
  have hfirst := h.setMask hd (maskWith (s.kmask d) (en.map (fun i => (i, pairFirst mode ((s.kmask d).getLsbD i) (c i)))))
  have hsecond := hfirst.setMask he (maskWith (s.kmask e) (en.map (fun i => (i, pairSecond mode ((s.kmask e).getLsbD i) (c i)))))
  by_cases hmode : mode = 3
  · rw [if_pos hmode]
    exact ⟨fun _ => h.setBits hd en _, fun hne => absurd hmode hne, fun j hj hjd _ => hfirst.kept hj (if_neg (fun hi => hjd hi.1))⟩
  · rw [if_neg hmode]
    refine ⟨fun hne => ?_, fun _ => hsecond.kWrote he (fun h0 i hi => ?_), fun j hj hjd hje => hsecond.kept hj ?_⟩
    · replace hne := hne.resolve_right hmode
      refine hsecond.kWrote hd (fun h0 i hi => ?_)
      rw [if_neg (fun hde => hne hde.1), if_pos ⟨rfl, h0⟩, getLsbD_maskWith hi]
      split <;> rfl
    · rw [if_pos ⟨rfl, h0⟩, getLsbD_maskWith hi]
      split <;> rfl
    · rw [if_neg (fun hi => hje.resolve_left hmode hi.1), if_neg (fun hi => hjd hi.1)]

/-- The status of the issuing core, and its X and A registers, after a pair of masks. -/
theorem State.Masked.setMaskPair {s t : State} (h : s.Masked t s.heldMask) {d e : Nat} (hd : d < 16) (he : e < 16) (mode : Nat) (en : List Nat)
    (c : Nat → Bool) : ∃ m, s.Masked (t.setMaskPair d e mode (en.map (fun i => (i, c i)))) m := by
  rw [State.setMaskPair_eq]
  dsimp only
  split
  · exact ⟨_, h.setMask hd _⟩
  · exact ⟨_, (h.setMask hd _).setMask he _⟩

/-! ## Compares -/

/-- The outcome of a compare and its INV at element i. -/
def compareOf (f : FmtV) (a b : Opnd) (ff : Fp → Fp → Bool × Bool) (fi : Int → Int → Bool) (i : Nat) : Bool × Bool :=
  if isF a.tag then ff ((fmtOf a.tag).value (a.el i)) ((fmtOf a.tag).value (b.el i))
  else (fi (intOf a.w f.sa (a.el i)) (intOf b.w f.sb (b.el i)), false)

theorem consumeV_ok {o : Opnd} {en : List Nat} (h : ∀ i ∈ en, o.elBad i = false) : consumeV (o.need en) = .ok () := by
  have hany : (o.need en).idx.any (fun i => (o.need en).o.bad (i * (o.need en).w) (o.need en).w) = false :=
    List.any_eq_false.2 (fun i hi => ne_true_of_eq_false (h i hi))
  rw [consumeV, hany]
  rfl

theorem forM_ok {α : Type} {l : List α} {check : α → M Unit} (h : ∀ x ∈ l, check x = .ok ()) : l.forM check = .ok () := by
  induction l with
  | nil => rfl
  | cons x l ih =>
    have hrest := ih (fun y hy => h y (List.mem_cons_of_mem x hy))
    exact (congrArg (fun r : M Unit => r >>= fun _ => l.forM check) (h x List.mem_cons_self)).trans hrest

/-- A compare on good elements pops its ports, writes its pair of masks and ORs INV (07 R141, R142). -/
theorem vcompare_eq {f : FmtV} {s : State} {cls : Nat → Bool} {en : List Nat} (ff : Fp → Fp → Bool × Bool) (fi : Int → Int → Bool)
    (hstage : s.fcore.stageOn = true) (hcls : sameTags cls [s.opnd f.a, s.opnd f.b] = .ok ())
    (hdef : s.enabled f.g (s.opnd f.a).tag (elemCount (s.opnd f.a).tag) = en) (hen : en ≠ [])
    (hports : s.checkPorts [(s.opnd f.a).need en, (s.opnd f.b).need en] = .ok ())
    (hgood : ∀ i ∈ en, (s.opnd f.a).elBad i = false ∧ (s.opnd f.b).elBad i = false) :
    let r := compareOf f (s.opnd f.a) (s.opnd f.b) ff fi
    vcompare f s cls ff fi = .next ((((s.popPorts [(s.opnd f.a).need en, (s.opnd f.b).need en]).setMaskPair (f.d.toNat % 16) (f.c.toNat % 16)
      (f.sub.toNat % 4) (en.map (fun i => (i, (r i).1)))).vflag { inv := en.any (fun i => (r i).2) }).retire s.fk s.fc 1) := by
  intro r
  refine vector_ok hstage ?_
  have hconsume : [(s.opnd f.a).need en, (s.opnd f.b).need en].forM consumeV = .ok () := by
    refine forM_ok (List.forall_mem_cons.2 ⟨?_, List.forall_mem_singleton.2 ?_⟩)
    · exact consumeV_ok (fun i hi => (hgood i hi).1)
    · exact consumeV_ok (fun i hi => (hgood i hi).2)
  have hrs : en.map (fun i => if isF (s.opnd f.a).tag = true then
      ((i, (ff ((fmtOf (s.opnd f.a).tag).value ((s.opnd f.a).el i)) ((fmtOf (s.opnd f.a).tag).value ((s.opnd f.b).el i))).1),
        (ff ((fmtOf (s.opnd f.a).tag).value ((s.opnd f.a).el i)) ((fmtOf (s.opnd f.a).tag).value ((s.opnd f.b).el i))).2)
      else ((i, fi (intOf (s.opnd f.a).w f.sa ((s.opnd f.a).el i)) (intOf (s.opnd f.b).w f.sb ((s.opnd f.b).el i))), false)) =
      en.map (fun i => ((i, (r i).1), (r i).2)) := by
    refine List.map_congr_left (fun i _ => ?_)
    simp only [r, compareOf]
    split <;> rfl
  simp only [hcls, hdef, hen, hports, hconsume, hrs, bind, Except.bind, pure, Except.pure, if_false, List.map_map,
    List.any_map]
  rfl

section
variable {s u : State} (h : s.Masked u s.heldMask) {d e : Nat} (hd : d < 16) (he : e < 16) (mode : Nat) (en : List Nat) (c : Nat → Bool)

include h hd he

/-- A pair of masks once the instruction has retired. -/
theorem State.Masked.pairWrote_retired :
    let t := (u.setMaskPair d e mode (en.map (fun i => (i, c i)))).retire s.fk s.fc 1
    s.PairWrote t d e mode en c ∧ (t.core s.fk s.fc).status = s.fcore.status := by
  intro t
  obtain ⟨m, hmasked⟩ := h.setMaskPair hd he mode en c
  refine ⟨(h.pairWrote hd he mode en c).retire 1, ?_⟩
  rw [(Core.KeepsFile.retire _ _ _ _).status, ← hmasked.status, State.fcore_eq_core hmasked.focus]

/-- A pair of masks and flags once the instruction has retired. -/
theorem State.Masked.pairWrote_flagged (fl : Flags) :
    let t := ((u.setMaskPair d e mode (en.map (fun i => (i, c i)))).vflag fl).retire s.fk s.fc 1
    s.PairWrote t d e mode en c ∧ (t.core s.fk s.fc).status = orFlags s.fcore.status fl := by
  intro t
  obtain ⟨m, hmasked⟩ := h.setMaskPair hd he mode en c
  have ht : t = ((u.setMaskPair d e mode (en.map (fun i => (i, c i)))).setCore s.fk s.fc _).retire s.fk s.fc 1 :=
    congrArg (fun v : State => v.retire s.fk s.fc 1) (State.vflag_eq hmasked.focus fl)
  rw [ht]
  constructor
  · exact State.PairWrote.retire (State.PairWrote.setCore (h.pairWrote hd he mode en c) (r := Core.flag _ fl) rfl rfl) 1
  · rw [(Core.KeepsFile.retire _ _ _ _).status, State.core_setCore_same, ← hmasked.status, State.fcore_eq_core hmasked.focus]
    rfl

end

/-- Each row of the table of compares is the shared compare with the row's class and outcomes. -/
theorem exec_of_mem_vecCompares {p : CRow} (hp : p ∈ vecCompares) (f : FmtV) (s : State) : exec (p.ins f) s = vcompare f s p.cls p.ff p.fi := by
  simp only [vecCompares, List.mem_cons, List.not_mem_nil, or_false] at hp
  rcases hp with rfl | rfl | rfl | rfl | rfl | rfl | rfl <;> rfl

/-- INV of a compare is of floating elements alone. -/
theorem compareOf_inv (f : FmtV) (a b : Opnd) (ff : Fp → Fp → Bool × Bool) (fi : Int → Int → Bool) (en : List Nat) :
    en.any (fun i => (compareOf f a b ff fi i).2) =
      (isF a.tag && en.any (fun i => (ff ((fmtOf a.tag).value (a.el i)) ((fmtOf a.tag).value (b.el i))).2)) := by
  unfold compareOf
  cases isF a.tag
  · simp
  · rfl

theorem compareOf_outcome (f : FmtV) (a b : Opnd) (ff : Fp → Fp → Bool × Bool) (fi : Int → Int → Bool) (i : Nat) :
    (compareOf f a b ff fi i).1 = if isF a.tag then (ff ((fmtOf a.tag).value (a.el i)) ((fmtOf a.tag).value (b.el i))).1
      else fi (intOf a.w f.sa (a.el i)) (intOf b.w f.sb (b.el i)) := by
  unfold compareOf
  split <;> rfl

/-! ## VCLASS and VSEL -/

/-- Is a value with its pattern in VCLASS's set (07 R142)? -/
def classOf (f : FmtV) (a : Opnd) (i : Nat) : Bool :=
  bitOf f.sub.toNat (classBit (fmtOf a.tag) ((fmtOf a.tag).value (a.el i))) && (!bitOf f.sub.toNat 5 || bitOf (a.el i) (a.w - 1))

theorem execVclass_eq {f : FmtV} {s : State} {en : List Nat} (hstage : s.fcore.stageOn = true) (hcls : isFloat (s.opnd f.a).tag = true)
    (hdef : s.enabled f.g (s.opnd f.a).tag (elemCount (s.opnd f.a).tag) = en) (hen : en ≠ [])
    (hports : s.checkPorts [(s.opnd f.a).need en] = .ok ()) (hgood : ∀ i ∈ en, (s.opnd f.a).elBad i = false) :
    execVclass f s = .next (((s.popPorts [(s.opnd f.a).need en]).setMaskPair (f.d.toNat % 16) (f.c.toNat % 16) (f.b.toNat % 4)
      (en.map (fun i => (i, classOf f (s.opnd f.a) i)))).retire s.fk s.fc 1) := by
  refine vector_ok hstage ?_
  simp only [ofClass_ok hcls, hdef, hen, hports, consumeV_ok hgood, bind, Except.bind, pure, Except.pure, if_false]
  rfl

theorem classOf_eq (f : FmtV) (a : Opnd) (i : Nat) :
    classOf f a i = ((match (fmtOf a.tag).value (a.el i) with
      | .nan _ => f.sub.toNat.testBit 0
      | .inf _ => f.sub.toNat.testBit 1
      | .fin x _ => if x = 0 then f.sub.toNat.testBit 4 else if |x| < pow2 (fmtOf a.tag).emin then f.sub.toNat.testBit 3
        else f.sub.toNat.testBit 2) && (!f.sub.toNat.testBit 5 || (a.el i).testBit (a.w - 1))) := by
  simp only [classOf, bitOf_eq_testBit, classBit]
  cases (fmtOf a.tag).value (a.el i) with
  | fin x n =>
    dsimp only
    split
    · rfl
    · split <;> rfl
  | inf n => rfl
  | nan sg => rfl

theorem execVsel_eq {f : FmtV} {s : State} {en : List Nat} (hstage : s.fcore.stageOn = true)
    (hcls : sameTags tagPlain [s.opnd f.a, s.opnd f.b] = .ok ())
    (hdef : s.enabled f.g (s.opnd f.a).tag (elemCount (s.opnd f.a).tag) = en) (hen : en ≠ [])
    (hports : s.checkPorts [(s.opnd f.a).need en, (s.opnd f.b).need en] = .ok ()) :
    let a := s.opnd f.a
    let b := s.opnd f.b
    let pick := fun i => (s.kmask (f.c.toNat % 16)).getLsbD (if elemCount a.tag = 2048 then i / 2 else i)
    execVsel f s = .next (((s.popPorts [a.need en, b.need en]).vput f.d a.tag (en.map (fun i =>
      (i, if pick i then (a.el i, a.elBad i) else (b.el i, b.elBad i)))) .zero).retire s.fk s.fc 1) := by
  intro a b pick
  refine vector_ok hstage ?_
  have hws : en.map (fun i => (i, (if pick i = true then a else b).el i, (if pick i = true then a else b).elBad i)) =
      en.map (fun i => (i, if pick i then (a.el i, a.elBad i) else (b.el i, b.elBad i))) := by
    refine List.map_congr_left (fun i _ => ?_)
    split <;> rfl
  rw [← hws]
  simp only [hcls, hdef, hen, hports, bind, Except.bind, pure, Except.pure, if_false]
  rfl

/-- Settles O28: compares and VCLASS by the write of a pair of masks, VSEL by the write of a register. -/
theorem vectorCompares : Obligations.VectorCompares := by
  refine ⟨?compare, ?classes, ?select⟩
  case compare =>
    intro p hp f s hstage a b en hcls hen hports hgood fm c
    have hrun := (exec_of_mem_vecCompares hp f s).trans (vcompare_eq p.ff p.fi hstage hcls rfl hen hports hgood)
    obtain ⟨hpair, hstatus⟩ := (State.Masked.popPorts s [a.need en, b.need en]).pairWrote_flagged (Nat.mod_lt f.d.toNat (by decide))
      (Nat.mod_lt f.c.toNat (by decide)) (f.sub.toNat % 4) en (fun i => (compareOf f a b p.ff p.fi i).1)
      { inv := en.any (fun i => (compareOf f a b p.ff p.fi i).2) }
    have hc : (fun i => (compareOf f a b p.ff p.fi i).1) = c := funext (compareOf_outcome f a b p.ff p.fi)
    rw [hc] at hpair
    exact ⟨_, hrun, hc ▸ hpair, hstatus.trans (by rw [compareOf_inv])⟩
  case classes =>
    intro f s hstage a en v set hcls hen hports hgood inSet c
    obtain ⟨hpair, hstatus⟩ := (State.Masked.popPorts s [a.need en]).pairWrote_retired (Nat.mod_lt f.d.toNat (by decide))
      (Nat.mod_lt f.c.toNat (by decide)) (f.b.toNat % 4) en (classOf f a)
    have hc : classOf f a = c := by
      funext i
      refine (classOf_eq f a i).trans ?_
      cases hv : (fmtOf a.tag).value (a.el i) <;> simp only [c, inSet, v, set, hv]
    exact ⟨_, execVclass_eq hstage hcls rfl hen hports hgood, hc ▸ hpair, hstatus⟩
  case select =>
    intro f s hstage hd hmem a b n en pick hcls hen hports
    exact ⟨_, execVsel_eq hstage hcls rfl hen hports, State.vWrote_retired (State.KeepsRegs.popPorts s _) hd hmem
      (lt_of_tagPlain (cls_of_sameTags hcls)) hen (fun i hi => State.lt_of_mem_enabled hi) _ .zero⟩

end Sys2Proof.Machine
end

section
/-! The mask instructions (07 R143). -/

namespace Sys2Proof.Machine

variable {f : FmtV} {s : State}

/-- The first set bit of a rising list, as a test of one of its members. -/
theorem first_eq {en : List Nat} (hen : en.Pairwise (· < ·)) (p : Nat → Bool) {i : Nat} (hi : i ∈ en) :
    (some i == en.find? p) = (p i && en.all (fun j => !(decide (j < i) && p j))) := by
  induction en with
  | nil => exact nomatch hi
  | cons j en ih =>
    obtain ⟨hhead, htail⟩ := List.pairwise_cons.1 hen
    rcases List.mem_cons.1 hi with rfl | hi
    · have hrest : en.all (fun j => !(decide (j < i) && p j)) = true := by
        refine List.all_eq_true.2 (fun j hj => ?_)
        simp [Nat.le_of_lt (hhead j hj)]
      rw [List.all_cons, hrest, List.find?_cons]
      cases hp : p i
      · have hnone : en.find? p ≠ some i := fun h => ne_true_of_eq_false hp (List.find?_some h)
        simp [Ne.symm hnone]
      · simp
    · have hlt := hhead i hi
      rw [List.find?_cons, List.all_cons]
      cases hp : p j
      · simp [ih htail hi]
      · simp [hlt, Nat.ne_of_gt hlt]

/-- Bits written to a mask from another state of the same masks, and the instruction retired. -/
theorem State.Masked.setBits_retired {u : State} (h : s.Masked u s.heldMask) {j : Nat} (hj : j < 16) (en : List Nat) (b : Nat → Bool) :
    s.KWrote ((u.setMask j (maskWith (u.kmask j) (en.map (fun i => (i, b i))))).retire s.fk s.fc 1) j
      (fun i => if i ∈ en then some (b i) else none) := by
  rw [h.kmask hj]
  exact (h.setBits hj en b).retire 1

theorem map_ne_nil {α β : Type} {l : List α} (h : l ≠ []) (g : α → β) : l.map g ≠ [] := fun hnil => h (List.map_eq_nil_iff.1 hnil)

theorem execKlut_eq (hstage : s.fcore.stageOn = true) (hen : s.enabledBits f.g 1024 ≠ []) :
    execKlut f s = .next ((s.setMask (f.d.toNat % 16) (maskWith (s.kmask (f.d.toNat % 16)) ((s.enabledBits f.g 1024).map (fun i =>
      (i, ttAt (BitVec.ofNat 8 (ttOf f)) ((s.kmask (f.a.toNat % 16)).getLsbD i) ((s.kmask (f.b.toNat % 16)).getLsbD i)
        ((s.kmask (f.c.toNat % 16)).getLsbD i)))))).retire s.fk s.fc 1) :=
  vector_ok hstage (congrArg Except.ok (if_neg (map_ne_nil hen _)))

theorem execKsetp_eq {x : Word} (hstage : s.fcore.stageOn = true) (hx : s.fcore.Holds (f.a.truncate 5) x false)
    (hen : s.enabledBits f.g 1024 ≠ []) :
    execKsetp f s = .next ((s.setMask (f.d.toNat % 16) (maskWith (s.kmask (f.d.toNat % 16)) ((s.enabledBits f.g 1024).map (fun i =>
      (i, decide (i < x.toNat)))))).retire s.fk s.fc 1) := by
  refine vector_ok hstage ?_
  simp only [vx_of_holds hx, if_neg (map_ne_nil hen _), useVx, bind, Except.bind, pure, Except.pure, Bool.false_eq_true, if_false]

theorem execKfirst_eq (hstage : s.fcore.stageOn = true) (hen : s.enabledBits f.g 1024 ≠ []) :
    execKfirst f s = .next ((s.setMask (f.d.toNat % 16) (maskWith (s.kmask (f.d.toNat % 16)) ((s.enabledBits f.g 1024).map (fun i =>
      (i, some i == (s.enabledBits f.g 1024).find? (fun i => (s.kmask (f.a.toNat % 16)).getLsbD i)))))).retire s.fk s.fc 1) :=
  vector_ok hstage (congrArg Except.ok (if_neg hen))

theorem execVpchk_eq (hstage : s.fcore.stageOn = true) (hclass : isAny (s.opnd f.a).tag = true) (htag : (s.opnd f.a).tag ≠ 0) :
    let a := s.opnd f.a
    let en := s.enabledBits f.g (min (elemCount a.tag) 1024)
    let lane := fun i => if elemCount a.tag = 2048 then 2 * i else i
    en ≠ [] → s.checkPorts [a.need (en.map lane)] = .ok () →
    let u := s.popPorts [a.need (en.map lane)]
    execVpchk f s = .next ((u.setMask (f.d.toNat % 16) (maskWith (u.kmask (f.d.toNat % 16)) (en.map (fun i =>
      (i, a.elBad (lane i)))))).retire s.fk s.fc 1) := by
  intro a en lane hen hports u
  refine vector_ok hstage ?_
  have hok : ofClass (fun t => isAny t && t != 0) (s.opnd f.a) = .ok () := ofClass_ok (by simp [hclass, htag])
  simp only [a, en, lane] at hen hports
  simp only [hok, hen, hports, bind, Except.bind, pure, Except.pure, if_false]
  rfl

theorem execKpopc_eq (hstage : s.fcore.stageOn = true) (hd : (f.d.truncate 5 : BitVec 5) ≠ 0) (hready : s.fcore.Ready (f.d.truncate 5)) :
    execKpopc f s = .next ((s.putCore (s.fcore.awaits (s.fcore.px (f.d.truncate 5 : BitVec 5).toNat)
      (wNat ((s.enabledBits f.g 1024).countP (fun i => (s.kmask (f.a.toNat % 16)).getLsbD i))) false)).retire s.fk s.fc 1) := by
  refine vector_ok hstage ?_
  simp only [Core.lateX_of_ready hd hready, List.countP_eq_length_filter, bind, Except.bind, pure, Except.pure]

/-- Settles O29: each mask instruction by its run and the write of a mask, KPOPC by its result on the way. -/
theorem vectorMasks : Obligations.VectorMasks := by
  have hlt (x : BitVec 6) : x.toNat % 16 < 16 := Nat.mod_lt _ (by decide)
  refine ⟨?lut, ?set, ?first, ?check, ?count⟩
  case lut =>
    intro f s hstage en m tt hen
    exact ⟨_, execKlut_eq hstage hen, (State.Masked.refl s).setBits_retired (hlt f.d) en _⟩
  case set =>
    intro f s x hstage _ hx en hen
    exact ⟨_, execKsetp_eq hstage hx hen, (State.Masked.refl s).setBits_retired (hlt f.d) en _⟩
  case first =>
    intro f s hstage en m hen
    have hwrote := (State.Masked.refl s).setBits_retired (hlt f.d) en (fun i => some i == en.find? (fun i => m.getLsbD i))
    have hval : (fun i => if i ∈ en then some (m.getLsbD i && en.all (fun j => !(decide (j < i) && m.getLsbD j))) else none) =
        fun i => if i ∈ en then some (some i == en.find? (fun i => m.getLsbD i)) else none := by
      funext i
      split
      · next hi => exact congrArg some (first_eq (s.enabled_rising _ _ _) _ hi).symm
      · rfl
    exact ⟨_, execKfirst_eq hstage hen, hval ▸ hwrote⟩
  case check =>
    intro f s hstage a n en lane hclass htag hen hports
    exact ⟨_, execVpchk_eq hstage hclass htag hen hports, (State.Masked.popPorts s _).setBits_retired (hlt f.d) en _⟩
  case count =>
    intro f s hstage hd h0 hready
    have hnat : (f.d.truncate 5 : BitVec 5).toNat = f.d.toNat := by
      rw [BitVec.truncate_eq_setWidth, BitVec.toNat_setWidth, Nat.mod_eq_of_lt hd]
    have hne : (f.d.truncate 5 : BitVec 5) ≠ 0 := by
      intro hzero
      rw [hzero] at hnat
      exact h0 (BitVec.eq_of_toNat_eq hnat.symm)
    obtain ⟨hresults, hfill⟩ := (State.KeepsRegs.refl s).core_of_awaits s.fcore (s.fcore.px_lt (f.d.truncate 5))
      (wNat ((s.enabledBits f.g 1024).countP (fun i => (s.kmask (f.a.toNat % 16)).getLsbD i))) false
    have hpx : s.fcore.px f.d.toNat = s.fcore.px (f.d.truncate 5 : BitVec 5).toNat := by rw [hnat]
    rw [hpx]
    exact ⟨_, execKpopc_eq hstage hne hready, rfl, (State.unit_retire ..).trans (State.unit_setCore ..), hresults, hfill⟩

end Sys2Proof.Machine
end

section
/-! Conversions between tags (07 R144, R145), and the GS and sidecar of a written register (06 R117). -/

namespace Sys2Proof.Machine

/-! ## The GS and sidecar of a written register -/

/-- The unit once register v carries a tag, with GS and sidecar zero or set. -/
def VUnit.written (u : VUnit) (tag v : Nat) : Side → VUnit
  | .zero => { u with tags := vset u.tags v (BitVec.ofNat 5 tag), gs := vset u.gs v 0, side := u.side.clear (256 * v) 256 }
  | .set gs es =>
    { u with
      tags := vset u.tags v (BitVec.ofNat 5 tag)
      gs := vset u.gs v (BitVec.ofNat 2 gs)
      side := sideClean tag gs v (es.foldl (fun m e => m.write (256 * v + e.1 * entrySize tag) e.2) u.side) }

theorem State.vput_unit (s : State) (d : BitVec 6) (tag : Nat) {ws : List (Nat × Nat × Bool)} (hws : ws ≠ []) (side : Side) :
    (s.vput d tag ws side).unit = s.unit.written tag (s.fcore.vp d.toNat) side := by
  simp only [State.vput, if_neg hws, State.putCore, State.unit_setCore, State.unit_setUnit]
  cases side <;> rfl

/-- The GS that a write of a side leaves. -/
def Side.gs : Side → Nat
  | .zero => 0
  | .set gs _ => gs

theorem VUnit.written_gs (u : VUnit) (tag : Nat) {v : Nat} (hv : v < 48) {side : Side} (hgs : side.gs < 4) :
    (vget (u.written tag v side).gs v 0).toNat = side.gs := by
  cases side with
  | zero => exact congrArg BitVec.toNat ((vget_vset _ _ _ _ _).trans (if_pos ⟨rfl, hv⟩))
  | set gs es =>
    refine (congrArg BitVec.toNat ((vget_vset _ _ _ _ _).trans (if_pos ⟨rfl, hv⟩))).trans ?_
    exact (BitVec.toNat_ofNat ..).trans (Nat.mod_eq_of_lt hgs)

/-- A write of a register with flags, once the instruction has retired. -/
theorem State.KeepsRegs.flagged {s u : State} {d : BitVec 6} {tag : Nat} {en : List Nat} (hkeep : s.KeepsRegs u) (hd : d.toNat < 48)
    (hmem : s.mem.wf = true) (htag : tag < 32) (hen : en ≠ []) (hin : ∀ i ∈ en, i < elemCount tag) (g : Nat → Nat × Bool) (side : Side)
    (fl : Flags) :
    let t := ((u.vput d tag (en.map (fun i => (i, g i))) side).vflag fl).retire s.fk s.fc 1
    s.VWrote t d tag (Machine.lanes en g) ∧ (t.core s.fk s.fc).status = orFlags s.fcore.status fl ∧
      t.unit = u.unit.written tag (s.fcore.vp d.toNat) side := by
  intro t
  have hws : en.map (fun i => (i, g i)) ≠ [] := map_ne_nil hen _
  have hfocus : (u.vput d tag (en.map (fun i => (i, g i))) side).focus = s.focus := (u.vput_focus d tag _ _).trans hkeep.focus
  refine ⟨(((vWrote_vput hd (hkeep.mem ▸ hmem) htag hen hin g side).of_keepsRegs hkeep).vflag fl).retire 1, ?_, ?_⟩
  · have hput : (u.vput d tag (en.map (fun i => (i, g i))) side).fcore.status = s.fcore.status := by
      rw [State.fcore_eq_core (State.vput_focus u d tag _ _), core_vput u d tag hws, hkeep.fcore]
    have hfocus' : ((u.vput d tag (en.map (fun i => (i, g i))) side).vflag fl).focus = s.focus := hfocus
    rw [(Core.KeepsFile.retire _ _ _ _).status, ← State.fcore_eq_core hfocus', State.vflag, State.fcore_putCore, Core.flag, hput]
  · rw [State.unit_retire, State.vflag, State.putCore, State.unit_setCore, State.vput_unit u d tag hws, hkeep.fcore]

/-! ## Whole units in order -/

theorem fullUnits_rising (tag gs : Nat) (en : List Nat) : (fullUnits tag gs en).Pairwise (· < ·) :=
  List.pairwise_map.2 ((unitCounts_rises _ en).filter _)

theorem unitElems_rising (tag gs : Nat) {us : List Nat} (h : us.Pairwise (· < ·)) : (unitElems tag gs us).Pairwise (· < ·) := by
  have hpos := unitSize_pos tag gs
  refine List.pairwise_flatMap.2 ⟨fun u _ => ?_, h.imp (fun {u w} huw x hx y hy => ?_)⟩
  · exact List.pairwise_map.2 (List.pairwise_lt_range.imp (fun {a b} h => Nat.add_lt_add_left h _))
  · obtain ⟨i, hi, rfl⟩ := List.mem_map.1 hx
    obtain ⟨j, hj, rfl⟩ := List.mem_map.1 hy
    have hmul : (u + 1) * unitSize tag gs ≤ w * unitSize tag gs := Nat.mul_le_mul_right _ huw
    have hi := List.mem_range.1 hi
    rw [Nat.add_mul, Nat.one_mul] at hmul
    omega

theorem whole_rising (tag gs : Nat) {en : List Nat} (h : en.Pairwise (· < ·)) : (whole tag gs en).Pairwise (· < ·) := by
  unfold whole
  split
  · exact unitElems_rising tag gs (fullUnits_rising tag gs en)
  · exact h

/-! ## The shared conversion -/

section
variable {f : FmtV} {s : State} {a : Opnd} {tag gs : Nat} {extra : List Opnd} {en : List Nat} {side : List Nat → Side} {bad : Nat → Nat → Bool}
  (cv : Rm → Nat → Nat → Nat × Flags)

/-- The source of element i, where its part governs it and the source has such an element. -/
def partSource (f : FmtV) (a : Opnd) (tag i : Nat) : Option Nat := (partSrc (elemCount a.tag) (elemCount tag) (f.c.toNat % 8) i).getD none

/-- The elements that a conversion's part governs. -/
def partAsked (f : FmtV) (a : Opnd) (tag : Nat) (en : List Nat) : List Nat :=
  en.filter (fun i => (partSrc (elemCount a.tag) (elemCount tag) (f.c.toNat % 8) i).isSome)

/-- A conversion pops its ports and writes to each element of its part, of blocks and groups only whole ones, its source converted in the
element's mode (07 R144). -/
theorem convert_eq (hrising : en.Pairwise (· < ·)) (hen : whole tag gs (partAsked f a tag en) ≠ [])
    (hports : s.checkPorts (a.need ((partAsked f a tag en).filterMap (partSource f a tag)) ::
      extra.map (fun o => o.need (partAsked f a tag en))) = .ok ()) :
    let el := whole tag gs (partAsked f a tag en)
    let m := s.modeFor f.rm true (· % 256) el
    let r := fun i => (partSource f a tag i).elim (0, {}) (cv (m i) i)
    ∃ u, s.KeepsRegs u ∧ convert f s a tag extra cv gs en side bad =
      .ok ((u.vput f.d tag (el.map (fun i => (i, (r i).1, (partSource f a tag i).elim false (bad i)))) 
        (side (if isX tag then fullUnits tag gs (partAsked f a tag en) else []))).vflag (orAll (el.map (fun i => (r i).2)))) := by
  intro el m r
  have hasked : partAsked f a tag en ≠ [] := ne_nil_of_whole hen
  have hel : (if isX tag = true then unitElems tag gs (if isX tag = true then fullUnits tag gs (partAsked f a tag en) else [])
      else partAsked f a tag en) = el := by
    simp only [el, whole]
    split <;> rfl
  have hrises : el.Pairwise (· < ·) := whole_rising tag gs (hrising.filter _)
  have hrounded (fn : Rm → Nat → Nat × Flags) := rounding_modeFor s f.rm (· % 256) hrises fn
  unfold partAsked at hasked hports hel
  unfold partSource at hports
  apply Exists.intro
  apply And.intro
  case right =>
    simp only [convert, hasked, hports, hel, hrounded, List.map_map, bind, Except.bind, pure, Except.pure, if_false]
    refine congrArg Except.ok (congrArg₂ State.vflag (congrFun (congrArg (State.vput _ f.d tag) (List.map_congr_left fun i _ => ?_)) _)
      (congrArg orAll (List.map_congr_left fun i _ => ?_)))
    · simp only [Function.comp, r, m, partSource]
      cases (partSrc (elemCount a.tag) (elemCount tag) (f.c.toNat % 8) i).getD none <;> rfl
    · simp only [Function.comp, r, m, partSource]
      cases (partSrc (elemCount a.tag) (elemCount tag) (f.c.toNat % 8) i).getD none <;> rfl
  case left => exact (State.KeepsRegs.popPorts s _).trans (State.KeepsRegs.setUnit _ _)

/-- The source of an element by the two sizes (07 R144). -/
theorem partSource_eq (f : FmtV) (a : Opnd) (tag i : Nat) :
    partSource f a tag i = if elemCount a.tag ≤ elemCount tag then
        (if f.c.toNat % 8 * elemCount a.tag ≤ i ∧ i < f.c.toNat % 8 * elemCount a.tag + elemCount a.tag then
          some (i - f.c.toNat % 8 * elemCount a.tag) else none)
      else (if i + f.c.toNat % 8 * elemCount tag < elemCount a.tag then some (i + f.c.toNat % 8 * elemCount tag) else none) := by
  unfold partSource partSrc
  split
  · split <;> rfl
  · rfl

theorem partAsked_eq (f : FmtV) (a : Opnd) (tag : Nat) (en : List Nat) :
    partAsked f a tag en = en.filter (fun i => decide (elemCount tag < elemCount a.tag) || (partSource f a tag i).isSome) := by
  refine List.filter_congr (fun i _ => ?_)
  unfold partSource partSrc
  by_cases h : elemCount a.tag ≤ elemCount tag
  · simp only [if_pos h, decide_eq_false (Nat.not_lt.2 h), Bool.false_or]
    split <;> rfl
  · simp [h, Nat.lt_of_not_le h]

/-- An instruction that runs the shared conversion converts as the statement says. -/
theorem converts_of {ins : Instr} (hd : f.d.toNat < 48) (hmem : s.mem.wf = true) (htag : tag < 32)
    (hgs : ∀ us, (side us).gs = gs) (hlt : gs < 4)
    (hexec : partOk (elemCount a.tag) (elemCount tag) (f.c.toNat % 8) = true →
      exec ins s = .next (s.finish 1 (convert f s a tag extra cv gs (s.enabled f.g tag (elemCount tag)) side bad))) :
    Converts s f ins a extra tag gs cv bad := by
  unfold Converts
  intro p na nd src asked en m hpart hen hports
  have hsrc : src = partSource f a tag := funext (fun i => (partSource_eq f a tag i).symm)
  have hasked : asked = partAsked f a tag (s.enabled f.g tag (elemCount tag)) := by
    rw [partAsked_eq, ← hsrc]
  have hdef : en = whole tag gs (partAsked f a tag (s.enabled f.g tag (elemCount tag))) := congrArg (whole tag gs) hasked
  clear_value src asked en
  subst hsrc hasked hdef
  have hrun := hexec (decide_eq_true hpart)
  obtain ⟨u, hkeep, hconvert⟩ := convert_eq cv (side := side) (bad := bad) (s.enabled_rising f.g tag (elemCount tag)) hen hports
  have hin : ∀ i ∈ whole tag gs (partAsked f a tag (s.enabled f.g tag (elemCount tag))), i < elemCount tag := fun i hi =>
    State.lt_of_mem_enabled (List.mem_filter.1 (mem_of_mem_whole ((s.enabled_nodup f.g tag (elemCount tag)).filter _) hi)).1
  obtain ⟨hwrote, hstatus, hunit⟩ := hkeep.flagged hd hmem htag hen hin _ _ _
  refine ⟨_, hrun.trans (congrArg (fun r => Host.Outcome.next (s.finish 1 r)) hconvert), ?_, ?_, ?_⟩
  · refine (congrArg (s.VWrote _ f.d tag) (congrArg (lanes _) (funext fun i => ?_))).mp hwrote
    dsimp only
    cases partSource f a tag i <;> rfl
  · refine (congrArg (fun u : VUnit => (vget u.gs (s.fcore.vp f.d.toNat) 0).toNat) hunit).trans ?_
    rw [VUnit.written_gs _ _ (s.fcore.vp_lt hd) (by rwa [hgs]), hgs]
  · refine hstatus.trans (congrArg (fun l => orFlags s.fcore.status (orAll l)) (List.map_congr_left fun i _ => ?_))
    dsimp only
    cases partSource f a tag i <;> rfl

end

/-! ## VCVT, VQUANT, VDEQUANT, VMXUNPK -/

theorem lt_of_isF {tag : Nat} (h : isF tag = true) : tag < 32 := lt_of_clsFI (clsFI_of_isF tag h)

theorem lt_of_isQ {tag : Nat} (h : isQ tag = true) : tag < 32 := by
  simp only [isQ, Bool.or_eq_true, beq_iff_eq] at h
  omega

section
variable {f : FmtV} {s : State} (hstage : s.fcore.stageOn = true) (hd : f.d.toNat < 48) (hmem : s.mem.wf = true)

include hstage hd hmem

theorem vcvt_converts (ha : tagPlain (s.opnd f.a).tag = true) (ht : tagPlain f.sub.toNat = true) :
    Converts s f (.vcvt f) (s.opnd f.a) [] f.sub.toNat 0
      (fun m _ j => toPlain m (s.opnd f.a).tag f.sub.toNat f.sb (plainValue (s.opnd f.a).tag f.sa ((s.opnd f.a).el j)))
      (fun _ j => (s.opnd f.a).elBad j) := by
  refine converts_of (side := fun _ => .zero) _ hd hmem (lt_of_tagPlain ht) (fun _ => rfl) (by decide) (fun hpart => ?_)
  show execVcvt f s = _
  simp only [execVcvt, vector, if_pos hstage, ofClass_ok ha, if_pos hpart, bind, Except.bind]

theorem vquant_converts (ha : isF (s.opnd f.a).tag = true) (hb : isQ (s.opnd f.b).tag = true) (hgs : (s.opnd f.b).gs < 3) :
    Converts s f (.vquant f) (s.opnd f.a) [s.opnd f.b] (s.opnd f.b).tag (s.opnd f.b).gs
      (fun m i j => quantise (s.opnd f.b).w f.sb m ((s.opnd f.b).group i).1 ((s.opnd f.b).group i).2
        ((fmtOf (s.opnd f.a).tag).value ((s.opnd f.a).el j)))
      (fun i j => (s.opnd f.a).elBad j || (s.opnd f.b).elBad i) := by
  refine converts_of (side := fun us => .set (s.opnd f.b).gs ((s.opnd f.b).entries (s.opnd f.b).tag us)) _ hd hmem (lt_of_isQ hb)
    (fun _ => rfl) (by omega) (fun hpart => ?_)
  show execVquant f s = _
  simp only [execVquant, vector, if_pos hstage, ofClass_ok ha, ofClass_ok hb, if_neg (Nat.ne_of_lt hgs), if_pos hpart, bind, Except.bind]

theorem vdequant_converts (ha : isQ (s.opnd f.a).tag = true) (hgs : (s.opnd f.a).gs < 3) (ht : isF f.sub.toNat = true) :
    Converts s f (.vdequant f) (s.opnd f.a) [] f.sub.toNat 0
      (fun m _ j =>
        let v := dequant ((s.opnd f.a).group j).1 (intOf (s.opnd f.a).w f.sa ((s.opnd f.a).el j)) ((s.opnd f.a).group j).2
        (((fmtOf f.sub.toNat).convert m v.1).1, v.2.or ((fmtOf f.sub.toNat).convert m v.1).2))
      (fun _ j => (s.opnd f.a).elBad j) := by
  refine converts_of (side := fun _ => .zero) _ hd hmem (lt_of_isF ht) (fun _ => rfl) (by decide) (fun hpart => ?_)
  show execVdequant f s = _
  simp only [execVdequant, vector, if_pos hstage, ofClass_ok ha, if_neg (Nat.ne_of_lt hgs), if_pos hpart, bind, Except.bind]

theorem vmxunpk_converts (ha : isBlock (s.opnd f.a).tag = true) (ht : isF f.sub.toNat = true) :
    Converts s f (.vmxunpk f) (s.opnd f.a) [] f.sub.toNat 0
      (fun m _ j => (fmtOf f.sub.toNat).convert m (mxValue (s.opnd f.a).tag ((s.opnd f.a).side (j / 32)) ((s.opnd f.a).el j)))
      (fun _ j => (s.opnd f.a).elBad j) := by
  refine converts_of (side := fun _ => .zero) _ hd hmem (lt_of_isF ht) (fun _ => rfl) (by decide) (fun hpart => ?_)
  show execVmxunpk f s = _
  simp only [execVmxunpk, vector, if_pos hstage, ofClass_ok ha, if_pos hpart, bind, Except.bind]

end

end Sys2Proof.Machine
end

section
/-! VMXPACK (06 R114; 07 R145), and the bytes of a written sidecar (06 R117). -/

namespace Sys2Proof.Machine

/-! ## Bytes of a sidecar -/

/-- Entries of one size written by unit: each byte of a written unit is its entry's, the others stay. -/
theorem byte_writes {m : Mem} (hm : m.wf = true) (base : Nat) {z : Nat} (us : List Nat) (bs : Nat → List Byte) (hlen : ∀ u, (bs u).length = z)
    {i : Nat} (hi : i < z) (u : Nat) :
    ((us.map (fun u => (u, bs u))).foldl (fun m e => m.write (base + e.1 * z) e.2) m).byte (base + (u * z + i)) =
      if u ∈ us then ((bs u)[i]?).getD 0 else m.byte (base + (u * z + i)) := by
  have hwf (us : List Nat) : ((us.map (fun u => (u, bs u))).foldl (fun m e => m.write (base + e.1 * z) e.2) m).wf = true := by
    induction us using List.reverseRecOn with
    | nil => exact hm
    | append_singleton us w ih =>
      rw [List.map_append, List.foldl_append]
      exact Mem.wf_write ih _ _
  induction us using List.reverseRecOn with
  | nil => rfl
  | append_singleton us w ih =>
    rw [List.map_append, List.foldl_append]
    refine (Mem.byte_write (Mem.wf_rising (hwf us)) _ _ _).trans ?_
    rw [ih]
    dsimp only
    rw [hlen]
    by_cases huw : u = w
    · subst huw
      rw [if_pos (by omega), if_pos (by simp), show base + (u * z + i) - (base + u * z) = i by omega]
    · have hout : ¬ (base + w * z ≤ base + (u * z + i) ∧ base + (u * z + i) < base + w * z + z) := by
        intro ⟨hle, hlt⟩
        have hw : (u * z + i) / z = w := (Nat.div_eq_iff (by omega)).2 (by omega)
        rw [Nat.mul_comm, Nat.mul_add_div (by omega), Nat.div_eq_of_lt hi] at hw
        exact huw hw
      rw [if_neg hout]
      simp [huw]

/-- Zeros written to the fourth byte of each of n groups. -/
theorem byte_fourths {m : Mem} (hm : m.wf = true) (base n b : Nat) :
    ((List.range n).foldl (fun m g => m.write (base + 4 * g + 3) [0]) m).byte (base + b) =
      if b % 4 = 3 ∧ b / 4 < n then 0 else m.byte (base + b) := by
  have hwf (n : Nat) : ((List.range n).foldl (fun m g => m.write (base + 4 * g + 3) [0]) m).wf = true := by
    induction n with
    | zero => exact hm
    | succ n ih =>
      rw [List.range_succ, List.foldl_append]
      exact Mem.wf_write ih _ _
  induction n with
  | zero => simp
  | succ n ih =>
    rw [List.range_succ, List.foldl_append]
    refine (Mem.byte_write (Mem.wf_rising (hwf n)) _ _ _).trans ?_
    rw [ih, List.length_singleton]
    by_cases hb : b = 4 * n + 3
    · subst hb
      rw [if_pos (by omega), if_pos (by omega), show base + (4 * n + 3) - (base + 4 * n + 3) = 0 by omega]
      rfl
    · rw [if_neg (by omega)]
      exact if_congr (by omega) rfl rfl

/-- Of the used bytes of a sidecar only the fourth byte of each group is cleared (06 R117). -/
theorem byte_sideClean {m : Mem} (hm : m.wf = true) {tag gs b : Nat} (v : Nat) (hb : b < elemCount tag / unitSize tag gs * entrySize tag) :
    (sideClean tag gs v m).byte (256 * v + b) = if isQ tag = true ∧ b % 4 = 3 then 0 else m.byte (256 * v + b) := by
  have hclear : (m.clear (256 * v + elemCount tag / unitSize tag gs * entrySize tag)
      (256 - elemCount tag / unitSize tag gs * entrySize tag)).byte (256 * v + b) = m.byte (256 * v + b) := by
    rw [Mem.byte_clear (Mem.wf_rising hm), if_neg (by omega)]
  unfold sideClean
  by_cases hq : isQ tag = true
  · have hfour : entrySize tag = 4 := by
      simp only [isQ, Bool.or_eq_true, beq_iff_eq] at hq
      rcases hq with rfl | rfl <;> rfl
    rw [if_pos hq, byte_fourths (Mem.wf_clear hm _ _), hclear]
    rw [hfour] at hb ⊢
    exact if_congr (by simp only [hq, true_and]; omega) rfl rfl
  · rw [if_neg hq, hclear, if_neg (fun h => hq h.1)]

/-- A byte of the entry of a unit, as a write of the register leaves it. -/
theorem VUnit.written_side {u : VUnit} (hwf : u.side.wf = true) {tag gs v : Nat} {us : List Nat} {bs : Nat → List Byte}
    (hlen : ∀ u, (bs u).length = entrySize tag) {w i : Nat} (hw : w ∈ us) (hi : i < entrySize tag)
    (hin : w < elemCount tag / unitSize tag gs) :
    (u.written tag v (.set gs (us.map (fun u => (u, bs u))))).side.byte (256 * v + (w * entrySize tag + i)) =
      if isQ tag = true ∧ i = 3 then 0 else ((bs w)[i]?).getD 0 := by
  have hbound : w * entrySize tag + i < elemCount tag / unitSize tag gs * entrySize tag := by
    have hmul := Nat.mul_le_mul_right (entrySize tag) hin
    rw [Nat.succ_mul] at hmul
    omega
  have hwritten (l : List Nat) : ((l.map (fun u => (u, bs u))).foldl (fun m e => m.write (256 * v + e.1 * entrySize tag) e.2)
      u.side).wf = true := by
    induction l using List.reverseRecOn with
    | nil => exact hwf
    | append_singleton l w ih =>
      rw [List.map_append, List.foldl_append]
      exact Mem.wf_write ih _ _
  refine (byte_sideClean (hwritten us) v hbound).trans ?_
  rw [byte_writes hwf _ us bs hlen hi, if_pos hw]
  refine if_congr (and_congr_right fun hq => ?_) rfl rfl
  have hfour : entrySize tag = 4 := by
    simp only [isQ, Bool.or_eq_true, beq_iff_eq] at hq
    rcases hq with rfl | rfl <;> rfl
  rw [hfour] at hi ⊢
  omega

/-! ## The run of VMXPACK -/

theorem isBlock_bounds {tag : Nat} (h : isBlock tag = true) :
    tag < 32 ∧ isX tag = true ∧ isQ tag = false ∧ entrySize tag = 1 ∧ (∀ gs, unitSize tag gs = 32) ∧ 1024 ≤ elemCount tag ∧
      elemCount tag % 32 = 0 := by
  refine ⟨?_, ?_, ?_, if_pos h, fun _ => if_pos h, ?_⟩
  all_goals simp only [isBlock, isX, isQ, Bool.and_eq_true, decide_eq_true_eq, Bool.or_eq_false_iff, beq_eq_false_iff_ne] at h ⊢
  · omega
  · omega
  · omega
  · obtain ⟨hle, hge⟩ := h
    interval_cases tag <;> decide

theorem elemCount_of_isF {tag : Nat} (h : isF tag = true) : elemCount tag ≤ 512 := by
  simp only [isF, Bool.and_eq_true, decide_eq_true_eq] at h
  obtain ⟨hle, hge⟩ := h
  interval_cases tag <;> decide

theorem find?_map_key {α : Type} (us : List Nat) (g : Nat → α) {u : Nat} (hu : u ∈ us) :
    (us.map (fun u => (u, g u))).find? (fun e => e.1 == u) = some (u, g u) := by
  induction us with
  | nil => exact nomatch hu
  | cons w us ih =>
    rw [List.map_cons, List.find?_cons]
    by_cases hw : w = u
    · subst hw
      rw [beq_self_eq_true]
    · rw [beq_eq_false_iff_ne.2 hw]
      exact ih ((List.mem_cons.1 hu).resolve_left (Ne.symm hw))

/-- A scale code is a byte. -/
theorem blockScale_lt (tag : Nat) (vs : List Fp) : (blockScale tag vs).2 < 256 := by
  unfold blockScale
  split
  · decide
  · dsimp only
    split
    · decide
    · have hle : max (-127) (min 127 (ilog2 (vs.foldl (fun m v => match v with | .fin x _ => max m |x| | _ => m) 0) - emaxOf tag)) ≤ 127 := by
        omega
      dsimp only
      omega

section
variable (f : FmtV) (s : State)

/-- The enabled elements of VMXPACK's part. -/
def packAsked : List Nat :=
  (s.enabled f.g f.sub.toNat (elemCount f.sub.toNat)).filter (fun i =>
    decide (f.c.toNat % 8 * elemCount (s.opnd f.a).tag ≤ i ∧ i < f.c.toNat % 8 * elemCount (s.opnd f.a).tag + elemCount (s.opnd f.a).tag))

/-- The value that a packed element takes. -/
def packValue (i : Nat) : Fp := (fmtOf (s.opnd f.a).tag).value ((s.opnd f.a).el (i - f.c.toNat % 8 * elemCount (s.opnd f.a).tag))

/-- X and the scale code of block u. -/
def packScale (u : Nat) : Option Int × Nat := blockScale f.sub.toNat ((List.range 32).map (fun j => packValue f s (32 * u + j)))

/-- The pattern and flags of a packed element under a mode (06 R114). -/
def packResult (m : Rm) (i : Nat) : Nat × Flags :=
  (packScale f s (i / 32)).1.elim (0, { inv := decide ((packScale f s (i / 32)).2 = 255) }) (fun x => packMx f.sub.toNat m x (packValue f s i))

/-- The poison of a packed element, of its whole block (06 R114). -/
def packBad (i : Nat) : Bool := (List.range 32).any (fun j => (s.opnd f.a).elBad (i / 32 * 32 + j - f.c.toNat % 8 * elemCount (s.opnd f.a).tag))

end

theorem State.popPorts_side (s : State) (l : List Need1) : (s.popPorts l).unit.side = s.unit.side := by
  obtain ⟨ports, h⟩ := s.popPorts_unit l
  rw [h]

/-- VMXPACK pops its port, writes the elements of whole blocks and each block's scale code (06 R114; 07 R145). -/
theorem execVmxpack_eq {f : FmtV} {s : State} (hstage : s.fcore.stageOn = true) (ha : isF (s.opnd f.a).tag = true)
    (ht : isBlock f.sub.toNat = true) (hpart : f.c.toNat % 8 * elemCount (s.opnd f.a).tag < elemCount f.sub.toNat)
    (hen : whole f.sub.toNat 0 (packAsked f s) ≠ [])
    (hports : s.checkPorts [(s.opnd f.a).need ((unitElems f.sub.toNat 0 ((packAsked f s).map (· / 32)).eraseDups).map (fun i =>
      i - f.c.toNat % 8 * elemCount (s.opnd f.a).tag))] = .ok ()) :
    let el := whole f.sub.toNat 0 (packAsked f s)
    let r := fun i => packResult f s (s.modeFor f.rm true (· % 256) el i) i
    ∃ u, s.KeepsRegs u ∧ u.unit.side = s.unit.side ∧ execVmxpack f s =
      .next (((u.vput f.d f.sub.toNat (el.map (fun i => (i, (r i).1, packBad f s i)))
        (.set 0 ((fullUnits f.sub.toNat 0 (packAsked f s)).map (fun u => (u, [BitVec.ofNat 8 (packScale f s u).2]))))).vflag
        (orAll (el.map (fun i => (r i).2)))).retire s.fk s.fc 1) := by
  intro el r
  obtain ⟨-, hx, -, -, hunit, hcount, -⟩ := isBlock_bounds ht
  have hle : elemCount (s.opnd f.a).tag ≤ elemCount f.sub.toNat := (elemCount_of_isF ha).trans (by omega)
  have hok : partOk (elemCount (s.opnd f.a).tag) (elemCount f.sub.toNat) (f.c.toNat % 8) = true :=
    decide_eq_true (by rwa [min_eq_left hle, max_eq_right hle])
  have hasked : (s.enabled f.g f.sub.toNat (elemCount f.sub.toNat)).filter (fun i =>
      (partSrc (elemCount (s.opnd f.a).tag) (elemCount f.sub.toNat) (f.c.toNat % 8) i).isSome) = packAsked f s := by
    refine List.filter_congr (fun i _ => ?_)
    rw [partSrc, if_pos hle]
    by_cases h : f.c.toNat % 8 * elemCount (s.opnd f.a).tag ≤ i ∧
        i < f.c.toNat % 8 * elemCount (s.opnd f.a).tag + elemCount (s.opnd f.a).tag
    · rw [if_pos h, decide_eq_true h]
      rfl
    · rw [if_neg h, decide_eq_false h]
      rfl
  have hne : packAsked f s ≠ [] := ne_nil_of_whole hen
  have hel : unitElems f.sub.toNat 0 (fullUnits f.sub.toNat 0 (packAsked f s)) = el := (if_pos hx).symm
  have hrises : el.Pairwise (· < ·) := whole_rising _ 0 ((s.enabled_rising _ _ _).filter _)
  have hrounded (fn : Rm → Nat → Nat × Flags) := rounding_modeFor s f.rm (· % 256) hrises fn
  have hfind (i : Nat) (hi : i ∈ el) : (((fullUnits f.sub.toNat 0 (packAsked f s)).map (fun u => (u, blockScale f.sub.toNat
      ((List.range 32).map (fun j => (fmtOf (s.opnd f.a).tag).value ((s.opnd f.a).el (32 * u + j - f.c.toNat % 8 *
        elemCount (s.opnd f.a).tag))))))).find? (fun e => e.1 == i / 32)) = some (i / 32, packScale f s (i / 32)) := by
    refine find?_map_key _ (packScale f s) ?_
    rw [← hel, mem_unitElems, hunit] at hi
    exact hi
  apply Exists.intro
  apply And.intro
  case right =>
    apply And.intro
    case right =>
      refine vector_ok hstage ?_
      simp only [ofClass_ok ha, hok, hasked, hne, hports, hel, hrounded, List.map_map, bind, Except.bind, pure, Except.pure, if_false,
        Bool.not_true, Bool.false_eq_true]
      refine congrArg Except.ok (congrArg₂ State.vflag (congr (congrArg (State.vput _ f.d f.sub.toNat) (List.map_congr_left fun i hi => ?_)) ?_)
        (congrArg orAll (List.map_congr_left fun i hi => ?_)))
      · simp only [Function.comp, hfind i hi, Option.map_some, Option.getD_some, r, packResult]
        obtain ⟨_ | x, c⟩ := packScale f s (i / 32)
        · rfl
        · rfl
      · rfl
      · simp only [Function.comp, hfind i hi, Option.map_some, Option.getD_some, r, packResult]
        obtain ⟨_ | x, c⟩ := packScale f s (i / 32)
        · rfl
        · rfl
    case left =>
      exact (congrArg VUnit.side (State.unit_setUnit _ _)).trans (s.popPorts_side _)
  case left => exact (State.KeepsRegs.popPorts s _).trans (State.KeepsRegs.setUnit _ _)

theorem packScale_eq (f : FmtV) (s : State) (i : Nat) :
    packScale f s (i / 32) = blockScale f.sub.toNat ((List.range 32).map (fun j => packValue f s (i / 32 * 32 + j))) := by
  rw [packScale, Nat.mul_comm]

/-- Settles O30: the four conversions through the shared one, VMXPACK by its own run and the bytes of its scale codes. -/
theorem vectorConversions : Obligations.VectorConversions := by
  refine ⟨?convert, ?pack⟩
  case convert =>
    intro f s hstage hd hmem _ a b tag
    exact ⟨vcvt_converts hstage hd hmem, vquant_converts hstage hd hmem, vdequant_converts hstage hd hmem, vmxunpk_converts hstage hd hmem⟩
  case pack =>
    intro f s hstage hd hmem hside a tag p na asked en val scale m r ha ht hpart hen hports
    obtain ⟨htag, hx, hq, hentry, hunit, -, hdvd⟩ := isBlock_bounds ht
    obtain ⟨u, hkeep, hsame, hrun⟩ := execVmxpack_eq hstage ha ht hpart hen hports
    have hin : ∀ i ∈ en, i < elemCount tag := fun i hi =>
      State.lt_of_mem_enabled (List.mem_filter.1 (mem_of_mem_whole ((s.enabled_nodup f.g tag (elemCount tag)).filter _) hi)).1
    obtain ⟨hwrote, hstatus, hwritten⟩ := hkeep.flagged hd hmem htag hen hin (fun i => ((packResult f s (m i) i).1, packBad f s i))
      (.set 0 ((fullUnits tag 0 asked).map (fun u => (u, [BitVec.ofNat 8 (packScale f s u).2]))))
      (orAll (en.map (fun i => (packResult f s (m i) i).2)))
    have hscale (i : Nat) : packScale f s (i / 32) = scale i := packScale_eq f s i
    have hr (i : Nat) : packResult f s (m i) i = r i := by
      rw [packResult, hscale]
      simp only [r]
      cases (scale i).1 <;> rfl
    refine ⟨_, hrun, ?_, fun i hi => ?_, ?_⟩
    · refine (congrArg (s.VWrote _ f.d tag) (congrArg (lanes _) (funext fun i => ?_))).mp hwrote
      rw [hr]
      rfl
    · have hmem : i / 32 ∈ fullUnits tag 0 asked := by
        have hi : i ∈ whole tag 0 asked := hi
        rw [whole, if_pos hx] at hi
        rwa [mem_unitElems, hunit] at hi
      have hlt : i / 32 < elemCount tag / unitSize tag 0 := by
        have hlt := hin i hi
        rw [hunit]
        omega
      have hbyte := VUnit.written_side (u := u.unit) (hsame ▸ hside) (tag := tag) (gs := 0) (v := s.fcore.vp f.d.toNat)
        (bs := fun u => [BitVec.ofNat 8 (packScale f s u).2]) (fun _ => hentry.symm) hmem (i := 0) (by rw [hentry]; decide) hlt
      rw [hentry, Nat.mul_one, Nat.add_zero, if_neg (by simp), ← hwritten] at hbyte
      refine (congrArg BitVec.toNat hbyte).trans ?_
      rw [hscale]
      exact (BitVec.toNat_ofNat ..).trans (Nat.mod_eq_of_lt (blockScale_lt _ _))
    · refine hstatus.trans (congrArg (fun l => orFlags s.fcore.status (orAll l)) (List.map_congr_left fun i _ => ?_))
      rw [hr]

end Sys2Proof.Machine
end

section
/-! VRED and VSCAN (07 R146). -/

namespace Sys2Proof.Machine

/-- Only the elements of the tag count. -/
theorem State.VWrote.congr {s t : State} {d : BitVec 6} {tag : Nat} {val val' : Nat → Option (Nat × Bool)} (h : s.VWrote t d tag val)
    (hval : ∀ i, i < elemCount tag → val i = val' i) : s.VWrote t d tag val' := by
  obtain ⟨hfocus, htag, hlive, helements, hpoison, hrest⟩ := h
  refine ⟨hfocus, htag, hlive, fun i hi => ?_, fun i e hi he => hpoison i e hi ((hval i hi).trans he), hrest⟩
  rw [helements i hi, hval i hi]

/-- The whole register: an element 0 and zeros. -/
def reduced (val : Nat) (bad : Bool) (i : Nat) : Nat × Bool := if i = 0 then (val, bad) else (0, false)

theorem reduced_ws (n val : Nat) (bad : Bool) :
    (List.range n).map (fun i => if i = 0 then (0, val, bad) else (i, 0, false)) = (List.range n).map (fun i => (i, reduced val bad i)) := by
  refine List.map_congr_left (fun i _ => ?_)
  unfold reduced
  split
  · next h => rw [h]
  · rfl

theorem elemCount_pos (tag : Nat) : 0 < elemCount tag := by
  unfold elemCount
  split <;> decide

theorem isI_bounds {tag : Nat} (h : isI tag = true) : tag < 32 ∧ isF tag = false ∧ clsFI tag = true := by
  simp only [isI, isF, clsFI, Bool.and_eq_true, decide_eq_true_eq, Bool.or_eq_true, Bool.and_eq_false_iff, decide_eq_false_iff_not] at h ⊢
  omega

theorem isI_of_isF {tag : Nat} (h : isF tag = true) : isI tag = false := by
  simp only [isI, isF, Bool.and_eq_true, decide_eq_true_eq, Bool.and_eq_false_iff, decide_eq_false_iff_not] at h ⊢
  omega

theorem State.popPorts_gens (s : State) (l : List Need1) : (s.popPorts l).unit.gens = s.unit.gens := by
  obtain ⟨ports, h⟩ := s.popPorts_unit l
  rw [h]

section
variable {f : FmtV} {s : State} {sat : Bool} {ff : Bool → List Fp → Fp × Flags} {ft it : Nat → Nat} {fi : Nat → List Nat → Nat}
  (hstage : s.fcore.stageOn = true) (hen : s.enabled f.g (s.opnd f.a).tag (elemCount (s.opnd f.a).tag) ≠ [])
  (hports : s.checkPorts [(s.opnd f.a).need (s.enabled f.g (s.opnd f.a).tag (elemCount (s.opnd f.a).tag))] = .ok ())

include hstage hen hports

/-- A reduction of integers. -/
theorem reduce_int (hI : isI (s.opnd f.a).tag = true) (hrm : f.rm = 0) :
    let a := s.opnd f.a
    let en := s.enabled f.g a.tag (elemCount a.tag)
    reduce f s sat ff ft fi it = .next (((s.popPorts [a.need en]).vput f.d (it a.tag) ((List.range (elemCount (it a.tag))).map (fun i =>
      (i, reduced (fi a.w (en.map a.el)) (en.any a.elBad) i))) .zero).retire s.fk s.fc 1) := by
  intro a en
  refine vector_ok hstage ?_
  obtain ⟨-, hF, hcls⟩ := isI_bounds hI
  simp only [ofClass_ok hcls, hrm, hen, hports, hF, reduced_ws, ne_eq, not_true_eq_false, and_false, bind, Except.bind, pure, Except.pure,
    if_false, Bool.false_eq_true]
  rfl

/-- A reduction of floating elements, rounded once with a draw of generator 0. -/
theorem reduce_float (hF : isF (s.opnd f.a).tag = true) :
    let a := s.opnd f.a
    let en := s.enabled f.g a.tag (elemCount a.tag)
    let m := s.modeFor f.rm true id [0] 0
    let v := ff (m == .rdn) (en.map (fun i => (fmtOf a.tag).value (a.el i)))
    let r := (fmtOf (ft a.tag)).result m sat v.1
    ∃ u, s.KeepsRegs u ∧ reduce f s sat ff ft fi it = .next (((u.vput f.d (ft a.tag) ((List.range (elemCount (ft a.tag))).map (fun i =>
      (i, reduced r.1 (en.any a.elBad) i))) .zero).vflag (v.2.or r.2)).retire s.fk s.fc 1) := by
  intro a en m v r
  have hrounded (fn : Rm → Nat → Nat × Flags) := rounding_modeFor s f.rm id (List.pairwise_singleton _ 0) fn
  have hI := isI_of_isF hF
  have hcore (l : List Need1) : (s.popPorts l).fcore = s.fcore := (State.KeepsRegs.popPorts s l).fcore
  apply Exists.intro
  apply And.intro
  case right =>
    refine vector_ok hstage ?_
    simp only [ofClass_ok (clsFI_of_isF _ hF), hen, hports, hF, hI, hcore, s.popPorts_gens, hrounded, reduced_ws, false_and, bind, Except.bind, pure, Except.pure,
      if_false, if_true, Bool.false_eq_true]
    rfl
  case left => exact (State.KeepsRegs.popPorts s _).trans (State.KeepsRegs.setUnit _ _)

end

/-! ## The largest and the smallest integer -/

/-- The pattern that a search for the largest or the smallest ends with is one of the list, and none beats it. -/
theorem extremeI_best (larger signed : Bool) (w : Nat) {ps : List Nat} (hps : ps ≠ []) :
    extremeI larger signed w ps ∈ ps ∧ ∀ q ∈ ps, if larger then intOf w signed q ≤ intOf w signed (extremeI larger signed w ps)
      else intOf w signed (extremeI larger signed w ps) ≤ intOf w signed q := by
  obtain ⟨p, rest, rfl⟩ := List.exists_cons_of_ne_nil hps
  clear hps
  induction rest using List.reverseRecOn with
  | nil =>
    refine ⟨List.mem_cons_self, fun q hq => ?_⟩
    obtain rfl := List.mem_singleton.1 hq
    split <;> exact le_refl _
  | append_singleton rest x ih =>
    obtain ⟨hmem, hbest⟩ := ih
    have hstep : extremeI larger signed w (p :: (rest ++ [x])) =
        if (if larger then intOf w signed (extremeI larger signed w (p :: rest)) < intOf w signed x
          else intOf w signed x < intOf w signed (extremeI larger signed w (p :: rest))) then x
        else extremeI larger signed w (p :: rest) := List.foldl_append ..
    rw [hstep, ← List.cons_append]
    generalize extremeI larger signed w (p :: rest) = m at hmem hbest ⊢
    constructor
    · by_cases hbeats : if larger = true then intOf w signed m < intOf w signed x else intOf w signed x < intOf w signed m
      · rw [if_pos hbeats]
        exact List.mem_append_right _ (List.mem_singleton_self x)
      · rw [if_neg hbeats]
        exact List.mem_append_left _ hmem
    · intro q hq
      cases larger <;> simp only [Bool.false_eq_true, if_false, if_true] at hbest ⊢
      · rcases List.mem_append.1 hq with hq | hq
        · have := hbest q hq
          split <;> omega
        · obtain rfl := List.mem_singleton.1 hq
          split <;> omega
      · rcases List.mem_append.1 hq with hq | hq
        · have := hbest q hq
          split <;> omega
        · obtain rfl := List.mem_singleton.1 hq
          split <;> omega

/-! ## VSCAN -/

/-- The prefixes of a rising list, each under its last element. -/
theorem prefixes_keyed (pre l : List Nat) (h : (pre ++ l).Pairwise (· < ·)) :
    (prefixes pre l).map (fun p => ((p.getLast?).getD 0, p)) = l.map (fun i => (i, (pre ++ l).filter (fun j => decide (j ≤ i)))) := by
  induction l generalizing pre with
  | nil => rfl
  | cons x l ih =>
    have hshift : pre ++ x :: l = pre ++ [x] ++ l := by rw [List.append_assoc, List.singleton_append]
    rw [prefixes, List.map_cons, List.map_cons, ih _ (hshift ▸ h), ← hshift, List.getLast?_concat]
    congr 2
    obtain ⟨-, htail, hbefore⟩ := List.pairwise_append.1 h
    have hpre : pre.filter (fun j => decide (j ≤ x)) = pre :=
      List.filter_eq_self.2 (fun j hj => decide_eq_true (Nat.le_of_lt (hbefore j hj x List.mem_cons_self)))
    have hl : l.filter (fun j => decide (j ≤ x)) = [] :=
      List.filter_eq_nil_iff.2 (fun j hj => by simpa using (List.pairwise_cons.1 htail).1 j hj)
    rw [List.filter_append, hpre, List.filter_cons, if_pos (by simp), hl]

/-- The enabled elements up to i. -/
def upTo (en : List Nat) (i : Nat) : List Nat := en.filter (fun j => decide (j ≤ i))

/-- Element i of a scan under a mode, with its flags. -/
def scanResult (f : FmtV) (a : Opnd) (en : List Nat) (m : Rm) (i : Nat) : Nat × Flags :=
  if isF a.tag then
    let v := sumF (m == .rdn) ((upTo en i).map (fun j => (fmtOf a.tag).value (a.el j)))
    (((fmtOf a.tag).result m f.sat v.1).1, v.2.or ((fmtOf a.tag).result m f.sat v.1).2)
  else wrapI f a.w (((upTo en i).map (fun j => intOf a.w f.sa (a.el j))).sum)

/-- VSCAN.ADD pops its port and writes to each enabled element its rounded sum (07 R146). -/
theorem execVscanAdd_eq {f : FmtV} {s : State} {en : List Nat} (hstage : s.fcore.stageOn = true)
    (hdef : s.enabled f.g (s.opnd f.a).tag (elemCount (s.opnd f.a).tag) = en) (hen : en ≠ [])
    (hports : s.checkPorts [(s.opnd f.a).need en] = .ok ())
    (hcls : clsFI (s.opnd f.a).tag = true) (hrm : isI (s.opnd f.a).tag = true → f.rm = 0) :
    let r := fun i => scanResult f (s.opnd f.a) en (s.modeFor f.rm true (· % 256) en i) i
    ∃ u, s.KeepsRegs u ∧ execVscanAdd f s = .next (((u.vput f.d (s.opnd f.a).tag (en.map (fun i =>
      (i, (r i).1, (upTo en i).any (s.opnd f.a).elBad))) .zero).vflag (orAll (en.map (fun i => (r i).2)))).retire s.fk s.fc 1) := by
  intro r
  have hrises : en.Pairwise (· < ·) := hdef ▸ s.enabled_rising _ _ _
  have hkeys : (prefixes [] en).map (fun p => ((p.getLast?).getD 0, p)) = en.map (fun i => (i, upTo en i)) := prefixes_keyed [] en hrises
  have hrm' : ¬ (isI (s.opnd f.a).tag = true ∧ f.rm ≠ 0) := fun h => h.2 (hrm h.1)
  have hfind {i : Nat} (hi : i ∈ en) : (((en.map (fun i => (i, upTo en i))).find? (fun e => e.1 == i)).map (·.2)).getD [] = upTo en i := by
    rw [find?_map_key en (upTo en) hi]
    rfl
  have hrounded (fn : Rm → Nat → Nat × Flags) (hfn : ∀ m i, i ∈ en → fn m i = scanResult f (s.opnd f.a) en m i) :
      (rounding (if isF (s.opnd f.a).tag = true then modeOf f.rm s.fcore.status else some .rne) (· % 256) en s.unit.gens fn).1 =
        en.map (fun i => (i, r i)) := by
    by_cases hF : isF (s.opnd f.a).tag = true
    · rw [if_pos hF, rounding_modeFor s f.rm (· % 256) hrises fn]
      exact List.map_congr_left (fun i hi => congrArg (Prod.mk i) (hfn _ i hi))
    · rw [if_neg hF]
      refine List.map_congr_left (fun i hi => congrArg (Prod.mk i) ((hfn _ i hi).trans ?_))
      simp only [r, scanResult, if_neg hF]
  apply Exists.intro
  apply And.intro
  case right =>
    refine vector_ok hstage ?_
    simp only [ofClass_ok hcls, hrm', hdef, hen, hports, hkeys, bind, Except.bind, pure, Except.pure, if_false]
    rw [hrounded _ (fun m i hi => ?fn)]
    case fn =>
      rw [hfind hi]
      rfl
    rw [List.map_map, List.map_map]
    refine congrArg Except.ok (congrFun (congrArg State.vflag (congrFun (congrArg (State.vput _ f.d (s.opnd f.a).tag)
      (List.map_congr_left fun i hi => ?_)) _)) _)
    rw [Function.comp, hfind hi]
  case left => exact (State.KeepsRegs.popPorts s _).trans (State.KeepsRegs.setUnit _ _)

/-! ## The statement's parts -/

/-- A reduced register: element 0 and zeros, and the flags. -/
def State.Reduced (s : State) (f : FmtV) (bad : Bool) (ins : Instr) (tag val : Nat) (fl : Flags) : Prop :=
  ∃ t, exec ins s = .next t ∧ s.VWrote t f.d tag (fun i => some (if i = 0 then (val, bad) else (0, false))) ∧
    (t.core s.fk s.fc).status = orFlags s.fcore.status fl

section
variable {s u : State} {f : FmtV} (hkeep : s.KeepsRegs u) (hd : f.d.toNat < 48) (hmem : s.mem.wf = true) {tag : Nat} (htag : tag < 32)

include hkeep hd hmem htag

theorem State.KeepsRegs.reduced_flagged (val : Nat) (bad : Bool) (fl : Flags) :
    let t := ((u.vput f.d tag ((List.range (elemCount tag)).map (fun i => (i, reduced val bad i))) .zero).vflag fl).retire s.fk s.fc 1
    s.VWrote t f.d tag (fun i => some (if i = 0 then (val, bad) else (0, false))) ∧
      (t.core s.fk s.fc).status = orFlags s.fcore.status fl := by
  intro t
  have hne : List.range (elemCount tag) ≠ [] := List.ne_nil_of_length_pos (by rw [List.length_range]; exact elemCount_pos tag)
  obtain ⟨hwrote, hstatus, -⟩ := hkeep.flagged hd hmem htag hne (fun i hi => List.mem_range.1 hi) (reduced val bad) .zero fl
  exact ⟨hwrote.congr (fun i hi => if_pos (List.mem_range.2 hi)), hstatus⟩

theorem State.KeepsRegs.reduced_retired (val : Nat) (bad : Bool) :
    let t := (u.vput f.d tag ((List.range (elemCount tag)).map (fun i => (i, reduced val bad i))) .zero).retire s.fk s.fc 1
    s.VWrote t f.d tag (fun i => some (if i = 0 then (val, bad) else (0, false))) ∧ (t.core s.fk s.fc).status = s.fcore.status := by
  intro t
  have hne : List.range (elemCount tag) ≠ [] := List.ne_nil_of_length_pos (by rw [List.length_range]; exact elemCount_pos tag)
  have hwrote := State.vWrote_retired hkeep hd hmem htag hne (fun i hi => List.mem_range.1 hi) (reduced val bad) .zero
  refine ⟨hwrote.congr (fun i hi => if_pos (List.mem_range.2 hi)), ?_⟩
  rw [(Core.KeepsFile.retire _ _ _ _).status, ← State.fcore_eq_core ((u.vput_focus ..).trans hkeep.focus),
    State.fcore_eq_core (State.vput_focus u f.d tag _ _), core_vput u f.d tag (map_ne_nil hne _), hkeep.fcore]

end

section
variable {f : FmtV} {s : State} (hstage : s.fcore.stageOn = true) (hd : f.d.toNat < 48) (hmem : s.mem.wf = true)
  (hen : s.enabled f.g (s.opnd f.a).tag (elemCount (s.opnd f.a).tag) ≠ [])
  (hports : s.checkPorts [(s.opnd f.a).need (s.enabled f.g (s.opnd f.a).tag (elemCount (s.opnd f.a).tag))] = .ok ())

include hstage hd hmem hen hports

/-- A reduction of integers writes its pattern, without flags. -/
theorem reduce_int_reduced {ins : Instr} {sat : Bool} {ff : Bool → List Fp → Fp × Flags} {ft it : Nat → Nat} {fi : Nat → List Nat → Nat}
    (hexec : exec ins s = reduce f s sat ff ft fi it) (hI : isI (s.opnd f.a).tag = true) (hrm : f.rm = 0) (htag : it (s.opnd f.a).tag < 32) :
    s.Reduced f ((s.enabled f.g (s.opnd f.a).tag (elemCount (s.opnd f.a).tag)).any (s.opnd f.a).elBad) ins (it (s.opnd f.a).tag)
      (fi (s.opnd f.a).w ((s.enabled f.g (s.opnd f.a).tag (elemCount (s.opnd f.a).tag)).map (s.opnd f.a).el)) {} := by
  obtain ⟨hwrote, hstatus⟩ := (State.KeepsRegs.popPorts s _).reduced_retired hd hmem htag _ _
  exact ⟨_, hexec.trans (reduce_int hstage hen hports hI hrm), hwrote, hstatus.trans (orFlags_none _).symm⟩

/-- A reduction of floating elements writes its value, rounded once, with the flags of both. -/
theorem reduce_float_reduced {ins : Instr} {sat : Bool} {ff : Bool → List Fp → Fp × Flags} {ft it : Nat → Nat} {fi : Nat → List Nat → Nat}
    (hexec : exec ins s = reduce f s sat ff ft fi it) (hF : isF (s.opnd f.a).tag = true) (htag : ft (s.opnd f.a).tag < 32) :
    let m := s.modeFor f.rm true id [0] 0
    let v := ff (m == .rdn) ((s.enabled f.g (s.opnd f.a).tag (elemCount (s.opnd f.a).tag)).map
      (fun i => (fmtOf (s.opnd f.a).tag).value ((s.opnd f.a).el i)))
    let r := (fmtOf (ft (s.opnd f.a).tag)).result m sat v.1
    s.Reduced f ((s.enabled f.g (s.opnd f.a).tag (elemCount (s.opnd f.a).tag)).any (s.opnd f.a).elBad) ins (ft (s.opnd f.a).tag) r.1
      (v.2.or r.2) := by
  intro m v r
  obtain ⟨u, hkeep, hrun⟩ := reduce_float (sat := sat) (ff := ff) (ft := ft) (it := it) (fi := fi) hstage hen hports hF
  obtain ⟨hwrote, hstatus⟩ := hkeep.reduced_flagged hd hmem htag _ _ _
  exact ⟨_, hexec.trans hrun, hwrote, hstatus⟩

/-- VRED.MAX and VRED.MIN write the pattern of an enabled element that none beats. -/
theorem extremeI_reduced (larger : Bool) {ins : Instr} {ff : Bool → List Fp → Fp × Flags} (hexec : exec ins s = reduce f s false ff id (extremeI larger f.sa) id)
    (hI : isI (s.opnd f.a).tag = true) (hrm : f.rm = 0) :
    let a := s.opnd f.a
    let en := s.enabled f.g a.tag (elemCount a.tag)
    let int := fun i => intOf a.w f.sa (a.el i)
    ∃ j ∈ en, (∀ i ∈ en, if larger then int i ≤ int j else int j ≤ int i) ∧ s.Reduced f (en.any a.elBad) ins a.tag (a.el j) {} := by
  intro a en int
  obtain ⟨hmem', hbest⟩ := extremeI_best larger f.sa a.w (map_ne_nil hen a.el)
  obtain ⟨j, hj, hval⟩ := List.mem_map.1 hmem'
  refine ⟨j, hj, fun i hi => ?_, ?_⟩
  · have h := hbest (a.el i) (List.mem_map_of_mem hi)
    rwa [← hval] at h
  · rw [hval]
    exact reduce_int_reduced hstage hd hmem hen hports hexec hI hrm (isI_bounds hI).1

end

theorem exec_vredAdd (f : FmtV) (s : State) : exec (.vredAdd f) s =
    reduce f s f.sat sumF (fun _ => 1) (fun w ps => patOf 64 ((ps.map (intOf w f.sa)).sum)) (fun _ => 18) := rfl

theorem exec_vredMax (f : FmtV) (s : State) : exec (.vredMax f) s =
    reduce f s false (fun _ => extremeF true) id (extremeI true f.sa) id := rfl

theorem exec_vredMin (f : FmtV) (s : State) : exec (.vredMin f) s =
    reduce f s false (fun _ => extremeF false) id (extremeI false f.sa) id := rfl

theorem patOf_64 (x : Int) : patOf 64 x = (x % 18446744073709551616).toNat := by
  rw [patOf]
  norm_num

/-- Settles O31: the reductions by their shared run, VSCAN.ADD by its own with the prefixes of the enabled elements. -/
theorem vectorReductions : Obligations.VectorReductions := by
  unfold Obligations.VectorReductions
  intro f s hstage hd hmem a en int fval hen hports whole
  have hin : ∀ i ∈ en, i < elemCount a.tag := fun i hi => State.lt_of_mem_enabled hi
  have hadd := exec_vredAdd f s
  have hmax := exec_vredMax f s
  have hmin := exec_vredMin f s
  refine ⟨fun hI hrm => ⟨?sum, ?largest, ?smallest, ?scan⟩, fun hF => ?float⟩
  case sum =>
    have h := reduce_int_reduced hstage hd hmem hen hports hadd hI hrm (by decide)
    rw [List.map_map, patOf_64] at h
    exact h
  case largest =>
    obtain ⟨j, hj, hbest, h⟩ := extremeI_reduced hstage hd hmem hen hports true hmax hI hrm
    exact ⟨j, hj, fun i hi => by simpa using hbest i hi, h⟩
  case smallest =>
    obtain ⟨j, hj, hbest, h⟩ := extremeI_reduced hstage hd hmem hen hports false hmin hI hrm
    exact ⟨j, hj, fun i hi => by simpa using hbest i hi, h⟩
  case scan =>
    obtain ⟨htag, hF, hcls⟩ := isI_bounds hI
    obtain ⟨u, hkeep, hrun⟩ := execVscanAdd_eq hstage rfl hen hports hcls (fun _ => hrm)
    obtain ⟨hwrote, -, -⟩ := hkeep.flagged hd hmem htag hen hin (fun i =>
      ((scanResult f a en (s.modeFor f.rm true (· % 256) en i) i).1, (upTo en i).any a.elBad)) .zero
      (orAll (en.map (fun i => (scanResult f a en (s.modeFor f.rm true (· % 256) en i) i).2)))
    refine ⟨_, hrun, hwrote.lanes_congr (fun i _ => ⟨?_, rfl⟩)⟩
    simp only [scanResult, a, hF, Bool.false_eq_true, if_false]
    rfl
  case float =>
    intro m put add top low
    have hcls := clsFI_of_isF _ hF
    refine ⟨reduce_float_reduced hstage hd hmem hen hports hadd hF (by decide),
      reduce_float_reduced hstage hd hmem hen hports hmax hF (lt_of_isF hF),
      reduce_float_reduced hstage hd hmem hen hports hmin hF (lt_of_isF hF), ?_⟩
    intro mi v
    obtain ⟨u, hkeep, hrun⟩ := execVscanAdd_eq hstage rfl hen hports hcls (fun hI => absurd hI (by rw [isI_of_isF hF]; decide))
    obtain ⟨hwrote, hstatus, -⟩ := hkeep.flagged hd hmem (lt_of_isF hF) hen hin (fun i =>
      ((scanResult f a en (mi i) i).1, (upTo en i).any a.elBad)) .zero (orAll (en.map (fun i => (scanResult f a en (mi i) i).2)))
    have hscan (i : Nat) : scanResult f a en (mi i) i =
        (((fmtOf a.tag).result (mi i) f.sat (v i).1).1, (v i).2.or ((fmtOf a.tag).result (mi i) f.sat (v i).1).2) := if_pos hF
    refine ⟨_, hrun, hwrote.lanes_congr (fun i _ => ⟨?_, rfl⟩), hstatus.trans ?_⟩
    · rw [hscan]
    · simp only [hscan]

end Sys2Proof.Machine
end

section
/-! The permutes (07 R147). -/

namespace Sys2Proof.Machine

theorem forM_eq_ok_iff {α : Type} {l : List α} {check : α → M Unit} : l.forM check = .ok () ↔ ∀ x ∈ l, check x = .ok () := by
  refine ⟨fun h => ?_, forM_ok⟩
  induction l with
  | nil => exact fun _ hx => nomatch hx
  | cons y l ih =>
    have hstep : (check y >>= fun _ => l.forM check) = .ok () := h
    cases hy : check y with
    | error e =>
      rw [hy] at hstep
      exact nomatch hstep
    | ok v =>
      rw [hy] at hstep
      exact fun x hx => (List.mem_cons.1 hx).elim (fun hxy => hxy ▸ hy) (fun hx => ih hstep x hx)

/-- The state that a port must have for a source to be read. -/
def State.portUp (s : State) (n : Need1) : M Unit :=
  match n.o.port with
  | some q => if (vget s.unit.ports q {}).status = 1 then pure () else trap cPORT (wNat q)
  | none => pure ()

/-- The range check of the elements read of a port. -/
def State.portSpans (s : State) (n : Need1) : M Unit :=
  match n.o.port with
  | some q => s.checkSpans (vget s.unit.ports q {}).bind .read (n.idx.map (elemSpan (vget s.unit.ports q {}).addr n.w))
  | none => pure ()

theorem State.checkPorts_eq_ok_iff {s : State} {l : List Need1} :
    s.checkPorts l = .ok () ↔ ∀ n ∈ l, s.portUp n = .ok () ∧ s.portSpans n = .ok () := by
  have hdef : s.checkPorts l = (l.forM s.portUp >>= fun _ => l.forM s.portSpans) := rfl
  rw [hdef]
  constructor
  · intro h
    cases hup : l.forM s.portUp with
    | error e =>
      rw [hup] at h
      exact nomatch h
    | ok v =>
      rw [hup] at h
      exact fun n hn => ⟨forM_eq_ok_iff.1 hup n hn, forM_eq_ok_iff.1 h n hn⟩
  · intro h
    rw [forM_ok (fun n hn => (h n hn).1)]
    exact forM_ok (fun n hn => (h n hn).2)

/-- Fewer elements of a source need no more. -/
theorem State.portSpans_nil {s : State} (o : Opnd) (w : Nat) : s.portSpans ⟨o, w, []⟩ = .ok () := by
  unfold State.portSpans
  dsimp only
  split <;> rfl

/-- The permutation shared by VZIP and VUNZIP. -/
theorem State.permute_eq {f : FmtV} {s : State} {a b : Opnd} {en : List Nat} {src : Nat → Bool × Nat}
    (hports : s.checkPorts [a.need ((en.filter (fun i => !(src i).1)).map (fun i => (src i).2)),
      b.need ((en.filter (fun i => (src i).1)).map (fun i => (src i).2))] = .ok ()) :
    s.permute f a b en src [] = .ok ((s.popPorts [a.need ((en.filter (fun i => !(src i).1)).map (fun i => (src i).2)),
      b.need ((en.filter (fun i => (src i).1)).map (fun i => (src i).2))]).vput f.d a.tag (en.map (fun i =>
      (i, if (src i).1 then (b.el (src i).2, b.elBad (src i).2) else (a.el (src i).2, a.elBad (src i).2)))) .zero) := by
  simp only [State.permute, hports, bind, Except.bind, pure, Except.pure]
  refine congrArg Except.ok (congrFun (congrArg (State.vput _ f.d a.tag) (List.map_congr_left fun i _ => ?_)) _)
  split <;> rfl

/-- Each element of a rising list with the number of those before it. -/
theorem zipWith_rank {α : Type} (g : Nat → Nat → α) (start : Nat) {en : List Nat} (hen : en.Pairwise (· < ·)) :
    (List.range' start en.length).zipWith g en = en.map (fun i => g (start + (en.filter (fun j => decide (j < i))).length) i) := by
  induction en generalizing start with
  | nil => rfl
  | cons x en ih =>
    obtain ⟨hhead, htail⟩ := List.pairwise_cons.1 hen
    have hnone : en.filter (fun j => decide (j < x)) = [] :=
      List.filter_eq_nil_iff.2 (fun j hj => by simpa using Nat.le_of_lt (hhead j hj))
    rw [List.length_cons, List.range'_succ, List.zipWith_cons_cons, ih (start + 1) htail, List.map_cons]
    congr 1
    · simp [hnone]
    · refine List.map_congr_left (fun i hi => ?_)
      rw [List.filter_cons, if_pos (decide_eq_true (hhead i hi)), List.length_cons, Nat.add_assoc, Nat.add_comm 1]

/-- Two sources of one tag. -/
theorem sameTags_pair {cls : Nat → Bool} {a b : Opnd} (ha : cls a.tag = true) (hb : b.tag = a.tag) : sameTags cls [a, b] = .ok () := by
  simp [sameTags, ha, hb]

section
variable {f : FmtV} {s : State} (hstage : s.fcore.stageOn = true) (hclass : isE (s.opnd f.a).tag = true) {en : List Nat}
  (hdef : s.enabled f.g (s.opnd f.a).tag (elemCount (s.opnd f.a).tag) = en) (hen : en ≠ [])

include hstage hclass hdef hen

theorem execVperm_eq (hb : (s.opnd f.b).tag = intTag (s.opnd f.a).w) :
    let src := fun i => (s.opnd f.b).el i % min (elemCount (s.opnd f.a).tag) (2 ^ (s.opnd f.a).w) +
      min (elemCount (s.opnd f.a).tag) (2 ^ (s.opnd f.a).w) * (i / min (elemCount (s.opnd f.a).tag) (2 ^ (s.opnd f.a).w))
    s.checkPorts [(s.opnd f.a).need (en.map src), (s.opnd f.b).need en] = .ok () → (∀ i ∈ en, (s.opnd f.b).elBad i = false) →
    execVperm f s = .next (((s.popPorts [(s.opnd f.a).need (en.map src), (s.opnd f.b).need en]).vput f.d (s.opnd f.a).tag (en.map (fun i =>
      (i, (s.opnd f.a).el (src i), (s.opnd f.a).elBad (src i)))) .zero).retire s.fk s.fc 1) := by
  intro src hports hgood
  have hfirst : s.checkPorts [⟨s.opnd f.a, (s.opnd f.a).w, []⟩, (s.opnd f.b).need en] = .ok () := by
    have h := State.checkPorts_eq_ok_iff.1 hports
    refine State.checkPorts_eq_ok_iff.2 (List.forall_mem_cons.2 ⟨⟨?_, State.portSpans_nil _ _⟩, fun n hn => h n (List.mem_cons_of_mem _ hn)⟩)
    exact (h _ List.mem_cons_self).1
  refine vector_ok hstage ?_
  have hbtag : ofClass (fun x => x == intTag (s.opnd f.a).w) (s.opnd f.b) = .ok () := ofClass_ok (by rw [hb, beq_self_eq_true])
  simp only [src] at hports
  simp only [ofClass_ok hclass, hbtag, hdef, hen, hfirst, hports, consumeV_ok hgood, bind, Except.bind, pure, Except.pure, if_false]
  rfl

theorem execVrot_eq {x : Word} (hx : s.fcore.Holds (f.b.truncate 5) x false) :
    let l := min (2 ^ f.sub.toNat) (elemCount (s.opnd f.a).tag)
    let src := fun i => l * (i / l) + (i % l + l - x.toNat % l) % l
    s.checkPorts [(s.opnd f.a).need (en.map src)] = .ok () →
    execVrot f s = .next (((s.popPorts [(s.opnd f.a).need (en.map src)]).vput f.d (s.opnd f.a).tag (en.map (fun i =>
      (i, (s.opnd f.a).el (src i), (s.opnd f.a).elBad (src i)))) .zero).retire s.fk s.fc 1) := by
  intro l src hports
  refine vector_ok hstage ?_
  simp only [src, l] at hports
  simp only [vx_of_holds hx, ofClass_ok hclass, hdef, hen, hports, useVx, bind, Except.bind, pure, Except.pure, if_false, Bool.false_eq_true]
  rfl

theorem execVcompress_eq (hports : s.checkPorts [(s.opnd f.a).need en] = .ok ()) :
    execVcompress f s = .next (((s.popPorts [(s.opnd f.a).need en]).vput f.d (s.opnd f.a).tag ((List.range (elemCount (s.opnd f.a).tag)).map (fun i =>
      (i, (en[i]?).elim (0, false) (fun j => ((s.opnd f.a).el j, (s.opnd f.a).elBad j))))) .zero).retire s.fk s.fc 1) := by
  refine vector_ok hstage ?_
  simp only [ofClass_ok hclass, hdef, hen, hports, bind, Except.bind, pure, Except.pure, if_false]
  refine congrArg Except.ok (congrFun (congrArg (State.vput _ f.d (s.opnd f.a).tag) (List.map_congr_left fun i _ => ?_)) _)
  cases en[i]? <;> rfl

theorem execVexpand_eq (hports : s.checkPorts [(s.opnd f.a).need (List.range en.length)] = .ok ()) :
    execVexpand f s = .next (((s.popPorts [(s.opnd f.a).need (List.range en.length)]).vput f.d (s.opnd f.a).tag (en.map (fun i =>
      (i, (s.opnd f.a).el (en.filter (fun j => decide (j < i))).length, (s.opnd f.a).elBad (en.filter (fun j => decide (j < i))).length)))
        .zero).retire s.fk s.fc 1) := by
  refine vector_ok hstage ?_
  simp only [ofClass_ok hclass, hdef, hen, hports, bind, Except.bind, pure, Except.pure, if_false]
  rw [List.range_eq_range', zipWith_rank (fun j i => (i, (s.opnd f.a).el j, (s.opnd f.a).elBad j)) 0 (hdef ▸ s.enabled_rising _ _ _)]
  simp only [Nat.zero_add]

theorem execVzip_eq (hb : (s.opnd f.b).tag = (s.opnd f.a).tag) :
    execVzip f s = .next (s.finish 1 (s.permute f (s.opnd f.a) (s.opnd f.b) en
      (fun i => (decide (i % 2 = 1), i / 2 + f.sub.toNat * (elemCount (s.opnd f.a).tag / 2))) [])) := by
  simp only [execVzip, vector, if_pos hstage, sameTags_pair hclass hb, hdef, hen, bind, Except.bind, if_false]
  rfl

theorem execVunzip_eq (hb : (s.opnd f.b).tag = (s.opnd f.a).tag) :
    execVunzip f s = .next (s.finish 1 (s.permute f (s.opnd f.a) (s.opnd f.b) en (fun i =>
      (decide (elemCount (s.opnd f.a).tag ≤ 2 * i + f.sub.toNat), if elemCount (s.opnd f.a).tag ≤ 2 * i + f.sub.toNat then
        2 * i + f.sub.toNat - elemCount (s.opnd f.a).tag else 2 * i + f.sub.toNat)) [])) := by
  simp only [execVunzip, vector, if_pos hstage, sameTags_pair hclass hb, hdef, hen, bind, Except.bind, if_false]

end

theorem lt_of_isE {tag : Nat} (h : isE tag = true) : tag < 32 := by
  simp only [isE, Bool.and_eq_true, decide_eq_true_eq] at h
  omega

theorem intTag_eq (w : Nat) : intTag w = if w = 8 then 8 else if w = 16 then 7 else 6 := by
  unfold intTag
  split
  · rfl
  · rfl
  · next h8 h16 => rw [if_neg h8, if_neg h16]

/-- Settles O32: each permute by its run and the write of a register; a rising list ranks its own elements. -/
theorem vectorPermutes : Obligations.VectorPermutes := by
  unfold Obligations.VectorPermutes
  intro f s hstage hd hmem a b n en hclass hen from' both m perm l
  have hin : ∀ i ∈ en, i < elemCount a.tag := fun i hi => State.lt_of_mem_enabled hi
  have hwrites (needs : List Need1) (g : Nat → Nat × Bool) := State.vWrote_retired (State.KeepsRegs.popPorts s needs) hd hmem
    (lt_of_isE hclass) hen hin g .zero
  have hboth (ins : Instr) (src : Nat → Bool × Nat) (hexec : exec ins s = .next (s.finish 1 (s.permute f a b en src []))) : both ins src := by
    intro hports
    exact ⟨_, hexec.trans (congrArg (fun r => Host.Outcome.next (s.finish 1 r)) (State.permute_eq hports)), hwrites _ _⟩
  refine ⟨?perm, ?rot, ?zip, ?unzip, ?compress, ?expand⟩
  case perm =>
    intro hb hports hgood
    exact ⟨_, execVperm_eq hstage hclass rfl hen (hb.trans (intTag_eq _).symm) hports hgood, hwrites _ _⟩
  case rot =>
    intro x _ hx rot hports
    exact ⟨_, execVrot_eq hstage hclass rfl hen hx hports, hwrites _ _⟩
  case zip => exact fun hb => hboth _ _ (execVzip_eq hstage hclass rfl hen hb)
  case unzip => exact fun hb => hboth _ _ (execVunzip_eq hstage hclass rfl hen hb)
  case compress =>
    intro hports
    have hne : List.range n ≠ [] := List.ne_nil_of_length_pos (by rw [List.length_range]; exact elemCount_pos _)
    have hwrote := State.vWrote_retired (State.KeepsRegs.popPorts s [a.need en]) hd hmem (lt_of_isE hclass) hne
      (fun i hi => List.mem_range.1 hi) (fun i => (en[i]?).elim (0, false) (fun j => (a.el j, a.elBad j))) .zero
    refine ⟨_, execVcompress_eq hstage hclass rfl hen hports, hwrote.congr (fun i hi => ?_)⟩
    rw [lanes, if_pos (List.mem_range.2 hi)]
    cases en[i]? <;> rfl
  case expand =>
    intro hports
    exact ⟨_, execVexpand_eq hstage hclass rfl hen hports, hwrites _ _⟩

end Sys2Proof.Machine
end

section
/-! The vector loads (07 R148, R149). -/

namespace Sys2Proof.Machine

theorem State.touchSpans_unit (s : State) (l : List (Int × Nat)) : (s.touchSpans l).unit = s.unit := by
  simp only [State.unit, State.touchSpans, State.bank_modBank, State.modBank_focus, State.fk, State.fc, if_true]

section
variable {f : FmtV} {s : State} (hstage : s.fcore.stageOn = true)

include hstage

/-- VLD reads the packed elements of its tag, of blocks and groups only whole ones. -/
theorem execVld_eq {en : List Nat}
    (hdef : whole f.sub.toNat (if isBlock f.sub.toNat then 0 else (vget s.unit.gs (s.fcore.vp f.d.toNat) 0).toNat)
      (s.enabled f.g f.sub.toNat (elemCount f.sub.toNat)) = en) (hen : en ≠ []) :
    let a := s.fcore.areg (f.b.truncate 4)
    let p : Int := a.ptr.toNat
    let w := tagBits f.sub.toNat
    s.checkSpans a .read (en.map (elemSpan p w)) = .ok () →
    ∃ side, execVld f s = .next (((s.touchSpans (en.map (elemSpan p w))).vput f.d f.sub.toNat (en.map (fun i =>
      (i, s.padBits s.fk p (i * w) w, s.padBad s.fk p (i * w) w))) side).retire s.fk s.fc 1) := by
  intro a p w hspans
  refine ⟨if isX f.sub.toNat then .set (if isBlock f.sub.toNat then 0 else (vget s.unit.gs (s.fcore.vp f.d.toNat) 0).toNat) [] else .zero,
    vector_ok hstage ?_⟩
  unfold whole at hdef
  simp only [hdef, hen, if_false, bind, Except.bind, pure, Except.pure]
  have hcheck : s.checkElems (s.fcore.areg (aOf6 f.b)) .read (en.map (elemSpan ((s.fcore.areg (aOf6 f.b)).ptr.toNat : Int)
    (tagBits f.sub.toNat))) = .ok () := hspans
  rw [hcheck]
  rfl

section
variable {en : List Nat} (hdef : s.enabled f.g f.sub.toNat (elemCount f.sub.toNat) = en) (hen : en ≠ [])

include hdef hen

/-- VLDX reads the elements below 256 at their indices; the others become zero. -/
theorem execVldx_eq (htag : (s.opnd f.a).tag = 6) :
    let a := s.fcore.areg (f.b.truncate 4)
    let p : Int := a.ptr.toNat
    let w := tagBits f.sub.toNat
    let o := s.opnd f.a
    let low := en.filter (fun i => decide (i < 256))
    let q := fun i => p + intOf 32 true (o.el i) * (w / 8 : Nat)
    s.checkPorts [o.need low] = .ok () → (∀ i ∈ low, o.elBad i = false) → s.checkSpans a .read (low.map (fun i => (q i, w / 8))) = .ok () →
    execVldx f s = .next ((((s.touchSpans (low.map (fun i => (q i, w / 8)))).popPorts [o.need low]).vput f.d f.sub.toNat (en.map (fun i =>
      (i, if i < 256 then (s.padBits s.fk (q i) 0 w, s.padBad s.fk (q i) 0 w) else (0, false)))) .zero).retire s.fk s.fc 1) := by
  intro a p w o low q hports hgood hspans
  refine vector_ok hstage ?_
  have hclass : ofClass (fun x => x == 6) (s.opnd f.a) = .ok () := ofClass_ok (by rw [htag]; rfl)
  have hports : s.checkPorts [(s.opnd f.a).need (en.filter (fun i => decide (i < 256)))] = .ok () := hports
  have hcheck : s.checkElems (s.fcore.areg (aOf6 f.b)) .read ((en.filter (fun i => decide (i < 256))).map (fun i =>
    (((s.fcore.areg (aOf6 f.b)).ptr.toNat : Int) + idxOff (s.opnd f.a) (tagBits f.sub.toNat) i, tagBits f.sub.toNat / 8))) = .ok () := hspans
  have hconsume : consumeV ((s.opnd f.a).need (en.filter (fun i => decide (i < 256)))) = .ok () := consumeV_ok hgood
  simp only [hclass, hdef, hen, hports, hcheck, hconsume, if_false, bind, Except.bind, pure, Except.pure]
  refine congrArg Except.ok (congrFun (congrArg (State.vput _ f.d f.sub.toNat) (List.map_congr_left fun i _ => ?_)) _)
  split <;> rfl

/-- VLDSP reads its elements at multiples of a byte stride. -/
theorem execVldsp_eq {x : Word} (hx : s.fcore.Holds (f.c.truncate 5) x false) :
    let a := s.fcore.areg (f.b.truncate 4)
    let p : Int := a.ptr.toNat
    let w := tagBits f.sub.toNat
    let q := fun i : Nat => p + i * x.toInt
    s.checkSpans a .read (en.map (fun i => (q i, w / 8))) = .ok () →
    execVldsp f s = .next (((s.touchSpans (en.map (fun i => (q i, w / 8)))).vput f.d f.sub.toNat (en.map (fun i =>
      (i, s.padBits s.fk (q i) 0 w, s.padBad s.fk (q i) 0 w))) .zero).retire s.fk s.fc 1) := by
  intro a p w q hspans
  refine vector_ok hstage ?_
  have hcheck : s.checkElems (s.fcore.areg (aOf6 f.b)) .read (en.map (fun i : Nat =>
    (((s.fcore.areg (aOf6 f.b)).ptr.toNat : Int) + (i : Int) * x.toInt, tagBits f.sub.toNat / 8))) = .ok () := hspans
  simp only [vx_of_holds hx, hdef, hen, hcheck, useVx, if_false, bind, Except.bind, pure, Except.pure, Bool.false_eq_true]
  rfl

end

/-! ## VLDS -/

/-- The bytes of an entry that VLDS reads. -/
def entryBytes (s : State) (p : Int) (z u : Nat) : List Byte :=
  (List.range z).map (fun i => BitVec.ofNat 8 (s.padBits s.fk p (8 * (z * u + i)) 8))

/-- The unit after VLDS: GS and the entries of the units read. -/
def VUnit.entriesSet (r : VUnit) (tag v gs : Nat) (es : List (Nat × List Byte)) : VUnit :=
  { r with gs := vset r.gs v (BitVec.ofNat 2 gs), side := (r.written tag v (.set gs es)).side }

/-- VLDS sets GS and the entries of its whole units, and poison at most. -/
theorem execVlds_eq {us : List Nat} (hX : isX (s.opnd f.d).tag = true) (hblock : isBlock (s.opnd f.d).tag = true → f.sub.toNat = 0)
    (hdef : fullUnits (s.opnd f.d).tag f.sub.toNat (s.enabled f.g (s.opnd f.d).tag (elemCount (s.opnd f.d).tag)) = us) (hus : us ≠ []) :
    let a := s.fcore.areg (f.b.truncate 4)
    let p : Int := a.ptr.toNat
    let z := entrySize (s.opnd f.d).tag
    let v := s.fcore.vp f.d.toNat
    s.checkSpans a .read (us.map (fun u => (p + (z * u : Nat), z))) = .ok () →
    ∃ u : State, (u.focus = s.focus ∧ u.mem = s.mem ∧ u.unit = s.unit ∧ u.fcore = s.fcore) ∧
      execVlds f s = .next (((u.setUnit (u.unit.entriesSet (s.opnd f.d).tag v f.sub.toNat (us.map (fun u => (u, entryBytes s p z u))))).putCore
        { (u.setUnit (u.unit.entriesSet (s.opnd f.d).tag v f.sub.toNat (us.map (fun u => (u, entryBytes s p z u))))).fcore with
          livev := setBit (u.setUnit (u.unit.entriesSet (s.opnd f.d).tag v f.sub.toNat
            (us.map (fun u => (u, entryBytes s p z u))))).fcore.livev v true }).retire s.fk s.fc 1) := by
  intro a p z v hspans
  have hblock' : ¬ (isBlock (s.opnd f.d).tag = true ∧ f.sub.toNat ≠ 0) := fun h => h.2 (hblock h.1)
  have hcheck : s.checkElems (s.fcore.areg (aOf6 f.b)) .read (us.map (fun u => (((s.fcore.areg (aOf6 f.b)).ptr.toNat : Int) +
    (entrySize (s.opnd f.d).tag * u : Nat), entrySize (s.opnd f.d).tag))) = .ok () := hspans
  apply Exists.intro
  apply And.intro
  case right =>
    refine vector_ok hstage ?_
    simp only [ofClass_ok hX, hblock', hdef, hus, hcheck, if_false, bind, Except.bind, pure, Except.pure]
    rfl
  case left =>
    exact ⟨rfl, rfl, State.touchSpans_unit s _, (State.KeepsRegs.touchSpans s _).fcore⟩

end

theorem field_lt (v lo w : Nat) : field v lo w < 2 ^ w := Nat.mod_lt _ (Nat.two_pow_pos w)

theorem State.padBits_lt (s : State) (k : Nat) (base : Int) (o w : Nat) : s.padBits k base o w < 2 ^ w := field_lt _ _ _

theorem entryBytes_length (s : State) (p : Int) (z u : Nat) : (entryBytes s p z u).length = z := by
  rw [entryBytes, List.length_map, List.length_range]

theorem entryBytes_getElem (s : State) (p : Int) {z i : Nat} (u : Nat) (hi : i < z) :
    (((entryBytes s p z u)[i]?).getD 0).toNat = s.padBits s.fk p (8 * (z * u + i)) 8 := by
  rw [entryBytes, List.getElem?_map, List.getElem?_range hi]
  exact (BitVec.toNat_ofNat ..).trans (Nat.mod_eq_of_lt (s.padBits_lt _ _ _ _))

/-- A unit that is enabled whole lies in the register. -/
theorem State.lt_of_mem_fullUnits {s : State} {g : Guard} {tag gs u : Nat} (hu : u ∈ fullUnits tag gs (s.enabled g tag (elemCount tag))) :
    u < elemCount tag / unitSize tag gs := by
  have hpos := unitSize_pos tag gs
  have hlast : (u * unitSize tag gs + (unitSize tag gs - 1)) / unitSize tag gs = u := by
    rw [Nat.mul_comm, Nat.mul_add_div hpos, Nat.div_eq_of_lt (by omega), Nat.add_zero]
  have hlt := State.lt_of_mem_enabled (mem_of_mem_fullUnits (s.enabled_nodup g tag (elemCount tag)) hu hlast)
  refine (Nat.le_div_iff_mul_le hpos).2 ?_
  rw [Nat.succ_mul]
  omega

/-- Settles O33: the loads of elements by their runs and the write of a register, VLDS by its own and the bytes of its sidecar. -/
theorem vectorLoads : Obligations.VectorLoads := by
  unfold Obligations.VectorLoads
  intro f s hstage hd hmem a p tag w at' en
  have hat (q : Int) : at' q 0 = (s.padBits s.fk q 0 w, s.padBad s.fk q 0 w) := by
    simp only [at', Nat.zero_mul]
  refine ⟨?packed, ?indexed, ?strided, ?sidecar⟩
  case packed =>
    intro htag gs el hel hspans
    obtain ⟨side, hrun⟩ := execVld_eq (f := f) hstage rfl hel hspans
    exact ⟨_, hrun, State.vWrote_retired (State.KeepsRegs.touchSpans s _) hd hmem (Nat.lt_of_le_of_lt htag (by decide)) hel
      (fun i hi => State.lt_of_mem_whole hi) _ side⟩
  case indexed =>
    intro htag o low hindex hen hports hgood q hspans
    simp only [hat]
    exact ⟨_, execVldx_eq (f := f) hstage rfl hen hindex hports hgood hspans, State.vWrote_retired ((State.KeepsRegs.touchSpans s _).trans
      (State.KeepsRegs.popPorts _ _)) hd hmem (lt_of_isE htag) hen (fun i hi => State.lt_of_mem_enabled hi)
      (fun i => if i < 256 then (s.padBits s.fk (q i) 0 w, s.padBad s.fk (q i) 0 w) else (0, false)) .zero⟩
  case strided =>
    intro x htag _ hx hen q hspans
    simp only [hat]
    exact ⟨_, execVldsp_eq (f := f) hstage rfl hen hx hspans, State.vWrote_retired (State.KeepsRegs.touchSpans s _) hd hmem (lt_of_isE htag) hen
      (fun i hi => State.lt_of_mem_enabled hi) (fun i => (s.padBits s.fk (q i) 0 w, s.padBad s.fk (q i) 0 w)) .zero⟩
  case sidecar =>
    intro o gs z us hX hgs hblock hus hside hspans
    obtain ⟨u, ⟨hfocus, hsame, hunit, hcore⟩, hrun⟩ := execVlds_eq (f := f) hstage hX hblock rfl hus hspans
    rw [hunit, State.fcore_setUnit, hcore] at hrun
    have hafter (r : Core) (e : VUnit) : (((u.setUnit e).putCore r).retire s.fk s.fc 1).unit = e := by
      rw [State.unit_retire, State.putCore, State.unit_setCore, State.unit_setUnit]
    have hregs (r : Core) (e : VUnit) : r.KeepsFile ((((u.setUnit e).putCore r).retire s.fk s.fc 1).core s.fk s.fc) := by
      have hput : ((u.setUnit e).putCore r).core s.fk s.fc = r := by
        rw [← State.fcore_eq_core (t := (u.setUnit e).putCore r) hfocus, State.fcore_putCore]
      have hkeeps := Core.KeepsFile.retire ((u.setUnit e).putCore r) s.fk s.fc 1
      rwa [hput] at hkeeps
    refine ⟨_, hrun, hsame, ?_, ?_, fun w hw i hi => ?_, (hregs _ _).x, (hregs _ _).a⟩
    · rw [hafter]
      rfl
    · rw [hafter, VUnit.entriesSet, vget_vset, if_pos ⟨rfl, s.fcore.vp_lt hd⟩]
      exact (BitVec.toNat_ofNat ..).trans (Nat.mod_eq_of_lt (Nat.lt_succ_of_le hgs))
    · have hbyte := VUnit.written_side (u := s.unit) hside (tag := o.tag) (gs := gs) (v := s.fcore.vp f.d.toNat)
        (bs := entryBytes s p z) (entryBytes_length s p z) hw hi (State.lt_of_mem_fullUnits hw)
      rw [hafter]
      have hmul : z * w + i = w * entrySize o.tag + i := by rw [Nat.mul_comm]
      rw [hmul]
      refine (congrArg BitVec.toNat hbyte).trans ?_
      split
      · rfl
      · rw [entryBytes_getElem s p w hi, ← hmul]

end Sys2Proof.Machine
end

section
/-! The vector stores (07 R148, R149): bits of a memory, and elements stored one after another. -/

namespace Sys2Proof.Machine

/-! ## Bits of a memory -/

/-- Bit x of a memory, eight to a byte, the lowest first (00). -/
def Mem.bit (m : Mem) (x : Nat) : Bool := (m.byte (x / 8)).getLsbD (x % 8)

theorem testBit_leNat (bs : List Byte) (i : Nat) : (leNat bs).testBit i = ((bs[i / 8]?).getD 0).getLsbD (i % 8) := by
  induction bs generalizing i with
  | nil => simp [leNat]
  | cons b bs ih =>
    have hsum : leNat (b :: bs) = 2 ^ 8 * leNat bs + b.toNat := by
      rw [leNat]
      omega
    rw [hsum, Nat.testBit_two_pow_mul_add _ b.isLt]
    by_cases hi : i < 8
    · rw [if_pos hi, Nat.div_eq_of_lt hi, Nat.mod_eq_of_lt hi]
      rfl
    · rw [if_neg hi, ih, show i / 8 = (i - 8) / 8 + 1 by omega, show (i - 8) % 8 = i % 8 by omega, List.getElem?_cons_succ]

theorem testBit_leNat_read {m : Mem} (hm : Rising m) (a n i : Nat) :
    (leNat (m.read a n)).testBit i = (decide (i < 8 * n) && m.bit (8 * a + i)) := by
  rw [testBit_leNat, Mem.read_eq hm, List.getElem?_map]
  by_cases hi : i < 8 * n
  · rw [List.getElem?_range (by omega), decide_eq_true hi, Bool.true_and, Mem.bit, show (8 * a + i) / 8 = a + i / 8 by omega,
      show (8 * a + i) % 8 = i % 8 by omega]
    rfl
  · rw [List.getElem?_eq_none (by rw [List.length_range]; omega), decide_eq_false hi]
    simp

/-- w bits from bit x of a memory. -/
def Mem.bits (m : Mem) (x w : Nat) : Nat := field (leNat (m.read (x / 8) ((x % 8 + w + 7) / 8))) (x % 8) w

/-- The memory with w bits from bit x replaced. -/
def Mem.putBits (m : Mem) (x w v : Nat) : Mem :=
  m.write (x / 8) (leBytes ((x % 8 + w + 7) / 8) (setField (leNat (m.read (x / 8) ((x % 8 + w + 7) / 8))) (x % 8) w v))

theorem Mem.wf_putBits {m : Mem} (hm : m.wf = true) (x w v : Nat) : (m.putBits x w v).wf = true := Mem.wf_write hm _ _

theorem Mem.testBit_bits {m : Mem} (hm : Rising m) (x w i : Nat) : (m.bits x w).testBit i = (decide (i < w) && m.bit (x + i)) := by
  rw [Mem.bits, testBit_field, testBit_leNat_read hm]
  by_cases hi : i < w
  · rw [decide_eq_true (show x % 8 + i < 8 * ((x % 8 + w + 7) / 8) by omega), show 8 * (x / 8) + (x % 8 + i) = x + i by omega, Bool.true_and]
  · rw [decide_eq_false hi, Bool.false_and, Bool.false_and]

theorem Mem.bits_putBits {m : Mem} (hm : m.wf = true) (x w v : Nat) : (m.putBits x w v).bits x w = v % 2 ^ w := by
  have hlt : setField (leNat (m.read (x / 8) ((x % 8 + w + 7) / 8))) (x % 8) w v < 2 ^ (8 * ((x % 8 + w + 7) / 8)) :=
    setField_lt (leNat_read_lt _ _ _) (by omega) v
  rw [Mem.bits, Mem.putBits, leNat_read_write hm _ hlt, field_setField_same]

/-- A byte that no replaced bit lies in stays. -/
theorem Mem.byte_putBits {m : Mem} (hm : m.wf = true) {x w b : Nat} (v : Nat) (hb : b < x / 8 ∨ x / 8 + (x % 8 + w + 7) / 8 ≤ b) :
    (m.putBits x w v).byte b = m.byte b := by
  rw [Mem.putBits, Mem.byte_write (Mem.wf_rising hm), leBytes_length, if_neg (by omega)]

/-- A bit outside those replaced stays. -/
theorem Mem.bit_putBits {m : Mem} (hm : m.wf = true) {x w y : Nat} (v : Nat) (hy : y < x ∨ x + w ≤ y) :
    (m.putBits x w v).bit y = m.bit y := by
  by_cases hin : x / 8 ≤ y / 8 ∧ y / 8 < x / 8 + (x % 8 + w + 7) / 8
  · have hlt : setField (leNat (m.read (x / 8) ((x % 8 + w + 7) / 8))) (x % 8) w v < 2 ^ (8 * ((x % 8 + w + 7) / 8)) :=
      setField_lt (leNat_read_lt _ _ _) (by omega) v
    have hread := testBit_leNat_read (Mem.wf_rising (Mem.wf_putBits hm x w v)) (x / 8) ((x % 8 + w + 7) / 8) (y - 8 * (x / 8))
    rw [show 8 * (x / 8) + (y - 8 * (x / 8)) = y by omega, decide_eq_true (show y - 8 * (x / 8) < 8 * ((x % 8 + w + 7) / 8) by omega),
      Bool.true_and, Mem.putBits, leNat_read_write hm _ hlt, testBit_setField, if_neg (by omega), testBit_leNat_read (Mem.wf_rising hm),
      show 8 * (x / 8) + (y - 8 * (x / 8)) = y by omega, decide_eq_true (show y - 8 * (x / 8) < 8 * ((x % 8 + w + 7) / 8) by omega),
      Bool.true_and] at hread
    exact hread.symm
  · rw [Mem.bit, Mem.byte_putBits hm v (by omega), Mem.bit]

theorem Mem.bits_putBits_disjoint {m : Mem} (hm : m.wf = true) {x y w w' : Nat} (v : Nat) (h : x + w ≤ y ∨ y + w' ≤ x) :
    (m.putBits x w v).bits y w' = m.bits y w' := by
  refine Nat.eq_of_testBit_eq (fun i => ?_)
  rw [Mem.testBit_bits (Mem.wf_rising (Mem.wf_putBits hm x w v)), Mem.testBit_bits (Mem.wf_rising hm)]
  by_cases hi : i < w'
  · rw [Mem.bit_putBits hm v (by omega)]
  · rw [decide_eq_false hi, Bool.false_and, Bool.false_and]

/-! ## Elements stored in order -/

/-- Patterns of w bits put at bits of a memory, in order. -/
def Mem.putAll (m : Mem) (w : Nat) (l : List (Nat × Nat)) : Mem := l.foldl (fun m e => m.putBits e.1 w e.2) m

theorem Mem.wf_putAll {m : Mem} (hm : m.wf = true) (w : Nat) (l : List (Nat × Nat)) : (m.putAll w l).wf = true := by
  induction l generalizing m with
  | nil => exact hm
  | cons e l ih => exact ih (Mem.wf_putBits hm _ _ _)

theorem Mem.byte_putAll {m : Mem} (hm : m.wf = true) {w b : Nat} {l : List (Nat × Nat)}
    (hb : ∀ e ∈ l, b < e.1 / 8 ∨ e.1 / 8 + (e.1 % 8 + w + 7) / 8 ≤ b) : (m.putAll w l).byte b = m.byte b := by
  induction l generalizing m with
  | nil => rfl
  | cons e l ih =>
    exact (ih (Mem.wf_putBits hm _ _ _) (fun e' he' => hb e' (List.mem_cons_of_mem _ he'))).trans
      (Mem.byte_putBits hm _ (hb e List.mem_cons_self))

theorem Mem.bits_putAll_disjoint {m : Mem} (hm : m.wf = true) {w y : Nat} {l : List (Nat × Nat)}
    (h : ∀ e ∈ l, e.1 + w ≤ y ∨ y + w ≤ e.1) : (m.putAll w l).bits y w = m.bits y w := by
  induction l generalizing m with
  | nil => rfl
  | cons e l ih =>
    exact (ih (Mem.wf_putBits hm _ _ _) (fun e' he' => h e' (List.mem_cons_of_mem _ he'))).trans
      (Mem.bits_putBits_disjoint hm _ (h e List.mem_cons_self))

/-- An element reads back what was stored if none stored after it overlaps it. -/
theorem Mem.bits_putAll {m : Mem} (hm : m.wf = true) (w : Nat) {en : List Nat} (hen : en.Pairwise (· < ·)) (pos val : Nat → Nat) {i : Nat}
    (hi : i ∈ en) (hlater : ∀ j ∈ en, i < j → pos j + w ≤ pos i ∨ pos i + w ≤ pos j) :
    (m.putAll w (en.map (fun i => (pos i, val i)))).bits (pos i) w = val i % 2 ^ w := by
  induction en generalizing m with
  | nil => exact nomatch hi
  | cons j en ih =>
    obtain ⟨hhead, htail⟩ := List.pairwise_cons.1 hen
    rcases List.mem_cons.1 hi with rfl | hi
    · refine (Mem.bits_putAll_disjoint (Mem.wf_putBits hm _ _ _) (fun e he => ?_)).trans (Mem.bits_putBits hm _ _ _)
      obtain ⟨j, hj, rfl⟩ := List.mem_map.1 he
      exact hlater j (List.mem_cons_of_mem _ hj) (hhead j hj)
    · exact ih (Mem.wf_putBits hm _ _ _) htail hi (fun j' hj' => hlater j' (List.mem_cons_of_mem _ hj'))

/-! ## Stores to the own scratchpad -/

/-- The bit of the chip's memory at a bit offset from an address of a cell's scratchpad. -/
def padBit (k : Nat) (base : Int) (o : Nat) : Nat := 8 * (padBase k + (base + (o / 8 : Nat)).toNat) + o % 8

theorem padBit_div (k : Nat) (base : Int) (o : Nat) : padBit k base o / 8 = padBase k + (base + (o / 8 : Nat)).toNat := by
  unfold padBit
  omega

theorem padBit_mod (k : Nat) (base : Int) (o : Nat) : padBit k base o % 8 = o % 8 := by
  unfold padBit
  omega

theorem padBit_of_nat (k p o : Nat) : padBit k (p : Int) o = 8 * (padBase k + p) + o := by
  unfold padBit
  omega

theorem State.padBits_eq (s : State) (k : Nat) (base : Int) (o w : Nat) : s.padBits k base o w = s.mem.bits (padBit k base o) w := by
  rw [Mem.bits, padBit_div, padBit_mod, State.padBits, show (o + w + 7) / 8 - o / 8 = (o % 8 + w + 7) / 8 by omega]
  rfl

theorem State.storeElems_mem (s : State) (w : Nat) (l : List (Int × Nat × Nat)) :
    (s.storeElems w l).mem = s.mem.putAll w (l.map (fun e => (padBit s.fk e.1 e.2.1, e.2.2))) := by
  have hput (m : Mem) (e : Int × Nat × Nat) : m.putBits (padBit s.fk e.1 e.2.1) w e.2.2 =
      m.write (padBase s.fk + (e.1 + (e.2.1 / 8 : Nat)).toNat) (leBytes ((e.2.1 % 8 + w + 7) / 8) (setField (leNat (m.read
        (padBase s.fk + (e.1 + (e.2.1 / 8 : Nat)).toNat) ((e.2.1 % 8 + w + 7) / 8))) (e.2.1 % 8) w e.2.2)) := by
    rw [Mem.putBits, padBit_div, padBit_mod]
  rw [Mem.putAll, List.foldl_map]
  simp only [hput]
  rfl

/-- Nothing differs that a store to the own scratchpad is measured against but the ports. -/
structure State.KeepsUnit (s t : State) : Prop where
  keeps : s.KeepsRegs t
  ports : ∃ ports, t.unit = { s.unit with ports := ports }

theorem State.KeepsUnit.refl (s : State) : s.KeepsUnit s := ⟨State.KeepsRegs.refl s, _, rfl⟩

theorem State.KeepsUnit.popPorts (s : State) (l : List Need1) : s.KeepsUnit (s.popPorts l) := ⟨State.KeepsRegs.popPorts s l, s.popPorts_unit l⟩

theorem State.KeepsUnit.touchSpans {s t : State} (h : s.KeepsUnit t) (l : List (Int × Nat)) : s.KeepsUnit (t.touchSpans l) := by
  obtain ⟨hkeeps, ports, hunit⟩ := h
  exact ⟨hkeeps.trans (State.KeepsRegs.touchSpans t l), ports, (t.touchSpans_unit l).trans hunit⟩

/-- Stored elements change no byte outside the spans that cover them (07 R148). -/
theorem State.KeepsUnit.padStored {s u : State} (h : s.KeepsUnit u) (hmem : s.mem.wf = true) {w : Nat} {l : List (Int × Nat × Nat)}
    {sps : List (Int × Nat)} (hcover : ∀ e ∈ l, ∃ sp ∈ sps, sp.1.toNat ≤ (e.1 + (e.2.1 / 8 : Nat)).toNat ∧
      (e.1 + (e.2.1 / 8 : Nat)).toNat + (e.2.1 % 8 + w + 7) / 8 ≤ sp.1.toNat + sp.2) :
    s.PadStored ((u.storeElems w l).retire s.fk s.fc 1) sps := by
  obtain ⟨⟨hfocus, hsame, -, hhbm, hhost, hbufs, hcore⟩, ports, hunit⟩ := h
  have hk : u.fk = s.fk := congrArg (·.k) hfocus
  have hafter : ((u.storeElems w l).retire s.fk s.fc 1).unit = { s.unit with ports := ports } :=
    (State.unit_retire ..).trans hunit
  have hregs := Core.KeepsFile.retire (u.storeElems w l) s.fk s.fc 1
  have hbefore : (u.storeElems w l).core s.fk s.fc = s.fcore := by
    rw [← hcore, State.fcore_eq_core hfocus]
    rfl
  rw [hbefore] at hregs
  refine ⟨hfocus, fun b hb => ?_, hhbm, hhost, hbufs, ?_, ?_, ?_, ?_, ?_, hregs.x, hregs.a⟩
  · have hbyte : ((u.storeElems w l).retire s.fk s.fc 1).mem = u.mem.putAll w (l.map (fun e => (padBit s.fk e.1 e.2.1, e.2.2))) :=
      hk ▸ u.storeElems_mem w l
    rw [hbyte, hsame]
    refine Mem.byte_putAll hmem (fun x hx => ?_)
    obtain ⟨e, he, rfl⟩ := List.mem_map.1 hx
    obtain ⟨sp, hsp, hlow, hhigh⟩ := hcover e he
    rw [padBit_div, padBit_mod]
    have := hb sp hsp
    omega
  all_goals rw [hafter]

/-- A stored element reads back if none stored after it overlaps it. -/
theorem State.KeepsUnit.padBits {s u : State} (h : s.KeepsUnit u) (hmem : s.mem.wf = true) (w : Nat) {en : List Nat}
    (hen : en.Pairwise (· < ·)) (base : Nat → Int) (o val : Nat → Nat) {i : Nat} (hi : i ∈ en)
    (hlater : ∀ j ∈ en, i < j → padBit s.fk (base j) (o j) + w ≤ padBit s.fk (base i) (o i) ∨
      padBit s.fk (base i) (o i) + w ≤ padBit s.fk (base j) (o j)) :
    ((u.storeElems w (en.map (fun i => (base i, o i, val i)))).retire s.fk s.fc 1).padBits s.fk (base i) (o i) w = val i % 2 ^ w := by
  have hk : u.fk = s.fk := congrArg (·.k) h.keeps.focus
  have hread : ((u.storeElems w (en.map (fun i => (base i, o i, val i)))).retire s.fk s.fc 1).mem =
      s.mem.putAll w (en.map (fun i => (padBit s.fk (base i) (o i), val i))) := by
    refine (hk ▸ u.storeElems_mem w _ : _).trans ?_
    rw [h.keeps.mem, List.map_map]
    rfl
  rw [State.padBits_eq, hread]
  exact Mem.bits_putAll hmem w hen (fun i => padBit s.fk (base i) (o i)) val hi hlater

end Sys2Proof.Machine
end

section
/-! The vector stores (07 R148, R149): their runs. -/

namespace Sys2Proof.Machine

section
variable {f : FmtV} {s : State} (hstage : s.fcore.stageOn = true) {en : List Nat}
  (hdef : s.enabled f.g (s.opnd f.a).tag (elemCount (s.opnd f.a).tag) = en)

include hstage hdef

theorem execVst_eq (hclass : isAny (s.opnd f.a).tag = true) (hen : en ≠ []) :
    let a := s.fcore.areg (f.b.truncate 4)
    let p : Int := a.ptr.toNat
    let o := s.opnd f.a
    s.checkPorts [o.need en] = .ok () → s.checkSpans a .write (en.map (elemSpan p o.w)) = .ok () → (∀ i ∈ en, o.elBad i = false) →
    execVst f s = .next ((((s.popPorts [o.need en]).touchSpans (en.map (elemSpan p o.w))).storeElems o.w (en.map (fun i =>
      (p, i * o.w, o.el i)))).retire s.fk s.fc 1) := by
  intro a p o hports hspans hgood
  refine vector_ok hstage ?_
  have hports : s.checkPorts [(s.opnd f.a).need en] = .ok () := hports
  have hcheck : s.checkElems (s.fcore.areg (aOf6 f.b)) .write (en.map (elemSpan ((s.fcore.areg (aOf6 f.b)).ptr.toNat : Int)
    (s.opnd f.a).w)) = .ok () := hspans
  have hconsume : consumeV ((s.opnd f.a).need en) = .ok () := consumeV_ok hgood
  simp only [ofClass_ok hclass, hdef, hen, hports, hcheck, hconsume, if_false, bind, Except.bind, pure, Except.pure]
  rfl

theorem execVstx_eq (hclass : isE (s.opnd f.a).tag = true) (htag : (s.opnd f.c).tag = 6) :
    let a := s.fcore.areg (f.b.truncate 4)
    let p : Int := a.ptr.toNat
    let o := s.opnd f.a
    let x := s.opnd f.c
    let low := en.filter (fun i => decide (i < 256))
    let q := fun i => p + intOf 32 true (x.el i) * (o.w / 8 : Nat)
    low ≠ [] → s.checkPorts [o.need low, x.need low] = .ok () → s.checkSpans a .write (low.map (fun i => (q i, o.w / 8))) = .ok () →
    (∀ i ∈ low, o.elBad i = false ∧ x.elBad i = false) →
    execVstx f s = .next ((((s.popPorts [o.need low, x.need low]).touchSpans (low.map (fun i => (q i, o.w / 8)))).storeElems o.w
      (low.map (fun i => (q i, 0, o.el i)))).retire s.fk s.fc 1) := by
  intro a p o x low q hlow hports hspans hgood
  refine vector_ok hstage ?_
  have hen : en ≠ [] := fun h => hlow (by simp only [low, h, List.filter_nil])
  have hclass' : ofClass (fun t => t == 6) (s.opnd f.c) = .ok () := ofClass_ok (by rw [htag]; rfl)
  have hports : s.checkPorts [(s.opnd f.a).need (en.filter (fun i => decide (i < 256))),
    (s.opnd f.c).need (en.filter (fun i => decide (i < 256)))] = .ok () := hports
  have hcheck : s.checkElems (s.fcore.areg (aOf6 f.b)) .write ((en.filter (fun i => decide (i < 256))).map (fun i =>
    (((s.fcore.areg (aOf6 f.b)).ptr.toNat : Int) + idxOff (s.opnd f.c) (s.opnd f.a).w i, (s.opnd f.a).w / 8))) = .ok () := hspans
  have hconsume : [(s.opnd f.a).need (en.filter (fun i => decide (i < 256))),
      (s.opnd f.c).need (en.filter (fun i => decide (i < 256)))].forM consumeV = .ok () := by
    refine forM_ok (List.forall_mem_cons.2 ⟨?_, List.forall_mem_singleton.2 ?_⟩)
    · exact consumeV_ok (fun i hi => (hgood i hi).1)
    · exact consumeV_ok (fun i hi => (hgood i hi).2)
  simp only [ofClass_ok hclass, hclass', hdef, hen, hports, hcheck, hconsume, if_false, bind, Except.bind, pure, Except.pure]
  rfl

/-- The bytes of the sidecar that VSTS stores, by their offset. -/
def entryOffsets (z : Nat) (us : List Nat) : List Nat := us.flatMap (fun u => (List.range z).map (fun i => z * u + i))

theorem execVsts_eq (hX : isX (s.opnd f.a).tag = true) (hgs : (s.opnd f.a).gs < 3) :
    let a := s.fcore.areg (f.b.truncate 4)
    let p : Int := a.ptr.toNat
    let o := s.opnd f.a
    let z := entrySize o.tag
    let us := fullUnits o.tag o.gs en
    us ≠ [] → s.checkSpans a .write (us.map (fun u => (p + (z * u : Nat), z))) = .ok () →
    (∀ i ∈ unitElems o.tag o.gs us, o.elBad i = false) →
    execVsts f s = .next (((s.touchSpans (us.map (fun u => (p + (z * u : Nat), z)))).storeElems 8 ((entryOffsets z us).map (fun n =>
      (p, 8 * n, o.side n % 256)))).retire s.fk s.fc 1) := by
  intro a p o z us hus hspans hgood
  refine vector_ok hstage ?_
  have hus : fullUnits (s.opnd f.a).tag (s.opnd f.a).gs en ≠ [] := hus
  have hcheck : s.checkElems (s.fcore.areg (aOf6 f.b)) .write ((fullUnits (s.opnd f.a).tag (s.opnd f.a).gs en).map (fun u =>
    (((s.fcore.areg (aOf6 f.b)).ptr.toNat : Int) + (entrySize (s.opnd f.a).tag * u : Nat), entrySize (s.opnd f.a).tag))) = .ok () := hspans
  have hconsume : consumeV ((s.opnd f.a).need (unitElems (s.opnd f.a).tag (s.opnd f.a).gs
    (fullUnits (s.opnd f.a).tag (s.opnd f.a).gs en))) = .ok () := consumeV_ok hgood
  have hbytes : (o.entries o.tag us).flatMap (fun e => (List.range z).map (fun i => (p, 8 * (z * e.1 + i), ((e.2[i]?).getD 0).toNat))) =
      (entryOffsets z us).map (fun n => (p, 8 * n, o.side n % 256)) := by
    rw [Opnd.entries, entryOffsets, List.flatMap_map, List.map_flatMap]
    refine List.flatMap_congr (fun u _ => ?_)
    rw [List.map_map]
    refine List.map_congr_left (fun i hi => ?_)
    have hbyte : ((((List.range z).map (fun i => BitVec.ofNat 8 (o.side (u * z + i))))[i]?).getD 0).toNat = o.side (z * u + i) % 256 := by
      rw [List.getElem?_map, List.getElem?_range (List.mem_range.1 hi), Nat.mul_comm z u]
      exact BitVec.toNat_ofNat ..
    exact congrArg (fun v => (p, 8 * (z * u + i), v)) hbyte
  simp only [ofClass_ok hX, if_neg (Nat.ne_of_lt hgs), hdef, hus, hcheck, hconsume, if_false, bind, Except.bind, pure, Except.pure]
  exact congrArg (fun l => Except.ok (State.storeElems _ 8 l)) hbytes

end

/-! ## What the stores leave -/

theorem isE_bits {tag : Nat} (h : isE tag = true) : tagBits tag % 8 = 0 ∧ 0 < tagBits tag / 8 := by
  simp only [isE, Bool.and_eq_true, decide_eq_true_eq] at h
  obtain ⟨hle, hge⟩ := h
  interval_cases tag <;> decide

/-- A span that passed its check lies at no negative address. -/
theorem State.nonneg_of_checkSpans {s : State} {a : AReg} {u : Use} {l : List (Int × Nat)} (h : s.checkSpans a u l = .ok ()) {sp : Int × Nat}
    (hsp : sp ∈ l) : 0 ≤ sp.1 := by
  have hspan := forM_eq_ok_iff.1 h sp hsp
  unfold State.checkSpan at hspan
  split at hspan
  · next hok =>
    have hinside := hok.2.2.1
    simp only [AReg.inside, Bool.and_eq_true, decide_eq_true_eq] at hinside
    omega
  · exact nomatch hspan

/-- Byte i of an entry lies in the entry's span. -/
theorem entry_inside (p : Nat) {z i : Nat} (u : Nat) (hi : i < z) :
    ((p : Int) + (z * u : Nat)).toNat ≤ ((p : Int) + (8 * (z * u + i) / 8 : Nat)).toNat ∧
      ((p : Int) + (8 * (z * u + i) / 8 : Nat)).toNat + (8 * (z * u + i) % 8 + 8 + 7) / 8 ≤ ((p : Int) + (z * u : Nat)).toNat + z := by
  omega

theorem entryOffsets_rising {z : Nat} {us : List Nat} (h : us.Pairwise (· < ·)) : (entryOffsets z us).Pairwise (· < ·) := by
  refine List.pairwise_flatMap.2 ⟨fun u _ => ?_, h.imp (fun {u w} huw x hx y hy => ?_)⟩
  · exact List.pairwise_map.2 (List.pairwise_lt_range.imp (fun {a b} h => Nat.add_lt_add_left h _))
  · obtain ⟨i, hi, rfl⟩ := List.mem_map.1 hx
    obtain ⟨j, hj, rfl⟩ := List.mem_map.1 hy
    have hmul : z * (u + 1) ≤ z * w := Nat.mul_le_mul_left _ huw
    have hi := List.mem_range.1 hi
    rw [Nat.mul_succ] at hmul
    omega

/-- Settles O34: each store by its run, the bytes that its spans cover, and the bits it puts. -/
theorem vectorStores : Obligations.VectorStores := by
  unfold Obligations.VectorStores
  intro f s hstage hmem a p o w en
  have hrises : en.Pairwise (· < ·) := s.enabled_rising _ _ _
  refine ⟨?packed, ?indexed, ?sidecar⟩
  case packed =>
    intro hclass hen hports hspans hgood
    have hkeep := (State.KeepsUnit.popPorts s [o.need en]).touchSpans (en.map (elemSpan p w))
    refine ⟨_, execVst_eq hstage rfl hclass hen hports hspans hgood, hkeep.padStored hmem (fun e he => ?_), fun i hi => ?_⟩
    · obtain ⟨i, hi, rfl⟩ := List.mem_map.1 he
      refine ⟨_, List.mem_map_of_mem hi, ?_⟩
      show (p + (i * w / 8 : Nat)).toNat ≤ (p + (i * w / 8 : Nat)).toNat ∧
        (p + (i * w / 8 : Nat)).toNat + (i * w % 8 + w + 7) / 8 ≤ (p + (i * w / 8 : Nat)).toNat + ((i * w + w + 7) / 8 - i * w / 8)
      omega
    · refine hkeep.padBits hmem w hrises (fun _ => p) (fun i => i * w) o.el hi (fun j _ hij => ?_)
      have := elements_disjoint (Nat.ne_of_lt hij) w
      rw [padBit_of_nat, padBit_of_nat]
      omega
  case indexed =>
    intro x low q hclass htag hlow hports hspans hgood
    obtain ⟨hmod, -⟩ := isE_bits hclass
    have hnonneg {i : Nat} (hi : i ∈ low) : 0 ≤ q i := State.nonneg_of_checkSpans hspans (List.mem_map_of_mem hi)
    have hw : w = tagBits o.tag := rfl
    have hkeep := (State.KeepsUnit.popPorts s [o.need low, x.need low]).touchSpans (low.map (fun i => (q i, w / 8)))
    refine ⟨_, execVstx_eq hstage rfl hclass htag hlow hports hspans hgood, hkeep.padStored hmem (fun e he => ?_), fun i hi hlater => ?_⟩
    · obtain ⟨i, hi, rfl⟩ := List.mem_map.1 he
      refine ⟨_, List.mem_map_of_mem hi, ?_⟩
      show (q i).toNat ≤ (q i + (0 / 8 : Nat)).toNat ∧ (q i + (0 / 8 : Nat)).toNat + (0 % 8 + w + 7) / 8 ≤ (q i).toNat + w / 8
      omega
    · refine hkeep.padBits hmem w (hrises.filter _) q (fun _ => 0) o.el hi (fun j hj hij => ?_)
      have hj0 := hnonneg hj
      have hi0 := hnonneg hi
      have := hlater j hj hij
      unfold padBit
      omega
  case sidecar =>
    intro z us hX hgs hus hspans hgood
    have hkeep := (State.KeepsUnit.refl s).touchSpans (us.map (fun u => (p + (z * u : Nat), z)))
    refine ⟨_, execVsts_eq hstage rfl hX hgs hus hspans hgood, hkeep.padStored hmem (fun e he => ?_), fun u hu i hi => ?_⟩
    · obtain ⟨n, hn, rfl⟩ := List.mem_map.1 he
      obtain ⟨u, hu, hn⟩ := List.mem_flatMap.1 hn
      obtain ⟨i, hi, rfl⟩ := List.mem_map.1 hn
      have hi := List.mem_range.1 hi
      refine ⟨_, List.mem_map_of_mem hu, ?_⟩
      exact entry_inside a.ptr.toNat u hi
    · have hmemn : z * u + i ∈ entryOffsets z us := List.mem_flatMap.2 ⟨u, hu, List.mem_map.2 ⟨i, List.mem_range.2 hi, rfl⟩⟩
      have hread := hkeep.padBits hmem 8 (entryOffsets_rising (fullUnits_rising _ _ _)) (fun _ => p) (fun n => 8 * n) (fun n => o.side n % 256)
        hmemn (fun j _ hij => by
          rw [padBit_of_nat, padBit_of_nat]
          omega)
      refine hread.trans ?_
      rw [show (2 ^ 8 : Nat) = 256 from rfl, Nat.mod_mod, Nat.mul_comm z u]

end Sys2Proof.Machine
end

section
/-! Ports: QCFG, QLOOP, QRESET (07 R150, R151). -/

namespace Sys2Proof.Machine

/-- A port that QCFG has just bound: four levels of one step. -/
def Port.fresh (a : AReg) (tag : BitVec 5) : Port :=
  { bind := a, base := a.ptr, tag := tag, status := 1, levels := Vector.replicate 4 { count := 1 } }

section
variable {f : FmtV} {s : State} (hstage : s.fcore.stageOn = true) (hen : s.enabledBits f.g 1 ≠ [])

include hstage hen

theorem execQcfg_unbinds (hb : (f.b.truncate 4 : BitVec 4) = 0) :
    execQcfg f s = .next ((s.setPort (portOf f) {}).retire s.fk s.fc 1) := by
  refine vector_ok hstage ?_
  have hb : aOf6 f.b = 0 := hb
  simp only [if_neg hen, if_pos hb, pure, Except.pure]

theorem execQcfg_binds (hb : (f.b.truncate 4 : BitVec 4) ≠ 0) (hkind : (s.fcore.areg (f.b.truncate 4)).kind = 1)
    (hread : (s.fcore.areg (f.b.truncate 4)).canRead = true) :
    execQcfg f s = .next ((s.setPort (portOf f) (Port.fresh (s.fcore.areg (f.b.truncate 4)) (f.sub.truncate 5))).retire s.fk s.fc 1) := by
  refine vector_ok hstage ?_
  have hb : ¬ aOf6 f.b = 0 := hb
  have hok : (s.fcore.areg (aOf6 f.b)).kind = 1 ∧ (s.fcore.areg (aOf6 f.b)).canRead = true := ⟨hkind, hread⟩
  simp only [if_neg hen, if_neg hb, if_pos hok, pure, Except.pure]
  rfl

theorem execQcfg_error (hb : (f.b.truncate 4 : BitVec 4) ≠ 0)
    (hbad : ¬ ((s.fcore.areg (f.b.truncate 4)).kind = 1 ∧ (s.fcore.areg (f.b.truncate 4)).canRead = true)) :
    execQcfg f s = .next (s.stopped s.fk s.fc (.trap cBOUNDS (s.fcore.areg (f.b.truncate 4)).ptr)) := by
  refine vector_error hstage ?_
  have hb : ¬ aOf6 f.b = 0 := hb
  have hbad : ¬ ((s.fcore.areg (aOf6 f.b)).kind = 1 ∧ (s.fcore.areg (aOf6 f.b)).canRead = true) := hbad
  simp only [if_neg hen, if_neg hb, if_neg hbad]
  rfl

theorem execQloop_ok {n d : Word} (hold : (vget s.unit.ports (portOf f) {}).status ≠ 0) (hn : s.fcore.Holds (f.d.truncate 5) n false)
    (hd : s.fcore.Holds (f.c.truncate 5) d false) :
    execQloop f s = .next ((s.setPort (portOf f) { vget s.unit.ports (portOf f) {} with
      levels := vset (vget s.unit.ports (portOf f) {}).levels (f.sub.toNat % 4) { count := n.toNat % 2 ^ 32, stride := d } }.rewind).retire
        s.fk s.fc 1) := by
  refine vector_ok hstage ?_
  simp only [vx_of_holds hn, vx_of_holds hd, if_neg hen, if_neg hold, useVx, bind, Except.bind, pure, Except.pure, Bool.false_eq_true, if_false]

theorem execQloop_error {n d : Word} {pn pd : Bool} (hold : (vget s.unit.ports (portOf f) {}).status = 0)
    (hn : s.fcore.Holds (f.d.truncate 5) n pn) (hd : s.fcore.Holds (f.c.truncate 5) d pd) :
    execQloop f s = .next (s.stopped s.fk s.fc (.trap cPORT (wNat (portOf f)))) := by
  refine vector_error hstage ?_
  simp only [vx_of_holds hn, vx_of_holds hd, if_neg hen, if_pos hold, bind, Except.bind]
  rfl

theorem execQreset_ok (hold : (vget s.unit.ports (portOf f) {}).status ≠ 0) :
    execQreset f s = .next ((s.setPort (portOf f) (vget s.unit.ports (portOf f) {}).rewind).retire s.fk s.fc 1) := by
  refine vector_ok hstage ?_
  simp only [if_neg hen, if_neg hold, pure, Except.pure]

theorem execQreset_error (hold : (vget s.unit.ports (portOf f) {}).status = 0) :
    execQreset f s = .next (s.stopped s.fk s.fc (.trap cPORT (wNat (portOf f)))) := by
  refine vector_error hstage ?_
  simp only [if_neg hen, if_pos hold]
  rfl

end

/-- One port set, the instruction retired: nothing else of the unit, no memory and neither X nor A differs. -/
theorem State.setPort_retired (s : State) {q : Nat} (hq : q < 8) (p : Port) :
    let t := (s.setPort q p).retire s.fk s.fc 1
    vget t.unit.ports q {} = p ∧ (∀ j, j ≠ q → vget t.unit.ports j {} = vget s.unit.ports j {}) ∧ t.mem = s.mem ∧
      t.unit.tags = s.unit.tags ∧ t.unit.k = s.unit.k ∧ (t.core s.fk s.fc).x = s.fcore.x ∧ (t.core s.fk s.fc).a = s.fcore.a := by
  intro t
  have hunit : t.unit = { s.unit with ports := vset s.unit.ports q p } := (State.unit_retire ..).trans (State.unit_setUnit s _)
  have hregs := Core.KeepsFile.retire (s.setPort q p) s.fk s.fc 1
  have hbefore : (s.setPort q p).core s.fk s.fc = s.fcore := s.fcore_setUnit _
  rw [hbefore] at hregs
  rw [hunit]
  refine ⟨?_, fun j hj => ?_, rfl, rfl, rfl, hregs.x, hregs.a⟩
  · rw [vget_vset, if_pos ⟨rfl, hq⟩]
  · rw [vget_vset, if_neg (fun h => hj h.1.symm)]

/-- Settles O35: each instruction by its run and the one port that it sets. -/
theorem ports : Obligations.Ports := by
  unfold Obligations.Ports
  intro f s hstage hen hlow hhigh q a old set start
  have hq : q < 8 := by omega
  have hset {ins : Instr} {p : Port} (h : exec ins s = .next ((s.setPort q p).retire s.fk s.fc 1)) : set ins p :=
    ⟨_, h, s.setPort_retired hq p⟩
  refine ⟨fun hb => hset (execQcfg_unbinds hstage hen hb), fun hb hkind hread => hset (execQcfg_binds hstage hen hb hkind hread),
    fun hb hbad => execQcfg_error hstage hen hb hbad, fun n d hold _ _ hn hd => hset (execQloop_ok hstage hen hold hn hd),
    fun n d pn pd hold _ _ hn hd => execQloop_error hstage hen hold hn hd, fun hold => hset (execQreset_ok hstage hen hold),
    fun hold => execQreset_error hstage hen hold⟩

end Sys2Proof.Machine
end

section
/-! What a push does (05 R92 to R94): the entry it appends, the semaphores it enters, and what it leaves unchanged. -/

namespace Sys2Proof.Machine

/-! ## Entering the push order -/

theorem Bank.sem_vset (b : Bank) {n : Nat} (hn : n < 32) (x : Sem) (m : Nat) :
    ({ b with sems := vset b.sems n x } : Bank).sem m = if m = n then x else b.sem m := by
  rw [Bank.sem, vget_vset]
  by_cases h : m = n
  · rw [if_pos ⟨h.symm, h ▸ hn⟩, if_pos h]
  · rw [if_neg fun h' => h h'.1.symm, if_neg h]
    rfl

/-- The bank with the wait of a push joined to its semaphore (05 R93). -/
def Bank.entersWait (b : Bank) (e : EngIx) (q : Eng) (uid : Nat) : Bank :=
  if q.wsem = 0 then b else (b.subCredit q.wsem.toNat (waits q)).joinSem q.wsem.toNat ⟨.entry e uid, waits q⟩

theorem Bank.enterPush_eq (b : Bank) (e : EngIx) (q : Eng) (uid : Nat) :
    b.enterPush e q uid = if q.ssem = 0 then b.entersWait e q uid else (b.entersWait e q uid).addCredit q.ssem.toNat (signals q) := rfl

theorem Bank.entersWait_credits (b : Bank) (e : EngIx) (q : Eng) (uid : Nat) : b.Credits (b.entersWait e q uid) := by
  unfold Bank.entersWait
  split
  · exact .refl b
  · exact (Bank.Credits.subCredit b _ _).trans (Bank.Credits.vset _ _ rfl)

theorem Bank.enterPush_credits (b : Bank) (e : EngIx) (q : Eng) (uid : Nat) : b.Credits (b.enterPush e q uid) := by
  rw [Bank.enterPush_eq]
  split
  · exact b.entersWait_credits e q uid
  · exact (b.entersWait_credits e q uid).trans (Bank.Credits.addCredit _ _ _)

theorem Bank.sem_entersWait (b : Bank) (e : EngIx) (q : Eng) (uid : Nat) :
    (q.wsem ≠ 0 → (b.entersWait e q uid).sem q.wsem.toNat = { b.sem q.wsem.toNat with
      credit := (b.sem q.wsem.toNat).credit - waits q, queue := (b.sem q.wsem.toNat).queue ++ [⟨.entry e uid, waits q⟩] }) ∧
    ∀ m, m ≠ q.wsem.toNat → (b.entersWait e q uid).sem m = b.sem m := by
  have hn := q.wsem.isLt
  unfold Bank.entersWait
  constructor
  · intro h
    rw [if_neg h, Bank.joinSem, Bank.sem_vset _ hn, if_pos rfl, Bank.subCredit, Bank.sem_vset _ hn, if_pos rfl]
  · intro m hm
    split
    · rfl
    · rw [Bank.joinSem, Bank.sem_vset _ hn, if_neg hm, Bank.subCredit, Bank.sem_vset _ hn, if_neg hm]

/-- The semaphores as a push leaves them (05 R93, R94). -/
theorem Bank.sem_enterPush (b : Bank) (e : EngIx) (q : Eng) (uid : Nat) :
    (q.wsem ≠ 0 → ((b.enterPush e q uid).sem q.wsem.toNat).queue = (b.sem q.wsem.toNat).queue ++ [⟨.entry e uid, waits q⟩]) ∧
    (q.wsem ≠ 0 → q.ssem ≠ q.wsem → ((b.enterPush e q uid).sem q.wsem.toNat).credit = (b.sem q.wsem.toNat).credit - waits q) ∧
    (q.ssem ≠ 0 → q.ssem ≠ q.wsem →
      ((b.enterPush e q uid).sem q.ssem.toNat).credit = min ((b.sem q.ssem.toNat).credit + signals q) 4294967295) := by
  obtain ⟨hwait, hother⟩ := b.sem_entersWait e q uid
  have hn := q.ssem.isLt
  have hne : q.ssem ≠ q.wsem → q.ssem.toNat ≠ q.wsem.toNat := fun h h' => h (BitVec.eq_of_toNat_eq h')
  rw [Bank.enterPush_eq]
  refine ⟨fun hw => ?_, fun hw hne' => ?_, fun hs hne' => ?_⟩
  · split
    · rw [hwait hw]
    · rw [Bank.addCredit, Bank.sem_vset _ hn]
      by_cases h : q.wsem.toNat = q.ssem.toNat
      · rw [if_pos h, ← h, hwait hw]
      · rw [if_neg h, hwait hw]
  · split
    · rw [hwait hw]
    · rw [Bank.addCredit, Bank.sem_vset _ hn, if_neg (hne hne').symm, hwait hw]
  · rw [if_neg hs, Bank.addCredit, Bank.sem_vset _ hn, if_pos rfl, hother _ (hne hne')]
    rfl

/-! ## The entry and the bank after the push -/

/-- The physical register that a destination names; X0 names none. -/
def Core.destOf (r : Core) (dest : Option (BitVec 5)) : Option Nat := dest.bind (fun j => if j = 0 then none else some (r.px j.toNat))

theorem Core.destOf_lt {r : Core} {dest : Option (BitVec 5)} {i : Nat} (h : r.destOf dest = some i) : i < 32 := by
  rw [Core.destOf, Option.bind_eq_some_iff] at h
  obtain ⟨j, -, hj⟩ := h
  split at hj
  · exact absurd hj nofun
  · exact Option.some.inj hj ▸ r.px_lt j

/-- The entry that an instruction of core r pushes (05 R92; 08 R154). -/
def Core.entryFor (r : Core) (q : Eng) (op : QOp) (ws : List Word) (dest : Option (BitVec 5)) (rows : BitVec 128) (uid : Nat) : Entry :=
  { uid := uid, op := op, q := q, a := Vector.ofFn (fun i => r.areg (BitVec.ofNat 4 i.val)), xs := ws, rows := rows,
    sre := stSRE r.status, dest := r.destOf dest }

/-- The core with a register emptied for an entry. -/
def Core.emptied (r : Core) (d : Option Nat) : Core :=
  match d with
  | some i => { r with x := vset r.x i { r.xreg i with fill := .entry } }
  | none => r

theorem Core.xreg_emptied {r : Core} {d : Option Nat} (hd : ∀ i ∈ d, i < 32) (n : Nat) :
    (r.emptied d).xreg n = if d = some n then { r.xreg n with fill := .entry } else r.xreg n := by
  cases d with
  | none => rfl
  | some i =>
    rw [Core.xreg, Core.emptied, vget_vset]
    by_cases h : i = n
    · rw [if_pos ⟨h, h ▸ hd i rfl⟩, if_pos (congrArg some h), h]
    · rw [if_neg fun h' => h h'.1, if_neg fun h' => h (Option.some.inj h')]
      rfl

@[simp] theorem Core.emptied_a (r : Core) (d : Option Nat) : (r.emptied d).a = r.a := by cases d <;> rfl

/-- The bank with an entry appended to an engine of core c. -/
def Bank.pushed (b : Bank) (c : CoreIx) (e : EngIx) (ent : Entry) : Bank :=
  let b := ({ b with uid := ent.uid } : Bank).enterPush e ent.q ent.uid
  let b := b.setEngine e { b.engine e with entries := (b.engine e).entries ++ [ent] }
  b.setCore c ((b.core c).emptied ent.dest)

theorem Bank.Credits.engine {b b' : Bank} (h : b.Credits b') (e : EngIx) : b'.engine e = b.engine e := by
  obtain ⟨⟨x, rfl⟩, -⟩ := h
  cases e <;> rfl

theorem Bank.Credits.core {b b' : Bank} (h : b.Credits b') (c : CoreIx) : b'.core c = b.core c := by
  obtain ⟨⟨x, rfl⟩, -⟩ := h
  cases c <;> rfl

theorem Bank.Credits.chans {b b' : Bank} (h : b.Credits b') : b'.chans = b.chans := by
  obtain ⟨⟨x, rfl⟩, -⟩ := h
  rfl

theorem Bank.Credits.mx {b b' : Bank} (h : b.Credits b') : b'.mx = b.mx := by
  obtain ⟨⟨x, rfl⟩, -⟩ := h
  rfl

@[simp] theorem Bank.setCore_chans (b : Bank) (c : CoreIx) (r : Core) : (b.setCore c r).chans = b.chans := by cases c <;> rfl
@[simp] theorem Bank.setEngine_chans (b : Bank) (e : EngIx) (q : Engine) : (b.setEngine e q).chans = b.chans := by cases e <;> rfl
@[simp] theorem Bank.setEngine_mx (b : Bank) (e : EngIx) (q : Engine) : (b.setEngine e q).mx = b.mx := by cases e <;> rfl

theorem Bank.setCore_core (b : Bank) (c : CoreIx) : b.setCore c (b.core c) = b := by cases c <;> rfl

theorem Bank.with_uid_engine (b : Bank) (n : Nat) (e : EngIx) : ({ b with uid := n } : Bank).engine e = b.engine e := by cases e <;> rfl
theorem Bank.with_uid_core (b : Bank) (n : Nat) (c : CoreIx) : ({ b with uid := n } : Bank).core c = b.core c := by cases c <;> rfl

theorem Bank.pushed_entries (b : Bank) (c : CoreIx) (e : EngIx) (ent : Entry) :
    ((b.pushed c e ent).engine e).entries = (b.engine e).entries ++ [ent] := by
  unfold Bank.pushed
  rw [Bank.setCore_engine, Bank.engine_setEngine_same, (Bank.enterPush_credits _ _ _ _).engine, Bank.with_uid_engine]

theorem Bank.pushed_sem (b : Bank) (c : CoreIx) (e : EngIx) (ent : Entry) (n : Nat) :
    (b.pushed c e ent).sem n = (({ b with uid := ent.uid } : Bank).enterPush e ent.q ent.uid).sem n := by
  unfold Bank.pushed
  rw [Bank.setCore_sem, Bank.setEngine_sem]

theorem Bank.pushed_core (b : Bank) (c : CoreIx) (e : EngIx) (ent : Entry) :
    (b.pushed c e ent).core c = (b.core c).emptied ent.dest := by
  unfold Bank.pushed
  rw [Bank.core_setCore_same, Bank.setEngine_core, (Bank.enterPush_credits _ _ _ _).core, Bank.with_uid_core]

theorem Bank.pushed_chans (b : Bank) (c : CoreIx) (e : EngIx) (ent : Entry) : (b.pushed c e ent).chans = b.chans := by
  unfold Bank.pushed
  rw [Bank.setCore_chans, Bank.setEngine_chans, (Bank.enterPush_credits _ _ _ _).chans]

theorem Bank.pushed_mx (b : Bank) (c : CoreIx) (e : EngIx) (ent : Entry) : (b.pushed c e ent).mx = b.mx := by
  unfold Bank.pushed
  rw [Bank.setCore_mx, Bank.setEngine_mx, (Bank.enterPush_credits _ _ _ _).mx]

/-! ## A push that nothing holds up -/

section
variable {r : Core} {xs : List (BitVec 5)} {ws : List Word}

theorem mapM_readX (h : List.Forall₂ (fun j w => r.Holds j w false) xs ws) :
    xs.mapM (fun j => r.readX j false) = .ok (ws.map (·, false)) := by
  induction h with
  | nil => rfl
  | cons hj _ ih => rw [List.mapM_cons, ih, Core.readX_of_holds hj]; rfl

theorem mapM_consume (xs : List (BitVec 5)) (ws : List Word) (h : xs.length = ws.length) :
    (xs.zip (ws.map (·, false))).mapM (fun p => consume p.1 p.2) = .ok ws := by
  induction xs generalizing ws with
  | nil => rw [List.length_eq_zero_iff.mp h.symm]; rfl
  | cons j xs ih =>
    cases ws with
    | nil => exact absurd h (Nat.succ_ne_zero _)
    | cons w ws => rw [List.map_cons, List.zip_cons_cons, List.mapM_cons, ih ws (Nat.succ.inj h)]; rfl

end

/-- A push whose sources stand full, with room, credit and a running queue, appends its entry (05 R92 to R94). -/
theorem State.pushTo_eq {s : State} {e : EngIx} {q : Eng} {xs : List (BitVec 5)} {ws : List Word} {dest : Option (BitVec 5)} {park : Bool}
    (hxs : List.Forall₂ (fun j w => s.fcore.Holds j w false) xs ws) (hd : ∀ j ∈ dest, s.fcore.Ready j)
    (hstop : ((s.bank s.fk).engine e).stop = none) (hlen : ((s.bank s.fk).engine e).entries.length < 16)
    (hpark : park = true → (s.bank s.fk).spec = false)
    (hcredit : q.wsem ≠ 0 → q.wcnt.toNat + 1 ≤ ((s.bank s.fk).sem q.wsem.toNat).credit)
    (op : QOp) (rows : BitVec 128) (act : List Word → State → State) :
    s.pushTo e q op xs dest rows park act = .ok ((act ws s).setBank (act ws s).fk
      (((act ws s).bank (act ws s).fk).pushed (act ws s).fc e
        (s.fcore.entryFor q op ws dest rows (((act ws s).bank (act ws s).fk).uid + 1)))) := by
  have hparked : (park && (s.bank s.fk).spec) = false := by
    cases park with
    | false => rfl
    | true => exact hpark rfl
  have hforward : ¬ (q.wsem ≠ 0 ∧ ((s.bank s.fk).sem q.wsem.toNat).credit < waits q) :=
    fun h => absurd (hcredit h.1) (Nat.not_le.mpr h.2)
  have hsources := mapM_consume xs ws hxs.length_eq
  cases dest with
  | none =>
    simp only [State.pushTo, mapM_readX hxs, hsources, bind, Except.bind, hstop, hparked, hforward, Nat.not_le.mpr hlen, if_false, pure,
      Except.pure, Bool.false_eq_true]
    exact congrArg (fun b => Except.ok ((act ws s).setBank (act ws s).fk b)) (Bank.setCore_core _ _).symm
  | some j =>
    by_cases hj : j = 0
    · simp only [State.pushTo, mapM_readX hxs, hsources, bind, Except.bind, hstop, hparked, hforward, Nat.not_le.mpr hlen, if_false, pure,
        Except.pure, Bool.false_eq_true, hj, if_true]
      exact congrArg (fun b => Except.ok ((act ws s).setBank (act ws s).fk b)) (Bank.setCore_core _ _).symm
    · have hfill := (hd j rfl).resolve_left hj
      have hentry : s.fcore.destOf (some j) = some (s.fcore.px j.toNat) := if_neg hj
      simp only [State.pushTo, mapM_readX hxs, hsources, bind, Except.bind, hstop, hparked, hforward, Nat.not_le.mpr hlen, if_false, pure,
        Except.pure, Bool.false_eq_true, hj, Core.xreg]
      obtain h | h := hfill
      · rw [h, Core.entryFor, hentry]; rfl
      · rw [h, Core.entryFor, hentry]; rfl

end Sys2Proof.Machine

end

section
/-! What the instructions of the engines push (05 R92 to R94; 08 R154 to R187; 11 R215 to R241). -/

namespace Sys2Proof.Machine

/-- What the action of a push leaves as it is. -/
structure State.Acts (s u : State) (e : EngIx) : Prop where
  focus : u.focus = s.focus
  x : (u.core s.fk s.fc).x = s.fcore.x
  a : (u.core s.fk s.fc).a = s.fcore.a
  sems : (u.bank s.fk).sems = (s.bank s.fk).sems
  entries : ((u.bank s.fk).engine e).entries = ((s.bank s.fk).engine e).entries
  uid : (u.bank s.fk).uid = (s.bank s.fk).uid
  mem : u.mem = s.mem
  hbm : u.hbm = s.hbm
  hostMem : u.hostMem = s.hostMem
  bufs : u.bufs = s.bufs

theorem State.Acts.refl (s : State) (e : EngIx) : s.Acts s e :=
  ⟨rfl, congrArg Core.x (State.fcore_eq_core rfl).symm, congrArg Core.a (State.fcore_eq_core rfl).symm, rfl, rfl, rfl, rfl, rfl, rfl, rfl⟩

theorem State.retire_bank (s : State) (k : Nat) (c : CoreIx) (len : Nat) :
    (s.retire k c len).bank k = (s.bank k).setCore c { (s.core k c).advance len with run := .running } := by
  rw [State.retire, State.modCore, State.bank_setCore_same]

/-- An instruction whose body is a push does what Pushes states, where its action leaves registers, semaphores, queue and memory. -/
theorem pushes_of {s : State} {i : Instr} {e : EngIx} {q : Eng} {op : QOp} {xs : List (BitVec 5)} {dest : Option (BitVec 5)}
    {rows : BitVec 128} {park : Bool} {act : List Word → State → State} {more : List Word → State → Prop}
    (hexec : exec i s = .next (s.finish 2 (s.pushTo e q op xs dest rows park act))) (hact : ∀ ws, s.Acts (act ws s) e)
    (hmore : ∀ ws t, (t.bank s.fk).mx = ((act ws s).bank s.fk).mx → more ws t) :
    Pushes s i e q op xs dest rows park more := by
  intro ws hxs hd b r hstop hlen hpark hcredit
  obtain ⟨hfocus, hx, ha, hsems, hentries, huid, hmem, hhbm, hhost, hbufs⟩ := hact ws
  have hfk : (act ws s).fk = s.fk := congrArg CoreRef.k hfocus
  have hfc : (act ws s).fc = s.fc := congrArg CoreRef.c hfocus
  rw [State.pushTo_eq hxs hd hstop hlen hpark hcredit, State.finish_ok, hfk, hfc, huid] at hexec
  obtain ⟨ent, hent⟩ : ∃ ent, ent = s.fcore.entryFor q op ws dest rows ((s.bank s.fk).uid + 1) := ⟨_, rfl⟩
  rw [← hent] at hexec
  obtain ⟨b₁, hb₁⟩ : ∃ b₁, b₁ = ((act ws s).bank s.fk).pushed s.fc e ent := ⟨_, rfl⟩
  rw [← hb₁] at hexec
  obtain ⟨t, ht⟩ : ∃ t, t = ((act ws s).setBank s.fk b₁).retire s.fk s.fc 2 := ⟨_, rfl⟩
  have hcore₁ : ((act ws s).setBank s.fk b₁).core s.fk s.fc = b₁.core s.fc := congrArg (·.core s.fc) (State.bank_setBank_same _ _ _)
  have hbank : t.bank s.fk = b₁.setCore s.fc { (b₁.core s.fc).advance 2 with run := .running } := by
    rw [ht, State.retire_bank, State.bank_setBank_same, hcore₁]
  have hcore : t.core s.fk s.fc = { (b₁.core s.fc).advance 2 with run := .running } := by
    rw [State.core, hbank, Bank.core_setCore_same]
  have hemptied : b₁.core s.fc = (((act ws s).core s.fk s.fc)).emptied ent.dest := hb₁ ▸ Bank.pushed_core _ _ _ _
  have hxreg : ∀ n, ((act ws s).core s.fk s.fc).xreg n = s.fcore.xreg n := fun n => congrArg (vget · n ({} : XReg)) hx
  have hsem : ∀ n, (t.bank s.fk).sem n = (({ (act ws s).bank s.fk with uid := ent.uid } : Bank).enterPush e ent.q ent.uid).sem n := by
    intro n
    rw [hbank, Bank.setCore_sem, hb₁, Bank.pushed_sem]
  have hold : ∀ n, ({ (act ws s).bank s.fk with uid := ent.uid } : Bank).sem n = (s.bank s.fk).sem n := fun n => congrArg (vget · n ({} : Sem)) hsems
  obtain ⟨hqueue, hwcredit, hscredit⟩ := Bank.sem_enterPush ({ (act ws s).bank s.fk with uid := ent.uid } : Bank) e ent.q ent.uid
  have hq : ent.q = q := by rw [hent]; rfl
  have hu : ent.uid = (s.bank s.fk).uid + 1 := by rw [hent]; rfl
  simp only [← hsem, hold] at hqueue hwcredit hscredit
  rw [hq] at hqueue hwcredit hscredit
  rw [hu] at hqueue
  refine ⟨t, ht ▸ hexec, ?_, fun n => ?_, hqueue, hwcredit, hscredit, fun n => ?_, ?_, ?_, ?_, ?_, ?_, hmore ws t ?_⟩
  · rw [hbank, Bank.setCore_engine, hb₁, Bank.pushed_entries, hentries, hent]; rfl
  · rw [hsem, (Bank.enterPush_credits _ _ _ _).2, hold]
  · have h : (t.core s.fk s.fc).xreg n = (b₁.core s.fc).xreg n := by rw [hcore, Core.xreg, Core.advance_x]; rfl
    rw [h, hemptied, Core.xreg_emptied (fun i hi => Core.destOf_lt (dest := dest) (r := s.fcore) (by rw [hent] at hi; exact hi)), hxreg, hent]
    rfl
  · rw [hcore]
    show ((b₁.core s.fc).advance 2).a = _
    rw [Core.advance_a, hemptied, Core.emptied_a, ha]
  · rw [ht]; exact hmem
  · rw [ht]; exact hhbm
  · rw [ht]; exact hhost
  · rw [ht]; exact hbufs
  · rw [hbank, Bank.setCore_mx, hb₁, Bank.pushed_mx]

/-- A matrix instruction whose push does nothing more. -/
theorem matrix_pushes {s : State} (hstage : s.fcore.stageOn = true) {i : Instr} {g : Guard} {q : Eng} {xs : List (BitVec 5)}
    {dest : Option (BitVec 5)} (hexec : exec i s = matrix s g q i xs dest noAct) :
    Pushes s i .primary q (.prim i) xs dest (s.rowMask g) false noMore :=
  pushes_of (hexec.trans (by rw [matrix, if_pos hstage])) (fun _ => .refl s _) fun _ _ _ => trivial

/-- A sparse or sort instruction. -/
theorem primary_pushes {s : State} {g : Guard} (he : s.Enabled g) {i : Instr} {q : Eng} {xs : List (BitVec 5)} {dest : Option (BitVec 5)}
    (hexec : exec i s = primary s g q i xs dest) : Pushes s i .primary q (.prim i) xs dest 0 false noMore :=
  pushes_of (act := noAct) (hexec.trans (guarded_enabled he rfl)) (fun _ => .refl s _) fun _ _ _ => trivial

/-- A transfer instruction whose push does nothing more. -/
theorem transfer_pushes {s : State} {g : Guard} (he : s.Enabled g) {i : Instr} {q : Eng} {op : XOp} {xs : List (BitVec 5)}
    {dest : Option (BitVec 5)} {park : Bool} (hexec : exec i s = transfer s g q op xs dest park noAct) :
    Pushes s i .transfer q (.xfer op) xs dest 0 park noMore :=
  pushes_of (hexec.trans (guarded_enabled he rfl)) (fun _ => .refl s _) fun _ _ _ => trivial

/-! ## MCFG (08 R175) -/

theorem getLsbD_foldl_or {n : Nat} (p : Nat → Bool) (f : Nat → BitVec n) (l : List Nat) (acc : BitVec n) (i : Nat) :
    (l.foldl (fun acc k => if p k then acc ||| f k else acc) acc).getLsbD i = (acc.getLsbD i || l.any (fun k => p k && (f k).getLsbD i)) := by
  induction l generalizing acc with
  | nil => simp
  | cons k l ih =>
    rw [List.foldl_cons, ih, List.any_cons]
    cases p k <;> simp [Bool.or_assoc]

theorem getLsbD_lutBits {n : Nat} (tt : BitVec 8) (a b c : BitVec n) {i : Nat} (hi : i < n) :
    (lutBits tt a b c).getLsbD i = ttAt tt (a.getLsbD i) (b.getLsbD i) (c.getLsbD i) := by
  have hpick : ∀ (p : Bool) (x : BitVec n), (if p then x else ~~~x).getLsbD i = (p == x.getLsbD i) := by
    intro p x
    cases p <;> simp [hi]
  have h8 : List.range 8 = [0, 1, 2, 3, 4, 5, 6, 7] := by decide
  rw [lutBits, getLsbD_foldl_or (fun k => tt.getLsbD k)]
  simp only [BitVec.getLsbD_and, hpick, h8, ttAt]
  cases a.getLsbD i <;> cases b.getLsbD i <;> cases c.getLsbD i <;> simp [bitOf]

/-- The bank with a row mask changed where a guard enables it. -/
def Bank.rowMasked (b : Bank) (p : Nat) (en new : BitVec 128) : Bank :=
  { b with mx := { b.mx with k := vset b.mx.k p ((vget b.mx.k p 0 &&& ~~~en) ||| (new &&& en)) } }

theorem State.setRowMask_eq (s : State) (g : Guard) {kd : BitVec 4} (hkd : kd ≠ 0) (only new : BitVec 128) :
    s.setRowMask g kd only new = (s.modBank s.fk (·.rowMasked (s.fcore.kp kd.toNat) (s.rowMask g &&& only) new)).setCore s.fk s.fc
      { s.fcore with livek := setBit s.fcore.livek (s.fcore.kp kd.toNat) true } := by
  have hcore : (s.modBank s.fk (·.rowMasked (s.fcore.kp kd.toNat) (s.rowMask g &&& only) new)).fcore = s.fcore :=
    s.fcore_modBank fun _ c => by cases c <;> rfl
  rw [State.setRowMask, if_neg hkd]
  exact congrArg (fun r : Core => (s.modBank s.fk (·.rowMasked (s.fcore.kp kd.toNat) (s.rowMask g &&& only) new)).setCore s.fk s.fc
    { r with livek := setBit r.livek (s.fcore.kp kd.toNat) true }) hcore

theorem State.Acts.setRowMask (s : State) (g : Guard) (kd : BitVec 4) (only new : BitVec 128) :
    s.Acts (s.setRowMask g kd only new) .primary := by
  by_cases hkd : kd = 0
  · rw [State.setRowMask, if_pos hkd]
    exact .refl s _
  · rw [s.setRowMask_eq g hkd]
    refine ⟨rfl, ?_, ?_, ?_, ?_, ?_, rfl, rfl, rfl, rfl⟩
    · rw [State.core_setCore_same]
    · rw [State.core_setCore_same]
    all_goals rw [State.bank_setCore_same, State.bank_modBank, if_pos rfl]
    · cases s.fc <;> rfl
    · rw [Bank.setCore_engine]; rfl
    · cases s.fc <;> rfl

theorem State.setRowMask_k (s : State) (g : Guard) (kd : BitVec 4) (only new : BitVec 128) :
    (kd ≠ 0 → ∀ n, n < 128 → (vget ((s.setRowMask g kd only new).bank s.fk).mx.k (s.fcore.kp kd.toNat) 0).getLsbD n =
      if (s.rowMask g).getLsbD n && only.getLsbD n then new.getLsbD n else (s.rowK kd.toNat).getLsbD n) ∧
    ∀ j, j ≠ s.fcore.kp kd.toNat → vget ((s.setRowMask g kd only new).bank s.fk).mx.k j 0 = vget (s.bank s.fk).mx.k j 0 := by
  have hk : kd ≠ 0 → ((s.setRowMask g kd only new).bank s.fk).mx.k =
      vset (s.bank s.fk).mx.k (s.fcore.kp kd.toNat) ((vget (s.bank s.fk).mx.k (s.fcore.kp kd.toNat) 0 &&& ~~~(s.rowMask g &&& only)) |||
        (new &&& (s.rowMask g &&& only))) := by
    intro hkd
    rw [s.setRowMask_eq g hkd, State.bank_setCore_same, State.bank_modBank, if_pos rfl, Bank.setCore_mx]
    rfl
  refine ⟨fun hkd n hn => ?_, fun j hj => ?_⟩
  · have hold : s.rowK kd.toNat = vget (s.bank s.fk).mx.k (s.fcore.kp kd.toNat) 0 := if_neg fun h => hkd (BitVec.eq_of_toNat_eq h)
    rw [hk hkd, vget_vset, if_pos ⟨rfl, s.fcore.kp_lt kd.isLt⟩, hold]
    simp only [BitVec.getLsbD_or, BitVec.getLsbD_and, BitVec.getLsbD_not, decide_eq_true hn, Bool.true_and]
    cases (s.rowMask g).getLsbD n <;> cases only.getLsbD n <;> simp
  · by_cases hkd : kd = 0
    · rw [State.setRowMask, if_pos hkd]
    · rw [hk hkd, vget_vset, if_neg fun h => hj h.1.symm]

/-- A matrix instruction that changes a row mask at its push. -/
theorem mask_pushes {s : State} (hstage : s.fcore.stageOn = true) {i : Instr} {g : Guard} {q : Eng} {kd : BitVec 4} {xs : List (BitVec 5)}
    {act : List Word → State → State} (hexec : exec i s = matrix s g q i xs none act) {only : BitVec 128} {new : List Word → BitVec 128}
    (hact : ∀ ws, act ws s = s.setRowMask g kd only (new ws)) {only' : Nat → Bool}
    {new' : List Word → Nat → Bool} (honly : ∀ n, n < 128 → only.getLsbD n = only' n)
    (hnew : ∀ ws n, n < 128 → only' n = true → (new ws).getLsbD n = new' ws n) :
    Pushes s i .primary q (.prim i) xs none (s.rowMask g) false (fun ws t =>
      (kd ≠ 0 → ∀ n, n < 128 → (vget (t.bank s.fk).mx.k (s.fcore.kp kd.toNat) 0).getLsbD n =
        if (s.rowMask g).getLsbD n && only' n then new' ws n else (s.rowK kd.toNat).getLsbD n) ∧
      (∀ j, j ≠ s.fcore.kp kd.toNat → vget (t.bank s.fk).mx.k j 0 = vget (s.bank s.fk).mx.k j 0)) := by
  refine pushes_of (hexec.trans (by rw [matrix, if_pos hstage])) (fun ws => by rw [hact]; exact .setRowMask s g kd only (new ws)) fun ws t ht => ?_
  obtain ⟨hbits, hothers⟩ := s.setRowMask_k g kd only (new ws)
  rw [ht, hact]
  refine ⟨fun hkd n hn => ?_, hothers⟩
  rw [hbits hkd n hn, honly n hn]
  cases hb : only' n with
  | false => simp
  | true => rw [hnew ws n hn hb]

theorem getLsbD_lowMask {w n : Nat} (hn : n < 128) : (BitVec.ofNat 128 (2 ^ min w 128 - 1)).getLsbD n = decide (n < w) := by
  rw [BitVec.getLsbD_ofNat, Nat.testBit_two_pow_sub_one, decide_eq_true hn, Bool.true_and]
  exact decide_eq_decide.mpr (by omega)

/-- One half of a row mask, and a word put there. -/
theorem getLsbD_half {h : Bool} {n : Nat} (hn : n < 128) :
    (BitVec.ofNat 128 ((2 ^ 64 - 1) * 2 ^ (if h then 64 else 0))).getLsbD n = decide (n / 64 = h.toNat) ∧
    ∀ w : Word, n / 64 = h.toNat → (BitVec.ofNat 128 (w.toNat * 2 ^ (if h then 64 else 0))).getLsbD n = w.getLsbD (n % 64) := by
  have hbits : ∀ x : Nat, (BitVec.ofNat 128 (x * 2 ^ (if h then 64 else 0))).getLsbD n =
      (decide (n ≥ (if h then 64 else 0)) && x.testBit (n - (if h then 64 else 0))) := by
    intro x
    rw [BitVec.getLsbD_ofNat, Nat.testBit_mul_two_pow, decide_eq_true hn, Bool.true_and]
  refine ⟨?_, fun w hw => ?_⟩
  · rw [hbits, Nat.testBit_two_pow_sub_one, ← Bool.decide_and]
    refine decide_eq_decide.mpr ?_
    cases h with
    | false => simp
    | true => simp; omega
  · rw [hbits, BitVec.getLsbD]
    cases h with
    | false =>
      have : n % 64 = n := by simp at hw; omega
      simp [this]
    | true =>
      have : n % 64 = n - 64 ∧ 64 ≤ n := by simp at hw; omega
      simp [this.1, this.2]

theorem maskPushes {s : State} (hstage : s.fcore.stageOn = true) (g : Guard) (q : Eng) (kd ka kb kc : BitVec 4) (xs : BitVec 5) (h : Bool) (tt : BitVec 8) :
      let mask := fun (i : Instr) (x : List (BitVec 5)) (only : Nat → Bool) (new : List Word → Nat → Bool) =>
        Pushes s i .primary q (.prim i) x none (s.rowMask g) false (fun ws t =>
          (kd ≠ 0 → ∀ n, n < 128 → (vget (t.bank s.fk).mx.k (s.fcore.kp kd.toNat) 0).getLsbD n =
            if (s.rowMask g).getLsbD n && only n then new ws n else (s.rowK kd.toNat).getLsbD n) ∧
          (∀ j, j ≠ s.fcore.kp kd.toNat → vget (t.bank s.fk).mx.k j 0 = vget (s.bank s.fk).mx.k j 0))
      mask (.mcfgKset g q kd xs) [xs] (fun _ => true) (fun ws n => decide (n < ((ws.head?).getD 0).toNat)) ∧
      mask (.mcfgKput g q kd xs h) [xs] (fun n => decide (n / 64 = h.toNat)) (fun ws n => ((ws.head?).getD 0).getLsbD (n % 64)) ∧
      mask (.mcfgKlut g q kd ka kb kc tt) [] (fun _ => true)
        (fun _ n => ttAt tt ((s.rowK ka.toNat).getLsbD n) ((s.rowK kb.toNat).getLsbD n) ((s.rowK kc.toNat).getLsbD n)) := by
  intro mask
  refine ⟨?_, ?_, ?_⟩
  · exact mask_pushes hstage rfl (only := BitVec.allOnes 128) (new := fun ws => BitVec.ofNat 128 (2 ^ min ((ws.head?).getD 0).toNat 128 - 1)) (fun _ => rfl)
      (only' := fun _ => true) (fun n hn => BitVec.getLsbD_allOnes.trans (decide_eq_true hn)) fun ws n hn _ => getLsbD_lowMask hn
  · exact mask_pushes hstage rfl (only := BitVec.ofNat 128 ((2 ^ 64 - 1) * 2 ^ (if h then 64 else 0)))
      (new := fun ws => BitVec.ofNat 128 (((ws.head?).getD 0).toNat * 2 ^ (if h then 64 else 0))) (fun _ => rfl)
      (fun n hn => (getLsbD_half hn).1) fun ws n hn hhalf => (getLsbD_half hn).2 _ (of_decide_eq_true hhalf)
  · exact mask_pushes hstage rfl (only := BitVec.allOnes 128) (new := fun _ => lutBits tt (s.rowK ka.toNat) (s.rowK kb.toNat) (s.rowK kc.toNat)) (fun _ => rfl)
      (only' := fun _ => true) (fun n hn => BitVec.getLsbD_allOnes.trans (decide_eq_true hn)) fun ws n hn _ => getLsbD_lutBits tt _ _ _ hn

theorem matrixPushes : MatrixPushes := by
  intro s hstage push
  refine ⟨fun f => ⟨?_, ?_, ?_, ?_, ?_, ?_, ?_, ?_⟩, fun g q td ts fn ad as am tag rm gs op sg sh v row cnt len count =>
    ⟨?_, ?_, ?_, ?_, ?_, ?_, ?_, ?_, ?_, ?_, ?_, ?_, ?_, ?_, ?_, ?_, ?_⟩, fun g q td lo hi sh => matrix_pushes hstage rfl,
    fun g q xd sel => matrix_pushes hstage rfl, ?_⟩
  case refine_26 =>
    exact fun g q kd ka kb kc xs h tt => maskPushes hstage g q kd ka kb kc xs h tt
  all_goals exact matrix_pushes hstage rfl

theorem sparseSortPushes : SparseSortPushes := by
  intro s push
  refine ⟨fun f i hi he => ?_, fun f i hi he => ?_, fun g q item sel x he =>
    ⟨primary_pushes he rfl, primary_pushes he rfl, primary_pushes he rfl, primary_pushes he rfl⟩⟩
  all_goals
    simp only [List.mem_cons, List.not_mem_nil, or_false] at hi
    rcases hi with rfl | rfl | rfl | rfl | rfl | rfl | rfl | rfl | rfl | rfl | rfl | rfl | rfl | rfl | rfl | rfl
  all_goals exact primary_pushes he rfl

end Sys2Proof.Machine

end

section
/-! Pushes to the transfer engine (11 R215, R226, R242): the table of copies and atomics, the channel reads, and XABORT. -/

namespace Sys2Proof.Machine

theorem copy_pushes (s : State) : ∀ p ∈ copyTable, ∀ f : FmtX, s.Enabled f.g →
    Pushes s (p.1 f) .transfer f.q (.xfer (.copy p.2.1 f)) (p.2.2.1 f) (p.2.2.2.1 f) 0 (p.2.2.2.2 f (s.fcore.areg f.ad)) noMore := by
  intro p hp f he
  unfold copyTable at hp
  simp only [List.mem_cons, List.not_mem_nil, or_false] at hp
  obtain rfl | rfl | rfl | rfl | rfl | rfl | rfl | rfl | rfl | rfl | rfl := hp
  all_goals exact transfer_pushes he rfl

theorem amo_pushes (s : State) : ∀ p ∈ amoTable, ∀ f : FmtA, s.Enabled f.g →
    Pushes s (p.1 f) .transfer f.q (.xfer (.amo p.2 f)) [f.xs] (some f.xd) 0 true noMore := by
  intro p hp f he
  unfold amoTable at hp
  simp only [List.mem_cons, List.not_mem_nil, or_false] at hp
  obtain rfl | rfl | rfl | rfl | rfl | rfl := hp
  all_goals exact transfer_pushes he rfl

/-- Settles O36: each instruction is one push, by `matrix_pushes`, `mask_pushes` and `primary_pushes`. -/
theorem enginePushes : Obligations.EnginePushes := ⟨matrixPushes, sparseSortPushes⟩

/-! ## A push without operands -/

section
variable {s : State} {q : Eng}

/-- The state after the push of an entry without operands to the transfer engine. -/
def State.idlePushed (s u : State) (q : Eng) : State :=
  u.setBank u.fk ((u.bank u.fk).pushed u.fc .transfer (s.fcore.entryFor q (.xfer .idle) [] none 0 ((u.bank u.fk).uid + 1)))

theorem State.pushTo_idle (hstop : (s.bank s.fk).xfer.stop = none) (hlen : (s.bank s.fk).xfer.entries.length < 16)
    (hcredit : q.wsem ≠ 0 → q.wcnt.toNat + 1 ≤ ((s.bank s.fk).sem q.wsem.toNat).credit) (act : List Word → State → State) :
    s.pushTo .transfer q (.xfer .idle) [] none 0 false act = .ok (s.idlePushed (act [] s) q) :=
  State.pushTo_eq (dest := none) (e := .transfer) .nil (fun j hj => absurd hj (Option.not_mem_none j)) hstop hlen
    (fun h => absurd h Bool.false_ne_true) hcredit _ _ act

theorem State.bank_idlePushed {s u : State} (hu : u.focus = s.focus) :
    (s.idlePushed u q).bank s.fk = (u.bank s.fk).pushed s.fc .transfer
      (s.fcore.entryFor q (.xfer .idle) [] none 0 ((u.bank s.fk).uid + 1)) := by
  have hfk : u.fk = s.fk := congrArg CoreRef.k hu
  have hfc : u.fc = s.fc := congrArg CoreRef.c hu
  rw [State.idlePushed, hfk, hfc, State.bank_setBank_same]

theorem State.fcore_idlePushed (s : State) (q : Eng) : (s.idlePushed s q).fcore = s.fcore := by
  rw [State.fcore_eq_core (s := s) (t := s.idlePushed s q) rfl, State.core, State.bank_idlePushed (u := s) rfl, Bank.pushed_core]
  exact (State.fcore_eq_core rfl).symm

end

/-- XWPTR and XPEND put their word on its way to the register at their push (11 R215). -/
theorem atPush_shows {s : State} {g : Guard} {q : Eng} {x : BitVec 5} {i : Instr} {v : State → Word} (hexec : exec i s = atPush s g q x v)
    (he : s.Enabled g) (hx : x ≠ 0) (hr : s.fcore.Ready x) (hstop : (s.bank s.fk).xfer.stop = none)
    (hlen : (s.bank s.fk).xfer.entries.length < 16)
    (hcredit : q.wsem ≠ 0 → q.wcnt.toNat + 1 ≤ ((s.bank s.fk).sem q.wsem.toNat).credit) :
    ∃ t, exec i s = .next t ∧ t.mem = s.mem ∧ (t.bank s.fk).xfer.entries.length = (s.bank s.fk).xfer.entries.length + 1 ∧
      (t.core s.fk s.fc).results = s.fcore.results ++ [⟨s.fcore.px x.toNat, v s, false⟩] ∧
      ((t.core s.fk s.fc).xreg (s.fcore.px x.toNat)).fill = .load := by
  have hbody : (do
      let _ ← s.fcore.lateX x 0 false
      let t ← s.pushTo .transfer q (.xfer .idle) [] none 0 false noAct
      let r ← t.fcore.lateX x (v s) false
      pure (t.putCore r)) = .ok ((s.idlePushed s q).putCore (s.fcore.awaits (s.fcore.px x.toNat) (v s) false)) := by
    rw [Core.lateX_of_ready hx hr, State.pushTo_idle hstop hlen hcredit]
    show (do
      let r ← (s.idlePushed s q).fcore.lateX x (v s) false
      pure ((s.idlePushed s q).putCore r)) = _
    rw [State.fcore_idlePushed, Core.lateX_of_ready hx hr]
    rfl
  have hcore : ((((s.idlePushed s q).putCore (s.fcore.awaits (s.fcore.px x.toNat) (v s) false)).retire s.fk s.fc 2).core s.fk s.fc) =
      { (s.fcore.awaits (s.fcore.px x.toNat) (v s) false).advance 2 with run := .running } := by
    show (((s.idlePushed s q).setCore s.fk s.fc _).retire s.fk s.fc 2).core s.fk s.fc = _
    rw [State.retire_setCore, State.core_setCore_same]
  refine ⟨_, hexec.trans (guarded_ok he hbody), rfl, ?_, ?_, ?_⟩
  · have hbank : ((((s.idlePushed s q).putCore (s.fcore.awaits (s.fcore.px x.toNat) (v s) false)).retire s.fk s.fc 2).bank s.fk).engine .transfer =
        ((s.idlePushed s q).bank s.fk).engine .transfer := by
      show ((((s.idlePushed s q).setCore s.fk s.fc _).retire s.fk s.fc 2).bank s.fk).engine .transfer = _
      rw [State.retire_setCore, State.bank_setCore_same, Bank.setCore_engine]
    have hent := congrArg (fun e : Engine => e.entries.length) hbank
    rw [State.bank_idlePushed rfl, Bank.pushed_entries, List.length_append] at hent
    exact hent
  · rw [hcore]
    exact Core.advance_results _ 2
  · rw [hcore, Core.xreg, Core.advance_x]
    show ((s.fcore.awaits _ _ false).xreg _).fill = _
    rw [Core.xreg_awaits _ (s.fcore.px_lt x)]

/-! ## XABORT -/

/-- An engine's entries after XABORT of channel c: those of the channel write nothing more. -/
def Entry.aborted (c : Nat) (e : Entry) : Entry :=
  let mine := match e.op with | .xfer (.copy opc f) => opc == 0x182 && f.ch.toNat == c | _ => false
  if !mine then e else if e.idle then { e with op := .xfer .idle } else { e with stage := .finished, need := .none, moves := [] }

/-- The bank after XABORT of channel c. -/
def Bank.aborted (b : Bank) (c : Nat) : Bank :=
  ({ b with xfer := { b.xfer with entries := b.xfer.entries.map (Entry.aborted c) } } : Bank).setChan c (fun x => { x with st := .aborted })

/-- A write on its way that belongs to another channel, or to none. -/
def Posted.beside (c : Nat) (p : Posted) : Bool := match p.chan with | some h => h.c != c | none => true

theorem State.abortChan_eq (s : State) (k c : Nat) :
    s.abortChan k c = (s.modBank k (·.aborted c)).modCell k (fun x => { x with posted := x.posted.filter (Posted.beside c) }) := rfl

theorem State.abortChan_bank (s : State) (k c : Nat) : (s.abortChan k c).bank k = (s.bank k).aborted c := by
  rw [State.abortChan_eq, State.bank, State.cell_modCell, if_pos rfl]
  exact State.bank_modBank s k k (·.aborted c) |>.trans (if_pos rfl)

theorem Bank.chan_aborted (b : Bank) {c : Nat} (hc : c < 16) (j : Nat) :
    vget (b.aborted c).chans j {} = if j = c then { vget b.chans c {} with st := .aborted } else vget b.chans j {} := by
  rw [Bank.aborted, Bank.setChan, vget_vset]
  by_cases h : j = c
  · rw [if_pos ⟨h.symm, h ▸ hc⟩, if_pos h]
  · rw [if_neg fun h' => h h'.1.symm, if_neg h]

theorem State.abortChan_posted (s : State) (k c : Nat) : ∀ p ∈ ((s.abortChan k c).cell k).posted, ∀ h ∈ p.chan, h.c ≠ c := by
  intro p hp h hh
  rw [State.abortChan_eq, State.cell_modCell, if_pos rfl] at hp
  have hbeside : Posted.beside c p = true := (List.mem_filter.mp hp).2
  rw [Posted.beside, Option.mem_def.mp hh] at hbeside
  exact bne_iff_ne.mp hbeside

theorem State.setBank_posted (s : State) (k : Nat) (b : Bank) : ((s.setBank k b).cell k).posted = (s.cell k).posted := by
  rw [State.setBank, State.cell_modCell, if_pos rfl]

theorem State.retire_posted (s : State) (k : Nat) (c : CoreIx) (len : Nat) : ((s.retire k c len).cell k).posted = (s.cell k).posted :=
  State.setBank_posted s k _

theorem xabort_shows {s : State} {g : Guard} {q : Eng} (c : BitVec 4) (he : s.Enabled g) (hstop : (s.bank s.fk).xfer.stop = none)
    (hlen : (s.bank s.fk).xfer.entries.length < 16)
    (hcredit : q.wsem ≠ 0 → q.wcnt.toNat + 1 ≤ ((s.bank s.fk).sem q.wsem.toNat).credit) :
    ∃ t, exec (.xabort g q c) s = .next t ∧ (vget (t.bank s.fk).chans c.toNat {}).st = .aborted ∧
      (∀ p ∈ (t.cell s.fk).posted, ∀ h ∈ p.chan, h.c ≠ c.toNat) ∧ t.mem = s.mem ∧
      (∀ j, j ≠ c.toNat → vget (t.bank s.fk).chans j {} = vget (s.bank s.fk).chans j {}) := by
  have hfocus : (s.abortChan s.fk c.toNat).focus = s.focus := rfl
  have hfk : (s.abortChan s.fk c.toNat).fk = s.fk := rfl
  have hchans : ((((s.idlePushed (s.abortChan s.fk c.toNat) q)).retire s.fk s.fc 2).bank s.fk).chans =
      ((s.bank s.fk).aborted c.toNat).chans := by
    rw [State.retire_bank, Bank.setCore_chans, State.bank_idlePushed hfocus, Bank.pushed_chans, State.abortChan_bank]
  have hexec : exec (.xabort g q c) s = guarded 2 g s (fun s => s.pushTo .transfer q (.xfer .idle) [] none 0 false
    (fun _ s => s.abortChan s.fk c.toNat)) := rfl
  refine ⟨_, hexec.trans (guarded_ok he (State.pushTo_idle hstop hlen hcredit _)), ?_, ?_, rfl, fun j hj => ?_⟩
  · rw [hchans, Bank.chan_aborted _ c.isLt, if_pos rfl]
  · rw [State.retire_posted, State.idlePushed, hfk, State.setBank_posted]
    exact s.abortChan_posted s.fk c.toNat
  · rw [hchans, Bank.chan_aborted _ c.isLt, if_neg hj]

/-- Settles O37: each instruction is one push, by `transfer_pushes`; the channel reads and XABORT by their own lemmas. -/
theorem transferPushes : Obligations.TransferPushes := by
  intro s
  refine ⟨copy_pushes s, amo_pushes s, fun f he => transfer_pushes he rfl, fun g q n c ar ad sc gr he => ?_, fun g q x y a c rights n he => ?_,
    ?_, ?_⟩
  · exact ⟨transfer_pushes he rfl, transfer_pushes he rfl, transfer_pushes he rfl, transfer_pushes he rfl, transfer_pushes he rfl,
      transfer_pushes he rfl, transfer_pushes he rfl⟩
  · exact ⟨transfer_pushes he rfl, transfer_pushes he rfl, transfer_pushes he rfl, transfer_pushes he rfl, transfer_pushes he rfl,
      transfer_pushes he rfl, transfer_pushes he rfl, transfer_pushes he rfl, transfer_pushes he rfl⟩
  · intro g q x c he hx hr b hstop hlen hcredit p hp
    simp only [List.mem_cons, List.not_mem_nil, or_false] at hp
    obtain rfl | rfl := hp
    · exact atPush_shows (i := .xwptr g q x c) (q := q) (v := fun s => if (vget (s.bank s.fk).chans c.toNat {}).st = .open_
        then wNat (vget (s.bank s.fk).chans c.toNat {}).wp else BitVec.allOnes 64) rfl he hx hr hstop hlen hcredit
    · exact atPush_shows (i := .xpend g q x) (q := q) (v := fun s => wNat (s.bank s.fk).pb) rfl he hx hr hstop hlen hcredit
  · intro g q c he b hstop hlen hcredit
    exact xabort_shows c he hstop hlen hcredit

end Sys2Proof.Machine

end

section
/-! What ends a core's wait (02 R15; 04 R76, R77, R79, R83, R85; 05 R92). -/

namespace Sys2Proof.Machine

/-! ## Grants -/

theorem Bank.sem_setSem (b : Bank) {n : Nat} (hn : n < 32) (x : Sem) (m : Nat) :
    (b.setSem n x).sem m = if m = n then x else b.sem m := by
  rw [← b.sem_vset hn, Bank.setSem]
  split <;> rfl

theorem Bank.mutex_setMutex (b : Bank) {n : Nat} (hn : n < 16) (x : Mutex) (m : Nat) :
    (b.setMutex n x).mutex m = if m = n then x else b.mutex m := by
  show vget (vset b.mutexes n x) m {} = _
  rw [vget_vset]
  by_cases h : m = n
  · rw [if_pos ⟨h.symm, h ▸ hn⟩, if_pos h]
  · rw [if_neg fun h' => h h'.1.symm, if_neg h]
    rfl

@[simp] theorem Bank.setSem_core (b : Bank) (n : Nat) (x : Sem) (c : CoreIx) : (b.setSem n x).core c = b.core c := by
  rw [Bank.setSem]
  split <;> cases c <;> rfl

@[simp] theorem Bank.setMutex_core (b : Bank) (n : Nat) (x : Mutex) (c : CoreIx) : (b.setMutex n x).core c = b.core c := by cases c <;> rfl
@[simp] theorem Bank.setCore_mutex (b : Bank) (c : CoreIx) (r : Core) (m : Nat) : (b.setCore c r).mutex m = b.mutex m := by cases c <;> rfl

/-- The grant of a wait to the core at the head of a semaphore's waiters. -/
theorem State.grantSem_core {s : State} {k n cnt : Nat} {c : CoreIx} {rest : List Waiter}
    (hq : ((s.bank k).sem n).queue = ⟨.core c, cnt⟩ :: rest) (hcnt : cnt ≤ ((s.bank k).sem n).val)
    (hrun : (s.core k c).run = .blocked (.sem n cnt)) :
    s.grantSem k n = some ((s.setBank k ((s.bank k).setSem n
      { (s.bank k).sem n with val := ((s.bank k).sem n).val - cnt, queue := rest })).retire k c 1) := by
  unfold State.grantSem
  dsimp only
  rw [hq]
  dsimp only
  rw [if_neg (Nat.not_lt.mpr hcnt), if_pos (show ((s.bank k).core c).run = _ from hrun)]

/-- A core of a bank that is put into a cell, and retires there. -/
theorem State.retire_setBank (s : State) (k : Nat) (b : Bank) (c : CoreIx) (len : Nat) :
    (s.setBank k b).retire k c len = s.setBank k (b.setCore c { (b.core c).advance len with run := .running }) := by
  rw [State.retire, State.modCore, State.setCore, State.core, State.bank_setBank_same, State.setBank_setBank]

/-- The grant of a free mutex to the core that has waited longest. -/
theorem State.grantMutex_core {s : State} {k m : Nat} {c : CoreIx} {rest : List CoreIx} (ho : ((s.bank k).mutex m).owner = none)
    (hq : ((s.bank k).mutex m).queue = c :: rest) (hrun : (s.core k c).run = .blocked (.mutex m)) :
    s.grantMutex k m = some ((s.setBank k ((s.bank k).setMutex m { owner := some c, queue := rest })).retire k c 1) := by
  unfold State.grantMutex
  dsimp only
  rw [ho, hq]
  exact if_pos hrun

/-- The core after one of its results has arrived. -/
def Core.landed (r : Core) (i : Nat) (x : Result) : Core :=
  ({ r with results := r.results.eraseIdx i } : Core).putX x.xd x.val x.poison

theorem execLongLatencyResult_eq {s : State} {k : Nat} {c : CoreIx} {i : Nat} {x : Result} (hx : (s.core k c).results[i]? = some x) :
    exec (.longLatencyResult k c i) s = .next (s.setCore k c ((s.core k c).landed i x)) := by
  show execLongLatencyResult k c i s = _
  unfold execLongLatencyResult State.modCore
  dsimp only
  rw [hx]
  rfl

theorem longLatencyResult_shows {s : State} {k : Nat} {c : CoreIx} {i : Nat} {x : Result} (hx : (s.core k c).results[i]? = some x)
    (hxd : x.xd < 32) :
    ∃ t, exec (.longLatencyResult k c i) s = .next t ∧ (t.core k c).xreg x.xd = ⟨x.val, x.poison, .full⟩ ∧
      (∀ j, j ≠ x.xd → (t.core k c).xreg j = (s.core k c).xreg j) ∧ (t.core k c).results = (s.core k c).results.eraseIdx i ∧
      (t.core k c).pc = (s.core k c).pc ∧ t = s.setCore k c (t.core k c) := by
  refine ⟨_, execLongLatencyResult_eq hx, ?_⟩
  rw [State.core_setCore_same]
  refine ⟨?_, fun j hj => ?_, rfl, rfl, rfl⟩
  · rw [Core.landed, Core.xreg_putX, if_pos ⟨rfl, hxd⟩]
  · rw [Core.landed, Core.xreg_putX, if_neg fun h => hj h.1.symm]
    rfl

theorem semGrant_shows {s : State} {k n cnt : Nat} {c : CoreIx} {rest : List Waiter} (hn : n < 32)
    (hq : ((s.bank k).sem n).queue = ⟨.core c, cnt⟩ :: rest) (hcnt : cnt ≤ ((s.bank k).sem n).val)
    (hrun : (s.core k c).run = .blocked (.sem n cnt)) :
    ∃ t, exec (.semGrant k n) s = .next t ∧ ((t.bank k).sem n).val = ((s.bank k).sem n).val - cnt ∧ ((t.bank k).sem n).queue = rest ∧
      (∀ m, m ≠ n → (t.bank k).sem m = (s.bank k).sem m) ∧ t.core k c = { (s.core k c).advance 1 with run := .running } ∧
      t = s.setBank k (t.bank k) := by
  have hexec : exec (.semGrant k n) s = .next ((s.grantSem k n).getD s) := by
    show execSemGrant k n s = _
    unfold execSemGrant
    rw [hq]
  rw [State.grantSem_core hq hcnt hrun, Option.getD_some, State.retire_setBank] at hexec
  refine ⟨_, hexec, ?_⟩
  rw [State.core, State.bank_setBank_same, Bank.core_setCore_same, Bank.setSem_core]
  refine ⟨?_, ?_, fun m hm => ?_, rfl, rfl⟩
  · rw [Bank.setCore_sem, Bank.sem_setSem _ hn, if_pos rfl]
  · rw [Bank.setCore_sem, Bank.sem_setSem _ hn, if_pos rfl]
  · rw [Bank.setCore_sem, Bank.sem_setSem _ hn, if_neg hm]

theorem mutexGrant_shows {s : State} {k m : Nat} {c : CoreIx} {rest : List CoreIx} (hm : m < 16) (ho : ((s.bank k).mutex m).owner = none)
    (hq : ((s.bank k).mutex m).queue = c :: rest) (hrun : (s.core k c).run = .blocked (.mutex m)) :
    ∃ t, exec (.mutexGrant k m) s = .next t ∧ (t.bank k).mutex m = ⟨some c, rest⟩ ∧
      (∀ j, j ≠ m → (t.bank k).mutex j = (s.bank k).mutex j) ∧ t.core k c = { (s.core k c).advance 1 with run := .running } ∧
      t = s.setBank k (t.bank k) := by
  have hexec : exec (.mutexGrant k m) s = .next ((s.grantMutex k m).getD s) := rfl
  rw [State.grantMutex_core ho hq hrun, Option.getD_some, State.retire_setBank] at hexec
  refine ⟨_, hexec, ?_⟩
  rw [State.core, State.bank_setBank_same, Bank.core_setCore_same, Bank.setMutex_core]
  refine ⟨?_, fun j hj => ?_, rfl, rfl⟩
  · rw [Bank.setCore_mutex, Bank.mutex_setMutex _ hm, if_pos rfl]
  · rw [Bank.setCore_mutex, Bank.mutex_setMutex _ hm, if_neg hj]

/-- A WAITWP ends as its write pointer comes far enough, or with the channel. -/
theorem waitwpRelease_shows {s : State} {k ch : Nat} {c : CoreIx} {n : Word} (hrun : (s.core k c).run = .blocked (.wp ch n)) :
    (n.toNat ≤ (vget (s.bank k).chans ch {}).wp → exec (.waitwpRelease k c) s = .next (s.retire k c 1)) ∧
    ((vget (s.bank k).chans ch {}).st ≠ .open_ → (vget (s.bank k).chans ch {}).wp < n.toNat →
      exec (.waitwpRelease k c) s = .next (s.takeTrap k c cCHANNEL (wNat ch))) := by
  have hexec : exec (.waitwpRelease k c) s = execWaitwpRelease k c s := rfl
  have hgrant : s.grantWp k c = if n.toNat ≤ (vget (s.bank k).chans ch {}).wp then some (s.retire k c 1) else none := by
    rw [State.grantWp, hrun]
  rw [hexec, execWaitwpRelease, hgrant]
  refine ⟨fun hwp => by rw [if_pos hwp], fun hst hwp => ?_⟩
  rw [if_neg (Nat.not_le.mpr hwp)]
  dsimp only
  rw [State.endWp, hrun]
  exact congrArg Host.Outcome.next (if_pos hst)

theorem engineRelease_shows {s : State} {k : Nat} {c : CoreIx} {e : EngIx} (he : engineOf (s.cls k) k c = some e) :
    ((s.core k c).run = .blocked .drain → ((s.bank k).engine e).entries = [] → ((s.bank k).engine e).stop = none →
      exec (.eqdrainRelease k c) s = .next (s.retire k c 1)) ∧
    ((s.core k c).run = .blocked .push → ((s.bank k).engine e).entries.length < 16 →
      exec (.queuePushResume k c) s = .next (s.setCore k c { s.core k c with run := .running })) := by
  refine ⟨fun hrun hes hstop => ?_, fun hrun hlen => ?_⟩
  · show execEqdrainRelease k c s = _
    rw [execEqdrainRelease, hrun, he]
    exact congrArg Host.Outcome.next (if_pos ⟨hes, hstop⟩)
  · show execQueuePushResume k c s = _
    rw [execQueuePushResume, hrun, he]
    exact congrArg Host.Outcome.next (if_pos hlen)

theorem pauseEnd_shows {s : State} {k since changes fills : Nat} {c : CoreIx} (hrun : (s.core k c).run = .blocked (.pause since changes fills)) :
    ((s.bank k).changes ≠ changes ∨ (s.core k c).fills ≠ fills → exec (.pauseWake k c) s = .next (s.retire k c 1)) ∧
    (since + 1024 ≤ (s.cell k).cycle → exec (.pauseTimeout k c) s = .next (s.retire k c 1)) := by
  refine ⟨fun hch => ?_, fun htime => ?_⟩
  · show execPauseWake k c s = _
    rw [execPauseWake, hrun]
    exact congrArg Host.Outcome.next (if_pos hch)
  · show execPauseTimeout k c s = _
    rw [execPauseTimeout, hrun]
    exact congrArg Host.Outcome.next (if_pos htime)

/-- Settles O41: each release by the state that it grants. -/
theorem coreWakeups : Obligations.CoreWakeups := by
  intro s k c b r
  exact ⟨fun i x hx hxd => longLatencyResult_shows hx hxd, fun n cnt rest hn hq hcnt hrun => semGrant_shows hn hq hcnt hrun,
    fun m rest hm ho hq hrun => mutexGrant_shows hm ho hq hrun, fun ch n hrun => waitwpRelease_shows hrun, fun e he => engineRelease_shows he,
    fun since changes fills hrun => pauseEnd_shows hrun⟩

end Sys2Proof.Machine

end

section
/-! Grants that are due on a cell, and the stop of a queue (04 R76, R80, R86; 05 R93, R95; 15 R290). -/

namespace Sys2Proof.Machine

/-- A state that differs in the bank of cell k alone, whose task is the same. -/
def State.InBank (k : Nat) (s t : State) : Prop := (t = s ∨ ∃ b, t = s.setBank k b) ∧ (t.bank k).task = (s.bank k).task

namespace State.InBank

theorem refl (k : Nat) (s : State) : InBank k s s := ⟨.inl rfl, rfl⟩

theorem trans {k : Nat} {s t u : State} (h : InBank k s t) (h' : InBank k t u) : InBank k s u := by
  obtain ⟨rfl | ⟨b, rfl⟩, htask⟩ := h
  · exact h'
  · obtain ⟨rfl | ⟨b', rfl⟩, htask'⟩ := h'
    · exact ⟨.inr ⟨b, rfl⟩, htask⟩
    · exact ⟨.inr ⟨b', s.setBank_setBank k b b'⟩, htask'.trans htask⟩

theorem setBank (s : State) (k : Nat) {b : Bank} (h : b.task = (s.bank k).task) : InBank k s (s.setBank k b) :=
  ⟨.inr ⟨b, rfl⟩, by rw [State.bank_setBank_same]; exact h⟩

theorem modBank (s : State) (k : Nat) {f : Bank → Bank} (h : ∀ b, (f b).task = b.task) : InBank k s (s.modBank k f) := setBank s k (h _)

theorem setCore (s : State) (k : Nat) (c : CoreIx) (r : Core) : InBank k s (s.setCore k c r) := setBank s k (Bank.setCore_task _ _ _)

theorem bank_other {k j : Nat} {s t : State} (h : InBank k s t) (hj : j ≠ k) : t.bank j = s.bank j := by
  obtain ⟨rfl | ⟨b, rfl⟩, -⟩ := h
  · rfl
  · rw [State.bank_setBank, if_neg hj]

theorem spec {k : Nat} {s t : State} (h : InBank k s t) : (t.bank k).spec = (s.bank k).spec := by rw [Bank.spec, h.2]; rfl

theorem cell_other {k j : Nat} {s t : State} (h : InBank k s t) (hj : j ≠ k) : t.cell j = s.cell j := by
  obtain ⟨rfl | ⟨b, rfl⟩, -⟩ := h
  · rfl
  · rw [State.setBank, State.cell_modCell, if_neg hj]

theorem cell_same {k : Nat} {s t : State} (h : InBank k s t) : t.cell k = { s.cell k with b := t.bank k } := by
  obtain ⟨rfl | ⟨b, rfl⟩, -⟩ := h
  · rfl
  · rw [State.bank_setBank_same, State.setBank, State.cell_modCell, if_pos rfl]

/-- Everything but the cells is the same. -/
theorem frame {k : Nat} {s t : State} (h : InBank k s t) : ∃ cells, t = { s with cells := cells } := by
  obtain ⟨rfl | ⟨b, rfl⟩, -⟩ := h
  · exact ⟨t.cells, rfl⟩
  · exact ⟨_, rfl⟩

end State.InBank

/-! ## Grants -/

/-- What the grants of cell k change: nothing but its bank, there no running core, nor a semaphore if nothing waits at one. -/
structure State.Granted (k : Nat) (s t : State) : Prop where
  inBank : s.InBank k t
  core : ∀ c, (s.core k c).run = .running → t.core k c = s.core k c
  sem : (∀ m, ((s.bank k).sem m).queue = []) → ∀ m, (t.bank k).sem m = (s.bank k).sem m

namespace State.Granted

theorem refl (k : Nat) (s : State) : Granted k s s := ⟨.refl k s, fun _ _ => rfl, fun _ _ => rfl⟩

theorem trans {k : Nat} {s t u : State} (h : Granted k s t) (h' : Granted k t u) : Granted k s u := by
  refine ⟨h.inBank.trans h'.inBank, fun c hc => ?_, fun hq m => ?_⟩
  · exact (h'.core c (by rw [h.core c hc]; exact hc)).trans (h.core c hc)
  · exact (h'.sem (fun m => by rw [h.sem hq m]; exact hq m) m).trans (h.sem hq m)

/-- A blocked core retires, in a bank whose task and cores are those of the cell. -/
theorem retire (s : State) (k : Nat) {b : Bank} {c : CoreIx} (hc : (s.core k c).run ≠ .running) (hcore : ∀ d, b.core d = (s.bank k).core d)
    (htask : b.task = (s.bank k).task) (hsem : (∀ m, ((s.bank k).sem m).queue = []) → ∀ m, b.sem m = (s.bank k).sem m) (len : Nat) :
    Granted k s ((s.setBank k b).retire k c len) := by
  rw [State.retire_setBank]
  refine ⟨.setBank s k ((Bank.setCore_task _ _ _).trans htask), fun d hd => ?_, fun hq m => ?_⟩
  · have hne : d ≠ c := fun h => hc (h ▸ hd)
    rw [State.core, State.bank_setBank_same, Bank.core_setCore, if_neg hne]
    exact hcore d
  · rw [State.bank_setBank_same, Bank.setCore_sem]
    exact hsem hq m

end State.Granted

@[simp] theorem Bank.setSem_task (b : Bank) (n : Nat) (x : Sem) : (b.setSem n x).task = b.task := by
  rw [Bank.setSem]
  split <;> rfl

@[simp] theorem Bank.putEntry_core (b : Bank) (e : EngIx) (ent : Entry) (c : CoreIx) : (b.putEntry e ent).core c = b.core c :=
  Bank.setEngine_core _ _ _ _

@[simp] theorem Bank.setEngine_task (b : Bank) (e : EngIx) (q : Engine) : (b.setEngine e q).task = b.task := by cases e <;> rfl

@[simp] theorem Bank.putEntry_task (b : Bank) (e : EngIx) (ent : Entry) : (b.putEntry e ent).task = b.task := Bank.setEngine_task _ _ _

theorem State.grantSem_granted {s t : State} {k n : Nat} (h : s.grantSem k n = some t) : s.Granted k t := by
  unfold State.grantSem at h
  dsimp only at h
  split at h
  · exact absurd h nofun
  · next w rest hq =>
    have hne : ¬ ∀ m, ((s.bank k).sem m).queue = [] := fun hall => List.cons_ne_nil w rest (hq.symm.trans (hall n))
    split at h
    · exact absurd h nofun
    · split at h
      · next c hw =>
        split at h
        · next hrun =>
          obtain rfl := Option.some.inj h
          exact .retire s k (c := c) (fun hr => absurd (hrun.symm.trans hr) nofun) (Bank.setSem_core _ _ _) (Bank.setSem_task _ _ _)
            (fun hall => absurd hall hne) 1
        · exact absurd h nofun
      · next e uid hw =>
        split at h
        · next ent hent =>
          split at h
          · obtain rfl := Option.some.inj h
            refine ⟨.setBank s k ((Bank.putEntry_task _ _ _).trans (Bank.setSem_task _ _ _)), fun c hc => ?_, fun hall => absurd hall hne⟩
            rw [State.core, State.bank_setBank_same, Bank.putEntry_core, Bank.setSem_core]
            rfl
          · exact absurd h nofun
        · exact absurd h nofun

theorem State.grantMutex_granted {s t : State} {k m : Nat} (h : s.grantMutex k m = some t) : s.Granted k t := by
  unfold State.grantMutex at h
  dsimp only at h
  split at h
  · next c rest ho hq =>
    split at h
    · next hrun =>
      obtain rfl := Option.some.inj h
      exact .retire s k (c := c) (fun hr => absurd (hrun.symm.trans hr) nofun) (Bank.setMutex_core _ _ _) rfl (fun _ _ => rfl) 1
    · exact absurd h nofun
  · exact absurd h nofun

theorem State.grantWp_granted {s t : State} {k : Nat} {c : CoreIx} (h : s.grantWp k c = some t) : s.Granted k t := by
  unfold State.grantWp at h
  split at h
  · next ch n hrun =>
    dsimp only at h
    split at h
    · obtain rfl := Option.some.inj h
      have hblocked : (s.core k c).run ≠ .running := fun hr => absurd (hrun.symm.trans hr) nofun
      refine ⟨.setCore s k c _, fun d hd => ?_, fun _ m => ?_⟩
      · rw [State.core, State.retire_bank, Bank.core_setCore, if_neg fun h' : d = c => hblocked (h' ▸ hd)]
        rfl
      · rw [State.retire_bank, Bank.setCore_sem]
    · exact absurd h nofun
  · exact absurd h nofun

theorem State.grantNext_granted {s t : State} {k : Nat} (h : s.grantNext k = some t) : s.Granted k t := by
  rw [State.grantNext, Option.or_eq_some_iff, Option.or_eq_some_iff] at h
  obtain h | ⟨-, h | ⟨-, h⟩⟩ := h
  · obtain ⟨n, -, hn⟩ := List.exists_of_findSome?_eq_some h
    exact State.grantSem_granted hn
  · obtain ⟨m, -, hm⟩ := List.exists_of_findSome?_eq_some h
    exact State.grantMutex_granted hm
  · obtain ⟨c, -, hc⟩ := List.exists_of_findSome?_eq_some h
    exact State.grantWp_granted hc

theorem State.grantsUpTo_granted (n : Nat) (s : State) (k : Nat) : s.Granted k (State.grantsUpTo n s k) := by
  induction n generalizing s with
  | zero => exact .refl k s
  | succ n ih =>
    rw [State.grantsUpTo]
    split
    · next t ht => exact (State.grantNext_granted ht).trans (ih t)
    · exact .refl k s

theorem State.grants_granted (s : State) (k : Nat) : s.Granted k (s.grants k) := State.grantsUpTo_granted _ s k

/-! ## Traps of a core that is no firmware -/

@[simp] theorem Bank.applyReseeds_task (b : Bank) : b.applyReseeds.task = b.task := by
  unfold Bank.applyReseeds
  dsimp only
  split <;> rfl

theorem Bank.dropEntries_task (b : Bank) (e : EngIx) (es : List Entry) : (b.dropEntries e es).task = b.task := by
  obtain ⟨⟨x, hx⟩, -⟩ := b.dropEntries_credits e es
  unfold Bank.dropEntries
  dsimp only at hx ⊢
  rw [hx, Bank.applyReseeds_task, Bank.setCore_task, Bank.setEngine_task]

theorem Bank.clearStop_task (b : Bank) (e : EngIx) : (b.clearStop e).task = b.task := by
  rw [Bank.clearStop_eq, Bank.setEngine_task, Bank.dropEntries_task]

theorem Bank.clearedFor_task (b : Bank) (cls k : Nat) (c : CoreIx) (cause : Nat) : (b.clearedFor cls k c cause).task = b.task := by
  unfold Bank.clearedFor
  split
  · cases engineOf cls k c with
    | none => rfl
    | some e => exact b.clearStop_task e
  · rfl

theorem State.endTask_inBank {s : State} {k : Nat} (hspec : (s.bank k).spec = false) (c : CoreIx) (cause : Nat) (tval epc : Word) (eng : Nat) :
    s.InBank k (s.endTask k c cause tval epc eng) := by
  unfold State.endTask
  dsimp only
  split
  · exact .refl k s
  · next t ht =>
    have hno : t.spec = false := by rw [Bank.spec, ht] at hspec; exact hspec
    rw [if_neg (by rw [hno]; exact Bool.false_ne_true)]
    split
    · exact .refl k s
    · exact .setBank s k (Bank.stopCores_shows _).1

/-- A trap of a core that is no firmware, in a task that no speculative run holds, changes that cell's bank alone. -/
theorem State.takeTrap_inBank {s : State} {k : Nat} {c : CoreIx} (hpriv : isPriv k c = false) (hspec : (s.bank k).spec = false) (cause : Nat)
    (tval : Word) : s.InBank k (s.takeTrap k c cause tval) := by
  have hun : s.InBank k (s.setBank k ((s.bank k).unqueued c)) := .setBank s k ((s.bank k).unqueued_shows c).2.2.2.2.1
  have hend := fun cs tv epc eng => hun.trans (State.endTask_inBank (hun.spec.trans hspec) c cs tv epc eng)
  have henter : ∀ h, s.InBank k (((s.setBank k ((s.bank k).unqueued c)).clearFor k c cause).modCore k c (fun r => r.enter cause tval h)) := by
    intro h
    rw [State.enter_cleared]
    refine .setBank s k ?_
    rw [Bank.entered]
    exact (Bank.setCore_task _ _ _).trans ((Bank.clearedFor_task _ _ _ _ _).trans ((s.bank k).unqueued_shows c).2.2.2.2.1)
  unfold State.takeTrap
  split
  · exact (InBank.modBank s k fun b => b.leave_task c).trans (.setCore _ k c _)
  · rw [State.deliver_eq]
    dsimp only
    rw [hpriv, if_neg Bool.false_ne_true]
    generalize (if cause = cENGINE then tval.toNat else 0) = eng
    split
    · exact hend _ _ _ _
    · split
      · exact hend _ _ _ _
      · split
        · exact hend _ _ _ _
        · split
          · exact hend _ _ _ _
          · exact henter _

/-! ## Stopping a queue -/

/-- What happens on other cells than k: nothing but in the cells, there nothing in cell k, and no speculative run begins or ends. -/
structure State.Beside (k : Nat) (s t : State) : Prop where
  frame : ∃ cells, t = { s with cells := cells }
  cell : t.cell k = s.cell k
  spec : ∀ j, (t.bank j).spec = (s.bank j).spec

namespace State.Beside

theorem refl (k : Nat) (s : State) : Beside k s s := ⟨⟨s.cells, rfl⟩, rfl, fun _ => rfl⟩

theorem trans {k : Nat} {s t u : State} (h : Beside k s t) (h' : Beside k t u) : Beside k s u := by
  obtain ⟨c, rfl⟩ := h.frame
  obtain ⟨c', rfl⟩ := h'.frame
  exact ⟨⟨c', rfl⟩, h'.cell.trans h.cell, fun j => (h'.spec j).trans (h.spec j)⟩

theorem of_inBank {k j : Nat} {s t : State} (h : s.InBank j t) (hj : j ≠ k) : Beside k s t := by
  refine ⟨h.frame, h.cell_other hj.symm, fun i => ?_⟩
  by_cases hi : i = j
  · rw [hi]; exact h.spec
  · rw [h.bank_other hi]

end State.Beside

/-- The bank of cell k with a queue stopped: no core is hit. -/
def Bank.stopWith (b : Bank) (e : EngIx) (cause : Nat) (culprit : Option Nat) : Bank :=
  (b.setEngine e { b.engine e with stop := some cause, culprit := culprit }).setCore (ownerOf e)
    ((b.core (ownerOf e)).release ((b.engine e).entries.filter (fun x => x.idle || some x.uid == culprit)))

@[simp] theorem Bank.stopWith_task (b : Bank) (e : EngIx) (cause : Nat) (culprit : Option Nat) : (b.stopWith e cause culprit).task = b.task :=
  (Bank.setCore_task _ _ _).trans (Bank.setEngine_task _ _ _)

/-- Does a stop of a queue trap its owner: is it blocked on what the stop ends (04 R80)? -/
def Bank.stopHits (b : Bank) (e : EngIx) : Bool :=
  match (b.core (ownerOf e)).run with
  | .blocked (.sem _ _) => true
  | .blocked (.wp _ _) => true
  | .blocked .drain => true
  | .blocked (.xreg i) => (b.engine e).entries.any (fun x => x.dest == some i)
  | _ => false

theorem State.stopOne_eq {s : State} {k : Nat} (hspec : (s.bank k).spec = false) (e : EngIx) (cause : Nat) (culprit : Option Nat) :
    s.stopOne k e cause culprit =
      if ((s.grants k).bank k).stopHits e then
        ((s.grants k).setBank k (((s.grants k).bank k).stopWith e cause culprit)).takeTrap k (ownerOf e) cENGINE (wNat cause)
      else (s.grants k).setBank k (((s.grants k).bank k).stopWith e cause culprit) := by
  unfold State.stopOne
  rw [if_neg (by rw [hspec]; exact Bool.false_ne_true)]
  rfl

theorem State.stopOne_inBank {s : State} {k : Nat} (hsvc : isService k = false) (hspec : (s.bank k).spec = false) (e : EngIx) (cause : Nat)
    (culprit : Option Nat) : s.InBank k (s.stopOne k e cause culprit) := by
  have hstop : s.InBank k ((s.grants k).setBank k (((s.grants k).bank k).stopWith e cause culprit)) :=
    (s.grants_granted k).inBank.trans (.setBank _ k (Bank.stopWith_task _ _ _ _))
  have hpriv : isPriv k (ownerOf e) = false := by rw [isPriv, hsvc, Bool.false_and]
  rw [State.stopOne_eq hspec]
  split
  · exact hstop.trans (State.takeTrap_inBank hpriv (hstop.spec.trans hspec) _ _)
  · exact hstop

/-- A stop of a queue whose owner runs traps no core. -/
theorem State.stopOne_of_running {s : State} {k : Nat} {e : EngIx} (hspec : (s.bank k).spec = false)
    (hrun : (s.core k (ownerOf e)).run = .running) (cause : Nat) (culprit : Option Nat) :
    s.stopOne k e cause culprit = (s.grants k).setBank k (((s.grants k).bank k).stopWith e cause culprit) := by
  have hcore : ((s.grants k).bank k).core (ownerOf e) = s.core k (ownerOf e) := (s.grants_granted k).core _ hrun
  have hhit : ((s.grants k).bank k).stopHits e = false := by rw [Bank.stopHits, hcore, hrun]
  rw [State.stopOne_eq hspec, hhit, if_neg Bool.false_ne_true]

theorem Bank.giveBack_task (b : Bank) : b.giveBack.task = b.task := rfl

/-- What a stop does to the other ranks of the group. -/
theorem State.stopQueue_beside {s : State} {k : Nat} {e : EngIx} (hspec : (s.bank k).spec = false) (cause : Nat) (culprit : Option Nat) :
    (∀ j, ((s.stopOne k e cause culprit).bank j).spec = (s.bank j).spec) →
      (s.stopOne k e cause culprit).Beside k (s.stopQueue k e cause culprit) := by
  intro hspecs
  unfold State.stopQueue
  dsimp only
  rw [if_neg (by rw [hspec]; exact Bool.false_ne_true)]
  refine List.foldlRecOn (motive := fun u => (s.stopOne k e cause culprit).Beside k u) _ _ (.refl k _) fun t ht j hj => ht.trans ?_
  obtain ⟨-, hj⟩ := List.mem_filter.mp hj
  simp only [Bool.and_eq_true, bne_iff_ne, Bool.not_eq_true'] at hj
  obtain ⟨⟨⟨hjk, -⟩, hsvc⟩, hjspec⟩ := hj
  split
  · have hback : t.InBank j (t.modBank j Bank.giveBack) := .modBank t j Bank.giveBack_task
    have hno : ((t.modBank j Bank.giveBack).bank j).spec = false := by rw [hback.spec, ht.spec, hspecs, hjspec]
    exact (State.Beside.of_inBank hback hjk).trans (.of_inBank (State.stopOne_inBank hsvc hno e _ _) hjk)
  · exact .refl k t

/-- A queue stops whose owner runs: the grants that are due are made, the queue holds the cause, and cell k changes in its bank alone. -/
theorem State.stopQueue_shows {s : State} {k : Nat} {e : EngIx} (hspec : (s.bank k).spec = false)
    (hrun : (s.core k (ownerOf e)).run = .running) (cause : Nat) (culprit : Option Nat) :
    (∃ cells, s.stopQueue k e cause culprit = { s with cells := cells }) ∧
      ((s.stopQueue k e cause culprit).bank k) = ((s.grants k).bank k).stopWith e cause culprit ∧
      ((s.stopQueue k e cause culprit).cell k) = { s.cell k with b := ((s.grants k).bank k).stopWith e cause culprit } := by
  have hone := State.stopOne_of_running hspec hrun cause culprit
  have hin : s.InBank k (s.stopOne k e cause culprit) := by
    rw [hone]
    exact (s.grants_granted k).inBank.trans (.setBank _ k (Bank.stopWith_task _ _ _ _))
  have hspecs : ∀ j, ((s.stopOne k e cause culprit).bank j).spec = (s.bank j).spec := by
    intro j
    by_cases hj : j = k
    · rw [hj]; exact hin.spec
    · rw [hin.bank_other hj]
  obtain ⟨⟨c, hc⟩, hcell, -⟩ := State.stopQueue_beside (e := e) hspec cause culprit hspecs
  obtain ⟨c', hc'⟩ := hin.frame
  have hbank : (s.stopOne k e cause culprit).bank k = ((s.grants k).bank k).stopWith e cause culprit := by
    rw [hone, State.bank_setBank_same]
  refine ⟨⟨c, ?_⟩, ?_, ?_⟩
  · rw [hc, hc']
  · rw [State.bank, hcell]; exact hbank
  · rw [hcell, hin.cell_same, hbank]

end Sys2Proof.Machine

end

section
/-! An entry's wait is granted; the entry completes and signals (05 R92, R93, R95; 06 R124). -/

namespace Sys2Proof.Machine

/-! ## The grant of its wait -/

theorem State.grantSem_entry {s : State} {k n cnt : Nat} {e : EngIx} {ent : Entry} {rest : List Waiter}
    (hq : ((s.bank k).sem n).queue = ⟨.entry e ent.uid, cnt⟩ :: rest) (hcnt : cnt ≤ ((s.bank k).sem n).val)
    (hnext : (s.bank k).upNext e = some ent) (hstage : ent.stage = .queued) (hn : ent.q.wsem.toNat = n) (hn0 : n ≠ 0) :
    s.grantSem k n = some (s.setBank k (((s.bank k).setSem n
      { (s.bank k).sem n with val := ((s.bank k).sem n).val - cnt, queue := rest }).putEntry e { ent with stage := .granted })) := by
  unfold State.grantSem
  dsimp only
  rw [hq]
  dsimp only
  rw [if_neg (Nat.not_lt.mpr hcnt), hnext]
  exact if_pos ⟨rfl, hstage, hn, hn0⟩

@[simp] theorem Bank.setSem_engine (b : Bank) (n : Nat) (x : Sem) (e : EngIx) : (b.setSem n x).engine e = b.engine e := by
  rw [Bank.setSem]
  split <;> cases e <;> rfl

theorem engineWaitGrant_shows {s : State} {k : Nat} {e : EngIx} {ent : Entry} {rest : List Waiter}
    (hnext : (s.bank k).upNext e = some ent) (hstage : ent.stage = .queued) (hn0 : ent.q.wsem.toNat ≠ 0)
    (hq : ((s.bank k).sem ent.q.wsem.toNat).queue = ⟨.entry e ent.uid, ent.q.wcnt.toNat + 1⟩ :: rest)
    (hcnt : ent.q.wcnt.toNat + 1 ≤ ((s.bank k).sem ent.q.wsem.toNat).val) :
    ∃ t, exec (.engineWaitGrant k e) s = .next t ∧
      ((t.bank k).sem ent.q.wsem.toNat).val = ((s.bank k).sem ent.q.wsem.toNat).val - (ent.q.wcnt.toNat + 1) ∧
      ((t.bank k).sem ent.q.wsem.toNat).queue = rest ∧
      (∀ m, m ≠ ent.q.wsem.toNat → (t.bank k).sem m = (s.bank k).sem m) ∧
      ((t.bank k).engine e).entries =
        ((s.bank k).engine e).entries.map (fun x => if x.uid = ent.uid then { ent with stage := .granted } else x) ∧
      t.mem = s.mem := by
  have hexec : exec (.engineWaitGrant k e) s = .next ((s.grantSem k ent.q.wsem.toNat).getD s) := by
    show execEngineWaitGrant k e s = _
    unfold execEngineWaitGrant
    rw [hnext]
    dsimp only
    rw [hq]
    exact congrArg Host.Outcome.next (if_pos (by simp))
  have hlt : ent.q.wsem.toNat < 32 := ent.q.wsem.isLt
  rw [State.grantSem_entry hq hcnt hnext hstage rfl hn0, Option.getD_some] at hexec
  refine ⟨_, hexec, ?_⟩
  rw [State.bank_setBank_same]
  unfold Bank.putEntry
  refine ⟨?_, ?_, fun m hm => ?_, ?_, rfl⟩
  · rw [Bank.setEngine_sem, Bank.sem_setSem _ hlt, if_pos rfl]
  · rw [Bank.setEngine_sem, Bank.sem_setSem _ hlt, if_pos rfl]
  · rw [Bank.setEngine_sem, Bank.sem_setSem _ hlt, if_neg hm]
  · rw [Bank.engine_setEngine_same, Bank.setSem_engine]

/-! ## Its completion -/

/-- The bank with the flags of an entry in its core's STATUS and the entry out of its queue. -/
def Bank.left (b : Bank) (e : EngIx) (ent : Entry) : Bank :=
  let b := b.setCore (ownerOf e) { b.core (ownerOf e) with status := (b.core (ownerOf e)).status ||| ent.flags }
  b.setEngine e { b.engine e with entries := (b.engine e).entries.filter (fun x => x.uid != ent.uid) }

/-- What the counting of completions leaves as it is. -/
theorem State.countDone_shows (s : State) (k : Nat) (e : EngIx) :
    (∃ cells, s.countDone k e = { s with cells := cells }) ∧ (∀ m, ((s.countDone k e).bank k).sem m = (s.bank k).sem m) ∧
      (∀ e', ((s.countDone k e).bank k).engine e' = (s.bank k).engine e') ∧
      (∀ c, ((s.countDone k e).bank k).core c = (s.bank k).core c) ∧ ((s.countDone k e).bank k).task = (s.bank k).task := by
  cases e with
  | transfer => exact ⟨⟨s.cells, rfl⟩, fun _ => rfl, fun _ => rfl, fun _ => rfl, rfl⟩
  | primary =>
    rw [State.countDone]
    split
    · have hbank : (s.modCell k (fun c => { c with since := c.since + 1 })).bank k = (s.bank k) := by
        rw [State.bank, State.cell_modCell, if_pos rfl]
        rfl
      rw [hbank]
      exact ⟨⟨_, rfl⟩, fun _ => rfl, fun _ => rfl, fun _ => rfl, rfl⟩
    · rw [State.bank_modBank, if_pos rfl]
      exact ⟨⟨_, rfl⟩, fun _ => rfl, fun e' => by cases e' <;> rfl, fun c => by cases c <;> rfl, rfl⟩

/-- The state in which the completed entry has left its queue, before its signal. -/
def State.left (s : State) (k : Nat) (e : EngIx) (ent : Entry) : State :=
  ((s.modBank k (·.left e ent)).countDone k e).modBank k Bank.applyReseeds

theorem State.complete_eq (s : State) (k : Nat) (e : EngIx) (ent : Entry) :
    s.complete k e ent =
      if ent.q.ssem = 0 then s.left k e ent
      else if (((s.left k e ent).bank k).sem ent.q.ssem.toNat).val + signals ent.q ≤ 65535 then
        (s.left k e ent).modBank k (fun b => b.setSem ent.q.ssem.toNat { ((s.left k e ent).bank k).sem ent.q.ssem.toNat with
          val := (((s.left k e ent).bank k).sem ent.q.ssem.toNat).val + signals ent.q })
      else ((s.left k e ent).modBank k (fun b => b.subCredit ent.q.ssem.toNat (signals ent.q))).stopQueue k e cSEMRANGE (some ent.uid) := rfl

theorem State.left_shows (s : State) (k : Nat) (e : EngIx) (ent : Entry) :
    (∃ cells, s.left k e ent = { s with cells := cells }) ∧ (∀ m, ((s.left k e ent).bank k).sem m = (s.bank k).sem m) ∧
      ((s.left k e ent).bank k).engine e =
        { (s.bank k).engine e with entries := ((s.bank k).engine e).entries.filter (fun x => x.uid != ent.uid) } ∧
      ((s.left k e ent).bank k).core (ownerOf e) =
        { (s.bank k).core (ownerOf e) with status := ((s.bank k).core (ownerOf e)).status ||| ent.flags } ∧
      ((s.left k e ent).bank k).task = (s.bank k).task := by
  obtain ⟨⟨c, hc⟩, hsem, hengine, hcore, htask⟩ := (s.modBank k (·.left e ent)).countDone_shows k e
  have hbank : (s.left k e ent).bank k = (((s.modBank k (·.left e ent)).countDone k e).bank k).applyReseeds := by
    rw [State.left, State.bank_modBank, if_pos rfl]
  have hleft : (s.modBank k (·.left e ent)).bank k = (s.bank k).left e ent := by rw [State.bank_modBank, if_pos rfl]
  rw [hleft] at hsem hengine hcore htask
  rw [hbank]
  refine ⟨?_, fun m => ?_, ?_, ?_, ?_⟩
  · rw [State.left, hc]; exact ⟨_, rfl⟩
  · rw [Bank.applyReseeds_sem, hsem, Bank.left, Bank.setEngine_sem, Bank.setCore_sem]
  · rw [Bank.applyReseeds_engine, hengine, Bank.left, Bank.engine_setEngine_same, Bank.setCore_engine]
  · rw [Bank.applyReseeds_core, hcore, Bank.left, Bank.setEngine_core, Bank.core_setCore_same]
  · rw [Bank.applyReseeds_task, htask, Bank.left, Bank.setEngine_task, Bank.setCore_task]

section
variable {s : State} {k : Nat} {e : EngIx} {ent : Entry} {rest : List Entry}

theorem execEngineEntryComplete_front (hes : ((s.bank k).engine e).entries = ent :: rest) (hstage : ent.stage = .finished)
    (hstop : ((s.bank k).engine e).stop = none) (hlate : ent.late = []) (hphase : phaseOf ent.op = none) :
    exec (.engineEntryComplete k e) s = .next (s.complete k e ent) := by
  have hat : s.atCompletion k ent = s := by rw [State.atCompletion, hlate, hphase]; rfl
  show execEngineEntryComplete k e s = _
  unfold execEngineEntryComplete
  dsimp only
  rw [hes, hstop]
  dsimp only
  rw [hat]
  exact congrArg Host.Outcome.next (if_pos ⟨.inl hstage, rfl⟩)

theorem filter_front (hrest : ∀ x ∈ rest, x.uid ≠ ent.uid) : (ent :: rest).filter (fun x => x.uid != ent.uid) = rest := by
  rw [List.filter_cons, if_neg (by simp), List.filter_eq_self]
  exact fun x hx => bne_iff_ne.mpr (hrest x hx)

theorem complete_signals (hes : ((s.bank k).engine e).entries = ent :: rest) (hrest : ∀ x ∈ rest, x.uid ≠ ent.uid)
    (hfits : ent.q.ssem.toNat = 0 ∨ ((s.bank k).sem ent.q.ssem.toNat).val + (ent.q.scnt.toNat + 1) ≤ 65535) :
    (((s.complete k e ent).bank k).engine e).entries = rest ∧
      ((s.complete k e ent).core k (ownerOf e)).status = ((s.bank k).core (ownerOf e)).status ||| ent.flags ∧
      (∀ m, (((s.complete k e ent).bank k).sem m).val = if m = ent.q.ssem.toNat ∧ ent.q.ssem.toNat ≠ 0 then
        ((s.bank k).sem ent.q.ssem.toNat).val + (ent.q.scnt.toNat + 1) else ((s.bank k).sem m).val) ∧
      (s.complete k e ent).mem = s.mem := by
  obtain ⟨⟨c, hc⟩, hsem, hengine, hcore, -⟩ := s.left_shows k e ent
  have hentries : (((s.left k e ent).bank k).engine e).entries = rest := by rw [hengine, hes]; exact filter_front hrest
  have hstatus : ((s.left k e ent).core k (ownerOf e)).status = ((s.bank k).core (ownerOf e)).status ||| ent.flags := congrArg Core.status hcore
  have hmem : (s.left k e ent).mem = s.mem := by rw [hc]
  by_cases h0 : ent.q.ssem = 0
  · rw [State.complete_eq, if_pos h0]
    exact ⟨hentries, hstatus, fun m => by rw [hsem, if_neg fun h => h.2 (by rw [h0]; rfl)], hmem⟩
  · have hn0 : ent.q.ssem.toNat ≠ 0 := fun h => h0 (BitVec.eq_of_toNat_eq h)
    rw [State.complete_eq, if_neg h0, if_pos (by rw [hsem]; exact hfits.resolve_left hn0), State.core]
    rw [State.bank_modBank, if_pos rfl]
    refine ⟨by rw [Bank.setSem_engine]; exact hentries, by rw [Bank.setSem_core]; exact hstatus, fun m => ?_, hmem⟩
    rw [Bank.sem_setSem _ ent.q.ssem.isLt]
    by_cases hm : m = ent.q.ssem.toNat
    · rw [if_pos hm, if_pos ⟨hm, hn0⟩, hsem]
      rfl
    · rw [if_neg hm, if_neg fun h => hm h.1, hsem]

theorem complete_stops (hn0 : ent.q.ssem.toNat ≠ 0) (hover : 65535 < ((s.bank k).sem ent.q.ssem.toNat).val + (ent.q.scnt.toNat + 1))
    (hspec : (s.bank k).spec = false) (hrun : ((s.bank k).core (ownerOf e)).run = .running) (hqueues : ∀ m, ((s.bank k).sem m).queue = []) :
    (((s.complete k e ent).bank k).engine e).stop = some cSEMRANGE ∧
      (∀ m, (((s.complete k e ent).bank k).sem m).val = ((s.bank k).sem m).val) ∧ (s.complete k e ent).mem = s.mem := by
  obtain ⟨⟨c, hc⟩, hsem, -, hcore, htask⟩ := s.left_shows k e ent
  have h0 : ent.q.ssem ≠ 0 := fun h => hn0 (by rw [h]; rfl)
  rw [State.complete_eq, if_neg h0, if_neg (by rw [hsem]; exact Nat.not_le.mpr hover)]
  obtain ⟨u, hu⟩ : ∃ u, u = (s.left k e ent).modBank k (fun b => b.subCredit ent.q.ssem.toNat (signals ent.q)) := ⟨_, rfl⟩
  have hbank : u.bank k = ((s.left k e ent).bank k).subCredit ent.q.ssem.toNat (signals ent.q) := by rw [hu, State.bank_modBank, if_pos rfl]
  have huspec : (u.bank k).spec = false := by
    rw [← hspec, hbank, Bank.spec, Bank.spec, ← htask]
    rfl
  have hurun : (u.core k (ownerOf e)).run = .running := by
    rw [State.core, hbank, (Bank.Credits.subCredit _ _ _).core, hcore]
    exact hrun
  have husem : ∀ m, ((u.bank k).sem m).val = ((s.bank k).sem m).val := fun m => by rw [hbank, (Bank.Credits.subCredit _ _ _).2, hsem]
  have huqueue : ∀ m, ((u.bank k).sem m).queue = [] := by
    intro m
    rw [hbank, Bank.subCredit, Bank.sem_vset _ ent.q.ssem.isLt]
    split
    · rw [hsem]; exact hqueues _
    · rw [hsem]; exact hqueues _
  obtain ⟨⟨c', hc'⟩, hstopped, -⟩ := State.stopQueue_shows huspec hurun cSEMRANGE (some ent.uid)
  rw [← hu, hstopped, Bank.stopWith]
  refine ⟨?_, fun m => ?_, ?_⟩
  · rw [Bank.setCore_engine, Bank.engine_setEngine_same]
  · rw [Bank.setCore_sem, Bank.setEngine_sem, (u.grants_granted k).sem huqueue, husem]
  · rw [hc', hu]
    exact (by rw [hc] : (s.left k e ent).mem = s.mem)

end

/-- Settles O40: the grant of a wait, the completion, and the stop of a queue whose owner runs. -/
theorem entryLifetime : Obligations.EntryLifetime := by
  refine ⟨fun s k e ent rest => ?_, fun s k e ent rest => ?_⟩
  · intro b n hnext hstage hn0 hq hcnt
    exact engineWaitGrant_shows hnext hstage hn0 hq hcnt
  · intro b n hes hrest hstage hstop hlate hphase
    have hexec := execEngineEntryComplete_front hes hstage hstop hlate hphase
    exact ⟨fun hfits => ⟨_, hexec, complete_signals hes hrest hfits⟩,
      fun hn0 hover hspec hrun hqueues => ⟨_, hexec, complete_stops hn0 hover hspec hrun hqueues⟩⟩

end Sys2Proof.Machine

end

section
/-! Far ends, multicasts and rendezvous of the engines (08 R167, R168; 10 R209; 11 R216, R236). -/

namespace Sys2Proof.Machine

/-! ## Answers -/

/-- The bank in which an entry has its answer: it completes in its turn. -/
def Bank.answered (b : Bank) (e : EngIx) (ent : Entry) (fl : Flags) (res : Option (Word × Bool)) : Bank :=
  (match res with | some v => b.landDest e ent v | none => b).putEntry e
    { ent with stage := .finished, need := .none, flags := ent.flags ||| fl.word }

theorem State.answered_eq (s : State) (k : Nat) (e : EngIx) (ent : Entry) (fl : Flags) (res : Option (Word × Bool)) :
    s.answered k e ent fl res = s.modBank k (·.answered e ent fl res) := rfl

@[simp] theorem Bank.landDest_engine (b : Bank) (e e' : EngIx) (ent : Entry) (v : Word × Bool) : (b.landDest e ent v).engine e' = b.engine e' := by
  unfold Bank.landDest
  split
  · exact Bank.setCore_engine _ _ _ _
  · rfl

theorem Bank.answered_entries (b : Bank) (e : EngIx) (ent : Entry) (fl : Flags) (res : Option (Word × Bool)) :
    ((b.answered e ent fl res).engine e).entries = (b.engine e).entries.map (fun x =>
      if x.uid = ent.uid then { ent with stage := .finished, need := .none, flags := ent.flags ||| fl.word } else x) := by
  unfold Bank.answered Bank.putEntry
  rw [Bank.engine_setEngine_same]
  cases res with
  | none => rfl
  | some v => dsimp only; rw [Bank.landDest_engine]

theorem Bank.answered_dest (b : Bank) (e : EngIx) {ent : Entry} {d : Nat} (hd : ent.dest = some d) (hlt : d < 32) (fl : Flags) (w : Word × Bool) :
    (((b.answered e ent fl (some w)).core (ownerOf e)).xreg d) = ⟨w.1, w.2, .full⟩ := by
  unfold Bank.answered
  rw [Bank.putEntry_core]
  dsimp only
  rw [Bank.landDest, hd]
  dsimp only
  rw [Bank.core_setCore_same, Core.xreg_putX, if_pos ⟨rfl, hlt⟩]

theorem farEndReply_shows {s : State} {k : Nat} {ent : Entry} {v : Option (Word × Bool)}
    (hone : (s.bank k).xfer.entries.filter (fun e => (s.replyOf k e).isSome) = [ent]) (hreply : s.replyOf k ent = some v) :
    ∃ t, exec (.farEndReply k) s = .next t ∧
      (t.bank k).xfer.entries = (s.bank k).xfer.entries.map (fun e =>
        if e.uid = ent.uid then { ent with stage := .finished, need := .none, flags := ent.flags ||| ({} : Flags).word } else e) ∧
      (∀ d w, ent.dest = some d → v = some w → d < 32 → (t.core k .x).xreg d = ⟨w.1, w.2, .full⟩) ∧ t.mem = s.mem ∧ t.hbm = s.hbm := by
  have hexec : exec (.farEndReply k) s = .next (s.bump.answered k .transfer ent {} v) := by
    show execFarEndReply k s = _
    unfold execFarEndReply
    dsimp only
    rw [hone]
    have hpick : [ent][Config.freeWord s.free % max [ent].length 1]? = some ent := by
      rw [show max [ent].length 1 = 1 from rfl, Nat.mod_one]
      rfl
    rw [hpick]
    dsimp only
    rw [hreply]
  have hbank : (s.bump.answered k .transfer ent {} v).bank k = (s.bank k).answered .transfer ent {} v := by
    rw [State.answered_eq, State.bank_modBank, if_pos rfl]
    rfl
  refine ⟨_, hexec, ?_, fun d w hd hv hlt => ?_, rfl, rfl⟩
  · rw [hbank]
    exact Bank.answered_entries (s.bank k) .transfer ent {} v
  · rw [State.core, hbank, hv]
    exact Bank.answered_dest (s.bank k) .transfer hd hlt {} w

/-! ## Posted writes -/

theorem Mem.byte_merge_full {m : Mem} (hm : m.wf = true) {ws : List WByte} (hws : ∀ w ∈ ws, w.m = 0xFF) (a x : Nat) :
    (m.merge a ws).byte x = if a ≤ x ∧ x < a + ws.length then (ws[x - a]?.map (·.v)).getD 0 else m.byte x := by
  have hover : ∀ w ∈ ws, ∀ b, w.over_ b = w.v := by
    intro w hw b
    rw [WByte.over_, hws w hw, show (0xFF : Byte) = BitVec.allOnes 8 from rfl]
    simp only [BitVec.not_allOnes, BitVec.and_zero, BitVec.and_allOnes, BitVec.zero_or]
  have hbytes : ws.zipWith WByte.over_ (m.read a ws.length) = ws.map (·.v) := by
    refine List.ext_getElem (by simp [Mem.read_length]) fun i h h' => ?_
    rw [List.getElem_zipWith, List.getElem_map]
    exact hover _ (List.getElem_mem _) _
  rw [Mem.merge, hbytes, Mem.byte_write (Mem.wf_rising hm), List.length_map, List.getElem?_map]

theorem State.posted_setBank (s : State) (j k : Nat) (b : Bank) : ((s.setBank j b).cell k).posted = (s.cell k).posted := by
  rw [State.setBank, State.cell_modCell]
  split
  · next h => rw [h]
  · rfl

theorem Bank.setSem_mx (b : Bank) (n : Nat) (x : Sem) : (b.setSem n x).mx = b.mx := by
  rw [Bank.setSem]
  split <;> rfl

theorem Bank.setSem_pb (b : Bank) (n : Nat) (x : Sem) : (b.setSem n x).pb = b.pb := by
  rw [Bank.setSem]
  split <;> rfl

/-- What the landing of bytes on chip leaves as it is. -/
structure State.Lands (s t : State) : Prop where
  posted : ∀ k, (t.cell k).posted = (s.cell k).posted
  mx : ∀ k, (t.bank k).mx = (s.bank k).mx
  task : ∀ k, (t.bank k).task = (s.bank k).task
  pb : ∀ k, (t.bank k).pb = (s.bank k).pb

namespace State.Lands

theorem refl (s : State) : Lands s s := ⟨fun _ => rfl, fun _ => rfl, fun _ => rfl, fun _ => rfl⟩

theorem trans {s t u : State} (h : Lands s t) (h' : Lands t u) : Lands s u :=
  ⟨fun k => (h'.posted k).trans (h.posted k), fun k => (h'.mx k).trans (h.mx k), fun k => (h'.task k).trans (h.task k),
    fun k => (h'.pb k).trans (h.pb k)⟩

theorem foldl {α : Type} {s : State} {f : State → α → State} (hf : ∀ (t : State) (a : α), t.Lands (f t a)) (l : List α) : s.Lands (l.foldl f s) :=
  List.foldlRecOn (motive := fun t => s.Lands t) l f (refl s) fun _ ht a _ => ht.trans (hf _ a)

theorem modBank (s : State) (j : Nat) {f : Bank → Bank} (hmx : ∀ b, (f b).mx = b.mx) (htask : ∀ b, (f b).task = b.task)
    (hpb : ∀ b, (f b).pb = b.pb) : Lands s (s.modBank j f) := by
  have hbank : ∀ k, (s.modBank j f).bank k = f (s.bank k) ∨ (s.modBank j f).bank k = s.bank k := by
    intro k
    rw [State.bank_modBank]
    split
    · next h => exact .inl (by rw [h])
    · exact .inr rfl
  refine ⟨fun k => State.posted_setBank s j k _, fun k => ?_, fun k => ?_, fun k => ?_⟩
  · exact (hbank k).elim (fun h => by rw [h, hmx]) fun h => by rw [h]
  · exact (hbank k).elim (fun h => by rw [h, htask]) fun h => by rw [h]
  · exact (hbank k).elim (fun h => by rw [h, hpb]) fun h => by rw [h]

theorem modCore (s : State) (j : Nat) (c : CoreIx) (f : Core → Core) : Lands s (s.modCore j c f) :=
  modBank s j (f := fun b => b.setCore c (f (s.core j c))) (fun b => b.setCore_mx c _) (fun b => b.setCore_task c _) fun b => by cases c <;> rfl

theorem landX (s : State) (k : Nat) (c : CoreIx) (j : Nat) (v : Word) (bad : Bool) : Lands s (s.landX k c j v bad) := by
  rw [State.landX]
  split
  · exact refl s
  · exact modCore s k c _

theorem touch (s : State) (k off n : Nat) : Lands s (s.touch k off n) := modBank s k (fun _ => rfl) (fun _ => rfl) fun _ => rfl

theorem noteSlotStore (s : State) (a n : Nat) : Lands s (s.noteSlotStore a n) := by
  obtain ⟨g, hg⟩ := s.noteSlotStore_eq a n
  rw [hg]
  exact ⟨fun _ => rfl, fun _ => rfl, fun _ => rfl, fun _ => rfl⟩

end State.Lands

theorem State.landChip_lands (s : State) (a : Nat) (ws : List WByte) : s.Lands (s.landChip a ws).1 := by
  have hlive : ∀ (t : State) (c : CoreIx) (l : List Nat),
      t.Lands (l.foldl (fun s v => s.modCore (chipKey a) c (fun r => { r with livev := setBit r.livev v true })) t) :=
    fun t c l => .foldl (fun u v => .modCore u _ c _) l
  have hbytes : s.Lands { s with
      mem := s.mem.merge a ws
      memBad := (badOf a ws).foldl nsAdd ((coverOf a ws).foldl nsDel s.memBad) } :=
    ⟨fun _ => rfl, fun _ => rfl, fun _ => rfl, fun _ => rfl⟩
  unfold State.landChip
  dsimp only
  split
  · exact .landX s _ _ _ _ _
  · rw [State.landSem]
    split
    · exact .refl s
    · split
      · exact .modBank s _ (Bank.setSem_mx · _ _) (Bank.setSem_task · _ _) (Bank.setSem_pb · _ _)
      · exact .refl s
  · split
    · exact hbytes.trans ((State.Lands.touch _ _ _ _).trans (.noteSlotStore _ _ _))
    · exact hbytes.trans (hlive _ _ _)
    · exact hbytes.trans (hlive _ _ _)
    · exact hbytes

theorem State.landChip_pad {a : Nat} (hr : chipRegion a = 0) (s : State) (ws : List WByte) :
    s.landChip a ws = (({ s with
      mem := s.mem.merge a ws
      memBad := (badOf a ws).foldl nsAdd ((coverOf a ws).foldl nsDel s.memBad) } : State).touch (chipKey a) (chipOff a) ws.length
        |>.noteSlotStore a ws.length, true) := by
  unfold State.landChip
  rw [hr]
  rfl

theorem postedWriteLand_shows {s : State} {k i a : Nat} {p : Posted} (hp : (s.cell k).posted[i]? = some p) (hdst : p.dst = .chip a)
    (hchan : p.chan = none) (hmcast : p.mcast = false) (hland : s.mayLand p ((s.cell k).posted.take i) = true) (hr : chipRegion a = 0)
    (hwf : s.mem.wf = true) (hdata : ∀ w ∈ p.data, w.m = 0xFF) (hpusher : (s.cell k).pusher p.uid = none) :
    ∃ t, exec (.postedWriteLand k i) s = .next t ∧
      (∀ j w, p.data[j]? = some w → t.mem.byte (a + j) = w.v) ∧
      (∀ b, b < a ∨ a + p.data.length ≤ b → t.mem.byte b = s.mem.byte b) ∧
      (t.cell k).posted = (s.cell k).posted.eraseIdx i ∧
      (t.bank (chipKey a)).pb = (s.bank (chipKey a)).pb - p.data.length := by
  obtain ⟨s₁, hs₁⟩ : ∃ s₁, s₁ = s.modCell k (fun c => { c with posted := c.posted.eraseIdx i }) := ⟨_, rfl⟩
  have hpusher₁ : (s₁.cell k).pusher p.uid = none := by
    rw [hs₁, State.cell_modCell, if_pos rfl]
    exact hpusher
  have hexec : exec (.postedWriteLand k i) s = .next (s₁.landPiece k a p) := by
    show execPostedWriteLand k i s = _
    unfold execPostedWriteLand
    rw [hp]
    dsimp only
    rw [hland, State.onPusher, ← hs₁, hpusher₁]
    dsimp only
    rw [hdst]
    rfl
  have hpiece : s₁.landPiece k a p = ((s₁.landChip a p.data).1.modBank (chipKey a) (fun b => { b with pb := b.pb - p.data.length })).pieceDone k p.uid {} := by
    unfold State.landPiece
    rw [State.landChip_pad hr]
    dsimp only
    simp only [hchan, hmcast, hdst, Option.isNone_none, Bool.not_false, Bool.and_self, beq_self_eq_true, if_true, Bool.false_eq_true, if_false]
  have hmem : (s₁.landPiece k a p).mem = s.mem.merge a p.data := by
    rw [hpiece, State.landChip_pad hr]
    obtain ⟨g, hg⟩ := (({ s₁ with
      mem := s₁.mem.merge a p.data
      memBad := (badOf a p.data).foldl nsAdd ((coverOf a p.data).foldl nsDel s₁.memBad) } : State).touch (chipKey a) (chipOff a) p.data.length).noteSlotStore_eq
        a p.data.length
    dsimp only
    rw [hg, hs₁]
    rfl
  have hlands := s₁.landChip_lands a p.data
  have hpb : (s₁.bank (chipKey a)).pb = (s.bank (chipKey a)).pb := by
    rw [hs₁, State.bank, State.cell_modCell]
    split
    · next h => rw [h]; rfl
    · rfl
  refine ⟨_, hexec, fun j w hw => ?_, fun b hb => ?_, ?_, ?_⟩
  · have hj : j < p.data.length := (List.getElem?_eq_some_iff.mp hw).1
    rw [hmem, Mem.byte_merge_full hwf hdata, if_pos (by omega), Nat.add_sub_cancel_left, hw]
    rfl
  · rw [hmem, Mem.byte_merge_full hwf hdata, if_neg (by omega)]
  · rw [hpiece, State.pieceDone, State.modBank, State.posted_setBank, State.modBank, State.posted_setBank, hlands.posted, hs₁, State.cell_modCell,
      if_pos rfl]
  · have hdone : ∀ u : State, ((u.pieceDone k p.uid {}).bank (chipKey a)).pb = (u.bank (chipKey a)).pb := by
      intro u
      rw [State.pieceDone, State.bank_modBank]
      split
      · next h => rw [h]
      · rfl
    rw [hpiece, hdone, State.bank_modBank, if_pos rfl, ← hpb, ← hlands.pb]

/-! ## Rendezvous -/

theorem State.rankCell_inj {s : State} {k r r' : Nat} (h : s.rankCell k r = s.rankCell k r') : r = r' := Nat.add_left_cancel h

theorem State.atGroup_mem {s : State} {k j n : Nat} {ent : Entry} (h : s.atGroup k j .cbar = some (ent, n)) : ent ∈ (s.bank j).xfer.entries := by
  unfold State.atGroup at h
  dsimp only at h
  obtain ⟨x, hx, hfound⟩ := List.exists_of_findSome?_eq_some h
  have hent : ent = x := by
    split at hfound
    · split at hfound
      · exact (Prod.mk.inj (Option.some.inj hfound)).1.symm
      · exact absurd hfound nofun
    · exact absurd hfound nofun
  rw [hent]
  split at hx
  · exact absurd hx (List.not_mem_nil)
  · exact hx

theorem State.reneed_bank (s : State) (k : Nat) (e : EngIx) (ent : Entry) (n : Need) (j : Nat) :
    (s.reneed k e ent n).bank j = if j = k then (s.bank k).putEntry e { ent with need := n } else s.bank j := State.bank_modBank _ _ _ _

theorem Bank.mem_putEntry {b : Bank} {e : EngIx} {ent ent' : Entry} (h : ent ∈ (b.engine e).entries) (hu : ent'.uid = ent.uid) :
    ent' ∈ ((b.putEntry e ent').engine e).entries := by
  rw [Bank.putEntry, Bank.engine_setEngine_same]
  exact List.mem_map.mpr ⟨ent, h, if_pos hu.symm⟩

/-- Entries of different cells that take a new wait each. -/
theorem State.reneed_all {α : Type} (cellOf : α → Nat) (entOf : α → Entry) (n : Need) (l : List α) (hl : (l.map cellOf).Nodup) (s : State) :
    (l.foldl (fun s x => s.reneed (cellOf x) .transfer (entOf x) n) s).mem = s.mem ∧
    (∀ j, j ∉ l.map cellOf → (l.foldl (fun s x => s.reneed (cellOf x) .transfer (entOf x) n) s).bank j = s.bank j) ∧
    ∀ x ∈ l, (l.foldl (fun s x => s.reneed (cellOf x) .transfer (entOf x) n) s).bank (cellOf x) =
      (s.bank (cellOf x)).putEntry .transfer { entOf x with need := n } := by
  induction l generalizing s with
  | nil => exact ⟨rfl, fun _ _ => rfl, fun _ h => absurd h List.not_mem_nil⟩
  | cons y l ih =>
    rw [List.map_cons, List.nodup_cons] at hl
    obtain ⟨hmem, hother, hsame⟩ := ih hl.2 (s.reneed (cellOf y) .transfer (entOf y) n)
    rw [List.foldl_cons]
    refine ⟨hmem, fun j hj => ?_, fun x hx => ?_⟩
    · rw [List.map_cons, List.mem_cons, not_or] at hj
      rw [hother j hj.2, State.reneed_bank, if_neg hj.1]
    · obtain rfl | hx := List.mem_cons.mp hx
      · rw [hother _ hl.1, State.reneed_bank, if_pos rfl]
      · have hne : cellOf x ≠ cellOf y := fun h => hl.1 (h ▸ List.mem_map_of_mem hx)
        rw [hsame x hx, State.reneed_bank, if_neg hne]

theorem groupRendezvous_shows {s : State} {k n : Nat} {ent : Nat → Entry} (htask : (s.bank k).task.isSome = true) (hg : 0 < (s.bank k).gsize)
    (hall : ∀ r, r < (s.bank k).gsize → s.atGroup k (s.rankCell k r) .cbar = some (ent r, n)) :
    ∃ t, exec (.groupRendezvous k .cbar) s = .next t ∧ t.mem = s.mem ∧
      (∀ r, r < (s.bank k).gsize → ∃ x ∈ (t.bank (s.rankCell k r)).xfer.entries, x.uid = (ent r).uid ∧ x.need = .pending) := by
  have hlist : ((List.range (s.bank k).gsize).map (s.rankCell k)).filterMap (fun j => (s.atGroup k j .cbar).map (fun p => (j, p.1, p.2))) =
      (List.range (s.bank k).gsize).map (fun r => (s.rankCell k r, ent r, n)) := by
    rw [List.filterMap_map]
    refine List.filterMap_eq_map_iff_forall_eq_some.mpr fun r hr => ?_
    rw [Function.comp_apply, hall r (List.mem_range.mp hr)]
    rfl
  have hexec : exec (.groupRendezvous k .cbar) s = .next (((List.range (s.bank k).gsize).map (fun r => (s.rankCell k r, ent r, n))).foldl
      (fun s x => s.reneed x.1 .transfer x.2.1 .pending) s) := by
    show execGroupRendezvous k .cbar s = _
    unfold execGroupRendezvous
    dsimp only
    rw [hlist, if_neg (by rw [Option.isNone_eq_false_iff.mpr htask]; exact Bool.false_ne_true)]
    refine congrArg Host.Outcome.next (if_pos ⟨by rw [List.length_map, List.length_range], ?_⟩)
    rw [List.all_map, List.all_eq_true]
    intro r hr
    obtain ⟨g, hg'⟩ := Nat.exists_eq_succ_of_ne_zero (Nat.pos_iff_ne_zero.mp hg)
    rw [hg', List.range_succ_eq_map]
    simp
  have hnodup : (((List.range (s.bank k).gsize).map (fun r => (s.rankCell k r, ent r, n))).map Prod.fst).Nodup := by
    rw [List.map_map]
    exact List.nodup_range.map fun r r' h => State.rankCell_inj h
  obtain ⟨hmem, -, hsame⟩ := State.reneed_all Prod.fst (fun x : Nat × Entry × Nat => x.2.1) .pending _ hnodup s
  refine ⟨_, hexec, hmem, fun r hr => ?_⟩
  rw [hsame _ (List.mem_map_of_mem (List.mem_range.mpr hr))]
  exact ⟨{ ent r with need := .pending }, Bank.mem_putEntry (e := .transfer) (State.atGroup_mem (hall r hr)) rfl, rfl, rfl⟩

/-! ## Multicasts -/

theorem State.rankCell_of_task {s t : State} {k : Nat} (h : (t.bank k).task = (s.bank k).task) (r : Nat) : t.rankCell k r = s.rankCell k r := by
  rw [State.rankCell, Bank.rank, Bank.recWord, h]
  rfl

theorem State.arriveMcast_bank (s : State) (k r j : Nat) :
    ((s.arriveMcast k r).bank j).task = (s.bank j).task ∧
      (j ≠ k → ((s.arriveMcast k r).bank j).mx = (s.bank j).mx) ∧
      (r < 4 → vget ((s.arriveMcast k r).bank k).mx.arr r 0 = min (vget (s.bank k).mx.arr r 0 + 1) 65535) := by
  rw [State.arriveMcast, State.bank_modBank, State.bank_modBank, if_pos rfl]
  refine ⟨?_, fun h => by rw [if_neg h], fun hr => ?_⟩
  · split
    · next h => rw [h]
    · rfl
  · dsimp only
    rw [vget_vset, if_pos ⟨rfl, hr⟩]

/-- The arrivals of a multicast: the counter of its rank rises once at each target. -/
theorem State.arriveAll (k : Nat) {r : Nat} (hr : r < 4) (l : List Nat) (hl : l.Nodup) (s : State) :
    (∀ j, ((l.foldl (fun s i => s.arriveMcast (s.rankCell k i) r) s).cell j).posted = (s.cell j).posted) ∧
    (∀ j, (∀ i ∈ l, j ≠ s.rankCell k i) → ((l.foldl (fun s i => s.arriveMcast (s.rankCell k i) r) s).bank j).mx = (s.bank j).mx) ∧
    ∀ i ∈ l, vget ((l.foldl (fun s i => s.arriveMcast (s.rankCell k i) r) s).bank (s.rankCell k i)).mx.arr r 0 =
      min (vget (s.bank (s.rankCell k i)).mx.arr r 0 + 1) 65535 := by
  induction l generalizing s with
  | nil => exact ⟨fun _ => rfl, fun _ _ => rfl, fun _ h => absurd h List.not_mem_nil⟩
  | cons y l ih =>
    rw [List.nodup_cons] at hl
    have hcell : ∀ i, (s.arriveMcast (s.rankCell k y) r).rankCell k i = s.rankCell k i :=
      State.rankCell_of_task (s.arriveMcast_bank (s.rankCell k y) r k).1
    obtain ⟨hposted, hother, hsame⟩ := ih hl.2 (s.arriveMcast (s.rankCell k y) r)
    simp only [hcell] at hother hsame
    rw [List.foldl_cons]
    refine ⟨fun j => (hposted j).trans (State.posted_setBank _ _ _ _), fun j hj => ?_, fun i hi => ?_⟩
    · rw [hother j fun i hi => hj i (List.mem_cons_of_mem _ hi), (s.arriveMcast_bank _ r j).2.1 (hj y List.mem_cons_self)]
    · obtain rfl | hi := List.mem_cons.mp hi
      · rw [hother _ fun i' hi' h => hl.1 (by rw [State.rankCell_inj h]; exact hi')]
        exact (s.arriveMcast_bank _ r 0).2.2 hr
      · have hne : s.rankCell k i ≠ s.rankCell k y := fun h => hl.1 (State.rankCell_inj h ▸ hi)
        rw [hsame i hi, (s.arriveMcast_bank (s.rankCell k y) r _).2.1 hne]

@[simp] theorem Bank.putEntry_mx (b : Bank) (e : EngIx) (ent : Entry) : (b.putEntry e ent).mx = b.mx := Bank.setEngine_mx _ _ _

theorem State.answered_mx (s : State) (k : Nat) (e : EngIx) (ent : Entry) (fl : Flags) (j : Nat) :
    ((s.answered k e ent fl none).bank j).mx = (s.bank j).mx := by
  rw [State.answered_eq, State.bank_modBank]
  split
  · next h => rw [h]; exact Bank.putEntry_mx _ _ _
  · rfl

theorem mcastArrival_shows {s : State} {k : Nat} {ent : Entry} {rest : List Entry} {ranks : BitVec 4} (hes : (s.bank k).prim.entries = ent :: rest)
    (hranks : mcastRanks ent.op = some ranks) (hstage : ent.stage = .far) (hneed : ent.need = .posted) (hrank : (s.bank k).rank < 4) :
    ∃ t, exec (.mcastArrival k) s = .next t ∧
      (∀ p ∈ (t.cell k).posted, ¬ (p.mcast = true ∧ p.uid = ent.uid)) ∧
      (∀ i, i < 4 → ranks.getLsbD i = true → vget (t.bank (s.rankCell k i)).mx.arr (s.bank k).rank 0 =
        min (vget (s.bank (s.rankCell k i)).mx.arr (s.bank k).rank 0 + 1) 65535) := by
  obtain ⟨mine, hmine⟩ : ∃ mine, mine = (s.cell k).posted.filter (fun p => p.mcast && p.uid == ent.uid) := ⟨_, rfl⟩
  obtain ⟨u, hu⟩ : ∃ u, u = (mine.foldl (fun (s : State) p => match p.dst.chip? with | some a => (s.landChip a p.data).1 | none => s) s).modCell k
    (fun c => { c with posted := c.posted.filter (fun p => !(p.mcast && p.uid == ent.uid)) }) := ⟨_, rfl⟩
  obtain ⟨targets, htargets⟩ : ∃ targets, targets = (List.range 4).filter (fun i => ranks.getLsbD i) := ⟨_, rfl⟩
  have hland : s.Lands (mine.foldl (fun (s : State) p => match p.dst.chip? with | some a => (s.landChip a p.data).1 | none => s) s) := by
    refine .foldl (fun t p => ?_) mine
    cases p.dst.chip? with
    | none => exact .refl t
    | some a => exact t.landChip_lands a p.data
  have hubank : ∀ j, u.bank j = (mine.foldl (fun (s : State) p => match p.dst.chip? with | some a => (s.landChip a p.data).1 | none => s) s).bank j := by
    intro j
    rw [hu, State.bank, State.cell_modCell]
    split
    · next h => rw [h]; rfl
    · rfl
  have htask : (u.bank k).task = (s.bank k).task := by rw [hubank, hland.task]
  have hrank' : (u.bank k).rank = (s.bank k).rank := by rw [Bank.rank, Bank.recWord, htask]; rfl
  have hexec : exec (.mcastArrival k) s = .next ((targets.foldl (fun s i => s.arriveMcast (s.rankCell k i) (u.bank k).rank) u).answered k
      .primary ent {} none) := by
    show execMcastArrival k s = _
    unfold execMcastArrival
    rw [hes]
    dsimp only
    rw [hranks, hu, htargets, hmine]
    exact congrArg Host.Outcome.next (if_pos ⟨hstage, hneed⟩)
  rw [hrank'] at hexec
  obtain ⟨hposted, -, harr⟩ := State.arriveAll k hrank targets (htargets ▸ List.nodup_range.filter _) u
  refine ⟨_, hexec, fun p hp => ?_, fun i hi hbit => ?_⟩
  · rw [State.answered_eq, State.modBank, State.posted_setBank, hposted, hu, State.cell_modCell, if_pos rfl] at hp
    have hkept := (List.mem_filter.mp hp).2
    rintro ⟨hm, hid⟩
    rw [hm, hid, beq_self_eq_true] at hkept
    exact Bool.false_ne_true hkept
  · have hi' : i ∈ targets := by rw [htargets]; exact List.mem_filter.mpr ⟨List.mem_range.mpr hi, hbit⟩
    rw [State.answered_mx, ← State.rankCell_of_task htask, harr i hi', hubank, hland.mx]

theorem mcwaitRelease_shows {s : State} {k rank count : Nat} {ent : Entry} {rest : List Entry} (hes : (s.bank k).prim.entries = ent :: rest)
    (hneed : ent.need = .mcwait) (hop : mcwaitOf ent.op = some (rank, count)) (hrank : rank < 4)
    (hcount : count ≤ vget (s.bank k).mx.arr rank 0) :
    ∃ t, exec (.mcwaitRelease k) s = .next t ∧ vget (t.bank k).mx.arr rank 0 = vget (s.bank k).mx.arr rank 0 - count ∧
      (∃ x ∈ (t.bank k).prim.entries, x.uid = ent.uid ∧ x.stage = .finished ∧ x.need = .none) ∧ t.mem = s.mem := by
  obtain ⟨u, hu⟩ : ∃ u, u = s.modBank k (fun b => { b with mx := { b.mx with
    arr := vset b.mx.arr rank (vget (s.bank k).mx.arr rank 0 - count) } }) := ⟨_, rfl⟩
  have hexec : exec (.mcwaitRelease k) s = .next (u.answered k .primary ent {} none) := by
    show execMcwaitRelease k s = _
    unfold execMcwaitRelease
    rw [hes]
    dsimp only
    rw [hneed, hop, hu]
    exact congrArg Host.Outcome.next (if_pos hcount)
  have hubank : u.bank k = { s.bank k with mx := { (s.bank k).mx with
      arr := vset (s.bank k).mx.arr rank (vget (s.bank k).mx.arr rank 0 - count) } } := by rw [hu, State.bank_modBank, if_pos rfl]
  refine ⟨_, hexec, ?_, ⟨{ ent with stage := .finished, need := .none, flags := ent.flags ||| ({} : Flags).word }, ?_, rfl, rfl, rfl⟩, ?_⟩
  · rw [State.answered_mx, hubank]
    dsimp only
    rw [vget_vset, if_pos ⟨rfl, hrank⟩]
  · rw [State.answered_eq, State.bank_modBank, if_pos rfl]
    refine Bank.mem_putEntry (e := .primary) (ent := ent) ?_ rfl
    show ent ∈ (u.bank k).prim.entries
    rw [hubank]
    exact hes ▸ List.mem_cons_self
  · rw [State.answered_eq, hu]
    rfl

/-! ## Publications -/

theorem State.modStack_frame (s : State) (i : Nat) (f : Stack → Stack) : ∃ st, s.modStack i f = { s with hbmStacks := st } := ⟨_, rfl⟩

/-- A fold of steps that change one field alone changes that field alone. -/
theorem State.foldl_frame {α β : Type} {put : State → β → State} (hput : ∀ s b b', put (put s b) b' = put s b') {f : State → α → State}
    (hf : ∀ s a, ∃ b, f s a = put s b) (l : List α) {s : State} {b₀ : β} (h₀ : put s b₀ = s) : ∃ b, l.foldl f s = put s b := by
  refine List.foldlRecOn (motive := fun t => ∃ b, t = put s b) l f ⟨b₀, h₀.symm⟩ fun t ht a _ => ?_
  obtain ⟨b, rfl⟩ := ht
  obtain ⟨b', hb'⟩ := hf (put s b) a
  exact ⟨b', hb'.trans (hput s b b')⟩

theorem State.cacheTouch_frame (s : State) (asid h off n : Nat) : ∃ st, s.cacheTouch asid h off n = { s with hbmStacks := st } := by
  unfold State.cacheTouch
  split
  · exact State.foldl_frame (put := fun s st => { s with hbmStacks := st }) (fun _ _ _ => rfl) (fun s g => s.modStack_frame _ _) _
      (b₀ := s.hbmStacks) rfl
  · exact ⟨s.hbmStacks, rfl⟩

theorem State.modBuf_frame (s : State) (h : Nat) (f : Buf → Buf) : ∃ b, s.modBuf h f = { s with bufs := b } := by
  unfold State.modBuf
  split
  · exact ⟨_, rfl⟩
  · exact ⟨s.bufs, rfl⟩

theorem State.putHbm_foldl (s : State) (l : List (Nat × WByte)) :
    l.foldl (fun s e => { s with hbm := s.hbm.merge e.1 [e.2] }) s = { s with hbm := l.foldl (fun h e => h.merge e.1 [e.2]) s.hbm } := by
  induction l generalizing s with
  | nil => rfl
  | cons e l ih => rw [List.foldl_cons, ih, List.foldl_cons]

/-- A granule that reaches its home: only HBM, its flags and the cache change. -/
theorem State.putGran_shows (s : State) (g : PubGran) (asid : Nat) :
    (s.putGran g asid).bufs = s.bufs ∧ (s.putGran g asid).mem = s.mem ∧
      ((s.buf? (g.g * 64 / 2 ^ 64)).isSome = true → (s.putGran g asid).hbm = g.bytes.foldl (fun h e => h.merge e.1 [e.2]) s.hbm) := by
  have hcase : ∀ bad, (({ s with hbm := g.bytes.foldl (fun h e => h.merge e.1 [e.2]) s.hbm, hbmBad := bad } : State).cacheTouch asid
      (g.g * 64 / 2 ^ 64) (g.g * 64 % 2 ^ 64) 64).bufs = s.bufs ∧
      (({ s with hbm := g.bytes.foldl (fun h e => h.merge e.1 [e.2]) s.hbm, hbmBad := bad } : State).cacheTouch asid
        (g.g * 64 / 2 ^ 64) (g.g * 64 % 2 ^ 64) 64).mem = s.mem ∧
      (({ s with hbm := g.bytes.foldl (fun h e => h.merge e.1 [e.2]) s.hbm, hbmBad := bad } : State).cacheTouch asid
        (g.g * 64 / 2 ^ 64) (g.g * 64 % 2 ^ 64) 64).hbm = g.bytes.foldl (fun h e => h.merge e.1 [e.2]) s.hbm := by
    intro bad
    obtain ⟨st, hst⟩ := State.cacheTouch_frame { s with hbm := g.bytes.foldl (fun h e => h.merge e.1 [e.2]) s.hbm, hbmBad := bad } asid
      (g.g * 64 / 2 ^ 64) (g.g * 64 % 2 ^ 64) 64
    rw [hst]
    exact ⟨rfl, rfl, rfl⟩
  unfold State.putGran
  dsimp only
  cases hb : s.buf? (g.g * 64 / 2 ^ 64) with
  | none => exact ⟨rfl, rfl, fun h => absurd h Bool.false_ne_true⟩
  | some b =>
    dsimp only
    rw [State.putHbm_foldl]
    cases g.bad with
    | none =>
      obtain ⟨h₁, h₂, h₃⟩ := hcase s.hbmBad
      exact ⟨h₁, h₂, fun _ => h₃⟩
    | some v =>
      cases v with
      | true =>
        obtain ⟨h₁, h₂, h₃⟩ := hcase (nsAdd s.hbmBad g.g)
        exact ⟨h₁, h₂, fun _ => h₃⟩
      | false =>
        obtain ⟨h₁, h₂, h₃⟩ := hcase (nsDel s.hbmBad g.g)
        exact ⟨h₁, h₂, fun _ => h₃⟩

theorem State.tied_of_bufs {s t : State} (h : t.bufs = s.bufs) : t.tied = s.tied := by
  have hbuf : t.buf? = s.buf? := by
    funext x
    rw [State.buf?, State.buf?, h]
  have hunit : t.mxUnit = s.mxUnit := by
    funext g
    rw [State.mxUnit, State.mxUnit, State.mxBuf, State.mxBuf, hbuf, h]
  funext gs g g'
  rw [State.tied, State.tied, hunit, hbuf]

theorem State.putGrans_shows (l : List PubGran) (asid : Nat) (s : State) :
    (l.foldl (fun s x => s.putGran x asid) s).bufs = s.bufs ∧ (l.foldl (fun s x => s.putGran x asid) s).mem = s.mem := by
  refine List.foldlRecOn (motive := fun (t : State) => t.bufs = s.bufs ∧ t.mem = s.mem) l _ ⟨rfl, rfl⟩ fun t ht g _ => ?_
  obtain ⟨hbufs, hmem, -⟩ := t.putGran_shows g asid
  exact ⟨hbufs.trans ht.1, hmem.trans ht.2⟩

theorem publicationComplete_shows {s : State} {k i : Nat} {p : Pub} {rest : List Pub} {g : PubGran} (hpubs : (s.bank k).pubs = p :: rest)
    (hheld : p.held = false) (hg : p.granules[i]? = some g) :
    ∃ t, exec (.publicationComplete k i) s = .next t ∧
      (t.bank k).pubs = (if p.granules.filter (fun x => !s.tied p.granules g.g x.g) = [] then rest
        else { p with granules := p.granules.filter (fun x => !s.tied p.granules g.g x.g) } :: rest) ∧
      (p.granules.filter (fun x => s.tied p.granules g.g x.g) = [g] → (s.buf? (g.g * 64 / 2 ^ 64)).isSome = true →
        t.hbm = g.bytes.foldl (fun h e => h.merge e.1 [e.2]) s.hbm) ∧ t.mem = s.mem := by
  obtain ⟨tied, htied⟩ : ∃ tied, tied = p.granules.filter (fun x => s.tied p.granules g.g x.g) := ⟨_, rfl⟩
  obtain ⟨left, hleft⟩ : ∃ left, left = p.granules.filter (fun x => !s.tied p.granules g.g x.g) := ⟨_, rfl⟩
  obtain ⟨v, hv⟩ : ∃ v, v = tied.foldl (fun t x => t.putGran x (s.bank k).asid) s := ⟨_, rfl⟩
  obtain ⟨hbufs, hmem⟩ := State.putGrans_shows tied (s.bank k).asid s
  rw [← hv] at hbufs hmem
  have hlefts : p.granules.filter (fun x => !v.tied p.granules g.g x.g) = left := by rw [State.tied_of_bufs hbufs, hleft]
  have hhbm : tied = [g] → (s.buf? (g.g * 64 / 2 ^ 64)).isSome = true → v.hbm = g.bytes.foldl (fun h e => h.merge e.1 [e.2]) s.hbm := by
    intro hone hsome
    rw [hv, hone]
    exact (s.putGran_shows g _).2.2 hsome
  rw [← hleft, ← htied]
  have hexec : exec (.publicationComplete k i) s = .next (if left = [] then
      (p.handles.foldl State.bumpVersion v).modBank k (fun b => { b with pubs := rest })
      else v.modBank k (fun b => { b with pubs := { p with granules := left } :: rest })) := by
    show execPublicationComplete k i s = _
    unfold execPublicationComplete
    dsimp only
    rw [hpubs]
    dsimp only
    rw [hheld, if_neg Bool.false_ne_true, hg]
    dsimp only
    rw [← htied, ← hv, hlefts]
  have hbump : ∃ b, p.handles.foldl State.bumpVersion v = { v with bufs := b } :=
    State.foldl_frame (put := fun s b => { s with bufs := b }) (fun _ _ _ => rfl) (fun s h => s.modBuf_frame h _) _ (b₀ := v.bufs) rfl
  refine ⟨_, hexec, ?_⟩
  by_cases hempty : left = []
  · obtain ⟨b, hb⟩ := hbump
    rw [if_pos hempty, if_pos hempty, hb, State.bank_modBank, if_pos rfl]
    exact ⟨rfl, hhbm, hmem⟩
  · rw [if_neg hempty, if_neg hempty, State.bank_modBank, if_pos rfl]
    exact ⟨rfl, hhbm, hmem⟩

/-- Answers, landings, rendezvous, multicasts and publications. -/
theorem farEnds : FarEnds :=
  ⟨fun _ _ _ _ hone hreply => farEndReply_shows hone hreply,
    fun _ _ _ _ _ hp hdst hchan hmcast hland hr hwf hdata hpusher => postedWriteLand_shows hp hdst hchan hmcast hland hr hwf hdata hpusher,
    fun _ _ _ _ htask hg hall => groupRendezvous_shows htask hg hall,
    fun _ _ _ _ _ hes hranks hstage hneed hrank => mcastArrival_shows hes hranks hstage hneed hrank,
    fun _ _ _ _ _ _ hes hneed hop hrank hcount => mcwaitRelease_shows hes hneed hop hrank hcount,
    fun _ _ _ _ _ _ hpubs hheld hg => publicationComplete_shows hpubs hheld hg⟩

end Sys2Proof.Machine

end

section
/-! Self-tests and replays (05 R105; 08 R177; 11 R225). -/

namespace Sys2Proof.Machine

/-! ## Logging -/

/-- What records of the rings change: dies, there the ring alone, what is left of the free choices, and VER of the discovery table. -/
structure State.Logs (s t : State) : Prop where
  frame : t = { s with dies := t.dies, free := t.free, sched := { s.sched with discVer := t.sched.discVer } }
  die : ∀ j, ∃ r n w q, t.die j = { s.die j with ring := r, next := n, wraps := w, seq := q }

namespace State.Logs

theorem refl (s : State) : Logs s s := ⟨rfl, fun j => ⟨(s.die j).ring, (s.die j).next, (s.die j).wraps, (s.die j).seq, rfl⟩⟩

theorem trans {s t u : State} (h : Logs s t) (h' : Logs t u) : Logs s u := by
  refine ⟨?_, fun j => ?_⟩
  · rw [h'.frame, h.frame]
  · obtain ⟨r, n, w, q, hj⟩ := h.die j
    obtain ⟨r', n', w', q', hj'⟩ := h'.die j
    exact ⟨r', n', w', q', by rw [hj', hj]⟩

theorem logRec (s : State) (d code core cell : Nat) (ws : List Word) : Logs s (s.logRec d code core cell ws) := by
  rw [State.logRec_eq]
  split
  · exact refl s
  · refine ⟨rfl, fun j => ?_⟩
    rw [State.die_modDie]
    split
    · next h => rw [h]; exact ⟨_, _, _, _, rfl⟩
    · exact (refl s).die j

theorem bump (s : State) : Logs s s.bump := ⟨rfl, (refl s).die⟩

theorem discUpdate (s : State) : Logs s s.discUpdate := by
  rw [State.discUpdate]
  split
  · exact refl s
  · exact ⟨rfl, (refl s).die⟩

theorem discCaused (s : State) (d : Nat) : Logs s (s.discCaused d) :=
  (((discUpdate s).trans (bump _)).trans (bump _)).trans ((bump _).trans (logRec _ _ _ _ _ _))

theorem foldl {α : Type} {s : State} {f : State → α → State} (hf : ∀ (t : State) (a : α), t.Logs (f t a)) (l : List α) : s.Logs (l.foldl f s) :=
  List.foldlRecOn (motive := fun t => s.Logs t) l f (refl s) fun _ ht a _ => ht.trans (hf _ a)

theorem cells {s t : State} (h : Logs s t) : t.cells = s.cells := by rw [h.frame]
theorem mem {s t : State} (h : Logs s t) : t.mem = s.mem := by rw [h.frame]
theorem cell {s t : State} (h : Logs s t) (k : Nat) : t.cell k = s.cell k := by rw [State.cell, State.cell, h.cells]
theorem bank {s t : State} (h : Logs s t) (k : Nat) : t.bank k = s.bank k := by rw [State.bank, State.bank, h.cell]

theorem fence {s t : State} (h : Logs s t) (j : Nat) : (t.die j).fence = (s.die j).fence := by
  obtain ⟨r, n, w, q, hj⟩ := h.die j
  rw [hj]

end State.Logs

/-! ## Self-tests -/

/-- The state in which both counts of a matrix cell have restarted. -/
def State.recounted (s : State) (k : Nat) : State := s.bump.modCell k (fun c => { c with since := 0, lastTest := s.time })

/-- The state in which failing sub-arrays are fenced. -/
def State.fencedNow (s : State) (k : Nat) : State :=
  s.modDie (k / 128) (fun d => { d with
    fence := d.fence ||| BitVec.ofNat 128 (s.failing k * 2 ^ (8 * (k % 128))), fullw := setBit d.fullw (k % 128) false })

theorem State.recounted_cell (s : State) (k : Nat) : (s.recounted k).cell k = { s.cell k with since := 0, lastTest := s.time } := by
  rw [State.recounted, State.cell_modCell, if_pos rfl]
  rfl

theorem State.selfTest_passes {s : State} {k : Nat} (h : s.failing k = 0) :
    s.selfTest k = ((s.recounted k).modCell k (fun c => { c with passed := c.passed + 1 }), true) := by
  unfold State.selfTest
  dsimp only
  rw [if_pos h]
  rfl

/-- A self-test that fails fences, and logs what it has found. -/
theorem State.selfTest_fails {s : State} {k : Nat} (h : s.failing k ≠ 0) :
    ∃ t, s.selfTest k = (t, false) ∧ ((s.recounted k).modDie (k / 128) (fun d => { d with
      fence := d.fence ||| BitVec.ofNat 128 (s.failing k * 2 ^ (8 * (k % 128))), fullw := setBit d.fullw (k % 128) false })).Logs t := by
  unfold State.selfTest
  dsimp only
  rw [if_neg h]
  exact ⟨_, rfl, (State.Logs.foldl (fun u i => .logRec u _ _ _ _ _) _).trans (.discCaused _ _)⟩

theorem selftest_shows {s : State} {k : Nat} {e : Instr} (hcls : s.cls k = 1) (hsvc : isService k = false) (hes : (s.bank k).prim.entries = [])
    (hstop : (s.bank k).prim.stop = none) (hspec : (s.bank k).spec = false) (hrun : (s.core k .e).run = .running)
    (he : (e = .selftestCount k ∧ 4096 ≤ (s.cell k).since) ∨ (e = .selftestTimer k ∧ 1000000 ≤ s.time - (s.cell k).lastTest)) :
    ∃ t, exec e s = .next t ∧ (t.cell k).since = 0 ∧ (t.cell k).lastTest = s.time ∧ t.mem = s.mem ∧
      (s.failing k = 0 → (t.cell k).passed = (s.cell k).passed + 1 ∧ (t.bank k).prim.stop = none ∧ t.dies = s.dies) ∧
      (s.failing k ≠ 0 → (t.bank k).prim.stop = some cSELFTEST ∧
        (t.die (k / 128)).fence = (s.die (k / 128)).fence ||| BitVec.ofNat 128 (s.failing k * 2 ^ (8 * (k % 128)))) := by
  have hexec : exec e s = .next (s.testBetween k) := by
    obtain ⟨rfl, hdue⟩ | ⟨rfl, hdue⟩ := he
    · show execSelftestCount k s = _
      exact congrArg Host.Outcome.next (if_pos ⟨hcls, by rw [hsvc]; rfl, hdue⟩)
    · show execSelftestTimer k s = _
      exact congrArg Host.Outcome.next (if_pos ⟨hcls, by rw [hsvc]; rfl, hdue⟩)
  refine ⟨_, hexec, ?_⟩
  have hbetween : s.testBetween k = (if (s.selfTest k).2 then (s.selfTest k).1 else (s.selfTest k).1.stopQueue k .primary cSELFTEST none) := by
    unfold State.testBetween
    dsimp only
    rw [hes, hstop]
    rfl
  have hcounts := s.recounted_cell k
  have hbank : (s.recounted k).bank k = s.bank k := by rw [State.bank, hcounts]; rfl
  by_cases hfail : s.failing k = 0
  · rw [hbetween, State.selfTest_passes hfail]
    dsimp only
    have hcell : ((s.recounted k).modCell k (fun c => { c with passed := c.passed + 1 })).cell k =
        { s.cell k with since := 0, lastTest := s.time, passed := (s.cell k).passed + 1 } := by
      rw [State.cell_modCell, if_pos rfl, hcounts]
    rw [if_pos rfl, hcell]
    exact ⟨rfl, rfl, rfl, fun _ => ⟨rfl, by rw [State.bank, hcell]; exact hstop, rfl⟩, fun h => absurd hfail h⟩
  · obtain ⟨u, hu, hlogs⟩ := State.selfTest_fails hfail
    have hucell : u.cell k = { s.cell k with since := 0, lastTest := s.time } := (hlogs.cell k).trans hcounts
    have hubank : u.bank k = s.bank k := (hlogs.bank k).trans hbank
    obtain ⟨⟨c, hc⟩, hstopped, hcell⟩ := State.stopQueue_shows (s := u) (k := k) (e := .primary) (by rw [hubank]; exact hspec)
      (by rw [State.core, hubank]; exact hrun) cSELFTEST none
    rw [hbetween, hu]
    dsimp only
    rw [if_neg Bool.false_ne_true, hcell, hstopped, hucell]
    refine ⟨rfl, rfl, ?_, fun h => absurd h hfail, fun _ => ⟨?_, ?_⟩⟩
    · rw [hc]
      exact hlogs.mem
    · show ((Bank.stopWith _ EngIx.primary cSELFTEST none).engine .primary).stop = _
      rw [Bank.stopWith, Bank.setCore_engine, Bank.engine_setEngine_same]
    · rw [hc]
      show (u.die (k / 128)).fence = _
      rw [hlogs.fence, State.die_modDie_same]
      rfl

/-! ## Refused pages -/

/-- What the refusal of a page leaves as it is before the queue stops. -/
def State.Still (s t : State) : Prop := s.Keeps t ∧ ∀ k, (t.bank k).task = (s.bank k).task

namespace State.Still

theorem refl (s : State) : Still s s := ⟨.refl s, fun _ => rfl⟩

theorem trans {s t u : State} (h : Still s t) (h' : Still t u) : Still s u := ⟨h.1.trans h'.1, fun k => (h'.2 k).trans (h.2 k)⟩

theorem foldl {α : Type} {s : State} {f : State → α → State} (hf : ∀ (t : State) (a : α), t.Still (f t a)) (l : List α) : s.Still (l.foldl f s) :=
  List.foldlRecOn (motive := fun t => s.Still t) l f (refl s) fun _ ht a _ => ht.trans (hf _ a)

theorem modBank (s : State) (k : Nat) {f : Bank → Bank} (hcore : ∀ b c, (f b).core c = b.core c) (htask : ∀ b, (f b).task = b.task) :
    Still s (s.modBank k f) := by
  refine ⟨.modBank s k hcore, fun j => ?_⟩
  rw [State.bank_modBank]
  split
  · next h => rw [h, htask]
  · rfl

theorem bufPutW (s : State) (k h off : Nat) (ws : List WByte) : Still s (s.bufPutW k h off ws) := by
  refine ⟨.bufPutW s k h off ws, fun j => ?_⟩
  unfold State.bufPutW
  rw [State.modBuf_bank, State.bank_modBank]
  split
  · next h => rw [h]
  · rfl

theorem modCell_posted (s : State) (k : Nat) (f : List Posted → List Posted) : Still s (s.modCell k (fun c => { c with posted := f c.posted })) := by
  have hbank : ∀ j, (s.modCell k (fun c => { c with posted := f c.posted })).bank j = s.bank j := by
    intro j
    rw [State.bank, State.cell_modCell]
    split
    · next h => rw [h]; rfl
    · rfl
  exact ⟨⟨rfl, fun j c => congrArg (·.core c) (hbank j), rfl, rfl, rfl⟩, fun j => congrArg Bank.task (hbank j)⟩

theorem pageAnswered (s : State) (pasid page : Nat) : Still s (s.pageAnswered pasid page) := by
  unfold State.pageAnswered
  dsimp only
  split
  · split
    · exact ⟨⟨rfl, fun _ _ => rfl, rfl, rfl, rfl⟩, fun _ => rfl⟩
    · exact ⟨⟨rfl, fun _ _ => rfl, rfl, rfl, rfl⟩, fun _ => rfl⟩
  · exact ⟨⟨rfl, fun _ _ => rfl, rfl, rfl, rfl⟩, fun _ => rfl⟩

theorem dropParked (s : State) (k uid : Nat) : Still s (s.dropParked k uid) :=
  (modCell_posted s k _).trans (foldl (fun (t : State) (p : Nat × Nat) => pageAnswered t p.1 p.2) _)

end State.Still

/-- The state in which the pages of an entry have been given up, before its queue stops. -/
def State.pagesRefused (s : State) (k : Nat) (ent : Entry) : State :=
  let s := ent.late.foldl (fun s l => s.bufPutW k l.h l.off l.data) s
  let s := match ent.op with
    | .xfer (.copy _ f) => ((ent.parked.map (· / 64)).eraseDups).foldl (fun (s : State) p => s.pageAnswered (ent.pasid f) p) s
    | _ => s
  (s.dropParked k ent.uid).modBank k (fun b => b.putEntry .transfer { ent with late := [], moves := [] })

theorem State.pagesRefused_still (s : State) (k : Nat) (ent : Entry) : s.Still (s.pagesRefused k ent) := by
  have hlate : s.Still (ent.late.foldl (fun s l => s.bufPutW k l.h l.off l.data) s) := .foldl (fun t l => .bufPutW t k _ _ _) _
  have hput : ∀ u : State, u.Still (u.modBank k (fun b => b.putEntry .transfer { ent with late := [], moves := [] })) :=
    fun u => .modBank u k (fun b c => Bank.putEntry_core b _ _ c) fun b => Bank.putEntry_task b _ _
  unfold State.pagesRefused
  dsimp only
  split
  · exact hlate.trans ((State.Still.foldl (fun t p => .pageAnswered t _ p) _).trans ((State.Still.dropParked _ k _).trans (hput _)))
  · exact hlate.trans ((State.Still.dropParked _ k _).trans (hput _))

theorem hostPageRefused_shows {s : State} {k : Nat} {ent : Entry} (hent : (s.bank k).xfer.entries.find? (fun e => e.need == .replay) = some ent)
    (hspec : (s.bank k).spec = false) (hrun : (s.core k .x).run = .running) :
    ∃ t, exec (.hostPageRefused k) s = .next t ∧ (t.bank k).xfer.stop = some cHOST ∧ (t.bank k).xfer.culprit = some ent.uid ∧
      t.mem = s.mem ∧ t.hostMem = s.hostMem := by
  have hexec : exec (.hostPageRefused k) s = .next ((s.pagesRefused k ent).stopQueue k .transfer cHOST (some ent.uid)) := by
    show execHostPageRefused k s = _
    unfold execHostPageRefused
    rw [hent]
    rfl
  obtain ⟨hkeeps, htask⟩ := s.pagesRefused_still k ent
  have hspec' : ((s.pagesRefused k ent).bank k).spec = false := by rw [Bank.spec, htask]; exact hspec
  obtain ⟨⟨c, hc⟩, hstopped, -⟩ := State.stopQueue_shows (e := .transfer) hspec' ((congrArg Core.run (hkeeps.core k .x)).trans hrun) cHOST
    (some ent.uid)
  have hengine : ((((s.pagesRefused k ent).stopQueue k .transfer cHOST (some ent.uid)).bank k).engine .transfer) =
      { ((((s.pagesRefused k ent).grants k).bank k).engine .transfer) with stop := some cHOST, culprit := some ent.uid } := by
    rw [hstopped, Bank.stopWith, Bank.setCore_engine, Bank.engine_setEngine_same]
  refine ⟨_, hexec, congrArg Engine.stop hengine, congrArg Engine.culprit hengine, ?_, ?_⟩
  · rw [hc]; exact hkeeps.mem
  · rw [hc]; exact hkeeps.hostMem

end Sys2Proof.Machine

end

section
/-! Parked elements of a host copy replay once their pages have translations (11 R225). -/

namespace Sys2Proof.Machine

/-! ## Stores without poison -/

/-- No byte of a map of stores is poisoned. -/
def Unpoisoned (m : KMap WByte) : Prop := ∀ e ∈ m, e.2.bad = false

theorem mem_of_kget? {α : Type} {m : KMap α} {i : Nat} {v : α} (h : kget? m i = some v) : (i, v) ∈ m := by
  induction m with
  | nil => exact absurd h nofun
  | cons e m ih =>
    rw [kget?] at h
    split at h
    · next hk => exact List.mem_cons.mpr (.inl (Prod.ext hk.symm (Option.some.inj h).symm))
    · exact List.mem_cons_of_mem _ (ih h)

theorem Unpoisoned.kjoin {m : KMap WByte} (hm : Unpoisoned m) {ws : List WByte} (hws : ∀ w ∈ ws, w.bad = false) (a : Nat) :
    Unpoisoned (kjoin m a ws) := by
  induction ws generalizing m a with
  | nil => exact hm
  | cons w ws ih =>
    rw [kjoin_cons]
    refine ih (fun e he => ?_) (fun x hx => hws x (List.mem_cons_of_mem _ hx)) _
    have hw : w.bad = false := hws w List.mem_cons_self
    obtain rfl | he := mem_of_mem_kset he
    · show (joined (kget? m a) w).bad = false
      cases hold : kget? m a with
      | none => exact hw
      | some x =>
        have hx : x.bad = false := hm _ (mem_of_kget? hold)
        show (x.bad || w.bad) = false
        rw [hx, hw]
        rfl
    · exact hm e he

theorem Unpoisoned.putBits {m : KMap WByte} (hm : Unpoisoned m) (o w v : Nat) : Unpoisoned (putBits m o w v false) := by
  refine hm.kjoin (fun x hx => ?_) _
  obtain ⟨i, -, rfl⟩ := List.mem_map.mp hx
  rfl

theorem Unpoisoned.putAll {vals : List (Mv × Nat × Bool)} (hvals : ∀ e ∈ vals, e.2.2 = false) (w : Nat) :
    Unpoisoned (vals.foldl (fun m e => Machine.putBits m e.1.dst w e.2.1 e.2.2) []) := by
  refine List.foldlRecOn (motive := Unpoisoned) vals _ (fun _ h => absurd h List.not_mem_nil) fun m hm e he => ?_
  rw [hvals e he]
  exact hm.putBits _ _ _

theorem cutPoison_unpoisoned {m : KMap WByte} (hm : Unpoisoned m) (order : List Nat) : cutPoison order m = (m, false) := by
  have hnone : m.filter (fun e => e.2.bad) = [] := List.filter_eq_nil_iff.mpr fun e he => by rw [hm e he]; exact Bool.false_ne_true
  rw [cutPoison, hnone]
  rfl

/-- A scratchpad without poisoned granules reads unpoisoned. -/
theorem State.sideBits_pad {s : State} (hbad : s.memBad = []) {a : AReg} (ha : a.kind = 1) (k o w : Nat) : (s.sideBits k a o w).2 = false := by
  have hk : a.kind.toNat = 1 := by rw [ha]; rfl
  have hbytes : ∀ lo n, ∀ b ∈ s.sideBytes k a lo n, b.2 = false := by
    intro lo n b hb
    rw [State.sideBytes, hk] at hb
    obtain ⟨p, -, rfl⟩ := List.mem_map.mp hb
    rw [hbad]
    exact List.any_eq_false.mpr fun g _ => Bool.false_ne_true
  rw [State.sideBits]
  exact List.any_eq_false.mpr fun b hb => by rw [hbytes _ _ b hb]; exact Bool.false_ne_true

/-! ## Elements that all go on -/

theorem foldl_all_go {α β γ : Type} {f : List α × List β × List γ → α → List α × List β × List γ} {l : List α}
    (hf : ∀ go, ∀ m ∈ l, f (go, [], []) m = (m :: go, [], [])) (go : List α) : l.foldl f (go, [], []) = (l.reverse ++ go, [], []) := by
  induction l generalizing go with
  | nil => rfl
  | cons m l ih =>
    rw [List.foldl_cons, hf go m List.mem_cons_self, ih fun go m hm => hf go m (List.mem_cons_of_mem _ hm), List.reverse_cons, List.append_assoc]
    rfl

theorem State.splitHost_all {s : State} {p : Plan} {room : Nat} (hroom : 0 < room) {mvs : List Mv}
    (h : ∀ m ∈ mvs, ∃ q a b, p.hostAt m = some (q, a, b) ∧ s.pageOk q a = true ∧ s.pageOk q b = true) :
    s.splitHost p false room mvs = (mvs, []) := by
  unfold State.splitHost
  rw [foldl_all_go]
  · exact congrArg (fun l => (l, ([] : List Mv))) (by rw [List.append_nil, List.reverse_reverse] : (mvs.reverse ++ []).reverse = mvs)
  · intro go m hm
    obtain ⟨q, a, b, hat, ha, hb⟩ := h m hm
    rw [hat]
    dsimp only
    rw [ha, hb, if_pos (by simpa using hroom)]

theorem findSome?_replayable {s : State} {k : Nat} {ent : Entry} {r : Nat × FmtX × Plan × List Mv × List Mv} {es : List Entry}
    (hfind : es.find? (fun e => e.need == .replay) = some ent) (hr : s.replayable k ent = some r) :
    es.findSome? (fun e => (s.replayable k e).map (fun r => (e, r))) = some (ent, r) := by
  obtain ⟨-, as, bs, rfl, has⟩ := List.find?_eq_some_iff_append.mp hfind
  have hnone : ∀ e ∈ as, (s.replayable k e).map (fun r => (e, r)) = none := by
    intro e he
    have hne : e.need ≠ .replay := by simpa using has e he
    rw [State.replayable]
    split
    · next h _ => exact absurd h hne
    · rfl
  rw [List.findSome?_append, List.findSome?_eq_none_iff.mpr hnone, Option.none_or, List.findSome?_cons, hr]
  rfl

/-! ## Host writes that do not park -/

/-- A write of entry uid to a host page of PASID q that has its translation. -/
structure Posted.Ready (s : State) (uid q : Nat) (p : Posted) : Prop where
  uid : p.uid = uid
  chan : p.chan = none
  parked : p.parked = false
  dst : ∃ adr, p.dst = .host q adr ∧ s.pageOk q adr = true

theorem post_host {s : State} {uid q : Nat} (k : Nat) {ps : List Posted} (hps : ∀ p ∈ ps, p.Ready s uid q) :
    s.post k ps = s.modCell k (fun c => { c with posted := c.posted ++ ps }) := by
  have htargets : targetsOf ps = [] := by
    refine List.foldlRecOn (motive := fun l => l = []) ps _ rfl fun l hl p hp => ?_
    obtain ⟨adr, hdst, -⟩ := (hps p hp).dst
    rw [hl, hdst]
    rfl
  rw [State.post, htargets]
  rfl

/-- A fold that puts each element back as it is. -/
theorem foldl_append_same {α : Type} {f : List α → α → List α} {l : List α} (hf : ∀ pre a post, l = pre ++ a :: post → f pre a = pre ++ [a]) :
    l.foldl f [] = l := by
  have hgen : ∀ (post pre : List α), l = pre ++ post → post.foldl f pre = l := by
    intro post
    induction post with
    | nil => intro pre h; rw [h, List.append_nil]; rfl
    | cons a post ih =>
      intro pre h
      rw [List.foldl_cons, hf pre a post h]
      exact ih (pre ++ [a]) (by rw [h, List.append_assoc]; rfl)
  exact hgen l [] rfl

/-- Writes whose pages have translations, with room before them in the replay queue, do not park. -/
theorem siftHost_ready {s : State} {k uid q : Nat} {old ps : List Posted} (hposted : (s.cell k).posted = old ++ ps)
    (hold : ∀ p ∈ old, p.uid ≠ uid) (hps : ∀ p ∈ ps, p.Ready s uid q) (hroom : s.parkedIn k uid < 64) :
    ∃ c, s.siftHost k (fun p => p.uid == uid) = s.setCell k c ∧ c = s.cell k := by
  refine ⟨_, rfl, ?_⟩
  show ({ s.cell k with posted := (s.cell k).posted.foldl _ [] } : Cell) = s.cell k
  rw [foldl_append_same]
  · intro pre p post hsplit
    have hmem : ∀ x ∈ pre ++ p :: post, x ∈ old ∨ x ∈ ps := fun x hx => List.mem_append.mp (hposted ▸ hsplit ▸ hx)
    have hnone : p.uid = uid → (pre.filter (fun x => x.parked && x.uid == p.uid)) = [] := by
      intro hu
      refine List.filter_eq_nil_iff.mpr fun x hx => ?_
      obtain hx | hx := hmem x (List.mem_append_left _ hx)
      · rw [hu, beq_false_of_ne (hold x hx), Bool.and_false]; exact Bool.false_ne_true
      · rw [(hps x hx).parked, Bool.false_and]; exact Bool.false_ne_true
    split
    · next q' a hdst =>
      dsimp only
      split
      · next hu =>
        have hu' : p.uid = uid := eq_of_beq hu
        obtain hp | hp := hmem p (List.mem_append_right _ List.mem_cons_self)
        · exact absurd hu' (hold p hp)
        · obtain ⟨adr, hadr, hok⟩ := (hps p hp).dst
          obtain ⟨rfl, rfl⟩ := PostDst.host.inj (hdst.symm.trans hadr)
          rw [hnone hu', hok, hu', List.length_nil, Nat.add_zero, decide_eq_true hroom]
          have hparked := (hps p hp).parked
          cases p
          simp_all
      · rfl
    · rfl

/-- The state with writes posted on a cell. -/
def State.posting (s : State) (k : Nat) (ps : List Posted) : State := s.setCell k { s.cell k with posted := (s.cell k).posted ++ ps }

theorem State.posting_cell (s : State) (k : Nat) (ps : List Posted) :
    (s.posting k ps).cell k = { s.cell k with posted := (s.cell k).posted ++ ps } := by rw [State.posting, State.cell_setCell, if_pos rfl]

theorem State.posting_bank (s : State) (k : Nat) (ps : List Posted) : (s.posting k ps).bank k = s.bank k := by
  rw [State.bank, State.posting_cell]
  rfl

theorem State.posting_parkedIn {s : State} {k uid q : Nat} {ps : List Posted} (hps : ∀ p ∈ ps, p.Ready s uid q) :
    (s.posting k ps).parkedIn k uid = s.parkedIn k uid := by
  have hnone : ps.filter (fun p => p.parked && decide (p.uid < uid)) = [] :=
    List.filter_eq_nil_iff.mpr fun p hp => by rw [(hps p hp).parked, Bool.false_and]; exact Bool.false_ne_true
  rw [State.parkedIn, State.posting_bank, State.posting_cell]
  dsimp only
  rw [List.filter_append, hnone, List.append_nil]
  rfl

/-- The stores of a copy to the host, none poisoned and every page translated, are posted and none parks. -/
theorem State.layDown_host {s : State} {k : Nat} {ent : Entry} {d : AReg} (hd : d.kind = 4) {order : List Nat} {m : KMap WByte}
    (hm : Unpoisoned m) (hpages : ∀ g ∈ order, ∀ adr, adr / 64 = g → s.pageOk d.bind.toNat adr = true)
    (hold : ∀ p ∈ (s.cell k).posted, p.uid ≠ ent.uid) (hroom : s.parkedIn k ent.uid < 64) (opc : Nat) (f : FmtX) (more : Bool) :
    ∃ ps, s.layDown k ent opc f d order m more = { s := s.posting k ps, ent := some ent } ∧ ∀ p ∈ ps, p.Ready s ent.uid d.bind.toNat := by
  have hk : d.kind.toNat = 4 := by rw [hd]; rfl
  obtain ⟨ps, hps⟩ : ∃ ps, ps = (order.flatMap (fun g => (storeRuns (fun a => a % 64 == 0) m).filter (fun r => r.1 / 64 == g))).map (fun r =>
    { dst := .host d.bind.toNat r.1, data := r.2, uid := ent.uid : Posted }) := ⟨_, rfl⟩
  have hready : ∀ p ∈ ps, p.Ready s ent.uid d.bind.toNat := by
    intro p hp
    rw [hps] at hp
    obtain ⟨r, hr, rfl⟩ := List.mem_map.mp hp
    obtain ⟨g, hg, hr⟩ := List.mem_flatMap.mp hr
    exact ⟨rfl, rfl, rfl, r.1, rfl, hpages g hg r.1 (eq_of_beq (List.mem_filter.mp hr).2)⟩
  have hpost : s.post k ps = s.posting k ps := post_host k hready
  have hready' : ∀ p ∈ ps, p.Ready (s.posting k ps) ent.uid d.bind.toNat := fun p hp => ⟨(hready p hp).uid, (hready p hp).chan, (hready p hp).parked,
    (hready p hp).dst⟩
  have hposted : ((s.posting k ps).cell k).posted = (s.cell k).posted ++ ps := by rw [State.posting_cell]
  obtain ⟨c, hc, hsame⟩ := siftHost_ready hposted hold hready' (by rw [State.posting_parkedIn hready]; exact hroom)
  have hsift : (s.posting k ps).siftHost k (fun p => p.uid == ent.uid) = s.posting k ps := by
    rw [hc, hsame, State.posting_cell, State.posting, State.setCell_setCell]
  have hparks : ((s.posting k ps).cell k).parks ent.uid = false := by
    refine List.any_eq_false.mpr fun p hp => ?_
    rw [hposted] at hp
    obtain hp | hp := List.mem_append.mp hp
    · rw [beq_false_of_ne (hold p hp), Bool.and_false]; exact Bool.false_ne_true
    · rw [(hready p hp).parked, Bool.false_and]; exact Bool.false_ne_true
  refine ⟨ps, ?_, hready⟩
  unfold State.layDown
  rw [hk]
  dsimp only
  rw [cutPoison_unpoisoned hm]
  dsimp only
  rw [← hps, hpost, hsift, hparks]
  rfl

/-! ## The replay -/

theorem granuleOrder_mem {w g : Nat} {mvs : List Mv} (h : g ∈ granuleOrder w mvs) :
    ∃ m ∈ mvs, g = m.dst / 512 ∨ g = (m.dst + w - 1) / 512 := by
  rw [granuleOrder, List.mem_eraseDups] at h
  obtain ⟨m, hm, hg⟩ := List.mem_flatMap.mp h
  exact ⟨m, hm, by simpa using hg⟩

theorem State.pageOk_congr {s : State} {q a b : Nat} (h : a / 4096 = b / 4096) : s.pageOk q a = s.pageOk q b := by
  rw [State.pageOk, State.pageOk, h]

/-- What the reading of a scratchpad leaves as it is. -/
structure State.ReadOnly (k : Nat) (s t : State) : Prop where
  frame : t = { s with cells := t.cells }
  posted : (t.cell k).posted = (s.cell k).posted
  xfer : (t.bank k).xfer = (s.bank k).xfer

theorem State.ReadOnly.touch (s : State) (k off n : Nat) : s.ReadOnly k (s.touch k off n) :=
  ⟨rfl, State.posted_setBank s k k _, by rw [State.touch, State.bank_modBank, if_pos rfl]⟩

theorem State.ReadOnly.trans {k : Nat} {s t u : State} (h : s.ReadOnly k t) (h' : t.ReadOnly k u) : s.ReadOnly k u :=
  ⟨by rw [h'.frame, h.frame], h'.posted.trans h.posted, h'.xfer.trans h.xfer⟩

theorem State.readSide_pad {a : AReg} (ha : a.kind = 1) (s : State) (k : Nat) (runs : List (Nat × Nat)) : s.ReadOnly k (s.readSide k a runs) := by
  have hk : a.kind.toNat = 1 := by rw [ha]; rfl
  unfold State.readSide
  rw [hk]
  exact List.foldlRecOn (motive := fun t => State.ReadOnly k s t) runs _ ⟨rfl, rfl, rfl⟩ fun t ht r _ => ht.trans (.touch t k _ _)

theorem State.ReadOnly.parkedIn {k : Nat} {s t : State} (h : s.ReadOnly k t) (uid : Nat) : t.parkedIn k uid = s.parkedIn k uid := by
  rw [State.parkedIn, State.parkedIn, h.posted, h.xfer]

/-- A host copy from a scratchpad without poison lays its bytes down whole. -/
theorem State.moveNow_host {s : State} {k : Nat} {ent : Entry} {f : FmtX} {p : Plan} {a : XSide} {mvs : List Mv} (hsrc : p.src = some a)
    (ha : a.a.kind = 1) (hdk : p.dst.kind = 4) (hbad : s.memBad = [])
    (hpages : ∀ m ∈ mvs, s.pageOk p.dst.h (m.dst / 8) = true ∧ s.pageOk p.dst.h ((m.dst + p.wd - 1) / 8) = true)
    (hold : ∀ x ∈ (s.cell k).posted, x.uid ≠ ent.uid) (hroom : s.parkedIn k ent.uid < 64) :
    ∃ u ps, s.ReadOnly k u ∧ s.moveNow k ent 0x183 f p mvs false = { s := u.posting k ps, ent := some ent } ∧
      ∀ x ∈ ps, x.Ready u ent.uid p.dst.h := by
  obtain ⟨u, hu⟩ : ∃ u, u = s.readSide k a.a (runsOf p.ws (mvs.filterMap (fun (m : Mv) => m.src))) := ⟨_, rfl⟩
  have hread : s.ReadOnly k u := hu ▸ State.readSide_pad ha s k _
  have hubad : u.memBad = [] := by
    rw [hread.frame]
    exact hbad
  have hok : ∀ q adr, u.pageOk q adr = s.pageOk q adr := by
    intro q adr
    rw [hread.frame]
    rfl
  have hdk' : p.dst.a.kind = 4 := BitVec.eq_of_toNat_eq hdk
  have hgran : ∀ g ∈ granuleOrder p.wd mvs, ∀ adr, adr / 64 = g → u.pageOk p.dst.a.bind.toNat adr = true := by
    intro g hg adr hadr
    obtain ⟨m, hm, hcase⟩ := granuleOrder_mem hg
    obtain ⟨hfirst, hlast⟩ := hpages m hm
    rw [hok]
    obtain h | h := hcase
    · exact (State.pageOk_congr (by omega)).trans hfirst
    · exact (State.pageOk_congr (by omega)).trans hlast
  have hlaid : ∃ ps, s.moveNow k ent 0x183 f p mvs false = { s := u.posting k ps, ent := some ent } ∧ ∀ x ∈ ps, x.Ready u ent.uid p.dst.h := by
    unfold State.moveNow
    rw [hsrc]
    dsimp only
    rw [← hu, if_neg (by decide), if_pos (Or.inl hdk), if_neg (by decide)]
    refine State.layDown_host hdk' (Unpoisoned.putAll (fun e he => ?_) p.wd) hgran (by rw [hread.posted]; exact hold)
      (by rw [hread.parkedIn]; exact hroom) 0x183 f false
    obtain ⟨x, -, rfl⟩ := List.mem_map.mp he
    dsimp only
    split
    · next h _ => exact State.sideBits_pad hubad (Option.some.inj h ▸ ha) k _ _
    · rfl
    · rfl
  obtain ⟨ps, hps, hready⟩ := hlaid
  exact ⟨u, ps, hread, hps, hready⟩

/-- The plan by which a parked entry of a host copy replays. -/
def Entry.replayPlan (ent : Entry) (d a : XSide) : Plan :=
  { src := some a, dst := d, st := 0, dt := 0, ws := ent.w, wd := ent.w, moves := ent.moves }

theorem replayRelease_shows {s : State} {k : Nat} {ent : Entry} {f : FmtX} {d a : XSide}
    (hent : (s.bank k).xfer.entries.find? (fun e => e.need == .replay) = some ent) (hop : ent.op = .xfer (.copy 0x183 f))
    (hd : s.side (ent.areg f.ad) = .ok d) (ha : s.side (ent.areg f.as) = .ok a) (hdk : d.kind = 4) (hmoves : ent.moves ≠ [])
    (hpages : ∀ m ∈ ent.moves, s.pageOk d.h (m.dst / 8) = true ∧ s.pageOk d.h ((m.dst + ent.w - 1) / 8) = true)
    (hroom : s.parkedIn k ent.uid < 64) (hbad : s.memBad = []) (hak : a.kind = 1) (hold : ∀ p ∈ (s.cell k).posted, p.uid ≠ ent.uid) :
    ∃ t, exec (.replayRelease k) s = .next t ∧
      (∃ ps, (t.cell k).posted = (s.cell k).posted ++ ps ∧ ∀ p ∈ ps, p.uid = ent.uid ∧ ∃ adr, p.dst = .host d.h adr) ∧
      (∃ x ∈ (t.bank k).xfer.entries, x.uid = ent.uid ∧ x.stage = .finished ∧ x.moves = []) ∧ t.mem = s.mem ∧ t.hostMem = s.hostMem := by
  have hneed : ent.need = .replay := by simpa using List.find?_some hent
  have hsplit : s.splitHost (ent.replayPlan d a) false (64 - s.parkedIn k ent.uid) ent.moves = (ent.moves, []) :=
    State.splitHost_all (by omega) fun m hm => ⟨d.h, m.dst / 8, (m.dst + ent.w - 1) / 8, if_pos hdk, hpages m hm⟩
  have hreplay : s.replayable k ent = some (0x183, f, ent.replayPlan d a, ent.moves, []) := by
    rw [State.replayable, hneed, hop]
    dsimp only
    rw [if_neg (by decide), hd, ha]
    dsimp only
    rw [show ((0x183 : Nat) == 0x182) = false from by decide, ← Entry.replayPlan, hsplit]
    exact if_neg hmoves
  obtain ⟨u, ps, hread, hmove, hready⟩ := State.moveNow_host (k := k) (ent := { ent with moves := [] }) (f := f) (p := ent.replayPlan d a)
    (mvs := ent.moves) rfl (BitVec.eq_of_toNat_eq hak) hdk hbad hpages hold hroom
  have hchan : ((u.posting k ps).cell k).posted.any (fun q => q.uid == ent.uid && q.chan.isSome) = false := by
    refine List.any_eq_false.mpr fun x hx => ?_
    rw [State.posting_cell] at hx
    obtain hx | hx := List.mem_append.mp hx
    · rw [hread.posted] at hx
      rw [beq_false_of_ne (hold x hx), Bool.false_and]
      exact Bool.false_ne_true
    · rw [(hready x hx).chan, Option.isSome_none, Bool.and_false]
      exact Bool.false_ne_true
  have hexec : exec (.replayRelease k) s = .next ((u.posting k ps).modBank k (fun b => b.putEntry .transfer
      { ent with moves := [], stage := .finished, need := .none, flags := ({} : Flags).word })) := by
    show execReplayRelease k s = _
    unfold execReplayRelease
    rw [findSome?_replayable hent hreplay]
    dsimp only
    rw [show (([] : List Mv) != []) = false from rfl, hmove]
    simp only [decide_true, Bool.true_or, if_true, hchan, Bool.and_false, Bool.false_eq_true, if_false, State.started, Option.getD_some]
  have hmem : ent ∈ (s.bank k).xfer.entries := List.mem_of_find?_eq_some hent
  refine ⟨_, hexec, ⟨ps, ?_, fun x hx => ⟨(hready x hx).uid, (hready x hx).dst.imp fun _ h => h.1⟩⟩,
    ⟨{ ent with moves := [], stage := .finished, need := .none, flags := ({} : Flags).word }, ?_, rfl, rfl, rfl⟩, ?_, ?_⟩
  · rw [State.modBank, State.posted_setBank, State.posting_cell, ← hread.posted]
  · rw [State.bank_modBank, if_pos rfl]
    refine Bank.mem_putEntry (e := .transfer) (ent := ent) ?_ rfl
    show ent ∈ ((u.posting k ps).bank k).xfer.entries
    rw [State.posting_bank, hread.xfer]
    exact hmem
  · show u.mem = s.mem
    rw [hread.frame]
  · show u.hostMem = s.hostMem
    rw [hread.frame]

/-- Self-tests between entries, replays, and refused pages. -/
theorem selfTestsAndReplays : SelfTestsAndReplays :=
  ⟨fun _ _ _ hcls hsvc hes hstop hspec hrun he => selftest_shows hcls hsvc hes hstop hspec hrun he,
    fun _ _ _ _ _ _ hent hop hd ha hdk hmoves hpages hroom hbad hak hold =>
      replayRelease_shows hent hop hd ha hdk hmoves hpages hroom hbad hak hold,
    fun _ _ _ hent hspec hrun => hostPageRefused_shows hent hspec hrun⟩

/-- Settles O42: far ends by the answer, the landing or the meeting of each; self-tests and replays by what they stop or lay down. -/
theorem engineEvents : Obligations.EngineEvents := ⟨farEnds, selfTestsAndReplays⟩

end Sys2Proof.Machine

end

section
/-! Tasks end, swap in, are suspended, resume and are killed (05 R98 to R101; 15 R286, R289, R298, R301). -/

namespace Sys2Proof.Machine

/-! ## What the desk does: nodes, leases, records and dies, no cell and no chip memory -/

/-- No cell, no on-chip byte, no noted fault and no count of launches differs. -/
structure State.Desk (s t : State) : Prop where
  cells : t.cells = s.cells
  mem : t.mem = s.mem
  faults : t.sched.faults = s.sched.faults
  launches : t.sched.launches = s.sched.launches

namespace State.Desk

theorem refl (s : State) : Desk s s := ⟨rfl, rfl, rfl, rfl⟩

theorem trans {s t u : State} (h : Desk s t) (h' : Desk t u) : Desk s u :=
  ⟨h'.cells.trans h.cells, h'.mem.trans h.mem, h'.faults.trans h.faults, h'.launches.trans h.launches⟩

theorem cell {s t : State} (h : Desk s t) (k : Nat) : t.cell k = s.cell k := by rw [State.cell, h.cells]; rfl

theorem bank {s t : State} (h : Desk s t) (k : Nat) : t.bank k = s.bank k := congrArg Cell.b (h.cell k)

theorem core {s t : State} (h : Desk s t) (k : Nat) (c : CoreIx) : t.core k c = s.core k c := congrArg (Bank.core · c) (h.bank k)

theorem of_logs {s t : State} (h : s.Logs t) : Desk s t := ⟨h.cells, h.mem, by rw [h.frame], by rw [h.frame]⟩

theorem foldl {α : Type} {f : State → α → State} (hf : ∀ t a, Desk t (f t a)) (l : List α) (s : State) : Desk s (l.foldl f s) := by
  induction l generalizing s with
  | nil => exact refl s
  | cons a l ih => exact (hf s a).trans (ih _)

theorem modNode (s : State) (n : Nat) (f : Node → Node) : Desk s (s.modNode n f) := by
  unfold State.modNode
  split <;> exact ⟨rfl, rfl, rfl, rfl⟩

theorem modBuf (s : State) (h : Nat) (f : Buf → Buf) : Desk s (s.modBuf h f) := by
  obtain ⟨bufs, hb⟩ := State.modBuf_frame s h f
  rw [hb]
  exact ⟨rfl, rfl, rfl, rfl⟩

theorem freeBuf (s : State) (h : Nat) : Desk s (s.freeBuf h) := ⟨rfl, rfl, rfl, rfl⟩

theorem dropRef (s : State) (h : Nat) : Desk s (s.dropRef h) := by
  unfold State.dropRef
  split
  · split
    · exact modBuf _ _ _
    · refine (freeBuf s h).trans ?_
      extract_lets u
      split
      · split
        · exact modBuf _ _ _
        · exact freeBuf _ _
      · exact refl _
  · exact refl _

theorem dropRefs (s : State) (l : List Access) : Desk s (s.dropRefs l) := foldl (fun t _ => dropRef t _) _ s

theorem noteReads (s : State) (n : Nat) (hs : List Nat) : Desk s (s.noteReads n hs) := modNode s n _

/-- The AVAIL bit of a faulty cell. -/
theorem retireCell (s : State) (k : Nat) : Desk s (s.retireCell k) := by
  unfold State.retireCell
  dsimp only
  split
  · exact (show Desk s (s.modDie _ _) from ⟨rfl, rfl, rfl, rfl⟩).trans (of_logs (State.Logs.discCaused _ _))
  · exact refl s

end State.Desk

theorem State.modNode_hbm (s : State) (n : Nat) (f : Node → Node) : (s.modNode n f).hbm = s.hbm := by
  unfold State.modNode
  split <;> rfl

theorem State.retireCell_hbm (s : State) (k : Nat) : (s.retireCell k).hbm = s.hbm := by
  unfold State.retireCell
  dsimp only
  split
  · rw [(State.Logs.discCaused _ _).frame]
    rfl
  · rfl

/-! ## The last phase, and the end of a task -/

/-- Nothing is left to publish: the last phase ends at once, the task's cores stand, and a task that ends by a fault is still ending. -/
theorem State.lastPhase_shows {s : State} {k : Nat} (hpubs : (s.bank k).pubs = []) (hd : (s.bank k).final = true ∨ (s.bank k).dirty = []) :
    s.InBank k (s.lastPhase k) ∧ ((s.lastPhase k).bank k).pubs = [] ∧ ((s.lastPhase k).bank k).final = true ∧
      ((s.lastPhase k).bank k).ending = (s.bank k).ending ∧ ∀ c, (s.lastPhase k).core k c = s.core k c := by
  unfold State.lastPhase
  split
  · next hf => exact ⟨.refl k s, hpubs, hf, rfl, fun _ => rfl⟩
  · next hf =>
    have hdirty : (s.bank k).dirty = [] := hd.resolve_left hf
    have hgb : (s.bank k).giveBack.dirty = [] ∧ (s.bank k).giveBack.pubs = [] := by
      constructor <;> simp only [Bank.giveBack, hpubs, hdirty, List.filter_nil, List.foldl_nil]
    have hcap : (s.modBank k Bank.giveBack).capture k true none false = s.modBank k Bank.giveBack := by
      unfold State.capture
      refine if_pos ?_
      rw [State.bank_modBank, if_pos rfl, hgb.1]
      rfl
    rw [hcap]
    have hb : (((s.modBank k Bank.giveBack).modBank k (fun b => { b with final := true })).bank k) = { (s.bank k).giveBack with final := true } := by
      rw [State.bank_modBank, if_pos rfl, State.bank_modBank, if_pos rfl]
    refine ⟨(State.InBank.modBank s k (f := Bank.giveBack) fun _ => rfl).trans (.modBank _ k fun _ => rfl), ?_, ?_, ?_, fun c => ?_⟩
    · rw [hb]; exact hgb.2
    · rw [hb]
    · rw [hb]; rfl
    · rw [State.core, hb]; cases c <;> rfl

theorem recClean_length (l : List Word) : (recClean l).length = l.length := by
  rw [recClean, List.length_zipWith, List.length_range, Nat.min_self]

theorem leaveBytes_length (l : List Word) : ((recClean l).flatMap (fun w => leBytes 8 w.toNat)).length = 8 * l.length := by
  rw [List.length_flatMap]
  simp only [leBytes_length, List.map_const', List.sum_replicate, recClean_length, smul_eq_mul]
  exact Nat.mul_comm _ _

/-- The bytes of the bank that a task leaves. -/
theorem State.byte_leaveBank {s : State} (hm : s.mem.wf = true) (k : Nat) (bank : Bool) (t : Task) {a : Nat}
    (ha : ¬ (bankBase k bank ≤ a ∧ a < bankBase k bank + 8 * t.record.length)) : (s.leaveBank k bank t).mem.byte a = s.mem.byte a := by
  refine (Mem.byte_write (Mem.wf_rising hm) _ _ a).trans (if_neg ?_)
  rw [leaveBytes_length]
  exact ha

/-- The bytes that a launch bank does not hold are the same. -/
def State.BesideBank (s t : State) (k : Nat) (t0 : Task) : Prop :=
  ∀ a, ¬ (bankBase k (s.cell k).active ≤ a ∧ a < bankBase k (s.cell k).active + 8 * t0.record.length) → t.mem.byte a = s.mem.byte a

/-- A cell without a task has nothing to complete. -/
theorem State.finishCell_none {s : State} {k : Nat} (h : (s.bank k).task = none) : s.finishCell k = s := by
  unfold State.finishCell
  extract_lets b
  split
  · rfl
  · next t ht => exact absurd (h.symm.trans ht) nofun

/-- A cell whose task has completed. -/
def Cell.vacate (c : Cell) : Cell :=
  { c with preempt := false, b := { c.b with task := none, final := false, kids := [], own := [], ownBad := [] } }

theorem State.finishCell_eq {s : State} {k : Nat} {t0 : Task} (ht : (s.bank k).task = some t0) (hall : (s.bank k).allDone = true)
    (hend : (s.bank k).ending = none) (hpubs : (s.bank k).pubs = []) (hpost : (s.cell k).posted = [])
    (hd : (s.bank k).final = true ∨ (s.bank k).dirty = []) :
    s.finishCell k =
      let v := (s.lastPhase k).modNode t0.node (fun n => { n with cells := n.cells.erase k })
      ((v.leaveBank k (v.cell k).active t0).modCell k Cell.vacate).retireCell k := by
  obtain ⟨hin, hp, -⟩ := State.lastPhase_shows hpubs hd
  have hown : ((s.lastPhase k).cell k).ownPosted = [] := by
    rw [hin.cell_same, Cell.ownPosted]
    dsimp only
    rw [hpost, List.filter_nil]
  unfold State.finishCell
  extract_lets b u
  split
  · next h => exact absurd (ht.symm.trans h) nofun
  · next t h =>
    obtain rfl := Option.some.inj (ht.symm.trans h)
    split
    · next h =>
      rw [hall, hend] at h
      exact absurd h nofun
    · split
      · next h => exact absurd h (not_or.2 ⟨not_not.2 hp, not_not.2 hown⟩)
      · rfl

/-- The task of a cell completes: the cell is free, its cores as they were. -/
theorem State.finishCell_shows {s : State} {k : Nat} {t0 : Task} (ht : (s.bank k).task = some t0) (hall : (s.bank k).allDone = true)
    (hend : (s.bank k).ending = none) (hpubs : (s.bank k).pubs = []) (hpost : (s.cell k).posted = [])
    (hd : (s.bank k).final = true ∨ (s.bank k).dirty = []) (hm : s.mem.wf = true) :
    ((s.finishCell k).bank k).task = none ∧ ((s.finishCell k).bank k).ending = none ∧ (s.finishCell k).hbm = s.hbm ∧
      (∀ c, (s.finishCell k).core k c = s.core k c) ∧ (s.finishCell k).sched.faults = s.sched.faults ∧
      s.BesideBank (s.finishCell k) k t0 := by
  obtain ⟨hin, hp', -, hend', hcore⟩ := State.lastPhase_shows hpubs hd
  obtain ⟨cells, hfr⟩ := hin.frame
  have hc := hin.cell_same
  rw [State.finishCell_eq ht hall hend hpubs hpost hd]
  obtain ⟨u, hu⟩ : ∃ u, u = s.lastPhase k := ⟨_, rfl⟩
  rw [← hu] at hin hp' hend' hcore hfr hc ⊢
  have hn : u.Desk (u.modNode t0.node (fun n => { n with cells := n.cells.erase k })) := .modNode _ _ _
  obtain ⟨v, hv⟩ : ∃ v, v = u.modNode t0.node (fun n => { n with cells := n.cells.erase k }) := ⟨_, rfl⟩
  rw [← hv] at hn ⊢
  have hact : (v.cell k).active = (s.cell k).active := by rw [hn.cell, hc]
  have hr := State.Desk.retireCell ((v.leaveBank k (v.cell k).active t0).modCell k Cell.vacate) k
  have hb : ((((v.leaveBank k (v.cell k).active t0).modCell k Cell.vacate).retireCell k).bank k) = (v.cell k).vacate.b := by
    rw [hr.bank, State.bank, State.cell_modCell, if_pos rfl]
    rfl
  refine ⟨?_, ?_, ?_, fun c => ?_, ?_, fun a ha => ?_⟩
  · rw [hb]; rfl
  · rw [hb]
    exact (congrArg Bank.ending (hn.bank k)).trans (hend'.trans hend)
  · refine (State.retireCell_hbm _ k).trans ((congrArg State.hbm hv).trans ((State.modNode_hbm _ _ _).trans ?_))
    rw [hfr]
  · rw [State.core, hb]
    refine Eq.trans ?_ ((hn.core k c).trans (hcore c))
    cases c <;> rfl
  · refine hr.faults.trans (hn.faults.trans ?_)
    rw [hfr]
  · refine (congrArg (Mem.byte · a) hr.mem).trans ?_
    have hvm : v.mem = s.mem := hn.mem.trans (by rw [hfr])
    have hlb := State.byte_leaveBank (s := v) (hvm ▸ hm) k (v.cell k).active t0 (hact ▸ ha)
    exact hlb.trans (congrArg (Mem.byte · a) hvm)

/-! ## The end of a task by a fault -/

theorem Bank.applyReseeds_frame (b : Bank) : ∃ mx, b.applyReseeds = { b with mx := mx } := by
  unfold Bank.applyReseeds
  extract_lets due
  split
  · exact ⟨_, rfl⟩
  · exact ⟨b.mx, rfl⟩

/-- No entry is dropped: at most a reseed takes effect. -/
theorem Bank.dropEntries_nil (b : Bank) (e : EngIx) : b.dropEntries e [] = b.applyReseeds := by
  have hq : (b.engine e).entries.filter (fun x => !([] : List Entry).any (fun y => y.uid == x.uid)) = (b.engine e).entries :=
    List.filter_eq_self.2 fun _ _ => rfl
  have hset : b.setEngine e (b.engine e) = b := by cases e <;> rfl
  have hcore : b.setCore (ownerOf e) (b.core (ownerOf e)) = b := by cases e <;> rfl
  have heq : b.dropEntries e [] = ((b.setEngine e { b.engine e with
      entries := (b.engine e).entries.filter (fun x => !([] : List Entry).any (fun y => y.uid == x.uid)) }).setCore (ownerOf e)
      ((b.setEngine e { b.engine e with
        entries := (b.engine e).entries.filter (fun x => !([] : List Entry).any (fun y => y.uid == x.uid)) }).core (ownerOf e))).applyReseeds := rfl
  rw [heq, hq, hset, hcore]

/-- Empty queues have nothing to drop. -/
theorem State.dropUnstarted_shows {s : State} {k : Nat} (hp : (s.bank k).prim.entries = []) (hx : (s.bank k).xfer.entries = []) :
    ∃ mx, s.dropUnstarted k = s.setBank k { s.bank k with mx := mx } := by
  have hdp : s.dropped k .primary = [] := by
    rw [State.dropped]
    exact (congrArg (List.filter _) hp).trans List.filter_nil
  have hdx : s.dropped k .transfer = [] := by
    rw [State.dropped]
    exact (congrArg (List.filter _) hx).trans List.filter_nil
  obtain ⟨m, hm⟩ := (s.bank k).applyReseeds_frame
  obtain ⟨m', hm'⟩ := Bank.applyReseeds_frame { s.bank k with mx := m }
  refine ⟨m', ?_⟩
  show s.setBank k (((s.bank k).dropEntries .primary (s.dropped k .primary)).dropEntries .transfer (s.dropped k .transfer)) = _
  rw [hdp, hdx, Bank.dropEntries_nil, Bank.dropEntries_nil]
  exact congrArg (s.setBank k) ((congrArg Bank.applyReseeds hm).trans hm')

/-- A core that has no task any more. -/
def Core.quit (r : Core) : Core := if r.run = .absent then r else { r with run := .done }

theorem Core.quit_run (r : Core) : (r.quit.run == .done || r.quit.run == .absent) = true ∧ (r.run ≠ .absent → r.quit.run = .done) := by
  unfold Core.quit
  split
  · next h => exact ⟨by rw [h]; rfl, fun hr => absurd h hr⟩
  · exact ⟨rfl, fun _ => rfl⟩

/-- The bank of a task that a fault has ended. -/
def Bank.closed (b : Bank) : Bank := { b with ending := none, e := b.e.quit, v := b.v.quit, x := b.x.quit }

theorem Bank.closed_core (b : Bank) (c : CoreIx) : b.closed.core c = (b.core c).quit := by cases c <;> rfl

theorem Bank.closed_allDone (b : Bank) : b.closed.allDone = true := by
  simp only [Bank.allDone, Bank.closed, (Core.quit_run _).1, Bool.and_self]

theorem kget_map {α : Type} {d : α} {f : α → α} {m : KMap α} {k : Nat} (hd : f d = d) :
    kget d (m.map (fun e => (e.1, f e.2))) k = f (kget d m k) := by
  have hopt : kget? (m.map (fun e => (e.1, f e.2))) k = (kget? m k).map f := by
    induction m with
    | nil => rfl
    | cons e m ih =>
      simp only [List.map_cons, kget?]
      split
      · rfl
      · exact ih
  rw [kget, hopt, kget]
  cases kget? m k with
  | none => exact hd.symm
  | some v => rfl

/-- A retiring node leaves what stands on a cell: its cores and whether its task is ending. -/
theorem State.retireNode_shows (s : State) (n : Nat) (nd : Node) (st k : Nat) :
    (s.retireNode n nd st).mem = s.mem ∧ (s.retireNode n nd st).sched.faults = s.sched.faults ∧
      ((s.retireNode n nd st).bank k).ending = (s.bank k).ending ∧ ∀ c, (s.retireNode n nd st).core k c = s.core k c := by
  have hd := State.Desk.dropRefs s nd.accs
  have hb : (s.retireNode n nd st).bank k = ((s.dropRefs nd.accs).bank k).kidDone n st :=
    (congrArg Cell.b (kget_map (d := ({} : Cell)) (f := fun (c : Cell) => { c with
      b := c.b.kidDone n st, suspended := c.suspended.map (fun (x : Suspended) => { x with bank := x.bank.kidDone n st }) })
      (m := (s.dropRefs nd.accs).cells) (k := k) rfl) :)
  refine ⟨hd.mem, hd.faults, ?_, fun c => ?_⟩
  · rw [hb]
    exact (rfl : _ = ((s.dropRefs nd.accs).bank k).ending).trans (congrArg Bank.ending (hd.bank k))
  · refine Eq.trans ?_ (hd.core k c)
    rw [State.core, hb]
    cases c <;> rfl

theorem State.retireFaultNode_shows (s : State) (n k : Nat) :
    (s.retireFaultNode n).mem = s.mem ∧ (s.retireFaultNode n).sched.faults = s.sched.faults ∧
      ((s.retireFaultNode n).bank k).ending = (s.bank k).ending ∧ ∀ c, (s.retireFaultNode n).core k c = s.core k c := by
  unfold State.retireFaultNode
  split
  · split
    · exact State.retireNode_shows _ _ _ _ _
    · exact ⟨rfl, rfl, rfl, fun _ => rfl⟩
  · exact ⟨rfl, rfl, rfl, fun _ => rfl⟩

theorem exec_taskEndByFault {s : State} {k : Nat} {f : Ending} (hend : (s.bank k).ending = some f)
    (hp : (s.bank k).prim.entries = []) (hx : (s.bank k).xfer.entries = []) (hpost : (s.cell k).posted = []) (hpubs : (s.bank k).pubs = [])
    (hd : (s.bank k).final = true ∨ (s.bank k).dirty = []) :
    ∃ n b, exec (.taskEndByFault k) s = .next
      ((((((s.dropUnstarted k).lastPhase k).modNode n (fun x => { x with faulted := true })).modBank k Bank.closed).finishCell k).retireFaultNode n
        |>.faultNote k b f) := by
  obtain ⟨mx, hu⟩ := State.dropUnstarted_shows hp hx
  have hc : (s.dropUnstarted k).bank k = { s.bank k with mx := mx } := by rw [hu, State.bank_setBank_same]
  obtain ⟨-, hp', -⟩ := State.lastPhase_shows (s := s.dropUnstarted k) (k := k) (by rw [hc]; exact hpubs) (by rw [hc]; exact hd)
  have hown : ((s.dropUnstarted k).cell k).ownPosted = [] := by
    rw [hu, State.setBank, State.cell_modCell, if_pos rfl, Cell.ownPosted]
    dsimp only
    rw [hpost, List.filter_nil]
  refine ⟨((s.dropUnstarted k).bank k).task.elim 8192 Task.node, (s.dropUnstarted k).bank k, ?_⟩
  show execTaskEndByFault k s = _
  unfold execTaskEndByFault
  split
  · next h => exact absurd (hend.symm.trans h) nofun
  · next f' h =>
    obtain rfl := Option.some.inj (hend.symm.trans h)
    extract_lets u b
    split
    · next h =>
      refine absurd h (not_or.2 ⟨?_, not_not.2 hown⟩)
      show ¬ (!((s.dropUnstarted k).bank k).emptied) = true
      rw [hc, Bank.emptied]
      dsimp only
      rw [hp, hx]
      exact Bool.false_ne_true
    · split
      · next h => exact absurd hp' h
      · have hn : ((s.dropUnstarted k).bank k).task.elim 8192 Task.node =
          (match ((s.dropUnstarted k).bank k).task with | some t => t.node | none => 8192) := by
          cases ((s.dropUnstarted k).bank k).task <;> rfl
        rw [hn]
        rfl

/-- The cell of a task that a fault has ended is free, its fault noted. -/
theorem State.closed_shows {s : State} {k : Nat} (hall : (s.bank k).allDone = true) (hend : (s.bank k).ending = none)
    (hpubs : (s.bank k).pubs = []) (hpost : (s.cell k).posted = []) (hd : (s.bank k).final = true ∨ (s.bank k).dirty = []) (hm : s.mem.wf = true) :
    ((s.finishCell k).bank k).ending = none ∧ (∀ c, (s.finishCell k).core k c = s.core k c) ∧
      (s.finishCell k).sched.faults = s.sched.faults ∧
      ∀ a, (∀ t0, (s.bank k).task = some t0 →
        ¬ (bankBase k (s.cell k).active ≤ a ∧ a < bankBase k (s.cell k).active + 8 * t0.record.length)) →
        (s.finishCell k).mem.byte a = s.mem.byte a := by
  cases ht : (s.bank k).task with
  | none =>
    rw [State.finishCell_none ht]
    exact ⟨hend, fun _ => rfl, rfl, fun _ _ => rfl⟩
  | some t0 =>
    obtain ⟨-, he, -, hc, hf, hb⟩ := State.finishCell_shows ht hall hend hpubs hpost hd hm
    exact ⟨he, hc, hf, fun a ha => hb a (ha t0 rfl)⟩

theorem State.faultNote_shows (s : State) (k : Nat) (b : Bank) (f : Ending) :
    (s.faultNote k b f).cells = s.cells ∧ (s.faultNote k b f).mem = s.mem ∧
      (s.faultNote k b f).sched.faults = s.sched.faults ++ [⟨k, f.core, f.cause, f.epc, f.tval, f.eng⟩] := ⟨rfl, rfl, rfl⟩

theorem taskEndByFault_shows {s : State} {k : Nat} {f : Ending} (hend : (s.bank k).ending = some f)
    (hp : (s.bank k).prim.entries = []) (hx : (s.bank k).xfer.entries = []) (hpost : (s.cell k).posted = []) (hpubs : (s.bank k).pubs = [])
    (hd : (s.bank k).final = true ∨ (s.bank k).dirty = []) (hm : s.mem.wf = true) :
    ∃ t, exec (.taskEndByFault k) s = .next t ∧ (t.bank k).ending = none ∧
      t.sched.faults = s.sched.faults ++ [⟨k, f.core, f.cause, f.epc, f.tval, f.eng⟩] ∧
      (∀ c, (s.core k c).run ≠ .absent → (t.core k c).run = .done) ∧
      (∀ a, (∀ t0, (s.bank k).task = some t0 →
        ¬ (bankBase k (s.cell k).active ≤ a ∧ a < bankBase k (s.cell k).active + 8 * t0.record.length)) → t.mem.byte a = s.mem.byte a) := by
  obtain ⟨n, b, hexec⟩ := exec_taskEndByFault hend hp hx hpost hpubs hd
  refine ⟨_, hexec, ?_⟩
  clear hexec
  obtain ⟨mx, hu⟩ := State.dropUnstarted_shows hp hx
  obtain ⟨u, hu'⟩ : ∃ u, u = s.dropUnstarted k := ⟨_, rfl⟩
  rw [← hu'] at hu ⊢
  have hub : u.bank k = { s.bank k with mx := mx } := by rw [hu, State.bank_setBank_same]
  have hus : s.InBank k u := hu ▸ .setBank s k rfl
  obtain ⟨hin, hlp, hlf, -, hlc⟩ := State.lastPhase_shows (s := u) (k := k) (by rw [hub]; exact hpubs) (by rw [hub]; exact hd)
  have hsin := hus.trans hin
  obtain ⟨cells, hfr⟩ := hsin.frame
  obtain ⟨v, hv⟩ : ∃ v, v = u.lastPhase k := ⟨_, rfl⟩
  rw [← hv] at hlp hlf hlc hsin hfr ⊢
  have hn := State.Desk.modNode v n (fun x => { x with faulted := true })
  obtain ⟨w, hw⟩ : ∃ w, w = (v.modNode n (fun x => { x with faulted := true })).modBank k Bank.closed := ⟨_, rfl⟩
  rw [← hw]
  have hwb : w.bank k = (v.bank k).closed := by
    rw [hw, State.bank_modBank, if_pos rfl]
    exact congrArg Bank.closed (hn.bank k)
  have hwc : w.cell k = { v.cell k with b := (v.bank k).closed } := by
    rw [hw]
    refine (State.cell_modCell _ _ _ _).trans ((if_pos rfl).trans ?_)
    rw [hn.cell]
    exact congrArg (fun b => { v.cell k with b := Bank.closed b }) (hn.bank k)
  have hwm : w.mem = s.mem := by
    rw [hw, State.modBank_mem, hn.mem, hfr]
  have hwf : w.sched.faults = s.sched.faults := by
    rw [hw, State.modBank_sched, hn.faults, hfr]
  have hcell := hsin.cell_same
  obtain ⟨he, hc, hf, hb⟩ := State.closed_shows (s := w) (k := k) (by rw [hwb]; exact Bank.closed_allDone _) (by rw [hwb]; rfl) (by rw [hwb]; exact hlp)
    (by rw [hwc, hcell]; exact hpost) (.inl (by rw [hwb]; exact hlf)) (hwm ▸ hm)
  obtain ⟨hrm, hrf, hre, hrc⟩ := State.retireFaultNode_shows (w.finishCell k) n k
  refine ⟨hre.trans he, ?_, fun c hca => ?_, fun a ha => ?_⟩
  · show ((w.finishCell k).retireFaultNode n).sched.faults ++ _ = _
    rw [hrf, hf, hwf]
  · refine (congrArg Core.run ((hrc c).trans (hc c))).trans ?_
    rw [State.core, hwb, Bank.closed_core]
    refine (Core.quit_run _).2 ?_
    rw [show (v.bank k).core c = u.core k c from hlc c, State.core, hub]
    cases c <;> exact hca
  · show ((w.finishCell k).retireFaultNode n).mem.byte a = _
    rw [hrm, ← hwm]
    refine hb a fun t0 ht0 => ?_
    rw [hwc, hcell]
    refine ha t0 ?_
    rw [hwb] at ht0
    exact hsin.2.symm.trans ht0

/-! ## A killed task -/

theorem taskKilled_shows {s : State} {k : Nat} {t0 : Task} (ht : (s.bank k).task = some t0) (hg : t0.group k = [k]) (hs : t0.spec = false)
    (hend : (s.bank k).ending = none) :
    ∃ t, exec (.taskKilled k) s = .next t ∧ (t.bank k).ending = some ⟨.e, 0x1F, 0, (s.core k .e).pc, 0⟩ ∧
      (∀ c, (s.core k c).run ≠ .absent → (t.core k c).run = .stopped) ∧ t = s.setBank k (t.bank k) := by
  have hkill : s.killTask k cKILLED 0 = s.endTask k .e cKILLED 0 (s.core k .e).pc 0 := by
    unfold State.killTask
    split
    · next h => exact absurd (ht.symm.trans h) nofun
    · next t h =>
      obtain rfl := Option.some.inj (ht.symm.trans h)
      rw [hg, List.foldl_cons, List.foldl_nil]
      exact if_pos (by rw [ht]; exact beq_self_eq_true t0.launch)
  refine ⟨_, congrArg Host.Outcome.next (hkill.trans (State.endTask_shows ht hs hend .e cKILLED 0 _ 0)), ?_, fun c hc => ?_, ?_⟩
  · rw [State.bank_setBank_same]
    rfl
  · rw [State.core, State.bank_setBank_same]
    refine Eq.trans ?_ ((Bank.stopCores_shows (s.bank k)).2 c hc)
    cases c <;> rfl
  · rw [State.bank_setBank_same]

/-! ## A suspended task resumes -/

/-- No bank was taken: there is nothing to bring back. -/
theorem State.reclaim_self {s : State} {k : Nat} (h : (s.bank k).spill.taken = []) (key : Nat × Nat × Nat) : s.reclaim k key = s := by
  unfold State.reclaim
  extract_lets b
  refine if_pos ?_
  show (!(s.bank k).spill.taken.contains key) = true
  rw [h]
  rfl

theorem State.restore_shows (s : State) (k : Nat) {x : Suspended} (h : x.bank.spill.taken = []) :
    (s.restore k x).bank k = { x.bank with uid := max x.bank.uid (s.bank k).uid } ∧
      ((s.restore k x).cell k).suspended = (s.cell k).suspended.dropLast := by
  have hkept : x.bank.touched.filter (fun g => !x.bank.spill.taken.contains (7, 0, g)) = x.bank.touched := by
    rw [h]
    exact List.filter_eq_self.2 fun _ _ => rfl
  unfold State.restore
  extract_lets c u v kept
  have hk : kept = x.bank.touched := hkept
  rw [State.bank, State.cell_setCell_same, hk]
  exact ⟨rfl, rfl⟩

theorem State.swapReady_task {s : State} {k : Nat} (h : s.swapReady k = true) : (s.bank k).task = none := by
  simp only [State.swapReady, Bool.and_eq_true] at h
  exact Option.isNone_iff_eq_none.1 h.1.1.1

theorem taskResume_shows {s : State} {k : Nat} {x : Suspended} {t0 : Task} (hx : (s.cell k).suspended.getLast? = some x)
    (ht : x.bank.task = some t0) (hend : x.bank.ending = none) (hg : t0.group k = [k]) (hready : s.swapReady k = true)
    (hsh : (s.cell k).shadow = none) (hlater : ∀ o ∈ x.later, ∀ e ∈ s.sched.nodes, e.2.order ≠ o) (htaken : x.bank.spill.taken = []) :
    ∃ t, exec (.taskResume k) s = .next t ∧ t.bank k = { x.bank with uid := max x.bank.uid (s.bank k).uid } ∧
      (t.cell k).suspended = (s.cell k).suspended.dropLast := by
  have hsame : x.bank.task.any (fun u => u.launch == t0.launch) = true := by rw [ht]; exact beq_self_eq_true t0.launch
  have hjs : (t0.group k).filter (fun j => (s.cell j).suspended.any (fun y => y.bank.task.any (fun u => u.launch == t0.launch))) = [k] := by
    rw [hg]
    refine List.filter_eq_self.2 fun j hj => ?_
    obtain rfl := List.mem_singleton.1 hj
    exact List.any_eq_true.2 ⟨x, List.mem_of_getLast? hx, hsame⟩
  have htask : (s.bank k).task = none := State.swapReady_task hready
  obtain ⟨hb, hc⟩ := s.restore_shows k htaken
  have hrec : [(5, 0, 0), (5, 1, 0), (6, 0, 0)].foldl (fun (u : State) key => u.reclaim k key) (s.restore k x) = s.restore k x := by
    have hnone : ((s.restore k x).bank k).spill.taken = [] := by rw [hb]; exact htaken
    rw [List.foldl_cons, State.reclaim_self hnone, List.foldl_cons, State.reclaim_self hnone, List.foldl_cons, State.reclaim_self hnone,
      List.foldl_nil]
  have hexec : exec (.taskResume k) s = .next ((s.restore k x).modNode t0.node (fun n => { n with st := .running })) := by
    show execTaskResume k s = _
    unfold execTaskResume
    split
    · next h => exact absurd (hx.symm.trans h) nofun
    · next y h =>
      obtain rfl := Option.some.inj (hx.symm.trans h)
      split
      · next h => exact absurd (ht.symm.trans h) nofun
      · next t h =>
        obtain rfl := Option.some.inj (ht.symm.trans h)
        extract_lets js w ready v
        have hjs' : js = [k] := hjs
        have hw : w = s := by
          show js.foldl State.finishCell s = s
          rw [hjs']
          exact State.finishCell_none htask
        refine congrArg Host.Outcome.next ((if_pos ?_).trans ?_)
        · rw [hjs']
          refine List.all_eq_true.2 fun j hj => ?_
          obtain rfl := List.mem_singleton.1 hj
          dsimp only [ready]
          rw [hw, hready, hsh, hx]
          dsimp only
          rw [hend, hsame]
          refine List.all_eq_true.2 fun o ho => List.all_eq_true.2 fun e he => ?_
          exact bne_iff_ne.2 (hlater o ho e he)
        · have hv : v = s.restore k x := by
            show List.foldl _ w js = _
            rw [hjs', hw, List.foldl_cons, List.foldl_nil, hx]
            exact hrec
          rw [hv]
  have hd := State.Desk.modNode (s.restore k x) t0.node (fun n => { n with st := .running })
  exact ⟨_, hexec, (hd.bank k).trans hb, (congrArg Cell.suspended (hd.cell k)).trans hc⟩

/-! ## The launch of a record -/

theorem State.Desk.countSubst (s : State) (d : Buf) (gs : List Nat) : s.Desk (s.countSubst d gs) :=
  .foldl (f := fun (s : State) g => s.modStack (d.stackOf (g * 64 % 2 ^ 64)) (fun st => { st with subst := st.subst + 1 }))
    (fun _ _ => ⟨rfl, rfl, rfl, rfl⟩) gs s

theorem State.Desk.noteHome (s : State) (h off n : Nat) : s.Desk (s.noteHome h off n) := by
  unfold State.noteHome
  split
  · split
    · exact .countSubst _ _ _
    · exact .refl s
  · exact .refl s

theorem State.homeWord_length (s : State) (h off n : Nat) : (s.homeWord h off n).1.length = n := by
  unfold State.homeWord
  extract_lets a raw
  split
  · split
    · rw [List.length_zipWith, List.length_range, Mem.read_length, Nat.min_self]
    · exact Mem.read_length _ _ _
  · exact Mem.read_length _ _ _

/-- The image's bytes reach the scratchpad, no other byte and no cell. -/
theorem State.copyImage_shows (s : State) (k h n : Nat) :
    (s.copyImage k h n).cells = s.cells ∧ (s.copyImage k h n).sched.launches = s.sched.launches ∧
      (s.copyImage k h n).mem = s.mem.write (padBase k) (s.homeWord h 0 n).1 := by
  have hd := State.Desk.noteHome s h 0 n
  unfold State.copyImage
  extract_lets u
  split
  next bs bad hbs =>
  have hw : bs = (s.homeWord h 0 n).1 := by rw [hbs]
  extract_lets v
  have hv : v.cells = s.cells ∧ v.sched.launches = s.sched.launches ∧ v.mem = s.mem.write (padBase k) (s.homeWord h 0 n).1 := by
    refine ⟨hd.cells, hd.launches, ?_⟩
    rw [← hw]
    exact congrArg (Mem.write · _ _) hd.mem
  split
  · split
    · exact hv
    · exact hv
  · exact hv

/-- The length of the image that a record names, as far as the scratchpad goes. -/
def State.imageLen (s : State) (k : Nat) (t : Task) : Nat := min (field (t.word 2) 0 23) (s.padSize k)

/-- What a launched cell is, but for its cores. -/
structure State.Launched (s t : State) (k : Nat) (t0 : Task) : Prop where
  task : (t.bank k).task = some t0
  mine : (t.bank k).spill.mine = if (s.cell k).suspended = [] then none else some []
  shadow : (t.cell k).shadow = none
  active : (t.cell k).active = !(s.cell k).active
  suspended : (t.cell k).suspended = (s.cell k).suspended
  preempt : (t.cell k).preempt = (s.cell k).preempt
  launches : t.sched.launches = s.sched.launches
  zeros : s.mem.wf = true → ∀ o, (s.imageLen k t0 + 4095) / 4096 * 4096 ≤ o → o < s.padSize k → t.mem.byte (padBase k + o) = 0

theorem State.byte_wipeCell {s : State} (hm : s.mem.wf = true) (k off o : Nat) (h : off ≤ o) (ho : o < s.padSize k) :
    (s.wipeCell k off).mem.byte (padBase k + o) = 0 := by
  have hsize := s.padSize_le k
  refine (Mem.byte_clear (Mem.wf_rising hm) _ _ _).trans (if_pos ?_)
  simp only [padBase, chipAddr]
  omega

theorem State.launchBank_shows (s : State) (k : Nat) (t0 : Task) : s.Launched (s.launchBank k t0) k t0 := by
  unfold State.launchBank
  extract_lets c h n image same u v fresh w
  have hv : v.cells = s.cells ∧ v.sched.launches = s.sched.launches ∧
      (s.mem.wf = true → ∀ o, (n + 4095) / 4096 * 4096 ≤ o → o < s.padSize k → v.mem.byte (padBase k + o) = 0) := by
    cases hs : same with
    | true =>
      have hu : u = s.wipeCell k ((n + 4095) / 4096 * 4096) := congrArg (s.wipeCell k) (if_pos hs)
      have hvu : v = u := if_pos hs
      rw [hvu, hu]
      exact ⟨rfl, rfl, fun hm o h ho => State.byte_wipeCell hm k _ o h ho⟩
    | false =>
      have hne : ¬ same = true := by rw [hs]; exact Bool.false_ne_true
      have hu : u = s.wipeCell k 0 := congrArg (s.wipeCell k) (if_neg hne)
      have hvu : v = u.copyImage k h n := if_neg hne
      obtain ⟨hc, hl, hmem⟩ := u.copyImage_shows k h n
      rw [hvu]
      refine ⟨hc.trans (by rw [hu]; rfl), hl.trans (by rw [hu]; rfl), fun hm o ho ho' => ?_⟩
      have hum : u.mem.wf = true := by rw [hu]; exact Mem.wf_clear hm _ _
      rw [hmem]
      refine (Mem.byte_write (Mem.wf_rising hum) _ _ _).trans ((if_neg ?_).trans ?_)
      · rw [State.homeWord_length]
        omega
      · rw [hu]
        exact State.byte_wipeCell hm k 0 o (Nat.zero_le o) ho'
  have hcell : ((w.modCell k (fun c => { c with imem := w.mem.part (padBase k) (w.padSize k) })).cell k) =
      { c with active := !c.active, shadow := none, image := image, lastImage := some h, b := fresh, imem := w.mem.part (padBase k) (w.padSize k) } := by
    rw [State.cell_modCell, if_pos rfl, State.cell_setCell_same]
  refine ⟨?_, ?_, ?_, ?_, ?_, ?_, hv.2.1, hv.2.2⟩
  · rw [State.bank, hcell]
  · rw [State.bank, hcell]
  · rw [hcell]
  · rw [hcell]
  · rw [hcell]
  · rw [hcell]

theorem State.snapshot_inBank (s : State) (k : Nat) : State.InBank k s (s.snapshot k) := by
  unfold State.snapshot
  extract_lets u
  have hu : State.InBank k s u := .modBank s k fun _ => rfl
  exact hu.trans (.modBank u k fun _ => rfl)

/-- The cores of a launched cell. -/
theorem State.launchCores_shows (s : State) (k : Nat) (t0 : Task) :
    (s.launchCores k t0).mem = s.mem ∧ (s.launchCores k t0).sched.launches = s.sched.launches ∧
      (s.launchCores k t0).cell k = { s.cell k with b := (s.launchCores k t0).bank k } ∧
      ((s.launchCores k t0).bank k).task = (s.bank k).task ∧
      ∀ c, (s.launchCores k t0).core k c =
        if (s.bank k).spill.mine.isSome then ((s.snapshot k).launchCore k c).toCome else (s.snapshot k).launchCore k c := by
  have hsnap : (s.snapshot k).mem = s.mem ∧ (s.snapshot k).sched = s.sched ∧ (s.snapshot k).cell k = { s.cell k with b := (s.snapshot k).bank k } ∧
      ((s.snapshot k).bank k).task = (s.bank k).task ∧ ((s.snapshot k).bank k).spill = (s.bank k).spill := by
    refine ⟨rfl, rfl, (s.snapshot_inBank k).cell_same, (s.snapshot_inBank k).2, ?_⟩
    unfold State.snapshot
    extract_lets u
    rw [State.bank_modBank, if_pos rfl]
    show ((State.modBank _ _ _).bank k).spill = _
    rw [State.bank_modBank, if_pos rfl]
  obtain ⟨hm, hsch, hc, ht, hsp⟩ := hsnap
  unfold State.launchCores
  extract_lets u wait core b v w
  have hvc : v.cell k = { s.cell k with b := { u.bank k with e := core .e, v := core .v, x := core .x } } := by
    show (u.setBank k _).cell k = _
    rw [State.setBank, State.cell_modCell, if_pos rfl]
    rw [show u.cell k = _ from hc]
  have hw : v.Desk w := .modNode _ _ _
  have hr : v.Desk (if t0.spec = true then w.noteReads t0.node [t0.word 2 / 2 ^ 32] else w) := by
    split
    · exact hw.trans (.noteReads _ _ _)
    · exact hw
  have hb := (hr.bank k).trans (congrArg Cell.b hvc)
  refine ⟨hr.mem.trans hm, hr.launches.trans (congrArg Sched.launches hsch), ?_, ?_, fun c => ?_⟩
  · rw [hb]
    exact (hr.cell k).trans hvc
  · rw [hb]
    exact ht
  · rw [State.core, hb, ← hsp]
    cases c <;> rfl

theorem Bank.secWord_congr {b b' : Bank} (h : b.task = b'.task) (c : CoreIx) (i : Nat) : b.secWord c i = b'.secWord c i := by
  simp only [Bank.secWord, Bank.recWord, h]

/-- A core as its record starts it. -/
structure Core.Started (r : Core) (w : Nat → Nat) : Prop where
  pc : r.pc = if bitOf (w 0) 63 then wNat (8 * field (w 0) 3 29) else 0
  run : r.run = if bitOf (w 0) 63 then .running else .done
  p : r.p = 0
  status : r.status = 0
  lc : r.lc = 0
  rbase : r.rbase = 0
  epc : r.epc = 0
  cause : r.cause = 0
  tval : r.tval = 0
  h : r.h = false

theorem State.launchCore_started (s : State) (k : Nat) (c : CoreIx) : (s.launchCore k c).Started ((s.bank k).secWord c) :=
  ⟨rfl, rfl, rfl, rfl, rfl, rfl, rfl, rfl, rfl, rfl⟩

theorem State.launchCore_toCome_started (s : State) (k : Nat) (c : CoreIx) : (s.launchCore k c).toCome.Started ((s.bank k).secWord c) :=
  ⟨rfl, rfl, rfl, rfl, rfl, rfl, rfl, rfl, rfl, rfl⟩

theorem State.launchCore_xreg (s : State) (k : Nat) (c : CoreIx) {i : Nat} (hi : i < 32) :
    (s.launchCore k c).xreg i = ⟨if 1 ≤ i ∧ i ≤ 8 then wNat ((s.bank k).secWord c (5 + i)) else 0, false, .full⟩ := by
  rw [Core.xreg, State.launchCore, vget_ofFn _ _ hi]
  dsimp only
  split <;> rfl

/-- A record swaps in on its one cell as the next launch. -/
theorem State.launch_shows (s : State) (k : Nat) (t0 : Task) :
    let t := s.launch [(k, t0)]
    (t.bank k).task = some { t0 with launch := s.sched.launches + 1 } ∧ t.sched.launches = s.sched.launches + 1 ∧ (t.cell k).shadow = none ∧
      (t.cell k).active = !(s.cell k).active ∧ (t.cell k).suspended = (s.cell k).suspended ∧ (t.cell k).preempt = (s.cell k).preempt ∧
      (s.mem.wf = true → ∀ o, (s.imageLen k t0 + 4095) / 4096 * 4096 ≤ o → o < s.padSize k → t.mem.byte (padBase k + o) = 0) ∧
      ∀ c, (t.core k c).Started ((t.bank k).secWord c) ∧ ((s.cell k).suspended = [] → ∀ i, i < 32 →
        (t.core k c).xreg i = ⟨if 1 ≤ i ∧ i ≤ 8 then wNat ((t.bank k).secWord c (5 + i)) else 0, false, .full⟩) := by
  intro t
  obtain ⟨s₁, hs₁⟩ : ∃ s₁, s₁ = ({ s with sched := { s.sched with launches := s.sched.launches + 1 } } : State) := ⟨_, rfl⟩
  obtain ⟨t₁, ht₁⟩ : ∃ t₁, t₁ = ({ t0 with launch := s.sched.launches + 1 } : Task) := ⟨_, rfl⟩
  have ht : t = (s₁.launchBank k t₁).launchCores k t₁ := by rw [hs₁, ht₁]; rfl
  obtain ⟨htask, hmine, hshadow, hactive, hsusp, hpre, hlaunch, hzeros⟩ := s₁.launchBank_shows k t₁
  obtain ⟨u, hu⟩ : ∃ u, u = s₁.launchBank k t₁ := ⟨_, rfl⟩
  rw [← hu] at ht htask hmine hshadow hactive hsusp hpre hlaunch hzeros
  obtain ⟨hm, hl, hc, htk, hcore⟩ := u.launchCores_shows k t₁
  rw [← ht] at hm hl hc htk hcore
  refine ⟨htk.trans (htask.trans (congrArg some ht₁)), hl.trans (hlaunch.trans (by rw [hs₁])), ?_, ?_, ?_, ?_, ?_, fun c => ?_⟩
  · rw [hc]; exact hshadow
  · rw [hc]; exact hactive.trans (by rw [hs₁]; rfl)
  · rw [hc]; exact hsusp.trans (by rw [hs₁]; rfl)
  · rw [hc]; exact hpre.trans (by rw [hs₁]; rfl)
  · intro hwf o ho ho'
    rw [hm]
    subst hs₁ ht₁
    exact hzeros hwf o ho ho'
  · have hsec : (t.bank k).secWord c = ((u.snapshot k).bank k).secWord c := funext fun i => Bank.secWord_congr (htk.trans (u.snapshot_inBank k).2.symm) c i
    rw [hcore c, hsec]
    refine ⟨?_, fun hnil i hi => ?_⟩
    · split
      · exact State.launchCore_toCome_started _ k c
      · exact State.launchCore_started _ k c
    · have hnone : (s₁.cell k).suspended = [] := by rw [hs₁]; exact hnil
      rw [hmine, if_pos hnone]
      exact State.launchCore_xreg _ k c hi

theorem swapIn_shows {s : State} {k : Nat} {t0 : Task} (hsh : (s.cell k).shadow = some t0) (hg : t0.group k = [k]) (hready : s.swapReady k = true)
    (hm : s.mem.wf = true) :
    ∃ t, exec (.launchBankSwap k) s = .next t ∧ (t.bank k).task = some { t0 with launch := s.sched.launches + 1 } ∧
      t.sched.launches = s.sched.launches + 1 ∧ (t.cell k).shadow = none ∧ (t.cell k).active = !(s.cell k).active ∧
      (∀ o, (min (field (t0.word 2) 0 23) (s.padSize k) + 4095) / 4096 * 4096 ≤ o → o < s.padSize k → t.mem.byte (padBase k + o) = 0) ∧
      (∀ c : CoreIx,
        let r := t.core k c
        let w := (t.bank k).secWord c
        r.pc = (if bitOf (w 0) 63 then wNat (8 * field (w 0) 3 29) else 0) ∧
        r.run = (if bitOf (w 0) 63 then .running else .done) ∧
        ((s.cell k).suspended = [] → ∀ i, i < 32 → r.xreg i = ⟨if 1 ≤ i ∧ i ≤ 8 then wNat (w (5 + i)) else 0, false, .full⟩) ∧
        r.p = 0 ∧ r.status = 0 ∧ r.lc = 0 ∧ r.rbase = 0 ∧ r.epc = 0 ∧ r.cause = 0 ∧ r.tval = 0 ∧ r.h = false) := by
  have htask : (s.bank k).task = none := State.swapReady_task hready
  have hexec : exec (.launchBankSwap k) s = .next (s.launch [(k, t0)]) := by
    show execLaunchBankSwap k s = _
    unfold execLaunchBankSwap
    split
    · next h => exact absurd (hsh.symm.trans h) nofun
    · next t h =>
      obtain rfl := Option.some.inj (hsh.symm.trans h)
      extract_lets js w ts
      have hjs : js = [k] := hg
      have hw : w = s := by
        show js.foldl State.finishCell s = s
        rw [hjs]
        exact State.finishCell_none htask
      have hts : ts = [(k, t0)] := by
        show js.filterMap _ = _
        rw [hjs, hw, List.filterMap_cons_some (b := (k, t0)) (by rw [hsh]; rfl), List.filterMap_nil]
      rw [hts, hjs, hw]
      refine congrArg Host.Outcome.next (if_pos ⟨rfl, List.all_eq_true.2 fun p hp => ?_⟩)
      obtain rfl := List.mem_singleton.1 hp
      exact (Bool.and_eq_true _ _).mpr ⟨beq_self_eq_true _, hready⟩
  obtain ⟨h₁, h₂, h₃, h₄, -, -, h₇, h₈⟩ := s.launch_shows k t0
  refine ⟨_, hexec, h₁, h₂, h₃, h₄, h₇ hm, fun c => ?_⟩
  obtain ⟨⟨hpc, hrun, hp, hst, hlc, hrb, hepc, hca, htv, hh⟩, hx⟩ := h₈ c
  exact ⟨hpc, hrun, hx, hp, hst, hlc, hrb, hepc, hca, htv, hh⟩

/-! ## A settled victim is suspended -/

theorem State.suspend_shows (s : State) (k : Nat) (later : List Nat) :
    ∃ x, ((s.suspend k later).cell k).suspended = (s.cell k).suspended ++ [x] ∧ x.bank = s.bank k ∧ ((s.suspend k later).cell k).preempt = false ∧
      ((s.suspend k later).cell k).shadow = (s.cell k).shadow := by
  unfold State.suspend
  extract_lets u c m x
  have hu : u.cells = s.cells := by
    show (match (s.cell k).b.task with | some t => s.leaveBank k (s.cell k).active t | none => s).cells = s.cells
    split <;> rfl
  have hc : c = s.cell k := by
    show u.cell k = s.cell k
    rw [State.cell, hu]
    rfl
  refine ⟨x, ?_, ?_, ?_, ?_⟩
  · rw [State.cell_setCell_same, hc]
  · exact congrArg Cell.b hc
  · rw [State.cell_setCell_same]
  · rw [State.cell_setCell_same]
    exact (congrArg Cell.shadow hc :)

theorem preemptSwap_shows {s : State} {k : Nat} {t0 : Task} (ht : (s.bank k).task = some t0) (hg : t0.group k = [k])
    (hset : s.settledCell k = true) :
    ∃ t x, exec (.preemptSwap k) s = .next t ∧ (t.cell k).suspended = (s.cell k).suspended ++ [x] ∧ x.bank = s.bank k ∧
      (t.cell k).preempt = false := by
  obtain ⟨later, hexec⟩ : ∃ later, exec (.preemptSwap k) s = .next
      (let u := (s.suspend k later).modNode t0.node (fun n => { n with st := .suspended })
       u.launch ([k].filterMap (fun j => (u.cell j).shadow.map (fun x => (j, x))))) := by
    refine ⟨(((t0.group k).filter (fun j => (s.bank j).task.any (fun x => x.launch == t0.launch))).filterMap
      (fun j => (s.cell j).shadow.map (fun x => s.orderOf x.node))).eraseDups, ?_⟩
    show execPreemptSwap k s = _
    unfold execPreemptSwap
    split
    · next h => exact absurd (ht.symm.trans h) nofun
    · next t h =>
      obtain rfl := Option.some.inj (ht.symm.trans h)
      extract_lets js later v w u
      have hjs : js = [k] := by
        show List.filter _ (t0.group k) = _
        rw [hg]
        refine List.filter_eq_self.2 fun j hj => ?_
        obtain rfl := List.mem_singleton.1 hj
        rw [ht]
        exact beq_self_eq_true t0.launch
      rw [hjs]
      refine congrArg Host.Outcome.next ((if_pos ?_).trans ?_)
      · refine List.all_eq_true.2 fun j hj => ?_
        obtain rfl := List.mem_singleton.1 hj
        exact hset
      · have hv : v = s.suspend k later := by
          show js.foldl _ s = _
          rw [hjs]
          rfl
        have hw : w = u := congrArg (State.modNode · t0.node (fun n => { n with st := .suspended })) hv
        rw [hw]
  obtain ⟨x, hs, hb, hp, hsh⟩ := s.suspend_shows k later
  have hd := State.Desk.modNode (s.suspend k later) t0.node (fun n => { n with st := .suspended })
  refine ⟨_, x, hexec, ?_⟩
  clear hexec
  obtain ⟨u, hu⟩ : ∃ u, u = (s.suspend k later).modNode t0.node (fun n => { n with st := .suspended }) := ⟨_, rfl⟩
  rw [← hu] at hd ⊢
  dsimp only
  have hc := hd.cell k
  cases hsh' : (u.cell k).shadow with
  | none =>
    rw [List.filterMap_cons_none (by rw [hsh']; rfl), List.filterMap_nil]
    have hcell : (u.launch []).cell k = u.cell k := rfl
    rw [hcell, hc]
    exact ⟨hs, hb, hp⟩
  | some t₁ =>
    rw [List.filterMap_cons_some (b := (k, t₁)) (by rw [hsh']; rfl), List.filterMap_nil]
    obtain ⟨-, -, -, -, hsusp, hpre, -⟩ := u.launch_shows k t₁
    refine ⟨hsusp.trans ?_, hb, hpre.trans ?_⟩
    · rw [hc]; exact hs
    · rw [hc]; exact hp

/-- Settles O43: each event is run to the state it leaves, through what it does to the cell, the launch bank and the desk. -/
theorem taskEvents : Obligations.TaskEvents := by
  unfold Obligations.TaskEvents
  refine ⟨fun s k t0 hsh ht hall hend hpubs hpost hd hm => ?_, fun s k t0 => swapIn_shows, fun s k f => taskEndByFault_shows,
    fun s k t0 => preemptSwap_shows, fun s k x t0 => taskResume_shows, fun s k t0 => taskKilled_shows⟩
  have hexec : exec (.launchBankSwap k) s = .next (s.finishCell k) := by
    show execLaunchBankSwap k s = _
    unfold execLaunchBankSwap
    split
    · rfl
    · next t h => exact absurd (hsh.symm.trans h) nofun
  obtain ⟨htask, -, hhbm, -, -, hbytes⟩ := State.finishCell_shows ht hall hend hpubs hpost hd hm
  exact ⟨_, hexec, htask, hhbm, hbytes⟩

end Sys2Proof.Machine

end

section
/-! What the scheduler does to the nodes in flight: an accepted node stays, its retirement releases the others (13 R257, R262 to R268,
R273 to R279). -/

namespace Sys2Proof.Machine

theorem kget?_kdel {α : Type} (m : KMap α) (i j : Nat) : kget? (kdel m i) j = if j = i then none else kget? m j := by
  induction m with
  | nil => split <;> rfl
  | cons e m ih =>
    unfold kdel at ih ⊢
    by_cases he : e.1 = i
    · rw [List.filter_cons_of_neg (by simp [he]), ih, kget?]
      split
      · rfl
      · next hj => rw [if_neg (by rw [he]; exact fun h => hj h.symm)]
    · rw [List.filter_cons_of_pos (by simp [he]), kget?, kget?, ih]
      split
      · next hj => rw [if_neg (by rw [← hj]; exact he)]
      · rfl

/-! ## What leaves the tables of the scheduler alone -/

/-- The nodes, Foxglove, the queues and the submissions are the same. -/
structure State.Tables (s t : State) : Prop where
  nodes : t.sched.nodes = s.sched.nodes
  fox : t.sched.fox = s.sched.fox
  queues : t.sched.queues = s.sched.queues
  subs : t.sched.subs = s.sched.subs

namespace State.Tables

theorem refl (s : State) : Tables s s := ⟨rfl, rfl, rfl, rfl⟩

theorem trans {s t u : State} (h : Tables s t) (h' : Tables t u) : Tables s u :=
  ⟨h'.nodes.trans h.nodes, h'.fox.trans h.fox, h'.queues.trans h.queues, h'.subs.trans h.subs⟩

theorem of_sched {s t : State} (h : t.sched = s.sched) : Tables s t := by
  constructor <;> rw [h]

theorem foldl {α : Type} {f : State → α → State} (hf : ∀ t a, Tables t (f t a)) (l : List α) (s : State) : Tables s (l.foldl f s) := by
  induction l generalizing s with
  | nil => exact refl s
  | cons a l ih => exact (hf s a).trans (ih _)

theorem modAsid (s : State) (a : Nat) (f : Asid → Asid) : Tables s (s.modAsid a f) := ⟨rfl, rfl, rfl, rfl⟩

theorem foxCount (s : State) (a i : Nat) : Tables s (s.foxCount a i) := modAsid s a _

theorem modBuf (s : State) (h : Nat) (f : Buf → Buf) : Tables s (s.modBuf h f) := by
  obtain ⟨bufs, hb⟩ := State.modBuf_frame s h f
  exact of_sched (by rw [hb])

theorem freeBuf (s : State) (h : Nat) : Tables s (s.freeBuf h) := of_sched rfl

theorem dropRef (s : State) (h : Nat) : Tables s (s.dropRef h) := by
  unfold State.dropRef
  split
  · split
    · exact modBuf _ _ _
    · refine (freeBuf s h).trans ?_
      extract_lets u
      split
      · split
        · exact modBuf _ _ _
        · exact freeBuf _ _
      · exact refl _
  · exact refl _

theorem dropRefs (s : State) (l : List Access) : Tables s (s.dropRefs l) := foldl (fun t _ => dropRef t _) _ s

theorem addRef (s : State) (h : Nat) : Tables s (s.addRef h).1 := by
  unfold State.addRef
  split
  · split
    · exact modBuf _ _ _
    · exact refl s
  · exact refl s

theorem takeRefs (s : State) (l : List Access) : Tables s (s.takeRefs l) := foldl (fun t _ => addRef t _) _ s

theorem noteHome (s : State) (h off n : Nat) : Tables s (s.noteHome h off n) := by
  unfold State.noteHome
  split
  · split
    · exact foldl (f := fun (s : State) g => s.modStack _ (fun st => { st with subst := st.subst + 1 })) (fun _ _ => of_sched rfl) _ s
    · exact refl s
  · exact refl s

theorem noteWord (s : State) (nd : Node) : Tables s (s.noteWord nd) := by
  unfold State.noteWord
  split
  · split
    · exact noteHome _ _ _ _
    · exact refl s
  · exact refl s

theorem retireCell (s : State) (k : Nat) : Tables s (s.retireCell k) := by
  unfold State.retireCell
  extract_lets d
  split
  · rw [(State.Logs.discCaused _ _).frame]
    exact ⟨rfl, rfl, rfl, rfl⟩
  · exact refl s

theorem idleCell (s : State) (k n : Nat) : Tables s (s.idleCell k n) := by
  unfold State.idleCell
  extract_lets c mine u
  have hu : Tables s u := by
    show Tables s (match mine c.shadow with
      | some t => (s.leaveBank k (!c.active) t).modCell k (fun c => { c with shadow := none }) | none => s)
    split
    · exact of_sched rfl
    · exact refl s
  split
  · exact hu.trans ((of_sched rfl : Tables u ((u.leaveBank _ _ _).modCell k _)).trans (retireCell _ k))
  · exact hu

theorem askPages (s : State) (nd : Node) (l : List LeaseEnt) : Tables s (s.askPages nd l) :=
  foldl (fun t _ => (of_sched rfl : Tables t (t.send _))) _ s

end State.Tables

theorem kget?_map {α : Type} (f : Nat × α → α) (m : KMap α) (k : Nat) :
    kget? (m.map (fun e => (e.1, f e))) k = (kget? m k).map (fun v => f (k, v)) := by
  induction m with
  | nil => rfl
  | cons e m ih =>
    obtain ⟨i, v⟩ := e
    simp only [List.map_cons, kget?]
    split
    · next h => rw [h]; rfl
    · exact ih

theorem State.fox_modFox (s : State) (q r : Nat) (f : Fox → Fox) : (s.modFox q f).fox r = if r = q then f (s.fox q) else s.fox r := kget_kset _ _ _ _ _

theorem State.nodes_modNode (s : State) (m n : Nat) (f : Node → Node) :
    kget? (s.modNode m f).sched.nodes n = if n = m then (kget? s.sched.nodes n).map f else kget? s.sched.nodes n := by
  unfold State.modNode
  split
  · next x hx =>
    rw [kget?_kset]
    split
    · next h => rw [h, hx]; rfl
    · rfl
  · next hx =>
    split
    · next h => rw [h, hx]; rfl
    · rfl

/-! ## A node in flight stays -/

/-- Node n is in flight with what its record says, no speculative run, and the submissions and queues are those of a state. -/
structure State.Enrolled (o : State) (n : Nat) (x : Node) (s : State) : Prop where
  node : ∃ y, kget? s.sched.nodes n = some y ∧ y.record = x.record ∧ y.q = x.q ∧ y.seq = x.seq ∧ y.spec = false
  fox : ∀ q, (s.fox q).run ≠ some n
  queues : s.sched.queues = o.sched.queues
  subs : s.sched.subs = o.sched.subs

namespace State.Enrolled

variable {o : State} {n : Nat} {x : Node}

theorem tables {s t : State} (h : Enrolled o n x s) (ht : Tables s t) : Enrolled o n x t := by
  refine ⟨by rw [ht.nodes]; exact h.node, fun q => ?_, ht.queues.trans h.queues, ht.subs.trans h.subs⟩
  rw [State.fox, ht.fox]
  exact h.fox q

theorem foldl {α : Type} {f : State → α → State} (hf : ∀ t a, Enrolled o n x t → Enrolled o n x (f t a)) (l : List α) {s : State}
    (h : Enrolled o n x s) : Enrolled o n x (l.foldl f s) := by
  induction l generalizing s with
  | nil => exact h
  | cons a l ih => exact ih (hf s a h)

/-- What a change of a node leaves of it. -/
def Same (f : Node → Node) : Prop := ∀ y, (f y).record = y.record ∧ (f y).q = y.q ∧ (f y).seq = y.seq ∧ (f y).spec = y.spec

theorem modNode {s : State} (h : Enrolled o n x s) (m : Nat) {f : Node → Node} (hf : Same f) : Enrolled o n x (s.modNode m f) := by
  obtain ⟨y, hy, hr, hq, hs, hsp⟩ := h.node
  obtain ⟨hr', hq', hs', hsp'⟩ := hf y
  have hsch : (s.modNode m f).sched.fox = s.sched.fox ∧ (s.modNode m f).sched.queues = s.sched.queues ∧
      (s.modNode m f).sched.subs = s.sched.subs := by
    unfold State.modNode
    split <;> exact ⟨rfl, rfl, rfl⟩
  refine ⟨?_, fun q => ?_, hsch.2.1.trans h.queues, hsch.2.2.trans h.subs⟩
  · rw [State.nodes_modNode, hy]
    split
    · exact ⟨f y, rfl, hr'.trans hr, hq'.trans hq, hs'.trans hs, hsp'.trans hsp⟩
    · exact ⟨y, rfl, hr, hq, hs, hsp⟩
  · rw [State.fox, hsch.1]
    exact h.fox q

theorem modFox {s : State} (h : Enrolled o n x s) (q : Nat) {f : Fox → Fox} (hf : (f (s.fox q)).run ≠ some n) : Enrolled o n x (s.modFox q f) := by
  refine ⟨h.node, fun r => ?_, h.queues, h.subs⟩
  rw [State.fox_modFox]
  split
  · exact hf
  · exact h.fox r

/-- Another node leaves the table. -/
theorem kdel {s : State} (h : Enrolled o n x s) {m : Nat} (hm : n ≠ m) :
    Enrolled o n x { s with sched := { s.sched with nodes := kdel s.sched.nodes m } } := by
  obtain ⟨y, hy, hrest⟩ := h.node
  exact ⟨⟨y, (kget?_kdel _ _ _).trans ((if_neg hm).trans hy), hrest⟩, h.fox, h.queues, h.subs⟩

theorem discardRun {s : State} (h : Enrolled o n x s) (m cause : Nat) : Enrolled o n x (s.discardRun m cause) := by
  unfold State.discardRun
  split
  · next nd hnd =>
    split
    · next hsp =>
      have hne : n ≠ m := by
        rintro rfl
        obtain ⟨y, hy, -, -, -, hys⟩ := h.node
        rw [hnd] at hy
        rw [Option.some.inj hy, hys] at hsp
        exact Bool.false_ne_true hsp
      extract_lets a gran b c d e f
      have ha : Enrolled o n x a := h.tables (.foldl (fun t k => .idleCell t k m) _ s)
      have hb : Enrolled o n x b := ha.tables (.foldl (fun t _ => .freeBuf t _) _ a)
      have hd : Enrolled o n x d := (hb.tables (.dropRefs b _)).tables (.modAsid c _ _)
      have he : Enrolled o n x e := hd.modFox nd.q nofun
      exact (he.kdel hne).tables (.foxCount _ _ _)
    · exact h
  · exact h

theorem writeRecords {s : State} (h : Enrolled o n x s) (m : Nat) (nd : Node) (p : Placing) : Enrolled o n x (s.writeRecords m nd p) := by
  unfold State.writeRecords
  extract_lets idx num v a src b put c
  have hb : Enrolled o n x b := (h.tables (.noteHome s _ _ _)).tables ⟨rfl, rfl, rfl, rfl⟩
  have hc : Enrolled o n x c := hb.tables (.foldl (f := put) (fun t r => .of_sched rfl) _ b)
  exact hc.modNode m fun y => ⟨rfl, rfl, rfl, rfl⟩

/-- Shadow buffers are no matter of the tables. -/
theorem shadowAll_tables {s t : State} {l : List (Access × Option Buf)} {i : Nat} {as : List Access} {sh : List (Nat × Nat)}
    (h : s.shadowAll l i = some (t, as, sh)) : Tables s t := by
  induction l generalizing s i as sh with
  | nil =>
    obtain ⟨rfl, -⟩ := Prod.mk.inj (Option.some.inj h)
    exact .refl s
  | cons p l ih =>
    obtain ⟨a, d⟩ := p
    unfold State.shadowAll at h
    split at h
    · obtain ⟨⟨u, as', sh'⟩, hu, he⟩ := Option.map_eq_some_iff.1 h
      obtain ⟨rfl, -⟩ := Prod.mk.inj he
      exact ih hu
    · split at h
      · exact absurd h nofun
      · next d =>
        split at h
        · exact absurd h nofun
        · next u hd hbuf =>
          obtain ⟨⟨v, as', sh'⟩, hv, he⟩ := Option.map_eq_some_iff.1 h
          obtain ⟨rfl, -⟩ := Prod.mk.inj he
          refine Tables.trans ?_ (ih hv)
          unfold State.shadowBuf at hbuf
          split at hbuf
          · exact absurd hbuf nofun
          · obtain ⟨rfl, -⟩ := Prod.mk.inj (Option.some.inj hbuf)
            exact .of_sched rfl

theorem pairShadows_tables (s : State) (saved : List Access) (shadows : List (Nat × Nat)) : Tables s (s.pairShadows saved shadows) :=
  .foldl (fun t _ => .modBuf t _ _) _ s

/-- A new run takes an entry of its own. -/
theorem startRun {s : State} (h : Enrolled o n x s) (q : Nat) (e : FoxEnt) : Enrolled o n x (s.startRun q e) := by
  unfold State.startRun
  extract_lets cfg a as_ r ok gran tplAt
  split
  · exact h
  · split
    · next t m ht hm =>
      have hne : n ≠ m := by
        rintro rfl
        obtain ⟨y, hy, -⟩ := h.node
        have hfree := List.find?_some hm
        rw [hy] at hfree
        exact Bool.false_ne_true hfree
      split
      · exact h
      · next ks hks =>
        split
        · exact h
        · split
          · exact h
          · next u accs shadows hsh =>
            extract_lets v nd w src y z z' z''
            have hb : Tables s s.bump := .of_sched rfl
            have hv : Enrolled o n x v := ((h.tables hb).tables (shadowAll_tables hsh)).tables (pairShadows_tables u _ _)
            have hw : Enrolled o n x w := hv.tables (.takeRefs v _)
            have hy : Enrolled o n x y := by
              obtain ⟨b, hb, hrest⟩ := hw.node
              exact ⟨⟨b, (kget?_kset _ _ _ _).trans ((if_neg hne).trans hb), hrest⟩, hw.fox, hw.queues, hw.subs⟩
            have hz : Enrolled o n x z' := (hy.writeRecords m nd _).modNode m fun b => ⟨rfl, rfl, rfl, rfl⟩
            refine ((hz.tables (.modAsid z' _ _)).modFox q ?_).tables (.foxCount _ _ _)
            exact fun he => hne (Option.some.inj he).symm
    · exact h

theorem trainAndRun {s : State} (h : Enrolled o n x s) (q : Nat) (nd : Node) (cls : Nat) : Enrolled o n x (s.trainAndRun q nd cls) := by
  have hb : Tables s s.bump := .of_sched rfl
  have ht : Enrolled o n x (s.train q nd cls) := by
    unfold State.train
    exact (h.tables hb).modFox q (h.fox q)
  unfold State.trainAndRun State.speculate
  split
  · exact ht.startRun _ _
  · exact ht

theorem takeShadow_tables (s : State) (ks : List Nat) (sh real : Nat) : Tables s (s.takeShadow ks sh real) := by
  unfold State.takeShadow
  extract_lets f g a
  split
  · exact .refl s
  · extract_lets b c
    have ha : Tables s a := .of_sched rfl
    have hb : Tables a b := .modBuf a _ _
    have hc : Tables b c := by
      refine .foldl (fun t k => ?_) _ b
      exact .of_sched rfl
    exact ((ha.trans hb).trans hc).trans (.freeBuf c _)

/-- A claim ends the run, not the node that is in flight. -/
theorem claimCheck {s : State} (h : Enrolled o n x s) (m : Nat) (cls : Option Nat) : Enrolled o n x (s.claimCheck m cls) := by
  unfold State.claimCheck
  split
  · exact h
  · next nd hnd =>
    split
    · exact h
    · next rn hrn =>
      have hne : n ≠ rn := fun he => h.fox nd.q (by rw [hrn, he])
      split
      · exact h
      · next run hrun =>
        split
        · exact h
        · split
          · exact h.discardRun _ _
          · next c hc =>
            split
            · exact h.discardRun _ _
            · extract_lets real gran lease a b d src e f g
              have ha : Enrolled o n x a := foldl (fun t r ht => ht.discardRun r 4) _ h
              have hb : Enrolled o n x b := ha.tables (.foldl (fun t _ => takeShadow_tables t _ _ _) _ a)
              have hd : Enrolled o n x d := by
                refine hb.tables (.foldl (fun t k => ?_) _ b)
                exact .of_sched rfl
              have he : Enrolled o n x e := (hd.kdel hne).tables (.dropRefs _ _)
              have hf : Enrolled o n x f := he.modNode m fun y => ⟨rfl, rfl, rfl, rfl⟩
              have hg : Enrolled o n x g := (hf.modFox nd.q fun he => Option.some_ne_none n he.symm).tables (.modAsid _ _ _)
              exact (hg.tables (.foxCount g _ _)).trainAndRun _ _ _

theorem openGates {s : State} (h : Enrolled o n x s) (g arm : Nat) : Enrolled o n x (s.openGates g arm) := by
  obtain ⟨y, hy, hr, hq, hs, hsp⟩ := h.node
  refine ⟨?_, h.fox, h.queues, h.subs⟩
  refine ⟨_, (kget?_map (fun (e : Nat × Node) => if e.2.gate = some (g, arm) then { e.2 with gateOpen := true } else e.2) _ n).trans
    (congrArg (Option.map _) hy), ?_⟩
  dsimp only
  split
  · exact ⟨hr, hq, hs, hsp⟩
  · exact ⟨hr, hq, hs, hsp⟩

/-- A node that has become ready keeps what its record says. -/
theorem evaluate {s : State} (h : Enrolled o n x s) (m : Nat) (nd : Node) : Enrolled o n x (s.evaluate m nd) := by
  unfold State.evaluate
  extract_lets set v u
  have hu : Enrolled o n x u := h.tables (.noteWord s nd)
  split
  · refine claimCheck (modNode hu m ?_) m none
    exact fun y => ⟨rfl, rfl, rfl, rfl⟩
  · split
    · refine openGates (modNode hu m ?_) _ _
      exact fun y => ⟨rfl, rfl, rfl, rfl⟩
    · split
      · refine openGates (modNode hu m ?_) _ _
        exact fun y => ⟨rfl, rfl, rfl, rfl⟩
      · refine openGates (modNode hu m ?_) _ _
        exact fun y => ⟨rfl, rfl, rfl, rfl⟩
    · refine openGates (modNode hu m ?_) _ _
      exact fun y => ⟨rfl, rfl, rfl, rfl⟩
    · refine modNode hu m ?_
      exact fun y => ⟨rfl, rfl, rfl, rfl⟩
    · refine modNode hu m ?_
      exact fun y => ⟨rfl, rfl, rfl, rfl⟩
    · split
      · refine claimCheck (modNode hu m ?_) m none
        exact fun y => ⟨rfl, rfl, rfl, rfl⟩
      · extract_lets l
        split
        · refine claimCheck (modNode hu m ?_) m none
          exact fun y => ⟨rfl, rfl, rfl, rfl⟩
        · split
          · refine Enrolled.tables ?_ (.askPages _ _ _)
            refine modNode hu m ?_
            exact fun y => ⟨rfl, rfl, rfl, rfl⟩
          · refine (Enrolled.tables ?_ (.askPages _ _ _)).claimCheck m _
            refine modNode hu m ?_
            exact fun y => ⟨rfl, rfl, rfl, rfl⟩

theorem settleNodes {s : State} (f : Nat) (h : Enrolled o n x s) : Enrolled o n x (State.settleNodes f s) := by
  induction f generalizing s with
  | zero => exact h
  | succ f ih =>
    unfold State.settleNodes
    split
    · exact h
    · split
      · exact ih (h.modNode _ fun y => ⟨rfl, rfl, rfl, rfl⟩)
      · exact ih (h.evaluate _ _)

theorem settleAll {s : State} (h : Enrolled o n x s) : Enrolled o n x s.settleAll := h.settleNodes _

end State.Enrolled

/-! ## The scheduler's events -/

theorem State.parseNode_spec {s : State} {sub : Submission} {nd : Node} (h : s.parseNode sub = some nd) : nd.spec = false := by
  unfold State.parseNode at h
  simp only [Option.bind_eq_bind, Option.bind_eq_some_iff, Option.pure_def, Option.some.injEq] at h
  obtain ⟨-, -, -, -, accs, -, gate, -, -, -, rfl⟩ := h
  rfl

theorem State.freeNode_free {s : State} {n : Nat} (h : s.freeNode = some n) : kget? s.sched.nodes n = none := by
  unfold State.freeNode at h
  extract_lets c at h
  have hp := List.find?_some h
  exact Option.isNone_iff_eq_none.1 hp

/-- A submission that no earlier one of its submitter stands before is taken. -/
theorem State.first_turn {s : State} {l : List Submission} {sub : Submission} (hserves : s.serves = true)
    (hfirst : ∀ x ∈ l, ¬ (x.host = sub.host ∧ (sub.host = true ∨ x.cell = sub.cell))) :
    ¬ ((!s.serves || l.any (fun x => x.host == sub.host && (sub.host || x.cell == sub.cell))) = true) := by
  rw [hserves]
  simp only [Bool.not_true, Bool.false_or, List.any_eq_true, Bool.and_eq_true, beq_iff_eq, Bool.or_eq_true, not_exists, not_and]
  exact fun x hx hh ho => hfirst x hx ⟨hh, ho⟩

theorem nodeAccept_rejected {s : State} {i : Nat} {sub : Submission} (hsub : s.sched.subs[i]? = some sub) (hserves : s.serves = true)
    (hfirst : ∀ x ∈ s.sched.subs.take i, ¬ (x.host = sub.host ∧ (sub.host = true ∨ x.cell = sub.cell))) (hhost : sub.host = true)
    (hparse : s.parseNode sub = none) :
    ∃ t, exec (.nodeAccept i) s = .next t ∧ t.sched.subs = s.sched.subs.eraseIdx i ∧
      t.host.replies = s.host.replies ++ [.mailbox 0x21 2 [0x1A]] ∧ t.sched.nodes = s.sched.nodes := by
  obtain ⟨u, hu⟩ : ∃ u, u = ({ s with sched := { s.sched with subs := s.sched.subs.eraseIdx i } } : State) := ⟨_, rfl⟩
  have hexec : exec (.nodeAccept i) s = .next (u.answerSubmit sub none) := by
    show execNodeAccept i s = _
    unfold execNodeAccept
    split
    · next h => exact absurd (hsub.symm.trans h) nofun
    · next sub' h =>
      obtain rfl := Option.some.inj (hsub.symm.trans h)
      rw [if_neg (State.first_turn hserves hfirst)]
      dsimp only
      rw [hparse, hu]
  have hans : u.answerSubmit sub none = u.answerMail 0x21 (some (sub.gen % 16 * 4096 + sub.asid % 4096)) 2 [0x1A] := if_pos hhost
  refine ⟨_, hexec, ?_, ?_, ?_⟩
  · rw [hans, hu]; rfl
  · rw [hans, hu]; rfl
  · rw [hans, hu]; rfl

/-- An accepted node stands in the table, its queue has one more. -/
theorem nodeAccept_accepted {s : State} {i : Nat} {sub : Submission} (hsub : s.sched.subs[i]? = some sub) (hserves : s.serves = true)
    (hfirst : ∀ x ∈ s.sched.subs.take i, ¬ (x.host = sub.host ∧ (sub.host = true ∨ x.cell = sub.cell))) (hhost : sub.host = true)
    {nd : Node} {n : Nat} (hparse : s.parseNode sub = some nd) (hn : s.freeNode = some n) (hroom : s.flying.length < 8192)
    (hfox : ∀ q r, (s.fox q).run = some r → ∃ x, kget? s.sched.nodes r = some x ∧ x.spec = true) :
    ∃ t, exec (.nodeAccept i) s = .next t ∧ t.sched.subs = s.sched.subs.eraseIdx i ∧
      (∃ x, kget? t.sched.nodes n = some x ∧ x.record = nd.record ∧ x.q = nd.q ∧ x.seq = nd.seq) ∧
      (t.queue sub.q).nextseq = ((s.queue sub.q).nextseq + 1) % 4294967296 := by
  obtain ⟨u, hu⟩ : ∃ u, u = (let v := s.enterNode n nd
    ({ v with sched := { v.sched with subs := s.sched.subs.eraseIdx i, queues := kset v.sched.queues sub.q { s.queue sub.q with
      nextseq := ((s.queue sub.q).nextseq + 1) % 2 ^ 32 } } } : State)) := ⟨_, rfl⟩
  obtain ⟨w, hw⟩ : ∃ w, w = (match nd.gate with | some (g, _) => u.modNode g (fun x => { x with gated := x.gated + 1 }) | none => u) := ⟨_, rfl⟩
  have hexec : exec (.nodeAccept i) s = .next (w.answerSubmit sub (some (n, nd.seq))).settleAll := by
    show execNodeAccept i s = _
    unfold execNodeAccept
    split
    · next h => exact absurd (hsub.symm.trans h) nofun
    · next sub' h =>
      obtain rfl := Option.some.inj (hsub.symm.trans h)
      rw [if_neg (State.first_turn hserves hfirst)]
      dsimp only
      rw [hparse]
      dsimp only
      rw [hn]
      dsimp only
      refine congrArg Host.Outcome.next ((if_neg (Nat.not_le.2 hroom)).trans ?_)
      subst hw hu
      rfl
  have hfree := State.freeNode_free hn
  have hspec : nd.spec = false := State.parseNode_spec hparse
  have hbump : State.Tables s s.bump := .of_sched rfl
  have hrefs : State.Tables s (s.bump.takeRefs nd.accs) := hbump.trans (.takeRefs s.bump nd.accs)
  have hen : State.Enrolled u n nd u := by
    refine ⟨⟨{ nd with order := (s.bump.takeRefs nd.accs).sched.order }, ?_, rfl, rfl, rfl, hspec⟩, fun q hq => ?_, rfl, rfl⟩
    · rw [hu]
      exact (kget?_kset _ _ _ _).trans (if_pos rfl)
    · have hq' : (s.fox q).run = some n := by
        rw [← hq, hu]
        exact congrArg (fun m => (kget ({} : Fox) m q).run) hrefs.fox.symm
      obtain ⟨x, hx, -⟩ := hfox q n hq'
      rw [hfree] at hx
      exact absurd hx nofun
  have hwn : State.Enrolled u n nd w := by
    rw [hw]
    split
    · exact hen.modNode _ fun y => ⟨rfl, rfl, rfl, rfl⟩
    · exact hen
  have hans : State.Tables w (w.answerSubmit sub (some (n, nd.seq))) := by
    rw [show w.answerSubmit sub (some (n, nd.seq)) = w.answerMail 0x21 _ 0 [] from if_pos hhost]
    exact .of_sched rfl
  obtain ⟨⟨x, hx, hr, hq, hs, -⟩, -, hqs, hsubs⟩ := (hwn.tables hans).settleAll
  refine ⟨_, hexec, hsubs.trans (by rw [hu]), ⟨x, hx, hr, hq, hs⟩, ?_⟩
  rw [State.queue, hqs, hu]
  exact congrArg Queue.nextseq (kget_kset_same _ _ _ _)

theorem schedulerDecision_single {s : State} {l q n : Nat} {nd : Node} {p : Placing} (hhip : s.geode.hip = false) (hserves : s.serves = true)
    (hl : l < 4) (hless : ∀ m, m < l → s.levelQueues m = []) (hone : s.levelQueues l = [(q, n, nd, p)]) (ht : (s.queue q).tickets = 0) :
    exec .schedulerDecision s = .next (s.place n nd p) := by
  have hfind : [0, 1, 2, 3].findSome? (fun l => let qs := s.levelQueues l; if qs = [] then none else some qs) = some [(q, n, nd, p)] := by
    have hnone : ∀ m, m < l → (let qs := s.levelQueues m; if qs = [] then none else some qs) = none := fun m hm => if_pos (hless m hm)
    have hsome : (let qs := s.levelQueues l; if qs = [] then none else some qs) = some [(q, n, nd, p)] := by
      rw [hone]
      rfl
    interval_cases l
    · rw [List.findSome?_cons, hsome]
    · rw [List.findSome?_cons, hnone 0 (by omega), List.findSome?_cons, hsome]
    · rw [List.findSome?_cons, hnone 0 (by omega), List.findSome?_cons, hnone 1 (by omega), List.findSome?_cons, hsome]
    · rw [List.findSome?_cons, hnone 0 (by omega), List.findSome?_cons, hnone 1 (by omega), List.findSome?_cons, hnone 2 (by omega),
        List.findSome?_cons, hsome]
  have hdraw : s.draw ([(q, n, nd, p)].map (·.1)) = (s, some q) := by
    show s.draw [q] = _
    have hqt : [q].filter (fun q => (s.queue q).tickets != 0) = [] := by
      rw [List.filter_cons_of_neg (by rw [ht]; exact Bool.false_ne_true), List.filter_nil]
    unfold State.draw
    extract_lets qt
    exact if_pos hqt
  show execSchedulerDecision s = _
  unfold execSchedulerDecision
  rw [hhip, hserves]
  refine congrArg Host.Outcome.next ((if_neg Bool.false_ne_true).trans ?_)
  rw [hfind]
  dsimp only
  rw [hdraw]
  dsimp only [Option.bind]
  rw [List.find?_cons_of_pos (p := fun e : Nat × Nat × Node × Placing => e.1 == q) (beq_self_eq_true q)]

theorem nodeRetire_due {s : State} {n st : Nat} {nd : Node} (hnd : kget? s.sched.nodes n = some nd) (hcells : nd.cells = [])
    (hst : s.dueStatus n nd = some st) : exec (.nodeRetire n) s = .next (s.retireNode n nd st).settleAll := by
  have hfold : nd.cells.foldl State.finishCell s = s := by rw [hcells, List.foldl_nil]
  show execNodeRetire n s = _
  unfold execNodeRetire
  split
  · next h => exact absurd (hnd.symm.trans h) nofun
  · next x h =>
    obtain rfl := Option.some.inj (hnd.symm.trans h)
    extract_lets u
    have hu : u = s := hfold
    rw [hu]
    split
    · next h => exact absurd (hnd.symm.trans h) nofun
    · next x h =>
      obtain rfl := Option.some.inj (hnd.symm.trans h)
      split
      · next st' h => rw [Option.some.inj (hst.symm.trans h)]
      · next h => exact absurd (hst.symm.trans h) nofun

/-- What a retirement makes of another node. -/
theorem State.retireNode_nodes (s : State) (n : Nat) (nd : Node) (st : Nat) :
    kget? (s.retireNode n nd st).sched.nodes n = none ∧
    ∀ m x, m ≠ n → kget? s.sched.nodes m = some x → ∃ y, kget? (s.retireNode n nd st).sched.nodes m = some y ∧
      y.pred = x.pred.filter (· != n) ∧ y.record = x.record ∧ y.st = x.st ∧
      (n ∈ x.pred → (x.st = .waiting ∨ x.st = .ready) → (st = 1 ∨ st = 2 ∨ st = 3 ∨ st = 5) → y.cancel.isSome = true) := by
  have hd := State.Tables.dropRefs s nd.accs
  unfold State.retireNode
  extract_lets u next nodes src bodies₀ bodies
  have hget : ∀ m, kget? nodes m = (kget? (kdel s.sched.nodes n) m).map (fun v => (next (m, v)).2) := fun m => by
    rw [← hd.nodes]
    exact kget?_map (fun e => (next e).2) (kdel u.sched.nodes n) m
  refine ⟨?_, fun m x hm hx => ?_⟩
  · rw [hget, kget?_kdel, if_pos rfl]
    rfl
  · refine ⟨(next (m, x)).2, (hget m).trans (by rw [kget?_kdel, if_neg hm, hx, Option.map_some]), rfl, rfl, rfl, fun hp hst hc => ?_⟩
    have hhit : (x.pred.contains n && cancels st && (x.st == .waiting || x.st == .ready)) = true := by
      rw [List.contains_iff_mem.2 hp]
      rcases hst with h | h <;> rcases hc with rfl | rfl | rfl | rfl <;> rw [h] <;> rfl
    show (x.cancel.or (if (_ || _ || _) = true then _ else _)).isSome = true
    rw [if_pos (by rw [hhit]; rfl), Option.isSome_or]
    exact Bool.or_true _

theorem eventNodeSatisfied_due {s : State} {n : Nat} {nd : Node} (hnd : kget? s.sched.nodes n = some nd) (hk : nd.kind = 6) (hst : nd.st = .ready)
    (hc : nd.cancel = none) (hsp : nd.spec = false)
    (hcount : (s.eventCount nd + 4294967296 - NodeRec.value nd.record) % 4294967296 < 2147483648) :
    exec (.eventNodeSatisfied n) s = .next (s.retireNode n nd 0).settleAll := by
  show execEventNodeSatisfied n s = _
  unfold execEventNodeSatisfied
  split
  · next h => exact absurd (hnd.symm.trans h) nofun
  · next x h =>
    obtain rfl := Option.some.inj (hnd.symm.trans h)
    exact congrArg Host.Outcome.next (if_pos ⟨hk, hst, hc, by rw [hsp]; rfl, hcount⟩)

section
variable {s : State} {n : Nat} {nd : Node} (hnd : kget? s.sched.nodes n = some nd) (hk : nd.kind = 3) (harm : nd.arm = some 1)
  (hc : nd.cancel = none) (hbody : NodeRec.body nd.record ≤ nd.gated) (hgated : s.gatedOn n 1 = [])

/-- The body nodes of a loop that have retired. -/
def State.bodiesOf (s : State) (n : Nat) : List Node := (s.sched.bodies.filter (fun e => e.1 == n)).map (·.2)

include hnd hk harm hc hbody hgated

/-- The next iteration begins where the word says so and the table has room. -/
theorem loopIteration_again (hi : nd.iter + 1 < NodeRec.value nd.record) (hw : s.nodeWord nd ≠ 0)
    (hroom : s.sched.nodes.length + (s.bodiesOf n).length ≤ 8192) :
    exec (.loopIteration n) s = .next (((s.bodiesOf n).mergeSort (fun a b => decide (a.order ≤ b.order))).foldl (fun u b => u.reaccept n b)
      (({ s.noteWord nd with sched := { (s.noteWord nd).sched with
        bodies := (s.noteWord nd).sched.bodies.filter (fun e => e.1 != n) } } : State).modNode n
        (fun x => { x with iter := nd.iter + 1 }))).settleAll := by
  show execLoopIteration n s = _
  unfold execLoopIteration
  split
  · next h => exact absurd (hnd.symm.trans h) nofun
  · next x h =>
    obtain rfl := Option.some.inj (hnd.symm.trans h)
    refine congrArg Host.Outcome.next ((if_pos ⟨hk, harm, hc, hbody, hgated⟩).trans ?_)
    extract_lets i body again next u src v w
    have hag : again = true := decide_eq_true hi
    have hnx : next = true := (Bool.and_eq_true _ _).mpr ⟨hag, bne_iff_ne.2 hw⟩
    have hu : u = s.noteWord nd := if_pos hag
    refine (if_neg fun h => ?_).trans ((if_pos hnx).trans ?_)
    · have hlen : body.length = (s.bodiesOf n).length := List.length_mergeSort _
      have := h.2
      omega
    · show (List.foldl _ (State.modNode ({ u with sched := { u.sched with bodies := u.sched.bodies.filter (fun e => e.1 != n) } } : State) n _) _).settleAll = _
      rw [hu]
      rfl

/-- While the table has no room for the body, the iteration waits. -/
theorem loopIteration_full (hi : nd.iter + 1 < NodeRec.value nd.record) (hw : s.nodeWord nd ≠ 0)
    (hroom : 8192 < s.sched.nodes.length + (s.bodiesOf n).length) : exec (.loopIteration n) s = .next s := by
  show execLoopIteration n s = _
  unfold execLoopIteration
  split
  · next h => exact absurd (hnd.symm.trans h) nofun
  · next x h =>
    obtain rfl := Option.some.inj (hnd.symm.trans h)
    refine congrArg Host.Outcome.next ((if_pos ⟨hk, harm, hc, hbody, hgated⟩).trans ?_)
    extract_lets i body again next
    have hag : again = true := decide_eq_true hi
    have hnx : next = true := (Bool.and_eq_true _ _).mpr ⟨hag, bne_iff_ne.2 hw⟩
    have hlen : body.length = (s.bodiesOf n).length := List.length_mergeSort _
    exact if_pos ⟨hnx, by omega⟩

/-- The loop ends otherwise. -/
theorem loopIteration_over (hno : ¬ (nd.iter + 1 < NodeRec.value nd.record ∧ s.nodeWord nd ≠ 0)) :
    exec (.loopIteration n) s = .next ((((if nd.iter + 1 < NodeRec.value nd.record then s.noteWord nd else s).modNode n
      (fun x => { x with iter := nd.iter + 1, arm := some 0, cancel := some 0 })).openGates n 0).settleAll) := by
  show execLoopIteration n s = _
  unfold execLoopIteration
  split
  · next h => exact absurd (hnd.symm.trans h) nofun
  · next x h =>
    obtain rfl := Option.some.inj (hnd.symm.trans h)
    refine congrArg Host.Outcome.next ((if_pos ⟨hk, harm, hc, hbody, hgated⟩).trans ?_)
    extract_lets i body again next u
    have hnx : ¬ next = true := fun h => hno ⟨of_decide_eq_true ((Bool.and_eq_true _ _).mp h).1, bne_iff_ne.1 ((Bool.and_eq_true _ _).mp h).2⟩
    have hu : u = if nd.iter + 1 < NodeRec.value nd.record then s.noteWord nd else s := by
      show (if decide (nd.iter + 1 < NodeRec.value nd.record) = true then s.noteWord nd else s) = _
      simp only [decide_eq_true_eq]
    refine (if_neg fun h => hnx h.1).trans ((if_neg hnx).trans ?_)
    rw [hu]

end

/-- Settles O44: each event's guard decides, and an accepted node and its queue's number stay as the tables settle. -/
theorem schedulerEvents : Obligations.SchedulerEvents := by
  unfold Obligations.SchedulerEvents
  refine ⟨fun s i sub hsub hserves hfirst hhost => ⟨fun hp => nodeAccept_rejected hsub hserves hfirst hhost hp,
      fun nd n hp hn hroom hfox _ => nodeAccept_accepted hsub hserves hfirst hhost hp hn hroom hfox⟩,
    fun s l q n nd p => schedulerDecision_single,
    fun s n st nd hnd hcells hst => ⟨nodeRetire_due hnd hcells hst, s.retireNode_nodes n nd st⟩,
    fun s n nd => eventNodeSatisfied_due, fun s n nd hnd hk harm hc hbody hgated => ?_⟩
  intro bodies
  exact ⟨fun hi hw => ⟨loopIteration_again hnd hk harm hc hbody hgated hi hw, loopIteration_full hnd hk harm hc hbody hgated hi hw⟩,
    loopIteration_over hnd hk harm hc hbody hgated⟩

end Sys2Proof.Machine

end

section
/-! The host link: event records, interrupts, registers, windows and translations (10 R201; 17 R322 to R328). -/

namespace Sys2Proof.Machine

/-- A record of a code stands in the ring of a die that was as before. -/
theorem State.logRec_logged {s u : State} {d : Nat} (hd : u.die d = s.die d) {code core cell : Nat} (hcode : code < 2 ^ 16) (hcore : core ≤ 2)
    (hcell : cell < 128) (ws : List Word) : Logged s (u.logRec d code core cell ws) d code := by
  unfold Logged
  intro hf
  have hlog := State.die_logRec (s := u) (d := d) (by rw [hd]; exact hf) code core cell ws
  refine ⟨ringWord0 ((u.die d).seq + 1) code core cell, wNat u.time :: ws, ?_, ringWord0_code _ hcode hcore hcell⟩
  rw [hlog]
  unfold Die.logged State.record
  dsimp only
  rw [hd]

theorem State.logHw_logged {s u : State} {d : Nat} (hd : u.die d = s.die d) {code : Nat} (hcode : code < 2 ^ 16) (w3 w6 w7 : Word) :
    Logged s (u.logHw d code w3 w6 w7) d code := State.logRec_logged hd hcode (by decide) (by decide) _

/-! ## Interrupts -/

theorem State.msix_modMsix (s : State) (v j : Nat) (f : Msix → Msix) : (s.modMsix v f).msix j = if j = v then f (s.msix v) else s.msix j :=
  kget_kset _ _ _ _ _

theorem State.msix_modMsix_same (s : State) (v : Nat) (f : Msix → Msix) : (s.modMsix v f).msix v = f (s.msix v) := kget_kset_same _ _ _ _

/-- A vector's message, while it is not masked. -/
theorem State.fire_sent {s : State} {v : Nat} (h : (s.msix v).masked = false) :
    ((s.fire v).msix v).pend = 0 ∧ ((s.fire v).msix v).masked = false ∧ (s.fire v).host.sent = s.host.sent ++ [.msix v] := by
  have hfire : s.fire v = (s.modMsix v (fun m => { m with pend := 0, held := false })).send (.msix v) :=
    if_neg (by rw [h]; exact Bool.false_ne_true)
  have hmsix : (s.fire v).msix v = { s.msix v with pend := 0, held := false } := by
    rw [hfire]
    exact s.msix_modMsix_same v (fun m => { m with pend := 0, held := false })
  exact ⟨by rw [hmsix], by rw [hmsix]; exact h, by rw [hfire]; rfl⟩

/-- A masked vector holds its message. -/
theorem State.fire_held {s : State} {v : Nat} (h : (s.msix v).masked = true) :
    ((s.fire v).msix v).held = true ∧ ((s.fire v).msix v).pend = (s.msix v).pend ∧ (s.fire v).host.sent = s.host.sent := by
  have hfire : s.fire v = s.modMsix v (fun m => { m with held := true }) := if_pos h
  have hmsix : (s.fire v).msix v = { s.msix v with held := true } := by
    rw [hfire]
    exact s.msix_modMsix_same v _
  exact ⟨by rw [hmsix], by rw [hmsix], by rw [hfire]; rfl⟩

/-- What a message leaves alone. -/
structure State.Quiet (s t : State) : Prop where
  asids : t.sched.asids = s.sched.asids
  hostMem : t.hostMem = s.hostMem
  mem : t.mem = s.mem
  bar0 : t.host.bar0 = s.host.bar0

theorem State.Quiet.fire (s : State) (v : Nat) : s.Quiet (s.fire v) := by
  unfold State.fire
  split <;> exact ⟨rfl, rfl, rfl, rfl⟩

theorem State.Quiet.fireFull (s : State) (v : Nat) : s.Quiet (s.fireFull v) := by
  unfold State.fireFull
  split
  · exact .fire s v
  · exact ⟨rfl, rfl, rfl, rfl⟩

theorem State.Quiet.trans {s t u : State} (h : s.Quiet t) (h' : t.Quiet u) : s.Quiet u :=
  ⟨h'.asids.trans h.asids, h'.hostMem.trans h.hostMem, h'.mem.trans h.mem, h'.bar0.trans h.bar0⟩

theorem State.Quiet.countRecord (s : State) (v : Nat) : s.Quiet (s.countRecord v) := by
  unfold State.countRecord
  refine State.Quiet.trans ?_ (.fireFull _ v)
  exact ⟨rfl, rfl, rfl, rfl⟩

theorem State.unmask_shows (s : State) (v : Nat) : s.Quiet (s.unmask v) ∧ ((s.unmask v).msix v).masked = false ∧
    ((s.msix v).held = true → ((s.unmask v).msix v).pend = 0 ∧ (s.unmask v).host.sent = s.host.sent ++ [.msix v]) := by
  have hm : ((s.modMsix v (fun m => { m with masked := false, held := false })).msix v) = { s.msix v with masked := false, held := false } :=
    s.msix_modMsix_same v _
  obtain ⟨hp, hk, hs⟩ := State.fire_sent (s := s.modMsix v (fun m => { m with masked := false, held := false })) (v := v) (by rw [hm])
  unfold State.unmask
  extract_lets held u
  have hq : s.Quiet u := ⟨rfl, rfl, rfl, rfl⟩
  split
  · exact ⟨hq.trans (.fire u v), hk, fun _ => ⟨hp, hs⟩⟩
  · next h => exact ⟨hq, congrArg Msix.masked hm, fun hh => absurd hh h⟩

theorem interrupts_shows (s : State) (v : Nat) (e : Instr) :
    let m := s.msix v
    (e = .msixFirstTimer v ∧ 0 < m.pend ∧ m.first + 1000 * m.t ≤ s.time) ∨ (e = .msixIdleTimer v ∧ 0 < m.pend ∧ m.latest + 1000 * m.i ≤ s.time) ∨
      (e = .msixUnmask v ∧ m.held = true ∧ s.serves = true) →
    (m.masked = false ∨ e = .msixUnmask v → ∃ t, exec e s = .next t ∧ (t.msix v).pend = 0 ∧ (t.msix v).masked = false ∧
      t.host.sent = s.host.sent ++ [.msix v]) ∧
    (m.masked = true → e ≠ .msixUnmask v → ∃ t, exec e s = .next t ∧ (t.msix v).held = true ∧ (t.msix v).pend = m.pend ∧
      t.host.sent = s.host.sent) := by
  intro m h
  have htimer : exec e s = .next (s.fire v) → e ≠ .msixUnmask v →
      (m.masked = false ∨ e = .msixUnmask v → ∃ t, exec e s = .next t ∧ (t.msix v).pend = 0 ∧ (t.msix v).masked = false ∧
        t.host.sent = s.host.sent ++ [.msix v]) ∧
      (m.masked = true → e ≠ .msixUnmask v → ∃ t, exec e s = .next t ∧ (t.msix v).held = true ∧ (t.msix v).pend = m.pend ∧
        t.host.sent = s.host.sent) := fun hexec hne =>
    ⟨fun hm => ⟨_, hexec, State.fire_sent (hm.resolve_right hne)⟩, fun hm _ => ⟨_, hexec, State.fire_held hm⟩⟩
  rcases h with ⟨rfl, hp, ht⟩ | ⟨rfl, hp, ht⟩ | ⟨rfl, hh, hserves⟩
  · exact htimer (congrArg Host.Outcome.next (if_pos ⟨hp, ht⟩)) nofun
  · exact htimer (congrArg Host.Outcome.next (if_pos ⟨hp, ht⟩)) nofun
  · obtain ⟨-, hk, hsent⟩ := s.unmask_shows v
    obtain ⟨hpend, hs⟩ := hsent hh
    exact ⟨fun _ => ⟨s.unmask v, congrArg Host.Outcome.next (if_pos hserves), hpend, hk, hs⟩, fun _ hne => absurd rfl hne⟩

/-! ## Event rings -/

theorem eventRecordWrite_shows {s : State} {a : Nat} {r : WaitRec} {rest : List WaitRec} (hw : (s.asid a).waiting = r :: rest)
    (hroom : (s.asid a).ringRoom = true) (hsrc : r.src = none) :
    let x := s.asid a
    let i := x.ringWr % 2 ^ x.ringK
    ∃ t, exec (.eventRecordWrite a) s = .next t ∧ (t.asid a).waiting = rest ∧ (t.asid a).ringWr = x.ringWr + 1 ∧
      (t.asid a).pass = (if i + 1 = 2 ^ x.ringK then !x.pass else x.pass) ∧
      t.hostMem = s.hostMem.write (hostKey hostPlain (x.ringBase + 32 * i)) (recordBytes r.words x.pass) ∧ t.mem = s.mem := by
  intro x i
  obtain ⟨u, hu⟩ : ∃ u, u = (({ s with hostMem := s.hostMem.write (hostKey hostPlain (x.ringBase + 32 * i)) (recordBytes r.words x.pass) } : State).modAsid a
    (fun x => { x with waiting := rest, ringWr := x.ringWr + 1, pass := if i + 1 = 2 ^ x.ringK then !x.pass else x.pass })) := ⟨_, rfl⟩
  have hexec : exec (.eventRecordWrite a) s = .next (u.countRecord (wordAt r.words 1 % 2048)) := by
    show execEventRecordWrite a s = _
    unfold execEventRecordWrite
    extract_lets y
    refine congrArg Host.Outcome.next ?_
    split
    · next h => exact absurd (hw.symm.trans h) nofun
    · next r' rest' h =>
      obtain ⟨rfl, rfl⟩ := List.cons.inj (hw.symm.trans h)
      refine (if_pos hroom).trans ?_
      extract_lets v w z
      have hz : z = u.countRecord (wordAt r.words 1 % 2048) := congrArg (State.countRecord · _) hu.symm
      rw [← hz]
      split
      · rfl
      · next h => exact absurd (hsrc.symm.trans h) nofun
  have hq := State.Quiet.countRecord u (wordAt r.words 1 % 2048)
  have hasid : (u.countRecord (wordAt r.words 1 % 2048)).asid a =
      { x with waiting := rest, ringWr := x.ringWr + 1, pass := if i + 1 = 2 ^ x.ringK then !x.pass else x.pass } := by
    rw [State.asid, hq.asids, hu]
    exact kget_kset_same _ _ _ _
  exact ⟨_, hexec, by rw [hasid], by rw [hasid], by rw [hasid], hq.hostMem.trans (by rw [hu]; rfl), hq.mem.trans (by rw [hu]; rfl)⟩

/-! ## Registers -/

theorem State.fire_msix_n (s : State) (v j : Nat) : ((s.fire v).msix j).n = (s.msix j).n := by
  unfold State.fire
  split
  · rw [State.msix_modMsix]
    split
    · next h => rw [h]
    · rfl
  · refine (congrArg Msix.n (s.msix_modMsix v j (fun m => { m with pend := 0, held := false }))).trans ?_
    split
    · next h => rw [h]
    · rfl

theorem State.fireFull_msix_n (s : State) (v j : Nat) : ((s.fireFull v).msix j).n = (s.msix j).n := by
  unfold State.fireFull
  split
  · exact s.fire_msix_n v j
  · rfl

theorem range_ok (n : Nat) : (decide (1 ≤ n) && decide (n ≤ 256)) = true ↔ 1 ≤ n ∧ n ≤ 256 := by
  rw [Bool.and_eq_true, decide_eq_true_iff, decide_eq_true_iff]

/-- The register that stands at an address, where the host writes a value. -/
def State.tookRegister (s : State) (addr : Nat) (val : Word) : State := s.setHost (fun h => { h with bar0 := kset h.bar0 addr val })

/-- What a register does with the value. -/
def State.actRegister (u : State) (r : Config.Bar0) (val : Word) : State :=
  let ok := decide (1 ≤ val.toNat) && decide (val.toNat ≤ 256)
  match r with
  | .ringRead a => u.modAsid a (fun x => if x.ringRd ≤ val.toNat ∧ val.toNat ≤ x.ringWr then { x with ringRd := val.toNat } else x)
  | .mask v => if val.toNat % 2 = 1 then u.modMsix v (fun m => { m with masked := true }) else u.unmask v
  | .count v => if ok then (u.modMsix v (fun m => { m with n := val.toNat })).fireFull v else u
  | .time v => if ok then u.modMsix v (fun m => { m with t := val.toNat }) else u
  | .idle v => if ok then u.modMsix v (fun m => { m with i := val.toNat }) else u
  | .mailWord i => u.setHost (fun h => { h with mail := vset h.mail i val })
  | .mailDoorbell => u.setHost (fun h => { h with rung := h.rung ++ [h.mail.toList] })
  | .queueDoorbell _ => u
  | .other => u

theorem exec_hostRegisterWrite {s : State} (hserves : s.serves = true) (addr : Nat) (val : Word) :
    exec (.hostRegisterWrite addr val) s = .next ((s.tookRegister addr val).actRegister (Config.bar0 addr) val) := by
  show execHostRegisterWrite addr val s = _
  unfold execHostRegisterWrite
  refine congrArg Host.Outcome.next ((if_neg (by rw [hserves]; exact Bool.false_ne_true)).trans ?_)
  cases h : Config.bar0 addr <;> rfl

theorem hostRegisterWrite_shows {s : State} (addr : Nat) (val : Word) (hserves : s.serves = true) :
    ∃ t, exec (.hostRegisterWrite addr val) s = .next t ∧ kget? t.host.bar0 addr = some val ∧
      (∀ a, Config.bar0 addr = .ringRead a → (s.asid a).ringRd ≤ val.toNat → val.toNat ≤ (s.asid a).ringWr → (t.asid a).ringRd = val.toNat) ∧
      (∀ v, Config.bar0 addr = .count v → (t.msix v).n = if 1 ≤ val.toNat ∧ val.toNat ≤ 256 then val.toNat else (s.msix v).n) ∧
      (∀ v, Config.bar0 addr = .time v → (t.msix v).t = if 1 ≤ val.toNat ∧ val.toNat ≤ 256 then val.toNat else (s.msix v).t) ∧
      (∀ v, Config.bar0 addr = .idle v → (t.msix v).i = if 1 ≤ val.toNat ∧ val.toNat ≤ 256 then val.toNat else (s.msix v).i) ∧
      (∀ v, Config.bar0 addr = .mask v → (t.msix v).masked = decide (val.toNat % 2 = 1)) := by
  refine ⟨_, exec_hostRegisterWrite hserves addr val, ?_⟩
  have hbar : kget? (s.tookRegister addr val).host.bar0 addr = some val := (kget?_kset _ _ _ _).trans (if_pos rfl)
  obtain ⟨u, hu⟩ : ∃ u, u = s.tookRegister addr val := ⟨_, rfl⟩
  have hmsix : u.host.msix = s.host.msix := by rw [hu]; rfl
  have hasids : u.sched.asids = s.sched.asids := by rw [hu]; rfl
  rw [← hu] at hbar ⊢
  have hm : ∀ v, u.msix v = s.msix v := fun v => congrArg (fun m => kget ({} : Msix) m v) hmsix
  clear hu
  unfold State.actRegister
  cases hb : Config.bar0 addr with
  | ringRead a =>
    refine ⟨hbar, fun a' ha' hrd hwr => ?_, nofun, nofun, nofun, nofun⟩
    obtain rfl := Config.Bar0.ringRead.inj ha'
    have ha : u.asid a = s.asid a := congrArg (fun m => kget ({} : Asid) m a) hasids
    refine (congrArg Asid.ringRd (kget_kset_same _ _ _ _)).trans ?_
    rw [ha]
    exact congrArg Asid.ringRd (if_pos ⟨hrd, hwr⟩)
  | mask v =>
    refine ⟨?_, nofun, nofun, nofun, nofun, fun v' hv' => ?_⟩
    · dsimp only
      split
      · exact hbar
      · rw [(u.unmask_shows v).1.bar0]
        exact hbar
    · obtain rfl := Config.Bar0.mask.inj hv'
      dsimp only
      split
      · next h => rw [State.msix_modMsix_same, decide_eq_true h]
      · next h => rw [(u.unmask_shows v).2.1, decide_eq_false h]
  | count v =>
    refine ⟨?_, nofun, fun v' hv' => ?_, nofun, nofun, nofun⟩
    · dsimp only
      split
      · rw [(State.Quiet.fireFull _ v).bar0]
        exact hbar
      · exact hbar
    · obtain rfl := Config.Bar0.count.inj hv'
      dsimp only
      simp only [range_ok]
      split
      · rw [State.fireFull_msix_n, State.msix_modMsix_same]
      · rw [hm]
  | time v =>
    refine ⟨?_, nofun, nofun, fun v' hv' => ?_, nofun, nofun⟩
    · dsimp only
      split <;> exact hbar
    · obtain rfl := Config.Bar0.time.inj hv'
      dsimp only
      simp only [range_ok]
      split
      · rw [State.msix_modMsix_same]
      · rw [hm]
  | idle v =>
    refine ⟨?_, nofun, nofun, nofun, fun v' hv' => ?_, nofun⟩
    · dsimp only
      split <;> exact hbar
    · obtain rfl := Config.Bar0.idle.inj hv'
      dsimp only
      simp only [range_ok]
      split
      · rw [State.msix_modMsix_same]
      · rw [hm]
  | mailWord i => exact ⟨hbar, nofun, nofun, nofun, nofun, nofun⟩
  | mailDoorbell => exact ⟨hbar, nofun, nofun, nofun, nofun, nofun⟩
  | queueDoorbell q => exact ⟨hbar, nofun, nofun, nofun, nofun, nofun⟩
  | other => exact ⟨hbar, nofun, nofun, nofun, nofun, nofun⟩

/-! ## Windows -/

theorem State.noteHome_frame (s : State) (h off n : Nat) : ∃ st, s.noteHome h off n = { s with hbmStacks := st } := by
  unfold State.noteHome
  split
  · split
    · exact State.foldl_frame (put := fun s st => { s with hbmStacks := st }) (fun _ _ _ => rfl) (fun s g => s.modStack_frame _ _) _
        (b₀ := s.hbmStacks) rfl
    · exact ⟨s.hbmStacks, rfl⟩
  · exact ⟨s.hbmStacks, rfl⟩

theorem State.logHw_logs (s : State) (d code : Nat) (w3 w6 w7 : Word) : s.Logs (s.logHw d code w3 w6 w7) := .logRec s d code 2 127 _

/-- The record of a dropped write. -/
theorem State.dropped_shows (s : State) (w off : Nat) {code : Nat} (hcode : code < 0x8000) (w6 w7 : Word) :
    let t := (s.bump.bump.bump.reply (.dropped w off)).logHw Config.schedDie code 0 w6 w7
    t.host.replies = s.host.replies ++ [.dropped w off] ∧ t.host.writes = s.host.writes ∧ t.hbm = s.hbm ∧
      ∃ c, c < 0x8000 ∧ Logged s t Config.schedDie c := by
  intro t
  obtain ⟨u, hu⟩ : ∃ u, u = s.bump.bump.bump.reply (.dropped w off) := ⟨_, rfl⟩
  have ht : t = u.logHw Config.schedDie code 0 w6 w7 := by rw [hu]
  have hdies : u.dies = s.dies := by rw [hu]; rfl
  have hdie : u.die Config.schedDie = s.die Config.schedDie := by rw [State.die, hdies, State.die]
  have hl := u.logHw_logs Config.schedDie code 0 w6 w7
  rw [ht]
  refine ⟨?_, ?_, ?_, code, hcode, State.logHw_logged hdie (Nat.lt_trans hcode (by decide)) _ _ _⟩
  · rw [hl.frame, hu]; rfl
  · rw [hl.frame, hu]; rfl
  · rw [hl.frame, hu]; rfl

theorem hostWindows_shows {s : State} (w off len : Nat) (data : List Byte) (hserves : s.serves = true) :
    (s.windowAt w off len 0 = none → exec (.hostWindowRead w off len) s = .next (s.reply (.window false [] false))) ∧
    (∀ m o, s.windowAt w off len 0 = some (m, o) → ∃ t, exec (.hostWindowRead w off len) s = .next t ∧
      t.host.replies = s.host.replies ++ [.window true (s.homeWord m.handle o len).1 (s.homeWord m.handle o len).2] ∧ t.hbm = s.hbm) ∧
    (s.windowAt w off data.length 1 = none → ∃ t, exec (.hostWindowWrite w off data) s = .next t ∧
      t.host.replies = s.host.replies ++ [.dropped w off] ∧ t.host.writes = s.host.writes ∧ t.hbm = s.hbm ∧
      ∃ code, code < 0x8000 ∧ Logged s t Config.schedDie code) ∧
    (∀ m o, s.windowAt w off data.length 1 = some (m, o) → ∃ t, exec (.hostWindowWrite w off data) s = .next t ∧
      t.host.writes = s.host.writes ++ [(m.asid, bufKey m.handle o, data)] ∧ t.hbm = s.hbm) := by
  have hread : exec (.hostWindowRead w off len) s = .next (match s.windowAt w off len 0 with
      | none => s.reply (.window false [] false)
      | some (m, o) => ((s.noteHome m.handle o len).cacheTouch m.asid m.handle o len).reply
          (.window true (s.homeWord m.handle o len).1 (s.homeWord m.handle o len).2)) := by
    show execHostWindowRead w off len s = _
    unfold execHostWindowRead
    refine congrArg Host.Outcome.next ((if_neg (by rw [hserves]; exact Bool.false_ne_true)).trans ?_)
    rfl
  have hwrite : exec (.hostWindowWrite w off data) s = .next (match s.windowAt w off data.length 1 with
      | none => (s.bump.bump.bump.reply (.dropped w off)).logHw Config.schedDie (Config.freeWord s.free % 0x8000) 0
          (wNat (Config.freeWord (s.free + 1))) (wNat (Config.freeWord (s.free + 2)))
      | some (m, o) => s.setHost (fun h => { h with writes := h.writes ++ [(m.asid, bufKey m.handle o, data)] })) := by
    show execHostWindowWrite w off data s = _
    unfold execHostWindowWrite
    refine congrArg Host.Outcome.next ((if_neg (by rw [hserves]; exact Bool.false_ne_true)).trans ?_)
    rfl
  refine ⟨fun h => ?_, fun m o h => ?_, fun h => ?_, fun m o h => ?_⟩
  · rw [hread, h]
  · refine ⟨_, hread, ?_⟩
    rw [h]
    dsimp only
    obtain ⟨st, hst⟩ := s.noteHome_frame m.handle o len
    obtain ⟨st', hst'⟩ := (s.noteHome m.handle o len).cacheTouch_frame m.asid m.handle o len
    rw [hst', hst]
    exact ⟨rfl, rfl⟩
  · refine ⟨_, hwrite, ?_⟩
    rw [h]
    dsimp only
    exact State.dropped_shows s w off (Nat.mod_lt _ (by decide)) _ _
  · refine ⟨_, hwrite, ?_⟩
    rw [h]
    exact ⟨rfl, rfl⟩

/-! ## Translations -/

theorem Trans.is_iff (t : Trans) (pasid page : Nat) : t.is pasid page = true ↔ t.pasid = pasid ∧ t.page = page := by
  rw [Trans.is, Bool.and_eq_true, beq_iff_eq, beq_iff_eq]

/-- The entries of a page after a change of it. -/
theorem State.modTrans_trans (s : State) {pasid page : Nat} {f : Trans → Trans} (hf : ∀ t, (f t).pasid = t.pasid ∧ (f t).page = t.page) :
    (∀ x ∈ (s.modTrans pasid page f).host.trans, x.is pasid page = true → ∃ y, x = f y) ∧
      ∃ x ∈ (s.modTrans pasid page f).host.trans, x.is pasid page = true := by
  have his : ∀ t : Trans, (f t).is pasid page = t.is pasid page := fun t => by rw [Trans.is, Trans.is, (hf t).1, (hf t).2]
  have hlist : (s.modTrans pasid page f).host.trans =
      if s.host.trans.any (fun t => t.is pasid page) then s.host.trans.map (fun t => if t.is pasid page then f t else t)
      else s.host.trans ++ [f { pasid := pasid, page := page, valid := false }] := rfl
  rw [hlist]
  split
  · next hany =>
    refine ⟨fun x hx hxi => ?_, ?_⟩
    · obtain ⟨y, hy, rfl⟩ := List.mem_map.1 hx
      by_cases hyi : y.is pasid page = true
      · exact ⟨y, if_pos hyi⟩
      · rw [if_neg hyi] at hxi
        exact absurd hxi hyi
    · obtain ⟨y, hy, hyi⟩ := List.any_eq_true.1 hany
      exact ⟨_, List.mem_map.2 ⟨y, hy, if_pos hyi⟩, (his y).trans hyi⟩
  · next hany =>
    have hnew : ({ pasid := pasid, page := page, valid := false } : Trans).is pasid page = true := (Trans.is_iff _ _ _).2 ⟨rfl, rfl⟩
    refine ⟨fun x hx hxi => ?_, _, List.mem_append_right _ (List.mem_singleton.2 rfl), (his _).trans hnew⟩
    rcases List.mem_append.1 hx with h | h
    · exact absurd (List.any_eq_true.2 ⟨x, h, hxi⟩) hany
    · exact ⟨_, List.mem_singleton.1 h⟩

theorem State.pageAnswered_trans (s : State) (pasid page : Nat) : (s.pageAnswered pasid page).host.trans = s.host.trans := by
  unfold State.pageAnswered
  extract_lets h pri
  split
  · split <;> rfl
  · rfl

theorem translations_shows (s : State) (pasid page : Nat) :
    (s.serves = true → ∃ t, exec (.atsInvalidation pasid page) s = .next t ∧ (∀ x ∈ t.host.trans, x.is pasid page = true → x.valid = false ∧ x.inval = true) ∧
      (s.pageLeased pasid page = true → t.host.sent = s.host.sent ++ [.atsRequest pasid page])) ∧
    (s.host.trans.any (fun t => t.is pasid page && t.inval) = true → s.pagePosted pasid page = false →
      ∃ t, exec (.atsInvalidationComplete pasid page) s = .next t ∧ t.host.replies = s.host.replies ++ [.atsDone pasid page] ∧
        (∀ x ∈ t.host.trans, x.is pasid page = true → x.valid = true ∧ x.inval = false)) ∧
    (s.serves = true → ∃ t, exec (.translationResponse pasid page true) s = .next t ∧ t.host.trans.any (fun x => x.is pasid page && x.valid) = true) ∧
    (s.serves = true → (pasid, page) ∉ s.host.pri → (pasid, page) ∉ s.host.priWait →
      ∃ t, exec (.translationResponse pasid page false) s = .next t ∧
        if s.host.pri.length < 512 then
          t.host.sent = s.host.sent ++ [.pageRequest pasid page] ∧ t.host.pri = s.host.pri ++ [(pasid, page)] ∧ t.host.priWait = s.host.priWait
        else t.host.sent = s.host.sent ∧ t.host.pri = s.host.pri ∧ t.host.priWait = s.host.priWait ++ [(pasid, page)]) := by
  have hnot : s.serves = true → ¬ (!s.serves) = true := fun h => by rw [h]; exact Bool.false_ne_true
  refine ⟨fun hs => ?_, fun hany hposted => ?_, fun hs => ?_, fun hs hpri hwait => ?_⟩
  · obtain ⟨u, hu⟩ : ∃ u, u = s.modTrans pasid page (fun t => { t with valid := false, inval := true }) := ⟨_, rfl⟩
    obtain ⟨hall, -⟩ := s.modTrans_trans (pasid := pasid) (page := page) (f := fun t => { t with valid := false, inval := true }) fun _ => ⟨rfl, rfl⟩
    have hl : u.pageLeased pasid page = s.pageLeased pasid page := by rw [hu]; rfl
    have hsent : u.host.sent = s.host.sent := by rw [hu]; rfl
    rw [← hu] at hall
    have hexec : exec (.atsInvalidation pasid page) s = .next (if u.pageLeased pasid page then u.send (.atsRequest pasid page) else u) := by
      rw [hu]
      exact congrArg Host.Outcome.next (if_neg (hnot hs))
    refine ⟨_, hexec, fun x hx hxi => ?_, fun hp => ?_⟩
    · have hx' : x ∈ u.host.trans := by
        split at hx <;> exact hx
      obtain ⟨y, rfl⟩ := hall x hx' hxi
      exact ⟨rfl, rfl⟩
    · rw [if_pos (hl.trans hp), ← hsent]
      rfl
  · refine ⟨_, congrArg Host.Outcome.next (if_pos ⟨hany, by rw [hposted]; rfl⟩), rfl, fun x hx hxi => ?_⟩
    obtain ⟨y, -, hy⟩ := List.mem_filterMap.1 hx
    by_cases hyi : y.is pasid page = true
    · rw [if_pos hyi] at hy
      split at hy
      · next hv =>
        obtain rfl := Option.some.inj hy
        exact ⟨hv, rfl⟩
      · exact absurd hy nofun
    · rw [if_neg hyi] at hy
      obtain rfl := Option.some.inj hy
      exact absurd hxi hyi
  · refine ⟨_, congrArg Host.Outcome.next ((if_neg (hnot hs)).trans (if_pos rfl)), ?_⟩
    rw [State.pageAnswered_trans]
    obtain ⟨hall, x, hx, hxi⟩ := s.modTrans_trans (pasid := pasid) (page := page) (f := fun t => { t with
      valid := true, tags := (t.tags ++ (s.pageUsers (pasid, page)).filter s.live).eraseDups }) fun _ => ⟨rfl, rfl⟩
    obtain ⟨y, rfl⟩ := hall x hx hxi
    exact List.any_eq_true.2 ⟨_, hx, (Bool.and_eq_true _ _).mpr ⟨hxi, rfl⟩⟩
  · refine ⟨_, congrArg Host.Outcome.next ((if_neg (hnot hs)).trans (if_neg Bool.false_ne_true)), ?_⟩
    have hask : s.askPage pasid page = if 512 ≤ s.host.pri.length
        then { s with host := { s.host with priWait := s.host.priWait ++ [(pasid, page)] } }
        else ({ s with host := { s.host with pri := s.host.pri ++ [(pasid, page)] } } : State).send (.pageRequest pasid page) := by
      refine if_neg fun h => ?_
      rcases Bool.or_eq_true _ _ ▸ h with h | h
      · exact hpri (List.contains_iff_mem.1 h)
      · exact hwait (List.contains_iff_mem.1 h)
    rw [hask]
    split
    · next h => rw [if_neg (Nat.not_le.2 h)]; exact ⟨rfl, rfl, rfl⟩
    · next h => rw [if_pos (Nat.not_lt.1 h)]; exact ⟨rfl, rfl, rfl⟩

/-- Settles O45: each event's guard decides, and the rest of the link's state is read off the state that it leaves. -/
theorem hostLinkEvents : Obligations.HostLinkEvents := by
  unfold Obligations.HostLinkEvents
  exact ⟨fun s a r rest hw hroom hsrc => eventRecordWrite_shows hw hroom hsrc, interrupts_shows, fun s addr val => hostRegisterWrite_shows addr val,
    fun s w off len data => hostWindows_shows w off len data, translations_shows⟩

end Sys2Proof.Machine

end

section
/-! Stream flits: the contexts of a link, what they deliver, and how they end (17 R317 to R319). -/

namespace Sys2Proof.Machine

/-! ## What lands leaves the fabric alone -/

theorem State.foldl_fabric {α : Type} {f : State → α → State} (hf : ∀ t a, (f t a).fabric = t.fabric) (l : List α) (s : State) :
    (l.foldl f s).fabric = s.fabric := by
  induction l generalizing s with
  | nil => rfl
  | cons a l ih => exact (ih _).trans (hf s a)

theorem State.noteSlotStore_fabric (s : State) (a n : Nat) : (s.noteSlotStore a n).fabric = s.fabric := by
  obtain ⟨g, hg⟩ := s.noteSlotStore_eq a n
  rw [hg]

theorem State.landX_fabric (s : State) (k : Nat) (c : CoreIx) (j : Nat) (v : Word) (bad : Bool) : (s.landX k c j v bad).fabric = s.fabric := by
  rw [State.landX]
  split <;> rfl

theorem State.landSem_fabric (s : State) (k n v : Nat) : (s.landSem k n v).1.fabric = s.fabric := by
  rw [State.landSem]
  split
  · rfl
  · split <;> rfl

theorem State.landChip_fabric (s : State) (a : Nat) (ws : List WByte) : (s.landChip a ws).1.fabric = s.fabric := by
  unfold State.landChip
  extract_lets k off c u live
  split
  · exact s.landX_fabric _ _ _ _ _
  · exact s.landSem_fabric _ _ _
  · have hlive : ∀ (c : CoreIx), (live u c).fabric = u.fabric := fun c => by
      refine State.foldl_fabric (fun _ _ => ?_) _ u
      rfl
    split
    · exact State.noteSlotStore_fabric _ _ _
    · exact hlive .v
    · exact hlive .e
    · rfl

theorem State.landStream_fabric (s : State) (c : Ctx) (i : Nat) (ws : List WByte) : (s.landStream c i ws).fabric = s.fabric := by
  unfold State.landStream
  extract_lets a h a' ag asid
  split
  · rfl
  · split
    · split
      · exact s.landChip_fabric _ _
      · rfl
    · split
      · split
        · obtain ⟨bufs, hb⟩ := (s.homePut h a ws).modBuf_frame h (fun d => { d with written := true })
          obtain ⟨st, hst⟩ := ((s.homePut h a ws).modBuf h (fun d => { d with written := true })).cacheTouch_frame asid h a ws.length
          rw [hst, hb]
          rfl
        · rfl
      · rfl

/-! ## Contexts -/

/-- Is a context the one of a tag on a link? -/
def Ctx.at (c : Ctx) (l tag : Nat) : Prop := c.link = l ∧ c.tag = tag

theorem Ctx.same_iff (c d : Ctx) : c.same d = true ↔ c.link = d.link ∧ c.tag = d.tag := by
  rw [Ctx.same, Bool.and_eq_true, beq_iff_eq, beq_iff_eq]

/-- Every context of a tag on a link is as P says, and there is one. -/
structure State.Carries (l tag : Nat) (P : Ctx → Prop) (s : State) : Prop where
  all : ∀ c ∈ s.fabric.ctxs, c.at l tag → P c
  has : ∃ c ∈ s.fabric.ctxs, c.at l tag

theorem State.Carries.ctxOf {l tag : Nat} {P : Ctx → Prop} {s : State} (h : s.Carries l tag P) : ∃ c, s.ctxOf l tag = some c ∧ P c := by
  obtain ⟨c, hc, hl, ht⟩ := h.has
  have his : (s.fabric.ctxs.find? (fun c => c.link == l && c.tag == tag)).isSome = true :=
    List.find?_isSome.2 ⟨c, hc, by rw [hl, ht, beq_self_eq_true, beq_self_eq_true]; rfl⟩
  obtain ⟨d, hd⟩ := Option.isSome_iff_exists.1 his
  have hp := List.find?_some hd
  simp only [Bool.and_eq_true, beq_iff_eq] at hp
  exact ⟨d, hd, h.all d (List.mem_of_find?_eq_some hd) hp⟩

theorem State.Carries.putCtx {l tag : Nat} {P : Ctx → Prop} {s : State} (h : s.Carries l tag P) {c : Ctx} (hc : c.at l tag → P c) :
    (s.putCtx c).Carries l tag P := by
  have hctxs : (s.putCtx c).fabric.ctxs = s.fabric.ctxs.map (fun d => if d.same c then c else d) := rfl
  refine ⟨fun d hd hat => ?_, ?_⟩
  · rw [hctxs] at hd
    obtain ⟨e, he, rfl⟩ := List.mem_map.1 hd
    by_cases hs : e.same c = true
    · rw [if_pos hs] at hat ⊢
      exact hc hat
    · rw [if_neg hs] at hat ⊢
      exact h.all e he hat
  · obtain ⟨e, he, hat⟩ := h.has
    refine ⟨_, hctxs ▸ List.mem_map.2 ⟨e, he, rfl⟩, ?_⟩
    split
    · next hs =>
      obtain ⟨hl, ht⟩ := (Ctx.same_iff e c).1 hs
      exact ⟨hl.symm.trans hat.1, ht.symm.trans hat.2⟩
    · exact hat

theorem State.Carries.fabric {l tag : Nat} {P : Ctx → Prop} {s t : State} (h : s.Carries l tag P) (hf : t.fabric = s.fabric) :
    t.Carries l tag P := by
  obtain ⟨ha, hs⟩ := h
  rw [← hf] at ha hs
  exact ⟨ha, hs⟩

theorem dueCtx_mem {before l : List Ctx} {c : Ctx} (h : dueCtx before l = some c) : c ∈ l := by
  induction l generalizing before with
  | nil => exact absurd h nofun
  | cons d l ih =>
    unfold dueCtx at h
    split at h
    · exact Option.some.inj h ▸ List.mem_cons_self
    · exact List.mem_cons_of_mem _ (ih h)

/-- What is delivered of a context. -/
def State.deliverCtx (s : State) (c : Ctx) : State := c.wait.foldl (fun s w => s.landStream c w.1 w.2) s

theorem State.deliverCtx_fabric (s : State) (c : Ctx) : (s.deliverCtx c).fabric = s.fabric :=
  State.foldl_fabric (f := fun (t : State) (w : Nat × List WByte) => t.landStream c w.1 w.2)
    (fun t w => t.landStream_fabric c w.1 w.2) _ s

/-- The context of a tag stays as P says, while it is not closed, as others deliver and end. -/
theorem State.Carries.settleCtxs {l tag : Nat} {P : Ctx → Prop} (hwait : ∀ c, P c → P { c with wait := [] }) (hopen : ∀ c, P c → c.closed = none)
    (n : Nat) {s : State} (h : s.Carries l tag P) : (State.settleCtxs n s).Carries l tag P := by
  induction n generalizing s with
  | zero => exact h
  | succ n ih =>
    unfold State.settleCtxs
    split
    · exact h
    · next c hc =>
      have hmem := dueCtx_mem hc
      have hdel := h.fabric (s.deliverCtx_fabric c)
      extract_lets u
      have hu : u.Carries l tag P := hdel
      refine ih ?_
      split
      · next st hst =>
        have hnot : ¬ c.at l tag := fun hat => absurd ((hopen c (h.all c hmem hat)).symm.trans hst) nofun
        have hctxs : (u.endCtx c st).fabric.ctxs = u.fabric.ctxs.filter (fun d => !d.same c) := rfl
        refine ⟨fun d hd hat => hu.all d (List.mem_filter.1 (hctxs ▸ hd)).1 hat, ?_⟩
        obtain ⟨e, he, hat⟩ := hu.has
        refine ⟨e, hctxs ▸ List.mem_filter.2 ⟨he, ?_⟩, hat⟩
        rw [Bool.not_eq_true']
        refine Bool.eq_false_iff.2 fun hs => hnot ?_
        obtain ⟨hl, ht⟩ := (Ctx.same_iff e c).1 hs
        exact ⟨hl.symm.trans hat.1, ht.symm.trans hat.2⟩
      · exact hu.putCtx fun hat => hwait c (h.all c hmem hat)

/-- No context of a tag on a link is left, and what was done before stands. -/
structure State.Ended (l tag : Nat) (done : List (Nat × List Byte × List (Nat × List Byte))) (s : State) : Prop where
  gone : ∀ c ∈ s.fabric.ctxs, ¬ c.at l tag
  done : ∃ more, s.fabric.done = done ++ more

theorem State.Ended.ctxOf {l tag : Nat} {done : List (Nat × List Byte × List (Nat × List Byte))} {s : State} (h : s.Ended l tag done) :
    s.ctxOf l tag = none := by
  refine List.find?_eq_none.2 fun c hc hp => h.gone c hc ?_
  simp only [Bool.and_eq_true, beq_iff_eq] at hp
  exact hp

/-- What stands of a context that ends with a status. -/
def Ctx.report (c : Ctx) (st : Nat) : List (Nat × List Byte × List (Nat × List Byte)) :=
  if st ≠ 0 ∨ c.whole = true then [(st, c.header, c.got)] else []

theorem State.endCtx_done (s : State) (c : Ctx) (st : Nat) : (s.endCtx c st).fabric.done = s.fabric.done ++ c.report st := by
  show (if st ≠ 0 ∨ c.whole = true then s.fabric.done ++ [(st, c.header, c.got)] else s.fabric.done) = _
  rw [Ctx.report]
  split
  · rfl
  · exact (List.append_nil _).symm

theorem State.endCtx_ended (s : State) {c : Ctx} {l tag : Nat} (hc : c.at l tag) (st : Nat) :
    (s.endCtx c st).Ended l tag (s.fabric.done ++ c.report st) := by
  refine ⟨fun d hd hat => ?_, [], (s.endCtx_done c st).trans (List.append_nil _).symm⟩
  have hns := (List.mem_filter.1 hd).2
  rw [(Ctx.same_iff d c).2 ⟨hat.1.trans hc.1.symm, hat.2.trans hc.2.symm⟩] at hns
  exact Bool.false_ne_true hns

theorem State.Ended.settleCtxs {l tag : Nat} {done : List (Nat × List Byte × List (Nat × List Byte))} (n : Nat) {s : State} (h : s.Ended l tag done) :
    (State.settleCtxs n s).Ended l tag done := by
  induction n generalizing s with
  | zero => exact h
  | succ n ih =>
    unfold State.settleCtxs
    split
    · exact h
    · next c hc =>
      have hmem := dueCtx_mem hc
      extract_lets u
      have hu : u.fabric = s.fabric := s.deliverCtx_fabric c
      obtain ⟨more, hmore⟩ := h.done
      refine ih ?_
      split
      · next st hst =>
        refine ⟨fun d hd => h.gone d (hu ▸ (List.mem_filter.1 hd).1), ?_⟩
        rw [State.endCtx_done, hu, hmore]
        exact ⟨_, List.append_assoc _ _ _⟩
      · refine ⟨fun d hd hat => ?_, more, (congrArg Fabric.done hu).trans hmore⟩
        obtain ⟨e, he, rfl⟩ := List.mem_map.1 hd
        split at hat
        · exact h.gone c hmem hat
        · exact h.gone e (hu ▸ he) hat

theorem State.settleCtxs_links (n : Nat) (s : State) : (State.settleCtxs n s).fabric.links = s.fabric.links := by
  induction n generalizing s with
  | zero => rfl
  | succ n ih =>
    unfold State.settleCtxs
    split
    · rfl
    · next c hc =>
      extract_lets u
      have hu : u.fabric = s.fabric := s.deliverCtx_fabric c
      refine (ih _).trans (Eq.trans ?_ (congrArg Fabric.links hu))
      split <;> rfl

/-! ## Flits -/

theorem State.link_modLink (s : State) (l j : Nat) (f : Link → Link) : (s.modLink l f).link j = if j = l then f (s.link l) else s.link j :=
  kget_kset _ _ _ _ _

theorem State.link_modLink_same (s : State) (l : Nat) (f : Link → Link) : (s.modLink l f).link l = f (s.link l) := kget_kset_same _ _ _ _

/-- The state in which a flit that is due is acted on. -/
def State.flitTaken (s : State) (l : Nat) : State := s.modLink l (fun x => { x with nextLseq := (x.nextLseq + 1) % 2 ^ 16 })

theorem State.takeFlit_due {s : State} {l kind : Nat} {f : Flit} (h : flitOk f = true ∧ flitKind f = kind ∧ flitNat f 242 2 = (s.link l).nextLseq)
    (act : State → State) : s.takeFlit l kind f act = act (s.flitTaken l) := by
  obtain ⟨hok, hk, hs⟩ := h
  refine if_pos ?_
  rw [hok, hk, hs, beq_self_eq_true, beq_self_eq_true]
  rfl

theorem State.flitTaken_link (s : State) (l : Nat) : ((s.flitTaken l).link l).nextLseq = ((s.link l).nextLseq + 1) % 65536 :=
  congrArg Link.nextLseq (s.link_modLink_same l _)

theorem State.link_of_links {s t : State} (h : t.fabric.links = s.fabric.links) (l : Nat) : t.link l = s.link l :=
  congrArg (fun m => kget ({} : Link) m l) h

/-- The payload of a flit, without its poison. -/
theorem Ctx.payload_bytes (c : Ctx) (i : Nat) (f : Flit) :
    (c.payload i f).map (·.v) = ((f.drop 2).take 240).take (flitNat c.header 12 4 - 240 * i) := by
  unfold Ctx.payload
  extract_lets n bs
  refine List.ext_getElem (by rw [List.length_map, List.length_zipWith, List.length_range, Nat.min_self]) fun j h h' => ?_
  rw [List.getElem_map, List.getElem_zipWith]

section
variable {s : State} {l : Nat} {f : Flit}

theorem streamOpen_shows (hdue : flitOk f = true ∧ flitKind f = 1 ∧ flitNat f 242 2 = (s.link l).nextLseq) (htag : flitTag f ≠ 255) :
    ∃ t, exec (.streamOpen l f) s = .next t ∧ (t.link l).nextLseq = ((s.link l).nextLseq + 1) % 65536 ∧
      t.ctxOf l (flitTag f) = some { link := l, tag := flitTag f, header := f } := by
  obtain ⟨t, ht⟩ : ∃ t, t = (s.flitTaken l).setFabric (fun x => { x with
      ctxs := x.ctxs.filter (fun c => !(c.link == l && c.tag == flitTag f)) ++ [{ link := l, tag := flitTag f, header := f }] }) := ⟨_, rfl⟩
  have hexec : exec (.streamOpen l f) s = .next t := by
    refine congrArg Host.Outcome.next ((State.takeFlit_due hdue _).trans ((if_neg htag).trans ht.symm))
  refine ⟨t, hexec, (congrArg Link.nextLseq (State.link_of_links (by rw [ht]; rfl) l)).trans (s.flitTaken_link l), ?_⟩
  rw [State.ctxOf, ht]
  refine List.find?_append.trans ?_
  rw [List.find?_eq_none.2 fun c hc => ?_, Option.none_or, List.find?_cons_of_pos]
  · rw [beq_self_eq_true, beq_self_eq_true]
    rfl
  · have := (List.mem_filter.1 hc).2
    rw [Bool.not_eq_true'] at this
    exact Bool.eq_false_iff.1 this

theorem streamData_shows {c : Ctx} (hdue : flitOk f = true ∧ flitKind f = 0 ∧ flitNat f 242 2 = (s.link l).nextLseq)
    (hc : s.ctxOf l (flitTag f) = some c) (hopen : c.closed = none) :
    ∃ t, exec (.streamData l f) s = .next t ∧ (t.link l).nextLseq = ((s.link l).nextLseq + 1) % 65536 ∧
      ∃ c', t.ctxOf l (flitTag f) = some c' ∧ c'.header = c.header ∧
        c'.got = c.got ++ [(240 * c.got.length, ((f.drop 2).take 240).take (flitNat c.header 12 4 - 240 * c.got.length))] ∧
        (s.fabric.ctxs.head? = some c → c'.wait = []) := by
  obtain ⟨c', hc'⟩ : ∃ c', c' = { c with
    got := c.got ++ [(240 * c.got.length, (c.payload c.got.length f).map (fun w : WByte => w.v))]
    wait := c.wait ++ [(c.got.length, c.payload c.got.length f)] } := ⟨_, rfl⟩
  obtain ⟨u, hu⟩ : ∃ u, u = (s.flitTaken l).putCtx c' := ⟨_, rfl⟩
  have hctx : (s.flitTaken l).ctxOf l (flitTag f) = some c := hc
  have hexec : exec (.streamData l f) s = .next (State.settleCtxs (s.fabric.ctxs.length + 1) u) := by
    refine congrArg Host.Outcome.next ((State.takeFlit_due hdue _).trans ?_)
    dsimp only
    rw [hctx, hu, hc']
    rfl
  have hmem : c ∈ s.fabric.ctxs := List.mem_of_find?_eq_some hc
  have hat : c.at l (flitTag f) := by
    have hp := List.find?_some hc
    simp only [Bool.and_eq_true, beq_iff_eq] at hp
    exact hp
  have hsame : ∀ d : Ctx, d.at l (flitTag f) → d.same c' = true := fun d hd => (Ctx.same_iff d c').2
    ⟨by rw [hd.1, hc']; exact hat.1.symm, by rw [hd.2, hc']; exact hat.2.symm⟩
  have hctxs : u.fabric.ctxs = s.fabric.ctxs.map (fun d => if d.same c' then c' else d) := by rw [hu]; rfl
  have hput : u.Carries l (flitTag f) (fun d => d.closed = none ∧ d.header = c'.header ∧ d.got = c'.got) := by
    refine ⟨fun d hd hdat => ?_, c', ?_, by rw [hc']; exact hat⟩
    · rw [hctxs] at hd
      obtain ⟨e, he, rfl⟩ := List.mem_map.1 hd
      split at hdat
      · next hs => rw [if_pos hs]; exact ⟨by rw [hc']; exact hopen, rfl, rfl⟩
      · next hs => exact absurd (hsame e hdat) hs
    · rw [hctxs]
      exact List.mem_map.2 ⟨c, hmem, if_pos (hsame c hat)⟩
  have hall := hput.settleCtxs (fun d hd => hd) (fun d hd => hd.1) (s.fabric.ctxs.length + 1)
  have hlinks : (State.settleCtxs (s.fabric.ctxs.length + 1) u).fabric.links = (s.flitTaken l).fabric.links :=
    (State.settleCtxs_links _ u).trans (by rw [hu]; rfl)
  refine ⟨_, hexec, (congrArg Link.nextLseq (State.link_of_links hlinks l)).trans (s.flitTaken_link l), ?_⟩
  obtain ⟨d, hd, -, hdh, hdg⟩ := hall.ctxOf
  refine ⟨d, hd, hdh.trans (by rw [hc']), hdg.trans (by rw [hc', Ctx.payload_bytes]), fun hhead => ?_⟩
  obtain ⟨rest, hrest⟩ : ∃ rest, s.fabric.ctxs = c :: rest := List.head?_eq_some_iff.1 hhead
  have hdue : dueCtx [] u.fabric.ctxs = some c' := by
    rw [hctxs, hrest, List.map_cons, if_pos (hsame c hat)]
    unfold dueCtx
    refine if_pos ?_
    have hw : (c'.wait != []) = true := by
      rw [hc']
      exact bne_iff_ne.2 (List.append_ne_nil_of_right_ne_nil _ (List.cons_ne_nil _ _))
    rw [hw]
    rfl
  have hstep : State.settleCtxs (s.fabric.ctxs.length + 1) u =
      State.settleCtxs s.fabric.ctxs.length ((u.deliverCtx c').putCtx { c' with wait := [] }) := by
    rw [State.settleCtxs, hdue]
    dsimp only
    have hcl : c'.closed = none := by rw [hc']; exact hopen
    rw [hcl]
    rfl
  have hnow : ((u.deliverCtx c').putCtx { c' with wait := [] }).Carries l (flitTag f) (fun d => d.closed = none ∧ d.wait = []) := by
    have hcl : c'.closed = none := by rw [hc']; exact hopen
    have hf := hput.fabric (u.deliverCtx_fabric c')
    refine ⟨fun d hd hdat => ?_, (hf.putCtx (c := { c' with wait := [] }) fun _ => ⟨hcl, rfl, rfl⟩).has⟩
    obtain ⟨e, he, rfl⟩ := List.mem_map.1 hd
    split at hdat
    · next hs => rw [if_pos hs]; exact ⟨hcl, rfl⟩
    · next hs => exact absurd (hsame e hdat) hs
  obtain ⟨d', hd', -, hdw⟩ := (hnow.settleCtxs (fun d hd => ⟨hd.1, rfl⟩) (fun d hd => hd.1) s.fabric.ctxs.length).ctxOf
  rw [hstep] at hd
  rw [Option.some.inj (hd.symm.trans hd')]
  exact hdw

theorem streamClose_shows {c : Ctx} (hdue : flitOk f = true ∧ flitKind f = 2 ∧ flitNat f 242 2 = (s.link l).nextLseq)
    (hc : s.ctxOf l (flitTag f) = some c) (hend : flitByte f 2 = 2 ∨ s.fabric.ctxs.head? = some c) :
    ∃ t more, exec (.streamClose l f) s = .next t ∧ (t.link l).nextLseq = ((s.link l).nextLseq + 1) % 65536 ∧ t.ctxOf l (flitTag f) = none ∧
      t.fabric.done = s.fabric.done ++
        (if flitByte f 2 ≠ 0 ∨ c.got.length = (flitNat c.header 12 4 + 239) / 240 then [(flitByte f 2, c.header, c.got)] else []) ++ more := by
  have hmem : c ∈ s.fabric.ctxs := List.mem_of_find?_eq_some hc
  have hat : c.at l (flitTag f) := by
    have hp := List.find?_some hc
    simp only [Bool.and_eq_true, beq_iff_eq] at hp
    exact hp
  have hctx : (s.flitTaken l).ctxOf l (flitTag f) = some c := hc
  have hwhole : (if flitByte f 2 ≠ 0 ∨ c.got.length = (flitNat c.header 12 4 + 239) / 240 then [(flitByte f 2, c.header, c.got)] else []) =
      c.report (flitByte f 2) := by
    rw [Ctx.report]
    simp only [Ctx.whole, beq_iff_eq]
  rw [hwhole]
  have hend' : ∀ {t : State}, exec (.streamClose l f) s = .next t → t.fabric.links = (s.flitTaken l).fabric.links →
      t.Ended l (flitTag f) (s.fabric.done ++ c.report (flitByte f 2)) →
      ∃ t more, exec (.streamClose l f) s = .next t ∧ (t.link l).nextLseq = ((s.link l).nextLseq + 1) % 65536 ∧ t.ctxOf l (flitTag f) = none ∧
        t.fabric.done = s.fabric.done ++ c.report (flitByte f 2) ++ more := fun hexec hlinks hended => by
    obtain ⟨more, hmore⟩ := hended.done
    exact ⟨_, more, hexec, (congrArg Link.nextLseq (State.link_of_links hlinks l)).trans (s.flitTaken_link l), hended.ctxOf, hmore⟩
  by_cases h2 : flitByte f 2 = 2
  · have hexec : exec (.streamClose l f) s = .next (State.settleCtxs s.fabric.ctxs.length ((s.flitTaken l).endCtx c 2)) := by
      refine congrArg Host.Outcome.next ((State.takeFlit_due hdue _).trans ?_)
      rw [hctx]
      exact if_pos h2
    refine hend' hexec ((State.settleCtxs_links _ _).trans rfl) (State.Ended.settleCtxs _ ?_)
    rw [h2]
    exact State.endCtx_ended (s.flitTaken l) hat 2
  · obtain ⟨c', hc'⟩ : ∃ c', c' = { c with closed := some (flitByte f 2) } := ⟨_, rfl⟩
    obtain ⟨u, hu⟩ : ∃ u, u = (s.flitTaken l).putCtx c' := ⟨_, rfl⟩
    have hexec : exec (.streamClose l f) s = .next (State.settleCtxs (2 * s.fabric.ctxs.length) u) := by
      refine congrArg Host.Outcome.next ((State.takeFlit_due hdue _).trans ?_)
      rw [hctx, hu, hc']
      exact if_neg h2
    obtain ⟨rest, hrest⟩ : ∃ rest, s.fabric.ctxs = c :: rest := List.head?_eq_some_iff.1 (hend.resolve_left h2)
    have hsame : c.same c' = true := (Ctx.same_iff c c').2 ⟨by rw [hc'], by rw [hc']⟩
    have hctxs : u.fabric.ctxs = s.fabric.ctxs.map (fun d => if d.same c' then c' else d) := by rw [hu]; rfl
    have hdue' : dueCtx [] u.fabric.ctxs = some c' := by
      rw [hctxs, hrest, List.map_cons, if_pos hsame]
      unfold dueCtx
      refine if_pos ?_
      rw [hc']
      exact (Bool.and_eq_true _ _).mpr ⟨Bool.or_true _, rfl⟩
    have hstep : State.settleCtxs (2 * s.fabric.ctxs.length) u =
        State.settleCtxs (2 * rest.length + 1) ((u.deliverCtx c').endCtx c' (flitByte f 2)) := by
      rw [hrest, List.length_cons, Nat.mul_add, State.settleCtxs, hdue']
      dsimp only
      have hcl : c'.closed = some (flitByte f 2) := by rw [hc']
      rw [hcl]
      rfl
    have hended := State.endCtx_ended (u.deliverCtx c') (c := c') (l := l) (tag := flitTag f) (by rw [hc']; exact hat) (flitByte f 2)
    have hdone : (u.deliverCtx c').fabric.done ++ c'.report (flitByte f 2) = s.fabric.done ++ c.report (flitByte f 2) := by
      rw [u.deliverCtx_fabric c', hu, hc']
      rfl
    rw [hdone] at hended
    refine hend' hexec ((State.settleCtxs_links _ u).trans (by rw [hu]; rfl)) ?_
    rw [hstep]
    exact hended.settleCtxs _

theorem credit_shows (hdue : flitOk f = true ∧ flitKind f = 3 ∧ flitNat f 242 2 = (s.link l).nextLseq) :
    ∃ t, exec (.credit l f) s = .next t ∧ (t.link l).nextLseq = ((s.link l).nextLseq + 1) % 65536 ∧
      (t.link l).creq = (s.link l).creq + flitNat f 2 2 ∧ (t.link l).crsp = (s.link l).crsp + flitNat f 4 2 := by
  obtain ⟨t, ht⟩ : ∃ t, t = (s.flitTaken l).modLink l (fun x => { x with creq := x.creq + flitNat f 2 2, crsp := x.crsp + flitNat f 4 2 }) := ⟨_, rfl⟩
  have hlink : t.link l = { (s.flitTaken l).link l with
      creq := ((s.flitTaken l).link l).creq + flitNat f 2 2, crsp := ((s.flitTaken l).link l).crsp + flitNat f 4 2 } := by
    rw [ht]
    exact State.link_modLink_same _ _ _
  have htaken : (s.flitTaken l).link l = { s.link l with nextLseq := ((s.link l).nextLseq + 1) % 2 ^ 16 } := s.link_modLink_same l _
  refine ⟨t, congrArg Host.Outcome.next ((State.takeFlit_due hdue _).trans ht.symm), ?_, ?_, ?_⟩
  · exact (congrArg Link.nextLseq hlink).trans (s.flitTaken_link l)
  · rw [hlink, htaken]
  · rw [hlink, htaken]

end

/-! ## A flit with a bad CRC -/

/-- An error of a lane is counted and logged: no message is sent, and no count of bad flits rises. -/
structure State.LaneNoted (s t : State) : Prop where
  host : t.host = s.host
  crcBad : ∀ l, (t.link l).crcBad = (s.link l).crcBad

namespace State.LaneNoted

theorem trans {s t u : State} (h : LaneNoted s t) (h' : LaneNoted t u) : LaneNoted s u :=
  ⟨h'.host.trans h.host, fun l => (h'.crcBad l).trans (h.crcBad l)⟩

theorem modDie (s : State) (d : Nat) (f : Die → Die) : LaneNoted s (s.modDie d f) := ⟨rfl, fun _ => rfl⟩

theorem of_logs {s t : State} (h : s.Logs t) : LaneNoted s t := by
  rw [h.frame]
  exact ⟨rfl, fun _ => rfl⟩

theorem logUnit (s : State) (d code : Nat) (u : List Nat) (w : Word) : LaneNoted s (s.logUnit d code u w) :=
  of_logs (.logRec s d code 2 127 _)

theorem modLink (s : State) (l : Nat) {f : Link → Link} (hf : ∀ x, (f x).crcBad = x.crcBad) : LaneNoted s (s.modLink l f) := by
  refine ⟨rfl, fun j => ?_⟩
  rw [State.link_modLink]
  split
  · next h => rw [hf, h]
  · rfl

theorem repair (s : State) (d l n : Nat) : LaneNoted s (s.repair (.dieLane d l n)) := by
  unfold State.repair
  extract_lets e u act v
  split
  · exact ⟨rfl, fun _ => rfl⟩
  · exact ((modDie s e _).trans (logUnit u _ _ _ _)).trans (modLink v l fun _ => rfl)

theorem corrected (s : State) (d l n : Nat) : LaneNoted s (s.corrected (.dieLane d l n)) := by
  unfold State.corrected
  split
  next u k hu =>
  have hcount : LaneNoted s u := by
    have hfst : u = (s.countError (.dieLane d l n)).1 := (congrArg Prod.fst hu).symm
    rw [hfst]
    exact ⟨rfl, fun _ => rfl⟩
  extract_lets v w
  have hw : LaneNoted u w := logUnit u _ _ _ _
  split
  · exact (hcount.trans hw).trans (repair w d l n)
  · exact hcount.trans hw

end State.LaneNoted

theorem flitCrcReplay_shows {s : State} {f : Flit} (l : Nat) (h : flitOk f = false) :
    ∃ t, exec (.flitCrcReplay l f) s = .next t ∧ (t.link l).crcBad = (s.link l).crcBad + 1 ∧
      t.host.sent = s.host.sent ++ [.replayRequest l (s.link l).nextLseq] := by
  obtain ⟨u, hu⟩ : ∃ u, u = (s.modLink l (fun x => { x with crcBad := x.crcBad + 1 })).send (.replayRequest l (s.link l).nextLseq) := ⟨_, rfl⟩
  have hexec : exec (.flitCrcReplay l f) s = .next (u.corrected (.dieLane (Config.linkDie l) l (Config.linkLane l))) := by
    rw [hu]
    exact congrArg Host.Outcome.next (if_neg (by rw [h]; exact Bool.false_ne_true))
  have hn := State.LaneNoted.corrected u (Config.linkDie l) l (Config.linkLane l)
  refine ⟨_, hexec, ?_, ?_⟩
  · rw [hn.crcBad, hu]
    exact congrArg Link.crcBad (s.link_modLink_same l (fun x => { x with crcBad := x.crcBad + 1 }))
  · rw [hn.host, hu]
    rfl

theorem streamFlits : StreamFlits := by
  intro s l f due taken
  exact ⟨streamOpen_shows, fun c => streamData_shows, fun c => streamClose_shows, credit_shows, flitCrcReplay_shows l⟩

end Sys2Proof.Machine

end

section
/-! Whole Odsoga messages: the target's side, the source's side, epochs and modules out of reach (11 R228, R229; 17 R329 to R333). -/

namespace Sys2Proof.Machine

/-! ## What the module knows of others -/

/-- The remote table, the epochs of others and the own one are the same. -/
structure State.Peers (s t : State) : Prop where
  remote : t.fabric.remote = s.fabric.remote
  known : t.fabric.known = s.fabric.known
  epoch : t.fabric.epoch = s.fabric.epoch

namespace State.Peers

theorem refl (s : State) : Peers s s := ⟨rfl, rfl, rfl⟩

theorem trans {s t u : State} (h : Peers s t) (h' : Peers t u) : Peers s u :=
  ⟨h'.remote.trans h.remote, h'.known.trans h.known, h'.epoch.trans h.epoch⟩

theorem of_fabric {s t : State} (h : t.fabric = s.fabric) : Peers s t := ⟨by rw [h], by rw [h], by rw [h]⟩

theorem foldl {α : Type} {f : State → α → State} (hf : ∀ t a, Peers t (f t a)) (l : List α) (s : State) : Peers s (l.foldl f s) := by
  induction l generalizing s with
  | nil => exact refl s
  | cons a l ih => exact (hf s a).trans (ih _)

theorem sendMsg (s : State) (m : Msg) : Peers s (s.sendMsg m) := by
  unfold State.sendMsg
  extract_lets live i
  split
  · exact of_fabric rfl
  · exact refl s

theorem sendSched (s : State) (ty dst op : Nat) (w2 : Word) (arg : Nat) (payload : List Byte) (own : Bool) :
    Peers s (s.sendSched ty dst op w2 arg payload own) := by
  unfold State.sendSched
  exact (of_fabric (s := s) (t := s.schedSeq.1.bump) rfl).trans (sendMsg _ _)

theorem post (s : State) (k : Nat) (l : List Posted) : Peers s (s.post k l) := by
  unfold State.post
  extract_lets u
  have hu : u.fabric = s.fabric := by
    refine State.foldl_fabric (fun _ _ => ?_) _ s
    rfl
  exact (of_fabric hu).trans (of_fabric rfl)

theorem pushData (s : State) (k : Nat) (r : Remote) (stream : Option Nat) (runs : List (Nat × List WByte)) :
    Peers s (s.pushData k r stream runs).1 := by
  unfold State.pushData
  generalize hacc : ((s, none, 0) : State × Option Nat × Nat) = acc
  have hs : Peers s acc.1 := hacc ▸ refl s
  clear hacc
  induction runs generalizing acc with
  | nil => exact hs
  | cons x runs ih =>
    refine ih _ (hs.trans ?_)
    exact (of_fabric (s := acc.1) (t := (acc.1.nextSeq k).1) rfl).trans (sendMsg _ _)

theorem runPush (s : State) (k : Nat) (ent : Entry) (f : FmtX) (h : Nat) (order : List Nat) (m : KMap WByte) :
    Peers s (s.runPush k ent f h order m).s := by
  unfold State.runPush
  split
  · exact refl s
  · next r hr =>
    extract_lets stream
    split
    next m' bad hcut =>
    split
    next u op cnt hpush =>
    have hu : Peers s u := by
      rw [← show (s.pushData k r stream (pushRuns m')).1 = u from congrArg (·.1) hpush]
      exact pushData s k r stream _
    split
    · exact hu
    · exact ((hu.trans (of_fabric (s := u) (t := (u.nextSeq k).1) rfl)).trans (sendMsg _ _)).trans ⟨rfl, rfl, rfl⟩

end State.Peers

theorem State.runPush_ent (s : State) (k : Nat) (ent : Entry) (f : FmtX) (h : Nat) (order : List Nat) (m : KMap WByte) :
    (s.runPush k ent f h order m).ent = none := by
  unfold State.runPush
  split
  · rfl
  · extract_lets stream
    split
    split
    split <;> rfl

/-- What a copy lays down: another module's table is no matter of it, and its entry keeps its destination. -/
theorem State.layDown_peers (s : State) (k : Nat) (ent : Entry) (opc : Nat) (f : FmtX) (d : AReg) (order : List Nat) (m : KMap WByte) (more : Bool) :
    s.Peers (s.layDown k ent opc f d order m more).s ∧ (((s.layDown k ent opc f d order m more).ent.getD ent).dest = ent.dest) := by
  unfold State.layDown
  split
  · split
    · exact ⟨.post _ _ _, rfl⟩
    · refine ⟨.foldl (fun t r => ?_) _ s, rfl⟩
      exact .of_fabric (t.landChip_fabric _ _)
  · exact ⟨.refl s, rfl⟩
  · exact ⟨.post _ _ _, rfl⟩
  · refine ⟨?_, rfl⟩
    exact (State.Peers.post s k _).trans (.of_fabric rfl)
  · refine ⟨.runPush _ _ _ _ _ _ _, ?_⟩
    rw [State.runPush_ent]
    rfl
  · exact ⟨.refl s, rfl⟩

/-- A pulled copy's bytes are laid down in the same way. -/
theorem State.layPull_peers (s : State) (o : RemOp) (status : Nat) (ent : Entry) :
    s.Peers (s.layPull o status ent).1 ∧ (s.layPull o status ent).2.1.dest = ent.dest := by
  unfold State.layPull
  split
  · next opc f hop =>
    extract_lets m
    split
    next u m' hu =>
    have hfab : u.fabric = s.fabric := by
      split at hu
      · rw [← show (s.somePart m).1 = u from congrArg (·.1) hu]
        rfl
      · rw [← show s = u from congrArg (·.1) hu]
    extract_lets r
    obtain ⟨hp, hd⟩ := u.layDown_peers o.cell ent opc f (ent.areg f.ad) [] m' false
    exact ⟨(State.Peers.of_fabric hfab).trans hp, hd⟩
  · exact ⟨.refl s, rfl⟩

theorem State.exchange_fabric (s : State) (p : Nat × Nat) : (s.exchange p).fabric = s.fabric := by
  unfold State.exchange
  extract_lets c
  split <;> rfl

theorem State.Peers.aside (s : State) (k i : Nat) {f : State → State} (hf : ∀ t : State, t.Peers (f t)) : s.Peers (s.aside k i f) := by
  unfold State.aside
  split
  · exact .refl s
  · next y hy =>
    extract_lets same ps was u
    have hin : s.Peers (ps.foldl (fun s p => (s.exchange p).modCell p.1 (fun c => { c with preempt := true })) s) := by
      refine .foldl (fun t p => ?_) _ s
      exact .of_fabric (t.exchange_fabric p)
    have hu : s.Peers u := hin.trans (hf _)
    have hout : u.Peers (ps.foldl State.exchange u) := .foldl (fun t p => .of_fabric (t.exchange_fabric p)) _ u
    refine (hu.trans hout).trans (.foldl (fun t w => ?_) _ _)
    exact .of_fabric rfl

theorem State.Peers.onPusher (s : State) (k uid : Nat) {f : State → State} (hf : ∀ t : State, t.Peers (f t)) : s.Peers (s.onPusher k uid f) := by
  unfold State.onPusher
  split
  · exact .aside s k _ hf
  · exact hf s

/-- An operation towards another module ends. -/
theorem State.Peers.endOp (s : State) (o : RemOp) (status : Nat) : s.Peers (s.endOp o status) := by
  unfold State.endOp
  refine (show s.Peers (s.dropOp o) from ⟨rfl, rfl, rfl⟩).trans (.onPusher _ _ _ fun t => ?_)
  split
  · exact .refl t
  · next ent hent =>
    split
    next u ent' n hu =>
    have hp : t.Peers u := by
      split at hu
      · rw [← show t = u from congrArg (·.1) hu]
        exact .refl t
      · rw [← show (t.layPull o status ent).1 = u from congrArg (·.1) hu]
        exact (t.layPull_peers o status ent).1
    extract_lets e v
    have hv : u.Peers v := .of_fabric rfl
    split
    · exact hp.trans hv
    · exact (hp.trans hv).trans (.of_fabric rfl)

theorem State.Peers.bumpPush (s : State) (p : InPush) : s.Peers (s.bumpPush p).1 := by
  unfold State.bumpPush
  split
  · obtain ⟨b, hb⟩ := s.modBuf_frame p.handle (fun b => { b with version := (b.version + 1) % 2 ^ 64 })
    exact .of_fabric (by rw [State.bumpVersion, hb])
  · exact .refl s

/-- The remote entries of a module that is out of reach, or of another epoch, are stale. -/
theorem State.loseModule_remote (s : State) (j : Nat) (bad : Nat → Bool) :
    (s.loseModule j bad).fabric.known = s.fabric.known ∧
    ∀ h r, kget? s.fabric.remote h = some r → r.module = j → bad r.epoch = true →
      ∃ r', kget? (s.loseModule j bad).fabric.remote h = some r' ∧ r'.stale = true := by
  unfold State.loseModule
  extract_lets u v
  have hv : u.Peers v := .foldl (fun t o => .endOp t o 1) _ u
  have hw : v.Peers ((v.fabric.inp.filter (fun p => p.src == j)).foldl (fun s p => ((s.bumpPush p).1).dropPush p) v) := by
    refine .foldl (fun t p => (State.Peers.bumpPush t p).trans ?_) _ v
    exact ⟨rfl, rfl, rfl⟩
  have h := hv.trans hw
  refine ⟨h.known, fun hd r hr hm hb => ?_⟩
  refine ⟨{ r with stale := true }, ?_, rfl⟩
  rw [h.remote]
  refine (kget?_map (fun (e : Nat × Remote) => if e.2.module = j ∧ bad e.2.epoch then { e.2 with stale := true } else e.2) s.fabric.remote hd).trans ?_
  rw [hr, Option.map_some]
  exact congrArg some (if_pos ⟨hm, hb⟩)

/-! ## Messages -/

/-- A whole message of a type for this module, which serves requests, is acted on. -/
theorem State.receive_mine {s : State} {m : Msg} {ty : Nat} (h : m.type_ = ty ∧ m.dst = s.fabric.moduleId ∧ msgWhole m = true ∧ s.serves = true)
    (act : State → State) : s.receive ty m act = act s := by
  obtain ⟨hty, hdst, hwhole, hserves⟩ := h
  unfold State.receive
  rw [if_neg (Bool.eq_false_iff.not.2 (not_not.2 hserves)), if_neg (Bool.eq_false_iff.not.2 (not_not.2 hwhole)), if_pos ⟨hty, hdst⟩]

/-- What a message that is sent leaves alone. -/
structure State.Said (s t : State) : Prop where
  hbm : t.hbm = s.hbm
  mem : t.mem = s.mem
  bufs : t.bufs = s.bufs
  fabric : t.fabric = s.fabric

theorem State.Said.trans {s t u : State} (h : s.Said t) (h' : t.Said u) : s.Said u :=
  ⟨h'.hbm.trans h.hbm, h'.mem.trans h.mem, h'.bufs.trans h.bufs, h'.fabric.trans h.fabric⟩

/-- Over a live port a message leaves. -/
theorem State.sendMsg_shows (s : State) (m : Msg) :
    s.Said (s.sendMsg m) ∧ (s.livePorts ≠ [] → ∃ port ∈ s.livePorts, (s.sendMsg m).host.sent = s.host.sent ++ [.msg port (sealed m)]) := by
  unfold State.sendMsg
  extract_lets live i
  split
  · next p hp => exact ⟨⟨rfl, rfl, rfl, rfl⟩, fun _ => ⟨p, List.mem_of_getElem? hp, rfl⟩⟩
  · next hn =>
    refine ⟨⟨rfl, rfl, rfl, rfl⟩, fun hne => ?_⟩
    have hlt : i % live.length < live.length := Nat.mod_lt _ (List.length_pos_iff.2 hne)
    exact absurd (List.getElem?_eq_none_iff.1 hn) (Nat.not_le.2 hlt)

theorem State.livePorts_of_fabric {s t : State} (h : t.fabric = s.fabric) : t.livePorts = s.livePorts := by
  unfold State.livePorts State.lanes
  rw [h]

theorem wNat_toNat {n : Nat} (h : n < 2 ^ 64) : (wNat n).toNat = n := by
  rw [wNat, BitVec.toNat_ofNat, Nat.mod_eq_of_lt h]

/-- The type of a message from the scheduler die. -/
theorem State.msgWord0_type (s : State) {ty k len : Nat} (dst : Nat) (hty : ty < 256) (hk : k < 2 ^ 12) (hlen : len < 2 ^ 23) :
    field (s.msgWord0 ty dst none k len).toNat 56 8 = ty := by
  unfold State.msgWord0
  dsimp only
  have hsum : ty * 2 ^ 56 + dst % 256 * 2 ^ 48 + s.fabric.moduleId % 256 * 2 ^ 40 + 0 + k / 128 * 2 ^ 30 + k % 128 * 2 ^ 23 + len < 2 ^ 64 := by
    omega
  rw [wNat_toNat hsum, field]
  omega

/-- An answer repeats the message's number. -/
theorem State.answer_shows (s : State) (m : Msg) {ty arg : Nat} {payload : List Byte} (hty : ty < 256) (harg : arg < 2 ^ 64)
    (hp : payload.length < 2 ^ 23) :
    s.Said (s.answer m ty arg payload) ∧ (s.livePorts ≠ [] → ∃ port ∈ s.livePorts, ∃ a,
      (s.answer m ty arg payload).host.sent = s.host.sent ++ [.msg port a] ∧ a.type_ = ty ∧ a.opid = m.opid ∧ a.arg = arg) := by
  obtain ⟨u, hu⟩ : ∃ u, u = s.schedSeq.1.bump := ⟨_, rfl⟩
  obtain ⟨n, hn⟩ : ∃ n, n = s.schedSeq.2 := ⟨_, rfl⟩
  obtain ⟨w2, hw2⟩ : ∃ w2, w2 = wNat (m.handle * 2 ^ 32 + m.epoch * 2 ^ 16) := ⟨_, rfl⟩
  obtain ⟨a, ha⟩ : ∃ a : Msg, a = ⟨s.schedSeq.1.msgWord0 ty m.src none (Config.schedDie * 128 + Config.freeWord s.free % 128) payload.length,
    wNat (n * 2 ^ 32 + m.opid), w2, wNat arg, payload, 0⟩ := ⟨_, rfl⟩
  have heq : s.answer m ty arg payload = u.sendMsg a := by
    rw [hu, ha, hn, hw2]
    rfl
  obtain ⟨hsaid, hsent⟩ := u.sendMsg_shows a
  have hus : s.Said u := by
    rw [hu]
    exact ⟨rfl, rfl, rfl, rfl⟩
  rw [heq]
  refine ⟨hus.trans hsaid, fun hne => ?_⟩
  have hports := State.livePorts_of_fabric hus.fabric
  obtain ⟨port, hport, hs⟩ := hsent (hports ▸ hne)
  refine ⟨port, hports ▸ hport, sealed a, hs.trans (by rw [hu]; rfl), ?_, ?_, ?_⟩
  · have hcell : Config.freeWord s.free % 128 < 128 := Nat.mod_lt _ (by decide)
    show field a.w0.toNat 56 8 = ty
    rw [ha]
    exact State.msgWord0_type _ _ hty (by rw [Config.schedDie]; omega) hp
  · show field a.w1.toNat 0 32 = m.opid
    have hop : m.opid < 2 ^ 32 := Nat.mod_lt _ (by decide)
    have hn' : n < 2 ^ 32 := by rw [hn]; exact Nat.mod_lt _ (by decide)
    rw [ha]
    dsimp only
    rw [wNat_toNat (by omega), field]
    omega
  · show a.w3.toNat = arg
    rw [ha]
    exact wNat_toNat harg

/-! ## The target's side -/

theorem State.inPush_is (s : State) (m : Msg) : (s.inPush m).src = m.src ∧ (s.inPush m).opid = m.opid := by
  unfold State.inPush
  cases h : s.fabric.inp.find? (fun p => p.src == m.src && p.opid == m.opid) with
  | none => exact ⟨rfl, rfl⟩
  | some p =>
    have hp := List.find?_some h
    simp only [Bool.and_eq_true, beq_iff_eq] at hp
    exact hp

/-- A push that is put stands under its source and number. -/
theorem State.inPush_putPush (s : State) {m : Msg} {p : InPush} (hsrc : p.src = m.src) (hop : p.opid = m.opid) : (s.putPush p).inPush m = p := by
  have hinp : (s.putPush p).fabric.inp = s.fabric.inp.filter (fun q => !(q.src == p.src && q.opid == p.opid)) ++ [p] := rfl
  unfold State.inPush
  rw [hinp, List.find?_append, List.find?_eq_none.2 fun q hq => ?_, Option.none_or, List.find?_cons_of_pos]
  · rfl
  · rw [hsrc, hop, beq_self_eq_true, beq_self_eq_true]
    rfl
  · have hq' := (List.mem_filter.1 hq).2
    rw [hsrc, hop, Bool.not_eq_true'] at hq'
    exact Bool.eq_false_iff.1 hq'

theorem State.bumpPush_shows (s : State) (p : InPush) :
    (s.bumpPush p).1.hbm = s.hbm ∧ (s.bumpPush p).1.fabric = s.fabric ∧ (s.bumpPush p).2.src = p.src ∧ (s.bumpPush p).2.opid = p.opid ∧
      (s.bumpPush p).2.seen = p.seen ∧ (s.bumpPush p).2.done = p.done ∧ (s.bumpPush p).2.handle = p.handle ∧
      (s.bumpPush p).2.stale = p.stale ∧ (s.bumpPush p).2.refused = p.refused := by
  unfold State.bumpPush
  split
  · obtain ⟨b, hb⟩ := s.modBuf_frame p.handle (fun b => { b with version := (b.version + 1) % 2 ^ 64 })
    refine ⟨?_, ?_, rfl, rfl, rfl, rfl, rfl, rfl, rfl⟩
    · rw [State.bumpVersion, hb]
    · rw [State.bumpVersion, hb]
  · exact ⟨rfl, rfl, rfl, rfl, rfl, rfl, rfl, rfl, rfl⟩

theorem State.settlePush_open (s : State) {p : InPush} (h : p.done = none) : s.settlePush p = s.putPush p := by
  unfold State.settlePush
  rw [h]

/-- With both edge masks 0 every bit of the payload is written. -/
theorem Msg.stores_full {m : Msg} (hf : m.fmask = 0) (hl : m.lmask = 0) :
    (∀ w ∈ m.stores, w.m = 0xFF) ∧ m.stores.map (·.v) = m.payload := by
  have hfull : (BitVec.ofNat 8 255 : Byte) = 0xFF := rfl
  unfold Msg.stores
  extract_lets n full
  have hall : full 0 = 0xFF := rfl
  constructor
  · intro w hw
    obtain ⟨i, hi, rfl⟩ := List.getElem_of_mem hw
    rw [List.getElem_zipWith]
    simp only [hf, hl, hall, ite_self]
    rfl
  · refine List.ext_getElem (by rw [List.length_map, List.length_zipWith, List.length_range, Nat.min_self]) fun i h h' => ?_
    rw [List.getElem_map, List.getElem_zipWith]

/-- The live descriptor after a change that keeps its handle and its state. -/
theorem State.buf?_modBuf {s : State} {h : Nat} {b : Buf} (hb : s.buf? h = some b) {f : Buf → Buf} (hh : (f b).handle = b.handle)
    (hst : (f b).st = b.st) : (s.modBuf h f).buf? h = some (f b) := by
  have hmod : s.modBuf h f = { s with bufs := kset s.bufs (h % 2 ^ 24) (f b) } := by
    unfold State.modBuf
    rw [hb]
  have hlive : b.handle = h ∧ b.st ≠ .free := by
    unfold State.buf? at hb
    split at hb
    · split at hb
      · next hl =>
        obtain rfl := Option.some.inj hb
        exact hl
      · exact absurd hb.symm (Option.some_ne_none b)
    · exact absurd hb.symm (Option.some_ne_none b)
  rw [hmod]
  unfold State.buf?
  rw [show ({ s with bufs := kset s.bufs (h % 2 ^ 24) (f b) } : State).bufs = kset s.bufs (h % 2 ^ 24) (f b) from rfl,
    kget?_kset, if_pos rfl]
  exact if_pos ⟨hh.trans hlive.1, hst ▸ hlive.2⟩

/-- A counted version leaves the descriptor live, with its ARRIVE. -/
theorem State.bumpPush_buf {s : State} {p : InPush} {b : Buf} (hb : s.buf? p.handle = some b) :
    ∃ b', (s.bumpPush p).1.buf? p.handle = some b' ∧ b'.arrive = b.arrive := by
  unfold State.bumpPush
  split
  · exact ⟨_, State.buf?_modBuf hb rfl rfl, rfl⟩
  · exact ⟨b, hb, rfl⟩

theorem State.modBuf_fabric (s : State) (h : Nat) (f : Buf → Buf) :
    (s.modBuf h f).fabric = s.fabric ∧ (s.modBuf h f).hbm = s.hbm ∧ (s.modBuf h f).host = s.host := by
  obtain ⟨b, hb⟩ := s.modBuf_frame h f
  rw [hb]
  exact ⟨rfl, rfl, rfl⟩

theorem State.bumpPush_host (s : State) (p : InPush) : (s.bumpPush p).1.host = s.host := by
  unfold State.bumpPush
  split
  · exact (s.modBuf_fabric _ _).2.2
  · rfl

/-- An admitted PUSH_DATA lands. -/
theorem execPushData_lands {s : State} {m : Msg} (hmine : m.type_ = 1 ∧ m.dst = s.fabric.moduleId ∧ msgWhole m = true ∧ s.serves = true)
    (hstale : (s.inPush m).stale = false) (href : (s.inPush m).refused = false) (hdone : (s.inPush m).done = none)
    (hep : m.epoch = s.fabric.epoch) (hexp : s.exported m.handle m.arg m.payload.length 1 = true) :
    ∃ t, exec (.pushData m) s = .next t ∧ (t.inPush m).seen = (s.inPush m).seen + 1 ∧ t.hbm = s.hbm.merge (bufKey m.handle m.arg) m.stores := by
  have hexec : exec (.pushData m) s = execPushData m s := rfl
  unfold execPushData at hexec
  rw [State.receive_mine hmine] at hexec
  extract_lets p q n u q' last at hexec
  have hq : q.stale = false := hstale
  have hsame : (q.stale || m.epoch != s.fabric.epoch) = false := by rw [hq, hep, bne_self_eq_false, Bool.or_self]
  rw [if_neg (Bool.eq_false_iff.1 hsame), if_neg (Bool.eq_false_iff.1 (show q.refused = false from href)),
    if_neg (by rw [hexp]; decide)] at hexec
  refine ⟨_, hexec, ?_⟩
  have hu : u.hbm = s.hbm.merge (bufKey m.handle m.arg) m.stores := by
    obtain ⟨st, hst⟩ := ((s.homePut m.handle m.arg m.stores).modBuf m.handle (fun b => { b with written := true })).cacheTouch_frame 0 m.handle m.arg n
    show (State.cacheTouch _ _ _ _ _).hbm = _
    rw [hst]
    exact ((s.homePut m.handle m.arg m.stores).modBuf_fabric _ _).2.1
  obtain ⟨hsrc, hop⟩ := s.inPush_is m
  have hput : ∀ (v : State) (r : InPush), v.hbm = u.hbm → r.src = m.src → r.opid = m.opid → r.done = none → r.seen = p.seen + 1 →
      ((v.settlePush r).inPush m).seen = p.seen + 1 ∧ (v.settlePush r).hbm = s.hbm.merge (bufKey m.handle m.arg) m.stores := by
    intro v r hv hs ho hd hn
    rw [State.settlePush_open v hd, State.inPush_putPush v hs ho]
    exact ⟨hn, hv.trans hu⟩
  obtain ⟨hbhbm, _, hbsrc, hbop, hbseen, hbdone, _, _, _⟩ := u.bumpPush_shows q'
  split
  next v r hvr =>
  split at hvr
  · rw [← show (u.bumpPush q').1 = v from congrArg (·.1) hvr, ← show (u.bumpPush q').2 = r from congrArg (·.2) hvr]
    exact hput _ _ hbhbm (hbsrc.trans hsrc) (hbop.trans hop) (hbdone.trans hdone) hbseen
  · rw [← show u = v from congrArg (·.1) hvr, ← show q' = r from congrArg (·.2) hvr]
    exact hput _ _ rfl hsrc hop hdone rfl

/-- A PUSH_DATA of another epoch marks its push. -/
theorem execPushData_stale {s : State} {m : Msg} (hmine : m.type_ = 1 ∧ m.dst = s.fabric.moduleId ∧ msgWhole m = true ∧ s.serves = true)
    (hdone : (s.inPush m).done = none) (hep : m.epoch ≠ s.fabric.epoch) :
    ∃ t, exec (.pushData m) s = .next t ∧ (t.inPush m).stale = true ∧ t.hbm = s.hbm := by
  have hexec : exec (.pushData m) s = execPushData m s := rfl
  unfold execPushData at hexec
  rw [State.receive_mine hmine] at hexec
  extract_lets p q n u q' last at hexec
  rw [if_pos (by rw [Bool.or_eq_true]; exact .inr (bne_iff_ne.2 hep))] at hexec
  refine ⟨_, hexec, ?_⟩
  obtain ⟨hsrc, hop⟩ := s.inPush_is m
  rw [State.settlePush_open s (p := { q with stale := true }) hdone, State.inPush_putPush s (p := { q with stale := true }) hsrc hop]
  exact ⟨rfl, rfl⟩

/-- A push whose messages have all come is acknowledged with status 0, and ARRIVE rises. -/
theorem State.settlePush_done {s : State} {p : InPush} {m : Msg} {b : Buf} (hdone : p.done = some m) (hseen : m.arg / 2 ^ 32 ≤ p.seen)
    (hstale : p.stale = false) (href : p.refused = false) (hh : p.handle = m.handle) (hb : s.buf? m.handle = some b) (hne : s.livePorts ≠ []) :
    (∃ b', (s.settlePush p).buf? m.handle = some b' ∧ b'.arrive = (b.arrive + m.arg % 256) % 4294967296) ∧
      ∃ port ∈ s.livePorts, ∃ a, (s.settlePush p).host.sent = s.host.sent ++ [.msg port a] ∧ a.type_ = 3 ∧ a.opid = m.opid ∧ a.arg = 0 := by
  unfold State.settlePush
  rw [hdone]
  dsimp only
  rw [if_neg (fun h => absurd h.1 (Nat.not_lt.2 hseen)), if_neg (Bool.eq_false_iff.1 hstale)]
  obtain ⟨hbhbm, hbfab, hbsrc, hbop, hbseen, hbdone, hbh, hbst, hbrf⟩ := (s.dropPush p).bumpPush_shows p
  obtain ⟨b1, hb1, harr⟩ := State.bumpPush_buf (s := s.dropPush p) (p := p) (b := b) (hh ▸ hb)
  have hhost := (s.dropPush p).bumpPush_host p
  generalize (s.dropPush p).bumpPush p = up at *
  obtain ⟨u, q⟩ := up
  dsimp only at *
  have hstatus : q.status = 0 := by
    unfold InPush.status
    rw [hbst, hstale, hbrf, href]
    rfl
  rw [hstatus, if_pos rfl]
  have hqm : q.handle = m.handle := hbh.trans hh
  rw [← hbh] at hb1
  have hbuf := State.buf?_modBuf hb1 (f := fun b => { b with
    arrive := (b.arrive + m.arg % 256) % 2 ^ 32, arriveSrc := wNat (m.src * 2 ^ 32 + m.seq) }) rfl rfl
  have hmod := u.modBuf_fabric q.handle (fun b => { b with
    arrive := (b.arrive + m.arg % 256) % 2 ^ 32, arriveSrc := wNat (m.src * 2 ^ 32 + m.seq) })
  generalize u.modBuf q.handle _ = v at *
  obtain ⟨hfab, _, hvhost⟩ := hmod
  obtain ⟨hsaid, hsent⟩ := v.answer_shows m (ty := 3) (arg := 0) (payload := []) (by decide) (by decide) (by decide)
  have hports : v.livePorts = s.livePorts :=
    (State.livePorts_of_fabric (hfab.trans hbfab)).trans rfl
  rw [hports, hvhost, hhost] at hsent
  have hsame : (v.answer m 3 0 []).buf? m.handle = v.buf? q.handle := by
    rw [hqm]
    unfold State.buf?
    rw [hsaid.bufs]
  exact ⟨⟨_, hsame.trans hbuf, congrArg (fun n => (n + m.arg % 256) % 2 ^ 32) harr⟩, hsent hne⟩

/-! ## Pulls from this module -/

/-- What answers leave alone: they only send. -/
theorem State.answer_said (s : State) (m : Msg) (ty arg : Nat) (payload : List Byte) :
    s.Said (s.answer m ty arg payload) ∧ ∃ l, (s.answer m ty arg payload).host.sent = s.host.sent ++ l := by
  unfold State.answer State.sendSched
  dsimp only
  generalize ({ w0 := _, w1 := _, w2 := _, w3 := _, payload := payload } : Msg) = a
  have hu : s.Said s.schedSeq.1.bump := ⟨rfl, rfl, rfl, rfl⟩
  refine ⟨hu.trans (State.sendMsg_shows _ a).1, ?_⟩
  unfold State.sendMsg
  extract_lets live i
  split
  · exact ⟨_, rfl⟩
  · exact ⟨[], (List.append_nil _).symm⟩

theorem State.answers_said (m : Msg) (l : List (Nat × List Byte)) (s : State) :
    s.Said (l.foldl (fun s c => s.answer m 5 (m.arg + 256 * c.1) c.2) s) ∧
      ∃ x, (l.foldl (fun s c => s.answer m 5 (m.arg + 256 * c.1) c.2) s).host.sent = s.host.sent ++ x := by
  induction l generalizing s with
  | nil => exact ⟨⟨rfl, rfl, rfl, rfl⟩, [], (List.append_nil _).symm⟩
  | cons c l ih =>
    obtain ⟨hsaid, x, hx⟩ := s.answer_said m 5 (m.arg + 256 * c.1) c.2
    obtain ⟨hsaid', y, hy⟩ := ih (s.answer m 5 (m.arg + 256 * c.1) c.2)
    exact ⟨hsaid.trans hsaid', x ++ y, hy.trans (by rw [hx, List.append_assoc])⟩

theorem execPullReq_stale {s : State} {m : Msg} (hmine : m.type_ = 4 ∧ m.dst = s.fabric.moduleId ∧ msgWhole m = true ∧ s.serves = true)
    (hep : m.epoch ≠ s.fabric.epoch) : exec (.pullReq m) s = .next (s.answer m 6 1 []) := by
  show execPullReq m s = _
  unfold execPullReq
  rw [State.receive_mine hmine]
  extract_lets n
  exact congrArg Host.Outcome.next (if_pos hep)

/-- A PULL_REQ is answered with its bytes and then with PULL_DONE. -/
theorem execPullReq_done {s : State} {m : Msg} (hmine : m.type_ = 4 ∧ m.dst = s.fabric.moduleId ∧ msgWhole m = true ∧ s.serves = true)
    (hep : m.epoch = s.fabric.epoch) (hn : 0 < leNat (m.payload.take 8)) (hle : leNat (m.payload.take 8) ≤ 4194304)
    (hexp : s.exported m.handle m.arg (leNat (m.payload.take 8)) 0 = true) (hlive : s.livePorts ≠ [])
    (hclean : s.cleanPart m.handle m.arg (leNat (m.payload.take 8)) = leNat (m.payload.take 8)) :
    ∃ t sent, ∃ port ∈ s.livePorts, ∃ a, exec (.pullReq m) s = .next t ∧ t.host.sent = s.host.sent ++ sent ++ [.msg port a] ∧
      a.type_ = 6 ∧ a.opid = m.opid ∧ a.arg = 0 ∧ t.hbm = s.hbm := by
  have hexec : exec (.pullReq m) s = execPullReq m s := rfl
  unfold execPullReq at hexec
  rw [State.receive_mine hmine] at hexec
  extract_lets n c bs u cs v w at hexec
  have hbad : ¬ (n = 0 ∨ 2 ^ 22 < n ∨ (!s.exported m.handle m.arg n 0) = true) := by
    rintro (h | h | h)
    · exact absurd h (Nat.ne_of_gt hn)
    · exact absurd h (Nat.not_lt.2 hle)
    · rw [show s.exported m.handle m.arg n 0 = true from hexp] at h
      exact absurd h (by decide)
  rw [if_neg (not_not.2 hep), if_neg hbad, if_pos (show c = n from hclean)] at hexec
  have hv : v.hbm = s.hbm ∧ v.fabric = s.fabric ∧ v.host = s.host := by
    obtain ⟨st, hst⟩ := s.noteHome_frame m.handle m.arg c
    obtain ⟨st', hst'⟩ := u.cacheTouch_frame 0 m.handle m.arg n
    show (u.cacheTouch 0 m.handle m.arg n).hbm = s.hbm ∧ (u.cacheTouch 0 m.handle m.arg n).fabric = s.fabric ∧
      (u.cacheTouch 0 m.handle m.arg n).host = s.host
    rw [hst', show u = _ from hst]
    exact ⟨rfl, rfl, rfl⟩
  obtain ⟨hsaid, x, hx⟩ := State.answers_said m ((List.range cs.length).zip cs) v
  obtain ⟨hlast, hsent⟩ := w.answer_shows m (ty := 6) (arg := 0) (payload := []) (by decide) (by decide) (by decide)
  have hports : w.livePorts = s.livePorts := State.livePorts_of_fabric (hsaid.fabric.trans hv.2.1)
  rw [hports] at hsent
  obtain ⟨port, hport, a, ha, hty, hop, harg⟩ := hsent hlive
  refine ⟨_, x, port, hport, a, hexec, ha.trans ?_, hty, hop, harg, hlast.hbm.trans (hsaid.hbm.trans hv.1)⟩
  rw [← hv.2.2]
  exact congrArg (· ++ _) hx

/-! ## The source's side -/

theorem State.opOf_push {s : State} {m : Msg} {push : Bool} {o : RemOp} (h : s.opOf m push = some o) : o.push = push := by
  have hp := List.find?_some h
  simp only [Bool.and_eq_true, beq_iff_eq] at hp
  exact hp.1.1

/-- What an ended operation's entry reports stands in its destination, whether or not its bytes are still on their way. -/
theorem State.reported_reg (u : State) (k : Nat) {ent : Entry} {d : Nat} (hdest : ent.dest = some d) (hd : d < 32) (n : Need) (w : Word) :
    ((if n = .none then u.answered k .transfer { ent with moves := [] } {} (some (w, false))
      else (u.answered k .transfer { ent with moves := [] } {} (some (w, false))).modBank k (fun b => b.putEntry .transfer
        { ent with moves := [], stage := .far, need := n })).core k .x).xreg d = ⟨w, false, .full⟩ := by
  have hreg := Bank.answered_dest (u.bank k) .transfer (ent := { ent with moves := [] }) hdest hd {} (w, false)
  rw [State.answered_eq]
  split
  · rw [State.core, State.bank_modBank, if_pos rfl]
    exact hreg
  · rw [State.core, State.bank_modBank, if_pos rfl, Bank.putEntry_core, State.bank_modBank, if_pos rfl]
    exact hreg

/-- An operation of a cell's running task ends: the status stands in its entry's destination. -/
theorem State.endOp_shows {s : State} {o : RemOp} {ent : Entry} {d : Nat} (hown : (s.cell o.cell).pusher o.uid = none)
    (hent : (s.bank o.cell).opEntry o = some ent) (hdest : ent.dest = some d) (hd : d < 32) (status : Nat) :
    ((s.endOp o status).core o.cell .x).xreg d = ⟨statusWord status o.seq, false, .full⟩ := by
  have hent' : ((s.dropOp o).bank o.cell).opEntry o = some ent := hent
  have hown' : ((s.dropOp o).cell o.cell).pusher o.uid = none := hown
  unfold State.endOp State.onPusher
  rw [hown']
  dsimp only
  rw [hent']
  dsimp only
  split
  · exact (s.dropOp o).reported_reg o.cell hdest hd .none _
  · exact ((s.dropOp o).layPull o status ent).1.reported_reg o.cell (((s.dropOp o).layPull_peers o status ent).2.trans hdest) hd _ _

theorem Bank.answered_finished {b : Bank} (e : EngIx) {ent x : Entry} (hx : x ∈ (b.engine e).entries) (hu : x.uid = ent.uid) (fl : Flags)
    (res : Option (Word × Bool)) : ∃ y ∈ ((b.answered e ent fl res).engine e).entries, y.uid = ent.uid ∧ y.stage = .finished := by
  rw [Bank.answered_entries]
  exact ⟨_, List.mem_map.2 ⟨x, hx, if_pos hu⟩, rfl, rfl⟩

/-- A push's operation ends: its entry is finished. -/
theorem State.endOp_push {s : State} {o : RemOp} {ent : Entry} (hpush : o.push = true) (hown : (s.cell o.cell).pusher o.uid = none)
    (hent : (s.bank o.cell).opEntry o = some ent) (status : Nat) :
    (∃ x ∈ ((s.endOp o status).bank o.cell).xfer.entries, x.uid = ent.uid ∧ x.stage = .finished) ∧ (s.endOp o status).mem = s.mem := by
  have hent' : ((s.dropOp o).bank o.cell).opEntry o = some ent := hent
  have hown' : ((s.dropOp o).cell o.cell).pusher o.uid = none := hown
  have hmem : ent ∈ ((s.dropOp o).bank o.cell).xfer.entries := List.mem_of_find?_eq_some hent
  unfold State.endOp State.onPusher
  rw [hown']
  dsimp only
  rw [hent']
  dsimp only
  rw [hpush, if_pos rfl]
  dsimp only
  rw [if_pos rfl, State.answered_eq]
  refine ⟨?_, rfl⟩
  rw [State.bank_modBank, if_pos rfl]
  exact Bank.answered_finished .transfer (ent := { ent with moves := [] }) hmem rfl {} _

/-- A pull whose last request is answered ends where nothing is missing. -/
theorem State.settlePull_ends {s : State} {o : RemOp} {ent : Entry} (hexp : o.expect = 0) (hown : (s.cell o.cell).pusher o.uid = none)
    (hent : (s.bank o.cell).opEntry o = some ent) (hall : o.status ≠ 0 ∨ ∀ v ∈ ent.moves, o.has ent.w v = true) :
    s.settlePull o = s.endOp o o.status := by
  unfold State.settlePull
  refine if_pos ⟨hexp, hall.imp_right fun h => ?_⟩
  unfold State.pulled State.pusherBank
  rw [hown]
  dsimp only
  rw [hent]
  exact List.all_eq_true.2 h

/-! ## Ports and epochs -/

theorem State.lanes_loseLane (s : State) (port q : Nat) :
    (s.loseLane port).lanes q = if q = port then s.lanes port - 1 else s.lanes q :=
  kget_kset 2 s.fabric.lanes port q (s.lanes port - 1)

theorem State.newEpoch_shows (s : State) : s.newEpoch.fabric.epoch = (s.fabric.epoch + 1) % 65536 ∧ s.newEpoch.fabric.remote = s.fabric.remote := by
  unfold State.newEpoch
  extract_lets e u
  have h : u.Peers (((List.range 256).filter (· != u.fabric.moduleId)).foldl (fun s j =>
      s.sendSched 7 j 0 (wNat (kget 0 s.fabric.known j * 2 ^ 16)) e [] true) u) := by
    refine State.Peers.foldl (fun t j => ?_) _ u
    exact .sendSched t _ _ _ _ _ _ _
  exact ⟨h.epoch, h.remote⟩

/-- Pushes under the old epoch are marked. -/
theorem State.Peers.stalePushes (s : State) (l : List InPush) :
    s.Peers (l.foldl (fun s p => let (s, p) := s.bumpPush p; s.putPush { p with stale := true }) s) := by
  refine .foldl (fun t p => ?_) l s
  exact (State.Peers.bumpPush t p).trans ⟨rfl, rfl, rfl⟩

/-! ## The statement -/

theorem fabricMessages : FabricMessages := by
  unfold FabricMessages
  intro s m mine p
  refine ⟨?_, ?_, ?_, ?_, ?_, ?_, ?_, ?_, ?_, ?_, ?_, ?_, ?_⟩
  · intro hm hst hrf hdn hep hexp hf hl hwf
    obtain ⟨t, hexec, hseen, hhbm⟩ := execPushData_lands hm hst hrf hdn hep hexp
    obtain ⟨hfull, hmap⟩ := Msg.stores_full hf hl
    have hlen : m.stores.length = m.payload.length := by rw [← hmap, List.length_map]
    refine ⟨t, hexec, hseen, fun i b hb => ?_, fun a ha => ?_⟩
    · have hi : i < m.payload.length := (List.getElem?_eq_some_iff.1 hb).1
      rw [hhbm, Mem.byte_merge_full hwf hfull, if_pos ⟨Nat.le_add_right _ _, by rw [hlen]; omega⟩, Nat.add_sub_cancel_left, ← List.getElem?_map,
        hmap, hb, Option.getD_some]
    · rw [hhbm, Mem.byte_merge_full hwf hfull, if_neg (by rw [hlen]; omega)]
  · exact fun hm hdn hep => execPushData_stale hm hdn hep
  · intro b hm hst hrf hh hep hexp hseen hb hlive
    have hexec : exec (.pushDone m) s = .next (s.settlePush { p with done := some m }) := by
      show execPushDone m s = _
      unfold execPushDone
      rw [State.receive_mine hm]
      dsimp only
      rw [if_neg (Bool.eq_false_iff.1 (by rw [show (s.inPush m).stale = false from hst, hep, bne_self_eq_false, Bool.or_self])),
        if_neg (Bool.eq_false_iff.1 (by rw [hexp, Bool.not_true, Bool.and_false]))]
    exact ⟨_, hexec, State.settlePush_done rfl hseen hst hrf hh hb hlive⟩
  · intro hm hep hlive
    obtain ⟨port, hport, a, h⟩ := (s.answer_shows m (ty := 6) (arg := 1) (payload := []) (by decide) (by decide) (by decide)).2 hlive
    exact ⟨_, port, hport, a, execPullReq_stale hm hep, h⟩
  · exact fun hm hep hn hle hexp hlive hclean => execPullReq_done hm hep hn hle hexp hlive hclean
  · intro o ent d hm ho hown hent hdest hd
    have hexec : exec (.pushAck m) s = .next (s.endOp o (m.arg % 256)) := by
      show execPushAck m s = _
      unfold execPushAck
      rw [State.receive_mine hm, ho]
    obtain ⟨hfin, hmem⟩ := State.endOp_push (State.opOf_push ho) hown hent (m.arg % 256)
    exact ⟨_, hexec, State.endOp_shows hown hent hdest hd _, hfin, hmem⟩
  · intro o hm ho hne
    have hexec : exec (.pullData m) s = .next (s.settlePull { o with got := kputAll o.got m.arg m.payload }) := by
      show execPullData m s = _
      unfold execPullData
      rw [State.receive_mine hm, ho]
    have hput : s.settlePull { o with got := kputAll o.got m.arg m.payload } = s.putOp { o with got := kputAll o.got m.arg m.payload } :=
      if_neg fun h => hne h.1
    exact ⟨_, hexec, by rw [hput]; rfl, by rw [hput]; rfl⟩
  · intro o hm ho
    have hexec : exec (.pullDone m) s = .next (s.settlePull { o with expect := o.expect - 1, status := if o.status = 0 then m.arg % 256 else o.status }) := by
      show execPullDone m s = _
      unfold execPullDone
      rw [State.receive_mine hm, ho]
    refine ⟨fun h2 => ⟨_, hexec, ?_⟩, fun ent d h1 hown hent hdest hd hall => ⟨_, hexec, ?_⟩⟩
    · have hput : s.settlePull { o with expect := o.expect - 1, status := if o.status = 0 then m.arg % 256 else o.status } =
          s.putOp { o with expect := o.expect - 1, status := if o.status = 0 then m.arg % 256 else o.status } :=
        if_neg fun h => absurd (show o.expect - 1 = 0 from h.1) (by omega)
      rw [hput]
      rfl
    · rw [State.settlePull_ends (o := { o with expect := o.expect - 1, status := if o.status = 0 then m.arg % 256 else o.status })
        (show o.expect - 1 = 0 by omega) hown hent hall]
      exact State.endOp_shows (o := { o with expect := o.expect - 1, status := if o.status = 0 then m.arg % 256 else o.status })
        hown hent hdest hd _
  · intro hm
    have hexec : exec (.epoch m) s = .next ((s.setFabric (fun x => { x with known := kset x.known m.src (m.arg % 65536) })).loseModule m.src
        (fun x => older x (m.arg % 65536))) := by
      show execEpoch m s = _
      unfold execEpoch
      rw [State.receive_mine hm]
    obtain ⟨hknown, hremote⟩ := (s.setFabric (fun x => { x with known := kset x.known m.src (m.arg % 65536) })).loseModule_remote m.src
      (fun x => older x (m.arg % 65536))
    refine ⟨_, hexec, ?_, hremote⟩
    rw [hknown]
    exact (kget?_kset _ _ _ _).trans (if_pos rfl)
  · intro hty hwhole hserves
    show execOdsogaUnknownType m s = _
    unfold execOdsogaUnknownType
    rw [if_neg (Bool.eq_false_iff.not.2 (not_not.2 hserves)), if_neg (Bool.eq_false_iff.not.2 (not_not.2 hwhole)), if_neg hty]
    rfl
  · exact fun j => ⟨_, rfl, fun h r hr hj => (s.loseModule_remote j (fun _ => true)).2 h r hr hj rfl⟩
  · intro port hport
    have hexec : exec (.odsogaLaneLoss port) s = .next (s.loseLane port) := congrArg Host.Outcome.next (if_pos hport)
    refine ⟨_, hexec, ?_, fun q hq => ?_⟩
    · rw [State.lanes_loseLane, if_pos rfl]
    · rw [State.lanes_loseLane, if_neg hq]
  · have hpeers := State.Peers.stalePushes s s.fabric.inp
    have hnew := (s.fabric.inp.foldl (fun s p => let (s, p) := s.bumpPush p; s.putPush { p with stale := true }) s).newEpoch_shows
    rw [hpeers.epoch, hpeers.remote] at hnew
    exact ⟨_, rfl, hnew⟩

/-- Settles O46: the stream flits go through their context's lemmas, the messages through what an answer, a settled push and an ended
operation leave. -/
theorem linksAndMessages : Obligations.LinksAndMessages := by
  unfold Obligations.LinksAndMessages
  exact ⟨streamFlits, fabricMessages⟩

end Sys2Proof.Machine

end

section
/-! Watchdogs, roll-back and refresh; what the failure of a die leaves of the dies (10 R206, R207; 17 R334; 19 R348, R349, R351). -/

namespace Sys2Proof.Machine

/-! ## What the end of tasks leaves of the dies -/

/-- A die but for its AVAIL, and where p holds its ring with the place of the next record. -/
structure Die.Kept (p : Bool) (x y : Die) : Prop where
  st : y.st = x.st
  frozen : y.frozen = x.frozen
  faulty : y.faulty = x.faulty
  ring : p = true ∨ x.frozen = true → y.ring = x.ring ∧ y.next = x.next

theorem Die.Kept.refl (p : Bool) (x : Die) : x.Kept p x := ⟨rfl, rfl, rfl, fun _ => ⟨rfl, rfl⟩⟩

theorem Die.Kept.trans {p : Bool} {x y z : Die} (h : x.Kept p y) (h' : y.Kept p z) : x.Kept p z :=
  ⟨h'.st.trans h.st, h'.frozen.trans h.frozen, h'.faulty.trans h.faulty, fun hp => by
    obtain ⟨hr, hn⟩ := h.ring hp
    obtain ⟨hr', hn'⟩ := h'.ring (hp.imp_right fun hx => h.frozen.trans hx)
    exact ⟨hr'.trans hr, hn'.trans hn⟩⟩

/-- The dies are as they were, but for AVAIL and for records of the scheduler die. -/
def State.SameDies (s t : State) : Prop := ∀ d, (s.die d).Kept (d != Config.schedDie) (t.die d)

namespace State.SameDies

theorem refl (s : State) : SameDies s s := fun _ => .refl _ _

theorem trans {s t u : State} (h : SameDies s t) (h' : SameDies t u) : SameDies s u := fun d => (h d).trans (h' d)

theorem of_dies {s t : State} (h : t.dies = s.dies) : SameDies s t := fun d => by
  rw [State.die, State.die, h]
  exact .refl _ _

theorem foldl {α : Type} {f : State → α → State} (hf : ∀ t x, SameDies t (f t x)) (l : List α) (s : State) : SameDies s (l.foldl f s) := by
  induction l generalizing s with
  | nil => exact refl s
  | cons a l ih => exact (hf s a).trans (ih _)

theorem modDie (s : State) (j : Nat) {f : Die → Die} (hf : (s.die j).Kept (j != Config.schedDie) (f (s.die j))) : SameDies s (s.modDie j f) := by
  intro d
  rw [State.die_modDie]
  split
  · next hd =>
    rw [hd]
    exact hf
  · exact .refl _ _

theorem discCaused (s : State) (d : Nat) : SameDies s (s.discCaused d) := by
  have hu : s.discUpdate.dies = s.dies := by
    unfold State.discUpdate
    split <;> rfl
  refine (of_dies (s := s) (t := s.discUpdate.bump.bump.bump) hu).trans ?_
  unfold State.discCaused State.logCause
  rw [State.logRec_eq]
  split
  · exact refl _
  · next hf => exact modDie _ _ ⟨rfl, rfl, rfl, fun h => h.elim (fun h => absurd h (by decide)) fun h => absurd h hf⟩

theorem retireCell (s : State) (k : Nat) : SameDies s (s.retireCell k) := by
  unfold State.retireCell
  extract_lets d
  split
  · refine SameDies.trans ?_ (discCaused _ _)
    exact modDie s _ ⟨rfl, rfl, rfl, fun _ => ⟨rfl, rfl⟩⟩
  · exact refl s

theorem idleCell (s : State) (k n : Nat) : SameDies s (s.idleCell k n) := by
  unfold State.idleCell
  extract_lets c mine u
  have hu : SameDies s u := by
    show SameDies s (match mine c.shadow with | some t => _ | none => _)
    split
    · exact of_dies rfl
    · exact refl s
  split
  · refine SameDies.trans ?_ (retireCell _ _)
    exact hu.trans (of_dies rfl)
  · exact hu

theorem modBuf (s : State) (h : Nat) (f : Buf → Buf) : SameDies s (s.modBuf h f) := by
  obtain ⟨b, hb⟩ := s.modBuf_frame h f
  exact of_dies (by rw [hb])

theorem freeBuf (s : State) (h : Nat) : SameDies s (s.freeBuf h) := of_dies rfl

theorem dropRef (s : State) (h : Nat) : SameDies s (s.dropRef h) := by
  unfold State.dropRef
  split
  · split
    · exact modBuf _ _ _
    · extract_lets u
      split
      · split
        · exact (freeBuf s h).trans (modBuf _ _ _)
        · exact (freeBuf s h).trans (freeBuf _ _)
      · exact freeBuf s h
  · exact refl s

theorem dropRefs (s : State) (l : List Access) : SameDies s (s.dropRefs l) := foldl (fun t _ => dropRef t _) _ s

theorem discardRun (s : State) (n cause : Nat) : SameDies s (s.discardRun n cause) := by
  unfold State.discardRun
  split
  · next nd hnd =>
    split
    · extract_lets a gran b c d e f
      have ha : SameDies s a := foldl (fun t k => idleCell t k n) _ s
      have hb : SameDies a b := foldl (fun t p => freeBuf t _) _ a
      have hc : SameDies b c := dropRefs b _
      exact ((ha.trans hb).trans hc).trans (of_dies rfl)
    · exact refl s
  · exact refl s

theorem modNode (s : State) (n : Nat) (f : Node → Node) : SameDies s (s.modNode n f) := by
  unfold State.modNode
  split
  · exact of_dies rfl
  · exact refl s

theorem endTask (s : State) (k : Nat) (c : CoreIx) (cause : Nat) (tval epc : Word) (eng : Nat) : SameDies s (s.endTask k c cause tval epc eng) := by
  unfold State.endTask
  extract_lets b
  split
  · exact refl s
  · split
    · exact (of_dies (t := s.modAsid b.asid _) rfl).trans (discardRun _ _ _)
    · split
      · exact refl s
      · exact of_dies rfl

theorem killTask (s : State) (k cause : Nat) (tval : Word) : SameDies s (s.killTask k cause tval) := by
  unfold State.killTask
  split
  · exact refl s
  · refine foldl (fun t j => ?_) _ s
    split
    · exact endTask _ _ _ _ _ _ _
    · exact refl t

theorem exchange (s : State) (p : Nat × Nat) : SameDies s (s.exchange p) := by
  unfold State.exchange
  extract_lets c
  split
  · exact refl s
  · exact of_dies rfl

theorem aside (s : State) (k i : Nat) {f : State → State} (hf : ∀ t : State, SameDies t (f t)) : SameDies s (s.aside k i f) := by
  unfold State.aside
  split
  · exact refl s
  · extract_lets same ps was u
    have hin : SameDies s (ps.foldl (fun s p => (s.exchange p).modCell p.1 (fun c => { c with preempt := true })) s) := by
      refine foldl (fun t p => ?_) _ s
      exact (exchange t p).trans (of_dies rfl)
    have hu : SameDies s u := hin.trans (hf _)
    refine (hu.trans (foldl (fun t p => exchange t p) ps u)).trans (foldl (fun t w => ?_) _ _)
    exact of_dies rfl

theorem lastPhase (s : State) (k : Nat) : SameDies s (s.lastPhase k) := by
  unfold State.lastPhase State.capture
  split
  · exact refl s
  · extract_lets b out pub
    split
    · exact of_dies rfl
    · exact of_dies rfl

theorem retireFaultNode (s : State) (n : Nat) : SameDies s (s.retireFaultNode n) := by
  unfold State.retireFaultNode
  split
  · split
    · unfold State.retireNode
      extract_lets u next nodes b bodies
      exact (dropRefs s _).trans (of_dies rfl)
    · exact refl s
  · exact refl s

theorem faultNote (s : State) (k : Nat) (b : Bank) (f : Ending) : SameDies s (s.faultNote k b f) := of_dies rfl

theorem closeSuspended (s : State) (k i : Nat) : SameDies s (s.closeSuspended k i) := by
  unfold State.closeSuspended
  split
  · exact refl s
  · extract_lets own u
    have hu : SameDies s u := by
      refine aside s k i fun t => ?_
      extract_lets v
      split
      · exact of_dies rfl
      · exact (of_dies (s := t) (t := v) rfl).trans (lastPhase v k)
    split
    · exact hu
    · split
      · exact hu
      · extract_lets n v
        refine SameDies.trans (hu.trans (SameDies.trans ?_ (retireFaultNode v n))) (faultNote _ _ _ _)
        refine SameDies.trans ?_ (modNode _ n _)
        exact of_dies rfl

theorem endSuspended (s : State) (k : Nat) (x : Suspended) (f : Ending) : SameDies s (s.endSuspended k x f) := by
  unfold State.endSuspended
  extract_lets same stop u
  split
  · exact (of_dies (s := s) (t := u) rfl).trans (closeSuspended _ _ _)
  · exact of_dies rfl

theorem unplace (s : State) (k : Nat) : SameDies s (s.unplace k) := by
  unfold State.unplace
  split
  · exact of_dies rfl
  · exact refl s

theorem checkCell (s : State) (k tval : Nat) : SameDies s (s.checkCell k tval) := by
  unfold State.checkCell
  extract_lets u v
  have hu : SameDies s u := by
    show SameDies s (match (s.cell k).shadow with | some t => _ | none => _)
    split
    · extract_lets js w
      have hw : SameDies s w := by
        refine foldl (fun t j => ?_) _ s
        split
        · exact unplace _ _
        · exact refl t
      split
      · exact hw.trans (discardRun _ _ _)
      · refine SameDies.trans ?_ (modNode _ _ _)
        exact hw.trans (faultNote w _ _ _)
    · exact refl s
  have hv : SameDies s v := hu.trans (killTask _ _ _ _)
  exact hv.trans (foldl (fun t x => endSuspended t _ _ _) _ v)

theorem checkCells (s : State) (p : Nat → Bool) (tval : Nat) : SameDies s (s.checkCells p tval) := foldl (fun t _ => checkCell t _ _) _ s

theorem planMoves (s : State) (i : Nat) (l : List Nat) : SameDies s (s.planMoves i l).1 := by
  induction l generalizing s with
  | nil => exact refl s
  | cons h hs ih =>
    unfold State.planMoves
    split
    · exact ih s
    · split
      · exact ih s
      · split
        · exact (modBuf s _ _).trans (ih _)
        · split
          next t stuck ht =>
          rw [← show (s.planMoves i hs).1 = t from congrArg (·.1) ht]
          exact ih s

theorem loseBuf (s : State) (h : Nat) : SameDies s (s.loseBuf h) := by
  unfold State.loseBuf
  extract_lets u
  refine (modBuf s h _).trans (foldl (fun t e => ?_) _ u)
  exact of_dies rfl

theorem beginCopies (s : State) (i : Nat) : SameDies s (s.beginCopies i) := by
  refine foldl (fun t h => ?_) _ s
  split
  · exact refl t
  · exact modBuf _ _ _

theorem clearStack (s : State) (i : Nat) : SameDies s (s.clearStack i) := by
  unfold State.clearStack
  split
  next t stuck ht =>
  have hplan : SameDies s t := by
    rw [← show (s.planMoves i (s.buffersOn i)).1 = t from congrArg (·.1) ht]
    exact planMoves _ _ _
  exact (hplan.trans (foldl (fun t h => loseBuf t h) _ t)).trans (beginCopies _ _)

end State.SameDies

/-! ## A die that fails -/

/-- A die out of service: its STATE and what it was but for AVAIL. -/
theorem State.takeOff_die (s : State) (d st : Nat) :
    ((s.takeOff d st).die d).st = st ∧ ((s.takeOff d st).die d).avail = 0 ∧ ((s.takeOff d st).die d).frozen = (s.die d).frozen ∧
      (d ≠ Config.schedDie → ((s.takeOff d st).die d).ring = (s.die d).ring) := by
  have h := State.SameDies.foldl (f := fun s n => s.discardRun n 4) (fun t n => .discardRun t n 4) (s.runsOn d) s d
  unfold State.takeOff
  rw [State.die_modDie_same]
  exact ⟨rfl, rfl, h.frozen, fun hd => (h.ring (.inl (bne_iff_ne.2 hd))).1⟩

/-- A die that fails is offline for good, and its ring is frozen. -/
theorem State.failDie_shows (s : State) (d : Nat) :
    ((s.failDie d).die d).st = 3 ∧ ((s.failDie d).die d).frozen = true ∧
      (d ≠ Config.schedDie → ((s.failDie d).die d).ring = (s.die d).ring) := by
  obtain ⟨hst, -, -, hring⟩ := s.takeOff_die d 3
  unfold State.failDie
  extract_lets cls a b c e
  have hab : State.SameDies a (if cls = 5 then a.discUpdate else a.discCaused d) := by
    split
    · refine .of_dies ?_
      unfold State.discUpdate
      split <;> rfl
    · exact .discCaused a d
  have hb : (b.die d).st = 3 ∧ (b.die d).frozen = true ∧ (d ≠ Config.schedDie → (b.die d).ring = (s.die d).ring) := by
    have hdie : b.die d = { (if cls = 5 then a.discUpdate else a.discCaused d).die d with frozen := true } :=
      State.die_modDie_same (if cls = 5 then a.discUpdate else a.discCaused d) d (fun x => { x with frozen := true })
    rw [hdie]
    exact ⟨(hab d).st.trans hst, rfl, fun hd => ((hab d).ring (.inl (bne_iff_ne.2 hd))).1.trans (hring hd)⟩
  have hbc : State.SameDies b c := .checkCells _ _ _
  have hce : State.SameDies c e := by
    show State.SameDies c (if cls = 7 then _ else _)
    split
    · exact .clearStack _ _
    · exact .refl _
  have hend : State.SameDies e (if cls = 5 then (e.checkCells (fun _ => true) 5).raiseAer else e) := by
    split
    · exact (State.SameDies.checkCells e _ _).trans (.of_dies rfl)
    · exact .refl _
  have h := (hbc.trans hce).trans hend
  exact ⟨(h d).st.trans hb.1, (h d).frozen.trans hb.2.1, fun hd => ((h d).ring (.inr hb.2.1)).1.trans (hb.2.2 hd)⟩

/-! ## Watchdogs (19 R348, R349) -/

/-- The firmware of a die that is not to be rolled back restarts with reason 3, and record 0x0001 says why. -/
theorem State.fwFail_restarts {s : State} {d : Nat} (h : d ≠ Config.schedDie ∨ s.geode.pending = false) (reason : Nat) :
    ∃ u, s.OnlyDies u ∧ Logged s u d 0x0001 ∧ s.fwFail d reason = (u.startFw d 3).petDog d := by
  refine ⟨s.logHw d 0x0001 0 (wNat reason) (s.core (svc d) .x).pc, .logRec _ _ _ _ _ _, State.logHw_logged rfl (by decide) _ _ _, ?_⟩
  unfold State.fwFail
  extract_lets pc u
  have hg : u.geode = s.geode := (State.OnlyDies.logRec s d _ _ _ _).geode
  refine if_neg fun hd => ?_
  rw [hg] at hd
  exact h.elim (fun hne => hne hd.1) fun hp => absurd hd.2 (by rw [hp]; exact Bool.false_ne_true)

/-- While a hand-over is pending the scheduler die's firmware rolls it back. -/
theorem State.fwFail_rolls {s : State} (h : s.geode.pending = true) (reason : Nat) :
    ∃ u, s.OnlyDies u ∧ s.fwFail Config.schedDie reason = u.rollback := by
  refine ⟨s.logHw Config.schedDie 0x0001 0 (wNat reason) (s.core (svc Config.schedDie) .x).pc, .logRec _ _ _ _ _ _, ?_⟩
  unfold State.fwFail
  extract_lets pc u
  have hg : u.geode = s.geode := (State.OnlyDies.logRec s _ _ _ _ _).geode
  exact if_pos ⟨rfl, by rw [hg]; exact h⟩

/-- Changes of dies before and after a roll-back are no matter of it. -/
theorem RolledBack.of_onlyDies {s u v w : State} (hu : s.OnlyDies u) (h : RolledBack u v) (hw : v.OnlyDies w) : RolledBack s w := by
  unfold RolledBack at h ⊢
  rw [hw.geode, hw.core, ← hu.geode]
  exact h

/-- The roll-back's record stands in the scheduler die's ring. -/
theorem State.rollback_logged (s : State) : Logged s s.rollback Config.schedDie 0x0003 := by
  obtain ⟨u, hu⟩ : ∃ u, u = s.switched (!s.geode.active) false s.geode.stage true none := ⟨_, rfl⟩
  have hlog : Logged s (u.logHw Config.schedDie 0x0003 (s.geode.hoseq + 1) (activeWord s.geode.active (!s.geode.active)) (s.geode.hoseq + 1))
      Config.schedDie 0x0003 := State.logHw_logged (by rw [hu]; rfl) (by decide) _ _ _
  intro hf
  obtain ⟨w, ws, hring, hcode⟩ := hlog hf
  have heq : s.rollback = ((u.logHw Config.schedDie 0x0003 (s.geode.hoseq + 1) (activeWord s.geode.active (!s.geode.active))
      (s.geode.hoseq + 1)).startFw Config.schedDie 2).petDog Config.schedDie := by rw [hu]; rfl
  refine ⟨w, ws, ?_, hcode⟩
  rw [heq, State.petDog, State.die_modDie_same]
  exact hring

theorem execWatchdogExpiry_due {s : State} {d : Nat} (halive : s.alive d = true) (hdue : (s.die d).wdStart + 100000000 ≤ s.time) :
    exec (.watchdogExpiry d) s = .next (if (s.die d).wdLast.any (fun t => s.time ≤ t + 1000000000) then
      (s.logHw d 0x0001 0 0 (s.core (svc d) .x).pc).failDie d else (s.fwFail d 0).modDie d (fun x => { x with wdLast := some s.time })) :=
  congrArg Host.Outcome.next (if_pos (by rw [halive, decide_eq_true hdue]; rfl))

/-- A watchdog that expires alone, or a first time. -/
theorem State.wdLast_any {s : State} {o : Option Nat} (h : ∀ t0, o = some t0 → t0 + 1000000000 < s.time) :
    o.any (fun t => decide (s.time ≤ t + 1000000000)) = false := by
  cases o with
  | none => rfl
  | some t => exact decide_eq_false (Nat.not_le.2 (h t rfl))

/-! ## Refresh (10 R206, R207) -/

theorem State.stack_modStack (s : State) (i j : Nat) (f : Stack → Stack) : (s.modStack i f).stack j = if j = i then f (s.stack i) else s.stack j :=
  kget_kset _ _ _ _ _

theorem State.Logs.stack {s t : State} (h : s.Logs t) (i : Nat) : t.stack i = s.stack i := by
  rw [State.stack, h.frame]
  rfl

theorem kget?_filterKey {α : Type} (p : Nat → Bool) (m : KMap α) (i : Nat) :
    kget? (m.filter (fun e => p e.1)) i = if p i then kget? m i else none := by
  induction m with
  | nil => exact (ite_self none).symm
  | cons e m ih =>
    obtain ⟨j, v⟩ := e
    rw [List.filter_cons]
    by_cases hj : p j = true
    · rw [if_pos hj, kget?, kget?, ih]
      by_cases hi : j = i
      · rw [if_pos hi, if_pos hi, if_pos (hi ▸ hj)]
      · rw [if_neg hi, if_neg hi]
    · rw [if_neg hj, ih, kget?]
      by_cases hi : j = i
      · rw [if_neg (hi ▸ hj), if_neg (hi ▸ hj)]
      · rw [if_neg hi]

/-- The counts that are left when those of some rows are reset. -/
theorem kget_filterKey (p : Nat → Bool) (m : KMap Nat) (i : Nat) :
    kget 0 (m.filter (fun e => p e.1)) i = if p i then kget 0 m i else 0 := by
  unfold kget
  rw [kget?_filterKey]
  split <;> rfl

/-- The rows of a bank within two of a row, by their keys. -/
def nearRow (bank key k : Nat) : Bool := k / 2 ^ 20 == bank && decide (k ≤ key + 2) && decide (key ≤ k + 2)

theorem nearRow_same {bank row r : Nat} (hr : r < 1048576) :
    nearRow bank (bank * 2 ^ 20 + row) (bank * 1048576 + r) = decide (r ≤ row + 2 ∧ row ≤ r + 2) := by
  have hbank : (bank * 1048576 + r) / 2 ^ 20 = bank := by omega
  unfold nearRow
  rw [hbank, beq_self_eq_true, Bool.true_and, ← Bool.decide_and]
  exact decide_eq_decide.2 (by omega)

theorem nearRow_other {bank b key r : Nat} (hb : b ≠ bank) (hr : r < 1048576) : nearRow bank key (b * 1048576 + r) = false := by
  have hbank : (b * 1048576 + r) / 2 ^ 20 = b := by omega
  unfold nearRow
  rw [hbank, beq_false_of_ne hb]
  rfl

/-- A refresh by the management core. -/
theorem execRefreshInterval_due {s : State} {st : Nat} (hup : s.stackUp st = true) (hdue : (s.stack st).lastBeat + 3900 ≤ s.time) :
    let x := s.stack st
    ∃ t, exec (.refreshInterval st) s = .next t ∧ (t.stack st).refreshes = x.refreshes + 1 ∧
      (t.stack st).lastBeat = s.time ∧ (t.stack st).lastRef = s.time ∧
      (t.stack st).acts = x.acts.filter (fun e => !Config.refreshes st x.refreshes e.1) ∧
      (t.stack st).takeover = (x.takeover && !(decide (s.time < x.lastBeat + 7800) && decide (1 ≤ x.beats))) ∧
      (∀ j, j ≠ st → t.stack j = s.stack j) ∧
      ((t.stack st).takeover ≠ x.takeover → Logged s t st 0x0021) := by
  intro x
  have hexec : exec (.refreshInterval st) s = execRefreshInterval st s := rfl
  unfold execRefreshInterval at hexec
  extract_lets beats back u at hexec
  rw [if_pos (by rw [hup, decide_eq_true hdue]; rfl)] at hexec
  have hback : back = (x.takeover && (decide (s.time < x.lastBeat + 7800) && decide (1 ≤ x.beats))) := by
    show (x.takeover && decide (2 ≤ if s.time < x.lastBeat + 7800 then x.beats + 1 else 1)) = _
    by_cases ht : s.time < x.lastBeat + 7800
    · rw [if_pos ht, decide_eq_true ht, Bool.true_and]
      exact congrArg (x.takeover && ·) (decide_eq_decide.2 (by omega))
    · rw [if_neg ht, decide_eq_false ht]
      rfl
  have hu : u.stack st = { x.refresh st s.time with lastBeat := s.time, beats := beats, takeover := x.takeover && !back } :=
    (s.stack_modStack st st _).trans (if_pos rfl)
  obtain ⟨t, ht⟩ : ∃ t, t = if back then u.logHw st 0x0021 0 (wNat st) 0 else u := ⟨_, rfl⟩
  have hlogs : u.Logs t := by
    rw [ht]
    split
    · exact State.logHw_logs _ _ _ _ _ _
    · exact .refl u
  rw [← ht] at hexec
  have hstack := hlogs.stack st
  have htake : (x.takeover && !back) = (x.takeover && !(decide (s.time < x.lastBeat + 7800) && decide (1 ≤ x.beats))) := by
    rw [hback]
    cases x.takeover
    · rfl
    · rfl
  refine ⟨t, hexec, by rw [hstack, hu]; rfl, by rw [hstack, hu], by rw [hstack, hu]; rfl, by rw [hstack, hu]; rfl, by rw [hstack, hu]; exact htake,
    fun j hj => (hlogs.stack j).trans ((s.stack_modStack st j _).trans (if_neg hj)), fun hne => ?_⟩
  have hb : back = true := by
    rw [hstack, hu] at hne
    refine Bool.of_not_eq_false fun hb => hne ?_
    show (x.takeover && !back) = x.takeover
    rw [hb, Bool.not_false, Bool.and_true]
  have hlog : Logged s (u.logHw st 0x0021 0 (wNat st) 0) st 0x0021 := State.logHw_logged (s := s) (u := u) (code := 0x0021) rfl (by decide) _ _ _
  rw [ht, if_pos hb]
  exact hlog

/-- The hardwired sequencer takes over. -/
theorem execRefreshTakeover_begins {s : State} {st : Nat} (hup : s.stackUp st = true) (hoff : (s.stack st).takeover = false)
    (hdue : (s.stack st).lastBeat + 7800 ≤ s.time) :
    ∃ t, exec (.refreshTakeover st) s = .next t ∧ (t.stack st).takeover = true ∧ (t.stack st).beats = 0 ∧
      (t.stack st).refreshes = (s.stack st).refreshes + 1 ∧ Logged s t st 0x0020 := by
  have hexec : exec (.refreshTakeover st) s = .next ((s.modStack st (fun x => { x.refresh st s.time with takeover := true, beats := 0 })).logHw
      st 0x0020 0 (wNat st) 0) := by
    refine congrArg Host.Outcome.next ((if_neg ?_).trans ((if_neg ?_).trans (if_pos hdue)))
    · rw [hup]
      exact Bool.false_ne_true
    · rw [hoff]
      exact Bool.false_ne_true
  obtain ⟨v, hv⟩ : ∃ v, v = s.modStack st (fun x => { x.refresh st s.time with takeover := true, beats := 0 }) := ⟨_, rfl⟩
  rw [← hv] at hexec
  have hstack : (v.logHw st 0x0020 0 (wNat st) 0).stack st = { (s.stack st).refresh st s.time with takeover := true, beats := 0 } := by
    rw [(State.logHw_logs v st 0x0020 0 (wNat st) 0).stack st, hv, State.stack_modStack, if_pos rfl]
  have hlog : Logged s (v.logHw st 0x0020 0 (wNat st) 0) st 0x0020 :=
    State.logHw_logged (u := v) (code := 0x0020) (by rw [hv]; rfl) (by decide) _ _ _
  exact ⟨_, hexec, by rw [hstack], by rw [hstack], by rw [hstack]; rfl, hlog⟩

/-- A row at its threshold. -/
theorem execRowActivationThreshold_due {s : State} {st bank row : Nat} (hup : s.stackUp st = true)
    (hdue : (s.stack st).mth ≤ kget 0 (s.stack st).acts (bank * 1048576 + row)) :
    let x := s.stack st
    ∃ t, exec (.rowActivationThreshold st bank row) s = .next t ∧ (t.stack st).alerts = x.alerts + 1 ∧
      kget? (t.stack st).holds bank = some (s.time + 350) ∧
      (∀ r, r < 1048576 → kget 0 (t.stack st).acts (bank * 1048576 + r) =
        if r ≤ row + 2 ∧ row ≤ r + 2 then 0 else kget 0 x.acts (bank * 1048576 + r)) ∧
      (∀ b r, b ≠ bank → r < 1048576 → kget 0 (t.stack st).acts (b * 1048576 + r) = kget 0 x.acts (b * 1048576 + r)) := by
  intro x
  have hexec : exec (.rowActivationThreshold st bank row) s = .next (s.modStack st (fun x => { x with
      alerts := x.alerts + 1, acts := x.acts.filter (fun e => !nearRow bank (bank * 2 ^ 20 + row) e.1),
      holds := kset x.holds bank (s.time + 350) })) :=
    congrArg Host.Outcome.next (if_pos (by rw [hup]; exact decide_eq_true hdue))
  have hstack := (s.stack_modStack st st (fun x => { x with
      alerts := x.alerts + 1, acts := x.acts.filter (fun e => !nearRow bank (bank * 2 ^ 20 + row) e.1),
      holds := kset x.holds bank (s.time + 350) })).trans (if_pos rfl)
  refine ⟨_, hexec, by rw [hstack], ?_, fun r hr => ?_, fun b r hb hr => ?_⟩
  · rw [hstack]
    exact (kget?_kset _ _ _ _).trans (if_pos rfl)
  · rw [hstack]
    refine (kget_filterKey (fun k => !nearRow bank (bank * 2 ^ 20 + row) k) _ _).trans ?_
    rw [nearRow_same hr]
    by_cases h : r ≤ row + 2 ∧ row ≤ r + 2
    · rw [decide_eq_true h, if_pos h]
      rfl
    · rw [decide_eq_false h, if_neg h]
      rfl
  · rw [hstack]
    refine (kget_filterKey (fun k => !nearRow bank (bank * 2 ^ 20 + row) k) _ _).trans ?_
    rw [nearRow_other hb hr]
    rfl

/-! ## The statement -/

/-- A first expiry restarts the firmware. -/
theorem execWatchdogExpiry_first {s : State} {d : Nat} (halive : s.alive d = true) (hdue : (s.die d).wdStart + 100000000 ≤ s.time)
    (hfirst : ∀ t0, (s.die d).wdLast = some t0 → t0 + 1000000000 < s.time) :
    exec (.watchdogExpiry d) s = .next ((s.fwFail d 0).modDie d (fun x => { x with wdLast := some s.time })) :=
  (execWatchdogExpiry_due halive hdue).trans (congrArg Host.Outcome.next (if_neg (by rw [State.wdLast_any hfirst]; exact Bool.false_ne_true)))

/-- A second expiry within 1 s fails the die. -/
theorem execWatchdogExpiry_second {s : State} {d t0 : Nat} (halive : s.alive d = true) (hdue : (s.die d).wdStart + 100000000 ≤ s.time)
    (hlast : (s.die d).wdLast = some t0) (ht : s.time ≤ t0 + 1000000000) :
    exec (.watchdogExpiry d) s = .next ((s.logHw d 0x0001 0 0 (s.core (svc d) .x).pc).failDie d) :=
  (execWatchdogExpiry_due halive hdue).trans (congrArg Host.Outcome.next (if_pos (by rw [hlast]; exact decide_eq_true ht)))

/-- What the restarted firmware and its die show. -/
theorem execWatchdogExpiry_restarts {s : State} {d : Nat} (halive : s.alive d = true) (hdue : (s.die d).wdStart + 100000000 ≤ s.time)
    (hfirst : ∀ t0, (s.die d).wdLast = some t0 → t0 + 1000000000 < s.time) (hno : d ≠ Config.schedDie ∨ s.geode.pending = false) :
    ∃ t, exec (.watchdogExpiry d) s = .next t ∧ Logged s t d 0x0001 ∧
      (t.die d).wdStart = s.time ∧ (t.die d).wdLast = some s.time ∧
      (let r := t.core (svc d) .x;
        r.run = .running ∧ r.pc = wNat (s.fwEntry d) ∧ (r.xreg 2).val = 3 ∧ r.status = 0) ∧ t.geode = s.geode ∧ t.mem = s.mem := by
  obtain ⟨u, hu, hlog, hfail⟩ := State.fwFail_restarts hno 0
  have hexec := execWatchdogExpiry_first halive hdue hfirst
  rw [hfail] at hexec
  have hdie : ((((u.startFw d 3).petDog d).modDie d (fun x => { x with wdLast := some s.time })).die d) =
      { u.die d with wdStart := u.time, wdLast := some s.time } := by
    rw [State.die_modDie_same, State.petDog, State.die_modDie_same]
    rfl
  have hcore : (((u.startFw d 3).petDog d).modDie d (fun x => { x with wdLast := some s.time })).core (svc d) .x = u.fwCore d 3 :=
    u.core_startFw d 3
  refine ⟨_, hexec, fun hf => ?_, by rw [hdie]; exact hu.time, by rw [hdie], ?_, hu.geode, hu.mem⟩
  · rw [hdie]
    exact hlog hf
  · rw [hcore]
    refine ⟨rfl, ?_, (u.fwCore_x d 3).2, rfl⟩
    show wNat (u.fwEntry d) = wNat (s.fwEntry d)
    rw [State.fwEntry, State.fwEntry, hu.geode]

/-- Settles O51: each event's effect by its own lemma above. -/
theorem watchdogsAndRefresh : Obligations.WatchdogsAndRefresh := by
  unfold Obligations.WatchdogsAndRefresh
  intro s
  refine ⟨fun d halive hdue => ⟨fun t0 hlast ht => ?_, fun hfirst => ⟨fun hno => ?_, fun hd hp => ?_⟩⟩, fun t0 hbeat hp => ⟨?_, ?_, ?_⟩,
    fun st hup => ⟨fun hdue => execRefreshInterval_due hup hdue, fun hoff hdue => execRefreshTakeover_begins hup hoff hdue, ?_,
      fun bank row _ hdue => execRowActivationThreshold_due hup hdue⟩, fun st bank t0 hhold => ⟨?_, ?_⟩⟩
  · obtain ⟨hst, hfrozen, -⟩ := (s.logHw d 0x0001 0 0 (s.core (svc d) .x).pc).failDie_shows d
    exact ⟨_, execWatchdogExpiry_second halive hdue hlast ht, hst, hfrozen⟩
  · exact execWatchdogExpiry_restarts halive hdue hfirst hno
  · subst hd
    obtain ⟨u, hu, hfail⟩ := State.fwFail_rolls hp 0
    have hexec := execWatchdogExpiry_first halive hdue hfirst
    rw [hfail] at hexec
    exact ⟨_, hexec, .of_onlyDies hu u.rollback_shows (.modDie _ _ _)⟩
  · intro hdead
    show execHeartbeatTimeout s = _
    unfold execHeartbeatTimeout
    rw [hbeat]
    exact congrArg Host.Outcome.next (if_neg fun h => absurd h.1 (by rw [hdead]; exact Bool.false_ne_true))
  · intro halive hdue
    refine ⟨s.rollback, ?_, s.rollback_shows, s.rollback_logged⟩
    show execHeartbeatTimeout s = _
    unfold execHeartbeatTimeout
    rw [hbeat]
    exact congrArg Host.Outcome.next (if_pos ⟨halive, hp, hdue⟩)
  · intro hearly
    show execHeartbeatTimeout s = _
    unfold execHeartbeatTimeout
    rw [hbeat]
    exact congrArg Host.Outcome.next (if_neg fun h => absurd h.2.2 (Nat.not_le.2 hearly))
  · intro hon hdue
    have hexec : exec (.refreshTakeover st) s = .next (s.modStack st (fun x => x.refresh st s.time)) := by
      refine congrArg Host.Outcome.next ((if_neg ?_).trans ((if_pos hon).trans (if_pos hdue)))
      rw [hup]
      exact Bool.false_ne_true
    exact ⟨_, hexec, (s.stack_modStack st st _).trans (if_pos rfl)⟩
  · intro hdue
    have hexec : exec (.rfmHoldEnd st bank) s = .next (s.modStack st (fun x => { x with holds := kdel x.holds bank })) := by
      show execRfmHoldEnd st bank s = _
      unfold execRfmHoldEnd
      rw [hhold]
      exact congrArg Host.Outcome.next (if_pos hdue)
    refine ⟨_, hexec, ?_⟩
    rw [State.stack_modStack, if_pos rfl]
    exact (kget?_kdel _ _ _).trans (if_pos rfl)
  · intro hearly
    show execRfmHoldEnd st bank s = _
    unfold execRfmHoldEnd
    rw [hhold]
    exact congrArg Host.Outcome.next (if_neg (Nat.not_le.2 hearly))

end Sys2Proof.Machine

end

section
/-! A die that fails during the zero fill: the end of boot leaves its AVAIL as it is (05 R104; 19 R341). -/

namespace Sys2Proof.Machine

/-- Die d keeps its STATE and its AVAIL. -/
def State.SameOffer (d : Nat) (s t : State) : Prop := (t.die d).st = (s.die d).st ∧ (t.die d).avail = (s.die d).avail

namespace State.SameOffer

variable {d : Nat}

theorem refl (s : State) : SameOffer d s s := ⟨rfl, rfl⟩

theorem trans {s t u : State} (h : SameOffer d s t) (h' : SameOffer d t u) : SameOffer d s u := ⟨h'.1.trans h.1, h'.2.trans h.2⟩

theorem of_dies {s t : State} (h : t.dies = s.dies) : SameOffer d s t := by
  unfold SameOffer State.die
  rw [h]
  exact ⟨rfl, rfl⟩

theorem modDie_other (s : State) {j : Nat} (hj : d ≠ j) (f : Die → Die) : SameOffer d s (s.modDie j f) := by
  unfold SameOffer
  rw [State.die_modDie, if_neg hj]
  exact ⟨rfl, rfl⟩

theorem petDog (s : State) (j : Nat) : SameOffer d s (s.petDog j) := by
  unfold SameOffer State.petDog
  rw [State.die_modDie]
  split
  · next hd =>
    rw [hd]
    exact ⟨rfl, rfl⟩
  · exact ⟨rfl, rfl⟩

theorem foldl {α : Type} {f : State → α → State} {l : List α} (hf : ∀ t, ∀ x ∈ l, SameOffer d t (f t x)) (s : State) :
    SameOffer d s (l.foldl f s) :=
  List.foldlRecOn l f (refl s) fun t h x hx => h.trans (hf t x hx)

theorem startDie (s : State) (j : Nat) : SameOffer d s (s.startDie j) := by
  unfold State.startDie
  extract_lets image u
  exact (of_dies (s := s) (t := u.startFw j 0) rfl).trans (petDog _ j)

theorem sendMsg (s : State) (m : Msg) : SameOffer d s (s.sendMsg m) := by
  unfold State.sendMsg
  extract_lets live i
  split
  · exact of_dies rfl
  · exact refl s

theorem sendSched (s : State) (ty dst op : Nat) (w2 : Word) (arg : Nat) (payload : List Byte) (own : Bool) :
    SameOffer d s (s.sendSched ty dst op w2 arg payload own) := by
  unfold State.sendSched
  exact (of_dies (s := s) (t := s.schedSeq.1.bump) rfl).trans (sendMsg _ _)

/-- A die that has failed is none of those that the end of boot offers. -/
theorem bootFinish {s : State} (h : (s.die d).st = 3) : SameOffer d s s.bootFinish := by
  unfold State.bootFinish
  extract_lets a b c e f
  have hc : SameOffer d s c := (of_dies (s := s) (t := b.startFw Config.schedDie 0) rfl).trans (petDog _ _)
  have he : SameOffer d s e := hc.trans (foldl (fun t j _ => startDie t j) c)
  have hf : SameOffer d e f := by
    refine foldl (fun t j hj => modDie_other t ?_ _) e
    rintro rfl
    have hst : (e.die d).st ≠ 3 := bne_iff_ne.1 (List.mem_filter.1 hj).2
    exact hst (he.1.trans h)
  exact (he.trans hf).trans (of_dies rfl)

theorem bootZeroFillDone {s t : State} (hboot : s.geode.boot = .fill) (h : (s.die d).st = 3) (hexec : exec .bootZeroFillDone s = .next t) :
    SameOffer d s t := by
  have hexec' : exec .bootZeroFillDone s = execBootZeroFillDone s := rfl
  unfold execBootZeroFillDone at hexec'
  rw [if_pos hboot] at hexec'
  extract_lets u at hexec'
  obtain rfl := Host.Outcome.next.inj (hexec.symm.trans hexec')
  refine (bootFinish h).trans (foldl (fun v j _ => ?_) u)
  exact sendSched v _ _ _ _ _ _ _

end State.SameOffer

/-- The zero fill is under way and die 0, a compute die with 16 cells and no faulty unit, has failed. -/
def failedDuringFill : State := { dies := [(0, { st := 3 })], geode := { boot := .fill } }

/-- Refutes O50: die 0 fails during the zero fill, by a trip at 115 °C, say. The end of boot starts and offers only the dies that have not
failed, so the AVAIL bits of die 0 stay 0 although none of its cells is faulty. -/
theorem not_managementAndResets : ¬ Obligations.ManagementAndResets := by
  unfold Obligations.ManagementAndResets Resets
  rintro ⟨-, -, -, -, hfill⟩
  obtain ⟨t, hexec, -, -, -, -, havail⟩ := hfill failedDuringFill rfl
  have hoffer := State.SameOffer.bootZeroFillDone (d := 0) (s := failedDuringFill) rfl rfl hexec
  have hbit := havail 0 0 (by decide) (by decide)
  rw [hoffer.2] at hbit
  exact absurd hbit (by decide)

end Sys2Proof.Machine

end

section
/-! Errors of units: how they are counted and logged, what they strike, and the repair of a unit (05 R105; 10 R208; 15 R291, R292; 19 R353). -/

namespace Sys2Proof.Machine

/-! ## What logging and repair leave alone -/

theorem State.Logs.faulty {s t : State} (h : s.Logs t) (j : Nat) : (t.die j).faulty = (s.die j).faulty := by
  obtain ⟨r, n, w, q, hj⟩ := h.die j
  rw [hj]

theorem State.Logs.fullw {s t : State} (h : s.Logs t) (j : Nat) : (t.die j).fullw = (s.die j).fullw := by
  obtain ⟨r, n, w, q, hj⟩ := h.die j
  rw [hj]

/-- No memory, no flag, no cell differs, and no unit that was faulty for good is whole again. -/
structure State.Spared (s t : State) : Prop where
  mem : t.mem = s.mem
  memBad : t.memBad = s.memBad
  hbm : t.hbm = s.hbm
  hbmBad : t.hbmBad = s.hbmBad
  cells : t.cells = s.cells
  faulty : ∀ d, ∀ u ∈ (s.die d).faulty, u ∈ (t.die d).faulty

namespace State.Spared

theorem refl (s : State) : Spared s s := ⟨rfl, rfl, rfl, rfl, rfl, fun _ _ h => h⟩

theorem trans {s t u : State} (h : Spared s t) (h' : Spared t u) : Spared s u :=
  ⟨h'.mem.trans h.mem, h'.memBad.trans h.memBad, h'.hbm.trans h.hbm, h'.hbmBad.trans h.hbmBad, h'.cells.trans h.cells,
    fun d x hx => h'.faulty d x (h.faulty d x hx)⟩

theorem of_logs {s t : State} (h : s.Logs t) : Spared s t :=
  ⟨h.mem, by rw [h.frame], by rw [h.frame], by rw [h.frame], h.cells, fun d x hx => by rw [h.faulty d]; exact hx⟩

theorem foldl {α : Type} {f : State → α → State} (hf : ∀ t x, Spared t (f t x)) (l : List α) (s : State) : Spared s (l.foldl f s) := by
  induction l generalizing s with
  | nil => exact refl s
  | cons x l ih => exact (hf s x).trans (ih _)

theorem modDie (s : State) (d : Nat) {f : Die → Die} (hf : ∀ x : Die, ∀ u ∈ x.faulty, u ∈ (f x).faulty) : Spared s (s.modDie d f) := by
  refine ⟨rfl, rfl, rfl, rfl, rfl, fun j u hu => ?_⟩
  rw [State.die_modDie]
  split
  · next hj => exact hf _ u (hj ▸ hu)
  · exact hu

theorem modBuf (s : State) (h : Nat) (f : Buf → Buf) : Spared s (s.modBuf h f) := by
  obtain ⟨b, hb⟩ := s.modBuf_frame h f
  rw [hb]
  exact ⟨rfl, rfl, rfl, rfl, rfl, fun _ _ h => h⟩

theorem planMoves (s : State) (i : Nat) (l : List Nat) : Spared s (s.planMoves i l).1 := by
  induction l generalizing s with
  | nil => exact refl s
  | cons h hs ih =>
    unfold State.planMoves
    split
    · exact ih s
    · split
      · exact ih s
      · split
        · exact (modBuf s _ _).trans (ih _)
        · split
          next t stuck ht =>
          rw [← show (s.planMoves i hs).1 = t from congrArg (·.1) ht]
          exact ih s

theorem beginCopies (s : State) (i : Nat) : Spared s (s.beginCopies i) := by
  refine foldl (fun t h => ?_) _ s
  split
  · exact refl t
  · exact modBuf _ _ _

theorem repairRow (s : State) (st bank row : Nat) : Spared s (s.repairRow st bank row) := by
  unfold State.repairRow
  split
  · exact ⟨rfl, rfl, rfl, rfl, rfl, fun _ _ h => h⟩
  · extract_lets u hit
    have hu : Spared s u := ⟨rfl, rfl, rfl, rfl, rfl, fun _ _ h => h⟩
    exact (hu.trans (planMoves u _ _)).trans (beginCopies _ _)

theorem fenceSub (s : State) (k i : Nat) : Spared s (s.fenceSub k i) := by
  unfold State.fenceSub
  refine Spared.trans ?_ (of_logs (State.Logs.discCaused _ _))
  exact modDie s _ fun _ _ h => h

theorem retireCell (s : State) (k : Nat) : Spared s (s.retireCell k) := by
  unfold State.retireCell
  extract_lets d
  split
  · refine Spared.trans ?_ (of_logs (State.Logs.discCaused _ _))
    exact modDie s _ fun _ _ h => h
  · exact refl s

/-- The action on a unit that is faulty for good. -/
theorem act (s : State) (u : ErrUnit) : Spared s (match u with
    | .subArray k i => s.fenceSub k i
    | .hbmRow st bank row => s.repairRow st bank row
    | .odsogaLane port _ => s.loseLane port
    | .dieLane _ l _ => s.modLink l (fun x => { x with spares := x.spares + 1 })
    | .cell k => s.retireCell k) := by
  cases u with
  | subArray k i => exact fenceSub s k i
  | hbmRow st bank row => exact repairRow s st bank row
  | odsogaLane port _ => exact ⟨rfl, rfl, rfl, rfl, rfl, fun _ _ h => h⟩
  | dieLane _ l _ => exact ⟨rfl, rfl, rfl, rfl, rfl, fun _ _ h => h⟩
  | cell k => exact retireCell s k

end State.Spared

/-- A unit that has been repaired is faulty for good. -/
theorem State.repair_shows (s : State) (u : ErrUnit) : s.Spared (s.repair u) ∧ u ∈ ((s.repair u).die u.die).faulty := by
  unfold State.repair
  extract_lets d a act b
  split
  · next h => exact ⟨.refl s, List.contains_iff_mem.1 h⟩
  · have ha : s.Spared a := .modDie s _ fun _ _ h => List.mem_append_left _ h
    have hab : a.Spared b := .of_logs (State.logHw_logs _ _ _ _ _ _)
    have hin : u ∈ (a.die d).faulty := by
      rw [State.die_modDie_same]
      exact List.mem_append_right _ (List.mem_singleton.2 rfl)
    have hact := State.Spared.act b u
    exact ⟨(ha.trans hab).trans hact, hact.faulty d u (hab.faulty d u hin)⟩

/-- A sub-array that has become faulty is fenced, and its cell is wide no more. -/
theorem State.repair_fences {s : State} {k i : Nat} (hi : i < 8) (hk : k % 128 < 16) (hnew : ErrUnit.subArray k i ∉ (s.die (k / 128)).faulty) :
    ((s.repair (.subArray k i)).die (k / 128)).fence.getLsbD (8 * (k % 128) + i) = true ∧
      ((s.repair (.subArray k i)).die (k / 128)).fullw.getLsbD (k % 128) = false := by
  unfold State.repair
  extract_lets d a act b
  rw [show d = k / 128 from rfl, if_neg (fun h => hnew (List.contains_iff_mem.1 h))]
  dsimp only
  unfold State.fenceSub
  have hlogs := State.Logs.discCaused (b.modDie (k / 128) (fun d => { d with
    fence := d.fence ||| BitVec.ofNat 128 (2 ^ (8 * (k % 128) + i)), fullw := setBit d.fullw (k % 128) false })) (k / 128)
  rw [hlogs.fence, hlogs.fullw, State.die_modDie_same]
  constructor
  · rw [BitVec.getLsbD_or, BitVec.getLsbD_ofNat, Nat.testBit_two_pow_self, decide_eq_true (show 8 * (k % 128) + i < 128 by omega)]
    exact Bool.or_true _
  · rw [setBit, if_neg Bool.false_ne_true, BitVec.getLsbD_and, BitVec.getLsbD_not, BitVec.getLsbD_ofNat, Nat.testBit_two_pow_self,
      decide_eq_true (show k % 128 < 32 by omega)]
    exact Bool.and_false _

/-! ## Counting (19 R353) -/

/-- An error is one more of those of its unit within 600 s. -/
theorem State.countError_shows (s : State) (u : ErrUnit) :
    (s.countError u).1.OnlyDies s ∧
    (s.countError u).2 = ((s.die u.die).errs.filter (fun e => e.1 == u && decide (s.time < e.2 + 600000000000))).length + 1 ∧
    (∃ l, ((s.countError u).1.die u.die) = { s.die u.die with errs := l }) ∧
    ∀ d, ((s.countError u).1.die d).faulty = (s.die d).faulty := by
  unfold State.countError
  extract_lets d a
  have ha : a.die d = { s.die d with errs := (s.die d).errs.filter (fun e => s.time < e.2 + 600000000000) ++ [(u, s.time)] } :=
    s.die_modDie_same d _
  refine ⟨rfl, ?_, ⟨_, ha⟩, fun j => ?_⟩
  rotate_left
  · show (a.die j).faulty = _
    rw [State.die_modDie]
    split
    · next hj => rw [hj]
    · rfl
  show ((a.die d).errs.filter (fun e => e.1 == u)).length = _
  rw [ha]
  dsimp only
  rw [List.filter_append, List.filter_filter, List.length_append]
  refine congrArg₂ (· + ·) rfl ?_
  rw [List.filter_singleton, beq_self_eq_true]
  rfl

theorem State.logUnit_logs (s : State) (d code : Nat) (u : List Nat) (w : Word) : s.Logs (s.logUnit d code u w) := State.logHw_logs _ _ _ _ _ _

/-- A record of a die whose errors alone have been counted since. -/
theorem State.logUnit_logged {s v : State} {d : Nat} {l : List (ErrUnit × Nat)} (hv : v.die d = { s.die d with errs := l }) {code : Nat}
    (hcode : code < 2 ^ 16) (u : List Nat) (w : Word) : Logged s (v.logUnit d code u w) d code := by
  have h : Logged v (v.logUnit d code u w) d code := State.logHw_logged rfl hcode _ _ _
  unfold Logged at h ⊢
  rw [hv] at h
  exact h

/-- An error of a unit has been counted and logged under a code; nothing is faulty for good by that alone. -/
structure State.Counted (s t : State) (u : ErrUnit) (code : Nat) : Prop where
  logged : Logged s t u.die code
  faulty : ∀ d, (t.die d).faulty = (s.die d).faulty
  mem : t.mem = s.mem
  memBad : t.memBad = s.memBad
  hbm : t.hbm = s.hbm
  hbmBad : t.hbmBad = s.hbmBad

/-- The record of an error, the cells changed or not since it was counted. -/
theorem State.Counted.logUnit (s : State) (u : ErrUnit) (c : KMap Cell) {code : Nat} (hcode : code < 2 ^ 16) (w : Word) :
    State.Counted s (({ (s.countError u).1 with cells := c } : State).logUnit u.die code u.nums w) u code ∧
      (({ (s.countError u).1 with cells := c } : State).logUnit u.die code u.nums w).cells = c := by
  obtain ⟨hv, -, ⟨l, hl⟩, hf⟩ := s.countError_shows u
  obtain ⟨v, hvd⟩ : ∃ v, v = ({ (s.countError u).1 with cells := c } : State) := ⟨_, rfl⟩
  rw [← hvd]
  have hdie : v.die u.die = { s.die u.die with errs := l } := by
    rw [hvd]
    exact hl
  have hfaulty : ∀ d, (v.die d).faulty = (s.die d).faulty := by
    intro d
    rw [hvd]
    exact hf d
  have hlogs : v.Logs (v.logUnit u.die code u.nums w) := State.logHw_logs _ _ _ _ _ _
  refine ⟨⟨State.logUnit_logged hdie hcode _ _, fun d => (hlogs.faulty d).trans (hfaulty d), ?_, ?_, ?_, ?_⟩, ?_⟩
  · rw [hlogs.frame, hvd]
    rfl
  · rw [hlogs.frame, hvd]
    rfl
  · rw [hlogs.frame, hvd]
    rfl
  · rw [hlogs.frame, hvd]
    rfl
  · rw [hlogs.cells, hvd]

/-- A correctable error before any repair: the count, the cell's errors and the record. -/
theorem State.corrected_eq (s : State) (u : ErrUnit) :
    ∃ w, s.Counted w u 0x0010 ∧ (∀ k, u.cell? = some k → (w.cell k).errors = (s.cell k).errors + 1) ∧
      s.corrected u = if 3 ≤ ((s.die u.die).errs.filter (fun e => e.1 == u && decide (s.time < e.2 + 600000000000))).length + 1
        then w.repair u else w := by
  obtain ⟨-, hn, -⟩ := s.countError_shows u
  obtain ⟨v, hv⟩ : ∃ v, v = (s.countError u).1 := ⟨_, rfl⟩
  have heq : s.corrected u = if 3 ≤ (s.countError u).2 then ((match u.cell? with
      | some k => v.modCell k (fun c => { c with errors := c.errors + 1 })
      | none => v).logUnit u.die 0x0010 u.nums (wNat (s.countError u).2)).repair u
    else (match u.cell? with
      | some k => v.modCell k (fun c => { c with errors := c.errors + 1 })
      | none => v).logUnit u.die 0x0010 u.nums (wNat (s.countError u).2) := by
    rw [hv]
    rfl
  rw [heq, ← hn]
  refine ⟨_, ?_, ?_, rfl⟩
  · cases u.cell? with
    | some k =>
      rw [hv]
      exact (State.Counted.logUnit s u _ (by decide) _).1
    | none =>
      rw [hv]
      exact (State.Counted.logUnit s u (s.countError u).1.cells (by decide) _).1
  · intro k hk
    rw [hk]
    dsimp only
    rw [(State.logUnit_logs _ _ _ _ _).cell, State.modCell, State.cell_setCell, if_pos rfl, hv]
    rfl

/-- An uncorrectable error: what is counted and logged before it strikes. -/
theorem execUncorrectableError_eq (s : State) (p : ErrPlace) :
    ∃ w, s.Counted w (s.unitOf p) 0x0011 ∧ w.cells = s.cells ∧ exec (.uncorrectableError p) s = .next ((w.strike p).repair (s.unitOf p)) := by
  obtain ⟨h, hc⟩ := State.Counted.logUnit s (s.unitOf p) (s.countError (s.unitOf p)).1.cells (code := 0x0011) (by decide)
    (wNat (s.countError (s.unitOf p)).2)
  exact ⟨_, h, hc, rfl⟩

theorem errors : Errors := by
  unfold Errors
  intro s
  refine ⟨fun u => ?_, ?_, ?_, ?_, ?_, ?_, ?_⟩
  · obtain ⟨w, hw, hcell, heq⟩ := s.corrected_eq u
    have hexec : exec (.correctableError u) s = .next (s.corrected u) := rfl
    rw [heq] at hexec
    refine ⟨fun hold => ?_, fun hold => ?_, fun k i hu hi hk hnew hold => ?_⟩
    · rw [if_neg (by omega)] at hexec
      exact ⟨w, hexec, hw.logged, hw.faulty _, hw.mem, hcell⟩
    · rw [if_pos (by omega)] at hexec
      obtain ⟨hspared, hin⟩ := w.repair_shows u
      exact ⟨_, hexec, hin, hspared.mem.trans hw.mem⟩
    · rw [if_pos (by omega)] at hexec
      subst hu
      exact ⟨_, hexec, State.repair_fences hi hk (by rw [hw.faulty]; exact hnew)⟩
  · intro k c j hj hj0
    obtain ⟨w, hw, hcells, hexec⟩ := execUncorrectableError_eq s (.xreg k c j)
    obtain ⟨hspared, hin⟩ := (w.strike (.xreg k c j)).repair_shows (.cell k)
    have hstrike : w.strike (.xreg k c j) = w.modCore k c (fun r => { r with x := vset r.x j { r.xreg j with poison := true } }) :=
      if_neg hj0
    have hcore : (((w.strike (.xreg k c j)).repair (.cell k)).core k c) =
        { s.core k c with x := vset (s.core k c).x j { (s.core k c).xreg j with poison := true } } := by
      have h1 : ((w.strike (.xreg k c j)).repair (.cell k)).core k c = (w.strike (.xreg k c j)).core k c := by
        rw [State.core, State.bank, State.cell, hspared.cells]
        rfl
      have h2 : w.core k c = s.core k c := by
        rw [State.core, State.bank, State.cell, hcells]
        rfl
      rw [h1, hstrike, State.core_modCore_same, h2]
    refine ⟨_, hexec, ?_, fun i hi => ?_, hin⟩
    · show (State.core _ k c).xreg j = _
      rw [show (State.core ((w.strike (.xreg k c j)).repair (s.unitOf (.xreg k c j))) k c) = _ from hcore]
      exact (vget_vset _ _ _ _ _).trans (if_pos ⟨rfl, hj⟩)
    · rw [show (State.core ((w.strike (.xreg k c j)).repair (s.unitOf (.xreg k c j))) k c) = _ from hcore]
      exact (vget_vset _ _ _ _ _).trans (if_neg fun h => hi h.1.symm)
  · intro k g
    obtain ⟨w, hw, hcells, hexec⟩ := execUncorrectableError_eq s (.scratch k g)
    obtain ⟨hspared, hin⟩ := (w.strike (.scratch k g)).repair_shows (.cell k)
    refine ⟨_, hexec, ?_, hspared.mem.trans hw.mem, hin⟩
    rw [show (State.memBad ((w.strike (.scratch k g)).repair (s.unitOf (.scratch k g)))) = _ from hspared.memBad]
    have hg : (padBase k + 64 * g) / 64 = padBase k / 64 + g := by
      rw [Nat.add_mul_div_left _ _ (by decide)]
    show nsHas (nsAdd w.memBad ((padBase k + 64 * g) / 64)) _ = true
    rw [hg, nsHas_nsAdd, decide_eq_true rfl, Bool.true_or]
  · intro k t' seg
    obtain ⟨w, hw, hcells, hexec⟩ := execUncorrectableError_eq s (.tileSeg k t' seg)
    obtain ⟨hspared, hin⟩ := (w.strike (.tileSeg k t' seg)).repair_shows (.cell k)
    refine ⟨_, hexec, ?_, hspared.mem.trans hw.mem, hin⟩
    rw [show (State.memBad ((w.strike (.tileSeg k t' seg)).repair (s.unitOf (.tileSeg k t' seg)))) = _ from hspared.memBad]
    show nsHas (nsAdd w.memBad _) _ = true
    rw [nsHas_nsAdd, decide_eq_true rfl, Bool.true_or]
  · intro k u v seg
    obtain ⟨w, hw, hcells, hexec⟩ := execUncorrectableError_eq s (.vseg k u v seg)
    obtain ⟨hspared, hin⟩ := (w.strike (.vseg k u v seg)).repair_shows (.cell k)
    refine ⟨_, hexec, ?_, hspared.mem.trans hw.mem, hin⟩
    rw [show (State.memBad ((w.strike (.vseg k u v seg)).repair (s.unitOf (.vseg k u v seg)))) = _ from hspared.memBad]
    show nsHas (nsAdd w.memBad _) _ = true
    rw [nsHas_nsAdd, decide_eq_true rfl, Bool.true_or]
  · intro h g
    obtain ⟨w, hw, hcells, hexec⟩ := execUncorrectableError_eq s (.hbm h g)
    obtain ⟨st, bank, row, hu⟩ : ∃ st bank row, s.unitOf (.hbm h g) = .hbmRow st bank row := ⟨_, _, _, rfl⟩
    rw [hu] at hexec
    obtain ⟨hspared, hin⟩ := (w.strike (.hbm h g)).repair_shows (.hbmRow st bank row)
    refine ⟨_, hexec, ?_, hspared.hbm.trans hw.hbm, st, bank, row, hin⟩
    rw [hspared.hbmBad]
    show nsHas (nsAdd w.hbmBad _) _ = true
    rw [nsHas_nsAdd, decide_eq_true rfl, Bool.true_or]
  · intro k c code t0 hpriv hheld habsent htask hspec hending
    obtain ⟨w, hw, hcells, hexec⟩ := execUncorrectableError_eq s (.control k c code)
    obtain ⟨hspared, hin⟩ := (w.strike (.control k c code)).repair_shows (.cell k)
    have hbank : w.bank k = s.bank k := by
      rw [State.bank, State.cell, hcells]
      rfl
    have hcore : w.core k c = s.core k c := congrArg (Bank.core · c) hbank
    have hstrike : w.strike (.control k c code) = w.setBank k
        { (w.bank k).stopCores with ending := some ⟨c, cCHECK, wNat code, (w.core k c).pc, 0⟩ } := by
      show w.machineCheck k c code = _
      unfold State.machineCheck
      rw [hcore, if_neg (not_or.2 ⟨hheld, habsent⟩), if_neg (by rw [hpriv]; exact Bool.false_ne_true), ← hcore]
      unfold State.endTask
      dsimp only
      rw [hbank, htask]
      dsimp only
      rw [if_neg (by rw [hspec]; exact Bool.false_ne_true), hending, if_neg (by decide)]
    refine ⟨_, hexec, ?_, ?_, hin⟩
    · have hb : ((w.strike (.control k c code)).repair (.cell k)).bank k = (w.strike (.control k c code)).bank k := by
        rw [State.bank, State.cell, hspared.cells]
        rfl
      rw [show (State.bank ((w.strike (.control k c code)).repair (s.unitOf (.control k c code))) k) = _ from hb, hstrike, hcore, State.bank_setBank_same]
      rfl
    · refine hspared.mem.trans ?_
      rw [hstrike]
      exact hw.mem

end Sys2Proof.Machine

end

section
/-! The limits of dies and islands: a stack that fails, the package cap, and the temperature limits (17 R334; 22 R376, R377). -/

namespace Sys2Proof.Machine

/-! ## Where a buffer can move -/

theorem State.onlineStacks_congr {s t : State} (hpop : t.pop = s.pop) (hst : ∀ d, (t.die d).st = (s.die d).st) : t.onlineStacks = s.onlineStacks := by
  unfold State.onlineStacks State.cls
  refine List.filter_congr fun i _ => ?_
  rw [hpop, hst]

theorem State.placeOn_congr {s t : State} (hpop : t.pop = s.pop) (hst : ∀ d, (t.die d).st = (s.die d).st) (hbufs : t.bufs = s.bufs)
    (hstacks : t.hbmStacks = s.hbmStacks) (b : Buf) : t.placeOn b = s.placeOn b := by
  unfold State.placeOn State.stackUsed State.stack
  rw [State.onlineStacks_congr hpop hst, hpop, hbufs, hstacks]

/-- Where a buffer can move is a matter of the stacks, of what stands on them, and of which dies are online. -/
theorem State.newHomes_congr {s t : State} (hpop : t.pop = s.pop) (hst : ∀ d, (t.die d).st = (s.die d).st) (hbufs : t.bufs = s.bufs)
    (hstacks : t.hbmStacks = s.hbmStacks) (b : Buf) (i : Nat) : t.newHomes b i = s.newHomes b i := by
  have hplace : ∀ c, ({ t with bufs := kdel t.bufs (b.handle % 2 ^ 24) } : State).placeOn c =
      ({ s with bufs := kdel s.bufs (b.handle % 2 ^ 24) } : State).placeOn c :=
    State.placeOn_congr (t := { t with bufs := kdel t.bufs (b.handle % 2 ^ 24) }) (s := { s with bufs := kdel s.bufs (b.handle % 2 ^ 24) })
      hpop hst (by rw [hbufs]) hstacks
  unfold State.newHomes
  simp only [State.onlineStacks_congr hpop hst, hplace]

/-! ## Leases -/

theorem State.leased_congr {s t : State} (hnodes : t.sched.nodes = s.sched.nodes) (hcells : t.cells = s.cells) (h : Nat) : t.leased h = s.leased h := by
  unfold State.leased State.heldLeases
  rw [hnodes, hcells]

theorem State.modBuf_leased (s : State) (j : Nat) (f : Buf → Buf) (h : Nat) : (s.modBuf j f).leased h = s.leased h := by
  obtain ⟨b, hb⟩ := s.modBuf_frame j f
  rw [hb]
  exact State.leased_congr rfl rfl h

/-- With no node in the table and no task on a cell nothing is leased. -/
theorem State.leased_idle {s : State} (hnodes : s.sched.nodes = []) (hcells : ∀ e ∈ s.cells, e.2.tasks = []) (h : Nat) : s.leased h = false := by
  have hnone : ∀ p, s.heldLeases 8192 p = [] := by
    intro p
    unfold State.heldLeases
    rw [hnodes, List.flatMap_eq_nil_iff.2 fun e he => by rw [hcells e he]; rfl]
    rfl
  unfold State.leased
  rw [hnone, hnone]
  rfl

/-! ## Descriptors -/

/-- The live descriptor after a change that leaves it live. -/
theorem State.buf?_modBuf_set {s : State} {h : Nat} {b : Buf} (hb : s.buf? h = some b) {f : Buf → Buf} (hh : (f b).handle = h)
    (hst : (f b).st ≠ .free) : (s.modBuf h f).buf? h = some (f b) := by
  have hmod : (s.modBuf h f).bufs = kset s.bufs (h % 2 ^ 24) (f b) := by
    unfold State.modBuf
    rw [hb]
  unfold State.buf?
  rw [hmod, kget?_kset, if_pos rfl]
  exact if_pos ⟨hh, hst⟩

/-- A change of another buffer's descriptor. -/
theorem State.buf?_modBuf_other (s : State) {h j : Nat} (hj : j ≠ h) {f : Buf → Buf} (hf : ∀ b, (f b).handle = b.handle) :
    (s.modBuf j f).buf? h = s.buf? h := by
  unfold State.modBuf
  cases hb : s.buf? j with
  | none => rfl
  | some b =>
    unfold State.buf? at hb ⊢
    dsimp only
    rw [kget?_kset]
    by_cases hkey : h % 2 ^ 24 = j % 2 ^ 24
    · rw [if_pos hkey, hkey]
      split at hb
      · next c hc =>
        split at hb
        · next hlive =>
          obtain rfl := Option.some.inj hb
          rw [hf]
          rw [if_neg fun hx => hj (hlive.1.symm.trans hx.1), if_neg fun hx => hj (hlive.1.symm.trans hx.1)]
        · exact absurd hb.symm (Option.some_ne_none b)
      · exact absurd hb.symm (Option.some_ne_none b)
    · rw [if_neg hkey]

theorem mem_kset_self {α : Type} (m : KMap α) (i : Nat) (v : α) : (i, v) ∈ kset m i v :=
  mem_of_kget? ((kget?_kset m i i v).trans (if_pos rfl))

/-- What stands in the table after a change of a live descriptor. -/
theorem State.mem_modBuf {s : State} {h : Nat} {b : Buf} (hb : s.buf? h = some b) (f : Buf → Buf) :
    (h % 2 ^ 24, f b) ∈ (s.modBuf h f).bufs ∧ ∀ e ∈ (s.modBuf h f).bufs, e = (h % 2 ^ 24, f b) ∨ e ∈ s.bufs := by
  have hmod : (s.modBuf h f).bufs = kset s.bufs (h % 2 ^ 24) (f b) := by
    unfold State.modBuf
    rw [hb]
  rw [hmod]
  exact ⟨mem_kset_self _ _ _, fun e he => mem_of_mem_kset he⟩

theorem State.buf?_handle {s : State} {h : Nat} {b : Buf} (hb : s.buf? h = some b) : b.handle = h ∧ (h % 2 ^ 24, b) ∈ s.bufs := by
  unfold State.buf? at hb
  split at hb
  · next c hc =>
    split at hb
    · next hl =>
      obtain rfl := Option.some.inj hb
      exact ⟨hl.1, mem_of_kget? hc⟩
    · exact absurd hb.symm (Option.some_ne_none b)
  · exact absurd hb.symm (Option.some_ne_none b)

/-! ## Copies off a stack -/

/-- The buffers of stack i whose copies can begin, leases aside. -/
def State.copyable (s : State) (i : Nat) : List Nat :=
  (s.bufs.filter (fun e => e.2.homes.getLsbD i && e.2.toHomes != 0 && e.2.st == .live)).map (fun e => e.2.handle)

/-- The copy of a buffer under no lease begins. -/
def State.beginCopy (s : State) (h : Nat) : State := if s.leased h then s else s.modBuf h (fun b => { b with st := .evacuating })

theorem State.beginCopies_eq (s : State) (i : Nat) : s.beginCopies i = (s.copyable i).foldl State.beginCopy s := rfl

theorem State.beginCopy_other (s : State) {h j : Nat} (hj : j ≠ h) : (s.beginCopy j).buf? h = s.buf? h ∧ (s.beginCopy j).leased h = s.leased h := by
  unfold State.beginCopy
  split
  · exact ⟨rfl, rfl⟩
  · exact ⟨s.buf?_modBuf_other hj fun _ => rfl, s.modBuf_leased _ _ _⟩

/-- A buffer whose copy cannot begin stays as it is. -/
theorem State.beginCopies_other {s : State} {i h : Nat} (hno : h ∉ s.copyable i) : (s.beginCopies i).buf? h = s.buf? h := by
  rw [State.beginCopies_eq]
  refine List.foldlRecOn (motive := fun (t : State) => t.buf? h = s.buf? h) _ _ rfl fun t ht j hj => ?_
  exact (t.beginCopy_other (fun (hjh : j = h) => hno (by rw [← hjh]; exact hj))).1.trans ht

/-- The copies of some buffers begin: one under no lease is evacuating if it is among them. -/
theorem State.foldl_beginCopy {h : Nat} (l : List Nat) {s : State} {b : Buf} (hfree : s.leased h = false) (hb : s.buf? h = some b) :
    (l.foldl State.beginCopy s).buf? h = some (if h ∈ l then { b with st := .evacuating } else b) := by
  induction l generalizing s b with
  | nil => exact hb
  | cons j l ih =>
    by_cases hj : j = h
    · subst hj
      have hcopy : s.beginCopy j = s.modBuf j (fun b => { b with st := .evacuating }) := if_neg (by rw [hfree]; exact Bool.false_ne_true)
      obtain ⟨hhandle, -⟩ := State.buf?_handle hb
      have hb' : (s.beginCopy j).buf? j = some { b with st := .evacuating } := by
        rw [hcopy]
        exact State.buf?_modBuf_set hb (f := fun b => { b with st := .evacuating }) hhandle (show BufState.evacuating ≠ .free by decide)
      rw [List.foldl_cons, ih (by rw [hcopy, State.modBuf_leased, hfree]) hb', if_pos List.mem_cons_self]
      split <;> rfl
    · obtain ⟨hbuf, hleased⟩ := s.beginCopy_other hj
      rw [List.foldl_cons, ih (hleased.trans hfree) (hbuf.trans hb)]
      have hiff : h ∈ j :: l ↔ h ∈ l := List.mem_cons.trans (or_iff_right fun e => hj e.symm)
      simp only [hiff]

/-- One under no lease is evacuating. -/
theorem State.beginCopies_begins {s : State} {i h : Nat} {b : Buf} (hb : s.buf? h = some b) (hin : h ∈ s.copyable i) (hfree : s.leased h = false) :
    (s.beginCopies i).buf? h = some { b with st := .evacuating } := by
  rw [State.beginCopies_eq, State.foldl_beginCopy _ hfree hb, if_pos hin]

/-! ## A stack from which one buffer leaves -/

/-- A buffer that has nowhere to go is lost. -/
theorem State.clearStack_loses {s : State} {i h : Nat} {b : Buf} (hon : s.buffersOn i = [h]) (hb : s.buf? h = some b)
    (huniq : ∀ e ∈ s.bufs, e.2.handle = h → e.2 = b) (hto : b.toHomes = 0) (hasids : s.sched.asids = []) (hnone : s.newHomes b i = none) :
    ∃ b', (s.clearStack i).buf? h = some b' ∧ b'.st = .lost := by
  have hplan : s.planMoves i [h] = (s, [h]) := by
    unfold State.planMoves
    rw [hb]
    dsimp only
    rw [if_neg fun hx => hx.1 hto, hnone]
    rfl
  have hclear : s.clearStack i = (s.loseBuf h).beginCopies i := by
    unfold State.clearStack
    rw [hon, hplan]
    rfl
  have hlose : s.loseBuf h = s.modBuf h (fun b => { b with st := .lost, toHomes := 0 }) := by
    unfold State.loseBuf
    extract_lets u
    have hu : u.sched.asids = [] := by
      obtain ⟨x, hx⟩ := s.modBuf_frame h (fun b => { b with st := .lost, toHomes := 0 })
      show (s.modBuf h _).sched.asids = []
      rw [hx]
      exact hasids
    rw [hu]
    rfl
  obtain ⟨hhandle, -⟩ := State.buf?_handle hb
  have hlost := State.buf?_modBuf_set hb (f := fun b => { b with st := .lost, toHomes := 0 }) hhandle (show BufState.lost ≠ .free by decide)
  obtain ⟨-, hmem⟩ := State.mem_modBuf hb (fun b => { b with st := .lost, toHomes := 0 })
  rw [hclear, hlose]
  refine ⟨_, (State.beginCopies_other fun hin => ?_).trans hlost, rfl⟩
  obtain ⟨e, he, heh⟩ := List.mem_map.1 hin
  obtain ⟨hein, hef⟩ := List.mem_filter.1 he
  rw [Bool.and_eq_true, Bool.and_eq_true, bne_iff_ne, beq_iff_eq] at hef
  obtain rfl | hold := hmem e hein
  · exact absurd (show BufState.lost = .live from hef.2) (by decide)
  · rw [huniq e hold heh] at hef
    exact hef.1.2 hto

/-- A buffer that has somewhere to go, and is under no lease, begins its copy. -/
theorem State.clearStack_moves {s : State} {i h : Nat} {b : Buf} {hs : BitVec 16} (hon : s.buffersOn i = [h]) (hb : s.buf? h = some b)
    (huniq : ∀ e ∈ s.bufs, e.2.handle = h → e.2 = b) (hto : b.toHomes = 0) (hfree : s.leased h = false) (hsome : s.newHomes b i = some hs)
    (hne : hs ≠ 0) : ∃ b', (s.clearStack i).buf? h = some b' ∧ b'.st = .evacuating ∧ b'.toHomes = hs := by
  have hplan : s.planMoves i [h] = (s.modBuf h (fun b => { b with toHomes := hs }), []) := by
    unfold State.planMoves
    rw [hb]
    dsimp only
    rw [if_neg fun hx => hx.1 hto, hsome]
    rfl
  have hclear : s.clearStack i = (s.modBuf h (fun b => { b with toHomes := hs })).beginCopies i := by
    unfold State.clearStack
    rw [hon, hplan]
    rfl
  obtain ⟨hhandle, -⟩ := State.buf?_handle hb
  obtain ⟨hmem, -⟩ := State.mem_modBuf hb (fun b => { b with toHomes := hs })
  have hkept := State.buf?_modBuf hb (f := fun b => { b with toHomes := hs }) rfl rfl
  have hfrom : b.homes.getLsbD i = true ∧ (b.st = .live ∨ b.st = .evacuating) := by
    have hin : h ∈ s.buffersOn i := hon ▸ List.mem_singleton.2 rfl
    obtain ⟨e, he, heh⟩ := List.mem_map.1 hin
    obtain ⟨hein, hef⟩ := List.mem_filter.1 he
    rw [huniq e hein heh, hto, show (0 : BitVec 16).getLsbD i = false from BitVec.getLsbD_zero, Bool.or_false, Bool.and_eq_true, Bool.or_eq_true, beq_iff_eq, beq_iff_eq] at hef
    exact hef
  rw [hclear]
  by_cases hin : h ∈ (s.modBuf h (fun b => { b with toHomes := hs })).copyable i
  · exact ⟨_, State.beginCopies_begins hkept hin (by rw [State.modBuf_leased, hfree]), rfl, rfl⟩
  · refine ⟨_, (State.beginCopies_other hin).trans hkept, hfrom.2.resolve_left fun hlive => hin ?_, rfl⟩
    refine List.mem_map.2 ⟨_, List.mem_filter.2 ⟨hmem, ?_⟩, hhandle⟩
    rw [Bool.and_eq_true, Bool.and_eq_true, bne_iff_ne, beq_iff_eq]
    exact ⟨⟨hfrom.1, hne⟩, hlive⟩

/-! ## The failure of a stack's die -/

theorem stopFw_tasks (s : State) (d : Nat) (hcells : s.cells = []) : ∀ e ∈ (s.stopFw d).cells, e.2.tasks = [] ∧ isService e.1 = true := by
  intro e he
  have hcell : s.cell (svc d) = Cell.reset := by
    unfold State.cell
    rw [hcells]
    rfl
  have hset : (s.stopFw d).cells = kset s.cells (svc d) { s.cell (svc d) with
      b := (s.bank (svc d)).setCore .x { s.core (svc d) .x with run := .held } } := rfl
  rw [hset, hcells] at he
  obtain rfl | he := mem_of_mem_kset he
  · refine ⟨?_, ?_⟩
    · rw [State.bank, hcell]
      rfl
    · have hmod : svc d % 128 = 127 := by unfold svc; omega
      show (svc d % 128 == 127) = true
      rw [hmod]
      rfl
  · exact absurd he List.not_mem_nil

/-- The failure of a stack's die, where nothing runs and no ASID has been created: its buffers leave it at once. -/
theorem State.failDie_stack {s : State} {d : Nat} (hcls : Config.dieClass s.pop d = 7) (hcells : s.cells = []) (hnodes : s.sched.nodes = [])
    (hasids : s.sched.asids = []) :
    ∃ v : State, s.failDie d = v.clearStack (d - 32) ∧ v.bufs = s.bufs ∧ v.pop = s.pop ∧ v.hbmStacks = s.hbmStacks ∧ v.sched.asids = [] ∧
      (∀ h, v.leased h = false) ∧ ∀ j, (v.die j).st = ((s.modDie d (fun x => { x with st := 3 })).die j).st := by
  have hoff : s.takeOff d 3 = s.modDie d (fun x => { x with st := 3, avail := 0 }) := by
    unfold State.takeOff State.runsOn
    rw [hnodes]
    rfl
  obtain ⟨a, ha⟩ : ∃ a, a = s.modDie d (fun x => { x with st := 3, avail := 0 }) := ⟨_, rfl⟩
  obtain ⟨b, hb⟩ : ∃ b, b = (a.discCaused d).freeze d := ⟨_, rfl⟩
  have hlogs := State.Logs.discCaused a d
  have hstop := stopFw_tasks b d (by rw [hb]; exact hlogs.cells.trans (by rw [ha]; exact hcells))
  have hchecked : (b.stopFw d).checkCells (fun k => k / 128 == d) 5 = b.stopFw d := by
    unfold State.checkCells
    rw [List.filter_eq_nil_iff.2 fun e he => by rw [(hstop e he).2]; exact Bool.false_ne_true]
    rfl
  have hfail : s.failDie d = (b.stopFw d).clearStack (d - 32) := by
    unfold State.failDie
    rw [hcls, if_neg (by decide), if_pos rfl, if_neg (by decide), hoff, ← ha, ← hb, hchecked]
  have hframe : (a.discCaused d).bufs = s.bufs ∧ (a.discCaused d).pop = s.pop ∧ (a.discCaused d).hbmStacks = s.hbmStacks ∧
      (a.discCaused d).sched.asids = s.sched.asids ∧ (a.discCaused d).sched.nodes = s.sched.nodes := by
    rw [hlogs.frame, ha]
    exact ⟨rfl, rfl, rfl, rfl, rfl⟩
  obtain ⟨hbufs, hpop, hstacks, has, hno⟩ := hframe
  refine ⟨b.stopFw d, hfail, by rw [hb]; exact hbufs, by rw [hb]; exact hpop, by rw [hb]; exact hstacks, by rw [hb]; exact has.trans hasids,
    fun h => State.leased_idle (by rw [hb]; exact hno.trans hnodes) (fun e he => (hstop e he).1) h, fun j => ?_⟩
  have hfrozen : ((b.stopFw d).die j).st = ((a.discCaused d).die j).st := by
    rw [hb]
    show (((a.discCaused d).freeze d).die j).st = _
    rw [State.freeze, State.die_modDie]
    split
    · next hj => rw [hj]
    · rfl
  rw [hfrozen, (State.SameDies.discCaused a d j).st, ha, State.die_modDie, State.die_modDie]
  split <;> rfl

/-! ## Islands -/

theorem State.island_modIsland (s : State) (i j : Nat) (f : Island → Island) : (s.modIsland i f).island j = if j = i then f (s.island i) else s.island j :=
  kget_kset _ _ _ _ _

/-- The slots from 22 on hold no compute die. -/
theorem dieClass_of_ge (p : Config.Pop) {i : Nat} (hi : 22 ≤ i) : Config.dieClass p i = 0 ∨ 4 < Config.dieClass p i := by
  unfold Config.dieClass
  rw [if_neg (by omega), if_neg (by omega), if_neg (by omega), if_neg (by omega)]
  split
  · exact .inr (by decide)
  · split
    · exact .inr (by decide)
    · split
      · cases p with
        | l => exact .inr (show 4 < 7 by decide)
        | m =>
          dsimp only
          split
          · exact .inr (by decide)
          · exact .inl rfl
        | s =>
          dsimp only
          split
          · exact .inr (by decide)
          · exact .inl rfl
      · exact .inl rfl

/-- A compute island is one of the first 22, none of them the scheduler die's. -/
theorem State.computeIsland_lt {s : State} {i : Nat} (h : s.computeIsland i = true) : i < 22 := by
  unfold State.computeIsland at h
  rw [Bool.and_eq_true, decide_eq_true_eq, decide_eq_true_eq] at h
  by_contra hi
  have := dieClass_of_ge s.pop (i := i) (by omega)
  omega

/-- One step of a limit on each island of a list without repetitions. -/
theorem State.foldl_modIsland (f : State → Island → Island) (hf : ∀ s i g, f (State.modIsland s i g) = f s) :
    ∀ (l : List Nat), l.Nodup → ∀ (s : State) (j : Nat),
      (l.foldl (fun u i => u.modIsland i (f u)) s).island j = if j ∈ l then f s (s.island j) else s.island j := by
  intro l
  induction l with
  | nil => exact fun _ s j => (if_neg List.not_mem_nil).symm
  | cons i l ih =>
    intro hnd s j
    obtain ⟨hi, hnd'⟩ := List.nodup_cons.1 hnd
    rw [List.foldl_cons, ih hnd', hf, State.island_modIsland]
    by_cases hj : j = i
    · subst hj
      rw [if_neg hi, if_pos rfl, if_pos List.mem_cons_self]
    · rw [if_neg hj]
      have hiff : j ∈ i :: l ↔ j ∈ l := List.mem_cons.trans (or_iff_right hj)
      simp only [hiff]

theorem State.foldl_modIsland_power (f : State → Island → Island) (l : List Nat) (s : State) :
    (l.foldl (fun u i => u.modIsland i (f u)) s).power.pavg = s.power.pavg ∧ (l.foldl (fun u i => u.modIsland i (f u)) s).power.tick = s.power.tick ∧
      (l.foldl (fun u i => u.modIsland i (f u)) s).power.plim = s.power.plim :=
  List.foldlRecOn (motive := fun (u : State) => u.power.pavg = s.power.pavg ∧ u.power.tick = s.power.tick ∧ u.power.plim = s.power.plim) l _
    ⟨rfl, rfl, rfl⟩ fun _ h _ _ => h

/-- The package cap moves every compute island's limit. -/
theorem execPowerCapTick_due {s : State} (pavg : Nat) (hserves : s.serves = true) (hdue : s.power.tick + 1000000 ≤ s.time) :
    ∃ t, exec (.powerCapTick pavg) s = .next t ∧
      t.power.pavg = pavg ∧ t.power.tick = s.power.tick + 1000000 ∧ t.power.plim = s.power.plim ∧
      ∀ i, t.island i = (if s.computeIsland i then { s.island i with limCap := capNext s.power.plim pavg (s.island i).limCap } else s.island i) := by
  have hexec : exec (.powerCapTick pavg) s = execPowerCapTick pavg s := rfl
  unfold execPowerCapTick at hexec
  rw [if_pos (by rw [hserves, decide_eq_true hdue]; rfl)] at hexec
  extract_lets src u at hexec
  obtain ⟨hpavg, htick, hplim⟩ := State.foldl_modIsland_power (fun (u : State) (x : Island) => { x with limCap := capNext u.power.plim pavg x.limCap })
    u.computeIslands u
  refine ⟨_, hexec, hpavg, htick, hplim, fun i => ?_⟩
  refine (State.foldl_modIsland (fun (u : State) (x : Island) => { x with limCap := capNext u.power.plim pavg x.limCap }) (fun _ _ _ => rfl)
    u.computeIslands (List.nodup_range.filter _) u i).trans ?_
  have hmem : i ∈ u.computeIslands ↔ s.computeIsland i = true := by
    refine List.mem_filter.trans ⟨fun h => h.2, fun h => ⟨List.mem_range.2 (State.computeIsland_lt h), h⟩⟩
  simp only [hmem]
  rfl

/-! ## The statement -/

/-- A compute island that trips fails its die, whose ring ends with the record of the trip. -/
theorem execComputeTrip_fails {s : State} {i T : Nat} (hsensed : s.sensed i = true) (hci : s.computeIsland i = true) (hT : 115 ≤ T)
    (halive : s.alive i = true) :
    ∃ t, exec (.computeTrip i T) s = .next t ∧ (t.die i).st = 3 ∧ (t.die i).frozen = true ∧ Logged s t i 0x0012 := by
  have hst : (s.die i).st != 3 := (Bool.and_eq_true_iff.1 halive).2
  obtain ⟨u, hu⟩ : ∃ u, u = (s.modIsland i (fun x => { x with temp := T })).logUnit i 0x0012 [5, i] (wNat (Config.actionCode 6)) := ⟨_, rfl⟩
  have hexec : exec (.computeTrip i T) s = .next (u.failDie i) := by
    rw [hu]
    exact congrArg Host.Outcome.next (if_pos (by rw [hsensed, hst, hci, decide_eq_true hT]; rfl))
  obtain ⟨hfst, hfrozen, hring⟩ := u.failDie_shows i
  refine ⟨_, hexec, hfst, hfrozen, fun hf => ?_⟩
  have hlog : Logged s u i 0x0012 := by
    rw [hu]
    exact State.logHw_logged (u := s.modIsland i (fun x => { x with temp := T })) rfl (by decide) _ _ _
  rw [hring fun hi => absurd (State.computeIsland_lt hci) (by rw [hi]; decide)]
  exact hlog hf

theorem limits : Limits := by
  unfold Limits
  intro s
  refine ⟨fun d halive => ?_, fun d hdead => ?_, fun pavg hserves hdue => execPowerCapTick_due pavg hserves hdue,
    fun i T hsensed hci => ⟨fun hT => ?_, fun hT => ?_, fun hT halive => execComputeTrip_fails hsensed hci hT halive⟩, fun i T hsensed hci hT => ?_⟩
  · have hexec : exec (.dieFailure d) s = .next (s.failDie d) := congrArg Host.Outcome.next (if_pos halive)
    obtain ⟨hst, hfrozen, -⟩ := s.failDie_shows d
    refine ⟨⟨_, hexec, hst, hfrozen⟩, fun hcls hcells hnodes hasids h b hon hb huniq hto => ?_⟩
    obtain ⟨v, hv, hbufs, hpop, hstacks, has, hfree, hvst⟩ := State.failDie_stack hcls hcells hnodes hasids
    have hon' : v.buffersOn (d - 32) = [h] := by
      unfold State.buffersOn at hon ⊢
      rw [hbufs]
      exact hon
    have hb' : v.buf? h = some b := by
      unfold State.buf? at hb ⊢
      rw [hbufs]
      exact hb
    have hhomes : v.newHomes b (d - 32) = (s.modDie d (fun x => { x with st := 3 })).newHomes b (d - 32) := 
      State.newHomes_congr (s := s.modDie d (fun x => { x with st := 3 })) hpop hvst hbufs hstacks b _
    rw [← hbufs] at huniq
    rw [hv] at hexec
    refine ⟨fun hnone => ?_, fun hs hsome hne => ?_⟩
    · obtain ⟨b', hb1, hlost⟩ := State.clearStack_loses hon' hb' huniq hto has (hhomes.trans hnone)
      exact ⟨_, b', hexec, hb1, hlost⟩
    · obtain ⟨b', hb1, hevac, hto'⟩ := State.clearStack_moves hon' hb' huniq hto (hfree h) (hhomes.trans hsome) hne
      exact ⟨_, b', hexec, hb1, hevac, hto'⟩
  · exact congrArg Host.Outcome.next (if_neg (by rw [hdead]; exact Bool.false_ne_true))
  · exact ⟨_, congrArg Host.Outcome.next (if_pos (by rw [hsensed, hci, decide_eq_true hT]; rfl)), (s.island_modIsland i i _).trans (if_pos rfl)⟩
  · exact ⟨_, congrArg Host.Outcome.next (if_pos (by rw [hsensed, hci, decide_eq_true hT]; rfl)), (s.island_modIsland i i _).trans (if_pos rfl)⟩
  · have hexec : exec (.islandTrip i T) s = execIslandTrip i T s := rfl
    unfold execIslandTrip at hexec
    rw [if_pos (by rw [hsensed, hci, decide_eq_true hT]; rfl)] at hexec
    exact ⟨_, hexec, rfl, rfl⟩

/-- Settles O52: errors by what counting and repair leave alone, limits by the failure of a die and of a stack's die. -/
theorem errorsAndLimits : Obligations.ErrorsAndLimits := by
  unfold Obligations.ErrorsAndLimits
  exact ⟨errors, limits⟩

end Sys2Proof.Machine

end

section
/-! The Geode's answers to SPDM requests, and life-cycle moves (17 R327; 19 R342, R350). -/

namespace Sys2Proof.Machine

/-! ## SPDM -/

/-- A request with the code of its event is answered. -/
theorem spdm_answers {s : State} (hup : s.geodeUp = true) {code : Nat} {req : List Byte} (hcode : ((req[1]?).getD 0).toNat = code)
    (answer : State → State × List Byte) : spdm code req s answer = .next ((answer s).1.reply (.spdm (answer s).2)) := by
  unfold spdm
  refine congrArg Host.Outcome.next (if_neg ?_)
  rw [hup, hcode, bne_self_eq_false]
  exact Bool.false_ne_true

/-- The requests whose answers are open but for their codes. -/
theorem spdmTable_other {s : State} (hup : s.geodeUp = true) {p : (List Byte → Instr) × Nat} (hp : p ∈ spdmTable) {req : List Byte}
    (hcode : ((req[1]?).getD 0).toNat = p.2) : exec (p.1 req) s = .next (s.bump.reply (.spdm (s.spdmOther p.2))) := by
  unfold spdmTable at hp
  simp only [List.mem_cons, List.not_mem_nil, or_false] at hp
  obtain rfl | rfl | rfl | rfl | rfl := hp
  · exact spdm_answers hup hcode fun s => (s.bump, s.spdmOther 0x84)
  · exact spdm_answers hup hcode fun s => (s.bump, s.spdmOther 0xE1)
  · exact spdm_answers hup hcode fun s => (s.bump, s.spdmOther 0x81)
  · exact spdm_answers hup hcode fun s => (s.bump, s.spdmOther 0x82)
  · exact spdm_answers hup hcode fun s => (s.bump, s.spdmOther 0x83)

/-- What a request with another code is answered. -/
theorem execSpdmUnsupported_error {s : State} (hup : s.geodeUp = true) {req : List Byte}
    (hcode : ((req[1]?).getD 0).toNat ∉ [0x81, 0x82, 0x83, 0x84, 0xE0, 0xE1, 0xE3]) :
    exec (.spdmUnsupported req) s = .next (s.reply (.spdm [0x13, 0x7F, 7, BitVec.ofNat 8 ((req[1]?).getD 0).toNat])) := by
  have hknown : spdmKnown ((req[1]?).getD 0).toNat = false := Bool.eq_false_iff.2 fun h => hcode (List.contains_iff_mem.1 h)
  refine congrArg Host.Outcome.next (if_neg ?_)
  rw [hup, hknown]
  exact Bool.false_ne_true

/-! ## Resets -/

/-- The start of boot: what it does not touch, and where a DECOMMISSIONED module stops. -/
theorem State.bootStart_shows (s : State) :
    s.bootStart.cells = s.cells ∧ s.bootStart.hbm = s.hbm ∧ s.bootStart.fabric = s.fabric ∧ s.bootStart.host = s.host ∧
      s.bootStart.geode.life = s.geode.life ∧ s.bootStart.geode.key = s.geode.key ∧ s.bootStart.geode.hoseq = s.geode.hoseq ∧
      (s.geode.life = .decommissioned → s.bootStart.geode.boot = .stuck) := by
  unfold State.bootStart
  extract_lets a fa fb va vb u zero first act
  split
  · exact ⟨rfl, rfl, rfl, rfl, rfl, rfl, rfl, fun _ => rfl⟩
  · next h => exact ⟨rfl, rfl, rfl, rfl, rfl, rfl, rfl, fun hd => absurd hd h⟩

/-- A warm reset: what it empties and what it keeps. -/
theorem State.resetTo_warm (s : State) :
    (s.resetTo false).cells = [] ∧ (s.resetTo false).hbm = [] ∧ (s.resetTo false).fabric.epoch = (s.fabric.epoch + 1) % 65536 ∧
      (s.resetTo false).host.replies = s.host.replies ∧ (s.resetTo false).geode.life = s.geode.life ∧
      (s.resetTo false).geode.key = s.geode.key ∧ (s.resetTo false).geode.hoseq = s.geode.hoseq := by
  unfold State.resetTo
  extract_lets t
  rw [if_neg Bool.false_ne_true]
  have hlogs : t.Logs (t.dieSlots.foldl (fun t d => t.logReset d 0x0031 s.geode.life s.geode.life false) t) :=
    .foldl (fun u d => State.logHw_logs u d _ _ _ _) _
  rw [hlogs.frame]
  exact ⟨rfl, rfl, rfl, rfl, rfl, rfl, rfl⟩

/-! ## Life-cycle moves -/

/-- A refused move: there is none, or its signature or its order is not good. -/
theorem execLifecycle_refused {s : State} (hup : s.geodeUp = true) {tgt : Life} {m sig key : List Byte}
    (h : s.geode.signer tgt = none ∨ ∃ who, s.geode.signer tgt = some who ∧ ¬ (shake256 key 64 = Config.lifeKey who ∧
      Config.lifeOrder (lifeCode s.geode.life) (lifeCode tgt) m = true ∧ slhVerify m sig key = true)) :
    exec (.lifecycle tgt m sig key) s = .next (s.reply (.mgmt 2 [])) := by
  refine congrArg Host.Outcome.next ((if_neg (by rw [hup]; exact Bool.false_ne_true)).trans ?_)
  obtain hnone | ⟨who, hwho, hbad⟩ := h
  · rw [hnone]
  · rw [hwho]
    exact if_neg hbad

/-- A good move: the first signature of a return from RMA, or the change itself with the reset that follows. -/
theorem execLifecycle_good {s : State} (hup : s.geodeUp = true) {tgt : Life} {m sig key : List Byte} {who : Bool} (hwho : s.geode.signer tgt = some who)
    (hgood : shake256 key 64 = Config.lifeKey who ∧ Config.lifeOrder (lifeCode s.geode.life) (lifeCode tgt) m = true ∧ slhVerify m sig key = true) :
    exec (.lifecycle tgt m sig key) s = .next (if s.geode.life = .rma ∧ tgt = .deployed ∧ !s.geode.theok then
        ({ s with geode := { s.geode with theok := true } } : State).reply (.mgmt 0 [])
      else
        ((({ s.logReset Config.schedDie 0x0030 s.geode.life tgt false with
          geode := { (s.logReset Config.schedDie 0x0030 s.geode.life tgt false).geode with life := tgt } } : State).reply (.mgmt 0 [])).resetTo
            false).bootStart) := by
  refine congrArg Host.Outcome.next ((if_neg (by rw [hup]; exact Bool.false_ne_true)).trans ?_)
  rw [hwho]
  exact if_pos hgood

/-- What the change of the life cycle leaves. -/
theorem State.lifeMoved_shows (s : State) (tgt : Life) :
    let t := ((({ s.logReset Config.schedDie 0x0030 s.geode.life tgt false with
      geode := { (s.logReset Config.schedDie 0x0030 s.geode.life tgt false).geode with life := tgt } } : State).reply (.mgmt 0 [])).resetTo
        false).bootStart
    t.geode.life = tgt ∧ t.geode.key = s.geode.key ∧ t.geode.hoseq = s.geode.hoseq ∧ t.cells = [] ∧ t.hbm = [] ∧
      t.fabric.epoch = (s.fabric.epoch + 1) % 65536 ∧ t.host.replies = s.host.replies ++ [.mgmt 0 []] ∧
      (tgt = .decommissioned → t.geode.boot = .stuck) := by
  intro t
  have hlogs : s.Logs (s.logReset Config.schedDie 0x0030 s.geode.life tgt false) := State.logHw_logs _ _ _ _ _ _
  obtain ⟨u, hu⟩ : ∃ u, u = ({ s.logReset Config.schedDie 0x0030 s.geode.life tgt false with
      geode := { (s.logReset Config.schedDie 0x0030 s.geode.life tgt false).geode with life := tgt } } : State).reply (.mgmt 0 []) := ⟨_, rfl⟩
  have ht : t = (u.resetTo false).bootStart := by rw [hu]
  have hframe : u.geode.life = tgt ∧ u.geode.key = s.geode.key ∧ u.geode.hoseq = s.geode.hoseq ∧ u.fabric = s.fabric ∧
      u.host.replies = s.host.replies ++ [.mgmt 0 []] := by
    rw [hu, hlogs.frame]
    exact ⟨rfl, rfl, rfl, rfl, rfl⟩
  obtain ⟨hlife, hkey, hseq, hfab, hrep⟩ := hframe
  obtain ⟨bcells, bhbm, bfab, bhost, blife, bkey, bseq, bstuck⟩ := (u.resetTo false).bootStart_shows
  obtain ⟨rcells, rhbm, repoch, rrep, rlife, rkey, rseq⟩ := u.resetTo_warm
  rw [ht, bcells, bhbm, bfab, bhost, blife, bkey, bseq, rcells, rhbm, repoch, rrep, rlife, rkey, rseq, hlife, hkey, hseq, hfab, hrep]
  exact ⟨rfl, rfl, rfl, rfl, rfl, rfl, rfl, fun h => bstuck (rlife.trans (hlife.trans h))⟩

/-- Settles O49: each request by its answer, each move by whether its signature and order are good. -/
theorem spdmAndLifeCycle : Obligations.SpdmAndLifeCycle := by
  unfold Obligations.SpdmAndLifeCycle
  intro s hup
  refine ⟨fun p hp req hcode => ?_, fun req hcode => spdm_answers hup hcode fun s => (s, spdmAlgorithms), fun req is hcode => ?_,
    fun req hcode => execSpdmUnsupported_error hup hcode, fun tgt m sig key => ⟨fun hnone => execLifecycle_refused hup (.inl hnone),
      fun who hwho => ⟨fun hbad => execLifecycle_refused hup (.inr ⟨who, hwho, hbad⟩), fun hgood hrma htgt htheok => ?_, fun hgood hno => ?_⟩⟩⟩
  · exact ⟨_, _, spdmTable_other hup hp hcode, rfl, rfl, rfl⟩
  · exact ⟨_, _, _, spdm_answers hup hcode fun s => (s.bump, s.spdmMeasurements is), rfl, rfl⟩
  · have hexec := execLifecycle_good hup hwho hgood
    rw [if_pos ⟨hrma, htgt, by rw [htheok]; rfl⟩] at hexec
    exact ⟨_, hexec, rfl, rfl⟩
  · have hexec := execLifecycle_good hup hwho hgood
    rw [if_neg fun h => hno ⟨h.1, h.2.1, by simpa only [Bool.not_eq_true'] using h.2.2⟩] at hexec
    exact ⟨_, hexec, s.lifeMoved_shows tgt⟩

end Sys2Proof.Machine

end

section
/-! Requests of the host for buffers, windows, ASIDs and queues (10 R194, R199; 13 R256, R272; 15 R303; 17 R324 to R326). -/

namespace Sys2Proof.Machine

/-! ## The mailbox -/

/-- A request that is served at once is answered with what it leaves. -/
theorem mailbox_served {s : State} (h : s.AtDoorbell) (code : Nat) (ag : Option Nat) (act : State → Served) :
    mailbox code ag s act = .next ((act s).1.answerMail code ag (act s).2.1 (act s).2.2) := by
  obtain ⟨hserves, hsub⟩ := h
  unfold mailbox
  refine congrArg Host.Outcome.next (if_neg ?_)
  rw [hserves, hsub]
  exact Bool.false_ne_true

/-- A request of an ASID that is live at the generation. -/
theorem ofAsid_live {s : State} {a g : Nat} (h : s.asidIs a g = true) (act : Served) : ofAsid s a g act = act := if_pos h

theorem ofAsid_stale {s : State} {a g : Nat} (h : s.asidIs a g = false) (act : Served) : ofAsid s a g act = (s, 2, []) :=
  if_neg (by rw [h]; exact Bool.false_ne_true)

/-- A request of a live ASID that is served at once. -/
theorem mailbox_ofAsid {s : State} (h : s.AtDoorbell) {a g : Nat} (hlive : s.asidIs a g = true) (code : Nat) (ag : Option Nat) (act : State → Served) :
    mailbox code ag s (fun s => ofAsid s a g (act s)) = .next ((act s).1.answerMail code ag (act s).2.1 (act s).2.2) := by
  rw [mailbox_served h, ofAsid_live hlive]

theorem mailbox_stale {s : State} (h : s.AtDoorbell) {a g : Nat} (hstale : s.asidIs a g = false) (code : Nat) (ag : Option Nat) (act : State → Served) :
    mailbox code ag s (fun s => ofAsid s a g (act s)) = .next (s.answerMail code ag 2 []) := by
  rw [mailbox_served h, ofAsid_stale hstale]

/-! ## ASIDs -/

theorem State.asid_modAsid (s : State) (a x : Nat) (f : Asid → Asid) : (s.modAsid a f).asid x = if x = a then f (s.asid a) else s.asid x :=
  kget_kset _ _ _ _ _

theorem State.asid_modAsid_same (s : State) (a : Nat) (f : Asid → Asid) : (s.modAsid a f).asid a = f (s.asid a) := kget_kset_same _ _ _ _

theorem State.asid_modAsid_other (s : State) {a x : Nat} (hx : x ≠ a) (f : Asid → Asid) : (s.modAsid a f).asid x = s.asid x :=
  kget_kset_other _ _ _ hx

/-! ## Allocation (10 R194; 17 R324) -/

/-- A free index of a range lies in it. -/
theorem State.freeIndex_lt {s : State} {lo n i : Nat} (hn : 0 < n) (h : s.freeIndex lo n = some i) : lo ≤ i ∧ i < lo + n := by
  obtain ⟨k, -, rfl⟩ := List.mem_map.1 (List.mem_of_find?_eq_some h)
  exact ⟨Nat.le_add_right _ _, Nat.add_lt_add_left (Nat.mod_lt _ hn) _⟩

/-- A template that is good asks for a live buffer. -/
theorem parseTemplate_live {w : List Word} {b : Buf} (h : parseTemplate w = some b) : b.st = .live := by
  unfold parseTemplate at h
  extract_lets w0 w6 nd dim tag gs layout perm b0 clean ok at h
  split at h
  · obtain rfl := Option.some.inj h
    rfl
  · exact absurd h.symm (Option.some_ne_none b)

/-- A buffer without a companion is allocated. -/
theorem State.alloc_alone {s : State} {w : List Word} {b : Buf} {hs : BitVec 16} {i : Nat} (hw : parseTemplate w = some b)
    (hplace : s.placeOn b = some hs) (hcomp : b.companionOf = none) (hi : s.freeIndex 1 0xEFFFFF = some i) :
    s.alloc w = (s.bump.enterBuf i { b with homes := hs }, 0, s.handleAt i) := by
  unfold State.alloc
  rw [hw]
  dsimp only
  rw [hplace]
  dsimp only
  rw [hi]
  dsimp only
  rw [hcomp]

theorem State.handleAt_mod (s : State) {i : Nat} (hi : i < 2 ^ 24) : s.handleAt i % 2 ^ 24 = i := by
  unfold State.handleAt
  rw [Nat.mul_add_mod_self_right, Nat.mod_eq_of_lt hi]

/-- The descriptor that has been entered is found under its handle. -/
theorem State.buf?_enterBuf (s : State) {i : Nat} (hi : i < 2 ^ 24) {b : Buf} (hst : b.st ≠ .free) :
    (s.enterBuf i b).buf? (s.handleAt i) = some { b with handle := s.handleAt i } := by
  unfold State.buf?
  rw [s.handleAt_mod hi, show (s.enterBuf i b).bufs = kset s.bufs i { b with handle := s.handleAt i } from rfl, kget?_kset, if_pos rfl]
  exact if_pos ⟨rfl, hst⟩

/-- What an ASID that takes a reference holds. -/
theorem State.hold_rights (s : State) (a h : Nat) (r : BitVec 5) : (kget (0, 0) ((s.hold a h r).asid a).holdings h).2 &&& r = r := by
  unfold State.hold
  rw [State.asid_modAsid_same]
  dsimp only
  rw [kget_kset_same]
  ext k hk
  simp only [BitVec.getElem_and, BitVec.getElem_or]
  cases r[k]
  · exact Bool.and_false _
  · rw [Bool.or_true, Bool.true_and]

theorem execBufAlloc_shows {s : State} {a g : Nat} (h : s.AtDoorbell) (hlive : s.asidIs a g = true) {w : List Word} {b : Buf} {hs : BitVec 16} {i : Nat}
    (hw : parseTemplate w = some b) (hplace : s.placeOn b = some hs) (hcomp : b.companionOf = none) (hi : s.freeIndex 1 0xEFFFFF = some i) :
    ∃ t, exec (.bufAlloc a g w) s = .next t ∧ Answered s t 0x10 0 [wNat (s.handleAt i)] ∧
      t.buf? (s.handleAt i) = some { b with handle := s.handleAt i, homes := hs } ∧
      (kget (0, 0) (t.asid a).holdings (s.handleAt i)).2 &&& rightsRWA = rightsRWA ∧ t.hbm = s.hbm := by
  have hexec : exec (.bufAlloc a g w) s = execBufAlloc a g w s := rfl
  unfold execBufAlloc at hexec
  rw [mailbox_ofAsid h hlive, State.alloc_alone hw hplace hcomp hi] at hexec
  dsimp only at hexec
  rw [if_pos rfl, Nat.zero_mul, Nat.zero_add] at hexec
  refine ⟨_, hexec, rfl, ?_, (s.bump.enterBuf i { b with homes := hs }).hold_rights a (s.handleAt i) rightsRWA, rfl⟩
  exact s.bump.buf?_enterBuf (by have := (State.freeIndex_lt (by decide) hi).2; omega) (b := { b with homes := hs })
    (by rw [show ({ b with homes := hs } : Buf).st = b.st from rfl, parseTemplate_live hw]; decide)

/-! ## Holdings (10 R199; 13 R272) -/

theorem State.unhold_buf {s : State} {a h n : Nat} {r : BitVec 5} (hremote : s.remote? h = none) (hp : kget (0, 0) (s.asid a).holdings h = (n, r)) :
    s.unhold a h =
      (s.modAsid a (fun x => { x with holdings := if n ≤ 1 then kdel x.holdings h else kset x.holdings h (n - 1, r) })).dropRef h := by
  unfold State.unhold
  rw [hp]
  extract_lets p u
  have hu : u.remote? h = none := hremote
  rw [hu]

theorem kget_of_kget? {α : Type} {d : α} {m : KMap α} {i : Nat} {v : α} (h : kget? m i = some v) : kget d m i = v := by
  rw [kget, h, Option.getD_some]

/-- One of several references of a buffer goes. -/
theorem State.dropRef_shared {s : State} {h : Nat} {b : Buf} (hb : s.buf? h = some b) (hn : 2 ≤ b.refcnt) :
    s.dropRef h = s.modBuf h (fun b => { b with refcnt := b.refcnt - 1 }) := by
  unfold State.dropRef
  rw [hb]
  exact if_pos hn

/-- The last reference of a buffer without a live companion frees it. -/
theorem State.dropRef_last {s : State} {h : Nat} {b : Buf} (hb : s.buf? h = some b) (hn : b.refcnt ≤ 1) (hcomp : s.buf? b.companion = none) :
    s.dropRef h = s.freeBuf h := by
  have hfree : (s.freeBuf h).buf? b.companion = none := by
    unfold State.buf? at hcomp ⊢
    rw [show (s.freeBuf h).bufs = kdel s.bufs (h % 2 ^ 24) from rfl, kget?_kdel]
    by_cases hk : b.companion % 2 ^ 24 = h % 2 ^ 24
    · rw [if_pos hk]
    · rw [if_neg hk]
      exact hcomp
  unfold State.dropRef
  rw [hb]
  dsimp only
  rw [if_neg (Nat.not_lt.2 hn), hfree]

theorem State.buf?_freeBuf (s : State) (h : Nat) : (s.freeBuf h).buf? h = none := by
  unfold State.buf?
  rw [show (s.freeBuf h).bufs = kdel s.bufs (h % 2 ^ 24) from rfl, kget?_kdel, if_pos rfl]

theorem execBufDrop_held {s : State} {a g : Nat} (h : s.AtDoorbell) (hlive : s.asidIs a g = true) {hd : Nat} {p : Nat × BitVec 5}
    (hheld : kget? (s.asid a).holdings hd = some p) : exec (.bufDrop a g hd) s = .next ((s.unhold a hd).answerMail 0x11 (asidGen a g) 0 []) := by
  have hexec : exec (.bufDrop a g hd) s = execBufDrop a g hd s := rfl
  unfold execBufDrop at hexec
  rw [mailbox_ofAsid h hlive, hheld, if_pos (show (some p).isSome = true from rfl)] at hexec
  exact hexec

/-! ## Publication of host writes (17 R324) -/

/-- One host write is published. -/
theorem State.publishHost_one {s : State} {h off : Nat} {b : Buf} (a : Nat) {bs : List Byte} (hoff : off < 2 ^ 64) (hb : s.buf? h = some b)
    (hst : b.st = .live) :
    s.publishHost a [(bufKey h off, bs)] =
      ((s.homePut h off (bs.map (fun b => { v := b }))).modBuf h (fun d => { d with written := true })).cacheTouch a h off bs.length := by
  have hh : bufKey h off / 2 ^ 64 = h := by unfold bufKey; omega
  have ho : bufKey h off % 2 ^ 64 = off := by unfold bufKey; omega
  have hlost : s.lost h = false := by
    unfold State.lost
    rw [hb]
    dsimp only
    rw [hst]
    rfl
  unfold State.publishHost
  rw [List.foldl_cons, List.foldl_nil]
  dsimp only
  rw [hh, ho, hlost]
  exact if_neg Bool.false_ne_true

theorem execSync_one {s : State} {a g : Nat} (h : s.AtDoorbell) (hlive : s.asidIs a g = true) {hd off : Nat} {bs : List Byte} {b : Buf}
    (hwrites : s.host.writes.filter (fun e => e.1 == a) = [(a, bufKey hd off, bs)]) (hoff : off < 2 ^ 64) (hne : bs ≠ []) (hb : s.buf? hd = some b)
    (hst : b.st = .live) (hwf : s.hbm.wf = true) :
    ∃ t b', exec (.sync a g) s = .next t ∧ Answered s t 0x14 0 [] ∧ t.host.writes = s.host.writes.filter (fun e => e.1 != a) ∧
      t.buf? hd = some b' ∧ b'.version = (b.version + 1) % 2 ^ 64 ∧
      (∀ i v, bs[i]? = some v → t.hbm.byte (bufKey hd off + i) = v) ∧
      (∀ x, x < bufKey hd off ∨ bufKey hd off + bs.length ≤ x → t.hbm.byte x = s.hbm.byte x) := by
  obtain ⟨ws, hws⟩ : ∃ ws : List WByte, ws = bs.map (fun b => { v := b }) := ⟨_, rfl⟩
  obtain ⟨u, hu⟩ : ∃ u, u = ((s.homePut hd off ws).modBuf hd (fun d => { d with written := true })).cacheTouch a hd off bs.length := ⟨_, rfl⟩
  have hexec : exec (.sync a g) s = execSync a g s := rfl
  unfold execSync at hexec
  have hhs : ([(bufKey hd off, bs)].filter (fun e => e.2 != [])).foldr (fun e acc => nsAdd acc (e.1 / 2 ^ 64)) [] = [hd] := by
    have hh : bufKey hd off / 2 ^ 64 = hd := by unfold bufKey; omega
    rw [List.filter_singleton, show ((bufKey hd off, bs).2 != []) = true from bne_iff_ne.2 hne, cond_true, List.foldr_cons, List.foldr_nil, hh]
    rfl
  rw [mailbox_ofAsid h hlive] at hexec
  dsimp only at hexec
  rw [hwrites, List.map_cons, List.map_nil, State.publishHost_one a hoff hb hst, hhs, ← hws, ← hu, List.foldl_cons, List.foldl_nil] at hexec
  have hframe : u.hbm = s.hbm.merge (bufKey hd off) ws ∧ u.host = s.host := by
    obtain ⟨x, hx⟩ := (s.homePut hd off ws).modBuf_frame hd (fun d => { d with written := true })
    obtain ⟨st, hst'⟩ := ((s.homePut hd off ws).modBuf hd (fun d => { d with written := true })).cacheTouch_frame a hd off bs.length
    rw [hu, hst', hx]
    exact ⟨rfl, rfl⟩
  have hbuf : u.buf? hd = some { b with written := true } := by
    have hput : (s.homePut hd off ws).buf? hd = some b := hb
    obtain ⟨st, hst'⟩ := ((s.homePut hd off ws).modBuf hd (fun d => { d with written := true })).cacheTouch_frame a hd off bs.length
    rw [hu, hst']
    exact State.buf?_modBuf hput rfl rfl
  obtain ⟨hbfab, hbhbm, hbhost⟩ := u.modBuf_fabric hd (fun b => { b with version := (b.version + 1) % 2 ^ 64 })
  have hbump := State.buf?_modBuf hbuf (f := fun b => { b with version := (b.version + 1) % 2 ^ 64 }) rfl rfl
  have hfull : ∀ w ∈ ws, w.m = 0xFF := by
    rw [hws]
    intro w hw
    obtain ⟨b, -, rfl⟩ := List.mem_map.1 hw
    rfl
  have hmap : ws.map (·.v) = bs := by
    rw [hws, List.map_map]
    exact List.map_id bs
  have hlen : ws.length = bs.length := by rw [hws, List.length_map]
  have hmem : (u.bumpVersion hd).hbm = s.hbm.merge (bufKey hd off) ws := hbhbm.trans hframe.1
  have hhost : (u.bumpVersion hd).host = s.host := hbhost.trans hframe.2
  refine ⟨_, _, hexec, ?_, ?_, hbump, rfl, fun i v hv => ?_, fun x hx => ?_⟩
  · show (u.bumpVersion hd).host.replies ++ _ = _
    rw [hhost]
  · show (u.bumpVersion hd).host.writes.filter _ = _
    rw [hhost]
  · have hi : i < bs.length := (List.getElem?_eq_some_iff.1 hv).1
    show (u.bumpVersion hd).hbm.byte _ = _
    rw [hmem, Mem.byte_merge_full hwf hfull, if_pos ⟨Nat.le_add_right _ _, by rw [hlen]; omega⟩, Nat.add_sub_cancel_left, ← List.getElem?_map,
      hmap, hv, Option.getD_some]
  · show (u.bumpVersion hd).hbm.byte _ = _
    rw [hmem, Mem.byte_merge_full hwf hfull, if_neg (by rw [hlen]; omega)]

/-! ## The requests for buffers -/

theorem bufferRequests : BufferRequests := by
  unfold BufferRequests
  intro s a g h
  refine ⟨fun hstale tm hd w off r => ⟨?_, ?_, ?_, ?_⟩, fun hlive => ⟨?_, ?_, ?_, ?_, ?_, ?_, ?_, ?_, ?_⟩, ?_⟩
  · show execBufAlloc a g tm s = _
    unfold execBufAlloc
    exact mailbox_stale h hstale _ _ _
  · show execBufDrop a g hd s = _
    unfold execBufDrop
    exact mailbox_stale h hstale _ _ _
  · show execMap w a g hd off r s = _
    unfold execMap
    exact mailbox_stale h hstale _ _ _
  · show execSync a g s = _
    unfold execSync
    exact mailbox_stale h hstale _ _ _
  · exact fun tm b hs i hw hplace hcomp hi => execBufAlloc_shows h hlive hw hplace hcomp hi
  · intro tm hw
    have hexec : exec (.bufAlloc a g tm) s = execBufAlloc a g tm s := rfl
    unfold execBufAlloc at hexec
    have halloc : s.alloc tm = (s, 2, 0) := by
      unfold State.alloc
      rw [hw]
    rw [mailbox_ofAsid h hlive, halloc] at hexec
    exact hexec
  · intro tm b hw hplace
    have hexec : exec (.bufAlloc a g tm) s = execBufAlloc a g tm s := rfl
    unfold execBufAlloc at hexec
    have halloc : s.alloc tm = (s, 1, 0) := by
      unfold State.alloc
      rw [hw]
      dsimp only
      rw [hplace]
    rw [mailbox_ofAsid h hlive, halloc] at hexec
    exact hexec
  · intro hd hno
    have hexec : exec (.bufDrop a g hd) s = execBufDrop a g hd s := rfl
    unfold execBufDrop at hexec
    rw [mailbox_ofAsid h hlive, hno] at hexec
    exact hexec
  · intro hd n r b hheld hremote hb hn hrefs
    have hdrop := execBufDrop_held h hlive hheld
    have hp : kget (0, 0) (s.asid a).holdings hd = (n, r) := kget_of_kget? hheld
    rw [State.unhold_buf hremote hp] at hdrop
    obtain ⟨u, hu⟩ : ∃ u, u = s.modAsid a (fun x => { x with holdings := if n ≤ 1 then kdel x.holdings hd else kset x.holdings hd (n - 1, r) }) := ⟨_, rfl⟩
    rw [← hu] at hdrop
    have hub : u.buf? hd = some b := by rw [hu]; exact hb
    rw [State.dropRef_shared hub hrefs] at hdrop
    obtain ⟨x, hx⟩ := u.modBuf_frame hd (fun b => { b with refcnt := b.refcnt - 1 })
    refine ⟨_, hdrop, ?_, ?_, State.buf?_modBuf hub (f := fun b => { b with refcnt := b.refcnt - 1 }) rfl rfl, ?_⟩
    · rw [hx, hu]
      rfl
    · have hheldu : kget? (u.asid a).holdings hd = some (n - 1, r) := by
        rw [hu, State.asid_modAsid_same]
        dsimp only
        rw [if_neg (by omega), kget?_kset, if_pos rfl]
      rw [hx]
      exact hheldu
    · rw [hx, hu]
      rfl
  · intro hd r b hheld hremote hb hrefs hcomp
    have hdrop := execBufDrop_held h hlive hheld
    have hp : kget (0, 0) (s.asid a).holdings hd = (1, r) := kget_of_kget? hheld
    rw [State.unhold_buf hremote hp] at hdrop
    obtain ⟨u, hu⟩ : ∃ u, u = s.modAsid a (fun x => { x with holdings := if 1 ≤ 1 then kdel x.holdings hd else kset x.holdings hd (1 - 1, r) }) := ⟨_, rfl⟩
    rw [← hu] at hdrop
    have hub : u.buf? hd = some b := by rw [hu]; exact hb
    have hubcomp : u.buf? b.companion = none := by rw [hu]; exact hcomp
    rw [State.dropRef_last hub hrefs hubcomp] at hdrop
    refine ⟨_, hdrop, by rw [hu]; rfl, ?_, State.buf?_freeBuf _ hd, by rw [hu]; rfl⟩
    show kget? (u.asid a).holdings hd = none
    rw [hu, State.asid_modAsid_same]
    dsimp only
    rw [if_pos (Nat.le_refl 1), kget?_kdel, if_pos rfl]
  · intro w hd off r b hw hb hr
    have hexec : exec (.map w a g hd off r) s = execMap w a g hd off r s := rfl
    unfold execMap at hexec
    rw [mailbox_ofAsid h hlive, hb, if_neg (by rintro (hc | hc); exacts [absurd hw (Nat.not_lt.2 hc), Bool.false_ne_true hc]),
      if_neg (not_not.2 hr)] at hexec
    refine ⟨_, hexec, rfl, (kget?_kset _ _ _ _).trans (if_pos rfl), fun v hv => (kget?_kset _ _ _ _).trans (if_neg hv)⟩
  · intro w hd off r b hw hb hr
    have hexec : exec (.map w a g hd off r) s = execMap w a g hd off r s := rfl
    unfold execMap at hexec
    rw [mailbox_ofAsid h hlive, hb, if_neg (by rintro (hc | hc); exacts [absurd hw (Nat.not_lt.2 hc), Bool.false_ne_true hc]),
      if_pos hr] at hexec
    exact hexec
  · exact fun hd off bs b hwrites hoff hne hb hst hwf => execSync_one h hlive hwrites hoff hne hb hst hwf
  · intro w hw
    have hexec : exec (.unmap w) s = execUnmap w s := rfl
    unfold execUnmap at hexec
    rw [mailbox_served h, if_neg (Nat.not_le.2 hw)] at hexec
    exact ⟨_, hexec, rfl, (kget?_kdel _ _ _).trans (if_pos rfl), fun v hv => (kget?_kdel _ _ _).trans (if_neg hv)⟩

end Sys2Proof.Machine

end

section
/-! Requests of the host for ASIDs, queues, submissions and quotas (13 R256, R273; 15 R303; 17 R325, R326). -/

namespace Sys2Proof.Machine

/-! ## What a dropped holding leaves -/

theorem State.dropRef_host (s : State) (h : Nat) : (s.dropRef h).host = s.host := by
  unfold State.dropRef
  split
  · split
    · exact (s.modBuf_fabric h _).2.2
    · extract_lets u
      split
      · split
        · exact (u.modBuf_fabric _ _).2.2
        · rfl
      · rfl
  · rfl

/-- Dropping holdings leaves the scheduler's nodes, runs, queues and submissions, and what the host has. -/
theorem State.unhold_keeps (s : State) (a h : Nat) : s.Tables (s.unhold a h) ∧ (s.unhold a h).host = s.host := by
  unfold State.unhold
  extract_lets p u
  have hu : s.Tables u := Tables.modAsid s a _
  split
  · split
    · exact ⟨hu, rfl⟩
    · exact ⟨hu.trans (Tables.of_sched rfl), rfl⟩
  · exact ⟨hu.trans (Tables.dropRef u h), u.dropRef_host h⟩

theorem State.dropHoldings_keeps (s : State) (a : Nat) : s.Tables (s.dropHoldings a) ∧ (s.dropHoldings a).host = s.host := by
  unfold State.dropHoldings
  refine List.foldlRecOn (motive := fun (t : State) => s.Tables t ∧ t.host = s.host) _ _ ⟨Tables.refl s, rfl⟩ (fun t ht e _ => ?_)
  refine List.foldlRecOn (motive := fun (t : State) => s.Tables t ∧ t.host = s.host) _ _ ht (fun v hv _ _ => ?_)
  obtain ⟨hkept, hhost⟩ := v.unhold_keeps a e.1
  exact ⟨hv.1.trans hkept, hhost.trans hv.2⟩

theorem State.dropHoldings_none {s : State} {a : Nat} (h : (s.asid a).holdings = []) : s.dropHoldings a = s := by
  unfold State.dropHoldings
  rw [h]
  rfl

/-- With no node in the table none moves. -/
theorem State.settleAll_none {s : State} (h : s.sched.nodes = []) : s.settleAll = s := by
  have hmove : s.movable = none := by
    unfold State.movable State.flying
    rw [h, List.filter_nil, List.mergeSort_nil, List.find?_nil]
  unfold State.settleAll
  rw [h]
  show s.settleNodes (1 + 1) = s
  unfold State.settleNodes
  rw [hmove]

/-! ## The queues of a retired ASID -/

/-- Queues that hold no run are disabled, and nothing else changes. -/
theorem State.disableQueues (l : List Nat) : ∀ {s : State}, (∀ q, (s.fox q).run = none) →
    ∃ m, l.foldl State.disableQueue s = { s with sched := { s.sched with queues := m } } ∧
      ∀ q, q ∈ l ∨ (s.queue q).enable = false → (kget {} m q).enable = false := by
  induction l with
  | nil => exact fun _ => ⟨_, rfl, fun q hq => hq.resolve_left List.not_mem_nil⟩
  | cons p l ih =>
    intro s hrun
    have hone : s.disableQueue p = { s with sched := { s.sched with queues := kset s.sched.queues p { s.queue p with enable := false } } } := by
      unfold State.disableQueue
      extract_lets old src u
      rw [show (u.fox p).run = none from hrun p]
    rw [List.foldl_cons, hone]
    obtain ⟨m, hm, hoff⟩ := ih
      (s := { s with sched := { s.sched with queues := kset s.sched.queues p { s.queue p with enable := false } } }) hrun
    refine ⟨m, hm, fun q hq => hoff q ?_⟩
    unfold State.queue
    dsimp only
    rw [kget_kset]
    by_cases hp : q = p
    · exact .inr (by rw [if_pos hp])
    · rw [if_neg hp]
      exact hq.imp_left (fun hmem => (List.mem_cons.1 hmem).resolve_left hp)

/-- The Foxglove tables of a list of queues are cleared, and nothing else changes. -/
theorem State.clearFoxes (l : List Nat) : ∀ (s : State),
    ∃ m, l.foldl (fun s q => s.modFox q (fun _ => {})) s = { s with sched := { s.sched with fox := m } } ∧
      ∀ q, q ∈ l ∨ s.fox q = {} → kget {} m q = {} := by
  induction l with
  | nil => exact fun _ => ⟨_, rfl, fun q hq => hq.resolve_left List.not_mem_nil⟩
  | cons p l ih =>
    intro s
    obtain ⟨m, hm, hclear⟩ := ih (s.modFox p (fun _ => {}))
    refine ⟨m, hm, fun q hq => hclear q ?_⟩
    rw [State.fox_modFox]
    by_cases hp : q = p
    · exact .inr (if_pos hp)
    · rw [if_neg hp]
      exact hq.imp_left (fun hmem => (List.mem_cons.1 hmem).resolve_left hp)

/-- A queue that is configured is found among the queues. -/
theorem State.queue_listed {s : State} {q : Nat} (h : (s.queue q).enable = true) : (q, s.queue q) ∈ s.sched.queues := by
  unfold State.queue kget at h ⊢
  cases hq : kget? s.sched.queues q with
  | none => rw [hq] at h; exact absurd h Bool.false_ne_true
  | some v =>
    exact mem_of_kget? hq

/-! ## The requests -/

/-- What a retirement leaves where its ASID has no task, no node and no holding. -/
theorem execAsidRetire_shows {s : State} {a g : Nat} (h : s.AtDoorbell) (hlive : s.asidIs a g = true) (hcells : s.cells = [])
    (hnodes : s.sched.nodes = []) (hhold : (s.asid a).holdings = []) (hrun : ∀ q, (s.fox q).run = none) :
    ∃ t, exec (.asidRetire a g) s = .next t ∧ Answered s t 0x02 0 [] ∧ (t.asid a).live = false ∧ (t.asid a).gen = (g + 1) % 16 ∧
      (t.asid a).sweep = true ∧ (t.asid a).quota = 0 ∧
      (∀ q, (s.queue q).asid = a → (s.queue q).gen = g → (s.queue q).enable = true → (t.queue q).enable = false ∧ t.fox q = {}) ∧
      (∀ x, x ≠ a → t.asid x = s.asid x) := by
  have hgen : (s.asid a).gen = g := by
    unfold State.asidIs at hlive
    exact of_decide_eq_true (Bool.and_eq_true_iff.1 hlive).2
  have hexec : exec (.asidRetire a g) s = execAsidRetire a g s := rfl
  unfold execAsidRetire at hexec
  rw [mailbox_ofAsid h hlive] at hexec
  extract_lets mine qs u0 u1 src u2 u3 u4 u5 u6 u7 at hexec
  obtain ⟨m, hm, hoff⟩ := State.disableQueues qs hrun
  have hu0 : u0 = { s with sched := { s.sched with queues := m } } := hm
  have hu1 : u1 = u0 := by
    show List.foldl _ u0 u0.cells = u0
    rw [show u0.cells = [] by rw [hu0]; exact hcells]
    rfl
  have hu2 : u2 = u0 := by
    show ({ u1 with sched := { u1.sched with nodes := u1.sched.nodes.map _ } } : State) = u0
    rw [hu1, show u0.sched.nodes = [] by rw [hu0]; exact hnodes, List.map_nil, hu0, ← hnodes]
  have hu4 : u4 = u0 := by
    show List.foldl _ (List.foldl _ u2 u2.cells) (List.foldl _ u2 u2.cells).cells = u0
    rw [hu2, show u0.cells = [] by rw [hu0]; exact hcells]
    show List.foldl _ u0 u0.cells = u0
    rw [show u0.cells = [] by rw [hu0]; exact hcells]
    rfl
  have hu5 : u5 = u0.clearSelectors a := by
    show (u4.dropHoldings a).clearSelectors a = _
    rw [hu4, State.dropHoldings_none (by rw [hu0]; exact hhold)]
  obtain ⟨x, hx, hclear⟩ := State.clearFoxes qs u5
  have hu6 : u6 = { u5 with sched := { u5.sched with fox := x } } := hx
  have hu7 : u7.settleAll = u7 := State.settleAll_none (by
    show u6.sched.nodes = []
    rw [hu6, hu5, hu0]
    exact hnodes)
  have hasid : ∀ y, u7.asid y = if y = a then { s.asid a with live := false, quota := 0, gen := (g + 1) % 16, sweep := true } else s.asid y := by
    intro y
    have hsame : ∀ z, u6.asid z = s.asid z := by
      intro z
      rw [hu6, hu5, hu0]
      rfl
    refine (u6.asid_modAsid a y _).trans ?_
    rw [hsame, hsame, hgen]
  have hown : u7.asid a = { s.asid a with live := false, quota := 0, gen := (g + 1) % 16, sweep := true } := (hasid a).trans (if_pos rfl)
  rw [hu7] at hexec
  refine ⟨_, hexec, ?_, congrArg Asid.live hown, congrArg Asid.gen hown, congrArg Asid.sweep hown, congrArg Asid.quota hown,
    fun q hqa hqg hqon => ?_, fun y hy => (hasid y).trans (if_neg hy)⟩
  · show u6.host.replies ++ _ = _
    rw [hu6, hu5, hu0]
    rfl
  · have hq : q ∈ qs := by
      refine List.mem_map.2 ⟨(q, s.queue q), List.mem_filter.2 ⟨State.queue_listed hqon, ?_⟩, rfl⟩
      dsimp only
      rw [hqa, hqg, beq_self_eq_true, beq_self_eq_true]
      rfl
    refine ⟨?_, ?_⟩
    · show Queue.enable (kget {} u6.sched.queues q) = false
      rw [hu6, hu5, hu0]
      exact hoff q (.inl hq)
    · show kget {} u6.sched.fox q = {}
      rw [hu6]
      exact hclear q (.inl hq)

/-- A queue that is enabled starts at SEQ 0, with an empty Foxglove table. -/
theorem execQueueCfg_on {s : State} {q : Nat} {w0 w1 : Word} (h : s.AtDoorbell) (hq : q < 1024) (hon : w0.getLsbD 63 = true)
    (hoff : (s.queue q).enable = false) (hrun : (s.fox q).run = none) :
    ∃ t, exec (.queueCfg q w0 w1) s = .next t ∧ Answered s t 0x20 0 [] ∧
      t.queue q = { enable := true, specok := w0.getLsbD 62, level := w0.toNat / 2 ^ 56 % 4, tickets := w0.toNat / 2 ^ 48 % 256
                    gen := w0.toNat / 2 ^ 12 % 16, asid := w0.toNat % 4096, hevt := ((s.queue q).hevt + w1.toNat % 2 ^ 32) % 2 ^ 32, nextseq := 0 } ∧
      (t.fox q).ents = Vector.replicate 16 {} ∧ ∀ x, x ≠ q → t.queue x = s.queue x := by
  have hexec : exec (.queueCfg q w0 w1) s = execQueueCfg q w0 w1 s := rfl
  unfold execQueueCfg at hexec
  rw [mailbox_served h, if_neg (Nat.not_le.2 hq)] at hexec
  extract_lets old on new moved u v w at hexec
  have hbit : bitOf w0.toNat 63 = true := (bitOf_eq_testBit _ _).trans hon
  have hons : on = true := by
    show (bitOf w0.toNat 63 && !(s.queue q).enable) = true
    rw [hbit, hoff]
    rfl
  have hu : u = s := by
    show (if _ then (match (s.fox q).run with | some r => s.discardRun r 7 | none => s) else s) = s
    rw [hrun]
    exact ite_self _
  have hv : v = s.modFox q (fun f => { run := f.run, since := f.since }) := by
    show (if on || moved then u.modFox q (fun f => { run := f.run, since := f.since }) else u) = _
    rw [hons, Bool.true_or, if_pos rfl, hu]
  have hw : v.Tables w ∧ w.host = v.host := by
    show v.Tables (if _ then v.dropHoldings old.asid else v) ∧ State.host (if _ then v.dropHoldings old.asid else v) = v.host
    split
    · exact v.dropHoldings_keeps old.asid
    · exact ⟨State.Tables.refl v, rfl⟩
  have hnew : new = queueOf w0 w1 (s.queue q).hevt 0 := by
    show queueOf w0 w1 (s.queue q).hevt (if on then 0 else (s.queue q).nextseq) = _
    rw [hons, if_pos rfl]
  obtain ⟨hkept, hhost⟩ := hw
  have hqueues : w.sched.queues = s.sched.queues := hkept.queues.trans (by rw [hv]; rfl)
  have hfox : w.fox q = { run := (s.fox q).run, since := (s.fox q).since } := by
    rw [State.fox, hkept.fox, hv]
    exact (s.fox_modFox q q _).trans (if_pos rfl)
  refine ⟨_, hexec, ?_, ?_, congrArg Fox.ents hfox, fun x hx => ?_⟩
  · show w.host.replies ++ [Reply.mailbox 0x20 0 []] = _
    rw [hhost, hv]
    rfl
  · show kget {} (kset w.sched.queues q new) q = _
    rw [kget_kset_same, hnew]
    unfold queueOf field
    simp only [hbit, bitOf_eq_testBit, Nat.pow_zero, Nat.div_one]
    rfl
  · show kget {} (kset w.sched.queues q new) x = _
    rw [kget_kset_other _ _ _ hx, hqueues]
    rfl

/-! ## The obligation -/

theorem asidRequests : AsidRequests := by
  unfold AsidRequests
  intro s
  refine ⟨?_, fun h => ⟨?_, ?_, ?_, ?_, ?_, ?_, ?_, ?_, ?_⟩, ?_⟩
  · intro a
    exact ⟨_, rfl, State.asid_modAsid_same _ _ _, fun x hx => State.asid_modAsid_other _ hx _⟩
  · intro a g base k ha hg hk6 hk16 hlive hsweep
    have hok : ¬(4096 ≤ a ∨ 16 ≤ g ∨ k < 6 ∨ 16 < k ∨ (s.asid a).live = true) := by
      rw [hlive]
      simp only [Bool.false_eq_true, or_false]
      omega
    have hexec : exec (.asidCreate a g base k) s = execAsidCreate a g base k s := rfl
    unfold execAsidCreate at hexec
    rw [mailbox_served h] at hexec
    dsimp only at hexec
    rw [if_neg hok, if_neg (by rw [hsweep]; exact Bool.false_ne_true)] at hexec
    have hnew := (s.clearSelectors a).asid_modAsid_same a (fun x => { x with
      live := true, gen := g, ringBase := base, ringK := k, ringWr := 0, ringRd := 0, pass := true })
    have hother : ∀ x, x ≠ a → _ := fun x hx => (s.clearSelectors a).asid_modAsid_other hx (fun x => { x with
      live := true, gen := g, ringBase := base, ringK := k, ringWr := 0, ringRd := 0, pass := true })
    refine ⟨_, hexec, rfl, ?_⟩
    refine ⟨congrArg Asid.live hnew, congrArg Asid.gen hnew, congrArg Asid.ringBase hnew, congrArg Asid.ringK hnew, congrArg Asid.ringWr hnew,
      congrArg Asid.ringRd hnew, congrArg Asid.pass hnew, hother⟩
  · intro a g base k hbad
    have hexec : exec (.asidCreate a g base k) s = execAsidCreate a g base k s := rfl
    unfold execAsidCreate at hexec
    rw [mailbox_served h] at hexec
    dsimp only at hexec
    rw [if_pos hbad] at hexec
    exact hexec
  · intro a g base k ha hg hk6 hk16 hlive hsweep
    have hok : ¬(4096 ≤ a ∨ 16 ≤ g ∨ k < 6 ∨ 16 < k ∨ (s.asid a).live = true) := by
      rw [hlive]
      simp only [Bool.false_eq_true, or_false]
      omega
    have hexec : exec (.asidCreate a g base k) s = execAsidCreate a g base k s := rfl
    unfold execAsidCreate at hexec
    rw [mailbox_served h] at hexec
    dsimp only at hexec
    rw [if_neg hok, if_pos hsweep] at hexec
    exact hexec
  · exact fun a g hlive hcells hnodes hhold hrun => execAsidRetire_shows h hlive hcells hnodes hhold hrun
  · intro a g hstale
    show execAsidRetire a g s = _
    unfold execAsidRetire
    exact mailbox_stale h hstale _ _ _
  · exact fun q w0 w1 hq hon hoff hrun => execQueueCfg_on h hq hon hoff hrun
  · intro q w0 w1 hq
    have hexec : exec (.queueCfg q w0 w1) s = execQueueCfg q w0 w1 s := rfl
    unfold execQueueCfg at hexec
    rw [mailbox_served h, if_pos hq] at hexec
    exact hexec
  · intro a g n hlive
    have hexec : exec (.quota ⟨a, g⟩ n) s = execQuota ⟨a, g⟩ n s := rfl
    unfold execQuota at hexec
    rw [mailbox_ofAsid h hlive] at hexec
    refine ⟨_, hexec, rfl, s.asid_modAsid_same a (fun x => { x with quota := n }), fun x hx => s.asid_modAsid_other hx (fun x => { x with quota := n })⟩
  · intro a g n hstale
    show execQuota ⟨a, g⟩ n s = _
    unfold execQuota
    exact mailbox_stale h hstale _ _ _
  · intro hserves q a g r
    have hexec : exec (.submit q a g r) s = execSubmit q a g r s := rfl
    unfold execSubmit at hexec
    rw [hserves, if_neg (by exact Bool.false_ne_true)] at hexec
    exact ⟨_, hexec, rfl, rfl⟩

/-- Settles O47: each request's reply and the tables it changes, buffers and windows first, then ASIDs, queues and quotas. -/
theorem bufferAndAsidRequests : Obligations.BufferAndAsidRequests := ⟨bufferRequests, asidRequests⟩

end Sys2Proof.Machine

end

section
/-! Requests of the host for remote handles, dies, descriptors and Foxglove tables (05 R105; 10 R195; 13 R281; 17 R325, R331, R334). -/

namespace Sys2Proof.Machine

/-! ## The version of the discovery table -/

/-- The version of the discovery table once an update is under way (05 R105). -/
def openVer (v : Nat) : Nat := if v % 2 = 1 then v else (v + 1) % 2 ^ 32

theorem openVer_openVer (v : Nat) : openVer (openVer v) = openVer v := by
  have hodd : openVer v % 2 = 1 := by
    unfold openVer
    split <;> omega
  exact if_pos hodd

theorem State.discUpdate_discVer (s : State) : s.discUpdate.sched.discVer = openVer s.sched.discVer := by
  unfold State.discUpdate openVer
  split <;> rfl

/-- Nothing is told to the host, and the discovery table changes at most by an update under way. -/
structure State.Unheard (s t : State) : Prop where
  host : t.host = s.host
  ver : openVer t.sched.discVer = openVer s.sched.discVer

namespace State.Unheard

theorem refl (s : State) : Unheard s s := ⟨rfl, rfl⟩

theorem trans {s t u : State} (h : Unheard s t) (h' : Unheard t u) : Unheard s u := ⟨h'.host.trans h.host, h'.ver.trans h.ver⟩

theorem of_ver {s t : State} (hhost : t.host = s.host) (hver : t.sched.discVer = s.sched.discVer) : Unheard s t := ⟨hhost, by rw [hver]⟩

theorem foldl {α : Type} {f : State → α → State} (hf : ∀ t x, Unheard t (f t x)) (l : List α) (s : State) : Unheard s (l.foldl f s) :=
  List.foldlRecOn (motive := fun (t : State) => Unheard s t) l f (refl s) fun t ht x _ => ht.trans (hf t x)

theorem discUpdate (s : State) : Unheard s s.discUpdate := by
  refine ⟨?_, by rw [s.discUpdate_discVer, openVer_openVer]⟩
  unfold State.discUpdate
  split <;> rfl

theorem discCaused (s : State) (d : Nat) : Unheard s (s.discCaused d) := by
  refine (discUpdate s).trans ?_
  unfold State.discCaused State.logCause
  rw [State.logRec_eq]
  split <;> exact of_ver rfl rfl

theorem retireCell (s : State) (k : Nat) : Unheard s (s.retireCell k) := by
  unfold State.retireCell
  extract_lets d
  split
  · exact (of_ver (s := s) (t := s.modDie (k / 128) _) rfl rfl).trans (discCaused _ _)
  · exact refl s

theorem idleCell (s : State) (k n : Nat) : Unheard s (s.idleCell k n) := by
  unfold State.idleCell
  extract_lets c mine u
  have hu : Unheard s u := by
    show Unheard s (match mine c.shadow with | some t => _ | none => _)
    split
    · exact of_ver rfl rfl
    · exact refl s
  split
  · refine Unheard.trans ?_ (retireCell _ _)
    exact hu.trans (of_ver rfl rfl)
  · exact hu

theorem modBuf (s : State) (h : Nat) (f : Buf → Buf) : Unheard s (s.modBuf h f) := by
  obtain ⟨b, hb⟩ := s.modBuf_frame h f
  rw [hb]
  exact of_ver rfl rfl

theorem freeBuf (s : State) (h : Nat) : Unheard s (s.freeBuf h) := of_ver rfl rfl

theorem dropRef (s : State) (h : Nat) : Unheard s (s.dropRef h) := by
  unfold State.dropRef
  split
  · split
    · exact modBuf _ _ _
    · extract_lets u
      split
      · split
        · exact (freeBuf s h).trans (modBuf _ _ _)
        · exact (freeBuf s h).trans (freeBuf _ _)
      · exact freeBuf s h
  · exact refl s

theorem discardRun (s : State) (n cause : Nat) : Unheard s (s.discardRun n cause) := by
  unfold State.discardRun
  split
  · next nd hnd =>
    split
    · extract_lets a gran b c d e f
      have ha : Unheard s a := foldl (fun t k => idleCell t k n) _ s
      have hb : Unheard a b := foldl (fun t p => freeBuf t _) _ a
      have hc : Unheard b c := foldl (fun t _ => dropRef t _) _ b
      exact ((ha.trans hb).trans hc).trans (of_ver rfl rfl)
    · exact refl s
  · exact refl s

theorem takeOff (s : State) (d st : Nat) : Unheard s (s.takeOff d st) :=
  (foldl (f := fun s n => s.discardRun n 4) (fun t n => discardRun t n 4) (s.runsOn d) s).trans (of_ver rfl rfl)

theorem planMoves (s : State) (i : Nat) (l : List Nat) : Unheard s (s.planMoves i l).1 := by
  induction l generalizing s with
  | nil => exact refl s
  | cons h l ih =>
    unfold State.planMoves
    split
    · exact ih s
    · split
      · exact ih s
      · split
        · exact (modBuf s h _).trans (ih _)
        · exact ih s

theorem loseBuf (s : State) (h : Nat) : Unheard s (s.loseBuf h) := by
  unfold State.loseBuf
  extract_lets u
  have hu : Unheard s u := modBuf s h _
  exact hu.trans (foldl (f := fun t (e : Nat × Asid) => t.deviceRecord e.1 0x7FD (wNat h)) (fun t e => of_ver rfl rfl) _ u)

theorem beginCopies (s : State) (i : Nat) : Unheard s (s.beginCopies i) := by
  rw [State.beginCopies_eq]
  refine foldl (fun t h => ?_) _ s
  unfold State.beginCopy
  split
  · exact refl t
  · exact modBuf t h _

theorem clearStack (s : State) (i : Nat) : Unheard s (s.clearStack i) := by
  unfold State.clearStack
  exact ((planMoves s i _).trans (foldl (fun t h => loseBuf t h) _ _)).trans (beginCopies _ _)

end State.Unheard

/-- The update that an event of a die causes. -/
theorem State.discCaused_discVer (s : State) (d : Nat) : (s.discCaused d).sched.discVer = openVer s.sched.discVer := by
  rw [← s.discUpdate_discVer]
  unfold State.discCaused State.logCause
  rw [State.logRec_eq]
  split <;> rfl

/-! ## Remote handles, descriptors, Foxglove tables -/

theorem FoxEnt.words_length (e : FoxEnt) : e.words.length = 19 := rfl

theorem flatMap_words_length (l : List FoxEnt) : (l.flatMap FoxEnt.words).length = l.length * 19 := by
  induction l with
  | nil => rfl
  | cons e l ih =>
    rw [List.flatMap_cons, List.length_append, FoxEnt.words_length, ih, List.length_cons]
    omega

theorem execRemoteExport_live {s : State} {a g : Nat} (h : s.AtDoorbell) (hlive : s.asidIs a g = true) {hd base limit : Nat} {r : BitVec 5} {b : Buf}
    (hb : s.buf? hd = some b) (hshared : b.shared = true) (hbase : base ≤ limit) (hlimit : limit ≤ b.bytes) :
    exec (.remoteExport a g hd base limit r) s = .next (
      if r &&& rightsRWA &&& ~~~(s.held a hd) ≠ 0 then s.answerMail 0x30 (asidGen a g) 3 []
      else (s.setFabric (fun x => { x with
        exports := x.exports ++ [{ handle := hd, base := base, limit := limit, rights := r }] })).answerMail 0x30 (asidGen a g) 0 []) := by
  have hexec : exec (.remoteExport a g hd base limit r) s = execRemoteExport a g hd base limit r s := rfl
  have hok : ¬((!b.shared) = true ∨ limit < base ∨ b.bytes < limit) := by
    rw [hshared]
    rintro (hc | hc | hc)
    · exact Bool.false_ne_true hc
    · omega
    · omega
  unfold execRemoteExport at hexec
  rw [mailbox_ofAsid h hlive, hb] at hexec
  dsimp only at hexec
  rw [if_neg hok] at hexec
  rw [hexec]
  split <;> rfl

theorem execRemoteImport_shows {s : State} {a g : Nat} (h : s.AtDoorbell) (hlive : s.asidIs a g = true) {i : Nat}
    (hi : s.freeIndex 1 0xEFFFFF = some i) (tgt m e base limit : Nat) (r : BitVec 5) (d : List Word) :
    ∃ t x, exec (.remoteImport a g tgt m e base limit r d) s = .next t ∧ Answered s t 0x31 0 [wNat (s.handleAt i)] ∧
      kget? t.fabric.remote (s.handleAt i) = some x ∧ x.target = tgt ∧ x.module = m ∧ x.epoch = e ∧ x.base = base ∧ x.limit = limit ∧
      x.rights = r ∧ (kget (0, 0) (t.asid a).holdings (s.handleAt i)).2 &&& r = r := by
  have hexec : exec (.remoteImport a g tgt m e base limit r d) s = execRemoteImport a g tgt m e base limit r d s := rfl
  unfold execRemoteImport at hexec
  rw [mailbox_ofAsid h hlive, hi] at hexec
  dsimp only at hexec
  exact ⟨_, _, hexec, rfl, (kget?_kset _ _ _ _).trans (if_pos rfl), rfl, rfl, rfl, rfl, rfl, rfl, State.hold_rights _ _ _ _⟩

theorem execFoxRead_shows {s : State} {q a g : Nat} (h : s.AtDoorbell) (hq : q < 1024) (hlive : s.asidIs a g = true) :
    ∃ t ws, exec (.foxRead q ⟨a, g⟩) s = .next t ∧ Answered s t 0x51 0 ws ∧ ws.length = 313 ∧
      ws.drop 304 = (s.asid a).ctrs.toList.map wNat ++ [wNat (s.asid a).lastFault] ∧ (t.asid a).ctrs = Vector.replicate 8 0 ∧
      t.fox q = s.fox q := by
  have hexec : exec (.foxRead q ⟨a, g⟩) s = execFoxRead q ⟨a, g⟩ s := rfl
  unfold execFoxRead at hexec
  rw [mailbox_ofAsid h hlive, if_neg (Nat.not_le.2 hq)] at hexec
  dsimp only at hexec
  have hents : ((s.fox q).ents.toList.flatMap FoxEnt.words).length = 304 := by
    rw [flatMap_words_length, Vector.length_toList]
  refine ⟨_, _, hexec, rfl, ?_, ?_, congrArg Asid.ctrs (s.asid_modAsid_same a (fun x => { x with ctrs := Vector.replicate 8 0 })), rfl⟩
  · rw [List.length_append, List.length_append, hents, List.length_map, Vector.length_toList, List.length_singleton]
  · rw [List.append_assoc, List.drop_append, hents, List.drop_eq_nil_of_le (Nat.le_of_eq hents), List.nil_append]
    rfl

/-! ## Dies -/

theorem execDieOffline_compute {s : State} (h : s.AtDoorbell) {d : Nat} (f : Bool) (hlo : 1 ≤ Config.dieClass s.pop d) (hhi : Config.dieClass s.pop d ≤ 4)
    (hst : (s.die d).st < 2) :
    ∃ t, exec (.dieOffline d f) s = .next t ∧ Answered s t 0x40 0 [] ∧ (t.die d).st = 1 ∧ (t.die d).avail = 0 ∧
      t.sched.discVer = openVer s.sched.discVer := by
  have hexec : exec (.dieOffline d f) s = execDieOffline d f s := rfl
  unfold execDieOffline at hexec
  rw [mailbox_served h] at hexec
  dsimp only at hexec
  rw [if_neg (by omega), if_pos (by omega)] at hexec
  dsimp only at hexec
  obtain ⟨hstate, havail, -, -⟩ := s.takeOff_die d 1
  obtain ⟨u, hu⟩ : ∃ u, u = s.takeOff d 1 := ⟨_, rfl⟩
  have hoff : s.Unheard u := hu ▸ State.Unheard.takeOff s d 1
  rw [← hu] at hexec hstate havail
  have hdies : u.discUpdate.dies = u.dies := by
    unfold State.discUpdate
    split <;> rfl
  have hdie : u.discUpdate.die d = u.die d := by
    unfold State.die
    rw [hdies]
  refine ⟨_, hexec, ?_, (congrArg Die.st hdie).trans hstate, (congrArg Die.avail hdie).trans havail,
    u.discUpdate_discVer.trans hoff.ver⟩
  show u.discUpdate.host.replies ++ _ = _
  rw [(State.Unheard.discUpdate u).host, hoff.host]

theorem execDieOffline_stack {s : State} (h : s.AtDoorbell) {d : Nat} (f : Bool) (hcls : Config.dieClass s.pop d = 7) (hst : (s.die d).st < 2) :
    let u := (s.takeOff d 1).discUpdate
    let stuck := (u.planMoves (d - 32) (u.buffersOn (d - 32))).2
    (f = true ∨ stuck = [] → ∃ t, exec (.dieOffline d f) s = .next t ∧ Answered s t 0x40 0 [] ∧ (t.die d).st = 1) ∧
    (f = false → stuck ≠ [] → exec (.dieOffline d f) s = .next (s.answerMail 0x40 none 1 [])) := by
  intro u stuck
  have hexec : exec (.dieOffline d f) s = execDieOffline d f s := rfl
  unfold execDieOffline at hexec
  rw [mailbox_served h] at hexec
  dsimp only at hexec
  rw [hcls, if_neg (by omega), if_neg (not_not.2 rfl)] at hexec
  refine ⟨fun hgo => ?_, fun hf hstuck => ?_⟩
  · rw [if_neg (fun hx => hgo.elim (fun hf => by rw [hf] at hx; exact Bool.false_ne_true hx.1) (fun hno => hx.2 hno))] at hexec
    have hquiet : s.Unheard (u.clearStack (d - 32)) :=
      ((State.Unheard.takeOff s d 1).trans (State.Unheard.discUpdate _)).trans (State.Unheard.clearStack u _)
    have hdies : u.dies = (s.takeOff d 1).dies := by
      show (s.takeOff d 1).discUpdate.dies = _
      unfold State.discUpdate
      split <;> rfl
    have hkept := (State.SameDies.of_dies hdies).trans (State.SameDies.clearStack u (d - 32))
    obtain ⟨w, hw⟩ : ∃ w, w = u.clearStack (d - 32) := ⟨_, rfl⟩
    rw [← hw] at hquiet hkept
    refine ⟨w.answerMail 0x40 none 0 [], by rw [hw]; exact hexec, ?_, (hkept d).st.trans (s.takeOff_die d 1).1⟩
    show w.host.replies ++ _ = _
    rw [hquiet.host]
  · rw [if_pos ⟨by rw [hf]; rfl, hstuck⟩] at hexec
    exact hexec

theorem execDieOnline_shows {s : State} (h : s.AtDoorbell) {d : Nat} (hcls : Config.dieClass s.pop d ≠ 0) (hst : (s.die d).st = 2) :
    ∃ t, exec (.dieOnline d) s = .next t ∧ Answered s t 0x41 0 [] ∧ (t.die d).st = 0 ∧ (t.die d).avail = s.availOf d ∧
      t.sched.discVer = openVer s.sched.discVer := by
  have hexec : exec (.dieOnline d) s = execDieOnline d s := rfl
  unfold execDieOnline at hexec
  rw [mailbox_served h] at hexec
  rw [if_neg (by rintro (hc | hc) <;> contradiction)] at hexec
  obtain ⟨u, hu⟩ : ∃ u, u = s.modDie d (fun x => { x with st := 0, avail := s.availOf d }) := ⟨_, rfl⟩
  rw [← hu] at hexec
  have hdies : u.discUpdate.dies = u.dies := by
    unfold State.discUpdate
    split <;> rfl
  have hdie : u.discUpdate.die d = { s.die d with st := 0, avail := s.availOf d } := by
    rw [State.die, hdies, hu]
    exact s.die_modDie_same d _
  refine ⟨_, hexec, ?_, congrArg Die.st hdie, congrArg Die.avail hdie, u.discUpdate_discVer.trans (by rw [hu]; rfl)⟩
  show u.discUpdate.host.replies ++ _ = _
  rw [(State.Unheard.discUpdate u).host, hu]
  rfl

theorem execDieOfflineComplete_shows {s : State} {d : Nat} (hlo : 1 ≤ Config.dieClass s.pop d) (hhi : Config.dieClass s.pop d ≤ 4)
    (hst : (s.die d).st = 1)
    (hidle : ∀ e ∈ s.cells, e.1 / 128 = d → isService e.1 = false → e.2.b.task = none ∧ e.2.shadow = none ∧ e.2.suspended = []) :
    ∃ t, exec (.dieOfflineComplete d) s = .next t ∧ (t.die d).st = 2 ∧ t.sched.discVer = openVer s.sched.discVer := by
  have hall : (s.cells.all fun e => e.1 / 128 != d || isService e.1 || e.2.empty) = true := by
    refine List.all_eq_true.2 fun e he => ?_
    by_cases hd : e.1 / 128 = d
    · cases hsvc : isService e.1 with
      | true => rw [Bool.or_true, Bool.true_or]
      | false =>
        obtain ⟨htask, hshadow, hsus⟩ := hidle e he hd hsvc
        rw [Cell.empty, htask, hshadow, hsus, Bool.or_comm]
        rfl
    · rw [bne_iff_ne.2 hd]
      rfl
  have hexec : exec (.dieOfflineComplete d) s = execDieOfflineComplete d s := rfl
  unfold execDieOfflineComplete at hexec
  dsimp only at hexec
  rw [if_pos ⟨hst, hlo, hhi, hall⟩] at hexec
  refine ⟨_, hexec, ?_, (State.discCaused_discVer _ d).trans rfl⟩
  rw [(State.SameDies.discCaused _ d d).st, State.die_modDie_same]

/-! ## The end of a copy -/

/-- The handles of the buffers whose copy off stack i ends. -/
def State.moving (s : State) (i : Nat) : List Nat :=
  (s.bufs.filter (fun e => e.2.homes.getLsbD i && !e.2.toHomes.getLsbD i && e.2.st == .evacuating)).map (fun e => e.2.handle)

/-- What the end of the copies off a stack leaves: no byte changes, and nothing else of a descriptor. -/
theorem execEvacuationComplete_shows {s : State} {d : Nat} (hcls : Config.dieClass s.pop d = 7) :
    ∃ t, exec (.evacuationComplete d) s = .next t ∧
      t.hbm = (((s.moving (d - 32)).foldl State.moveBuf s).beginCopies (d - 32)).hbm ∧
      t.bufs = (((s.moving (d - 32)).foldl State.moveBuf s).beginCopies (d - 32)).bufs ∧
      ((s.die d).st = 1 → (((s.moving (d - 32)).foldl State.moveBuf s).beginCopies (d - 32)).buffersOn (d - 32) = [] → (t.die d).st = 2) := by
  have hexec : exec (.evacuationComplete d) s = execEvacuationComplete d s := rfl
  obtain ⟨u, hu⟩ : ∃ u, u = ((s.moving (d - 32)).foldl State.moveBuf s).beginCopies (d - 32) := ⟨_, rfl⟩
  have hdie : (u.die d).st = (s.die d).st := by
    rw [hu]
    refine ((State.SameDies.foldl (fun t h => ?_) _ s).trans (State.SameDies.beginCopies _ _) d).st
    exact State.SameDies.modBuf t h _
  unfold execEvacuationComplete at hexec
  rw [if_pos hcls] at hexec
  rw [← hu]
  by_cases hdone : (u.die d).st = 1 ∧ u.buffersOn (d - 32) = []
  · refine ⟨(u.modDie d (fun x => { x with st := 2 })).discCaused d, hexec.trans (congrArg Host.Outcome.next ?_), ?_, ?_, ?_⟩
    · rw [hu] at hdone ⊢
      exact if_pos hdone
    · rw [(State.Logs.discCaused _ d).frame]
      rfl
    · rw [(State.Logs.discCaused _ d).frame]
      rfl
    · intro _ _
      rw [(State.SameDies.discCaused _ d d).st, State.die_modDie_same]
  · refine ⟨u, hexec.trans (congrArg Host.Outcome.next ?_), rfl, rfl, fun hst hno => absurd ⟨hdie.trans hst, hno⟩ hdone⟩
    rw [hu] at hdone ⊢
    exact if_neg hdone

/-- Where nothing has storage on a stack no copy ends and none begins. -/
theorem State.copies_none {s : State} {i : Nat} (hno : s.buffersOn i = []) : ((s.moving i).foldl State.moveBuf s).beginCopies i = s := by
  have hempty : ∀ e ∈ s.bufs, ((e.2.homes.getLsbD i || e.2.toHomes.getLsbD i) && (e.2.st == .live || e.2.st == .evacuating)) = false :=
    fun e he => Bool.eq_false_iff.2 (List.filter_eq_nil_iff.1 (List.map_eq_nil_iff.1 hno) e he)
  have hmoving : s.moving i = [] := by
    refine List.map_eq_nil_iff.2 (List.filter_eq_nil_iff.2 fun e he hc => ?_)
    rw [Bool.and_eq_true, Bool.and_eq_true] at hc
    obtain ⟨⟨hhome, -⟩, hst⟩ := hc
    have := hempty e he
    rw [hhome, hst, Bool.or_true] at this
    exact Bool.false_ne_true this.symm
  have hcopy : s.copyable i = [] := by
    refine List.map_eq_nil_iff.2 (List.filter_eq_nil_iff.2 fun e he hc => ?_)
    rw [Bool.and_eq_true, Bool.and_eq_true] at hc
    obtain ⟨⟨hhome, -⟩, hst⟩ := hc
    have := hempty e he
    rw [hhome, hst] at this
    exact Bool.false_ne_true this.symm
  rw [hmoving, List.foldl_nil, State.beginCopies_eq, hcopy, List.foldl_nil]

/-- A descriptor whose copy has ended. -/
def Buf.moved (b : Buf) : Buf := if b.toHomes = 0 then b else { b with homes := b.toHomes, toHomes := 0, st := .live }

theorem Buf.moved_handle (b : Buf) : b.moved.handle = b.handle := by
  unfold Buf.moved
  split <;> rfl

theorem Buf.moved_moved (b : Buf) : b.moved.moved = b.moved := by
  have hto : b.moved.toHomes = 0 := by
    unfold Buf.moved
    split
    · assumption
    · rfl
  exact if_pos hto

theorem Buf.moved_live {b : Buf} (h : b.st ≠ .free) : b.moved.st ≠ .free := by
  unfold Buf.moved
  split
  · exact h
  · exact show BufState.live ≠ .free by decide

/-- The copies of some buffers end: one among them is at its new homes, and whatever stands under its handle is it. -/
theorem State.foldl_moveBuf {h : Nat} {b : Buf} (hlive : b.st ≠ .free) (hhandle : b.handle = h) (l : List Nat) :
    ∀ {s : State} {c : Buf}, s.buf? h = some c → c = b ∨ c = b.moved → (∀ e ∈ s.bufs, e.2.handle = h → e.2 = b ∨ e.2 = b.moved) →
      (l.foldl State.moveBuf s).buf? h = some (if h ∈ l then b.moved else c) ∧
        ∀ e ∈ (l.foldl State.moveBuf s).bufs, e.2.handle = h → e.2 = b ∨ e.2 = b.moved := by
  induction l with
  | nil => exact fun hc _ huniq => ⟨hc, huniq⟩
  | cons j l ih =>
    intro s c hc hcb huniq
    have hmove : s.moveBuf j = s.modBuf j Buf.moved := rfl
    rw [List.foldl_cons]
    by_cases hj : j = h
    · subst hj
      have hmoved : c.moved = b.moved := by
        obtain rfl | rfl := hcb
        · rfl
        · exact b.moved_moved
      have hset : (s.moveBuf j).buf? j = some b.moved := by
        rw [hmove, State.buf?_modBuf_set hc (by rw [hmoved, Buf.moved_handle, hhandle]) (by rw [hmoved]; exact Buf.moved_live hlive), hmoved]
      obtain ⟨hbuf, hents⟩ := ih hset (.inr rfl) fun e he heh => by
        rw [hmove] at he
        obtain rfl | hold := (State.mem_modBuf hc Buf.moved).2 e he
        · exact .inr hmoved
        · exact huniq e hold heh
      refine ⟨hbuf.trans ?_, hents⟩
      rw [ite_self, if_pos List.mem_cons_self]
    · have hother : (s.moveBuf j).buf? h = some c := by
        rw [hmove, s.buf?_modBuf_other hj Buf.moved_handle, hc]
      obtain ⟨hbuf, hents⟩ := ih hother hcb fun e he heh => by
        rw [hmove] at he
        cases hx : s.buf? j with
        | none =>
          unfold State.modBuf at he
          rw [hx] at he
          exact huniq e he heh
        | some x =>
          obtain rfl | hold := (State.mem_modBuf hx Buf.moved).2 e he
          · exact absurd ((x.moved_handle.trans (State.buf?_handle hx).1).symm.trans heh) hj
          · exact huniq e hold heh
      have hiff : h ∈ j :: l ↔ h ∈ l := List.mem_cons.trans (or_iff_right fun e => hj e.symm)
      simp only [hiff]
      exact ⟨hbuf, hents⟩

theorem State.foldl_moveBuf_leased (l : List Nat) (s : State) (h : Nat) : (l.foldl State.moveBuf s).leased h = s.leased h := by
  refine List.foldlRecOn (motive := fun (t : State) => t.leased h = s.leased h) _ _ rfl fun t ht j _ => ?_
  exact (t.modBuf_leased j _ h).trans ht

/-- No byte changes when copies end or begin. -/
theorem State.copies_hbm (s : State) (l : List Nat) (i : Nat) : ((l.foldl State.moveBuf s).beginCopies i).hbm = s.hbm := by
  rw [State.beginCopies_eq]
  refine List.foldlRecOn (motive := fun (t : State) => t.hbm = s.hbm) _ _ ?_ fun t ht j _ => ?_
  · refine List.foldlRecOn (motive := fun (t : State) => t.hbm = s.hbm) _ _ rfl fun t ht j _ => ?_
    exact (t.modBuf_fabric j _).2.1.trans ht
  · unfold State.beginCopy
    split
    · exact ht
    · exact (t.modBuf_fabric j _).2.1.trans ht

/-- The end of a copy, and its beginning where none was under way. -/
theorem State.copies_show {s : State} {i h : Nat} {b : Buf} (hb : s.buf? h = some b) (hhome : b.homes.getLsbD i = true) (hto : b.toHomes ≠ 0)
    (hleaves : b.toHomes.getLsbD i = false) (huniq : ∀ e ∈ s.bufs, e.2.handle = h → e.2 = b) :
    (b.st = .evacuating → (((s.moving i).foldl State.moveBuf s).beginCopies i).buf? h =
      some { b with homes := b.toHomes, toHomes := 0, st := .live }) ∧
    (b.st = .live → s.leased h = false → (((s.moving i).foldl State.moveBuf s).beginCopies i).buf? h = some { b with st := .evacuating }) := by
  obtain ⟨hhandle, hmem⟩ := State.buf?_handle hb
  have hmoved : b.moved = { b with homes := b.toHomes, toHomes := 0, st := .live } := if_neg hto
  refine ⟨fun hst => ?_, fun hst hfree => ?_⟩
  · have hin : h ∈ s.moving i := by
      refine List.mem_map.2 ⟨_, List.mem_filter.2 ⟨hmem, ?_⟩, hhandle⟩
      dsimp only
      rw [hhome, hleaves, hst]
      rfl
    obtain ⟨hbuf, hents⟩ := State.foldl_moveBuf (by rw [hst]; decide) hhandle (s.moving i) hb (.inl rfl) fun e he heh => .inl (huniq e he heh)
    rw [if_pos hin, hmoved] at hbuf
    refine (State.beginCopies_other fun hc => ?_).trans hbuf
    obtain ⟨e, he, heh⟩ := List.mem_map.1 hc
    obtain ⟨hein, hef⟩ := List.mem_filter.1 he
    rw [Bool.and_eq_true, Bool.and_eq_true, bne_iff_ne, beq_iff_eq] at hef
    obtain ⟨⟨-, hne⟩, hlive⟩ := hef
    obtain hx | hx := hents e hein heh
    · rw [hx, hst] at hlive
      exact absurd hlive (by decide)
    · rw [hx, hmoved] at hne
      exact hne rfl
  · have hout : h ∉ s.moving i := by
      intro hc
      obtain ⟨e, he, heh⟩ := List.mem_map.1 hc
      obtain ⟨hein, hef⟩ := List.mem_filter.1 he
      rw [huniq e hein heh, Bool.and_eq_true, hst] at hef
      exact absurd hef.2 (by decide)
    obtain ⟨hbuf, -⟩ := State.foldl_moveBuf (by rw [hst]; decide) hhandle (s.moving i) hb (.inl rfl) fun e he heh => .inl (huniq e he heh)
    rw [if_neg hout] at hbuf
    refine State.beginCopies_begins hbuf ?_ (by rw [State.foldl_moveBuf_leased, hfree])
    refine List.mem_map.2 ⟨_, List.mem_filter.2 ⟨(State.buf?_handle hbuf).2, ?_⟩, hhandle⟩
    rw [Bool.and_eq_true, Bool.and_eq_true, bne_iff_ne, beq_iff_eq]
    exact ⟨⟨hhome, hto⟩, hst⟩

/-! ## The obligation -/

/-- Settles O48: each request's reply and the tables it changes; the version of the discovery table follows every change of a die, and the
copies off a stack are followed buffer by buffer. -/
theorem dieAndReadRequests : Obligations.DieAndReadRequests := by
  unfold Obligations.DieAndReadRequests
  intro s odd
  refine ⟨fun h => ⟨?_, ?_, ?_, ?_, ?_, ?_, ?_, ?_, ?_, ?_, ?_⟩, ?_, ?_⟩
  · intro a g hd base limit r b hlive hb hshared hbase hlimit
    have hexec := execRemoteExport_live h hlive (r := r) hb hshared hbase hlimit
    refine ⟨fun hr => ?_, fun hr => ?_⟩
    · rw [if_neg (not_not.2 hr)] at hexec
      exact ⟨_, hexec, rfl, rfl⟩
    · rw [if_pos hr] at hexec
      exact hexec
  · intro a g hd base limit r hlive hb
    have hexec : exec (.remoteExport a g hd base limit r) s = execRemoteExport a g hd base limit r s := rfl
    unfold execRemoteExport at hexec
    rw [mailbox_ofAsid h hlive, hb] at hexec
    exact hexec
  · exact fun a g tgt m e base limit r d i hlive hi => execRemoteImport_shows h hlive hi tgt m e base limit r d
  · intro a g tgt m e base limit r d hlive hi
    have hexec : exec (.remoteImport a g tgt m e base limit r d) s = execRemoteImport a g tgt m e base limit r d s := rfl
    unfold execRemoteImport at hexec
    rw [mailbox_ofAsid h hlive, hi] at hexec
    exact ⟨_, hexec, rfl, rfl⟩
  · intro d f
    refine ⟨fun hbad => ?_, fun hlo hhi hst => execDieOffline_compute h f hlo hhi hst, fun hcls hst => execDieOffline_stack h f hcls hst⟩
    have hexec : exec (.dieOffline d f) s = execDieOffline d f s := rfl
    unfold execDieOffline at hexec
    rw [mailbox_served h] at hexec
    dsimp only at hexec
    rw [if_pos hbad] at hexec
    exact hexec
  · refine fun d => ⟨fun hcls hst => execDieOnline_shows h hcls hst, fun hst => ?_⟩
    have hexec : exec (.dieOnline d) s = execDieOnline d s := rfl
    unfold execDieOnline at hexec
    rw [mailbox_served h, if_pos (.inr hst)] at hexec
    exact hexec
  · intro a g hd b hlive hb
    have hexec : exec (.readDesc (⟨a, g⟩, hd)) s = execReadDesc (⟨a, g⟩, hd) s := rfl
    unfold execReadDesc at hexec
    rw [mailbox_ofAsid h hlive, hb] at hexec
    exact hexec
  · intro a g hd hno
    have hexec : exec (.readDesc (⟨a, g⟩, hd)) s = execReadDesc (⟨a, g⟩, hd) s := rfl
    unfold execReadDesc at hexec
    cases hlive : s.asidIs a g with
    | false => exact hexec.trans (mailbox_stale h hlive _ _ _)
    | true =>
      rw [mailbox_ofAsid h hlive, hno.resolve_left (by rw [hlive]; exact Bool.noConfusion)] at hexec
      exact hexec
  · intro q a g hbad
    have hexec : exec (.foxRead q ⟨a, g⟩) s = execFoxRead q ⟨a, g⟩ s := rfl
    unfold execFoxRead at hexec
    cases hlive : s.asidIs a g with
    | false => exact hexec.trans (mailbox_stale h hlive _ _ _)
    | true =>
      rw [mailbox_ofAsid h hlive, if_pos (hbad.resolve_left (by rw [hlive]; exact Bool.noConfusion))] at hexec
      exact hexec
  · exact fun q a g hq hlive => execFoxRead_shows h hq hlive
  · intro c hc
    have hexec : exec (.mailboxUnknownCode c) s = execMailboxUnknownCode c s := rfl
    unfold execMailboxUnknownCode at hexec
    rw [if_neg (by rw [List.contains_iff_mem]; exact hc), mailbox_served h] at hexec
    exact hexec
  · exact fun d hlo hhi hst hidle => execDieOfflineComplete_shows hlo hhi hst hidle
  · intro d hcls
    obtain ⟨t, hexec, hhbm, hbufs, hdone⟩ := execEvacuationComplete_shows hcls
    refine ⟨fun hst hno => ⟨t, hexec, hdone hst (by rw [State.copies_none hno]; exact hno)⟩, fun hd b hb hhome hto hleaves huniq => ?_⟩
    have hbuf : t.buf? hd = (((s.moving (d - 32)).foldl State.moveBuf s).beginCopies (d - 32)).buf? hd := by
      rw [State.buf?, hbufs]
      rfl
    obtain ⟨hends, hbegins⟩ := State.copies_show hb hhome hto hleaves huniq
    exact ⟨t, hexec, hhbm.trans (s.copies_hbm _ _), fun hst => hbuf.trans (hends hst), fun hst hfree => hbuf.trans (hbegins hst hfree)⟩

end Sys2Proof.Machine

end

section
/-! The canonical form of the memories: what the updates of the state and the combinators of the model keep. -/

namespace Sys2Proof.Machine

/-! ## Cells -/

/-- The memories of the tasks suspended on cell k are canonical and lie in Regions 0 to 3 of the cell. -/
def Cell.Fits (k : Nat) (c : Cell) : Prop :=
  ∀ x ∈ c.suspended, x.mem.wf = true ∧ ∀ p ∈ x.mem, padBase k ≤ p.1 ∧ p.1 < chipAddr k 4 0

theorem Cell.Fits.of_suspended {k : Nat} {c d : Cell} (h : c.Fits k) (hd : d.suspended = c.suspended) : d.Fits k := by
  unfold Cell.Fits
  rw [hd]
  exact h

/-- Suspended tasks that are among those of a cell, or have the memory of one of them. -/
theorem Cell.Fits.of_subset {k : Nat} {c d : Cell} (h : c.Fits k) (hd : ∀ x ∈ d.suspended, ∃ y ∈ c.suspended, x.mem = y.mem) : d.Fits k := by
  intro x hx
  obtain ⟨y, hy, hmem⟩ := hd x hx
  rw [hmem]
  exact h y hy

/-- A change of each suspended task that leaves its memory. -/
theorem Cell.Fits.of_map {k : Nat} {c d : Cell} (h : c.Fits k) {f : Suspended → Suspended} (hd : d.suspended = c.suspended.map f)
    (hf : ∀ x, (f x).mem = x.mem) : d.Fits k :=
  h.of_subset fun x hx => by
    rw [hd] at hx
    obtain ⟨y, hy, rfl⟩ := List.mem_map.1 hx
    exact ⟨y, hy, hf y⟩

namespace State.Canonical

theorem reset : State.reset.Canonical := ⟨rfl, rfl, rfl, fun _ he => absurd he List.not_mem_nil⟩

theorem mem {s : State} (h : s.Canonical) : s.mem.wf = true := h.1

theorem hbm {s : State} (h : s.Canonical) : s.hbm.wf = true := h.2.1

theorem hostMem {s : State} (h : s.Canonical) : s.hostMem.wf = true := h.2.2.1

theorem cells {s : State} (h : s.Canonical) : ∀ e ∈ s.cells, e.2.Fits e.1 := h.2.2.2

theorem cell {s : State} (h : s.Canonical) (k : Nat) : (s.cell k).Fits k := by
  unfold State.cell kget
  cases hk : kget? s.cells k with
  | none => exact fun x hx => absurd hx List.not_mem_nil
  | some c => exact h.cells _ (mem_of_kget? hk)

/-! ## Updates -/

theorem of_mem {s : State} (h : s.Canonical) {m : Mem} {bad : NSet} (hm : m.wf = true) : ({ s with mem := m, memBad := bad } : State).Canonical :=
  ⟨hm, h.hbm, h.hostMem, h.cells⟩

theorem of_hbm {s : State} (h : s.Canonical) {m : Mem} {bad : NSet} (hm : m.wf = true) : ({ s with hbm := m, hbmBad := bad } : State).Canonical :=
  ⟨h.mem, hm, h.hostMem, h.cells⟩

theorem of_hostMem {s : State} (h : s.Canonical) {m : Mem} (hm : m.wf = true) : ({ s with hostMem := m } : State).Canonical :=
  ⟨h.mem, h.hbm, hm, h.cells⟩

theorem of_cells {s : State} (h : s.Canonical) {m : KMap Cell} (hm : ∀ e ∈ m, e.2.Fits e.1) : ({ s with cells := m } : State).Canonical :=
  ⟨h.mem, h.hbm, h.hostMem, hm⟩

/-- A change of every cell that leaves the memories of its suspended tasks. -/
theorem mapCells {s : State} (h : s.Canonical) {f : Nat × Cell → Nat × Cell}
    (hf : ∀ e, (f e).1 = e.1 ∧ ∀ x ∈ (f e).2.suspended, ∃ y ∈ e.2.suspended, x.mem = y.mem) : ∀ e ∈ s.cells.map f, e.2.Fits e.1 := by
  intro e he
  obtain ⟨d, hd, rfl⟩ := List.mem_map.1 he
  obtain ⟨hkey, hsub⟩ := hf d
  rw [hkey]
  exact (h.cells d hd).of_subset hsub

theorem setFits {s : State} (h : s.Canonical) {k : Nat} {c : Cell} (hc : c.Fits k) : (s.setCell k c).Canonical :=
  h.of_cells fun e he => by
    obtain rfl | hold := mem_of_mem_kset he
    · exact hc
    · exact h.cells e hold

theorem setCell {s : State} (h : s.Canonical) {k : Nat} {c : Cell} (hc : c.suspended = (s.cell k).suspended) : (s.setCell k c).Canonical :=
  h.setFits ((h.cell k).of_suspended hc)

theorem modCell {s : State} (h : s.Canonical) {k : Nat} {f : Cell → Cell} (hf : (f (s.cell k)).suspended = (s.cell k).suspended) :
    (s.modCell k f).Canonical := h.setCell hf

theorem setBank {s : State} (h : s.Canonical) {k : Nat} {b : Bank} : (s.setBank k b).Canonical := h.modCell rfl

theorem modBank {s : State} (h : s.Canonical) {k : Nat} {f : Bank → Bank} : (s.modBank k f).Canonical := h.setBank

theorem setCore {s : State} (h : s.Canonical) {k : Nat} {c : CoreIx} {r : Core} : (s.setCore k c r).Canonical := h.setBank

theorem modCore {s : State} (h : s.Canonical) {k : Nat} {c : CoreIx} {f : Core → Core} : (s.modCore k c f).Canonical := h.setCore

/-! ## Combinators -/

theorem ite {c : Prop} [Decidable c] {s t : State} (hs : s.Canonical) (ht : t.Canonical) : (if c then s else t).Canonical := by
  split
  · exact hs
  · exact ht

theorem foldl {α : Type} {f : State → α → State} (hf : ∀ t a, t.Canonical → (f t a).Canonical) {l : List α} {s : State} (h : s.Canonical) :
    (l.foldl f s).Canonical :=
  List.foldlRecOn l f h fun t ht a _ => hf t a ht

theorem foldl_fst {α β : Type} {f : State × β → α → State × β} (hf : ∀ t a, t.1.Canonical → (f t a).1.Canonical) {l : List α}
    {p : State × β} (h : p.1.Canonical) : (l.foldl f p).1.Canonical :=
  List.foldlRecOn (motive := fun (p : State × β) => p.1.Canonical) l f h fun t ht a _ => hf t a ht

/-- The state of a pair that has been taken apart. -/
theorem of_fst {β : Type} {p : State × β} {t : State} {x : β} (hp : p = (t, x)) (h : p.1.Canonical) : t.Canonical := by
  rw [hp] at h
  exact h

end State.Canonical

/-! ## Outcomes -/

/-- What a computation gives, where it gives something, has a property. -/
def Yields {ε α : Type} (x : Except ε α) (p : α → Prop) : Prop := ∀ a, x = .ok a → p a

/-- What a search gives, where it gives something, has a property. -/
def Finds {α : Type} (x : Option α) (p : α → Prop) : Prop := ∀ a, x = some a → p a

/-- The state that an outcome goes on with is canonical. -/
def Goes (o : Out) : Prop := ∀ t, o = .next t → t.Canonical

namespace Yields

variable {ε α β : Type} {p : α → Prop} {q : β → Prop}

theorem ok {a : α} (h : p a) : Yields (.ok a : Except ε α) p := fun _ hb => by cases hb; exact h

theorem pure {a : α} (h : p a) : Yields (Pure.pure a : Except ε α) p := ok h

theorem error {e : ε} : Yields (.error e : Except ε α) p := fun _ hb => by cases hb

/-- Each step of a computation may use what the step before it gave. -/
theorem bind {x : Except ε β} {f : β → Except ε α} (hx : Yields x q) (hf : ∀ b, q b → Yields (f b) p) : Yields (x >>= f) p := by
  intro a ha
  cases x with
  | error e => cases ha
  | ok b => exact hf b (hx b rfl) a ha

/-- A step that gives nothing of interest. -/
theorem bind_any {x : Except ε β} {f : β → Except ε α} (hf : ∀ b, Yields (f b) p) : Yields (x >>= f) p :=
  bind (q := fun _ => True) (fun _ _ => trivial) fun b _ => hf b

theorem ite {c : Prop} [Decidable c] {x y : Except ε α} (hx : Yields x p) (hy : Yields y p) : Yields (if c then x else y) p := by
  split
  · exact hx
  · exact hy

end Yields

namespace Finds

variable {α β : Type} {p : α → Prop} {q : β → Prop}

theorem some {a : α} (h : p a) : Finds (Option.some a) p := fun _ hb => by cases hb; exact h

theorem none : Finds (Option.none : Option α) p := fun _ hb => by cases hb

theorem map {x : Option β} {f : β → α} (hf : ∀ b, q b → p (f b)) (hx : Finds x q) : Finds (x.map f) p := by
  intro a ha
  cases x with
  | none => cases ha
  | some b =>
    cases ha
    exact hf b (hx b rfl)

theorem ite {c : Prop} [Decidable c] {x y : Option α} (hx : Finds x p) (hy : Finds y p) : Finds (if c then x else y) p := by
  split
  · exact hx
  · exact hy

theorem getD {x : Option State} {s : State} (hx : Finds x State.Canonical) (h : s.Canonical) : (x.getD s).Canonical := by
  cases x with
  | none => exact h
  | some t => exact hx t rfl

theorem or {x y : Option α} (hx : Finds x p) (hy : Finds y p) : Finds (x.or y) p := by
  cases x with
  | none => rwa [Option.none_or]
  | some a => rwa [Option.some_or]

end Finds

namespace Goes

theorem next {t : State} (h : t.Canonical) : Goes (.next t) := fun _ hu => by cases hu; exact h

theorem ite {c : Prop} [Decidable c] {x y : Out} (hx : Goes x) (hy : Goes y) : Goes (if c then x else y) := by
  split
  · exact hx
  · exact hy

end Goes

end Sys2Proof.Machine

end

section
/-! The canonical form of the memories: the state's accessors and updates keep it. -/

namespace Sys2Proof.Machine

theorem State.Canonical.bump {s : State} (h : s.Canonical) : s.bump.Canonical := by
  unfold State.bump
  exact h

theorem State.Canonical.modDie {s : State} (h : s.Canonical) {d f} : (s.modDie d f).Canonical := by
  unfold State.modDie
  exact h

theorem State.Canonical.chipPut {s : State} (h : s.Canonical) {a bs} : (s.chipPut a bs).Canonical := by
  unfold State.chipPut
  exact h.of_mem (Mem.wf_write h.mem _ _)

theorem State.Canonical.chipMark {s : State} (h : s.Canonical) {a n} : (s.chipMark a n).Canonical := by
  unfold State.chipMark
  exact h

theorem State.Canonical.touch {s : State} (h : s.Canonical) {k off n} : (s.touch k off n).Canonical := by
  unfold State.touch
  exact h.modBank

theorem State.Canonical.modBuf {s : State} (h : s.Canonical) {h1 f} : (s.modBuf h1 f).Canonical := by
  unfold State.modBuf
  split
  · exact h
  · exact h

theorem State.Canonical.modStack {s : State} (h : s.Canonical) {i f} : (s.modStack i f).Canonical := by
  unfold State.modStack
  exact h

theorem State.Canonical.countSubst {s : State} (h : s.Canonical) {d gs} : (s.countSubst d gs).Canonical := by
  unfold State.countSubst
  exact State.Canonical.foldl (fun _ _ h1 => h1.modStack) h

theorem State.Canonical.noteSubst {s : State} (h : s.Canonical) {k h1 off n} : (s.noteSubst k h1 off n).Canonical := by
  unfold State.noteSubst
  split
  · exact h.countSubst.ite h
  · exact h

theorem State.Canonical.bufPutW {s : State} (h : s.Canonical) {k h1 off ws} : (s.bufPutW k h1 off ws).Canonical := by
  unfold State.bufPutW
  exact h.modBank.modBuf

theorem State.Canonical.bufPut {s : State} (h : s.Canonical) {k h1 off bs} : (s.bufPut k h1 off bs).Canonical := by
  unfold State.bufPut
  exact h.bufPutW

theorem State.Canonical.homePut {s : State} (h : s.Canonical) {h1 off ws} : (s.homePut h1 off ws).Canonical := by
  unfold State.homePut
  exact h.of_hbm (Mem.wf_merge h.hbm _ _)

theorem State.Canonical.settle {s : State} (h : s.Canonical) {k h1 off n} : (s.settle k h1 off n).Canonical := by
  unfold State.settle
  refine State.Canonical.foldl ?_ h
  intro t1 a1 h2
  extract_lets s1
  have hs1 : s1.Canonical := h2.bump
  split
  · exact hs1.ite hs1.modBank
  · exact h2

theorem State.Canonical.leaveBank {s : State} (h : s.Canonical) {k bank t} : (s.leaveBank k bank t).Canonical := by
  unfold State.leaveBank
  exact h.chipPut

end Sys2Proof.Machine

end

section
/-! The canonical form of the memories: the instruction cache keeps it. -/

namespace Sys2Proof.Machine

theorem State.Canonical.cacheTouch {s : State} (h : s.Canonical) {asid h1 off n} : (s.cacheTouch asid h1 off n).Canonical := by
  unfold State.cacheTouch
  split
  · exact State.Canonical.foldl (fun _ _ h2 => h2.modStack) h
  · exact h

end Sys2Proof.Machine

end

section
/-! The canonical form of the memories: firmware, logs and messages to the host keep it. -/

namespace Sys2Proof.Machine

theorem State.Canonical.logRec {s : State} (h : s.Canonical) {d code core cell ws} : (s.logRec d code core cell ws).Canonical := by
  unfold State.logRec
  exact h.ite h.modDie

theorem State.Canonical.logHw {s : State} (h : s.Canonical) {d code w3 w6 w7} : (s.logHw d code w3 w6 w7).Canonical := by
  unfold State.logHw
  exact h.logRec

theorem State.Canonical.logCause {s : State} (h : s.Canonical) {d code src w6 w7} : (s.logCause d code src w6 w7).Canonical := by
  unfold State.logCause
  exact h.logRec

theorem State.Canonical.extend {s : State} (h : s.Canonical) {i v} : (s.extend i v).Canonical := by
  unfold State.extend
  exact h

theorem State.Canonical.startFw {s : State} (h : s.Canonical) {d reason} : (s.startFw d reason).Canonical := by
  unfold State.startFw
  exact h.modCell rfl

theorem State.Canonical.petDog {s : State} (h : s.Canonical) {d} : (s.petDog d).Canonical := by
  unfold State.petDog
  exact h.modDie

theorem State.Canonical.commit {s : State} (h : s.Canonical) {new} : (s.commit new).Canonical := by
  unfold State.commit
  extract_lets old hs src s1 s2 s3 src1 s4
  have hs1 : s1.Canonical := h
  have hs2 : s2.Canonical := hs1.extend
  have hs3 : s3.Canonical := hs2.logHw
  have hs4 : s4.Canonical := hs3
  exact hs4.startFw.petDog

theorem State.Canonical.rollback {s : State} (h : s.Canonical) : s.rollback.Canonical := by
  unfold State.rollback
  extract_lets cur hs src s1 s2 s3
  have hs1 : s1.Canonical := h
  have hs2 : s2.Canonical := hs1.extend
  have hs3 : s3.Canonical := hs2.logHw
  exact hs3.startFw.petDog

theorem State.Canonical.wdpet {s : State} (h : s.Canonical) {d} : (s.wdpet d).Canonical := by
  unfold State.wdpet
  extract_lets s1 act obj s2 src src1
  have hs1 : s1.Canonical := h.petDog
  have hs2 : s2.Canonical := hs1.logHw
  split
  · exact hs2
  · exact hs1

theorem State.Canonical.fwFail {s : State} (h : s.Canonical) {d reason} : (s.fwFail d reason).Canonical := by
  unfold State.fwFail
  extract_lets pc s1
  have hs1 : s1.Canonical := h.logHw
  exact hs1.rollback.ite hs1.startFw.petDog

theorem State.Canonical.discUpdate {s : State} (h : s.Canonical) : s.discUpdate.Canonical := by
  unfold State.discUpdate
  exact h.ite h

theorem State.Canonical.discCaused {s : State} (h : s.Canonical) {d} : (s.discCaused d).Canonical := by
  unfold State.discCaused
  exact h.discUpdate.bump.bump.bump.logCause

theorem State.Canonical.discSettle {s : State} (h : s.Canonical) : s.discSettle.Canonical := by
  unfold State.discSettle
  extract_lets src src1
  have hsrc : src.Canonical := h.bump
  split
  · split
    · exact hsrc
    · exact hsrc
  · exact h

theorem State.Canonical.noteSlotStore {s : State} (h : s.Canonical) {a n} : (s.noteSlotStore a n).Canonical := by
  unfold State.noteSlotStore
  extract_lets base other o src
  split
  · exact h
  · exact h

theorem State.Canonical.freeBuf {s : State} (h : s.Canonical) {b : Nat} : (s.freeBuf b).Canonical :=
  ⟨h.mem, Mem.wf_clear h.hbm _ _, h.hostMem, h.cells⟩

theorem State.Canonical.addRef {s : State} (h : s.Canonical) {h1} : (s.addRef h1).1.Canonical := by
  unfold State.addRef
  split
  · split
    · exact h.modBuf
    · exact h
  · exact h

theorem State.Canonical.dropRef {s : State} (h : s.Canonical) {h1} : (s.dropRef h1).Canonical := by
  unfold State.dropRef
  extract_lets s1
  have hs1 : s1.Canonical := h.freeBuf
  split
  · split
    · exact h.modBuf
    · split
      · exact hs1.modBuf.ite hs1.freeBuf
      · exact hs1
  · exact h

theorem State.Canonical.takeRefs {s : State} (h : s.Canonical) {l} : (s.takeRefs l).Canonical := by
  unfold State.takeRefs
  exact State.Canonical.foldl (fun _ _ h1 => h1.addRef) h

theorem State.Canonical.dropRefs {s : State} (h : s.Canonical) {l} : (s.dropRefs l).Canonical := by
  unfold State.dropRefs
  exact State.Canonical.foldl (fun _ _ h1 => h1.dropRef) h

theorem State.Canonical.modAsid {s : State} (h : s.Canonical) {a f} : (s.modAsid a f).Canonical := by
  unfold State.modAsid
  exact h

theorem State.Canonical.modFox {s : State} (h : s.Canonical) {q f} : (s.modFox q f).Canonical := by
  unfold State.modFox
  exact h

theorem State.Canonical.foxCount {s : State} (h : s.Canonical) {a i} : (s.foxCount a i).Canonical := by
  unfold State.foxCount
  exact h.modAsid

theorem State.Canonical.modNode {s : State} (h : s.Canonical) {n f} : (s.modNode n f).Canonical := by
  unfold State.modNode
  extract_lets src
  split
  · exact h
  · exact h

theorem State.Canonical.noteVers {s : State} (h : s.Canonical) {n l} : (s.noteVers n l).Canonical := by
  unfold State.noteVers
  exact h.modNode

theorem State.Canonical.noteReads {s : State} (h : s.Canonical) {n hs} : (s.noteReads n hs).Canonical := by
  unfold State.noteReads
  exact h.noteVers

theorem State.Canonical.noteBufs {s : State} (h : s.Canonical) {k hs} : (s.noteBufs k hs).Canonical := by
  unfold State.noteBufs
  split
  · exact h.noteVers.ite h
  · exact h

theorem State.Canonical.retireCell {s : State} (h : s.Canonical) {k} : (s.retireCell k).Canonical := by
  unfold State.retireCell
  exact h.modDie.discCaused.ite h

theorem State.Canonical.idleCell {s : State} (h : s.Canonical) {k n} : (s.idleCell k n).Canonical := by
  unfold State.idleCell
  extract_lets c mine s1 src
  have hs1 : s1.Canonical := by
    unfold s1
    split
    · exact h.leaveBank.modCell rfl
    · exact h
  split
  · exact (hs1.leaveBank.modCell rfl).retireCell
  · exact hs1

theorem State.Canonical.discardRun {s : State} (h : s.Canonical) {n cause} : (s.discardRun n cause).Canonical := by
  unfold State.discardRun
  split
  · extract_lets s1 gran s2 s3 s4 s5 src s6
    have hs1 : s1.Canonical := State.Canonical.foldl (fun _ _ h1 => h1.idleCell) h
    have hs2 : s2.Canonical := State.Canonical.foldl (fun _ ⟨x2, x3⟩ h1 => h1.freeBuf) hs1
    have hs3 : s3.Canonical := hs2.dropRefs
    have hs4 : s4.Canonical := hs3.modAsid
    have hs5 : s5.Canonical := hs4.modFox
    have hs6 : s6.Canonical := hs5
    exact hs6.foxCount.ite h
  · exact h

end Sys2Proof.Machine

end

section
/-! The canonical form of the memories: the operations of a core keep it. -/

namespace Sys2Proof.Machine

theorem State.Canonical.retire {s : State} (h : s.Canonical) {k c len} : (s.retire k c len).Canonical := by
  unfold State.retire
  exact h.modCore

theorem State.Canonical.squash {s : State} (h : s.Canonical) {k c len} : (s.squash k c len).Canonical := by
  unfold State.squash
  exact h.modCore

theorem State.Canonical.endTask {s : State} (h : s.Canonical) {k c cause tval epc eng} : (s.endTask k c cause tval epc eng).Canonical := by
  unfold State.endTask
  extract_lets b src
  split
  · exact h
  · exact h.modAsid.discardRun.ite (h.ite h.setBank)

theorem State.Canonical.clearFor {s : State} (h : s.Canonical) {k c cause} : (s.clearFor k c cause).Canonical := by
  unfold State.clearFor
  split
  · split
    · exact h.modBank
    · exact h
  · exact h

theorem State.Canonical.deliver {s : State} (h : s.Canonical) {k c cause tval} : (s.deliver k c cause tval).Canonical := by
  unfold State.deliver
  extract_lets s1 b r eng s2
  have hs1 : s1.Canonical := h.modBank
  have hs2 : s2.Canonical := hs1.clearFor
  split
  · exact hs1.fwFail.ite hs2.modCore
  · split
    · exact hs1.endTask
    · split
      · exact hs1.endTask
      · exact hs1.endTask.ite (hs1.endTask.ite hs2.modCore)

theorem State.Canonical.takeTrap {s : State} (h : s.Canonical) {k c cause tval} : (s.takeTrap k c cause tval).Canonical := by
  unfold State.takeTrap
  exact h.modBank.modCore.ite h.deliver

theorem State.Canonical.block {s : State} (h : s.Canonical) {k c w} : (s.block k c w).Canonical := by
  unfold State.block
  extract_lets s1
  have hs1 : s1.Canonical := by
    unfold s1
    split
    · exact h.modBank
    · exact h.modBank
    · exact h
  exact hs1.modCore

theorem State.Canonical.closeRound {s : State} (h : s.Canonical) {k c} : (s.closeRound k c).Canonical := by
  unfold State.closeRound
  exact h.modCore.ite h

theorem State.Canonical.openRound {s : State} (h : s.Canonical) {k c} : (s.openRound k c).Canonical := by
  unfold State.openRound
  exact h.modCore.ite h

theorem State.Canonical.stopped {s : State} (h : s.Canonical) {k c a} : (s.stopped k c a).Canonical := by
  unfold State.stopped
  split
  · exact h.bump.closeRound.takeTrap
  · exact h.closeRound.block

theorem State.Canonical.grantSem {s : State} (h : s.Canonical) {k n} : Finds (s.grantSem k n) State.Canonical := by
  unfold State.grantSem
  extract_lets b x
  split
  · exact Finds.none
  · extract_lets taken
    split
    · exact Finds.none
    · split
      · exact Finds.ite (Finds.some h.setBank.retire) Finds.none
      · split
        · exact Finds.ite (Finds.some h.setBank) Finds.none
        · exact Finds.none

theorem State.Canonical.grantMutex {s : State} (h : s.Canonical) {k m} : Finds (s.grantMutex k m) State.Canonical := by
  unfold State.grantMutex
  extract_lets x
  split
  · exact Finds.ite (Finds.some h.modBank.retire) Finds.none
  · exact Finds.none

theorem State.Canonical.grantWp {s : State} (h : s.Canonical) {k c} : Finds (s.grantWp k c) State.Canonical := by
  unfold State.grantWp
  split
  · exact Finds.ite (Finds.some h.retire) Finds.none
  · exact Finds.none

theorem State.Canonical.endWp {s : State} (h : s.Canonical) {k c} : (s.endWp k c).Canonical := by
  unfold State.endWp
  split
  · exact h.takeTrap.ite h
  · exact h

theorem Finds.findSome {α β : Type} {p : β → Prop} {f : α → Option β} (hf : ∀ a, Finds (f a) p) (l : List α) : Finds (l.findSome? f) p := by
  intro b hb
  obtain ⟨a, -, ha⟩ := List.exists_of_findSome?_eq_some hb
  exact hf a b ha

theorem State.Canonical.grantNext {s : State} (h : s.Canonical) {k : Nat} : Finds (s.grantNext k) State.Canonical :=
  Finds.or (Finds.findSome (fun _ => h.grantSem) _) (Finds.or (Finds.findSome (fun _ => h.grantMutex) _) (Finds.findSome (fun _ => h.grantWp) _))

theorem State.Canonical.grantsUpTo {s : State} (h : s.Canonical) {n k : Nat} : (State.grantsUpTo n s k).Canonical := by
  induction n generalizing s with
  | zero => exact h
  | succ n ih =>
    unfold State.grantsUpTo
    split
    next t ht => exact ih (h.grantNext t ht)
    next => exact h

theorem State.Canonical.grants {s : State} (h : s.Canonical) {k} : (s.grants k).Canonical := by
  unfold State.grants
  exact h.grantsUpTo

theorem State.Canonical.stopOne {s : State} (h : s.Canonical) {k e cause culprit} : (s.stopOne k e cause culprit).Canonical := by
  unfold State.stopOne
  extract_lets s1 b q c idle r hit b1 s2
  have hs1 : s1.Canonical := h.grants
  have hs2 : s2.Canonical := hs1.setBank
  split
  · split
    · exact h.discardRun
    · exact h
  · exact hs2.takeTrap.ite hs2

theorem State.Canonical.stopQueue {s : State} (h : s.Canonical) {k e cause culprit} : (s.stopQueue k e cause culprit).Canonical := by
  unfold State.stopQueue
  extract_lets t js
  have ht : t.Canonical := h.stopOne
  split
  · exact ht
  · refine State.Canonical.foldl ?_ ht
    intro t1 a1 h1
    split
    · exact h1.modBank.stopOne
    · exact h1

theorem State.Canonical.wipeCell {s : State} (h : s.Canonical) {k off} : (s.wipeCell k off).Canonical := by
  unfold State.wipeCell
  exact h.of_mem (Mem.wf_clear h.mem _ _)

theorem padBase_le (k : Nat) : padBase k ≤ chipAddr k 4 0 := by
  unfold padBase chipAddr
  omega

/-- A cell's part of the on-chip map fits the cell. -/
theorem State.Canonical.area {s : State} (h : s.Canonical) (k : Nat) :
    (s.area k).1.wf = true ∧ ∀ p ∈ (s.area k).1, padBase k ≤ p.1 ∧ p.1 < chipAddr k 4 0 := by
  refine ⟨Mem.wf_part h.mem _ _, fun p hp => ?_⟩
  obtain ⟨habove, hlt⟩ := Mem.mem_below hp
  rw [Nat.add_sub_cancel' (padBase_le k)] at hlt
  exact ⟨(Mem.mem_above (Mem.wf_rising h.mem) habove).2, hlt⟩

theorem State.Canonical.putArea {s : State} (h : s.Canonical) {k : Nat} {m : Mem × NSet}
    (hm : m.1.wf = true ∧ ∀ p ∈ m.1, padBase k ≤ p.1 ∧ p.1 < chipAddr k 4 0) : (s.putArea k m).Canonical := by
  obtain ⟨hwf, hin⟩ := hm
  refine h.wipeCell.of_mem (Mem.wf_putPart h.wipeCell.mem hwf _ _ fun e he => ?_)
  rw [Nat.add_sub_cancel' (padBase_le k)]
  exact hin e he

theorem State.Canonical.exchange {s : State} (h : s.Canonical) {p : Nat × Nat} : (s.exchange p).Canonical := by
  unfold State.exchange
  extract_lets c
  split
  · exact h
  next y hy =>
    have hfits : c.Fits p.1 := h.cell p.1
    refine (h.putArea (hfits y (List.mem_of_getElem? hy))).setFits fun x hx => ?_
    obtain hold | rfl := List.mem_or_eq_of_mem_set hx
    · exact hfits x hold
    · exact h.area p.1

theorem State.Canonical.aside {s : State} (h : s.Canonical) {k i f} (hf : ∀ (a : State), a.Canonical → (f a).Canonical) :
    (s.aside k i f).Canonical := by
  unfold State.aside
  split
  · exact h
  · extract_lets same ps was s1
    have hs1 : s1.Canonical := hf _ (State.Canonical.foldl (fun _ ⟨x1, x2⟩ h1 => h1.exchange.modCell rfl) h)
    exact State.Canonical.foldl (fun _ ⟨x1, x2⟩ h1 => h1.modCell rfl) (State.Canonical.foldl (fun _ ⟨x1, x2⟩ h1 => h1.exchange) hs1)

theorem State.Canonical.onPusher {s : State} (h : s.Canonical) {k uid f} (hf : ∀ (a : State), a.Canonical → (f a).Canonical) :
    (s.onPusher k uid f).Canonical := by
  unfold State.onPusher
  split
  · exact h.aside (fun _ h1 => hf _ h1)
  · exact hf _ h

theorem State.Canonical.putCore {s : State} (h : s.Canonical) {r} : (s.putCore r).Canonical := by
  unfold State.putCore
  exact h.setCore

theorem State.Canonical.finish {s : State} (h : s.Canonical) {len : Nat} {r : M State} (hr : Yields r State.Canonical) :
    (s.finish len r).Canonical := by
  unfold State.finish
  split
  next t => exact (hr t rfl).retire
  next e => exact h.stopped

theorem guarded_canonical {s : State} (h : s.Canonical) {len : Nat} {g : Guard} {body : State → M State} (hb : Yields (body s) State.Canonical) :
    Goes (guarded len g s body) := Goes.next ((h.finish hb).ite h.squash)

theorem onCore_canonical {s : State} (h : s.Canonical) {len : Nat} {g : Guard} {body : Core → M Core} : Goes (onCore len g s body) :=
  guarded_canonical h (Yields.bind_any fun _ => Yields.pure h.setCore)

theorem branching_canonical {s : State} (h : s.Canonical) {g : Guard} {body : State → M (State × Option Word)}
    (hb : Yields (body s) fun r => r.1.Canonical) : Goes (branching g s body) := by
  refine Goes.next (State.Canonical.ite ?_ h.squash)
  split
  next t pc ht => exact (hb _ ht).modCore
  next t ht => exact (hb _ ht).retire
  next e => exact h.stopped

end Sys2Proof.Machine

end

section
/-! The canonical form of the memories: operands and retirement keep it. -/

namespace Sys2Proof.Machine

theorem State.Canonical.landX {s : State} (h : s.Canonical) {k c j v bad} : (s.landX k c j v bad).Canonical := by
  unfold State.landX
  exact h.ite h.modCore

theorem State.Canonical.landSem {s : State} (h : s.Canonical) {k n v} : (s.landSem k n v).1.Canonical := by
  unfold State.landSem
  extract_lets x
  split
  · exact h
  · split
    · exact h.modBank
    · exact h

theorem State.Canonical.bankStore {s : State} (h : s.Canonical) {k off v} : (s.bankStore k off v).Canonical := by
  unfold State.bankStore
  extract_lets c base act s1 ws n inActive o plain
  have hs1 : s1.Canonical := h.setCell rfl
  have hplain : plain.Canonical := h.chipPut
  split
  · split
    · split
      · exact hs1
      · exact hs1.modCell rfl
    · split
      · exact hs1
      · exact hs1.leaveBank.modCell rfl
  · split
    · split
      · exact h.modBank
      · exact hplain
    · split
      · exact h.modCell rfl
      · exact hplain

theorem State.Canonical.chipStore {s : State} (h : s.Canonical) {a bs bad} : (s.chipStore a bs bad).Canonical := by
  unfold State.chipStore
  extract_lets k off c s1 s2 s3
  have hs1 : s1.Canonical := h.landSem
  have hs2 : s2.Canonical := h.chipPut
  have hs3 : s3.Canonical := hs2.chipMark.ite hs2
  split
  · exact h.landX.ite h
  · exact hs1.landSem
  · exact h.bankStore
  · exact hs3.touch.noteSlotStore.ite hs3

theorem State.Canonical.loadBytes {s : State} (h : s.Canonical) {k a addr n} : (s.loadBytes k a addr n).1.Canonical := by
  unfold State.loadBytes
  extract_lets s1
  have hs1 : s1.Canonical := h.settle
  split
  · exact h.touch
  · exact hs1.noteSubst.noteBufs
  · exact h.touch.ite h

theorem State.Canonical.storeBytes {s : State} (h : s.Canonical) {k a addr bs} : (s.storeBytes k a addr bs).Canonical := by
  unfold State.storeBytes
  split
  · exact h.chipStore
  · exact h.bufPut
  · exact h.chipStore

theorem State.Canonical.noteCell {s : State} (h : s.Canonical) {k} : (s.noteCell k).Canonical := by
  unfold State.noteCell
  exact h.modBank

theorem State.Canonical.noteWindows {s : State} (h : s.Canonical) : s.noteWindows.Canonical := by
  unfold State.noteWindows
  exact State.Canonical.foldl (fun _ _ h1 => h1.noteCell) h

theorem State.Canonical.noteWinSubst {s : State} (h : s.Canonical) {h1 addr v} : (s.noteWinSubst h1 addr v).Canonical := by
  unfold State.noteWinSubst
  split
  · exact h.countSubst.ite h
  · exact h

theorem State.Canonical.sawBuf {s : State} (h : s.Canonical) {k c h1 first} : (s.sawBuf k c h1 first).Canonical := by
  unfold State.sawBuf
  exact h.modCore.ite h

theorem State.Canonical.noteSeen {s : State} (h : s.Canonical) : s.noteSeen.Canonical := by
  unfold State.noteSeen
  exact State.Canonical.foldl (fun _ _ h1 => h1.noteBufs) h

theorem State.Canonical.winRead {s : State} (h : s.Canonical) {k c w o} : Yields (s.winRead k c w o) fun r => r.1.Canonical := by
  unfold State.winRead
  exact Yields.ite
      Yields.error
          (Yields.ite
              Yields.error
                  (Yields.ite (Yields.bind_any (fun _ => Yields.pure h.noteWinSubst.sawBuf))
                      (Yields.ite Yields.error (Yields.ite (Yields.ok h) (Yields.ok h.bump.modCore)))))

theorem State.Canonical.op2 {s : State} (h : s.Canonical) {im a} : Yields (s.op2 im a) fun r => r.1.Canonical := by
  unfold State.op2
  split
  · exact Yields.bind_any (fun ⟨x1, x2⟩ => Yields.pure h)
  · exact Yields.ok h
  · exact Yields.bind h.winRead (fun ⟨t, x1, x2⟩ h1 => Yields.pure h1)

end Sys2Proof.Machine

end

section
/-! The canonical form of the memories: reads of the program's words keep it. -/

namespace Sys2Proof.Machine

theorem State.Canonical.codeWord {s : State} (h : s.Canonical) {k off} : (s.codeWord k off).1.Canonical := by
  unfold State.codeWord
  extract_lets cur old
  split
  · exact h
  · exact h.bump

theorem State.Canonical.scanBody {s : State} (h : s.Canonical) {k laddr n off : Nat} : (s.scanBody k laddr n off).1.Canonical :=
  State.scanBody_rec State.Canonical k laddr (fun _ _ ht => ht.codeWord) n s off h

end Sys2Proof.Machine

end

section
/-! The canonical form of the memories: the scalar instructions keep it. -/

namespace Sys2Proof.Machine

theorem alu_canonical {s : State} (h : s.Canonical) {f fn} : Goes (alu f s fn) := by
  unfold alu
  exact guarded_canonical h (Yields.bind_any (fun ⟨x, x1⟩ => Yields.bind h.op2 (fun ⟨t, x2⟩ h1 => Yields.bind_any (fun _ => Yields.pure h1.putCore))))

theorem una_canonical {s : State} (h : s.Canonical) {f fn} : Goes (una f s fn) := by
  unfold una
  exact onCore_canonical h

theorem alu3_canonical {s : State} (h : s.Canonical) {f fn} : Goes (alu3 f s fn) := by
  unfold alu3
  exact guarded_canonical
      h (Yields.bind_any
          (fun ⟨x, x1⟩ => Yields.bind h.op2 (fun ⟨t, x2⟩ h1 => Yields.bind_any (fun ⟨x3, x4⟩ => Yields.bind_any (fun _ => Yields.pure h1.putCore)))))

theorem execNop_canonical {s : State} (h : s.Canonical) {f} : Goes (execNop f s) := by
  unfold execNop
  exact guarded_canonical h (Yields.ok h)

theorem execMov_canonical {s : State} (h : s.Canonical) {f} : Goes (execMov f s) := by
  unfold execMov
  exact guarded_canonical h (Yields.bind h.op2 (fun ⟨t, x⟩ h1 => Yields.bind_any (fun _ => Yields.pure h1.putCore)))

theorem execMovhi_canonical {s : State} (h : s.Canonical) {f} : Goes (execMovhi f s) := by
  unfold execMovhi
  exact guarded_canonical h (Yields.bind_any (fun ⟨x, x1⟩ => Yields.bind h.op2 (fun ⟨t, x2⟩ h1 => Yields.bind_any (fun _ => Yields.pure h1.putCore))))

theorem execAdd_canonical {s : State} (h : s.Canonical) {f} : Goes (execAdd f s) := by
  unfold execAdd
  exact alu_canonical h

theorem execSub_canonical {s : State} (h : s.Canonical) {f} : Goes (execSub f s) := by
  unfold execSub
  exact alu_canonical h

theorem execMul_canonical {s : State} (h : s.Canonical) {f} : Goes (execMul f s) := by
  unfold execMul
  exact alu_canonical h

theorem execMulh_canonical {s : State} (h : s.Canonical) {f} : Goes (execMulh f s) := by
  unfold execMulh
  exact alu_canonical h

theorem execMulhu_canonical {s : State} (h : s.Canonical) {f} : Goes (execMulhu f s) := by
  unfold execMulhu
  exact alu_canonical h

theorem execDiv_canonical {s : State} (h : s.Canonical) {f} : Goes (execDiv f s) := by
  unfold execDiv
  exact alu_canonical h

theorem execDivu_canonical {s : State} (h : s.Canonical) {f} : Goes (execDivu f s) := by
  unfold execDivu
  exact alu_canonical h

theorem execRem_canonical {s : State} (h : s.Canonical) {f} : Goes (execRem f s) := by
  unfold execRem
  exact alu_canonical h

theorem execRemu_canonical {s : State} (h : s.Canonical) {f} : Goes (execRemu f s) := by
  unfold execRemu
  exact alu_canonical h

theorem execMin_canonical {s : State} (h : s.Canonical) {f} : Goes (execMin f s) := by
  unfold execMin
  exact alu_canonical h

theorem execMax_canonical {s : State} (h : s.Canonical) {f} : Goes (execMax f s) := by
  unfold execMax
  exact alu_canonical h

theorem execMinu_canonical {s : State} (h : s.Canonical) {f} : Goes (execMinu f s) := by
  unfold execMinu
  exact alu_canonical h

theorem execMaxu_canonical {s : State} (h : s.Canonical) {f} : Goes (execMaxu f s) := by
  unfold execMaxu
  exact alu_canonical h

theorem execAbs_canonical {s : State} (h : s.Canonical) {f} : Goes (execAbs f s) := by
  unfold execAbs
  exact una_canonical h

theorem execAnd_canonical {s : State} (h : s.Canonical) {f} : Goes (execAnd f s) := by
  unfold execAnd
  exact alu_canonical h

theorem execOr_canonical {s : State} (h : s.Canonical) {f} : Goes (execOr f s) := by
  unfold execOr
  exact alu_canonical h

theorem execXor_canonical {s : State} (h : s.Canonical) {f} : Goes (execXor f s) := by
  unfold execXor
  exact alu_canonical h

theorem execAndn_canonical {s : State} (h : s.Canonical) {f} : Goes (execAndn f s) := by
  unfold execAndn
  exact alu_canonical h

theorem execOrn_canonical {s : State} (h : s.Canonical) {f} : Goes (execOrn f s) := by
  unfold execOrn
  exact alu_canonical h

theorem execLut3_canonical {s : State} (h : s.Canonical) {f} : Goes (execLut3 f s) := by
  unfold execLut3
  exact alu3_canonical h

theorem execShl_canonical {s : State} (h : s.Canonical) {f} : Goes (execShl f s) := by
  unfold execShl
  exact alu_canonical h

theorem execShr_canonical {s : State} (h : s.Canonical) {f} : Goes (execShr f s) := by
  unfold execShr
  exact alu_canonical h

theorem execSar_canonical {s : State} (h : s.Canonical) {f} : Goes (execSar f s) := by
  unfold execSar
  exact alu_canonical h

theorem execRol_canonical {s : State} (h : s.Canonical) {f} : Goes (execRol f s) := by
  unfold execRol
  exact alu_canonical h

theorem execFshl_canonical {s : State} (h : s.Canonical) {f} : Goes (execFshl f s) := by
  unfold execFshl
  exact alu_canonical h

theorem execFshr_canonical {s : State} (h : s.Canonical) {f} : Goes (execFshr f s) := by
  unfold execFshr
  exact alu_canonical h

theorem execClz_canonical {s : State} (h : s.Canonical) {f} : Goes (execClz f s) := by
  unfold execClz
  exact una_canonical h

theorem execCtz_canonical {s : State} (h : s.Canonical) {f} : Goes (execCtz f s) := by
  unfold execCtz
  exact una_canonical h

theorem execPopc_canonical {s : State} (h : s.Canonical) {f} : Goes (execPopc f s) := by
  unfold execPopc
  exact una_canonical h

theorem execSext_canonical {s : State} (h : s.Canonical) {f} : Goes (execSext f s) := by
  unfold execSext
  exact alu_canonical h

theorem execZext_canonical {s : State} (h : s.Canonical) {f} : Goes (execZext f s) := by
  unfold execZext
  exact alu_canonical h

theorem execBfx_canonical {s : State} (h : s.Canonical) {f} : Goes (execBfx f s) := by
  unfold execBfx
  exact una_canonical h

theorem execBfxu_canonical {s : State} (h : s.Canonical) {f} : Goes (execBfxu f s) := by
  unfold execBfxu
  exact una_canonical h

theorem execBfi_canonical {s : State} (h : s.Canonical) {f} : Goes (execBfi f s) := by
  unfold execBfi
  exact alu3_canonical h

theorem execSel_canonical {s : State} (h : s.Canonical) {f} : Goes (execSel f s) := by
  unfold execSel
  exact onCore_canonical h

theorem compare_canonical {s : State} (h : s.Canonical) {f im fn} : Goes (Machine.compare f s im fn) := by
  unfold compare
  exact onCore_canonical h

theorem execCmpEq_canonical {s : State} (h : s.Canonical) {f} : Goes (execCmpEq f s) := by
  unfold execCmpEq
  exact compare_canonical h

theorem execCmpNe_canonical {s : State} (h : s.Canonical) {f} : Goes (execCmpNe f s) := by
  unfold execCmpNe
  exact compare_canonical h

theorem execCmpLt_canonical {s : State} (h : s.Canonical) {f} : Goes (execCmpLt f s) := by
  unfold execCmpLt
  exact compare_canonical h

theorem execCmpLe_canonical {s : State} (h : s.Canonical) {f} : Goes (execCmpLe f s) := by
  unfold execCmpLe
  exact compare_canonical h

theorem execCmpGt_canonical {s : State} (h : s.Canonical) {f} : Goes (execCmpGt f s) := by
  unfold execCmpGt
  exact compare_canonical h

theorem execCmpGe_canonical {s : State} (h : s.Canonical) {f} : Goes (execCmpGe f s) := by
  unfold execCmpGe
  exact compare_canonical h

theorem execCmpLtu_canonical {s : State} (h : s.Canonical) {f} : Goes (execCmpLtu f s) := by
  unfold execCmpLtu
  exact compare_canonical h

theorem execCmpLeu_canonical {s : State} (h : s.Canonical) {f} : Goes (execCmpLeu f s) := by
  unfold execCmpLeu
  exact compare_canonical h

theorem execCmpGtu_canonical {s : State} (h : s.Canonical) {f} : Goes (execCmpGtu f s) := by
  unfold execCmpGtu
  exact compare_canonical h

theorem execCmpGeu_canonical {s : State} (h : s.Canonical) {f} : Goes (execCmpGeu f s) := by
  unfold execCmpGeu
  exact compare_canonical h

theorem test_canonical {s : State} (h : s.Canonical) {f fn} : Goes (test f s fn) := by
  unfold test
  exact onCore_canonical h

theorem execTstZ_canonical {s : State} (h : s.Canonical) {f} : Goes (execTstZ f s) := by
  unfold execTstZ
  exact test_canonical h

theorem execTstNz_canonical {s : State} (h : s.Canonical) {f} : Goes (execTstNz f s) := by
  unfold execTstNz
  exact test_canonical h

theorem execPlut_canonical {s : State} (h : s.Canonical) {f} : Goes (execPlut f s) := by
  unfold execPlut
  exact onCore_canonical h

theorem execPget_canonical {s : State} (h : s.Canonical) {f} : Goes (execPget f s) := by
  unfold execPget
  exact onCore_canonical h

theorem execPput_canonical {s : State} (h : s.Canonical) {f} : Goes (execPput f s) := by
  unfold execPput
  exact onCore_canonical h

theorem falu_canonical {s : State} (h : s.Canonical) {f fn} : Goes (falu f s fn) := by
  unfold falu
  exact guarded_canonical h (Yields.bind_any (fun ⟨x, x1⟩ => Yields.bind h.op2 (fun ⟨t, x2⟩ h1 => Yields.bind_any (fun _ => Yields.pure h1.putCore))))

theorem execFadd_canonical {s : State} (h : s.Canonical) {f} : Goes (execFadd f s) := by
  unfold execFadd
  exact falu_canonical h

theorem execFsub_canonical {s : State} (h : s.Canonical) {f} : Goes (execFsub f s) := by
  unfold execFsub
  exact falu_canonical h

theorem execFmul_canonical {s : State} (h : s.Canonical) {f} : Goes (execFmul f s) := by
  unfold execFmul
  exact falu_canonical h

theorem execFmin_canonical {s : State} (h : s.Canonical) {f} : Goes (execFmin f s) := by
  unfold execFmin
  exact falu_canonical h

theorem execFmax_canonical {s : State} (h : s.Canonical) {f} : Goes (execFmax f s) := by
  unfold execFmax
  exact falu_canonical h

theorem execFfma_canonical {s : State} (h : s.Canonical) {f} : Goes (execFfma f s) := by
  unfold execFfma
  exact guarded_canonical
      h (Yields.bind_any
          (fun ⟨x, x1⟩
              => Yields.bind_any
                  (fun _ => Yields.bind_any
                      (fun ⟨x2, x3⟩ => Yields.bind h.op2 (fun ⟨t, x4⟩ h1 => Yields.bind_any (fun _ => Yields.pure h1.putCore))))))

theorem execFcvtIf_canonical {s : State} (h : s.Canonical) {f} : Goes (execFcvtIf f s) := by
  unfold execFcvtIf
  exact onCore_canonical h

theorem execFcvtFi_canonical {s : State} (h : s.Canonical) {f} : Goes (execFcvtFi f s) := by
  unfold execFcvtFi
  exact onCore_canonical h

theorem fcompare_canonical {s : State} (h : s.Canonical) {f fn} : Goes (fcompare f s fn) := by
  unfold fcompare
  exact onCore_canonical h

theorem execFcmpEq_canonical {s : State} (h : s.Canonical) {f} : Goes (execFcmpEq f s) := by
  unfold execFcmpEq
  exact fcompare_canonical h

theorem execFcmpLt_canonical {s : State} (h : s.Canonical) {f} : Goes (execFcmpLt f s) := by
  unfold execFcmpLt
  exact fcompare_canonical h

theorem execFcmpLe_canonical {s : State} (h : s.Canonical) {f} : Goes (execFcmpLe f s) := by
  unfold execFcmpLe
  exact fcompare_canonical h

theorem execFcmpUn_canonical {s : State} (h : s.Canonical) {f} : Goes (execFcmpUn f s) := by
  unfold execFcmpUn
  exact fcompare_canonical h

theorem execAcap_canonical {s : State} (h : s.Canonical) {f} : Goes (execAcap f s) := by
  unfold execAcap
  exact guarded_canonical h (Yields.ok h.putCore)

theorem execAmov_canonical {s : State} (h : s.Canonical) {f} : Goes (execAmov f s) := by
  unfold execAmov
  exact onCore_canonical h

theorem movePtr_canonical {s : State} (h : s.Canonical) {f p0} : Goes (movePtr f s p0) := by
  unfold movePtr
  exact guarded_canonical
      h (Yields.bind h.op2 (fun ⟨t, x⟩ h1 => Yields.ite Yields.error (Yields.bind_any (fun _ => Yields.bind_any (fun _ => Yields.pure h1.putCore)))))

theorem execAset_canonical {s : State} (h : s.Canonical) {f} : Goes (execAset f s) := by
  unfold execAset
  exact movePtr_canonical h

theorem execAadd_canonical {s : State} (h : s.Canonical) {f} : Goes (execAadd f s) := by
  unfold execAadd
  exact movePtr_canonical h

theorem execAnrw_canonical {s : State} (h : s.Canonical) {f} : Goes (execAnrw f s) := by
  unfold execAnrw
  exact guarded_canonical
      h (Yields.bind h.op2 (fun ⟨t, x⟩ h1 => Yields.ite Yields.error (Yields.bind_any (fun _ => Yields.ite Yields.error (Yields.pure h1.putCore)))))

theorem execAget_canonical {s : State} (h : s.Canonical) {f} : Goes (execAget f s) := by
  unfold execAget
  exact onCore_canonical h

theorem State.Canonical.cacheKind {s : State} (h : s.Canonical) {a addr n} : (s.cacheKind a addr n).Canonical := by
  unfold State.cacheKind
  exact h.cacheTouch.ite h

theorem State.Canonical.doLoad {s : State} (h : s.Canonical) {f signed a addr p} : Yields (s.doLoad f signed a addr p) State.Canonical := by
  unfold State.doLoad
  extract_lets n
  split
  next x t bs bad heq =>
    have ht := State.Canonical.of_fst heq h.cacheKind.loadBytes
    exact Yields.ite (Yields.bind_any (fun _ => Yields.pure ht.putCore)) (Yields.bind_any (fun _ => Yields.pure ht.putCore))

theorem load_canonical {s : State} (h : s.Canonical) {f signed} : Goes (load f s signed) := by
  unfold load
  exact guarded_canonical h (Yields.bind_any (fun _ => Yields.bind_any (fun ⟨x, x1, x2⟩ => h.doLoad)))

theorem execLd_canonical {s : State} (h : s.Canonical) {f} : Goes (execLd f s) := by
  unfold execLd
  exact load_canonical h

theorem execLdu_canonical {s : State} (h : s.Canonical) {f} : Goes (execLdu f s) := by
  unfold execLdu
  exact load_canonical h

theorem execSt_canonical {s : State} (h : s.Canonical) {f} : Goes (execSt f s) := by
  unfold execSt
  extract_lets n
  refine guarded_canonical h ?_
  refine Yields.bind_any ?_
  intro b1
  refine Yields.bind_any ?_
  intro b2
  refine Yields.bind_any ?_
  intro b3
  extract_lets s1
  have hs1 : s1.Canonical := h.storeBytes
  exact Yields.pure hs1.putCore

theorem execLds_canonical {s : State} (h : s.Canonical) {f} : Goes (execLds f s) := by
  unfold execLds
  refine guarded_canonical h ?_
  extract_lets addr
  refine Yields.bind_any ?_
  intro b1
  split
  · exact h.doLoad
  · exact Yields.bind_any (fun _ => Yields.pure h.putCore)

theorem execPchk_canonical {s : State} (h : s.Canonical) {f} : Goes (execPchk f s) := by
  unfold execPchk
  exact onCore_canonical h

theorem execLdpf_canonical {s : State} (h : s.Canonical) {f} : Goes (execLdpf f s) := by
  unfold execLdpf
  exact guarded_canonical
      h (Yields.ite (Yields.pure ((h.cacheKind.ite h).ite ((h.cacheKind.ite h).putCore)))
          (Yields.bind_any (fun _ => Yields.pure ((h.cacheKind.ite h).ite ((h.cacheKind.ite h).putCore)))))

theorem execBr_canonical {s : State} (h : s.Canonical) {f} : Goes (execBr f s) := by
  unfold execBr
  exact branching_canonical h (Yields.ok h)

theorem branchX_canonical {s : State} (h : s.Canonical) {f} : Goes (branchX f s) := by
  unfold branchX
  exact branching_canonical h (Yields.bind_any (fun _ => Yields.ite Yields.error (Yields.pure h)))

theorem execBrx_canonical {s : State} (h : s.Canonical) {f} : Goes (execBrx f s) := by
  unfold execBrx
  exact branchX_canonical h

theorem execRet_canonical {s : State} (h : s.Canonical) {f} : Goes (execRet f s) := by
  unfold execRet
  exact branchX_canonical h

theorem execCall_canonical {s : State} (h : s.Canonical) {f} : Goes (execCall f s) := by
  unfold execCall
  exact branching_canonical h (Yields.bind_any (fun _ => Yields.pure h.putCore))

theorem execBrlc_canonical {s : State} (h : s.Canonical) {f} : Goes (execBrlc f s) := by
  unfold execBrlc
  exact branching_canonical h (Yields.ok h.putCore)

theorem execMloop_canonical {s : State} (h : s.Canonical) {f} : Goes (execMloop f s) := by
  unfold execMloop
  extract_lets k c pc n
  split
  next x t a heq =>
    have ht := State.Canonical.of_fst heq h.scanBody
    exact Goes.next ht.stopped
  next x t offs ws heq =>
    have ht := State.Canonical.of_fst heq h.scanBody
    extract_lets past src
    have hpast : ∀ (s : State), s.Canonical → (past s).Canonical := fun _ h1 => h1.modCore
    split
    · exact Goes.next (hpast _ ht)
    · split
      · exact Goes.next (ht.fwFail.ite ht.bump.endTask)
      · split
        · exact Goes.next ht.stopped
        · split
          · exact Goes.next ht.stopped
          · exact Goes.ite (Goes.next (hpast _ ht)) (Goes.next ht.putCore)

theorem execRbset_canonical {s : State} (h : s.Canonical) {f} : Goes (execRbset f s) := by
  unfold execRbset
  exact guarded_canonical h (Yields.bind h.op2 (fun ⟨t, x⟩ h1 => Yields.bind_any (fun _ => Yields.pure h1.putCore)))

theorem State.Canonical.semCount {s : State} (h : s.Canonical) {b} : Yields (s.semCount b) fun r => r.1.Canonical := by
  unfold State.semCount
  exact Yields.bind h.op2 (fun ⟨t, x⟩ h1 => Yields.bind_any (fun _ => Yields.ite Yields.error (Yields.pure h1)))

theorem execSemsig_canonical {s : State} (h : s.Canonical) {f} : Goes (execSemsig f s) := by
  unfold execSemsig
  exact guarded_canonical h (Yields.bind h.semCount (fun ⟨t, x⟩ h1 => Yields.ite Yields.error (Yields.pure h1.modBank)))

theorem execSemwait_canonical {s : State} (h : s.Canonical) {f} : Goes (execSemwait f s) := by
  unfold execSemwait
  exact guarded_canonical h (Yields.bind h.semCount (fun ⟨t, x⟩ h1 => Yields.ite (Yields.pure h1) (Yields.ite (Yields.pure h1.modBank) Yields.error)))

theorem execSemtry_canonical {s : State} (h : s.Canonical) {f} : Goes (execSemtry f s) := by
  unfold execSemtry
  exact guarded_canonical h (Yields.bind h.semCount (fun ⟨t, x⟩ h1 => Yields.pure ((h1.modBank.ite h1).putCore)))

theorem execMtxlock_canonical {s : State} (h : s.Canonical) {f} : Goes (execMtxlock f s) := by
  unfold execMtxlock
  exact guarded_canonical h (Yields.ite Yields.error (Yields.ite (Yields.ok h.modBank) Yields.error))

theorem execMtxtry_canonical {s : State} (h : s.Canonical) {f} : Goes (execMtxtry f s) := by
  unfold execMtxtry
  refine guarded_canonical h ?_
  extract_lets m ok s'
  have hs' : s'.Canonical := h.modBank.ite h
  exact Yields.ite Yields.error (Yields.ok hs'.putCore)

theorem execMtxfree_canonical {s : State} (h : s.Canonical) {f} : Goes (execMtxfree f s) := by
  unfold execMtxfree
  exact guarded_canonical h (Yields.ite (Yields.ok h.modBank) Yields.error)

theorem execXempty_canonical {s : State} (h : s.Canonical) {f} : Goes (execXempty f s) := by
  unfold execXempty
  exact onCore_canonical h

theorem execXfullq_canonical {s : State} (h : s.Canonical) {f} : Goes (execXfullq f s) := by
  unfold execXfullq
  exact onCore_canonical h

theorem execEqdrain_canonical {s : State} (h : s.Canonical) {f} : Goes (execEqdrain f s) := by
  unfold execEqdrain
  exact guarded_canonical h (Yields.bind_any (fun _ => Yields.pure h))

theorem execEqlevel_canonical {s : State} (h : s.Canonical) {f} : Goes (execEqlevel f s) := by
  unfold execEqlevel
  refine guarded_canonical h ?_
  extract_lets jp
  have hjp : ∀ (x : Core), Yields (jp x) State.Canonical := fun _ => Yields.pure h.putCore
  split
  · exact Yields.bind_any (fun _ => hjp _)
  · exact Yields.bind_any (fun _ => hjp _)

theorem execMfs_canonical {s : State} (h : s.Canonical) {f} : Goes (execMfs f s) := by
  unfold execMfs
  exact guarded_canonical h (Yields.ite Yields.error (Yields.bind_any (fun _ => Yields.pure h.putCore)))

theorem State.Canonical.reseed {s : State} (h : s.Canonical) {seed} : (s.reseed seed).Canonical := by
  unfold State.reseed
  split
  · exact h.modBank
  · exact h
  · exact h.modBank.ite (h.modBank.ite h)

theorem State.Canonical.setSpecial {s : State} (h : s.Canonical) {n v} : (s.setSpecial n v).Canonical := by
  unfold State.setSpecial
  extract_lets r
  split
  · exact h.putCore
  · exact h.putCore
  · exact h.putCore.reseed
  · exact h.putCore
  · exact h.putCore
  · exact h.putCore
  · exact h.putCore
  · exact h.putCore.ite h
  · exact h.putCore
  · exact h

theorem execMts_canonical {s : State} (h : s.Canonical) {f} : Goes (execMts f s) := by
  unfold execMts
  exact guarded_canonical h (Yields.ite Yields.error (Yields.bind_any (fun _ => Yields.pure h.setSpecial)))

theorem execFwslotCommit_canonical {s : State} (h : s.Canonical) {f} : Goes (execFwslotCommit f s) := by
  unfold execFwslotCommit
  extract_lets src
  refine Goes.next ?_
  split
  · split
    · exact h.stopped
    · split
      · exact h.stopped
      · extract_lets new
        split
        · exact h.retire
        · exact h.commit.ite h.stopped
  · exact h.squash

theorem execCwbind_canonical {s : State} (h : s.Canonical) {f} : Goes (execCwbind f s) := by
  unfold execCwbind
  exact guarded_canonical
      h (Yields.ite
          (Yields.ok h.putCore) (Yields.bind h.op2 (fun ⟨t, x⟩ h1 => Yields.bind_any (fun _ => Yields.ite (Yields.pure h1.putCore) Yields.error))))

theorem execWaitwp_canonical {s : State} (h : s.Canonical) {f} : Goes (execWaitwp f s) := by
  unfold execWaitwp
  exact guarded_canonical
      h (Yields.bind_any
          (fun ⟨x, x1⟩
              => Yields.bind
                  h.op2 (fun ⟨t, x2⟩
                      h1 => Yields.bind_any
                          (fun _ => Yields.bind_any (fun _ => Yields.ite Yields.error (Yields.ite (Yields.pure h1) Yields.error))))))

theorem execDone_canonical {s : State} (h : s.Canonical) {f} : Goes (execDone f s) := by
  unfold execDone
  extract_lets jp ready
  refine Goes.next (State.Canonical.ite ?_ h.squash)
  cases ready with
  | error e => exact h.stopped
  | ok _ => exact h.modCore

theorem execPause_canonical {s : State} (h : s.Canonical) {f} : Goes (execPause f s) := by
  unfold execPause
  exact guarded_canonical h Yields.error

end Sys2Proof.Machine

end

section
/-! The canonical form of the memories: the vector unit's reads and writes keep it. -/

namespace Sys2Proof.Machine

theorem State.Canonical.setUnit {s : State} (h : s.Canonical) {u} : (s.setUnit u).Canonical := by
  unfold State.setUnit
  exact h.modBank

theorem State.Canonical.setMask {s : State} (h : s.Canonical) {j v} : (s.setMask j v).Canonical := by
  unfold State.setMask
  extract_lets p src s1 src1
  have hs1 : s1.Canonical := h.setUnit
  exact h.ite hs1.putCore

theorem State.Canonical.touchSpans {s : State} (h : s.Canonical) {l} : (s.touchSpans l).Canonical := by
  unfold State.touchSpans
  exact h.modBank

theorem State.Canonical.popPorts {s : State} (h : s.Canonical) {l} : (s.popPorts l).Canonical := by
  unfold State.popPorts
  extract_lets qs s1
  have hs1 : s1.Canonical := by
    unfold s1
    refine State.Canonical.foldl ?_ h
    intro t1 a1 h1
    split
    · exact h1.touchSpans
    · exact h1
  exact State.Canonical.foldl (fun _ _ h1 => h1.setUnit) hs1

theorem State.Canonical.vput {s : State} (h : s.Canonical) {d tag ws side} : (s.vput d tag ws side).Canonical := by
  unfold State.vput
  extract_lets v w a raw bad u u1 u2 s1 src
  have hs1 : s1.Canonical := (h.of_mem (Mem.wf_write h.mem _ _)).setUnit
  exact h.ite hs1.putCore

theorem State.Canonical.vflag {s : State} (h : s.Canonical) {fl} : (s.vflag fl).Canonical := by
  unfold State.vflag
  exact h.putCore

theorem vector_canonical {s : State} (h : s.Canonical) {body} (hbody : ∀ (a : State), a.Canonical → Yields (body a) State.Canonical) :
    Goes (vector s body) := by
  unfold vector
  exact Goes.next ((h.finish (hbody _ h)).ite h.squash)

end Sys2Proof.Machine

end

section
/-! The canonical form of the memories: contexts keep it. -/

namespace Sys2Proof.Machine

/-- The definition is unfolded as a function and its result is named: the kernel would evaluate the words that an application to
arguments reads. -/
theorem State.Canonical.loopAt {s : State} (h : s.Canonical) {k laddr trip round p} : (s.loopAt k laddr trip round p).1.Canonical := by
  obtain ⟨f, hf⟩ : ∃ f, State.loopAt = f := ⟨_, rfl⟩
  obtain ⟨r, hr⟩ : ∃ r, f s k laddr trip round p = r := ⟨_, rfl⟩
  rw [hf, hr]
  delta State.loopAt at hf
  rw [← hf] at hr
  beta_reduce at hr
  split at hr
  next t w heq =>
    have ht := State.Canonical.of_fst heq h.codeWord
    extract_lets n at hr
    split at hr
    next u os ws hscan =>
      cases hr
      exact State.Canonical.of_fst hscan ht.scanBody
    next u e hscan =>
      cases hr
      exact State.Canonical.of_fst hscan ht.scanBody

theorem State.Canonical.ctxScalar {s : State} (h : s.Canonical) {k c hd sec} : (s.ctxScalar k c hd sec).Canonical := by
  unfold State.ctxScalar
  extract_lets old livep x a win
  split
  next t held heq =>
    refine (State.Canonical.of_fst heq ?_).setCore
    split
    · exact h.loopAt
    · exact h

theorem State.Canonical.putGranules {s : State} (h : s.Canonical) {a ws bad} : (s.putGranules a ws bad).Canonical := by
  unfold State.putGranules
  extract_lets n s1
  have hs1 : s1.Canonical := h.of_mem (Mem.wf_write h.mem _ _)
  exact hs1

theorem State.Canonical.ctxVreg {s : State} (h : s.Canonical) {k c v ws} : (s.ctxVreg k c v ws).Canonical := by
  unfold State.ctxVreg
  extract_lets s1
  have hs1 : s1.Canonical := h.putGranules
  exact hs1.modBank

theorem State.Canonical.ctxTile {s : State} (h : s.Canonical) {k t ws} : (s.ctxTile k t ws).Canonical := by
  unfold State.ctxTile
  extract_lets s1
  have hs1 : s1.Canonical := h.putGranules
  exact hs1.modBank

theorem State.Canonical.ctxUnit {s : State} (h : s.Canonical) {k c pmask ws} : (s.ctxUnit k c pmask ws).Canonical := by
  unfold State.ctxUnit
  extract_lets r s1 s2 modU
  have hs1 : s1.Canonical := h.modBank
  have hs2 : s2.Canonical := hs1.putGranules
  have hmodU : ∀ (s : State) (f : VUnit → VUnit), s.Canonical → (modU s f).Canonical := fun _ _ h1 => h1.modBank
  exact (State.Canonical.foldl_fst (fun ⟨t, x⟩ _ h1 => h1.modBank)
      (State.Canonical.foldl_fst (fun ⟨t, x⟩ _ h1 => h1.modBank) (State.Canonical.foldl_fst (fun ⟨t, x⟩ _ h1 => h1.ctxVreg) hs2))).modBank

theorem State.Canonical.ctxArray {s : State} (h : s.Canonical) {k tmask ws} : (s.ctxArray k tmask ws).Canonical := by
  unfold State.ctxArray
  extract_lets r s1 s2 modX
  have hs1 : s1.Canonical := h.modBank
  have hs2 : s2.Canonical := hs1.putGranules
  have hmodX : ∀ (s : State) (f : Mx → Mx), s.Canonical → (modX s f).Canonical := fun _ _ h1 => h1.modBank
  exact (State.Canonical.foldl_fst (fun ⟨t, x⟩ _ h1 => h1.ctxTile) (State.Canonical.foldl_fst (fun ⟨t, x⟩ _ h1 => h1.modBank) hs2)).modBank

theorem State.Canonical.readArea {s : State} (h : s.Canonical) {k c ws} : (s.readArea k c ws).Canonical := by
  unfold State.readArea
  extract_lets cls hd rest s1
  have hs1 : s1.Canonical := h.ctxScalar
  exact hs1.ctxUnit.ite (hs1.ctxArray.ite (hs1.modBank.ite hs1))

end Sys2Proof.Machine

end

section
/-! The canonical form of the memories: the engines' queues keep it. -/

namespace Sys2Proof.Machine

theorem State.Canonical.pushTo {s : State} (h : s.Canonical) {e q op xs dest rows park act}
    (hact : ∀ (a : List Word) (a_1 : State), a_1.Canonical → (act a a_1).Canonical) :
    Yields (s.pushTo e q op xs dest rows park act) State.Canonical := by
  unfold State.pushTo
  extract_lets r b eng credit
  refine Yields.bind_any ?_
  intro b1
  refine Yields.bind_any ?_
  intro b2
  extract_lets s1 b3 uid b4 src jp
  have hs1 : s1.Canonical := hact _ _ h
  have hjp : ∀ (x : Option ℕ), Yields (jp x) Canonical := by
    intro x
    unfold jp
    extract_lets ent b5 src1 b6 jp1 jp2 jp3 jp4
    have hjp1 : ∀ (x : Unit), Yields (jp1 x) Canonical := fun _ => Yields.pure hs1.setBank
    have hjp2 : ∀ (x : Unit), Yields (jp2 x) Canonical := by
      intro x1
      unfold jp2
      split
      · refine Yields.bind_any ?_
        intro b7
        unfold jp1
        refine Yields.pure hs1.setBank
      · unfold jp1
        refine Yields.pure hs1.setBank
    have hjp3 : ∀ (x : Unit), Yields (jp3 x) Canonical := by
      intro x1
      unfold jp3
      split
      · refine Yields.bind_any ?_
        intro b7
        unfold jp2
        split
        · refine Yields.bind_any ?_
          intro b8
          unfold jp1
          refine Yields.pure hs1.setBank
        · unfold jp1
          refine Yields.pure hs1.setBank
      · unfold jp2
        split
        · refine Yields.bind_any ?_
          intro b7
          unfold jp1
          refine Yields.pure hs1.setBank
        · unfold jp1
          refine Yields.pure hs1.setBank
    have hjp4 : ∀ (x : Unit), Yields (jp4 x) Canonical := by
      intro x1
      unfold jp4
      split
      · refine Yields.bind_any ?_
        intro b7
        unfold jp3
        split
        · refine Yields.bind_any ?_
          intro b8
          unfold jp2
          split
          · refine Yields.bind_any ?_
            intro b9
            unfold jp1
            refine Yields.pure hs1.setBank
          · unfold jp1
            refine Yields.pure hs1.setBank
        · unfold jp2
          split
          · refine Yields.bind_any ?_
            intro b8
            unfold jp1
            refine Yields.pure hs1.setBank
          · unfold jp1
            refine Yields.pure hs1.setBank
      · unfold jp3
        split
        · refine Yields.bind_any ?_
          intro b7
          unfold jp2
          split
          · refine Yields.bind_any ?_
            intro b8
            unfold jp1
            refine Yields.pure hs1.setBank
          · unfold jp1
            refine Yields.pure hs1.setBank
        · unfold jp2
          split
          · refine Yields.bind_any ?_
            intro b7
            unfold jp1
            refine Yields.pure hs1.setBank
          · unfold jp1
            refine Yields.pure hs1.setBank
    split
    · refine Yields.bind_any ?_
      intro b7
      unfold jp4
      split
      · refine Yields.bind_any ?_
        intro b8
        unfold jp3
        split
        · refine Yields.bind_any ?_
          intro b9
          unfold jp2
          split
          · refine Yields.bind_any ?_
            intro b10
            unfold jp1
            refine Yields.pure hs1.setBank
          · unfold jp1
            refine Yields.pure hs1.setBank
        · unfold jp2
          split
          · refine Yields.bind_any ?_
            intro b9
            unfold jp1
            refine Yields.pure hs1.setBank
          · unfold jp1
            refine Yields.pure hs1.setBank
      · unfold jp3
        split
        · refine Yields.bind_any ?_
          intro b8
          unfold jp2
          split
          · refine Yields.bind_any ?_
            intro b9
            unfold jp1
            refine Yields.pure hs1.setBank
          · unfold jp1
            refine Yields.pure hs1.setBank
        · unfold jp2
          split
          · refine Yields.bind_any ?_
            intro b8
            unfold jp1
            refine Yields.pure hs1.setBank
          · unfold jp1
            refine Yields.pure hs1.setBank
    · unfold jp4
      split
      · refine Yields.bind_any ?_
        intro b7
        unfold jp3
        split
        · refine Yields.bind_any ?_
          intro b8
          unfold jp2
          split
          · refine Yields.bind_any ?_
            intro b9
            unfold jp1
            refine Yields.pure hs1.setBank
          · unfold jp1
            refine Yields.pure hs1.setBank
        · unfold jp2
          split
          · refine Yields.bind_any ?_
            intro b8
            unfold jp1
            refine Yields.pure hs1.setBank
          · unfold jp1
            refine Yields.pure hs1.setBank
      · unfold jp3
        split
        · refine Yields.bind_any ?_
          intro b7
          unfold jp2
          split
          · refine Yields.bind_any ?_
            intro b8
            unfold jp1
            refine Yields.pure hs1.setBank
          · unfold jp1
            refine Yields.pure hs1.setBank
        · unfold jp2
          split
          · refine Yields.bind_any ?_
            intro b7
            unfold jp1
            refine Yields.pure hs1.setBank
          · unfold jp1
            refine Yields.pure hs1.setBank
  split
  · exact Yields.bind_any (fun _ => hjp _)
  · split
    · exact Yields.bind_any (fun _ => hjp _)
    · split
      · exact Yields.bind_any (fun _ => hjp _)
      · exact Yields.bind_any (fun _ => hjp _)
      · exact Yields.bind_any (fun _ => hjp _)

theorem matrix_canonical {s : State} (h : s.Canonical) {g q i xs dest act}
    (hact : ∀ (a : List Word) (a_1 : State), a_1.Canonical → (act a a_1).Canonical) :
    Goes (matrix s g q i xs dest act) := by
  unfold matrix
  exact Goes.next ((h.finish (h.pushTo (fun _ _ h1 => hact _ _ h1))).ite h.squash)

theorem primary_canonical {s : State} (h : s.Canonical) {g q i xs dest} : Goes (primary s g q i xs dest) := by
  unfold primary
  exact guarded_canonical h (h.pushTo (fun _ _ h1 => h1))

theorem transfer_canonical {s : State} (h : s.Canonical) {g q op xs dest park act}
    (hact : ∀ (a : List Word) (a_1 : State), a_1.Canonical → (act a a_1).Canonical) :
    Goes (transfer s g q op xs dest park act) := by
  unfold transfer
  exact guarded_canonical h (h.pushTo (fun _ _ h1 => hact _ _ h1))

theorem noAct_canonical {s : State} (h : s.Canonical) {a} : (noAct a s).Canonical := by
  unfold noAct
  exact h

theorem State.Canonical.opTouch {s : State} (h : s.Canonical) {k a sp} : (s.opTouch k a sp).Canonical := by
  unfold State.opTouch
  exact h.touch

theorem State.Canonical.opTouches {s : State} (h : s.Canonical) {k a l} : (s.opTouches k a l).Canonical := by
  unfold State.opTouches
  exact State.Canonical.foldl (fun _ ⟨x, x1⟩ h1 => h1.opTouch) h

theorem State.Canonical.opPut {s : State} (h : s.Canonical) {k a off bs} : (s.opPut k a off bs).Canonical := by
  unfold State.opPut
  exact h.chipStore

theorem State.Canonical.opPutBits {s : State} (h : s.Canonical) {k a o w v} : (s.opPutBits k a o w v).Canonical := by
  unfold State.opPutBits
  exact h.opPut.ite h.opPut

theorem State.Canonical.opPutEl {s : State} (h : s.Canonical) {k a w i v} : (s.opPutEl k a w i v).Canonical := by
  unfold State.opPutEl
  exact h.opPutBits

theorem State.Canonical.started {s : State} (h : s.Canonical) {k e ent r} (hr : Yields r fun r => r.s.Canonical) :
    (s.started k e ent r).Canonical := by
  unfold State.started
  split
  · exact h.stopQueue
  · have ht := hr _ rfl
    extract_lets src ent'
    split
    · exact ht.stopQueue
    · exact ht.modBank

theorem State.Canonical.answered {s : State} (h : s.Canonical) {k e ent fl res} : (s.answered k e ent fl res).Canonical := by
  unfold State.answered
  exact h.modBank

theorem State.Canonical.countDone {s : State} (h : s.Canonical) {k e} : (s.countDone k e).Canonical := by
  unfold State.countDone
  split
  · exact h
  · exact (h.modCell rfl).ite h.modBank

theorem State.Canonical.complete {s : State} (h : s.Canonical) {k e ent} : (s.complete k e ent).Canonical := by
  unfold State.complete
  extract_lets c s1 s2 n x
  have hs1 : s1.Canonical := h.modBank
  have hs2 : s2.Canonical := hs1.countDone.modBank
  exact hs2.ite (hs2.modBank.ite hs2.modBank.stopQueue)

theorem execEngineWaitGrant_canonical {s : State} (h : s.Canonical) {k e} : Goes (execEngineWaitGrant k e s) := by
  unfold execEngineWaitGrant
  refine Goes.next ?_
  split
  · exact (Finds.getD h.grantSem h).ite h
  · exact h

end Sys2Proof.Machine

end

section
/-! The canonical form of the memories: the vector instructions keep it. -/

namespace Sys2Proof.Machine

theorem State.Canonical.copyElems {s : State} (h : s.Canonical) {f o tag} : Yields (s.copyElems f o tag) State.Canonical := by
  unfold State.copyElems
  extract_lets w gs en us n ws s1 jp
  have hs1 : s1.Canonical := h.popPorts.ite h
  have hjp : ∀ (x : Unit), Yields (jp x) Canonical := fun _ => Yields.pure hs1.vput
  split
  · refine Yields.bind_any ?_
    intro b1
    unfold jp
    refine Yields.pure hs1.vput
  · unfold jp
    refine Yields.pure hs1.vput

theorem execVmov_canonical {s : State} (h : s.Canonical) {f} : Goes (execVmov f s) := by
  unfold execVmov
  exact vector_canonical h (fun _ h1 => Yields.bind_any (fun _ => h1.copyElems))

theorem execVsplatV_canonical {s : State} (h : s.Canonical) {f} : Goes (execVsplatV f s) := by
  unfold execVsplatV
  exact vector_canonical h (fun _ h1 => Yields.bind_any (fun ⟨x, x1⟩ => Yields.ite (Yields.pure h1) (Yields.bind_any (fun _ => Yields.pure h1.vput))))

theorem execVsplatSlot_canonical {s : State} (h : s.Canonical) {f} : Goes (execVsplatSlot f s) := by
  unfold execVsplatSlot
  exact vector_canonical
      h (fun _ h1 => Yields.bind_any (fun ⟨x, x1⟩ => Yields.ite (Yields.pure h1) (Yields.bind_any (fun _ => Yields.pure h1.setUnit))))

theorem execVzero_canonical {s : State} (h : s.Canonical) {f} : Goes (execVzero f s) := by
  unfold execVzero
  exact vector_canonical h (fun _ h1 => Yields.ok h1.vput)

theorem execVtag_canonical {s : State} (h : s.Canonical) {f} : Goes (execVtag f s) := by
  unfold execVtag
  exact vector_canonical h (fun _ h1 => Yields.bind_any (fun _ => h1.copyElems))

theorem execVgetl_canonical {s : State} (h : s.Canonical) {f} : Goes (execVgetl f s) := by
  unfold execVgetl
  refine vector_canonical h ?_
  intro a1 h1
  extract_lets o n
  refine Yields.bind_any ?_
  intro b1
  extract_lets k p v s1
  have hs1 : s1.Canonical := h1.popPorts
  exact Yields.bind_any
      (fun _ => Yields.ite
          (Yields.bind_any (fun _ => Yields.bind_any (fun _ => Yields.bind_any (fun _ => Yields.bind_any (fun _ => Yields.pure hs1.putCore)))))
              (Yields.ite (Yields.pure h1) (Yields.bind_any (fun _ => Yields.pure h1.popPorts))))

theorem execVsetl_canonical {s : State} (h : s.Canonical) {f} : Goes (execVsetl f s) := by
  unfold execVsetl
  exact vector_canonical
      h (fun _ h1
          => Yields.bind_any
              (fun ⟨x, x1⟩
                  => Yields.bind_any
                      (fun ⟨x2, x3⟩
                          => Yields.bind_any
                              (fun _ => Yields.ite (Yields.bind_any (fun _ => Yields.bind_any (fun _ => Yields.pure h1.vput))) (Yields.pure h1)))))

theorem elementwise_canonical {s : State} (h : s.Canonical) {f srcs cls draws ff fi} : Goes (elementwise f s srcs cls draws ff fi) := by
  unfold elementwise
  exact vector_canonical
      h (fun _ h1
          => Yields.bind_any
              (fun _ => Yields.ite
                  (Yields.bind_any
                      (fun _ => Yields.ite (Yields.pure h1) (Yields.bind_any (fun _ => Yields.pure h1.bump.popPorts.setUnit.vput.vflag))))
                          (Yields.ite (Yields.pure h1) (Yields.bind_any (fun _ => Yields.pure h1.bump.popPorts.setUnit.vput.vflag)))))

theorem execVadd_canonical {s : State} (h : s.Canonical) {f} : Goes (execVadd f s) := by
  unfold execVadd
  exact elementwise_canonical h

theorem execVsub_canonical {s : State} (h : s.Canonical) {f} : Goes (execVsub f s) := by
  unfold execVsub
  exact elementwise_canonical h

theorem execVmul_canonical {s : State} (h : s.Canonical) {f} : Goes (execVmul f s) := by
  unfold execVmul
  exact elementwise_canonical h

theorem execVfma_canonical {s : State} (h : s.Canonical) {f} : Goes (execVfma f s) := by
  unfold execVfma
  exact elementwise_canonical h

theorem execVfms_canonical {s : State} (h : s.Canonical) {f} : Goes (execVfms f s) := by
  unfold execVfms
  exact elementwise_canonical h

theorem execVfnma_canonical {s : State} (h : s.Canonical) {f} : Goes (execVfnma f s) := by
  unfold execVfnma
  exact elementwise_canonical h

theorem execVdiv_canonical {s : State} (h : s.Canonical) {f} : Goes (execVdiv f s) := by
  unfold execVdiv
  exact elementwise_canonical h

theorem execVmin_canonical {s : State} (h : s.Canonical) {f} : Goes (execVmin f s) := by
  unfold execVmin
  exact elementwise_canonical h

theorem execVmax_canonical {s : State} (h : s.Canonical) {f} : Goes (execVmax f s) := by
  unfold execVmax
  exact elementwise_canonical h

theorem execVabs_canonical {s : State} (h : s.Canonical) {f} : Goes (execVabs f s) := by
  unfold execVabs
  exact elementwise_canonical h

theorem execVneg_canonical {s : State} (h : s.Canonical) {f} : Goes (execVneg f s) := by
  unfold execVneg
  exact elementwise_canonical h

theorem execVclamp_canonical {s : State} (h : s.Canonical) {f} : Goes (execVclamp f s) := by
  unfold execVclamp
  exact elementwise_canonical h

theorem execVsgn_canonical {s : State} (h : s.Canonical) {f} : Goes (execVsgn f s) := by
  unfold execVsgn
  exact elementwise_canonical h

theorem execVround_canonical {s : State} (h : s.Canonical) {f} : Goes (execVround f s) := by
  unfold execVround
  exact elementwise_canonical h

theorem execVrsq_canonical {s : State} (h : s.Canonical) {f} : Goes (execVrsq f s) := by
  unfold execVrsq
  exact elementwise_canonical h

theorem execVrcp_canonical {s : State} (h : s.Canonical) {f} : Goes (execVrcp f s) := by
  unfold execVrcp
  exact elementwise_canonical h

theorem transcendental_canonical {s : State} (h : s.Canonical) {f fn} : Goes (transcendental f s fn) := by
  unfold transcendental
  exact elementwise_canonical h

theorem execVexp2_canonical {s : State} (h : s.Canonical) {f} : Goes (execVexp2 f s) := by
  unfold execVexp2
  exact transcendental_canonical h

theorem execVlog2_canonical {s : State} (h : s.Canonical) {f} : Goes (execVlog2 f s) := by
  unfold execVlog2
  exact transcendental_canonical h

theorem execVactRelu_canonical {s : State} (h : s.Canonical) {f} : Goes (execVactRelu f s) := by
  unfold execVactRelu
  exact elementwise_canonical h

theorem execVactGelu_canonical {s : State} (h : s.Canonical) {f} : Goes (execVactGelu f s) := by
  unfold execVactGelu
  exact transcendental_canonical h

theorem execVactSilu_canonical {s : State} (h : s.Canonical) {f} : Goes (execVactSilu f s) := by
  unfold execVactSilu
  exact transcendental_canonical h

theorem execVactTanh_canonical {s : State} (h : s.Canonical) {f} : Goes (execVactTanh f s) := by
  unfold execVactTanh
  exact transcendental_canonical h

theorem execVactSigm_canonical {s : State} (h : s.Canonical) {f} : Goes (execVactSigm f s) := by
  unfold execVactSigm
  exact transcendental_canonical h

theorem execVdot4_canonical {s : State} (h : s.Canonical) {f} : Goes (execVdot4 f s) := by
  unfold execVdot4
  refine vector_canonical h ?_
  intro a1 h1
  extract_lets a b c en quad needs rs s1
  have hs1 : s1.Canonical := h1.popPorts
  exact Yields.bind_any
      (fun _ => Yields.bind_any
          (fun _ => Yields.bind_any (fun _ => Yields.ite (Yields.pure h1) (Yields.bind_any (fun _ => Yields.pure hs1.vput.vflag)))))

theorem bitwise_canonical {s : State} (h : s.Canonical) {f srcs fn} : Goes (bitwise f s srcs fn) := by
  unfold bitwise
  exact elementwise_canonical h

theorem execVand_canonical {s : State} (h : s.Canonical) {f} : Goes (execVand f s) := by
  unfold execVand
  exact bitwise_canonical h

theorem execVor_canonical {s : State} (h : s.Canonical) {f} : Goes (execVor f s) := by
  unfold execVor
  exact bitwise_canonical h

theorem execVxor_canonical {s : State} (h : s.Canonical) {f} : Goes (execVxor f s) := by
  unfold execVxor
  exact bitwise_canonical h

theorem execVlut3_canonical {s : State} (h : s.Canonical) {f} : Goes (execVlut3 f s) := by
  unfold execVlut3
  exact bitwise_canonical h

theorem execVshl_canonical {s : State} (h : s.Canonical) {f} : Goes (execVshl f s) := by
  unfold execVshl
  exact bitwise_canonical h

theorem execVshr_canonical {s : State} (h : s.Canonical) {f} : Goes (execVshr f s) := by
  unfold execVshr
  exact bitwise_canonical h

theorem execVsar_canonical {s : State} (h : s.Canonical) {f} : Goes (execVsar f s) := by
  unfold execVsar
  exact bitwise_canonical h

theorem execVfshl_canonical {s : State} (h : s.Canonical) {f} : Goes (execVfshl f s) := by
  unfold execVfshl
  exact bitwise_canonical h

theorem execVfshr_canonical {s : State} (h : s.Canonical) {f} : Goes (execVfshr f s) := by
  unfold execVfshr
  exact bitwise_canonical h

theorem execVpopc_canonical {s : State} (h : s.Canonical) {f} : Goes (execVpopc f s) := by
  unfold execVpopc
  exact bitwise_canonical h

theorem execVclz_canonical {s : State} (h : s.Canonical) {f} : Goes (execVclz f s) := by
  unfold execVclz
  exact bitwise_canonical h

theorem State.Canonical.setMaskPair {s : State} (h : s.Canonical) {d e mode l} : (s.setMaskPair d e mode l).Canonical := by
  unfold State.setMaskPair
  extract_lets od oe dv ev s1
  have hs1 : s1.Canonical := h.setMask
  exact hs1.ite hs1.setMask

theorem vcompare_canonical {s : State} (h : s.Canonical) {f cls ff fi} : Goes (vcompare f s cls ff fi) := by
  unfold vcompare
  refine vector_canonical h ?_
  intro a1 h1
  extract_lets a b en needs fm rs s1
  have hs1 : s1.Canonical := h1.popPorts
  exact Yields.bind_any
      (fun _ => Yields.ite (Yields.pure h1) (Yields.bind_any (fun _ => Yields.bind_any (fun _ => Yields.pure hs1.setMaskPair.vflag))))

theorem execVcmpEq_canonical {s : State} (h : s.Canonical) {f} : Goes (execVcmpEq f s) := by
  unfold execVcmpEq
  exact vcompare_canonical h

theorem execVcmpNe_canonical {s : State} (h : s.Canonical) {f} : Goes (execVcmpNe f s) := by
  unfold execVcmpNe
  exact vcompare_canonical h

theorem execVcmpLt_canonical {s : State} (h : s.Canonical) {f} : Goes (execVcmpLt f s) := by
  unfold execVcmpLt
  exact vcompare_canonical h

theorem execVcmpLe_canonical {s : State} (h : s.Canonical) {f} : Goes (execVcmpLe f s) := by
  unfold execVcmpLe
  exact vcompare_canonical h

theorem execVcmpGt_canonical {s : State} (h : s.Canonical) {f} : Goes (execVcmpGt f s) := by
  unfold execVcmpGt
  exact vcompare_canonical h

theorem execVcmpGe_canonical {s : State} (h : s.Canonical) {f} : Goes (execVcmpGe f s) := by
  unfold execVcmpGe
  exact vcompare_canonical h

theorem execVcmpUn_canonical {s : State} (h : s.Canonical) {f} : Goes (execVcmpUn f s) := by
  unfold execVcmpUn
  exact vcompare_canonical h

theorem execVclass_canonical {s : State} (h : s.Canonical) {f} : Goes (execVclass f s) := by
  unfold execVclass
  exact vector_canonical
      h (fun _ h1
          => Yields.bind_any
              (fun _ => Yields.ite (Yields.pure h1) (Yields.bind_any (fun _ => Yields.bind_any (fun _ => Yields.pure h1.popPorts.setMaskPair)))))

theorem execVsel_canonical {s : State} (h : s.Canonical) {f} : Goes (execVsel f s) := by
  unfold execVsel
  exact vector_canonical
      h (fun _ h1 => Yields.bind_any (fun _ => Yields.ite (Yields.pure h1) (Yields.bind_any (fun _ => Yields.pure h1.popPorts.vput))))

theorem execKlut_canonical {s : State} (h : s.Canonical) {f} : Goes (execKlut f s) := by
  unfold execKlut
  exact vector_canonical h (fun _ h1 => Yields.ok (h1.ite h1.setMask))

theorem execKsetp_canonical {s : State} (h : s.Canonical) {f} : Goes (execKsetp f s) := by
  unfold execKsetp
  exact vector_canonical
      h (fun _ h1 => Yields.bind_any (fun ⟨x, x1⟩ => Yields.ite (Yields.pure h1) (Yields.bind_any (fun _ => Yields.pure h1.setMask))))

theorem execKpopc_canonical {s : State} (h : s.Canonical) {f} : Goes (execKpopc f s) := by
  unfold execKpopc
  exact vector_canonical h (fun _ h1 => Yields.bind_any (fun _ => Yields.pure h1.putCore))

theorem execKfirst_canonical {s : State} (h : s.Canonical) {f} : Goes (execKfirst f s) := by
  unfold execKfirst
  exact vector_canonical h (fun _ h1 => Yields.ok (h1.ite h1.setMask))

theorem execVpchk_canonical {s : State} (h : s.Canonical) {f} : Goes (execVpchk f s) := by
  unfold execVpchk
  extract_lets d
  refine vector_canonical h ?_
  intro a1 h1
  extract_lets a n en of_ nd l s1
  have hs1 : s1.Canonical := h1.popPorts
  exact Yields.bind_any (fun _ => Yields.ite (Yields.pure h1) (Yields.bind_any (fun _ => Yields.pure hs1.setMask)))

theorem convert_canonical {s : State} (h : s.Canonical) {f a tag extra cvt gs en side bad} :
    Yields (convert f s a tag extra cvt gs en side bad) State.Canonical := by
  unfold convert
  exact Yields.ite (Yields.pure h) (Yields.bind_any (fun _ => Yields.pure h.popPorts.setUnit.vput.vflag))

theorem execVcvt_canonical {s : State} (h : s.Canonical) {f} : Goes (execVcvt f s) := by
  unfold execVcvt
  exact vector_canonical h (fun _ h1 => Yields.bind_any (fun _ => Yields.ite (convert_canonical h1) Yields.error))

theorem execVquant_canonical {s : State} (h : s.Canonical) {f} : Goes (execVquant f s) := by
  unfold execVquant
  exact vector_canonical
      h (fun _ h1 => Yields.bind_any (fun _ => Yields.bind_any (fun _ => Yields.ite Yields.error (Yields.ite (convert_canonical h1) Yields.error))))

theorem execVdequant_canonical {s : State} (h : s.Canonical) {f} : Goes (execVdequant f s) := by
  unfold execVdequant
  exact vector_canonical h (fun _ h1 => Yields.bind_any (fun _ => Yields.ite Yields.error (Yields.ite (convert_canonical h1) Yields.error)))

theorem execVmxpack_canonical {s : State} (h : s.Canonical) {f} : Goes (execVmxpack f s) := by
  unfold execVmxpack
  exact vector_canonical
      h (fun _ h1
          => Yields.bind_any
              (fun _ => Yields.ite
                  Yields.error (Yields.ite (Yields.pure h1) (Yields.bind_any (fun _ => Yields.pure h1.popPorts.setUnit.vput.vflag)))))

theorem execVmxunpk_canonical {s : State} (h : s.Canonical) {f} : Goes (execVmxunpk f s) := by
  unfold execVmxunpk
  exact vector_canonical h (fun _ h1 => Yields.bind_any (fun _ => Yields.ite (convert_canonical h1) Yields.error))

end Sys2Proof.Machine

end

section
/-! The canonical form of the memories: copies keep it. -/

namespace Sys2Proof.Machine

theorem State.Canonical.readSide {s : State} (h : s.Canonical) {k a runs} : (s.readSide k a runs).Canonical := by
  unfold State.readSide
  refine State.Canonical.foldl ?_ h
  intro t1 a1 h1
  extract_lets b
  split
  · exact h1.touch
  · exact h1.settle.noteSubst.noteBufs.cacheTouch
  · exact h1

theorem State.Canonical.landChip {s : State} (h : s.Canonical) {a ws} : (s.landChip a ws).1.Canonical := by
  unfold State.landChip
  extract_lets k off c s1 live
  have hs1 : s1.Canonical := h.of_mem (Mem.wf_merge h.mem _ _)
  have hlive : ∀ (s : State) (c : CoreIx), s.Canonical → (live s c).Canonical := fun _ _ h1 => State.Canonical.foldl (fun _ _ h2 => h2.modCore) h1
  split
  · exact h.landX
  · exact h.landSem
  · split
    · exact hs1.touch.noteSlotStore
    · exact hlive _ _ hs1
    · exact hlive _ _ hs1
    · exact hs1

theorem State.Canonical.post {s : State} (h : s.Canonical) {k l} : (s.post k l).Canonical := by
  unfold State.post
  extract_lets s1
  have hs1 : s1.Canonical := State.Canonical.foldl (fun _ _ h1 => h1.modBank) h
  exact hs1.modCell rfl

end Sys2Proof.Machine

end

section
/-! The canonical form of the memories: the transfer engine keeps it. -/

namespace Sys2Proof.Machine

theorem State.Canonical.nextSeq {s : State} (h : s.Canonical) {k} : (s.nextSeq k).1.Canonical := by
  unfold State.nextSeq
  exact h.modCell rfl

theorem State.Canonical.drawFlits {s : State} (h : s.Canonical) {k} : (s.drawFlits k).Canonical := by
  unfold State.drawFlits
  exact h.modCell rfl

theorem State.Canonical.send {s : State} (h : s.Canonical) {x} : (s.send x).Canonical := by
  unfold State.send
  exact h

/-- A page request goes to the host whatever requests it keeps. -/
theorem State.Canonical.askPage {s : State} (h : s.Canonical) {pasid page} : (s.askPage pasid page).Canonical := by
  unfold State.askPage
  extract_lets h1
  split
  · exact h
  · split
    · exact h
    · refine State.Canonical.send (x := _) ?_
      exact h

theorem State.Canonical.pageAnswered {s : State} (h : s.Canonical) {pasid page} : (s.pageAnswered pasid page).Canonical := by
  unfold State.pageAnswered
  extract_lets h1 pri
  split
  · split
    · refine State.Canonical.send (x := _) ?_
      exact h
    · exact h
  · exact h

theorem State.Canonical.sendMsg {s : State} (h : s.Canonical) {m} : (s.sendMsg m).Canonical := by
  unfold State.sendMsg
  extract_lets live i
  split
  · exact h.send
  · exact h

theorem State.Canonical.pushData {s : State} (h : s.Canonical) {k r stream runs} : (s.pushData k r stream runs).1.Canonical := by
  unfold State.pushData
  exact State.Canonical.foldl_fst (fun _ _ ht => State.Canonical.sendMsg ht.nextSeq) h

theorem State.Canonical.runPush {s : State} (h : s.Canonical) {k ent f h1 order m} : (s.runPush k ent f h1 order m).s.Canonical := by
  unfold State.runPush
  extract_lets stream
  split
  · exact h
  · split
    · split
      next x2 t op cnt heq2 =>
        have ht := State.Canonical.of_fst heq2 h.pushData
        split
        · exact ht
        · split
          next x3 t1 w heq4 =>
            have ht1 := State.Canonical.of_fst heq4 ht.nextSeq
            extract_lets op1 s1 o src
            have hs1 : s1.Canonical := ht1.sendMsg
            exact hs1

theorem State.Canonical.siftHost {s : State} (h : s.Canonical) {k again} : (s.siftHost k again).Canonical := by
  unfold State.siftHost
  exact h.modCell rfl

theorem State.Canonical.layDown {s : State} (h : s.Canonical) {k ent opc f d order m more} : (s.layDown k ent opc f d order m more).s.Canonical := by
  unfold State.layDown
  extract_lets base rs ps ps1
  split
  · split
    · exact h.post
    · exact State.Canonical.foldl (fun _ ⟨x, x1⟩ h1 => h1.landChip) h
  · exact h
  · exact h.post
  · split
    · extract_lets rs1 ps2 s1
      have hs1 : s1.Canonical := h.post.siftHost
      exact hs1
  · exact h.runPush
  · exact h

theorem State.Canonical.moveNow {s : State} (h : s.Canonical) {k ent opc f p mvs more} : (s.moveNow k ent opc f p mvs more).s.Canonical := by
  unfold State.moveNow
  extract_lets s1 pad vals r ps order rs r1
  have hs1 : s1.Canonical := by
    unfold s1
    split
    · exact h.readSide
    · exact h
  have hr1 : r1.s.Canonical := hs1.layDown
  split
  · exact hs1.post
  · split
    · exact hr1
    · exact hs1.layDown

theorem State.Canonical.runPull {s : State} (h : s.Canonical) {k ent f p} : (s.runPull k ent f p).s.Canonical := by
  unfold State.runPull
  extract_lets reqs r ent1 pad
  have hr : r.s.Canonical := h.bump.moveNow
  split
  · exact h
  · split
    · exact hr
    · exact State.Canonical.foldl_fst (β := Option Nat × Nat) (p := (s, none, 0)) (fun _ _ ht => State.Canonical.sendMsg ht.nextSeq) h

theorem State.Canonical.runCopy {s : State} (h : s.Canonical) {k ent opc f} : Yields (s.runCopy k ent opc f) fun r => r.s.Canonical := by
  unfold State.runCopy
  refine Yields.bind_any ?_
  intro b1
  extract_lets s1 n s2
  have hs1 : s1.Canonical := h.drawFlits.ite h
  have hs2 : s2.Canonical := hs1.modBank.ite hs1
  split
  · exact Yields.pure h.runPull
  · refine Yields.pure ?_
    split
    · exact hs2.moveNow
    · exact hs2.moveNow

theorem State.Canonical.runXchan {s : State} (h : s.Canonical) {k ent c ad} : Yields (s.runXchan k ent c ad) fun r => r.s.Canonical := by
  unfold State.runXchan
  exact Yields.bind_any (fun _ => Yields.bind_any (fun _ => Yields.pure h.modBank))

theorem State.Canonical.runXchanClose {s : State} (h : s.Canonical) {k c} : Yields (s.runXchanClose k c) fun r => r.s.Canonical := by
  unfold State.runXchanClose
  exact Yields.pure h.modBank

theorem State.Canonical.abortChan {s : State} (h : s.Canonical) {k c} : (s.abortChan k c).Canonical := by
  unfold State.abortChan
  extract_lets mine s1
  have hs1 : s1.Canonical := h.modBank
  exact hs1.modCell rfl

theorem State.Canonical.runXstream {s : State} (h : s.Canonical) {k ent i ar} : Yields (s.runXstream k ent i ar) fun r => r.s.Canonical := by
  unfold State.runXstream
  exact Yields.bind_any (fun _ => Yields.bind_any (fun _ => Yields.pure h.modBank))

theorem State.Canonical.runXstrend {s : State} (h : s.Canonical) {k i} : Yields (s.runXstrend k i) fun r => r.s.Canonical := by
  unfold State.runXstrend
  exact Yields.pure h.modBank

theorem State.Canonical.homeAtomic {s : State} (h : s.Canonical) {k h1 off ws} : (s.homeAtomic k h1 off ws).Canonical := by
  unfold State.homeAtomic
  extract_lets s1 a bs s2
  have hs1 : s1.Canonical := h.homePut.modBuf
  have hs2 : s2.Canonical := hs1.of_cells (hs1.mapCells fun e => ⟨rfl, fun x hx => by
    obtain ⟨y, hy, rfl⟩ := List.mem_map.1 hx
    exact ⟨y, hy, rfl⟩⟩)
  exact hs2.modBank.cacheTouch

theorem State.Canonical.noteHome {s : State} (h : s.Canonical) {h1 off n} : (s.noteHome h1 off n).Canonical := by
  unfold State.noteHome
  split
  · exact h.countSubst.ite h
  · exact h

theorem State.Canonical.runAmo {s : State} (h : s.Canonical) {k ent opc f} : Yields (s.runAmo k ent opc f) fun r => r.s.Canonical := by
  unfold State.runAmo
  exact Yields.bind_any
      (fun _ => Yields.ite
          (Yields.bind_any (fun _ => Yields.bind_any (fun _ => Yields.bind_any (fun _ => Yields.pure h.noteHome.drawFlits.homeAtomic))))
              (Yields.bind_any (fun _ => Yields.pure ((h.ite h.drawFlits).landChip))))

theorem State.Canonical.capture {s : State} (h : s.Canonical) {k group op held} : (s.capture k group op held).Canonical := by
  unfold State.capture
  exact h.ite h.setBank

theorem State.Canonical.runPhase {s : State} (h : s.Canonical) {k scope group} : Yields (s.runPhase k scope group) fun r => r.s.Canonical := by
  unfold State.runPhase
  extract_lets b many s1 s2
  have hs1 : s1.Canonical := h.capture.ite h
  have hs2 : s2.Canonical := hs1.modBank
  exact Yields.pure hs2

theorem State.Canonical.runCbar {s : State} (h : s.Canonical) {k} : Yields (s.runCbar k) fun r => r.s.Canonical := by
  unfold State.runCbar
  extract_lets b s1
  have hs1 : s1.Canonical := h.setBank
  exact Yields.pure hs1

theorem State.Canonical.snapshot {s : State} (h : s.Canonical) {k} : (s.snapshot k).Canonical := by
  unfold State.snapshot
  extract_lets s1
  have hs1 : s1.Canonical := h.modBank
  exact hs1.modBank

theorem State.Canonical.putGran {s : State} (h : s.Canonical) {g asid} : (s.putGran g asid).Canonical := by
  unfold State.putGran
  extract_lets h1 s1 s2
  have hs1 : s1.Canonical := State.Canonical.foldl (fun _ ⟨x, x1⟩ h2 => h2.of_hbm (Mem.wf_merge h2.hbm _ _)) h
  have hs2 : s2.Canonical := by
    unfold s2
    split
    · exact hs1
    · exact hs1
    · exact hs1
  split
  · exact h
  · exact hs2.cacheTouch

theorem State.Canonical.bumpVersion {s : State} (h : s.Canonical) {h1} : (s.bumpVersion h1).Canonical := by
  unfold State.bumpVersion
  exact h.modBuf

theorem execPublicationComplete_canonical {s : State} (h : s.Canonical) {k i} : Goes (execPublicationComplete k i s) := by
  unfold execPublicationComplete
  extract_lets b
  refine Goes.next ?_
  split
  · exact h
  · split
    · exact h
    · split
      · exact h
      · extract_lets s1 left s2
        have hs1 : s1.Canonical := State.Canonical.foldl (fun _ _ h1 => h1.putGran) h
        have hs2 : s2.Canonical := State.Canonical.foldl (fun _ _ h1 => h1.bumpVersion) hs1
        exact hs2.modBank.ite hs1.modBank

theorem State.Canonical.pieceDone {s : State} (h : s.Canonical) {k uid fl} : (s.pieceDone k uid fl).Canonical := by
  unfold State.pieceDone
  exact h.modBank

theorem State.Canonical.landPiece {s : State} (h : s.Canonical) {k a p} : (s.landPiece k a p).Canonical := by
  unfold State.landPiece
  split
  next x t ok heq =>
    have ht := State.Canonical.of_fst heq h.landChip
    extract_lets s1 s2 s3
    have hs1 : s1.Canonical := ht.modBank.ite ht
    have hs2 : s2.Canonical := by
      unfold s2
      split
      · exact hs1.modBank
      · exact hs1
    have hs3 : s3.Canonical := hs2.ite hs2.pieceDone
    exact hs3.ite hs3.stopQueue

theorem execPostedWriteLand_canonical {s : State} (h : s.Canonical) {k i} : Goes (execPostedWriteLand k i s) := by
  unfold execPostedWriteLand
  extract_lets s1
  have hs1 : s1.Canonical := h.modCell rfl
  refine Goes.next ?_
  split
  · exact h
  · split
    · exact h
    · refine hs1.onPusher ?_
      intro a1 h1
      split
      · exact h1.landPiece
      · exact h1.landPiece
      · exact (h1.of_hostMem (Mem.wf_merge h1.hostMem _ _)).pieceDone
      · extract_lets n s2
        have hs2 : s2.Canonical := h1.noteHome
        exact hs2.homeAtomic.pieceDone

theorem State.Canonical.replayed {s : State} (h : s.Canonical) {k} : (s.replayed k).Canonical := by
  unfold State.replayed
  exact h.modBank

theorem execReplayRelease_canonical {s : State} (h : s.Canonical) {k} : Goes (execReplayRelease k s) := by
  unfold execReplayRelease
  refine Goes.next ?_
  split
  · exact h.siftHost.replayed
  · extract_lets ent1 r r1 r2
    have hr : r.s.Canonical := h.moveNow
    have hr1 : r1.s.Canonical := by
      unfold r1
      split <;> exact hr
    have hr2 : r2.s.Canonical := by
      unfold r2
      split <;> exact hr1
    exact h.started (Yields.ok hr2)

theorem State.Canonical.dropParked {s : State} (h : s.Canonical) {k uid} : (s.dropParked k uid).Canonical := by
  unfold State.dropParked
  exact State.Canonical.foldl (fun _ ⟨x, x1⟩ h1 => h1.pageAnswered) (h.modCell rfl)

theorem execHostPageRefused_canonical {s : State} (h : s.Canonical) {k} : Goes (execHostPageRefused k s) := by
  unfold execHostPageRefused
  refine Goes.next ?_
  split
  · split
    · exact h.dropParked
    · exact h
  · extract_lets s1 s2 s3
    have hs1 : s1.Canonical := State.Canonical.foldl (fun _ _ h1 => h1.bufPutW) h
    have hs2 : s2.Canonical := by
      unfold s2
      split
      · exact State.Canonical.foldl (fun _ _ h1 => h1.pageAnswered) hs1
      · exact hs1
    have hs3 : s3.Canonical := hs2.dropParked.modBank
    exact hs3.stopQueue

theorem execXcopy_canonical {s : State} (h : s.Canonical) {f} : Goes (execXcopy f s) := by
  unfold execXcopy
  exact transfer_canonical h (fun _ _ h1 => noAct_canonical h1)

theorem execXcopyw_canonical {s : State} (h : s.Canonical) {f} : Goes (execXcopyw f s) := by
  unfold execXcopyw
  exact transfer_canonical h (fun _ _ h1 => noAct_canonical h1)

theorem execXcopyc_canonical {s : State} (h : s.Canonical) {f} : Goes (execXcopyc f s) := by
  unfold execXcopyc
  exact transfer_canonical h (fun _ _ h1 => noAct_canonical h1)

theorem execXcopyh_canonical {s : State} (h : s.Canonical) {f} : Goes (execXcopyh f s) := by
  unfold execXcopyh
  exact transfer_canonical h (fun _ _ h1 => noAct_canonical h1)

theorem execXfill_canonical {s : State} (h : s.Canonical) {f} : Goes (execXfill f s) := by
  unfold execXfill
  exact transfer_canonical h (fun _ _ h1 => noAct_canonical h1)

theorem execXgath_canonical {s : State} (h : s.Canonical) {f} : Goes (execXgath f s) := by
  unfold execXgath
  exact transfer_canonical h (fun _ _ h1 => noAct_canonical h1)

theorem execXred_canonical {s : State} (h : s.Canonical) {f} : Goes (execXred f s) := by
  unfold execXred
  exact transfer_canonical h (fun _ _ h1 => noAct_canonical h1)

theorem execXconv_canonical {s : State} (h : s.Canonical) {f} : Goes (execXconv f s) := by
  unfold execXconv
  exact transfer_canonical h (fun _ _ h1 => noAct_canonical h1)

theorem execXlayout_canonical {s : State} (h : s.Canonical) {f} : Goes (execXlayout f s) := by
  unfold execXlayout
  exact transfer_canonical h (fun _ _ h1 => noAct_canonical h1)

theorem execXpush_canonical {s : State} (h : s.Canonical) {f} : Goes (execXpush f s) := by
  unfold execXpush
  exact transfer_canonical h (fun _ _ h1 => noAct_canonical h1)

theorem execXpull_canonical {s : State} (h : s.Canonical) {f} : Goes (execXpull f s) := by
  unfold execXpull
  exact transfer_canonical h (fun _ _ h1 => noAct_canonical h1)

theorem execXstream_canonical {s : State} (h : s.Canonical) {g q k ar} : Goes (execXstream g q k ar s) := by
  unfold execXstream
  exact transfer_canonical h (fun _ _ h1 => noAct_canonical h1)

theorem execXstrend_canonical {s : State} (h : s.Canonical) {g q k} : Goes (execXstrend g q k s) := by
  unfold execXstrend
  exact transfer_canonical h (fun _ _ h1 => noAct_canonical h1)

theorem atPush_canonical {s : State} (h : s.Canonical) {g q xd v} : Goes (atPush s g q xd v) := by
  unfold atPush
  exact guarded_canonical
      h (Yields.bind_any
          (fun _ => Yields.bind (h.pushTo (fun _ _ h1 => noAct_canonical h1)) (fun _ h1 => Yields.bind_any (fun _ => Yields.pure h1.putCore))))

theorem execXwptr_canonical {s : State} (h : s.Canonical) {g q xd c} : Goes (execXwptr g q xd c s) := by
  unfold execXwptr
  exact atPush_canonical h

theorem execXchan_canonical {s : State} (h : s.Canonical) {g q c ad} : Goes (execXchan g q c ad s) := by
  unfold execXchan
  exact transfer_canonical h (fun _ _ h1 => noAct_canonical h1)

theorem execXchanClose_canonical {s : State} (h : s.Canonical) {g q c} : Goes (execXchanClose g q c s) := by
  unfold execXchanClose
  exact transfer_canonical h (fun _ _ h1 => noAct_canonical h1)

theorem execXabort_canonical {s : State} (h : s.Canonical) {g q c} : Goes (execXabort g q c s) := by
  unfold execXabort
  exact transfer_canonical h (fun _ _ h1 => h1.abortChan)

theorem amo_canonical {s : State} (h : s.Canonical) {opc f} : Goes (amo opc f s) := by
  unfold amo
  exact transfer_canonical h (fun _ _ h1 => noAct_canonical h1)

theorem execAmoadd_canonical {s : State} (h : s.Canonical) {f} : Goes (execAmoadd f s) := by
  unfold execAmoadd
  exact amo_canonical h

theorem execAmomax_canonical {s : State} (h : s.Canonical) {f} : Goes (execAmomax f s) := by
  unfold execAmomax
  exact amo_canonical h

theorem execAmomin_canonical {s : State} (h : s.Canonical) {f} : Goes (execAmomin f s) := by
  unfold execAmomin
  exact amo_canonical h

theorem execAmoand_canonical {s : State} (h : s.Canonical) {f} : Goes (execAmoand f s) := by
  unfold execAmoand
  exact amo_canonical h

theorem execAmoor_canonical {s : State} (h : s.Canonical) {f} : Goes (execAmoor f s) := by
  unfold execAmoor
  exact amo_canonical h

theorem execAmoxch_canonical {s : State} (h : s.Canonical) {f} : Goes (execAmoxch f s) := by
  unfold execAmoxch
  exact amo_canonical h

theorem execAmocas_canonical {s : State} (h : s.Canonical) {f} : Goes (execAmocas f s) := by
  unfold execAmocas
  exact transfer_canonical h (fun _ _ h1 => noAct_canonical h1)

theorem execPhase_canonical {s : State} (h : s.Canonical) {g q scope group} : Goes (execPhase g q scope group s) := by
  unfold execPhase
  exact transfer_canonical h (fun _ _ h1 => noAct_canonical h1)

theorem execFence_canonical {s : State} (h : s.Canonical) {g q scope} : Goes (execFence g q scope s) := by
  unfold execFence
  exact transfer_canonical h (fun _ _ h1 => noAct_canonical h1)

theorem execCbar_canonical {s : State} (h : s.Canonical) {g q} : Goes (execCbar g q s) := by
  unfold execCbar
  exact transfer_canonical h (fun _ _ h1 => noAct_canonical h1)

theorem execXpend_canonical {s : State} (h : s.Canonical) {g q xd} : Goes (execXpend g q xd s) := by
  unfold execXpend
  exact atPush_canonical h

end Sys2Proof.Machine

end

section
/-! The canonical form of the memories: named buffers keep it. -/

namespace Sys2Proof.Machine

theorem State.Canonical.enterBuf {s : State} (h : s.Canonical) {i b} : (s.enterBuf i b).Canonical := by
  unfold State.enterBuf
  exact h

theorem State.Canonical.alloc {s : State} (h : s.Canonical) {w} : (s.alloc w).1.Canonical := by
  unfold State.alloc
  split
  · exact h
  · split
    · exact h
    · split
      · exact h.bump
      · extract_lets h1 t
        have ht : t.Canonical := h.bump.enterBuf
        split
        · exact ht
        · split
          · exact h.bump
          · split
            · exact h.bump
            · extract_lets u
              have hu : u.Canonical := ht.bump.enterBuf
              exact hu.modBuf

theorem State.Canonical.hold {s : State} (h : s.Canonical) {a h1 r} : (s.hold a h1 r).Canonical := by
  unfold State.hold
  exact h.modAsid

theorem State.Canonical.unhold {s : State} (h : s.Canonical) {a h1} : (s.unhold a h1).Canonical := by
  unfold State.unhold
  extract_lets p s1 src
  have hs1 : s1.Canonical := h.modAsid
  split
  · exact hs1.ite hs1
  · exact hs1.dropRef

theorem State.Canonical.dropHoldings {s : State} (h : s.Canonical) {a} : (s.dropHoldings a).Canonical := by
  unfold State.dropHoldings
  exact State.Canonical.foldl (fun _ ⟨x, x1, x2⟩ h1 => State.Canonical.foldl (fun _ _ h2 => h2.unhold) h1) h

theorem State.Canonical.schedSeq {s : State} (h : s.Canonical) : s.schedSeq.1.Canonical := by
  unfold State.schedSeq
  exact h

theorem State.Canonical.postRecord {s : State} (h : s.Canonical) {a gen vec payload seq src} :
    (s.postRecord a gen vec payload seq src).Canonical := by
  unfold State.postRecord
  exact h.modAsid

theorem State.Canonical.deviceRecord {s : State} (h : s.Canonical) {a vec payload} : (s.deviceRecord a vec payload).Canonical := by
  unfold State.deviceRecord
  exact State.Canonical.postRecord h.schedSeq

theorem State.Canonical.setHost {s : State} (h : s.Canonical) {f} : (s.setHost f).Canonical := by
  unfold State.setHost
  exact h

theorem State.Canonical.reply {s : State} (h : s.Canonical) {r} : (s.reply r).Canonical := by
  unfold State.reply
  exact h.setHost

theorem State.Canonical.writeMail {s : State} (h : s.Canonical) {code ag status ws} : (s.writeMail code ag status ws).Canonical := by
  unfold State.writeMail
  extract_lets rest w0
  exact State.Canonical.setHost (s := { s with free := s.free + 16 }) h

theorem State.Canonical.answerMail {s : State} (h : s.Canonical) {code ag status ws} : (s.answerMail code ag status ws).Canonical := by
  unfold State.answerMail
  exact h.writeMail.reply

theorem State.Canonical.raiseAer {s : State} (h : s.Canonical) : s.raiseAer.Canonical := by
  unfold State.raiseAer
  exact h.setHost.reply

end Sys2Proof.Machine

end

section
/-! The canonical form of the memories: the vector loads and stores keep it. -/

namespace Sys2Proof.Machine

theorem reduce_canonical {s : State} (h : s.Canonical) {f sat ff ft fi it} : Goes (reduce f s sat ff ft fi it) := by
  unfold reduce
  exact vector_canonical
      h (fun _ h1
          => Yields.bind_any
              (fun _ => Yields.ite
                  (Yields.bind_any
                      (fun _ => Yields.ite
                          (Yields.pure h1)
                              (Yields.bind_any (fun _ => Yields.ite (Yields.pure h1.popPorts.setUnit.vput.vflag) (Yields.pure h1.popPorts.vput)))))
                                  (Yields.ite (Yields.pure h1)
                                      (Yields.bind_any
                                          (fun _ => Yields.ite (Yields.pure h1.popPorts.setUnit.vput.vflag) (Yields.pure h1.popPorts.vput))))))

theorem execVredAdd_canonical {s : State} (h : s.Canonical) {f} : Goes (execVredAdd f s) := by
  unfold execVredAdd
  exact reduce_canonical h

theorem execVredMax_canonical {s : State} (h : s.Canonical) {f} : Goes (execVredMax f s) := by
  unfold execVredMax
  exact reduce_canonical h

theorem execVredMin_canonical {s : State} (h : s.Canonical) {f} : Goes (execVredMin f s) := by
  unfold execVredMin
  exact reduce_canonical h

theorem execVscanAdd_canonical {s : State} (h : s.Canonical) {f} : Goes (execVscanAdd f s) := by
  unfold execVscanAdd
  exact vector_canonical
      h (fun _ h1
          => Yields.bind_any
              (fun _ => Yields.ite
                  (Yields.bind_any (fun _ => Yields.ite (Yields.pure h1) (Yields.bind_any (fun _ => Yields.pure h1.popPorts.setUnit.vput.vflag))))
                      (Yields.ite (Yields.pure h1) (Yields.bind_any (fun _ => Yields.pure h1.popPorts.setUnit.vput.vflag)))))

theorem State.Canonical.permute {s : State} (h : s.Canonical) {f a b en src more} : Yields (s.permute f a b en src more) State.Canonical := by
  unfold State.permute
  exact Yields.bind_any (fun _ => Yields.bind_any (fun _ => Yields.pure h.popPorts.vput))

theorem execVperm_canonical {s : State} (h : s.Canonical) {f} : Goes (execVperm f s) := by
  unfold execVperm
  exact vector_canonical
      h (fun _ h1
          => Yields.bind_any
              (fun _ => Yields.bind_any
                  (fun _ => Yields.ite
                      (Yields.pure h1)
                          (Yields.bind_any (fun _ => Yields.bind_any (fun _ => Yields.bind_any (fun _ => Yields.pure h1.popPorts.vput)))))))

theorem execVrot_canonical {s : State} (h : s.Canonical) {f} : Goes (execVrot f s) := by
  unfold execVrot
  exact vector_canonical
      h (fun _ h1
          => Yields.bind_any
              (fun ⟨x, x1⟩
                  => Yields.bind_any
                      (fun _ => Yields.ite (Yields.pure h1) (Yields.bind_any (fun _ => Yields.bind_any (fun _ => Yields.pure h1.popPorts.vput))))))

theorem execVzip_canonical {s : State} (h : s.Canonical) {f} : Goes (execVzip f s) := by
  unfold execVzip
  exact vector_canonical h (fun _ h1 => Yields.bind_any (fun _ => Yields.ite (Yields.pure h1) h1.permute))

theorem execVunzip_canonical {s : State} (h : s.Canonical) {f} : Goes (execVunzip f s) := by
  unfold execVunzip
  exact vector_canonical h (fun _ h1 => Yields.bind_any (fun _ => Yields.ite (Yields.pure h1) h1.permute))

theorem execVcompress_canonical {s : State} (h : s.Canonical) {f} : Goes (execVcompress f s) := by
  unfold execVcompress
  exact vector_canonical
      h (fun _ h1 => Yields.bind_any (fun _ => Yields.ite (Yields.pure h1) (Yields.bind_any (fun _ => Yields.pure h1.popPorts.vput))))

theorem execVexpand_canonical {s : State} (h : s.Canonical) {f} : Goes (execVexpand f s) := by
  unfold execVexpand
  exact vector_canonical
      h (fun _ h1 => Yields.bind_any (fun _ => Yields.ite (Yields.pure h1) (Yields.bind_any (fun _ => Yields.pure h1.popPorts.vput))))

theorem execVld_canonical {s : State} (h : s.Canonical) {f} : Goes (execVld f s) := by
  unfold execVld
  exact vector_canonical h (fun _ h1 => Yields.ite (Yields.pure h1) (Yields.bind_any (fun _ => Yields.pure h1.touchSpans.vput)))

theorem execVlds_canonical {s : State} (h : s.Canonical) {f} : Goes (execVlds f s) := by
  unfold execVlds
  extract_lets gs
  refine vector_canonical h ?_
  intro a1 h1
  extract_lets o a us z p sps es bads v w bad s1 u s2 src
  have hs1 : s1.Canonical := h1.touchSpans
  have hs2 : s2.Canonical := hs1.setUnit
  exact Yields.bind_any (fun _ => Yields.ite Yields.error (Yields.ite (Yields.pure h1) (Yields.bind_any (fun _ => Yields.pure hs2.putCore))))

theorem execVldx_canonical {s : State} (h : s.Canonical) {f} : Goes (execVldx f s) := by
  unfold execVldx
  exact vector_canonical
      h (fun _ h1
          => Yields.bind_any
              (fun _ => Yields.ite
                  (Yields.pure h1)
                      (Yields.bind_any (fun _ => Yields.bind_any (fun _ => Yields.bind_any (fun _ => Yields.pure h1.touchSpans.popPorts.vput))))))

theorem execVldsp_canonical {s : State} (h : s.Canonical) {f} : Goes (execVldsp f s) := by
  unfold execVldsp
  exact vector_canonical
      h (fun _ h1
          => Yields.bind_any
              (fun ⟨x, x1⟩ => Yields.ite (Yields.pure h1) (Yields.bind_any (fun _ => Yields.bind_any (fun _ => Yields.pure h1.touchSpans.vput)))))

theorem State.Canonical.storeElems {s : State} (h : s.Canonical) {w l} : (s.storeElems w l).Canonical := by
  unfold State.storeElems
  extract_lets put bitsAt cnt full
  exact h.of_mem (List.foldlRecOn (motive := fun (m : Mem) => m.wf = true) l put h.mem fun m hm e _ => Mem.wf_write hm _ _)

theorem execVst_canonical {s : State} (h : s.Canonical) {f} : Goes (execVst f s) := by
  unfold execVst
  exact vector_canonical
      h (fun _ h1
          => Yields.bind_any
              (fun _ => Yields.ite
                  (Yields.pure h1)
                      (Yields.bind_any
                          (fun _ => Yields.bind_any (fun _ => Yields.bind_any (fun _ => Yields.pure h1.popPorts.touchSpans.storeElems))))))

theorem execVsts_canonical {s : State} (h : s.Canonical) {f} : Goes (execVsts f s) := by
  unfold execVsts
  exact vector_canonical
      h (fun _ h1
          => Yields.bind_any
              (fun _ => Yields.ite
                  Yields.error
                      (Yields.ite (Yields.pure h1) (Yields.bind_any (fun _ => Yields.bind_any (fun _ => Yields.pure h1.touchSpans.storeElems))))))

theorem execVstx_canonical {s : State} (h : s.Canonical) {f} : Goes (execVstx f s) := by
  unfold execVstx
  exact vector_canonical
      h (fun _ h1
          => Yields.bind_any
              (fun _ => Yields.bind_any
                  (fun _ => Yields.ite
                      (Yields.pure h1)
                          (Yields.bind_any
                              (fun _ => Yields.bind_any (fun _ => Yields.bind_any (fun _ => Yields.pure h1.popPorts.touchSpans.storeElems)))))))

theorem State.Canonical.setPort {s : State} (h : s.Canonical) {q p} : (s.setPort q p).Canonical := by
  unfold State.setPort
  exact h.setUnit

theorem execQcfg_canonical {s : State} (h : s.Canonical) {f} : Goes (execQcfg f s) := by
  unfold execQcfg
  exact vector_canonical
      h (fun _ h1 => Yields.ite (Yields.pure h1) (Yields.ite (Yields.pure h1.setPort) (Yields.ite (Yields.pure h1.setPort) Yields.error)))

theorem execQloop_canonical {s : State} (h : s.Canonical) {f} : Goes (execQloop f s) := by
  unfold execQloop
  exact vector_canonical
      h (fun _ h1
          => Yields.bind_any
              (fun ⟨x, x1⟩
                  => Yields.bind_any
                      (fun ⟨x2, x3⟩ => Yields.ite (Yields.pure h1)
                          (Yields.ite Yields.error (Yields.bind_any (fun _ => Yields.bind_any (fun _ => Yields.pure h1.setPort)))))))

theorem execQreset_canonical {s : State} (h : s.Canonical) {f} : Goes (execQreset f s) := by
  unfold execQreset
  exact vector_canonical h (fun _ h1 => Yields.ite (Yields.pure h1) (Yields.ite Yields.error (Yields.pure h1.setPort)))

end Sys2Proof.Machine

end

section
/-! The canonical form of the memories: the matrix engine keeps it. -/

namespace Sys2Proof.Machine

theorem State.Canonical.markRow {s : State} (h : s.Canonical) {a l} : (s.markRow a l).Canonical := by
  unfold State.markRow
  exact h

theorem State.Canonical.putRow {s : State} (h : s.Canonical) {k t i l} : (s.putRow k t i l).Canonical := by
  unfold State.putRow
  extract_lets a s1
  have hs1 : s1.Canonical := h.chipPut
  exact hs1.markRow

theorem State.Canonical.putTile {s : State} (h : s.Canonical) {k t tag l} : (s.putTile k t tag l).Canonical := by
  unfold State.putTile
  exact h.ite ((State.Canonical.foldl (fun _ ⟨x, x1⟩ h1 => h1.putRow) h).modBank)

theorem State.Canonical.touchFactor {s : State} (h : s.Canonical) {k f rs} : (s.touchFactor k f rs).Canonical := by
  unfold State.touchFactor
  exact State.Canonical.foldl (fun _ _ h1 => State.Canonical.foldl (fun _ ⟨x, x1, x2⟩ h2 => h2.opTouch) h1) h

theorem State.Canonical.runProduct {s : State} (h : s.Canonical) {k ent f int zero fa fb metaOk} :
    Yields (s.runProduct k ent f int zero fa fb metaOk) fun r => r.s.Canonical := by
  unfold State.runProduct
  extract_lets rows s1
  have hs1 : s1.Canonical := h.touchFactor.touchFactor
  exact Yields.bind_any
      (fun _ => Yields.ite (Yields.pure h) (Yields.bind_any (fun _ => Yields.bind_any (fun _ => Yields.bind_any (fun _ => Yields.pure hs1.putTile)))))

theorem State.Canonical.runMma {s : State} (h : s.Canonical) {k ent f zero} : Yields (s.runMma k ent f zero) fun r => r.s.Canonical := by
  unfold State.runMma
  exact h.runProduct

theorem State.Canonical.runMmaq {s : State} (h : s.Canonical) {k ent f} : Yields (s.runMmaq k ent f) fun r => r.s.Canonical := by
  unfold State.runMmaq
  exact h.runProduct

theorem State.Canonical.runMmamx {s : State} (h : s.Canonical) {k ent f} : Yields (s.runMmamx k ent f) fun r => r.s.Canonical := by
  unfold State.runMmamx
  exact h.runProduct

theorem State.Canonical.runMmast {s : State} (h : s.Canonical) {k ent f} : Yields (s.runMmast k ent f) fun r => r.s.Canonical := by
  unfold State.runMmast
  exact h.runProduct

theorem State.Canonical.runMmac {s : State} (h : s.Canonical) {k ent f zero} : Yields (s.runMmac k ent f zero) fun r => r.s.Canonical := by
  unfold State.runMmac
  extract_lets n t
  have ht : t.Canonical := h.modBank
  split
  · exact h.runMma
  · refine Yields.pure ?_
    split
    · exact ht
    · exact ht

theorem State.Canonical.runMcast {s : State} (h : s.Canonical) {k ent ad as ranks len} :
    Yields (s.runMcast k ent ad as ranks len) fun r => r.s.Canonical := by
  unfold State.runMcast
  extract_lets d a g own o named ptr bs posts s1
  have hs1 : s1.Canonical := h.opTouch
  exact Yields.bind_any
      (fun _ => Yields.bind_any
          (fun _ => Yields.bind_any (fun _ => Yields.bind_any (fun _ => Yields.bind_any (fun _ => Yields.pure (hs1.modCell rfl))))))

theorem State.Canonical.runMcwait {s : State} (h : s.Canonical) {k rank count} : Yields (s.runMcwait k rank count) fun r => r.s.Canonical := by
  unfold State.runMcwait
  exact Yields.bind_any (fun _ => Yields.ite (Yields.pure h.modBank) (Yields.pure h))

theorem State.Canonical.arriveMcast {s : State} (h : s.Canonical) {k rank} : (s.arriveMcast k rank).Canonical := by
  unfold State.arriveMcast
  exact h.modBank

theorem State.Canonical.mapTile {s : State} (h : s.Canonical) {k td tag rows fn} : (s.mapTile k td tag rows fn).s.Canonical := by
  unfold State.mapTile
  exact h.putTile

theorem State.Canonical.runTzero {s : State} (h : s.Canonical) {k ent td tag sh} : Yields (s.runTzero k ent td tag sh) fun r => r.s.Canonical := by
  unfold State.runTzero
  exact Yields.pure h.mapTile

theorem State.Canonical.runTload {s : State} (h : s.Canonical) {k ent td as tag sa sh} :
    Yields (s.runTload k ent td as tag sa sh) fun r => r.s.Canonical := by
  unfold State.runTload
  extract_lets a t w rows spans r
  have hr : r.s.Canonical := h.mapTile
  exact Yields.bind_any (fun _ => Yields.pure hr.opTouches)

theorem State.Canonical.runTbias {s : State} (h : s.Canonical) {k ent td as tag sa sh} :
    Yields (s.runTbias k ent td as tag sa sh) fun r => r.s.Canonical := by
  unfold State.runTbias
  extract_lets a t w tt rows spans r
  have hr : r.s.Canonical := h.mapTile
  exact Yields.bind_any (fun _ => Yields.bind_any (fun _ => Yields.pure hr.opTouches))

theorem State.Canonical.runTscale {s : State} (h : s.Canonical) {k ent td ar ac tag sh} :
    Yields (s.runTscale k ent td ar ac tag sh) fun r => r.s.Canonical := by
  unfold State.runTscale
  extract_lets tt t w rows r c rs cs one out
  have hout : out.s.Canonical := h.mapTile
  exact Yields.bind_any (fun _ => Yields.bind_any (fun _ => Yields.bind_any (fun _ => Yields.pure hout.opTouches.opTouches)))

theorem State.Canonical.runTact {s : State} (h : s.Canonical) {k ent td fn sh} : Yields (s.runTact k ent td fn sh) fun r => r.s.Canonical := by
  unfold State.runTact
  extract_lets tt free r
  have hr : r.s.Canonical := h.bump.mapTile
  exact Yields.bind_any (fun _ => Yields.pure hr)

theorem State.Canonical.storeReductions {s : State} (h : s.Canonical) {k ent ts ad op l} :
    Yields (s.storeReductions k ent ts ad op l) fun r => r.s.Canonical := by
  unfold State.storeReductions
  exact Yields.bind_any
      (fun _ => Yields.bind_any (fun _ => Yields.bind_any (fun _ => Yields.pure (State.Canonical.foldl (fun _ ⟨x, x1, x2⟩ h1 => h1.opPut) h))))

theorem State.Canonical.runTredr {s : State} (h : s.Canonical) {k ent ts ad op sh} :
    Yields (s.runTredr k ent ts ad op sh) fun r => r.s.Canonical := by
  unfold State.runTredr
  exact h.storeReductions

theorem State.Canonical.runTredc {s : State} (h : s.Canonical) {k ent ts ad op sh} :
    Yields (s.runTredc k ent ts ad op sh) fun r => r.s.Canonical := by
  unfold State.runTredc
  exact h.storeReductions

theorem State.Canonical.runTtrans {s : State} (h : s.Canonical) {k ent td ts sh} : Yields (s.runTtrans k ent td ts sh) fun r => r.s.Canonical := by
  unfold State.runTtrans
  exact Yields.bind_any (fun _ => Yields.pure h.mapTile)

theorem State.Canonical.runTcopy {s : State} (h : s.Canonical) {k ent td ts sh} : Yields (s.runTcopy k ent td ts sh) fun r => r.s.Canonical := by
  unfold State.runTcopy
  exact Yields.bind_any (fun _ => Yields.pure h.mapTile)

theorem State.Canonical.runTclamp {s : State} (h : s.Canonical) {k ent td sh} : Yields (s.runTclamp k ent td sh) fun r => r.s.Canonical := by
  unfold State.runTclamp
  exact Yields.bind_any (fun _ => Yields.pure h.mapTile)

theorem State.Canonical.runTstore {s : State} (h : s.Canonical) {k ent ts ad tag rm sh} :
    Yields (s.runTstore k ent ts ad tag rm sh) fun r => r.s.Canonical := by
  unfold State.runTstore
  exact Yields.bind_any
      (fun _ => Yields.bind_any
          (fun _ => Yields.bind_any (fun _ => Yields.pure (State.Canonical.foldl (fun _ ⟨x, x1, x2⟩ h1 => h1.opPutEl) h.modBank))))

theorem State.Canonical.runTstoreq {s : State} (h : s.Canonical) {k ent ts ad tag rm sg sh am gs} :
    Yields (s.runTstoreq k ent ts ad tag rm sg sh am gs) fun r => r.s.Canonical := by
  unfold State.runTstoreq
  exact Yields.bind_any
      (fun _ => Yields.bind_any
          (fun _ => Yields.bind_any
              (fun _ => Yields.bind_any
                  (fun _ => Yields.pure
                      (State.Canonical.foldl (fun _ ⟨x, x1, x2, x3, x4⟩ h1 => h1.opPut)
                          (State.Canonical.foldl (fun _ ⟨x, x1, x2⟩ h1 => h1.opPutEl) h.modBank))))))

theorem State.Canonical.runTstoremx {s : State} (h : s.Canonical) {k ent ts ad tag rm sh am} :
    Yields (s.runTstoremx k ent ts ad tag rm sh am) fun r => r.s.Canonical := by
  unfold State.runTstoremx
  exact Yields.bind_any
      (fun _ => Yields.bind_any
          (fun _ => Yields.bind_any
              (fun _ => Yields.bind_any
                  (fun _ => Yields.pure
                      (State.Canonical.foldl (fun _ ⟨x, x1, x2⟩ h1 => h1.opPut)
                          (State.Canonical.foldl (fun _ ⟨x, x1, x2⟩ h1 => h1.opPutEl) h.modBank))))))

theorem State.Canonical.runTtov {s : State} (h : s.Canonical) {k ent ts v row cnt1} :
    Yields (s.runTtov k ent ts v row cnt1) fun r => r.s.Canonical := by
  unfold State.runTtov
  extract_lets tt cs s1
  have hs1 : s1.Canonical := by
    unfold s1
    refine State.Canonical.foldl ?_ h
    intro t1 a1 h1
    extract_lets l a s2 s3
    have hs2 : s2.Canonical := h1.chipPut
    have hs3 : s3.Canonical := hs2.markRow
    exact hs3.modBank
  exact Yields.bind_any (fun _ => Yields.pure hs1)

theorem State.Canonical.runTfromv {s : State} (h : s.Canonical) {k ent td v row cnt1} :
    Yields (s.runTfromv k ent td v row cnt1) fun r => r.s.Canonical := by
  unfold State.runTfromv
  exact Yields.bind_any (fun _ => Yields.pure h.putTile)

theorem State.Canonical.setRowMask {s : State} (h : s.Canonical) {g kd only new} : (s.setRowMask g kd only new).Canonical := by
  unfold State.setRowMask
  extract_lets en p s1 src
  have hs1 : s1.Canonical := h.modBank
  exact h.ite hs1.putCore

theorem State.Canonical.runMstat {s : State} (h : s.Canonical) {k ent sel} : Yields (s.runMstat k ent sel) fun r => r.s.Canonical := by
  unfold State.runMstat
  extract_lets mx fen arr
  split
  · split
    · exact Yields.ok h
    · exact Yields.ok h
    · exact Yields.ok h
    · exact Yields.ok h.modBank
  · exact Yields.ok h

theorem State.Canonical.selfTest {s : State} (h : s.Canonical) {k} : (s.selfTest k).1.Canonical := by
  unfold State.selfTest
  extract_lets bad s1 c s2 s3
  have hs1 : s1.Canonical := h.bump.modCell rfl
  have hs2 : s2.Canonical := hs1.modDie
  have hs3 : s3.Canonical := State.Canonical.foldl (fun _ _ h1 => h1.logHw) hs2
  split
  · exact hs1.modCell rfl
  · exact hs3.discCaused

theorem State.Canonical.runMtest {s : State} (h : s.Canonical) {k} : Yields (s.runMtest k) fun r => r.s.Canonical := by
  unfold State.runMtest
  split
  next x t ok heq =>
    have ht := State.Canonical.of_fst heq h.selfTest
    exact Yields.ite (Yields.ok ht) (Yields.ok ht)

theorem State.Canonical.testBetween {s : State} (h : s.Canonical) {k} : (s.testBetween k).Canonical := by
  unfold State.testBetween
  extract_lets q idle
  split
  · split
    next x t ok heq1 =>
      have ht := State.Canonical.of_fst heq1 h.selfTest
      exact ht.ite (ht.ite ht.stopQueue)
  · exact h

theorem execSelftestCount_canonical {s : State} (h : s.Canonical) {k} : Goes (execSelftestCount k s) := by
  unfold execSelftestCount
  exact Goes.next (h.testBetween.ite h)

theorem execSelftestTimer_canonical {s : State} (h : s.Canonical) {k} : Goes (execSelftestTimer k s) := by
  unfold execSelftestTimer
  exact Goes.next (h.testBetween.ite h)

theorem State.Canonical.runMatrix {s : State} (h : s.Canonical) {k ent i} : Yields (s.runMatrix k ent i) fun r => r.s.Canonical := by
  unfold State.runMatrix
  split
  · exact h.runMma
  · exact h.runMma
  · exact h.runMma
  · exact h.runMmaq
  · exact h.runMmamx
  · exact h.runMmast
  · exact h.runMmac
  · exact h.runMmac
  · exact h.runTzero
  · exact h.runTload
  · exact h.runTstore
  · exact h.runTstoreq
  · exact h.runTstoremx
  · exact h.runTbias
  · exact h.runTscale
  · exact h.runTact
  · exact h.runTredr
  · exact h.runTredc
  · exact h.runTtrans
  · exact h.runTtov
  · exact h.runTfromv
  · exact h.runTclamp
  · exact h.runMcast
  · exact h.runMcwait
  · exact h.runMtest
  · exact h.runMstat
  · exact h.runTcopy
  · exact Yields.ok h

theorem execMma_canonical {s : State} (h : s.Canonical) {f} : Goes (execMma f s) := by
  unfold execMma
  exact matrix_canonical h (fun _ _ h1 => noAct_canonical h1)

theorem execMmaz_canonical {s : State} (h : s.Canonical) {f} : Goes (execMmaz f s) := by
  unfold execMmaz
  exact matrix_canonical h (fun _ _ h1 => noAct_canonical h1)

theorem execMmat_canonical {s : State} (h : s.Canonical) {f} : Goes (execMmat f s) := by
  unfold execMmat
  exact matrix_canonical h (fun _ _ h1 => noAct_canonical h1)

theorem execMmaq_canonical {s : State} (h : s.Canonical) {f} : Goes (execMmaq f s) := by
  unfold execMmaq
  exact matrix_canonical h (fun _ _ h1 => noAct_canonical h1)

theorem execMmamx_canonical {s : State} (h : s.Canonical) {f} : Goes (execMmamx f s) := by
  unfold execMmamx
  exact matrix_canonical h (fun _ _ h1 => noAct_canonical h1)

theorem execMmast_canonical {s : State} (h : s.Canonical) {f} : Goes (execMmast f s) := by
  unfold execMmast
  exact matrix_canonical h (fun _ _ h1 => noAct_canonical h1)

theorem execMmac_canonical {s : State} (h : s.Canonical) {f} : Goes (execMmac f s) := by
  unfold execMmac
  exact matrix_canonical h (fun _ _ h1 => noAct_canonical h1)

theorem execMmacz_canonical {s : State} (h : s.Canonical) {f} : Goes (execMmacz f s) := by
  unfold execMmacz
  exact matrix_canonical h (fun _ _ h1 => noAct_canonical h1)

theorem execTzero_canonical {s : State} (h : s.Canonical) {g q td tag sh} : Goes (execTzero g q td tag sh s) := by
  unfold execTzero
  exact matrix_canonical h (fun _ _ h1 => noAct_canonical h1)

theorem execTload_canonical {s : State} (h : s.Canonical) {g q td as tag sa sh} : Goes (execTload g q td as tag sa sh s) := by
  unfold execTload
  exact matrix_canonical h (fun _ _ h1 => noAct_canonical h1)

theorem execTstore_canonical {s : State} (h : s.Canonical) {g q ts ad tag rm sh} : Goes (execTstore g q ts ad tag rm sh s) := by
  unfold execTstore
  exact matrix_canonical h (fun _ _ h1 => noAct_canonical h1)

theorem execTstoreq_canonical {s : State} (h : s.Canonical) {g q ts ad tag rm sg sh am gs} : Goes (execTstoreq g q ts ad tag rm sg sh am gs s) := by
  unfold execTstoreq
  exact matrix_canonical h (fun _ _ h1 => noAct_canonical h1)

theorem execTstoremx_canonical {s : State} (h : s.Canonical) {g q ts ad tag rm sh am} : Goes (execTstoremx g q ts ad tag rm sh am s) := by
  unfold execTstoremx
  exact matrix_canonical h (fun _ _ h1 => noAct_canonical h1)

theorem execTbias_canonical {s : State} (h : s.Canonical) {g q td as tag sa sh} : Goes (execTbias g q td as tag sa sh s) := by
  unfold execTbias
  exact matrix_canonical h (fun _ _ h1 => noAct_canonical h1)

theorem execTscale_canonical {s : State} (h : s.Canonical) {g q td ar ac tag sh} : Goes (execTscale g q td ar ac tag sh s) := by
  unfold execTscale
  exact matrix_canonical h (fun _ _ h1 => noAct_canonical h1)

theorem execTact_canonical {s : State} (h : s.Canonical) {g q td fn sh} : Goes (execTact g q td fn sh s) := by
  unfold execTact
  exact matrix_canonical h (fun _ _ h1 => noAct_canonical h1)

theorem execTredr_canonical {s : State} (h : s.Canonical) {g q ts ad op sh} : Goes (execTredr g q ts ad op sh s) := by
  unfold execTredr
  exact matrix_canonical h (fun _ _ h1 => noAct_canonical h1)

theorem execTredc_canonical {s : State} (h : s.Canonical) {g q ts ad op sh} : Goes (execTredc g q ts ad op sh s) := by
  unfold execTredc
  exact matrix_canonical h (fun _ _ h1 => noAct_canonical h1)

theorem execTtrans_canonical {s : State} (h : s.Canonical) {g q td ts sh} : Goes (execTtrans g q td ts sh s) := by
  unfold execTtrans
  exact matrix_canonical h (fun _ _ h1 => noAct_canonical h1)

theorem execTtov_canonical {s : State} (h : s.Canonical) {g q ts v row cnt1} : Goes (execTtov g q ts v row cnt1 s) := by
  unfold execTtov
  exact matrix_canonical h (fun _ _ h1 => noAct_canonical h1)

theorem execTfromv_canonical {s : State} (h : s.Canonical) {g q td v row cnt1} : Goes (execTfromv g q td v row cnt1 s) := by
  unfold execTfromv
  exact matrix_canonical h (fun _ _ h1 => noAct_canonical h1)

theorem execTclamp_canonical {s : State} (h : s.Canonical) {g q td xlo xhi sh} : Goes (execTclamp g q td xlo xhi sh s) := by
  unfold execTclamp
  exact matrix_canonical h (fun _ _ h1 => noAct_canonical h1)

theorem execMcast_canonical {s : State} (h : s.Canonical) {g q ad as ranks len1} : Goes (execMcast g q ad as ranks len1 s) := by
  unfold execMcast
  exact matrix_canonical h (fun _ _ h1 => noAct_canonical h1)

theorem execMcwait_canonical {s : State} (h : s.Canonical) {g q rank count} : Goes (execMcwait g q rank count s) := by
  unfold execMcwait
  exact matrix_canonical h (fun _ _ h1 => noAct_canonical h1)

theorem execMcfgKset_canonical {s : State} (h : s.Canonical) {g q kd xs} : Goes (execMcfgKset g q kd xs s) := by
  unfold execMcfgKset
  exact matrix_canonical h (fun _ _ h1 => h1.setRowMask)

theorem execMcfgKput_canonical {s : State} (h : s.Canonical) {g q kd xs h1} : Goes (execMcfgKput g q kd xs h1 s) := by
  unfold execMcfgKput
  exact matrix_canonical h (fun _ _ h2 => h2.setRowMask)

theorem execMcfgKlut_canonical {s : State} (h : s.Canonical) {g q kd ka kb kc tt} : Goes (execMcfgKlut g q kd ka kb kc tt s) := by
  unfold execMcfgKlut
  exact matrix_canonical h (fun _ _ h1 => h1.setRowMask)

theorem execMtest_canonical {s : State} (h : s.Canonical) {g q} : Goes (execMtest g q s) := by
  unfold execMtest
  exact matrix_canonical h (fun _ _ h1 => noAct_canonical h1)

theorem execMstat_canonical {s : State} (h : s.Canonical) {g q xd sel} : Goes (execMstat g q xd sel s) := by
  unfold execMstat
  exact matrix_canonical h (fun _ _ h1 => noAct_canonical h1)

theorem execTcopy_canonical {s : State} (h : s.Canonical) {g q td ts sh} : Goes (execTcopy g q td ts sh s) := by
  unfold execTcopy
  exact matrix_canonical h (fun _ _ h1 => noAct_canonical h1)

end Sys2Proof.Machine

end

section
/-! The canonical form of the memories: the sparse engine keeps it. -/

namespace Sys2Proof.Machine

theorem State.Canonical.dPut {s : State} (h : s.Canonical) {k d r j v} : (s.dPut k d r j v).Canonical := by
  unfold State.dPut
  exact h.opPutBits

theorem spRun_canonical {s : State} (h : s.Canonical) {rows step}
    (hstep : ∀ (a : State) (a_1 : ℕ) (a_2 : List (ℕ × ℕ)), a.Canonical → Finds (step a a_1 a_2) fun r => r.1.Canonical) :
    (spRun s rows step).s.Canonical := by
  unfold spRun
  refine State.Canonical.foldl_fst (β := Flags × Bool) (p := (s, {}, false)) (fun acc e ht => ?_) h
  split
  · exact ht
  · split
    next t fl hfound => exact hstep acc.1 e.2 e.1 ht _ hfound
    next => exact ht

theorem State.Canonical.dRow {s : State} (h : s.Canonical) {k d r l} : (s.dRow k d r l).Canonical := by
  unfold State.dRow
  exact State.Canonical.foldl (fun _ ⟨x, x1⟩ h1 => h1.dPut) h

theorem State.Canonical.spTouch {s : State} (h : s.Canonical) {k l} : (s.spTouch k l).Canonical := by
  unfold State.spTouch
  exact State.Canonical.foldl (fun _ ⟨x, x1⟩ h1 => h1.opTouches) h

theorem State.Canonical.runSpmm {s : State} (h : s.Canonical) {k ent f zero} : Yields (s.runSpmm k ent f zero) fun r => r.s.Canonical := by
  unfold State.runSpmm
  extract_lets a n x y js
  refine Yields.bind_any ?_
  intro b1
  extract_lets outs rows xs ys flt s1 jp
  have hs1 : s1.Canonical := h.spTouch
  have hjp : ∀ (x : Unit), Yields (jp x) fun r => r.s.Canonical := fun _ => Yields.pure
      (spRun_canonical hs1 (fun _ _ _ h1 => Finds.ite Finds.none (Finds.some h1.dRow)))
  refine Yields.bind_any ?_
  intro b2
  refine Yields.bind_any ?_
  intro b3
  refine Yields.bind_any ?_
  intro b4
  refine Yields.bind_any ?_
  intro b5
  refine Yields.bind_any ?_
  intro b6
  split
  · unfold jp
    refine Yields.pure (spRun_canonical hs1 (fun _ _ _ h1 => Finds.ite Finds.none (Finds.some h1.dRow)))
  · refine Yields.bind_any ?_
    intro b7
    unfold jp
    refine Yields.pure (spRun_canonical hs1 (fun _ _ _ h1 => Finds.ite Finds.none (Finds.some h1.dRow)))

theorem State.Canonical.runSpmmb {s : State} (h : s.Canonical) {k ent f} : Yields (s.runSpmmb k ent f) fun r => r.s.Canonical := by
  unfold State.runSpmmb
  extract_lets a n zero x y js
  refine Yields.bind_any ?_
  intro b1
  extract_lets rows xs ys flt s1 as bs jp
  have hs1 : s1.Canonical := h.spTouch
  have hjp : ∀ (x : Unit), Yields (jp x) fun r => r.s.Canonical := fun _ => Yields.pure
      (spRun_canonical hs1 (fun _ _ _ h1 => Finds.ite Finds.none (Finds.some (State.Canonical.foldl (fun _ ⟨x2, x3⟩ h2 => h2.dRow) h1))))
  refine Yields.bind_any ?_
  intro b2
  refine Yields.bind_any ?_
  intro b3
  refine Yields.bind_any ?_
  intro b4
  refine Yields.bind_any ?_
  intro b5
  refine Yields.bind_any ?_
  intro b6
  split
  · unfold jp
    refine Yields.pure
        (spRun_canonical hs1 (fun _ _ _ h1 => Finds.ite Finds.none (Finds.some (State.Canonical.foldl (fun _ ⟨x1, x2⟩ h2 => h2.dRow) h1))))
  · refine Yields.bind_any ?_
    intro b7
    unfold jp
    refine Yields.pure
        (spRun_canonical hs1 (fun _ _ _ h1 => Finds.ite Finds.none (Finds.some (State.Canonical.foldl (fun _ ⟨x1, x2⟩ h2 => h2.dRow) h1))))

theorem State.Canonical.runSddmm {s : State} (h : s.Canonical) {k ent f} : Yields (s.runSddmm k ent f) fun r => r.s.Canonical := by
  unfold State.runSddmm
  extract_lets a n p q o ks
  refine Yields.bind_any ?_
  intro b1
  extract_lets rows ps qs flt s1
  have hs1 : s1.Canonical := h.spTouch
  exact Yields.bind_any
      (fun _ => Yields.bind_any
          (fun _ => Yields.bind_any
              (fun _ => Yields.bind_any
                  (fun _ => Yields.bind_any
                      (fun _ => Yields.bind_any
                          (fun _ => Yields.pure
                              (spRun_canonical
                                  hs1 (fun _ _ _ h1 => Finds.ite Finds.none
                                      (Finds.some (State.Canonical.foldl (fun _ ⟨x, x1, x2⟩ h2 => h2.opPut) h1))))))))))

theorem State.Canonical.runEmbag {s : State} (h : s.Canonical) {k ent f} : Yields (s.runEmbag k ent f) fun r => r.s.Canonical := by
  unfold State.runEmbag
  extract_lets a n x y js
  refine Yields.bind_any ?_
  intro b1
  extract_lets rows xs s1
  have hs1 : s1.Canonical := h.spTouch
  exact Yields.bind_any
      (fun _ => Yields.bind_any
          (fun _ => Yields.bind_any
              (fun _ => Yields.bind_any
                  (fun _ => Yields.bind_any
                      (fun _ => Yields.pure (spRun_canonical hs1 (fun _ _ _ h1 => Finds.ite Finds.none (Finds.some h1.dRow))))))))

theorem State.Canonical.runSpgath {s : State} (h : s.Canonical) {k ent f} : Yields (s.runSpgath k ent f) fun r => r.s.Canonical := by
  unfold State.runSpgath
  extract_lets a x w o
  refine Yields.bind_any ?_
  intro b1
  extract_lets rows xs s1
  have hs1 : s1.Canonical := h.spTouch
  exact Yields.bind_any
      (fun _ => Yields.bind_any
          (fun _ => Yields.bind_any
              (fun _ => Yields.bind_any
                  (fun _ => Yields.bind_any
                      (fun _ => Yields.pure
                          (spRun_canonical
                              hs1 (fun _ _ _ h1 => Finds.ite Finds.none
                                  (Finds.some (State.Canonical.foldl (fun _ ⟨x1, x2⟩ h2 => h2.opPutEl) h1)))))))))

theorem State.Canonical.runSpscat {s : State} (h : s.Canonical) {k ent f} : Yields (s.runSpscat k ent f) fun r => r.s.Canonical := by
  unfold State.runSpscat
  extract_lets a xt y
  refine Yields.bind_any ?_
  intro b1
  extract_lets rows ys s1 jp
  have hs1 : s1.Canonical := h.spTouch
  have hjp : ∀ (x : Unit), Yields (jp x) fun r => r.s.Canonical := fun _ => Yields.pure
      (spRun_canonical hs1 (fun _ _ _ h1 => Finds.ite Finds.none (Finds.some (State.Canonical.foldl_fst (fun ⟨t, x1⟩ ⟨x2, x3⟩ h2 => h2.dPut) h1))))
  refine Yields.bind_any ?_
  intro b2
  refine Yields.bind_any ?_
  intro b3
  refine Yields.bind_any ?_
  intro b4
  refine Yields.bind_any ?_
  intro b5
  split
  · unfold jp
    refine Yields.pure
        (spRun_canonical hs1 (fun _ _ _ h1 => Finds.ite Finds.none (Finds.some (State.Canonical.foldl_fst (fun ⟨t, x⟩ ⟨x1, x2⟩ h2 => h2.dPut) h1))))
  · refine Yields.bind_any ?_
    intro b6
    unfold jp
    refine Yields.pure
        (spRun_canonical hs1 (fun _ _ _ h1 => Finds.ite Finds.none (Finds.some (State.Canonical.foldl_fst (fun ⟨t, x⟩ ⟨x1, x2⟩ h2 => h2.dPut) h1))))

theorem State.Canonical.runSpseg {s : State} (h : s.Canonical) {k ent f} : Yields (s.runSpseg k ent f) fun r => r.s.Canonical := by
  unfold State.runSpseg
  extract_lets a y
  refine Yields.bind_any ?_
  intro b1
  extract_lets rows flt s1
  have hs1 : s1.Canonical := h.spTouch
  exact Yields.bind_any
      (fun _ => Yields.bind_any
          (fun _ => Yields.bind_any (fun _ => Yields.bind_any (fun _ => Yields.pure (spRun_canonical hs1 (fun _ _ _ h1 => Finds.some h1.dPut))))))

theorem State.Canonical.runSpdense {s : State} (h : s.Canonical) {k ent f} : Yields (s.runSpdense k ent f) fun r => r.s.Canonical := by
  unfold State.runSpdense
  extract_lets a xt
  refine Yields.bind_any ?_
  intro b1
  extract_lets y rows s1
  have hs1 : s1.Canonical := h.spTouch
  exact Yields.bind_any
      (fun _ => Yields.bind_any
          (fun _ => Yields.bind_any (fun _ => Yields.bind_any (fun _ => Yields.pure (spRun_canonical hs1 (fun _ _ _ h1 => Finds.some h1.dRow))))))

theorem State.Canonical.runSpcount {s : State} (h : s.Canonical) {k ent f} : Yields (s.runSpcount k ent f) fun r => r.s.Canonical := by
  unfold State.runSpcount
  extract_lets a y
  refine Yields.bind_any ?_
  intro b1
  extract_lets rows s1 cs
  have hs1 : s1.Canonical := h.spTouch
  refine Yields.bind_any ?_
  intro b2
  refine Yields.bind_any ?_
  intro b3
  refine Yields.bind_any ?_
  intro b4
  refine Yields.bind_any ?_
  intro b5
  split
  · exact Yields.pure hs1
  · exact Yields.pure (State.Canonical.foldl (fun _ _ h1 => h1.dPut) hs1)

theorem State.Canonical.runSpscan {s : State} (h : s.Canonical) {k ent f} : Yields (s.runSpscan k ent f) fun r => r.s.Canonical := by
  unfold State.runSpscan
  extract_lets x y n ys s1
  have hs1 : s1.Canonical := h.spTouch
  exact Yields.bind_any (fun _ => Yields.bind_any (fun _ => Yields.bind_any (fun _ => Yields.bind_any (fun _ => Yields.pure hs1.opPut))))

theorem State.Canonical.spBuild {s : State} (h : s.Canonical) {k o d vtag rows brk fl} : (s.spBuild k o d vtag rows brk fl).s.Canonical := by
  unfold State.spBuild
  extract_lets w out s1 w1 s2
  have hout : out.1.Canonical := State.Canonical.foldl_fst (β := Nat × Bool) (p := (s, 0, false)) (fun acc e ht => by
    split
    · exact ht
    · split
      · exact ht
      · exact State.Canonical.opPut (State.Canonical.foldl (fun _ _ hu => hu.opPut.ite hu.opPut.opPutBits) (ht.opPut.ite ht))) h
  have hs1 : s1.Canonical := hout.opPut.ite hout
  have hs2 : s2.Canonical := hs1.opPut
  split
  · exact hout
  · split
    · exact hout
    · exact hs2.modBank

theorem State.Canonical.runSpmerge {s : State} (h : s.Canonical) {k ent f union} : Yields (s.runSpmerge k ent f union) fun r => r.s.Canonical := by
  unfold State.runSpmerge
  extract_lets a b o zero
  refine Yields.bind_any ?_
  intro b1
  extract_lets t ra
  refine Yields.bind_any ?_
  intro b2
  extract_lets rb n brk rows
  refine Yields.bind_any ?_
  intro b3
  extract_lets dout vals fl s1 s2
  have hs1 : s1.Canonical := h
  have hs2 : s2.Canonical := hs1.spTouch
  exact Yields.bind_any (fun _ => Yields.bind_any (fun _ => Yields.bind_any (fun _ => Yields.pure hs2.spBuild)))

theorem State.Canonical.runSpcsr {s : State} (h : s.Canonical) {k ent f} : Yields (s.runSpcsr k ent f) fun r => r.s.Canonical := by
  unfold State.runSpcsr
  extract_lets o xt w
  refine Yields.bind_any ?_
  intro b1
  extract_lets d x xs rs rows s1
  have hs1 : s1.Canonical := h.spTouch
  exact Yields.bind_any (fun _ => Yields.bind_any (fun _ => Yields.pure hs1.spBuild))

theorem State.Canonical.runSptrans {s : State} (h : s.Canonical) {k ent f} : Yields (s.runSptrans k ent f) fun r => r.s.Canonical := by
  unfold State.runSptrans
  extract_lets a o
  refine Yields.bind_any ?_
  intro b1
  extract_lets rows s1 es out
  have hs1 : s1.Canonical := h.spTouch
  refine Yields.bind_any ?_
  intro b2
  extract_lets d
  refine Yields.bind_any ?_
  intro b3
  refine Yields.bind_any ?_
  intro b4
  refine Yields.bind_any ?_
  intro b5
  split
  · exact Yields.pure hs1
  · exact Yields.pure hs1.spBuild

theorem State.Canonical.runSparse {s : State} (h : s.Canonical) {k ent i} : Yields (s.runSparse k ent i) fun r => r.s.Canonical := by
  unfold State.runSparse
  split
  · exact h.runSpmm
  · exact h.runSpmm
  · exact h.runSpmmb
  · exact h.runSpmm
  · exact h.runSddmm
  · exact h.runSpgath
  · exact h.runSpscat
  · exact h.runSpseg
  · exact h.runSpmerge
  · exact h.runSpmerge
  · exact h.runSpcsr
  · exact h.runSpdense
  · exact h.runSptrans
  · exact h.runSpcount
  · exact h.runSpscan
  · exact h.runEmbag
  · exact Yields.ok h.modBank
  · exact Yields.ok h
  · exact Yields.ok h

theorem execSpmm_canonical {s : State} (h : s.Canonical) {f} : Goes (execSpmm f s) := by
  unfold execSpmm
  exact primary_canonical h

theorem execSpmmz_canonical {s : State} (h : s.Canonical) {f} : Goes (execSpmmz f s) := by
  unfold execSpmmz
  exact primary_canonical h

theorem execSpmmb_canonical {s : State} (h : s.Canonical) {f} : Goes (execSpmmb f s) := by
  unfold execSpmmb
  exact primary_canonical h

theorem execSpmv_canonical {s : State} (h : s.Canonical) {f} : Goes (execSpmv f s) := by
  unfold execSpmv
  exact primary_canonical h

theorem execSddmm_canonical {s : State} (h : s.Canonical) {f} : Goes (execSddmm f s) := by
  unfold execSddmm
  exact primary_canonical h

theorem execSpgath_canonical {s : State} (h : s.Canonical) {f} : Goes (execSpgath f s) := by
  unfold execSpgath
  exact primary_canonical h

theorem execSpscat_canonical {s : State} (h : s.Canonical) {f} : Goes (execSpscat f s) := by
  unfold execSpscat
  exact primary_canonical h

theorem execSpseg_canonical {s : State} (h : s.Canonical) {f} : Goes (execSpseg f s) := by
  unfold execSpseg
  exact primary_canonical h

theorem execSpisect_canonical {s : State} (h : s.Canonical) {f} : Goes (execSpisect f s) := by
  unfold execSpisect
  exact primary_canonical h

theorem execSpunion_canonical {s : State} (h : s.Canonical) {f} : Goes (execSpunion f s) := by
  unfold execSpunion
  exact primary_canonical h

theorem execSpcsr_canonical {s : State} (h : s.Canonical) {f} : Goes (execSpcsr f s) := by
  unfold execSpcsr
  exact primary_canonical h

theorem execSpdense_canonical {s : State} (h : s.Canonical) {f} : Goes (execSpdense f s) := by
  unfold execSpdense
  exact primary_canonical h

theorem execSptrans_canonical {s : State} (h : s.Canonical) {f} : Goes (execSptrans f s) := by
  unfold execSptrans
  exact primary_canonical h

theorem execSpcount_canonical {s : State} (h : s.Canonical) {f} : Goes (execSpcount f s) := by
  unfold execSpcount
  exact primary_canonical h

theorem execSpscan_canonical {s : State} (h : s.Canonical) {f} : Goes (execSpscan f s) := by
  unfold execSpscan
  exact primary_canonical h

theorem execEmbag_canonical {s : State} (h : s.Canonical) {f} : Goes (execEmbag f s) := by
  unfold execEmbag
  exact primary_canonical h

theorem execSpcfg_canonical {s : State} (h : s.Canonical) {g q item xs} : Goes (execSpcfg g q item xs s) := by
  unfold execSpcfg
  exact primary_canonical h

theorem execSpstat_canonical {s : State} (h : s.Canonical) {g q xd sel} : Goes (execSpstat g q xd sel s) := by
  unfold execSpstat
  exact primary_canonical h

end Sys2Proof.Machine

end

section
/-! The canonical form of the memories: the sort engine keeps it. -/

namespace Sys2Proof.Machine

theorem State.Canonical.soTouch {s : State} (h : s.Canonical) {k ins} : (s.soTouch k ins).Canonical := by
  unfold State.soTouch
  exact State.Canonical.foldl (fun _ _ h1 => h1.opTouch) h

theorem State.Canonical.soWrite {s : State} (h : s.Canonical) {k a w l} : (s.soWrite k a w l).Canonical := by
  unfold State.soWrite
  exact h.ite h.opPut

theorem State.Canonical.soOut {s : State} (h : s.Canonical) {k ent f l keys vals} : (s.soOut k ent f l keys vals).Canonical := by
  unfold State.soOut
  extract_lets s1
  have hs1 : s1.Canonical := h.soWrite.ite h
  exact hs1.soWrite.ite hs1

theorem State.Canonical.runSortk {s : State} (h : s.Canonical) {k ent f m keys vals args allow} :
    Yields (s.runSortk k ent f m keys vals args allow) fun r => r.s.Canonical := by
  unfold State.runSortk
  exact Yields.bind_any (fun _ => Yields.pure h.soTouch.soOut)

theorem State.Canonical.runSomerge {s : State} (h : s.Canonical) {k ent f vals} : Yields (s.runSomerge k ent f vals) fun r => r.s.Canonical := by
  unfold State.runSomerge
  exact Yields.bind_any (fun _ => Yields.pure h.soTouch.soOut)

theorem State.Canonical.setResult {s : State} (h : s.Canonical) {k n} : (s.setResult k n).Canonical := by
  unfold State.setResult
  exact h.modBank

theorem State.Canonical.runKth {s : State} (h : s.Canonical) {k ent f} : Yields (s.runKth k ent f) fun r => r.s.Canonical := by
  unfold State.runKth
  exact Yields.bind_any (fun _ => Yields.pure h.soTouch.soOut)

theorem State.Canonical.runUnique {s : State} (h : s.Canonical) {k ent f} : Yields (s.runUnique k ent f) fun r => r.s.Canonical := by
  unfold State.runUnique
  exact Yields.bind_any (fun _ => Yields.pure h.soTouch.soOut.setResult)

theorem State.Canonical.runPartn {s : State} (h : s.Canonical) {k ent f} : Yields (s.runPartn k ent f) fun r => r.s.Canonical := by
  unfold State.runPartn
  exact Yields.bind_any (fun _ => Yields.bind_any (fun _ => Yields.pure h.soTouch.soOut.setResult))

theorem State.Canonical.runHisto {s : State} (h : s.Canonical) {k ent f} : Yields (s.runHisto k ent f) fun r => r.s.Canonical := by
  unfold State.runHisto
  exact Yields.bind_any (fun _ => Yields.pure h.soTouch.soWrite.setResult)

theorem State.Canonical.runSearch {s : State} (h : s.Canonical) {k ent f} : Yields (s.runSearch k ent f) fun r => r.s.Canonical := by
  unfold State.runSearch
  exact Yields.bind_any (fun _ => Yields.pure h.soTouch.soWrite)

theorem State.Canonical.runSort {s : State} (h : s.Canonical) {k ent i} : Yields (s.runSort k ent i) fun r => r.s.Canonical := by
  unfold State.runSort
  split
  · exact h.runSortk
  · exact h.runSortk
  · exact h.runSortk
  · exact h.runSortk
  · exact h.runSomerge
  · exact h.runSomerge
  · exact h.runSortk
  · exact h.runKth
  · exact h.runUnique
  · exact h.runPartn
  · exact h.runHisto
  · exact h.runSearch
  · exact Yields.ok h.modBank
  · exact Yields.ok h
  · exact Yields.ok h

theorem execSort_canonical {s : State} (h : s.Canonical) {f} : Goes (execSort f s) := by
  unfold execSort
  exact primary_canonical h

theorem execSortkv_canonical {s : State} (h : s.Canonical) {f} : Goes (execSortkv f s) := by
  unfold execSortkv
  exact primary_canonical h

theorem execTopk_canonical {s : State} (h : s.Canonical) {f} : Goes (execTopk f s) := by
  unfold execTopk
  exact primary_canonical h

theorem execTopkv_canonical {s : State} (h : s.Canonical) {f} : Goes (execTopkv f s) := by
  unfold execTopkv
  exact primary_canonical h

theorem execMerge_canonical {s : State} (h : s.Canonical) {f} : Goes (execMerge f s) := by
  unfold execMerge
  exact primary_canonical h

theorem execMergekv_canonical {s : State} (h : s.Canonical) {f} : Goes (execMergekv f s) := by
  unfold execMergekv
  exact primary_canonical h

theorem execArgsort_canonical {s : State} (h : s.Canonical) {f} : Goes (execArgsort f s) := by
  unfold execArgsort
  exact primary_canonical h

theorem execKth_canonical {s : State} (h : s.Canonical) {f} : Goes (execKth f s) := by
  unfold execKth
  exact primary_canonical h

theorem execUnique_canonical {s : State} (h : s.Canonical) {f} : Goes (execUnique f s) := by
  unfold execUnique
  exact primary_canonical h

theorem execPartn_canonical {s : State} (h : s.Canonical) {f} : Goes (execPartn f s) := by
  unfold execPartn
  exact primary_canonical h

theorem execHisto_canonical {s : State} (h : s.Canonical) {f} : Goes (execHisto f s) := by
  unfold execHisto
  exact primary_canonical h

theorem execSearch_canonical {s : State} (h : s.Canonical) {f} : Goes (execSearch f s) := by
  unfold execSearch
  exact primary_canonical h

theorem execSrtcfg_canonical {s : State} (h : s.Canonical) {g q item xs} : Goes (execSrtcfg g q item xs s) := by
  unfold execSrtcfg
  exact primary_canonical h

theorem execSrtstat_canonical {s : State} (h : s.Canonical) {g q xd sel} : Goes (execSrtstat g q xd sel s) := by
  unfold execSrtstat
  exact primary_canonical h

end Sys2Proof.Machine

end

section
/-! The canonical form of the memories: graph and host entries keep it. -/

namespace Sys2Proof.Machine

theorem State.Canonical.gainLease {s : State} (h : s.Canonical) {k l} : (s.gainLease k l).Canonical := by
  unfold State.gainLease
  exact State.Canonical.foldl (fun _ _ h1 => h1.modBank) h

theorem State.Canonical.runBalloc {s : State} (h : s.Canonical) {k ent ad slot} : Yields (s.runBalloc k ent ad slot) fun r => r.s.Canonical := by
  unfold State.runBalloc
  extract_lets a p raw w s1
  have hs1 : s1.Canonical := h.touch
  refine Yields.bind_any ?_
  intro b1
  refine Yields.bind_any ?_
  intro b2
  split
  next x t st h1 heq =>
    have ht := State.Canonical.of_fst heq hs1.alloc
    extract_lets ent1 n b s2 cap s3 s4
    have hs2 : s2.Canonical := ht.hold
    have hs3 : s3.Canonical := hs2.modBank
    have hs4 : s4.Canonical := hs3.gainLease
    exact Yields.ite (Yields.pure ht) (Yields.pure hs4)

theorem State.Canonical.runBref {s : State} (h : s.Canonical) {k ent as} : Yields (s.runBref k ent as) fun r => r.s.Canonical := by
  unfold State.runBref
  extract_lets a
  refine Yields.bind_any ?_
  intro b1
  refine Yields.bind_any ?_
  intro b2
  refine Yields.pure ?_
  refine State.Canonical.hold ?_
  split
  · split
    · exact h.modBuf
    · exact h
  · exact h

theorem State.Canonical.runBdrop {s : State} (h : s.Canonical) {k ent as} : Yields (s.runBdrop k ent as) fun r => r.s.Canonical := by
  unfold State.runBdrop
  exact Yields.bind_any (fun _ => Yields.bind_any (fun _ => Yields.pure h.unhold))

theorem State.Canonical.runBxfer {s : State} (h : s.Canonical) {ent as mask} : Yields (s.runBxfer ent as mask) fun r => r.s.Canonical := by
  unfold State.runBxfer
  extract_lets a dest gen r
  refine Yields.bind_any ?_
  intro b1
  refine Yields.bind_any ?_
  intro b2
  refine Yields.bind_any ?_
  intro b3
  refine Yields.pure ?_
  refine State.Canonical.deviceRecord ?_
  refine State.Canonical.hold ?_
  split
  · split
    · exact h.modBuf
    · exact h
  · exact h

theorem State.Canonical.runGsubmit {s : State} (h : s.Canonical) {k ent ar} : Yields (s.runGsubmit k ent ar) fun r => r.s.Canonical := by
  unfold State.runGsubmit
  extract_lets a r s1 l raw b sub src
  have hs1 : s1.Canonical := h.readSide
  exact Yields.bind_any (fun _ => Yields.bind_any (fun _ => Yields.bind_any (fun _ => Yields.pure hs1)))

theorem State.Canonical.runGsignal {s : State} (h : s.Canonical) {ent ab n} : Yields (s.runGsignal ent ab n) fun r => r.s.Canonical := by
  unfold State.runGsignal
  exact Yields.bind_any (fun _ => Yields.pure h.modBuf)

theorem State.Canonical.runArrwait {s : State} (h : s.Canonical) {ent ab} : Yields (s.runArrwait ent ab) fun r => r.s.Canonical := by
  unfold State.runArrwait
  exact Yields.bind_any (fun _ => Yields.pure h)

theorem State.Canonical.runHnotify {s : State} (h : s.Canonical) {k ent} : Yields (s.runHnotify k ent) fun r => r.s.Canonical := by
  unfold State.runHnotify
  exact Yields.bind_any (fun _ => Yields.pure ((h.modCell rfl).postRecord))

theorem State.Canonical.runXfer {s : State} (h : s.Canonical) {k ent x} : Yields (s.runXfer k ent x) fun r => r.s.Canonical := by
  unfold State.runXfer
  extract_lets s1
  have hs1 : s1.Canonical := h.drawFlits.ite h
  split
  · exact hs1.runCopy
  · exact hs1.runAmo
  · exact hs1.runXstream
  · exact hs1.runXstrend
  · exact hs1.runXchan
  · exact hs1.runXchanClose
  · exact hs1.runPhase
  · exact Yields.ok hs1
  · exact hs1.runCbar
  · exact hs1.runBalloc
  · exact hs1.runBref
  · exact hs1.runBdrop
  · exact hs1.runBxfer
  · exact hs1.runGsubmit
  · exact hs1.runGsignal
  · exact Yields.ok hs1
  · exact hs1.runArrwait
  · exact hs1.runHnotify
  · exact Yields.ok hs1

theorem State.Canonical.runPrimary {s : State} (h : s.Canonical) {k ent i} : Yields (s.runPrimary k ent i) fun r => r.s.Canonical := by
  unfold State.runPrimary
  split
  · exact h.runMatrix
  · exact h.runSparse
  · exact h.runSort

theorem execEngineEntryStart_canonical {s : State} (h : s.Canonical) {k e} : Goes (execEngineEntryStart k e s) := by
  unfold execEngineEntryStart
  refine Goes.next ?_
  split
  · exact h
  · split
    · split
      · exact h.ite (h.started h.runPrimary)
      · exact (h.started h.runXfer).ite h
    · exact h

theorem State.Canonical.atCompletion {s : State} (h : s.Canonical) {k ent} : (s.atCompletion k ent).Canonical := by
  unfold State.atCompletion
  extract_lets s1
  have hs1 : s1.Canonical := State.Canonical.foldl (fun _ _ h1 => h1.bufPutW.cacheTouch) h
  split
  · exact hs1.snapshot
  · exact hs1

theorem execEngineEntryComplete_canonical {s : State} (h : s.Canonical) {k e} : Goes (execEngineEntryComplete k e s) := by
  unfold execEngineEntryComplete
  extract_lets q
  refine Goes.next ?_
  split
  · exact h.atCompletion.complete.ite h
  · exact h

theorem execFarEndReply_canonical {s : State} (h : s.Canonical) {k} : Goes (execFarEndReply k s) := by
  unfold execFarEndReply
  extract_lets es
  refine Goes.next ?_
  split
  · exact h
  · split
    · exact h.bump.answered
    · exact h

theorem State.Canonical.groupProduct {s : State} (h : s.Canonical) {l} : (s.groupProduct l).Canonical := by
  unfold State.groupProduct
  extract_lets s0
  have hs0 : s0.Canonical := h
  split
  · exact h
  · extract_lets agree rows fa
    split
    · exact State.Canonical.foldl (fun _ ⟨x, x1, x2, x3⟩ h1 => h1.stopOne) h
    · split
      · extract_lets s1
        have hs1 : s1.Canonical := h.stopOne
        exact State.Canonical.foldl (fun _ ⟨x1, x2, x3, x4⟩ h1 => h1.stopOne) hs1
      · refine State.Canonical.foldl ?_ h
        intro t1 a1 h1
        split
        · extract_lets mine fb s1
          have hs1 : s1.Canonical := h1.touchFactor.touchFactor
          split
          · exact h1.touchFactor.answered
          · split
            · exact h1.stopOne
            · exact hs1.putTile.answered

theorem State.Canonical.reneed {s : State} (h : s.Canonical) {k e ent n} : (s.reneed k e ent n).Canonical := by
  unfold State.reneed
  exact h.modBank

theorem State.Canonical.meetGroup {s : State} (h : s.Canonical) {kind l} : (s.meetGroup kind l).Canonical := by
  unfold State.meetGroup
  extract_lets scopes
  split
  · exact h.groupProduct
  · exact State.Canonical.foldl (fun _ ⟨x, x1, x2⟩ h1 => h1.reneed) h
  · split
    · refine State.Canonical.foldl ?_ h
      intro t1 a1 h1
      extract_lets s1
      have hs1 : s1.Canonical := h1.modBank
      exact hs1.reneed
    · exact State.Canonical.foldl (fun _ ⟨x, x1, x2⟩ h1 => h1.modBank.stopOne) h

theorem execGroupRendezvous_canonical {s : State} (h : s.Canonical) {k kind} : Goes (execGroupRendezvous k kind s) := by
  unfold execGroupRendezvous
  exact Goes.next (h.ite (h.meetGroup.ite ((State.Canonical.foldl (fun _ ⟨x, x1, x2⟩ h1 => h1.modBank.stopOne) h).ite h)))

theorem execMcastArrival_canonical {s : State} (h : s.Canonical) {k} : Goes (execMcastArrival k s) := by
  unfold execMcastArrival
  refine Goes.next ?_
  split
  · exact h
  · extract_lets mine s1 s2 r
    have hs1 : s1.Canonical := by
      unfold s1
      refine State.Canonical.foldl ?_ h
      intro t1 a1 h1
      split
      · exact h1.landChip
      · exact h1
    have hs2 : s2.Canonical := hs1.modCell rfl
    split
    · exact h
    · extract_lets s3
      have hs3 : s3.Canonical := State.Canonical.foldl (fun _ _ h1 => h1.arriveMcast) hs2
      exact hs3.answered.ite h

theorem execMcwaitRelease_canonical {s : State} (h : s.Canonical) {k} : Goes (execMcwaitRelease k s) := by
  unfold execMcwaitRelease
  refine Goes.next ?_
  split
  · exact h
  · split
    · exact h.modBank.answered.ite (h.stopQueue.ite h)
    · exact h

theorem execBalloc_canonical {s : State} (h : s.Canonical) {g q xd ad slot} : Goes (execBalloc g q xd ad slot s) := by
  unfold execBalloc
  exact transfer_canonical h (fun _ _ h1 => noAct_canonical h1)

theorem execBref_canonical {s : State} (h : s.Canonical) {g q as} : Goes (execBref g q as s) := by
  unfold execBref
  exact transfer_canonical h (fun _ _ h1 => noAct_canonical h1)

theorem execBdrop_canonical {s : State} (h : s.Canonical) {g q as} : Goes (execBdrop g q as s) := by
  unfold execBdrop
  exact transfer_canonical h (fun _ _ h1 => noAct_canonical h1)

theorem execBxfer_canonical {s : State} (h : s.Canonical) {g q as xa rights} : Goes (execBxfer g q as xa rights s) := by
  unfold execBxfer
  exact transfer_canonical h (fun _ _ h1 => noAct_canonical h1)

theorem execGsubmit_canonical {s : State} (h : s.Canonical) {g q xq ar} : Goes (execGsubmit g q xq ar s) := by
  unfold execGsubmit
  exact transfer_canonical h (fun _ _ h1 => noAct_canonical h1)

theorem execGsignal_canonical {s : State} (h : s.Canonical) {g q ab n} : Goes (execGsignal g q ab n s) := by
  unfold execGsignal
  exact transfer_canonical h (fun _ _ h1 => noAct_canonical h1)

theorem execGwait_canonical {s : State} (h : s.Canonical) {g q xd xq} : Goes (execGwait g q xd xq s) := by
  unfold execGwait
  exact transfer_canonical h (fun _ _ h1 => noAct_canonical h1)

theorem execArrwait_canonical {s : State} (h : s.Canonical) {g q ab xv} : Goes (execArrwait g q ab xv s) := by
  unfold execArrwait
  exact transfer_canonical h (fun _ _ h1 => noAct_canonical h1)

theorem execHnotify_canonical {s : State} (h : s.Canonical) {g q xv xp} : Goes (execHnotify g q xv xp s) := by
  unfold execHnotify
  exact transfer_canonical h (fun _ _ h1 => noAct_canonical h1)

end Sys2Proof.Machine

end

section
/-! The canonical form of the memories: launches, ends and swaps of tasks keep it. -/

namespace Sys2Proof.Machine

theorem execLongLatencyResult_canonical {s : State} (h : s.Canonical) {k c i} : Goes (execLongLatencyResult k c i s) := by
  unfold execLongLatencyResult
  exact Goes.next h.modCore

theorem execSemGrant_canonical {s : State} (h : s.Canonical) {k n} : Goes (execSemGrant k n s) := by
  unfold execSemGrant
  refine Goes.next ?_
  split
  · exact Finds.getD h.grantSem h
  · exact h

theorem execMutexGrant_canonical {s : State} (h : s.Canonical) {k m} : Goes (execMutexGrant k m s) := by
  unfold execMutexGrant
  exact Goes.next (Finds.getD h.grantMutex h)

theorem execWaitwpRelease_canonical {s : State} (h : s.Canonical) {k c} : Goes (execWaitwpRelease k c s) := by
  unfold execWaitwpRelease
  refine Goes.next ?_
  split
  next x t heq =>
    have ht := h.grantWp _ heq
    exact ht
  · exact h.endWp

theorem execEqdrainRelease_canonical {s : State} (h : s.Canonical) {k c} : Goes (execEqdrainRelease k c s) := by
  unfold execEqdrainRelease
  refine Goes.next ?_
  split
  · exact h.retire.ite h
  · exact h

theorem execPauseWake_canonical {s : State} (h : s.Canonical) {k c} : Goes (execPauseWake k c s) := by
  unfold execPauseWake
  refine Goes.next ?_
  split
  · exact h.retire.ite h
  · exact h

theorem execPauseTimeout_canonical {s : State} (h : s.Canonical) {k c} : Goes (execPauseTimeout k c s) := by
  unfold execPauseTimeout
  refine Goes.next ?_
  split
  · exact h.retire.ite h
  · exact h

theorem execQueuePushResume_canonical {s : State} (h : s.Canonical) {k c} : Goes (execQueuePushResume k c s) := by
  unfold execQueuePushResume
  refine Goes.next ?_
  split
  · exact h.modCore.ite h
  · exact h

theorem State.Canonical.copyImage {s : State} (h : s.Canonical) {k h1 n} : (s.copyImage k h1 n).Canonical := by
  unfold State.copyImage
  extract_lets s1
  have hs1 : s1.Canonical := h.noteHome
  split
  · extract_lets s2
    have hs2 : s2.Canonical := hs1.of_mem (Mem.wf_write hs1.mem _ _)
    split
    · exact hs2.ite hs2
    · exact hs2

theorem State.Canonical.launchBank {s : State} (h : s.Canonical) {k t} : (s.launchBank k t).Canonical := by
  unfold State.launchBank
  extract_lets c h1 n image same s1 s2 fresh s3
  have hs1 : s1.Canonical := h.wipeCell
  have hs2 : s2.Canonical := hs1.ite hs1.copyImage
  have hs3 : s3.Canonical := hs2.bump.setFits ((h.cell k).of_suspended rfl)
  exact hs3.modCell rfl

theorem State.Canonical.launchCores {s : State} (h : s.Canonical) {k t} : (s.launchCores k t).Canonical := by
  unfold State.launchCores
  extract_lets s1 wait core src s2 s3
  have hs1 : s1.Canonical := h.snapshot
  have hs2 : s2.Canonical := hs1.setBank
  have hs3 : s3.Canonical := hs2.modNode
  exact hs3.noteReads.ite hs3

theorem State.Canonical.launch {s : State} (h : s.Canonical) {l} : (s.launch l).Canonical := by
  unfold State.launch
  extract_lets n src s1 l1
  have hs1 : s1.Canonical := h
  exact State.Canonical.foldl (fun _ ⟨x, x1⟩ h1 => h1.launchCores) (State.Canonical.foldl (fun _ ⟨x, x1⟩ h1 => h1.launchBank) hs1)

theorem State.Canonical.lastPhase {s : State} (h : s.Canonical) {k} : (s.lastPhase k).Canonical := by
  unfold State.lastPhase
  exact h.ite h.modBank.capture.modBank

theorem State.Canonical.finishCell {s : State} (h : s.Canonical) {k} : (s.finishCell k).Canonical := by
  unfold State.finishCell
  extract_lets b s1
  have hs1 : s1.Canonical := h.lastPhase
  split
  · exact h
  · extract_lets s2 s3
    have hs2 : s2.Canonical := hs1.modNode
    have hs3 : s3.Canonical := hs2.leaveBank
    exact h.ite (hs1.ite ((hs3.modCell rfl).retireCell))

theorem execLaunchBankSwap_canonical {s : State} (h : s.Canonical) {k} : Goes (execLaunchBankSwap k s) := by
  unfold execLaunchBankSwap
  refine Goes.next ?_
  split
  · exact h.finishCell
  · extract_lets js s1 ts
    have hs1 : s1.Canonical := State.Canonical.foldl (fun _ _ h1 => h1.finishCell) h
    exact hs1.launch.ite hs1

theorem State.Canonical.retireNode {s : State} (h : s.Canonical) {n nd st} : (s.retireNode n nd st).Canonical := by
  unfold State.retireNode
  extract_lets s1 next nodes bodies bodies1 src
  have hs1 : s1.Canonical := h.dropRefs
  exact hs1.of_cells (hs1.mapCells fun e => ⟨rfl, fun x hx => by
    obtain ⟨y, hy, rfl⟩ := List.mem_map.1 hx
    exact ⟨y, hy, rfl⟩⟩)

theorem State.Canonical.faultNote {s : State} (h : s.Canonical) {k b f} : (s.faultNote k b f).Canonical := by
  unfold State.faultNote
  extract_lets r src s1
  have hs1 : s1.Canonical := h
  exact State.Canonical.postRecord hs1.schedSeq

theorem State.Canonical.dropUnstarted {s : State} (h : s.Canonical) {k} : (s.dropUnstarted k).Canonical := by
  unfold State.dropUnstarted
  exact h.modBank

theorem State.Canonical.retireFaultNode {s : State} (h : s.Canonical) {n} : (s.retireFaultNode n).Canonical := by
  unfold State.retireFaultNode
  split
  · exact h.retireNode.ite h
  · exact h

theorem execTaskEndByFault_canonical {s : State} (h : s.Canonical) {k} : Goes (execTaskEndByFault k s) := by
  unfold execTaskEndByFault
  extract_lets s1 b s2 n quit s3 s4
  have hs1 : s1.Canonical := h.dropUnstarted
  have hs2 : s2.Canonical := hs1.lastPhase
  have hs3 : s3.Canonical := hs2.modNode
  have hs4 : s4.Canonical := hs3.modBank
  refine Goes.next ?_
  split
  · exact h
  · exact hs1.ite (hs2.ite hs4.finishCell.retireFaultNode.faultNote)

theorem State.Canonical.beginPreempt {s : State} (h : s.Canonical) {k} : (s.beginPreempt k).Canonical := by
  unfold State.beginPreempt
  exact h.grants.modCell rfl

theorem State.Canonical.suspend {s : State} (h : s.Canonical) {k later} : (s.suspend k later).Canonical := by
  unfold State.suspend
  extract_lets s1 c m x src
  have hs1 : s1.Canonical := by
    unfold s1
    split
    · exact h.leaveBank
    · exact h
  refine hs1.wipeCell.setFits fun y hy => ?_
  obtain hold | hnew := List.mem_append.1 hy
  · exact hs1.cell k y hold
  · cases List.mem_singleton.1 hnew
    exact hs1.area k

theorem execPreemptSwap_canonical {s : State} (h : s.Canonical) {k} : Goes (execPreemptSwap k s) := by
  unfold execPreemptSwap
  refine Goes.next ?_
  split
  · exact h
  · extract_lets js later s1 s2
    have hs1 : s1.Canonical := State.Canonical.foldl (fun _ _ h1 => h1.suspend) h
    have hs2 : s2.Canonical := hs1.modNode
    exact hs2.launch.ite h

theorem State.Canonical.reclaim {s : State} (h : s.Canonical) {k key} : (s.reclaim k key).Canonical := by
  unfold State.reclaim
  extract_lets b s1
  have hs1 : s1.Canonical := h.modBank
  split
  · exact h
  · split
    · split
      · exact hs1.endTask
      · exact hs1
    · exact hs1

theorem State.Canonical.restore {s : State} (h : s.Canonical) {k x} (hx : x.mem.wf = true ∧ ∀ p ∈ x.mem, padBase k ≤ p.1 ∧ p.1 < chipAddr k 4 0) :
    (s.restore k x).Canonical := by
  unfold State.restore
  extract_lets c s1 s2 kept src
  have hs1 : s1.Canonical := h.putArea hx
  have hs2 : s2.Canonical := State.Canonical.foldl (fun _ _ h1 => h1.chipPut) hs1
  exact hs2.setFits ((h.cell k).of_subset fun y hy => ⟨y, List.dropLast_subset _ hy, rfl⟩)

theorem execTaskResume_canonical {s : State} (h : s.Canonical) {k} : Goes (execTaskResume k s) := by
  unfold execTaskResume
  refine Goes.next ?_
  split
  · exact h
  · split
    · exact h
    · extract_lets js s1 ready s2
      have hs1 : s1.Canonical := State.Canonical.foldl (fun _ _ ht => ht.finishCell) h
      have hs2 : s2.Canonical := State.Canonical.foldl (fun t j ht => by
        split
        next y hy => exact State.Canonical.foldl (fun _ _ hu => hu.reclaim) (State.Canonical.restore ht (ht.cell j y (List.mem_of_getLast? hy)))
        next => exact ht) hs1
      exact hs2.modNode.ite hs1

theorem State.Canonical.closeSuspended {s : State} (h : s.Canonical) {k i} : (s.closeSuspended k i).Canonical := by
  unfold State.closeSuspended
  extract_lets own s1 s2
  have hs1 : s1.Canonical := h.aside fun _ ht => ht.dropUnstarted.ite ht.dropUnstarted.lastPhase
  have hs2 : s2.Canonical := hs1.setFits ((hs1.cell k).of_subset fun y hy => ⟨y, List.mem_of_mem_eraseIdx hy, rfl⟩)
  split
  · exact h
  · split
    · exact hs1
    · extract_lets n s3
      have hs3 : s3.Canonical := hs2.modNode
      exact hs1.ite hs3.retireFaultNode.faultNote

theorem State.Canonical.endSuspended {s : State} (h : s.Canonical) {k x f} : (s.endSuspended k x f).Canonical := by
  unfold State.endSuspended
  extract_lets same stop s1
  have hs1 : s1.Canonical := h.setFits ((h.cell k).of_map rfl fun y => by split <;> rfl)
  split
  · exact hs1.closeSuspended
  · exact hs1

theorem State.Canonical.killTask {s : State} (h : s.Canonical) {k cause tval} : (s.killTask k cause tval).Canonical := by
  unfold State.killTask
  split
  · exact h
  · exact State.Canonical.foldl (fun _ _ h1 => h1.endTask.ite h1) h

theorem execTaskKilled_canonical {s : State} (h : s.Canonical) {k} : Goes (execTaskKilled k s) := by
  unfold execTaskKilled
  exact Goes.next h.killTask

end Sys2Proof.Machine

end

section
/-! The canonical form of the memories: placement keeps it. -/

namespace Sys2Proof.Machine

theorem State.Canonical.writeRecords {s : State} (h : s.Canonical) {n nd p} : (s.writeRecords n nd p).Canonical := by
  unfold State.writeRecords
  extract_lets idx num v s1 src s2 put s3
  have hs1 : s1.Canonical := h.noteHome
  have hs2 : s2.Canonical := hs1
  have hs3 : s3.Canonical := State.Canonical.foldl (fun _ _ ht => ht.setFits ((ht.cell _).of_subset fun x hx => by
    obtain ⟨y, hy, rfl⟩ := List.mem_map.1 hx
    exact ⟨y, hy, rfl⟩)) hs2
  exact hs3.modNode

end Sys2Proof.Machine

end

section
/-! The canonical form of the memories: Foxglove keeps it. -/

namespace Sys2Proof.Machine

theorem State.Canonical.train {s : State} (h : s.Canonical) {q nd cls} : (s.train q nd cls).Canonical := by
  unfold State.train
  exact h.bump.modFox

theorem State.Canonical.shadowBuf {s : State} (h : s.Canonical) {d} : Finds (s.shadowBuf d) fun r => r.1.Canonical := by
  unfold State.shadowBuf
  split
  · exact Finds.none
  · exact Finds.some h.bump.enterBuf

theorem State.Canonical.shadowAll {s : State} (h : s.Canonical) {a a1} : Finds (s.shadowAll a a1) fun r => r.1.Canonical := by
  induction a generalizing s a1 with
  | nil => exact Finds.some h
  | cons x l ih =>
    obtain ⟨acc, d⟩ := x
    unfold State.shadowAll
    split
    · exact Finds.map (fun _ hb => hb) (ih h)
    · split
      · exact Finds.none
      · split
        · exact Finds.none
        next t b heq => exact Finds.map (fun _ hb => hb) (ih (h.shadowBuf _ heq))

theorem State.Canonical.pairShadows {s : State} (h : s.Canonical) {saved shadows} : (s.pairShadows saved shadows).Canonical := by
  unfold State.pairShadows
  exact State.Canonical.foldl (fun _ ⟨x, x1⟩ h1 => h1.modBuf) h

theorem State.Canonical.startRun {s : State} (h : s.Canonical) {q e} : (s.startRun q e).Canonical := by
  unfold State.startRun
  extract_lets cfg a as_ r ok gran tplAt rl free
  split
  · exact h
  · split
    · split
      · exact h
      · split
        · exact h
        · split
          · exact h
          next x3 t1 accs shadows heq5 =>
            have ht := h.bump.shadowAll _ heq5
            extract_lets s1 nd s2 src s3 s4 s5 s6
            have hs1 : s1.Canonical := ht.pairShadows
            have hs2 : s2.Canonical := hs1.takeRefs
            have hs3 : s3.Canonical := hs2
            have hs4 : s4.Canonical := hs3.writeRecords
            have hs5 : s5.Canonical := hs4.noteReads
            have hs6 : s6.Canonical := hs5.modAsid
            exact hs6.modFox.foxCount
    · exact h

theorem State.Canonical.speculate {s : State} (h : s.Canonical) {q p} : (s.speculate q p).Canonical := by
  unfold State.speculate
  split
  · exact h.startRun
  · exact h

theorem State.Canonical.trainAndRun {s : State} (h : s.Canonical) {q nd cls} : (s.trainAndRun q nd cls).Canonical := by
  unfold State.trainAndRun
  exact h.train.speculate

theorem State.Canonical.countLaunch {s : State} (h : s.Canonical) {q} : (s.countLaunch q).Canonical := by
  unfold State.countLaunch
  extract_lets s1
  have hs1 : s1.Canonical := h.modFox
  split
  · exact h
  · exact hs1.discardRun.ite hs1

/-- Entries that move from one place to another are in order again. -/
theorem Mem.wf_kmove {m : Mem} (h : m.wf = true) (src dst n : Nat) : Mem.wf (kmove m src dst n) = true := by
  obtain ⟨hrise, hne⟩ := (Mem.wf_iff m).1 h
  obtain ⟨hpart, hpne⟩ := (Mem.wf_iff _).1 (Mem.wf_part h src n)
  have hlow : ∀ e ∈ m.part src n, src ≤ e.1 ∧ e.1 < src + n := fun e he =>
    ⟨(Mem.mem_above hrise (Mem.mem_below he).1).2, (Mem.mem_below he).2⟩
  refine Mem.wf_putPart (m := m.filter _) (p := (m.part src n).map _) ((Mem.wf_iff _).2 ⟨hrise.filter _, fun e he => hne e (List.mem_filter.1 he).1⟩)
    ((Mem.wf_iff _).2 ⟨List.pairwise_map.2 (hpart.imp_of_mem fun ha hb hab => ?_), fun e he => ?_⟩) dst n fun e he => ?_
  · have := hlow _ ha
    dsimp only
    omega
  · obtain ⟨d, hd, rfl⟩ := List.mem_map.1 he
    exact hpne d hd
  · obtain ⟨d, hd, rfl⟩ := List.mem_map.1 he
    have := hlow d hd
    dsimp only
    omega

theorem State.Canonical.takeShadow {s : State} (h : s.Canonical) {ks sh real} : (s.takeShadow ks sh real).Canonical := by
  unfold State.takeShadow
  extract_lets f g s1
  have hs1 : s1.Canonical := h.of_hbm (Mem.wf_kmove h.hbm _ _ _)
  split
  · exact h
  · extract_lets s2 s3
    have hs2 : s2.Canonical := hs1.modBuf
    have hs3 : s3.Canonical := State.Canonical.foldl (fun _ _ h1 => h1.modCell rfl) hs2
    exact hs3.freeBuf

theorem State.Canonical.claimCheck {s : State} (h : s.Canonical) {n cls} : (s.claimCheck n cls).Canonical := by
  unfold State.claimCheck
  split
  · exact h
  · extract_lets real
    split
    · exact h
    · split
      · exact h
      next x2 run1 heq2 =>
        extract_lets gran lease s1 s2 s3 src s4
        have hs1 : s1.Canonical := State.Canonical.foldl (fun _ _ h1 => h1.discardRun) h
        have hs2 : s2.Canonical := State.Canonical.foldl (fun _ _ h1 => h1.takeShadow) hs1
        have hs3 : s3.Canonical := State.Canonical.foldl (fun _ _ h1 => h1.modCell rfl) hs2
        have hs4 : s4.Canonical := by
          refine State.Canonical.dropRefs ?_
          exact hs3
        split
        · exact h
        · split
          · exact h.discardRun
          · extract_lets s5 s6
            have hs5 : s5.Canonical := hs4.modNode
            have hs6 : s6.Canonical := hs5.modFox.modAsid
            exact h.discardRun.ite hs6.foxCount.trainAndRun

end Sys2Proof.Machine

end

section
/-! The canonical form of the memories: the scheduler keeps it. -/

namespace Sys2Proof.Machine

theorem State.Canonical.noteWord {s : State} (h : s.Canonical) {nd} : (s.noteWord nd).Canonical := by
  unfold State.noteWord
  split
  · exact h.noteHome.ite h
  · exact h

theorem State.Canonical.openGates {s : State} (h : s.Canonical) {g arm} : (s.openGates g arm).Canonical := by
  unfold State.openGates
  exact h

theorem State.Canonical.askPages {s : State} (h : s.Canonical) {nd l} : (s.askPages nd l).Canonical := by
  unfold State.askPages
  exact State.Canonical.foldl (fun _ ⟨x, x1⟩ h1 => h1.send) h

theorem State.Canonical.evaluate {s : State} (h : s.Canonical) {n nd} : (s.evaluate n nd).Canonical := by
  unfold State.evaluate
  extract_lets set v s1 a w a1
  have hset : ∀ (s : State) (f : Node → Node), s.Canonical → (set s f).Canonical := fun _ _ h1 => h1.modNode
  have hs1 : s1.Canonical := h.noteWord
  split
  · exact hs1.modNode.claimCheck
  · split
    · exact hs1.modNode.openGates
    · exact hs1.modNode.openGates.ite hs1.modNode.openGates
    · exact hs1.modNode.openGates
    · exact hs1.modNode
    · exact hset _ _ hs1
    · split
      · exact hs1.modNode.claimCheck
      · exact hs1.modNode.claimCheck.ite (hs1.modNode.askPages.ite hs1.modNode.askPages.claimCheck)

theorem State.Canonical.settleNodes {a1 : State} (h : a1.Canonical) {a} : (State.settleNodes a a1).Canonical := by
  induction a generalizing a1 with
  | zero => exact h
  | succ f ih =>
    unfold State.settleNodes
    split
    · exact h
    · split
      · exact ih h.modNode
      · exact ih h.evaluate

theorem State.Canonical.settleAll {s : State} (h : s.Canonical) : s.settleAll.Canonical := by
  unfold State.settleAll
  exact h.settleNodes

theorem State.Canonical.enterNode {s : State} (h : s.Canonical) {i nd} : (s.enterNode i nd).Canonical := by
  unfold State.enterNode
  extract_lets s1 src
  have hs1 : s1.Canonical := h.bump.takeRefs
  exact hs1

theorem State.Canonical.answerSubmit {s : State} (h : s.Canonical) {sub res} : (s.answerSubmit sub res).Canonical := by
  unfold State.answerSubmit
  extract_lets ag
  split
  · split
    · exact h.answerMail
    · exact h.answerMail
  · refine h.onPusher ?_
    intro a1 h1
    split
    · exact h1
    · split
      · exact h1.answered.modBank
      · exact h1.stopQueue

theorem execNodeAccept_canonical {s : State} (h : s.Canonical) {i} : Goes (execNodeAccept i s) := by
  unfold execNodeAccept
  refine Goes.next ?_
  split
  · exact h
  · refine State.Canonical.ite h ?_
    extract_lets rest
    split
    · refine State.Canonical.answerSubmit ?_
      exact h
    · split
      · exact h
      · refine State.Canonical.ite h ?_
        extract_lets s1 src s2 s3
        have hs1 : s1.Canonical := h.enterNode
        have hs2 : s2.Canonical := hs1
        have hs3 : s3.Canonical := by
          unfold s3
          split
          · exact hs2.modNode
          · exact hs2
        exact hs3.answerSubmit.settleAll

theorem execNodeRetire_canonical {s : State} (h : s.Canonical) {n} : Goes (execNodeRetire n s) := by
  unfold execNodeRetire
  refine Goes.next ?_
  split
  · exact h.settleAll
  · extract_lets s1
    have hs1 : s1.Canonical := State.Canonical.foldl (fun _ _ h1 => h1.finishCell) h
    split
    · exact hs1
    · split
      · exact hs1.retireNode.settleAll
      · exact hs1

theorem execEventNodeSatisfied_canonical {s : State} (h : s.Canonical) {n} : Goes (execEventNodeSatisfied n s) := by
  unfold execEventNodeSatisfied
  refine Goes.next ?_
  split
  · exact h
  · exact h.retireNode.settleAll.ite h

theorem State.Canonical.reaccept {s : State} (h : s.Canonical) {g nd} : (s.reaccept g nd).Canonical := by
  unfold State.reaccept
  split
  · exact h
  · exact h.enterNode

theorem execLoopIteration_canonical {s : State} (h : s.Canonical) {n} : Goes (execLoopIteration n s) := by
  unfold execLoopIteration
  extract_lets body
  refine Goes.next ?_
  split
  · exact h
  · extract_lets i again next s1 src s2 s3
    have hs1 : s1.Canonical := h.noteWord.ite h
    have hs2 : s2.Canonical := hs1
    have hs3 : s3.Canonical := hs2.modNode
    exact (h.ite (((State.Canonical.foldl (fun _ _ h1 => h1.reaccept) hs3).settleAll).ite hs1.modNode.openGates.settleAll)).ite h

theorem State.Canonical.draw {s : State} (h : s.Canonical) {l} : (s.draw l).1.Canonical := by
  unfold State.draw
  extract_lets qt x t v sums src
  split
  · exact h
  · exact h

theorem State.Canonical.place {s : State} (h : s.Canonical) {n nd p} : (s.place n nd p).Canonical := by
  unfold State.place
  extract_lets s1 s2 s3
  have hs1 : s1.Canonical := State.Canonical.foldl (fun _ _ h1 => h1.discardRun) h
  have hs2 : s2.Canonical := State.Canonical.foldl (fun _ _ h1 => h1.beginPreempt) hs1
  have hs3 : s3.Canonical := hs2.writeRecords.countLaunch
  exact hs3.trainAndRun.ite hs3

theorem execSchedulerDecision_canonical {s : State} (h : s.Canonical) : Goes (execSchedulerDecision s) := by
  unfold execSchedulerDecision
  refine Goes.next ?_
  split
  · exact h
  · split
    · exact h
    · split
      next x1 t q heq2 =>
        have ht := State.Canonical.of_fst heq2 h.draw
        split
        · exact ht.place
        · exact ht

end Sys2Proof.Machine

end

section
/-! The canonical form of the memories: the host link keeps it. -/

namespace Sys2Proof.Machine

theorem State.Canonical.modMsix {s : State} (h : s.Canonical) {v f} : (s.modMsix v f).Canonical := by
  unfold State.modMsix
  exact h.setHost

theorem State.Canonical.fire {s : State} (h : s.Canonical) {v} : (s.fire v).Canonical := by
  unfold State.fire
  exact h.modMsix.ite h.modMsix.send

theorem State.Canonical.fireFull {s : State} (h : s.Canonical) {v} : (s.fireFull v).Canonical := by
  unfold State.fireFull
  exact h.fire.ite h

theorem State.Canonical.countRecord {s : State} (h : s.Canonical) {v} : (s.countRecord v).Canonical := by
  unfold State.countRecord
  exact h.modMsix.fireFull

theorem State.Canonical.fireDue {s : State} (h : s.Canonical) : s.fireDue.Canonical := by
  unfold State.fireDue
  exact State.Canonical.foldl (fun _ _ h1 => h1.fire) h

theorem execMsixFirstTimer_canonical {s : State} (h : s.Canonical) {v} : Goes (execMsixFirstTimer v s) := by
  unfold execMsixFirstTimer
  exact Goes.next (h.fire.ite h)

theorem execMsixIdleTimer_canonical {s : State} (h : s.Canonical) {v} : Goes (execMsixIdleTimer v s) := by
  unfold execMsixIdleTimer
  exact Goes.next (h.fire.ite h)

theorem State.Canonical.unmask {s : State} (h : s.Canonical) {v} : (s.unmask v).Canonical := by
  unfold State.unmask
  extract_lets held s1
  have hs1 : s1.Canonical := h.modMsix
  exact hs1.fire.ite hs1

theorem execMsixUnmask_canonical {s : State} (h : s.Canonical) {v} : Goes (execMsixUnmask v s) := by
  unfold execMsixUnmask
  exact Goes.next (h.unmask.ite h)

theorem execEventRecordWrite_canonical {s : State} (h : s.Canonical) {asid} : Goes (execEventRecordWrite asid s) := by
  unfold execEventRecordWrite
  extract_lets a i addr
  refine Goes.next ?_
  split
  · exact h
  · extract_lets s1 s2 s3
    have hs1 : s1.Canonical := h.of_hostMem (Mem.wf_write h.hostMem _ _)
    have hs2 : s2.Canonical := hs1.modAsid
    have hs3 : s3.Canonical := hs2.countRecord
    split
    · split
      · exact hs3
      · refine hs3.onPusher ?_
        intro a1 h1
        split
        · exact h1.answered
        · exact h1
    · exact h

theorem execHostRegisterWrite_canonical {s : State} (h : s.Canonical) {addr val} : Goes (execHostRegisterWrite addr val s) := by
  unfold execHostRegisterWrite
  extract_lets s1 n ok
  have hs1 : s1.Canonical := h.setHost
  refine Goes.next ?_
  split
  · exact h
  · split
    · exact hs1.modAsid
    · exact hs1.modMsix.ite hs1.unmask
    · exact hs1.modMsix.fireFull.ite hs1
    · exact hs1.modMsix.ite hs1
    · exact hs1.modMsix.ite hs1
    · exact hs1.setHost
    · exact hs1.setHost
    · exact hs1
    · exact hs1

theorem execHostWindowRead_canonical {s : State} (h : s.Canonical) {w off len} : Goes (execHostWindowRead w off len s) := by
  unfold execHostWindowRead
  refine Goes.next ?_
  split
  · exact h
  · split
    · exact h.reply
    · exact h.noteHome.cacheTouch.reply

theorem execHostWindowWrite_canonical {s : State} (h : s.Canonical) {w off data} : Goes (execHostWindowWrite w off data s) := by
  unfold execHostWindowWrite
  refine Goes.next ?_
  split
  · exact h
  · split
    · exact h.bump.bump.bump.reply.logHw
    · exact h.setHost

theorem State.Canonical.modTrans {s : State} (h : s.Canonical) {pasid page f} : (s.modTrans pasid page f).Canonical := by
  unfold State.modTrans
  exact h.setHost

theorem execAtsInvalidation_canonical {s : State} (h : s.Canonical) {pasid page} : Goes (execAtsInvalidation pasid page s) := by
  unfold execAtsInvalidation
  extract_lets s1
  have hs1 : s1.Canonical := h.modTrans
  exact Goes.next (h.ite (hs1.send.ite hs1))

theorem execAtsInvalidationComplete_canonical {s : State} (h : s.Canonical) {pasid page} : Goes (execAtsInvalidationComplete pasid page s) := by
  unfold execAtsInvalidationComplete
  exact Goes.next (h.setHost.reply.ite h)

theorem execTranslationResponse_canonical {s : State} (h : s.Canonical) {pasid page ok} : Goes (execTranslationResponse pasid page ok s) := by
  unfold execTranslationResponse
  exact Goes.next (h.ite (h.modTrans.pageAnswered.ite h.askPage))

end Sys2Proof.Machine

end

section
/-! The canonical form of the memories: links and remote pushes keep it. -/

namespace Sys2Proof.Machine

theorem State.Canonical.setFabric {s : State} (h : s.Canonical) {f} : (s.setFabric f).Canonical := by
  unfold State.setFabric
  exact h

theorem State.Canonical.modLink {s : State} (h : s.Canonical) {l f} : (s.modLink l f).Canonical := by
  unfold State.modLink
  exact h.setFabric

theorem State.Canonical.takeFlit {s : State} (h : s.Canonical) {l kind f act} (hact : ∀ (a : State), a.Canonical → (act a).Canonical) :
    (s.takeFlit l kind f act).Canonical := by
  unfold State.takeFlit
  exact (hact _ h.modLink).ite h

theorem execStreamOpen_canonical {s : State} (h : s.Canonical) {link f} : Goes (execStreamOpen link f s) := by
  unfold execStreamOpen
  exact Goes.next (h.takeFlit (fun _ h1 => h1.ite h1.setFabric))

theorem State.Canonical.landStream {s : State} (h : s.Canonical) {c i ws} : (s.landStream c i ws).Canonical := by
  unfold State.landStream
  extract_lets a h1 a1 ag asid
  split
  · exact h
  · split
    · exact h.landChip.ite h
    · split
      · exact h.homePut.modBuf.cacheTouch.ite h
      · exact h

theorem State.Canonical.putCtx {s : State} (h : s.Canonical) {c} : (s.putCtx c).Canonical := by
  unfold State.putCtx
  exact h.setFabric

theorem State.Canonical.endCtx {s : State} (h : s.Canonical) {c status} : (s.endCtx c status).Canonical := by
  unfold State.endCtx
  exact h.setFabric

theorem State.Canonical.settleCtxs {a1 : State} (h : a1.Canonical) {a} : (State.settleCtxs a a1).Canonical := by
  induction a generalizing a1 with
  | zero => exact h
  | succ n ih =>
    unfold State.settleCtxs
    split
    · exact h
    · extract_lets s
      have hs : s.Canonical := State.Canonical.foldl (fun _ _ h1 => h1.landStream) h
      refine ih ?_
      split
      · exact hs.endCtx
      · exact hs.putCtx

theorem execStreamData_canonical {s : State} (h : s.Canonical) {link f} : Goes (execStreamData link f s) := by
  unfold execStreamData
  refine Goes.next ?_
  refine h.takeFlit ?_
  intro a1 h1
  split
  · exact h1
  · exact h1.putCtx.settleCtxs

theorem execStreamClose_canonical {s : State} (h : s.Canonical) {link f} : Goes (execStreamClose link f s) := by
  unfold execStreamClose
  refine Goes.next ?_
  refine h.takeFlit ?_
  intro a1 h1
  split
  · exact h1
  · exact h1.endCtx.settleCtxs.ite h1.putCtx.settleCtxs

theorem execCredit_canonical {s : State} (h : s.Canonical) {link f} : Goes (execCredit link f s) := by
  unfold execCredit
  exact Goes.next (h.takeFlit (fun _ h1 => h1.modLink))

theorem State.Canonical.sendSched {s : State} (h : s.Canonical) {ty dst opid? w2 arg payload own} :
    (s.sendSched ty dst opid? w2 arg payload own).Canonical := by
  unfold State.sendSched
  exact State.Canonical.sendMsg h.schedSeq.bump

theorem State.Canonical.answer {s : State} (h : s.Canonical) {m ty arg payload} : (s.answer m ty arg payload).Canonical := by
  unfold State.answer
  exact h.sendSched

theorem State.Canonical.dropPush {s : State} (h : s.Canonical) {p} : (s.dropPush p).Canonical := by
  unfold State.dropPush
  exact h.setFabric

theorem State.Canonical.putPush {s : State} (h : s.Canonical) {p} : (s.putPush p).Canonical := by
  unfold State.putPush
  exact h.dropPush.setFabric

theorem State.Canonical.bumpPush {s : State} (h : s.Canonical) {p} : (s.bumpPush p).1.Canonical := by
  unfold State.bumpPush
  split
  · exact h.bumpVersion
  · exact h

theorem State.Canonical.refuse {s : State} (h : s.Canonical) {p} : (s.refuse p).1.Canonical := by
  unfold State.refuse
  split
  next x t p1 heq =>
    have ht := State.Canonical.of_fst heq h.bumpPush
    exact ht

theorem State.Canonical.settlePush {s : State} (h : s.Canonical) {p} : (s.settlePush p).Canonical := by
  unfold State.settlePush
  split
  · exact h.putPush
  · refine State.Canonical.ite h.putPush ?_
    extract_lets s1
    have hs1 : s1.Canonical := h.dropPush
    split
    next t q heq =>
    have ht : t.Canonical := by
      refine State.Canonical.of_fst heq ?_
      split
      · exact hs1
      · exact hs1.bumpPush
    exact (ht.modBuf.ite ht).answer

theorem State.Canonical.dropOp {s : State} (h : s.Canonical) {o} : (s.dropOp o).Canonical := by
  unfold State.dropOp
  exact h.setFabric

theorem State.Canonical.putOp {s : State} (h : s.Canonical) {o} : (s.putOp o).Canonical := by
  unfold State.putOp
  exact h.setFabric

theorem State.Canonical.somePart {s : State} (h : s.Canonical) {m} : (s.somePart m).1.Canonical := by
  unfold State.somePart
  exact h

theorem State.Canonical.layPull {s : State} (h : s.Canonical) {o status ent} : (s.layPull o status ent).1.Canonical := by
  unfold State.layPull
  split
  · extract_lets m
    split
    next t q heq =>
    have ht : t.Canonical := by
      refine State.Canonical.of_fst heq ?_
      split
      · exact h.somePart
      · exact h
    exact ht.layDown
  · exact h

theorem State.Canonical.endOp {s : State} (h : s.Canonical) {o status} : (s.endOp o status).Canonical := by
  unfold State.endOp
  refine h.dropOp.onPusher fun t ht => ?_
  split
  · exact ht
  · split
    next u ent n heq =>
    have hu : u.Canonical := by
      refine State.Canonical.of_fst heq ?_
      split
      · exact ht
      · exact ht.layPull
    exact hu.answered.ite hu.answered.modBank

theorem State.Canonical.settlePull {s : State} (h : s.Canonical) {o} : (s.settlePull o).Canonical := by
  unfold State.settlePull
  exact h.endOp.ite h.putOp

theorem State.Canonical.loseModule {s : State} (h : s.Canonical) {j bad} : (s.loseModule j bad).Canonical := by
  unfold State.loseModule
  extract_lets s1 s2
  have hs1 : s1.Canonical := h.setFabric
  have hs2 : s2.Canonical := State.Canonical.foldl (fun _ _ h1 => h1.endOp) hs1
  exact State.Canonical.foldl (fun _ _ h1 => h1.bumpPush.dropPush) hs2

theorem execModuleUnreachable_canonical {s : State} (h : s.Canonical) {m} : Goes (execModuleUnreachable m s) := by
  unfold execModuleUnreachable
  exact Goes.next h.loseModule

theorem State.Canonical.loseLane {s : State} (h : s.Canonical) {port} : (s.loseLane port).Canonical := by
  unfold State.loseLane
  exact h.setFabric

theorem execOdsogaLaneLoss_canonical {s : State} (h : s.Canonical) {port} : Goes (execOdsogaLaneLoss port s) := by
  unfold execOdsogaLaneLoss
  exact Goes.next (h.loseLane.ite h)

theorem State.Canonical.newEpoch {s : State} (h : s.Canonical) : s.newEpoch.Canonical := by
  unfold State.newEpoch
  extract_lets e s1
  have hs1 : s1.Canonical := h.setFabric
  exact State.Canonical.foldl (fun _ _ h1 => h1.sendSched) hs1

theorem execModuleJoinsDomain_canonical {s : State} (h : s.Canonical) : Goes (execModuleJoinsDomain s) := by
  unfold execModuleJoinsDomain
  exact Goes.next (State.Canonical.newEpoch (State.Canonical.foldl (fun _ _ ht => State.Canonical.putPush ht.bumpPush) h))

end Sys2Proof.Machine

end

section
/-! The canonical form of the memories: requests of the host keep it. -/

namespace Sys2Proof.Machine

theorem mailbox_canonical {s : State} (h : s.Canonical) {code ag act} (hact : ∀ (a : State), a.Canonical → (act a).1.Canonical) :
    Goes (mailbox code ag s act) := by
  unfold mailbox
  exact Goes.next (h.ite ((hact _ h).answerMail))

theorem ofAsid_canonical {s : State} (h : s.Canonical) {a gen act} (hact : act.1.Canonical) : (ofAsid s a gen act).1.Canonical := by
  unfold ofAsid
  split
  · exact hact
  · exact h

theorem State.Canonical.clearSelectors {s : State} (h : s.Canonical) {a} : (s.clearSelectors a).Canonical := by
  unfold State.clearSelectors
  exact h

theorem execAsidCreate_canonical {s : State} (h : s.Canonical) {asid gen ringBase ringK} : Goes (execAsidCreate asid gen ringBase ringK s) := by
  unfold execAsidCreate
  refine mailbox_canonical h ?_
  intro a1 h1
  extract_lets a
  split
  · exact h1
  · split
    · exact h1
    · exact h1.clearSelectors.modAsid

theorem State.Canonical.disableQueue {s : State} (h : s.Canonical) {q} : (s.disableQueue q).Canonical := by
  unfold State.disableQueue
  extract_lets src src1 s1
  have hs1 : s1.Canonical := h
  split
  · exact hs1.discardRun
  · exact hs1

theorem State.Canonical.unplace {s : State} (h : s.Canonical) {k} : (s.unplace k).Canonical := by
  unfold State.unplace
  split
  · exact h.leaveBank.modCell rfl
  · exact h

theorem State.Canonical.endAllSuspended {s : State} (h : s.Canonical) {k mine cause tval} : (s.endAllSuspended k mine cause tval).Canonical := by
  unfold State.endAllSuspended
  exact State.Canonical.foldl (fun _ _ h1 => h1.endSuspended) h

theorem execAsidRetire_canonical {s : State} (h : s.Canonical) {asid gen} : Goes (execAsidRetire asid gen s) := by
  unfold execAsidRetire
  extract_lets mine
  refine mailbox_canonical h ?_
  intro a1 h1
  extract_lets qs s1 s2 src s3 s4 s5 s6 s7 s8
  have hs1 : s1.Canonical := State.Canonical.foldl (fun _ _ h2 => h2.disableQueue) h1
  have hs2 : s2.Canonical := by
    unfold s2
    refine State.Canonical.foldl ?_ hs1
    intro t1 a2 h2
    split
    · exact h2.unplace.modNode.ite h2
    · exact h2
  have hs3 : s3.Canonical := hs2
  have hs4 : s4.Canonical := State.Canonical.foldl (fun _ ⟨x, x1⟩ h2 => h2.killTask.ite h2) hs3
  have hs5 : s5.Canonical := State.Canonical.foldl (fun _ ⟨x, x1⟩ h2 => h2.endAllSuspended) hs4
  have hs6 : s6.Canonical := hs5.dropHoldings.clearSelectors
  have hs7 : s7.Canonical := State.Canonical.foldl (fun _ _ h2 => h2.modFox) hs6
  have hs8 : s8.Canonical := hs7.modAsid
  exact ofAsid_canonical h1 hs8.settleAll

theorem State.Canonical.sweepTags {s : State} (h : s.Canonical) {asid} : (s.sweepTags asid).Canonical := by
  unfold State.sweepTags
  exact h.setHost

theorem execAsidSweepComplete_canonical {s : State} (h : s.Canonical) {asid} : Goes (execAsidSweepComplete asid s) := by
  unfold execAsidSweepComplete
  exact Goes.next h.sweepTags.modAsid

theorem execBufAlloc_canonical {s : State} (h : s.Canonical) {asid gen template} : Goes (execBufAlloc asid gen template s) := by
  unfold execBufAlloc
  refine mailbox_canonical h ?_
  intro a1 h1
  split
  next x t st h2 heq =>
    have ht := State.Canonical.of_fst heq h1.alloc
    extract_lets w
    split
    · exact ofAsid_canonical h1 ht.hold
    · exact ofAsid_canonical h1 ht

theorem execBufDrop_canonical {s : State} (h : s.Canonical) {asid gen handle} : Goes (execBufDrop asid gen handle s) := by
  unfold execBufDrop
  refine mailbox_canonical h ?_
  intro a1 h1
  split
  · exact ofAsid_canonical h1 h1.unhold
  · exact ofAsid_canonical h1 h1

theorem execMap_canonical {s : State} (h : s.Canonical) {w asid gen handle off rights} : Goes (execMap w asid gen handle off rights s) := by
  unfold execMap
  refine mailbox_canonical h ?_
  intro a1 h1
  split
  · exact ofAsid_canonical h1 h1
  · split
    · exact ofAsid_canonical h1 h1
    · exact ofAsid_canonical h1 h1.setHost

theorem execUnmap_canonical {s : State} (h : s.Canonical) {w} : Goes (execUnmap w s) := by
  unfold execUnmap
  refine mailbox_canonical h ?_
  intro a1 h1
  split
  · exact h1
  · exact h1.setHost

theorem State.Canonical.publishHost {s : State} (h : s.Canonical) {asid l} : (s.publishHost asid l).Canonical := by
  unfold State.publishHost
  exact State.Canonical.foldl (fun _ ⟨x, x1⟩ h1 => h1.ite h1.homePut.modBuf.cacheTouch) h

theorem execSync_canonical {s : State} (h : s.Canonical) {asid gen} : Goes (execSync asid gen s) := by
  unfold execSync
  refine mailbox_canonical h ?_
  intro a1 h1
  extract_lets mine s1 hs s2
  have hs1 : s1.Canonical := h1.publishHost
  have hs2 : s2.Canonical := State.Canonical.foldl (fun _ _ h2 => h2.bumpVersion) hs1
  exact ofAsid_canonical h1 hs2.setHost

theorem execQueueCfg_canonical {s : State} (h : s.Canonical) {q w0 w1} : Goes (execQueueCfg q w0 w1 s) := by
  unfold execQueueCfg
  refine mailbox_canonical h ?_
  intro a1 h1
  extract_lets old on new moved s1 s2 s3 src
  have hs1 : s1.Canonical := by
    unfold s1
    split
    · split
      · exact h1.discardRun
      · exact h1
    · exact h1
  have hs2 : s2.Canonical := hs1.modFox.ite hs1
  have hs3 : s3.Canonical := hs2.dropHoldings.ite hs2
  split
  · exact h1
  · exact hs3

theorem execSubmit_canonical {s : State} (h : s.Canonical) {q asid gen record} : Goes (execSubmit q asid gen record s) := by
  unfold execSubmit
  exact Goes.next (h.ite h)

theorem execQuota_canonical {s : State} (h : s.Canonical) {o granules} : Goes (execQuota o granules s) := by
  unfold execQuota
  exact mailbox_canonical h (fun _ h1 => ofAsid_canonical h1 h1.modAsid)

theorem execRemoteExport_canonical {s : State} (h : s.Canonical) {asid gen handle base limit rights} :
    Goes (execRemoteExport asid gen handle base limit rights s) := by
  unfold execRemoteExport
  refine mailbox_canonical h ?_
  intro a1 h1
  split
  · exact ofAsid_canonical h1 h1
  · split
    · exact ofAsid_canonical h1 h1
    · split
      · exact ofAsid_canonical h1 h1
      · exact ofAsid_canonical h1 h1.setFabric

theorem execRemoteImport_canonical {s : State} (h : s.Canonical) {asid gen target module epoch base limit rights desc} :
    Goes (execRemoteImport asid gen target module epoch base limit rights desc s) := by
  unfold execRemoteImport
  refine mailbox_canonical h ?_
  intro a1 h1
  extract_lets stale r
  split
  · exact ofAsid_canonical h1 h1.bump
  · extract_lets h2 s1
    have hs1 : s1.Canonical := h1.bump.setFabric
    exact ofAsid_canonical h1 hs1.hold

theorem State.Canonical.takeOff {s : State} (h : s.Canonical) {d st} : (s.takeOff d st).Canonical := by
  unfold State.takeOff
  exact (State.Canonical.foldl (fun _ _ h1 => h1.discardRun) h).modDie

theorem State.Canonical.planMoves {s : State} (h : s.Canonical) {i a} : (s.planMoves i a).1.Canonical := by
  induction a generalizing s with
  | nil => exact h
  | cons b hs ih =>
    unfold State.planMoves
    split
    · exact ih h
    · split
      · exact ih h
      · split
        · exact ih h.modBuf
        · exact ih h

theorem State.Canonical.loseBuf {s : State} (h : s.Canonical) {h1} : (s.loseBuf h1).Canonical := by
  unfold State.loseBuf
  extract_lets s1
  have hs1 : s1.Canonical := h.modBuf
  exact State.Canonical.foldl (fun _ ⟨x, x1⟩ h2 => h2.deviceRecord) hs1

theorem State.Canonical.beginCopies {s : State} (h : s.Canonical) {i} : (s.beginCopies i).Canonical := by
  unfold State.beginCopies
  exact State.Canonical.foldl (fun _ _ h1 => h1.ite h1.modBuf) h

theorem State.Canonical.moveBuf {s : State} (h : s.Canonical) {h1} : (s.moveBuf h1).Canonical := by
  unfold State.moveBuf
  exact h.modBuf

theorem State.Canonical.clearStack {s : State} (h : s.Canonical) {i} : (s.clearStack i).Canonical := by
  unfold State.clearStack
  exact (State.Canonical.foldl (fun _ _ h1 => h1.loseBuf) h.planMoves).beginCopies

theorem execDieOffline_canonical {s : State} (h : s.Canonical) {slot force} : Goes (execDieOffline slot force s) := by
  unfold execDieOffline
  extract_lets i
  refine mailbox_canonical h ?_
  intro a1 h1
  extract_lets cls t
  have ht : t.Canonical := h1.takeOff.discUpdate
  split
  · exact h1
  · split
    · exact ht
    · split
      · exact h1
      · exact ht.clearStack

theorem execDieOfflineComplete_canonical {s : State} (h : s.Canonical) {slot} : Goes (execDieOfflineComplete slot s) := by
  unfold execDieOfflineComplete
  exact Goes.next (h.modDie.discCaused.ite h)

theorem execEvacuationComplete_canonical {s : State} (h : s.Canonical) {slot} : Goes (execEvacuationComplete slot s) := by
  unfold execEvacuationComplete
  extract_lets i moving s1
  have hs1 : s1.Canonical := (State.Canonical.foldl (fun _ _ h1 => h1.moveBuf) h).beginCopies
  exact Goes.next ((hs1.modDie.discCaused.ite hs1).ite h)

theorem execDieOnline_canonical {s : State} (h : s.Canonical) {slot} : Goes (execDieOnline slot s) := by
  unfold execDieOnline
  refine mailbox_canonical h ?_
  intro a1 h1
  split
  · exact h1
  · exact h1.modDie.discUpdate

theorem execReadDesc_canonical {s : State} (h : s.Canonical) {oh} : Goes (execReadDesc oh s) := by
  unfold execReadDesc
  refine mailbox_canonical h ?_
  intro a1 h1
  split
  · exact ofAsid_canonical h1 h1
  · exact ofAsid_canonical h1 h1

theorem execFoxRead_canonical {s : State} (h : s.Canonical) {q o} : Goes (execFoxRead q o s) := by
  unfold execFoxRead
  refine mailbox_canonical h ?_
  intro a1 h1
  extract_lets a
  split
  · exact ofAsid_canonical h1 h1
  · exact ofAsid_canonical h1 h1.modAsid

theorem execMailboxUnknownCode_canonical {s : State} (h : s.Canonical) {code} : Goes (execMailboxUnknownCode code s) := by
  unfold execMailboxUnknownCode
  exact Goes.ite (Goes.next h) (mailbox_canonical h (fun _ h1 => h1))

end Sys2Proof.Machine

end

section
/-! The canonical form of the memories: system instructions keep it. -/

namespace Sys2Proof.Machine

theorem State.Canonical.spdmAnswer {s : State} (h : s.Canonical) {req} : (s.spdmAnswer req).1.Canonical := by
  unfold State.spdmAnswer
  extract_lets code
  split
  · exact h
  · split
    · exact h.bump
    · split
      · exact h
      · exact h.bump

theorem State.Canonical.areaLoad {s : State} (h : s.Canonical) {k a p n} : (s.areaLoad k a p n).1.Canonical := by
  unfold State.areaLoad
  exact h.cacheKind.loadBytes

theorem State.Canonical.areaStore {s : State} (h : s.Canonical) {k a bs} : (s.areaStore k a bs).Canonical := by
  unfold State.areaStore
  exact h.cacheKind.storeBytes

theorem execTrap_canonical {s : State} (h : s.Canonical) {f} : Goes (execTrap f s) := by
  unfold execTrap
  exact guarded_canonical h Yields.error

theorem execEret_canonical {s : State} (h : s.Canonical) {f} : Goes (execEret f s) := by
  unfold execEret
  refine Goes.next ?_
  split
  · split
    · exact h.putCore
    · exact h.stopped
  · exact h.squash

theorem ecall_canonical {s : State} (h : s.Canonical) {f reply} : Goes (ecall f s reply) := by
  unfold ecall
  exact onCore_canonical h

theorem execEcallTime_canonical {s : State} (h : s.Canonical) {f} : Goes (execEcallTime f s) := by
  unfold execEcallTime
  exact ecall_canonical h

theorem execEcallErrorCount_canonical {s : State} (h : s.Canonical) {f} : Goes (execEcallErrorCount f s) := by
  unfold execEcallErrorCount
  exact ecall_canonical h

theorem execEcallLocation_canonical {s : State} (h : s.Canonical) {f} : Goes (execEcallLocation f s) := by
  unfold execEcallLocation
  exact ecall_canonical h

theorem execEcallDiscovery_canonical {s : State} (h : s.Canonical) {f} : Goes (execEcallDiscovery f s) := by
  unfold execEcallDiscovery
  exact ecall_canonical h

theorem execEcallUnsupported_canonical {s : State} (h : s.Canonical) {f} : Goes (execEcallUnsupported f s) := by
  unfold execEcallUnsupported
  exact ecall_canonical h

theorem execCtxsave_canonical {s : State} (h : s.Canonical) {f} : Goes (execCtxsave f s) := by
  unfold execCtxsave
  refine guarded_canonical h ?_
  extract_lets k s1 ws a
  have hs1 : s1.Canonical := h.putCore
  exact Yields.bind_any (fun _ => Yields.bind_any (fun _ => Yields.pure hs1.areaStore))

theorem execCtxload_canonical {s : State} (h : s.Canonical) {f} : Goes (execCtxload f s) := by
  unfold execCtxload
  refine guarded_canonical h ?_
  extract_lets k s1 a
  have hs1 : s1.Canonical := h.putCore
  refine Yields.bind_any ?_
  intro b1
  refine Yields.bind_any ?_
  intro b2
  refine Yields.bind_any ?_
  intro b3
  extract_lets s2
  have hs2 : s2.Canonical := hs1.cacheKind.settle
  split
  next x t bs bad heq =>
    have ht := State.Canonical.of_fst heq hs1.areaLoad
    extract_lets ws jp
    have hjp : ∀ (x : Unit), Yields (jp x) State.Canonical := by
      intro x1
      unfold jp
      split
      · exact Yields.error
      · exact Yields.pure ht.readArea
    split
    · refine Yields.bind_any ?_
      intro b4
      unfold jp
      split
      · exact Yields.error
      · exact Yields.pure ht.readArea
    · unfold jp
      split
      · exact Yields.error
      · exact Yields.pure ht.readArea

theorem execLeaseq_canonical {s : State} (h : s.Canonical) {f} : Goes (execLeaseq f s) := by
  unfold execLeaseq
  exact onCore_canonical h

theorem State.Canonical.secDone {s : State} (h : s.Canonical) {f status low} : Yields (s.secDone f status low) State.Canonical := by
  unfold State.secDone
  exact Yields.bind_any (fun _ => Yields.pure h.putCore)

theorem execSechash_canonical {s : State} (h : s.Canonical) {f} : Goes (execSechash f s) := by
  unfold execSechash
  refine guarded_canonical h ?_
  extract_lets k am ag n
  refine Yields.bind_any ?_
  intro b1
  refine Yields.bind_any ?_
  intro b2
  refine Yields.bind_any ?_
  intro b3
  split
  next x t bs bad heq =>
    have ht := State.Canonical.of_fst heq h.areaLoad
    exact Yields.ite ht.secDone (Yields.ite ht.secDone ht.areaStore.secDone)

theorem State.Canonical.slotVerified {s : State} (h : s.Canonical) {a key image} : (s.slotVerified a key image).Canonical := by
  unfold State.slotVerified
  extract_lets hit d src
  split
  · split
    · exact h
    · split
      · exact h
      · exact h
  · exact h

theorem execSecver_canonical {s : State} (h : s.Canonical) {f} : Goes (execSecver f s) := by
  unfold execSecver
  refine guarded_canonical h ?_
  extract_lets k ao ak p
  refine Yields.bind_any ?_
  intro b1
  refine Yields.bind_any ?_
  intro b2
  refine Yields.bind_any ?_
  intro b3
  split
  next x t bs bad heq =>
    have ht := State.Canonical.of_fst heq h.areaLoad
    extract_lets l
    split
    next x1 t1 bs1 bad1 heq1 =>
      have ht1 := State.Canonical.of_fst heq1 ht.areaLoad
      split
      · exact ht1.secDone
      · split
        · exact ht1.secDone
        · refine Yields.bind_any ?_
          intro b4
          split
          next x2 t2 bs2 bad2 heq4 =>
            have ht2 := State.Canonical.of_fst heq4 ht1.areaLoad
            exact Yields.ite ht2.secDone (Yields.ite ht2.slotVerified.secDone ht2.secDone)

theorem execSecmeas_canonical {s : State} (h : s.Canonical) {f} : Goes (execSecmeas f s) := by
  unfold execSecmeas
  refine guarded_canonical h ?_
  extract_lets k am
  refine Yields.bind_any ?_
  intro b1
  refine Yields.bind_any ?_
  intro b2
  refine Yields.bind_any ?_
  intro b3
  split
  next x t bs bad heq =>
    have ht := State.Canonical.of_fst heq h.areaLoad
    exact Yields.ite ht.secDone (Yields.ite ht.secDone ht.extend.secDone)

theorem execSecatt_canonical {s : State} (h : s.Canonical) {f} : Goes (execSecatt f s) := by
  unfold execSecatt
  refine guarded_canonical h (Yields.bind_any fun _ => Yields.bind_any fun _ => ?_)
  extract_lets k aq ar
  refine Yields.bind_any fun _ => ?_
  have hload := h.areaLoad (k := k) (a := aq) (p := aq.ptr.toNat) (n := aq.room)
  generalize s.areaLoad k aq aq.ptr.toNat aq.room = x at hload ⊢
  obtain ⟨t, req, bad⟩ := x
  refine Yields.ite hload.secDone ?_
  have hans := State.Canonical.spdmAnswer (s := t) hload (req := req)
  generalize t.spdmAnswer req = y at hans ⊢
  obtain ⟨u, answer⟩ := y
  exact Yields.bind_any fun _ => Yields.ite hans.secDone hans.areaStore.secDone

theorem execWdpet_canonical {s : State} (h : s.Canonical) {f} : Goes (execWdpet f s) := by
  unfold execWdpet
  exact Goes.ite (Goes.next h.rollback) (guarded_canonical h (Yields.bind_any (fun _ => Yields.pure h.wdpet)))

theorem execBblog_canonical {s : State} (h : s.Canonical) {f} : Goes (execBblog f s) := by
  unfold execBblog
  refine guarded_canonical h ?_
  extract_lets b own jp
  have hjp : ∀ (x : Unit), Yields (jp x) State.Canonical := fun _ => Yields.bind_any (fun _ => Yields.bind_any (fun _ => Yields.pure h.logRec))
  split
  · refine Yields.bind_any ?_
    intro b1
    unfold jp
    refine Yields.bind_any ?_
    exact fun _ => Yields.bind_any (fun _ => Yields.pure h.logRec)
  · unfold jp
    refine Yields.bind_any ?_
    exact fun _ => Yields.bind_any (fun _ => Yields.pure h.logRec)

end Sys2Proof.Machine

end

section
/-! The canonical form of the memories: boot and resets keep it. -/

namespace Sys2Proof.Machine

theorem State.Canonical.logReset {s : State} (h : s.Canonical) {d code old new cold} : (s.logReset d code old new cold).Canonical := by
  unfold State.logReset
  exact h.logHw

theorem State.Canonical.resetTo {s : State} (h : s.Canonical) {cold} : (s.resetTo cold).Canonical := by
  unfold State.resetTo
  extract_lets t
  have ht : t.Canonical := ⟨rfl, rfl, h.hostMem, fun _ he => absurd he List.not_mem_nil⟩
  split
  · exact ht
  · exact State.Canonical.foldl (fun _ _ hu => hu.logReset) ht

theorem State.Canonical.putSvc {s : State} (h : s.Canonical) {d off bs} : (s.putSvc d off bs).Canonical := by
  unfold State.putSvc
  exact h.of_mem (Mem.wf_write h.mem _ _)

theorem State.Canonical.bootStart {s : State} (h : s.Canonical) : s.bootStart.Canonical := by
  unfold State.bootStart
  extract_lets s1 src a b va vb s2 zero first act src1 src2
  have hs1 : s1.Canonical := h.extend
  have hs2 : s2.Canonical := hs1.putSvc.putSvc
  split
  · exact hs1
  · exact hs2

theorem State.Canonical.startDie {s : State} (h : s.Canonical) {d} : (s.startDie d).Canonical := by
  unfold State.startDie
  extract_lets image s1
  have hs1 : s1.Canonical := h.putSvc.extend
  exact hs1.startFw.petDog

theorem State.Canonical.bootFinish {s : State} (h : s.Canonical) : s.bootFinish.Canonical := by
  unfold State.bootFinish
  extract_lets s1 s2 s3 s4 s5
  have hs1 : s1.Canonical := h.extend
  have hs2 : s2.Canonical := hs1.of_cells fun e he x hx => by
    obtain ⟨k, -, rfl⟩ := List.mem_map.1 he
    exact absurd hx List.not_mem_nil
  have hs3 : s3.Canonical := hs2.startFw.petDog
  have hs4 : s4.Canonical := State.Canonical.foldl (fun _ _ ht => ht.startDie) hs3
  have hs5 : s5.Canonical := State.Canonical.foldl (fun _ _ ht => ht.modDie) hs4
  exact hs5

theorem execBootZeroFillDone_canonical {s : State} (h : s.Canonical) : Goes (execBootZeroFillDone s) := by
  unfold execBootZeroFillDone
  extract_lets s1
  have hs1 : s1.Canonical := h.bootFinish
  exact Goes.next ((State.Canonical.foldl (fun _ _ h1 => h1.sendSched) hs1).ite h)

theorem execColdReset_canonical {s : State} (h : s.Canonical) : Goes (execColdReset s) := by
  unfold execColdReset
  exact Goes.next h.resetTo.bootStart

theorem execWarmReset_canonical {s : State} (h : s.Canonical) : Goes (execWarmReset s) := by
  unfold execWarmReset
  exact Goes.next (h.ite h.resetTo.bootStart)

theorem execReset_canonical {s : State} (h : s.Canonical) {cold} : Goes (execReset cold s) := by
  unfold execReset
  exact Goes.next (h.resetTo.bootStart.ite h)

theorem execLifecycle_canonical {s : State} (h : s.Canonical) {target message signature key} :
    Goes (execLifecycle target message signature key s) := by
  unfold execLifecycle
  refine Goes.next (State.Canonical.ite h ?_)
  split
  · exact h.reply
  · refine State.Canonical.ite (State.Canonical.ite ?_ ?_) h.reply
    · refine State.Canonical.reply ?_
      exact h
    · refine State.Canonical.bootStart (State.Canonical.resetTo (State.Canonical.reply ?_))
      exact h.logReset

theorem spdm_canonical {s : State} (h : s.Canonical) {code req answer} (hanswer : ∀ (a : State), a.Canonical → (answer a).1.Canonical) :
    Goes (spdm code req s answer) := by
  unfold spdm
  exact Goes.next (h.ite ((hanswer _ h).reply))

theorem execGetVersion_canonical {s : State} (h : s.Canonical) {req} : Goes (execGetVersion req s) := by
  unfold execGetVersion
  exact spdm_canonical h (fun _ h1 => h1.bump)

theorem execGetCapabilities_canonical {s : State} (h : s.Canonical) {req} : Goes (execGetCapabilities req s) := by
  unfold execGetCapabilities
  exact spdm_canonical h (fun _ h1 => h1.bump)

theorem execNegotiateAlgorithms_canonical {s : State} (h : s.Canonical) {req} : Goes (execNegotiateAlgorithms req s) := by
  unfold execNegotiateAlgorithms
  exact spdm_canonical h (fun _ h1 => h1)

theorem execGetDigests_canonical {s : State} (h : s.Canonical) {req} : Goes (execGetDigests req s) := by
  unfold execGetDigests
  exact spdm_canonical h (fun _ h1 => h1.bump)

theorem execGetCertificate_canonical {s : State} (h : s.Canonical) {req} : Goes (execGetCertificate req s) := by
  unfold execGetCertificate
  exact spdm_canonical h (fun _ h1 => h1.bump)

theorem execChallenge_canonical {s : State} (h : s.Canonical) {req} : Goes (execChallenge req s) := by
  unfold execChallenge
  exact spdm_canonical h (fun _ h1 => h1.bump)

theorem execGetMeasurements_canonical {s : State} (h : s.Canonical) {req indices} : Goes (execGetMeasurements req indices s) := by
  unfold execGetMeasurements
  exact spdm_canonical h (fun _ h1 => h1.bump)

theorem execSpdmUnsupported_canonical {s : State} (h : s.Canonical) {req} : Goes (execSpdmUnsupported req s) := by
  unfold execSpdmUnsupported
  exact Goes.next (h.ite h.reply)

end Sys2Proof.Machine

end

section
/-! The canonical form of the memories: errors of units keep it. -/

namespace Sys2Proof.Machine

theorem State.Canonical.freeze {s : State} (h : s.Canonical) {d} : (s.freeze d).Canonical := by
  unfold State.freeze
  exact h.modDie

theorem State.Canonical.checkCell {s : State} (h : s.Canonical) {k tval} : (s.checkCell k tval).Canonical := by
  unfold State.checkCell
  extract_lets s1 s2
  have hs1 : s1.Canonical := by
    unfold s1
    split
    · extract_lets js s3 src
      have hs3 : s3.Canonical := State.Canonical.foldl (fun _ _ h1 => h1.unplace.ite h1) h
      exact hs3.discardRun.ite hs3.faultNote.modNode
    · exact h
  have hs2 : s2.Canonical := hs1.killTask
  exact hs2.endAllSuspended

theorem State.Canonical.checkCells {s : State} (h : s.Canonical) {p tval} : (s.checkCells p tval).Canonical := by
  unfold State.checkCells
  exact State.Canonical.foldl (fun _ ⟨x, x1⟩ h1 => h1.checkCell) h

theorem State.Canonical.stopFw {s : State} (h : s.Canonical) {d} : (s.stopFw d).Canonical := by
  unfold State.stopFw
  exact h.modCore

theorem State.Canonical.failDie {s : State} (h : s.Canonical) {d} : (s.failDie d).Canonical := by
  unfold State.failDie
  extract_lets cls s1 s2 s3 s4
  have hs1 : s1.Canonical := h.takeOff
  have hs2 : s2.Canonical := ((hs1.discUpdate.ite hs1.discCaused).freeze).stopFw
  have hs3 : s3.Canonical := hs2.checkCells
  have hs4 : s4.Canonical := hs3.clearStack.ite hs3
  exact hs4.checkCells.raiseAer.ite hs4

theorem execDieFailure_canonical {s : State} (h : s.Canonical) {slot} : Goes (execDieFailure slot s) := by
  unfold execDieFailure
  exact Goes.next (h.failDie.ite h)

theorem execWatchdogExpiry_canonical {s : State} (h : s.Canonical) {die} : Goes (execWatchdogExpiry die s) := by
  unfold execWatchdogExpiry
  exact Goes.next ((h.logHw.failDie.ite h.fwFail.modDie).ite h)

theorem execHeartbeatTimeout_canonical {s : State} (h : s.Canonical) : Goes (execHeartbeatTimeout s) := by
  unfold execHeartbeatTimeout
  refine Goes.next ?_
  split
  · exact h.rollback.ite h
  · exact h

theorem execRefreshInterval_canonical {s : State} (h : s.Canonical) {st} : Goes (execRefreshInterval st s) := by
  unfold execRefreshInterval
  extract_lets x beats back s1
  have hs1 : s1.Canonical := h.modStack
  exact Goes.next ((hs1.logHw.ite hs1).ite h)

theorem execRefreshTakeover_canonical {s : State} (h : s.Canonical) {st} : Goes (execRefreshTakeover st s) := by
  unfold execRefreshTakeover
  exact Goes.next (h.ite ((h.modStack.ite h).ite (h.modStack.logHw.ite h)))

theorem execRowActivationThreshold_canonical {s : State} (h : s.Canonical) {st bank row} : Goes (execRowActivationThreshold st bank row s) := by
  unfold execRowActivationThreshold
  exact Goes.next (h.modStack.ite h)

theorem execRfmHoldEnd_canonical {s : State} (h : s.Canonical) {st bank} : Goes (execRfmHoldEnd st bank s) := by
  unfold execRfmHoldEnd
  refine Goes.next ?_
  split
  · exact h.modStack.ite h
  · exact h

theorem State.Canonical.fenceSub {s : State} (h : s.Canonical) {k i} : (s.fenceSub k i).Canonical := by
  unfold State.fenceSub
  exact h.modDie.discCaused

theorem State.Canonical.repairRow {s : State} (h : s.Canonical) {st bank row} : (s.repairRow st bank row).Canonical := by
  unfold State.repairRow
  extract_lets s1 hit
  have hs1 : s1.Canonical := h.modStack
  exact h.modStack.ite hs1.planMoves.beginCopies

theorem State.Canonical.logUnit {s : State} (h : s.Canonical) {d code u w7} : (s.logUnit d code u w7).Canonical := by
  unfold State.logUnit
  exact h.logHw

theorem State.Canonical.repair {s : State} (h : s.Canonical) {u} : (s.repair u).Canonical := by
  unfold State.repair
  extract_lets d s1 act s2
  have hs1 : s1.Canonical := h.modDie
  have hs2 : s2.Canonical := hs1.logUnit
  split
  · exact h
  · split
    · exact hs2.fenceSub
    · exact hs2.repairRow
    · exact hs2.loseLane
    · exact hs2.modLink
    · exact hs2.retireCell

theorem State.Canonical.countError {s : State} (h : s.Canonical) {u} : (s.countError u).1.Canonical := by
  unfold State.countError
  extract_lets d s1
  have hs1 : s1.Canonical := h.modDie
  exact hs1

theorem State.Canonical.corrected {s : State} (h : s.Canonical) {u} : (s.corrected u).Canonical := by
  unfold State.corrected
  split
  next x t w heq =>
    have ht := State.Canonical.of_fst heq h.countError
    extract_lets s1 s2
    have hs1 : s1.Canonical := by
      unfold s1
      split
      · exact ht.modCell rfl
      · exact ht
    have hs2 : s2.Canonical := hs1.logUnit
    exact hs2.repair.ite hs2

theorem execCorrectableError_canonical {s : State} (h : s.Canonical) {u} : Goes (execCorrectableError u s) := by
  unfold execCorrectableError
  exact Goes.next h.corrected

theorem execFlitCrcReplay_canonical {s : State} (h : s.Canonical) {link f} : Goes (execFlitCrcReplay link f s) := by
  unfold execFlitCrcReplay
  exact Goes.next (h.ite h.modLink.send.corrected)

theorem State.Canonical.flagAt {s : State} (h : s.Canonical) {a} : (s.flagAt a).Canonical := by
  unfold State.flagAt
  exact h

theorem State.Canonical.flagHome {s : State} (h : s.Canonical) {h1 granule} : (s.flagHome h1 granule).Canonical := by
  unfold State.flagHome
  exact h.of_cells (h.mapCells fun e => ⟨rfl, fun x hx => by
    obtain ⟨y, hy, rfl⟩ := List.mem_map.1 hx
    exact ⟨y, hy, rfl⟩⟩)

theorem State.Canonical.machineCheck {s : State} (h : s.Canonical) {k c code} : (s.machineCheck k c code).Canonical := by
  unfold State.machineCheck
  exact h.ite (h.freeze.takeTrap.ite h.endTask)

theorem State.Canonical.strike {s : State} (h : s.Canonical) {p} : (s.strike p).Canonical := by
  unfold State.strike
  split
  · exact h.ite h.modCore
  · exact h.flagAt
  · exact h.flagAt
  · exact h.flagAt
  · exact (h.modCell rfl).ite h
  · exact h.machineCheck
  · exact h.flagHome
  · exact h

theorem execUncorrectableError_canonical {s : State} (h : s.Canonical) {p} : Goes (execUncorrectableError p s) := by
  unfold execUncorrectableError
  exact Goes.next h.modDie.logUnit.strike.repair

end Sys2Proof.Machine

end

section
/-! The canonical form of the memories: messages of the fabric keep it. -/

namespace Sys2Proof.Machine

theorem State.Canonical.badMsg {s : State} (h : s.Canonical) : s.badMsg.Canonical := by
  unfold State.badMsg
  refine State.Canonical.corrected (State.Canonical.send ?_)
  exact h

theorem State.Canonical.receive {s : State} (h : s.Canonical) {ty m act} (hact : ∀ (a : State), a.Canonical → (act a).Canonical) :
    (s.receive ty m act).Canonical := by
  unfold State.receive
  exact h.ite (h.badMsg.ite ((hact _ h).ite h))

theorem execPushData_canonical {s : State} (h : s.Canonical) {m} : Goes (execPushData m s) := by
  unfold execPushData
  refine Goes.next (h.receive fun t ht => ?_)
  extract_lets p q n u r last
  have hu : u.Canonical := ht.homePut.modBuf.cacheTouch
  refine State.Canonical.ite ht.settlePush (State.Canonical.ite ht.settlePush (State.Canonical.ite ht.refuse.settlePush ?_))
  split
  next v w heq =>
    refine (State.Canonical.of_fst heq ?_).settlePush
    split
    · exact hu.bumpPush
    · exact hu

theorem execPushDone_canonical {s : State} (h : s.Canonical) {m} : Goes (execPushDone m s) := by
  unfold execPushDone
  exact Goes.next (h.receive fun t ht => ht.settlePush.ite (ht.refuse.settlePush.ite ht.settlePush))

theorem execPullReq_canonical {s : State} (h : s.Canonical) {m} : Goes (execPullReq m s) := by
  unfold execPullReq
  extract_lets n
  refine Goes.next ?_
  refine h.receive ?_
  intro a1 h1
  extract_lets c bs s1 cs s2 s3
  have hs1 : s1.Canonical := h1.noteHome
  have hs2 : s2.Canonical := hs1.cacheTouch
  have hs3 : s3.Canonical := State.Canonical.foldl (fun _ ⟨x, x1⟩ h2 => h2.answer) hs2
  exact h1.answer.ite (h1.answer.ite hs3.answer)

theorem execPushAck_canonical {s : State} (h : s.Canonical) {m} : Goes (execPushAck m s) := by
  unfold execPushAck
  refine Goes.next ?_
  refine h.receive ?_
  intro a1 h1
  split
  · exact h1.endOp
  · exact h1

theorem execPullData_canonical {s : State} (h : s.Canonical) {m} : Goes (execPullData m s) := by
  unfold execPullData
  refine Goes.next ?_
  refine h.receive ?_
  intro a1 h1
  split
  · exact h1.settlePull
  · exact h1

theorem execPullDone_canonical {s : State} (h : s.Canonical) {m} : Goes (execPullDone m s) := by
  unfold execPullDone
  refine Goes.next ?_
  refine h.receive ?_
  intro a1 h1
  split
  · exact h1.settlePull
  · exact h1

theorem execEpoch_canonical {s : State} (h : s.Canonical) {m} : Goes (execEpoch m s) := by
  unfold execEpoch
  extract_lets e
  refine Goes.next ?_
  refine h.receive ?_
  intro a1 h1
  extract_lets s1
  have hs1 : s1.Canonical := h1.setFabric
  exact hs1.loseModule

theorem execOdsogaUnknownType_canonical {s : State} (h : s.Canonical) {m} : Goes (execOdsogaUnknownType m s) := by
  unfold execOdsogaUnknownType
  exact Goes.next (h.ite (h.badMsg.ite (h.ite h.setFabric)))

end Sys2Proof.Machine

end

section
/-! The canonical form of the memories: power and temperature keep it. -/

namespace Sys2Proof.Machine

theorem State.Canonical.modIsland {s : State} (h : s.Canonical) {i f} : (s.modIsland i f).Canonical := by
  unfold State.modIsland
  exact h

theorem State.Canonical.sense {s : State} (h : s.Canonical) {i} : (s.sense i).Canonical := by
  unfold State.sense
  exact h.bump.bump.bump.modIsland

theorem manage_canonical {s : State} (h : s.Canonical) {f} (hf : ∀ (a : State), a.Canonical → (f a).1.Canonical) : Goes (manage s f) := by
  unfold manage
  exact Goes.next (((hf _ h).reply).ite h)

theorem execRingRead_canonical {s : State} (h : s.Canonical) {d} : Goes (execRingRead d s) := by
  unfold execRingRead
  refine manage_canonical h ?_
  intro a1 h1
  split
  · exact h1
  · exact h1

theorem execRingRelease_canonical {s : State} (h : s.Canonical) {d} : Goes (execRingRelease d s) := by
  unfold execRingRelease
  refine manage_canonical h ?_
  intro a1 h1
  split
  · exact h1
  · exact h1.modDie

theorem execIslandRead_canonical {s : State} (h : s.Canonical) {i} : Goes (execIslandRead i s) := by
  unfold execIslandRead
  refine manage_canonical h ?_
  intro a1 h1
  extract_lets s1
  have hs1 : s1.Canonical := h1.sense
  split
  · exact hs1
  · exact h1

theorem execPkgRead_canonical {s : State} (h : s.Canonical) : Goes (execPkgRead s) := by
  unfold execPkgRead
  refine manage_canonical h ?_
  intro a1 h1
  extract_lets src src1 t
  have hsrc : src.Canonical := h1.bump
  have ht : t.Canonical := hsrc
  exact ht

theorem execPkgSet_canonical {s : State} (h : s.Canonical) {w} : Goes (execPkgSet w s) := by
  unfold execPkgSet
  extract_lets v
  refine manage_canonical h ?_
  intro a1 h1
  extract_lets src
  split
  · exact h1
  · exact h1

theorem execLimitSet_canonical {s : State} (h : s.Canonical) {i mhz} : Goes (execLimitSet i mhz s) := by
  unfold execLimitSet
  refine manage_canonical h ?_
  intro a1 h1
  split
  · exact h1.modIsland
  · exact h1

theorem execDiscRead_canonical {s : State} (h : s.Canonical) {index} : Goes (execDiscRead index s) := by
  unfold execDiscRead
  refine manage_canonical h ?_
  intro a1 h1
  split
  · exact h1
  · exact h1

theorem execPowerCapTick_canonical {s : State} (h : s.Canonical) {pavg} : Goes (execPowerCapTick pavg s) := by
  unfold execPowerCapTick
  extract_lets src t
  have ht : t.Canonical := h
  exact Goes.next ((State.Canonical.foldl (fun _ _ h1 => h1.modIsland) ht).ite h)

theorem execThermalThrottle_canonical {s : State} (h : s.Canonical) {i temp} : Goes (execThermalThrottle i temp s) := by
  unfold execThermalThrottle
  exact Goes.next (h.modIsland.ite h)

theorem execThermalRelease_canonical {s : State} (h : s.Canonical) {i temp} : Goes (execThermalRelease i temp s) := by
  unfold execThermalRelease
  exact Goes.next (h.modIsland.ite h)

theorem execComputeTrip_canonical {s : State} (h : s.Canonical) {i temp} : Goes (execComputeTrip i temp s) := by
  unfold execComputeTrip
  exact Goes.next (h.modIsland.logUnit.failDie.ite h)

theorem State.Canonical.noteEnd {s : State} (h : s.Canonical) {k b} : (s.noteEnd k b).Canonical := by
  unfold State.noteEnd
  split
  · exact h
  · extract_lets s1
    have hs1 : s1.Canonical := h.faultNote
    split
    · exact hs1.modNode
    · exact hs1

theorem State.Canonical.noteNow {s : State} (h : s.Canonical) {k} : (s.noteNow k).Canonical := by
  unfold State.noteNow
  exact State.Canonical.foldl (fun _ _ h1 => h1.noteEnd) h

theorem State.Canonical.retireFaulted {s : State} (h : s.Canonical) {n} : (s.retireFaulted n).Canonical := by
  unfold State.retireFaulted
  exact h.modNode.retireFaultNode

theorem execIslandTrip_canonical {s : State} (h : s.Canonical) {i temp} : Goes (execIslandTrip i temp s) := by
  unfold execIslandTrip
  refine Goes.next (State.Canonical.ite ?_ h)
  extract_lets s1 s2 s3
  have hs1 : s1.Canonical := h.modIsland.checkCells
  have hs2 : s2.Canonical := State.Canonical.foldl (fun _ _ ht => ht.noteNow) hs1
  have hs3 : s3.Canonical := State.Canonical.foldl (fun _ _ ht => ht.retireFaulted) hs2
  exact hs3.of_cells fun _ he => absurd he List.not_mem_nil

theorem State.Canonical.applySetting {s : State} (h : s.Canonical) {x} : (s.applySetting x).Canonical := by
  unfold State.applySetting
  extract_lets src
  split
  · exact h
  · split
    · exact h.modStack.ite h
    · exact h.modStack.ite h
    · exact h

end Sys2Proof.Machine

end

section
/-! The canonical form of the memories: the dispatch keeps it. -/

namespace Sys2Proof.Machine

theorem exec_canonical {s : State} (h : s.Canonical) {i} : Goes (exec i s) := by
  unfold exec
  split
  · exact execNop_canonical h
  · exact execMov_canonical h
  · exact execMovhi_canonical h
  · exact execAdd_canonical h
  · exact execSub_canonical h
  · exact execMul_canonical h
  · exact execMulh_canonical h
  · exact execMulhu_canonical h
  · exact execDiv_canonical h
  · exact execDivu_canonical h
  · exact execRem_canonical h
  · exact execRemu_canonical h
  · exact execMin_canonical h
  · exact execMax_canonical h
  · exact execMinu_canonical h
  · exact execMaxu_canonical h
  · exact execAbs_canonical h
  · exact execAnd_canonical h
  · exact execOr_canonical h
  · exact execXor_canonical h
  · exact execAndn_canonical h
  · exact execOrn_canonical h
  · exact execLut3_canonical h
  · exact execShl_canonical h
  · exact execShr_canonical h
  · exact execSar_canonical h
  · exact execRol_canonical h
  · exact execFshl_canonical h
  · exact execFshr_canonical h
  · exact execClz_canonical h
  · exact execCtz_canonical h
  · exact execPopc_canonical h
  · exact execSext_canonical h
  · exact execZext_canonical h
  · exact execBfx_canonical h
  · exact execBfxu_canonical h
  · exact execBfi_canonical h
  · exact execSel_canonical h
  · exact execCmpEq_canonical h
  · exact execCmpNe_canonical h
  · exact execCmpLt_canonical h
  · exact execCmpLe_canonical h
  · exact execCmpGt_canonical h
  · exact execCmpGe_canonical h
  · exact execCmpLtu_canonical h
  · exact execCmpLeu_canonical h
  · exact execCmpGtu_canonical h
  · exact execCmpGeu_canonical h
  · exact execTstZ_canonical h
  · exact execTstNz_canonical h
  · exact execPlut_canonical h
  · exact execPget_canonical h
  · exact execPput_canonical h
  · exact execFadd_canonical h
  · exact execFsub_canonical h
  · exact execFmul_canonical h
  · exact execFfma_canonical h
  · exact execFmin_canonical h
  · exact execFmax_canonical h
  · exact execFcvtIf_canonical h
  · exact execFcvtFi_canonical h
  · exact execFcmpEq_canonical h
  · exact execFcmpLt_canonical h
  · exact execFcmpLe_canonical h
  · exact execFcmpUn_canonical h
  · exact execAcap_canonical h
  · exact execAmov_canonical h
  · exact execAset_canonical h
  · exact execAadd_canonical h
  · exact execAnrw_canonical h
  · exact execAget_canonical h
  · exact execLd_canonical h
  · exact execLdu_canonical h
  · exact execSt_canonical h
  · exact execLds_canonical h
  · exact execPchk_canonical h
  · exact execLdpf_canonical h
  · exact execBr_canonical h
  · exact execBrx_canonical h
  · exact execCall_canonical h
  · exact execRet_canonical h
  · exact execMloop_canonical h
  · exact execBrlc_canonical h
  · exact execRbset_canonical h
  · exact execSemsig_canonical h
  · exact execSemwait_canonical h
  · exact execSemtry_canonical h
  · exact execMtxlock_canonical h
  · exact execMtxtry_canonical h
  · exact execMtxfree_canonical h
  · exact execXempty_canonical h
  · exact execXfullq_canonical h
  · exact execEqdrain_canonical h
  · exact execEqlevel_canonical h
  · exact execMfs_canonical h
  · exact execMts_canonical h
  · exact execCwbind_canonical h
  · exact execWaitwp_canonical h
  · exact execDone_canonical h
  · exact execPause_canonical h
  · exact execVmov_canonical h
  · exact execVsplatV_canonical h
  · exact execVsplatSlot_canonical h
  · exact execVzero_canonical h
  · exact execVtag_canonical h
  · exact execVadd_canonical h
  · exact execVsub_canonical h
  · exact execVmul_canonical h
  · exact execVfma_canonical h
  · exact execVfms_canonical h
  · exact execVfnma_canonical h
  · exact execVdiv_canonical h
  · exact execVmin_canonical h
  · exact execVmax_canonical h
  · exact execVabs_canonical h
  · exact execVneg_canonical h
  · exact execVclamp_canonical h
  · exact execVsgn_canonical h
  · exact execVround_canonical h
  · exact execVrsq_canonical h
  · exact execVrcp_canonical h
  · exact execVexp2_canonical h
  · exact execVlog2_canonical h
  · exact execVactRelu_canonical h
  · exact execVactGelu_canonical h
  · exact execVactSilu_canonical h
  · exact execVactTanh_canonical h
  · exact execVactSigm_canonical h
  · exact execVdot4_canonical h
  · exact execVand_canonical h
  · exact execVor_canonical h
  · exact execVxor_canonical h
  · exact execVlut3_canonical h
  · exact execVshl_canonical h
  · exact execVshr_canonical h
  · exact execVsar_canonical h
  · exact execVfshl_canonical h
  · exact execVfshr_canonical h
  · exact execVpopc_canonical h
  · exact execVclz_canonical h
  · exact execVcmpEq_canonical h
  · exact execVcmpNe_canonical h
  · exact execVcmpLt_canonical h
  · exact execVcmpLe_canonical h
  · exact execVcmpGt_canonical h
  · exact execVcmpGe_canonical h
  · exact execVcmpUn_canonical h
  · exact execVclass_canonical h
  · exact execVsel_canonical h
  · exact execKlut_canonical h
  · exact execKsetp_canonical h
  · exact execKpopc_canonical h
  · exact execKfirst_canonical h
  · exact execVcvt_canonical h
  · exact execVquant_canonical h
  · exact execVdequant_canonical h
  · exact execVmxpack_canonical h
  · exact execVmxunpk_canonical h
  · exact execVredAdd_canonical h
  · exact execVredMax_canonical h
  · exact execVredMin_canonical h
  · exact execVscanAdd_canonical h
  · exact execVperm_canonical h
  · exact execVrot_canonical h
  · exact execVzip_canonical h
  · exact execVunzip_canonical h
  · exact execVcompress_canonical h
  · exact execVexpand_canonical h
  · exact execVgetl_canonical h
  · exact execVsetl_canonical h
  · exact execVld_canonical h
  · exact execVlds_canonical h
  · exact execVldx_canonical h
  · exact execVldsp_canonical h
  · exact execVst_canonical h
  · exact execVsts_canonical h
  · exact execVstx_canonical h
  · exact execQcfg_canonical h
  · exact execQloop_canonical h
  · exact execQreset_canonical h
  · exact execVpchk_canonical h
  · exact execMma_canonical h
  · exact execMmaz_canonical h
  · exact execMmat_canonical h
  · exact execMmaq_canonical h
  · exact execMmamx_canonical h
  · exact execMmast_canonical h
  · exact execMmac_canonical h
  · exact execMmacz_canonical h
  · exact execTzero_canonical h
  · exact execTload_canonical h
  · exact execTstore_canonical h
  · exact execTstoreq_canonical h
  · exact execTstoremx_canonical h
  · exact execTbias_canonical h
  · exact execTscale_canonical h
  · exact execTact_canonical h
  · exact execTredr_canonical h
  · exact execTredc_canonical h
  · exact execTtrans_canonical h
  · exact execTtov_canonical h
  · exact execTfromv_canonical h
  · exact execTclamp_canonical h
  · exact execMcast_canonical h
  · exact execMcwait_canonical h
  · exact execMcfgKset_canonical h
  · exact execMcfgKput_canonical h
  · exact execMcfgKlut_canonical h
  · exact execMtest_canonical h
  · exact execMstat_canonical h
  · exact execTcopy_canonical h
  · exact execSpmm_canonical h
  · exact execSpmmz_canonical h
  · exact execSpmmb_canonical h
  · exact execSpmv_canonical h
  · exact execSddmm_canonical h
  · exact execSpgath_canonical h
  · exact execSpscat_canonical h
  · exact execSpseg_canonical h
  · exact execSpisect_canonical h
  · exact execSpunion_canonical h
  · exact execSpcsr_canonical h
  · exact execSpdense_canonical h
  · exact execSptrans_canonical h
  · exact execSpcount_canonical h
  · exact execSpscan_canonical h
  · exact execEmbag_canonical h
  · exact execSpcfg_canonical h
  · exact execSpstat_canonical h
  · exact execSort_canonical h
  · exact execSortkv_canonical h
  · exact execTopk_canonical h
  · exact execTopkv_canonical h
  · exact execMerge_canonical h
  · exact execMergekv_canonical h
  · exact execArgsort_canonical h
  · exact execKth_canonical h
  · exact execUnique_canonical h
  · exact execPartn_canonical h
  · exact execHisto_canonical h
  · exact execSearch_canonical h
  · exact execSrtcfg_canonical h
  · exact execSrtstat_canonical h
  · exact execXcopy_canonical h
  · exact execXcopyw_canonical h
  · exact execXcopyc_canonical h
  · exact execXcopyh_canonical h
  · exact execXfill_canonical h
  · exact execXgath_canonical h
  · exact execXred_canonical h
  · exact execXconv_canonical h
  · exact execXlayout_canonical h
  · exact execXpush_canonical h
  · exact execXpull_canonical h
  · exact execXstream_canonical h
  · exact execXstrend_canonical h
  · exact execXwptr_canonical h
  · exact execXchan_canonical h
  · exact execXchanClose_canonical h
  · exact execXabort_canonical h
  · exact execAmoadd_canonical h
  · exact execAmomax_canonical h
  · exact execAmomin_canonical h
  · exact execAmoand_canonical h
  · exact execAmoor_canonical h
  · exact execAmoxch_canonical h
  · exact execAmocas_canonical h
  · exact execPhase_canonical h
  · exact execFence_canonical h
  · exact execCbar_canonical h
  · exact execBalloc_canonical h
  · exact execBref_canonical h
  · exact execBdrop_canonical h
  · exact execBxfer_canonical h
  · exact execGsubmit_canonical h
  · exact execGsignal_canonical h
  · exact execGwait_canonical h
  · exact execArrwait_canonical h
  · exact execHnotify_canonical h
  · exact execXpend_canonical h
  · exact execTrap_canonical h
  · exact execEret_canonical h
  · exact execEcallTime_canonical h
  · exact execEcallErrorCount_canonical h
  · exact execEcallLocation_canonical h
  · exact execEcallDiscovery_canonical h
  · exact execEcallUnsupported_canonical h
  · exact execCtxsave_canonical h
  · exact execCtxload_canonical h
  · exact execLeaseq_canonical h
  · exact execSechash_canonical h
  · exact execSecver_canonical h
  · exact execSecmeas_canonical h
  · exact execSecatt_canonical h
  · exact execWdpet_canonical h
  · exact execBblog_canonical h
  · exact execFwslotCommit_canonical h
  · exact execLongLatencyResult_canonical h
  · exact execSemGrant_canonical h
  · exact execMutexGrant_canonical h
  · exact execWaitwpRelease_canonical h
  · exact execEqdrainRelease_canonical h
  · exact execPauseWake_canonical h
  · exact execPauseTimeout_canonical h
  · exact execQueuePushResume_canonical h
  · exact execEngineWaitGrant_canonical h
  · exact execEngineEntryStart_canonical h
  · exact execEngineEntryComplete_canonical h
  · exact execFarEndReply_canonical h
  · exact execPostedWriteLand_canonical h
  · exact execGroupRendezvous_canonical h
  · exact execMcastArrival_canonical h
  · exact execMcwaitRelease_canonical h
  · exact execSelftestCount_canonical h
  · exact execSelftestTimer_canonical h
  · exact execPublicationComplete_canonical h
  · exact execLaunchBankSwap_canonical h
  · exact execTaskEndByFault_canonical h
  · exact execPreemptSwap_canonical h
  · exact execTaskResume_canonical h
  · exact execNodeAccept_canonical h
  · exact execSchedulerDecision_canonical h
  · exact execNodeRetire_canonical h
  · exact execEventNodeSatisfied_canonical h
  · exact execLoopIteration_canonical h
  · exact execEventRecordWrite_canonical h
  · exact execMsixFirstTimer_canonical h
  · exact execMsixIdleTimer_canonical h
  · exact execMsixUnmask_canonical h
  · exact execHostRegisterWrite_canonical h
  · exact execHostWindowRead_canonical h
  · exact execHostWindowWrite_canonical h
  · exact execAtsInvalidation_canonical h
  · exact execAtsInvalidationComplete_canonical h
  · exact execTranslationResponse_canonical h
  · exact execReplayRelease_canonical h
  · exact execHostPageRefused_canonical h
  · exact execStreamOpen_canonical h
  · exact execStreamData_canonical h
  · exact execStreamClose_canonical h
  · exact execCredit_canonical h
  · exact execFlitCrcReplay_canonical h
  · exact execPushData_canonical h
  · exact execPushDone_canonical h
  · exact execPushAck_canonical h
  · exact execPullReq_canonical h
  · exact execPullData_canonical h
  · exact execPullDone_canonical h
  · exact execEpoch_canonical h
  · exact execOdsogaUnknownType_canonical h
  · exact execModuleUnreachable_canonical h
  · exact execOdsogaLaneLoss_canonical h
  · exact execAsidCreate_canonical h
  · exact execAsidRetire_canonical h
  · exact execAsidSweepComplete_canonical h
  · exact execBufAlloc_canonical h
  · exact execBufDrop_canonical h
  · exact execMap_canonical h
  · exact execUnmap_canonical h
  · exact execSync_canonical h
  · exact execQueueCfg_canonical h
  · exact execSubmit_canonical h
  · exact execQuota_canonical h
  · exact execRemoteExport_canonical h
  · exact execRemoteImport_canonical h
  · exact execDieOffline_canonical h
  · exact execDieOfflineComplete_canonical h
  · exact execEvacuationComplete_canonical h
  · exact execDieOnline_canonical h
  · exact execReadDesc_canonical h
  · exact execFoxRead_canonical h
  · exact execMailboxUnknownCode_canonical h
  · exact execGetVersion_canonical h
  · exact execGetCapabilities_canonical h
  · exact execNegotiateAlgorithms_canonical h
  · exact execGetDigests_canonical h
  · exact execGetCertificate_canonical h
  · exact execChallenge_canonical h
  · exact execGetMeasurements_canonical h
  · exact execSpdmUnsupported_canonical h
  · exact execLifecycle_canonical h
  · exact execRingRead_canonical h
  · exact execRingRelease_canonical h
  · exact execIslandRead_canonical h
  · exact execPkgRead_canonical h
  · exact execPkgSet_canonical h
  · exact execLimitSet_canonical h
  · exact execDiscRead_canonical h
  · exact execReset_canonical h
  · exact execColdReset_canonical h
  · exact execWarmReset_canonical h
  · exact execBootZeroFillDone_canonical h
  · exact execWatchdogExpiry_canonical h
  · exact execHeartbeatTimeout_canonical h
  · exact execRefreshInterval_canonical h
  · exact execRefreshTakeover_canonical h
  · exact execRowActivationThreshold_canonical h
  · exact execRfmHoldEnd_canonical h
  · exact execCorrectableError_canonical h
  · exact execUncorrectableError_canonical h
  · exact execDieFailure_canonical h
  · exact execPowerCapTick_canonical h
  · exact execThermalThrottle_canonical h
  · exact execThermalRelease_canonical h
  · exact execComputeTrip_canonical h
  · exact execIslandTrip_canonical h
  · exact execTaskKilled_canonical h
  · exact execModuleJoinsDomain_canonical h

end Sys2Proof.Machine

end

section
/-! The canonical form of the memories: fetch and decode keep it. -/

namespace Sys2Proof.Machine

theorem State.Canonical.fetchDecode {s : State} (h : s.Canonical) {k c} : (s.fetchDecode k c).1.Canonical := by
  unfold State.fetchDecode
  extract_lets pc
  split
  · exact h
  · split
    next x t w heq1 =>
      have ht := State.Canonical.of_fst heq1 h.codeWord
      split
      · split
        · exact ht
        · split
          next x1 t1 w1 heq4 =>
            have ht1 := State.Canonical.of_fst heq4 ht.codeWord
            exact ht1
      · split
        · split
          next x1 t1 a heq4 =>
            have ht1 := State.Canonical.of_fst heq4 ht.scanBody
            exact ht1
          next x1 t1 a heq4 =>
            have ht1 := State.Canonical.of_fst heq4 ht.scanBody
            exact ht1
        · exact ht

theorem State.Canonical.skipSquashed {a1 : State} (h : a1.Canonical) {a a2 a3} : (State.skipSquashed a a1 a2 a3).Canonical := by
  induction a generalizing a1 with
  | zero => exact h
  | succ n ih =>
    have hf := h.fetchDecode (k := a2) (c := a3)
    unfold State.skipSquashed
    generalize a1.fetchDecode a2 a3 = x at hf ⊢
    obtain ⟨t, d⟩ := x
    cases d with
    | ok i => exact State.Canonical.ite (ih hf.squash) h
    | bad _ => exact h

theorem State.Canonical.settleLoops {s : State} (h : s.Canonical) : s.settleLoops.Canonical := by
  unfold State.settleLoops
  exact State.Canonical.foldl (fun _ _ h1 => State.Canonical.foldl (fun _ _ h2 => h2.skipSquashed) h1) h

end Sys2Proof.Machine

end

section
/-! The canonical form of the memories: claims of banks and spill records keep it. -/

namespace Sys2Proof.Machine

theorem State.Canonical.payload {s : State} (h : s.Canonical) {k x key} : (s.payload k x key).1.Canonical := by
  unfold State.payload
  extract_lets v c r
  split
  · extract_lets u u1
    split
    · exact h
    · exact h
    · exact h
    · exact h
    · exact h
    · split
      · exact h
      · exact h
    · exact h
    · exact h

theorem State.Canonical.modSuspended {s : State} (h : s.Canonical) {k launch f} : (s.modSuspended k launch f).Canonical := by
  unfold State.modSuspended
  exact h.setFits ((h.cell k).of_map rfl fun y => by split <;> rfl)

theorem State.Canonical.spillOverflow {s : State} (h : s.Canonical) {k launch c} : (s.spillOverflow k launch c).Canonical := by
  unfold State.spillOverflow
  split
  · exact h
  · extract_lets js
    refine State.Canonical.foldl ?_ h
    intro t1 a1 h1
    split
    · exact h1.endSuspended
    · exact h1

theorem State.Canonical.toOver {s : State} (h : s.Canonical) {k launch r} : (s.toOver k launch r).Canonical := by
  unfold State.toOver
  extract_lets n
  split
  · exact h
  · split
    · exact h
    · split
      · exact h.spillOverflow
      · extract_lets s1
        have hs1 : s1.Canonical := h.homePut
        exact hs1.modSuspended

/-- What a suspended task's carve has room for lies in the scratchpad. -/
theorem State.carvePlace_le {s : State} {k : Nat} {b : Bank} {c : CoreIx} {n p : Nat} (h : s.carvePlace k b c n = some p) : p + n ≤ s.padSize k := by
  unfold State.carvePlace at h
  have hp := List.min?_mem h
  have hfits := (List.mem_filter.1 hp).2
  rw [Bool.and_eq_true, Bool.and_eq_true, decide_eq_true_iff, decide_eq_true_iff] at hfits
  obtain ⟨⟨-, hhi⟩, -⟩ := hfits
  refine hhi.trans ?_
  cases c
  · exact Nat.le_refl _
  · exact Nat.sub_le _ _
  · exact (Nat.sub_le _ _).trans (Nat.sub_le _ _)

/-- Bytes written within a suspended task's scratchpad keep its memory there. -/
theorem Mem.fits_write {m : Mem} {k p : Nat} {bs : List Byte} (hm : m.wf = true ∧ ∀ e ∈ m, padBase k ≤ e.1 ∧ e.1 < chipAddr k 4 0)
    (hp : p + bs.length ≤ 4194304) :
    (m.write (padBase k + p) bs).wf = true ∧ ∀ e ∈ m.write (padBase k + p) bs, padBase k ≤ e.1 ∧ e.1 < chipAddr k 4 0 := by
  obtain ⟨hwf, hin⟩ := hm
  refine ⟨Mem.wf_write hwf _ _, fun e he => ?_⟩
  obtain hrest | habove := List.mem_append.1 he
  · obtain hbelow | hnew := List.mem_append.1 hrest
    · exact hin e (Mem.mem_below hbelow).1
    · obtain ⟨hlo, hhi, -⟩ := mem_cellsOfBytes hnew
      unfold padBase chipAddr at *
      omega
  · exact hin e (Mem.mem_above (Mem.wf_rising hwf) habove).1

theorem length_bytesOf (ws : List Word) : (bytesOf ws).length = 8 * ws.length := by
  unfold bytesOf
  induction ws with
  | nil => rfl
  | cons w ws ih =>
    rw [List.flatMap_cons, List.length_append, ih, leBytes_length, List.length_cons]
    omega

theorem State.Canonical.writeRecord {s : State} (h : s.Canonical) {k launch r} : (s.writeRecord k launch r).Canonical := by
  unfold State.writeRecord
  split
  · exact h
  next x hx =>
    extract_lets n
    refine h.ite ?_
    split
    next p hp =>
      extract_lets s1
      have hs1 : s1.Canonical := h.modSuspended
      have hroom := (State.carvePlace_le hp).trans (s.padSize_le k)
      refine State.Canonical.setFits hs1 fun y hy => ?_
      obtain ⟨z, hz, rfl⟩ := List.mem_map.1 hy
      split
      · refine Mem.fits_write (hs1.cell k z hz) ?_
        rw [length_bytesOf]
        exact hroom
      · exact hs1.cell k z hz
    next => exact h.toOver

theorem State.Canonical.evict {s : State} (h : s.Canonical) {k g} : (s.evict k g).Canonical := by
  unfold State.evict
  extract_lets lo hi launches
  refine State.Canonical.foldl ?_ h
  intro t1 a1 h1
  extract_lets s1
  have hs1 : s1.Canonical := h1.modSuspended
  split
  · exact hs1
  · exact State.Canonical.foldl (fun _ _ h2 => h2.toOver) hs1

theorem State.Canonical.spillHeld {s : State} (h : s.Canonical) {k key} : (s.spillHeld k key).Canonical := by
  unfold State.spillHeld
  extract_lets s1
  have hs1 : s1.Canonical := h.evict.ite h
  split
  · exact hs1
  · split
    · exact hs1
    · split
      next x2 t1 p heq2 =>
        have ht := State.Canonical.of_fst heq2 hs1.payload
        extract_lets s2
        have hs2 : s2.Canonical := ht.modSuspended
        split
        · have ht1 := State.Canonical.of_fst heq2 hs1.payload
          exact hs2
        · have ht1 := State.Canonical.of_fst heq2 hs1.payload
          exact hs2.writeRecord

theorem State.Canonical.claim {s : State} (h : s.Canonical) {k key} : (s.claim k key).Canonical := by
  unfold State.claim
  extract_lets b
  split
  · exact h
  · split
    · exact h.reclaim
    · split
      · exact h
      · exact h.ite h.spillHeld.modBank

theorem State.Canonical.claimTouched {s : State} (h : s.Canonical) {k} : (s.claimTouched k).Canonical := by
  unfold State.claimTouched
  exact (State.Canonical.foldl (fun _ _ h1 => h1.claim) h).ite h

theorem State.Canonical.claimAll {s : State} (h : s.Canonical) : s.claimAll.Canonical := by
  unfold State.claimAll
  exact State.Canonical.foldl (fun _ _ h1 => h1.claimTouched) h

theorem State.Canonical.claimCore {s : State} (h : s.Canonical) {k c} : (s.claimCore k c).Canonical := by
  unfold State.claimCore
  extract_lets first s1
  have hs1 : s1.Canonical := h.claim
  exact hs1.setCore.ite hs1

theorem State.Canonical.claimFetch {s : State} (h : s.Canonical) {k c words} : (s.claimFetch k c words).Canonical := by
  unfold State.claimFetch
  extract_lets s1
  have hs1 : s1.Canonical := h.claimCore
  exact State.Canonical.foldl (fun _ _ h1 => h1.claim) hs1

theorem State.Canonical.claimIssue {s : State} (h : s.Canonical) {k c i} : (s.claimIssue k c i).Canonical := by
  unfold State.claimIssue
  split
  · exact State.Canonical.foldl (fun _ ⟨x, x1, x2⟩ h1 => h1.claim) h.claimFetch
  · exact h.claimFetch

theorem State.Canonical.claimStart {s : State} (h : s.Canonical) {k e} : (s.claimStart k e).Canonical := by
  unfold State.claimStart
  split
  · split
    · split
      · exact State.Canonical.foldl (fun _ ⟨x2, x3, x4⟩ h1 => h1.claim) h
      · exact h
    · exact h
  · exact h

theorem State.Canonical.beforeEvent {s : State} (h : s.Canonical) {e} : (s.beforeEvent e).Canonical := by
  unfold State.beforeEvent
  split
  · exact h.settleLoops
  · exact h.claimStart
  · split
    · exact h.claim.ite h
    · exact h
  · exact h

end Sys2Proof.Machine

end

section
/-! The canonical form of the memories: the step keeps it. -/

namespace Sys2Proof.Machine

theorem State.Canonical.prepare {s : State} (h : s.Canonical) {k c f} : (s.prepare k c f).Canonical := by
  unfold State.prepare
  exact h.claimIssue.ite h

theorem State.Canonical.runCore {s : State} (h : s.Canonical) {k c} : Goes (s.runCore k c) := by
  unfold State.runCore
  split
  next x t f heq =>
    have ht := State.Canonical.of_fst heq h.fetchDecode
    extract_lets u
    have hu : u.Canonical := ht.prepare
    split
    · exact Goes.next ht
    · split
      · split
        · have ht1 := State.Canonical.of_fst heq h.fetchDecode
          exact Goes.next hu.stopped
        · have ht1 := State.Canonical.of_fst heq h.fetchDecode
          exact exec_canonical hu.openRound
      · exact Goes.next hu

theorem State.Canonical.issue {s : State} (h : s.Canonical) {k c} : Goes (s.issue k c) := by
  unfold State.issue
  extract_lets s1
  have hs1 : s1.Canonical := h
  split
  · exact Goes.next hs1
  · split
    · exact Goes.next (hs1.ite hs1.deliver)
    · exact Goes.ite hs1.runCore (Goes.next hs1)

theorem State.Canonical.elapse {s : State} (h : s.Canonical) {ns} : (s.elapse ns).Canonical := by
  unfold State.elapse
  extract_lets held s1 ns1
  have hs1 : s1.Canonical := h.ite h.fireDue
  exact hs1.of_cells (hs1.mapCells fun e => ⟨rfl, fun x hx => ⟨x, hx, rfl⟩⟩)

theorem State.Canonical.event {s : State} (h : s.Canonical) {e} : Goes (s.event e) := by
  unfold State.event
  exact Goes.ite (exec_canonical h.beforeEvent) (Goes.next h)

theorem afterOr_canonical {s : State} (h : s.Canonical) {o} (ho : Goes o) : (afterOr o s).Canonical := by
  unfold afterOr
  split
  next t => exact ho t rfl
  next => exact h

theorem State.Canonical.behind {s : State} (h : s.Canonical) {k i e} : (s.behind k i e).Canonical := by
  unfold State.behind
  split
  · exact h
  · split
    · exact h.closeSuspended
    · exact h.aside (fun _ h1 => afterOr_canonical h1 (exec_canonical h1))

theorem State.Canonical.move {s : State} (h : s.Canonical) {m} : Goes (s.move m) := by
  unfold State.move
  split
  · exact Goes.ite h.issue (Goes.next h)
  · exact h.event
  · exact Goes.next h.behind
  · exact Goes.next h.elapse
  · exact Goes.next h.applySetting
  · exact Goes.next (h.bootStart.ite h)

theorem State.Canonical.grantAll {s : State} (h : s.Canonical) : s.grantAll.Canonical := by
  unfold State.grantAll
  exact State.Canonical.foldl (fun _ _ h1 => h1.grants) h

theorem State.Canonical.endWaits {s : State} (h : s.Canonical) : s.endWaits.Canonical := by
  unfold State.endWaits
  exact State.Canonical.foldl (fun _ _ h1 => State.Canonical.foldl (fun _ _ h2 => h2.endWp) h1) h

theorem State.Canonical.afterMove {s : State} (h : s.Canonical) : s.afterMove.Canonical := by
  unfold State.afterMove
  exact h.grantAll.endWaits.claimAll.noteSeen.noteWindows

theorem settle_canonical {o} (ho : Goes o) : Goes (settle o) := by
  unfold settle
  split
  next t => exact Goes.next (ho t rfl).afterMove
  next => exact fun _ ht => by cases ht
  next => exact fun _ ht => by cases ht

theorem step_canonical {s : State} (h : s.Canonical) : Goes (step s) := by
  unfold step
  extract_lets s1
  have hs1 : s1.Canonical := h.discSettle
  split
  · exact settle_canonical hs1.move
  · refine settle_canonical (State.Canonical.move ?_)
    exact hs1

/-- Settles O58: after reset every memory is empty but for what the host holds, and each function that a step calls keeps the form. -/
theorem stepKeepsCanonical : Obligations.StepKeepsCanonical := by
  unfold Obligations.StepKeepsCanonical
  exact ⟨State.Canonical.reset, fun _ t hs ht => step_canonical hs t ht⟩

end Sys2Proof.Machine

end

section
/-! A SORT on the scheduler die's service cell whose output lies in the control words: a load there answers the control word, not the key
that was stored (O39 fails). -/

namespace Sys2Proof.Machine

/-- SORT of one INT8 key from A1 to A2. -/
def ctlSort : FmtSo :=
  { g := ⟨0xFF, 0, 0, 0⟩, ak := 1, av := 0, ao := 2, aw := 0, kt := 8, s := false, desc := false, iota := false, q := ⟨0, 0, 0, 0⟩, n1 := 0
    m1 := 0, ak2 := 0, av2 := 0 }

/-- The key stands at 0 of the scratchpad; the output is the control word at 0x300000. -/
def ctlSortEntry : Entry :=
  { uid := 0, op := .prim (.sort ctlSort)
    a := Vector.ofFn fun i =>
      if i.val = 1 then { ptr := 0, limit := 0x400000, kind := 1, rights := 3 }
      else if i.val = 2 then { ptr := 0x300000, limit := 0x400000, kind := 1, rights := 3 } else {} }

/-- The entry is the front of the service cell's queue; the key is 1. -/
def ctlSortState : State :=
  { mem := [(padBase (svc Config.schedDie), 1)]
    cells := [(svc Config.schedDie, { b := { prim := { entries := [ctlSortEntry] } } })] }

theorem ctlSort_starting : Starting ctlSortState (svc Config.schedDie) ctlSortEntry (.sort ctlSort) := by
  unfold Starting
  decide +kernel

theorem ctlSort_check : ctlSortState.soCheck (svc Config.schedDie) [⟨ctlSortEntry.areg 2, 1, 1⟩] [⟨ctlSortEntry.areg 1, 1, 1⟩]
    (fun x y => Instr.sort ctlSort == .sort ctlSort && SoReg.same (svc Config.schedDie) x y) = .ok () := by
  decide +kernel

theorem ctlSort_key : ctlSortState.opEl (svc Config.schedDie) (ctlSortEntry.areg 1) 8 0 = 1 := by decide +kernel

/-- The control word of a hand-over reads 0 where none is under way. -/
def readsZero (o : Out) : Bool :=
  match o with
  | .next t => t.opEl (svc Config.schedDie) (ctlSortEntry.areg 2) 8 0 == 0
  | _ => false

theorem ctlSort_output : readsZero (execEngineEntryStart (svc Config.schedDie) .primary ctlSortState) = true := by decide +kernel

/-- Refutes O39: the scheduler die's service cell runs the sort engine of its queue too, and its scratchpad holds the control words, which
a load does not read from memory. SORT of the key 1 to the control word at 0x300000 stores it, and element 0 of the output reads 0. -/
theorem not_sortAndCopyEntries : ¬ Obligations.SortAndCopyEntries := by
  unfold Obligations.SortAndCopyEntries SortedKeys
  rintro ⟨hsort, -⟩
  obtain ⟨t, order, hexec, hperm, -, hout, -⟩ := hsort ctlSort ctlSortState (svc Config.schedDie) ctlSortEntry (by decide) (by decide) rfl
    (.sort ctlSort, 1) List.mem_cons_self ctlSort_starting (Nat.le_refl 1) ctlSort_check rfl (by decide)
  have horder : order = [0] := List.perm_singleton.1 hperm
  have hkey := hout 0 Nat.one_pos
  rw [horder] at hkey
  have hzero := ctlSort_output
  rw [show execEngineEntryStart (svc Config.schedDie) .primary ctlSortState = .next t from hexec] at hzero
  have hread : t.opEl (svc Config.schedDie) (ctlSortEntry.areg 2) 8 0 = 0 := beq_iff_eq.1 hzero
  have hone : t.opEl (svc Config.schedDie) (ctlSortEntry.areg 2) 8 0 = 1 := hkey.trans ctlSort_key
  rw [hread] at hone
  exact absurd hone (by decide)

end Sys2Proof.Machine

end

section
/-! Words of tiles (08 R158): what a row's write and a tile's write leave where. -/

namespace Sys2Proof.Machine

/-! ## Bytes -/

theorem Mem.read_write_apart {m : Mem} (hm : m.wf = true) {a x n : Nat} {bs : List Byte} (h : x + n ≤ a ∨ a + bs.length ≤ x) :
    (m.write a bs).read x n = m.read x n := by
  rw [Mem.read_eq (Mem.wf_rising (Mem.wf_write hm a bs)), Mem.read_eq (Mem.wf_rising hm)]
  refine List.map_congr_left fun i hi => ?_
  have hin := List.mem_range.1 hi
  rw [Mem.byte_write (Mem.wf_rising hm), if_neg (by omega)]

theorem Mem.read_write_within {m : Mem} (hm : m.wf = true) (a : Nat) {o n : Nat} {bs : List Byte} (h : o + n ≤ bs.length) :
    (m.write a bs).read (a + o) n = (bs.drop o).take n := by
  rw [Mem.read_eq (Mem.wf_rising (Mem.wf_write hm a bs))]
  refine List.ext_getElem (by rw [List.length_map, List.length_range, List.length_take, List.length_drop]; omega) fun i hi _ => ?_
  rw [List.length_map, List.length_range] at hi
  rw [List.getElem_map, List.getElem_range, Mem.byte_write (Mem.wf_rising hm), if_pos (by omega), List.getElem_take, List.getElem_drop,
    show a + o + i - a = o + i by omega, List.getElem?_eq_getElem (by omega), Option.getD_some]

/-- The bytes of word j of a row. -/
theorem take_drop_words (l : List (Nat × Bool)) {j : Nat} (hj : j < l.length) :
    ((l.flatMap fun v => leBytes 4 v.1).drop (4 * j)).take 4 = leBytes 4 l[j].1 := by
  induction l generalizing j with
  | nil => exact absurd hj (Nat.not_lt_zero j)
  | cons v l ih =>
    rw [List.flatMap_cons]
    cases j with
    | zero => rw [Nat.mul_zero, List.drop_zero, List.take_left' (leBytes_length 4 v.1), List.getElem_cons_zero]
    | succ j =>
      rw [show 4 * (j + 1) = (leBytes 4 v.1).length + 4 * j by rw [leBytes_length]; omega, List.drop_length_add_append, List.getElem_cons_succ]
      exact ih (Nat.lt_of_succ_lt_succ hj)

theorem length_words (l : List (Nat × Bool)) : (l.flatMap fun v => leBytes 4 v.1).length = 4 * l.length := by
  induction l with
  | nil => rfl
  | cons v l ih =>
    rw [List.flatMap_cons, List.length_append, leBytes_length, ih, List.length_cons]
    omega

/-! ## Rows -/

theorem State.tileWord_eq (s : State) (k : Nat) (x : BitVec 3) (i j : Nat) :
    s.tileWord k x i j = leNat (s.mem.read (tileAddr k x.toNat i j) 4) := rfl

theorem State.tileWord_congr {s t : State} (h : t.mem = s.mem) (k : Nat) (x : BitVec 3) (i j : Nat) : t.tileWord k x i j = s.tileWord k x i j := by
  rw [State.tileWord_eq, State.tileWord_eq, h]

theorem State.mem_putRow (s : State) (k : Nat) (td : BitVec 3) (i : Nat) (l : List (Nat × Bool)) :
    (s.putRow k td i l).mem = s.mem.write (tileAddr k td.toNat i 0) (l.flatMap fun v => leBytes 4 v.1) := rfl

theorem tileAddr_eq (k t i j : Nat) : tileAddr k t i j = tileAddr k t i 0 + 4 * j := by
  unfold tileAddr chipAddr
  omega

/-- Words at different places of a cell's tiles share no byte. -/
theorem tileAddr_apart (k : Nat) {t u i i' n j : Nat} (hn : n ≤ 256) (hi : i < 128) (hi' : i' < 128) (hj : j < 256)
    (h : ¬(u = t ∧ i' = i ∧ j < n)) : tileAddr k u i' j + 4 ≤ tileAddr k t i 0 ∨ tileAddr k t i 0 + 4 * n ≤ tileAddr k u i' j := by
  unfold tileAddr chipAddr
  omega

theorem State.tileWord_putRow {s : State} (hm : s.mem.wf = true) (k : Nat) (td x : BitVec 3) {i i' j : Nat} {l : List (Nat × Bool)}
    (hl : l.length ≤ 256) (hi : i < 128) (hi' : i' < 128) (hj : j < 256) :
    (s.putRow k td i l).tileWord k x i' j =
      if x = td ∧ i' = i ∧ j < l.length then ((l[j]?).getD (0, false)).1 % 4294967296 else s.tileWord k x i' j := by
  rw [State.tileWord_eq, State.mem_putRow]
  split
  next h =>
    obtain ⟨rfl, rfl, hlt⟩ := h
    rw [tileAddr_eq k x.toNat i' j, Mem.read_write_within hm _ (by rw [length_words]; omega), take_drop_words l hlt, leNat_leBytes,
      List.getElem?_eq_getElem hlt, Option.getD_some]
    rfl
  next h =>
    rw [Mem.read_write_apart hm, State.tileWord_eq]
    rw [length_words]
    refine tileAddr_apart k hl hi hi' hj fun hsame => h ⟨BitVec.eq_of_toNat_eq hsame.1, hsame.2⟩

/-- A row's write leaves the scratchpad. -/
theorem State.byte_putRow {s : State} (hm : s.mem.wf = true) (k : Nat) (td : BitVec 3) (i : Nat) (l : List (Nat × Bool)) {o : Nat}
    (ho : o < 1048576) : (s.putRow k td i l).mem.byte (padBase k + o) = s.mem.byte (padBase k + o) := by
  rw [State.mem_putRow, Mem.byte_write (Mem.wf_rising hm), if_neg]
  unfold tileAddr padBase chipAddr
  omega

/-! ## Tiles -/

/-- Words of a tile at rows of a list and columns below n take a value, and no other word of a tile and no scratchpad byte changes. -/
def TileWords (s t : State) (k : Nat) (td : BitVec 3) (rows : List Nat) (n : Nat) (val : Nat → Nat → Nat) : Prop :=
  ∀ (x : BitVec 3) (i j : Nat), i < 128 → j < 256 →
    t.tileWord k x i j = if x = td ∧ i ∈ rows ∧ j < n then val i j % 4294967296 else s.tileWord k x i j

theorem tileIs_of_words {s t : State} {k : Nat} {td : BitVec 3} {tag : Nat} {rows : List Nat} {n : Nat} {val : Nat → Nat → Nat}
    (htag : t.tileTag k td = tag) (hw : TileWords s t k td rows n val)
    (hpad : ∀ o, o < 1048576 → t.mem.byte (padBase k + o) = s.mem.byte (padBase k + o)) : TileIs s t k td tag rows n val := by
  refine ⟨htag, fun i j hi hj => ?_, fun x hx i j hi hj => ?_, hpad⟩
  · exact (hw td i j hi hj).trans (if_congr (and_iff_right rfl) rfl rfl)
  · rw [hw x i j hi hj, if_neg fun h => hx h.1]

/-- A fold that writes rows, each from its number. -/
theorem State.putRows_words (k : Nat) (td : BitVec 3) {n : Nat} (hn : n ≤ 256) {val : Nat → List (Nat × Bool)} (rows : List Nat) :
    ∀ s : State, s.mem.wf = true → (∀ i ∈ rows, i < 128) → (∀ i ∈ rows, (val i).length = n) →
      let t := (rows.map fun i => (i, val i)).foldl (fun s e => s.putRow k td e.1 e.2) s
      TileWords s t k td rows n (fun i j => (((val i)[j]?).getD (0, false)).1) ∧
        ∀ o, o < 1048576 → t.mem.byte (padBase k + o) = s.mem.byte (padBase k + o) := by
  induction rows with
  | nil => exact fun s _ _ _ => ⟨fun x i j _ _ => (if_neg fun h => absurd h.2.1 List.not_mem_nil).symm, fun _ _ => rfl⟩
  | cons r rows ih =>
    intro s hm hlt hlen
    have hr := hlt r List.mem_cons_self
    have hrn := hlen r List.mem_cons_self
    obtain ⟨hw, hpad⟩ := ih (s.putRow k td r (val r)) (Mem.wf_write hm _ _) (fun i hi => hlt i (List.mem_cons_of_mem r hi))
      fun i hi => hlen i (List.mem_cons_of_mem r hi)
    refine ⟨fun x i j hi hj => ?_, fun o ho => (hpad o ho).trans (State.byte_putRow hm k td r (val r) ho)⟩
    refine (hw x i j hi hj).trans ?_
    rw [State.tileWord_putRow hm k td x (by omega) hr hi hj, hrn]
    split
    next h => rw [if_pos ⟨h.1, List.mem_cons_of_mem r h.2.1, h.2.2⟩]
    next hrest =>
      split
      next h =>
        obtain ⟨rfl, rfl, hjn⟩ := h
        rw [if_pos ⟨rfl, List.mem_cons_self, hjn⟩]
      next hfirst =>
        refine (if_neg fun h => ?_).symm
        obtain hir | hin := List.mem_cons.1 h.2.1
        · exact hfirst ⟨h.1, hir, h.2.2⟩
        · exact hrest ⟨h.1, hin, h.2.2⟩

end Sys2Proof.Machine

end

section
/-! Matrix entries at their start: tiles that moves and products write (08 R158 to R162, R166, R170). -/

namespace Sys2Proof.Machine

/-! ## The start of an entry -/

/-- An entry of the matrix engine that starts without a result and without a far end leaves its memory and its tiles' tags. -/
theorem Starting.exec_matrix {s : State} {k : Nat} {ent : Entry} {i : Instr} (h : Starting s k ent i) (hcls : s.cls k = 1) {r : Ran}
    (hr : s.runMatrix k ent i = .ok r) (hstop : r.stop = none) (hres : r.res = none) :
    ∃ t, exec (.engineEntryStart k .primary) s = .next t ∧ t.mem = r.s.mem ∧ (t.bank k).mx = (r.s.bank k).mx := by
  obtain ⟨hnext, hgrant, hmay, hdue, hop⟩ := h
  have hrun : s.runPrimary k ent i = .ok r := by
    unfold State.runPrimary
    rw [hcls]
    exact hr
  have hexec : exec (.engineEntryStart k .primary) s = execEngineEntryStart k .primary s := rfl
  unfold execEngineEntryStart at hexec
  rw [hnext] at hexec
  dsimp only at hexec
  rw [if_pos ⟨hgrant, hmay⟩, hop] at hexec
  dsimp only at hexec
  rw [hdue, hrun] at hexec
  refine ⟨s.started k .primary ent (.ok r), hexec, ?_⟩
  unfold State.started
  dsimp only
  rw [hstop]
  dsimp only
  rw [hres]
  refine ⟨State.modBank_mem _ _ _, ?_⟩
  rw [State.bank_modBank, if_pos rfl]
  rfl

theorem State.tileTag_congr {s t : State} {k : Nat} (h : (t.bank k).mx = (s.bank k).mx) (td : BitVec 3) : t.tileTag k td = s.tileTag k td := by
  unfold State.tileTag
  rw [h]

/-- What a tile is depends on the memories and the tags alone. -/
theorem TileIs.congr {s s' t t' : State} {k : Nat} {td : BitVec 3} {tag : Nat} {rows : List Nat} {n : Nat} {val val' : Nat → Nat → Nat}
    (h : TileIs s t k td tag rows n val) (hs : s'.mem = s.mem) (ht : t'.mem = t.mem) (hmx : (t'.bank k).mx = (t.bank k).mx)
    (hval : ∀ i j, i ∈ rows → j < n → val i j % 4294967296 = val' i j % 4294967296) : TileIs s' t' k td tag rows n val' := by
  obtain ⟨htag, hwords, hother, hpad⟩ := h
  refine ⟨(State.tileTag_congr hmx td).trans htag, fun i j hi hj => ?_, fun x hx i j hi hj => ?_, fun o ho => ?_⟩
  · rw [State.tileWord_congr ht, hwords i j hi hj, State.tileWord_congr hs]
    split
    next hin => exact hval i j hin.1 hin.2
    next => rfl
  · rw [State.tileWord_congr ht, hother x hx i j hi hj, State.tileWord_congr hs]
  · rw [ht, hs]
    exact hpad o ho

/-! ## Writes of tiles -/

/-- An enabled row is one of the mask's. -/
theorem lt_of_mem_rowsOf {rows : BitVec 128} {m i : Nat} (h : i ∈ rowsOf rows m) : i < 128 :=
  BitVec.lt_of_getLsbD (List.mem_filter.1 h).2

theorem State.tileIs_putTile {s : State} (hm : s.mem.wf = true) (k : Nat) (td : BitVec 3) {tag n : Nat} (htag : tag < 32) (hn : n ≤ 256)
    {rows : List Nat} (hne : rows ≠ []) (hlt : ∀ i ∈ rows, i < 128) {val : Nat → List (Nat × Bool)} (hlen : ∀ i ∈ rows, (val i).length = n) :
    TileIs s (s.putTile k td tag (rows.map fun i => (i, val i))) k td tag rows n (fun i j => (((val i)[j]?).getD (0, false)).1) := by
  obtain ⟨hw, hpad⟩ := State.putRows_words k td hn rows s hm hlt hlen
  unfold State.putTile
  rw [if_neg fun h => hne (List.map_eq_nil_iff.1 h)]
  refine tileIs_of_words ?_ (fun x i j hi hj => ?_) fun o ho => ?_
  · unfold State.tileTag
    rw [State.bank_modBank, if_pos rfl, vget_vset, if_pos ⟨rfl, td.isLt⟩, BitVec.toNat_ofNat]
    exact Nat.mod_eq_of_lt htag
  · exact (State.tileWord_congr (State.modBank_mem _ _ _) k x i j).trans (hw x i j hi hj)
  · rw [State.modBank_mem]
    exact hpad o ho

/-- A function of each enabled row, its words alone. -/
theorem State.tileIs_mapTile {s : State} (hm : s.mem.wf = true) (k : Nat) (td : BitVec 3) {tag n : Nat} (htag : tag < 32) (hn : n ≤ 256)
    {rows : List Nat} (hne : rows ≠ []) (hlt : ∀ i ∈ rows, i < 128) {fn : Nat → List ((Nat × Bool) × Flags)}
    (hlen : ∀ i ∈ rows, (fn i).length = n) {val : Nat → Nat → Nat}
    (hval : ∀ i j, i ∈ rows → (h : j < (fn i).length) → (fn i)[j].1.1 = val i j) :
    TileIs s (s.mapTile k td tag rows fn).s k td tag rows n val := by
  have h := State.tileIs_putTile hm k td htag hn hne hlt (val := fun i => (fn i).map (·.1)) fun i hi => by rw [List.length_map, hlen i hi]
  unfold State.mapTile
  dsimp only
  rw [List.map_map]
  refine h.congr rfl rfl rfl fun i j hi hj => ?_
  have hjl : j < (fn i).length := by rwa [hlen i hi]
  rw [List.getElem?_map, List.getElem?_eq_getElem hjl, Option.map_some, Option.getD_some, hval i j hi hjl]

end Sys2Proof.Machine

end

section
/-! The moves of tiles at their start: TZERO, TCOPY, TTRANS and TLOAD (08 R158, R159, R170). -/

namespace Sys2Proof.Machine

/-- A matrix entry that starts has written the tile that its run writes. -/
theorem Starting.tileIs {s : State} {k : Nat} {ent : Entry} {i : Instr} (h : Starting s k ent i) (hcls : s.cls k = 1) {r : Ran}
    (hr : s.runMatrix k ent i = .ok r) (hstop : r.stop = none) (hres : r.res = none) {td : BitVec 3} {tag n : Nat} {rows : List Nat}
    {val : Nat → Nat → Nat} (htile : TileIs s r.s k td tag rows n val) :
    ∃ t, exec (.engineEntryStart k .primary) s = .next t ∧ TileIs s t k td tag rows n val := by
  obtain ⟨t, hexec, hmem, hmx⟩ := h.exec_matrix hcls hr hstop hres
  exact ⟨t, hexec, htile.congr rfl hmem hmx fun _ _ _ _ => rfl⟩

theorem shape_m_le (sh : Shape) : sh.m ≤ 128 := sh.m1.isLt

theorem shape_n_le (sh : Shape) : sh.n ≤ 256 := sh.n1.isLt

theorem State.tileTag_lt (s : State) (k : Nat) (t : BitVec 3) : s.tileTag k t < 32 := BitVec.isLt _

theorem State.tileRow_eq (s : State) (k : Nat) (t : BitVec 3) (i n : Nat) :
    s.tileRow k t i n = (List.range n).map fun j => (s.tileWord k t i j, nsHas s.memBad (tileAddr k t.toNat i j / 64)) := rfl

theorem State.length_tileRow (s : State) (k : Nat) (t : BitVec 3) (i n : Nat) : (s.tileRow k t i n).length = n := by
  rw [State.tileRow_eq, List.length_map, List.length_range]

theorem State.getElem_tileRow (s : State) (k : Nat) (t : BitVec 3) (i n : Nat) {j : Nat} (h : j < (s.tileRow k t i n).length) :
    (s.tileRow k t i n)[j].1 = s.tileWord k t i j := by
  rw [List.getElem_of_eq (s.tileRow_eq k t i n) h, List.getElem_map, List.getElem_range]

theorem tileTagOk_of {t : Nat} (h : t = 1 ∨ t = 6) : tileTagOk t = true := by
  obtain rfl | rfl := h <;> rfl

/-- Row i of a TLOAD of n columns. -/
def State.loadRow (s : State) (k : Nat) (a : AReg) (tag : Nat) (sa : Bool) (n i : Nat) : List ((Nat × Bool) × Flags) :=
  (List.range n).map fun j =>
    let p := s.opEl k a (tagBits tag) (i * n + j)
    let v := if isFloat tag then (fp32.result .rne false ((fmtOf tag).value p)).1 else patOf 32 (intOf (tagBits tag) sa p)
    ((v, s.opElBad k a (tagBits tag) (i * n + j)), {})

theorem State.length_loadRow (s : State) (k : Nat) (a : AReg) (tag : Nat) (sa : Bool) (n i : Nat) : (s.loadRow k a tag sa n i).length = n := by
  unfold State.loadRow
  rw [List.length_map, List.length_range]

theorem State.getElem_loadRow (s : State) (k : Nat) (a : AReg) (tag : Nat) (sa : Bool) (n i : Nat) {j : Nat}
    (h : j < (s.loadRow k a tag sa n i).length) : (s.loadRow k a tag sa n i)[j].1.1 =
      if isFloat tag then (fp32.result .rne false ((fmtOf tag).value (s.opEl k a (tagBits tag) (i * n + j)))).1
      else (intOf (tagBits tag) sa (s.opEl k a (tagBits tag) (i * n + j)) % 4294967296).toNat := by
  simp only [State.loadRow, List.getElem_map, List.getElem_range]
  rfl

/-! ## Touched granules -/

theorem State.opTouch_mx (s : State) (k : Nat) (a : AReg) (sp : Nat × Nat) (j : Nat) : ((s.opTouch k a sp).bank j).mx = (s.bank j).mx := by
  unfold State.opTouch State.touch
  rw [State.bank_modBank]
  split
  next h => rw [h]
  next => rfl

theorem State.opTouches_same (s : State) (k : Nat) (a : AReg) (l : List (Nat × Nat)) :
    (s.opTouches k a l).mem = s.mem ∧ ∀ j, ((s.opTouches k a l).bank j).mx = (s.bank j).mx :=
  List.foldlRecOn (motive := fun (t : State) => t.mem = s.mem ∧ ∀ j, (t.bank j).mx = (s.bank j).mx) l _ ⟨rfl, fun _ => rfl⟩ fun t ht p _ =>
    ⟨ht.1, fun j => (t.opTouch_mx k a p j).trans (ht.2 j)⟩

section
variable {s : State} {k : Nat} {ent : Entry} {g : Guard} {q : Eng} {td ts : BitVec 3} {sh : Shape} (hcls : s.cls k = 1) (hm : s.mem.wf = true)
include hcls hm

theorem Starting.tzero {tag : BitVec 5} (h : Starting s k ent (.tzero g q td tag sh)) (hne : rowsOf ent.rows sh.m ≠ []) :
    ∃ t, exec (.engineEntryStart k .primary) s = .next t ∧ TileIs s t k td tag.toNat (rowsOf ent.rows sh.m) sh.n fun _ _ => 0 :=
  h.tileIs hcls (r := s.mapTile k td tag.toNat (rowsOf ent.rows sh.m) fun _ => List.replicate sh.n ((0, false), {})) rfl rfl rfl
    (State.tileIs_mapTile hm k td tag.isLt (shape_n_le sh) hne (fun _ hi => lt_of_mem_rowsOf hi) (fun _ _ => List.length_replicate)
      fun _ _ _ _ => by rw [List.getElem_replicate])

theorem Starting.tcopy (htag : s.tileTag k ts = 1 ∨ s.tileTag k ts = 6) (h : Starting s k ent (.tcopy g q td ts sh))
    (hne : rowsOf ent.rows sh.m ≠ []) : ∃ t, exec (.engineEntryStart k .primary) s = .next t ∧
      TileIs s t k td (s.tileTag k ts) (rowsOf ent.rows sh.m) sh.n fun i j => s.tileWord k ts i j := by
  refine h.tileIs hcls (r := s.mapTile k td (s.tileTag k ts) (rowsOf ent.rows sh.m) fun i => (s.tileRow k ts i sh.n).map fun e => (e, {}))
    ?_ rfl rfl (State.tileIs_mapTile hm k td (s.tileTag_lt k ts) (shape_n_le sh) hne (fun _ hi => lt_of_mem_rowsOf hi)
      (fun i _ => by rw [List.length_map, State.length_tileRow]) fun i j _ hj => ?_)
  · refine (rfl : _ = s.runTcopy k ent td ts sh).trans ?_
    simp only [State.runTcopy, tileTagOk_of htag]
    rfl
  · rw [List.getElem_map, State.getElem_tileRow]

theorem Starting.ttrans (htag : s.tileTag k ts = 1 ∨ s.tileTag k ts = 6) (h : Starting s k ent (.ttrans g q td ts sh))
    (hne : rowsOf ent.rows sh.n ≠ []) : ∃ t, exec (.engineEntryStart k .primary) s = .next t ∧
      TileIs s t k td (s.tileTag k ts) (rowsOf ent.rows sh.n) sh.m fun i j => s.tileWord k ts j i := by
  refine h.tileIs hcls (r := s.mapTile k td (s.tileTag k ts) (rowsOf ent.rows sh.n) fun j => (List.range sh.m).map fun i =>
    (((s.tileRow k ts i (j + 1))[j]?).getD (0, false), {})) ?_ rfl rfl
    (State.tileIs_mapTile hm k td (s.tileTag_lt k ts) ((shape_m_le sh).trans (by decide)) hne (fun i hi => ?_)
      (fun i _ => by rw [List.length_map, List.length_range]) fun i j _ hj => ?_)
  · refine (rfl : _ = s.runTtrans k ent td ts sh).trans ?_
    simp only [State.runTtrans, tileTagOk_of htag]
    rfl
  · exact lt_of_mem_rowsOf hi
  · rw [List.getElem_map, List.getElem_range, List.getElem?_eq_getElem (by rw [State.length_tileRow]; exact Nat.lt_succ_self i),
      Option.getD_some, State.getElem_tileRow]

theorem Starting.tload {as : BitVec 4} {tag : BitVec 5} {sa : Bool} (h : Starting s k ent (.tload g q td as tag sa sh))
    (hne : rowsOf ent.rows sh.m ≠ [])
    (hcheck : s.checkOpnd k true (ent.areg as) .read ((rowsOf ent.rows sh.m).map fun i => elemsSpan (tagBits tag.toNat) (i * sh.n) sh.n) = .ok ()) :
    ∃ t, exec (.engineEntryStart k .primary) s = .next t ∧
      TileIs s t k td (if isFloat tag.toNat then 1 else 6) (rowsOf ent.rows sh.m) sh.n fun i j =>
        let e := s.opEl k (ent.areg as) (tagBits tag.toNat) (i * sh.n + j)
        if isFloat tag.toNat then (fp32.result .rne false ((fmtOf tag.toNat).value e)).1
        else (intOf (tagBits tag.toNat) sa e % 4294967296).toNat := by
  obtain ⟨r, hr⟩ : ∃ r, r = s.mapTile k td (if isFloat tag.toNat then 1 else 6) (rowsOf ent.rows sh.m)
    (s.loadRow k (ent.areg as) tag.toNat sa sh.n) := ⟨_, rfl⟩
  have htile : TileIs s r.s k td (if isFloat tag.toNat then 1 else 6) (rowsOf ent.rows sh.m) sh.n _ := hr ▸
    State.tileIs_mapTile hm k td (by split <;> decide) (shape_n_le sh) hne (fun _ hi => lt_of_mem_rowsOf hi)
      (fun i _ => s.length_loadRow _ _ _ _ _ i) fun i j _ hj => s.getElem_loadRow _ _ _ _ _ i hj
  have hrun : s.runMatrix k ent (.tload g q td as tag sa sh) = .ok { r with
      s := r.s.opTouches k (ent.areg as) ((rowsOf ent.rows sh.m).map fun i => elemsSpan (tagBits tag.toNat) (i * sh.n) sh.n) } := by
    refine (rfl : _ = s.runTload k ent td as tag sa sh).trans ?_
    simp only [State.runTload, hcheck, hr]
    rfl
  obtain ⟨hmem, hmx⟩ := r.s.opTouches_same k (ent.areg as) ((rowsOf ent.rows sh.m).map fun i => elemsSpan (tagBits tag.toNat) (i * sh.n) sh.n)
  exact h.tileIs hcls hrun (hr ▸ rfl) (hr ▸ rfl) (htile.congr rfl hmem (hmx k) fun _ _ _ _ => rfl)

end

end Sys2Proof.Machine

end

section
/-! Products of the matrix engine at their start (06 R125; 08 R160 to R162, R166). -/

namespace Sys2Proof.Machine

/-! ## Touched factors -/

theorem State.touchFactor_same (s : State) (k : Nat) (f : Factor) (rs : List Nat) :
    (s.touchFactor k f rs).mem = s.mem ∧ ∀ j, ((s.touchFactor k f rs).bank j).mx = (s.bank j).mx :=
  List.foldlRecOn (motive := fun (t : State) => t.mem = s.mem ∧ ∀ j, (t.bank j).mx = (s.bank j).mx) rs _ ⟨rfl, fun _ => rfl⟩ fun _ ht r _ =>
    List.foldlRecOn (motive := fun (u : State) => u.mem = s.mem ∧ ∀ j, (u.bank j).mx = (s.bank j).mx) (f.spans r) _ ht fun u hu p _ =>
      ⟨hu.1, fun j => (u.opTouch_mx k p.1 p.2 j).trans (hu.2 j)⟩

/-! ## The elements of a product -/

/-- Element (i, j) of a product: its start, unless it zeros, and its products by k. -/
def productEl (kk : Nat) (int zero : Bool) (fa fb : Factor) (old : Nat × Bool) (i j : Nat) : (Nat × Bool) × Flags :=
  let bad := (!zero && old.2) || (List.range kk).any (fun c => fa.bad i c || fb.bad j c)
  if int then
    let t : Int := (if zero then 0 else (old.1 : Int)) + ((List.range kk).map (fun c => fa.int i c * fb.int j c)).sum
    ((patOf 32 t, bad), ({} : Flags))
  else
    let (p, fl) := accumulate (if zero then none else some old.1) ((List.range kk).map (fun c => prodOf (fa.val i c) (fb.val j c)))
    ((p, bad), fl)

theorem productEl_word (kk : Nat) (int zero : Bool) (fa fb : Factor) (old : Nat × Bool) (i j : Nat) :
    (productEl kk int zero fa fb old i j).1.1 =
      if int then (((if zero then 0 else (old.1 : Int)) + ((List.range kk).map fun c => fa.int i c * fb.int j c).sum) % 4294967296).toNat
      else (accumulate (if zero then none else some old.1) ((List.range kk).map fun c => prodOf (fa.val i c) (fb.val j c))).1 := by
  unfold productEl
  split
  · rfl
  · generalize accumulate _ _ = r
    rfl

/-- A product maps the rows of its tile. -/
theorem State.product_eq (s : State) (k : Nat) (td : BitVec 3) (rows : List Nat) (n kk : Nat) (int zero : Bool) (fa fb : Factor) :
    (s.product k td rows n kk int zero fa fb).1 = (s.mapTile k td (prodTag int) rows fun i => (List.range n).map fun j =>
      productEl kk int zero fa fb (((s.tileRow k td i n)[j]?).getD (0, false)) i j).s := rfl

theorem prodTag_lt (int : Bool) : prodTag int < 32 := by cases int <;> decide

theorem State.tileIs_product {s : State} (hm : s.mem.wf = true) (k : Nat) (td : BitVec 3) {rows : List Nat} (hne : rows ≠ [])
    (hlt : ∀ i ∈ rows, i < 128) {n : Nat} (hn : n ≤ 256) (kk : Nat) (int zero : Bool) (fa fb : Factor) :
    TileIs s (s.product k td rows n kk int zero fa fb).1 k td (prodTag int) rows n fun i j =>
      if int then (((if zero then 0 else (s.tileWord k td i j : Int)) + ((List.range kk).map fun c => fa.int i c * fb.int j c).sum) % 4294967296).toNat
      else (accumulate (if zero then none else some (s.tileWord k td i j)) ((List.range kk).map fun c => prodOf (fa.val i c) (fb.val j c))).1 := by
  rw [State.product_eq]
  refine State.tileIs_mapTile hm k td (prodTag_lt int) hn hne hlt (fun i _ => by rw [List.length_map, List.length_range]) fun i j _ hj => ?_
  rw [List.length_map, List.length_range] at hj
  rw [List.getElem_map, List.getElem_range, productEl_word, List.getElem?_eq_getElem (by rwa [State.length_tileRow]), Option.getD_some,
    State.getElem_tileRow]

/-! ## The runs of the plain products -/

/-- A plain product whose checks pass writes its tile from the touched state. -/
theorem State.runMma_eq {s : State} {k : Nat} {ent : Entry} {f : FmtP} {zero : Bool}
    (htag : zero = false → s.tileTag k f.td = prodTag (intPair f)) (hne : rowsOf ent.rows f.m ≠ [])
    (hcheckA : s.checkFactor k (s.factorA k (ent.areg f.aa) f) (rowsOf ent.rows f.m) = .ok ())
    (hcheckB : s.checkFactor k (s.factorB k (ent.areg f.ab) f) [0] = .ok ()) :
    let u := (s.touchFactor k (s.factorA k (ent.areg f.aa) f) (rowsOf ent.rows f.m)).touchFactor k (s.factorB k (ent.areg f.ab) f) [0]
    let p := u.product k f.td (rowsOf ent.rows f.m) f.n f.kk (intPair f) zero (s.factorA k (ent.areg f.aa) f) (s.factorB k (ent.areg f.ab) f)
    s.runMma k ent f zero = .ok { s := p.1, fl := p.2 } := by
  have hok : (zero || s.tileTag k f.td == prodTag (intPair f)) = true := by
    cases zero with
    | true => rfl
    | false => exact beq_iff_eq.2 (htag rfl)
  simp only [State.runMma, State.runProduct, hok, if_neg hne, hcheckA, hcheckB, noMeta]
  rfl

/-- The plain products run as MMA or MMAZ: MMAT by its field, the cooperative ones outside a group. -/
theorem State.runMatrix_product {s : State} {k : Nat} {ent : Entry} {f : FmtP} (hgroup : (s.bank k).gsize = 1) {p : Instr × Bool}
    (hp : p ∈ [(Instr.mma f, false), (.mmaz f, true), (.mmat f, f.z), (.mmac f, false), (.mmacz f, true)]) :
    s.runMatrix k ent p.1 = s.runMma k ent f p.2 := by
  have hcoop : ∀ zero, s.runMmac k ent f zero = s.runMma k ent f zero := fun zero => if_pos hgroup
  simp only [List.mem_cons, List.not_mem_nil, or_false] at hp
  obtain rfl | rfl | rfl | rfl | rfl := hp
  · rfl
  · rfl
  · rfl
  · exact hcoop false
  · exact hcoop true

theorem matrixProducts_start : MatrixProducts := by
  unfold MatrixProducts
  intro f s k ent hcls hm p hp hstart hgroup
  extract_lets int a b rows n kk ea eb
  intro hne htag hcheckA hcheckB
  obtain ⟨hmemA, hmxA⟩ := s.touchFactor_same k (s.factorA k a f) rows
  obtain ⟨hmemB, hmxB⟩ := (s.touchFactor k (s.factorA k a f) rows).touchFactor_same k (s.factorB k b f) [0]
  have hmem := hmemB.trans hmemA
  have hrun := (State.runMatrix_product (ent := ent) hgroup hp).trans (State.runMma_eq htag hne hcheckA hcheckB)
  refine hstart.tileIs hcls hrun rfl rfl ?_
  refine (State.tileIs_product (hmem ▸ hm) k f.td hne (fun _ hi => lt_of_mem_rowsOf hi) f.n1.isLt f.kk (intPair f) p.2 _ _).congr hmem.symm rfl rfl
    fun i j _ _ => ?_
  rw [State.tileWord_congr hmem, Nat.cast_ite, Nat.cast_zero]
  rfl

theorem tileMoves_start : TileMoves := by
  unfold TileMoves
  intro g q td ts as tag sa sh s k ent hcls hm
  extract_lets m n rows after
  refine ⟨fun h hne => h.tzero hcls hm hne, fun htag => ⟨fun h hne => h.tcopy hcls hm htag hne, fun h hne => ?_⟩,
    fun hcheck h hne => h.tload hcls hm hne hcheck⟩
  have hrows : (rows n).filter (fun i => decide (i < 128)) = rowsOf ent.rows sh.n :=
    List.filter_eq_self.2 fun i hi => decide_eq_true (lt_of_mem_rowsOf hi)
  rw [hrows] at hne ⊢
  exact h.ttrans hcls hm htag hne

/-- Settles O38: each run is a map of the tile's enabled rows, and a row's write changes its own words alone. -/
theorem matrixEntries : Obligations.MatrixEntries := ⟨matrixProducts_start, tileMoves_start⟩

end Sys2Proof.Machine

end
